-- ==== Sys2Proof/Word.lean ====
section
/-! DEFINITION. The word types of the HX9256 block: bytes, byte strings and ticks of the time base. -/

namespace Sys2Proof

/-- A byte: the smallest unit the manual addresses (R6, R7). -/
abbrev Byte := BitVec 8

/-- A string of bytes; offset 0 is the first byte transferred or stored (R7). -/
abbrev Bytes := List Byte

/-- A 16-bit status in the encoding of Table 20-6 (R481). -/
abbrev Status := BitVec 16

/-- Ticks of the 25 MHz time base, 40 ns each (R45). -/
abbrev Ticks := Nat

end Sys2Proof
end

