-- ==== Sys2Proof/Forms.lean ====
section
/-! DEFINITION. The forms of the commands' operands: packets, messages, requests and measured values as they come
from outside the block. Syntax.lean builds the commands from them. -/

namespace Sys2Proof

/-- A command packet of Table 20-4 without its OPCODE, which the command's row gives, together with what the head
finds with it: the ring it was fetched from, the next slot where AUTH is set (Table 20-8), the input in the data buffer
in the length the command defines, and whether the data buffer's accesses end in a PCI Express error (R479). -/
structure McPacket where
  fetchedFrom : Nat
  tag : BitVec 16
  flags : BitVec 8
  function : BitVec 8
  ring : BitVec 8
  dataPages : BitVec 8
  dataPtr : BitVec 64
  params : Bytes
  authBlock : Bytes
  data : Bytes
  busError : Bool
  deriving DecidableEq, Repr

/-- One packet as MCI_DOORBELL finds it in the ring: its OPCODE and the rest; `fetchError` where the fetch itself ends in
a PCI Express error (R479). -/
structure McSlot where
  opcode : BitVec 16
  pkt : McPacket
  fetchError : Bool
  deriving DecidableEq, Repr

/-- A provisional epoch reference (Table 5-3): harrow, entry and generation. -/
structure EpochRef where
  harrow : Nat
  entry : Nat
  gen : Nat
  deriving DecidableEq, Repr

/-- A ticket as its issuer writes it (Table 5-1); STAMP and slot are given when it is queued. -/
structure TicketForm where
  type : Nat
  prio : Nat
  wait : Bool
  pinned : Bool
  orderKey : Option Nat
  handles : List Nat
  args : Bytes
  deriving DecidableEq, Repr

/-- How a dispatched ticket runs: the guarded request it makes, by the code of the unit that receives it (R125); whether
it opens with the follow-on tickets it issues (R111); whether it retires within the step or is still running at its end. -/
structure TicketRun where
  guardedAt : Option Nat
  followOns : List TicketForm
  retires : Bool
  deriving DecidableEq, Repr

/-- A DMA descriptor (Table 19-2). -/
structure DmaDescriptor where
  ctrl : BitVec 32
  len : Nat
  src : BitVec 64
  dst : BitVec 64
  deriving DecidableEq, Repr

/-- A descriptor as a channel fetches it, with the ticket of a Steward channel that issued it: the unit of its harrow, its
epoch (R463, R467), and whether it serves an MCI result buffer, the one host use of a Steward channel (R468). -/
structure DmaFetch where
  desc : DmaDescriptor
  harrow : Nat
  epoch : Option EpochRef
  forMci : Bool
  deriving DecidableEq, Repr

/-- What a descriptor's transfer meets outside the engine: the bytes read from host memory for each operand, an error during
the transfer (Table 19-6: 0x08 or 0x09) with the bytes moved before it, and the descriptor of the next slot. -/
structure DmaContext where
  hostSrc : Bytes
  hostDst : Bytes
  error : Option Nat
  moved : Nat
  next : Option DmaFetch
  deriving DecidableEq, Repr

/-- A cipher request (Table 8-1). -/
structure CipherRequest where
  latency : Bool
  aadUnits : Nat
  keySlot : Nat
  src : Nat
  dst : Nat
  aad : Nat
  len : Nat
  iv : Bytes
  deriving DecidableEq, Repr

/-- Why a frame is discarded (R244-R246). -/
inductive Discard where
  | duplicate | outOfOrder | corrupt | uncredited
  deriving DecidableEq, Repr

/-- What the block of a bridge answers to reads in the step: the reports of the codewords of its plots, by their number in the plot, 0
where the list ends (Table 10-8), and whether the read timeout wins (R43). -/
structure PlotFact where
  bridge : Nat
  die : Nat
  block : Nat
  reports : List Nat
  late : Bool
  deriving DecidableEq, Repr

/-- What reads of a step meet outside the tables: the plots that do not answer cleanly, how many decryptions in a row end in
ST_CIPHER_FAULT, the status that a faulty decoder reports for each decode in turn, the PAGE_IDs of map and location pages that media
cannot give back (R91, R108), and how many decryptions in a row a vault alarm ends with ST_ABORTED (R99). -/
structure MediaFacts where
  plots : List PlotFact
  cipherFaults : Nat
  decoder : List (Option Nat)
  lostPages : List Nat
  aborted : Nat
  deriving DecidableEq, Repr

/-- Reads that meet nothing out of the ordinary. -/
def MediaFacts.quiet : MediaFacts := { plots := [], cipherFaults := 0, decoder := [], lostPages := [], aborted := 0 }

/-! ## Start-up (21) -/

/-- How a start-up step ends, and what its actor finds outside the head's own tables; each step reads its own fields. -/
structure StepReport where
  /-- RESULT of its DONE entry (R505) -/
  result : BitVec 16
  /-- 0x05: far-store capacity in bytes by R419, and whether every channel is populated alike -/
  farBytes : Nat
  uniform : Bool
  /-- 0x07: units that fail their self-test: tines, compressors and decompressors as 3 × harrow + engine, AES cores -/
  badTines : List Nat
  badCompressors : List Nat
  badDecompressors : List Nat
  badCores : List Nat
  /-- 0x0C: what the other head's newest checkpoint holds beyond this head's own, as journal records back to back -/
  records : Bytes
  /-- 0x0D: payloads that the peer's mirror buffer still holds, by the JSEQ of their BUFFERED record (R235) -/
  mirrored : List (Nat × Bytes)
  /-- what the reads of steps 0x0C and 0x0D meet on media -/
  facts : MediaFacts
  /-- 0x11: the array-scope values of a sole head: ID, INDEX and value (R493) -/
  arrayParams : List (Nat × Nat × Bytes)
  deriving DecidableEq, Repr

/-! ## Front ports (14) -/

/-- What stands before the content of a received frame: logical port, VLAN tag (identifier, PCP), destination and source MAC address
(R333). -/
structure FrameHead where
  lport : Nat
  vlan : Option (Nat × Nat)
  dest : Nat
  source : Nat
  deriving DecidableEq, Repr

/-- A received frame up to its base transport header: logical port, VLAN tag (identifier, PCP), destination MAC address
(R333), DSCP, the CE mark, whether the header checksum and ICRC verify, bytes on the wire, the
occupancy of its priority's share of the receive buffer with this frame in it (R336), destination QPN, PSN and AckReq. -/
structure RoceHead where
  lport : Nat
  vlan : Option (Nat × Nat)
  dest : Nat
  dscp : Nat
  ce : Bool
  intact : Bool
  wire : Nat
  occupancy : Nat
  qpn : Nat
  psn : Nat
  ackReq : Bool
  deriving DecidableEq, Repr

/-- Where a packet stands in its message (Table 14-4). -/
inductive MsgPos where
  | first | middle | last | only
  deriving DecidableEq, Repr

/-- What an acknowledge packet says (R341-R343): ACK, RNR NAK with its timer code, or a NAK. -/
inductive AckKind where
  | ack
  | rnr (timer : Nat)
  | sequenceError
  | invalidRequest
  | remoteAccess
  | remoteOperational
  deriving DecidableEq, Repr

/-- The RETH of a First or Only packet of an RDMA WRITE: offset in the zone, remote key, DMA length (R352, R353). -/
structure WriteHeader where
  offset : Nat
  key : Nat
  length : Nat
  deriving DecidableEq, Repr

/-- A packet by its opcode (Table 14-4). -/
inductive RoceBody where
  | send (pos : MsgPos) (payload : Bytes)
  | sendInvalidate (pos : MsgPos) (key : Nat) (payload : Bytes)
  | write (pos : MsgPos) (header : Option WriteHeader) (payload : Bytes)
  | readRequest
  | readResponse (pos : MsgPos) (payload : Bytes)
  | ack (kind : AckKind)
  | cnp
  | other (opcode : Nat)
  deriving DecidableEq, Repr

/-- A connection request as it arrives (R344, R345): where, from which address to which, service ID, the sender's
communication ID and QPN, its starting PSN, the MTU it offers in bytes, transport (0 RC), response timeout code, private data. -/
structure CmRequest where
  lport : Nat
  fromAddr : Nat
  toAddr : Nat
  service : Nat
  commId : Nat
  qpn : Nat
  psn : Nat
  mtu : Nat
  transport : Nat
  timeout : Nat
  privData : Bytes
  deriving DecidableEq, Repr

/-- A connection reply as it arrives: the head's communication ID and the sender's, its QPN, PSN, MTU and private data. -/
structure CmReply where
  commId : Nat
  remoteId : Nat
  qpn : Nat
  psn : Nat
  mtu : Nat
  privData : Bytes
  deriving DecidableEq, Repr

/-! ## Electrical and thermal (25) -/

/-- Means over a window of thermal policy, in 1/8 °C: of TJ_MAX, and of the hottest sensor of each quadrant (R568). -/
structure ThermalMeans where
  tjMax : Int
  tjQ : List Int
  deriving DecidableEq, Repr

/-- What the sensors and monitors read at a refresh: temperatures in 1/8 °C, module power in mW, VCORE in mV (Table 25-7). -/
structure Readings where
  tjQ : List Int
  tempHbm : List Int
  tempVault : Int
  powerMw : Nat
  vcoreMv : Nat
  deriving DecidableEq, Repr

/-- The supplies of Table 25-1. -/
inductive Supply where
  | vcore | vsram | vddSd | vddhSd | vddHbm | vddqHbm | vddqDdr | vio | vaux
  deriving DecidableEq, Repr

/-- An error that a patrol scrub of near store meets: its address, whether it was corrected, and what the head keeps at that place: a
cached far-store line in the victim region, a cached chunk and generation in the read cache, a spilled ticket in the spill area. -/
structure NearError where
  addr : Nat
  corrected : Bool
  line : Nat
  chunk : Nat
  gen : Nat
  ticket : Nat
  deriving DecidableEq, Repr

/-- An error that a patrol scrub of far store meets: its address, and whether it was corrected. -/
structure FarError where
  addr : Nat
  corrected : Bool
  deriving DecidableEq, Repr

end Sys2Proof
end

