-- ==== Sys2Proof/Syntax.lean ====
section
/-! DEFINITION. The commands the block takes: one constructor per row of the opcode table. -/

namespace Sys2Proof

/-- A command of the block. Each constructor is the row of the opcode table that LAWS.json maps it to. -/
inductive Instr where
  /-- POWER_ON_RESET, R503: A reset with a supply below range clears the time base, raises the power-cycle count,
  samples HEAD_ID and enters BOOT. -/
  | powerOnReset (held : Bool) (strap : Bool)
  /-- PIN_RESET, R503: RESET_N held low for 1 µs or longer with all supplies in range resets the head into BOOT; the
  time base keeps running. -/
  | pinReset (held : Bool) (strap : Bool)
  /-- SELF_RESET, R503: Steward or the loader resets the head into BOOT on a trigger of Table 21-2. -/
  | selfReset
  /-- PERST_N, R504: PERST_N returns the PCI Express endpoint and BAR0 to reset, disables every MCI ring and every
  control-host DMA channel. -/
  | perstN (low : Bool)
  /-- BOOT_STEP_DONE, R505: A start-up step ends; its DONE entry is written and the next step begins, is retried,
  takes an alternate, or RECOVERY is entered. -/
  | bootStepDone (report : StepReport)
  /-- BOOT_WATCHDOG, R507: The bound of a start-up step passes without a DONE entry and the boot watchdog makes a self
  reset. -/
  | bootWatchdog
  /-- PWRFAIL_ACCEPT, R513: Fifty consecutive low samples of PWRFAIL_N accept the power failure and start DUMP or a
  quiet stop. -/
  | pwrfailAccept
  /-- PWRFAIL_N_RISE, R513: PWRFAIL_N rises; a shorter low run is ignored and counted as a glitch. -/
  | pwrfailNRise
  /-- PWRFAIL_HIGH_TIMER, R501: PWRFAIL_N has stayed high for 100 ms after DUMP_END or a quiet stop, and the head
  makes a self reset into BOOT. -/
  | pwrfailHighTimer
  /-- DUMP_END_COMMITTED, R234: The DUMP_END record commits, and the head releases its leases and powers down its
  SerDes. -/
  | dumpEndCommitted
  /-- PACE_WINDOW, R30: A 25,000-tick pace measurement window ends, and the head updates the pace words and the pace
  band. -/
  | paceWindow (counts : List Nat)
  /-- TIME_MARK_TIMER, R49: Every 60 s the head persists operating hours and array time in a TIME_MARK record. -/
  | timeMarkTimer
  /-- TICKET_DISPATCH, R114: A free tine takes the oldest eligible ticket of its harrow's highest-priority queue,
  subject to the minimum shares. -/
  | ticketDispatch (tine : Nat) (run : TicketRun)
  /-- GLEAN, R119: An idle tine searches within GLEAN_RADIUS and takes the newest eligible unpinned ticket of a victim
  harrow. -/
  | glean (tine : Nat) (run : TicketRun)
  /-- TICKET_WATCHDOG, R116: A ticket runs past TICKET_RUN_LIMIT; the tine restarts and the ticket is requeued once or
  ended. -/
  | ticketWatchdog (tine : Nat)
  /-- EPOCH_COMMIT, R124: The first commit of an OPEN epoch makes its tickets and buffers real in one step; the chunk
  is committed, indexed and mapped. -/
  | epochCommit (epoch : Option EpochRef) (work : Option Nat)
  /-- EPOCH_SQUASH, R126: The first squash of an OPEN epoch tombstones its tickets, frees its provisional buffers and
  returns the reserved chunk ID. -/
  | epochSquash (epoch : EpochRef)
  /-- RUN_AHEAD_WINDOW, R81: A 1 ms squash-rate window ends and Steward halves or raises the harrow's run-ahead
  budget. -/
  | runAheadWindow
  /-- HARROW_DRAINED, R128: A DRAINING harrow has empty queues, no running ticket and no OPEN epoch, and drops to
  retention voltage. -/
  | harrowDrained (h : Nat)
  /-- PARK_DRAIN_TIMEOUT, R128: A harrow is not PARKED within PARK_DRAIN_LIMIT and returns to RUNNING. -/
  | parkDrainTimeout (h : Nat)
  /-- PARK_RETRY_TIMER, R128: PARK_DRAIN_LIMIT elapses again after an abandoned park, and the harrow re-enters
  DRAINING. -/
  | parkRetryTimer (h : Nat)
  /-- HARROW_WAKE_DONE, R128: A WAKING harrow's tines are ready and it returns to RUNNING, or to DRAINING if it was
  parked again. -/
  | harrowWakeDone (h : Nat)
  /-- GRAIN_COMPOSITION, R70: A grain's base and its BUFFERED records are composed, and the composition is committed
  or squashed by the supersede check. -/
  | grainComposition (ns : Nat) (grain : Nat) (harrow : Nat) (facts : MediaFacts)
  /-- CHUNK_CUT, R55: The content-defined chunker cuts the next chunk of an object. -/
  | chunkCut (object : Nat) (harrow : Nat)
  /-- FINGERPRINT, R72: A chunk is fingerprinted with SHA-256 over the domain salt, and run-ahead starts if the budget
  allows. -/
  | fingerprint (work : Nat)
  /-- DEDUP_LOOKUP, R73: The lookup runs through Winnow, the summary filter and the index page, and decides hit or
  miss. -/
  | dedupLookup (work : Nat) (falsePositive : Bool) (facts : MediaFacts)
  /-- BALE_SEAL_TIMEOUT, R85: The oldest record of an open bale reaches BALE_SEAL_TIME, and the bale is sealed and its
  plots written. -/
  | baleSealTimeout (acre : Nat) (bale : Nat)
  /-- BALE_COMMIT, R85: Every plot of a sealed bale is reported programmed, and the bale commits. -/
  | baleCommit (acre : Nat) (bale : Nat)
  /-- JOURNAL_PERSIST_TIMEOUT, R86: The oldest unpersisted journal record reaches JOURNAL_PERSIST_TIME and a journal
  page is written. -/
  | journalPersistTimeout
  /-- METADATA_ROW_COMMIT, R206: Every segment of a metadata row is programmed; its journal pages and units are
  persisted. -/
  | metadataRowCommit (row : Nat)
  /-- CHECKPOINT_TIMER, R87: 60 s after the previous checkpoint, the head checkpoints dirty map pages. -/
  | checkpointTimer
  /-- ADMISSION_RESUME, R63: The write-buffer fill falls 5 points below WB_HIGH_WATER and admission of write data
  resumes. -/
  | admissionResume
  /-- READ_TIMEOUT_EXPIRY, R43: A DIE_READ's READ_TIMEOUT wins its race; the plot read fails and the chunk is rebuilt
  from its bale. -/
  | readTimeoutExpiry (quadrant : Nat) (entry : Nat) (facts : MediaFacts)
  /-- SEARCH, R141: A Winnow bank slot serves a search and returns the winner, count and data. -/
  | search (table : Nat) (mask : Nat) (key : BitVec 192) (nocount : Bool) (badParity : Nat)
  /-- INSERT, R142: A Winnow bank slot replaces, fills or evicts an entry with a new key. -/
  | insert (table : Nat) (key : BitVec 192) (data : Nat) (ticket : Option EpochRef)
  /-- WINNOW_DELETE, R140: A Winnow bank slot invalidates every entry that matches under the named mask. -/
  | winnowDelete (table : Nat) (mask : Nat) (key : BitVec 192) (ticket : Option EpochRef)
  /-- AGE, R149: A Winnow bank slot halves the HITS of every entry of the bank. -/
  | age (bank : Nat)
  /-- CLEAR, R143: A Winnow bank slot invalidates every entry of the bank. -/
  | clear (bank : Nat)
  /-- WINNOW_AGE_TIMER, R149: Every WINNOW_AGE_INTERVAL a HOUSEKEEP ticket issues AGE to each bank of table 0. -/
  | winnowAgeTimer
  /-- WINNOW_REBUILD, R148: After INVENTORY, HOUSEKEEP tickets refill table 0 from the index pages up to
  WINNOW_REBUILD_FILL. -/
  | winnowRebuild
  /-- WINNOW_TABLE_GET, R150: Returns a table's descriptor and number of valid entries. -/
  | winnowTableGet (p : McPacket)
  /-- WINNOW_TABLE_SET, R137: Sets a table descriptor after the overlap and width checks, under quiesce. -/
  | winnowTableSet (p : McPacket)
  /-- WINNOW_MASK_SET, R139: Sets global mask 1 to 15 of a table. -/
  | winnowMaskSet (p : McPacket)
  /-- WINNOW_SEARCH, R150: Runs a diagnostic NOCOUNT search and returns the result. -/
  | winnowSearch (p : McPacket)
  /-- WINNOW_READ, R150: Returns the key, data, HITS and VALID of one entry. -/
  | winnowRead (p : McPacket)
  /-- WINNOW_CLEAR, R150: Clears a table, which then refills. -/
  | winnowClear (p : McPacket)
  /-- WINNOW_STATS, R151: Returns the counters of a table. -/
  | winnowStats (p : McPacket)
  /-- VOXCA_COMPRESS, R162: A compressor engine compresses a chunk at a level, or abandons it at the size limit. -/
  | voxcaCompress (harrow : Nat) (engine : Nat) (work : Nat) (fault : Option Bytes)
  /-- VOXCA_VERIFY, R164: The engine's verifier decodes a finished stream and compares it with the plaintext; a
  failure stores the chunk raw. -/
  | voxcaVerify (work : Nat)
  /-- VOXCA_DECOMPRESS, R167: A decompressor decodes a stream up to the stop offset and reports its VX_STATUS. -/
  | voxcaDecompress (harrow : Nat) (engine : Nat) (stream : Bytes) (stop : Option Nat) (fault : Option Nat)
  /-- GCM_ENCRYPT, R178: A cipher request encrypts on a core pair and checks both outputs. -/
  | gcmEncrypt (tine : Nat) (unit : Nat) (epoch : Option EpochRef) (req : CipherRequest)
  /-- GCM_DECRYPT, R178: A cipher request decrypts on core A and re-encrypts on core B to check the result and the
  tag. -/
  | gcmDecrypt (tine : Nat) (unit : Nat) (epoch : Option EpochRef) (req : CipherRequest)
  /-- HMAC, R178: Two SHA-256 units compute HMAC-SHA-256 and their results are compared. -/
  | hmac (tine : Nat) (unit : Nat) (epoch : Option EpochRef) (req : CipherRequest)
  /-- CIPHER_COMPLETION, R179: Both cores of a pair finish; the scheduler releases or withholds DST and writes the
  completion word. -/
  | cipherCompletion (job : Nat) (agree : Bool)
  /-- SLOT_LOAD_DONE, R184: A working-slot load writes all four copies and sets the slot VALID. -/
  | slotLoadDone (slot : Nat)
  /-- SLOT_EVICT_DONE, R184: An EVICTING working slot reaches REFS zero and becomes EMPTY. -/
  | slotEvictDone (slot : Nat)
  /-- VAULT_ALARM_SUPPLY, R190: A VAUX or VCORE glitch zeroes the gauntlet slots and latches SUPPLY. -/
  | vaultAlarmSupply
  /-- VAULT_ALARM_TEMP, R190: The vault sensor leaves −30 to 125 °C, and the gauntlet slots are zeroed. -/
  | vaultAlarmTemp
  /-- VAULT_ALARM_MESH, R190: A shield-mesh open or short zeroes the gauntlet slots and every working slot. -/
  | vaultAlarmMesh
  /-- VAULT_ALARM_TAMPER, R190: TAMPER_N low for 1 µs zeroes the gauntlet slots and every working slot. -/
  | vaultAlarmTamper
  /-- VAULT_ALARM_CHECK, R190: The vault's two engines disagree, and the gauntlet slots are zeroed. -/
  | vaultAlarmCheck
  /-- VAUX_LOSS, R189: VAUX falls below 2.0 V and every gauntlet slot is lost. -/
  | vauxLoss
  /-- KEY_STATUS, R201: Returns VAULT_STATUS and the in-service cores per complex. -/
  | keyStatus (p : McPacket)
  /-- KEY_LOAD_GAUNTLET, R187: Unwraps a key under the fused transport key and loads a gauntlet slot. -/
  | keyLoadGauntlet (p : McPacket) (alarmWins : Bool)
  /-- KEY_CLEAR_GAUNTLET, R201: Clears the gauntlet slots of a mask. -/
  | keyClearGauntlet (p : McPacket)
  /-- KEY_ALARM_CLEAR, R191: Clears latched VAULT_STATUS bits named in the mask. -/
  | keyAlarmClear (p : McPacket)
  /-- KEY_DOMAIN_BIND, R201: Binds a dedup domain to a key-encryption key slot. -/
  | keyDomainBind (p : McPacket)
  /-- KEY_REWRAP, R194: Rewraps every envelope of a domain under a new key-encryption key slot. -/
  | keyRewrap (p : McPacket)
  /-- KEY_EPOCH_ADVANCE, R194: The key owner creates a new data key and epoch by Table 8-9. -/
  | keyEpochAdvance (p : McPacket)
  /-- KEY_EPOCH_DESTROY, R197: Empties an unused epoch's slot, journals its destruction and relocates its envelope
  copies. -/
  | keyEpochDestroy (p : McPacket)
  /-- KEY_EPOCH_STATS, R201: Returns the current epoch and the live epochs with their chunk counts. -/
  | keyEpochStats (p : McPacket)
  /-- KEY_SLOT_INFO, R201: Returns the information word of a working slot. -/
  | keySlotInfo (p : McPacket)
  /-- KEY_HMAC, R201: Computes HMAC-SHA-256 under an array maker's gauntlet slot. -/
  | keyHmac (p : McPacket)
  /-- CIPHER_STATS, R202: Returns the counters of a cipher complex. -/
  | cipherStats (p : McPacket)
  /-- KEY_LOAD_ACK_TIMEOUT, R194: The peer gives no KEY_LOAD_ACK within 1 ms of an epoch advance, and the owner
  retires the new epoch. -/
  | keyLoadAckTimeout (domain : Nat) (epoch : Nat)
  /-- RECLAIM_VICTIM, R216: The reclaimer chooses a victim acre by class and score and sets it RECLAIMING. -/
  | reclaimVictim (facts : MediaFacts)
  /-- SCRUB_TIMER, R224: A SCRUB_INTERVAL pass reads every committed plot and marks weak bales for relocation. -/
  | scrubTimer (facts : MediaFacts)
  /-- BRIDGE_LOST_TIMER, R226: A bridge's link stays down on both heads for longer than a lease period and the bridge
  becomes LOST. -/
  | bridgeLostTimer (bridge : Nat)
  /-- READONLY_EXIT, R231: F rises above RECLAIM_URGENT with enough bridges online, and the head leaves READONLY. -/
  | readonlyExit
  /-- TEMP_HIST_HOUR, R232: Each hour, the head adds that hour's mean bridge temperature to the temperature histogram. -/
  | tempHistHour
  /-- MEDIA_GEOMETRY_GET, R236: Returns the geometry and the per-stream acre counts. -/
  | mediaGeometryGet (p : McPacket)
  /-- MEDIA_GEOMETRY_SET, R203: Sets the geometry of new acres. -/
  | mediaGeometrySet (p : McPacket)
  /-- MEDIA_HEALTH_ARRAY, R236: Returns the array health record. -/
  | mediaHealthArray (p : McPacket)
  /-- MEDIA_HEALTH_BRIDGE, R236: Returns bridge health records. -/
  | mediaHealthBridge (p : McPacket)
  /-- MEDIA_HEALTH_DIE, R236: Returns die health records. -/
  | mediaHealthDie (p : McPacket)
  /-- RECLAIM_STATUS, R238: Returns F, the victims in progress and the reclaim counters. -/
  | reclaimStatus (p : McPacket)
  /-- SCRUB_START, R224: Starts an immediate scrub pass over the bridges of a mask. -/
  | scrubStart (p : McPacket) (facts : MediaFacts)
  /-- BRIDGE_SET, R209: Sets a bridge's preferred owner and fault domain. -/
  | bridgeSet (p : McPacket)
  /-- DIE_RETIRE, R226: Puts a die into EVACUATING and then RETIRED. -/
  | dieRetire (p : McPacket)
  /-- BRIDGE_RETIRE, R226: Puts a bridge into EVACUATING and then RETIRED. -/
  | bridgeRetire (p : McPacket)
  /-- FURROW_TRAIN_TIMEOUT, R241: A training bound is missed and training restarts; the third failure makes the link
  DOWN. -/
  | furrowTrainTimeout (bridge : Nat)
  /-- FURROW_TRAINING_DONE, R241: Training completes; the link comes up and held commands are sent. -/
  | furrowTrainingDone (bridge : Nat) (preset : Nat) (version : Nat) (credits : Nat)
  /-- FURROW_RETRAIN_RETRY, R241: Every 1 s the head tries again to train a DOWN Furrow link. -/
  | furrowRetrainRetry (bridge : Nat)
  /-- FURROW_LINK_FRAME, R246: A LINK frame arrives and its acknowledgement, credit or NAK is applied. -/
  | furrowLinkFrame (bridge : Nat) (nak : Bool) (ack : Option Nat) (credit : Nat)
  /-- FURROW_REPLAY_TIMEOUT, R247: No acknowledgement advances for 20 µs; unacknowledged frames are sent again, and
  after 8 replays the link retrains. -/
  | furrowReplayTimeout (bridge : Nat)
  /-- BRIDGE_IDENTIFY, R248: The bridge returns its identity record. -/
  | bridgeIdentify (bridge : Nat) (port : Nat) (tag : Nat) (load : Nat)
  /-- DIE_READ, R250: The bridge reads and decodes codewords through retry levels and soft read and returns them. -/
  | dieRead (bridge : Nat) (port : Nat) (tag : Nat) (load : Nat) (addr : Nat) (count : Nat) (retryMax : Nat) (soft : Bool) (reports : List Nat) (fault : Bool)
  /-- DIE_PROGRAM, R249: The bridge checks the lease and programs codewords in order. -/
  | dieProgram (bridge : Nat) (port : Nat) (tag : Nat) (load : Nat) (now : Nat) (addr : Nat) (data : List Bytes) (done : Nat) (fault : Bool)
  /-- DIE_ERASE, R254: The bridge checks the lease and erases a block. -/
  | dieErase (bridge : Nat) (port : Nat) (tag : Nat) (load : Nat) (now : Nat) (addr : Nat) (us : Nat) (ok : Bool) (fault : Bool)
  /-- STATUS, R248: The bridge returns its lease register, die busy bits, temperature and command counts. -/
  | status (bridge : Nat) (port : Nat) (tag : Nat) (now : Nat) (dieBusy : Nat) (temp : BitVec 8) (cmds0 : Nat) (cmds1 : Nat)
  /-- TELEMETRY, R251: The bridge returns a telemetry page. -/
  | telemetry (bridge : Nat) (port : Nat) (tag : Nat) (load : Nat) (page : Nat) (start : Nat) (dies : List (BitVec 8 × Bool))
  /-- LEASE_ACQUIRE, R253: The bridge grants, renews or refuses the lease to a port. -/
  | leaseAcquire (bridge : Nat) (port : Nat) (tag : Nat) (load : Nat) (leaseMs : Nat) (now : Nat)
  /-- LEASE_RENEW, R253: The bridge restarts the owner's lease window, or refuses with ST_LEASE_LOST. -/
  | leaseRenew (bridge : Nat) (port : Nat) (tag : Nat) (load : Nat) (leaseMs : Nat) (now : Nat)
  /-- LEASE_RELEASE, R254: The bridge ends the lease once the commands accepted under it have finished. -/
  | leaseRelease (bridge : Nat) (port : Nat) (tag : Nat) (load : Nat) (now : Nat)
  /-- FENCE, R257: The bridge completes once earlier commands to the named dies have finished. -/
  | fence (bridge : Nat) (port : Nat) (tag : Nat) (load : Nat) (dieMask : Nat) (bothPorts : Bool)
  /-- LEASE_EXPIRY, R253: A lease window ends at the bridge; OWNER becomes none and EXPIRED is set. -/
  | leaseExpiry (bridge : Nat) (now : Nat)
  /-- FURROW_RESPONSE, R248: A response message arrives at the head and completes its command, or is discarded if late
  or of an unknown tag. -/
  | furrowResponse (bridge : Nat) (frames : List Bytes)
  /-- FURROW_RESPONSE_TIMEOUT, R258: A program, erase or other command's response timer expires, and the fault is
  handled by Table 10-12. -/
  | furrowResponseTimeout (bridge : Nat) (tag : Nat)
  /-- LEASE_RENEW_TIMER, R256: Every LEASE_PERIOD/5 the supervisor renews the head's leases. -/
  | leaseRenewTimer
  /-- LEASE_WINDOW_END, R256: The head's own lease window ends, and it issues no further program or erase on that
  bridge. -/
  | leaseWindowEnd (bridge : Nat)
  /-- LEASE_ACQUIRE_RETRY, R321: At the expiry that REMAIN reported, the head retries LEASE_ACQUIRE on a bridge. -/
  | leaseAcquireRetry (bridge : Nat)
  /-- FURROW_STATUS, R260: Returns per-link state and counters. -/
  | furrowStatus (p : McPacket)
  /-- SNAP_CREATE, R288: The owner stamps a barrier in every sequencer and waits for pre-barrier records to commit. -/
  | snapCreate (p : McPacket)
  /-- SNAP_BARRIER_DRAINED, R288: Every pre-barrier record is committed, and the SNAPSHOT record is placed and the
  reply sent. -/
  | snapBarrierDrained (job : Nat)
  /-- SNAP_DELETE, R291: Places a SNAPSHOT delete record and completes. -/
  | snapDelete (p : McPacket)
  /-- SNAP_DELETE_PAGE, R291: A HOUSEKEEP ticket settles one map page of a deleted snapshot and its references. -/
  | snapDeletePage (ns : Nat) (snapshot : Nat) (page : Nat)
  /-- SNAP_LIST, R305: Returns snapshot entries. -/
  | snapList (p : McPacket)
  /-- SNAP_EXPOSE, R293: Presents a namespace snapshot as a read-only namespace. -/
  | snapExpose (p : McPacket)
  /-- SNAP_WITHDRAW, R293: Withdraws an exposed snapshot. -/
  | snapWithdraw (p : McPacket)
  /-- REPL_PAIR, R296: Creates a replication pair record on the sending array. -/
  | replPair (p : McPacket)
  /-- REPL_ACCEPT, R294: Designates a replication target on the receiving array. -/
  | replAccept (p : McPacket)
  /-- REPL_START, R296: Raises the session number, persists it and opens a replication session. -/
  | replStart (p : McPacket)
  /-- REPL_STATUS, R305: Returns the state of a replication pair. -/
  | replStatus (p : McPacket)
  /-- REPL_STOP, R300: Ends a replication session. -/
  | replStop (p : McPacket)
  /-- REPL_UNPAIR, R296: Ends a replication pair. -/
  | replUnpair (p : McPacket)
  /-- HELLO, R296: The responder checks the initiator's identity and slot and answers HELLO_REPLY. -/
  | hello (qp : Nat) (frame : Bytes)
  /-- HELLO_REPLY, R296: The initiator derives the session key and sends CONFIRM. -/
  | helloReply (qp : Nat) (frame : Bytes)
  /-- CONFIRM, R296: Each side checks the tag and both nonces. -/
  | confirm (qp : Nat) (frame : Bytes)
  /-- DIFF_BEGIN, R297: The receiver checks salt, base and target and answers DIFF_READY. -/
  | diffBegin (qp : Nat) (frame : Bytes)
  /-- DIFF_READY, R299: The sender starts batches from RESUME_BATCH. -/
  | diffReady (qp : Nat) (frame : Bytes)
  /-- FP_LIST, R298: The receiver looks up each fingerprint of a batch and answers FP_WANT. -/
  | fpList (qp : Nat) (frame : Bytes)
  /-- FP_WANT, R298: The sender sends CHUNK_DATA for each requested entry and then BATCH_END. -/
  | fpWant (qp : Nat) (frame : Bytes) (facts : MediaFacts)
  /-- CHUNK_DATA, R298: The receiver checks and ingests a chunk. -/
  | chunkData (qp : Nat) (frame : Bytes)
  /-- BATCH_END, R298: The receiver maps the batch and answers BATCH_DONE. -/
  | batchEnd (qp : Nat) (frame : Bytes)
  /-- BATCH_DONE, R298: The sender moves on, or resends chunks asked for again. -/
  | batchDone (qp : Nat) (frame : Bytes) (facts : MediaFacts)
  /-- OBJECT_BEGIN, R297: The receiver starts an object version of the diff. -/
  | objectBegin (qp : Nat) (frame : Bytes)
  /-- DIFF_END, R299: The receiver creates a local snapshot and answers DIFF_DONE. -/
  | diffEnd (qp : Nat) (frame : Bytes)
  /-- DIFF_DONE, R299: The sender records the completed diff. -/
  | diffDone (qp : Nat) (frame : Bytes)
  /-- KEEPALIVE, R300: A replication keepalive frame restarts the idle timer. -/
  | keepalive (qp : Nat) (frame : Bytes)
  /-- REPL_ABORT, R300: An ABORT frame ends the replication session. -/
  | replAbort (qp : Nat) (frame : Bytes)
  /-- REPL_KEEPALIVE_TIMER, R300: A side that has sent no frame for 5 s sends KEEPALIVE. -/
  | replKeepaliveTimer (qp : Nat)
  /-- REPL_IDLE_TIMEOUT, R300: No frame arrives within REPL_IDLE_TIMEOUT, and the session ends with REPL_TIMEOUT. -/
  | replIdleTimeout (qp : Nat)
  /-- MIGRATE_EXPORT, R301: Starts streaming one scope in the export format over 1 to 16 lanes. -/
  | migrateExport (p : McPacket)
  /-- MIGRATE_STATUS, R305: Returns an export's state. -/
  | migrateStatus (p : McPacket)
  /-- MIGRATE_STOP, R305: Stops an export. -/
  | migrateStop (p : McPacket)
  /-- EXPORT_STALL_TIMEOUT, R302: No lane advances for EXPORT_STALL_TIMEOUT, and the export ends with ST_ABORTED. -/
  | exportStallTimeout (number : Nat)
  /-- HEADLAND_TRAIN_TIMEOUT, R308: A sub-link training bound is missed; after three failures the sub-link is DOWN. -/
  | headlandTrainTimeout (sub : Nat) (miswired : Bool)
  /-- HEADLAND_RETRAIN_RETRY, R315: Every 1 s the head retries training a DOWN sub-link. -/
  | headlandRetrainRetry (sub : Nat)
  /-- HEADLAND_LINK_FRAME, R308: A Headland LINK frame arrives and its acknowledgement, credit or NAK is applied. -/
  | headlandLinkFrame (sub : Nat) (nak : Bool) (ack : Option Nat) (credit : Nat)
  /-- HEADLAND_REPLAY_TIMEOUT, R308: The 4 µs replay timer expires and unacknowledged frames are sent again. -/
  | headlandReplayTimeout (sub : Nat)
  /-- HEARTBEAT_TIMER, R316: Every 100 µs the head sends HEARTBEAT on every UP sub-link. -/
  | heartbeatTimer
  /-- HEARTBEAT, R316: A heartbeat updates presence, raises sequences, adjusts array time and releases mirror resends. -/
  | heartbeat (sub : Nat) (frames : List Bytes)
  /-- HEARTBEAT_LOSS, R321: No heartbeat within HEARTBEAT_LOSS intervals; the peer is absent and the head acquires its
  leases. -/
  | heartbeatLoss
  /-- INVENTORY, R323: The INVENTORY message is checked for head number, survivor setting and bridge identities. -/
  | inventory (sub : Nat) (frames : List Bytes)
  /-- ACTIVE_READY, R323: The peer's ACTIVE_READY lets the head enter ACTIVE. -/
  | activeReady (sub : Nat) (frames : List Bytes)
  /-- MIRROR, R312: The peer stores a mirror message in its mirror buffer and answers MIRROR_ACK. -/
  | mirror (sub : Nat) (frames : List Bytes)
  /-- MIRROR_ACK, R312: An acknowledged mirror makes writes acknowledgeable, or a no-room answer waits for space. -/
  | mirrorAck (sub : Nat) (frames : List Bytes)
  /-- MIRROR_TIMEOUT, R313: The mirror timer wins; Headland is degraded and the message is sent again on the next sub-
  link. -/
  | mirrorTimeout (mseq : Nat)
  /-- MIRROR_GIVEUP, R313: No mirror attempt is acknowledged within MIRROR_GIVEUP; the head stops heartbeats and
  disables its transmitters. -/
  | mirrorGiveup (mseq : Nat)
  /-- TX_DISABLE_END, R313: The 10 ms transmitter disable of a mirror give-up ends. -/
  | txDisableEnd
  /-- HEADLAND_DEGRADE_CLEAR, R315: 1 s passes without a mirror timer win and the Headland link returns to UP. -/
  | headlandDegradeClear
  /-- RELEASE, R314: The peer releases the mirror copies of the named BUFFERED records. -/
  | release (sub : Nat) (frames : List Bytes)
  /-- RESYNC_BEGIN, R325: The returning head starts receiving the resynchronisation. -/
  | resyncBegin (sub : Nat) (frames : List Bytes)
  /-- RESYNC_END, R325: Once every resync message is stored, the returning head answers with STATUS 0x0003. -/
  | resyncEnd (sub : Nat) (frames : List Bytes)
  /-- FORWARD, R61: The owner runs a forwarded command and answers FORWARD_DONE. -/
  | forward (sub : Nat) (frames : List Bytes)
  /-- FORWARD_DONE, R61: The receiving head completes the forwarded command with the owner's status. -/
  | forwardDone (sub : Nat) (frames : List Bytes) (bad : List Nat)
  /-- KEY_LOAD, R185: The peer loads the same working slot from the envelope and acknowledges. -/
  | keyLoad (sub : Nat) (frames : List Bytes)
  /-- KEY_LOAD_ACK, R194: The owner continues, or retires the epoch on a failed acknowledgement. -/
  | keyLoadAck (sub : Nat) (frames : List Bytes)
  /-- ID_BLOCK_REQ, R310: The peer grants half of its free chunk-ID blocks. -/
  | idBlockReq (sub : Nat) (frames : List Bytes)
  /-- ID_BLOCK_GRANT, R310: The head journals and takes the granted chunk-ID blocks. -/
  | idBlockGrant (sub : Nat) (frames : List Bytes)
  /-- ERASE_REQ, R210: The peer erases a block of an acre on a bridge it leases and reports the result. -/
  | eraseReq (sub : Nat) (frames : List Bytes)
  /-- ERASE_DONE, R210: The reclaimer records the peer's erase result. -/
  | eraseDone (sub : Nat) (frames : List Bytes)
  /-- DRAIN_REQ, R219: The peer applies the acre's RELOCATE records and, once none of its reads of the acre is in
  flight, replies. -/
  | drainReq (sub : Nat) (frames : List Bytes)
  /-- DRAIN_REPLY, R219: The reclaimer moves the acre to ERASING. -/
  | drainReply (sub : Nat) (frames : List Bytes)
  /-- YIELD_NOTICE, R318: The survivor enters SOLE and acquires every bridge it does not lease. -/
  | yieldNotice (sub : Nat) (frames : List Bytes)
  /-- YIELD_IN_N_ASSERTED, R317: An asserted YIELD_IN_N is taken as the peer claiming no lease, and the survivor
  proceeds as on YIELD_NOTICE. -/
  | yieldInNAsserted (low : Bool)
  /-- YIELD_LEASES_RELEASED, R318: Every lease release of a yielding head completes; it asserts YIELD_OUT_N, closes
  queue pairs and restarts. -/
  | yieldLeasesReleased
  /-- TAKEOVER_ADOPT, R319: Every bridge is acquired; the survivor applies the peer's journal tail, adopts its mirror
  content and owns everything. -/
  | takeoverAdopt (tail : Bytes)
  /-- HANDOFF, R325: A bridge released or acquired, or return complete, moves the return forward. -/
  | handoff (sub : Nat) (frames : List Bytes)
  /-- RETURN_REQ, R325: The sole head answers RETURN_GRANT and both enter RETURN. -/
  | returnReq (sub : Nat) (frames : List Bytes)
  /-- RETURN_GRANT, R325: The returning head enters RETURN. -/
  | returnGrant (sub : Nat) (frames : List Bytes)
  /-- IMAGE_REQ, R547: Steward answers with IMAGE_DATA from its image area. -/
  | imageReq (sub : Nat) (frames : List Bytes)
  /-- IMAGE_DATA, R547: The loader takes manifest or pieces of the peer's image. -/
  | imageData (sub : Nat) (frames : List Bytes)
  /-- SUPERVISOR_DEADLINE, R318: The supervisor ticket misses its 10 ms deadline; twice in a row is a yield cause. -/
  | supervisorDeadline (missed : Bool)
  /-- ECC_WINDOW, R318: A 1 s window of corrected near-store and far-store errors ends; ten over the limit is an ECC
  storm. -/
  | eccWindow (near : Nat) (far : Nat)
  /-- HEADLAND_WAIT_EXPIRY, R324: No peer appears within HEADLAND_WAIT and the head acquires every free bridge. -/
  | headlandWaitExpiry
  /-- HOLD_DOWN_EXPIRY, R325: HOLD_DOWN of clean health passes and the returning head asks to return. -/
  | holdDownExpiry
  /-- HEADLAND_STATUS, R329: Returns sub-link states, the peer's mode and the Headland counters. -/
  | headlandStatus (p : McPacket)
  /-- RETURN_CONTROL_AUTO_ON, R329: Sets RETURN_AUTO to 1 and clears the return disable. -/
  | returnControlAutoOn (p : McPacket)
  /-- RETURN_CONTROL_AUTO_OFF, R329: Sets RETURN_AUTO to 0. -/
  | returnControlAutoOff (p : McPacket)
  /-- RETURN_CONTROL_END_HOLD, R329: Ends the hold-down at once. -/
  | returnControlEndHold (p : McPacket)
  /-- RETURN_CONTROL_YIELD, R329: Makes the head yield with cause 0x0008. -/
  | returnControlYield (p : McPacket)
  /-- SUB_PORT_UP, R332: A sub-port's PCS aligns and FEC locks; the port comes UP and probes for address conflicts. -/
  | subPortUp (lport : Nat)
  /-- SUB_PORT_DOWN, R332: A sub-port loses alignment or FEC lock and goes DOWN. -/
  | subPortDown (lport : Nat)
  /-- PORT_LINK_DOWN, R362: A sub-port has stayed DOWN for 10 ms and the event is raised. -/
  | portLinkDown (lport : Nat)
  /-- ARP_REQUEST, R334: The head answers an ARP request for its address. -/
  | arpRequest (head : FrameHead) (sender : Nat) (target : Nat)
  /-- NEIGHBOUR_SOLICITATION, R334: The head answers an IPv6 neighbour solicitation for its address. -/
  | neighbourSolicitation (head : FrameHead) (sender : Nat) (target : Nat)
  /-- ICMP_ECHO_REQUEST, R334: The head answers an echo request of up to 1,500 bytes. -/
  | icmpEchoRequest (head : FrameHead) (sender : Nat) (target : Nat) (payload : Bytes)
  /-- PFC_FRAME, R337: A received PFC frame pauses transmission of a priority for the given quanta. -/
  | pfcFrame (lport : Nat) (priority : Nat) (quanta : Nat)
  /-- PFC_PAUSE_END, R337: The quanta of a received pause run out and the priority transmits again. -/
  | pfcPauseEnd (lport : Nat) (priority : Nat)
  /-- PFC_REFRESH, R336: Every 0x8000 quanta the head repeats XOFF while a lossless priority stays above PFC_XON. -/
  | pfcRefresh (lport : Nat) (priority : Nat) (occupancy : Nat)
  /-- PFC_STORM_TIMER, R337: A priority paused, or sent XOFF, for PFC_STORM_TIME raises PORT_PFC_STORM or
  PORT_XOFF_LONG. -/
  | pfcStormTimer (lport : Nat) (priority : Nat) (sent : Bool)
  /-- FEC_WINDOW, R362: A 1 s window ends; more than FEC_ALARM uncorrectable codewords raise PORT_FEC_DEGRADED. -/
  | fecWindow (lport : Nat) (corrected : Nat) (uncorrectable : Nat)
  /-- CTX_PRESSURE_WINDOW, R362: A 1 s window ends; more than 10,000 MHB_FULL raise PORT_CTX_PRESSURE. -/
  | ctxPressureWindow (quadrant : Nat)
  /-- SEND, R343: A received SEND packet lands in a posted receive buffer, or draws an RNR NAK. -/
  | send (head : RoceHead) (pos : MsgPos) (payload : Bytes)
  /-- SEND_WITH_INVALIDATE, R358: A received SEND with Invalidate revokes the named landing zone and is delivered as a
  SEND. -/
  | sendWithInvalidate (head : RoceHead) (pos : MsgPos) (key : Nat) (payload : Bytes)
  /-- RDMA_WRITE, R353: A received RDMA WRITE lands in a landing zone after its key check, or draws NAK Remote Access
  Error. -/
  | rdmaWrite (head : RoceHead) (pos : MsgPos) (header : Option WriteHeader) (payload : Bytes)
  /-- RDMA_READ_REQUEST, R339: A received RDMA READ Request draws NAK Invalid Request. -/
  | rdmaReadRequest (head : RoceHead)
  /-- RDMA_READ_RESPONSE, R374: Read response data lands in Granary buffers, forming BUFFERED records that are
  mirrored. -/
  | rdmaReadResponse (head : RoceHead) (pos : MsgPos) (payload : Bytes)
  /-- ACKNOWLEDGE, R342: A received ACK or NAK retires packets, takes an RTT sample, starts a resend or puts the queue
  pair in ERROR. -/
  | acknowledge (head : RoceHead) (kind : AckKind)
  /-- CNP, R360: A received CNP cuts the queue pair's rate. -/
  | cnp (head : RoceHead)
  /-- ROCE_PACKET_OTHER, R339: A packet with an unsupported opcode draws NAK Invalid Request or is discarded. -/
  | rocePacketOther (head : RoceHead) (opcode : Nat)
  /-- RETRANSMIT_TIMER, R342: The retransmit timer wins over the ACK; the head resends go-back-N or enters ERROR after
  RETRY_COUNT. -/
  | retransmitTimer (qp : Nat)
  /-- RNR_DELAY_END, R342: The delay that an RNR NAK carried ends and the head resends. -/
  | rnrDelayEnd (qp : Nat)
  /-- ACK_COALESCE_TIMER, R341: 2 µs after the last unacknowledged packet the responder sends an ACK. -/
  | ackCoalesceTimer (qp : Nat)
  /-- CONTEXT_FETCH_DONE, R350: A missed queue-pair context arrives and its held packets are processed in order. -/
  | contextFetchDone (qp : Nat)
  /-- STUB_FETCH_DONE, R351: The reply stub arrives for a NAK order, and the head sends an RNR NAK or drops the
  packet. -/
  | stubFetchDone (quadrant : Nat)
  /-- REQ, R345: A connection request is accepted with REP or rejected with a reason. -/
  | req (request : CmRequest)
  /-- MRA, R344: A message-receipt acknowledgement is accepted. -/
  | mra (commId : Nat) (timeout : Nat)
  /-- REJ, R346: A received REJ moves the context to TIMEWAIT. -/
  | rej (commId : Nat) (reason : Nat)
  /-- REP, R344: A reply to a connection the head initiated is answered with RTU. -/
  | rep (reply : CmReply)
  /-- RTU, R346: The context becomes CONNECTED and its steering entry is inserted. -/
  | rtu (commId : Nat)
  /-- DREQ, R346: A disconnect request is answered with DREP, zones are revoked and the context moves to TIMEWAIT. -/
  | dreq (commId : Nat) (remoteId : Nat)
  /-- DREP, R346: A disconnect reply moves an ERROR context to TIMEWAIT. -/
  | drep (commId : Nat)
  /-- REP_RESEND_TIMER, R344: An unanswered REP is resent up to three times, and the context is then freed. -/
  | repResendTimer (qp : Nat)
  /-- DREQ_TIMEOUT, R346: 1 s after DREQ without DREP, the context moves to TIMEWAIT. -/
  | dreqTimeout (qp : Nat)
  /-- QP_REUSE_DELAY, R346: A TIMEWAIT context becomes FREE after QP_REUSE_DELAY. -/
  | qpReuseDelay (qp : Nat)
  /-- LZ_MSG_TIMEOUT, R354: A bound write's last packet has not landed in time, and the write is abandoned. -/
  | lzMsgTimeout (qp : Nat)
  /-- LZ_REVOKE_DONE, R355: A revoking zone's in-flight count reaches zero; GEN advances and the record becomes FREE
  or QUARANTINED. -/
  | lzRevokeDone (zone : Nat)
  /-- PORT_STATUS, R365: Returns logical-port records and counters. -/
  | portStatus (p : McPacket)
  /-- QP_INFO, R365: Returns a queue pair's context state, rate and sequence numbers. -/
  | qpInfo (p : McPacket)
  /-- CONNECT, R368: An NVMe Connect creates a controller or connects an I/O queue. -/
  | connect (qp : Nat) (capsule : Bytes)
  /-- PROPERTY_GET, R376: Returns a controller property. -/
  | propertyGet (qp : Nat) (capsule : Bytes)
  /-- CC_EN, R376: A Property Set of CC.EN enables or resets the controller, and CSTS.RDY follows. -/
  | ccEn (qp : Nat) (capsule : Bytes)
  /-- CC_SHN, R376: A shutdown notification completes once the controller's outstanding commands have completed. -/
  | ccShn (qp : Nat) (capsule : Bytes)
  /-- DISCONNECT, R371: Ends a controller on queue 0, or closes one I/O queue. -/
  | disconnect (qp : Nat) (capsule : Bytes)
  /-- NVME_IDENTIFY, R376: Returns controller, namespace or list data for a supported CNS. -/
  | nvmeIdentify (qp : Nat) (capsule : Bytes)
  /-- GET_LOG_PAGE, R376: Returns the error, health, changed-namespace or ANA log. -/
  | getLogPage (qp : Nat) (capsule : Bytes)
  /-- NAMESPACE_CREATE, R379: Namespace Management creates a namespace. -/
  | namespaceCreate (qp : Nat) (capsule : Bytes)
  /-- NAMESPACE_DELETE, R380: Namespace Management deletes and unmaps a namespace. -/
  | namespaceDelete (qp : Nat) (capsule : Bytes)
  /-- NAMESPACE_ATTACH, R381: Attaches a namespace to the hosts of the listed controllers. -/
  | namespaceAttach (qp : Nat) (capsule : Bytes)
  /-- NAMESPACE_DETACH, R381: Detaches a namespace from the hosts of the listed controllers. -/
  | namespaceDetach (qp : Nat) (capsule : Bytes)
  /-- ABORT, R383: An Abort races the named command's catch point through an arbiter. -/
  | abort (qp : Nat) (capsule : Bytes)
  /-- SET_FEATURES_POWER_MANAGEMENT, R387: Sets the controller's power state. -/
  | setFeaturesPowerManagement (qp : Nat) (capsule : Bytes)
  /-- SET_FEATURES_NUMBER_OF_QUEUES, R369: Grants the controller's I/O queue count. -/
  | setFeaturesNumberOfQueues (qp : Nat) (capsule : Bytes)
  /-- SET_FEATURES_ASYNC_EVENT_CONFIG, R384: Sets which asynchronous events are enabled. -/
  | setFeaturesAsyncEventConfig (qp : Nat) (capsule : Bytes)
  /-- SET_FEATURES_APST, R388: Sets autonomous power state transition. -/
  | setFeaturesApst (qp : Nat) (capsule : Bytes)
  /-- SET_FEATURES_KEEP_ALIVE_TIMER, R372: Sets KATO, rounded up to a whole second. -/
  | setFeaturesKeepAliveTimer (qp : Nat) (capsule : Bytes)
  /-- GET_FEATURES, R376: Returns a feature value. -/
  | getFeatures (qp : Nat) (capsule : Bytes)
  /-- ASYNCHRONOUS_EVENT_REQUEST, R384: Posts a request that a waiting or later event completes. -/
  | asynchronousEventRequest (qp : Nat) (capsule : Bytes)
  /-- KEEP_ALIVE, R372: Restarts the controller's Keep Alive timer. -/
  | keepAlive (qp : Nat) (capsule : Bytes)
  /-- KATO_EXPIRY, R372: The Keep Alive timer expires and the controller ends. -/
  | katoExpiry (controller : Nat)
  /-- APST_IDLE_TIMER, R388: A controller idle for an entry's ITPT moves to that entry's power state. -/
  | apstIdleTimer (controller : Nat) (entry : Nat)
  /-- READ, R91: An NVMe Read is resolved grain by grain and delivered by RDMA WRITE and a completion SEND. -/
  | read (qp : Nat) (capsule : Bytes) (facts : MediaFacts)
  /-- WRITE, R65: An NVMe Write is admitted, stamped, landed and mirrored, and completes at its acknowledgement point. -/
  | write (qp : Nat) (capsule : Bytes)
  /-- FLUSH, R67: Seals bales and persists the journal for every earlier write of the namespace. -/
  | flush (qp : Nat) (capsule : Bytes)
  /-- WRITE_ZEROES, R68: Maps whole grains to chunk ID 0 and composes partial grains with zeros. -/
  | writeZeroes (qp : Nat) (capsule : Bytes)
  /-- DATASET_MANAGEMENT, R69: Deallocates the named ranges. -/
  | datasetManagement (qp : Nat) (capsule : Bytes)
  /-- COMPARE, R376: An NVMe Compare is resolved as a read and compared. -/
  | compare (qp : Nat) (capsule : Bytes) (facts : MediaFacts)
  /-- VERSION, R393: The Sheaf verb returns the protocol versions and head information. -/
  | version (qp : Nat) (request : Bytes)
  /-- PUT_BEGIN, R398: Opens a PUT and grants a push zone or pull mode. -/
  | putBegin (qp : Nat) (request : Bytes)
  /-- PUT_DATA, R400: Accepts a fill by revoking the zone or pulling the data, then lands and mirrors it. -/
  | putData (qp : Nat) (request : Bytes)
  /-- PUT_COMMIT, R401: Applies the final fill and commits the object version. -/
  | putCommit (qp : Nat) (request : Bytes)
  /-- PUT_ABORT, R402: Ends a PUT without a version and releases its pieces. -/
  | putAbort (qp : Nat) (request : Bytes)
  /-- GET, R403: Delivers a byte range of an object version. -/
  | get (qp : Nat) (request : Bytes) (facts : MediaFacts)
  /-- STAT, R393: Returns the record fields of an object version. -/
  | stat (qp : Nat) (request : Bytes)
  /-- DELETE, R406: Writes a DELETED version unless a hold stands. -/
  | delete (qp : Nat) (request : Bytes)
  /-- LIST, R404: Returns keys in ascending order after a start key. -/
  | list (qp : Nat) (request : Bytes)
  /-- HOLD, R405: Places or extends a retention hold on a version. -/
  | hold (qp : Nat) (request : Bytes)
  /-- RELEASE_HOLD, R407: Clears a hold where HOLD_MODE allows. -/
  | releaseHold (qp : Nat) (request : Bytes)
  /-- SHEAF_PUT_TIMEOUT, R402: A PUT named by no verb for SHEAF_PUT_TIMEOUT ends without a version. -/
  | sheafPutTimeout (qp : Nat) (put : Nat)
  /-- NS_SCRUB_TIMER, R415: A near-store patrol scrub pass corrects errors every NS_SCRUB_INTERVAL. -/
  | nsScrubTimer (errors : List NearError)
  /-- FS_SCRUB_TIMER, R420: A far-store patrol scrub pass runs every FS_SCRUB_INTERVAL. -/
  | fsScrubTimer (errors : List FarError)
  /-- MC_ACCESS, R425: A metadata access looks in the cache, the side buffer, the victim region and far store,
  allocating on a miss. -/
  | mcAccess (addr : Nat) (bytes : Bytes) (err : Nat)
  /-- MC_PREFETCH, R428: A prefetch reads a line into the slice's side buffer. -/
  | mcPrefetch (addr : Nat)
  /-- MEM_STATUS, R438: Returns the cache status, memory layout and memory counters. -/
  | memStatus (p : McPacket)
  /-- MC_ENABLE, R435: Re-enables a DISABLED metadata cache. -/
  | mcEnable (p : McPacket)
  /-- MC_DISABLE, R435: Starts writing back dirty lines and enters DISABLING. -/
  | mcDisable (p : McPacket)
  /-- MC_DISABLE_DONE, R435: The last dirty line is written back and the cache is DISABLED. -/
  | mcDisableDone
  /-- MC_FORCE_DISABLE, R436: Discards dirty lines and disables the cache at once. -/
  | mcForceDisable (p : McPacket)
  /-- MC_PRELOAD, R430: Loads a range into the masked ways and locks them. -/
  | mcPreload (p : McPacket)
  /-- MC_UNLOCK, R431: Returns the masked ways to normal allocation. -/
  | mcUnlock (p : McPacket)
  /-- CLEAN, R432: Writes back the dirty lines of a range. -/
  | clean (p : McPacket)
  /-- CLEAN_INVALIDATE, R432: Writes back and invalidates the lines of a range. -/
  | cleanInvalidate (p : McPacket)
  /-- PURGE, R432: Discards the lines of a range, in SERVICE only. -/
  | purge (p : McPacket)
  /-- MC_WAY_POWER_DOWN, R434: Stops allocation in the masked ways, writes back their dirty lines and removes their
  power. -/
  | mcWayPowerDown (p : McPacket)
  /-- MC_WAY_DOWN_DONE, R434: A way being powered down has been written back and is unpowered. -/
  | mcWayDownDone (way : Nat)
  /-- MC_WAY_POWER_UP, R434: Powers up the masked ways, empty. -/
  | mcWayPowerUp (p : McPacket)
  /-- MC_TAG_READ, R438: Returns a tag entry, in SERVICE only. -/
  | mcTagRead (p : McPacket)
  /-- LOCATION_PAGED_DAILY, R421: While locations are paged, the head writes an Almanac record once each day. -/
  | locationPagedDaily
  /-- ALLOC, R447: Takes a buffer from the smallest fitting list, or waits. -/
  | alloc (unit : Nat) (epoch : Option EpochRef) (arena : Nat) (len : Nat) (badLink : Bool)
  /-- SHARE, R449: Adds a reference to a buffer for a receiving unit. -/
  | share (unit : Nat) (handle : Nat) (receiver : Nat) (ticket : Option EpochRef)
  /-- GRANARY_RELEASE, R448: Checks a handle, drops a reference and frees the buffer at zero, serving the oldest
  waiter. -/
  | granaryRelease (unit : Nat) (handle : Nat) (ticket : Option EpochRef)
  /-- ALLOC_WAIT_LONG, R457: An allocation waits longer than 100 ms; health attention is set. -/
  | allocWaitLong (arena : Nat) (pool : Nat)
  /-- GRANARY_STATUS, R458: Returns per-list counts and counters. -/
  | granaryStatus (p : McPacket)
  /-- GRANARY_HEADER_READ, R458: Returns a buffer header, in SERVICE only. -/
  | granaryHeaderRead (p : McPacket)
  /-- COPY, R462: A DMA descriptor copies LEN bytes and writes back its status. -/
  | copy (channel : Nat) (ctx : DmaContext)
  /-- FILL, R462: A DMA descriptor fills LEN bytes with an 8-byte constant. -/
  | fill (channel : Nat) (ctx : DmaContext)
  /-- DMA_COMPARE, R462: A DMA descriptor compares two operands and reports the first difference. -/
  | dmaCompare (channel : Nat) (ctx : DmaContext)
  /-- DMA_DOORBELL, R466: A write of TAIL gives descriptors to a channel and re-fetches a waiting slot. -/
  | dmaDoorbell (channel : Nat) (tail : Nat) (fetched : Option DmaFetch)
  /-- DMA_ENABLE, R469: A write of ENABLE starts the channel fetching from HEAD. -/
  | dmaEnable (channel : Nat) (fetched : Option DmaFetch)
  /-- DMA_DISABLE, R470: A write of DISABLE abandons the running descriptor and stops the channel. -/
  | dmaDisable (channel : Nat)
  /-- DMA_CHANNEL_IDLE, R470: A disabled channel's last write lands and IDLE is set. -/
  | dmaChannelIdle (channel : Nat)
  /-- DMA_RESUME, R465: Writing 1 to HALTED resumes a halted channel at HEAD. -/
  | dmaResume (channel : Nat) (fetched : Option DmaFetch)
  /-- DMA_STATUS, R473: Returns channel states and counters. -/
  | dmaStatus (p : McPacket)
  /-- DMA_BUFFER_ALLOC, R473: Allocates a work-arena buffer for the control host. -/
  | dmaBufferAlloc (p : McPacket)
  /-- DMA_BUFFER_FREE, R473: Releases a control-host buffer. -/
  | dmaBufferFree (p : McPacket)
  /-- REGISTER_WRITE, R475: A BAR0 write to a register with no behaviour of its own sets it, or is ignored if
  misaligned or not accepted. -/
  | registerWrite (offset : Nat) (width : Nat) (value : Nat)
  /-- MCI_DOORBELL, R477: A write of a command ring's TAIL makes the head fetch packets. -/
  | mciDoorbell (ring : Nat) (tail : Nat) (slots : List McSlot)
  /-- REPLY_HEAD_WRITE, R478: A write of the reply ring's HEAD frees slots and lets held replies be written. -/
  | replyHeadWrite (head : Nat)
  /-- RING_ENABLE, R476: Writing ENABLE 1 resets HEAD, TAIL and PHASE and puts a ring in service. -/
  | ringEnable (ring : Nat)
  /-- RING_DISABLE, R476: Writing ENABLE 0 takes a ring out of service. -/
  | ringDisable (ring : Nat)
  /-- NOP, R479: Does nothing and replies. -/
  | nop (p : McPacket)
  /-- IDENTIFY, R497: Returns the IDENTIFY record. -/
  | identify (p : McPacket)
  /-- WATCH, R485: Completes when ATTN_SEQ differs from ATTN_SEEN. -/
  | watch (p : McPacket)
  /-- WATCH_TIMEOUT, R485: The TIMEOUT of a standing WATCH passes and it completes with ST_OK_INFO. -/
  | watchTimeout (ring : Nat)
  /-- SET_MODE_BOOT, R502: From RECOVERY or SERVICE, writes a CLEAR entry and makes a self reset. -/
  | setModeBoot (p : McPacket)
  /-- SET_MODE_DUMP, R502: Enters DUMP from a serving mode. -/
  | setModeDump (p : McPacket)
  /-- SET_MODE_SERVICE, R512: Enters SERVICE from FALLOW or INVENTORY. -/
  | setModeService (p : McPacket)
  /-- QUIESCE, R492: Starts quiescing a function, or the whole head. -/
  | quiesce (p : McPacket)
  /-- QUIESCE_COMPLETE, R492: A function reaches its quiesced state and the QUIESCE completes. -/
  | quiesceComplete (function : Nat)
  /-- RESUME, R492: Applies a function's pending values and restarts it. -/
  | resume (p : McPacket) (fetches : List (Nat × DmaFetch))
  /-- AUTH_CHALLENGE, R486: Returns a fresh nonce for the ring. -/
  | authChallenge (p : McPacket)
  /-- AUTH_NONCE_EXPIRY, R487: A ring's nonce reaches AUTH_NONCE_LIFETIME and is no longer valid. -/
  | authNonceExpiry (ring : Nat)
  /-- TIME_SET, R52: Sets array time, under authorisation where needed, and persists a TIME_MARK. -/
  | timeSet (p : McPacket)
  /-- CANCEL, R492: Ends a standing WATCH or an uncompleted QUIESCE. -/
  | cancel (p : McPacket) (fetches : List (Nat × DmaFetch))
  /-- ATTN_ACK, R483: Clears the named latched HSW attention bits. -/
  | attnAck (p : McPacket)
  /-- GET_PARAM, R495: Returns a parameter value chosen by SEL. -/
  | getParam (p : McPacket)
  /-- SET_PARAM, R491: Checks and sets a parameter, in effect or pending, on both heads for array scope. -/
  | setParam (p : McPacket)
  /-- COMMIT_CONFIG, R494: Writes the values in effect as a configuration record. -/
  | commitConfig (p : McPacket)
  /-- CONFIG_READ, R494: Returns the newest committed configuration record. -/
  | configRead (p : McPacket)
  /-- DOMAIN_CREATE, R194: Creates a dedup domain with key epoch 1. -/
  | domainCreate (p : McPacket)
  /-- DOMAIN_DELETE, R497: Deletes an empty dedup domain. -/
  | domainDelete (p : McPacket)
  /-- DOMAIN_GET, R497: Returns a domain entry. -/
  | domainGet (p : McPacket)
  /-- SCOPE_PARAM_SET, R576: Places a mirrored SCOPE_PARAM record that sets a scope parameter on both heads. -/
  | scopeParamSet (p : McPacket)
  /-- SCOPE_PARAM_GET, R576: Returns a scope parameter in effect. -/
  | scopeParamGet (p : McPacket)
  /-- NS_CREATE, R379: Creates a block namespace. -/
  | nsCreate (p : McPacket)
  /-- NS_DELETE, R380: Deletes a block namespace. -/
  | nsDelete (p : McPacket)
  /-- NS_LIST, R497: Returns namespace entries. -/
  | nsList (p : McPacket)
  /-- HOST_ADD, R368: Adds a HOSTNQN to the host table. -/
  | hostAdd (p : McPacket)
  /-- HOST_REMOVE, R497: Removes an unattached host. -/
  | hostRemove (p : McPacket)
  /-- NS_ATTACH, R381: Attaches a namespace to a host. -/
  | nsAttach (p : McPacket)
  /-- NS_DETACH, R381: Detaches a namespace from a host. -/
  | nsDetach (p : McPacket)
  /-- OBJDOM_CREATE, R497: Creates an object domain. -/
  | objdomCreate (p : McPacket)
  /-- OBJDOM_DELETE, R408: Deletes an object domain without standing holds. -/
  | objdomDelete (p : McPacket)
  /-- CLIENT_ADD, R391: Adds a CLIENT_ID to an object domain's client list. -/
  | clientAdd (p : McPacket)
  /-- CLIENT_REMOVE, R391: Removes a CLIENT_ID from an object domain's client list. -/
  | clientRemove (p : McPacket)
  /-- HOLD_CLEAR, R407: Ends a standing hold in a compliance domain. -/
  | holdClear (p : McPacket)
  /-- ALMANAC_STATUS, R532: Returns the Almanac status record. -/
  | almanacStatus (p : McPacket)
  /-- ALMANAC_READ, R530: Returns records in SEQ order, or early-ring records in BOOT and RECOVERY. -/
  | almanacRead (p : McPacket)
  /-- ALMANAC_CLEAR, R531: Persists a CLEAR record and removes records up to a sequence. -/
  | almanacClear (p : McPacket)
  /-- FW_MANIFEST_PUT, R534: Verifies and stages a firmware manifest. -/
  | fwManifestPut (p : McPacket)
  /-- PIECE_PUT, R537: Checks a piece against its digest and stores it. -/
  | piecePut (p : McPacket)
  /-- FW_STATUS, R550: Returns the update state and piece bitmap. -/
  | fwStatus (p : McPacket)
  /-- FW_ACTIVATE, R540: Activates the staged image in place, by fail-over, or by a self reset. -/
  | fwActivate (p : McPacket) (bad : List Nat)
  /-- FW_DISCARD, R538: Marks the staged records superseded. -/
  | fwDiscard (p : McPacket)
  /-- TELEMETRY_GET, R498: Returns telemetry records of a group. -/
  | telemetryGet (p : McPacket)
  /-- TELEMETRY_CLEAR, R497: Clears every counter so marked. -/
  | telemetryClear (p : McPacket)
  /-- EVENT_READ, R497: Removes event-queue entries to the buffer. -/
  | eventRead (p : McPacket)
  /-- MCI_STATS, R499: Returns the MCI counters. -/
  | mciStats (p : McPacket)
  /-- TICKET_DUMP, R110: Returns tickets of a harrow queue, in SERVICE only. -/
  | ticketDump (p : McPacket)
  /-- HOST_WATCHDOG, R496: No command is fetched within HOST_WATCHDOG, and Steward enters autonomy and restores
  committed values. -/
  | hostWatchdog (fetches : List (Nat × DmaFetch))
  /-- ALMANAC_FLUSH_TIMER, R525: The oldest staged record has waited ALMANAC_FLUSH_TIME and the drain writes a unit. -/
  | almanacFlushTimer
  /-- ALMANAC_UNIT_COMMIT, R525: An Almanac unit's row commits; its records leave the staging queue. -/
  | almanacUnitCommit (row : Nat)
  /-- HANDOVER, R544: A drained harrow writes its handover block, loads the new image and returns to RUNNING. -/
  | handover (harrow : Nat)
  /-- FW_IMAGE_OVERWRITE, R542: The loader ticket overwrites IMAGE sector by sector and places the new image copy. -/
  | fwImageOverwrite
  /-- THERMTRIP, R567: A quadrant sensor reaches 115 °C; THERMTRIP latches and THERMTRIP_N goes low. -/
  | thermtrip
  /-- THERMAL_WINDOW, R568: A 10 ms window ends and thermal policy lowers the limit, parks a harrow, or relaxes. -/
  | thermalWindow (means : ThermalMeans) (energyMj : Nat)
  /-- LIFE_USED_HOUR, R570: Each hour Steward adds that hour's share of rated life to LIFE_USED. -/
  | lifeUsedHour (mean : Int)
  /-- SUPPLY_EXCURSION, R560: A rail leaves its range; a long enough excursion is a supply yield cause. -/
  | supplyExcursion (supply : Supply) (mv : Nat) (ns : Nat)
  /-- CLOCK_LOSS, R560: REFCLK_TB or REFCLK_FW is absent for 10 µs, which is a yield cause. -/
  | clockLoss (fw : Bool) (nearStoreWins : Bool)
  /-- READ_WORD, R564: An SMBus Read Word returns the selected latched word. -/
  | readWord (pec : Bool)
  /-- SMBUS_SELECT, R564: A write of a command code selects and latches a word. -/
  | smbusSelect (code : BitVec 8)
  /-- SMBUS_DATA_WRITE, R564: A write with a data byte is NACKed and changes nothing. -/
  | smbusDataWrite (code : BitVec 8) (data : Bytes)
  /-- ALERT_RESPONSE_ADDRESS, R564: The target answers the Alert Response Address without releasing SMB_ALERT_N. -/
  | alertResponseAddress
  /-- SMBUS_REFRESH, R564: Every 1 ms the SMBus values refresh. -/
  | smbusRefresh (readings : Readings)
  /-- BYPASS, R565: JTAG BYPASS instruction. -/
  | bypass
  /-- IDCODE, R565: JTAG IDCODE instruction returns 0x1925_656B. -/
  | idcode
  /-- SAMPLE_PRELOAD, R565: JTAG SAMPLE/PRELOAD instruction. -/
  | samplePreload
  /-- EXTEST, R566: JTAG EXTEST, effective only while RESET_N is low. -/
  | extest
  /-- EXTEST_PULSE, R566: JTAG EXTEST_PULSE for AC-coupled lanes, only while RESET_N is low. -/
  | extestPulse
  /-- EXTEST_TRAIN, R566: JTAG EXTEST_TRAIN for AC-coupled lanes, only while RESET_N is low. -/
  | extestTrain
  /-- CLAMP, R566: JTAG CLAMP, only while RESET_N is low. -/
  | clamp
  /-- HIGHZ, R566: JTAG HIGHZ, only while RESET_N is low. -/
  | highz
  /-- HEADLAND_TRAINING_DONE, R308: A Headland sub-link completes training on all eight lanes and comes up, changing
  the Headland link state and letting a newcomer resume the joint start-up. -/
  | headlandTrainingDone (sub : Nat) (preset : Nat)
  /-- FURROW_BLOCK_LOCK_LOSS, R258: A Furrow receiver loses block lock while the link is up, and the link retrains. -/
  | furrowBlockLockLoss (bridge : Nat)
  /-- HEADLAND_BLOCK_LOCK_LOSS, R308: A Headland sub-link receiver loses block lock or deskew while up, and the sub-
  link retrains. -/
  | headlandBlockLockLoss (sub : Nat)
  /-- FURROW_FRAME_DISCARD, R246: A corrupt, out-of-order, duplicate or uncredited Furrow frame is discarded, with a
  NAK, a repeated acknowledgement or a retrain. -/
  | furrowFrameDiscard (bridge : Nat) (cause : Discard)
  /-- HEADLAND_FRAME_DISCARD, R308: A corrupt, out-of-order, duplicate or uncredited Headland frame is discarded, with
  a NAK, a repeated acknowledgement or a retrain. -/
  | headlandFrameDiscard (sub : Nat) (cause : Discard)
  /-- HEADLAND_BAD_MESSAGE, R310: A Headland message of unknown MTYPE, or one too short for its type, is discarded,
  counted and recorded in the Almanac. -/
  | headlandBadMessage (sub : Nat) (frames : List Bytes)
  /-- VAUX_RISE, R191: VAUX first rises and VAULT_STATUS takes its reset values, with VAULT_LOST set, so security
  attention holds until it is cleared. -/
  | vauxRise
  /-- BOOT_FLASH_REFRESH, R26: A boot-flash region whose last write is 1,826 days old is rewritten in place,
  unchanged. -/
  | bootFlashRefresh (region : Nat)
  /-- PCIE_RETRY_TIMER, R511: In RECOVERY after a failed step 0x03, the loader attempts the PCI Express link again
  every 10 s. -/
  | pcieRetryTimer (up : Bool)
  /-- ARP_REPLY, R334: A received ARP reply resolves a next hop, or reveals an address conflict during the probe of a
  logical port. -/
  | arpReply (head : FrameHead) (address : Nat) (mac : Nat)
  /-- NEIGHBOUR_ADVERTISEMENT, R334: A received IPv6 neighbour advertisement resolves a next hop, or reveals a
  duplicate address during detection. -/
  | neighbourAdvertisement (head : FrameHead) (address : Nat) (mac : Nat)
  /-- REQ_TIMEOUT, R346: A connection request that the head initiated goes unanswered, and the context moves from
  CONNECTING to TIMEWAIT. -/
  | reqTimeout (qp : Nat)
  /-- LIST_REBUILD_DONE, R451: The rebuild of a cut Granary free list from the header table finishes, allocation from
  it resumes and the waiting ALLOCs are served. -/
  | listRebuildDone (arena : Nat) (pool : Nat)
  /-- BRIDGE_RESET, R252: A bridge resets itself, and its lease register returns to its reset values with OWNER none. -/
  | bridgeReset (bridge : Nat)
  deriving DecidableEq, Repr

end Sys2Proof
end

