-- ==== Sys2Proof/Decode.lean ====
section
/-! DEFINITION. Decoding: the opcode table gives no row any bits, so no word spells a command. -/

namespace Sys2Proof

/-- The command a word of so many bits spells by the opcode table's bits: no row has any. -/
def decodeTableWord (_nbits _w : Nat) : Option Instr := none

end Sys2Proof
end

