-- ==== Sys2Proof/Config.lean ====
section
/-! DEFINITION. What one module is built with, and the values the manual leaves free.
Every constant here is opaque: no proof can see a value of it, so a statement holds for every value. -/

namespace Sys2Proof

/-- The n-th byte that the head's random generator gives. The manual names the generator (R57, R486, R510 ...)
and no value of it. DESIGN CHOICE 2: a free value per draw. -/
opaque Config.generator : Nat → Byte

/-- The n-th undefined byte: a content the manual calls undefined after which the machine goes on
(R104, R158, R354, R443, R470). DESIGN CHOICE 3: a free value per use. -/
opaque Config.freeByte : Nat → Byte

/-- The n-th undefined number: a value the manual calls undefined, or leaves to the part, that is not a byte. DESIGN CHOICE 3. -/
opaque Config.freeNat : Nat → Nat

/-- GRADE of IDENTIFY: true for the L grade (Table 0-1, R25). -/
opaque Config.gradeL : Bool

/-- The manifest of the factory Steward image, and of the factory loader (Table 23-1): the part's own. PRESUMED 26. -/
opaque Config.factoryManifest : Bytes
opaque Config.factoryLoader : Bytes

/-- A piece of the factory Steward image. PRESUMED 26. -/
opaque Config.factoryPiece (n : Nat) : Bytes

/-- Whether a fused signing key has been revoked (R534). PRESUMED 26. -/
opaque Config.keyRevoked (key : Nat) : Bool

/-- The vendor ID in the head's PCI Express configuration header (Table 15-3). -/
opaque Config.pciVendor : Nat

/-- SERIAL of IDENTIFY, ASCII (Table 20-16). -/
opaque Config.serial : Nat → Byte

/-- MAC_BASE fused into the part (R333). -/
opaque Config.macBase : Nat

/-- Which of the 32 pseudo-channels the n-th training failure maps out (R416): a finding of the part. DESIGN CHOICE 182. -/
opaque Config.pseudoChannel : Nat → Nat

/-- The entry of RC_DIRECTORY that names a chunk and generation in the read cache (Table 17-4): the head's own layout. DESIGN CHOICE 182. -/
opaque Config.directorySlot (chunk gen : Nat) : Nat

/-- The GUID of the part's RDMA device in its CM messages, for which the spec gives no value. -/
opaque Config.caGuid : Nat

/-- The CM response timeout code that the head's own requests carry, for which the spec gives no value. -/
opaque Config.cmTimeout : Nat

/-- The fused transport key of the vault (R186): 32 bytes. -/
opaque Config.transportKey : Nat → Byte

/-- The fused public key of a signing key index (R534), the affine coordinates of a point of P-384. DESIGN CHOICE 4: the part's own. -/
opaque Config.signingKey (key : Nat) : Nat × Nat

/-- How fast above its crystal array time runs while it slews, in ppm: "up to 1,000 ppm" (R53). DESIGN CHOICE 5. -/
opaque Config.slewPpm : Nat

/-- Rated life in hours at a mean junction temperature in 1/8 °C that is no row of Table 25-8 (R570): the exponential of R570 is not a
number of the manual's tables. DESIGN CHOICE 6. -/
opaque Config.ratedLifeHours (gradeL : Bool) (tj : Int) : Nat

/-- Whether the quotient that an hour adds to LIFE_USED is rounded up to a whole unit: R570 gives no rounding. DESIGN CHOICE 6. -/
opaque Config.lifeRoundsUp (gradeL : Bool) (tj : Int) : Bool

/-- The smoothed round-trip time from the previous one and a sample: R359 names the smoothing and no formula. DESIGN CHOICE 7. -/
opaque Config.smoothRtt (old sample : Nat) : Nat

/-- What the bridge fitted at position `bridge` is built with: the fields of its BRIDGE_IDENTIFY (Table 10-7), by their order,
read within the range the table gives. DESIGN CHOICE 15: free, and the same at every start-up. -/
opaque Config.bridgeField (bridge field : Nat) : Nat

/-- Bytes of the 4 MiB receive buffer that a priority of a sub-port holds under a PORT_MODE: R336 carves the buffer per logical port and
priority and does not say how. DESIGN CHOICE 3. -/
opaque Config.rxShare (mode subPort priority : Nat) : Nat

/-- The JTYPE of a journal record of a change to the tables of namespaces, domains and hosts: R379 journals it and Table 11-12 lists no
type for it. DESIGN CHOICE 21. -/
opaque Config.tableType : Nat

/-- The TYPE of an Almanac record that a command writes and for which Table 22-2 lists none, by the command's opcode,
and of the one that R568 writes, by 0x10000 plus the rule's number. DESIGN CHOICE 28. -/
opaque Config.recordType (opcode : Nat) : Nat

end Sys2Proof
end

