-- ==== Sys2Proof/Machine/Operands.lean ====
section
/-! DEFINITION. Operand forms shared by every command: byte order, bit fields, CRC-32C, saturating counters and
the keyed lists that hold sparse tables. -/

namespace Sys2Proof.Machine

/-! ## Byte order and fields (R6, R7) -/

/-- The number that little-endian bytes spell (R7). -/
def leNat : Bytes → Nat
  | [] => 0
  | b :: bs => b.toNat + 256 * leNat bs

/-- The `n` little-endian bytes of `x`, wrapped at the width (R7). -/
def leBytes : Nat → Nat → Bytes
  | 0, _ => []
  | n + 1, x => BitVec.ofNat 8 x :: leBytes n (x / 256)

/-- The number that big-endian bytes spell (R8). -/
def beNat (bs : Bytes) : Nat := leNat bs.reverse

/-- The `n` big-endian bytes of `x` (R8). -/
def beBytes (n x : Nat) : Bytes := (leBytes n x).reverse

/-- The bytes of a field: `len` bytes from offset `off`; bytes past the end read as nothing. -/
def slice (bs : Bytes) (off len : Nat) : Bytes := (bs.drop off).take len

/-- The little-endian number in `len` bytes at offset `off`. -/
def fieldAt (bs : Bytes) (off len : Nat) : Nat := leNat (slice bs off len)

/-- Bits [hi:lo] of `x` (R6). -/
def bitsOf (x hi lo : Nat) : Nat := x / 2 ^ lo % 2 ^ (hi + 1 - lo)

/-- Bit `n` of `x` (R6). -/
def bitOf (x n : Nat) : Bool := x.testBit n

/-- `n` zero bytes. -/
def zeros (n : Nat) : Bytes := List.replicate n 0

/-- `bs` cut or zero-filled to `n` bytes (a padded field). -/
def padTo (n : Nat) (bs : Bytes) : Bytes := (bs ++ zeros (n - bs.length)).take n

/-- Whether every byte is zero: the test of a reserved field (R12). -/
def allZero (bs : Bytes) : Bool := bs.all (· == 0)

/-- The bytes of a string of ASCII text (R490). -/
def asciiBytes (t : String) : Bytes := t.toList.map (fun c => BitVec.ofNat 8 c.toNat)

/-- A payload written field after field, each a (size, value), little-endian (R520). -/
def packFields : List (Nat × Nat) → Bytes
  | [] => []
  | (n, v) :: rest => leBytes n v ++ packFields rest

/-- A Boolean as a one-bit field. -/
def flagBit (b : Bool) : Nat := if b then 1 else 0

/-- `xor` of two byte strings, as far as the shorter goes. -/
def xorBytes (a b : Bytes) : Bytes := List.zipWith (· ^^^ ·) a b

/-- Rounds `x` up to a multiple of `m`. -/
def roundUp (x m : Nat) : Nat := (x + m - 1) / m * m

/-- The smallest `i` from `at'` on, within `fuel`, at which `p` holds. -/
def firstFrom (p : Nat → Bool) : Nat → Nat → Option Nat
  | 0, _ => none
  | fuel + 1, at' => if p at' then some at' else firstFrom p fuel (at' + 1)

/-- The smallest `i < n` at which `p` holds. -/
def firstIndex (n : Nat) (p : Nat → Bool) : Option Nat := firstFrom p n 0

/-! ## Counters (R551) -/

/-- Adds to a counter of `w` bits that saturates at all ones. -/
def satAdd (w x n : Nat) : Nat := min (x + n) (2 ^ w - 1)

/-- Adds to a 64-bit saturating counter, the form of every counter rule (R551). -/
def bump (x : Nat) (n : Nat := 1) : Nat := satAdd 64 x n

/-- Adds one to counter `i` of a list of 64-bit counters. -/
def bumpAt (xs : List Nat) (i : Nat) (n : Nat := 1) : List Nat := xs.set i (bump (xs.getD i 0) n)

/-! ## CRC-32C (R242): polynomial 0x1EDC_6F41 reflected, initial value and final inversion all ones -/

/-- One bit of the reflected CRC-32C register. -/
def crcBit (c : BitVec 32) : BitVec 32 :=
  if c.getLsbD 0 then (c >>> 1) ^^^ 0x82F63B78#32 else c >>> 1

/-- One byte through the CRC-32C register. -/
def crcByte (c : BitVec 32) (b : Byte) : BitVec 32 :=
  crcBit (crcBit (crcBit (crcBit (crcBit (crcBit (crcBit (crcBit (c ^^^ b.setWidth 32))))))))

/-- CRC-32C of a byte string (R242). -/
def crc32c (bs : Bytes) : Nat := (~~~ (bs.foldl crcByte 0xFFFFFFFF#32)).toNat

/-! ## Sparse tables: lists of (key, value) pairs -/

/-- The value a table holds for a key. -/
def lookup {α : Type} (k : Nat) : List (Nat × α) → Option α
  | [] => none
  | (k', v) :: rest => if k' = k then some v else lookup k rest

/-- Sets the value of a key, in place or at the end. -/
def insertAt {α : Type} (k : Nat) (v : α) : List (Nat × α) → List (Nat × α)
  | [] => [(k, v)]
  | (k', v') :: rest => if k' = k then (k, v) :: rest else (k', v') :: insertAt k v rest

/-- Removes every entry of a key. -/
def removeAt {α : Type} (k : Nat) (t : List (Nat × α)) : List (Nat × α) := t.filter (fun e => e.1 != k)

/-- The value of a key, or a default. -/
def lookupD {α : Type} (k : Nat) (t : List (Nat × α)) (d : α) : α := (lookup k t).getD d

/-- Changes the value of a key, starting from a default where the table lists none. -/
def updateAt {α : Type} (k : Nat) (d : α) (f : α → α) (t : List (Nat × α)) : List (Nat × α) :=
  insertAt k (f (lookupD k t d)) t

/-- Changes every element of a list that a test selects. -/
def mapIf {α : Type} (p : α → Bool) (f : α → α) (xs : List α) : List α :=
  xs.map (fun x => if p x then f x else x)

/-- Changes the element at an index. -/
def modifyNth {α : Type} (f : α → α) : Nat → List α → List α
  | _, [] => []
  | 0, x :: xs => f x :: xs
  | n + 1, x :: xs => x :: modifyNth f n xs

end Sys2Proof.Machine
end

