-- ==== Sys2Proof/Machine/Crypto.lean ====
section
/-! DEFINITION. The standard functions the block computes (R24): SHA-256 (FIPS 180-4), HMAC-SHA-256 (FIPS 198-1),
AES-256 (FIPS 197), GCM with a 96-bit IV (SP 800-38D), AES key wrap (RFC 3394) and ECDSA verification on P-384 (FIPS 186-5). Each is written out, so that a
fingerprint, a tag or an unwrapped key is a value of the model. -/

namespace Sys2Proof.Machine

/-! ## SHA-256 -/

/-- The 64 round constants of SHA-256 as one number, the first in its highest 32 bits. -/
def shaConstants : Nat :=
  0x428a2f9871374491b5c0fbcfe9b5dba53956c25b59f111f1923f82a4ab1c5ed5d807aa9812835b01243185be550c7dc372be5d7480deb1fe9bdc06a7c19bf174e49b69c1efbe47860fc19dc6240ca1cc2de92c6f4a7484aa5cb0a9dc76f988da983e5152a831c66db00327c8bf597fc7c6e00bf3d5a7914706ca63511429296727b70a852e1b21384d2c6dfc53380d13650a7354766a0abb81c2c92e92722c85a2bfe8a1a81a664bc24b8b70c76c51a3d192e819d6990624f40e3585106aa07019a4c1161e376c082748774c34b0bcb5391c0cb34ed8aa4a5b9cca4f682e6ff3748f82ee78a5636f84c878148cc7020890befffaa4506cebbef9a3f7c67178f2

/-- Round constant `t`. -/
def shaConstant (t : Nat) : BitVec 32 := BitVec.ofNat 32 (shaConstants >>> (32 * (63 - t)))

/-- A hash value under way: the working variables a to d and e to h, each newest first. -/
abbrev ShaVars := List (BitVec 32) × List (BitVec 32)

/-- The initial hash value of SHA-256. -/
def shaStart : ShaVars :=
  (([0x6a09e667, 0xbb67ae85, 0x3c6ef372, 0xa54ff53a] : List (BitVec 32)), [0x510e527f, 0x9b05688c, 0x1f83d9ab, 0x5be0cd19])

/-- The sum of three rotations of a word. -/
def shaTurn (x : BitVec 32) (i j k : Nat) : BitVec 32 := x.rotateRight i ^^^ x.rotateRight j ^^^ x.rotateRight k

/-- A schedule word sixteen rounds on, from the window of the last sixteen words, oldest first. -/
def shaNextWord (win : List (BitVec 32)) : BitVec 32 :=
  let old := win.getD 1 0
  let late := win.getD 14 0
  win.headD 0 + (old.rotateRight 7 ^^^ old.rotateRight 18 ^^^ old >>> 3) + win.getD 9 0
    + (late.rotateRight 17 ^^^ late.rotateRight 19 ^^^ late >>> 10)

/-- One round on the sum of its schedule word and its constant: what enters e, and with the part that stays what enters a. -/
def shaTurnOver (kw : BitVec 32) (v : ShaVars) : ShaVars :=
  let hi := fun n => v.1.getD n 0
  let lo := fun n => v.2.getD n 0
  let grow := kw + lo 3 + shaTurn (lo 0) 6 11 25 + (lo 2 ^^^ (lo 0 &&& (lo 1 ^^^ lo 2)))
  let stay := shaTurn (hi 0) 2 13 22 + ((hi 0 &&& (hi 1 ||| hi 2)) ||| (hi 1 &&& hi 2))
  ((grow + stay) :: v.1.take 3, (hi 3 + grow) :: v.2.take 3)

/-- `n` rounds from round `t` on, with the schedule window before it. -/
def shaRounds : Nat → Nat → List (BitVec 32) → ShaVars → ShaVars
  | 0, _, _, v => v
  | n + 1, t, win, v => shaRounds n (t + 1) (win.drop 1 ++ [shaNextWord win]) (shaTurnOver (win.headD 0 + shaConstant t) v)

/-- The hash value after one 64-byte block. -/
def shaBlock (v : ShaVars) (block : Bytes) : ShaVars :=
  let win := (List.range 16).map (fun i => BitVec.ofNat 32 (beNat (slice block (4 * i) 4)))
  let u := shaRounds 64 0 win v
  (List.zipWith (· + ·) v.1 u.1, List.zipWith (· + ·) v.2 u.2)

/-- A message padded to whole blocks: bit 1, zeros, and its length in bits. -/
def shaPadded (m : Bytes) : Bytes :=
  m ++ 0x80#8 :: (zeros ((119 - m.length % 64) % 64) ++ beBytes 8 (8 * m.length))

/-- SHA-256 of a byte string: 32 bytes. -/
def sha256 (m : Bytes) : Bytes :=
  let p := shaPadded m
  let v := (List.range (p.length / 64)).foldl (fun v i => shaBlock v (slice p (64 * i) 64)) shaStart
  (v.1 ++ v.2).flatMap (fun w => beBytes 4 w.toNat)

/-- HMAC-SHA-256 (FIPS 198-1) under a key of up to 64 bytes, or a longer key hashed first. -/
def hmacSha256 (key msg : Bytes) : Bytes :=
  let k := padTo 64 (if key.length ≤ 64 then key else sha256 key)
  sha256 (k.map (· ^^^ 0x5C#8) ++ sha256 (k.map (· ^^^ 0x36#8) ++ msg))

/-! ## AES-256 -/

/-- Multiplication by x in GF(2^8) modulo x^8 + x^4 + x^3 + x + 1. -/
def aesXtime (b : Byte) : Byte := if b.getLsbD 7 then (b <<< 1) ^^^ 0x1B#8 else b <<< 1

/-- Multiplication in the field of AES. -/
def aesMul (a b : Byte) : Byte :=
  let step := fun (acc : Byte × Byte) (i : Nat) =>
    ((if b.getLsbD i then acc.1 ^^^ acc.2 else acc.1), aesXtime acc.2)
  ((List.range 8).foldl step (0, a)).1

/-- The inverse in the field of AES, 0 for 0: the 254th power. -/
def aesInv (a : Byte) : Byte :=
  let a2 := aesMul a a
  let a3 := aesMul a2 a
  let a6 := aesMul a3 a3
  let a12 := aesMul a6 a6
  let a15 := aesMul a12 a3
  let a30 := aesMul a15 a15
  let a60 := aesMul a30 a30
  let a120 := aesMul a60 a60
  let a126 := aesMul a120 a6
  let a127 := aesMul a126 a
  aesMul a127 a127

/-- The S-box of AES. -/
def aesSbox (a : Byte) : Byte :=
  let b := aesInv a
  b ^^^ b.rotateLeft 1 ^^^ b.rotateLeft 2 ^^^ b.rotateLeft 3 ^^^ b.rotateLeft 4 ^^^ 0x63#8

/-- The inverse S-box of AES. -/
def aesInvSbox (a : Byte) : Byte :=
  aesInv (a.rotateLeft 1 ^^^ a.rotateLeft 3 ^^^ a.rotateLeft 6 ^^^ 0x05#8)

/-- Word i of the expanded key from word i-1 and word i-8 (Nk = 8). -/
def aesKeyWord (i : Nat) (prev old : Bytes) : Bytes :=
  let rcon := (List.range (i / 8 - 1)).foldl (fun c _ => aesXtime c) 0x01#8
  let t :=
    if i % 8 = 0 then
      xorBytes ((prev.drop 1 ++ prev.take 1).map aesSbox) [rcon, 0, 0, 0]
    else if i % 8 = 4 then prev.map aesSbox
    else prev
  xorBytes old t

/-- The expanded key, words newest first, extended by `n` words from word `i`. -/
def aesExpand : Nat → Nat → List Bytes → List Bytes
  | 0, _, ws => ws
  | n + 1, i, ws => aesExpand n (i + 1) (aesKeyWord i (ws.getD 0 []) (ws.getD 7 []) :: ws)

/-- The first words of the key itself. -/
def aesKeyWords (key : Bytes) : List Bytes := (List.range 8).map (fun i => slice key (4 * i) 4)

/-- The fifteen round keys of AES-256, 16 bytes each. -/
def aesRoundKeys (key : Bytes) : List Bytes :=
  let ws := ((aesExpand 52 8 (aesKeyWords key).reverse).reverse)
  (List.range 15).map (fun r => ((ws.drop (4 * r)).take 4).flatten)

/-- ShiftRows on a 16-byte state in column order. -/
def aesShiftRows (s : Bytes) : Bytes :=
  (List.range 16).map (fun i => s.getD ((i + 4 * (i % 4)) % 16) 0)

/-- The inverse of ShiftRows. -/
def aesInvShiftRows (s : Bytes) : Bytes :=
  (List.range 16).map (fun i => s.getD ((i + 16 - 4 * (i % 4)) % 16) 0)

/-- MixColumns, or its inverse, with the four coefficients of its first row. -/
def aesMixWith (m0 m1 m2 m3 : Byte) (s : Bytes) : Bytes :=
  (List.range 16).map (fun i =>
    let col := i / 4 * 4
    let at' := fun k => s.getD (col + (i % 4 + k) % 4) 0
    aesMul m0 (at' 0) ^^^ aesMul m1 (at' 1) ^^^ aesMul m2 (at' 2) ^^^ aesMul m3 (at' 3))

/-- MixColumns. -/
def aesMixColumns (s : Bytes) : Bytes := aesMixWith 2 3 1 1 s

/-- The inverse of MixColumns. -/
def aesInvMixColumns (s : Bytes) : Bytes := aesMixWith 0x0E 0x0B 0x0D 0x09 s

/-- AES-256 encryption of one block. -/
def aesEncrypt (key block : Bytes) : Bytes :=
  match aesRoundKeys key with
  | [] => block
  | k0 :: ks =>
    let mid := (ks.take 13).foldl
      (fun s k => xorBytes (aesMixColumns (aesShiftRows (s.map aesSbox))) k) (xorBytes block k0)
    xorBytes (aesShiftRows (mid.map aesSbox)) (ks.getD 13 [])

/-- AES-256 decryption of one block. -/
def aesDecrypt (key block : Bytes) : Bytes :=
  match (aesRoundKeys key).reverse with
  | [] => block
  | k14 :: ks =>
    let mid := (ks.take 13).foldl
      (fun s k => aesInvMixColumns (xorBytes ((aesInvShiftRows s).map aesInvSbox) k)) (xorBytes block k14)
    xorBytes ((aesInvShiftRows mid).map aesInvSbox) (ks.getD 13 [])

/-! ## GCM -/

/-- A 16-byte block as the 128-bit number whose most significant bit is the block's first bit. -/
def gcmBlock (b : Bytes) : BitVec 128 := BitVec.ofNat 128 (beNat (padTo 16 b))

/-- Multiplication in GF(2^128) with the bit order of GCM. -/
def gcmMul (x y : BitVec 128) : BitVec 128 :=
  let step := fun (acc : BitVec 128 × BitVec 128) (i : Nat) =>
    ((if x.getMsbD i then acc.1 ^^^ acc.2 else acc.1),
     (if acc.2.getLsbD 0 then (acc.2 >>> 1) ^^^ (0xE1#128 <<< 120) else acc.2 >>> 1))
  ((List.range 128).foldl step (0, y)).1

/-- GHASH over `n` blocks of a byte string, the last one zero-filled. -/
def ghash (h : BitVec 128) : Nat → BitVec 128 → Bytes → BitVec 128
  | 0, acc, _ => acc
  | n + 1, acc, bs => ghash h n (gcmMul (acc ^^^ gcmBlock (bs.take 16)) h) (bs.drop 16)

/-- The number of 16-byte blocks that hold `n` bytes. -/
def blocksOf (n : Nat) : Nat := (n + 15) / 16

/-- The key stream of GCM from counter `c` on, applied to `n` blocks. -/
def gcmCtr (key iv : Bytes) : Nat → Nat → Bytes → Bytes
  | 0, _, _ => []
  | n + 1, c, bs =>
    xorBytes (bs.take 16) (aesEncrypt key (iv ++ beBytes 4 c)) ++ gcmCtr key iv n (c + 1) (bs.drop 16)

/-- The tag of GCM over associated data and ciphertext. -/
def gcmTag (key iv aad ct : Bytes) : Bytes :=
  let h := gcmBlock (aesEncrypt key (zeros 16))
  let s1 := ghash h (blocksOf aad.length) 0 aad
  let s2 := ghash h (blocksOf ct.length) s1 ct
  let s3 := gcmMul (s2 ^^^ gcmBlock (beBytes 8 (8 * aad.length) ++ beBytes 8 (8 * ct.length))) h
  xorBytes (beBytes 16 s3.toNat) (aesEncrypt key (iv ++ beBytes 4 1))

/-- AES-256-GCM encryption: ciphertext and 16-byte tag. -/
def gcmEncrypt (key iv aad pt : Bytes) : Bytes × Bytes :=
  let ct := gcmCtr key iv (blocksOf pt.length) 2 pt
  (ct, gcmTag key iv aad ct)

/-- AES-256-GCM decryption: the plaintext where the tag verifies. -/
def gcmDecrypt (key iv aad ct tag : Bytes) : Option Bytes :=
  if gcmTag key iv aad ct = tag then some (gcmCtr key iv (blocksOf ct.length) 2 ct) else none

/-! ## AES key wrap (RFC 3394) -/

/-- The initial value of RFC 3394. -/
def wrapIv : Bytes := List.replicate 8 0xA6#8

/-- One inner step of wrapping: register A and the n blocks, step number t over block i. -/
def wrapStep (kek : Bytes) (st : Bytes × List Bytes) (t : Nat) : Bytes × List Bytes :=
  let n := st.2.length
  let i := t % n
  let b := aesEncrypt kek (st.1 ++ st.2.getD i [])
  (xorBytes (b.take 8) (beBytes 8 (t + 1)), st.2.set i (b.drop 8))

/-- One inner step of unwrapping. -/
def unwrapStep (kek : Bytes) (st : Bytes × List Bytes) (t : Nat) : Bytes × List Bytes :=
  let n := st.2.length
  let i := t % n
  let b := aesDecrypt kek (xorBytes st.1 (beBytes 8 (t + 1)) ++ st.2.getD i [])
  (b.take 8, st.2.set i (b.drop 8))

/-- AES key wrap of a 32-byte key: 40 bytes. -/
def keyWrap (kek key : Bytes) : Bytes :=
  let r := (List.range 4).map (fun i => slice key (8 * i) 8)
  let w := (List.range 24).foldl (wrapStep kek) (wrapIv, r)
  w.1 ++ w.2.flatten

/-- AES key unwrap of 40 bytes: the key where the integrity check passes. -/
def keyUnwrap (kek wrapped : Bytes) : Option Bytes :=
  let r := (List.range 4).map (fun i => slice wrapped (8 + 8 * i) 8)
  let u := (List.range 24).reverse.foldl (unwrapStep kek) (wrapped.take 8, r)
  if wrapped.length = 40 ∧ u.1 = wrapIv then some u.2.flatten else none

/-! ## ECDSA verification on P-384 (FIPS 186-5) -/

/-- The field prime of P-384. -/
def p384 : Nat := 2 ^ 384 - 2 ^ 128 - 2 ^ 96 + 2 ^ 32 - 1

/-- The order of the base point of P-384. -/
def n384 : Nat :=
  0xffffffffffffffffffffffffffffffffffffffffffffffffc7634d81f4372ddf581a0db248b0a77aecec196accc52973

/-- A difference in the field. -/
def ecSub (a b : Nat) : Nat := (a + (p384 - b % p384)) % p384

/-- `x` to the power that the low `k` bits of `e` spell, modulo `m`. -/
def powMod (m x e : Nat) : Nat → Nat
  | 0 => 1
  | k + 1 =>
    let half := powMod m x (e / 2) k
    let sq := half * half % m
    if e % 2 = 1 then sq * x % m else sq

/-- The inverse of a number modulo a prime of 384 bits. -/
def invMod (m x : Nat) : Nat := powMod m (x % m) (m - 2) 384

/-- A point of the curve in Jacobian coordinates; Z is 0 at infinity. -/
structure EcPoint where
  x : Nat
  y : Nat
  z : Nat
  deriving DecidableEq, Repr

/-- The base point of P-384. -/
def ecBase : EcPoint :=
  { x := 0xaa87ca22be8b05378eb1c71ef320ad746e1d3b628ba79b9859f741e082542a385502f25dbf55296c3a545e3872760ab7
    y := 0x3617de4a96262c6f5d9e98bf9292dc29f8f41dbd289a147ce9da3113b5f0b8c00a60b1ce1d7e819d7a431d7c90ea0e5f
    z := 1 }

/-- Twice a point. -/
def ecDouble (a : EcPoint) : EcPoint :=
  let zz := a.z * a.z % p384
  let yy := a.y * a.y % p384
  let m := 3 * ecSub a.x zz * (a.x + zz) % p384
  let s := 4 * a.x * yy % p384
  let x := ecSub (m * m) (2 * s)
  { x := x, y := ecSub (m * ecSub s x) (8 * yy * yy), z := 2 * a.y * a.z % p384 }

/-- The sum of two points. -/
def ecAdd (a b : EcPoint) : EcPoint :=
  if a.z = 0 then b
  else if b.z = 0 then a
  else
    let za := a.z * a.z % p384
    let zb := b.z * b.z % p384
    let u := a.x * zb % p384
    let s := a.y * (zb * b.z) % p384
    let h := ecSub (b.x * za) u
    let r := ecSub (b.y * (za * a.z)) s
    if h = 0 then (if r = 0 then ecDouble a else ⟨0, 1, 0⟩)
    else
      let hh := h * h % p384
      let x := ecSub (ecSub (r * r) (hh * h)) (2 * u * hh)
      { x := x, y := ecSub (r * ecSub (u * hh) x) (s * (hh * h)), z := h * a.z * b.z % p384 }

/-- u·G + v·Q over the low `k` bits of `u` and `v`, bit by bit from the top. -/
def ecCombine (q : EcPoint) (u v : Nat) : Nat → EcPoint
  | 0 => ⟨0, 1, 0⟩
  | k + 1 =>
    let d := ecDouble (ecCombine q (u / 2) (v / 2) k)
    let e := if u % 2 = 1 then ecAdd d ecBase else d
    if v % 2 = 1 then ecAdd e q else e

/-- Whether `sig`, r and s of 48 bytes each, is the signature of `message` under the public key `q`, over its SHA-256 digest. -/
def ecdsaVerify (q : Nat × Nat) (message sig : Bytes) : Bool :=
  let r := beNat (sig.take 48)
  let s := beNat (slice sig 48 48)
  if r = 0 ∨ n384 ≤ r ∨ s = 0 ∨ n384 ≤ s then false
  else
    let w := invMod n384 s
    let point := ecCombine ⟨q.1, q.2, 1⟩ (beNat (sha256 message) * w % n384) (r * w % n384) 384
    let zi := invMod p384 point.z
    point.z != 0 && point.x * (zi * zi % p384) % p384 % n384 == r

end Sys2Proof.Machine
end

