-- ==== Sys2Proof/Machine/Parts/Core.lean ====
section
/-! DEFINITION. State of the time base, pace, modes, start-up, the Almanac, the Maivo Command Interface, and the
thermal, SMBus and JTAG parts (02, 20, 21, 22, 25). -/

namespace Sys2Proof.Machine

/-- The twelve modes of Table 21-1. -/
inductive Mode where
  | boot | recovery | inventory | fallow | active | sole | yield | returning | quiesce | readonly | dump | service
  deriving DecidableEq, Repr

/-- The three kinds of reset (R503). -/
inductive ResetKind where
  | powerOn | pin | self
  deriving DecidableEq, Repr

/-- The pace word of a quadrant (Table 2-2). -/
structure PaceWord where
  paceMin : Nat
  paceMax : Nat
  pace : Nat
  stale : Bool
  parked : Bool
  deriving DecidableEq, Repr

/-- Time base, operating hours, array time and pace (02). -/
structure TimePart where
  /-- the 64-bit time base (R45) -/
  ticks : Nat
  /-- the time base at the last reset, from which operating hours run (R49) -/
  resetTick : Nat
  /-- operating hours resumed for the reset, in 1/4096 h (R49) -/
  opBase : Nat
  /-- whether step 0x0C has resumed operating hours and array time (R49, R52) -/
  resumed : Bool
  /-- power-cycle count, 32 bits (R50) -/
  powerCycles : Nat
  /-- whether array time has been set for the array (R51) -/
  arraySet : Bool
  /-- array time in µs when it was last set or stepped (R51) -/
  arrayBase : Nat
  /-- the time base at that moment -/
  arrayTick : Nat
  /-- array time runs fast to reach the peer's (R53) -/
  slewing : Bool
  /-- pace words of the four quadrants (R32) -/
  pace : List PaceWord
  /-- pace band, HSW [15:14] (R33) -/
  band : Nat
  /-- lowest PACE of the windows since the last band change, newest first, at most 16 (R33) -/
  bandHistory : List Nat
  /-- band 0b11 stood with the setpoint at 0.70 V or above at the last window's end (R35) -/
  lowPace : Bool
  /-- consecutive windows of pace collapse (R35) -/
  collapse : Nat
  deriving DecidableEq, Repr

/-- The head state word's latched part and its sequence (R482-R484). -/
structure HswPart where
  /-- the latched bits 6 to 12 (R483) -/
  attn : BitVec 16
  /-- Steward autonomy, bit 5 (R496) -/
  autonomy : Bool
  /-- the HSW at its last update -/
  word : BitVec 16
  /-- ATTN_SEQ (R484) -/
  attnSeq : BitVec 16
  deriving DecidableEq, Repr

/-- A ledger entry (Table 21-5) without its CHECK. -/
structure LedgerEntry where
  kind : Nat
  step : Nat
  attempt : Nat
  variant : Nat
  powerCycles : Nat
  result : Status
  detail : Nat
  deriving DecidableEq, Repr

/-- Modes, start-up and power failure (21). -/
structure BootPart where
  mode : Mode
  /-- the mode under QUIESCE (R501) -/
  underQuiesce : Mode
  /-- the mode under READONLY (R501) -/
  underReadonly : Mode
  /-- MCI_STATUS LOADER (Table 20-3) -/
  loader : Bool
  /-- MCI_STATUS READY (Table 20-3) -/
  ready : Bool
  /-- the boot step ledger, oldest first (R506) -/
  ledger : List LedgerEntry
  /-- entries ever written, which places the ring's erased sector (R506) -/
  ledgerCount : Nat
  /-- the start-up step in progress, its attempt and variant -/
  step : Nat
  attempt : Nat
  variant : Nat
  /-- whether the step has begun and not ended -/
  stepOpen : Bool
  lastReset : ResetKind
  /-- whether attempt 4 (or an optional step's retry) of this power-on reset is still to be given (R508) -/
  graceSteps : List Nat
  /-- ledger steps written in this start-up (R26) -/
  ledgerSteps : Nat
  /-- an accepted power failure (R513) -/
  pwrFailAccepted : Bool
  /-- the level of PWRFAIL_N is low -/
  pwrFailLow : Bool
  /-- a quiet stop has been made (R514) -/
  quietStop : Bool
  /-- DUMP was entered by PWRFAIL_N, not by SET_MODE (R502) -/
  dumpByPin : Bool
  /-- DUMP_END has committed (R234) -/
  dumpEnd : Bool
  bootStepFailures : Nat
  selfResets : Nat
  pwrFailGlitches : Nat
  dumps : Nat
  quietStops : Nat
  /-- the power-cycle count of an unsafe stop that step 0x0C has not told yet (R516) -/
  stopUnsafe : Option Nat
  /-- step 0x0C of this start-up creates the array (R510) -/
  creating : Bool
  /-- HEAD_ID as sampled (R14) -/
  headId : Nat
  /-- RESET_N is held low (R503, R564, R566) -/
  resetLow : Bool
  deriving DecidableEq, Repr

/-- An Almanac record (Table 22-1) without LEN and CRC. -/
structure AlmRecord where
  type : Nat
  seq : Nat
  head : Nat
  early : Bool
  flush : Bool
  powerCycles : Nat
  opTime : Nat
  payload : Bytes
  /-- formed before step 0x0C of its reset: OP_TIME is the time elapsed since the reset (R49, DESIGN CHOICE 133) -/
  elapsed : Bool
  deriving DecidableEq, Repr

/-- The Almanac (22). -/
structure AlmPart where
  /-- highest SEQ formed (R532) -/
  newestSeq : Nat
  /-- lowest SEQ readable (R526, R531) -/
  oldestSeq : Nat
  /-- highest SEQ returned by ALMANAC_READ since power-on reset (Table 22-3) -/
  readMark : Nat
  /-- the staging queue, oldest first (R525) -/
  staged : List AlmRecord
  /-- whether the staging queue exists: step 0x0C allocated it (R525) -/
  queueReady : Bool
  /-- units written and not yet committed, oldest first: slot and number of records (R525) -/
  inFlight : List (Nat × Nat)
  /-- the main ring: slot and its records (R524) -/
  ring : List (Nat × List AlmRecord)
  /-- next main-ring slot -/
  slot : Nat
  overwritten : Nat
  lost : Nat
  /-- losses not yet told in a LOSS record: count, first and last OP_TIME (R527) -/
  lossCount : Nat
  lossFirst : Nat
  lossLast : Nat
  /-- ALMANAC_ATTN has been set for overwriting since the last ATTN_ACK (R526) -/
  overwriteTold : Bool
  /-- tick at which the last unit was written (R525) -/
  lastUnit : Option Nat
  /-- the early ring: offset and record, oldest first (R522) -/
  early : List (Nat × AlmRecord)
  /-- the ring offset where the next early record is written (R522) -/
  earlyPos : Nat
  /-- early-ring bytes written this power cycle outside and inside the reserve (R522) -/
  earlyUsed : Nat
  earlyReserveUsed : Nat
  /-- early records beyond the allowance: count, first and last OP_TIME (R522) -/
  earlyLost : Nat
  earlyLostFirst : Nat
  earlyLostLast : Nat
  /-- copies of early records that are not yet persisted: the SEQ of the last of them, the early-ring offset it was copied from,
  and their number (R523) -/
  copying : Option (Nat × Nat × Nat)
  /-- the sixteen work-arena buffers of the staging queue (R525) -/
  buffers : List Nat
  deriving DecidableEq, Repr

/-- A nonce of a ring (R486). -/
structure Nonce where
  value : Bytes
  issued : Nat
  deriving DecidableEq, Repr

/-- A standing WATCH (R485). -/
structure Watch where
  tag : Nat
  attnSeen : Nat
  timeout : Nat
  deriving DecidableEq, Repr

/-- A command ring (Tables 20-2, 20-3). -/
structure CmdRing where
  base : Nat
  size : Nat
  tail : Nat
  head : Nat
  enable : Bool
  fault : Bool
  /-- packets fetched, checked and not yet started, in fetch order (R479) -/
  fetched : List McSlot
  nonce : Option Nonce
  watch : Option Watch
  deriving DecidableEq, Repr

/-- The reply ring (Tables 20-2, 20-3). -/
structure ReplyRing where
  base : Nat
  size : Nat
  tail : Nat
  head : Nat
  enable : Bool
  fault : Bool
  phase : Bool
  deriving DecidableEq, Repr

/-- The command a reply belongs to. -/
structure McRef where
  ring : Nat
  tag : Nat
  deriving DecidableEq, Repr

/-- A reply not yet written: the HSW joins it when it is written (Table 20-5). -/
structure HeldReply where
  tag : Nat
  status : Status
  result : Bytes
  deriving DecidableEq, Repr

/-- What an uncompleted command waits for. -/
inductive WaitKind where
  /-- the commit of the metadata row that holds configuration record `recordNo` (R206, R494) -/
  | rowCommit (recordNo : Nat)
  /-- the acknowledgement of mirror message `mseq` (R576, R311) -/
  | mirrorAck (mseq : Nat)
  /-- the commit of the Almanac unit that holds record `seq` (R52, R531) -/
  | almUnit (seq : Nat)
  /-- FORWARD_DONE of forward `id` (R493, R61) -/
  | forward (id : Nat)
  /-- the peer's KEY_LOAD_ACK of a new epoch (R194) -/
  | epochAck (domain epoch : Nat)
  /-- the drain of a snapshot's barriers (R288) -/
  | barrier (job : Nat)
  /-- a function's quiesced state (R492) -/
  | quiesce (function : Nat)
  /-- the programming of both copies of firmware piece `piece` (R537) -/
  | fwPiece (piece : Nat)
  /-- the end of an activation in place (R542) -/
  | activation
  deriving DecidableEq, Repr

/-- A command that has started and not completed, other than a standing WATCH. -/
structure McWait where
  ref : McRef
  kind : WaitKind
  status : Status
  result : Bytes
  deriving DecidableEq, Repr

/-- An event entry (Table 20-18). -/
structure McEvent where
  code : Nat
  repeats : Nat
  detail : Nat
  time : Nat
  almSeq : Nat
  deriving DecidableEq, Repr

/-- A value of a parameter instance (R489, R490). -/
structure ParamVal where
  id : Nat
  index : Nat
  value : Bytes
  deriving DecidableEq, Repr

/-- A configuration record (Table 20-12). -/
structure ConfigRecord where
  head : Nat
  recordNo : Nat
  commitTime : Nat
  entries : List ParamVal
  deriving DecidableEq, Repr

/-- The Maivo Command Interface (20). -/
structure MciPart where
  rings : List CmdRing
  reply : ReplyRing
  held : List HeldReply
  /-- commands fetched and not completed (R479) -/
  outstanding : List McRef
  waits : List McWait
  /-- ticks of authorisation failures in the last 60 s (R488) -/
  authFails : List Nat
  /-- parameter values in effect that differ from the default -/
  params : List ParamVal
  pendingParams : List ParamVal
  committed : Option ConfigRecord
  /-- records written and not yet committed, oldest first (R494) -/
  configInFlight : List ConfigRecord
  recordNo : Nat
  /-- tick of the last accepted COMMIT_CONFIG (R27) -/
  lastCommit : Option Nat
  /-- functions quiesced or being quiesced (R492) -/
  quiesced : List Nat
  quiescing : List Nat
  /-- tick of the last fetch from any ring (R496) -/
  lastFetch : Nat
  events : List McEvent
  /-- dropped events not yet told by 0x0207 (R498) -/
  eventsDropped : Nat
  /-- BAR0 is in reset because PERST_N is low (R504) -/
  perstLow : Bool
  mciCommands : Nat
  badPackets : Nat
  badDoorbells : Nat
  authFailures : Nat
  watchdogExpiries : Nat
  replyRingFull : Nat
  eventsLost : Nat
  deriving DecidableEq, Repr

/-- The vault (R186, R191). -/
structure VaultPart where
  /-- the sixteen gauntlet slots: a 32-byte key or empty (R186) -/
  gauntlet : List (Option Bytes)
  /-- the latched bits 5 to 0 of VAULT_STATUS (Table 8-8); OCCUPIED follows from the slots -/
  status : BitVec 32
  /-- VAUX is within range (R189) -/
  vaux : Bool
  deriving DecidableEq, Repr

/-- Thermal policy, sensors and supplies (25). -/
structure ThermalPart where
  /-- TJ_Q0 to TJ_Q3, in 1/8 °C (Table 25-7) -/
  tjQ : List Int
  tempHbm : List Int
  tempVault : Int
  /-- module power in mW -/
  powerMw : Nat
  vcoreMv : Nat
  /-- THERMTRIP latched (R567) -/
  tripLatched : Bool
  /-- a latched THERMTRIP not yet counted at a start-up (R572) -/
  tripUncounted : Bool
  /-- the thermal limit, a VSET code (R568) -/
  limit : Option Nat
  /-- thermally parked harrows, in the order they were parked (R568) -/
  parked : List Nat
  lastRelax : Option Nat
  thermalSteps : Nat
  throttleMs : Nat
  supplyExcursions : Nat
  energyMj : Nat
  thermTrips : Nat
  lifeUsed : Nat
  deriving DecidableEq, Repr

/-- The SMBus target (R564). -/
structure SmbusPart where
  /-- the sixteen words of Table 25-7 as last refreshed -/
  words : List (BitVec 16)
  /-- the last command code accepted, and the word latched then -/
  code : Nat
  latched : Option (BitVec 16)
  deriving DecidableEq, Repr

/-- The JTAG instructions of R565. -/
inductive JtagInstr where
  | bypass | idcode | samplePreload | extest | extestPulse | extestTrain | clamp | highz
  deriving DecidableEq, Repr

/-- The four regions of the boot flash that hold content (Table 1-8): the operating time of the last write of LOADER, IMAGE, EARLY_RING
and LEDGER, and how often each has been rewritten unchanged (R26). -/
structure FlashPart where
  lastWrite : List Nat
  refreshes : List Nat
  deriving DecidableEq, Repr

/-- An image: its manifest, none while the manifest sector is erased, and its pieces by number; a piece that `factory` covers and the
list does not name is the factory image's. -/
structure FwImage where
  manifest : Option Bytes
  pieces : List (Nat × Bytes)
  factory : Bool
  deriving DecidableEq, Repr

/-- A record in a firmware block (Table 23-3): kind 1 piece, 2 manifest, 3 ACTIVATE; where it lies, and whether it is programmed and
superseded. -/
structure FwRecord where
  kind : Nat
  imageId : Nat
  piece : Nat
  data : Bytes
  seq : Nat
  actSeq : Nat
  bridge : Nat
  block : Nat
  place : Nat
  programmed : Bool
  superseded : Bool
  deriving DecidableEq, Repr

/-- Firmware update (23). -/
structure FwPart where
  /-- the image that Steward runs, in the image area of near store, and the copy that an activation has placed there (R542) -/
  running : FwImage
  placed : Option FwImage
  /-- the IMAGE region of the boot flash, the two loader slots, and the slot that runs (R546, R547) -/
  image : FwImage
  loaders : List FwImage
  loader : Nat
  /-- update state: 0 NONE, 1 RECEIVING, 2 STAGED, 3 ACTIVATING (Table 23-4) -/
  state : Nat
  /-- the staged manifest, and the pieces held -/
  manifest : Option Bytes
  pieces : List (Nat × Bytes)
  /-- the staging lies in firmware blocks, not in work-arena buffers or in IMAGE (R538, R539) -/
  onMedia : Bool
  /-- work-arena buffers that hold it otherwise (R539) -/
  handles : List Nat
  /-- the head's records in firmware blocks -/
  records : List FwRecord
  /-- step of Table 23-6 under way, 0 none; the sectors overwritten; harrows handed over; drains of the present one abandoned -/
  step : Nat
  sectors : Nat
  handed : Nat
  abandons : Nat
  /-- steps 1 to 4 have been done: the next FW_ACTIVATE skips them -/
  skip : Bool
  /-- the activation ends by the fail-over path (R545) -/
  failover : Bool
  /-- what the loader has received of the peer's image (R547) -/
  loading : Option FwImage
  piecesPut : Nat
  piecesRejected : Nat
  activations : Nat
  deriving DecidableEq, Repr

end Sys2Proof.Machine
end

