-- ==== Sys2Proof/Machine/Flags.lean ====
section
/-! DEFINITION. Codes and flag words: the statuses of Table 20-6, the mode codes of Table 21-1, the HSW of Table 20-7,
the events of Table 14-10 with their HSW bits, and the Almanac record types of Table 22-2. -/

namespace Sys2Proof.Machine

/-! ## Status values (Table 20-6) -/

/-- ST_OK -/
def stOk : Status := 0x0000
/-- ST_OK_INFO -/
def stOkInfo : Status := 0x0001
/-- ST_BUSY -/
def stBusy : Status := 0x1001
/-- ST_BAD_OPCODE -/
def stBadOpcode : Status := 0x2001
/-- ST_BAD_PARAM -/
def stBadParam : Status := 0x2002
/-- ST_WRONG_MODE -/
def stWrongMode : Status := 0x3001
/-- ST_NOT_QUIESCED -/
def stNotQuiesced : Status := 0x3002
/-- ST_READ_ONLY -/
def stReadOnly : Status := 0x3003
/-- ST_LEASE_LOST -/
def stLeaseLost : Status := 0x3004
/-- ST_AUTH_FAILED -/
def stAuthFailed : Status := 0x4001
/-- ST_NO_RESOURCE -/
def stNoResource : Status := 0x5001
/-- ST_MEDIA -/
def stMedia : Status := 0x6001
/-- ST_INTERNAL -/
def stInternal : Status := 0x7001
/-- ST_CIPHER_FAULT -/
def stCipherFault : Status := 0x7002
/-- ST_ABORTED -/
def stAborted : Status := 0x8001

/-- The class of a status, bits [15:12] (R481). -/
def statusClass (st : Status) : Nat := st.toNat / 4096

/-- Whether a status is of class 0x0, success. -/
def statusOk (st : Status) : Bool := statusClass st == 0

/-! ## Modes (Table 21-1) -/

/-- The code of a mode in HSW [3:0]. -/
def modeCode : Mode → Nat
  | .boot => 1 | .recovery => 2 | .inventory => 3 | .fallow => 4 | .active => 5 | .sole => 6
  | .yield => 7 | .returning => 8 | .quiesce => 9 | .readonly => 10 | .dump => 11 | .service => 12

/-! ## HSW bits (Table 20-7) -/

/-- SECURITY_ATTN is HSW bit 12. -/
def bitSecurity : Nat := 12
/-- FAILOVER_ATTN is HSW bit 11. -/
def bitFailover : Nat := 11
/-- UPDATE_ATTN is HSW bit 10. -/
def bitUpdate : Nat := 10
/-- ALMANAC_ATTN is HSW bit 9. -/
def bitAlmanac : Nat := 9
/-- THERMAL_ATTN is HSW bit 8. -/
def bitThermal : Nat := 8
/-- MEDIA_ATTN is HSW bit 7. -/
def bitMedia : Nat := 7
/-- HEALTH_ATTN is HSW bit 6. -/
def bitHealth : Nat := 6

/-- The bits that are latched and that ATTN_ACK may clear (R483). -/
def attnMask : BitVec 16 := 0x1FC0

/-- The HSW word from its parts (Table 20-7). -/
def hswWord (band : Nat) (events : Bool) (attn : BitVec 16) (autonomy peer : Bool) (mode : Mode) : BitVec 16 :=
  BitVec.ofNat 16 (band % 4 * 2 ^ 14 + flagBit events * 2 ^ 13 + flagBit autonomy * 2 ^ 5 + flagBit peer * 2 ^ 4
    + modeCode mode) ||| (attn &&& attnMask)

/-! ## Events (Table 14-10, R498) -/

/-- The HSW attention bit of an event code, if it has one (Table 14-10). -/
def eventBit : Nat → Option Nat
  | 0x0102 => some 6 | 0x0103 => some 6 | 0x0104 => some 6 | 0x0105 => some 8 | 0x0106 => some 6
  | 0x0107 => some 6 | 0x0108 => some 6 | 0x0201 => some 11 | 0x0202 => some 11 | 0x0203 => some 7
  | 0x0204 => some 8 | 0x0205 => some 6 | 0x0206 => some 12 | _ => none

/-- Whether an event is offered to NVMe hosts (Table 14-10). -/
def eventToNvme : Nat → Bool
  | 0x0202 => true | 0x0203 => true | 0x0204 => true | 0x0205 => true | _ => false

/-- A detail of two parts: [63:32] and [31:0] (R362). -/
def detail2 (a b : Nat) : Nat := a % 2 ^ 32 * 2 ^ 32 + b % 2 ^ 32

/-- The part of an event detail that does not apply (R362). -/
def detailNone : Nat := 0xFFFFFFFF

/-! ## The Almanac -/

/-- LEN of a record with a payload of `n` bytes: a multiple of 8, at least 32 (R518). -/
def almLen (n : Nat) : Nat := max 32 (roundUp (0x18 + n + 4) 8)

/-- SEQ while unsequenced (R522). -/
def almUnsequenced : Nat := 0xFFFFFFFFFFFF

/-- The last SEQ that is ever given (R519). -/
def almLastSeq : Nat := 0xFFFFFFFFFFFE

/-- A record's bytes (Table 22-1). -/
def almBytes (stagedCopy : Bool) (r : AlmRecord) : Bytes :=
  let len := almLen r.payload.length
  let flags := flagBit r.early + 2 * flagBit stagedCopy + 4 * flagBit r.flush
  let body := leBytes 2 len ++ leBytes 2 r.type ++ leBytes 6 r.seq ++ leBytes 1 r.head ++ leBytes 1 flags
    ++ leBytes 4 r.powerCycles ++ leBytes 8 r.opTime ++ padTo (len - 0x1C) r.payload
  body ++ leBytes 4 (crc32c body)

end Sys2Proof.Machine
end

