-- ==== Sys2Proof/Machine/Parts/Engines.lean ====
section
/-! DEFINITION. State of the engines: tines and tickets (05), Winnow (06), the Voxca engines (07), the cipher complexes,
key slots and domains (08), the memories and the metadata cache (17), Granary (18) and the DMA engine (19). -/

namespace Sys2Proof.Machine

/-! ## Tines, tickets, epochs (05) -/

/-- A queued ticket. -/
structure Ticket where
  type : Nat
  prio : Nat
  wait : Bool
  tomb : Bool
  pinned : Bool
  home : Nat
  orderKey : Option Nat
  epoch : Option EpochRef
  /-- reference of the issuing ticket (Table 5-4), 0xFFFF_FFFF for a root ticket -/
  parent : Nat
  handles : List Nat
  args : Bytes
  stamp : Nat
  /-- its own reference (Table 5-4) -/
  ref : Nat
  /-- watchdog expiries it has met (R116) -/
  expiries : Nat
  /-- it lies in a spill entry (R112) -/
  spilled : Bool
  deriving DecidableEq, Repr

/-- A ticket on a tine. -/
structure RunningTicket where
  tine : Nat
  ticket : Ticket
  started : Nat
  /-- follow-on tickets it has still to issue: its tine waits for spill entries (R113) -/
  left : List TicketForm
  deriving DecidableEq, Repr

/-- States of an epoch entry (Table 5-8). -/
inductive EpochState where
  | free | opened | committed | squashed
  deriving DecidableEq, Repr

/-- An epoch-table entry (R123). -/
structure EpochEntry where
  state : EpochState
  gen : Nat
  live : Nat
  handles : List Nat
  /-- the chunk ID reserved for the provisional chunk (R79, R80) -/
  chunkId : Option Nat
  deriving DecidableEq, Repr

/-- Park states of a harrow (Table 5-9). -/
inductive ParkState where
  | running | draining | parked | waking
  deriving DecidableEq, Repr

/-- A harrow: queues P0 to P3, epoch table, park state, run-ahead budget and counters. -/
structure Harrow where
  queues : List (List Ticket)
  /-- dispatches so far, modulo 64: they place the minimum shares of Table 5-6 -/
  dispatches : Nat
  epochs : List (Nat × EpochEntry)
  park : ParkState
  /-- the harrow entered the parked set again while WAKING (Table 5-9) -/
  parkAgain : Bool
  /-- an abandoned park waits for its retry (Table 5-9) -/
  parkRetry : Bool
  permanentlyParked : Bool
  /-- current run-ahead budget (R81) -/
  budget : Nat
  /-- squashes and decided run-aheads of the current 1 ms window (R81) -/
  windowSquashes : Nat
  windowDecided : Nat
  /-- last generation of each ticket slot that has been used (Table 5-4) -/
  slotGen : List (Nat × Nat)
  /-- chunk IDs returned to the harrow's provisional ID block (R80) -/
  idBlock : List Nat
  ticketsRun : Nat
  gleanedIn : Nat
  gleanedOut : Nat
  keyConflicts : Nat
  spills : Nat
  rootRefused : Nat
  epochsOpened : Nat
  commits : Nat
  squashes : Nat
  tombstones : Nat
  provRefused : Nat
  watchdog : Nat
  parkAbandoned : Nat
  deriving DecidableEq, Repr

/-- A tine: ticks of its watchdog expiries within 1 h, and quarantine (R116). -/
structure Tine where
  expiries : List Nat
  quarantined : Bool
  deriving DecidableEq, Repr

/-- The work model (05). -/
structure TinesPart where
  harrows : List Harrow
  tines : List Tine
  running : List RunningTicket
  deriving DecidableEq, Repr

/-! ## Winnow (06) -/

/-- A valid Winnow entry (R133). -/
structure WinnowEntry where
  key : BitVec 96
  data : BitVec 32
  hits : Nat
  /-- the parity bit over the key, the data, VALID and HITS -/
  parity : Bool
  deriving DecidableEq, Repr

/-- The counters of a table (R151). -/
structure WinnowCounters where
  searches : Nat
  hits : Nat
  multiResults : Nat
  inserts : Nat
  evictions : Nat
  deletes : Nat
  parityDrops : Nat
  deriving DecidableEq, Repr

/-- Winnow (06). -/
structure WinnowPart where
  /-- valid entries by 8,192 × bank + entry -/
  entries : List (Nat × WinnowEntry)
  desc : List (BitVec 64)
  /-- descriptors set under quiesce and not yet resumed (R147) -/
  pendingDesc : List (Nat × BitVec 64)
  /-- MASK1 to MASK15 that differ from all ones, by 16 × table + mask (R139) -/
  masks : List (Nat × BitVec 192)
  pendingMasks : List (Nat × BitVec 192)
  victimPtr : List Nat
  counters : List WinnowCounters
  deriving DecidableEq, Repr

/-! ## Voxca engines (07) -/

/-- A compressor engine: ticks of its VERIFY_FAIL outcomes within 1 h, quarantine, and the work it has compressed and not
yet verified (R164, R165). -/
structure Compressor where
  fails : List Nat
  quarantined : Bool
  /-- VX_STATUS of its last outcome (Table 7-4) -/
  status : Nat
  deriving DecidableEq, Repr

/-- The engine slice of a harrow: three compressors, three decompressors, counters (Table 7-8). -/
structure VoxcaSlice where
  compressors : List Compressor
  /-- quarantine of each decompressor, and VX_STATUS of its last outcome -/
  decompressors : List (Bool × Nat)
  compInBytes : Nat
  compOutBytes : Nat
  compAbandoned : Nat
  decompOutBytes : Nat
  decodeErrors : Nat
  decompDisagree : Nat
  deriving DecidableEq, Repr

/-! ## Cipher (08) -/

/-- An AES core (R180). -/
structure AesCore where
  mismatches : Nat
  quarantined : Bool
  deriving DecidableEq, Repr

/-- Operations of a cipher request (Table 8-3). -/
inductive CipherOp where
  | gcmEncrypt | gcmDecrypt | hmac
  deriving DecidableEq, Repr

/-- A cipher request queued or running: its ticket's harrow and epoch, the complex, and the pair once granted. -/
structure CipherJob where
  id : Nat
  op : CipherOp
  req : CipherRequest
  harrow : Nat
  /-- the tine of the issuing ticket -/
  tine : Nat
  epoch : Option EpochRef
  /-- the complex it is at, or 4 + q while no complex can take it (R174) -/
  complex : Nat
  pair : Option (Nat × Nat)
  /-- the request repeats a faulted one, that used this pair (R181) -/
  repeats : Option (Nat × Nat)
  deriving DecidableEq, Repr

/-- A cipher complex: the core most recently granted, the classes of the last pair grants, counters (R172, R173, R202). -/
structure CipherComplex where
  lastCore : Nat
  /-- classes of the last 15 grants, newest first: true for BULK (R173) -/
  grants : List Bool
  requests : Nat
  bytes : Nat
  tagFails : Nat
  cipherFaults : Nat
  forwarded : Nat
  slotLoads : Nat
  slotEvictions : Nat
  deriving DecidableEq, Repr

/-- States of a working slot (Table 8-5). -/
inductive SlotState where
  | empty | loading | valid | evicting
  deriving DecidableEq, Repr

/-- USE of a working slot (Table 8-5). -/
inductive SlotUse where
  | none | data | repl | hmac
  deriving DecidableEq, Repr

/-- A working slot (R183). -/
structure WorkingSlot where
  state : SlotState
  use : SlotUse
  kek : Nat
  domain : Nat
  epoch : Nat
  key : Bytes
  /-- the label from which a REPL or HMAC key is derived (R200), for key-load events (R185) -/
  label : Bytes
  /-- recency: larger is more recently used (R184) -/
  used : Nat
  deriving DecidableEq, Repr

/-- A load that waits: for its vault time, or for an EVICTING slot to empty (R184, R185). -/
structure SlotLoad where
  slot : Nat
  use : SlotUse
  kek : Nat
  domain : Nat
  epoch : Nat
  key : Bytes
  label : Bytes
  /-- the load answers the peer's KEY_LOAD of this identifier -/
  ackTo : Option Nat
  deriving DecidableEq, Repr

/-- An envelope: a data key wrapped under a key-encryption key (R192, Table 11-9). -/
structure Envelope where
  epoch : Nat
  kek : Nat
  /-- array time of its creation -/
  time : Nat
  wrapped : Bytes
  deriving DecidableEq, Repr

/-- A dedup domain (R57, R193-R195). -/
structure Domain where
  id : Nat
  salt : Bytes
  kek : Nat
  voxcaLevel : Nat
  verifyPolicy : Nat
  /-- KEY_EPOCH: the current epoch -/
  epoch : Nat
  /-- highest epoch number ever issued (R193) -/
  issued : Nat
  /-- stored chunks per epoch (R195) -/
  counts : List (Nat × Nat)
  envelopes : List Envelope
  /-- destroyed epochs whose envelope copies still lie on media (R197) -/
  destroying : List Nat
  /-- SECURITY_ATTN has been set for the present lock (R188) -/
  locked : Bool
  /-- DOMAIN_LOCKED has been recorded for the present lock -/
  lockTold : Bool
  deriving DecidableEq, Repr

/-- An epoch advance under way (Table 8-9): domain, new epoch, working slot, and the journal record that must persist. -/
structure EpochAdvance where
  domain : Nat
  epoch : Nat
  slot : Nat
  /-- step of Table 8-9 whose end is awaited: 2, 3 or 4 -/
  step : Nat
  ref : Option (Nat × Nat)
  deriving DecidableEq, Repr

/-- The cipher system (08). -/
structure CipherPart where
  cores : List AesCore
  complexes : List CipherComplex
  jobs : List CipherJob
  nextJob : Nat
  /-- ticks of ST_CIPHER_FAULT outcomes within 1 s (R182) -/
  faultTicks : List Nat
  slots : List (Nat × WorkingSlot)
  loads : List SlotLoad
  useClock : Nat
  advances : List EpochAdvance
  deriving DecidableEq, Repr

/-! ## Memories and metadata cache (17) -/

/-- Bytes by address, strictly rising; an address not listed has never been written (its content is undefined). -/
abbrev Memory := List Host.Cell

/-- States of the metadata cache (Table 17-7). -/
inductive McState where
  | enabled | disabling | disabled
  deriving DecidableEq, Repr

/-- A valid line of the metadata cache (Table 17-5), with its 128 bytes. -/
structure McLine where
  slice : Nat
  set : Nat
  way : Nat
  tag : Nat
  dirty : Bool
  reused : Bool
  data : List (Option Byte)
  deriving DecidableEq, Repr

/-- A line of a side buffer or of the victim region, by its line address. -/
structure BufferLine where
  line : Nat
  dirty : Bool
  reused : Bool
  data : List (Option Byte)
  deriving DecidableEq, Repr

/-- Per-slice counters of R440. -/
structure McCounters where
  hits : Nat
  misses : Nat
  sbHits : Nat
  victimHits : Nat
  victimDeclined : Nat
  prefetches : Nat
  tagParity : Nat
  dataUe : Nat
  dirtyLost : Nat
  deriving DecidableEq, Repr

/-- Near store, far store and the metadata cache (17). -/
structure MemPart where
  near : Memory
  far : Memory
  /-- pseudo-channel numbers mapped out, 0 to 2 (R416) -/
  mappedOut : Nat
  /-- near-store regions in effect, GiB: OWN_WB, MIRROR, READ_CACHE, VICTIM, POOLS (R417) -/
  partition : List Nat
  /-- far-store capacity in use, bytes (R419) -/
  farBytes : Nat
  /-- far store holds its tables: step 0x0E has rebuilt it (R421) -/
  farValid : Bool
  /-- 1 GiB extents of FILTER and LOCATION (R422) -/
  filterExtents : Nat
  locationExtents : Nat
  /-- location pages are paged (R421) -/
  locationPagedOn : Bool
  mcState : McState
  wayPowered : BitVec 16
  wayLocked : BitVec 16
  /-- ways being powered down (R434) -/
  wayGoing : BitVec 16
  /-- empty slots of locked ways that an invalidation or a disable left, by (slice × 16,384 + set) × 16 + way (R433) -/
  holes : List Nat
  /-- valid lines, least recently used first -/
  lines : List McLine
  /-- side buffers of the four slices, least recently used first (R428) -/
  side : List (List BufferLine)
  /-- the victim region, least recently used first (R427) -/
  victim : List BufferLine
  /-- far-store line addresses lost and to be rebuilt before use (R429) -/
  invalidLines : List Nat
  nsCe : List Nat
  nsUe : List Nat
  fsCe : List Nat
  fsUe : List Nat
  counters : List McCounters
  locationPaged : Nat
  deriving DecidableEq, Repr

/-! ## Granary (18) -/

/-- A header entry (Table 18-3). -/
structure GHeader where
  refcount : Nat
  gen : Nat
  owner : Nat
  share : BitVec 6
  /-- PROV and the epoch reference, generation cut to 12 bits -/
  prov : Option EpochRef
  deriving DecidableEq, Repr

/-- A waiting allocation (R457). -/
structure GWaiter where
  unit : Nat
  epoch : Option EpochRef
  len : Nat
  since : Nat
  long : Bool
  deriving DecidableEq, Repr

/-- A free list of an arena and pool (R441, R450): the freed indices, newest first, over the never-used indices from
`fresh` upward. -/
structure GList where
  base : Nat
  count : Nat
  fresh : Nat
  stack : List Nat
  cut : Bool
  waiters : List GWaiter
  freeMin : Nat
  low : Bool
  allocs : Nat
  frees : Nat
  waits : Nat
  lowEntries : Nat
  staleReleases : Nat
  foreignReleases : Nat
  doubleReleases : Nat
  squashLate : Nat
  squashFrees : Nat
  refFull : Nat
  listCuts : Nat
  deriving DecidableEq, Repr

/-- Granary (18): headers that differ from reset by 2^21 × pool + index, and 24 lists by 8 × arena + pool. -/
structure GranaryPart where
  headers : List (Nat × GHeader)
  lists : List GList
  deriving DecidableEq, Repr

/-! ## DMA (19) -/

/-- A channel (Tables 19-7 to 19-9, R474). -/
structure DmaChannel where
  base : Nat
  size : Nat
  tail : Nat
  head : Nat
  enable : Bool
  lost : Bool
  halted : Bool
  waiting : Bool
  idle : Bool
  /-- the descriptor running at HEAD (R459) -/
  running : Option DmaFetch
  /-- a tail written while quiesced (R472) -/
  heldTail : Option Nat
  descriptors : Nat
  bytes : Nat
  errors : Nat
  mismatches : Nat
  ownStalls : Nat
  badDoorbells : Nat
  disables : Nat
  deriving DecidableEq, Repr

end Sys2Proof.Machine
end

