-- ==== Sys2Proof/Machine/Parts/Data.lean ====
section
/-! DEFINITION. State of the data path: ingest (03), read (04), media (09), the Furrow links and bridges (10), the map, the
journal and the checkpoint (11). -/

namespace Sys2Proof.Machine

/-! ## Targets, map tables (R276-R282) -/

/-- A target of a journal record (R280): a grain, or a piece of an object by object number, byte offset and length. -/
inductive Target where
  | grain (ns grain : Nat)
  | piece (object offset len : Nat)
  deriving DecidableEq, Repr

/-- A location entry (Table 11-7); LENGTH 0 marks a lost chunk. `off` and `len` are in units of 64 bytes. -/
structure Loc where
  acre : Nat
  bale : Nat
  plot : Nat
  off : Nat
  len : Nat
  gen : Nat
  refcount : Nat
  /-- domain and key epoch of the record it names, which the record's header holds; not part of the entry's bytes -/
  domain : Nat
  epoch : Nat
  deriving DecidableEq, Repr

/-- A piece of an object (R278). -/
structure Piece where
  entry : Nat
  offset : Nat
  len : Nat
  deriving DecidableEq, Repr

/-- An object record (Table 11-8). -/
structure ObjRecord where
  key : Bytes
  objDomain : Nat
  dedupDomain : Nat
  state : Nat
  holdFlags : Nat
  number : Nat
  size : Nat
  pieceCount : Nat
  commitTime : Nat
  holdUntil : Nat
  prev : Nat
  deriving DecidableEq, Repr

/-- A snapshot (Table 11-11). -/
structure Snapshot where
  kind : Nat
  id : Nat
  num : Nat
  createJseq : Nat
  createTime : Nat
  /-- SNAP_DELETE has placed its record; HOUSEKEEP still settles its pages (R291) -/
  deleting : Bool
  deriving DecidableEq, Repr

/-- A snapshot's own copy of a MAP page: its mapped slots (R276). -/
structure SnapPage where
  ns : Nat
  snap : Nat
  page : Nat
  entries : List (Nat × Nat)
  deriving DecidableEq, Repr

/-- An entry of the dedup index (R277) with the number of its page. -/
structure IndexEntry where
  domain : Nat
  fp : Bytes
  entry : Nat
  page : Nat
  deriving DecidableEq, Repr

/-- A parameter of a namespace, object domain or dedup domain (SCOPE_PARAM of Table 11-12). -/
structure ScopeParam where
  kind : Nat
  id : Nat
  param : Nat
  value : Bytes
  deriving DecidableEq, Repr

/-- A block namespace (Tables 11-11, 20-14). -/
structure Namespace where
  id : Nat
  size : Nat
  lbaLog2 : Nat
  domain : Nat
  nguid : Bytes
  /-- NVMe hosts attached, by host index -/
  hosts : List Nat
  /-- the head that is its ingest owner (R61) -/
  owner : Nat
  /-- an exposed snapshot: the source namespace and snapshot (R293) -/
  exposes : Option (Nat × Nat)
  deriving DecidableEq, Repr

/-- A Sheaf object domain (Tables 11-11, 20-14). -/
structure ObjDomain where
  id : Nat
  domain : Nat
  owner : Nat
  /-- clients admitted -/
  clients : List Nat
  deriving DecidableEq, Repr

/-- A replication pair record (Table 12-9). -/
structure PairRecord where
  pair : Nat
  role : Nat
  state : Nat
  kind : Nat
  slot : Nat
  source : Nat
  target : Nat
  sessionLast : Nat
  partner : Bytes
  lastTargetJseq : Nat
  deriving DecidableEq, Repr

/-- An acre (Tables 9-2, 11-2). -/
structure Acre where
  num : Nat
  stream : Nat
  k : Nat
  m : Nat
  nBales : Nat
  opener : Nat
  openSeq : Nat
  openTime : Nat
  /-- bridge, die and block of each block index (R204) -/
  blocks : List (Nat × Nat × Nat)
  /-- 1 OPEN, 2 SEALED, 3 RECLAIMING, 4 DRAINING, 5 ERASING (Table 9-2) -/
  state : Nat
  /-- the stream class's quadrant (R213) -/
  quadrant : Nat
  /-- bales opened so far, and bales committed -/
  started : Nat
  committed : Nat
  /-- bales opened that never commit (R215, Table 9-4) -/
  torn : List Nat
  /-- operating hours when it was sealed (R216) -/
  sealedAt : Nat
  /-- bales marked for relocation (R103, R224) -/
  marked : List Nat
  /-- domain and epoch of each envelope of which it holds a copy (R197, R279) -/
  envelopes : List (Nat × Nat)
  /-- highest JSEQ of a journal record in it -/
  maxJseq : Nat
  deriving DecidableEq, Repr

/-- The map and the other tables that the journal and the checkpoint hold. -/
structure MapTables where
  /-- live map entries by namespace × 2^31 + grain; an absent one is zero -/
  live : List (Nat × Nat)
  /-- copies of MAP pages that snapshots hold -/
  pages : List SnapPage
  locs : List (Nat × Loc)
  index : List IndexEntry
  objects : List ObjRecord
  pieces : List (Nat × List Piece)
  snaps : List Snapshot
  domains : List (Nat × Domain)
  namespaces : List Namespace
  objdoms : List ObjDomain
  scopeParams : List ScopeParam
  pairs : List PairRecord
  /-- the array's host table: index and HOSTNQN (R368) -/
  hosts : List (Nat × Bytes)
  deriving DecidableEq, Repr

/-! ## Journal (R86, R280) -/

/-- A change of the array's tables of namespaces, object domains, dedup domains and hosts, which R379 journals and mirrors and for which
Table 11-12 lists no type (DESIGN CHOICE 21): the whole new entry, or the number of one that is gone. -/
inductive TableChange where
  | nspace (n : Namespace)
  | namespaceGone (id : Nat)
  | objdom (o : ObjDomain)
  | objdomGone (id : Nat)
  | domain (id kek level policy : Nat) (salt : Bytes)
  | domainGone (id : Nat)
  | host (index : Nat) (nqn : Bytes)
  | hostGone (index : Nat)
  /-- chunk-ID blocks that one head has granted the other, as first block and count (R310) -/
  | idGrant (head : Nat) (blocks : List (Nat × Nat))
  /-- a domain's key-encryption key slot (KEY_DOMAIN_BIND) -/
  | bind (id kek : Nat)
  deriving DecidableEq, Repr

/-- The body of a journal record (Table 11-12). -/
inductive JBody where
  | buffered (t : Target) (off len seq : Nat)
  | chunk (t : Target) (entry : Nat) (loc : Loc) (fp : Bytes)
  | reference (t : Target) (entry : Nat)
  | unmap (t : Target) (count : Nat)
  | relocate (entry : Nat) (loc : Loc)
  | object (record : ObjRecord)
  /-- the array time is CREATE_TIME, which the record does not carry -/
  | snapshot (kind op id num time : Nat)
  | envelope (domain epoch kek time : Nat) (wrapped : Bytes)
  | keyEpoch (domain epoch : Nat)
  | epochDestroy (domain epoch : Nat)
  /-- a snapshot's copy of a MAP page stands in the unit the record names -/
  | page (pageId : Nat) (acre bale plot row : Nat) (copy : Option SnapPage)
  | acreState (acre state : Nat)
  /-- a complete checkpoint, with the location of part 0 of its root -/
  | checkpoint (number : Nat) (root : Nat × Nat × Nat × Nat)
  | time (arrayTime opTime : Nat)
  | replPair (record : PairRecord)
  | scopeParam (p : ScopeParam)
  /-- a change of the tables, under the type code `Config.tableType` -/
  | table (c : TableChange)
  deriving DecidableEq, Repr

/-- A journal record in the ring. -/
structure JRecord where
  jseq : Nat
  body : JBody
  placed : Nat
  /-- it stands in a metadata row that is being programmed -/
  written : Bool
  persisted : Bool
  deriving DecidableEq, Repr

/-- What a metadata unit carries, besides padding (R206, R213). -/
inductive MetaItem where
  /-- journal records up to a JSEQ -/
  | journal (upTo : Nat)
  | page (pageId : Nat) (copy : Option SnapPage)
  /-- an ALMANAC unit: its slot and its last record's SEQ -/
  | almanac (slot lastSeq : Nat)
  | config (recordNo : Nat)
  /-- a part of a checkpoint root -/
  | checkpointRoot (number : Nat)
  | other
  deriving DecidableEq, Repr

/-- A metadata unit that waits for a row, or is in one (Table 11-5). -/
structure MetaUnit where
  utype : Nat
  part : Nat
  pageId : Nat
  jseq : Nat
  payload : Bytes
  item : MetaItem
  deriving DecidableEq, Repr

/-- A metadata row being programmed (R206). -/
structure MetaRow where
  id : Nat
  acre : Nat
  bale : Nat
  row : Nat
  units : List MetaUnit
  /-- plots not yet reported programmed -/
  waiting : List Nat
  /-- a segment failed: the row never commits (R215) -/
  failed : Bool
  deriving DecidableEq, Repr

/-- The open metadata bale of an acre: next row, and the WRITE_SEQ of its plot 0. -/
structure MetaBale where
  acre : Nat
  bale : Nat
  row : Nat
  baseSeq : Nat
  deriving DecidableEq, Repr

/-- A checkpoint being written (R87, R282): 1 its dirty pages, 2 its DIRECTORY pages, 3 its root. -/
structure CheckpointRun where
  number : Nat
  /-- its records are those before this JSEQ: REPLAY_FROM is one less -/
  replayFrom : Nat
  tables : MapTables
  stage : Nat
  /-- array time in its root -/
  time : Nat
  /-- PAGE_IDs and unit locations of its DIRECTORY pages -/
  dirPages : List (Nat × (Nat × Nat × Nat × Nat))
  /-- the directory that those pages hold, and where part 0 of the root stands -/
  dir : List (Nat × (Nat × Nat × Nat × Nat))
  root : Nat × Nat × Nat × Nat
  deriving DecidableEq, Repr

/-- The journal ring, the metadata stream and what they have persisted. -/
structure JournalPart where
  ring : List JRecord
  /-- JSEQ of the next record; bit 0 is the head (R280) -/
  nextJseq : Nat
  rows : List MetaRow
  nextRow : Nat
  /-- the metadata bale being filled -/
  metaOpen : List MetaBale
  /-- units that wait for a row -/
  due : List MetaUnit
  checkpointNumber : Nat
  lastCheckpoint : Nat
  checkpointing : Option CheckpointRun
  /-- a complete checkpoint whose CHECKPOINT record is not yet persisted, with that record's JSEQ -/
  checkpointDone : Option (Nat × CheckpointRun)
  /-- the newest complete checkpoint, the directory that it holds, and the JSEQ from which replay goes on (R281, R282) -/
  checkpoint : MapTables
  checkpointDir : List (Nat × (Nat × Nat × Nat × Nat))
  replayFrom : Nat
  /-- array time that the newest complete checkpoint holds (R51) -/
  checkpointTime : Nat
  /-- the directory: PAGE_ID and the location of its current copy (R274) -/
  directory : List (Nat × (Nat × Nat × Nat × Nat))
  writeSeq : Nat
  deriving DecidableEq, Repr

/-! ## Ingest (03) -/

/-- The commit of a buffered record: map entry, JSEQ of the record that made it, the MIRROR message that carries that record while
it is not acknowledged, and the sub-link of its acknowledgement (R85, R314). -/
structure Commit where
  /-- the range of the target it covers -/
  off : Nat
  len : Nat
  entry : Nat
  jseq : Nat
  mseq : Option Nat
  sub : Nat
  deriving DecidableEq, Repr

/-- A BUFFERED record (R64), in the own write buffer or held for the peer. -/
structure BufferedRec where
  target : Target
  off : Nat
  len : Nat
  /-- quadrant and ingest sequence of its stamp (R60) -/
  quadrant : Nat
  seq : Nat
  handles : List Nat
  /-- where its data begins in its buffers -/
  skip : Nat
  /-- zeros of a Write Zeroes or Deallocate, which need no buffer (R68, R69) -/
  zero : Bool
  /-- the payload of a record restored from a dump while no buffer was free: it stands in its dump acre (R235) -/
  inDump : Option Bytes
  /-- the MIRROR sequence that carries it, 0 where none -/
  mseq : Nat
  /-- JSEQ of its BUFFERED record -/
  jseq : Nat
  /-- the commits that cover it, so far: committed in full, it waits for bale and journal (R85) -/
  done : List Commit
  deriving DecidableEq, Repr

/-- A range of a grain that a committed write of this stamp holds while a write stamped earlier has still to land: what that one brings
for the range has lost already (R88). -/
structure Overlaid where
  ns : Nat
  grain : Nat
  off : Nat
  len : Nat
  quadrant : Nat
  seq : Nat
  deriving DecidableEq, Repr

/-- The client a completion goes to: a queue pair and a command identifier or Sheaf tag. -/
structure ClientRef where
  qp : Nat
  id : Nat
  deriving DecidableEq, Repr

/-- A write, flush or Sheaf verb accepted and not yet completed (R65). -/
structure WriteOp where
  client : ClientRef
  /-- completion bytes to send -/
  done : Bytes
  /-- MIRROR sequences not yet acknowledged -/
  mseqs : List Nat
  /-- stamps it waits for under write-through: (quadrant, sequence) -/
  stamps : List (Nat × Nat)
  /-- SOLE_WRITE_THROUGH of its namespace or object domain -/
  through : Bool
  /-- a FUA write, a Flush or a Read with FUA: it waits for the commit of its stamps in every mode (Table 3-4) -/
  fua : Bool
  /-- the forward that answers it, where the peer is the owner (R61) -/
  forward : Option Nat
  deriving DecidableEq, Repr

/-- A dedup decision (R79). -/
inductive Decision where
  | undecided
  | hit (entry : Nat)
  | miss
  deriving DecidableEq, Repr

/-- A chunk in reduction, from composition or cut to its commit. -/
structure ChunkWork where
  id : Nat
  harrow : Nat
  epoch : Option EpochRef
  target : Target
  plain : Bytes
  domain : Nat
  level : Nat
  keyEpoch : Nat
  fp : Option Bytes
  /-- stamps of the records composed in it (R71) -/
  records : List (Nat × Nat)
  chunkId : Nat
  gen : Nat
  decision : Decision
  /-- stored without an index entry after a compare mismatch (R76) -/
  noIndex : Bool
  /-- the stream an engine has produced and not yet verified, with its harrow and engine -/
  stream : Option (Bytes × Nat × Nat)
  /-- FORMAT and stored payload once decided (R78) -/
  stored : Option (Nat × Bytes)
  deriving DecidableEq, Repr

/-- An object that a PUT, a replication or a resynchronisation is landing: what its pieces need to know before its record is written
(R55, R59, R402). -/
structure OpenObject where
  number : Nat
  objDomain : Nat
  domain : Nat
  quadrant : Nat
  /-- bytes landed from 0 without a gap, and the size once it is final -/
  landed : Nat
  size : Option Nat
  /-- where the next chunk is cut -/
  cut : Nat
  deriving DecidableEq, Repr

/-- Counters of a quadrant's ingest (Table 3-7). -/
structure IngestCounters where
  chunksIn : Nat
  zeroChunks : Nat
  hitsWinnow : Nat
  hitsFilterPage : Nat
  filterFalsePos : Nat
  runAheadSquash : Nat
  runAheadCommit : Nat
  verifyFail : Nat
  rawStored : Nat
  compareMismatch : Nat
  refcountSaturated : Nat
  mirrorLate : Nat
  balesSealedTimeout : Nat
  deriving DecidableEq, Repr

/-- Ingest (03). -/
structure IngestPart where
  /-- the next ingest sequence of each quadrant (R60) -/
  nextSeq : List Nat
  /-- records in the own write buffer -/
  own : List BufferedRec
  /-- records held for the peer in the mirror buffer -/
  mirror : List BufferedRec
  ops : List WriteOp
  works : List ChunkWork
  nextWork : Nat
  /-- held grains: namespace, grain and base map entry (R575) -/
  held : List (Nat × Nat × Nat)
  /-- ranges that late data of an earlier stamp does not change any more (R88) -/
  overlaid : List Overlaid
  objects : List OpenObject
  /-- admission of write data has stopped (R63) -/
  stopped : Bool
  /-- summary filter: the bytes entered for fingerprints, never removed (R83) -/
  filter : List Nat
  /-- ID ranges granted and not yet drawn on, and IDs freed by reclaim (R199) -/
  idRanges : List (Nat × Nat)
  freedIds : List Nat
  /-- blocks of chunk IDs this head has taken into use (R199) -/
  drawnBlocks : List Nat
  /-- generation that the next assignment of an ID takes, where it is not `startGen` -/
  idGens : List (Nat × Nat)
  /-- generation of an ID never assigned: one more at every start-up (R199) -/
  startGen : Nat
  counters : List IngestCounters
  deriving DecidableEq, Repr

/-! ## Bales (09) -/

/-- A record appended to an open bale: its plot, its offset in 64-byte units, its bytes, and the chunk and generation. -/
structure BaleRecord where
  plot : Nat
  off : Nat
  bytes : Bytes
  chunk : Nat
  gen : Nat
  deriving DecidableEq, Repr

/-- A bale being filled or programmed. -/
structure Bale where
  acre : Nat
  bale : Nat
  stream : Nat
  quadrant : Nat
  /-- the plot that is being filled, and the next free offset in it, in bytes -/
  plot : Nat
  next : Nat
  records : List BaleRecord
  /-- tick of its oldest record -/
  oldest : Nat
  closed : Bool
  baseSeq : Nat
  /-- plots not yet reported programmed, once sealed -/
  waiting : List Nat
  /-- reclaim's destination: the victim acres whose records it holds (R219) -/
  victims : List Nat
  deriving DecidableEq, Repr

/-- A die as the head sees it (Table 9-5). -/
structure DieState where
  /-- 0 GOOD, 1 EVACUATING, 2 RETIRED, 3 FAILED -/
  state : Nat
  reads : Nat
  retries : Nat
  softReads : Nat
  uncorrectable : Nat
  cbitsHist : List Nat
  /-- READ_TIMEOUTs in a row (R226) -/
  silent : Nat
  /-- ticks of block retirements within 24 h (R226) -/
  retirements : List Nat
  deriving DecidableEq, Repr

/-- What BRIDGE_IDENTIFY reports (Table 10-7). -/
structure BridgeIdent where
  uid : Nat
  maker : Nat
  version : Nat
  dies : Nat
  retryLevels : Nat
  blockUnits : Nat
  blocksPerDie : Nat
  peRated : Nat
  corrLimit : Nat
  progRate : Nat
  eraseMaxMs : Nat
  cmdSlots : Nat
  deriving DecidableEq, Repr

/-- A bridge label (Table 11-1). -/
structure BridgeLabel where
  bridgeNo : Nat
  faultDomain : Nat
  preferred : Nat
  seq : Nat
  arrayUid : Bytes
  bridgeUid : Nat
  createTime : Nat
  deriving DecidableEq, Repr

/-- A bridge as the head sees it (Table 9-6). -/
structure HeadBridge where
  /-- 0 ONLINE, 1 DEGRADED, 2 EVACUATING, 3 RETIRED, 4 LOST, 5 MISWIRED -/
  state : Nat
  preferred : Nat
  faultDomain : Nat
  ident : Option BridgeIdent
  label : Option BridgeLabel
  dies : List DieState
  /-- erase counts by die × 2^23 + block -/
  erases : List (Nat × Nat)
  /-- retired blocks, by die × 2^23 + block (R225) -/
  retired : List Nat
  tempMin : Int
  tempMax : Int
  tempHist : List Nat
  /-- temperatures of the present hour: count and sum -/
  tempCount : Nat
  tempSum : Int
  programEraseFails : Nat
  /-- blocks of the reserved area that hold labels, and that are spare (R266, R267) -/
  labelBlocks : List Nat
  /-- label copies in the first of them, the one being filled -/
  labelUsed : Nat
  firmwareBlocks : List Nat
  spares : List Nat
  /-- PREFERRED_OWNER and FAULT_DOMAIN that BRIDGE_SET has given, until the next lease change (Table 9-9) -/
  nextSet : Option (Nat × Nat)
  deriving DecidableEq, Repr

/-- Reclaim counters (R238). -/
structure ReclaimCounters where
  acresReclaimed : Nat
  recordsCopied : Nat
  bytesCopied : Nat
  recordsRekeyed : Nat
  orphans : Nat
  relocateDropped : Nat
  domainShort : Nat
  blocksRetired : Nat
  deriving DecidableEq, Repr

/-- A reclaim under way (Table 9-3). -/
structure ReclaimJob where
  acre : Nat
  /-- bales to relocate; none for the whole acre (R216 class 2) -/
  bales : Option (List Nat)
  /-- step of Table 9-3 that is awaited: 3 commit, 4 journal, 5 drain, 6 erase -/
  step : Nat
  /-- chunks copied and waiting for their bale: chunk, generation and new location -/
  copies : List (Nat × Nat × Loc)
  /-- highest JSEQ of its RELOCATE records -/
  lastJseq : Nat
  /-- blocks still to be erased -/
  blocks : List (Nat × Nat × Nat)
  deriving DecidableEq, Repr

/-- A bale of a dump that is being programmed: its records, and the plots not yet reported (R234). -/
structure DumpBale where
  acre : Nat
  bale : Nat
  records : List Bytes
  waiting : List Nat
  deriving DecidableEq, Repr

/-- What a DUMP writes (R234): the unpersisted journal and the BUFFERED records with their payloads; bales not yet complete; whether DUMP_END
has committed; whether the dump acres ran out before it could. -/
structure DumpImage where
  journal : List JRecord
  records : List (BufferedRec × Bytes)
  bales : List DumpBale
  ended : Bool
  broken : Bool
  deriving DecidableEq, Repr

/-- Media management (09). -/
structure MediaPart where
  /-- the acres on the array's media, with their state in the head's table -/
  acres : List Acre
  baleK : Nat
  baleM : Nat
  metaK : Nat
  metaM : Nat
  bales : List Bale
  bridges : List HeadBridge
  nextAcre : Nat
  freedAcres : List Nat
  reclaims : List ReclaimJob
  /-- acres reclaim has freed since the last hot acre was opened (R217) -/
  freedSinceHot : Nat
  dumpAcres : List Nat
  /-- dump acres whose records have been read back: erased once every record listed, by stamp, is settled (R235) -/
  dumpErase : List (Nat × List (Nat × Nat))
  counters : ReclaimCounters
  /-- tick of the last hourly record of DOMAIN_SHORT (R211) -/
  lastShort : Option Nat
  /-- tick at which an acre last opened that broke the FAULT_DOMAIN limit (Table 9-8) -/
  lastBroken : Option Nat
  spareWarned : Bool
  wearWarned : Bool
  readonly : Bool
  /-- what READONLY was entered for: no block for a hot acre (R230), chunk IDs running out (R552) -/
  spaceShort : Bool
  idsShort : Bool
  arrayUid : Bytes
  /-- the dump of the head's last DUMP, until it has been replayed or the peer has erased it -/
  dumped : Option DumpImage
  /-- bales, by acre and number, that had not committed when the head last stopped (Table 9-4) -/
  torn : List (Nat × Nat)
  deriving DecidableEq, Repr

/-! ## Read (04) -/

/-- A read-cache entry (R94, R95). -/
structure CacheEntry where
  chunk : Nat
  gen : Nat
  data : Bytes
  ref : Bool
  /-- filled by read-ahead and not yet used (RA_USED) -/
  ahead : Bool
  deriving DecidableEq, Repr

/-- A stream slot (R106). -/
structure StreamSlot where
  /-- namespace, or 2^32 + object number -/
  source : Nat
  next : Nat
  advances : Nat
  window : Nat
  deriving DecidableEq, Repr

/-- Counters of a quadrant's reads (R109). -/
structure ReadCounters where
  cacheHits : Nat
  cacheMisses : Nat
  mediaReads : Nat
  rebuilds : Nat
  readLate : Nat
  unrecovered : Nat
  raIssued : Nat
  raUsed : Nat
  raDropped : Nat
  deriving DecidableEq, Repr

/-- The read path (04). -/
structure ReadPart where
  /-- entries in clock order, the hand at the front -/
  cache : List CacheEntry
  /-- stream slots of each quadrant, most recently used first -/
  streams : List (List StreamSlot)
  /-- decompressors that disagreed within 1 h: 3 × harrow + engine, and the tick (R168) -/
  decompFails : List (Nat × Nat)
  counters : List ReadCounters
  deriving DecidableEq, Repr

/-! ## Serial links: Furrow and Headland (10, R308) -/

/-- States of a link (R260). -/
inductive LinkState where
  | up | training | down | unused
  deriving DecidableEq, Repr

/-- A frame to send or to replay: its header fields and payload (Tables 10-4, 13-2). -/
structure LinkFrame where
  ftype : Nat
  flags : Nat
  tag : Nat
  code : Nat
  index : Nat
  payload : Bytes
  deriving DecidableEq, Repr

/-- One end of a link: training, sequence numbers, credits, replay (R241-R247). -/
structure LinkEnd where
  state : LinkState
  /-- failed training attempts in a row -/
  attempts : Nat
  /-- preset of the own transmitter -/
  preset : Nat
  /-- credits held -/
  credits : Nat
  /-- frames sent and frames accepted in order since the link came up; SEQ is the number modulo 4,096 -/
  txSeq : Nat
  rxSeq : Nat
  /-- receive buffers the far end may still fill: credits granted and not yet used (R241, R245) -/
  granted : Nat
  /-- frames accepted in order whose message is not yet complete (R243, R309) -/
  inbox : List LinkFrame
  /-- frames sent and not acknowledged, oldest first -/
  unacked : List LinkFrame
  /-- how many of them, from the oldest on, stand sent; the rest are to be sent again (R247) -/
  sent : Nat
  /-- frames that wait for credit or for the link to come up (R245, R577) -/
  waiting : List LinkFrame
  /-- replays since the acknowledgement last advanced -/
  replays : Nat
  /-- tick of the last NAK while the expected frame is missing -/
  nakSent : Option Nat
  /-- counters of R260 and R330 -/
  crcErrors : Nat
  replayCount : Nat
  retrains : Nat
  linkDowns : Nat
  deriving DecidableEq, Repr

/-- What a Furrow command is for. -/
inductive FurrowUse where
  | balePlot (acre bale plot : Nat)
  | metaSegment (row plot : Nat)
  | blockErase (acre index : Nat)
  /-- an erase the peer asked for (R210) -/
  | peerErase (acre index : Nat)
  | identify
  | status
  | telemetry
  | read (acre bale plot : Nat)
  | leaseAcquire
  | leaseRenew
  | leaseRelease
  | fence
  /-- a label copy (R266): its reserved block -/
  | label (block : Nat)
  /-- a plot of a dump bale (R234) -/
  | dumpPlot (acre bale plot : Nat)
  /-- a firmware record (R536): its reserved block -/
  | firmware (block : Nat)
  | other
  deriving DecidableEq, Repr

/-- A command outstanding at a bridge (R248). -/
structure FurrowCmd where
  tag : Nat
  opcode : Nat
  params : Bytes
  data : List Bytes
  use : FurrowUse
  issued : Nat
  deriving DecidableEq, Repr

/-- A Furrow link of the head. -/
structure FurrowLink where
  link : LinkEnd
  cmds : List FurrowCmd
  nextTag : Nat
  /-- commands that wait for a free command slot or for the head's own lease window (R248, R256) -/
  queued : List FurrowCmd
  /-- the expiry that REMAIN last reported, as a tick, for a LEASE_ACQUIRE that was refused (R321) -/
  acquireAt : Option Nat
  /-- lease register last read (R260) -/
  leaseReg : Nat
  /-- the head holds the lease, and the tick at which it sent the acquire or renewal that granted it (R256) -/
  leased : Bool
  leaseSent : Nat
  lateResponses : Nat
  leaseLost : Nat
  /-- ST_INTERNAL seen: treated as LOST (Table 10-12) -/
  broken : Bool
  deriving DecidableEq, Repr

/-- A NAND block of a bridge: its programmed codewords, in order (R249). -/
structure NandBlock where
  cws : List Bytes
  deriving DecidableEq, Repr

/-- The bridge's own side (10). -/
structure Bridge where
  /-- LEASE_EPOCH, OWNER (0, 1, 3 none), EXPIRED, LEASE_MS, and the bridge time at which the lease ends (Table 10-10) -/
  leaseEpoch : Nat
  owner : Nat
  expired : Bool
  leaseMs : Nat
  expiry : Nat
  nand : List (Nat × NandBlock)
  grownBad : List Nat
  internalFault : Bool
  /-- it has reset itself since it last answered BRIDGE_IDENTIFY (R262) -/
  resetSeen : Bool
  deriving DecidableEq, Repr

end Sys2Proof.Machine
end

