-- ==== Sys2Proof/Machine/Parts/Ports.lean ====
section
/-! DEFINITION. State of the front ports, the queue pairs and the landing zones (14). -/

namespace Sys2Proof.Machine

/-! ## Logical ports -/

/-- Counters of a logical port (Table 14-12, R366). -/
structure PortCounters where
  fecCorrected : Nat
  fecUncorrected : Nat
  rxBytes : Nat
  txBytes : Nat
  linkDowns : Nat
  rxDiscards : Nat
  nonRoceDropped : Nat
  icrcErrors : Nat
  badOpcodes : Nat
  staleQpn : Nat
  /-- PFC_TX and PFC_RX of the eight priorities -/
  pfcTx : List Nat
  pfcRx : List Nat
  nakSent : Nat
  rnrNakSent : Nat
  retransmits : Nat
  qpErrors : Nat
  cnpSent : Nat
  cnpReceived : Nat
  deriving DecidableEq, Repr

/-- A logical port. -/
structure LogicalPort where
  /-- 0 DOWN, 1 TRAINING, 2 UP (Table 14-12); UNUSED follows from PORT_MODE -/
  link : Nat
  /-- PORT_LINK_DOWN has been raised for the present outage -/
  downTold : Bool
  /-- addresses (0 IPv4, 1 and 2 IPv6) found in use elsewhere (R334) -/
  conflicts : List Nat
  /-- priorities the link partner has paused: the tick it has lasted since, and the tick at which it ends (R337) -/
  paused : List (Nat × Nat × Nat)
  /-- priorities on which the head sends XOFF, and since when (R336) -/
  xoff : List (Nat × Nat)
  counters : PortCounters
  deriving DecidableEq, Repr

/-- A frame the head sends from a front port, by its meaning. Addresses are 128-bit, IPv4 in IPv4-mapped form (R333). -/
inductive PortFrame where
  /-- a RoCE v2 packet: UDP source port, ECN field, opcode, destination QPN, PSN, AckReq, extension headers, payload -/
  | roce (udp ecn opcode qpn psn : Nat) (ackReq : Bool) (ext payload : Bytes)
  /-- REQ: service ID, communication ID, QPN, PSN, responder resources, initiator depth, RNR retry count, local ACK timeout,
  MTU, private data -/
  | cmReq (service commId qpn psn resources depth rnr ack mtu : Nat) (priv : Bytes)
  /-- REP: both communication IDs, QPN, PSN, responder resources, initiator depth, RNR retry count, MTU, private data -/
  | cmRep (commId remoteId qpn psn resources depth rnr mtu : Nat) (priv : Bytes)
  /-- REJ: the rejected communication ID, reason, private data -/
  | cmRej (remoteId reason : Nat) (priv : Bytes)
  | cmRtu (commId remoteId : Nat)
  | cmDreq (commId remoteId qpn : Nat)
  | cmDrep (commId remoteId : Nat)
  /-- an ARP or neighbour discovery packet: whether it is an answer, the address asked for or answered, the address and the MAC address it
  goes to -/
  | resolution (answer : Bool) (address target mac : Nat)
  /-- a probe for a conflict over the head's own address (R334) -/
  | probe (address : Nat)
  /-- an echo reply -/
  | echo (target : Nat) (payload : Bytes)
  /-- a PFC frame for a priority -/
  | pfc (priority quanta : Nat)
  deriving DecidableEq, Repr

/-- A frame that waits for its priority's pause to end or for its next hop to be resolved. -/
structure HeldFrame where
  lport : Nat
  priority : Nat
  /-- own address and destination address; none of a frame that goes out by itself -/
  path : Option (Nat × Nat)
  hop : Option Nat
  frame : PortFrame
  deriving DecidableEq, Repr

/-- An entry of the neighbour cache (R334). -/
structure Neighbour where
  lport : Nat
  address : Nat
  mac : Nat
  deriving DecidableEq, Repr

/-! ## Queue pairs -/

/-- States of a context (Table 14-6); a context the table does not list is FREE. -/
inductive CtxState where
  | connecting | connected | error | timewait
  deriving DecidableEq, Repr

/-- Services (Table 14-5). -/
inductive Service where
  | nvme | sheaf | replication | migration
  deriving DecidableEq, Repr

/-- What an RDMA READ is for: the CID of an NVMe command and an offset in its data, or a Sheaf TAG and an offset in its fill. -/
structure ReadUse where
  id : Nat
  offset : Nat
  deriving DecidableEq, Repr

/-- What the head wants to send on a queue pair. -/
inductive OutMsg where
  /-- a SEND, with Invalidate where it names a key; `tag` tells when it has been acknowledged, 0 where nobody asks -/
  | send (bytes : Bytes) (invalidate : Option Nat) (tag : Nat)
  | write (addr key : Nat) (bytes : Bytes)
  | read (addr key len : Nat) (use : ReadUse)
  deriving DecidableEq, Repr

/-- A request packet sent and not acknowledged; a READ Request covers as many PSNs as its response has packets. -/
structure OutPacket where
  psn : Nat
  span : Nat
  opcode : Nat
  ext : Bytes
  payload : Bytes
  ackReq : Bool
  sentAt : Nat
  resent : Bool
  tag : Nat
  /-- of a READ: the bytes received so far, and what it is for -/
  got : Bytes
  read : Option (Nat × Nat × Nat × ReadUse)
  deriving DecidableEq, Repr

/-- A queue pair's context (R348). -/
structure QpCtx where
  index : Nat
  gen : Nat
  state : CtxState
  service : Service
  /-- the head initiated the connection -/
  active : Bool
  lport : Nat
  remoteQpn : Nat
  remoteAddr : Nat
  /-- GID index: 0 IPv4, 1 and 2 IPv6 -/
  gid : Nat
  remoteId : Nat
  pmtu : Nat
  /-- CM response timeout code, MRA's service timeout, and REPs resent -/
  cmTimeout : Nat
  resends : Nat
  /-- private data of the REP or REQ it has sent, for a resend -/
  sentPriv : Bytes
  home : Nat
  /-- DREQ has been sent and its DREP is awaited -/
  closing : Bool
  /-- receive side: expected PSN, message sequence, the message being received, a NAK outstanding, packets not acknowledged,
  receive buffers posted, messages that stand in receive buffers -/
  epsn : Nat
  msn : Nat
  inbound : Option Bytes
  naked : Bool
  unacked : Nat
  posted : Nat
  received : List Bytes
  /-- receive buffers not posted again while admission is stopped (R63) -/
  owed : Nat
  /-- binding of an RDMA WRITE: zone record, first offset, next offset, bytes to come; and a bound write abandoned (R353, R354) -/
  bound : Option (Nat × Nat × Nat × Nat)
  abandoned : Bool
  /-- send side: next PSN, packets unacknowledged, messages that wait, resends and RNR delays without progress, a delay running -/
  npsn : Nat
  sent : List OutPacket
  waiting : List OutMsg
  retries : Nat
  rnrs : Nat
  rnrWait : Bool
  /-- packets sent since the last with AckReq (R359) -/
  sinceAck : Nat
  /-- rate in Mbit/s, smoothed RTT in ns, ticks of the last cut, of the last CNP obeyed and of the last CNP sent (R359-R361) -/
  rate : Nat
  srtt : Nat
  lastCut : Option Nat
  lastCnp : Option Nat
  cnpSent : Option Nat
  deriving DecidableEq, Repr

/-- A packet that waits for its context (R350). -/
structure MissedPacket where
  index : Nat
  head : RoceHead
  body : RoceBody
  deriving DecidableEq, Repr

/-- Landing-zone record states (Table 14-9, R357); a record the table does not list is FREE with GEN 0. -/
inductive ZoneState where
  | free | granted | revoking | quarantined
  deriving DecidableEq, Repr

/-- A landing-zone record (R352, R353). -/
structure Zone where
  index : Nat
  state : ZoneState
  gen : Nat
  check : Nat
  qp : Nat
  len : Nat
  inFlight : Nat
  /-- Granary buffers of the zone, in order -/
  handles : List Nat
  deriving DecidableEq, Repr

/-- Counters of a quadrant's context cache (R366), and MHB_FULL within the present 1 s window (Table 14-10). -/
structure CtxCounters where
  hits : Nat
  misses : Nat
  evictions : Nat
  mhbFull : Nat
  window : Nat
  deriving DecidableEq, Repr

/-- The front ports. -/
structure PortsPart where
  lports : List LogicalPort
  held : List HeldFrame
  neighbours : List Neighbour
  qps : List QpCtx
  /-- context indices never used from here on, and freed ones, longest FREE first (R346) -/
  freshQp : Nat
  freedQps : List Nat
  /-- GEN last issued, by index -/
  gens : List (Nat × Nat)
  /-- cached contexts of each quadrant, most recently used first (R349) -/
  cached : List (List Nat)
  /-- miss holding buffers and NAK queues of the quadrants (R350, R351) -/
  missed : List (List MissedPacket)
  nakOrders : List (List MissedPacket)
  zones : List Zone
  /-- zone records never granted from here on, and freed ones, longest FREE first -/
  freshZone : Nat
  freedZones : List Nat
  lzWarned : Bool
  lzTold : Bool
  lzGrants : Nat
  lzAccessNaks : Nat
  lzAbandoned : Nat
  lzQuarantined : Nat
  counters : List CtxCounters
  deriving DecidableEq, Repr

end Sys2Proof.Machine
end

