-- ==== Sys2Proof/Machine/Parts/Clients.lean ====
section
/-! DEFINITION. State of the NVMe target (15) and of the Sheaf service (16). -/

namespace Sys2Proof.Machine

/-! ## NVMe over Fabrics -/

/-- A part of a write, one grain or less, with its stamp (R59, R60); unstamped at a head that is not the ingest owner. A Dataset
Management, whose ranges its data gives, has one stamp for each quadrant: a part of length 0 (DESIGN CHOICE 141). -/
structure WritePart where
  ns : Nat
  grain : Nat
  off : Nat
  len : Nat
  quadrant : Nat
  seq : Nat
  deriving DecidableEq, Repr

/-- Where an outstanding NVMe command stands. -/
inductive NvmeStage where
  /-- held while a function is quiesced or admission has stopped (Table 3-3, R63) -/
  | held
  /-- its data is being read from the host -/
  | pulling
  /-- its records are placed, and it waits for its acknowledgement point (Table 3-4) -/
  | acking
  /-- sent to the owner (R61) -/
  | forwarded
  /-- an Asynchronous Event Request -/
  | event
  deriving DecidableEq, Repr

/-- An NVMe command received and not completed. -/
structure NvmeCmd where
  qp : Nat
  cid : Nat
  capsule : Bytes
  stage : NvmeStage
  parts : List WritePart
  /-- data read from the host so far, by offset -/
  pulled : List (Nat × Bytes)
  /-- what its reads meet on media, when it runs -/
  facts : MediaFacts
  deriving DecidableEq, Repr

/-- A queue of a controller: its queue pair, queue identifier, entries, submission queue head, flow control disabled (R375). -/
structure NvmeQueue where
  qp : Nat
  qid : Nat
  /-- queue size that the connection's private data gave (R370) -/
  hsq : Nat
  controller : Option Nat
  entries : Nat
  head : Nat
  noFlow : Bool
  /-- tick at which it last had a command -/
  used : Nat
  deriving DecidableEq, Repr

/-- A controller (R368). -/
structure Controller where
  id : Nat
  /-- index of its host in the host table -/
  host : Nat
  adminQp : Nat
  /-- Keep Alive timeout in s, and the tick at which the timer last started (R372) -/
  kato : Nat
  katoFrom : Nat
  /-- I/O queues granted by Number of Queues; none before it -/
  granted : Option Nat
  ioSeen : Bool
  cc : Nat
  ready : Bool
  /-- CSTS.SHST: 0 normal, 1 occurring, 2 complete -/
  shst : Nat
  /-- power state held, and the last operational one the host set (R388) -/
  ps : Nat
  operational : Nat
  apste : Bool
  /-- APST entries by power state -/
  apst : List Nat
  aec : Nat
  /-- event types masked until their log page is read, and events that wait, by type with their result dword (R384) -/
  masked : List Nat
  events : List (Nat × Nat)
  changed : List Nat
  deriving DecidableEq, Repr

/-- An entry of the Error Information log (R386). -/
structure ErrorEntry where
  count : Nat
  sqid : Nat
  cid : Nat
  status : Nat
  location : Nat
  lba : Nat
  nsid : Nat
  almSeq : Nat
  deriving DecidableEq, Repr

/-- Counters of R390. -/
structure NvmeCounters where
  connects : Nat
  rejects : Nat
  katoExpired : Nat
  cidConflicts : Nat
  abortsCaught : Nat
  abortsMissed : Nat
  aenSent : Nat
  psTransitions : Nat
  deriving DecidableEq, Repr

/-- The NVMe target. -/
structure NvmePart where
  /-- the power state in effect, 0 to 3 (R387) -/
  powerState : Nat
  controllers : List Controller
  queues : List NvmeQueue
  commands : List NvmeCmd
  errors : List ErrorEntry
  errorCount : Nat
  /-- changes of ANA state so far: the change count of log page 0x0C -/
  anaChanges : Nat
  /-- critical warning as last derived (R384) -/
  warning : Nat
  /-- health log sources (Table 15-7): bytes read and written, commands, busy minutes, unsafe shutdowns, media errors, minutes at or
  above TEMP_WARN and TEMP_CRIT -/
  readBytes : Nat
  writtenBytes : Nat
  readCommands : Nat
  writeCommands : Nat
  busyMinutes : Nat
  busyMinute : Option Nat
  unsafeShutdowns : Nat
  uncleanStop : Bool
  mediaErrors : Nat
  warnMinutes : Nat
  critMinutes : Nat
  /-- ticks of the present minute spent at or above TEMP_WARN and TEMP_CRIT -/
  warnTicks : Nat
  critTicks : Nat
  counters : NvmeCounters
  deriving DecidableEq, Repr

/-! ## Sheaf -/

/-- Where a Sheaf request stands. -/
inductive SheafStage where
  | held
  /-- its fill is being read or its zone revoked -/
  | filling
  | acking
  | forwarded
  deriving DecidableEq, Repr

/-- A Sheaf request received and not answered. -/
structure SheafReq where
  qp : Nat
  tag : Nat
  bytes : Bytes
  stage : SheafStage
  /-- what its reads meet on media, when it runs -/
  facts : MediaFacts
  deriving DecidableEq, Repr

/-- A service queue pair (R391). -/
structure SheafConn where
  qp : Nat
  objDomain : Nat
  qdepth : Nat
  nextPut : Nat
  /-- PUT_IDs that SHEAF_PUT_TIMEOUT ended (R402) -/
  expired : List Nat
  deriving DecidableEq, Repr

/-- A fill of a PUT on its way: the request's TAG, its range, its stamp, the data that is here so far by offset, and for a push fill
its zone and the offset in it. -/
structure Fill where
  tag : Nat
  offset : Nat
  len : Nat
  seq : Nat
  pulled : List (Nat × Bytes)
  zone : Option (Nat × Nat)
  deriving DecidableEq, Repr

/-- An open PUT (R398). -/
structure Put where
  qp : Nat
  id : Nat
  objDomain : Nat
  key : Bytes
  number : Nat
  size : Nat
  /-- the next OFFSET accepted, and the bytes received -/
  accepted : Nat
  received : Nat
  /-- its landing zone, and the length it asks for; none once it is in pull mode -/
  zone : Option Nat
  zoneWant : Nat
  fills : List Fill
  /-- its PUT_COMMIT request, while that waits, and its place among those that wait (R401) -/
  commit : Option Nat
  commitSeq : Nat
  /-- at a head that is not the ingest owner, the owner's number of the PUT (DESIGN CHOICE 23) -/
  remote : Option Nat
  lastVerb : Nat
  deriving DecidableEq, Repr

/-- Counters of R413. -/
structure SheafCounters where
  verbs : Nat
  forwarded : Nat
  committed : Nat
  aborted : Nat
  expired : Nat
  conflicts : Nat
  fallbacks : Nat
  putBytes : Nat
  getBytes : Nat
  holds : Nat
  refusals : Nat
  deriving DecidableEq, Repr

/-- The Sheaf service. -/
structure SheafPart where
  conns : List SheafConn
  requests : List SheafReq
  puts : List Put
  /-- number of the next PUT the peer opens here (DESIGN CHOICE 23) -/
  nextPeerPut : Nat
  /-- the highest COMMIT_TIME or CREATE_TIME issued, by object domain (R292) -/
  issued : List (Nat × Nat)
  counters : SheafCounters
  deriving DecidableEq, Repr

end Sys2Proof.Machine
end

