-- ==== Sys2Proof/Machine/Parts/Link.lean ====
section
/-! DEFINITION. What the block sends outside. -/

namespace Sys2Proof.Machine

/-- One thing the head sends or drives outside, in the order it does so. The list of them is the model's own record of
the block's outputs (DESIGN CHOICE 8); no meaning reads it back. -/
inductive Out where
  /-- bytes written to host memory at a bus address (R478, R479) -/
  | hostWrite (addr : Nat) (bytes : Bytes)
  /-- a reply written to a slot of the reply ring in two posted writes, bytes 0x02 to 0x1F and then bytes 0x00 and 0x01 (R478, Table 20-5) -/
  | reply (slot : Nat) (bytes : Bytes)
  /-- a word returned over SMBus with its PEC where the host clocks one, or none where a transfer is NACKed (R564) -/
  | smbus (word : Option (BitVec 16)) (pec : Option (BitVec 8))
  /-- the address byte of an Alert Response (R564) -/
  | alertResponse (address : Nat)
  /-- what the selected JTAG register shifts out first (R565) -/
  | jtag (value : Nat)
  /-- the status and control words a DMA channel writes back to a descriptor (R464) -/
  | dmaWriteBack (channel slot : Nat) (status ctrl : Nat)
  /-- the result of a Winnow search (Table 6-5) -/
  | winnowResult (value : BitVec 64)
  /-- the number of entries a Winnow delete invalidated (Table 6-4) -/
  | winnowDeleted (count : Nat)
  /-- the handle an allocation returns to a unit (R447) -/
  | granaryHandle (unit handle : Nat)
  /-- the outcome of a Granary operation (Table 18-5): 1 GR_STALE to 5 GR_OK, 6 GR_REF_FULL, 7 guarded request refused,
  8 the allocation waits, 9 refused while LOW, 10 refused because its epoch is dead (R115) -/
  | granaryOutcome (unit outcome : Nat)
  /-- a cipher completion word (Table 8-2) -/
  | cipherDone (job : Nat) (word : Nat)
  /-- a VX_STATUS an engine reports to its ticket (R159) -/
  | vxStatus (harrow engine status : Nat)
  /-- the state in which a commit or squash request finds an epoch that is decided already (Table 5-8) -/
  | epochState (epoch : EpochRef) (state : EpochState)
  /-- real work ended by the watchdog, by ticket reference, with the status of its operation (R116) -/
  | ticketFailed (ref status : Nat)
  /-- a frame sent on a Furrow link (Table 10-4) -/
  | furrowFrame (link : Nat) (bytes : Bytes)
  /-- a frame sent on a Headland sub-link (Table 13-2) -/
  | headlandFrame (sub : Nat) (bytes : Bytes)
  /-- the frames of a bridge's answer to a command of a port (R243, R248); its side of the link gives them SEQ, ACK and CREDIT -/
  | bridgeResponse (bridge port : Nat) (frames : List LinkFrame)
  /-- plaintext a decompressor produced (R167) -/
  | plaintext (bytes : Bytes)
  /-- a frame a front port sends: logical port, priority, what it is, and its bytes from the destination address to the check sequence -/
  | port (lport priority : Nat) (frame : PortFrame) (bytes : Bytes)
  /-- the line data an access of the metadata cache returns (R425) -/
  | mcData (line : Nat) (data : List (Option Byte))
  deriving DecidableEq, Repr

/-! ## Headland (13) -/

/-- A MIRROR message sent and not acknowledged (R312, R313). -/
structure MirrorMsg where
  mseq : Nat
  quadrant : Nat
  /-- sub-link of the latest attempt, and those of earlier attempts that the timer has beaten -/
  sub : Nat
  earlier : List Nat
  body : Bytes
  first : Nat
  resends : Nat
  /-- the peer answered that it has no room -/
  noRoom : Bool
  /-- JSEQs of BUFFERED records that its acknowledgement releases (R314) -/
  releases : List Nat
  deriving DecidableEq, Repr

/-- A command sent to the owner (R61, R493): the client or the MCI command that waits for it. -/
structure Forward where
  id : Nat
  kind : Nat
  body : Bytes
  /-- where the mirror buffer holds the payload: offset in it, length and buffers, as far as the owner's records have not taken it over
  (R61) -/
  room : List (Nat × Nat × List Nat)
  client : Option (Nat × Nat)
  mci : Option (Nat × Nat)
  deriving DecidableEq, Repr

/-- What the peer's INVENTORY message said (Table 13-3). -/
structure PeerInventory where
  head : Nat
  survivor : Nat
  arrayUid : Bytes
  powerCycles : Nat
  bridges : List (Nat × Nat × Nat)
  deriving DecidableEq, Repr

/-- The peer as its messages show it (R316, R322, R323). -/
structure PeerView where
  lastBeat : Option Nat
  /-- a heartbeat has arrived in the present 100 µs interval -/
  beatSeen : Bool
  hbSeq : Nat
  writeSeq : Nat
  jseq : Nat
  ingest : List Nat
  hsw : Nat
  fit : Nat
  powerCycles : Nat
  leased : Nat
  mirrorFree : Nat
  /-- ACTIVE_READY has arrived -/
  ready : Bool
  inventory : Option PeerInventory
  /-- highest MSEQ of its MIRROR messages, and the last MSEQ its YIELD_NOTICE named -/
  lastMseq : Nat
  deriving DecidableEq, Repr

/-- A take-over under way (R321, Table 13-6): the bridges still to be granted. -/
structure Takeover where
  wanted : List Nat
  /-- a peer lease has been found live -/
  live : Bool
  /-- begun by YIELD_NOTICE, YIELD_IN_N or a DUMP heartbeat, not by silence -/
  announced : Bool
  deriving DecidableEq, Repr

/-- RETURN on either head (Table 13-9). -/
structure ReturnPart where
  /-- MSEQ that RESYNC_END named, and whether its acknowledgement has arrived -/
  resyncEnd : Option Nat
  resyncAcked : Bool
  /-- a resync the peer announced: records still to follow, and the MSEQ its RESYNC_END named -/
  inbound : Bool
  inboundLeft : Nat
  inboundEnd : Option Nat
  /-- hold-down: since when it runs, and whether it has ended (R325) -/
  holdFrom : Option Nat
  holdEnded : Bool
  /-- RETURN_REQ has been sent since the hold-down last began -/
  asked : Bool
  /-- bridges still to hand over, and those released and not yet acquired by the peer -/
  toHand : List Nat
  handing : List Nat
  /-- HANDOFF of a complete return is sent and not yet delivered on the link -/
  completing : Bool
  deriving DecidableEq, Repr

/-- States of the whole Headland link (R315). -/
inductive HeadLinkState where
  | up | degraded | down
  deriving DecidableEq, Repr

/-- The head counters of R330. -/
structure HeadCounters where
  hbMissed : Nat
  mirrorMsgs : Nat
  mirrorResends : Nat
  mirrorDuplicates : Nat
  mirrorNoRoom : Nat
  badMessages : Nat
  yields : Nat
  takeovers : Nat
  partitions : Nat
  returns : Nat
  deriving DecidableEq, Repr

/-- The Headland link and fail-over (13). -/
structure HeadlandPart where
  links : List LinkEnd
  /-- lanes locked of each sub-link -/
  lanes : List Nat
  nextMsgId : List Nat
  linkState : HeadLinkState
  /-- tick at which a mirror timer last won (R315) -/
  lastWin : Option Nat
  /-- transmitters of all sub-links disabled since (R313) -/
  txOff : Option Nat
  peerPresent : Bool
  peer : PeerView
  hbSeq : Nat
  nextMseq : Nat
  msgs : List MirrorMsg
  /-- MSEQs the head holds for the peer -/
  held : List Nat
  /-- journal records of the peer that it holds, by JSEQ and bytes -/
  mirrored : List (Nat × Bytes)
  /-- drain requests of the peer that wait for a RELOCATE record: sub-link, acre and JSEQ (R219) -/
  drains : List (Nat × Nat × Nat)
  forwards : List Forward
  nextForward : Nat
  /-- NVMe commands the peer has forwarded that wait for admission: FWD_ID, sub-link, header and payload (R61, R63) -/
  toRun : List (Nat × Nat × Bytes)
  yieldOutLow : Bool
  yieldInLow : Bool
  /-- R15: both heads report the same head number -/
  conflict : Bool
  /-- a newcomer that found a peer lease live: step 0x11 waits for Headland (R321 case 3) -/
  newcomer : Bool
  /-- the survivor setting both heads use after a mismatch (R323) -/
  survivorZero : Bool
  takeover : Option Takeover
  ret : ReturnPart
  /-- operating time of the last three yields, and the return disable (R320) -/
  yieldTimes : List Nat
  returnDisable : Bool
  /-- consecutive misses of the supervisor's deadline (R318) -/
  supervisorMisses : Nat
  /-- consecutive 1 s windows of an ECC storm (R318) -/
  eccWindows : Nat
  /-- the cause of the present YIELD -/
  yieldCause : Nat
  /-- free chunk-ID blocks held: first and count (R310) -/
  idBlocks : List (Nat × Nat)
  idAsked : Bool
  counters : HeadCounters
  deriving DecidableEq, Repr

end Sys2Proof.Machine
end

