-- ==== Sys2Proof/Machine/Parts/Repl.lean ====
section
/-! DEFINITION. State of snapshots in creation, replication sessions and export streams (12). -/

namespace Sys2Proof.Machine

/-- A snapshot being created: its barrier in the four ingest sequences (R288). -/
structure SnapJob where
  id : Nat
  kind : Nat
  scope : Nat
  num : Nat
  /-- the barrier in each quadrant: sequences below it are pre-barrier -/
  barrier : List Nat
  /-- the export or replication diff it serves, by number; none where a command waits for it -/
  forExport : Option Nat
  forDiff : Option Nat
  deriving DecidableEq, Repr

/-- An entry of a batch (Table 12-4): its position, whether it is zeros or unmapped, its length and fingerprint; at the sender its map
entry, at the receiver its plaintext once CHUNK_DATA has brought it. -/
structure ReplEntry where
  position : Nat
  entry : Nat
  zero : Bool
  len : Nat
  fp : Bytes
  data : Option Bytes
  deriving DecidableEq, Repr

/-- A batch of a diff at the sender: the object records whose OBJECT_BEGIN goes before it, and its entries as map entries. -/
structure ReplBatch where
  begins : List ObjRecord
  entries : List ReplEntry
  deriving DecidableEq, Repr

/-- A replication session (R295-R300). -/
structure ReplSession where
  /-- none until the session number is persisted and the connection asked for -/
  qp : Option Nat
  initiator : Bool
  /-- pair number, 0xFFFF at the responder -/
  pair : Nat
  kind : Nat
  target : Nat
  session : Nat
  slot : Nat
  wslot : Option Nat
  nonceI : Bytes
  nonceR : Bytes
  /-- at the responder, the initiator's ARRAY_UID -/
  partner : Bytes
  /-- JSEQ of the record that carries the session number (R296) -/
  persist : Nat
  /-- 1 HELLO sent, 2 CONFIRM awaited, 3 DIFF_BEGIN or DIFF_READY awaited, 4 diff running, 5 DIFF_END sent or being answered -/
  stage : Nat
  txSeq : Nat
  rxSeq : Nat
  /-- base and target snapshots of the diff by number and CREATE_JSEQ -/
  baseNum : Nat
  goalNum : Nat
  base : Nat
  goal : Nat
  /-- the sender's batches, the number of the one in progress, and what goes before DIFF_END -/
  batches : List ReplBatch
  batch : Nat
  lastBegins : List ObjRecord
  /-- the receiver's open batch, and the object it builds: own number and the sender's record -/
  inbound : List ReplEntry
  object : Option (Nat × ObjRecord)
  /-- no batch starts while replication is quiesced; a batch's mapping waits for a snapshot's copies -/
  held : Bool
  bytesSent : Nat
  lastRx : Nat
  lastTx : Nat
  deriving DecidableEq, Repr

/-- What REPL_STATUS keeps of a pair after its sessions: last reason and last DIFF_DONE snapshot. -/
structure ReplLast where
  pair : Nat
  reason : Nat
  snap : Nat
  bytes : Nat
  deriving DecidableEq, Repr

/-- The last batch the receiver applied of an open diff, with the object it was building (R299). -/
structure ReplResume where
  kind : Nat
  target : Nat
  base : Nat
  goal : Nat
  batch : Nat
  object : Option (Nat × ObjRecord)
  deriving DecidableEq, Repr

/-- An export stream (R301-R304). -/
structure ExportRun where
  num : Nat
  kind : Nat
  id : Nat
  snap : Nat
  eflags : Nat
  address : Nat
  /-- lanes asked for, their queue pairs, and those that are CONNECTED -/
  wanted : Nat
  lanes : List Nat
  open' : List Nat
  resume : Nat
  /-- snapshots asked of the peer, by FORWARD: identifier, kind and ID -/
  asked : List (Nat × Nat × Nat)
  /-- every frame of the stream, once its snapshots are there; frames sent and acknowledged after the resume point -/
  frames : List Bytes
  acked : Nat
  bytes : Nat
  /-- 0 running, 1 complete, 2 aborted -/
  state : Nat
  /-- snapshots the stream is made of, as kind, ID and number; whether they were made for it and go with its end -/
  snaps : List (Nat × Nat × Nat)
  temp : Bool
  startTime : Nat
  lastAdvance : Nat
  deriving DecidableEq, Repr

/-- Counters of R306. -/
structure ReplCounters where
  snapPagesCopied : Nat
  snapDeleteSteps : Nat
  frames : Nat
  chunksSent : Nat
  chunksSkipped : Nat
  aborts : Nat
  lateFrames : Nat
  exportFrames : Nat
  exportBytes : Nat
  deriving DecidableEq, Repr

/-- Snapshots in creation and deletion, replication and export (12). -/
structure ReplPart where
  jobs : List SnapJob
  nextJob : Nat
  sessions : List ReplSession
  last : List ReplLast
  resume : List ReplResume
  exports : List ExportRun
  nextExport : Nat
  /-- snapshot number last allotted, by kind × 2^16 + ID (R287) -/
  lastSnap : List (Nat × Nat)
  /-- local snapshots that completed a diff here: kind × 2^16 + target, the sender's CREATE_JSEQ and the number (R299) -/
  copies : List (Nat × Nat × Nat)
  counters : ReplCounters
  deriving DecidableEq, Repr

end Sys2Proof.Machine
end

