-- ==== Sys2Proof/Machine/State.lean ====
section
/-! DEFINITION. The state of the HX9256 block: everything the manual gives the head, and the bridges' own registers,
as plain data; the state after a power-on reset; the reasons a step can stop. -/

namespace Sys2Proof.Machine

/-- Why a step can stop with a fault. No meaning raises one: every command of the table has an effect the manual gives,
or is turned away by a status, a NAK or a refusal the manual names. -/
inductive Fault where
  /-- Raised by nothing at present. Safe: it only stops the model. -/
  | unreachable
  deriving DecidableEq, Repr

/-- Why a command has no meaning. -/
inductive Refusal where
  /-- Raised by an arm of exec whose command has no meaning yet, with its mnemonic. Safe: it only stops the model. -/
  | notModelled (mnemonic : String)
  deriving DecidableEq, Repr

/-- The whole state. -/
structure State where
  time : TimePart
  hsw : HswPart
  boot : BootPart
  alm : AlmPart
  mci : MciPart
  vault : VaultPart
  thermal : ThermalPart
  smbus : SmbusPart
  jtag : JtagInstr
  flash : FlashPart
  fw : FwPart
  tines : TinesPart
  winnow : WinnowPart
  voxca : List VoxcaSlice
  cipher : CipherPart
  mem : MemPart
  granary : GranaryPart
  dma : List DmaChannel
  map : MapTables
  journal : JournalPart
  ingest : IngestPart
  media : MediaPart
  read : ReadPart
  furrow : List FurrowLink
  bridges : List Bridge
  headland : HeadlandPart
  repl : ReplPart
  ports : PortsPart
  nvme : NvmePart
  sheaf : SheafPart
  /-- what has been sent outside, oldest first (the model's own field, DESIGN CHOICE 8) -/
  out : List Out
  /-- bytes drawn so far from the head's generator (the model's own field, DESIGN CHOICE 2) -/
  genCount : Nat
  /-- undefined values used so far (the model's own field, DESIGN CHOICE 3) -/
  freeCount : Nat
  /-- commands waiting, first in, first out -/
  pending : List Instr
  deriving DecidableEq, Repr

/-! ## Reset -/

/-- A pace word at reset (Table 2-2). -/
def resetPace : PaceWord := { paceMin := 0xFFFF, paceMax := 0, pace := 0, stale := true, parked := false }

/-- Time at power-on reset: time base 0 (R45), factory operating hours 0 (R49); the power-cycle count, factory 0, is
raised once by the first power-on reset (R50). -/
def resetTime : TimePart :=
  { ticks := 0, resetTick := 0, opBase := 0, resumed := false, powerCycles := 1, arraySet := false, arrayBase := 0,
    arrayTick := 0, slewing := false, pace := List.replicate 4 resetPace, band := 0, bandHistory := [], lowPace := false, collapse := 0 }

/-- A command ring at reset (Tables 20-2, 20-3). -/
def resetRing : CmdRing :=
  { base := 0, size := 16, tail := 0, head := 0, enable := false, fault := false, fetched := [], nonce := none,
    watch := none }

/-- The reply ring at reset (Tables 20-2, 20-3). -/
def resetReplyRing : ReplyRing :=
  { base := 0, size := 16, tail := 0, head := 0, enable := false, fault := false, phase := true }

/-- The command interface at reset. -/
def resetMci : MciPart :=
  { rings := List.replicate 16 resetRing, reply := resetReplyRing, held := [], outstanding := [], waits := [],
    authFails := [], params := [], pendingParams := [], committed := none, configInFlight := [], recordNo := 0,
    lastCommit := none, quiesced := [], quiescing := [], lastFetch := 0, events := [], eventsDropped := 0,
    perstLow := false, mciCommands := 0, badPackets := 0, badDoorbells := 0, authFailures := 0, watchdogExpiries := 0,
    replyRingFull := 0, eventsLost := 0 }

/-- The boot part at power-on reset: mode BOOT, in the ledger step 0x00 begun and done, and step 0x01 begun and open (R503, R505). -/
def resetBoot : BootPart :=
  { mode := .boot, underQuiesce := .boot, underReadonly := .boot, loader := true, ready := false,
    ledger := [⟨0xB0, 0, 1, 0, 1, 0, 0⟩, ⟨0xD0, 0, 1, 0, 1, 0, 0⟩, ⟨0xB0, 1, 1, 0, 1, 0, 0⟩], ledgerCount := 3, step := 1, attempt := 1,
    variant := 0, stepOpen := true, lastReset := .powerOn, graceSteps := [], ledgerSteps := 2,
    pwrFailAccepted := false, pwrFailLow := false, quietStop := false, dumpByPin := false, dumpEnd := false,
    bootStepFailures := 0, selfResets := 0, pwrFailGlitches := 0, dumps := 0, quietStops := 0, stopUnsafe := none, creating := false, headId := 0,
    resetLow := false }

/-- The Almanac of a new array. -/
def resetAlm : AlmPart :=
  { newestSeq := 0, oldestSeq := 0, readMark := 0, staged := [], queueReady := false, inFlight := [], ring := [],
    slot := 0, overwritten := 0, lost := 0, lossCount := 0, lossFirst := 0, lossLast := 0, overwriteTold := false,
    lastUnit := none, early := [], earlyPos := 0, earlyUsed := 0, earlyReserveUsed := 0, earlyLost := 0,
    earlyLostFirst := 0, earlyLostLast := 0, copying := none, buffers := [] }

/-- The vault as VAUX first rises: every slot empty, VAULT_LOST set (Table 8-8). -/
def resetVault : VaultPart := { gauntlet := List.replicate 16 none, status := 0x00000001, vaux := true }

/-- Sensors before a first measurement read 0 (DESIGN CHOICE 9); no limit, nothing parked, counters 0 (R572). -/
def resetThermal : ThermalPart :=
  { tjQ := [0, 0, 0, 0], tempHbm := [0, 0, 0, 0], tempVault := 0, powerMw := 0, vcoreMv := 0, tripLatched := false,
    tripUncounted := false, limit := none, parked := [], lastRelax := none, thermalSteps := 0, throttleMs := 0,
    supplyExcursions := 0, energyMj := 0, thermTrips := 0, lifeUsed := 0 }

/-- The factory image as it lies in IMAGE and runs (R547). -/
def factoryImage : FwImage := { manifest := some Config.factoryManifest, pieces := [], factory := true }

/-- Firmware update at reset: nothing staged; both loader slots hold the factory loader (PRESUMED 26), slot 0 running. -/
def resetFw : FwPart :=
  { running := factoryImage, placed := none, image := factoryImage,
    loaders := List.replicate 2 { manifest := some Config.factoryLoader, pieces := [], factory := true }, loader := 0,
    state := 0, manifest := none, pieces := [], onMedia := false, handles := [], records := [], step := 0, sectors := 0, handed := 0, abandons := 0,
    skip := false, failover := false, loading := none, piecesPut := 0, piecesRejected := 0, activations := 0 }

/-- A harrow at power-on reset: RUNNING, empty, budget at the default RUN_AHEAD_BUDGET (R81). -/
def resetHarrow : Harrow :=
  { queues := [[], [], [], []], dispatches := 0, epochs := [], park := .running, parkAgain := false,
    parkRetry := false, permanentlyParked := false, budget := 256, windowSquashes := 0, windowDecided := 0, slotGen := [], idBlock := [],
    ticketsRun := 0, gleanedIn := 0, gleanedOut := 0, keyConflicts := 0, spills := 0, rootRefused := 0,
    epochsOpened := 0, commits := 0, squashes := 0, tombstones := 0, provRefused := 0, watchdog := 0,
    parkAbandoned := 0 }

/-- The work model at power-on reset. -/
def resetTines : TinesPart :=
  { harrows := List.replicate 32 resetHarrow, tines := List.replicate 512 ⟨[], false⟩, running := [] }

/-- WT_DESC at reset (Table 6-2). -/
def resetDesc : List (BitVec 64) := [0x0000008200003000, 0x0000001A00000830, 0x0000081300000838, 0, 0, 0, 0, 0]

/-- Winnow at reset (R135, R139, R148). -/
def resetWinnow : WinnowPart :=
  { entries := [], desc := resetDesc, pendingDesc := [], masks := [], pendingMasks := [],
    victimPtr := List.replicate 8 0, counters := List.replicate 8 ⟨0, 0, 0, 0, 0, 0, 0⟩ }

/-- The engine slices at power-on reset. -/
def resetVoxca : List VoxcaSlice :=
  List.replicate 32
    { compressors := List.replicate 3 ⟨[], false, 0⟩, decompressors := List.replicate 3 (false, 0), compInBytes := 0,
      compOutBytes := 0, compAbandoned := 0, decompOutBytes := 0, decodeErrors := 0, decompDisagree := 0 }

/-- The cipher system at power-on reset: no core granted yet, so that the first grant takes cores 0 and 1
(DESIGN CHOICE 10). -/
def resetCipher : CipherPart :=
  { cores := List.replicate 64 ⟨0, false⟩,
    complexes := List.replicate 4
      { lastCore := 15, grants := [], requests := 0, bytes := 0, tagFails := 0, cipherFaults := 0, forwarded := 0,
        slotLoads := 0, slotEvictions := 0 },
    jobs := [], nextJob := 0, faultTicks := [], slots := [], loads := [], useClock := 0, advances := [] }

/-- The memories at power-on reset (R421, R435, Table 17-8). Far-store capacity is read at training; before it, the
least population of R419 stands (DESIGN CHOICE 9). -/
def resetMem : MemPart :=
  { near := [], far := [], mappedOut := 0, partition := [24, 24, 24, 8, 16], farBytes := 274877906944, farValid := false,
    filterExtents := 0, locationExtents := 0, locationPagedOn := false, mcState := .enabled, wayPowered := 0xFFFF,
    wayLocked := 0, wayGoing := 0, holes := [], lines := [], side := [[], [], [], []], victim := [],
    invalidLines := [], nsCe := List.replicate 4 0, nsUe := List.replicate 4 0, fsCe := List.replicate 8 0,
    fsUe := List.replicate 8 0, counters := List.replicate 4 ⟨0, 0, 0, 0, 0, 0, 0, 0, 0⟩, locationPaged := 0 }

/-- The default carve of Table 18-1: write, mirror and work arena, pools 0 to 7 within each. -/
def defaultCarve : List Nat :=
  [0, 0, 262144, 131072, 32768, 8192, 4096, 3072,
   0, 0, 262144, 131072, 32768, 8192, 4096, 3072,
   524288, 262144, 196608, 131072, 16384, 16384, 3072, 1152]

/-- A full free list: indices from `base`, in ascending order (R441, R445, R451). -/
def freshList (base count : Nat) : GList :=
  { base := base, count := count, fresh := 0, stack := [], cut := false, waiters := [], freeMin := count, low := false,
    allocs := 0, frees := 0, waits := 0, lowEntries := 0, staleReleases := 0, foreignReleases := 0, doubleReleases := 0,
    squashLate := 0, squashFrees := 0, refFull := 0, listCuts := 0 }

/-- The 24 lists of a carve: within a pool, index ranges go to the arenas in the order write, mirror, work (R441). -/
def carveLists (carve : List Nat) : List GList :=
  (List.range 24).map (fun i =>
    let arena := i / 8
    let pool := i % 8
    let base := (if 1 ≤ arena then carve.getD pool 0 else 0) + (if 2 ≤ arena then carve.getD (8 + pool) 0 else 0)
    freshList base (carve.getD i 0))

/-- Granary at reset (R445). -/
def resetGranary : GranaryPart := { headers := [], lists := carveLists defaultCarve }

/-- A DMA channel at reset (Tables 19-7 to 19-9). Steward's channels 0 to 239 start disabled too (R471). -/
def resetChannel : DmaChannel :=
  { base := 0, size := 16, tail := 0, head := 0, enable := false, lost := false, halted := false, waiting := false,
    idle := true, running := none, heldTail := none, descriptors := 0, bytes := 0, errors := 0, mismatches := 0,
    ownStalls := 0, badDoorbells := 0, disables := 0 }

/-- The tables of an array that holds nothing. -/
def resetTables : MapTables :=
  { live := [], pages := [], locs := [], index := [], objects := [], pieces := [], snaps := [], domains := [],
    namespaces := [], objdoms := [], scopeParams := [], pairs := [], hosts := [] }

/-- The journal of head `h` in a new array: WRITE_SEQ starts at 0 for head 0 and 1 for head 1 (R214). JSEQ starts at 2 or 3,
so that 0 names no record (DESIGN CHOICE 13). -/
def resetJournal (h : Nat) : JournalPart :=
  { ring := [], nextJseq := 2 + h, rows := [], nextRow := 0, metaOpen := [], due := [], checkpointNumber := 0, lastCheckpoint := 0,
    checkpointing := none, checkpointDone := none, checkpoint := resetTables, checkpointDir := [], replayFrom := 0, checkpointTime := 0, directory := [], writeSeq := h }

/-- Ingest at reset; ingest sequences start at 1, one more than none (R60). -/
def resetIngest : IngestPart :=
  { nextSeq := [1, 1, 1, 1], own := [], mirror := [], ops := [], works := [], nextWork := 0, held := [], overlaid := [], objects := [], stopped := false,
    filter := [], idRanges := [], freedIds := [], drawnBlocks := [], idGens := [], startGen := 0,
    counters := List.replicate 4 ⟨0, 0, 0, 0, 0, 0, 0, 0, 0, 0, 0, 0, 0⟩ }

/-- A bridge as the head knows it before it has identified it: default owner and fault domain by number (R209). -/
def resetHeadBridge (n : Nat) : HeadBridge :=
  { state := 0, preferred := n % 2, faultDomain := n / 8, ident := none, label := none, dies := [], erases := [],
    retired := [], tempMin := 0, tempMax := 0, tempHist := List.replicate 16 0, tempCount := 0, tempSum := 0,
    programEraseFails := 0, labelBlocks := [0, 1], labelUsed := 0, firmwareBlocks := [2, 3, 4, 5, 6, 7, 8, 9],
    spares := [10, 11, 12, 13, 14, 15], nextSet := none }

/-- Media management at reset: the default geometry of Table 9-1. -/
def resetMedia : MediaPart :=
  { acres := [], baleK := 16, baleM := 3, metaK := 4, metaM := 3, bales := [],
    bridges := (List.range 192).map resetHeadBridge, nextAcre := 0, freedAcres := [], reclaims := [], freedSinceHot := 0,
    dumpAcres := [], dumpErase := [], counters := ⟨0, 0, 0, 0, 0, 0, 0, 0⟩, lastShort := none, lastBroken := none, spareWarned := false, wearWarned := false,
    readonly := false, spaceShort := false, idsShort := false, arrayUid := List.replicate 16 0, dumped := none, torn := [] }

/-- The read path at reset. -/
def resetRead : ReadPart :=
  { cache := [], streams := [[], [], [], []], decompFails := [], counters := List.replicate 4 ⟨0, 0, 0, 0, 0, 0, 0, 0, 0⟩ }

/-- A link end at reset: it trains with preset 4 (R241). -/
def resetLinkEnd : LinkEnd :=
  { state := .training, attempts := 0, preset := 4, credits := 0, txSeq := 0, rxSeq := 0, granted := 0, inbox := [], unacked := [],
    sent := 0, waiting := [], replays := 0, nakSent := none, crcErrors := 0, replayCount := 0, retrains := 0, linkDowns := 0 }

/-- A Furrow link at reset. -/
def resetFurrow : FurrowLink :=
  { link := resetLinkEnd, cmds := [], nextTag := 0, queued := [], acquireAt := none, leaseReg := 0xC0000000, leased := false, leaseSent := 0,
    lateResponses := 0, leaseLost := 0, broken := false }

/-- A bridge at reset: nobody holds the lease (Table 10-10), the NAND is erased. -/
def resetBridge : Bridge :=
  { leaseEpoch := 0, owner := 3, expired := false, leaseMs := 0, expiry := 0, nand := [], grownBad := [],
    internalFault := false, resetSeen := false }

/-- The peer before it has sent anything. -/
def resetPeer : PeerView :=
  { lastBeat := none, beatSeen := false, hbSeq := 0, writeSeq := 0, jseq := 0, ingest := [0, 0, 0, 0], hsw := 0, fit := 0,
    powerCycles := 0, leased := 0, mirrorFree := 0, ready := false, inventory := none, lastMseq := 0 }

/-- RETURN at reset. -/
def resetReturn : ReturnPart :=
  { resyncEnd := none, resyncAcked := false, inbound := false, inboundLeft := 0, inboundEnd := none, holdFrom := none, holdEnded := false, asked := false,
    toHand := [], handing := [], completing := false }

/-- Headland at reset: the sub-links train, YIELD_OUT_N is low (R317). Of the 2^24 blocks of chunk IDs, head h starts with
the lower or the upper half (DESIGN CHOICE 14). -/
def resetHeadland (h : Nat) : HeadlandPart :=
  { links := List.replicate 4 resetLinkEnd, lanes := [0, 0, 0, 0], nextMsgId := [0, 0, 0, 0], linkState := .down, lastWin := none,
    txOff := none, peerPresent := false, peer := resetPeer, hbSeq := 0, nextMseq := 1, msgs := [], held := [], mirrored := [], drains := [],
    forwards := [], toRun := [], nextForward := 1, yieldOutLow := true, yieldInLow := false, conflict := false, newcomer := false, survivorZero := false,
    takeover := none, ret := resetReturn, yieldTimes := [], returnDisable := false, supervisorMisses := 0, eccWindows := 0,
    yieldCause := 0, idBlocks := [(h * 8388608, 8388608)], idAsked := false, counters := ⟨0, 0, 0, 0, 0, 0, 0, 0, 0, 0⟩ }

/-- Snapshots, replication and export at reset. -/
def resetRepl : ReplPart :=
  { jobs := [], nextJob := 0, sessions := [], last := [], resume := [], exports := [], nextExport := 1, lastSnap := [], copies := [],
    counters := ⟨0, 0, 0, 0, 0, 0, 0, 0, 0⟩ }

/-- Port counters at reset (R366). -/
def resetPortCounters : PortCounters :=
  { fecCorrected := 0, fecUncorrected := 0, rxBytes := 0, txBytes := 0, linkDowns := 0, rxDiscards := 0, nonRoceDropped := 0,
    icrcErrors := 0, badOpcodes := 0, staleQpn := 0, pfcTx := List.replicate 8 0, pfcRx := List.replicate 8 0, nakSent := 0,
    rnrNakSent := 0, retransmits := 0, qpErrors := 0, cnpSent := 0, cnpReceived := 0 }

/-- A logical port at reset: DOWN until its PCS aligns (R332). -/
def resetLogicalPort : LogicalPort :=
  { link := 0, downTold := false, conflicts := [], paused := [], xoff := [], counters := resetPortCounters }

/-- The front ports at reset: no queue pair, no zone. -/
def resetPorts : PortsPart :=
  { lports := List.replicate 32 resetLogicalPort, held := [], neighbours := [], qps := [], freshQp := 0, freedQps := [], gens := [],
    cached := [[], [], [], []], missed := [[], [], [], []], nakOrders := [[], [], [], []], zones := [], freshZone := 0,
    freedZones := [], lzWarned := false, lzTold := false, lzGrants := 0, lzAccessNaks := 0, lzAbandoned := 0, lzQuarantined := 0,
    counters := List.replicate 4 ⟨0, 0, 0, 0, 0⟩ }

/-- The NVMe target at reset: PS0 (R387), no controller. -/
def resetNvme : NvmePart :=
  { powerState := 0, controllers := [], queues := [], commands := [], errors := [], errorCount := 0, anaChanges := 0,
    warning := 0, readBytes := 0, writtenBytes := 0, readCommands := 0, writeCommands := 0, busyMinutes := 0, busyMinute := none,
    unsafeShutdowns := 0, uncleanStop := false, mediaErrors := 0, warnMinutes := 0, critMinutes := 0, warnTicks := 0, critTicks := 0,
    counters := ⟨0, 0, 0, 0, 0, 0, 0, 0⟩ }

/-- The Sheaf service at reset. -/
def resetSheaf : SheafPart :=
  { conns := [], requests := [], puts := [], nextPeerPut := 1, issued := [], counters := ⟨0, 0, 0, 0, 0, 0, 0, 0, 0, 0, 0⟩ }

/-- The head right after the power-on reset of a new part in a new array. -/
def State.reset : State :=
  { time := resetTime
    hsw := { attn := 0, autonomy := false, word := 0x0001, attnSeq := 0 }
    boot := resetBoot
    alm := resetAlm
    mci := resetMci
    vault := resetVault
    thermal := resetThermal
    smbus := { words := [0x0001, 0, 0, 0, 0, 0, 0, 0, 0, 0, 0, 0, 0, 0, 0xFF66, 0], code := 0, latched := none }
    jtag := .bypass
    flash := { lastWrite := [0, 0, 0, 0], refreshes := [0, 0, 0, 0] }
    fw := resetFw
    tines := resetTines
    winnow := resetWinnow
    voxca := resetVoxca
    cipher := resetCipher
    mem := resetMem
    granary := resetGranary
    dma := List.replicate 256 resetChannel
    map := resetTables
    journal := resetJournal 0
    ingest := resetIngest
    media := resetMedia
    read := resetRead
    furrow := List.replicate 192 resetFurrow
    bridges := List.replicate 192 resetBridge
    headland := resetHeadland 0
    repl := resetRepl
    ports := resetPorts
    nvme := resetNvme
    sheaf := resetSheaf
    out := []
    genCount := 0
    freeCount := 0
    pending := [] }

end Sys2Proof.Machine
end

