-- ==== Sys2Proof/Machine/Formats.lean ====
section
/-! DEFINITION. On-media formats (11) and chunk cryptography fields (R198): the bytes of every structure the head writes. -/

namespace Sys2Proof.Machine

/-- Appends the CRC-32C of the bytes so far (R264). -/
def withCrc (bs : Bytes) : Bytes := bs ++ leBytes 4 (crc32c bs)

/-- Writes `new` over `old` at an offset. -/
def overlay (old : Bytes) (off : Nat) (new : Bytes) : Bytes :=
  old.take off ++ new ++ old.drop (off + new.length)

/-! ## Map entries, locations (R275, R276) -/

/-- Chunk ID of a map entry. -/
def entryChunk (e : Nat) : Nat := e % 2 ^ 40
/-- Generation of a map entry. -/
def entryGen (e : Nat) : Nat := e / 2 ^ 40 % 2 ^ 24
/-- A map entry. -/
def mapEntry (chunk gen : Nat) : Nat := gen % 2 ^ 24 * 2 ^ 40 + chunk % 2 ^ 40

/-- A location entry's bytes (Table 11-7). -/
def locBytes (l : Loc) : Bytes :=
  leBytes 4 l.acre
    ++ leBytes 5 (l.plot % 32 * 2 ^ 35 + l.bale % 2048 * 2 ^ 24 + l.off % 4096 * 2 ^ 12 + l.len % 4096)
    ++ leBytes 3 l.gen ++ leBytes 4 l.refcount

/-- A location entry that names no chunk. -/
def noLoc : Loc := { acre := 0xFFFFFFFF, bale := 0, plot := 0, off := 0, len := 0, gen := 0, refcount := 0, domain := 0, epoch := 0 }

/-- Length of a record in units of 64 bytes. -/
def recUnits (bytes : Nat) : Nat := (bytes + 63) / 64

/-! ## Chunk records (R198, R271, R272) -/

/-- The IV of a stored chunk (Table 8-10). -/
def chunkIv (chunk gen epoch : Nat) : Bytes := leBytes 5 chunk ++ leBytes 3 gen ++ leBytes 4 epoch

/-- Fingerprint bits [63:0] (R265). -/
def fpTag (fp : Bytes) : Nat := fieldAt fp 0 8

/-- The AAD of a stored chunk (Table 8-11). -/
def chunkAad (domain format plainLen : Nat) (fp : Bytes) : Bytes :=
  packFields [(1, domain), (1, format), (2, 0), (4, plainLen), (8, fpTag fp)]

/-- The header of a chunk record (Table 11-4). -/
def chunkHeader (format domain chunk gen epoch plainLen storedLen : Nat) (fp : Bytes) : Bytes :=
  withCrc (packFields [(1, 1), (1, format), (1, domain), (1, 0), (4, 64 + storedLen + 16)]
    ++ chunkIv chunk gen epoch ++ leBytes 4 plainLen ++ leBytes 4 storedLen ++ padTo 32 fp)

/-- A chunk record: header, ciphertext, tag (R271). -/
def chunkRecord (format domain chunk gen epoch plainLen : Nat) (fp ct tag : Bytes) : Bytes :=
  chunkHeader format domain chunk gen epoch plainLen ct.length fp ++ ct ++ tag

/-- Whether a record header's CRC verifies. -/
def recordCrcOk (r : Bytes) : Bool := decide (64 ≤ r.length) && crc32c (r.take 0x3C) == fieldAt r 0x3C 4
/-- FORMAT of a chunk record. -/
def recFormat (r : Bytes) : Nat := fieldAt r 1 1
/-- DOMAIN of a chunk record. -/
def recDomain (r : Bytes) : Nat := fieldAt r 2 1
/-- CHUNK_ID of a chunk record. -/
def recChunk (r : Bytes) : Nat := fieldAt r 8 5
/-- GEN of a chunk record. -/
def recGen (r : Bytes) : Nat := fieldAt r 0xD 3
/-- EPOCH of a chunk record. -/
def recEpoch (r : Bytes) : Nat := fieldAt r 0x10 4
/-- PLAIN_LEN of a chunk record. -/
def recPlainLen (r : Bytes) : Nat := fieldAt r 0x14 4
/-- STORED_LEN of a chunk record. -/
def recStoredLen (r : Bytes) : Nat := fieldAt r 0x18 4
/-- FINGERPRINT of a chunk record. -/
def recFp (r : Bytes) : Bytes := slice r 0x1C 32
/-- The ciphertext of a chunk record. -/
def recCiphertext (r : Bytes) : Bytes := slice r 64 (recStoredLen r)
/-- The tag of a chunk record. -/
def recTag (r : Bytes) : Bytes := slice r (64 + recStoredLen r) 16

/-! ## Acres, plots, units (R268-R274) -/

/-- An acre header (Table 11-2). -/
def acreHeader (a : Acre) (arrayUid : Bytes) : Bytes :=
  let blocks := (a.blocks.flatMap (fun b => packFields [(1, b.1), (1, b.2.1), (2, 0), (4, b.2.2)]))
  let raw := packFields [(4, 0x45524341), (1, 1), (1, a.stream), (1, a.k), (1, a.m), (4, a.num), (2, a.nBales), (1, a.opener),
      (1, 0), (8, a.openSeq), (8, a.openTime)] ++ padTo 16 arrayUid ++ padTo 192 blocks ++ zeros 16
  overlay raw 0xFC (leBytes 4 (crc32c raw))

/-- Whether bytes are an acre header: magic, version and CRC, which covers the 256 bytes with its field taken as zero (R263, R264). -/
def isAcreHeader (h : Bytes) : Bool :=
  h.length == 256 && fieldAt h 0 4 == 0x45524341 && fieldAt h 4 1 == 1 && crc32c (overlay h 0xFC (zeros 4)) == fieldAt h 0xFC 4

/-- Whether bytes begin with a data plot header: magic, version and CRC (Table 11-3). -/
def isPlotHeader (h : Bytes) : Bool :=
  fieldAt h 0 4 == 0x544F4C50 && fieldAt h 4 1 == 1 && crc32c (h.take 0xFC) == fieldAt h 0xFC 4

/-- Whether bytes are a metadata unit: magic, version and CRC, which covers the whole unit with its field taken as zero (Table 11-5). -/
def isUnit (u : Bytes) : Bool :=
  u.length == 16384 && fieldAt u 0 4 == 0x54494E55 && fieldAt u 7 1 == 1 && crc32c (overlay u 0x3C (zeros 4)) == fieldAt u 0x3C 4

/-- The acre that a header describes, as recovery finds it: SEALED (Table 9-2). -/
def parseAcre (h : Bytes) : Acre :=
  let k := fieldAt h 6 1
  let m := fieldAt h 7 1
  let n := fieldAt h 12 2
  { num := fieldAt h 8 4, stream := fieldAt h 5 1, k := k, m := m, nBales := n, opener := fieldAt h 14 1, openSeq := fieldAt h 16 8,
    openTime := fieldAt h 24 8, blocks := (List.range (k + m)).map (fun i => (fieldAt h (48 + 8 * i) 1, fieldAt h (49 + 8 * i) 1, fieldAt h (52 + 8 * i) 4)),
    state := 2, quadrant := 0, started := n, committed := n, torn := [], sealedAt := 0, marked := [], envelopes := [], maxJseq := 0 }

/-- A data plot (Table 11-3): header, acre header, records from 0x200, zeros to the end. -/
def plotBytes (a : Acre) (arrayUid : Bytes) (bale plot baseSeq nrecs used sealTime : Nat) (body : Bytes) : Bytes :=
  padTo 262144
    (withCrc (packFields [(4, 0x544F4C50), (1, 1), (1, plot), (2, bale), (8, baseSeq + 2 * plot), (8, baseSeq), (4, nrecs),
        (4, used), (8, sealTime)] ++ zeros 212)
      ++ acreHeader a arrayUid ++ body)

/-- Lays records at their offsets within a plot's record area, which starts at 0x200 (R270). -/
def layRecords (rs : List (Nat × Bytes)) : Bytes :=
  rs.foldl (fun acc r => padTo (r.1 - 0x200) acc ++ padTo (64 * recUnits r.2.length) r.2) []

/-- A metadata unit (Table 11-5): 16,384 bytes, its CRC over the whole unit with the field taken as zero. -/
def unitBytes (utype plot row acre bale part wseq pageId jseq : Nat) (payload : Bytes) : Bytes :=
  let body := padTo 16384
    (packFields [(4, 0x54494E55), (1, utype), (1, plot), (1, row), (1, 1), (4, acre), (2, bale), (2, part), (8, wseq), (8, pageId),
      (8, jseq), (4, payload.length)] ++ zeros 20 ++ payload.take 16320)
  overlay body 0x3C (leBytes 4 (crc32c body))

/-- PAGE_ID: UTYPE over the value of Table 11-6. -/
def pageId (utype value : Nat) : Nat := utype * 2 ^ 58 + value % 2 ^ 58

/-- A unit location (R274). -/
def unitLoc (acre bale plot row : Nat) : Bytes := packFields [(4, acre), (2, bale), (1, plot), (1, row)]

/-! ## Bridge label, envelope, object record, pair record -/

/-- A label copy: one 16 KiB program unit (Table 11-1). -/
def labelBytes (l : BridgeLabel) : Bytes :=
  padTo 16384 (withCrc (packFields [(4, 0x424C5848), (1, 1), (1, l.bridgeNo), (1, l.faultDomain), (1, l.preferred), (8, l.seq)]
    ++ padTo 16 l.arrayUid ++ packFields [(8, l.bridgeUid), (8, l.createTime)] ++ zeros 76))

/-- Whether bytes begin with a label copy: magic, version and CRC (Table 11-1). -/
def isLabel (b : Bytes) : Bool := fieldAt b 0 4 == 0x424C5848 && fieldAt b 4 1 == 1 && crc32c (b.take 0x7C) == fieldAt b 0x7C 4

/-- A label copy from its bytes. -/
def parseLabel (b : Bytes) : BridgeLabel :=
  { bridgeNo := fieldAt b 5 1, faultDomain := fieldAt b 6 1, preferred := fieldAt b 7 1, seq := fieldAt b 8 8, arrayUid := slice b 0x10 16,
    bridgeUid := fieldAt b 0x20 8, createTime := fieldAt b 0x28 8 }

/-- A key envelope (Table 11-9). -/
def envelopeBytes (domain kek epoch createTime state : Nat) (wrapped : Bytes) : Bytes :=
  withCrc (packFields [(1, domain), (1, kek), (2, 0), (4, epoch), (8, createTime)] ++ padTo 40 wrapped
    ++ packFields [(1, state), (3, 0)])

/-- An object record (Table 11-8). -/
def objectBytes (o : ObjRecord) : Bytes :=
  withCrc (padTo 32 o.key ++ packFields [(1, o.objDomain), (1, o.dedupDomain), (1, o.state), (1, o.holdFlags), (4, 0),
    (8, o.number), (8, o.size), (8, o.pieceCount), (8, o.commitTime), (8, o.holdUntil), (8, o.prev)] ++ zeros 36)

/-- A piece entry (R278). -/
def pieceBytes (p : Piece) : Bytes := packFields [(8, p.entry), (8, p.offset % 2 ^ 44 + (p.len - 1) % 2 ^ 17 * 2 ^ 44)]

/-- A replication pair record (Table 12-9). -/
def pairBytes (p : PairRecord) : Bytes :=
  withCrc (packFields [(2, p.pair), (1, p.role), (1, p.state), (1, p.kind), (1, p.slot), (2, p.source), (2, p.target), (2, 0),
    (4, p.sessionLast)] ++ padTo 16 p.partner ++ leBytes 8 p.lastTargetJseq ++ zeros 20)

/-! ## Journal (R280) -/

/-- A target's 24 bytes. -/
def targetBytes : Target → Bytes
  | .grain ns g => packFields [(1, 1), (1, 0), (2, ns), (4, 16384), (8, g), (8, 0)]
  | .piece o off len => packFields [(1, 2), (1, 0), (2, 0), (4, len), (8, o), (8, off)]

/-- The body of a table change (DESIGN CHOICE 21): a kind byte, then the entry's fields. -/
def tableBytes : TableChange → Bytes
  | .nspace n =>
    packFields [(1, 1), (1, n.domain), (2, n.id), (1, n.lbaLog2), (1, n.owner), (2, n.hosts.length), (8, n.size)] ++ padTo 16 n.nguid
      ++ packFields [(1, flagBit n.exposes.isSome), (1, 0), (2, (n.exposes.getD (0, 0)).1), (2, (n.exposes.getD (0, 0)).2), (2, 0)]
      ++ n.hosts.flatMap (leBytes 2)
  | .namespaceGone id => packFields [(1, 2), (1, 0), (2, id)]
  | .objdom o =>
    packFields [(1, 3), (1, o.domain), (2, o.id), (1, o.owner), (1, 0), (2, o.clients.length)] ++ o.clients.flatMap (leBytes 16)
  | .objdomGone id => packFields [(1, 4), (1, 0), (2, id)]
  | .domain id kek level policy salt =>
    packFields [(1, 5), (1, 0), (2, id), (1, kek), (1, level), (1, policy), (1, 0)] ++ padTo 32 salt
  | .domainGone id => packFields [(1, 6), (1, 0), (2, id)]
  | .host i nqn => packFields [(1, 7), (1, 0), (2, i), (2, nqn.length), (2, 0)] ++ nqn
  | .hostGone i => packFields [(1, 8), (1, 0), (2, i)]
  | .idGrant h bs => packFields [(1, 9), (1, h), (2, bs.length)] ++ bs.flatMap (fun b => packFields [(4, b.1), (4, b.2)])
  | .bind id kek => packFields [(1, 10), (1, kek), (2, id)]

/-- JTYPE and body of a record (Table 11-12). -/
def jbodyBytes : JBody → Nat × Bytes
  | .buffered t off len seq => (1, targetBytes t ++ packFields [(4, off), (4, len), (8, seq)])
  | .chunk t e l fp => (2, targetBytes t ++ leBytes 8 e ++ locBytes l ++ padTo 32 fp)
  | .reference t e => (3, targetBytes t ++ leBytes 8 e)
  | .unmap t n => (4, targetBytes t ++ leBytes 8 n)
  | .relocate e l => (5, leBytes 8 e ++ locBytes l)
  | .object o => (6, objectBytes o)
  | .snapshot k op id n _ => (7, packFields [(1, k), (1, op), (2, id), (2, n), (2, 0)])
  | .envelope d ep kek time w => (8, envelopeBytes d kek ep time 1 w)
  | .keyEpoch d ep => (9, packFields [(1, d), (3, 0), (4, ep)])
  | .epochDestroy d ep => (10, packFields [(1, d), (3, 0), (4, ep)])
  | .page pid a b p r _ => (11, leBytes 8 pid ++ unitLoc a b p r)
  | .acreState a st => (12, packFields [(4, a), (1, st), (3, 0)])
  | .checkpoint n r => (13, leBytes 8 n ++ unitLoc r.1 r.2.1 r.2.2.1 r.2.2.2)
  | .time at' op => (14, packFields [(8, at'), (8, op)])
  | .replPair p => (15, pairBytes p)
  | .scopeParam p =>
    (16, packFields [(1, p.kind), (1, 0), (2, p.id), (2, p.param), (2, p.value.length)] ++ padTo (roundUp p.value.length 8) p.value)
  | .table c => (Config.tableType, tableBytes c)

/-- A journal record's bytes (Table 11-10), its CRC over the record with the field taken as zero. -/
def journalBytes (jseq : Nat) (b : JBody) : Bytes :=
  let (jt, body) := jbodyBytes b
  let len := 16 + roundUp body.length 8
  let raw := packFields [(1, jt), (1, 0), (2, len), (4, 0), (8, jseq)] ++ padTo (len - 16) body
  overlay raw 4 (leBytes 4 (crc32c raw))

/-! ## Export stream (R285) -/

/-- An export frame: header and body, its CRC over both with the field taken as zero (Table 11-13). -/
def exportFrame (etype eflags eseq : Nat) (body : Bytes) : Bytes :=
  let raw := packFields [(4, 0x58455848), (1, etype), (1, eflags), (2, 0), (8, eseq), (8, body.length), (4, 0), (4, 0)] ++ body
  overlay raw 0x1C (leBytes 4 (crc32c raw))

/-- A nspaces or object domain's entry of the checkpoint root (Table 11-11). -/
def scopeEntry (kind domain id lbaLog2 flags size : Nat) (nguid : Bytes) : Bytes :=
  packFields [(1, kind), (1, domain), (2, id), (1, lbaLog2), (1, flags), (2, 0), (8, size)] ++ padTo 16 nguid

/-- A domain's entry of the checkpoint root. -/
def domainEntry (d : Domain) (withSalt : Bool) : Bytes :=
  packFields [(1, d.id), (1, d.kek), (1, d.voxcaLevel), (1, d.verifyPolicy), (4, d.epoch)] ++ zeros 24
    ++ (if withSalt then padTo 32 d.salt else zeros 32)

/-- A snapshot's entry of the checkpoint root. -/
def snapEntry (x : Snapshot) : Bytes :=
  packFields [(1, x.kind), (1, 0), (2, x.id), (2, x.num), (2, 0), (8, x.createJseq), (8, x.createTime), (8, 0)]

end Sys2Proof.Machine
end

