-- ==== Sys2Proof/Machine/Links.lean ====
section
/-! DEFINITION. One end of a serial link, Furrow or Headland: frames, credits, acknowledgement, replay and training
(R241-R247, R308). -/

namespace Sys2Proof.Machine

/-- What a link's kind fixes: its NAK hold-off in ticks, and the credits its head grants. -/
structure LinkKind where
  headland : Bool
  nakHold : Nat
  grants : Nat
  deriving DecidableEq, Repr

/-- A Furrow link: 20 µs, and 32 credits (R241, R246). -/
def furrowKind : LinkKind := { headland := false, nakHold := 500, grants := 32 }

/-- A Headland sub-link: 2 µs, and 255 credits (R308). -/
def headlandKind : LinkKind := { headland := true, nakHold := 50, grants := 255 }

/-- The ACK field: SEQ of the latest frame accepted in order, with AV (Table 10-4). -/
def ackField (e : LinkEnd) : Nat := if e.rxSeq = 0 then 0 else (e.rxSeq - 1) % 4096 + 2 ^ 15

/-- A frame's bytes as its blocks hold them: FRAME_START, then header, payload and CRC, and zero bytes to the end of the last block
(R242, Table 10-2). -/
def frameBytes (e : LinkEnd) (seq credit : Nat) (f : LinkFrame) : Bytes :=
  let body := withCrc (packFields [(1, f.ftype), (1, f.flags), (2, seq % 4096), (2, ackField e), (1, credit), (1, 0), (2, f.payload.length),
    (2, f.tag), (2, f.code), (2, f.index)] ++ f.payload)
  leBytes 8 0x78 ++ padTo ((body.length + 7) / 8 * 8) body

/-- A LINK frame: acknowledgement, credit, NAK; it costs no credit and takes no SEQ. -/
def linkFrameBytes (e : LinkEnd) (nak : Bool) (credit : Nat) : Bytes :=
  frameBytes e 0 credit { ftype := 4, flags := 2 * flagBit nak, tag := 0, code := 0, index := 0, payload := [] }

/-! ## Sending -/

/-- Sends frames while the link is up, credit lasts and fewer than 2,048 are unacknowledged: first those to be sent again, under their own
SEQ, then those that wait (R245-R247). -/
def linkPump : Nat → LinkEnd → LinkEnd × List Bytes
  | 0, e => (e, [])
  | fuel + 1, e =>
    if e.state ≠ .up ∨ e.credits = 0 then (e, [])
    else
      match e.unacked[e.sent]? with
      | some f =>
        let r := linkPump fuel { e with credits := e.credits - 1, sent := e.sent + 1 }
        (r.1, frameBytes e (e.txSeq - e.unacked.length + e.sent) 0 f :: r.2)
      | none =>
        match e.waiting with
        | [] => (e, [])
        | f :: rest =>
          if 2048 ≤ e.unacked.length then (e, [])
          else
            let r := linkPump fuel { e with waiting := rest, credits := e.credits - 1, txSeq := e.txSeq + 1, unacked := e.unacked ++ [f]
                                            sent := e.unacked.length + 1 }
            (r.1, frameBytes e e.txSeq 0 f :: r.2)

/-- Pumps everything that can go. -/
def linkFlush (e : LinkEnd) : LinkEnd × List Bytes := linkPump (e.unacked.length + e.waiting.length) e

/-- Takes the frames of a message for sending, in order (R243, R309). -/
def linkSend (fs : List LinkFrame) (e : LinkEnd) : LinkEnd × List Bytes := linkFlush { e with waiting := e.waiting ++ fs }

/-- Applies an acknowledgement: the frames up to that SEQ are kept no longer (R246, R247). -/
def linkAck (seq : Nat) (e : LinkEnd) : LinkEnd :=
  let first := e.txSeq - e.unacked.length
  match firstIndex e.unacked.length (fun i => (first + i) % 4096 == seq % 4096) with
  | none => e
  | some i => { e with unacked := e.unacked.drop (i + 1), sent := e.sent - (i + 1), replays := 0 }

/-- Starts training again: sequence numbers, credits, replay buffers and incomplete messages are gone (R247). -/
def linkRetrain (e : LinkEnd) : LinkEnd :=
  { e with state := .training, attempts := 0, preset := 4, credits := 0, txSeq := 0, rxSeq := 0, granted := 0, inbox := [], unacked := []
           sent := 0, waiting := [], replays := 0, nakSent := none, retrains := bump e.retrains }

/-- A link that is up trains again (R247). -/
def linkDrops (e : LinkEnd) : LinkEnd × List Bytes := if e.state = .up then (linkRetrain e, []) else (e, [])

/-- Sends every unacknowledged frame again; after 8 such replays with no advance of the acknowledgement the link retrains (R247). -/
def linkReplay (e : LinkEnd) : LinkEnd × List Bytes :=
  if 8 ≤ e.replays then (linkRetrain e, [])
  else linkFlush { e with sent := 0, replays := e.replays + 1, replayCount := bump e.replayCount }

/-- The replay timer expires: the acknowledgement has not advanced since the oldest unacknowledged frame was sent (R247). -/
def linkReplayTimeout (e : LinkEnd) : LinkEnd × List Bytes :=
  if e.state ≠ .up ∨ e.unacked = [] then (e, []) else linkReplay e

/-- What the header of a received frame says of the frames sent: acknowledgement and credit. -/
def linkHear (ack : Option Nat) (credit : Nat) (e : LinkEnd) : LinkEnd :=
  let e1 := match ack with
    | some a => linkAck a e
    | none => e
  { e1 with credits := e1.credits + credit }

/-- A received LINK frame: acknowledgement, credit, NAK (R245-R247). -/
def linkOnLink (nak : Bool) (ack : Option Nat) (credit : Nat) (e : LinkEnd) : LinkEnd × List Bytes :=
  if e.state ≠ .up then (e, [])
  else if nak ∧ e.unacked ≠ [] then linkReplay (linkHear ack credit e)
  else linkFlush (linkHear ack credit e)

/-! ## Receiving -/

/-- A frame as it is received: the link's own fields, and the rest. -/
structure FrameIn where
  seq : Nat
  ack : Option Nat
  credit : Nat
  frame : LinkFrame
  deriving DecidableEq, Repr

/-- Reads a frame from its blocks; none where it is corrupt: it does not begin with FRAME_START, it is cut off, its PLEN exceeds 4,096, its CRC
fails or its FTYPE is RSV (R244, Tables 10-4 and 13-2). -/
def readFrame (k : LinkKind) (blocks : Bytes) : Option FrameIn :=
  let b := blocks.drop 8
  let plen := fieldAt b 8 2
  let ftype := fieldAt b 0 1
  if fieldAt blocks 0 1 ≠ 0x78 ∨ 4096 < plen ∨ b.length < 20 + plen then none
  else if crc32c (b.take (16 + plen)) ≠ fieldAt b (16 + plen) 4 then none
  else if !(ftype == 1 || ftype == 4 || (!k.headland && (ftype == 2 || ftype == 3))) then none
  else
    some { seq := fieldAt b 2 2 % 4096, ack := if bitOf (fieldAt b 4 2) 15 then some (fieldAt b 4 2 % 4096) else none
           credit := fieldAt b 6 1
           frame := { ftype := ftype, flags := fieldAt b 1 1, tag := fieldAt b 10 2, code := fieldAt b 12 2, index := fieldAt b 14 2
                      payload := slice b 16 plen } }

/-- A discarded frame: a repeated acknowledgement, a NAK unless one was sent within the hold-off, or a retrain. Its buffer is free again
(R245, R246). -/
def linkDiscard (k : LinkKind) (d : Discard) (now : Nat) (e : LinkEnd) : LinkEnd × List Bytes :=
  if e.state ≠ .up then (e, [])
  else
    match d with
    | .uncredited => (linkRetrain e, [])
    | .duplicate => (e, [linkFrameBytes e false 1])
    | _ =>
      let e1 := { e with crcErrors := bump e.crcErrors }
      let held := match e.nakSent with
        | some t => decide (now < t + k.nakHold)
        | none => false
      if held then (e1, [linkFrameBytes e1 false 1]) else ({ e1 with nakSent := some now }, [linkFrameBytes e1 true 1])

/-- Accepts a frame in order, with the acknowledgement and credit it carries, and acknowledges it; its credit goes back with that unless it is
to be withheld (R29, R245, R246). -/
def linkAccept (withhold : Bool) (x : FrameIn) (e : LinkEnd) : LinkEnd × List Bytes :=
  let e1 := linkHear x.ack x.credit { e with rxSeq := e.rxSeq + 1, nakSent := none, granted := e.granted - flagBit withhold
                                             inbox := e.inbox ++ [x.frame] }
  let r := linkFlush e1
  (r.1, r.2 ++ [linkFrameBytes r.1 false (1 - flagBit withhold)])

/-- Gives back `n` credits that were withheld. -/
def linkReturn (n : Nat) (e : LinkEnd) : LinkEnd × List Bytes :=
  if e.state ≠ .up ∨ n = 0 then (e, []) else ({ e with granted := e.granted + n }, [linkFrameBytes e false n])

/-- A frame arrives, as its blocks: it is discarded as corrupt, uncredited, a duplicate or out of order, or accepted. The acknowledgement and
credit of a frame that is discarded are not taken (DESIGN CHOICE 165). -/
def linkFrame (k : LinkKind) (withhold : Bool) (now : Nat) (blocks : Bytes) (e : LinkEnd) : LinkEnd × List Bytes :=
  if e.state ≠ .up then (e, [])
  else
    match readFrame k blocks with
    | none => linkDiscard k .corrupt now e
    | some x =>
      if x.frame.ftype = 4 then linkOnLink (bitOf x.frame.flags 1) x.ack x.credit e
      else if e.granted = 0 then linkDiscard k .uncredited now e
      else if x.seq = e.rxSeq % 4096 then linkAccept withhold x e
      else if (e.rxSeq + 4096 - x.seq) % 4096 ≤ 2048 ∧ x.seq < e.rxSeq then linkDiscard k .duplicate now e
      else linkDiscard k .outOfOrder now e

/-- Frames arrive one after the other. -/
def linkFrames (k : LinkKind) (withhold : Bool) (now : Nat) : List Bytes → LinkEnd → LinkEnd × List Bytes
  | [], e => (e, [])
  | b :: rest, e =>
    let r := linkFrame k withhold now b e
    let r2 := linkFrames k withhold now rest r.1
    (r2.1, r.2 ++ r2.2)

/-- Takes a complete message from the frames accepted: the oldest one whose last frame has arrived and is one that `may` be taken (R243, R309). -/
def takeMessage (may : LinkFrame → Bool) (e : LinkEnd) : Option (List LinkFrame) × LinkEnd :=
  match e.inbox.find? (fun f => bitOf f.flags 0 && may f) with
  | none => (none, e)
  | some f => (some (e.inbox.filter (fun x => x.tag == f.tag)), { e with inbox := e.inbox.filter (fun x => x.tag != f.tag) })

/-! ## Training -/

/-- Training ends well: sequence numbers at 0, credits as exchanged, and what has waited is sent (R241, R577). -/
def linkTrained (k : LinkKind) (preset credits : Nat) (e : LinkEnd) : LinkEnd × List Bytes :=
  if e.state ≠ .training then (e, [])
  else linkFlush { e with state := .up, attempts := 0, preset := preset, credits := credits, txSeq := 0, rxSeq := 0, granted := k.grants
                          inbox := [], unacked := [], sent := 0, replays := 0, nakSent := none }

/-- A training bound is missed: from step 1 again, and DOWN at the third failure in a row (R241). -/
def linkTrainFail (e : LinkEnd) : LinkEnd :=
  if e.state ≠ .training then e
  else if 2 ≤ e.attempts then { e with state := .down, attempts := 0, waiting := [], linkDowns := bump e.linkDowns }
  else { e with attempts := e.attempts + 1, preset := 4 }

/-- The 1 s retry of a DOWN link (R241, R315). -/
def linkRetry (e : LinkEnd) : LinkEnd := if e.state = .down then { e with state := .training, attempts := 0, preset := 4 } else e

/-! ## What the head sends -/

/-- Sends something outside. -/
def emit (o : Out) (s : State) : State := { s with out := s.out ++ [o] }

/-- Applies a link operation to a Headland sub-link, and sends its frames. -/
def subLink (q : Nat) (f : LinkEnd → LinkEnd × List Bytes) (s : State) : State :=
  let r := f (s.headland.links.getD q resetLinkEnd)
  { s with headland := { s.headland with links := s.headland.links.set q r.1 }
           out := s.out ++ r.2.map (Out.headlandFrame q) }

/-- Whether a sub-link is up. -/
def subUp (q : Nat) (s : State) : Bool := ((s.headland.links[q]?).map (fun e => e.state == .up)).getD false

/-- The sub-link that carries quadrant q's traffic: its own, or the next UP one in the order q+1, q+2, q+3 (R313, R315). -/
def subFor (q : Nat) (s : State) : Nat :=
  (([0, 1, 2, 3].map (fun d => (q + d) % 4)).find? (fun x => subUp x s)).getD (q % 4)

/-- The pieces of a body that fit one frame each: 4,096 bytes, at least one frame. -/
def framePieces : Nat → Bytes → List Bytes
  | 0, _ => []
  | fuel + 1, b => if b.length ≤ 4096 then [b] else b.take 4096 :: framePieces fuel (b.drop 4096)

/-- The frames of a Headland message (R309). -/
def messageFrames (id mtype : Nat) (body : Bytes) : List LinkFrame :=
  let ps := framePieces (body.length / 4096 + 1) body
  (List.range ps.length).map (fun i =>
    { ftype := 1, flags := flagBit (i + 1 == ps.length) + 4 * flagBit (i == 0), tag := id, code := mtype, index := i,
      payload := ps.getD i [] })

/-- Sends a message on a sub-link, unless the transmitters are disabled (R309, R313). -/
def headSendOn (q mtype : Nat) (body : Bytes) (s : State) : State :=
  if s.headland.txOff.isSome then s
  else
    let id := s.headland.nextMsgId.getD q 0
    let s1 := { s with headland := { s.headland with nextMsgId := s.headland.nextMsgId.set q ((id + 1) % 65536) } }
    subLink q (linkSend (messageFrames id mtype body)) s1

/-- Sends a message for a quadrant. -/
def headSend (q mtype : Nat) (body : Bytes) (s : State) : State := headSendOn (subFor q s) mtype body s

/-- The answer to a command the peer forwarded (Table 13-3). -/
def forwardDone (id : Nat) (status : Status) (result : Bytes) (s : State) : State :=
  headSend 0 0x0021 (packFields [(8, id), (2, status.toNat), (6, 0)] ++ padTo 16 result) s

end Sys2Proof.Machine
end

