-- ==== Sys2Proof/Machine/Params.lean ====
section
/-! DEFINITION. The parameters of every chapter (R489): their IDs, scopes, ranges, defaults, encodings (R490) and the
functions that must be quiesced for a change. -/

namespace Sys2Proof.Machine

/-- Scope of a parameter, which says what INDEX selects (R489). -/
inductive ParamScope where
  | head | array | quadrant | harrow | port | logicalPort | complex
  | nsOrObjdom | objdom | domain
  deriving DecidableEq, Repr

/-- The form and range of a value (Table 20-10). -/
inductive ParamKind where
  /-- 8 bytes unsigned, within bounds -/
  | num (lo hi : Nat)
  /-- 8 bytes unsigned, a power of two within bounds -/
  | pow2 (lo hi : Nat)
  /-- 8 bytes unsigned: 0, or a multiple of 4 from 4 to `hi` -/
  | zoneKiB (hi : Nat)
  /-- `count` bytes, each at most `hi` -/
  | entries (count hi : Nat)
  /-- an address of `bytes` bytes and a prefix length of at most `bits`; VLEN 0 for none -/
  | address (bytes bits : Nat)
  /-- ETS_CONFIG: eight bytes, bit 7 strict, [6:0] weight in % -/
  | ets
  /-- a string of at most `max` bytes -/
  | text (max : Nat)
  /-- GRANARY_CARVE: 24 counts of 4 bytes -/
  | carve
  /-- set by no parameter command (R491 step 1) -/
  | fixed
  deriving DecidableEq, Repr

/-- A parameter. -/
structure ParamDef where
  id : Nat
  scope : ParamScope
  kind : ParamKind
  dflt : Bytes
  /-- functions of Table 20-11 that must all be quiesced; an entry of 0x20 stands for the instance's complex -/
  quiesce : List Nat
  deriving DecidableEq, Repr

/-- A head-scope number. -/
def pNum (id lo hi dflt : Nat) (quiesce : List Nat := []) (scope : ParamScope := .head) : ParamDef :=
  { id := id, scope := scope, kind := .num lo hi, dflt := leBytes 8 dflt, quiesce := quiesce }

/-- Parameters of ingest and read (Tables 3-2, 4-3). -/
def paramsData : List ParamDef :=
  [ { id := 0x0300, scope := .domain, kind := .fixed, dflt := [], quiesce := [] },
    pNum 0x0301 0 9 3 [] .domain,
    { id := 0x0302, scope := .domain, kind := .fixed, dflt := [], quiesce := [] },
    pNum 0x0303 0 3 0 [] .domain,
    pNum 0x0304 0 1 0 [] .nsOrObjdom,
    pNum 0x0305 0 1024 256 [0x04] .harrow,
    pNum 0x0306 1 100 5 [0x04],
    pNum 0x0307 20 1000 100 [0x04],
    pNum 0x0308 50 95 90 [0x04],
    pNum 0x0400 0 1 1 [] .nsOrObjdom,
    { id := 0x0401, scope := .head, kind := .pow2 64 16384, dflt := leBytes 8 4096, quiesce := [] },
    pNum 0x0402 1 100 10,
    pNum 0x0403 0 1 0 [] .domain ]

/-- Parameters of tines, Winnow and cipher (Tables 5-10, 6-7, 8-13). -/
def paramsEngines : List ParamDef :=
  [ pNum 0x0500 0 2 2 [] .quadrant,
    pNum 0x0501 1 16 2,
    pNum 0x0502 100 100000 1000,
    pNum 0x0503 0 0xFFFFFFFF 0,
    pNum 0x0504 1 100 10,
    pNum 0x0600 0 100 75,
    pNum 0x0601 100 60000 1000,
    pNum 0x0800 1 8 4 [0x20] .complex ]

/-- Parameters of media and Furrow (Tables 9-1, 9-10, 10-11). -/
def paramsMedia : List ParamDef :=
  [ pNum 0x0900 4 20 16 [0x04, 0x05],
    pNum 0x0901 1 4 3 [0x04, 0x05],
    pNum 0x0902 4 8 4 [0x04, 0x05],
    pNum 0x0903 1 4 3 [0x04, 0x05],
    pNum 0x0904 3 50 10,
    pNum 0x0905 2 50 5,
    pNum 0x0906 1 10 1 [0x05],
    pNum 0x0907 1 50 20,
    pNum 0x0908 50 100 80,
    pNum 0x0909 100 150 100,
    pNum 0x090A 1 90 14,
    pNum 0x090B 20 90 50,
    pNum 0x090C 30 365 180,
    pNum 0x0A00 10 500 50 [0x31],
    pNum 0x0A01 5 100 20,
    pNum 0x0A02 10 200 60,
    pNum 0x0A03 1 100 10 ]

/-- Parameters of replication, export, Headland and fail-over (Tables 12-8, 13-11). -/
def paramsHeads : List ParamDef :=
  [ pNum 0x0C00 5 600 30,
    pNum 0x0C01 1 64 16 [0x06],
    pNum 0x0C02 0 400 0,
    pNum 0x0C03 0 150 0,
    pNum 0x0C04 1 3600 60,
    pNum 0x0D00 10 1000 50 [0x31],
    pNum 0x0D01 0 3 2,
    pNum 0x0D02 1 100 5,
    pNum 0x0D03 5 100 10 [0x31],
    pNum 0x0D04 500 60000 2000,
    pNum 0x0D05 0 1 0 [0x31],
    pNum 0x0D06 10 3600 60,
    pNum 0x0D07 0 1 1 ]

/-- Front-port parameters of ports and logical ports, and the priority maps (Table 14-11). -/
def paramsPorts : List ParamDef :=
  [ pNum 0x0E00 0 3 1 [0x01] .port,
    pNum 0x0E01 0 2 0 [0x01] .port,
    pNum 0x0E02 1500 9216 9216 [0x01] .logicalPort,
    pNum 0x0E03 0 4094 0 [0x01] .logicalPort,
    { id := 0x0E04, scope := .logicalPort, kind := .address 4 32, dflt := [], quiesce := [0x01] },
    { id := 0x0E05, scope := .logicalPort, kind := .address 16 128, dflt := [], quiesce := [0x01] },
    { id := 0x0E06, scope := .logicalPort, kind := .address 16 128, dflt := [], quiesce := [0x01] },
    { id := 0x0E07, scope := .logicalPort, kind := .address 4 32, dflt := [], quiesce := [0x01] },
    pNum 0x0E08 0 1 1 [0x01] .logicalPort,
    { id := 0x0E09, scope := .head, kind := .entries 64 7, quiesce := [0x01],
      dflt := (List.range 64).map (fun i => BitVec.ofNat 8 (i / 8)) },
    { id := 0x0E0A, scope := .head, kind := .entries 8 63, quiesce := [0x01],
      dflt := (List.range 8).map (fun i => BitVec.ofNat 8 (8 * i)) },
    pNum 0x0E0B 0 7 3 [0x01],
    pNum 0x0E0C 0 7 3 [0x01],
    pNum 0x0E0D 0 7 2 [0x01],
    pNum 0x0E0E 0 7 6 [0x01],
    pNum 0x0E0F 0 7 7 [0x01],
    pNum 0x0E10 0 255 0x0C [0x01] .logicalPort,
    { id := 0x0E11, scope := .logicalPort, kind := .ets, quiesce := [0x01],
      dflt := [10, 0, 20, 70, 0, 0, 0x80, 0x80] } ]

/-- The other front-port parameters (Table 14-11). -/
def paramsTransport : List ParamDef :=
  [ pNum 0x0E12 10 10000 100,
    pNum 0x0E13 1 1000000 1000,
    pNum 0x0E14 1 65535 4420 [0x01],
    pNum 0x0E15 1 65535 9137 [0x01],
    pNum 0x0E16 1 65535 9138 [0x01],
    pNum 0x0E17 1 65535 9139 [0x01],
    pNum 0x0E18 8 20 12,
    pNum 0x0E19 1 7 7,
    pNum 0x0E1A 0 6 6,
    pNum 0x0E1B 0x01 0x1F 0x0C,
    pNum 0x0E1C 1 64 16,
    pNum 0x0E1D 1 60 10,
    pNum 0x0E1E 1 1000 10,
    pNum 0x0E1F 2 500 10,
    pNum 0x0E20 16 255 128,
    pNum 0x0E21 10 10000 1000,
    pNum 0x0E22 100 10000 100,
    pNum 0x0E23 1 64 16,
    pNum 0x0E24 0 1 1,
    pNum 0x0E25 8 128 32,
    pNum 0x0E26 1 1000 50 ]

/-- Parameters of NVMe, Sheaf, memory, Granary, DMA, MCI, the Almanac and thermal policy (Tables 15-9, 16-9, 17-10, 18-7,
19-11, 20-9, 22-4, 25-10). NS_PARTITION and GRANARY_CARVE take their quiesce condition from Table 17-3. -/
def paramsRest : List ParamDef :=
  [ { id := 0x0F00, scope := .array, kind := .text 223, dflt := [], quiesce := [0x02] },
    pNum 0x0F01 1 4096 4096 [0x02],
    pNum 0x0F02 1 1024 128 [0x02],
    pNum 0x0F03 0 255 0 [] .array,
    pNum 0x0F04 70 110 95,
    pNum 0x0F05 70 110 105,
    pNum 0x1000 1 64 16 [0x03],
    { id := 0x1001, scope := .head, kind := .zoneKiB 16384, dflt := leBytes 8 4096, quiesce := [0x03] },
    pNum 0x1002 1 3600 60,
    pNum 0x1003 0 1 0 [0x03] .objdom,
    pNum 0x1004 1 73000 36500 [] .objdom,
    { id := 0x1100, scope := .head, kind := .entries 5 96, dflt := [24, 24, 24, 8, 16], quiesce := [] },
    pNum 0x1101 4 256 16 [0x04],
    pNum 0x1102 0 1 1 [0x30],
    pNum 0x1103 0 100 50,
    pNum 0x1104 10 1440 60,
    pNum 0x1105 1 168 24,
    pNum 0x1200 1 25 5,
    { id := 0x1201, scope := .head, kind := .carve, dflt := [], quiesce := [] },
    pNum 0x1300 1 32 4 [0x44],
    pNum 0x1301 0 4096 256,
    pNum 0x1400 0 10 6,
    pNum 0x1401 0 1 0,
    pNum 0x1402 1 3600 10,
    pNum 0x1403 1 600 60,
    pNum 0x1600 100 10000 1000,
    pNum 0x1900 80 105 100,
    pNum 0x1901 2 15 5,
    pNum 0x1902 0 1 1 ]

/-- Every parameter. -/
def paramTable : List ParamDef :=
  paramsData ++ paramsEngines ++ paramsMedia ++ paramsHeads ++ paramsPorts ++ paramsTransport ++ paramsRest

/-- The parameter of an ID. -/
def paramDef (id : Nat) : Option ParamDef := paramTable.find? (fun d => d.id == id)

/-- The number of instances of a scope (R489, Table 1-2). -/
def scopeCount : ParamScope → Nat
  | .head => 1 | .array => 1 | .quadrant => 4 | .harrow => 32 | .port => 8 | .logicalPort => 32 | .complex => 4
  | .nsOrObjdom => 0 | .objdom => 0 | .domain => 0

/-- Whether SET_PARAM reaches a scope; the others belong to SCOPE_PARAM_SET (R489). -/
def scopeByIndex (sc : ParamScope) : Bool := decide (0 < scopeCount sc)

/-- Whether encoded bytes are a value within the range of a kind: VLEN and range of R491 step 1. -/
def kindAccepts (k : ParamKind) (v : Bytes) : Bool :=
  let n := leNat v
  match k with
  | .num lo hi => v.length == 8 && decide (lo ≤ n) && decide (n ≤ hi)
  | .pow2 lo hi => v.length == 8 && decide (lo ≤ n) && decide (n ≤ hi) && decide (2 ^ n.log2 = n)
  | .zoneKiB hi => v.length == 8 && (n == 0 || (decide (4 ≤ n) && decide (n ≤ hi) && n % 4 == 0))
  | .entries count hi => v.length == count && v.all (fun b => decide (b.toNat ≤ hi))
  | .address bytes bits => v.isEmpty || (v.length == bytes + 1 && decide ((v.getD bytes 0).toNat ≤ bits))
  | .ets => v.length == 8 &&
      ((v.filter (fun b => decide (b.toNat < 128))).map (·.toNat)).sum == 100
  | .text max => decide (0 < v.length) && decide (v.length ≤ max)
  | .carve => v.length == 96
  | .fixed => false

end Sys2Proof.Machine
end

