-- ==== Sys2Proof/Machine/Basics.lean ====
section
/-! DEFINITION. Time, free values, parameters in effect, and what is lost on media: what every part of the head reads. -/

namespace Sys2Proof.Machine

/-! ## Time (R45-R51) -/

/-- Ticks of a duration in µs: ⌈D / 40 ns⌉ (R47). -/
def usTicks (us : Nat) : Nat := 25 * us

/-- Ticks of a duration in ms. -/
def msTicks (ms : Nat) : Nat := 25000 * ms

/-- Ticks of a duration in s. -/
def sTicks (sec : Nat) : Nat := 25000000 * sec

/-- OP_TIME now: operating hours in units of 1/4096 h, saturated at 0xFFFF_FFFF hours (R49). One unit is
90,000,000,000 / 4,096 ticks. -/
def opTime (s : State) : Nat :=
  min (s.time.opBase + (s.time.ticks - s.time.resetTick) * 4096 / 90000000000) (0xFFFFFFFF * 4096)

/-- Whole operating hours now (R49). -/
def opHours (s : State) : Nat := opTime s / 4096

/-- With no command waiting one tick of the time base passes (R45; DESIGN CHOICE, log 34). -/
def idleTick (s : State) : State := { s with time := { s.time with ticks := s.time.ticks + 1 } }

/-- A region of the boot flash has been written: 0 LOADER, 1 IMAGE, 2 EARLY_RING, 3 LEDGER (R26). -/
def flashWritten (region : Nat) (s : State) : State :=
  { s with flash := { s.flash with lastWrite := s.flash.lastWrite.set region (opTime s) } }

/-- Array time now in µs, running up to 1,000 ppm fast while it slews, saturated (R51, R53). -/
def arrayTime (s : State) : Nat :=
  if s.time.arraySet then
    let us := (s.time.ticks - s.time.arrayTick) / 25
    let fast := if s.time.slewing then us * min Config.slewPpm 1000 / 1000000 else 0
    min (s.time.arrayBase + us + fast) (2 ^ 64 - 1)
  else 0

/-! ## Free values (R57, R443 and others) -/

/-- Draws `n` bytes from the head's generator. -/
def draw (n : Nat) (s : State) : Bytes × State :=
  ((List.range n).map (fun i => Config.generator (s.genCount + i)), { s with genCount := s.genCount + n })

/-- `n` undefined bytes. -/
def undefBytes (n : Nat) (s : State) : Bytes × State :=
  ((List.range n).map (fun i => Config.freeByte (s.freeCount + i)), { s with freeCount := s.freeCount + n })

/-- One undefined number. -/
def undefNat (s : State) : Nat × State := (Config.freeNat s.freeCount, { s with freeCount := s.freeCount + 1 })

/-! ## Parameters in effect (R489) -/

/-- The encoded value in effect of a parameter instance: the value set, or the default. -/
def paramBytes (id index : Nat) (s : State) : Bytes :=
  match s.mci.params.find? (fun v => v.id == id && v.index == index) with
  | some v => v.value
  | none => ((paramDef id).map (·.dflt)).getD []

/-- The number in effect of a parameter instance. -/
def paramNat (id index : Nat) (s : State) : Nat := leNat (paramBytes id index s)

/-! ## Lost blocks (R226) -/

/-- Whether a block is lost: its bridge LOST, or its die FAILED (R226). -/
def blockLost (s : State) (x : Nat × Nat × Nat) : Bool :=
  match s.media.bridges[x.1]? with
  | none => false
  | some b => b.state == 4 || ((b.dies[x.2.1]?).map (·.state)) == some 3

/-- Lost blocks of an acre. -/
def lostBlocks (a : Acre) (s : State) : Nat := (a.blocks.filter (blockLost s)).length

/-- DEGRADED_BALES: committed bales with a lost plot (R226). -/
def degradedBales (s : State) : Nat := ((s.media.acres.filter (fun a => decide (0 < lostBlocks a s))).map (·.committed)).sum

/-- CRITICAL_BALES: committed bales with as many lost plots as they have parity plots, or more (Table 9-7). -/
def criticalBales (s : State) : Nat := ((s.media.acres.filter (fun a => decide (a.m ≤ lostBlocks a s))).map (·.committed)).sum

end Sys2Proof.Machine
end

