-- ==== Sys2Proof/Machine/NetBytes.lean ====
section
/-! DEFINITION. The bytes of the frames that the front ports send (R8, R333-R335, R339, R344, R361): Ethernet, IP, UDP, the InfiniBand
transport and management headers in the byte order of their standards. Header fields that the spec does not name have the values those
standards give them (PRESUMED 174). -/

namespace Sys2Proof.Machine

/-! ## Checks -/

/-- One byte through the register of the Ethernet CRC (polynomial 0x04C1_1DB7 reflected). -/
def crc32Byte (c : BitVec 32) (b : Byte) : BitVec 32 :=
  (List.range 8).foldl (fun x _ => if x.getLsbD 0 then (x >>> 1) ^^^ 0xEDB88320#32 else x >>> 1) (c ^^^ b.setWidth 32)

/-- The Ethernet CRC of a byte string, that of the frame check sequence and of the ICRC. -/
def crc32 (bs : Bytes) : Nat := (~~~ (bs.foldl crc32Byte 0xFFFFFFFF#32)).toNat

/-- The Internet checksum of a byte string. -/
def netChecksum (b : Bytes) : Nat :=
  let t := ((List.range ((b.length + 1) / 2)).map (fun i => beNat (padTo 2 (slice b (2 * i) 2)))).sum
  let fold := fun (x : Nat) => x % 65536 + x / 65536
  65535 - fold (fold t)

/-! ## Addresses -/

/-- MAC_BASE: a multiple of 32 (R333). -/
def macBase : Nat := 32 * (Config.macBase % 2 ^ 43)

/-- The MAC address of a logical port (R333). -/
def portMac (l : Nat) : Nat := macBase + l

/-- The broadcast MAC address. -/
def macBroadcast : Nat := 2 ^ 48 - 1

/-- The MAC address of an IPv6 multicast address. -/
def macOfGroup (a : Nat) : Nat := 0x3333 * 2 ^ 32 + a % 2 ^ 32

/-- The solicited-node multicast address of an IPv6 address. -/
def solicitedNode (a : Nat) : Nat := 0xFF02 * 2 ^ 112 + 0x1FF * 2 ^ 24 + a % 2 ^ 24

/-- The all-nodes multicast address. -/
def allNodes : Nat := 0xFF02 * 2 ^ 112 + 1

/-- Whether an address is an IPv4 one, in IPv4-mapped form. -/
def isIpv4 (a : Nat) : Bool := a / 2 ^ 32 == 0xFFFF

/-! ## Headers -/

/-- An IPv4 header without options. -/
def ipv4Header (dscp ecn ttl proto len src dst : Nat) : Bytes :=
  let h := fun (sum : Nat) => beBytes 1 0x45 ++ beBytes 1 (dscp * 4 + ecn) ++ beBytes 2 (20 + len) ++ beBytes 2 0 ++ beBytes 2 0x4000
    ++ beBytes 1 ttl ++ beBytes 1 proto ++ beBytes 2 sum ++ beBytes 4 src ++ beBytes 4 dst
  h (netChecksum (h 0))

/-- An IPv6 header. -/
def ipv6Header (dscp ecn hops next len src dst : Nat) : Bytes :=
  beBytes 4 (6 * 2 ^ 28 + (dscp * 4 + ecn) * 2 ^ 20) ++ beBytes 2 len ++ beBytes 1 next ++ beBytes 1 hops ++ beBytes 16 src ++ beBytes 16 dst

/-- The IP header between two addresses. -/
def ipHeader (dscp ecn hops proto len src dst : Nat) : Bytes :=
  if isIpv4 dst then ipv4Header dscp ecn hops proto len src dst else ipv6Header dscp ecn hops proto len src dst

/-- An IP header as the ICRC takes it, the fields that change on the way all ones. -/
def ipMasked (v4 : Bool) (h : Bytes) : Bytes :=
  if v4 then overlay (overlay h 1 [0xFF]) 8 ([0xFF] ++ slice h 9 1 ++ [0xFF, 0xFF])
  else overlay (overlay h 0 [0x6F, 0xFF, 0xFF, 0xFF]) 7 [0xFF]

/-- A BTH: opcode, pad count, backward congestion mark, destination QPN, AckReq, PSN; the default partition. -/
def bthBytes (opcode pad : Nat) (becn : Bool) (qpn : Nat) (ackReq : Bool) (psn : Nat) : Bytes :=
  beBytes 1 opcode ++ beBytes 1 (0x40 + 16 * pad) ++ beBytes 2 0xFFFF ++ beBytes 1 (0x40 * flagBit becn) ++ beBytes 3 qpn
    ++ beBytes 1 (0x80 * flagBit ackReq) ++ beBytes 3 psn

/-- What IP carries of a RoCE v2 packet (R339): UDP to port 4791, BTH, extension headers, payload in whole words, ICRC. Together with the
IP header. -/
def rocePacket (dscp ecn udp opcode qpn psn : Nat) (ackReq : Bool) (ext payload : Bytes) (src dst : Nat) : Bytes :=
  let pad := (4 - payload.length % 4) % 4
  let bth := bthBytes opcode pad (opcode == 0x81) qpn ackReq psn
  let body := ext ++ payload ++ zeros pad
  let len := 8 + 12 + body.length + 4
  let ip := ipHeader dscp ecn 64 17 len src dst
  let ports := beBytes 2 udp ++ beBytes 2 4791 ++ beBytes 2 len
  let icrc := crc32 (List.replicate 8 0xFF ++ ipMasked (isIpv4 dst) ip ++ ports ++ [0xFF, 0xFF] ++ overlay bth 4 [0xFF] ++ body)
  ip ++ ports ++ [0, 0] ++ bth ++ body ++ leBytes 4 icrc

/-- An ICMP message with its checksum: over itself, and in IPv6 over the pseudo header too. -/
def icmpBytes (type : Nat) (rest : Bytes) (src dst : Nat) : Bytes :=
  let m := fun (sum : Nat) => beBytes 1 type ++ [0] ++ beBytes 2 sum ++ rest
  let pseudo := if isIpv4 dst then [] else beBytes 16 src ++ beBytes 16 dst ++ beBytes 4 (4 + rest.length) ++ beBytes 4 58
  m (netChecksum (pseudo ++ m 0))

/-- An ARP packet: operation, sender's and target's addresses. -/
def arpBytes (op mac src toMac dst : Nat) : Bytes :=
  beBytes 2 1 ++ beBytes 2 0x0800 ++ [6, 4] ++ beBytes 2 op ++ beBytes 6 mac ++ beBytes 4 src ++ beBytes 6 toMac ++ beBytes 4 dst

/-! ## Connection management (R344, R345) -/

/-- The code of a path MTU. -/
def mtuCode (m : Nat) : Nat := if m < 512 then 1 else if m < 1024 then 2 else if m < 2048 then 3 else if m < 4096 then 4 else 5

/-- A CM message: the MAD of an attribute, its transaction, its 232 bytes. -/
def madBytes (attr tid : Nat) (body : Bytes) : Bytes :=
  [1, 7, 2, 3] ++ zeros 4 ++ beBytes 8 tid ++ beBytes 2 attr ++ zeros 6 ++ padTo 232 body

/-- The private data of a REQ in the RDMA CM form: the addresses, and the service's own data behind them. -/
def rdmaCmPrivate (src dst : Nat) (priv : Bytes) : Bytes :=
  let v4 := isIpv4 dst
  let a := fun (x : Nat) => if v4 then zeros 12 ++ beBytes 4 x else beBytes 16 x
  padTo 92 ([0, if v4 then 0x40 else 0x60] ++ zeros 2 ++ a src ++ a dst ++ priv)

/-- The bytes of a CM message; none of a frame of another kind. `retry` is RETRY_COUNT. -/
def cmBytes (f : PortFrame) (retry src dst : Nat) : Option Bytes :=
  let t := Config.cmTimeout % 32
  match f with
  | .cmReq service id qpn psn resources depth rnr ack mtu priv =>
    some (madBytes 0x10 id (beBytes 4 id ++ zeros 4 ++ beBytes 8 service ++ beBytes 8 Config.caGuid ++ zeros 8 ++ beBytes 3 qpn
      ++ beBytes 1 resources ++ zeros 3 ++ beBytes 1 depth ++ zeros 3 ++ beBytes 1 (8 * t) ++ beBytes 3 psn ++ beBytes 1 (8 * t + retry)
      ++ beBytes 2 0xFFFF ++ beBytes 1 (16 * mtuCode mtu + rnr) ++ beBytes 1 0xF0 ++ zeros 4 ++ beBytes 16 src ++ beBytes 16 dst
      ++ zeros 5 ++ beBytes 1 64 ++ beBytes 1 8 ++ beBytes 1 (8 * ack) ++ zeros 44 ++ rdmaCmPrivate src dst priv))
  | .cmRep id remote qpn psn resources depth rnr _ priv =>
    some (madBytes 0x13 remote (beBytes 4 id ++ beBytes 4 remote ++ zeros 4 ++ beBytes 3 qpn ++ zeros 5 ++ beBytes 3 psn ++ [0]
      ++ beBytes 1 resources ++ beBytes 1 depth ++ beBytes 1 (8 * t) ++ beBytes 1 (32 * rnr) ++ beBytes 8 Config.caGuid ++ priv))
  | .cmRej remote reason priv => some (madBytes 0x12 remote (zeros 4 ++ beBytes 4 remote ++ zeros 2 ++ beBytes 2 reason ++ zeros 72 ++ priv))
  | .cmRtu id remote => some (madBytes 0x14 remote (beBytes 4 id ++ beBytes 4 remote))
  | .cmDreq id remote qpn => some (madBytes 0x15 id (beBytes 4 id ++ beBytes 4 remote ++ beBytes 3 qpn))
  | .cmDrep id remote => some (madBytes 0x16 remote (beBytes 4 id ++ beBytes 4 remote))
  | _ => none

/-! ## Frames -/

/-- EtherType of what goes to an address. -/
def etherType (dst : Nat) : Nat := if isIpv4 dst then 0x0800 else 0x86DD

/-- A neighbour discovery message about a target: a solicitation, or an answer. -/
def neighbourBytes (answer : Bool) (target mac src dst : Nat) : Bytes :=
  let option' := if src = 0 then [] else [if answer then 2 else 1, 1] ++ beBytes 6 mac
  let m := icmpBytes (if answer then 136 else 135) (beBytes 4 (if answer then 0x60000000 else 0) ++ beBytes 16 target ++ option') src dst
  ipv6Header 0 0 255 58 m.length src dst ++ m

/-- Destination MAC address, EtherType and content of a frame of logical port `l` from `src` to `dst`, whose next hop has the MAC address
`mac`. -/
def frameContent (l mac dscp retry src dst : Nat) (f : PortFrame) : Nat × Nat × Bytes :=
  match f with
  | .roce udp ecn opcode qpn psn ackReq ext payload =>
    (mac, etherType dst, rocePacket dscp ecn udp opcode qpn psn ackReq ext payload src dst)
  | .echo _ payload =>
    let m := icmpBytes (if isIpv4 dst then 0 else 129) payload src dst
    (mac, etherType dst, ipHeader dscp 0 64 (if isIpv4 dst then 1 else 58) m.length src dst ++ m)
  | .resolution answer address target to' =>
    if isIpv4 address then
      if answer then (to', 0x0806, arpBytes 2 (portMac l) address to' target)
      else (macBroadcast, 0x0806, arpBytes 1 (portMac l) src 0 address)
    else if answer then (to', 0x86DD, neighbourBytes true address (portMac l) address target)
    else (macOfGroup (solicitedNode address), 0x86DD, neighbourBytes false address (portMac l) src (solicitedNode address))
  | .probe address =>
    if isIpv4 address then (macBroadcast, 0x0806, arpBytes 1 (portMac l) 0 0 address)
    else (macOfGroup (solicitedNode address), 0x86DD, neighbourBytes false address (portMac l) 0 (solicitedNode address))
  | .pfc priority quanta =>
    (0x0180C2000001, 0x8808, beBytes 2 0x0101 ++ beBytes 2 (2 ^ priority)
      ++ (List.range 8).flatMap (fun p => beBytes 2 (if p = priority then quanta else 0)))
  | cm =>
    (mac, etherType dst, rocePacket dscp 0 (0xC000 + crc32c (beBytes 3 1 ++ beBytes 3 1) % 16384) 0x64 1 0 false (beBytes 4 0x80010000 ++ beBytes 4 1) ((cmBytes cm retry src dst).getD []) src dst)

/-- A whole Ethernet frame of a logical port: addresses, the port's VLAN tag with the priority in its PCP (R335) but on a PFC frame, type,
content, and the frame check sequence. -/
def etherFrame (l prio vlan mac type : Nat) (content : Bytes) : Bytes :=
  let tag := if vlan = 0 ∨ type = 0x8808 then [] else beBytes 2 0x8100 ++ beBytes 2 (prio * 2 ^ 13 + vlan)
  let f := beBytes 6 mac ++ beBytes 6 (portMac l) ++ tag ++ beBytes 2 type ++ content
  let whole := if f.length < 60 then padTo 60 f else f
  whole ++ leBytes 4 (crc32 whole)

end Sys2Proof.Machine
end

