-- ==== Sys2Proof/Machine/Send.lean ====
section
/-! DEFINITION. What leaves the front ports: logical ports, priorities and pause, next hops, contexts and their cache, and sending on
a queue pair (R331-R342, R346-R349, R359). -/

namespace Sys2Proof.Machine

/-! ## Logical ports (R331-R334) -/

/-- Changes the ports part. -/
def modifyPorts (f : PortsPart → PortsPart) (s : State) : State := { s with ports := f s.ports }

/-- A logical port. -/
def lportAt (l : Nat) (s : State) : LogicalPort := s.ports.lports.getD l resetLogicalPort

/-- Changes a logical port. -/
def modifyLport (l : Nat) (f : LogicalPort → LogicalPort) (s : State) : State :=
  modifyPorts (fun p => { p with lports := modifyNth f l p.lports }) s

/-- Counts at a logical port. -/
def countPort (l : Nat) (f : PortCounters → PortCounters) (s : State) : State :=
  modifyLport l (fun p => { p with counters := f p.counters }) s

/-- PORT_MODE of the front port of a logical port. -/
def portMode (l : Nat) (s : State) : Nat := paramNat 0x0E00 (l / 4) s

/-- Whether a front port's mode has a sub-port for this logical port (Table 14-1). -/
def lportUsed (l : Nat) (s : State) : Bool :=
  decide (l < 32) && decide (l % 4 < (match portMode l s with | 1 => 1 | 2 => 2 | 3 => 4 | _ => 0))

/-- Rate of a logical port in Mbit/s (Table 14-1). -/
def portRate (l : Nat) (s : State) : Nat :=
  match portMode l s with
  | 1 => 400000 | 2 => 200000 | 3 => 100000 | _ => 0

/-- Whether a logical port is UP. -/
def portUp (l : Nat) (s : State) : Bool := lportUsed l s && (lportAt l s).link == 2

/-- The quadrant of a logical port. -/
def portQuadrant (l : Nat) : Nat := l / 8

/-- An address of 4 bytes in IPv4-mapped form, or one of 16 bytes (R333). -/
def addressNat (b : Bytes) : Nat := if b.length = 4 then 0xFFFF * 2 ^ 32 + beNat b else beNat b

/-- An address parameter of a logical port: address and length of its network prefix in bits of the 128-bit form; none where it is
not set. -/
def addressParam (id l : Nat) (s : State) : Option (Nat × Nat) :=
  let b := paramBytes id l s
  if b.length = 5 then some (addressNat (b.take 4), 96 + leNat (b.drop 4))
  else if b.length = 17 then some (addressNat (b.take 16), leNat (b.drop 16)) else none

/-- The addresses a logical port uses, by index: those set and not found in use elsewhere (R333, R334). -/
def ownAddresses (l : Nat) (s : State) : List (Nat × Nat × Nat) :=
  [0, 1, 2].filterMap (fun i =>
    if (lportAt l s).conflicts.contains i then none else (addressParam (0x0E04 + i) l s).map (fun a => (i, a)))

/-- Whether an address is one a logical port uses. -/
def isOwnAddress (l addr : Nat) (s : State) : Bool := (ownAddresses l s).any (fun a => a.2.1 == addr)

/-- The address of a GID index of a logical port (R333). -/
def gidAddress (l gid : Nat) (s : State) : Nat := ((addressParam (0x0E04 + gid) l s).map (·.1)).getD 0

/-- The path of a queue pair: from the address of its GID index to the remote address. -/
def qpPath (c : QpCtx) (s : State) : Option (Nat × Nat) := some (gidAddress c.lport c.gid s, c.remoteAddr)

/-- The next hop towards an address: itself within a network of the port, else the default gateway (R333). -/
def nextHop (l dest : Nat) (s : State) : Nat :=
  let near := (ownAddresses l s).any (fun a => a.2.1 / 2 ^ (128 - a.2.2) == dest / 2 ^ (128 - a.2.2))
  let gateway := (addressParam 0x0E07 l s).filter (fun g => isIpv4 g.1 == isIpv4 dest)
  if near then dest else (gateway.map (·.1)).getD dest

/-! ## Priorities, PFC (R335-R337) -/

/-- The priority a received frame is classified to (R335). -/
def rxPriority (h : RoceHead) (s : State) : Nat :=
  if paramNat 0x0E08 h.lport s = 0 then ((h.vlan.map (·.2)).getD 0) % 8
  else ((paramBytes 0x0E09 0 s).getD (h.dscp % 64) 0).toNat

/-- Whether a priority of a logical port is lossless. -/
def isLossless (l prio : Nat) (s : State) : Bool := bitOf (paramNat 0x0E10 l s) prio

/-- A priority's share of the receive buffer, in bytes: how the 4 MiB is carved is left to the part (R336; a free value). -/
def rxShare (l prio : Nat) (s : State) : Nat := Config.rxShare (portMode l s) (l % 4) prio

/-- PFC_XOFF of a priority: its share less its headroom (R336). -/
def pfcXoff (l prio : Nat) (s : State) : Nat := rxShare l prio s - 262144 * portRate l s / 400000

/-- PFC_XON of a priority. -/
def pfcXon (l prio : Nat) (s : State) : Nat := pfcXoff l prio s - 65536

/-- The bytes of a frame of a logical port at a priority, from its own address to a destination by the MAC address of its next hop. -/
def frameOf (l prio mac src dst : Nat) (f : PortFrame) (s : State) : Bytes :=
  let c := frameContent l mac ((paramBytes 0x0E0A 0 s).getD prio 0).toNat (paramNat 0x0E19 0 s) src dst f
  etherFrame l prio (paramNat 0x0E03 l s) c.1 c.2.1 c.2.2

/-- Puts a frame on the wire of a logical port; its bytes count, to the frame check sequence (DESIGN CHOICE 16). -/
def putFrame (l prio mac src dst : Nat) (f : PortFrame) (s : State) : State :=
  let b := frameOf l prio mac src dst f s
  emit (.port l prio f b) (countPort l (fun c => { c with txBytes := bump c.txBytes b.length }) s)

/-- Sends a PFC frame for a priority: XOFF with quanta 0xFFFF, XON with quanta 0 (R336). It belongs to no priority itself. -/
def sendPfc (l prio quanta : Nat) (s : State) : State :=
  putFrame l prio 0 0 0 (.pfc prio quanta) (countPort l (fun c => { c with pfcTx := bumpAt c.pfcTx prio }) s)

/-- Notes the occupancy of a lossless priority: XOFF as it reaches PFC_XOFF, XON as it falls below PFC_XON (R336). -/
def noteOccupancy (l prio occupancy : Nat) (s : State) : State :=
  let on := (lportAt l s).xoff.any (fun x => x.1 == prio)
  if isLossless l prio s = false then s
  else if on = false ∧ pfcXoff l prio s ≤ occupancy then
    sendPfc l prio 0xFFFF (modifyLport l (fun p => { p with xoff := p.xoff ++ [(prio, s.time.ticks)] }) s)
  else if on = true ∧ occupancy < pfcXon l prio s then
    sendPfc l prio 0 (modifyLport l (fun p => { p with xoff := p.xoff.filter (fun x => x.1 != prio) }) s)
  else s

/-! ## Transmission (R334, R335, R337) -/

/-- The MAC address to which a next hop is resolved. -/
def hopMac (l hop : Nat) (s : State) : Option Nat := (s.ports.neighbours.find? (fun n => n.lport == l && n.address == hop)).map (·.mac)

/-- Whether a frame may leave: its priority is not paused, and its next hop is resolved. -/
def mayLeave (h : HeldFrame) (s : State) : Bool :=
  !(lportAt h.lport s).paused.any (fun x => x.1 == h.priority)
    && (match h.hop with
        | none => true
        | some a => (hopMac h.lport a s).isSome)

/-- Puts a frame that may leave on the wire. -/
def putHeld (h : HeldFrame) (s : State) : State :=
  let mac := (h.hop.bind (fun a => hopMac h.lport a s)).getD 0
  putFrame h.lport h.priority mac (h.path.getD (0, 0)).1 (h.path.getD (0, 0)).2 h.frame s

/-- Sends what waits and may leave, each priority and next hop in order. -/
def pumpHeld : Nat → List HeldFrame → State → State
  | 0, _, s => s
  | _, [], s => s
  | fuel + 1, h :: rest, s =>
    let drop := fun (p : PortsPart) => { p with held := p.held.erase h }
    let s1 := if mayLeave h s then putHeld h (modifyPorts drop s) else s
    pumpHeld fuel rest s1

/-- Sends every held frame that may leave. -/
def pumpAll (s : State) : State := pumpHeld s.ports.held.length s.ports.held s

/-- Sends a frame from a logical port at a priority, by a path from its own address to another. It waits while the priority is paused, and
until its next hop is resolved; a port that is not UP sends nothing, and in DUMP no port does (R334, R337, R346). -/
def transmit (l prio : Nat) (path : Option (Nat × Nat)) (f : PortFrame) (s : State) : State :=
  if portUp l s = false ∨ s.boot.mode = .dump then s
  else
    let hop := path.map (fun d => nextHop l d.2 s)
    let h : HeldFrame := { lport := l, priority := prio, path := path, hop := hop, frame := f }
    let behind := s.ports.held.any (fun x => x.lport == l && x.priority == prio && x.hop == hop)
    if behind = false ∧ mayLeave h s = true then putHeld h s
    else
      let ask := hop.isSome && (hopMac l (hop.getD 0) s).isNone && !(s.ports.held.any (fun x => x.lport == l && x.hop == hop))
      let s1 := modifyPorts (fun p => { p with held := p.held ++ [h] }) s
      if ask then putFrame l (paramNat 0x0E0F 0 s) 0 (path.getD (0, 0)).1 0 (.resolution false (hop.getD 0) 0 0) s1 else s1

/-! ## Contexts (R346-R349) -/

/-- The context of an index; none where it is FREE. -/
def qpAt (q : Nat) (s : State) : Option QpCtx := s.ports.qps.find? (fun c => c.index == q)

/-- Changes a context. -/
def modifyQp (q : Nat) (f : QpCtx → QpCtx) (s : State) : State :=
  modifyPorts (fun p => { p with qps := mapIf (fun c => c.index == q) f p.qps }) s

/-- The QPN of a context (Table 14-7). -/
def qpnOf (c : QpCtx) : Nat := c.gen * 2 ^ 20 + c.index

/-- The QPN of an index as it stands. -/
def qpnAt (q : Nat) (s : State) : Nat := ((qpAt q s).map qpnOf).getD 0

/-- Whether a context is CONNECTED. -/
def qpConnected (q : Nat) (s : State) : Bool := ((qpAt q s).map (·.state)) == some .connected

/-- Whether a context is pinned in its cache (R349). -/
def qpPinned (c : QpCtx) (s : State) : Bool :=
  c.inbound.isSome || c.bound.isSome || !c.sent.isEmpty
    || s.ports.zones.any (fun z => z.state == .revoking && z.qp == c.index)

/-- The quadrant that caches a context: its home harrow's. -/
def qpQuadrant (c : QpCtx) : Nat := c.home / 8

/-- The home harrow of a queue pair. -/
def qpHome (q : Nat) (s : State) : Nat := ((qpAt q s).map (·.home)).getD (q % 32)

/-- Counts in a quadrant's context cache. -/
def countCtx (q : Nat) (f : CtxCounters → CtxCounters) (s : State) : State :=
  modifyPorts (fun p => { p with counters := modifyNth f q p.counters }) s

/-- Whether a context is cached. -/
def isCached (c : QpCtx) (s : State) : Bool := (s.ports.cached.getD (qpQuadrant c) []).contains c.index

/-- Puts a context at the front of its quadrant's cache: a full set of 16 ways gives up its least recently used unpinned one; with every
way pinned nothing changes (R349, R350). The set is INDEX modulo 1,024. Whether it is cached, and the state after. -/
def cacheContext (q : Nat) (s : State) : Bool × State :=
  match qpAt q s with
  | none => (false, s)
  | some c =>
    let d := qpQuadrant c
    let now := s.ports.cached.getD d []
    let put := fun (l : List Nat) (st : State) => modifyPorts (fun p => { p with cached := p.cached.set d (q :: l) }) st
    if now.contains q then (true, put (now.erase q) s)
    else
      let set := now.filter (fun i => i % 1024 == q % 1024)
      if set.length < 16 then (true, put now s)
      else
        let free := fun (i : Nat) => match qpAt i s with
          | some x => !qpPinned x s
          | none => true
        match set.reverse.find? free with
        | none => (false, s)
        | some v => (true, put (now.erase v) (countCtx d (fun k => { k with evictions := bump k.evictions }) s))

/-! ## Sending on a queue pair (R342, R359) -/

/-- `a` less `b` among 24-bit packet sequence numbers. -/
def psnSub (a b : Nat) : Nat := (a + 2 ^ 24 - b % 2 ^ 24) % 2 ^ 24

/-- The 16-byte RETH of a request. -/
def rethBytes (addr key len : Nat) : Bytes := beBytes 8 addr ++ beBytes 4 key ++ beBytes 4 len

/-- Pieces of at most `m` bytes, at least one. -/
def mtuPieces (m : Nat) : Nat → Bytes → List Bytes
  | 0, b => [b]
  | fuel + 1, b => if b.length ≤ m then [b] else b.take m :: mtuPieces m fuel (b.drop m)

/-- Opcodes of the First, Middle, Last and Only packets of a message (Table 14-4). -/
def msgOpcode (m : OutMsg) (first last : Bool) : Nat :=
  match m with
  | .read _ _ _ _ => 0x0C
  | .write _ _ _ => if first && last then 0x0A else if first then 0x06 else if last then 0x08 else 0x07
  | .send _ inv _ =>
    if last then (if inv.isSome then (if first then 0x17 else 0x16) else if first then 0x04 else 0x02)
    else if first then 0x00 else 0x01

/-- Extension header of a packet of a message. -/
def msgExt (m : OutMsg) (first last : Bool) : Bytes :=
  match m with
  | .read a k n _ => rethBytes a k n
  | .write a k b => if first then rethBytes a k b.length else []
  | .send _ inv _ => if last then (inv.map (beBytes 4)).getD [] else []

/-- The packets of a message, from a PSN on; AckReq on the last and on every `every`-th in between (R359). -/
def msgPackets (m : OutMsg) (pmtu every psn since now : Nat) : List OutPacket :=
  let body := match m with
    | .send b _ _ => b
    | .write _ _ b => b
    | .read _ _ _ _ => []
  let ps := mtuPieces pmtu (body.length / pmtu + 1) body
  (List.range ps.length).map (fun i =>
    let first := i == 0
    let last := i + 1 == ps.length
    { psn := (psn + i) % 2 ^ 24
      span := match m with
        | .read _ _ n _ => max 1 ((n + pmtu - 1) / pmtu)
        | _ => 1
      opcode := msgOpcode m first last, ext := msgExt m first last, payload := ps.getD i []
      ackReq := last || (since + i + 1) % every == 0
      sentAt := now, resent := false
      tag := match m with
        | .send _ _ t => if last then t else 0
        | _ => 0
      got := []
      read := match m with
        | .read a k n u => some (a, k, n, u)
        | _ => none })

/-- Priority of a service's packets (Table 14-2). -/
def servicePriority (v : Service) (s : State) : Nat :=
  match v with
  | .nvme => paramNat 0x0E0B 0 s
  | .sheaf => paramNat 0x0E0C 0 s
  | _ => paramNat 0x0E0D 0 s

/-- Puts a request packet of a context on the wire. -/
def sendPacket (c : QpCtx) (p : OutPacket) (s : State) : State :=
  let udp := 0xC000 + crc32c (beBytes 3 (qpnOf c) ++ beBytes 3 c.remoteQpn) % 16384
  transmit c.lport (servicePriority c.service s) (qpPath c s)
    (.roce udp 2 p.opcode c.remoteQpn p.psn p.ackReq p.ext p.payload) s

/-- Sends response packets: ACK, NAK and CNP go at PRIO_CNP, not ECN-capable (Table 14-2). -/
def sendResponse (c : QpCtx) (opcode psn : Nat) (ext : Bytes) (s : State) : State :=
  let udp := 0xC000 + crc32c (beBytes 3 (qpnOf c) ++ beBytes 3 c.remoteQpn) % 16384
  transmit c.lport (paramNat 0x0E0E 0 s) (qpPath c s) (.roce udp 0 opcode c.remoteQpn psn false ext []) s

/-- READ Requests a context has outstanding. -/
def readsOut (c : QpCtx) : Nat := (c.sent.filter (fun p => p.read.isSome)).length

/-- Whether a message pulls write data: the data of an NVMe Write or a fill of a PUT. No new one is issued while admission is stopped
(R63). -/
def pullsWrite (q : Nat) (m : OutMsg) (s : State) : Bool :=
  match m with
  | .read _ _ _ u =>
    s.sheaf.conns.any (fun c => c.qp == q) || s.nvme.commands.any (fun c => c.qp == q && c.cid == u.id && leNat (c.capsule.take 1) == 1)
  | _ => false

/-- Sends the messages that wait, in order, while the queue pair is CONNECTED, no RNR delay runs, and at most 16 READ Requests are
outstanding (Table 14-4); READs for write data stay behind while admission is stopped (R63). -/
def qpPump (q : Nat) : Nat → State → State
  | 0, s => s
  | fuel + 1, s =>
    match qpAt q s with
    | none => s
    | some c =>
      match c.waiting.find? (fun m => !(s.ingest.stopped && pullsWrite q m s)) with
      | none => s
      | some m =>
        let rest := c.waiting.erase m
        let isRead := match m with
          | .read _ _ _ _ => true
          | _ => false
        if c.state ≠ .connected ∨ c.rnrWait = true ∨ (isRead = true ∧ 16 ≤ readsOut c) then s
        else
          let every := max 1 (paramNat 0x0E23 0 s)
          let ps := msgPackets m c.pmtu every c.npsn c.sinceAck s.time.ticks
          let next := (c.npsn + (ps.map (·.span)).sum) % 2 ^ 24
          let s1 := modifyQp q (fun x => { x with waiting := rest, sent := x.sent ++ ps, npsn := next, sinceAck := 0 }) s
          let s2 := ps.foldl (fun st p => sendPacket c p st) s1
          qpPump q fuel (cacheContext q s2).2

/-- Sends messages on a queue pair, after those that wait. -/
def qpSend (q : Nat) (ms : List OutMsg) (s : State) : State :=
  let s1 := modifyQp q (fun c => { c with waiting := c.waiting ++ ms }) s
  qpPump q ((qpAt q s1).map (fun c => c.waiting.length) |>.getD 0) s1

/-- Sends one SEND. -/
def qpSendBytes (q : Nat) (bytes : Bytes) (s : State) : State := qpSend q [.send bytes none 0] s

/-- Posts receive buffers (R343, R373, R392). -/
def qpPost (q n : Nat) (s : State) : State := modifyQp q (fun c => { c with posted := c.posted + n }) s

/-- Posts a used receive buffer of a client's queue pair again; while admission is stopped it is only owed (R63). -/
def qpRepost (q : Nat) (s : State) : State :=
  if s.ingest.stopped then modifyQp q (fun c => { c with owed := c.owed + 1 }) s else qpPost q 1 s

/-- Once admission has resumed: the receive buffers owed are posted, and the READs that waited go (R63). -/
def postOwed (s : State) : State :=
  s.ports.qps.foldl (fun st c =>
    qpPump c.index c.waiting.length (modifyQp c.index (fun x => { x with posted := x.posted + x.owed, owed := 0 }) st)) s

/-- Takes a message out of the receive buffer that holds it. -/
def qpTake (q : Nat) (bytes : Bytes) (s : State) : State := modifyQp q (fun c => { c with received := c.received.erase bytes }) s

end Sys2Proof.Machine
end

