-- ==== Sys2Proof/Machine/NvmeCore.lean ====
section
/-! DEFINITION. NVMe completions and asynchronous events (R372-R375, R382-R386): fields of a capsule, queues and controllers, the
completion of a command, the events of Table 14-10 offered to hosts. Fields and codes are those of NVMe Base 2.0 (log entry 19). -/

namespace Sys2Proof.Machine

/-! ## Fields of a command capsule -/

/-- CID. -/
def sqeCid (c : Bytes) : Nat := fieldAt c 2 2

/-- Opcode. -/
def sqeOpcode (c : Bytes) : Nat := fieldAt c 0 1

/-- NSID. -/
def sqeNsid (c : Bytes) : Nat := fieldAt c 4 4

/-- Command dword `n`, from 10 to 15. -/
def sqeDw (n : Nat) (c : Bytes) : Nat := fieldAt c (4 * n) 4

/-- The SGL identifier of the data pointer: descriptor type over subtype. -/
def sqeSgl (c : Bytes) : Nat := fieldAt c 39 1

/-- Address, length and key of a keyed SGL data block. -/
def sqeKeyed (c : Bytes) : Nat × Nat × Nat := (fieldAt c 24 8, fieldAt c 32 3, fieldAt c 35 4)

/-- The key that the response must invalidate: the descriptor's, with subtype invalidate (R375). -/
def sqeInvalidate (c : Bytes) : Option Nat := if sqeSgl c = 0x4F then some (fieldAt c 35 4) else none

/-- In-capsule data. -/
def sqeData (c : Bytes) : Bytes := c.drop 64

/-! ## Status codes: type × 256 + code -/

/-- Successful Completion. -/
def nvOk : Nat := 0x000
/-- Invalid Command Opcode. -/
def nvBadOpcode : Nat := 0x001
/-- Invalid Field in Command. -/
def nvBadField : Nat := 0x002
/-- Command ID Conflict. -/
def nvCidConflict : Nat := 0x003
/-- Internal Error. -/
def nvInternal : Nat := 0x006
/-- Command Abort Requested. -/
def nvAborted : Nat := 0x007
/-- Invalid Namespace or Format. -/
def nvBadNamespace : Nat := 0x00B
/-- Command Sequence Error. -/
def nvSequence : Nat := 0x00C
/-- Data SGL Length Invalid. -/
def nvSglLength : Nat := 0x00F
/-- SGL Descriptor Type Invalid. -/
def nvSglType : Nat := 0x011
/-- Namespace is Write Protected. -/
def nvWriteProtected : Nat := 0x020
/-- LBA Out of Range. -/
def nvLbaRange : Nat := 0x080
/-- Capacity Exceeded. -/
def nvCapacity : Nat := 0x081
/-- Abort Command Limit Exceeded. -/
def nvAbortLimit : Nat := 0x103
/-- Asynchronous Event Request Limit Exceeded. -/
def nvEventLimit : Nat := 0x105
/-- Invalid Log Page. -/
def nvBadLog : Nat := 0x109
/-- Feature Identifier Not Saveable. -/
def nvNotSaveable : Nat := 0x10D
/-- Namespace Identifier Unavailable. -/
def nvNoNsid : Nat := 0x116
/-- Namespace Already Attached. -/
def nvAttached : Nat := 0x118
/-- Namespace Not Attached. -/
def nvNotAttached : Nat := 0x11A
/-- Controller List Invalid. -/
def nvBadList : Nat := 0x11C
/-- Connect Controller Busy. -/
def nvConnectBusy : Nat := 0x181
/-- Connect Invalid Parameters. -/
def nvConnectBad : Nat := 0x182
/-- Connect Invalid Host. -/
def nvConnectHost : Nat := 0x184
/-- Unrecovered Read Error. -/
def nvReadError : Nat := 0x281
/-- Compare Failure. -/
def nvCompareFail : Nat := 0x285
/-- Access Denied. -/
def nvDenied : Nat := 0x286
/-- Asymmetric Access Inaccessible. -/
def nvInaccessible : Nat := 0x302
/-- Asymmetric Access Transition. -/
def nvTransition : Nat := 0x303

/-- DNR of a status (Table 15-6): clear for the cases the table gives 0, set for the errors it leaves to the standard
(DESIGN CHOICE 20). -/
def nvDnr (status : Nat) : Bool :=
  !([nvOk, nvCapacity, nvInternal, nvInaccessible, nvTransition, nvAborted, nvConnectBusy].contains status)

/-- The NVMe status of an outcome of the data service (Table 15-6); of what the owner refuses of a forwarded command, that in READONLY, that
of a head that serves it no longer, and that of a namespace which is gone. -/
def nvOfStatus (st : Status) : Nat :=
  if st.toNat < 0x1000 then nvOk else if st = stReadOnly then nvWriteProtected else if st = stAuthFailed then nvDenied
  else if st = stMedia then nvReadError else if st = stNoResource then nvCapacity else if st = stWrongMode then nvInaccessible
  else if st = stBadParam then nvBadNamespace else nvInternal

/-! ## Queues and controllers -/

/-- Changes the NVMe part. -/
def modifyNvme (f : NvmePart → NvmePart) (s : State) : State := { s with nvme := f s.nvme }

/-- The queue of a queue pair. -/
def nvQueue (qp : Nat) (s : State) : Option NvmeQueue := s.nvme.queues.find? (fun x => x.qp == qp)

/-- Changes a queue. -/
def modifyNvQueue (qp : Nat) (f : NvmeQueue → NvmeQueue) (s : State) : State :=
  modifyNvme (fun n => { n with queues := mapIf (fun x => x.qp == qp) f n.queues }) s

/-- A controller by ID. -/
def ctrlAt (id : Nat) (s : State) : Option Controller := s.nvme.controllers.find? (fun c => c.id == id)

/-- Changes a controller. -/
def modifyCtrl (id : Nat) (f : Controller → Controller) (s : State) : State :=
  modifyNvme (fun n => { n with controllers := mapIf (fun c => c.id == id) f n.controllers }) s

/-- The controller of a queue pair's queue. -/
def qpCtrl (qp : Nat) (s : State) : Option Controller := (nvQueue qp s).bind (fun x => x.controller.bind (fun c => ctrlAt c s))

/-- The queue pairs of a controller, its admin queue first. -/
def ctrlQps (id : Nat) (s : State) : List Nat := (s.nvme.queues.filter (fun x => x.controller == some id)).map (·.qp)

/-- Commands of a controller that are outstanding. -/
def ctrlCommands (id : Nat) (s : State) : List NvmeCmd :=
  let qps := ctrlQps id s
  s.nvme.commands.filter (fun c => qps.contains c.qp)

/-- Counts of the NVMe target. -/
def countNvme (f : NvmeCounters → NvmeCounters) (s : State) : State := modifyNvme (fun n => { n with counters := f n.counters }) s

/-- An outstanding command. -/
def nvCmd (qp cid : Nat) (s : State) : Option NvmeCmd := s.nvme.commands.find? (fun c => c.qp == qp && c.cid == cid)

/-- Changes an outstanding command. -/
def modifyNvCmd (qp cid : Nat) (f : NvmeCmd → NvmeCmd) (s : State) : State :=
  modifyNvme (fun n => { n with commands := mapIf (fun c => c.qp == qp && c.cid == cid) f n.commands }) s

/-- A command is outstanding no longer. -/
def dropNvCmd (qp cid : Nat) (s : State) : State :=
  modifyNvme (fun n => { n with commands := n.commands.filter (fun c => !(c.qp == qp && c.cid == cid)) }) s

/-! ## Completion -/

/-- A response capsule (R375). -/
def cqeBytes (dw0 dw1 sqhd cid status : Nat) : Bytes :=
  leBytes 4 dw0 ++ leBytes 4 dw1 ++ leBytes 2 sqhd ++ leBytes 2 0 ++ leBytes 2 cid
    ++ leBytes 2 (2 * status + flagBit (nvDnr status) * 2 ^ 15)

/-- Enters an error in the Error Information log (R386); location 0xFFFF names no field of the command. -/
def noteError (qp : Nat) (capsule : Bytes) (status location almSeq : Nat) (s : State) : State :=
  let io := ((nvQueue qp s).map (fun x => decide (x.qid ≠ 0))).getD false
  let e : ErrorEntry :=
    { count := s.nvme.errorCount + 1, sqid := ((nvQueue qp s).map (·.qid)).getD 0, cid := sqeCid capsule, status := status,
      location := location, lba := if io then fieldAt capsule 40 8 else 0, nsid := sqeNsid capsule, almSeq := almSeq }
  modifyNvme (fun n => { n with errors := (e :: n.errors).take 64, errorCount := n.errorCount + 1 }) s

/-- Restarts the Keep Alive timer of a queue pair's controller (R372). -/
def katoRestart (qp : Nat) (s : State) : State :=
  match qpCtrl qp s with
  | none => s
  | some c => modifyCtrl c.id (fun x => { x with katoFrom := s.time.ticks }) s

/-- A controller in shutdown has none outstanding but Asynchronous Event Requests: SHST is complete (Table 15-5). -/
def shutdownCheck (qp : Nat) (s : State) : State :=
  match qpCtrl qp s with
  | none => s
  | some c =>
    if c.shst = 1 ∧ (ctrlCommands c.id s).all (fun x => x.stage == .event) = true then
      modifyCtrl c.id (fun x => { x with shst := 2 }) s
    else s

/-- Sends the completion of a command: the response capsule, a SEND with Invalidate where its descriptor asks for it (R375). -/
def nvRespond (qp : Nat) (capsule : Bytes) (dw0 dw1 status almSeq : Nat) (s : State) : State :=
  let sqhd := ((nvQueue qp s).map (fun x => if x.noFlow then 0 else x.head)).getD 0
  let s1 := if status = nvOk then s else noteError qp capsule status 0xFFFF almSeq s
  let s2 := qpSend qp [.send (cqeBytes dw0 dw1 sqhd (sqeCid capsule) status) (sqeInvalidate capsule) 0] s1
  katoRestart qp s2

/-- Ends an outstanding command. -/
def nvEnd (qp cid dw0 dw1 status almSeq : Nat) (s : State) : State :=
  match nvCmd qp cid s with
  | none => s
  | some c => shutdownCheck qp (nvRespond qp c.capsule dw0 dw1 status almSeq (dropNvCmd qp cid s))

/-! ## Asynchronous events (R384) -/

/-- Reports an event to a controller, keyed by the log page it names: it completes the oldest Asynchronous Event Request, or waits for
one; one already reported and not yet read, or already waiting, adds nothing. -/
def ctrlEvent (id log dword : Nat) (s : State) : State :=
  match ctrlAt id s with
  | none => s
  | some c =>
    if c.masked.contains log = true ∨ c.events.any (fun e => e.1 == log) = true then s
    else
      match s.nvme.commands.find? (fun x => x.stage == .event && x.qp == c.adminQp) with
      | none => modifyCtrl id (fun x => { x with events := x.events ++ [(log, dword)] }) s
      | some r =>
        countNvme (fun k => { k with aenSent := bump k.aenSent })
          (nvEnd r.qp r.cid dword 0 nvOk 0 (modifyCtrl id (fun x => { x with masked := x.masked ++ [log] }) s))

/-- Critical Warning of the health log (Table 15-7). -/
def criticalWarning (s : State) : Nat :=
  let hot := s.thermal.tjQ.any (fun t => decide ((8 * paramNat 0x0F04 0 s : Int) ≤ t))
  let lost := decide (0 < criticalBales s) || s.media.bridges.any (fun b => b.state == 4)
  flagBit s.media.spareWarned + 2 * flagBit hot + 4 * flagBit lost + 8 * flagBit s.media.readonly + 16 * flagBit s.nvme.uncleanStop

/-- Offers a change of health to every controller: a bit of Critical Warning that has become 1 and is enabled there. -/
def offerHealth (s : State) : State :=
  let w := criticalWarning s
  let fresh := (BitVec.ofNat 8 w &&& ~~~ (BitVec.ofNat 8 s.nvme.warning)).toNat
  let s1 := modifyNvme (fun n => { n with warning := w }) s
  if fresh = 0 then s1
  else
    let info := if bitOf fresh 0 then 2 else if bitOf fresh 1 then 1 else 0
    s1.nvme.controllers.foldl (fun st c =>
      if (BitVec.ofNat 8 fresh &&& BitVec.ofNat 8 c.aec) ≠ 0 then ctrlEvent c.id 0x02 (1 + 256 * info + 0x020000) st else st) s1

/-- A Notice to the controllers that a test selects: information code and log page, under an enable bit of Asynchronous Event
Configuration. -/
def notice (sel : Controller → Bool) (bit info log : Nat) (s : State) : State :=
  s.nvme.controllers.foldl (fun st c =>
    if sel c = true ∧ bitOf c.aec bit = true then ctrlEvent c.id log (2 + 256 * info + 65536 * log) st else st) s

/-- Offers an event of Table 14-10 to NVMe hosts (R362, R384). -/
def offerNvme (code : Nat) (s : State) : State :=
  if code = 0x0202 then notice (fun _ => true) 11 0x03 0x0C (modifyNvme (fun n => { n with anaChanges := n.anaChanges + 1 }) s)
  else offerHealth s

/-- A change of a namespace's list: the controllers of some hosts keep its NSID for log 0x04 and are told (R381, R384). -/
def namespaceNotice (hosts : List Nat) (nsid : Nat) (s : State) : State :=
  let mine := fun (c : Controller) => hosts.contains c.host
  let add := fun (c : Controller) => if c.changed.contains nsid then c else { c with changed := c.changed ++ [nsid] }
  notice mine 8 0x00 0x04 (modifyNvme (fun n => { n with controllers := mapIf mine add n.controllers }) s)

end Sys2Proof.Machine
end

