-- ==== Sys2Proof/Machine/Ops.lean ====
section
/-! DEFINITION. Operations every part of the head uses: the HSW and attention, the Almanac, events, replies, and the
mode change. -/

namespace Sys2Proof.Machine

/-! ## The head state word (R482-R484) -/

/-- Every compressor of the chip is quarantined (R165). -/
def allQuarantined (s : State) : Bool := s.voxca.all (fun v => v.compressors.all (fun c => c.quarantined))

/-- Bits that a standing condition holds set through ATTN_ACK (R483): a latched vault bit (R191), array time unset once
start-up has looked (R51), standing media conditions (R226), and every compressor quarantined (R165). -/
def heldAttn (s : State) : BitVec 16 :=
  (if s.vault.status &&& 0x3F ≠ 0 then 0x1000 else 0) ||| (if s.time.resumed ∧ ¬ s.time.arraySet then 0x0040 else 0)
    ||| (if 0 < degradedBales s then 0x0080 else 0) ||| (if allQuarantined s then 0x0040 else 0)
/-- The HSW as the state gives it (Table 20-7). -/
def hswOf (s : State) : BitVec 16 :=
  hswWord s.time.band (!s.mci.events.isEmpty) (s.hsw.attn ||| heldAttn s) s.hsw.autonomy s.headland.peerPresent s.boot.mode

/-- MCI_STATUS (Table 20-3). -/
def mciStatus (s : State) : Nat := 2 * flagBit s.boot.loader + flagBit s.boot.ready

/-- The bytes of a reply (Table 20-5). -/
def replyBytes (tag : Nat) (phase : Bool) (status : Status) (hsw attnSeq : BitVec 16) (result : Bytes) : Bytes :=
  leBytes 2 (tag % 2 ^ 15 + flagBit phase * 2 ^ 15) ++ leBytes 2 status.toNat ++ leBytes 2 hsw.toNat
    ++ leBytes 2 attnSeq.toNat ++ padTo 24 result

/-- Whether the reply ring can take a reply: in service and not full (R476, R478). -/
def replyRoom (s : State) : Bool :=
  s.mci.reply.enable && !s.mci.reply.fault && (s.mci.reply.tail + 1) % s.mci.reply.size != s.mci.reply.head

/-- Writes a reply into the slot at TAIL with the ring's PHASE, and advances TAIL (R478). -/
def writeReply (h : HeldReply) (s : State) : State :=
  let r := s.mci.reply
  let bytes := replyBytes h.tag r.phase h.status s.hsw.word s.hsw.attnSeq h.result
  let tail := (r.tail + 1) % r.size
  { s with
    out := s.out ++ [.reply r.tail bytes]
    mci := { s.mci with reply := { r with tail := tail, phase := if tail = 0 then !r.phase else r.phase } } }

/-- Writes held replies in completion order while the ring has room (R476, R478). -/
def drainReplies : Nat → State → State
  | 0, s => s
  | fuel + 1, s =>
    match s.mci.held with
    | [] => s
    | h :: rest =>
      if replyRoom s then drainReplies fuel (writeReply h { s with mci := { s.mci with held := rest } }) else s

/-- RESULT is zero unless the status is a success, or the command states otherwise (Table 20-5). -/
def resultFor (status : Status) (result : Bytes) : Bytes := if statusOk status then result else []

/-- Gives a reply: written at once, or held behind earlier ones while the ring is disabled or full (R476, R478). -/
def postReply (tag : Nat) (status : Status) (result : Bytes) (s : State) : State :=
  let h : HeldReply := { tag := tag, status := status, result := result }
  if s.mci.held.isEmpty && replyRoom s then writeReply h s
  else
    let full := s.mci.reply.enable && !replyRoom s
    { s with mci := { s.mci with
        held := s.mci.held ++ [h]
        replyRingFull := if full then bump s.mci.replyRingFull else s.mci.replyRingFull } }

/-- The ring numbers from here on stand for the peer: that of a command it forwarded is this plus its FWD_ID (R493). -/
def peerRing : Nat := 256

/-- Ends a command: it is outstanding no longer, and its reply is given (R479); a forwarded one is answered to the peer. -/
def complete (ref : McRef) (status : Status) (result : Bytes) (s : State) : State :=
  if peerRing ≤ ref.ring then forwardDone (ref.ring - peerRing) status (resultFor status result) s
  else
  postReply ref.tag status (resultFor status result)
    { s with mci := { s.mci with outstanding := s.mci.outstanding.filter (fun r => r != ref) } }

/-- Completes the standing WATCH of a ring where ATTN_SEQ has left its ATTN_SEEN (R485). -/
def fireWatch (ring : Nat) (s : State) : State :=
  match s.mci.rings[ring]? with
  | none => s
  | some r =>
    match r.watch with
    | none => s
    | some w =>
      if w.attnSeen = s.hsw.attnSeq.toNat then s
      else complete ⟨ring, w.tag⟩ stOk []
        { s with mci := { s.mci with rings := s.mci.rings.set ring { r with watch := none } } }

/-- Brings the HSW up to date: a change of its value advances ATTN_SEQ and completes the standing WATCHes (R484, R485). -/
def hswSync (s : State) : State :=
  let w := hswOf s
  if w = s.hsw.word then s
  else (List.range 16).foldl (fun st i => fireWatch i st)
    { s with hsw := { s.hsw with word := w, attnSeq := s.hsw.attnSeq + 1 } }

/-- Sets a latched attention bit (R483). -/
def raiseAttn (bit : Nat) (s : State) : State :=
  hswSync { s with hsw := { s.hsw with attn := s.hsw.attn ||| (1#16 <<< bit) } }

/-! ## The Almanac (R518-R529) -/

/-- Whether records go to the early ring: BOOT, RECOVERY, SERVICE, and INVENTORY until step 0x0C has done (R521). -/
def almEarly (s : State) : Bool :=
  match s.boot.mode with
  | .boot => true | .recovery => true | .service => true
  | .inventory => !s.time.resumed
  | _ => false

/-- Bytes in the staging queue. -/
def stagedBytes (a : AlmPart) : Nat := (a.staged.map (fun r => almLen r.payload.length)).sum

/-- The 64 MiB of the staging queue (R525). -/
def stagingSize : Nat := 67108864

/-- Places a record in the early ring at its next position: records do not straddle sectors, and entering a sector erases
the one after it (R522). -/
def earlyWrite (r : AlmRecord) (a : AlmPart) : AlmPart :=
  let len := almLen r.payload.length
  let pos0 := if a.earlyPos % 65536 + len > 65536 then (a.earlyPos / 65536 + 1) * 65536 else a.earlyPos
  let pos := pos0 % 8388608
  let kept := if pos % 65536 = 0
    then a.early.filter (fun e => e.1 / 65536 != (pos / 65536 + 1) % 128) else a.early
  { a with early := kept ++ [(pos, r)], earlyPos := pos + len }

/-- Forms a record of the early ring, unsequenced; beyond 192 KiB it is lost and counted (R522). -/
def almEarlyAdd (type : Nat) (payload : Bytes) (s : State) : State :=
  let a := s.alm
  let len := almLen payload.length
  if a.earlyUsed + len > 196608 then
    { s with alm := { a with
        earlyLost := a.earlyLost + 1
        earlyLostFirst := if a.earlyLost = 0 then opTime s else a.earlyLostFirst
        earlyLostLast := opTime s } }
  else
    let r : AlmRecord := { type := type, seq := almUnsequenced, head := s.boot.headId, early := true, flush := false,
                           powerCycles := s.time.powerCycles, opTime := opTime s, payload := payload, elapsed := !s.time.resumed }
    flashWritten 2 { s with alm := { earlyWrite r a with earlyUsed := a.earlyUsed + len } }

/-- Forms a record of the staging queue with the next SEQ; without room, or past the last SEQ, it is lost (R519, R527). -/
def almStage (type : Nat) (payload : Bytes) (s : State) : State :=
  let a := s.alm
  let len := almLen payload.length
  if stagedBytes a + len > stagingSize ∨ a.newestSeq ≥ almLastSeq then
    { s with alm := { a with
        lost := bump a.lost
        lossCount := a.lossCount + 1
        lossFirst := if a.lossCount = 0 then opTime s else a.lossFirst
        lossLast := opTime s } }
  else
    let r : AlmRecord := { type := type, seq := a.newestSeq + 1, head := s.boot.headId, early := false, flush := false,
                           powerCycles := s.time.powerCycles, opTime := opTime s, payload := payload, elapsed := !s.time.resumed }
    { s with alm := { a with staged := a.staged ++ [r], newestSeq := a.newestSeq + 1,
                             oldestSeq := if a.oldestSeq = 0 then a.newestSeq + 1 else a.oldestSeq } }

/-- In a quiet stop nothing more is written to boot flash (R514). -/
def flashStill (s : State) : Bool := s.boot.quietStop && s.boot.mode != .dump

/-- Writes an Almanac record of a type of Table 22-2 with its payload. -/
def almanac (type : Nat) (payload : Bytes) (s : State) : State :=
  if almEarly s then (if flashStill s then s else almEarlyAdd type payload s) else almStage type payload s

/-- The sequence a rule quotes for the record it has just written: 0 where the record has none (R527). -/
def almSeqAfter (before after : State) : Nat :=
  if after.alm.newestSeq = before.alm.newestSeq then 0 else after.alm.newestSeq

/-! ## Events (R362, R498) -/

/-- Whether an entry repeats an unread one: equal in code and detail (R362). -/
def sameEvent (code detail : Nat) (e : McEvent) : Bool := e.code == code && e.detail == detail

/-- Queues an event: a repeat raises the unread entry's count, and a full queue of 1,024 drops it and counts it. -/
def queueEvent (code detail almSeq : Nat) (s : State) : State :=
  let m := s.mci
  if m.events.any (sameEvent code detail) then
    { s with mci := { m with events := mapIf (sameEvent code detail) (fun e => { e with repeats := satAdd 16 e.repeats 1 }) m.events } }
  else if m.events.length ≥ 1024 then
    { s with mci := { m with eventsLost := bump m.eventsLost, eventsDropped := m.eventsDropped + 1 } }
  else
    { s with mci := { m with events := m.events ++
        [{ code := code, repeats := 0, detail := detail, time := s.time.ticks, almSeq := almSeq }] } }

/-- Raises an event: its queue entry, its HSW bit and its offer to NVMe hosts (R362, Table 14-10). -/
def raiseEvent (code detail almSeq : Nat) (s : State) : State :=
  let s1 := hswSync (queueEvent code detail almSeq s)
  let s2 := match eventBit code with
    | some b => raiseAttn b s1
    | none => s1
  if eventToNvme code then offerNvme code s2 else s2

/-- Sets health attention by a rule that wrote Almanac record `almSeq`: the bit and DEV_HEALTH (Table 14-10). -/
def healthAttn (almSeq : Nat) (s : State) : State := raiseEvent 0x0205 almSeq almSeq s

/-- Writes an Almanac record and sets health attention for it. -/
def healthRecord (type : Nat) (payload : Bytes) (s : State) : State :=
  let s1 := almanac type payload s
  healthAttn (almSeqAfter s s1) s1

/-- Sets media attention. -/
def mediaAttn (s : State) : State := raiseAttn bitMedia s

/-- VAULT_STATUS: OCCUPIED over the latched bits (Table 8-8). -/
def vaultStatus (s : State) : Nat :=
  ((List.range 16).map (fun i => if (s.vault.gauntlet.getD i none).isSome then 2 ^ (16 + i) else 0)).sum
    + s.vault.status.toNat % 64

/-- A vault alarm's or a locked domain's security event (Table 14-10). -/
def securityEvent (domain : Nat) (s : State) : State :=
  raiseEvent 0x0206 (detail2 (vaultStatus s) domain) 0 s

/-! ## Modes (R500) -/

/-- The release that Steward runs: RELEASE of its manifest (Tables 20-16, 23-1). -/
def runningRelease (s : State) : Nat := (s.fw.running.manifest.map (fun m => fieldAt m 8 4)).getD 0

/-- Whether a mode serves: ACTIVE, SOLE, RETURN, READONLY, QUIESCE keep leases and clients (Table 21-1). -/
def servingMode : Mode → Bool
  | .active => true | .sole => true | .returning => true | .quiesce => true | .readonly => true | _ => false

/-- The mode that decides the head's part in the array: under QUIESCE and READONLY, the mode below (R501). -/
def baseMode (s : State) : Mode :=
  match s.boot.mode with
  | .quiesce =>
    match s.boot.underQuiesce with
    | .readonly => s.boot.underReadonly
    | m => m
  | .readonly => s.boot.underReadonly
  | m => m

/-- Changes the mode: a MODE record, DEV_MODE and the HSW (R500, Tables 22-2 and 14-10). -/
def setMode (m : Mode) (cause : Nat) (s : State) : State :=
  let old := s.boot.mode
  if old = m then s
  else
    let s1 := almanac 0x0001 (packFields [(1, modeCode old), (1, modeCode m), (2, cause)]) s
    let s2 := hswSync { s1 with boot := { s1.boot with mode := m } }
    raiseEvent 0x0201 (detail2 (modeCode old) (modeCode m)) (almSeqAfter s s1) s2

/-- Changes the mode that decides the head's part in the array, keeping a reported QUIESCE or READONLY (R501). -/
def setBaseMode (m : Mode) (cause : Nat) (s : State) : State :=
  match s.boot.mode with
  | .quiesce =>
    match s.boot.underQuiesce with
    | .readonly => { s with boot := { s.boot with underReadonly := m } }
    | _ => { s with boot := { s.boot with underQuiesce := m } }
  | .readonly => { s with boot := { s.boot with underReadonly := m } }
  | _ => setMode m cause s

/-- Whether a function of Table 20-11 holds its work: quiesced, or on its way there; the whole head covers every function (R492). -/
def isQuiesced (function : Nat) (s : State) : Bool :=
  s.mci.quiesced.contains function || s.mci.quiescing.contains function || s.mci.quiesced.contains 0 || s.mci.quiescing.contains 0
    || s.boot.mode == .quiesce

/-- Whether a function has reached its quiesced state, so that what is quiesce-only may be set (R491, R492). -/
def fullyQuiesced (function : Nat) (s : State) : Bool :=
  s.mci.quiesced.contains function || s.mci.quiesced.contains 0 || s.boot.mode == .quiesce

end Sys2Proof.Machine
end

