-- ==== Sys2Proof/Machine/Bridges.lean ====
section
/-! DEFINITION. The Furrow bridge's own side (10): its commands, its NAND and its lease register. -/

namespace Sys2Proof.Machine

/-! ## The bridge -/

/-- A field of Table 10-7 within its range. -/
def bridgeNat (b field lo hi : Nat) : Nat := lo + Config.bridgeField b field % (hi + 1 - lo)

/-- What BRIDGE_IDENTIFY of a bridge reports (Table 10-7). -/
def bridgeIdent (b : Nat) : BridgeIdent :=
  { uid := bridgeNat b 0 0 (2 ^ 64 - 1), maker := bridgeNat b 1 0 65535, version := 1, dies := bridgeNat b 2 1 32,
    retryLevels := bridgeNat b 3 0 7, blockUnits := bridgeNat b 4 64 2048, blocksPerDie := bridgeNat b 5 1 8388608,
    peRated := bridgeNat b 6 0 65535, corrLimit := bridgeNat b 7 0 2047, progRate := bridgeNat b 8 0 65535,
    eraseMaxMs := bridgeNat b 9 1 50, cmdSlots := bridgeNat b 10 64 1024 }

/-- The result block of BRIDGE_IDENTIFY on a port. -/
def identBytes (i : BridgeIdent) (port : Nat) : Bytes :=
  packFields [(8, i.uid), (2, i.maker), (1, i.version), (1, port), (1, i.dies), (1, i.retryLevels), (2, i.blockUnits),
    (4, i.blocksPerDie), (2, i.peRated), (2, i.corrLimit), (2, i.progRate), (2, i.eraseMaxMs), (2, i.cmdSlots), (2, 0)]

/-- A bridge's state. -/
def bridgeAt (b : Nat) (s : State) : Bridge := s.bridges.getD b resetBridge

/-- Changes a bridge. -/
def modifyBridge (b : Nat) (f : Bridge → Bridge) (s : State) : State := { s with bridges := modifyNth f b s.bridges }

/-- The frames of a response message: a DATA frame for each (CODE, payload), with INDEX, then the RESPONSE frame with its 32-byte result block,
which carries LAST (R243). -/
def responseFrames (tag status : Nat) (result : Bytes) (data : List (Nat × Bytes)) : List LinkFrame :=
  (List.range data.length).map (fun i =>
    { ftype := 3, flags := 0, tag := tag, code := (data.getD i (0, [])).1, index := i, payload := (data.getD i (0, [])).2 })
    ++ [{ ftype := 2, flags := 1, tag := tag, code := status, index := 0, payload := padTo 32 result }]

/-- Answers a command, exactly once (R248). -/
def respond (b port tag status : Nat) (result : Bytes) (data : List (Nat × Bytes)) (s : State) : State :=
  emit (.bridgeResponse b port (responseFrames tag status result data)) s

/-! ## CW_ADDR (Table 10-6) -/

/-- CW_ADDR of a die, block and codeword. -/
def cwAddr (die block cw : Nat) : Nat := die % 32 * 2 ^ 43 + block % 2 ^ 23 * 2 ^ 20 + cw % 2 ^ 17

/-- DIE of a CW_ADDR. -/
def cwDie (a : Nat) : Nat := bitsOf a 47 43
/-- BLOCK of a CW_ADDR. -/
def cwBlock (a : Nat) : Nat := bitsOf a 42 20
/-- CW of a CW_ADDR. -/
def cwIndex (a : Nat) : Nat := bitsOf a 16 0

/-- Codewords of a block: 64 for each unit of 256 KiB. -/
def blockCodewords (i : BridgeIdent) : Nat := 64 * i.blockUnits

/-- Whether a CW_ADDR and a count lie within the bridge. -/
def addrOk (i : BridgeIdent) (a count : Nat) : Bool :=
  decide (cwDie a < i.dies) && decide (cwBlock a < i.blocksPerDie) && decide (cwIndex a + count ≤ blockCodewords i)

/-- The key of a block in the bridge's NAND. -/
def nandKey (die block : Nat) : Nat := die * 2 ^ 23 + block

/-- The programmed codewords of a block. -/
def nandBlock (b die block : Nat) (s : State) : List Bytes := ((lookup (nandKey die block) (bridgeAt b s).nand).map (·.cws)).getD []

/-! ## The lease register (R252-R255) -/

/-- The lease register at bridge time `now` (Table 10-10). -/
def leaseWord (x : Bridge) (now : Nat) : Nat :=
  x.leaseEpoch % 2 ^ 32 * 2 ^ 32 + x.owner % 4 * 2 ^ 30 + flagBit x.expired * 2 ^ 29 + x.leaseMs % 1024 * 2 ^ 19
    + (if x.owner = 3 then 0 else min (x.expiry - now) (2 ^ 19 - 1))

/-- The window that ends at or before `now` has ended: OWNER none, EXPIRED 1 (R253). -/
def leaseTick (now : Nat) (x : Bridge) : Bridge :=
  if x.owner ≠ 3 ∧ x.expiry ≤ now then { x with owner := 3, expired := true } else x

/-- A grant to a port that does not hold the lease: the epoch rises (Table 10-10). -/
def leaseGrant (port ms now : Nat) (x : Bridge) : Bridge :=
  { x with leaseEpoch := (x.leaseEpoch + 1) % 2 ^ 32, owner := port, expired := false, leaseMs := ms, expiry := now + 1000 * ms }

/-- A renewal restarts the window. -/
def leaseRestart (ms now : Nat) (x : Bridge) : Bridge := { x with leaseMs := ms, expiry := now + 1000 * ms }

/-- Whether LEASE_MS is in range (Table 10-5). -/
def leaseMsOk (ms : Nat) : Bool := decide (10 ≤ ms) && decide (ms ≤ 500)

/-- A command that arrives on a port with `load` commands outstanding there: one beyond CMD_SLOTS ends with ST_BUSY (R248). -/
def withSlot (b port tag load : Nat) (f : State → State) (s : State) : State :=
  if (bridgeIdent b).cmdSlots ≤ load then respond b port tag 2 [] [] s else f s

/-- Such a command of those that a bridge in fault answers at once with ST_INTERNAL (Table 10-9). -/
def withFault (b port tag load : Nat) (f : State → State) (s : State) : State :=
  if (bridgeAt b s).internalFault then respond b port tag 7 [] [] s else withSlot b port tag load f s

/-- LEASE_ACQUIRE of a port at bridge time `now`: granted, treated as a renewal, or refused with ST_BUSY (R253, R255). -/
def leaseAcquire (b port tag ms now : Nat) (s : State) : State :=
  let x := leaseTick now (bridgeAt b s)
  let put := fun (y : Bridge) (status : Nat) => respond b port tag status (leBytes 8 (leaseWord y now)) [] (modifyBridge b (fun _ => y) s)
  if !leaseMsOk ms then put x 4
  else if x.owner = 3 then put (leaseGrant port ms now x) 0
  else if x.owner = port then put (leaseRestart ms now x) 1
  else put x 2

/-- LEASE_ACQUIRE (R253). -/
def execLeaseAcquire (bridge port tag load leaseMs now : Nat) (s : State) : Host.Outcome State Fault Refusal :=
  .next (withFault bridge port tag load (leaseAcquire bridge port tag leaseMs now) s)

/-- LEASE_RENEW of a port: the owner's window restarts; any other port, or none, ends with ST_LEASE_LOST (R253, R255). -/
def leaseRenew (b port tag ms now : Nat) (s : State) : State :=
  let x := leaseTick now (bridgeAt b s)
  let put := fun (y : Bridge) (status : Nat) => respond b port tag status (leBytes 8 (leaseWord y now)) [] (modifyBridge b (fun _ => y) s)
  if !leaseMsOk ms then put x 4 else if x.owner = port then put (leaseRestart ms now x) 0 else put x 5

/-- LEASE_RENEW (R253). -/
def execLeaseRenew (bridge port tag load leaseMs now : Nat) (s : State) : Host.Outcome State Fault Refusal :=
  .next (withFault bridge port tag load (leaseRenew bridge port tag leaseMs now) s)

/-- LEASE_RELEASE of a port; it completes once every command accepted under the lease has finished (R253, R254). -/
def leaseRelease (b port tag now : Nat) (s : State) : State :=
  let x := leaseTick now (bridgeAt b s)
  let put := fun (y : Bridge) (status : Nat) => respond b port tag status (leBytes 8 (leaseWord y now)) [] (modifyBridge b (fun _ => y) s)
  if x.owner = port then put { x with owner := 3 } 0 else put x 5

/-- LEASE_RELEASE (R253, R254). -/
def execLeaseRelease (bridge port tag load now : Nat) (s : State) : Host.Outcome State Fault Refusal :=
  .next (withFault bridge port tag load (leaseRelease bridge port tag now) s)

/-- LEASE_EXPIRY: at the end of its window, a lease that no renewal has carried on ends (R253). -/
def execLeaseExpiry (bridge now : Nat) (s : State) : Host.Outcome State Fault Refusal :=
  .next (modifyBridge bridge (leaseTick now) s)

/-! ## Identity, status, telemetry -/

/-- BRIDGE_IDENTIFY on a port (R248, Table 10-7). -/
def execBridgeIdentify (bridge port tag load : Nat) (s : State) : Host.Outcome State Fault Refusal :=
  .next (withSlot bridge port tag load (fun s => respond bridge port tag 0 (identBytes (bridgeIdent bridge) port) []
    (modifyBridge bridge (fun x => { x with resetSeen := false }) s)) s)

/-- STATUS at bridge time `now`, with what the bridge finds of itself: busy dies, temperature, commands of both ports. -/
def execStatus (bridge port tag now dieBusy : Nat) (temp : BitVec 8) (cmds0 cmds1 : Nat) (s : State) :
    Host.Outcome State Fault Refusal :=
  .next (withSlot bridge port tag (if port = 0 then cmds0 else cmds1) (fun s =>
    let x := leaseTick now (bridgeAt bridge s)
    respond bridge port tag 0
      (packFields [(8, leaseWord x now), (4, dieBusy), (1, temp.toNat), (2, cmds0), (2, cmds1)]) []
      (modifyBridge bridge (fun _ => x) s)) s)

/-- The bytes of a TELEMETRY page, with its entries and total: page 0 the dies' temperature and state, page 1 the grown-bad list from entry
START (R251). -/
def telemetryPage (b page start : Nat) (dies : List (BitVec 8 × Bool)) (s : State) : Option (Nat × Nat × Bytes) :=
  match page with
  | 0 =>
    let n := (bridgeIdent b).dies
    let all := (List.range n).flatMap (fun d =>
      let x := dies.getD d (0, false)
      [x.1, if x.2 then 0#8 else 1#8])
    some (n, n, all)
  | 1 =>
    let bad := (bridgeAt b s).grownBad
    let out := (bad.drop start).take 512
    some (out.length, bad.length, out.flatMap (fun k => leBytes 8 (cwAddr (k / 2 ^ 23) (k % 2 ^ 23) 0)))
  | _ => none

/-- TELEMETRY; `dies` is each die's temperature and whether it answers (R251). -/
def execTelemetry (bridge port tag load page start : Nat) (dies : List (BitVec 8 × Bool)) (s : State) : Host.Outcome State Fault Refusal :=
  .next (withFault bridge port tag load (fun s =>
    match telemetryPage bridge page start dies s with
    | none => respond bridge port tag 4 [] [] s
    | some (n, total, bytes) => respond bridge port tag 0 (packFields [(2, n), (2, total)]) [(0, bytes)] s) s)

/-! ## NAND (R249, R250, R254) -/

/-- The report of a codeword the way the command allows it: a retry level above RETRY_MAX, or a soft read that is not allowed,
leaves it uncorrectable (R250). -/
def readReport (retryMax : Nat) (soft : Bool) (report : Nat) : Nat :=
  if bitOf report 15 then 2 ^ 15
  else if bitOf report 14 then (if soft then report % 2 ^ 15 else 2 ^ 15)
  else if bitsOf report 13 11 ≤ retryMax then report % 2 ^ 14 else 2 ^ 15

/-- DIE_READ of COUNT codewords; `reports` is what the decoder makes of each (Table 10-8). A read of codewords never programmed
ends with ST_BAD_PARAM. -/
def dieRead (b port tag a count retryMax : Nat) (soft : Bool) (reports : List Nat) (s : State) : State :=
  let i := bridgeIdent b
  let cws := (nandBlock b (cwDie a) (cwBlock a) s).drop (cwIndex a)
  if count = 0 ∨ 64 < count ∨ addrOk i a count = false ∨ i.retryLevels < retryMax ∨ cws.length < count then respond b port tag 4 [] [] s
  else
    let rs := (List.range count).map (fun n => readReport retryMax soft (reports.getD n 0))
    let data := (List.range count).map (fun n =>
      let r := rs.getD n 0
      (r, if bitOf r 15 then [] else cws.getD n []))
    let bad := (rs.filter (fun r => bitOf r 15)).length
    let maxBits := (rs.filter (fun r => !bitOf r 15)).foldl (fun m r => max m (bitsOf r 10 0)) 0
    respond b port tag (if bad = 0 then 0 else 6) (packFields [(1, count - bad), (1, bad), (2, maxBits)]) data s

/-- A bridge fault that begins with a command (Table 10-9). -/
def beginFault (b : Nat) (fault : Bool) (s : State) : State :=
  if fault then modifyBridge b (fun x => { x with internalFault := true }) s else s

/-- DIE_READ (R249, R250). -/
def execDieRead (bridge port tag load addr count retryMax : Nat) (soft : Bool) (reports : List Nat) (fault : Bool) (s : State) :
    Host.Outcome State Fault Refusal :=
  .next (withFault bridge port tag load (dieRead bridge port tag addr count retryMax soft reports) (beginFault bridge fault s))

/-- Whether a port holds the lease at bridge time `now` (R254). -/
def holdsLease (b port now : Nat) (s : State) : Bool :=
  let x := bridgeAt b s
  x.owner == port && decide (now < x.expiry)

/-- DIE_PROGRAM: under the port's lease, from the block's first unprogrammed codeword, in units of four (R249, R254). Each unit is durable on
its own: of a program that fails after `done` units, those are programmed, the four codewords of the failed one are free bytes, and the rest
is not programmed. -/
def dieProgram (b port tag now a : Nat) (data : List Bytes) (done : Nat) (s : State) : State :=
  let i := bridgeIdent b
  let n := data.length
  let old := nandBlock b (cwDie a) (cwBlock a) s
  let key := nandKey (cwDie a) (cwBlock a)
  let write := fun (cws : List Bytes) (st : State) => modifyBridge b (fun x => { x with nand := insertAt key { cws := old ++ cws } x.nand }) st
  if !holdsLease b port now s then respond b port tag 5 [] [] s
  else if n < 4 ∨ 64 < n ∨ n % 4 ≠ 0 ∨ data.any (fun d => d.length != 4096) = true ∨ addrOk i a n = false ∨ old.length ≠ cwIndex a then
    respond b port tag 4 [] [] s
  else if n ≤ 4 * done then respond b port tag 0 (leBytes 1 n) [] (write data s)
  else
    let (bs, s1) := undefBytes (4 * 4096) s
    respond b port tag 6 (leBytes 1 (4 * done)) [] (write (data.take (4 * done) ++ (List.range 4).map (fun c => slice bs (4096 * c) 4096))
      (modifyBridge b (fun x => { x with grownBad := if x.grownBad.contains key then x.grownBad else x.grownBad ++ [key] }) s1))

/-- DIE_PROGRAM at bridge time `now`; `done` the program units that NAND takes before one fails (R249, R254). -/
def execDieProgram (bridge port tag load now addr : Nat) (data : List Bytes) (done : Nat) (fault : Bool) (s : State) :
    Host.Outcome State Fault Refusal :=
  .next (withFault bridge port tag load (dieProgram bridge port tag now addr data done) (beginFault bridge fault s))

/-- DIE_ERASE under the port's lease (R254). A failed erase leaves the block's content undefined. -/
def dieErase (b port tag now a us : Nat) (ok : Bool) (s : State) : State :=
  let key := nandKey (cwDie a) (cwBlock a)
  let old := nandBlock b (cwDie a) (cwBlock a) s
  if !holdsLease b port now s then respond b port tag 5 [] [] s
  else if addrOk (bridgeIdent b) a 1 = false ∨ cwIndex a ≠ 0 then respond b port tag 4 [] [] s
  else if ok then respond b port tag 0 (leBytes 4 us) [] (modifyBridge b (fun x => { x with nand := removeAt key x.nand }) s)
  else
    let (bs, s1) := undefBytes (4096 * old.length) s
    let junk := (List.range old.length).map (fun c => slice bs (4096 * c) 4096)
    respond b port tag 6 [] []
      (modifyBridge b (fun x => { x with nand := insertAt key { cws := junk } x.nand
                                         grownBad := if x.grownBad.contains key then x.grownBad else x.grownBad ++ [key] }) s1)

/-- DIE_ERASE at bridge time `now`: `us` the time it takes, `ok` whether it succeeds (R254). -/
def execDieErase (bridge port tag load now addr us : Nat) (ok fault : Bool) (s : State) : Host.Outcome State Fault Refusal :=
  .next (withFault bridge port tag load (dieErase bridge port tag now addr us ok) (beginFault bridge fault s))

/-- FENCE: it completes once every earlier command to the dies of DIE_MASK has finished; a bridge's commands finish in their own
steps, so none is left (R257). -/
def execFence (bridge port tag load _dieMask : Nat) (_bothPorts : Bool) (s : State) : Host.Outcome State Fault Refusal :=
  .next (withFault bridge port tag load (respond bridge port tag 0 [] []) s)

end Sys2Proof.Machine
end

