-- ==== Sys2Proof/Machine/Codec.lean ====
section
/-! DEFINITION. The codings the manual binds by pseudocode: the Voxca reference decoder (R160) and encoder (R162),
the content-defined chunker (R55) and the bale code (R205). -/

namespace Sys2Proof.Machine

/-! ## VX_STATUS (R159, Table 7-4) -/

/-- The code VX_OK. -/
def vxOk : Nat := 0
/-- The code VX_ILLEGAL_CODE. -/
def vxIllegalCode : Nat := 1
/-- The code VX_DISTANCE. -/
def vxDistance : Nat := 2
/-- The code VX_OVERRUN. -/
def vxOverrun : Nat := 3
/-- The code VX_UNDERRUN. -/
def vxUnderrun : Nat := 4
/-- The code VX_MISCOMPARE. -/
def vxMiscompare : Nat := 8
/-- The code VX_ABANDONED. -/
def vxAbandoned : Nat := 9

/-- VX_STATUS from its four fields (Table 7-4). -/
def vxStatus (code inOff outOff detail : Nat) : Nat :=
  code % 16 * 2 ^ 60 + inOff % 2 ^ 20 * 2 ^ 40 + outOff % 2 ^ 20 * 2 ^ 20 + detail % 2 ^ 20

/-- CODE of a VX_STATUS. -/
def vxCode (st : Nat) : Nat := st / 2 ^ 60 % 16

/-! ## The reference decoder (R160) -/

/-- A copy of `len` bytes from distance `dist`, byte by byte (R155). -/
def vxCopy (dist : Nat) : Nat → Bytes → Bytes
  | 0, out => out
  | n + 1, out => vxCopy dist n (out ++ [out.getD (out.length - dist) 0])

/-- What the decoder has after some tokens: input offset, output, phrase dictionary as (start, length). -/
structure VxState where
  ip : Nat
  out : Bytes
  phrases : List (Nat × Nat)
  deriving DecidableEq, Repr

/-- One token of the reference decoder: the state after it, or the VX_STATUS of the first check of R158 that fails. -/
def vxToken (inp : Bytes) (n : Nat) (s : VxState) : Except Nat VxState :=
  let m := inp.length
  let op := s.out.length
  let t := s.ip
  let c := (inp.getD t 0).toNat
  let b := fun i => (inp.getD (t + i) 0).toNat
  let literal := fun (ip len : Nat) =>
    if op + len > n then Except.error (vxStatus vxOverrun t op len)
    else if ip + len > m then Except.error (vxStatus vxOverrun t op 0)
    else Except.ok { s with ip := ip + len, out := s.out ++ slice inp ip len }
  let copy := fun (ip len dist : Nat) =>
    if dist > op then Except.error (vxStatus vxDistance t op dist)
    else if op + len > n then Except.error (vxStatus vxOverrun t op (min len 0xFFFFF))
    else
      let ph := if 8 ≤ len ∧ len ≤ 64 ∧ s.phrases.length < 4096 then s.phrases ++ [(op, len)] else s.phrases
      Except.ok { ip := ip, out := vxCopy dist len s.out, phrases := ph }
  let short := Except.error (vxStatus vxOverrun t op 0)
  if c < 0x40 then literal (t + 1) (c + 1)
  else if c = 0xE0 then
    if t + 3 > m then short else literal (t + 3) (b 1 + 256 * b 2 + 1)
  else if 0xC0 ≤ c ∧ c ≤ 0xCF then
    if t + 2 > m then short
    else
      let k := (c % 16) * 256 + b 1
      match s.phrases[k]? with
      | none => Except.error (vxStatus vxIllegalCode t op k)
      | some (start, len) =>
        if op + len > n then Except.error (vxStatus vxOverrun t op len)
        else Except.ok { s with ip := t + 2, out := s.out ++ slice s.out start len }
  else if c < 0x80 then
    if t + 2 > m then short else copy (t + 2) (c / 4 % 16 + 4) (c % 4 * 256 + b 1 + 1)
  else if c < 0xC0 then
    if t + 3 > m then short else copy (t + 3) (c % 64 + 4) (b 1 + 256 * b 2 + 1)
  else if c = 0xE1 then
    if t + 6 > m then short
    else copy (t + 6) (b 3 + 256 * b 4 + 65536 * b 5 + 4) (b 1 + 256 * b 2 + 1)
  else Except.error (vxStatus vxIllegalCode t op c)

/-- The token loop of the reference decoder up to a stop offset (R160, R167), with the output bytes before OUT_OFFSET.
Every token consumes a byte, so the stream's length bounds the number of turns. -/
def vxLoop (inp : Bytes) (n stop : Nat) : Nat → VxState → Nat × Bytes
  | 0, s => (vxStatus vxUnderrun inp.length s.out.length 0, s.out)
  | fuel + 1, s =>
    if s.out.length < stop then
      if s.ip ≥ inp.length then (vxStatus vxUnderrun inp.length s.out.length 0, s.out)
      else
        match vxToken inp n s with
        | .error st => (st, s.out)
        | .ok s' => vxLoop inp n stop fuel s'
    else if stop = n ∧ s.ip < inp.length then (vxStatus vxOverrun s.ip s.out.length 0, s.out)
    else (vxStatus vxOk 0 s.out.length 0, s.out)

/-- The header checks of R158: PLAIN_LEN, or the VX_STATUS of the first that fails. -/
def vxHeader (inp : Bytes) : Except Nat Nat :=
  if inp.length < 8 then .error (vxStatus vxOverrun 0 0 0)
  else if slice inp 0 2 ≠ [0x56#8, 0x58#8] then .error (vxStatus vxIllegalCode 0 0 0)
  else if inp.getD 2 0 ≠ 1#8 then .error (vxStatus vxIllegalCode 0 0 2)
  else
    let n := fieldAt inp 4 4
    if n = 0 ∨ n > 131072 then .error (vxStatus vxIllegalCode 0 0 4) else .ok n

/-- A decode up to stop offset `stop` (R167); `none` is a full decode, which behaves exactly as R160. -/
def vxDecodeTo (inp : Bytes) (stop : Option Nat) : Nat × Bytes :=
  match vxHeader inp with
  | .error st => (st, [])
  | .ok n => vxLoop inp n (min (stop.getD n) n) (inp.length + 1) ⟨8, [], []⟩

/-- The reference decoder: VX_STATUS and the output before OUT_OFFSET. -/
def vxDecode (inp : Bytes) : Nat × Bytes := vxDecodeTo inp none

/-! ## The reference encoder (R161, R162) -/

/-- Chain depth of a level (Table 7-5). -/
def vxDepth (level : Nat) : Nat := 2 ^ (level - 1)

/-- Whether a level matches lazily (Table 7-5). -/
def vxLazy (level : Nat) : Bool := decide (4 ≤ level)

/-- `hash4` of R162: 32-bit wrap, top 15 bits. -/
def vxHash (p : Bytes) (i : Nat) : Nat := fieldAt p i 4 * 0x9E3779B1 % 2 ^ 32 / 2 ^ 17

/-- A match: length, distance, and the phrase index where a phrase is meant. -/
structure VxMatch where
  len : Nat
  dist : Nat
  ph : Option Nat
  deriving DecidableEq, Repr

/-- The encoder's tables: chained positions with their hash, newest first; phrases in order; phrase heads, newest first. -/
structure VxTables where
  chain : List (Nat × Nat)
  phrases : List (Nat × Nat)
  phHead : List (Nat × Nat)
  deriving DecidableEq, Repr

/-- `insert` of R162. -/
def vxInsert (p : Bytes) (t : Nat) (tb : VxTables) : VxTables :=
  if t + 4 ≤ p.length then { tb with chain := (vxHash p t, t) :: tb.chain } else tb

/-- How many bytes of two strings agree from the front. -/
def commonPrefix : Bytes → Bytes → Nat
  | a :: as, b :: bs => if a = b then commonPrefix as bs + 1 else 0
  | _, _ => 0

/-- `copy_cost` of R162. -/
def vxCopyCost (m : VxMatch) : Nat :=
  if m.len ≤ 19 ∧ m.dist ≤ 1024 then 2 else if m.len ≤ 67 then 3 else 6

/-- The longest chained match at `i`, the first of equal length winning. -/
def vxChainMatch (p : Bytes) (depth i : Nat) (tb : VxTables) : VxMatch :=
  let h := vxHash p i
  let cands := (((tb.chain.filter (fun e => e.1 == h)).map (·.2)).takeWhile (fun j => decide (i - j ≤ 65536))).take depth
  cands.foldl (fun m j =>
    let l := commonPrefix (p.drop j) (p.drop i)
    if l > m.len then ⟨l, i - j, none⟩ else m) ⟨0, 0, none⟩

/-- `best_at` of R162. -/
def vxBest (p : Bytes) (depth i : Nat) (tb : VxTables) : VxMatch :=
  if i + 4 > p.length then ⟨0, 0, none⟩
  else
    let m0 := vxChainMatch p depth i tb
    let m := if m0.len < 4 then { m0 with len := 0 } else m0
    match lookup (vxHash p i / 8) tb.phHead with
    | none => m
    | some k =>
      let (start, len) := tb.phrases.getD k (0, 0)
      if len ≤ p.length - i ∧ slice p start len = slice p i len ∧
          (len > m.len ∨ (len = m.len ∧ vxCopyCost m > 2)) then ⟨len, 0, some k⟩
      else m

/-- The lazy loop of R162: the position, the match and the tables it leaves. -/
def vxLazyLoop (p : Bytes) (depth : Nat) : Nat → Nat → VxMatch → VxTables → Nat × VxMatch × VxTables
  | 0, i, m, tb => (i, m, tb)
  | fuel + 1, i, m, tb =>
    if 4 ≤ m.len ∧ m.len < 32 ∧ i + 1 < p.length then
      let m2 := vxBest p depth (i + 1) tb
      if m2.len ≤ m.len then (i, m, tb)
      else vxLazyLoop p depth fuel (i + 1) m2 (vxInsert p (i + 1) tb)
    else (i, m, tb)

/-- `flush` of R162: literal runs of p[a..b) in canonical forms. -/
def vxFlush (p : Bytes) : Nat → Nat → Nat → Bytes
  | 0, _, _ => []
  | fuel + 1, a, b =>
    if a < b then
      let r := min (b - a) 65536
      (if r ≤ 64 then leBytes 1 (r - 1) else 0xE0#8 :: leBytes 2 (r - 1)) ++ slice p a r
        ++ vxFlush p fuel (a + r) b
    else []

/-- The token of a match (R162). -/
def vxEmit (m : VxMatch) : Bytes :=
  match m.ph with
  | some k => leBytes 1 (0xC0 + k / 256) ++ leBytes 1 k
  | none =>
    let d := m.dist - 1
    let x := m.len - 4
    if vxCopyCost m = 2 then leBytes 1 (0x40 + 4 * x + d / 256) ++ leBytes 1 d
    else if m.len ≤ 67 then leBytes 1 (0x80 + x) ++ leBytes 2 d
    else 0xE1#8 :: (leBytes 2 d ++ leBytes 3 x)

/-- Inserts positions a, a+1, ... (`n` of them). -/
def vxInsertRun (p : Bytes) : Nat → Nat → VxTables → VxTables
  | 0, _, tb => tb
  | n + 1, a, tb => vxInsertRun p n (a + 1) (vxInsert p a tb)

/-- The main loop of R162 from position `i`, with pending literals from `ls`. -/
def vxEncodeLoop (p : Bytes) (depth : Nat) (lz : Bool) : Nat → Nat → Nat → VxTables → Bytes
  | 0, _, ls, _ => vxFlush p p.length ls p.length
  | fuel + 1, i0, ls, tb0 =>
    if i0 < p.length then
      let m0 := vxBest p depth i0 tb0
      let tb1 := vxInsert p i0 tb0
      let (i, m, tb2) := if lz then vxLazyLoop p depth p.length i0 m0 tb1 else (i0, m0, tb1)
      if m.len = 0 then vxEncodeLoop p depth lz fuel (i + 1) ls tb2
      else
        let tb3 :=
          if m.ph = none ∧ 8 ≤ m.len ∧ m.len ≤ 64 ∧ tb2.phrases.length < 4096 then
            { tb2 with phrases := tb2.phrases ++ [(i, m.len)],
                       phHead := (vxHash p i / 8, tb2.phrases.length) :: tb2.phHead }
          else tb2
        let tb4 := vxInsertRun p (m.len - 1) (i + 1) tb3
        vxFlush p p.length ls i ++ vxEmit m ++ vxEncodeLoop p depth lz fuel (i + m.len) (i + m.len) tb4
    else vxFlush p p.length ls p.length

/-- The header of a stream (Table 7-1). -/
def vxHeaderBytes (level n : Nat) : Bytes := [0x56#8, 0x58#8, 0x01#8] ++ leBytes 1 level ++ leBytes 4 n

/-- The reference encoder: the stream of a plaintext at a level (R162). -/
def vxEncode (level : Nat) (p : Bytes) : Bytes :=
  vxHeaderBytes level p.length ++ vxEncodeLoop p (vxDepth level) (vxLazy level) p.length 0 0 ⟨[], [], []⟩

/-- The abandonment limit of R163. -/
def vxLimit (n : Nat) : Nat := 97 * n / 100

/-! ## The content-defined chunker (R55) -/

/-- gear[i] of R55: bytes 0 to 7 of the digest of the single-byte message i. -/
def gear (i : Byte) : Nat := fieldAt (sha256 [i]) 0 8

/-- The cut loop of R55 over the bytes that remain. -/
def nextCutLoop : Bytes → Nat → BitVec 64 → Nat
  | [], i, _ => i
  | b :: bs, i, h0 =>
    let h := (h0 <<< 1) + BitVec.ofNat 64 (gear b)
    if i + 1 < 8192 then nextCutLoop bs (i + 1) h
    else
      let mask := if i + 1 < 32768 then 0x0000D9F303530000#64 else 0x0000D93003530000#64
      if h &&& mask = 0 then i + 1 else nextCutLoop bs (i + 1) h

/-- The length of the next chunk of an object (R55). -/
def nextCut (p : Bytes) : Nat :=
  if p.length ≤ 8192 then p.length else nextCutLoop (p.take 131072) 0 0

/-- Cuts an object's bytes into chunks (R55). -/
def cutAll : Nat → Bytes → List Bytes
  | 0, _ => []
  | fuel + 1, p =>
    if p.isEmpty then [] else p.take (nextCut p) :: cutAll fuel (p.drop (nextCut p))

/-! ## The bale code (R205) -/

/-- `gf_mul` of R205: product modulo 0x11D. -/
def gfMul (a b : Byte) : Byte :=
  ((List.range 8).foldl (fun (acc : Byte × Byte) i =>
    ((if b.getLsbD i then acc.1 ^^^ acc.2 else acc.1),
     (if acc.2.getLsbD 7 then (acc.2 <<< 1) ^^^ 0x1D#8 else acc.2 <<< 1))) (0, a)).1

/-- `gf_inv` of R205: x^254. -/
def gfInv (x : Byte) : Byte := (List.range 254).foldl (fun r _ => gfMul r x) 1

/-- Byte t of parity plot j over data plots of the same length (R205). -/
def parityByte (m j : Nat) (data : List Byte) : Byte :=
  (List.range data.length).foldl
    (fun s i => s ^^^ gfMul (gfInv (BitVec.ofNat 8 (j ^^^ (m + i)))) (data.getD i 0)) 0

/-- Parity plot j of a bale (R205). -/
def parityPlot (m j len : Nat) (plots : List Bytes) : Bytes :=
  (List.range len).map (fun t => parityByte m j (plots.map (fun p => p.getD t 0)))

/-- Where plot p of bale j rests in its acre: the block index (R204). -/
def plotBlock (k m p j : Nat) : Nat := (p + j) % (k + m)

/-- The byte offset of bale j in every block of its acre (R204). -/
def plotOffset (j : Nat) : Nat := 262144 * j

end Sys2Proof.Machine
end

