-- ==== Sys2Proof/Machine/Buffers.lean ====
section
/-! DEFINITION. The addressed memories, and the Granary operations on buffers (17, 18): reading and writing bytes,
handles and headers, allocation, sharing, release and free lists. -/

namespace Sys2Proof.Machine

/-! ## Addressed memory: (address, byte) pairs with strictly rising addresses -/

/-- The canonical form: addresses strictly rising. -/
def Memory.wf : Memory → Bool
  | [] => true
  | [_] => true
  | a :: b :: rest => decide (a.1 < b.1) && Memory.wf (b :: rest)

/-- The byte at an address; none where nothing has been written, and the content is undefined. -/
def memRead (a : Nat) : Memory → Option Byte
  | [] => none
  | (k, v) :: rest => if k = a then some v else if a < k then none else memRead a rest

/-- Writes a byte, keeping the order of addresses. -/
def memWrite (a : Nat) (b : Byte) : Memory → Memory
  | [] => [(a, b)]
  | (k, v) :: rest =>
    if a < k then (a, b) :: (k, v) :: rest
    else if a = k then (a, b) :: rest
    else (k, v) :: memWrite a b rest

/-- Writes bytes at consecutive addresses. -/
def memWriteBytes (a : Nat) : Bytes → Memory → Memory
  | [], m => m
  | b :: bs, m => memWriteBytes (a + 1) bs (memWrite a b m)

/-- Forgets a range: its content is undefined from then on. -/
def memErase (a len : Nat) (m : Memory) : Memory := m.filter (fun c => decide (c.1 < a) || decide (a + len ≤ c.1))

/-- The bytes of a range as far as they are defined. -/
def memRange (a len : Nat) (m : Memory) : List (Option Byte) := (List.range len).map (fun i => memRead (a + i) m)

/-- Bytes with each undefined one replaced by a free value counted from `free`. -/
def fillFree (free : Nat) (bs : List (Option Byte)) : Bytes :=
  (List.range bs.length).map (fun i => ((bs.getD i none).getD (Config.freeByte (free + i))))

/-- Reads near store; undefined bytes are free values. -/
def nearRead (a len : Nat) (s : State) : Bytes × State :=
  (fillFree s.freeCount (memRange a len s.mem.near), { s with freeCount := s.freeCount + len })

/-- Writes near store. -/
def nearWrite (a : Nat) (bs : Bytes) (s : State) : State :=
  { s with mem := { s.mem with near := memWriteBytes a bs s.mem.near } }

/-- Bytes of near store left by the pseudo-channels mapped out: 3 GiB each (R416). -/
def nearBytes (s : State) : Nat := (96 - 3 * s.mem.mappedOut) * 2 ^ 30

/-- The near-store address where region `n` of Table 17-2 starts. -/
def regionBase (n : Nat) (s : State) : Nat := ((s.mem.partition.take n).sum) * 2 ^ 30

/-! ## Handles and headers (R444, R445) -/

/-- POOL of a handle. -/
def hPool (h : Nat) : Nat := bitsOf h 31 29
/-- INDEX of a handle. -/
def hIndex (h : Nat) : Nat := bitsOf h 28 8
/-- GEN of a handle. -/
def hGen (h : Nat) : Nat := h % 256

/-- A handle from its fields (Table 18-2). -/
def mkHandle (pool index gen : Nat) : Nat := pool * 2 ^ 29 + index % 2 ^ 21 * 2 ^ 8 + gen % 256

/-- The null handle (R444). -/
def nullHandle : Nat := 0xFFFFFFFF

/-- Buffer size of a pool (Table 18-1). -/
def poolSize (pool : Nat) : Nat := 256 * 4 ^ pool

/-- The smallest pool whose size is at least the length (R443). -/
def poolFor (len : Nat) : Option Nat :=
  if len = 0 then none else firstIndex 8 (fun n => decide (len ≤ poolSize n))

/-- A header at reset (Table 18-3). -/
def resetHeader : GHeader := { refcount := 0, gen := 0, owner := 0x3F, share := 0, prov := none }

/-- The key of a header. -/
def headerKey (pool index : Nat) : Nat := pool * 2 ^ 21 + index

/-- The header of a buffer. -/
def gHeader (pool index : Nat) (s : State) : GHeader := lookupD (headerKey pool index) s.granary.headers resetHeader

/-- Sets the header of a buffer. -/
def setGHeader (pool index : Nat) (h : GHeader) (s : State) : State :=
  { s with granary := { s.granary with headers := insertAt (headerKey pool index) h s.granary.headers } }

/-- The header word (Table 18-3). -/
def headerWord (h : GHeader) : Nat :=
  let e := h.prov.getD ⟨0, 0, 0⟩
  h.refcount % 2 ^ 16 * 2 ^ 48 + h.gen % 2 ^ 8 * 2 ^ 40 + h.owner % 2 ^ 6 * 2 ^ 34 + h.share.toNat * 2 ^ 28
    + flagBit h.prov.isSome * 2 ^ 27 + e.harrow % 2 ^ 5 * 2 ^ 22 + e.entry % 2 ^ 10 * 2 ^ 12 + e.gen % 2 ^ 12

/-- The class bit of a unit code (Table 18-4). -/
def unitClass (unit : Nat) : Option Nat :=
  if unit < 0x20 then some 0 else if unit < 0x24 then some 1 else if unit < 0x28 then some 2
  else if unit < 0x2C then some 3 else if unit = 0x2C then some 4 else if unit = 0x2D then some 5 else none

/-- Whether a unit's class bit is in SHARE. -/
def classShared (unit : Nat) (h : GHeader) : Bool :=
  match unitClass unit with
  | some c => h.share.getLsbD c
  | none => false

/-- The free list of an arena and pool. -/
def gList (arena pool : Nat) (s : State) : GList := s.granary.lists.getD (8 * arena + pool) (freshList 0 0)

/-- Changes the free list of an arena and pool. -/
def modifyList (arena pool : Nat) (f : GList → GList) (s : State) : State :=
  { s with granary := { s.granary with lists := modifyNth f (8 * arena + pool) s.granary.lists } }

/-- The arena that holds an index of a pool, if the pool has the index (R441). -/
def arenaOf (pool index : Nat) (s : State) : Option Nat :=
  firstIndex 3 (fun a => decide ((gList a pool s).base ≤ index) && decide (index < (gList a pool s).base + (gList a pool s).count))

/-- Bytes of a list's buffers. -/
def listBytes (arena pool : Nat) (s : State) : Nat := (gList arena pool s).count * poolSize pool

/-- Where an arena starts in near store (R441). -/
def arenaBase (arena : Nat) (s : State) : Nat :=
  match arena with
  | 0 => 0
  | 1 => regionBase 1 s
  | _ => regionBase 4 s + 384 * 2 ^ 20

/-- The near-store address of a buffer (R441). -/
def bufferAddr (arena pool index : Nat) (s : State) : Nat :=
  arenaBase arena s + ((List.range pool).map (fun p => listBytes arena p s)).sum
    + (index - (gList arena pool s).base) * poolSize pool

/-- The near-store address a handle names, whatever its generation. -/
def handleAddr (h : Nat) (s : State) : Option Nat :=
  (arenaOf (hPool h) (hIndex h) s).map (fun a => bufferAddr a (hPool h) (hIndex h) s)

/-! ## Free lists (R450, R451, R456) -/

/-- FREE_NOW of a list. -/
def freeNow (l : GList) : Nat := l.stack.length + (l.count - l.fresh)

/-- Whether a list is LOW under a reserve in % (R456). -/
def listLow (reserve : Nat) (l : GList) : Bool := decide (freeNow l * 100 < reserve * l.count)

/-- Notes FREE_MIN and the entry into LOW after a change (R456, R458). -/
def noteLevel (reserve : Nat) (l : GList) : GList :=
  let low := listLow reserve l
  { l with freeMin := min l.freeMin (freeNow l), low := low,
           lowEntries := if low ∧ ¬ l.low then bump l.lowEntries else l.lowEntries }

/-- Takes the head of a list: the newest freed index, else the next never-used one (R450). -/
def popList (l : GList) : Option (Nat × GList) :=
  match l.stack with
  | i :: rest => some (i, { l with stack := rest })
  | [] => if l.fresh < l.count then some (l.base + l.fresh, { l with fresh := l.fresh + 1 }) else none

/-- GRANARY_RESERVE in effect. -/
def granaryReserve (s : State) : Nat := paramNat 0x1200 0 s

/-! ## Epoch entries (R123) -/

/-- A harrow by number. -/
def harrowAt (h : Nat) (s : State) : Harrow := s.tines.harrows.getD h resetHarrow

/-- The entry that a reference names, while its generation stands. -/
def epochEntry (e : EpochRef) (s : State) : Option EpochEntry :=
  ((lookup e.entry (harrowAt e.harrow s).epochs)).bind (fun x => if x.gen = e.gen then some x else none)

/-- The state of the epoch a reference names; an entry that has moved on counts as FREE. -/
def epochState (e : EpochRef) (s : State) : EpochState := ((epochEntry e s).map (·.state)).getD .free

/-! ## Allocation (R447, R453, R457) -/

/-- Adds a handle to the handle list of an epoch entry (R453). -/
def addEpochHandle (e : EpochRef) (h : Nat) (s : State) : State :=
  { s with tines := { s.tines with harrows := modifyNth (fun hw =>
      { hw with epochs := hw.epochs.map (fun x =>
          if x.1 = e.entry ∧ x.2.gen = e.gen then (x.1, { x.2 with handles := x.2.handles ++ [h] }) else x) }) e.harrow s.tines.harrows } }

/-- Gives the head of a list to a unit: GEN advances, REFCOUNT 1, OWNER and SHARE set, PROV for provisional work; the
content is undefined (R443, R447, R453). -/
def takeBuffer (arena pool unit : Nat) (epoch : Option EpochRef) (s : State) : Option Nat × State :=
  match popList (gList arena pool s) with
  | none => (none, s)
  | some (i, l) =>
    let hd := gHeader pool i s
    let gen := (hd.gen + 1) % 256
    let h := mkHandle pool i gen
    let s1 := modifyList arena pool (fun _ => noteLevel (granaryReserve s) { l with allocs := bump l.allocs }) s
    let s2 := setGHeader pool i { refcount := 1, gen := gen, owner := unit, share := 0, prov := epoch } s1
    let s3 := { s2 with mem := { s2.mem with near := memErase (bufferAddr arena pool i s) (poolSize pool) s2.mem.near } }
    (some h, match epoch with
      | some e => addEpochHandle e h s3
      | none => s3)

/-- Gives each buffer of a list to the oldest waiting allocation, while the list has one (R457). -/
def serveWaiters (arena pool : Nat) : Nat → State → State
  | 0, s => s
  | fuel + 1, s =>
    let l := gList arena pool s
    match l.waiters with
    | [] => s
    | w :: rest =>
      if l.cut ∨ freeNow l = 0 then s
      else
        let s1 := modifyList arena pool (fun l => { l with waiters := rest }) s
        match takeBuffer arena pool w.unit w.epoch s1 with
        | (some h, s2) => serveWaiters arena pool fuel (emit (.granaryHandle w.unit h) s2)
        | (none, s2) => s2

/-- Puts an allocation at the end of its list's waiters (R457). -/
def waitFor (arena pool unit len : Nat) (epoch : Option EpochRef) (s : State) : State :=
  emit (.granaryOutcome unit 8)
    (modifyList arena pool (fun l =>
      { l with waits := bump l.waits
               waiters := l.waiters ++ [{ unit := unit, epoch := epoch, len := len, since := s.time.ticks, long := false }] }) s)

/-- An Almanac record of a Granary outcome: outcome, handle, unit, header (Table 22-2). -/
def granaryRecord (outcome handle unit : Nat) (hd : GHeader) (s : State) : State :=
  almanac 0x0107 (packFields [(1, outcome), (4, handle), (1, unit), (8, headerWord hd)]) s

/-- Cuts a list whose link fails its check: counted, recorded, and out of service until it is rebuilt (R451). -/
def cutList (arena pool unit : Nat) (s : State) : State :=
  let l := gList arena pool s
  let i := (l.stack.head?).getD (l.base + l.fresh)
  let hd := gHeader pool i s
  granaryRecord 6 (mkHandle pool i hd.gen) unit hd
    (modifyList arena pool (fun l => { l with cut := true, listCuts := bump l.listCuts }) s)

/-- The epoch for which an allocation is provisional: one that is OPEN; a COMMITTED epoch's work is real (Table 5-8). -/
def provisionalFor (epoch : Option EpochRef) (s : State) : Option EpochRef := epoch.filter (fun e => epochState e s == .opened)

/-- Whether the test of a ticket's epoch finds it dead: squashed, or gone with its generation (R115). -/
def epochDead (epoch : Option EpochRef) (s : State) : Bool :=
  (epoch.map (fun e => epochState e s == .squashed || epochState e s == .free)).getD false

/-- An allocation: from the smallest fitting pool of its arena; refused to provisional work while the list is LOW; waiting
while the list is empty or cut (R443, R451, R456, R457). The handle is none where it is refused or waits, and where the test of its epoch ends
its ticket (R115). -/
def gAlloc (unit : Nat) (work : Option EpochRef) (arena len : Nat) (badLink : Bool) (s : State) : Option Nat × State :=
  let epoch := provisionalFor work s
  match poolFor len with
  | none => (none, emit (.granaryOutcome unit 9) s)
  | some pool =>
    let l := gList arena pool s
    if epochDead work s then (none, emit (.granaryOutcome unit 10) s)
    else if epoch.isSome ∧ listLow (granaryReserve s) l = true then (none, emit (.granaryOutcome unit 9) s)
    else if badLink ∧ ¬ l.cut then (none, waitFor arena pool unit len epoch (cutList arena pool unit s))
    else if l.cut = true ∨ freeNow l = 0 ∨ l.waiters ≠ [] then (none, waitFor arena pool unit len epoch s)
    else
      match takeBuffer arena pool unit epoch s with
      | (some h, s1) => (some h, emit (.granaryHandle unit h) s1)
      | (none, s1) => (none, s1)

/-! ## Release and share (R447-R449, R455) -/

/-- Check 1 of Table 18-5: an invalid INDEX or another generation. -/
def isStale (h : Nat) (s : State) : Bool :=
  (arenaOf (hPool h) (hIndex h) s).isNone || (gHeader (hPool h) (hIndex h) s).gen != hGen h

/-- Check 2 of Table 18-5: neither the owner nor of a class in SHARE. -/
def isForeign (unit h : Nat) (s : State) : Bool :=
  let hd := gHeader (hPool h) (hIndex h) s
  hd.owner != unit && !classShared unit hd

/-- Whether a header names the squashed epoch a ticket belongs to, with its generation cut to 12 bits (Tables 18-3 and 18-5). -/
def namesEpoch (hd : GHeader) (ticket : Option EpochRef) (s : State) : Bool :=
  match hd.prov, ticket with
  | some e, some t => e.harrow == t.harrow && e.entry == t.entry && e.gen % 4096 == t.gen % 4096 && epochDead ticket s
  | _, _ => false

/-- The outcome of a release (Table 18-5), from 1 GR_STALE to 5 GR_OK. -/
def releaseOutcome (unit h : Nat) (ticket : Option EpochRef) (s : State) : Nat :=
  let hd := gHeader (hPool h) (hIndex h) s
  if isStale h s then 1
  else if isForeign unit h s then 2
  else if hd.refcount = 0 ∧ namesEpoch hd ticket s = true then 3
  else if hd.refcount = 0 then 4
  else 5

/-- The free-list words of a buffer: NEXT, SELF, CHECK (Table 18-6). -/
def listWords (pool index next : Nat) : Bytes :=
  let h := packFields [(4, next), (4, pool * 2 ^ 21 + index)]
  h ++ leBytes 4 (crc32c h) ++ zeros 4

/-- The index at the head of a list; 0x1F_FFFF where it has none. -/
def listHead (l : GList) : Nat := (l.stack.head?).getD (if l.fresh < l.count then l.base + l.fresh else 0x1FFFFF)

/-- Puts a freed buffer at the head of its list, its link in its first bytes, and serves the oldest waiter from it (R447, R450, R457). -/
def freeBuffer (pool index : Nat) (s : State) : State :=
  match arenaOf pool index s with
  | none => s
  | some arena =>
    let link := listWords pool index (listHead (gList arena pool s))
    serveWaiters arena pool 1
      (modifyList arena pool (fun l => noteLevel (granaryReserve s) { l with stack := index :: l.stack })
        (nearWrite (bufferAddr arena pool index s) link s))

/-- The list a handle's counters belong to; an invalid INDEX counts in its pool's work arena. -/
def counterList (h : Nat) (s : State) : Nat := (arenaOf (hPool h) (hIndex h) s).getD 2

/-- RELEASE: the outcome and the state after it (R448). -/
def gRelease (unit h : Nat) (ticket : Option EpochRef) (s : State) : Nat × State :=
  let pool := hPool h
  let index := hIndex h
  let hd := gHeader pool index s
  let arena := counterList h s
  let out := releaseOutcome unit h ticket s
  match out with
  | 1 => (1, granaryRecord 1 h unit hd (modifyList arena pool (fun l => { l with staleReleases := bump l.staleReleases }) s))
  | 2 => (2, granaryRecord 2 h unit hd (modifyList arena pool (fun l => { l with foreignReleases := bump l.foreignReleases }) s))
  | 3 => (3, modifyList arena pool (fun l => { l with squashLate := bump l.squashLate }) s)
  | 4 => (4, granaryRecord 4 h unit hd (modifyList arena pool (fun l => { l with doubleReleases := bump l.doubleReleases }) s))
  | _ =>
    let s1 := setGHeader pool index { hd with refcount := hd.refcount - 1 } s
    if hd.refcount = 1 then
      (5, freeBuffer pool index (modifyList arena pool (fun l => { l with frees := bump l.frees }) s1))
    else (5, s1)

/-- Releases every handle of a list as one unit. -/
def releaseAll (unit : Nat) (ticket : Option EpochRef) (hs : List Nat) (s : State) : State :=
  hs.foldl (fun st h => (gRelease unit h ticket st).2) s

/-- Frees a buffer of a squashed epoch that is still allocated, whatever its count (R455). -/
def squashFree (h : Nat) (s : State) : State :=
  let hd := gHeader (hPool h) (hIndex h) s
  if isStale h s ∨ hd.refcount = 0 then s
  else
    freeBuffer (hPool h) (hIndex h)
      (modifyList (counterList h s) (hPool h) (fun l => { l with squashFrees := bump l.squashFrees })
        (setGHeader (hPool h) (hIndex h) { hd with refcount := 0 } s))

/-- Makes the buffers of a committed epoch real: PROV is cleared (R454). -/
def clearProv (hs : List Nat) (s : State) : State :=
  hs.foldl (fun st h =>
    let hd := gHeader (hPool h) (hIndex h) st
    if isStale h st then st else setGHeader (hPool h) (hIndex h) { hd with prov := none } st) s

/-- The size of the buffer a handle names. -/
def handleSize (h : Nat) : Nat := poolSize (hPool h)

/-- Reads a buffer's bytes from an offset; undefined bytes are free values (R443). -/
def bufferRead (h off len : Nat) (s : State) : Bytes × State :=
  match handleAddr h s with
  | some a => nearRead (a + off) len s
  | none => undefBytes len s

/-- Writes a buffer's bytes at an offset. -/
def bufferPut (h off : Nat) (bs : Bytes) (s : State) : State :=
  match handleAddr h s with
  | some a => nearWrite (a + off) bs s
  | none => s

end Sys2Proof.Machine
end

