-- ==== Sys2Proof/Machine/Complexes.lean ====
section
/-! DEFINITION. The cipher complexes (08): cores and pairs, request queues, forwarding, and the end of a request. -/

namespace Sys2Proof.Machine

/-! ## Cores and complexes (R171-R174) -/

/-- Changes the cipher part. -/
def modifyCipher (f : CipherPart → CipherPart) (s : State) : State := { s with cipher := f s.cipher }

/-- Whether a core is in service. -/
def coreInService (c : Nat) (s : State) : Bool := ((s.cipher.cores[c]?).map (fun x => !x.quarantined)).getD false

/-- In-service cores of a complex. -/
def inServiceCores (q : Nat) (s : State) : Nat := ((List.range 16).filter (fun c => coreInService (16 * q + c) s)).length

/-- Whether a core works on a granted request. -/
def coreBusy (c : Nat) (s : State) : Bool :=
  s.cipher.jobs.any (fun j => match j.pair with
    | some (a, b) => a == c || b == c
    | none => false)

/-- Whether a complex takes requests: not quiesced, its quadrant not parked, two in-service cores at least (R174). -/
def complexUsable (q : Nat) (s : State) : Bool :=
  !isQuiesced (0x20 + q) s && !(s.time.pace.getD q resetPace).parked && decide (2 ≤ inServiceCores q s)

/-- The first complex from `q` on, around the chip, that takes requests. -/
def routeFrom (q : Nat) (s : State) : Option Nat :=
  ([0, 1, 2, 3].map (fun d => (q + d) % 4)).find? (fun c => complexUsable c s)

/-- Changes the counters of a complex. -/
def countComplex (q : Nat) (f : CipherComplex → CipherComplex) (s : State) : State :=
  modifyCipher (fun c => { c with complexes := modifyNth f q c.complexes }) s

/-- The first two cores of a complex that `may` be taken, from one past the core most recently granted (R172). Core numbers are
chip-wide. -/
def pairAmong (q : Nat) (may : Nat → Bool) (s : State) : Option (Nat × Nat) :=
  let last := ((s.cipher.complexes[q]?).map (·.lastCore)).getD 15
  match ((List.range 16).map (fun i => 16 * q + (last + 1 + i) % 16)).filter may with
  | a :: b :: _ => some (a, b)
  | _ => none

/-- The first two idle in-service cores of a complex; `avoid` are cores a repeat stays off (R172, R181). -/
def nextPair (q : Nat) (avoid : List Nat) (s : State) : Option (Nat × Nat) :=
  pairAmong q (fun c => coreInService c s && !coreBusy c s && !avoid.contains c) s

/-- Notes a grant: the rotation, and the class of the request among the last 15 grants (R172, R173). -/
def notePairGrant (q : Nat) (last : Nat) (latency : Bool) (s : State) : State :=
  countComplex q (fun x => { x with lastCore := last % 16, grants := ((!latency) :: x.grants).take 15 }) s

/-- Whether BULK is due: fewer than CIPHER_BULK_SHARE of the last 15 grants went to it (R173; DESIGN CHOICE 11). -/
def bulkDue (q : Nat) (s : State) : Bool :=
  let g := (((s.cipher.complexes[q]?).map (·.grants)).getD []).take 15
  decide ((g.filter (fun b => b)).length < paramNat 0x0800 q s)

/-- Entries of a complex's request queue of a class (R173). -/
def queueRoom (latency : Bool) : Nat := if latency then 256 else 1024

/-- The requests of a class that a complex's queue holds; those beyond its entries wait at their tines until an entry frees (R173). -/
def classQueue (q : Nat) (latency : Bool) (s : State) : List CipherJob :=
  (s.cipher.jobs.filter (fun j => j.complex == q && j.pair.isNone && j.op != .hmac && j.req.latency == latency)).take (queueRoom latency)

/-- The queued request a complex serves next (R173). -/
def nextRequest (q : Nat) (s : State) : Option CipherJob :=
  let bulk := (classQueue q false s).head?
  let lat := (classQueue q true s).head?
  if bulkDue q s then bulk.orElse (fun _ => lat) else lat.orElse (fun _ => bulk)

/-- Cores a repeat avoids where it runs on the complex of the faulted pair (R181). -/
def avoidCores (j : CipherJob) : List Nat :=
  match j.repeats with
  | some (a, b) => [a, b]
  | none => []

/-- Whether a complex has a pair in service that shares no core with a faulted one (R181). -/
def hasOther (q : Nat) (avoid : List Nat) (s : State) : Bool :=
  decide (2 ≤ ((List.range 16).filter (fun c => coreInService (16 * q + c) s && !avoid.contains (16 * q + c))).length)

/-- Grants a pair to the next request of a complex, where there is one. A repeat stays off the faulted cores where the complex has others
in service, and waits until two of these are idle (R181). -/
def grantOne (q : Nat) (s : State) : State :=
  match nextRequest q s with
  | none => s
  | some j =>
    match nextPair q (if hasOther q (avoidCores j) s then avoidCores j else []) s with
    | none => s
    | some (a, b) =>
      notePairGrant q b j.req.latency
        (modifyCipher (fun c => { c with jobs := mapIf (fun x => x.id == j.id) (fun x => { x with pair := some (a, b) }) c.jobs }) s)

/-- FORWARDED of each complex that a request passes, from `q` on, `n` of them (R174, R202). -/
def countPassed (q n : Nat) (s : State) : State :=
  (List.range n).foldl (fun st d => countComplex ((q + d) % 4) (fun c => { c with forwarded := bump c.forwarded }) st) s

/-- Sends a request that waits at a complex that cannot take it to the next that can (R174). -/
def rerouteJob (s : State) (j : CipherJob) : State :=
  if j.pair.isSome ∨ j.op = .hmac ∨ complexUsable j.complex s = true then s
  else
    match routeFrom (j.complex % 4) s with
    | none => s
    | some c =>
      countPassed (j.complex % 4) ((c + 4 - j.complex % 4) % 4)
        (modifyCipher (fun x => { x with jobs := mapIf (fun y => y.id == j.id) (fun y => { y with complex := c }) x.jobs }) s)

/-- Sends waiting requests on to a complex that can take them, and grants every pair that can be granted: at most eight a complex. -/
def cipherSchedule (s : State) : State :=
  [0, 1, 2, 3].foldl (fun st q => (List.range 8).foldl (fun st2 _ => grantOne q st2) st) (s.cipher.jobs.foldl rerouteJob s)

/-! ## The end of a request (R176-R179) -/

/-- Output bytes of an operation. -/
def cipherOutLen (op : CipherOp) (len : Nat) : Nat :=
  match op with
  | .gcmEncrypt => len + 16
  | .gcmDecrypt => len
  | .hmac => 32

/-- Completion word (Table 8-2). -/
def cipherWord (status : Status) (a b len : Nat) : Nat :=
  status.toNat * 2 ^ 48 + a % 64 * 2 ^ 42 + b % 64 * 2 ^ 36 + len % 2 ^ 32

/-- Makes the output range of a request undefined (Table 8-4). -/
def withholdDst (j : CipherJob) (s : State) : State :=
  match handleAddr j.req.dst s with
  | some a => { s with mem := { s.mem with near := memErase a (cipherOutLen j.op j.req.len) s.mem.near } }
  | none => s

/-- Takes a job out. -/
def dropJob (j : CipherJob) (s : State) : State :=
  modifyCipher (fun c => { c with jobs := c.jobs.filter (fun x => x.id != j.id) }) s

/-- Ends a job with its completion word (R176); its cores are undefined where it has used none. -/
def finishJob (j : CipherJob) (status : Status) (len : Nat) (s : State) : State :=
  match j.pair with
  | some (a, b) => emit (.cipherDone j.id (cipherWord status a b len)) (dropJob j s)
  | none =>
    let (u, s1) := undefNat s
    emit (.cipherDone j.id (cipherWord status (u % 64) (u / 64) len)) (dropJob j s1)

/-- Ends requests, queued or running, with ST_ABORTED; what a running one was writing is withheld (R177). -/
def abortJobs (which : CipherJob → Bool) (s : State) : State :=
  cipherSchedule ((s.cipher.jobs.filter which).foldl (fun st j => finishJob j stAborted 0 (withholdDst j st)) s)

/-! ## Faults (R180-R182) -/

/-- One mismatch against a core; three quarantine it (R180). -/
def coreMismatch (c : Nat) (s : State) : State :=
  let k := s.cipher.cores.getD c ⟨0, false⟩
  let n := k.mismatches + 1
  let s1 := modifyCipher (fun x => { x with cores := x.cores.set c ⟨n, k.quarantined || decide (3 ≤ n)⟩ }) s
  if 3 ≤ n ∧ k.quarantined = false then
    healthRecord 0x0106 (packFields [(1, 3), (2, c), (1, 1), (8, 0), (8, 0)]) s1
  else s1

/-- The first complex after `q` that can take a repeat, else `q` itself (R181). -/
def repeatComplex (q : Nat) (s : State) : Nat :=
  (([1, 2, 3].map (fun d => (q + d) % 4)).find? (fun c => complexUsable c s)).getD q

/-- OP code of Table 8-3. -/
def opCode (op : CipherOp) : Nat :=
  match op with
  | .gcmEncrypt => 1 | .gcmDecrypt => 2 | .hmac => 3

/-- Counts an ST_CIPHER_FAULT: against the complex, the 1 s window, and each core of the pair (R180, R182, R202). -/
def noteFault (q : Nat) (pair : Option (Nat × Nat)) (s : State) : State :=
  let now := s.time.ticks
  let s0 := modifyCipher (fun c => { c with faultTicks := now :: c.faultTicks.filter (fun t => decide (now < t + sTicks 1)) })
    (countComplex q (fun c => { c with cipherFaults := bump c.cipherFaults }) s)
  match pair with
  | some (a, b) => coreMismatch b (coreMismatch a s0)
  | none => s0

/-! ## Work of the head that ends within its step -/

/-- One run of a request on a complex: REQUESTS counted, a pair granted, cores that are busy being waited for within the step; a fault
counts against the complex and the pair (R172, R180, R202). -/
def cipherAttempt (q : Nat) (latency : Bool) (avoid : List Nat) (fault : Bool) (s : State) : Option (Nat × Nat) × State :=
  let s1 := countComplex q (fun c => { c with requests := bump c.requests }) s
  let pair := (nextPair q avoid s1).orElse (fun _ => pairAmong q (fun c => coreInService c s1 && !avoid.contains c) s1)
  let s2 := match pair with
    | some (_, b) => notePairGrant q b latency s1
    | none => s1
  (pair, if fault then noteFault q pair s2 else s2)

/-- Both cores of a pair. -/
def pairCores (p : Option (Nat × Nat)) : List Nat :=
  match p with
  | some (a, b) => [a, b]
  | none => []

/-- The cipher work of a read, a chunk store, a relocation or a replication frame, from quadrant `q` on: on the first complex that can take
it (R174), repeated once on another where the first of `faults` runs ends with ST_CIPHER_FAULT (R99, R181). Whether it ends released, and
on which complex; after a second fault a CIPHER record is written. None where no complex can take it: it waits. -/
def cipherRun (q : Nat) (latency : Bool) (op : CipherOp) (slot faults : Nat) (s : State) : Option (Bool × Nat) × State :=
  match routeFrom (q % 4) s with
  | none => (none, s)
  | some c =>
    let (p1, s1) := cipherAttempt c latency [] (decide (0 < faults)) (countPassed (q % 4) ((c + 4 - q % 4) % 4) s)
    if faults = 0 then (some (true, c), s1)
    else
      let c2 := repeatComplex c s1
      let avoid := if c2 = c ∧ hasOther c (pairCores p1) s1 = true then pairCores p1 else []
      let (p2, s2) := cipherAttempt c2 latency avoid (decide (1 < faults)) s1
      if faults = 1 then (some (true, c2), s2)
      else
        let (a, b) := p2.getD (0, 0)
        (some (false, c2), almanac 0x0302 (packFields [(1, c2), (1, a), (1, b), (1, opCode op), (2, slot)]) s2)

/-- Counts the bytes that a run has released (R202). -/
def countReleased (q len : Nat) (s : State) : State := countComplex q (fun c => { c with bytes := bump c.bytes len }) s

end Sys2Proof.Machine
end

