-- ==== Sys2Proof/Machine/TicketOps.lean ====
section
/-! DEFINITION. Tickets, queues and provisional epochs (05): queueing and spilling, eligibility, running and ending a
ticket, and the decision of an epoch. -/

namespace Sys2Proof.Machine

/-! ## Harrows and epoch entries -/

/-- Changes a harrow. -/
def modifyHarrow (h : Nat) (f : Harrow → Harrow) (s : State) : State :=
  { s with tines := { s.tines with harrows := modifyNth f h s.tines.harrows } }

/-- The home harrow of a tine (R21). -/
def tineHarrow (tine : Nat) : Nat := tine / 16

/-- Changes the entry that a reference names. -/
def modifyEpoch (e : EpochRef) (f : EpochEntry → EpochEntry) (s : State) : State :=
  modifyHarrow e.harrow (fun h =>
    { h with epochs := h.epochs.map (fun x => if x.1 = e.entry ∧ x.2.gen = e.gen then (x.1, f x.2) else x) }) s

/-- PROV_EPOCH of Table 5-3. -/
def provWord (epoch : Option EpochRef) : Nat :=
  match epoch with
  | none => 0
  | some e => 2 ^ 31 + e.harrow % 32 * 2 ^ 26 + e.entry % 1024 * 2 ^ 16 + e.gen % 65536

/-! ## Queues (R112, R113) -/

/-- A queue of a harrow. -/
def queueAt (h q : Nat) (s : State) : List Ticket := (harrowAt h s).queues.getD q []

/-- Changes a queue of a harrow. -/
def modifyQueue (h q : Nat) (f : List Ticket → List Ticket) (s : State) : State :=
  modifyHarrow h (fun hw => { hw with queues := modifyNth f q hw.queues }) s

/-- On-die entries a queue uses. -/
def onDieCount (ts : List Ticket) : Nat := (ts.filter (fun t => !t.spilled)).length

/-- Spill entries a queue uses. -/
def spillCount (ts : List Ticket) : Nat := (ts.filter (fun t => t.spilled)).length

/-- Whether a queue may admit a root ticket: at least 64 free on-die entries (R113). -/
def rootAdmits (ts : List Ticket) : Bool := decide (onDieCount ts + 64 ≤ 1024)

/-- SLOT of a ticket reference. -/
def refSlot (ref : Nat) : Nat := ref % 2 ^ 19

/-- The lowest free slot of a queue, on die or among the spill entries (Table 5-4); which free one a ticket takes the spec does not say
(DESIGN CHOICE 145). -/
def freeSlot (q : Nat) (spill : Bool) (ts : List Ticket) : Nat :=
  let base := if spill then 4096 + 16384 * q else 1024 * q
  let n := (firstIndex (ts.length + 1) (fun i => ts.all (fun t => refSlot t.ref != base + i))).getD 0
  base + n

/-- Inserts a ticket in order of STAMP, after those with an equal one. -/
def insertByStamp (t : Ticket) : List Ticket → List Ticket
  | [] => [t]
  | x :: rest => if x.stamp ≤ t.stamp then x :: insertByStamp t rest else t :: x :: rest

/-- Gives a ticket a slot and its reference (Table 5-4), and queues it; none where the spill entries are full (R113). A slot's first
generation after a reset is 0 (DESIGN CHOICE 146). -/
def enqueue (t : Ticket) (s : State) : Option State :=
  let q := t.prio % 4
  let ts := queueAt t.home q s
  let spill := decide (1024 ≤ onDieCount ts)
  if spill ∧ 16384 ≤ spillCount ts then none
  else
    let slot := freeSlot q spill ts
    let hw := harrowAt t.home s
    let gen := (lookupD slot hw.slotGen 255 + 1) % 256
    let t1 := { t with spilled := spill, ref := gen * 2 ^ 24 + t.home % 32 * 2 ^ 19 + slot }
    some (modifyQueue t.home q (insertByStamp t1)
      (modifyHarrow t.home (fun h =>
        { h with slotGen := insertAt slot gen h.slotGen, spills := if spill then bump h.spills else h.spills }) s))

/-- Returns spilled tickets, in order, to on-die entries that have freed (R112). -/
def unspill (h q : Nat) (s : State) : State :=
  let ts := queueAt h q s
  if 1024 ≤ onDieCount ts then s
  else
    match ts.find? (fun t => t.spilled) with
    | none => s
    | some t =>
      let rest := ts.filter (fun x => x.ref != t.ref)
      let slot := freeSlot q false rest
      let gen := (lookupD slot (harrowAt h s).slotGen 255 + 1) % 256
      let t1 := { t with spilled := false, ref := gen * 2 ^ 24 + h % 32 * 2 ^ 19 + slot }
      modifyQueue h q (fun _ => insertByStamp t1 rest)
        (modifyHarrow h (fun hw => { hw with slotGen := insertAt slot gen hw.slotGen }) s)

/-- Takes a ticket out of its queue. -/
def dequeue (t : Ticket) (s : State) : State :=
  unspill t.home (t.prio % 4) (modifyQueue t.home (t.prio % 4) (fun ts => ts.filter (fun x => x.ref != t.ref)) s)

/-- A root ticket (R113): admitted while its queue has 64 free on-die entries, and counted as held back otherwise. -/
def addRoot (h type prio : Nat) (args : Bytes) (s : State) : State :=
  if rootAdmits (queueAt h prio s) then
    let t : Ticket := { type := type, prio := prio, wait := false, tomb := false, pinned := false, home := h,
                        orderKey := none, epoch := none, parent := 0xFFFFFFFF, handles := [], args := args,
                        stamp := s.time.ticks, ref := 0, expiries := 0, spilled := false }
    (enqueue t s).getD s
  else modifyHarrow h (fun hw => { hw with rootRefused := bump hw.rootRefused }) s

/-- The harrow to which an arrival is steered: `home`, its queue pair's home harrow (R348), while that is RUNNING, else the lowest RUNNING
one of its quadrant, else of the chip (Table 5-9; DESIGN CHOICE 143). -/
def rootHarrow (home : Nat) (s : State) : Nat :=
  ((home :: (List.range 8).map (fun i => home / 8 * 8 + i) ++ List.range 32).find? (fun h => (harrowAt h s).park == .running)).getD home

/-- An arrival from outside: its root ticket of a type and priority joins a queue of the harrow it is steered to, with two numbers for ARGS,
where it is admitted; whether it is (R113). -/
def arrive (type prio home a b : Nat) (s : State) : Bool × State :=
  let h := rootHarrow home s
  (rootAdmits (queueAt h prio s), addRoot h type prio (padTo 16 (packFields [(4, a), (4, b)])) s)

/-- A capsule or request arrives from a client: its RX_CAPSULE root ticket, with the queue pair and the identifier for ARGS (Tables 5-5 and
5-6). -/
def arriveRoot (home qp id : Nat) (s : State) : Bool × State := arrive 0x01 0 home qp id s

/-! ## Eligibility (R114, R117) -/

/-- Whether a key is held by a running ticket (R117). -/
def keyHeld (key : Option Nat) (s : State) : Bool :=
  match key with
  | none => false
  | some _ => s.tines.running.any (fun r => r.ticket.orderKey == key)

/-- Whether a ticket waits for nothing: no tombstone, WAIT 0 or its epoch decided, and a delay that its STAMP gives is over (R181). -/
def unblocked (t : Ticket) (s : State) : Bool :=
  !t.tomb && decide (t.stamp ≤ s.time.ticks) && (!t.wait || match t.epoch with
    | none => true
    | some e => epochState e s != .opened)

/-- Whether a ticket is eligible (R114). -/
def eligible (t : Ticket) (s : State) : Bool := unblocked t s && !keyHeld t.orderKey s

/-- The queue whose minimum share a dispatch serves, by its number: of every 64 in a row 16 are kept for P1, 8 for P2 and 4 for P3
(Table 5-6; DESIGN CHOICE 11). -/
def shareQueue (n : Nat) : Option Nat :=
  if n % 4 = 0 then some 1 else if n % 8 = 1 then some 2 else if n % 16 = 2 then some 3 else none

/-- Whether a queue of a harrow holds a ticket that `may` be taken. -/
def queueHas (hw : Harrow) (may : Ticket → Bool) (q : Nat) : Bool := (hw.queues.getD q []).any may

/-- The queue a dispatch serves, among those with a ticket that `may` be taken: the one whose share it is, else the highest-priority
one. -/
def chooseQueue (hw : Harrow) (may : Ticket → Bool) : Option Nat :=
  ((shareQueue hw.dispatches).filter (queueHas hw may)).orElse (fun _ => firstIndex 4 (queueHas hw may))

/-- Whether a dispatch or glean skipped a ticket of a queue only because its key is held (Table 5-11). -/
def keyConflict (ts : List Ticket) (s : State) : Bool := ts.any (fun t => unblocked t s && keyHeld t.orderKey s)

/-! ## Epochs: open, count, release, decide (R123-R126) -/

/-- TYPE of a COMPRESS ticket (Table 5-5). -/
def compressType : Nat := 0x07

/-- TYPE of a HANDOVER ticket (Table 5-5). -/
def handoverType : Nat := 0x1F

/-- The tickets of an epoch in the queues of its harrow. -/
def epochTickets (e : EpochRef) (s : State) : List Ticket :=
  ((harrowAt e.harrow s).queues.flatten).filter (fun t => t.epoch == some e)

/-- The count of live tickets of an epoch: those queued or running, at most 64 (R123). -/
def countLive (e : EpochRef) (s : State) : State :=
  let n := (epochTickets e s).length + (s.tines.running.filter (fun r => r.ticket.epoch == some e)).length
  modifyEpoch e (fun x => { x with live := min 64 n }) s

/-- Counts the live tickets of an epoch that has one more. -/
def epochLive (epoch : Option EpochRef) (s : State) : State :=
  match epoch with
  | none => s
  | some e => countLive e s

/-- The first ticket of an epoch: the COMPRESS of the chunk `work` whose run-ahead begins (Tables 5-8 and 5-12; DESIGN CHOICE 144). -/
def firstTicket (e : EpochRef) (work : Nat) (s : State) : Ticket :=
  { type := compressType, prio := 2, wait := false, tomb := false, pinned := false, home := e.harrow, orderKey := none, epoch := some e,
    parent := 0xFFFFFFFF, handles := [], args := leBytes 16 work, stamp := s.time.ticks, ref := 0, expiries := 0, spilled := false }

/-- Opens an epoch for the run-ahead of a chunk: a FREE entry, its GEN advanced by one, its first ticket issued (R123, Table 5-8). None
where the budget is used up or the spill entries are full. That the entry is the lowest one, and that its first GEN after a reset is 1,
are the model's (DESIGN CHOICE 145, 146). -/
def openEpoch (h work : Nat) (s : State) : Option (EpochRef × State) :=
  let hw := harrowAt h s
  let held := (hw.epochs.filter (fun x => x.2.state == .opened)).length
  if hw.budget ≤ held then none
  else
    match firstIndex 1024 (fun i => ((lookup i hw.epochs).map (·.state)).getD .free == .free) with
    | none => none
    | some i =>
      let gen := (((lookup i hw.epochs).map (·.gen)).getD 0 + 1) % 65536
      let entry : EpochEntry := { state := .opened, gen := gen, live := 0, handles := [], chunkId := none }
      let e : EpochRef := { harrow := h, entry := i, gen := gen }
      (enqueue (firstTicket e work s)
        (modifyHarrow h (fun x => { x with epochs := insertAt i entry x.epochs, epochsOpened := bump x.epochsOpened }) s)).map
          (fun st => (e, epochLive (some e) st))

/-- Releases a decided entry that has no live ticket left: COMMITTED to FREE, and SQUASHED to FREE with SQUASHES counted
(Table 5-8). -/
def releaseEpoch (e : EpochRef) (s : State) : State :=
  match epochEntry e s with
  | none => s
  | some x =>
    if x.live ≠ 0 then s
    else
      match x.state with
      | .committed => modifyEpoch e (fun y => { y with state := .free, handles := [], chunkId := none }) s
      | .squashed =>
        modifyHarrow e.harrow (fun h => { h with squashes := bump h.squashes })
          (modifyEpoch e (fun y => { y with state := .free, handles := [], chunkId := none }) s)
      | _ => s

/-- A ticket of an epoch has ended: the count follows, and a decided entry without live tickets is released. -/
def epochDone (epoch : Option EpochRef) (s : State) : State :=
  match epoch with
  | none => s
  | some e => releaseEpoch e (countLive e s)

/-- Retires a tombstone: it releases its handles and counts (R126 step 4). -/
def buryTomb (t : Ticket) (s : State) : State :=
  let s1 := modifyHarrow t.home (fun h => { h with tombstones := bump h.tombstones }) (releaseAll t.home t.epoch t.handles s)
  match t.epoch with
  | none => s1
  | some e => countLive e s1

/-- Retires a tombstone outside a sweep: its entry is released with the last of them. -/
def retireTomb (t : Ticket) (s : State) : State := epochDone t.epoch (buryTomb t s)

/-- Takes a running ticket off its tine. -/
def leaveTine (tine : Nat) (s : State) : State :=
  { s with tines := { s.tines with running := s.tines.running.filter (fun r => r.tine != tine) } }

/-- Ends the tickets of a squashed epoch that run, as their next test does (R115, R126 step 2). -/
def stopRunning (e : EpochRef) (s : State) : State :=
  (s.tines.running.filter (fun r => r.ticket.epoch == some e)).foldl (fun st r => buryTomb r.ticket (leaveTine r.tine st)) s

/-- Sweeps the queues: every ticket of the epoch becomes a tombstone and is retired (R126 steps 3 and 4). -/
def sweepQueues (e : EpochRef) (s : State) : State :=
  (epochTickets e s).foldl (fun st t => buryTomb { t with tomb := true } (dequeue t st)) s

/-- The cipher requests of a squashed epoch, queued or running, end with ST_ABORTED (R177, R126). -/
def dropJobs (e : EpochRef) (s : State) : State := abortJobs (fun j => j.epoch == some e) s

/-- The allocations that wait for an epoch: gone with a squash, real with a commit (R115, Table 5-8). -/
def mapWaiters (f : List GWaiter → List GWaiter) (s : State) : State :=
  { s with granary := { s.granary with lists := s.granary.lists.map (fun l => { l with waiters := f l.waiters }) } }

/-- The chunk whose run-ahead an epoch was goes back to what it was before: an engine's work on it is aborted, its reserved ID is returned,
and it is compressed as real work once it is decided a miss (R124, R126, R169). -/
def resetWorks (e : EpochRef) (s : State) : State :=
  { s with ingest := { s.ingest with
      works := mapIf (fun w => w.epoch == some e)
        (fun w => { w with epoch := none, chunkId := 0, gen := 0, stream := none, stored := none }) s.ingest.works } }

/-- A descriptor of a squashed epoch is abandoned as by DISABLE, without LOST; what it was writing is undefined (R467, R470). -/
def dropDma (e : EpochRef) (s : State) : State :=
  { s with dma := s.dma.map (fun c =>
      if (c.running.bind (·.epoch)) = some e then { c with running := none, enable := false, idle := true } else c) }

/-- Squashes an epoch that is OPEN, with all of R126; of any other epoch it changes nothing (R124). -/
def squashEpoch (e : EpochRef) (s : State) : State :=
  match epochEntry e s with
  | none => s
  | some x =>
    if x.state ≠ .opened then s
    else
      let s1 := modifyEpoch e (fun y => { y with state := .squashed }) s
      let s2 := modifyHarrow e.harrow (fun h =>
        { h with windowSquashes := h.windowSquashes + 1, windowDecided := h.windowDecided + 1,
                 idBlock := match x.chunkId with
                   | some c => c :: h.idBlock
                   | none => h.idBlock }) s1
      let s3 := resetWorks e (mapWaiters (fun ws => ws.filter (fun w => w.epoch != some e))
        (dropDma e (dropJobs e (sweepQueues e (stopRunning e s2)))))
      releaseEpoch e ((x.handles).foldl (fun st h => squashFree h st) s3)

/-- A commit or squash request that finds its epoch decided is answered with the state (Table 5-8). -/
def answerDecided (e : EpochRef) (s : State) : State :=
  match epochState e s with
  | .committed => emit (.epochState e .committed) s
  | .squashed => emit (.epochState e .squashed) s
  | _ => s

/-- Refuses a guarded request: PROV_REFUSED counted, the Almanac record, the epoch squashed (R125). -/
def refuseGuarded (e : EpochRef) (unit : Nat) (s : State) : State :=
  squashEpoch e
    (almanac 0x0104 (packFields [(1, e.harrow), (4, provWord (some e)), (1, unit)])
      (modifyHarrow e.harrow (fun h => { h with provRefused := bump h.provRefused }) s))

/-- Whether a request of a ticket of this epoch is guarded: its epoch is OPEN or SQUASHED (R125). -/
def isGuarded (epoch : Option EpochRef) (s : State) : Bool :=
  match epoch with
  | none => false
  | some e => epochState e s == .opened || epochState e s == .squashed

/-! ## Running a ticket -/

/-- A follow-on ticket: PARENT, PROV_EPOCH and HOME from its issuer; beyond 64 live tickets it waits (R111, R123). A HANDOVER ticket is
pinned, a COMPRESS ticket never is; of others the issuer says it (R122, R165). -/
def followOn (issuer : Ticket) (f : TicketForm) (s : State) : Ticket :=
  let full := match issuer.epoch with
    | none => false
    | some e => match epochEntry e s with
      | none => false
      | some x => decide (64 ≤ x.live)
  { type := f.type, prio := f.prio % 4, wait := f.wait || full, tomb := false, home := issuer.home,
    pinned := (f.pinned || f.type == handoverType) && f.type != compressType,
    orderKey := f.orderKey, epoch := issuer.epoch, parent := issuer.ref, handles := f.handles.take 6,
    args := padTo 16 f.args, stamp := s.time.ticks, ref := 0, expiries := 0, spilled := false }

/-- Issues follow-on tickets in order; those left where the spill entries are full: the issuing tine waits (R113). -/
def issueAll (issuer : Ticket) : List TicketForm → State → List TicketForm × State
  | [], s => ([], s)
  | f :: rest, s =>
    match enqueue (followOn issuer f s) s with
    | none => (f :: rest, s)
    | some s1 => issueAll issuer rest (epochLive issuer.epoch s1)

/-- Retires the ticket on a tine after it has run (Table 5-11 TICKETS_RUN). -/
def retireOn (tine : Nat) (t : Ticket) (s : State) : State :=
  epochDone t.epoch
    (modifyHarrow (tineHarrow tine) (fun h => { h with ticketsRun := bump h.ticketsRun }) (leaveTine tine s))

/-- What the ticket on a tine has still to issue. -/
def setLeft (tine : Nat) (left : List TicketForm) (s : State) : State :=
  { s with tines := { s.tines with running := mapIf (fun r => r.tine == tine) (fun r => { r with left := left }) s.tines.running } }

/-- The ticket on a tine issues its follow-on tickets, and retires where it `retires` within the step and none of them is left. -/
def runRest (tine : Nat) (t : Ticket) (forms : List TicketForm) (retires : Bool) (s : State) : State :=
  let (left, s1) := issueAll t forms s
  if left = [] ∧ retires = true then retireOn tine t s1 else setLeft tine left s1

/-- Runs a ticket taken by a tine: the test at its start (R115), a guarded request where it makes one (R125), its follow-on
tickets, and its retirement where it retires within the step. -/
def runOn (tine : Nat) (t : Ticket) (run : TicketRun) (s : State) : State :=
  if t.epoch.isSome ∧ ((t.epoch.map (fun e => epochState e s)) = some .squashed) then retireTomb t s
  else
    let s1 := { s with tines := { s.tines with
      running := s.tines.running ++ [{ tine := tine, ticket := t, started := s.time.ticks, left := [] }] } }
    match run.guardedAt, t.epoch with
    | some unit, some e =>
      if isGuarded (some e) s1 then refuseGuarded e unit s1 else runRest tine t run.followOns run.retires s1
    | _, _ => runRest tine t run.followOns run.retires s1

/-- Whether a tine has become free: a ticket still on it from an earlier step issues what it has left and retires; while spill entries are
wanting the tine waits (R113). -/
def freeTine (tine : Nat) (s : State) : Bool × State :=
  match s.tines.running.find? (fun r => r.tine == tine) with
  | none => (true, s)
  | some r =>
    let s1 := runRest tine r.ticket r.left true s
    (s1.tines.running.all (fun x => x.tine != tine), s1)

/-! ## Parking (R128) -/

/-- The quadrants that the NVMe power state parks: Q2 and Q3 in PS2, Q1 to Q3 in PS3 (R128). -/
def psParked (ps q : Nat) : Bool := (decide (ps = 2) && decide (2 ≤ q)) || (decide (ps = 3) && decide (1 ≤ q))

/-- The parked set without PARK_MASK: permanent, power state and thermal policy. -/
def parkedOther (h : Nat) (s : State) : Bool :=
  (harrowAt h s).permanentlyParked || psParked s.nvme.powerState (h / 8) || s.thermal.parked.contains h

/-- The whole parked set under a mask (R128). -/
def parkedUnder (mask h : Nat) (s : State) : Bool := mask.testBit h || parkedOther h s

/-- The harrow for which the mask is disregarded: the lowest not parked permanently, while the set would be complete (R128). -/
def maskExempt (mask : Nat) (s : State) : Option Nat :=
  if (List.range 32).all (fun h => parkedUnder mask h s)
  then firstIndex 32 (fun h => !(harrowAt h s).permanentlyParked) else none

/-- Whether a harrow is the one that an activation is handing over: it drains until its HANDOVER ticket has run (R544). -/
def handingOver (h : Nat) (s : State) : Bool := s.fw.state == 3 && s.fw.step == 5 && s.fw.handed == h

/-- Whether a harrow is in the parked set, or drains as if it were (R128, R544). -/
def inParkedSet (h : Nat) (s : State) : Bool :=
  let mask := paramNat 0x0503 0 s
  handingOver h s || (if maskExempt mask s = some h then parkedOther h s else parkedUnder mask h s)

/-- Moves a harrow by Table 5-9 after the parked set has changed. -/
def parkStep (inSet : Bool) (h : Harrow) : Harrow :=
  match h.park, inSet with
  | .running, true => if h.parkRetry then h else { h with park := .draining }
  | .running, false => { h with parkRetry := false }
  | .draining, false => { h with park := .running }
  | .parked, false => { h with park := .waking, parkAgain := false }
  | .waking, b => { h with parkAgain := b }
  | _, _ => h

/-- PARKED of a quadrant's pace word: all eight harrows are parked (Table 5-9). -/
def notePaceParked (s : State) : State :=
  { s with time := { s.time with pace := (List.range 4).map (fun q =>
      { (s.time.pace.getD q resetPace) with
          parked := (List.range 8).all (fun i => (harrowAt (8 * q + i) s).park == .parked) }) } }

/-- Brings every harrow into line with the parked set (R128, R129). -/
def applyParkedSet (s : State) : State :=
  notePaceParked ((List.range 32).foldl (fun st h => modifyHarrow h (parkStep (inParkedSet h st)) st) s)

end Sys2Proof.Machine
end

