-- ==== Sys2Proof/Machine/Voxca.lean ====
section
/-! DEFINITION. The Voxca engines at work (07): compression, self-verification, quarantine and decompression. -/

namespace Sys2Proof.Machine

/-! ## Slices -/

/-- The engine slice of a harrow with nothing in it. -/
def emptySlice : VoxcaSlice :=
  { compressors := [], decompressors := [], compInBytes := 0, compOutBytes := 0, compAbandoned := 0, decompOutBytes := 0,
    decodeErrors := 0, decompDisagree := 0 }

/-- The engine slice of a harrow. -/
def sliceAt (h : Nat) (s : State) : VoxcaSlice := s.voxca.getD h emptySlice

/-- Changes the engine slice of a harrow. -/
def modifySlice (h : Nat) (f : VoxcaSlice → VoxcaSlice) (s : State) : State := { s with voxca := modifyNth f h s.voxca }

/-- A compressor that is not there takes no work. -/
def noCompressor : Compressor := ⟨[], true, 0⟩

/-- Whether a compressor takes work (R165). -/
def compressorUsable (h e : Nat) (s : State) : Bool := !((sliceAt h s).compressors.getD e noCompressor).quarantined

/-- Whether a decompressor takes work (R168). -/
def decompressorUsable (h e : Nat) (s : State) : Bool := !((sliceAt h s).decompressors.getD e (true, 0)).1

/-- NO_COMPRESS of a harrow: its three compressors are quarantined (R165). -/
def noCompress (h : Nat) (s : State) : Bool := [0, 1, 2].all (fun e => !compressorUsable h e s)

/-! ## Works -/

/-- A chunk in reduction, by its number. -/
def workAt (w : Nat) (s : State) : Option ChunkWork := s.ingest.works.find? (fun x => x.id == w)

/-- Changes the ingest part. -/
def modifyIngest (f : IngestPart → IngestPart) (s : State) : State := { s with ingest := f s.ingest }

/-- Changes a chunk in reduction. -/
def modifyWork (w : Nat) (f : ChunkWork → ChunkWork) (s : State) : State :=
  modifyIngest (fun i => { i with works := mapIf (fun x => x.id == w) f i.works }) s

/-- Takes a chunk in reduction out. -/
def dropWork (w : Nat) (s : State) : State :=
  modifyIngest (fun i => { i with works := i.works.filter (fun x => x.id != w) }) s

/-- Changes the ingest counters of a quadrant. -/
def countIngest (q : Nat) (f : IngestCounters → IngestCounters) (s : State) : State :=
  modifyIngest (fun i => { i with counters := modifyNth f q i.counters }) s

/-- The quadrant of a harrow (R21). -/
def harrowQuadrant (h : Nat) : Nat := h / 8 % 4

/-- Decides raw storage of a chunk (R78); RAW_STORED counts it when it is stored. -/
def storeRaw (w : ChunkWork) (s : State) : State :=
  modifyWork w.id (fun x => { x with stored := some (0, x.plain), stream := none }) s

/-- Sets the status an engine reports (R159). -/
def compressorStatus (h e status : Nat) (s : State) : State :=
  emit (.vxStatus h e status)
    (modifySlice h (fun x => { x with compressors := modifyNth (fun c => { c with status := status }) e x.compressors }) s)

/-! ## Compression (R161-R163) -/

/-- A compressor takes a chunk in run-ahead, or one decided a miss (R77): its stream waits for the verifier, or the chunk is abandoned at the limit and stored raw.
`fault` is the stream of an engine that does not work. The bytes an abandoned compression consumed are a free value. -/
def voxcaCompress (h e work : Nat) (fault : Option Bytes) (s : State) : State :=
  match workAt work s with
  | none => s
  | some w =>
    if w.stored.isSome ∨ w.stream.isSome then s
    else if w.epoch.isNone = true ∧ w.decision ≠ .miss then s
    else if w.level = 0 then storeRaw w s
    else if allQuarantined s then storeRaw w s
    else if !compressorUsable h e s then s
    else
      let out := fault.getD (vxEncode w.level w.plain)
      let limit := vxLimit w.plain.length
      if limit < out.length then
        let (u, s1) := undefNat s
        let s2 := modifySlice h (fun x => { x with compAbandoned := bump x.compAbandoned,
                                                   compInBytes := bump x.compInBytes (min u w.plain.length) }) s1
        storeRaw w (compressorStatus h e (vxStatus vxAbandoned limit 0 limit) s2)
      else
        modifyWork work (fun x => { x with stream := some (out, h, e) })
          (modifySlice h (fun x => { x with compInBytes := bump x.compInBytes w.plain.length }) s)

/-- The engine's work for the first ticket of a run-ahead is aborted: no VX_STATUS and no count (R169). -/
def abortEngine (t : Ticket) (s : State) : State :=
  if t.type = compressType ∧ t.parent = 0xFFFFFFFF then modifyWork (leNat t.args) (fun w => { w with stream := none }) s else s

/-- VOXCA_COMPRESS (R161-R163). -/
def execVoxcaCompress (harrow engine work : Nat) (fault : Option Bytes) (s : State) : Host.Outcome State Fault Refusal :=
  .next (voxcaCompress harrow engine work fault s)

/-! ## Self-verification (R164, R165) -/

/-- The verifier's outcome on a stream (Table 7-6). -/
def verifyStatus (stream plain : Bytes) : Nat :=
  let r := vxDecode stream
  if vxCode r.1 ≠ vxOk then r.1
  else if r.2 = plain then r.1
  else vxStatus vxMiscompare 0 (commonPrefix r.2 plain) 0

/-- An ENGINE record with health attention (R165, R168, R180). -/
def engineRecord (kind number word1 word2 : Nat) (s : State) : State :=
  healthRecord 0x0106 (packFields [(1, kind), (2, number), (1, 1), (8, word1), (8, word2)]) s

/-- Health attention that stands while every compressor of the chip is quarantined (R165). -/
def noteAllQuarantined (s : State) : State := if allQuarantined s then raiseAttn bitHealth s else s

/-- Notes a VERIFY_FAIL of a compressor: the third within 1 h quarantines it (R165). -/
def compressorFail (h e status : Nat) (s : State) : State :=
  let now := s.time.ticks
  let c := (sliceAt h s).compressors.getD e noCompressor
  let fails := now :: c.fails.filter (fun t => decide (now < t + sTicks 3600))
  let s1 := modifySlice h (fun x => { x with compressors := modifyNth (fun y =>
    { y with fails := fails, quarantined := y.quarantined || decide (3 ≤ fails.length) }) e x.compressors }) s
  if 3 ≤ fails.length ∧ c.quarantined = false then noteAllQuarantined (engineRecord 1 (3 * h + e) status 0 s1) else s1

/-- The verifier decodes the stream a compressor has finished (R164, Table 7-6). -/
def voxcaVerify (work : Nat) (s : State) : State :=
  match workAt work s with
  | none => s
  | some w =>
    match w.stream with
    | none => s
    | some (stream, h, e) =>
      let st := verifyStatus stream w.plain
      let s1 := compressorStatus h e st s
      if vxCode st = vxOk then
        modifyWork work (fun x => { x with stored := some (1, stream), stream := none })
          (modifySlice h (fun x => { x with compOutBytes := bump x.compOutBytes stream.length }) s1)
      else
        let s2 := almanac 0x0101 (packFields [(1, w.domain)] ++ padTo 32 (w.fp.getD []) ++ leBytes 8 st) s1
        let s3 := countIngest (harrowQuadrant w.harrow) (fun c => { c with verifyFail := bump c.verifyFail }) s2
        compressorFail h e st (storeRaw w s3)

/-- VOXCA_VERIFY (R164). -/
def execVoxcaVerify (work : Nat) (s : State) : Host.Outcome State Fault Refusal := .next (voxcaVerify work s)

/-! ## Decompression (R167, R168) -/

/-- One run of a decompressor: the status and the plaintext delivered; a status in `fault` is what a faulty engine reports. -/
def decompressRun (h e : Nat) (stream : Bytes) (stop : Option Nat) (fault : Option Nat) (s : State) : Nat × Bytes × State :=
  let r := vxDecodeTo stream stop
  let st := fault.getD r.1
  let good := decide (vxCode st = vxOk)
  let out := if good then r.2 else r.2.take (bitsOf st 39 20)
  let s1 := modifySlice h (fun x =>
    { x with decompressors := modifyNth (fun d => (d.1, st)) e x.decompressors
             decompOutBytes := bump x.decompOutBytes out.length
             decodeErrors := if good then x.decodeErrors else bump x.decodeErrors }) s
  (st, out, emit (.vxStatus h (3 + e) st) s1)

/-- Another decompressor in service: of the same harrow if there is one, else of the lowest harrow that has one (R168). -/
def otherDecompressor (h e : Nat) (s : State) : Option (Nat × Nat) :=
  let all := (h :: List.range 32).flatMap (fun x => [(x, 0), (x, 1), (x, 2)])
  all.find? (fun p => p != (h, e) && decompressorUsable p.1 p.2 s)

/-- Quarantines the first engine of a pair of decodes that differ, under the rule of R165: three within 1 h. -/
def decompressorFail (h e st1 st2 : Nat) (s : State) : State :=
  let now := s.time.ticks
  let s1 := modifySlice h (fun x => { x with decompDisagree := bump x.decompDisagree }) s
  let key := 3 * h + e
  let fails := (key, now) :: s1.read.decompFails.filter (fun f => decide (now < f.2 + sTicks 3600))
  let bad := decide (3 ≤ (fails.filter (fun f => f.1 == key)).length)
  let s2 := { s1 with read := { s1.read with decompFails := fails } }
  let s3 := if bad then modifySlice h (fun x => { x with decompressors := modifyNth (fun d => (true, d.2)) e x.decompressors }) s2
            else s2
  let payload := packFields [(1, 2), (2, key), (1, flagBit bad), (8, st1), (8, st2)]
  if bad then healthRecord 0x0106 payload s3 else almanac 0x0106 payload s3

/-- A decode on the read path: an error is repeated once on another decompressor; two equal errors belong to the stream
(R168). The status and plaintext used. -/
def decodeTwice (h e : Nat) (stream : Bytes) (stop : Option Nat) (fault : Option Nat) (s : State) : Nat × Bytes × State :=
  let (st1, out1, s1) := decompressRun h e stream stop fault s
  if vxCode st1 = vxOk then (st1, out1, s1)
  else
    match otherDecompressor h e s1 with
    | none => (st1, out1, s1)
    | some (h2, e2) =>
      let (st2, out2, s2) := decompressRun h2 e2 stream stop none s1
      if st1 = st2 then (st2, out2, s2) else (st2, out2, decompressorFail h e st1 st2 s2)

/-- VOXCA_DECOMPRESS of a stream up to a stop offset, `fault` the status of an engine that does not work (R167, R168). The
plaintext is sent on only where the decode reports no error (R100, R158). -/
def execVoxcaDecompress (harrow engine : Nat) (stream : Bytes) (stop : Option Nat) (fault : Option Nat) (s : State) :
    Host.Outcome State Fault Refusal :=
  if !decompressorUsable harrow engine s ∨ stream.length < 8 ∨ 262144 < stream.length then .next s
  else
    let (_, out, s1) := decodeTwice harrow engine stream stop fault s
    .next (if out.isEmpty then s1 else emit (.plaintext out) s1)

end Sys2Proof.Machine
end

