-- ==== Sys2Proof/Machine/McRun.lean ====
section
/-! DEFINITION. How the head takes a command packet: the fields of the packet, the checks of R480, authorisation
(R486-R488), the fetch (R477, R496) and the start (R479). Every MCI command's meaning runs through `mciRun`. -/

namespace Sys2Proof.Machine

/-! ## Fields of a packet (Table 20-4) -/

/-- The number in `len` bytes at parameter offset `off`; parameter offset x lies at packet offset 0x10 + x (R480). -/
def parm (p : McPacket) (off len : Nat) : Nat := fieldAt p.params off len

/-- The bytes at a parameter offset. -/
def parmBytes (p : McPacket) (off len : Nat) : Bytes := slice p.params off len

/-- The 64 bytes of the packet, with its OPCODE. -/
def packetBytes (opcode : Nat) (p : McPacket) : Bytes :=
  leBytes 2 opcode ++ leBytes 2 p.tag.toNat ++ [p.flags, p.function, p.ring, p.dataPages] ++ leBytes 8 p.dataPtr.toNat
    ++ padTo 48 p.params

/-- AUTH of FLAGS. -/
def hasAuth (p : McPacket) : Bool := p.flags.getLsbD 0

/-- FENCE of FLAGS. -/
def hasFence (p : McPacket) : Bool := p.flags.getLsbD 1

/-- The command a packet's reply belongs to. -/
def refOf (p : McPacket) : McRef := { ring := p.fetchedFrom, tag := p.tag.toNat % 2 ^ 15 }

/-! ## The opcode table (R497, Tables 20-13 to 20-15 and the tables they name) -/

/-- What R480 and R497 need to know of an opcode. -/
structure OpInfo where
  opcode : Nat
  priv : Bool
  /-- the command needs a data buffer (R480 step 2) -/
  buffer : Bool
  /-- accepted only in SERVICE -/
  service : Bool
  deriving DecidableEq, Repr

/-- An opcode that is neither privileged nor bound to SERVICE and needs no buffer. -/
def opPlain (opcode : Nat) : OpInfo := { opcode := opcode, priv := false, buffer := false, service := false }

/-- A privileged opcode. -/
def opPriv (opcode : Nat) : OpInfo := { opcode := opcode, priv := true, buffer := false, service := false }

/-- An opcode that needs a data buffer. -/
def opBuffer (opcode : Nat) : OpInfo := { opcode := opcode, priv := false, buffer := true, service := false }

/-- Head control, configuration, domains, namespaces and objects (Tables 20-13, 20-14). -/
def opsControl : List OpInfo :=
  [ opPlain 0x0000, opBuffer 0x0001, opPlain 0x0002, opPriv 0x0003, opPlain 0x0004, opPlain 0x0005, opPlain 0x0006,
    opPlain 0x0007, opPlain 0x0008, opPlain 0x0009, opPlain 0x0100, opPlain 0x0101, opPriv 0x0102, opBuffer 0x0103,
    opPriv 0x0200, opPriv 0x0201, opBuffer 0x0202, opPlain 0x0203, opPlain 0x0204, opPlain 0x0210, opPriv 0x0211,
    opBuffer 0x0212, opBuffer 0x0220, opPlain 0x0221, opPlain 0x0222, opPlain 0x0230, opPriv 0x0231, opPlain 0x0232,
    opPriv 0x0233 ]

/-- Key, media, Furrow, Headland, port and memory commands (Tables 8-12, 9-9, R260, R329, R365, 17-9, R458). -/
def opsDevice : List OpInfo :=
  [ opPlain 0x0300, opPlain 0x0301, opPriv 0x0302, opPriv 0x0303, opPriv 0x0304, opPriv 0x0305, opPriv 0x0306,
    opPriv 0x0307, opBuffer 0x0308, opPlain 0x0309, opPriv 0x030A, opBuffer 0x030B,
    opPlain 0x0400, opPriv 0x0401, opBuffer 0x0402, opBuffer 0x0403, opBuffer 0x0404, opPlain 0x0405, opPlain 0x0406,
    opPriv 0x0407, opPriv 0x0408, opPriv 0x0409, opBuffer 0x040A, opBuffer 0x040B, opPriv 0x040C, opBuffer 0x040D,
    opBuffer 0x040E, opBuffer 0x0410, opPlain 0x0411, opPlain 0x0412, opPlain 0x0413, opPlain 0x0414, opPlain 0x0415,
    opBuffer 0x0416 ]

/-- Snapshot, replication, Almanac, firmware, DMA, Winnow, telemetry and service commands (Tables 12-7, 20-14, 19-10,
6-8, 17-9, R458). -/
def opsServices : List OpInfo :=
  [ opPlain 0x0500, opPlain 0x0501, opBuffer 0x0502, opPlain 0x0503, opPriv 0x0510, opPriv 0x0511,
    opPlain 0x0512, opPlain 0x0513, opPlain 0x0514, opPriv 0x0515, opPriv 0x0520, opPlain 0x0521, opPlain 0x0522,
    opBuffer 0x0600, opBuffer 0x0601, opPriv 0x0602, opBuffer 0x0700, opBuffer 0x0701, opBuffer 0x0702, opPriv 0x0703,
    opPriv 0x0704, opBuffer 0x0800, opPlain 0x0801, opPlain 0x0802, opPlain 0x0900, opPlain 0x0901, opPlain 0x0902,
    opPlain 0x0903, opBuffer 0x0904, opPlain 0x0905, opBuffer 0x0906, opBuffer 0x0A00, opPlain 0x0A01, opBuffer 0x0A02,
    opBuffer 0x0A03,
    { opcode := 0x0F01, priv := false, buffer := true, service := true },
    { opcode := 0x0F10, priv := true, buffer := false, service := true },
    { opcode := 0x0F11, priv := false, buffer := false, service := true },
    { opcode := 0x0F12, priv := false, buffer := false, service := true } ]

/-- Every opcode the head knows. -/
def opTable : List OpInfo := opsControl ++ opsDevice ++ opsServices

/-- The entry of an opcode. -/
def opInfo (opcode : Nat) : Option OpInfo := opTable.find? (fun o => o.opcode == opcode)

/-- The BOOT command set of R497. -/
def inBootSet (opcode : Nat) : Bool :=
  decide (opcode < 0x0100) || opcode == 0x0600 || opcode == 0x0601 || (decide (0x0700 ≤ opcode) && decide (opcode < 0x0800))
    || opcode == 0x0A00 || opcode == 0x0300

/-- Whether a mode allows a command (Table 21-1, R497). -/
def modeAllows (m : Mode) (o : OpInfo) : Bool :=
  match m with
  | .boot => inBootSet o.opcode
  | .recovery => inBootSet o.opcode
  | .dump => false
  | .service => true
  | _ => !o.service

/-! ## Authorisation (R486-R488) -/

/-- Whether an authorisation block passes (R487). -/
def authPasses (opcode : Nat) (p : McPacket) (s : State) : Bool :=
  match (s.mci.rings[p.fetchedFrom]?).bind (·.nonce), (s.vault.gauntlet.getD 0 none) with
  | some n, some key =>
    hasAuth p && slice p.authBlock 0 16 == n.value
      && decide (s.time.ticks < n.issued + sTicks (paramNat 0x1403 0 s))
      && slice p.authBlock 16 16 == (hmacSha256 key (packetBytes opcode p ++ n.value ++ p.data)).take 16
  | _, _ => false

/-- A check consumes the ring's nonce, whatever its outcome (R487). -/
def consumeNonce (ring : Nat) (s : State) : State :=
  { s with mci := { s.mci with rings := modifyNth (fun r => { r with nonce := none }) ring s.mci.rings } }

/-- A failed check: counter, Almanac record, and SECURITY_ATTN at the sixteenth within 60 s (R488). -/
def authFailed (opcode : Nat) (p : McPacket) (s : State) : State :=
  let now := s.time.ticks
  let recent := now :: s.mci.authFails.filter (fun t => decide (now < t + sTicks 60))
  let s1 := almanac 0x0006 (packFields [(2, opcode), (1, p.fetchedFrom), (1, 0), (2, p.tag.toNat)])
    { s with mci := { s.mci with authFails := recent, authFailures := bump s.mci.authFailures } }
  if recent.length ≥ 16 then raiseAttn bitSecurity s1 else s1

/-- The check of an authorisation block: whether it passes, and the state after it. -/
def authCheck (opcode : Nat) (p : McPacket) (s : State) : Bool × State :=
  if authPasses opcode p s then (true, consumeNonce p.fetchedFrom s)
  else (false, authFailed opcode p (consumeNonce p.fetchedFrom s))

/-! ## Checks, fetch and start -/

/-- Steps 1 and 2 of R480: unknown opcode; ring, reserved header bits, a TAG in use, a missing buffer. -/
def headerCheck (opcode : Nat) (p : McPacket) (s : State) : Option Status :=
  match opInfo opcode with
  | none => some stBadOpcode
  | some o =>
    if p.ring.toNat ≠ p.fetchedFrom ∨ p.tag.getLsbD 15 = true ∨ p.flags.toNat ≥ 4
        ∨ (s.mci.outstanding.any (fun r => r.tag == (refOf p).tag)) = true ∨ (o.buffer = true ∧ p.dataPages = 0)
    then some stBadParam else none

/-- Whether a command's authorisation block is checked: a privileged one's, and that of KEY_LOAD_GAUNTLET wherever it carries one, and but
for a load of slot 0 while slot 0 is empty (R187, R488). -/
def needsAuth (o : OpInfo) (p : McPacket) (s : State) : Bool :=
  o.priv || (o.opcode == 0x0301 && (hasAuth p || !(parm p 0 1 == 0 && (s.vault.gauntlet.getD 0 none).isNone)))

/-- The checks of R480 in order: the failure, if any, and the state they leave. -/
def packetCheck (opcode : Nat) (p : McPacket) (s : State) : Option Status × State :=
  match headerCheck opcode p s with
  | some st => (some st, { s with mci := { s.mci with badPackets := bump s.mci.badPackets } })
  | none =>
    match opInfo opcode with
    | none => (some stBadOpcode, s)
    | some o =>
      let (ok, s1) := if needsAuth o p s then authCheck opcode p s else (true, s)
      if ok = false then (some stAuthFailed, s1)
      else if modeAllows s1.boot.mode o then (none, s1) else (some stWrongMode, s1)

/-- A fetch restarts the control-host watchdog, ends autonomy and counts the command (R496, R499). -/
def noteFetch (s : State) : State :=
  let s1 := { s with mci := { s.mci with lastFetch := s.time.ticks, mciCommands := bump s.mci.mciCommands } }
  if s1.hsw.autonomy then
    raiseEvent 0x0208 0 0 (almanac 0x0007 (packFields [(1, 0)]) (hswSync { s1 with hsw := { s1.hsw with autonomy := false } }))
  else s1

/-- Takes a packet: it is fetched, checked, and either ended with its status or outstanding (R480). -/
def acceptPacket (opcode : Nat) (p : McPacket) (s : State) : Bool × State :=
  let (bad, s1) := packetCheck opcode p (noteFetch s)
  match bad with
  | some st => (false, postReply (refOf p).tag st [] s1)
  | none => (true, { s1 with mci := { s1.mci with outstanding := s1.mci.outstanding ++ [refOf p] } })

/-- How a command's meaning ends: a reply, or the command stays outstanding. -/
inductive McEnd where
  | reply (status : Status) (result : Bytes)
  | stands
  deriving DecidableEq, Repr

/-- Whether a fetched packet may start: it is the first of its ring's fetched packets, and with FENCE set no earlier
command of the ring but a standing WATCH is uncompleted (R479). -/
def mayStart (p : McPacket) (s : State) : Bool :=
  match s.mci.rings[p.fetchedFrom]? with
  | none => true
  | some r =>
    let first := (r.fetched.head?.map (fun sl => refOf sl.pkt == refOf p)).getD true
    let watchTag := r.watch.map (·.tag)
    first && (!hasFence p || s.mci.outstanding.all (fun x =>
      x.ring != p.fetchedFrom || x == refOf p || some x.tag == watchTag || r.fetched.any (fun sl => refOf sl.pkt == x)))

/-- Whether a packet has been fetched and checked by a doorbell already. -/
def alreadyFetched (opcode : Nat) (p : McPacket) (s : State) : Bool :=
  match s.mci.rings[p.fetchedFrom]? with
  | none => false
  | some r => r.fetched.any (fun sl => sl.opcode.toNat == opcode && sl.pkt == p)

/-- Removes a packet from the fetched ones of its ring, as it starts. -/
def unfetch (p : McPacket) (s : State) : State :=
  let keep := fun (r : CmdRing) => { r with fetched := r.fetched.filter (fun sl => refOf sl.pkt != refOf p) }
  { s with mci := { s.mci with rings := modifyNth keep p.fetchedFrom s.mci.rings } }

/-- Ends a command as its meaning says. -/
def endCommand (p : McPacket) (r : McEnd × State) : State :=
  match r.1 with
  | .reply status result => complete (refOf p) status result r.2
  | .stands => r.2

/-- Slots from HEAD up to TAIL. -/
def ringFilled (r : CmdRing) : Nat := (r.tail + r.size - r.head) % r.size

/-- The slots of a packet that is fetched as it runs are free: HEAD moves past them, where TAIL has given them (R477). -/
def takeSlots (p : McPacket) (s : State) : State :=
  let need := if hasAuth p then 2 else 1
  let pass := fun (r : CmdRing) => if r.enable = true ∧ need ≤ ringFilled r then { r with head := (r.head + need) % r.size } else r
  { s with mci := { s.mci with rings := modifyNth pass p.fetchedFrom s.mci.rings } }

/-- Runs an MCI command. A packet a doorbell has fetched starts where R479 lets it, and otherwise stays fetched; any
other packet is fetched now and checked first. In DUMP no packet is fetched (R497). -/
def mciRun (opcode : Nat) (p : McPacket) (body : State → McEnd × State) (s : State) : State :=
  if alreadyFetched opcode p s then
    if mayStart p s then endCommand p (body (unfetch p s)) else s
  else if s.boot.mode = .dump then s
  else
    let (ok, s1) := acceptPacket opcode p (takeSlots p s)
    if ok = true then endCommand p (body s1) else s1

/-! ## Data buffers -/

/-- Writes a command's output to its data buffer, before its reply (R478). -/
def bufferWrite (p : McPacket) (bytes : Bytes) (s : State) : State :=
  if bytes.isEmpty then s else emit (.hostWrite p.dataPtr.toNat bytes) s

/-- The whole records that fit a data buffer (R480). -/
def recordsThatFit : Nat → List Bytes → List Bytes
  | _, [] => []
  | room, r :: rest => if r.length ≤ room then r :: recordsThatFit (room - r.length) rest else []

/-- A data-buffer access that ends with a PCI Express error: ST_INTERNAL, and FAULT of the ring (R479). -/
def busFail (p : McPacket) (s : State) : McEnd × State :=
  (.reply stInternal [], { s with mci := { s.mci with rings := modifyNth (fun r => { r with fault := true }) p.fetchedFrom s.mci.rings } })

/-- Answers with records in the data buffer: all of them with ST_OK, the whole ones that fit with ST_OK_INFO; a failed
buffer access ends with ST_INTERNAL and sets FAULT (R479, R480). -/
def answerRecords (p : McPacket) (records : List Bytes) (result : Bytes) (s : State) : McEnd × State :=
  if p.busError then busFail p s
  else
    let fit := recordsThatFit (4096 * p.dataPages.toNat) records
    (.reply (if fit.length = records.length then stOk else stOkInfo) result, bufferWrite p fit.flatten s)

/-- Ends with a status and no effect. -/
def refuse (status : Status) (s : State) : McEnd × State := (.reply status [], s)

/-- Ends with ST_OK and a result. -/
def ok (result : Bytes) (s : State) : McEnd × State := (.reply stOk result, s)

end Sys2Proof.Machine
end

