-- ==== Sys2Proof/Machine/Winnow.lean ====
section
/-! DEFINITION. Winnow (06): tables, selection, search, insert, delete, age, clear, and the Winnow commands. -/

namespace Sys2Proof.Machine

/-! ## Descriptors (Table 6-1) -/

/-- WT_DESC of a table. -/
def wtDesc (t : Nat) (s : State) : Nat := (s.winnow.desc.getD t 0).toNat

/-- SEL_LSB. -/
def wtSelLsb (d : Nat) : Nat := bitsOf d 47 40
/-- SEL_BITS. -/
def wtSelBits (d : Nat) : Nat := bitsOf d 39 35
/-- ENABLE. -/
def wtEnable (d : Nat) : Bool := bitOf d 33
/-- WIDE. -/
def wtWide (d : Nat) : Bool := bitOf d 32
/-- NBANKS. -/
def wtNbanks (d : Nat) : Nat := bitsOf d 14 8
/-- FIRST_BANK. -/
def wtFirst (d : Nat) : Nat := bitsOf d 5 0

/-- Units of a table (R136). -/
def wtUnits (d : Nat) : Nat := if wtWide d then wtNbanks d / 2 else wtNbanks d

/-- The (even) bank of a unit (R136). -/
def unitBank (d u : Nat) : Nat := wtFirst d + (if wtWide d then 2 * u else u)

/-- The mask register of a table: MASK0 is all ones (R139). -/
def winnowMask (t m : Nat) (s : State) : Nat :=
  if m = 0 then 2 ^ 192 - 1 else ((lookup (16 * t + m) s.winnow.masks).map (·.toNat)).getD (2 ^ 192 - 1)

/-- The units a key selects under a mask (R136, R140). -/
def selectedUnits (d key mask : Nat) : List Nat :=
  let n := wtUnits d
  let all := List.range n
  let field := fun x => bitsOf x (wtSelLsb d + wtSelBits d - 1) (wtSelLsb d)
  if wtSelBits d = 0 then all
  else if field mask ≠ 2 ^ wtSelBits d - 1 then all
  else if n = 0 then [] else [field key % n]

/-- Whether a table serves: enabled and not quiesced (R147). -/
def winnowServes (t : Nat) (s : State) : Bool := wtEnable (wtDesc t s) && !isQuiesced (0x10 + t) s

/-- Key of an entry in the entry list. -/
def entryKey (bank e : Nat) : Nat := 8192 * bank + e

/-- The full key of a valid entry of a unit: both halves of a pair (R138). -/
def unitKey (wide : Bool) (bank e : Nat) (s : State) : Option Nat :=
  match lookup (entryKey bank e) s.winnow.entries with
  | none => none
  | some x =>
    if wide then (lookup (entryKey (bank + 1) e) s.winnow.entries).map (fun y => y.key.toNat * 2 ^ 96 + x.key.toNat)
    else some x.key.toNat

/-- Whether an entry matches a key under a mask. -/
def entryMatches (wide : Bool) (bank e key mask : Nat) (s : State) : Bool :=
  match unitKey wide bank e s with
  | none => false
  | some k =>
    let m := if wide then mask else mask % 2 ^ 96
    (k &&& m) == (key &&& m)

/-- The matching entries of the selected units, in cascade order: bank and entry (R133, R134). -/
def winnowMatches (t m key : Nat) (s : State) : List (Nat × Nat) :=
  let d := wtDesc t s
  let mask := winnowMask t m s
  (selectedUnits d key mask).flatMap (fun u =>
    ((List.range 8192).filter (fun e => entryMatches (wtWide d) (unitBank d u) e key mask s)).map (fun e => (unitBank d u, e)))

/-- Whether a number has an odd count of 1 bits among its lowest `n`. -/
def oddBits (n x : Nat) : Bool := (List.range n).foldl (fun acc i => acc != x.testBit i) false

/-- The parity bit of an entry: with VALID, which is 1, it makes the count of 1 bits even (R133; even parity is DESIGN CHOICE 153). -/
def parityBit (key : BitVec 96) (data : BitVec 32) (hits : Nat) : Bool :=
  !((oddBits 96 key.toNat != oddBits 32 data.toNat) != oddBits 8 hits)

/-- A valid entry with its parity bit. -/
def entryOf (key : BitVec 96) (data : BitVec 32) (hits : Nat) : WinnowEntry :=
  { key := key, data := data, hits := hits, parity := parityBit key data hits }

/-- Changes HITS of an entry, and its parity bit with it: an error that the entry already has stays one. -/
def setHits (hits : Nat) (x : WinnowEntry) : WinnowEntry :=
  { x with hits := hits, parity := x.parity != (oddBits 8 x.hits != oddBits 8 hits) }

/-- Whether an entry's parity bit is right. -/
def parityGood (x : WinnowEntry) : Bool := x.parity == parityBit x.key x.data x.hits

/-- Changes the counters of a table. -/
def countTable (t : Nat) (f : WinnowCounters → WinnowCounters) (s : State) : State :=
  { s with winnow := { s.winnow with counters := modifyNth f t s.winnow.counters } }

/-- Changes the entries. -/
def modifyEntries (f : List (Nat × WinnowEntry) → List (Nat × WinnowEntry)) (s : State) : State :=
  { s with winnow := { s.winnow with entries := f s.winnow.entries } }

/-- Invalidates an entry, and the other half of a pair. -/
def dropEntry (wide : Bool) (bank e : Nat) (s : State) : State :=
  modifyEntries (fun es => if wide then removeAt (entryKey (bank + 1) e) (removeAt (entryKey bank e) es) else removeAt (entryKey bank e) es) s

/-! ## Search (R134, R145, Table 6-5) -/

/-- The result word for the matches of a search. -/
def searchWord (ms : List (Nat × Nat)) (s : State) : Nat :=
  match ms with
  | [] => 0
  | (b, e) :: _ =>
    let n := min ms.length 15
    let data := ((lookup (entryKey b e) s.winnow.entries).map (·.data.toNat)).getD 0
    b * 2 ^ 58 + e * 2 ^ 45 + n * 2 ^ 41 + flagBit (decide (2 ≤ n)) * 2 ^ 40 + 2 ^ 39 + data

/-- One pass of a search: its matches, and whether the winner reads out with a parity error, in the entry as it is held or because an
upset strikes it now. Then the entry is invalidated and counted (R145). -/
def searchOnce (t m key : Nat) (upset : Bool) (s : State) : Bool × List (Nat × Nat) × State :=
  match winnowMatches t m key s with
  | [] => (true, [], s)
  | (b, e) :: rest =>
    let held := ((lookup (entryKey b e) s.winnow.entries).map parityGood).getD true
    if held ∧ upset = false then (true, (b, e) :: rest, s)
    else (false, [], countTable t (fun c => { c with parityDrops := bump c.parityDrops }) (dropEntry (wtWide (wtDesc t s)) b e s))

/-- The matches of a search, repeated once after a parity error; after a second there is no hit, and its entry is invalidated and counted
like the first (R145; DESIGN CHOICE 156). `upsets` is how many of the read-outs an upset strikes. -/
def searchRead (t m key upsets : Nat) (s : State) : List (Nat × Nat) × State :=
  match searchOnce t m key (decide (0 < upsets)) s with
  | (true, ms, s1) => (ms, s1)
  | (false, _, s1) => (searchOnce t m key (decide (1 < upsets)) s1).2

/-- SEARCH: the result word and the state after it. -/
def winnowSearch (t m key : Nat) (nocount : Bool) (badParity : Nat) (s : State) : Nat × State :=
  if !winnowServes t s then (0, s)
  else
    let (ms, s1) := searchRead t m key badParity s
    let word := searchWord ms s1
    let s2 := countTable t (fun c =>
      { c with searches := bump c.searches
               hits := if ms.isEmpty then c.hits else bump c.hits
               multiResults := if 2 ≤ ms.length then bump c.multiResults else c.multiResults }) s1
    match ms with
    | [] => (word, s2)
    | (b, e) :: _ =>
      if nocount then (word, s2)
      else
        (word, modifyEntries (fun es => es.map (fun x =>
          if x.1 = entryKey b e then (x.1, setHits (satAdd 8 x.2.hits 1) x.2) else x)) s2)

/-- SEARCH of a table under a mask (R134, R145). -/
def execSearch (table mask : Nat) (key : BitVec 192) (nocount : Bool) (badParity : Nat) (s : State) :
    Host.Outcome State Fault Refusal :=
  let r := winnowSearch (table % 8) (mask % 16) key.toNat nocount badParity s
  .next (emit (.winnowResult (BitVec.ofNat 64 r.1)) r.2)

/-! ## Insert (R142) -/

/-- Writes an entry of a unit: key, data and HITS, both halves of a pair. -/
def writeEntry (wide : Bool) (bank e key data hits : Nat) (s : State) : State :=
  let lo := entryOf (BitVec.ofNat 96 key) (BitVec.ofNat 32 data) hits
  let hi := entryOf (BitVec.ofNat 96 (key / 2 ^ 96)) 0 0
  modifyEntries (fun es =>
    let es1 := insertAt (entryKey bank e) lo es
    if wide then insertAt (entryKey (bank + 1) e) hi es1 else es1) s

/-- Step 1: the entry of a unit whose key equals the new one under MASK0. -/
def equalEntry (wide : Bool) (bank key : Nat) (s : State) : Option Nat :=
  firstIndex 8192 (fun e => entryMatches wide bank e key (2 ^ 192 - 1) s)

/-- Step 2: the lowest-numbered invalid entry of a unit. -/
def freeEntry (bank : Nat) (s : State) : Option Nat :=
  firstIndex 8192 (fun e => (lookup (entryKey bank e) s.winnow.entries).isNone)

/-- HITS of an entry. -/
def entryHits (bank e : Nat) (s : State) : Nat := ((lookup (entryKey bank e) s.winnow.entries).map (·.hits)).getD 0

/-- Step 3: the entry of a unit with the lowest HITS, the lowest-numbered on ties. -/
def coldEntry (bank : Nat) (s : State) : Nat :=
  (List.range 8192).foldl (fun best e => if entryHits bank e s < entryHits bank best s then e else best) 0

/-- Replaces an entry's data, leaving its HITS (step 1). -/
def replaceData (bank e data : Nat) (s : State) : State :=
  modifyEntries (fun es => es.map (fun x =>
    if x.1 = entryKey bank e then (x.1, entryOf x.2.key (BitVec.ofNat 32 data) x.2.hits) else x)) s

/-- The three steps within one unit. The entry that step 3 overwrites gets HITS 1, as a new one does (DESIGN CHOICE 154). -/
def insertUnit (t : Nat) (wide : Bool) (bank key data : Nat) (s : State) : State :=
  match equalEntry wide bank key s with
  | some e => replaceData bank e data s
  | none =>
    match freeEntry bank s with
    | some e => writeEntry wide bank e key data 1 s
    | none =>
      countTable t (fun c => { c with evictions := bump c.evictions })
        (writeEntry wide bank (coldEntry bank s) key data 1 s)

/-- INSERT into a table: the selected unit; with every unit selected, the first where step 1 or 2 applies, else the unit of
the victim pointer. That the pointer starts at unit 0 and moves on by one with each use is DESIGN CHOICE 155. -/
def winnowInsert (t key data : Nat) (s : State) : State :=
  if !winnowServes t s then s
  else
    let d := wtDesc t s
    let wide := wtWide d
    let s1 := countTable t (fun c => { c with inserts := bump c.inserts }) s
    if wtSelBits d = 0 then
      let applies := fun u => (equalEntry wide (unitBank d u) key s1).isSome || (freeEntry (unitBank d u) s1).isSome
      match firstIndex (wtUnits d) applies with
      | some u => insertUnit t wide (unitBank d u) key data s1
      | none =>
        let v := s1.winnow.victimPtr.getD t 0 % max 1 (wtUnits d)
        insertUnit t wide (unitBank d v) key data
          { s1 with winnow := { s1.winnow with victimPtr := s1.winnow.victimPtr.set t ((v + 1) % max 1 (wtUnits d)) } }
    else
      match selectedUnits d key (2 ^ 192 - 1) with
      | u :: _ => insertUnit t wide (unitBank d u) key data s1
      | [] => s1

/-- Whether a change of a table by a ticket is a guarded request (R144). -/
def winnowGuarded (t : Nat) (ticket : Option EpochRef) (s : State) : Bool := t == 0 && isGuarded ticket s

/-- Refuses a guarded change: the tine refuses to make it (R144, R125). -/
def winnowRefuse (ticket : Option EpochRef) (s : State) : State :=
  match ticket with
  | some e => refuseGuarded e e.harrow s
  | none => s

/-- INSERT by a ticket (R142, R144). -/
def execInsert (table : Nat) (key : BitVec 192) (data : Nat) (ticket : Option EpochRef) (s : State) :
    Host.Outcome State Fault Refusal :=
  .next (if winnowGuarded (table % 8) ticket s then winnowRefuse ticket s else winnowInsert (table % 8) key.toNat data s)

/-! ## Delete, age, clear (R143, R149) -/

/-- DELETE: every matching entry of the selected units is invalidated; how many. -/
def winnowDelete (t m key : Nat) (s : State) : Nat × State :=
  if !winnowServes t s then (0, s)
  else
    let ms := winnowMatches t m key s
    let wide := wtWide (wtDesc t s)
    (ms.length, ms.foldl (fun st x => dropEntry wide x.1 x.2 st) (countTable t (fun c => { c with deletes := bump c.deletes }) s))

/-- DELETE by a ticket (R140, R143, R144). -/
def execWinnowDelete (table mask : Nat) (key : BitVec 192) (ticket : Option EpochRef) (s : State) :
    Host.Outcome State Fault Refusal :=
  if winnowGuarded (table % 8) ticket s then .next (winnowRefuse ticket s)
  else
    let r := winnowDelete (table % 8) (mask % 16) key.toNat s
    .next (emit (.winnowDeleted r.1) r.2)

/-- AGE of a bank: HITS of every entry halved, rounding down. -/
def winnowAge (bank : Nat) (s : State) : State :=
  modifyEntries (fun es => es.map (fun x => if x.1 / 8192 = bank then (x.1, setHits (x.2.hits / 2) x.2) else x)) s

/-- AGE of a bank (R149). -/
def execAge (bank : Nat) (s : State) : Host.Outcome State Fault Refusal := .next (winnowAge bank s)

/-- CLEAR of a bank: every entry invalid. -/
def winnowClearBank (bank : Nat) (s : State) : State := modifyEntries (fun es => es.filter (fun x => x.1 / 8192 != bank)) s

/-- CLEAR of a bank (R143). -/
def execClear (bank : Nat) (s : State) : Host.Outcome State Fault Refusal := .next (winnowClearBank bank s)

/-- The banks of a table. -/
def tableBanks (d : Nat) : List Nat := (List.range (wtNbanks d)).map (fun i => wtFirst d + i)

/-- The aging interval ends: AGE to each bank of table 0 (R149). -/
def execWinnowAgeTimer (s : State) : Host.Outcome State Fault Refusal :=
  .next ((tableBanks (wtDesc 0 s)).foldl (fun st b => winnowAge b st) s)

/-- Clears every bank of a table, bank by bank (R143). -/
def winnowClearTable (d : Nat) (s : State) : State := (tableBanks d).foldl (fun st b => winnowClearBank b st) s

/-- At RESUME of a table, its pending descriptor and masks take effect, and a table whose descriptor has changed starts empty: the banks it
now has are cleared (R147). -/
def winnowResume (t : Nat) (s : State) : State :=
  let w := s.winnow
  let masks := w.pendingMasks.foldl (fun ms x => if x.1 / 16 = t then insertAt x.1 x.2 ms else ms) w.masks
  let s1 := { s with winnow := { w with masks := masks, pendingMasks := w.pendingMasks.filter (fun x => x.1 / 16 != t) } }
  match lookup t w.pendingDesc with
  | none => s1
  | some d =>
    let s2 := if d.toNat = wtDesc t s then s1 else winnowClearTable d.toNat s1
    { s2 with winnow := { s2.winnow with desc := s2.winnow.desc.set t d, pendingDesc := removeAt t s2.winnow.pendingDesc } }

/-! ## Commands (Table 6-8) -/

/-- The valid entries of a table; a pair counts as one. -/
def validEntries (t : Nat) (s : State) : Nat :=
  let d := wtDesc t s
  (s.winnow.entries.filter (fun x =>
    decide (wtFirst d ≤ x.1 / 8192) && decide (x.1 / 8192 < wtFirst d + wtNbanks d)
      && (!wtWide d || x.1 / 8192 % 2 == 0))).length

/-- WINNOW_TABLE_GET. -/
def winnowTableGet (p : McPacket) (s : State) : McEnd × State :=
  let t := parm p 0 1
  if 8 ≤ t then refuse stBadParam s else ok (leBytes 8 (wtDesc t s) ++ leBytes 8 (validEntries t s)) s

/-- WINNOW_TABLE_GET. -/
def execWinnowTableGet (p : McPacket) (s : State) : Host.Outcome State Fault Refusal :=
  .next (mciRun 0x0900 p (winnowTableGet p) s)

/-- The descriptors as they will stand after RESUME. -/
def futureDescs (s : State) : List Nat :=
  (List.range 8).map (fun t => ((lookup t s.winnow.pendingDesc).map (·.toNat)).getD (wtDesc t s))

/-- Whether one descriptor is legal on its own: its fields in the ranges of Table 6-1, RSV fields zero, and the tests of R137. -/
def descLegal (d : Nat) : Bool :=
  let width := if wtWide d then 192 else 96
  bitsOf d 63 48 == 0 && !bitOf d 34 && bitsOf d 31 15 == 0 && bitsOf d 7 6 == 0
    && decide (wtNbanks d ≤ 64) && decide (wtSelLsb d < width) && decide (wtSelBits d ≤ 16) && decide (wtSelLsb d + wtSelBits d ≤ width)
    && (!wtEnable d || (decide (1 ≤ wtNbanks d) && decide (wtFirst d + wtNbanks d ≤ 64)))
    && (!wtWide d || (wtFirst d % 2 == 0 && wtNbanks d % 2 == 0))

/-- Whether the bank ranges of two enabled tables overlap. -/
def descsOverlap (a b : Nat) : Bool :=
  wtEnable a && wtEnable b && decide (wtFirst a < wtFirst b + wtNbanks b) && decide (wtFirst b < wtFirst a + wtNbanks a)

/-- WINNOW_TABLE_SET (R135, R137, R147): descriptors 3 to 7 stay zero. -/
def winnowTableSet (p : McPacket) (s : State) : McEnd × State :=
  let t := parm p 0 1
  let d := parm p 8 8
  if 8 ≤ t then refuse stBadParam s
  else if (3 ≤ t ∧ d ≠ 0) ∨ descLegal d = false
      ∨ ((List.range 8).any (fun u => u != t && descsOverlap d ((futureDescs s).getD u 0))) = true then refuse stBadParam s
  else if fullyQuiesced (0x10 + t) s = false then refuse stNotQuiesced s
  else ok [] { s with winnow := { s.winnow with pendingDesc := insertAt t (BitVec.ofNat 64 d) s.winnow.pendingDesc } }

/-- WINNOW_TABLE_SET. -/
def execWinnowTableSet (p : McPacket) (s : State) : Host.Outcome State Fault Refusal :=
  .next (mciRun 0x0901 p (winnowTableSet p) s)

/-- WINNOW_MASK_SET (R139, R147): bits [191:96] are RSV where the table is not WIDE, and must be zero (R12). -/
def winnowMaskSet (p : McPacket) (s : State) : McEnd × State :=
  let t := parm p 0 1
  let m := parm p 1 1
  if 8 ≤ t ∨ m = 0 ∨ 16 ≤ m then refuse stBadParam s
  else if wtWide ((futureDescs s).getD t 0) = false ∧ parm p 20 12 ≠ 0 then refuse stBadParam s
  else if fullyQuiesced (0x10 + t) s = false then refuse stNotQuiesced s
  else ok [] { s with winnow := { s.winnow with
    pendingMasks := insertAt (16 * t + m) (BitVec.ofNat 192 (parm p 8 24)) s.winnow.pendingMasks } }

/-- WINNOW_MASK_SET. -/
def execWinnowMaskSet (p : McPacket) (s : State) : Host.Outcome State Fault Refusal :=
  .next (mciRun 0x0902 p (winnowMaskSet p) s)

/-- WINNOW_SEARCH: always NOCOUNT. -/
def winnowSearchCmd (p : McPacket) (s : State) : McEnd × State :=
  let t := parm p 0 1
  let m := parm p 1 1
  if 8 ≤ t ∨ 16 ≤ m then refuse stBadParam s
  else
    let r := winnowSearch t m (parm p 8 24) true 0 s
    ok (leBytes 8 r.1) r.2

/-- WINNOW_SEARCH. -/
def execWinnowSearch (p : McPacket) (s : State) : Host.Outcome State Fault Refusal :=
  .next (mciRun 0x0903 p (winnowSearchCmd p) s)

/-- WINNOW_READ: key, data, HITS and VALID of an entry, in the buffer. -/
def winnowRead (p : McPacket) (s : State) : McEnd × State :=
  let t := parm p 0 1
  let b := parm p 2 1
  let e := parm p 4 2
  if 8 ≤ t ∨ 64 ≤ b ∨ 8192 ≤ e then refuse stBadParam s
  else
    let wide := wtWide (wtDesc t s) && b % 2 == 0
    let rec1 := match lookup (entryKey b e) s.winnow.entries with
      | some x => leBytes 24 ((unitKey wide b e s).getD x.key.toNat) ++ leBytes 4 x.data.toNat ++ leBytes 1 x.hits ++ leBytes 1 1
      | none => zeros 30
    answerRecords p [rec1] [] s

/-- WINNOW_READ. -/
def execWinnowRead (p : McPacket) (s : State) : Host.Outcome State Fault Refusal := .next (mciRun 0x0904 p (winnowRead p) s)

/-- WINNOW_CLEAR. -/
def winnowClearCmd (p : McPacket) (s : State) : McEnd × State :=
  let t := parm p 0 1
  if 8 ≤ t then refuse stBadParam s else ok [] (winnowClearTable (wtDesc t s) s)

/-- WINNOW_CLEAR. -/
def execWinnowClear (p : McPacket) (s : State) : Host.Outcome State Fault Refusal :=
  .next (mciRun 0x0905 p (winnowClearCmd p) s)

/-- The counters of a table, in the order of R151. -/
def winnowWords (t : Nat) (s : State) : List Nat :=
  let c := s.winnow.counters.getD t ⟨0, 0, 0, 0, 0, 0, 0⟩
  [c.searches, c.hits, c.multiResults, c.inserts, c.evictions, c.deletes, c.parityDrops]

/-- WINNOW_STATS. -/
def winnowStats (p : McPacket) (s : State) : McEnd × State :=
  let t := parm p 0 1
  if 8 ≤ t then refuse stBadParam s else answerRecords p [(winnowWords t s).flatMap (leBytes 8)] [] s

/-- WINNOW_STATS. -/
def execWinnowStats (p : McPacket) (s : State) : Host.Outcome State Fault Refusal :=
  .next (mciRun 0x0906 p (winnowStats p) s)

end Sys2Proof.Machine
end

