-- ==== Sys2Proof/Machine/MapOps.lean ====
section
/-! DEFINITION. The map, its references and the index (R276, R82, R83, R290-R292): resolving a grain, changing an entry,
gaining and losing references, and the death of a chunk. -/

namespace Sys2Proof.Machine

/-- Changes the map part. -/
def modifyMap (f : MapTables → MapTables) (s : State) : State := { s with map := f s.map }

/-! ## Locations and references -/

/-- The location entry of a chunk. -/
def locOf (chunk : Nat) (s : State) : Option Loc := lookup chunk s.map.locs

/-- The location entry a map entry names: of its chunk, with its generation. -/
def entryLoc (entry : Nat) (s : State) : Option Loc :=
  (locOf (entryChunk entry) s).bind (fun l => if l.gen = entryGen entry then some l else none)

/-- The Winnow key of a fingerprint: the hot tag and the domain (R73). -/
def hotKey (domain : Nat) (fp : Bytes) : Nat := domain % 256 * 2 ^ 64 + fpTag fp

/-- The index entry of a fingerprint in a domain. -/
def indexFind (domain : Nat) (fp : Bytes) (s : State) : Option IndexEntry :=
  s.map.index.find? (fun e => e.domain == domain && e.fp == fp)

/-- The page a new index entry goes to: one of its domain with fewer than 407 entries, else a new one (R277). -/
def indexPage (domain : Nat) (s : State) : Nat :=
  let own := s.map.index.filter (fun e => e.domain == domain)
  match own.find? (fun e => decide ((own.filter (fun x => x.page == e.page)).length < 407)) with
  | some e => e.page
  | none => (s.map.index.map (·.page)).foldl (fun m x => max m (x + 1)) 0

/-- Enters a fingerprint: index entry, hot tag and the filter's bytes (R75, R83). -/
def indexEnter (domain : Nat) (fp : Bytes) (entry : Nat) (s : State) : State :=
  let page := indexPage domain s
  let s1 := modifyMap (fun m => { m with index := m.index ++ [{ domain := domain, fp := fp, entry := entry, page := page }] }) s
  let s2 := modifyIngest (fun i => { i with filter := hotKey domain fp :: i.filter }) s1
  winnowInsert 0 (hotKey domain fp) page s2

/-- Removes a chunk's index entry and hot tag (R83). -/
def indexDrop (entry : Nat) (s : State) : State :=
  (s.map.index.filter (fun e => e.entry == entry)).foldl (fun st e => (winnowDelete 0 0 (hotKey e.domain e.fp) st).2)
    (modifyMap (fun m => { m with index := m.index.filter (fun e => e.entry != entry) }) s)

/-- Counts of stored chunks per epoch (R195). -/
def epochCount (domain epoch : Nat) (up : Bool) (s : State) : State :=
  modifyMap (fun m => { m with domains := m.domains.map (fun x =>
    if x.1 = domain then
      (x.1, { x.2 with counts := updateAt epoch 0 (fun n => if up then n + 1 else n - 1) x.2.counts })
    else x) }) s

/-- A chunk dies: its index entry, hot tag and read-cache entry go; its record is dead (R83, R94). -/
def chunkDeath (entry : Nat) (s : State) : State :=
  let s1 := indexDrop entry s
  let s2 := { s1 with read := { s1.read with
    cache := s1.read.cache.filter (fun e => e.chunk != entryChunk entry || e.gen != entryGen entry) } }
  match entryLoc entry s with
  | some l => if l.len = 0 then s2 else epochCount l.domain l.epoch false s2
  | none => s2

/-- Changes a location entry. -/
def modifyLoc (chunk : Nat) (f : Loc → Loc) (s : State) : State :=
  modifyMap (fun m => { m with locs := m.locs.map (fun x => if x.1 = chunk then (x.1, f x.2) else x) }) s

/-- The permanent count of R82. -/
def refMax : Nat := 0xFFFFFFFF

/-- A chunk gains a reference; at the maximum it is permanent and counted for quadrant `q` (R82). -/
def refGain (q entry : Nat) (s : State) : State :=
  match entryLoc entry s with
  | none => s
  | some l =>
    if refMax ≤ l.refcount then s
    else
      let s1 := modifyLoc (entryChunk entry) (fun x => { x with refcount := x.refcount + 1 }) s
      if l.refcount + 1 = refMax then countIngest q (fun c => { c with refcountSaturated := bump c.refcountSaturated }) s1 else s1

/-- A chunk loses a reference; at zero it dies in the same step (R83). -/
def refLose (entry : Nat) (s : State) : State :=
  match entryLoc entry s with
  | none => s
  | some l =>
    if refMax ≤ l.refcount ∨ l.refcount = 0 then s
    else
      let s1 := modifyLoc (entryChunk entry) (fun x => { x with refcount := x.refcount - 1 }) s
      if l.refcount = 1 then chunkDeath entry s1 else s1

/-! ## Grains and snapshots (R276, R290) -/

/-- The key of a live map entry. -/
def liveKey (ns grain : Nat) : Nat := ns * 2 ^ 31 + grain

/-- The live entry of a grain; zero where unmapped. -/
def liveEntry (ns grain : Nat) (s : State) : Nat := lookupD (liveKey ns grain) s.map.live 0

/-- The snapshots of a namespace or object domain in CREATE_JSEQ order, oldest first. -/
def snapsOf (kind id : Nat) (s : State) : List Snapshot :=
  let own := s.map.snaps.filter (fun x => x.kind == kind && x.id == id)
  own.foldl (fun acc x => (acc.takeWhile (fun y => decide (y.createJseq < x.createJseq))) ++ x ::
    (acc.dropWhile (fun y => decide (y.createJseq < x.createJseq)))) []

/-- The MAP page of a grain. -/
def mapPage (grain : Nat) : Nat := grain / 2040

/-- A snapshot's own copy of a page. -/
def snapCopy (ns snap page : Nat) (s : State) : Option SnapPage :=
  s.map.pages.find? (fun p => p.ns == ns && p.snap == snap && p.page == page)

/-- The entry a page copy gives a grain. -/
def copyEntry (p : SnapPage) (grain : Nat) : Nat := lookupD grain p.entries 0

/-- Resolves a grain for a snapshot: its own copy of the page, that of the next newer snapshot that holds one, or the live
page (R276). Snapshot 0 is the live content. -/
def resolveGrain (ns snap grain : Nat) (s : State) : Nat :=
  if snap = 0 then liveEntry ns grain s
  else
    let from' := (snapsOf 1 ns s).dropWhile (fun x => x.num != snap)
    match from'.findSome? (fun x => snapCopy ns x.num (mapPage grain) s) with
    | some p => copyEntry p grain
    | none => liveEntry ns grain s

/-- The live entries of a MAP page. -/
def livePage (ns page : Nat) (s : State) : List (Nat × Nat) :=
  (s.map.live.filter (fun e => e.1 / 2 ^ 31 == ns && mapPage (e.1 % 2 ^ 31) == page)).map (fun e => (e.1 % 2 ^ 31, e.2))

/-- The snapshots that are versions of a page: those being deleted count only while they hold their own copy of it (R291). -/
def pageVersions (ns page : Nat) (s : State) : List Snapshot :=
  (snapsOf 1 ns s).filter (fun x => !x.deleting || (snapCopy ns x.num page s).isSome)

/-- What a grain's newest snapshot resolves to; none where there is no snapshot (R290). -/
def newestResolved (ns grain : Nat) (s : State) : Option Nat :=
  ((pageVersions ns (mapPage grain) s).getLast?).map (fun x => resolveGrain ns x.num grain s)

/-- The entries a page has for a snapshot, as it resolves (R276). -/
def resolvedPage (ns snap page : Nat) (s : State) : List (Nat × Nat) :=
  let from' := (snapsOf 1 ns s).dropWhile (fun x => x.num != snap)
  match from'.findSome? (fun x => snapCopy ns x.num page s) with
  | some p => p.entries
  | none => livePage ns page s

/-- A page of a snapshot that has become its own copy: its content is what it resolves to (R276). -/
def takeCopy (ns snap page : Nat) (s : State) : State :=
  if snap = 0 ∨ (snapCopy ns snap page s).isSome = true then s
  else
    let c : SnapPage := { ns := ns, snap := snap, page := page, entries := resolvedPage ns snap page s }
    modifyMap (fun m => { m with pages := m.pages ++ [c] }) { s with repl := { s.repl with counters :=
      { s.repl.counters with snapPagesCopied := bump s.repl.counters.snapPagesCopied } } }

/-- The copy that must be made before a grain's live entry changes: its page's, for the newest snapshot that has none (R276). -/
def copyNeeded (ns grain : Nat) (s : State) : Option SnapPage :=
  match (pageVersions ns (mapPage grain) s).getLast? with
  | none => none
  | some x =>
    if (snapCopy ns x.num (mapPage grain) s).isSome then none
    else some { ns := ns, snap := x.num, page := mapPage grain, entries := livePage ns (mapPage grain) s }

/-- Sets a live entry; zero is not listed. -/
def putLive (ns grain entry : Nat) (s : State) : State :=
  modifyMap (fun m => { m with live := if entry = 0 then removeAt (liveKey ns grain) m.live
                                       else insertAt (liveKey ns grain) entry m.live }) s

/-- Changes the live entry of a grain with the reference changes of R290; `counted` where the new chunk's location already
holds the reference of this mapping. -/
def changeLive (q ns grain new : Nat) (counted : Bool) (s : State) : State :=
  let old := liveEntry ns grain s
  let v := newestResolved ns grain s
  let s1 := putLive ns grain new s
  let s2 := if new = 0 ∨ counted = true ∨ v = some new then s1 else refGain q new s1
  if old = 0 ∨ v = some old then s2 else refLose old s2

/-! ## Objects (R278, R292) -/

/-- The pieces of an object. -/
def piecesOf (object : Nat) (s : State) : List Piece := lookupD object s.map.pieces []

/-- The entry a piece of an object maps to. -/
def pieceEntry (object offset : Nat) (s : State) : Nat :=
  (((piecesOf object s).find? (fun p => p.offset == offset)).map (·.entry)).getD 0

/-- Inserts a piece in offset order, in place of one with its offset. -/
def insertPiece (p : Piece) : List Piece → List Piece
  | [] => [p]
  | x :: rest => if x.offset < p.offset then x :: insertPiece p rest
                 else if x.offset = p.offset then p :: rest else p :: x :: rest

/-- Maps a piece of an object: the new chunk gains a reference, unless its location already counts it, and an earlier chunk of
the piece loses one (R292). -/
def changePiece (q object offset len new : Nat) (counted : Bool) (s : State) : State :=
  let old := pieceEntry object offset s
  let put := updateAt object [] (insertPiece { entry := new, offset := offset, len := len })
  let s1 := modifyMap (fun m => { m with pieces := put m.pieces }) s
  let s2 := if new = 0 ∨ counted = true then s1 else refGain q new s1
  if old = 0 then s2 else refLose old s2

/-- Drops every piece of an object: each chunk loses one reference (R292, R402). -/
def dropPieces (object : Nat) (s : State) : State :=
  (piecesOf object s).foldl (fun st p => if p.entry = 0 then st else refLose p.entry st)
    (modifyMap (fun m => { m with pieces := removeAt object m.pieces }) s)

/-- An object record by number. -/
def objectAt (number : Nat) (s : State) : Option ObjRecord := s.map.objects.find? (fun o => o.number == number)

/-- Whether two records are of one key of one object domain. -/
def sameKey (a b : ObjRecord) : Bool := a.objDomain == b.objDomain && a.key == b.key

/-- The commit time of a version's successor, if it has one. -/
def successorTime (o : ObjRecord) (s : State) : Option Nat :=
  let later := (s.map.objects.filter (fun x => sameKey x o && decide (o.commitTime < x.commitTime))).map (·.commitTime)
  match later with
  | [] => none
  | t :: rest => some (rest.foldl min t)

/-- Whether snapshot `x` holds a version: its window contains CREATE_TIME (R292). -/
def snapHolds (x : Snapshot) (o : ObjRecord) (s : State) : Bool :=
  !x.deleting && decide (o.commitTime ≤ x.createTime) && (match successorTime o s with
    | some t => decide (x.createTime < t)
    | none => true)

/-- Whether a version that has a successor must be kept: a snapshot or a standing hold keeps it (R292, R405). -/
def versionKept (o : ObjRecord) (s : State) : Bool :=
  (snapsOf 2 o.objDomain s).any (fun x => snapHolds x o s) || decide (arrayTime s < o.holdUntil)

/-- Frees a version that is neither current nor kept: its piece references and its slot (R292). -/
def freeVersion (o : ObjRecord) (s : State) : State :=
  if (successorTime o s).isSome ∧ versionKept o s = false then
    dropPieces o.number (modifyMap (fun m => { m with objects := m.objects.filter (fun x => x.number != o.number) }) s)
  else s

/-- Frees every version of an object domain that nothing keeps any more. -/
def sweepVersions (objDomain : Nat) (s : State) : State :=
  (s.map.objects.filter (fun o => o.objDomain == objDomain)).foldl (fun st o => freeVersion o st) s

/-- The current version of a key, DELETED or CURRENT. -/
def currentVersion (objDomain : Nat) (key : Bytes) (s : State) : Option ObjRecord :=
  s.map.objects.find? (fun o => o.objDomain == objDomain && o.key == key && (successorTime o s).isNone && o.state != 2)

/-- Writes an object record slot: the version it ends becomes SUPERSEDED, and is freed unless kept (R278, R292). -/
def putObject (o : ObjRecord) (s : State) : State :=
  let others := s.map.objects.filter (fun x => x.number != o.number)
  let ended := others.map (fun x => if sameKey x o ∧ x.number = o.prev ∧ x.state = 1 then { x with state := 2 } else x)
  let s1 := modifyMap (fun m => { m with objects := if o.state = 0 then others else ended ++ [o] }) s
  let s2 := match objectAt o.prev s1 with
    | some p => freeVersion p s1
    | none => s1
  match objectAt o.number s2 with
  | some x => freeVersion x s2
  | none => s2

/-- The next COMMIT_TIME or CREATE_TIME of an object domain: array time, above every one issued before (R292). -/
def issueTime (d : Nat) (s : State) : Nat × State :=
  let made := (s.map.objects.filter (fun o => o.objDomain == d)).map (·.commitTime)
  let snaps := (s.map.snaps.filter (fun x => x.kind == 2 && x.id == d)).map (·.createTime)
  let last := (made ++ snaps).foldl max (lookupD d s.sheaf.issued 0)
  let t := max (arrayTime s) (last + 1)
  (t, { s with sheaf := { s.sheaf with issued := insertAt d t s.sheaf.issued } })

end Sys2Proof.Machine
end

