-- ==== Sys2Proof/Machine/Journal.lean ====
section
/-! DEFINITION. The journal (R86, R280, R281) and mirroring (R311-R314): reading a record's bytes, applying a record to the
tables, placing one in the ring and sending it to the peer. -/

namespace Sys2Proof.Machine

/-! ## Reading records (Tables 11-7 to 11-12) -/

/-- A target from its 24 bytes. -/
def parseTarget (b : Bytes) : Target :=
  if fieldAt b 0 1 = 1 then .grain (fieldAt b 2 2) (fieldAt b 8 8) else .piece (fieldAt b 8 8) (fieldAt b 16 8) (fieldAt b 4 4)

/-- A location entry from its 16 bytes; its record's domain and epoch are not in them. -/
def parseLoc (b : Bytes) : Loc :=
  let pos := fieldAt b 4 5
  { acre := fieldAt b 0 4, bale := bitsOf pos 34 24, plot := bitsOf pos 39 35, off := bitsOf pos 23 12, len := bitsOf pos 11 0,
    gen := fieldAt b 9 3, refcount := fieldAt b 12 4, domain := 0, epoch := 0 }

/-- An object record from its 128 bytes (Table 11-8). -/
def parseObject (b : Bytes) : ObjRecord :=
  { key := slice b 0 32, objDomain := fieldAt b 0x20 1, dedupDomain := fieldAt b 0x21 1, state := fieldAt b 0x22 1,
    holdFlags := fieldAt b 0x23 1, number := fieldAt b 0x28 8, size := fieldAt b 0x30 8, pieceCount := fieldAt b 0x38 8,
    commitTime := fieldAt b 0x40 8, holdUntil := fieldAt b 0x48 8, prev := fieldAt b 0x50 8 }

/-- A pair record from its 64 bytes (Table 12-9). -/
def parsePair (b : Bytes) : PairRecord :=
  { pair := fieldAt b 0 2, role := fieldAt b 2 1, state := fieldAt b 3 1, kind := fieldAt b 4 1, slot := fieldAt b 5 1,
    source := fieldAt b 6 2, target := fieldAt b 8 2, sessionLast := fieldAt b 0xC 4, partner := slice b 0x10 16,
    lastTargetJseq := fieldAt b 0x20 8 }

/-- A table change from its bytes. -/
def parseTable (b : Bytes) : Option TableChange :=
  let id := fieldAt b 2 2
  match fieldAt b 0 1 with
  | 1 =>
    let ex := if fieldAt b 32 1 = 1 then some (fieldAt b 34 2, fieldAt b 36 2) else none
    some (.nspace { id := id, size := fieldAt b 8 8, lbaLog2 := fieldAt b 4 1, domain := fieldAt b 1 1, nguid := slice b 16 16,
                        hosts := (List.range (fieldAt b 6 2)).map (fun i => fieldAt b (40 + 2 * i) 2), owner := fieldAt b 5 1,
                        exposes := ex })
  | 2 => some (.namespaceGone id)
  | 3 => some (.objdom { id := id, domain := fieldAt b 1 1, owner := fieldAt b 4 1,
                         clients := (List.range (fieldAt b 6 2)).map (fun i => fieldAt b (8 + 16 * i) 16) })
  | 4 => some (.objdomGone id)
  | 5 => some (.domain id (fieldAt b 4 1) (fieldAt b 5 1) (fieldAt b 6 1) (slice b 8 32))
  | 6 => some (.domainGone id)
  | 7 => some (.host id (slice b 8 (fieldAt b 4 2)))
  | 8 => some (.hostGone id)
  | 9 => some (.idGrant (fieldAt b 1 1) ((List.range id).map (fun i => (fieldAt b (4 + 8 * i) 4, fieldAt b (8 + 8 * i) 4))))
  | 10 => some (.bind id (fieldAt b 1 1))
  | _ => none

/-- A journal record from its bytes: JSEQ and body; none for PAD and for types a reader skips. `b` is the body from 0x10. -/
def parseBody (jtype : Nat) (b : Bytes) (now : Nat) : Option JBody :=
  let t := parseTarget (slice b 0 24)
  match jtype with
  | 1 => some (.buffered t (fieldAt b 0x18 4) (fieldAt b 0x1C 4) (fieldAt b 0x20 8))
  | 2 => some (.chunk t (fieldAt b 0x18 8) (parseLoc (slice b 0x20 16)) (slice b 0x30 32))
  | 3 => some (.reference t (fieldAt b 0x18 8))
  | 4 => some (.unmap t (fieldAt b 0x18 8))
  | 5 => some (.relocate (fieldAt b 0 8) (parseLoc (slice b 8 16)))
  | 6 => some (.object (parseObject b))
  | 7 => some (.snapshot (fieldAt b 0 1) (fieldAt b 1 1) (fieldAt b 2 2) (fieldAt b 4 2) now)
  | 8 => some (.envelope (fieldAt b 0 1) (fieldAt b 4 4) (fieldAt b 1 1) (fieldAt b 8 8) (slice b 0x10 40))
  | 9 => some (.keyEpoch (fieldAt b 0 1) (fieldAt b 4 4))
  | 10 => some (.epochDestroy (fieldAt b 0 1) (fieldAt b 4 4))
  | 11 => some (.page (fieldAt b 0 8) (fieldAt b 8 4) (fieldAt b 12 2) (fieldAt b 14 1) (fieldAt b 15 1) none)
  | 12 => some (.acreState (fieldAt b 0 4) (fieldAt b 4 1))
  | 13 => some (.checkpoint (fieldAt b 0 8) (fieldAt b 8 4, fieldAt b 12 2, fieldAt b 14 1, fieldAt b 15 1))
  | 14 => some (.time (fieldAt b 0 8) (fieldAt b 8 8))
  | 15 => some (.replPair (parsePair b))
  | 16 => some (.scopeParam { kind := fieldAt b 0 1, id := fieldAt b 2 2, param := fieldAt b 4 2,
                              value := slice b 8 (fieldAt b 6 2) })
  | j => if j = Config.tableType ∧ j ≠ 0 then (parseTable b).map .table else none

/-- The records that lie back to back in some bytes, each with its JSEQ, type and whole bytes; a bad CRC or a length that
cannot be ends the reading (R281). -/
def splitRecords : Nat → Bytes → List (Nat × Nat × Bytes)
  | 0, _ => []
  | fuel + 1, b =>
    let len := fieldAt b 2 2
    if b.length < 16 ∨ len < 16 ∨ b.length < len then []
    else
      let r := b.take len
      if crc32c (overlay r 4 [0, 0, 0, 0]) ≠ fieldAt r 4 4 then []
      else (fieldAt r 8 8, fieldAt r 0 1, r) :: splitRecords fuel (b.drop len)

/-! ## Acres found on media (R223, R268, R283) -/

/-- The acre header at the start of a block: in a data plot header, or in the ACRE unit of a metadata bale. -/
def blockHeader (cws : List Bytes) : Option Acre :=
  let c := cws.headD []
  let h := if isPlotHeader c then slice c 256 256 else if isUnit (cws.take 4).flatten then slice c 64 256 else []
  if isAcreHeader h then some (parseAcre h) else none

/-- Every acre whose header stands on a bridge, as each block in service shows it. -/
def mediaAcres (s : State) : List Acre :=
  (List.range 192).flatMap (fun b =>
    let gone := ((s.media.bridges[b]?).map (·.retired)).getD []
    ((bridgeAt b s).nand.filter (fun x => !gone.contains x.1)).filterMap (fun x => blockHeader x.2.cws))

/-- An acre by its header on media: the highest OPEN_SEQ decides (R283). -/
def acreOnMedia (n : Nat) (s : State) : Option Acre :=
  ((mediaAcres s).filter (fun a => a.num == n)).foldl (fun (acc : Option Acre) a => match acc with
    | some x => if x.openSeq < a.openSeq then some a else acc
    | none => some a) none

/-- Rebuilds the acre table from the headers on media: acres that it does not hold join it (R223). -/
def rebuildAcres (s : State) : State :=
  let found := (mediaAcres s).foldl (fun (acc : List Nat) a => if acc.contains a.num then acc else acc ++ [a.num]) []
  let new := (found.filter (fun n => !s.media.acres.any (fun a => a.num == n))).filterMap (fun n => acreOnMedia n s)
  { s with media := { s.media with acres := s.media.acres ++ new } }

/-! ## Applying a record -/

/-- The dedup domain of a target: of its namespace, or of its object. -/
def targetDomain (t : Target) (s : State) : Nat :=
  match t with
  | .grain ns _ => ((s.map.namespaces.find? (fun n => n.id == ns)).map (·.domain)).getD 0
  | .piece o _ _ => match objectAt o s with
    | some r => r.dedupDomain
    | none => ((s.ingest.objects.find? (fun x => x.number == o)).map (·.domain)).getD 0

/-- The quadrant of a target (R59). -/
def targetQuadrant (t : Target) (s : State) : Nat :=
  match t with
  | .grain ns g => (g + ns) % 4
  | .piece o _ _ => match objectAt o s with
    | some r => (r.key.getD 0 0).toNat % 4
    | none => ((s.ingest.objects.find? (fun x => x.number == o)).map (·.quadrant)).getD 0

/-- Maps a target (R290, R292). -/
def mapTarget (t : Target) (entry : Nat) (counted : Bool) (s : State) : State :=
  match t with
  | .grain ns g => changeLive (targetQuadrant t s) ns g entry counted s
  | .piece o off len => changePiece (targetQuadrant t s) o off len entry counted s

/-- Changes a dedup domain. -/
def modifyDomain (d : Nat) (f : Domain → Domain) (s : State) : State :=
  modifyMap (fun m => { m with domains := m.domains.map (fun x => if x.1 = d then (x.1, f x.2) else x) }) s

/-- A dedup domain. -/
def domainAt (d : Nat) (s : State) : Option Domain := lookup d s.map.domains

/-- CHUNK: the location is set with its reference count, the target mapped, and the index entry made where the fingerprint has
none (R75, R280). A fingerprint of zeros stands for a chunk stored without an index entry (R76, DESIGN CHOICE 138). -/
def applyChunk (t : Target) (entry : Nat) (l : Loc) (fp : Bytes) (s : State) : State :=
  let d := if l.domain = 0 then targetDomain t s else l.domain
  let ep := if l.epoch = 0 then ((domainAt d s).map (·.epoch)).getD 0 else l.epoch
  let s1 := modifyMap (fun m => { m with locs := insertAt (entryChunk entry) { l with domain := d, epoch := ep } m.locs }) s
  let s2 := if l.len = 0 then s1 else epochCount d ep true s1
  let s3 := if l.len = 0 ∨ allZero fp = true ∨ (indexFind d fp s2).isSome = true then s2 else indexEnter d fp entry s2
  mapTarget t entry true s3

/-- RELOCATE: the location is replaced, its reference count and generation kept (R280). A record from the peer names no epoch: what it moved
is under its domain's current one (R196; DEDUCED 119). -/
def applyRelocate (entry : Nat) (l : Loc) (s : State) : State :=
  match entryLoc entry s with
  | none => s
  | some old =>
    let ep := if l.epoch = 0 then ((domainAt old.domain s).map (·.epoch)).getD old.epoch else l.epoch
    let s1 := if l.len = 0 then epochCount old.domain old.epoch false s
              else if ep = old.epoch then s
              else epochCount old.domain ep true (epochCount old.domain old.epoch false s)
    modifyLoc (entryChunk entry) (fun x => { l with gen := x.gen, refcount := x.refcount, domain := x.domain, epoch := ep }) s1

/-- UNMAP: grains from the target on, or the pieces of an ended PUT (R280, R402). -/
def applyUnmap (t : Target) (count : Nat) (s : State) : State :=
  match t with
  | .grain ns g =>
    let mine := s.map.live.filter (fun e => decide (liveKey ns g ≤ e.1) && decide (e.1 < liveKey ns g + count))
    mine.foldl (fun st e => mapTarget (.grain ns (e.1 - liveKey ns 0)) 0 false st) s
  | .piece o _ _ => dropPieces o s

/-- SNAPSHOT create and delete (R288, R291): a deleted snapshot stays until every page of which it holds a copy is settled; versions
of objects that it alone held go (R292). -/
def applySnapshot (kind op id num time jseq : Nat) (s : State) : State :=
  if op = 1 then
    modifyMap (fun m => { m with snaps := m.snaps ++
      [{ kind := kind, id := id, num := num, createJseq := jseq, createTime := time, deleting := false }] })
      { s with repl := { s.repl with lastSnap := insertAt (kind * 2 ^ 16 + id) num s.repl.lastSnap } }
  else
    let mine := fun (x : Snapshot) => x.kind == kind && x.id == id && x.num == num
    let holds := kind == 1 && s.map.pages.any (fun p => p.ns == id && p.snap == num)
    let mark := fun (xs : List Snapshot) => if holds then mapIf mine (fun x => { x with deleting := true }) xs else xs.filter (fun x => !mine x)
    let s1 := modifyMap (fun m => { m with snaps := mark m.snaps }) s
    if kind = 2 then sweepVersions id s1 else s1

/-- ENVELOPE: recorded once per epoch; a later one replaces it, and its slot is the domain's from then on (R280, KEY_REWRAP). -/
def applyEnvelope (d epoch kek time : Nat) (wrapped : Bytes) (s : State) : State :=
  modifyDomain d (fun x =>
    { x with envelopes := x.envelopes.filter (fun e => e.epoch != epoch) ++ [{ epoch := epoch, kek := kek, time := time, wrapped := wrapped }]
             kek := kek, issued := max x.issued epoch }) s

/-- EPOCH_DESTROY: the working slot is emptied and the envelopes of the epoch are destroyed; copies still lie on media, and the
number is not issued again (R193, R197). -/
def applyDestroy (d epoch : Nat) (s : State) : State :=
  let s1 := { s with cipher := { s.cipher with
    slots := s.cipher.slots.filter (fun x => !(x.2.use == .data && x.2.domain == d && x.2.epoch == epoch)) } }
  modifyDomain d (fun x =>
    { x with envelopes := x.envelopes.filter (fun e => e.epoch != epoch), issued := max x.issued epoch
             destroying := if x.destroying.contains epoch then x.destroying else x.destroying ++ [epoch] }) s1

/-- SCOPE_PARAM: the scope's parameter is set; VOXCA_LEVEL and VERIFY_POLICY stand in the domain (R576). One that is quiesce-only waits
for the RESUME of its function; its INDEX among the pending values is 2^16 × kind + ID. -/
def applyScopeParam (p : ScopeParam) (s : State) : State :=
  if (((paramDef p.param).map (·.quiesce)).getD []).any (fun f => isQuiesced f s) then
    let same := fun (v : ParamVal) => v.id == p.param && v.index == 2 ^ 16 * p.kind + p.id
    { s with mci := { s.mci with pendingParams :=
        s.mci.pendingParams.filter (fun v => !same v) ++ [{ id := p.param, index := 2 ^ 16 * p.kind + p.id, value := p.value }] } }
  else
  let same := fun (x : ScopeParam) => x.kind == p.kind && x.id == p.id && x.param == p.param
  let s1 := modifyMap (fun m => { m with scopeParams := m.scopeParams.filter (fun x => !same x) ++ [p] }) s
  if p.kind = 3 ∧ p.param = 0x0301 then modifyDomain p.id (fun d => { d with voxcaLevel := leNat p.value }) s1
  else if p.kind = 3 ∧ p.param = 0x0303 then modifyDomain p.id (fun d => { d with verifyPolicy := leNat p.value }) s1
  else s1

/-- Whether two pair records are of one pair or designation (R296). -/
def samePair (a b : PairRecord) : Bool :=
  a.role == b.role && a.pair == b.pair && (a.pair != 0xFFFF || (a.kind == b.kind && a.target == b.target))

/-- Changes an acre in the head's table. -/
def modifyAcre (n : Nat) (f : Acre → Acre) (s : State) : State :=
  { s with media := { s.media with acres := mapIf (fun a => a.num == n) f s.media.acres } }

/-- A change of the tables of namespaces, domains and hosts (DESIGN CHOICE 21). -/
def applyTable (c : TableChange) (s : State) : State :=
  match c with
  | .nspace n => modifyMap (fun m => { m with namespaces := m.namespaces.filter (fun x => x.id != n.id) ++ [n] }) s
  | .namespaceGone id => modifyMap (fun m => { m with
      namespaces := m.namespaces.filter (fun x => x.id != id), scopeParams := m.scopeParams.filter (fun x => !(x.kind == 1 && x.id == id)) }) s
  | .objdom o => modifyMap (fun m => { m with objdoms := m.objdoms.filter (fun x => x.id != o.id) ++ [o] }) s
  | .objdomGone id =>
    let s1 := (s.map.objects.filter (fun o => o.objDomain == id)).foldl (fun st o => dropPieces o.number st) s
    modifyMap (fun m => { m with
      objects := m.objects.filter (fun o => o.objDomain != id), snaps := m.snaps.filter (fun x => !(x.kind == 2 && x.id == id))
      objdoms := m.objdoms.filter (fun x => x.id != id), scopeParams := m.scopeParams.filter (fun x => !(x.kind == 2 && x.id == id)) }) s1
  | .domain id kek level policy salt =>
    let d : Domain := { id := id, salt := salt, kek := kek, voxcaLevel := level, verifyPolicy := policy, epoch := 0, issued := 0,
                        counts := [], envelopes := [], destroying := [], locked := false, lockTold := false }
    modifyMap (fun m => { m with domains := insertAt id d m.domains }) s
  | .domainGone id =>
    modifyMap (fun m => { m with
      domains := removeAt id m.domains, scopeParams := m.scopeParams.filter (fun x => !(x.kind == 3 && x.id == id)) })
      { s with cipher := { s.cipher with slots := s.cipher.slots.filter (fun x => !(x.2.use == .data && x.2.domain == id)) } }
  | .host i nqn => modifyMap (fun m => { m with hosts := insertAt i nqn m.hosts }) s
  | .hostGone i => modifyMap (fun m => { m with hosts := removeAt i m.hosts }) s
  | .idGrant _ _ => s
  | .bind id kek => modifyDomain id (fun d => { d with kek := kek }) s
/-- Applies a record to the tables (Table 11-12). -/
def applyBody (jseq : Nat) (b : JBody) (s : State) : State :=
  match b with
  | .buffered _ _ _ _ => s
  | .chunk t e l fp => applyChunk t e l fp s
  | .reference t e => mapTarget t e false s
  | .unmap t n => applyUnmap t n s
  | .relocate e l => applyRelocate e l s
  | .object o => putObject o s
  | .snapshot k op id n time => applySnapshot k op id n time jseq s
  | .envelope d ep kek time w => applyEnvelope d ep kek time w s
  | .keyEpoch d ep => modifyDomain d (fun x => { x with epoch := ep, issued := max x.issued ep }) s
  | .epochDestroy d ep => applyDestroy d ep s
  | .page pid a ba pl r _ =>
    let s1 := { s with journal := { s.journal with directory := insertAt pid (a, ba, pl, r) s.journal.directory } }
    if pid / 2 ^ 58 = 4 then takeCopy (pid / 2 ^ 47 % 2 ^ 11) (pid / 2 ^ 31 % 2 ^ 16) (pid % 2 ^ 31) s1 else s1
  | .acreState a st =>
    if st = 0 then { s with media := { s.media with acres := s.media.acres.filter (fun x => x.num != a) } }
    else if s.media.acres.any (fun x => x.num == a) then modifyAcre a (fun x => { x with state := st }) s
    else match (if st = 2 then acreOnMedia a s else none) with
      | some x => { s with media := { s.media with acres := s.media.acres ++ [x] } }
      | none => s
  | .checkpoint _ _ => s
  | .time _ _ => s
  | .replPair p => modifyMap (fun m => { m with pairs := m.pairs.filter (fun x => !samePair x p) ++ (if p.state = 0 then [] else [p]) }) s
  | .scopeParam p => applyScopeParam p s
  | .table c => applyTable c s

/-! ## Mirroring (R311-R314) -/

/-- Whether the head mirrors what it places: in ACTIVE and RETURN, and in SOLE from the start of a resync (Tables 3-3, 13-9). -/
def mirrorActive (s : State) : Bool :=
  match baseMode s with
  | .active => true | .returning => true
  | .sole => s.headland.ret.resyncEnd.isSome
  | _ => false

/-- The body of a MIRROR message (Table 13-3). -/
def mirrorBody (mseq q flags : Nat) (records : List Bytes) (payload : Bytes) : Bytes :=
  let recs := records.flatten
  let front := packFields [(8, mseq), (1, q), (1, flags), (2, records.length), (4, recs.length), (4, payload.length)] ++ zeros 12 ++ recs
  if payload.isEmpty then front else padTo (roundUp front.length 64) front ++ payload

/-- Sends a MIRROR message of records and payload for a quadrant: its MSEQ. One that the peer's MIRROR_FREE does not cover
waits for a heartbeat that does (R312). -/
def mirrorSend (q flags : Nat) (records : List Bytes) (payload : Bytes) (releases : List Nat) (s : State) : Nat × State :=
  let h := s.headland
  let mseq := h.nextMseq
  let body := mirrorBody mseq q flags records payload
  let room := decide (body.length ≤ h.peer.mirrorFree)
  let m : MirrorMsg := { mseq := mseq, quadrant := q, sub := subFor q s, earlier := [], body := body, first := s.time.ticks,
                         resends := 0, noRoom := !room, releases := releases }
  let s1 := { s with headland := { h with nextMseq := mseq + 1, msgs := h.msgs ++ [m],
                                          counters := { h.counters with mirrorMsgs := bump h.counters.mirrorMsgs } } }
  (mseq, if room then headSendOn m.sub 0x0010 body s1 else s1)

/-! ## Placing a record (R86, R280, R311) -/

/-- Bytes of the ring's unpersisted part. -/
def unpersistedBytes (s : State) : Nat :=
  ((s.journal.ring.filter (fun r => !r.persisted)).map (fun r => (journalBytes r.jseq r.body).length)).sum

/-- Begins a checkpoint of the tables as they stand, unless one is being written (R87, R282). -/
def beginCheckpoint (s : State) : State :=
  if s.journal.checkpointing.isSome then s
  else { s with journal := { s.journal with
    checkpointing := some { number := s.journal.checkpointNumber + 1, replayFrom := s.journal.nextJseq, tables := s.map,
                            stage := 0, time := 0, dirPages := [], dir := [], root := (0xFFFFFFFF, 0, 0, 0) } } }

/-- Puts a record in the ring and applies it; a ring more than half unpersisted begins a checkpoint (R87). -/
def ringPlace (b : JBody) (s : State) : Nat × State :=
  let j := s.journal.nextJseq
  let r : JRecord := { jseq := j, body := b, placed := s.time.ticks, written := false, persisted := false }
  let s1 := applyBody j b { s with journal := { s.journal with ring := s.journal.ring ++ [r], nextJseq := j + 2 } }
  (j, if 536870912 < unpersistedBytes s1 then beginCheckpoint s1 else s1)

/-- Places a record for a quadrant, mirrored where the head mirrors: its JSEQ and the MSEQ that carries it. `payload` goes with
a BUFFERED record, `releases` are the BUFFERED records its acknowledgement releases (R64, R311, R314). In DUMP none is placed (R234). -/
def placeWith (q : Nat) (b : JBody) (payload : Bytes) (releases : List Nat) (s : State) : Nat × Option Nat × State :=
  if s.boot.mode = .dump then (s.journal.nextJseq, none, s)
  else
  let (j, s1) := ringPlace b s
  if mirrorActive s1 then
    let (m, s2) := mirrorSend q (flagBit (!payload.isEmpty)) [journalBytes j b] payload releases s1
    (j, some m, s2)
  else (j, none, s1)

/-- Places a record with no payload. -/
def place (q : Nat) (b : JBody) (s : State) : Nat × Option Nat × State := placeWith q b [] [] s

/-- Places a record and forgets its numbers. -/
def place' (q : Nat) (b : JBody) (s : State) : State := (place q b s).2.2

end Sys2Proof.Machine
end

