-- ==== Sys2Proof/Machine/Furrow.lean ====
section
/-! DEFINITION. The head's side of the Furrow links (10): issuing commands, tags and command slots, the own lease window,
and the commands that lease bridges. -/

namespace Sys2Proof.Machine

/-- A Furrow link. -/
def furrowAt (b : Nat) (s : State) : FurrowLink := s.furrow.getD b resetFurrow

/-- Changes a Furrow link. -/
def modifyFurrow (b : Nat) (f : FurrowLink → FurrowLink) (s : State) : State := { s with furrow := modifyNth f b s.furrow }

/-- A bridge as the head sees it. -/
def headBridge (b : Nat) (s : State) : HeadBridge := s.media.bridges.getD b (resetHeadBridge b)

/-- Changes the media part. -/
def modifyMedia (f : MediaPart → MediaPart) (s : State) : State := { s with media := f s.media }

/-- Changes a bridge as the head sees it. -/
def modifyHeadBridge (b : Nat) (f : HeadBridge → HeadBridge) (s : State) : State :=
  modifyMedia (fun m => { m with bridges := modifyNth f b m.bridges }) s

/-- Applies a link operation to a Furrow link, and sends its frames. -/
def furrowLink (b : Nat) (f : LinkEnd → LinkEnd × List Bytes) (s : State) : State :=
  let r := f (furrowAt b s).link
  let s1 := modifyFurrow b (fun x => { x with link := r.1 }) s
  { s1 with out := s1.out ++ r.2.map (Out.furrowFrame b) }

/-- CMD_SLOTS of a bridge: the least of Table 10-7 until it has been identified. -/
def cmdSlots (b : Nat) (s : State) : Nat := (((headBridge b s).ident).map (·.cmdSlots)).getD 64

/-- LEASE_PERIOD in effect, in ms. -/
def leasePeriod (s : State) : Nat := paramNat 0x0A00 0 s

/-- Length of the head's own window: LEASE_PERIOD less a thousandth (R256). -/
def ownWindow (s : State) : Nat := msTicks (leasePeriod s) - msTicks (leasePeriod s) / 1000

/-- Whether the head may program and erase a bridge: it holds the lease and is inside its own window (R208, R256). -/
def inWindow (b : Nat) (s : State) : Bool :=
  (furrowAt b s).leased && decide (s.time.ticks < (furrowAt b s).leaseSent + ownWindow s)

/-- Whether the head leases a bridge. -/
def leases (b : Nat) (s : State) : Bool := (furrowAt b s).leased

/-- The bridges the head leases. -/
def leasedBridges (s : State) : List Nat := (List.range 192).filter (fun b => leases b s)

/-- A bitmap of bridges, 24 bytes. -/
def bridgeBitmap (bs : List Nat) : Nat := (bs.map (fun b => 2 ^ b)).sum

/-- A free tag of a link, from the next one on (R248). -/
def freeTag (f : FurrowLink) : Nat :=
  ((List.range (f.cmds.length + 1)).map (fun i => (f.nextTag + i) % 65536)).find? (fun t => f.cmds.all (fun c => c.tag != t))
    |>.getD f.nextTag

/-- The frames of a command message (R243). -/
def commandFrames (c : FurrowCmd) : List LinkFrame :=
  let n := c.data.length
  { ftype := 1, flags := flagBit (n == 0), tag := c.tag, code := c.opcode, index := 0, payload := padTo 32 c.params } ::
    (List.range n).map (fun i =>
      { ftype := 3, flags := flagBit (i + 1 == n), tag := c.tag, code := 0, index := i, payload := c.data.getD i [] })

/-- Whether a command may go out now: a free command slot, and for a program or an erase the own lease window;
a head in YIELD programs, erases and acquires nothing, in DUMP it erases nothing, after a quiet stop it does neither (Table 13-6, R234, R514). -/
def mayIssue (b : Nat) (c : FurrowCmd) (s : State) : Bool :=
  decide ((furrowAt b s).cmds.length < cmdSlots b s) && (!(c.opcode == 3 || c.opcode == 4) || inWindow b s)
    && !(s.boot.mode == .yield && (c.opcode == 3 || c.opcode == 4 || c.opcode == 7))
    && !(s.boot.mode == .dump && c.opcode == 4) && !(s.boot.quietStop && (c.opcode == 3 || c.opcode == 4))

/-- Sends a command: it is outstanding under a free tag (R248). -/
def sendCommand (b : Nat) (c : FurrowCmd) (s : State) : State :=
  let t := freeTag (furrowAt b s)
  let c1 := { c with tag := t, issued := s.time.ticks }
  furrowLink b (linkSend (commandFrames c1))
    (modifyFurrow b (fun f => { f with cmds := f.cmds ++ [c1], nextTag := (t + 1) % 65536 }) s)

/-- Issues a command, or queues it where it may not go yet (R248, R256). -/
def furrowIssue (b opcode : Nat) (params : Bytes) (data : List Bytes) (use : FurrowUse) (s : State) : State :=
  let c : FurrowCmd := { tag := 0, opcode := opcode, params := params, data := data, use := use, issued := s.time.ticks }
  if mayIssue b c s ∧ (furrowAt b s).queued.isEmpty then sendCommand b c s
  else modifyFurrow b (fun f => { f with queued := f.queued ++ [c] }) s

/-- Sends queued commands that may go. -/
def furrowPump : Nat → Nat → State → State
  | 0, _, s => s
  | fuel + 1, b, s =>
    match (furrowAt b s).queued.find? (fun c => mayIssue b c s) with
    | none => s
    | some c => furrowPump fuel b (sendCommand b c (modifyFurrow b (fun f => { f with queued := f.queued.erase c }) s))

/-- Sends everything of a bridge's queue that may go. -/
def furrowFlush (b : Nat) (s : State) : State := furrowPump (furrowAt b s).queued.length b s

/-- The command outstanding under a tag. -/
def outstanding (b tag : Nat) (s : State) : Option FurrowCmd := (furrowAt b s).cmds.find? (fun c => c.tag == tag)

/-- A command is answered or has timed out: its slot is free. -/
def retireCmd (b tag : Nat) (s : State) : State :=
  furrowFlush b (modifyFurrow b (fun f => { f with cmds := f.cmds.filter (fun c => c.tag != tag) }) s)

/-! ## Reads (R250) -/

/-- DIE_READ of codewords: every read goes out with RETRY_MAX equal to RETRY_LEVELS and SOFT set (R250). -/
def readCmd (b die block cw count tag : Nat) (s : State) : FurrowCmd :=
  { tag := tag, opcode := 2, params := packFields [(8, cwAddr die block cw), (1, count),
      (1, ((headBridge b s).ident.map (·.retryLevels)).getD 0), (1, 1)]
    data := [], use := .other, issued := s.time.ticks }

/-- Sends a DIE_READ under a free tag; while the link trains it is held (R248, R577). -/
def sendRead (b die block cw count : Nat) (s : State) : State :=
  let t := freeTag (furrowAt b s)
  furrowLink b (linkSend (commandFrames (readCmd b die block cw count t s)))
    (modifyFurrow b (fun f => { f with nextTag := (t + 1) % 65536 }) s)

/-- The link after a response of `n` frames has been taken: the response acknowledges what stands sent and gives the command's buffer back,
and its own frames are acknowledged (R245, R246). -/
def linkAnswered (n : Nat) (e : LinkEnd) : LinkEnd × List Bytes :=
  if e.state ≠ .up then (e, [])
  else
    let e1 := if e.waiting = [] ∧ e.sent = e.unacked.length then
        { e with unacked := [], sent := 0, replays := 0, credits := if e.unacked = [] then e.credits else e.credits + 1 }
      else e
    let r := linkFlush { e1 with rxSeq := e1.rxSeq + n, nakSent := none }
    (r.1, r.2 ++ [linkFrameBytes r.1 false n])

/-- A DIE_READ that is answered in the step: the DATA frame of each codeword, and the RESPONSE (R243; DESIGN CHOICE 139). -/
def readExchange (b die block cw count : Nat) (s : State) : State := furrowLink b (linkAnswered (count + 1)) (sendRead b die block cw count s)

/-! ## Leases (R253-R256) -/

/-- LEASE_ACQUIRE to a bridge; a head whose number the peer reports too acquires none (R15). -/
def acquire (b : Nat) (s : State) : State :=
  if s.headland.conflict then s else furrowIssue b 7 (leBytes 2 (leasePeriod s)) [] .leaseAcquire s

/-- LEASE_ACQUIRE to each of some bridges. -/
def acquireAll (bs : List Nat) (s : State) : State := bs.foldl (fun st b => acquire b st) s

/-- LEASE_RELEASE to a bridge. -/
def release (b : Nat) (s : State) : State := furrowIssue b 9 [] [] .leaseRelease s

/-- Every LEASE_PERIOD / 5 the supervisor renews every lease it holds (R256). -/
def execLeaseRenewTimer (s : State) : Host.Outcome State Fault Refusal :=
  .next ((leasedBridges s).foldl (fun st b => furrowIssue b 8 (leBytes 2 (leasePeriod s)) [] .leaseRenew st) s)


/-- At the expiry that REMAIN reported, the head retries LEASE_ACQUIRE (R321). -/
def execLeaseAcquireRetry (bridge : Nat) (s : State) : Host.Outcome State Fault Refusal :=
  .next (if (furrowAt bridge s).acquireAt.isSome ∧ s.boot.mode ≠ .yield then acquire bridge s else s)

/-- FURROW_STATUS record of a link (R260). -/
def furrowRecord (f : FurrowLink) : Bytes :=
  let st := match f.link.state with
    | .up => 0 | .training => 1 | .down => 2 | .unused => 3
  packFields [(1, st), (1, f.link.preset), (2, f.link.credits), (4, 0), (8, f.leaseReg), (8, f.link.crcErrors), (8, f.link.replayCount),
    (8, f.link.retrains), (8, f.link.linkDowns), (8, f.lateResponses), (8, f.leaseLost)]

/-- FURROW_STATUS. -/
def furrowStatus (p : McPacket) (s : State) : McEnd × State :=
  let first := parm p 0 2
  let count := parm p 2 2
  if count = 0 ∨ 192 < first + count then refuse stBadParam s
  else answerRecords p (((s.furrow.drop first).take count).map furrowRecord) [] s

/-- FURROW_STATUS (R260). -/
def execFurrowStatus (p : McPacket) (s : State) : Host.Outcome State Fault Refusal := .next (mciRun 0x040A p (furrowStatus p) s)

end Sys2Proof.Machine
end

