-- ==== Sys2Proof/Machine/Acres.lean ====
section
/-! DEFINITION. Blocks, reserves and acres (R203-R213, R225-R230): what is free, which bridges and blocks an acre takes, and what a
head counts over the bridges it leases. -/

namespace Sys2Proof.Machine

/-! ## Sorting -/

/-- Whether a key comes before another, field after field. -/
def keyLt : List Int → List Int → Bool
  | a :: as, b :: bs => decide (a < b) || (a == b && keyLt as bs)
  | [], _ :: _ => true
  | _, [] => false

/-- Inserts by key, after those with an equal key. -/
def insertByKey {α : Type} (key : α → List Int) (x : α) : List α → List α
  | [] => [x]
  | y :: rest => if keyLt (key x) (key y) then x :: y :: rest else y :: insertByKey key x rest

/-- Sorts by key, keeping the order of equal keys. -/
def sortByKey {α : Type} (key : α → List Int) (xs : List α) : List α := xs.foldl (fun acc x => insertByKey key x acc) []

/-- The smallest number from `i` on, within `fuel`, at which `p` holds. -/
def findFrom (p : Nat → Bool) : Nat → Nat → Option Nat
  | 0, _ => none
  | fuel + 1, i => if p i then some i else findFrom p fuel (i + 1)

/-! ## Blocks -/

/-- Whether a block lies in the reserved or the standby area (R266). -/
def inReservedArea (i : BridgeIdent) (die block : Nat) : Bool :=
  decide (block < 16) && (die == 0 || (die == 1 && decide (2 ≤ i.dies)))

/-- Blocks of the reserved and standby areas of a bridge. -/
def reservedAreaBlocks (i : BridgeIdent) : Nat := if 2 ≤ i.dies then 32 else 16

/-- Whether an acre holds a block. -/
def blockAssigned (b die block : Nat) (s : State) : Bool := s.media.acres.any (fun a => a.blocks.contains (b, die, block))

/-- State of a die. -/
def dieState (b die : Nat) (s : State) : Nat := (((headBridge b s).dies[die]?).map (·.state)).getD 3

/-- Whether a block may be taken for an acre: erased, unassigned, not retired, on a GOOD die, outside the reserved areas. -/
def blockFree (i : BridgeIdent) (b die block : Nat) (s : State) : Bool :=
  !inReservedArea i die block && !(headBridge b s).retired.contains (nandKey die block) && !blockAssigned b die block s
    && dieState b die s == 0

/-- Blocks of acres that satisfy a test, on a bridge. -/
def blocksOn (b : Nat) (p : Acre → Bool) (s : State) : Nat :=
  ((s.media.acres.filter p).map (fun a => (a.blocks.filter (fun x => x.1 == b)).length)).sum

/-- Blocks of acres that satisfy a test, on a die. -/
def blocksOnDie (b die : Nat) (p : Acre → Bool) (s : State) : Nat :=
  ((s.media.acres.filter p).map (fun a => (a.blocks.filter (fun x => x.1 == b && x.2.1 == die)).length)).sum

/-- Whether an acre is a dump acre. -/
def isDump (a : Acre) : Bool := a.stream == 4

/-- Blocks of a bridge outside its reserved areas. -/
def bridgeBlocks (b : Nat) (s : State) : Nat :=
  match (headBridge b s).ident with
  | some i => i.dies * i.blocksPerDie - reservedAreaBlocks i
  | none => 0

/-- Whether a block is retired. -/
def blockRetired (x : Nat × Nat × Nat) (s : State) : Bool := (headBridge x.1 s).retired.contains (nandKey x.2.1 x.2.2)

/-- Retired blocks of a bridge outside its reserved areas. -/
def retiredBlocks (i : BridgeIdent) (b : Nat) (s : State) : Nat :=
  ((headBridge b s).retired.filter (fun k => !inReservedArea i (k / 2 ^ 23) (k % 2 ^ 23))).length

/-- Blocks on a bridge of acres that satisfy a test, those retired left out. -/
def goodBlocksOn (b : Nat) (p : Acre → Bool) (s : State) : Nat :=
  ((s.media.acres.filter p).map (fun a => (a.blocks.filter (fun x => x.1 == b && !blockRetired x s)).length)).sum

/-- Usable blocks of a bridge: not retired, less the dump reserve (R227). -/
def usableBlocks (b : Nat) (s : State) : Nat :=
  match (headBridge b s).ident with
  | some i => bridgeBlocks b s - retiredBlocks i b s - goodBlocksOn b isDump s
  | none => 0

/-- The last-breath reserve of a bridge: LAST_BREATH_RESERVE per cent, and at least 4 blocks (R228). -/
def bridgeReserve (b : Nat) (s : State) : Nat := max ((usableBlocks b s * paramNat 0x0906 0 s + 99) / 100) 4

/-- Unassigned blocks of a bridge. -/
def unassignedBlocks (b : Nat) (s : State) : Nat := usableBlocks b s - goodBlocksOn b (fun a => !isDump a) s

/-- Free blocks of a bridge: unassigned blocks outside the reserve. -/
def freeBlocks (b : Nat) (s : State) : Nat := unassignedBlocks b s - bridgeReserve b s

/-- Block size, in plots, of the smallest blocks among the bridges the head leases. -/
def blockPlots (s : State) : Nat :=
  ((leasedBridges s).filterMap (fun b => ((headBridge b s).ident).map (·.blockUnits))).foldl min 2048

/-- Usable blocks of the head (R227). -/
def headUsable (s : State) : Nat := ((leasedBridges s).map (fun b => usableBlocks b s)).sum

/-- Reserve blocks of the head: over its bridges, and never less than the own write buffer at the data geometry and four
metadata acres need (R228). -/
def headReserve (s : State) : Nat :=
  let m := s.media
  let wb := (s.mem.partition.getD 0 0) * 2 ^ 30
  let acreBytes := blockPlots s * m.baleK * 262144
  let floor' := (wb + acreBytes - 1) / acreBytes * (m.baleK + m.baleM) + 4 * (m.metaK + m.metaM)
  max ((leasedBridges s).map (fun b => bridgeReserve b s)).sum floor'

/-- Free blocks of the head (R227). -/
def headFree (s : State) : Nat := ((leasedBridges s).map (fun b => unassignedBlocks b s)).sum - headReserve s

/-- Whether F is at or above a percentage (R217). -/
def freeAtLeast (pct : Nat) (s : State) : Bool := decide (pct * (headUsable s - headReserve s) ≤ 100 * headFree s)

/-- Whether F is above a percentage (R231). -/
def freeAbove (pct : Nat) (s : State) : Bool := decide (pct * (headUsable s - headReserve s) < 100 * headFree s)

/-! ## Live data of an acre (R216, R218) -/

/-- Location entries that name live records of an acre. -/
def acreLocs (a : Nat) (s : State) : List (Nat × Loc) :=
  s.map.locs.filter (fun x => x.2.acre == a && x.2.refcount != 0 && x.2.len != 0)

/-- Live record bytes of an acre. -/
def liveBytes (a : Nat) (s : State) : Nat := ((acreLocs a s).map (fun x => 64 * x.2.len)).sum

/-- Metadata pages that the directory names in an acre: PAGE_ID and place. -/
def livePages (a : Nat) (s : State) : List (Nat × (Nat × Nat × Nat × Nat)) := s.journal.directory.filter (fun e => e.2.1 == a)

/-- Live bytes of an acre: its records, or its metadata pages (R216, R218). -/
def acreLive (a : Acre) (s : State) : Nat := if a.stream = 3 then 16384 * (livePages a.num s).length else liveBytes a.num s

/-- Data-plot bytes of all the bales of an acre. -/
def acreBytes (a : Acre) : Nat := a.nBales * a.k * 262144

/-- Dead space of a sealed acre, in blocks of leased bridges: its blocks times 1 - u (R227). -/
def deadBlocks (a : Acre) (s : State) : Nat :=
  if a.state = 2 ∧ isDump a = false then
    (a.blocks.filter (fun x => leases x.1 s)).length * (acreBytes a - acreLive a s) / acreBytes a
  else 0

/-- Dead space of a sealed acre, in bytes (Table 9-7). -/
def deadBytes (a : Acre) (s : State) : Nat :=
  if a.state = 2 ∧ isDump a = false then
    (a.blocks.filter (fun x => leases x.1 s)).length * (a.nBales * 262144) * (acreBytes a - acreLive a s) / acreBytes a
  else 0

/-- SPARE_PCT in units of 0.01 % (R227). -/
def sparePct (s : State) : Nat :=
  let den := headUsable s - headReserve s
  if den = 0 then 0 else min 65535 (10000 * (headFree s + (s.media.acres.map (fun a => deadBlocks a s)).sum) / den)

/-- Mean erase count of the blocks in use on a bridge. -/
def peMean (b : Nat) (s : State) : Nat :=
  let used := (s.media.acres.flatMap (·.blocks)).filter (fun x => x.1 == b)
  if used = [] then 0
  else ((used.map (fun x => lookupD (nandKey x.2.1 x.2.2) (headBridge b s).erases 0)).sum) / used.length

/-- PE_RATED of a bridge. -/
def peRated (b : Nat) (s : State) : Nat := (((headBridge b s).ident).map (·.peRated)).getD 0

/-! ## Media attention and records -/

/-- A MEDIA record of the Almanac (Table 22-2). -/
def mediaRecord (kind bridge die value : Nat) (s : State) : State :=
  almanac 0x0401 (packFields [(1, kind), (2, bridge), (1, die), (8, value)]) s

/-- READONLY has been entered or left: DEV_READONLY, with media attention (Table 14-10). -/
def readonlyEvent (entered : Bool) (s : State) : State := raiseEvent 0x0203 (flagBit entered) 0 s

/-- Counts DOMAIN_SHORT, sets media attention and writes a record once per hour; `broken` says that the FAULT_DOMAIN limit was broken, not only
that the acre is narrow (R211, Table 9-8). -/
def domainShort (acre : Nat) (broken : Bool) (s : State) : State :=
  let c := s.media.counters
  let s1 := { s with media := { s.media with
    counters := { c with domainShort := bump c.domainShort }
    lastBroken := if broken then some s.time.ticks else s.media.lastBroken } }
  let s2 := mediaAttn s1
  let due : Bool := match s.media.lastShort with
    | none => true
    | some t => decide (t + sTicks 3600 ≤ s.time.ticks)
  if due then mediaRecord 2 0xFFFF 0xFF acre { s2 with media := { s2.media with lastShort := some s.time.ticks } } else s2

/-- The warnings of R229, when they begin: looked at in a mode that serves, wherever SPARE_PCT or PE_MEAN may change. -/
def checkWarnings (s : State) : State :=
  if servingMode s.boot.mode = false ∨ leasedBridges s = [] then s
  else
  let spare := decide (sparePct s < 100 * paramNat 0x0907 0 s)
  let worn := (leasedBridges s).any (fun b => decide (peRated b s * paramNat 0x0908 0 s < 100 * peMean b s))
  let s1 := { s with media := { s.media with spareWarned := spare, wearWarned := worn } }
  let s2 := if spare ∧ s.media.spareWarned = false then mediaRecord 5 0xFFFF 0xFF 1 (mediaAttn s1) else s1
  if worn ∧ s.media.wearWarned = false then mediaRecord 5 0xFFFF 0xFF 2 (mediaAttn s2) else s2

/-! ## Opening an acre (R211, R212) -/

/-- The bridges an acre may be opened on: leased, ONLINE or DEGRADED, with a block to take; hot acres outside READONLY leave the
reserve alone (R211, R228). -/
def acreCandidates (useReserve : Bool) (s : State) : List Nat :=
  let ok := (leasedBridges s).filter (fun b =>
    decide ((headBridge b s).state ≤ 1) && (headBridge b s).ident.isSome && !s.headland.ret.handing.contains b
      && decide (0 < (if useReserve then unassignedBlocks b s else freeBlocks b s)))
  sortByKey (fun b => [(blocksOn b (fun a => a.state == 1) s : Int), -(freeBlocks b s : Int), (peMean b s : Int), (b : Int)]) ok

/-- Takes candidates in order while no more than `limit` share a fault domain. -/
def takeDomains (limit need : Nat) (s : State) : List Nat → List Nat → List Nat
  | _, [] => []
  | taken, b :: rest =>
    if need ≤ taken.length then []
    else
      let d := (headBridge b s).faultDomain
      if (taken.filter (fun x => (headBridge x s).faultDomain == d)).length < limit then
        b :: takeDomains limit need s (taken ++ [b]) rest
      else takeDomains limit need s taken rest

/-- The bridges of an acre of `need` blocks: under the limit of m a fault domain, or else under the smallest limit that will do.
The second part says whether the limit of m was met. -/
def chooseBridges (m need : Nat) (cands : List Nat) (s : State) : Option (List Nat × Bool) :=
  ((List.range (need + 1)).map (fun i => m + i)).findSome? (fun limit =>
    let r := takeDomains limit need s [] cands
    if r.length = need then some (r, limit == m) else none)

/-- The geometry that a stream takes: k and m (Table 9-1). -/
def streamGeometry (stream : Nat) (s : State) : Nat × Nat :=
  if stream = 3 then (s.media.metaK, s.media.metaM) else (s.media.baleK, s.media.baleM)

/-- The erase count at which a block is retired (R225, R553): always below the 16-bit count's end. -/
def wearLimit (b : Nat) (s : State) : Nat := min ((peRated b s * paramNat 0x0909 0 s + 99) / 100) 65534

/-- The free block of a die that a stream takes: the lowest erase count, or for cold acres the highest below the retirement
limit (R212). -/
def chooseBlock (i : BridgeIdent) (b die : Nat) (cold : Bool) (s : State) : Option Nat :=
  let er := (headBridge b s).erases
  let free := fun k => blockFree i b die k s
  let used := (er.filter (fun e => e.1 / 2 ^ 23 == die && decide (0 < e.2))).filter (fun e => free (e.1 % 2 ^ 23))
  let fresh := findFrom (fun k => free k && lookupD (nandKey die k) er 0 == 0) i.blocksPerDie 0
  let low := (sortByKey (fun (e : Nat × Nat) => [(e.2 : Int), (e.1 : Int)]) used).head?.map (fun e => e.1 % 2 ^ 23)
  let limit := wearLimit b s
  let high := (sortByKey (fun (e : Nat × Nat) => [-(e.2 : Int), (e.1 : Int)]) (used.filter (fun e => decide (e.2 < limit)))).head?.map
    (fun e => e.1 % 2 ^ 23)
  if cold then high.orElse (fun _ => fresh) else fresh.orElse (fun _ => low)

/-- The die and block of a bridge for an acre: the die with the fewest open blocks that has a free block (R212). -/
def chooseDie (b : Nat) (cold : Bool) (s : State) : Option (Nat × Nat × Nat) :=
  match (headBridge b s).ident with
  | none => none
  | some i =>
    let dies := sortByKey (fun d => [(blocksOnDie b d (fun a => a.state == 1) s : Int), (d : Int)]) (List.range i.dies)
    dies.findSome? (fun d => (chooseBlock i b d cold s).map (fun k => (b, d, k)))

/-- The next acre number of the head: a freed one, else the next of its parity (R268). -/
def takeAcreNumber (s : State) : Nat × State :=
  match s.media.freedAcres with
  | n :: rest => (n, { s with media := { s.media with freedAcres := rest } })
  | [] => (2 * s.media.nextAcre + s.boot.headId % 2, { s with media := { s.media with nextAcre := s.media.nextAcre + 1 } })

/-- Opens an acre of a stream for a quadrant, narrower where fewer bridges are ONLINE or DEGRADED; none where it cannot be formed, or where
it may not use reserve blocks and would need some: of a bridge's reserve, or of the head's (R211, R212, R228). -/
def openAcre (stream quadrant : Nat) (useReserve : Bool) (s : State) : Option Nat × State :=
  let (k0, m) := streamGeometry stream s
  let cands := acreCandidates useReserve s
  let n := min (k0 + m) cands.length
  if n < m + 4 ∨ (useReserve = false ∧ headFree s < n) then (none, s)
  else
    match chooseBridges m n cands s with
    | none => (none, s)
    | some (bs, within) =>
      let blocks := bs.filterMap (fun b => chooseDie b (stream == 2) s)
      if blocks.length ≠ n then (none, s)
      else
        let (num, s1) := takeAcreNumber s
        let plots := (bs.filterMap (fun b => ((headBridge b s).ident).map (·.blockUnits))).foldl min 2048
        let a : Acre := { num := num, stream := stream, k := n - m, m := m, nBales := plots, opener := s.boot.headId % 2,
                          openSeq := s.journal.writeSeq, openTime := arrayTime s, blocks := blocks, state := 1,
                          quadrant := quadrant, started := 0, committed := 0, torn := [], sealedAt := 0, marked := [], envelopes := [], maxJseq := 0 }
        let s2 := { s1 with media := { s1.media with acres := s1.media.acres ++ [a] } }
        let s3 := if stream = 4 then s2 else place' 0 (.acreState num 1) s2
        (some num, checkWarnings (if within ∧ n = k0 + m then s3 else domainShort num (!within) s3))

/-- An acre by number. -/
def acreAt (n : Nat) (s : State) : Option Acre := s.media.acres.find? (fun a => a.num == n)

/-- Where an acre lies: by the head's table, or by its header on media where the other head has opened it. -/
def acreHome (n : Nat) (s : State) : Option Acre := (acreAt n s).orElse (fun _ => acreOnMedia n s)

/-- Sets an acre's state within its reclaim: no record is placed, and a loss finds it SEALED (Tables 9-2 and 11-12). -/
def acreTo (n st : Nat) (s : State) : State := modifyAcre n (fun a => { a with state := st }) s

/-- Seals an acre at its last committed bale (Table 9-2). -/
def sealAcre (n : Nat) (s : State) : State :=
  match acreAt n s with
  | none => s
  | some a =>
    if a.state ≠ 1 then s
    else place' 0 (.acreState n 2) (modifyAcre n (fun x => { x with state := 2, sealedAt := opHours s }) s)

/-! ## READONLY (R230) -/

/-- Whether the head is the reclaimer of an acre: it leases the bridge of its block 0 (R210). -/
def isReclaimer (a : Acre) (s : State) : Bool := leases (a.blocks.getD 0 (192, 0, 0)).1 s

/-- Whether a metadata acre may be erased: its journal records lie before the newest checkpoint. -/
def journalDead (a : Acre) (s : State) : Bool := a.stream != 3 || decide (a.maxJseq < s.journal.replayFrom) || a.maxJseq == 0

/-- The sealed acres that the head may reclaim. -/
def reclaimable (s : State) : List Acre :=
  s.media.acres.filter (fun a => a.state == 2 && !isDump a && isReclaimer a s && journalDead a s)

/-- Whether u of an acre is at most 0.97 (R216). -/
def spaceWorth (a : Acre) (s : State) : Bool := decide (100 * acreLive a s ≤ 97 * acreBytes a)

/-- The space victims of reclaim (R216 class 5). -/
def spaceVictims (s : State) : List Acre := (reclaimable s).filter (fun a => spaceWorth a s)

/-- Enters READONLY, for want of chunk IDs or of blocks: the flag, a record, media attention (R230, R552). -/
def readonlyFor (ids : Bool) (s : State) : State :=
  let s0 := { s with media := { s.media with idsShort := s.media.idsShort || ids, spaceShort := s.media.spaceShort || !ids } }
  if s.media.readonly then s0
  else
    let s1 := readonlyEvent true (mediaRecord 6 0xFFFF 0xFF 1 { s0 with media := { s0.media with readonly := true } })
    match s1.boot.mode with
    | .quiesce =>
      { s1 with boot := { s1.boot with underReadonly := s1.boot.underQuiesce, underQuiesce := .readonly } }
    | m => setMode .readonly 0 { s1 with boot := { s1.boot with underReadonly := m } }

/-- Enters READONLY because no hot acre can be formed (R230). -/
def enterReadonly (s : State) : State := readonlyFor false s

/-- The blocks of chunk IDs that a present peer could grant, as far as this head can tell: those that it neither holds nor has drawn and
in which no location lies (R310, R552; DEDUCED 188). -/
def peerIdBlocks (s : State) : Nat :=
  if s.headland.peerPresent then
    let used := ((s.map.locs.map (fun l => l.1 / 65536)).filter (fun b => !s.ingest.drawnBlocks.contains b)).eraseDups
    2 ^ 24 - (s.headland.idBlocks.map (·.2)).sum - s.ingest.drawnBlocks.length - used.length
  else 0

/-- The free chunk IDs: those the head holds, in blocks, in blocks in use, freed by reclaim or reserved by no work, and those of the
blocks that the peer could grant (R552). -/
def idsFree (s : State) : Nat :=
  65536 * ((s.headland.idBlocks.map (·.2)).sum + peerIdBlocks s) + (s.ingest.idRanges.map (fun r => 65536 - r.2)).sum
    + s.ingest.freedIds.length + (s.tines.harrows.map (fun h => h.idBlock.length)).sum

/-- A head whose free IDs fall below 64 blocks enters READONLY (R552). -/
def idsWatch (s : State) : State :=
  if servingMode s.boot.mode = true ∧ s.media.idsShort = false ∧ idsFree s < 4194304 then readonlyFor true s else s

/-- Leased bridges that are ONLINE or DEGRADED. -/
def bridgesOnline (s : State) : Nat := ((leasedBridges s).filter (fun b => decide ((headBridge b s).state ≤ 1))).length

/-- Whether what READONLY was entered for lasts: F at most RECLAIM_URGENT or too few bridges (R231), free IDs at most 128 blocks
(R552). -/
def readonlyLasts (s : State) : Bool :=
  (s.media.spaceShort && !(freeAbove (paramNat 0x0905 0 s) s && decide (s.media.baleM + 4 ≤ bridgesOnline s)))
    || (s.media.idsShort && decide (idsFree s ≤ 8388608))

/-- READONLY ends when F rises above RECLAIM_URGENT and enough bridges are online (R231), and when enough IDs are free (R552). -/
def execReadonlyExit (s : State) : Host.Outcome State Fault Refusal :=
  if s.media.readonly = true ∧ readonlyLasts s = false then
    let s1 := readonlyEvent false { s with media := { s.media with readonly := false, spaceShort := false, idsShort := false } }
    .next (match s1.boot.mode with
      | .readonly => setMode s1.boot.underReadonly 0 s1
      | .quiesce => { s1 with boot := { s1.boot with underQuiesce := s1.boot.underReadonly } }
      | _ => s1)
  else .next s

end Sys2Proof.Machine
end

