-- ==== Sys2Proof/Machine/MetaCache.lean ====
section
/-! DEFINITION. The metadata cache (17): lookup, allocation, the victim region, prefetch, locking, range operations, way
power, disable. -/

namespace Sys2Proof.Machine

/-! ## Addresses (R424) -/

/-- The line address of a far-store address. -/
def lineOf (a : Nat) : Nat := a / 128
/-- Slice A[8:7]. -/
def sliceOf (line : Nat) : Nat := line % 4
/-- Set A[22:9]. -/
def setOf (line : Nat) : Nat := line / 4 % 16384
/-- Tag A[41:23]. -/
def tagOf (line : Nat) : Nat := line / 65536 % 2 ^ 19

/-- The line address of a cache line. -/
def McLine.line (l : McLine) : Nat := l.tag * 65536 + l.set * 4 + l.slice

/-- Key of a slot: slice, set and way. -/
def slotKey (slice set way : Nat) : Nat := (slice * 16384 + set) * 16 + way

/-- Changes the memory part. -/
def modifyMem (f : MemPart → MemPart) (s : State) : State := { s with mem := f s.mem }

/-- Changes the counters of a slice. -/
def countSlice (slice : Nat) (f : McCounters → McCounters) (s : State) : State :=
  modifyMem (fun m => { m with counters := modifyNth f slice m.counters }) s

/-- The 128 bytes of a far-store line. -/
def farLine (line : Nat) (s : State) : List (Option Byte) := memRange (128 * line) 128 s.mem.far

/-- Writes a line's defined bytes to a memory from address `a`, and forgets its undefined ones. -/
def putLineBytes : Nat → List (Option Byte) → Memory → Memory
  | _, [], m => m
  | a, some b :: rest, m => putLineBytes (a + 1) rest (memWrite a b m)
  | a, none :: rest, m => putLineBytes (a + 1) rest (memErase a 1 m)

/-- Writes a line back to far store. -/
def writeBack (line : Nat) (data : List (Option Byte)) (s : State) : State :=
  modifyMem (fun m => { m with far := putLineBytes (128 * line) data m.far }) s

/-- Overwrites bytes of a line at a byte offset. -/
def patchLine (off : Nat) (bytes : Bytes) (data : List (Option Byte)) : List (Option Byte) :=
  (List.range data.length).map (fun i =>
    if off ≤ i ∧ i < off + bytes.length then bytes[i - off]? else (data.getD i none))

/-! ## Where a line lies -/

/-- The cache line that holds a line address. -/
def cacheHit (line : Nat) (s : State) : Option McLine := s.mem.lines.find? (fun l => l.line == line)

/-- The side-buffer line that holds a line address. -/
def sideHit (line : Nat) (s : State) : Option BufferLine :=
  (s.mem.side.getD (sliceOf line) []).find? (fun l => l.line == line)

/-- The victim-region line that holds a line address. -/
def victimHit (line : Nat) (s : State) : Option BufferLine := s.mem.victim.find? (fun l => l.line == line)

/-- Removes a line from its slice's side buffer. -/
def dropSide (line : Nat) (s : State) : State :=
  modifyMem (fun m => { m with side := modifyNth (fun b => b.filter (fun l => l.line != line)) (sliceOf line) m.side }) s

/-- Removes a line from the victim region. -/
def dropVictim (line : Nat) (s : State) : State :=
  modifyMem (fun m => { m with victim := m.victim.filter (fun l => l.line != line) }) s

/-- Removes a line from the cache. -/
def dropLine (line : Nat) (s : State) : State :=
  modifyMem (fun m => { m with lines := m.lines.filter (fun l => l.line != line) }) s

/-! ## Lost lines (R429) -/

/-- A dirty line is lost: counted, recorded, and its range invalid until it is rebuilt. -/
def dirtyLost (line : Nat) (s : State) : State :=
  modifyMem (fun m => { m with invalidLines := line :: m.invalidLines })
    (almanac 0x000A (packFields [(1, 3), (8, 128 * line), (8, 1)])
      (countSlice (sliceOf line) (fun c => { c with dirtyLost := bump c.dirtyLost }) s))

/-- Rebuilds an invalid line before an access uses it: its content comes from media and the journal (R429), which the
far-store bytes do not determine, so it is undefined here (DESIGN CHOICE 3). -/
def rebuildLine (line : Nat) (s : State) : State :=
  if s.mem.invalidLines.contains line then
    modifyMem (fun m => { m with invalidLines := m.invalidLines.filter (fun l => l != line),
                                 far := memErase (128 * line) 128 m.far }) s
  else s

/-! ## Eviction and allocation (R427) -/

/-- Lines the victim region holds. -/
def victimCapacity (s : State) : Nat := s.mem.partition.getD 3 0 * 2 ^ 30 / 128

/-- Whether the metadata cache is quiesced (R437). -/
def mcQuiesced (s : State) : Bool := isQuiesced 0x30 s

/-- Whether victim offering is active: a victim region, the cache ENABLED and not quiesced (R418, R435, R437). -/
def victimOn (s : State) : Bool :=
  decide (0 < victimCapacity s) && s.mem.mcState == .enabled && !mcQuiesced s

/-- Makes room in a full victim region: its least recently used line leaves, written back if dirty. -/
def victimRoom (s : State) : State :=
  if s.mem.victim.length < victimCapacity s then s
  else
    match s.mem.victim with
    | [] => s
    | l :: rest =>
      let s1 := modifyMem (fun m => { m with victim := rest }) s
      if l.dirty then writeBack l.line l.data s1 else s1

/-- Whether a clean line is declined by the victim region (R427). -/
def victimDeclines (reused : Bool) (s : State) : Bool :=
  let clean := (s.mem.victim.filter (fun l => !l.dirty)).length
  !reused || decide (paramNat 0x1103 0 s * victimCapacity s ≤ clean * 100)

/-- Offers an evicted line to the victim region; without offering, a dirty line is written back (R427). -/
def offerVictim (l : McLine) (s : State) : State :=
  if victimOn s then
    if !l.dirty && victimDeclines l.reused s then
      countSlice l.slice (fun c => { c with victimDeclined := bump c.victimDeclined }) s
    else
      modifyMem (fun m => { m with victim := m.victim ++
        [{ line := l.line, dirty := l.dirty, reused := l.reused, data := l.data }] }) (victimRoom s)
  else if l.dirty then writeBack l.line l.data s
  else s

/-- Whether a way takes allocations: powered, not locked, not being powered down. -/
def wayOpen (way : Nat) (s : State) : Bool :=
  s.mem.wayPowered.getLsbD way && !s.mem.wayLocked.getLsbD way && !s.mem.wayGoing.getLsbD way

/-- Whether a slot holds a line. -/
def slotUsed (slice set way : Nat) (s : State) : Bool :=
  s.mem.lines.any (fun l => l.slice == slice && l.set == set && l.way == way)

/-- Places a line in a way, as most recently used. -/
def placeLine (l : McLine) (s : State) : State := modifyMem (fun m => { m with lines := m.lines ++ [l] }) s

/-- The way a new line of a set goes to: the lowest empty open way, else the way of the least recently used line. -/
def allocWay (slice set : Nat) (s : State) : Option (Nat × Option McLine) :=
  match firstIndex 16 (fun w => wayOpen w s && !slotUsed slice set w s) with
  | some w => some (w, none)
  | none =>
    match s.mem.lines.find? (fun l => l.slice == slice && l.set == set && wayOpen l.way s) with
    | some l => some (l.way, some l)
    | none => none

/-- Allocates a line by R427, evicting the least recently used one. -/
def allocLine (line : Nat) (dirty reused : Bool) (data : List (Option Byte)) (s : State) : State :=
  match allocWay (sliceOf line) (setOf line) s with
  | none => if dirty then writeBack line data s else s
  | some (way, old) =>
    let s1 := match old with
      | none => s
      | some l => offerVictim l (dropLine l.line s)
    placeLine { slice := sliceOf line, set := setOf line, way := way, tag := tagOf line, dirty := dirty, reused := reused,
                data := data } s1

/-! ## Access (R425-R428) -/

/-- Serves a hit in the cache: the line becomes most recently used and REUSED; a write makes it dirty while the cache is
ENABLED, and goes through to far store while it is DISABLING (R435). -/
def hitLine (l : McLine) (off : Nat) (bytes : Bytes) (s : State) : State :=
  let data := patchLine off bytes l.data
  let through := s.mem.mcState == .disabling
  let wr := !bytes.isEmpty
  let s1 := placeLine { l with reused := true, dirty := l.dirty || (wr && !through), data := data } (dropLine l.line s)
  let s2 := if wr && through then modifyMem (fun m => { m with far := memWriteBytes (128 * l.line + off) bytes m.far }) s1 else s1
  emit (.mcData l.line data) s2

/-- Serves a line that lies in far store only. -/
def missLine (line off : Nat) (bytes : Bytes) (s : State) : State :=
  let s1 := rebuildLine line s
  let data := patchLine off bytes (farLine line s1)
  let wr := !bytes.isEmpty
  if s1.mem.mcState == .enabled then emit (.mcData line data) (allocLine line wr false data s1)
  else emit (.mcData line data) (if wr then writeBack line data s1 else s1)

/-- Looks below the cache: side buffer, victim region, far store. -/
def lookBelow (line off : Nat) (bytes : Bytes) (s : State) : State :=
  let wr := !bytes.isEmpty
  let slice := sliceOf line
  let s0 := countSlice slice (fun c => { c with misses := bump c.misses }) s
  match sideHit line s0 with
  | some b =>
    let data := patchLine off bytes b.data
    let s1 := countSlice slice (fun c => { c with sbHits := bump c.sbHits }) s0
    if s1.mem.mcState == .enabled then emit (.mcData line data) (allocLine line wr true data (dropSide line s1))
    else
      let held := fun (x : List BufferLine) => mapIf (fun l => l.line == line) (fun l => { l with data := data }) x
      let s2 := if wr then modifyMem (fun m => { m with far := memWriteBytes (128 * line + off) bytes m.far
                                                        side := modifyNth held slice m.side }) s1 else s1
      emit (.mcData line data) s2
  | none =>
    match victimHit line s0 with
    | some b =>
      let data := patchLine off bytes b.data
      let s1 := countSlice slice (fun c => { c with victimHits := bump c.victimHits }) s0
      if s1.mem.mcState == .enabled then
        emit (.mcData line data) (allocLine line (b.dirty || wr) b.reused data (dropVictim line s1))
      else
        let s2 := if wr then modifyMem (fun m => { m with
          far := memWriteBytes (128 * line + off) bytes m.far
          victim := mapIf (fun l => l.line == line) (fun l => { l with data := data }) m.victim }) s1 else s1
        emit (.mcData line data) s2
    | none => missLine line off bytes s0

/-- A line of the cache is invalidated; one in a locked way leaves a hole (R433). -/
def invalidateLine (l : McLine) (s : State) : State :=
  let s1 := dropLine l.line s
  if s.mem.wayLocked.getLsbD l.way then modifyMem (fun m => { m with holes := slotKey l.slice l.set l.way :: m.holes }) s1 else s1

/-- An error met in the tag or data of the line in the cache (R426): none, corrected, tag parity, or uncorrectable. -/
def accessError (err : Nat) (l : McLine) (s : State) : State :=
  let s1 := countSlice l.slice (fun c =>
    if err = 2 then { c with tagParity := bump c.tagParity } else { c with dataUe := bump c.dataUe }) s
  let s2 := invalidateLine l s1
  if l.dirty then dirtyLost l.line s2 else s2

/-- An access to a far-store address: `bytes` to write there, none for a read. `err` is 0 for no error, 1 corrected,
2 tag parity, 3 uncorrectable data (R425, R426). -/
def mcAccess (a : Nat) (bytes : Bytes) (err : Nat) (s : State) : State :=
  let line := lineOf a
  let off := a % 128
  let bs := bytes.take (128 - off)
  match cacheHit line s with
  | some l =>
    if 2 ≤ err then lookBelow line off bs (accessError err l s)
    else hitLine l off bs (countSlice l.slice (fun c => { c with hits := bump c.hits }) s)
  | none => lookBelow line off bs s


/-- Whether prefetches are issued (R428, R435, R437). -/
def prefetchOn (s : State) : Bool :=
  paramNat 0x1102 0 s == 1 && !mcQuiesced s && s.mem.mcState == .enabled

/-- A prefetch: dropped where the line is held already, else read into the side buffer in place of its least recently used
line (R428). -/
def mcPrefetch (a : Nat) (s : State) : State :=
  let line := lineOf a
  if !prefetchOn s then s
  else if (cacheHit line s).isSome || (sideHit line s).isSome || (victimHit line s).isSome then s
  else
    let s1 := rebuildLine line (countSlice (sliceOf line) (fun c => { c with prefetches := bump c.prefetches }) s)
    let data := farLine line s1
    let put := fun (b : List BufferLine) =>
      (if 512 ≤ b.length then b.drop 1 else b) ++ [{ line := line, dirty := false, reused := false, data := data }]
    modifyMem (fun m => { m with side := modifyNth put (sliceOf line) m.side }) s1

/-- A prefetch of a line (R428). -/
def execMcPrefetch (addr : Nat) (s : State) : Host.Outcome State Fault Refusal := .next (mcPrefetch addr s)

/-! ## Far store as other units see it -/

/-- A line as the last access left it, wherever it lies. -/
def lineView (line : Nat) (s : State) : List (Option Byte) :=
  match cacheHit line s with
  | some l => l.data
  | none =>
    match (sideHit line s).orElse (fun _ => victimHit line s) with
    | some b => b.data
    | none => farLine line s

/-- Reads far store, coherently with the metadata cache. -/
def farView (a len : Nat) (s : State) : List (Option Byte) :=
  (List.range len).map (fun i => (lineView ((a + i) / 128) s).getD ((a + i) % 128) none)

/-- Writes far store, and every copy of the line that is held. -/
def farPut (a : Nat) (bytes : Bytes) (s : State) : State :=
  let upd := fun (line : Nat) (d : List (Option Byte)) => (List.range d.length).map (fun i =>
    let x := 128 * line + i
    if a ≤ x ∧ x < a + bytes.length then bytes[x - a]? else d.getD i none)
  modifyMem (fun m =>
    { m with far := memWriteBytes a bytes m.far
             lines := m.lines.map (fun l => { l with data := upd l.line l.data })
             side := m.side.map (fun b => b.map (fun l => { l with data := upd l.line l.data }))
             victim := m.victim.map (fun l => { l with data := upd l.line l.data }) }) s

/-- Makes a range of far store undefined, and every copy of it that is held. -/
def farForget (a len : Nat) (s : State) : State :=
  let upd := fun (line : Nat) (d : List (Option Byte)) => (List.range d.length).map (fun i =>
    let x := 128 * line + i
    if a ≤ x ∧ x < a + len then none else d.getD i none)
  modifyMem (fun m =>
    { m with far := memErase a len m.far
             lines := m.lines.map (fun l => { l with data := upd l.line l.data })
             side := m.side.map (fun b => b.map (fun l => { l with data := upd l.line l.data }))
             victim := m.victim.map (fun l => { l with data := upd l.line l.data }) }) s

/-! ## Control (R435, R436) -/

/-- Dirty lines of the cache and the victim region. -/
def dirtyLines (s : State) : List (Nat × List (Option Byte)) :=
  ((s.mem.lines.filter (·.dirty)).map (fun l => (l.line, l.data)))
    ++ ((s.mem.victim.filter (·.dirty)).map (fun l => (l.line, l.data)))

/-- Every slot of a locked way, as the holes of a disabled cache (R435). -/
def lockedSlots (locked : BitVec 16) : List Nat :=
  ((List.range 16).filter (fun w => locked.getLsbD w)).flatMap (fun w => (List.range 65536).map (fun i => i * 16 + w))

/-- Empties the cache, its side buffers and the victim region, and makes it DISABLED (R435). -/
def mcDisabled (s : State) : State :=
  modifyMem (fun m => { m with lines := [], side := [[], [], [], []], victim := [], mcState := .disabled,
                               holes := lockedSlots m.wayLocked }) s

/-- MC_CONTROL: op 0x01 enables a DISABLED cache, op 0x02 starts disabling an ENABLED one; enabling while DISABLING is
refused with ST_BUSY (Table 17-7). -/
def mcControl (p : McPacket) (s : State) : McEnd × State :=
  match parm p 0 1 with
  | 1 =>
    match s.mem.mcState with
    | .disabling => refuse stBusy s
    | _ => ok [] (modifyMem (fun m => { m with mcState := .enabled }) s)
  | 2 =>
    match s.mem.mcState with
    | .enabled => ok [] (modifyMem (fun m => { m with mcState := .disabling }) s)
    | _ => ok [] s
  | _ => refuse stBadParam s

/-- MC_CONTROL with op 0x01 (Table 17-9). -/
def execMcEnable (p : McPacket) (s : State) : Host.Outcome State Fault Refusal := .next (mciRun 0x0411 p (mcControl p) s)

/-- MC_CONTROL with op 0x02 (Table 17-9). -/
def execMcDisable (p : McPacket) (s : State) : Host.Outcome State Fault Refusal := .next (mciRun 0x0411 p (mcControl p) s)

/-- The last dirty line of a DISABLING cache is written back, and the cache is DISABLED (Table 17-7). -/
def execMcDisableDone (s : State) : Host.Outcome State Fault Refusal :=
  match s.mem.mcState with
  | .disabling => .next (mcDisabled ((dirtyLines s).foldl (fun st l => writeBack l.1 l.2 st) s))
  | _ => .next s

/-- MC_FORCE_DISABLE: dirty lines are discarded, reported, counted and recorded (R435, R436). The opcode table refuses it
outside SERVICE. -/
def mcForceDisable (s : State) : McEnd × State :=
  match s.mem.mcState with
  | .disabled => ok (leBytes 8 0) s
  | _ =>
    let lost := (dirtyLines s).map (·.1)
    let s1 := lost.foldl (fun st l => countSlice (sliceOf l) (fun c => { c with dirtyLost := bump c.dirtyLost }) st) s
    let s2 := almanac 0x000A (packFields [(1, 4), (8, 128 * lost.headD 0), (8, lost.length)]) s1
    ok (leBytes 8 lost.length)
      (modifyMem (fun m => { m with invalidLines := lost ++ m.invalidLines }) (mcDisabled s2))


/-! ## Preload and unlock (R430, R431) -/

/-- Whether a range is 128-byte aligned and lies in far store. -/
def farRangeOk (addr len : Nat) (s : State) : Bool :=
  addr % 128 == 0 && len % 128 == 0 && decide (addr + len ≤ s.mem.farBytes)

/-- Ways set in a mask. -/
def maskCount (m : BitVec 16) : Nat := ((List.range 16).filter (fun w => m.getLsbD w)).length

/-- Loads one line into a way of the mask: whether it was loaded, and the state. A line in a locked way stays; one in an
unlocked way moves; a set without a free slot among the mask's ways takes nothing. -/
def preloadLine (mask : BitVec 16) (line : Nat) (s : State) : Bool × State :=
  let slice := sliceOf line
  let set := setOf line
  match cacheHit line s with
  | some l =>
    if mask.getLsbD l.way || s.mem.wayLocked.getLsbD l.way then (true, s)
    else
      match firstIndex 16 (fun w => mask.getLsbD w && !slotUsed slice set w s) with
      | none => (false, s)
      | some w =>
        (true, modifyMem (fun m => { m with holes := m.holes.filter (fun h => h != slotKey slice set w) })
          (placeLine { l with way := w } (dropLine line s)))
  | none =>
    match firstIndex 16 (fun w => mask.getLsbD w && !slotUsed slice set w s) with
    | none => (false, s)
    | some w =>
      let s0 := rebuildLine line s
      let found := (sideHit line s0).orElse (fun _ => victimHit line s0)
      let data := (found.map (·.data)).getD (farLine line s0)
      let dirty := (found.map (·.dirty)).getD false
      let s1 := dropVictim line (dropSide line s0)
      (true, placeLine { slice := slice, set := set, way := w, tag := tagOf line, dirty := dirty, reused := false, data := data }
        (modifyMem (fun m => { m with holes := m.holes.filter (fun h => h != slotKey slice set w) }) s1))

/-- Loads the lines of a range in order, counting those loaded and those not. -/
def preloadAll (mask : BitVec 16) (first : Nat) : Nat → Nat → Nat → State → Nat × Nat × State
  | 0, y, n, s => (y, n, s)
  | fuel + 1, y, n, s =>
    let r := preloadLine mask first s
    preloadAll mask (first + 1) fuel (if r.1 then y + 1 else y) (if r.1 then n else n + 1) r.2

/-- The lines that lie in the mask's ways before they are reserved for the range: they are evicted first, since an
unlocked way holds other lines (R427, R430; DEDUCED). -/
def clearWays (mask : BitVec 16) (first count : Nat) (s : State) : State :=
  (s.mem.lines.filter (fun l => mask.getLsbD l.way && !s.mem.wayLocked.getLsbD l.way
      && !(decide (first ≤ l.line) && decide (l.line < first + count)))).foldl
    (fun st l => offerVictim l (dropLine l.line st)) s

/-- MC_PRELOAD (R430, R436, R437). -/
def mcPreload (p : McPacket) (s : State) : McEnd × State :=
  let mask := BitVec.ofNat 16 (parm p 0 2)
  let addr := parm p 8 8
  let len := parm p 0x10 8
  if s.mem.mcState ≠ .enabled ∨ mcQuiesced s = true then refuse stBusy s
  else if 12 < maskCount (mask ||| s.mem.wayLocked) ∨ mask &&& ~~~ s.mem.wayPowered ≠ 0 ∨ mask &&& s.mem.wayGoing ≠ 0
      ∨ farRangeOk addr len s = false
  then refuse stBadParam s
  else
    let n := len / 128
    let (yes, no, s1) := preloadAll mask (lineOf addr) n 0 0 (clearWays mask (lineOf addr) n s)
    let s2 := modifyMem (fun m => { m with wayLocked := m.wayLocked ||| mask }) s1
    (.reply (if no = 0 then stOk else stOkInfo) (leBytes 8 yes ++ leBytes 8 no), s2)

/-- MC_PRELOAD (Table 17-9). -/
def execMcPreload (p : McPacket) (s : State) : Host.Outcome State Fault Refusal := .next (mciRun 0x0412 p (mcPreload p) s)

/-- MC_UNLOCK: the ways return to normal allocation, and their holes end (R431, R433). -/
def mcUnlock (p : McPacket) (s : State) : McEnd × State :=
  let mask := BitVec.ofNat 16 (parm p 0 2)
  ok [] (modifyMem (fun m => { m with wayLocked := m.wayLocked &&& ~~~ mask,
                                      holes := m.holes.filter (fun h => !mask.getLsbD (h % 16)) }) s)

/-- MC_UNLOCK (Table 17-9). -/
def execMcUnlock (p : McPacket) (s : State) : Host.Outcome State Fault Refusal := .next (mciRun 0x0413 p (mcUnlock p) s)

/-! ## Range operations (R432, R433) -/

/-- Counts of a range operation: written back, invalidated, holes made. -/
structure RangeCount where
  wrote : Nat
  gone : Nat
  made : Nat

/-- Acts on one line of the cache: op 1 CLEAN, 2 CLEAN_INVALIDATE, 3 PURGE. -/
def rangeLine (op : Nat) (l : McLine) (c : RangeCount) (s : State) : RangeCount × State :=
  let s1 := if l.dirty then (if op = 3 then dirtyLost l.line s else writeBack l.line l.data s) else s
  let c1 := if l.dirty ∧ op ≠ 3 then { c with wrote := c.wrote + 1 } else c
  if op = 1 then
    (c1, modifyMem (fun m => { m with lines := mapIf (fun x => x.line == l.line) (fun x => { x with dirty := false }) m.lines }) s1)
  else
    let locked := s.mem.wayLocked.getLsbD l.way
    ({ c1 with gone := c1.gone + 1, made := c1.made + flagBit locked }, invalidateLine l s1)

/-- Acts on one line of the victim region or a side buffer. -/
def rangeBuffer (op : Nat) (l : BufferLine) (side : Bool) (c : RangeCount) (s : State) : RangeCount × State :=
  let s1 := if l.dirty then (if op = 3 then dirtyLost l.line s else writeBack l.line l.data s) else s
  let c1 := if l.dirty ∧ op ≠ 3 then { c with wrote := c.wrote + 1 } else c
  if op = 1 then
    (c1, modifyMem (fun m => { m with victim := mapIf (fun x => x.line == l.line) (fun x => { x with dirty := false }) m.victim }) s1)
  else ({ c1 with gone := c1.gone + 1 }, if side then dropSide l.line s1 else dropVictim l.line s1)

/-- Acts on the line at one address, wherever it lies. -/
def rangeAt (op line : Nat) (cs : RangeCount × State) : RangeCount × State :=
  let r1 := match cacheHit line cs.2 with
    | some l => rangeLine op l cs.1 cs.2
    | none => cs
  let r2 := match sideHit line r1.2 with
    | some b => if op = 1 then r1 else rangeBuffer op b true r1.1 r1.2
    | none => r1
  match victimHit line r2.2 with
  | some b => rangeBuffer op b false r2.1 r2.2
  | none => r2

/-- MC_RANGE_OP: CLEAN, CLEAN_INVALIDATE, PURGE (R432); PURGE outside SERVICE is refused with ST_WRONG_MODE. -/
def mcRangeOp (p : McPacket) (s : State) : McEnd × State :=
  let op := parm p 0 1
  let addr := parm p 8 8
  let len := parm p 0x10 8
  if op = 0 ∨ 3 < op then refuse stBadParam s
  else if op = 3 ∧ s.boot.mode ≠ .service then refuse stWrongMode s
  else if farRangeOk addr len s = false then refuse stBadParam s
  else
    let r := (List.range (len / 128)).foldl (fun cs i => rangeAt op (lineOf addr + i) cs) (⟨0, 0, 0⟩, s)
    ok (packFields [(8, r.1.wrote), (8, r.1.gone), (8, r.1.made)]) r.2

/-- MC_RANGE_OP with op 0x01 (R432). -/
def execClean (p : McPacket) (s : State) : Host.Outcome State Fault Refusal := .next (mciRun 0x0414 p (mcRangeOp p) s)

/-- MC_RANGE_OP with op 0x02 (R432). -/
def execCleanInvalidate (p : McPacket) (s : State) : Host.Outcome State Fault Refusal :=
  .next (mciRun 0x0414 p (mcRangeOp p) s)


/-! ## Way power (R434) -/

/-- MC_WAY_POWER: op 0x01 starts powering ways down, op 0x02 powers ways up, empty (R434, R436). -/
def mcWayPower (p : McPacket) (s : State) : McEnd × State :=
  let mask := BitVec.ofNat 16 (parm p 2 2)
  if s.mem.mcState ≠ .enabled then refuse stBusy s
  else
    match parm p 0 1 with
    | 1 =>
      if mask &&& s.mem.wayLocked ≠ 0 then refuse stBusy s
      else if s.mem.wayPowered &&& ~~~ s.mem.wayGoing &&& ~~~ s.mem.wayLocked &&& ~~~ mask = 0 then refuse stBadParam s
      else ok [] (modifyMem (fun m => { m with wayGoing := m.wayGoing ||| (mask &&& m.wayPowered) }) s)
    | 2 => ok [] (modifyMem (fun m => { m with wayPowered := m.wayPowered ||| (mask &&& ~~~ m.wayGoing) }) s)
    | _ => refuse stBadParam s

/-- MC_WAY_POWER with op 0x01 (R434). -/
def execMcWayPowerDown (p : McPacket) (s : State) : Host.Outcome State Fault Refusal :=
  .next (mciRun 0x0415 p (mcWayPower p) s)

/-- MC_WAY_POWER with op 0x02 (R434). -/
def execMcWayPowerUp (p : McPacket) (s : State) : Host.Outcome State Fault Refusal :=
  .next (mciRun 0x0415 p (mcWayPower p) s)

/-- A way being powered down has been walked: its dirty lines are written back, it is invalid and without power (R434). -/
def execMcWayDownDone (way : Nat) (s : State) : Host.Outcome State Fault Refusal :=
  if s.mem.wayGoing.getLsbD way then
    let mine := s.mem.lines.filter (fun l => l.way == way)
    let s1 := mine.foldl (fun st l => dropLine l.line (if l.dirty then writeBack l.line l.data st else st)) s
    .next (modifyMem (fun m => { m with wayGoing := m.wayGoing &&& ~~~ (1#16 <<< way),
                                        wayPowered := m.wayPowered &&& ~~~ (1#16 <<< way) }) s1)
  else .next s

/-! ## Reading -/

/-- A tag entry (Table 17-5), with PAR for even parity over bits [22:0]. -/
def tagEntry (l : McLine) : Nat :=
  let body := 2 ^ 22 + flagBit l.dirty * 2 ^ 21 + flagBit l.reused * 2 ^ 20 + l.tag % 2 ^ 19
  let ones := ((List.range 23).filter (fun i => body.testBit i)).length
  body + (ones % 2) * 2 ^ 23

/-- MC_TAG_READ: an invalid slot has VALID, DIRTY and REUSED clear, and its TAG and PAR are undefined (Table 17-5). -/
def mcTagRead (p : McPacket) (s : State) : McEnd × State :=
  let slice := parm p 0 1
  let set := parm p 2 2
  let way := parm p 4 1
  if 4 ≤ slice ∨ 16384 ≤ set ∨ 16 ≤ way then refuse stBadParam s
  else
    match s.mem.lines.find? (fun l => l.slice == slice && l.set == set && l.way == way) with
    | some l => ok (leBytes 3 (tagEntry l)) s
    | none =>
      let (u, s1) := undefNat s
      ok (leBytes 3 (u % 2 ^ 19 + u / 2 ^ 19 % 2 * 2 ^ 23)) s1

/-- MC_TAG_READ (Table 17-9). -/
def execMcTagRead (p : McPacket) (s : State) : Host.Outcome State Fault Refusal := .next (mciRun 0x0F11 p (mcTagRead p) s)

/-- MC_STATUS (Table 17-8). -/
def mcStatus (s : State) : Nat :=
  let st := match s.mem.mcState with
    | .enabled => 0
    | .disabling => 1
    | .disabled => 2
  s.mem.wayPowered.toNat * 2 ^ 48 + s.mem.wayLocked.toNat * 2 ^ 32 + flagBit (mcQuiesced s) * 2 ^ 5
    + flagBit (s.mem.wayGoing != 0) * 2 ^ 4 + flagBit (prefetchOn s) * 2 ^ 3
    + flagBit (victimOn s) * 2 ^ 2 + st

/-- The pseudo-channel numbers mapped out, a bit each: which of the 32 a training maps out is the part's (R416). -/
def mappedMask (s : State) : Nat :=
  let a := Config.pseudoChannel 0 % 32
  ((List.range s.mem.mappedOut).map (fun i => 2 ^ (if i = 0 then a else (a + 1 + Config.pseudoChannel i % 31) % 32))).sum

/-- Holes of each way (R433). -/
def holesOf (s : State) : List Nat := (List.range 16).map (fun w => (s.mem.holes.filter (fun h => h % 16 == w)).length)

/-- Resident location chunks: 1,020 entries of 16 bytes a page; R422's extents hold 2^30 / 17.6 entries each (Table 17-4). -/
def residentChunks (s : State) : Nat := s.mem.locationExtents * 2 ^ 30 * 10 / 176

/-- Far-store region sizes in bytes, in the order of Table 17-4. -/
def farRegions (s : State) : List Nat :=
  let reserve := paramNat 0x1101 0 s * 2 ^ 30
  let filter := s.mem.filterExtents * 2 ^ 30
  let location := s.mem.locationExtents * 2 ^ 30
  [536870912, 268435456, reserve, filter, location, s.mem.farBytes - (805306368 + reserve + filter + location)]

/-- Whether PAGE_CACHE has an extent of 1 GiB left above PAGE_RESERVE. -/
def extentLeft (s : State) : Bool :=
  decide (805306368 + (paramNat 0x1101 0 s + s.mem.filterExtents + s.mem.locationExtents + 1) * 2 ^ 30 ≤ s.mem.farBytes)

/-- FILTER grows by an extent once 95 % of its own are in use, from LOCATION where PAGE_CACHE has none left (R422). -/
def growFilter (s : State) : State :=
  if 200 * s.map.locs.length < 95 * s.mem.filterExtents * 2 ^ 30 then s
  else if extentLeft s then modifyMem (fun m => { m with filterExtents := m.filterExtents + 1 }) s
  else if 0 < s.mem.locationExtents then
    modifyMem (fun m => { m with filterExtents := m.filterExtents + 1, locationExtents := m.locationExtents - 1 }) s
  else s

/-- LOCATION grows likewise, as long as PAGE_CACHE has an extent left (R422). -/
def growLocation (s : State) : State :=
  if 1760 * s.map.locs.length < 95 * s.mem.locationExtents * 2 ^ 30 then s
  else if extentLeft s then modifyMem (fun m => { m with locationExtents := m.locationExtents + 1 }) s
  else s

/-- Whether LOCATION pages are paged: the extents do not hold every entry; the first time a record and health attention (R421). -/
def pagedSync (s : State) : State :=
  let on := decide (s.mem.locationExtents * 2 ^ 30 * 10 < 176 * s.map.locs.length)
  if on = s.mem.locationPagedOn then s
  else
    let s1 := modifyMem (fun m => { m with locationPagedOn := on, locationPaged := if on then bump m.locationPaged else m.locationPaged }) s
    if on then healthRecord 0x000A (packFields [(1, 2), (8, 0), (8, s1.mem.locationPaged)]) s1 else s1

/-- The far-store regions after chunks have been added, once they are built. -/
def growFar (s : State) : State := if s.mem.farValid then pagedSync (growLocation (growFilter s)) else s

/-- Step 0x0E: far store is built; FILTER and LOCATION receive the extents that Table 17-4 sizes for the stored chunks, as far as far store
goes (R421, R422). -/
def buildFar (s : State) : State :=
  let c := s.map.locs.length
  let room := (s.mem.farBytes - 805306368) / 2 ^ 30 - paramNat 0x1101 0 s
  let f := min room ((2 * c + 2 ^ 30 - 1) / 2 ^ 30)
  let l := min (room - f) ((176 * c + 10 * 2 ^ 30 - 1) / (10 * 2 ^ 30))
  pagedSync (modifyMem (fun m => { m with farValid := true, filterExtents := f, locationExtents := l, locationPagedOn := false }) s)

/-- The counters of R440, names in order. -/
def memCounters (s : State) : List Nat :=
  s.mem.nsCe ++ s.mem.nsUe ++ s.mem.fsCe ++ s.mem.fsUe
    ++ (s.mem.counters.flatMap (fun c => [c.hits, c.misses, c.sbHits, c.victimHits, c.victimDeclined, c.prefetches,
        c.tagParity, c.dataUe, c.dirtyLost]))
    ++ [s.mem.locationPaged]

/-- MEM_STATUS: the fields of Table 17-9 in order, 8 bytes each, in the buffer; RESULT repeats MC_STATUS
(DESIGN CHOICE 12: the table gives no offsets). -/
def memStatus (p : McPacket) (s : State) : McEnd × State :=
  let words := [mcStatus s] ++ s.mem.partition ++ [mappedMask s, s.mem.farBytes] ++ farRegions s
    ++ [residentChunks s] ++ holesOf s ++ memCounters s
  answerRecords p [words.flatMap (leBytes 8)] (leBytes 8 (mcStatus s)) s

/-- MEM_STATUS (Table 17-9). -/
def execMemStatus (p : McPacket) (s : State) : Host.Outcome State Fault Refusal := .next (mciRun 0x0410 p (memStatus p) s)

/-- While location pages are paged: a record once each day, counter and health attention (R421). -/
def execLocationPagedDaily (s : State) : Host.Outcome State Fault Refusal :=
  if s.mem.locationPagedOn then
    let s1 := modifyMem (fun m => { m with locationPaged := bump m.locationPaged }) s
    .next (healthRecord 0x000A (packFields [(1, 2), (8, 0), (8, s1.mem.locationPaged)]) s1)
  else .next s

end Sys2Proof.Machine
end

