-- ==== Sys2Proof/Machine/Bales.lean ====
section
/-! DEFINITION. Data bales and the metadata stream (R84-R87, R204-R206, R214, R269-R274, R282): appending and sealing, plots and
parity, metadata rows, journal pages and checkpoints. -/

namespace Sys2Proof.Machine

/-! ## Data bales -/

/-- The bale of an acre that is not committed. -/
def baleAt (acre bale : Nat) (s : State) : Option Bale := s.media.bales.find? (fun b => b.acre == acre && b.bale == bale)

/-- Changes a bale that is not committed. -/
def modifyBale (acre bale : Nat) (f : Bale → Bale) (s : State) : State :=
  { s with media := { s.media with bales := mapIf (fun b => b.acre == acre && b.bale == bale) f s.media.bales } }

/-- Takes the next WRITE_SEQs: the first of `n` (R214). -/
def takeWriteSeq (n : Nat) (s : State) : Nat × State :=
  (s.journal.writeSeq, { s with journal := { s.journal with writeSeq := s.journal.writeSeq + 2 * n } })

/-- Cuts a plot or a segment into codewords of 4 KiB. -/
def codewords (n : Nat) (b : Bytes) : List Bytes := (List.range n).map (fun i => padTo 4096 (slice b (4096 * i) 4096))

/-- A data plot of a bale (R269, R270). -/
def dataPlot (a : Acre) (b : Bale) (p sealTime : Nat) (uid : Bytes) : Bytes :=
  let rs := b.records.filter (fun r => r.plot == p)
  let used := rs.foldl (fun m r => max m (r.off + 64 * recUnits r.bytes.length)) 0x200
  plotBytes a uid b.bale p b.baseSeq rs.length used sealTime (layRecords (rs.map (fun r => (r.off, r.bytes))))

/-- The k+m plots of a bale, parity computed over whole data plots (R205, R269). -/
def balePlots (a : Acre) (b : Bale) (sealTime : Nat) (uid : Bytes) : List Bytes :=
  let data := (List.range a.k).map (fun p => dataPlot a b p sealTime uid)
  data ++ (List.range a.m).map (fun j => parityPlot a.m j 262144 data)

/-- The block that holds plot p of bale j of an acre (R204). -/
def plotHome (a : Acre) (p j : Nat) : Nat × Nat × Nat := a.blocks.getD (plotBlock a.k a.m p j) (0, 0, 0)

/-- Issues the DIE_PROGRAM of some codewords. -/
def programBlock (home : Nat × Nat × Nat) (cw : Nat) (data : List Bytes) (use : FurrowUse) (s : State) : State :=
  furrowIssue home.1 3 (leBytes 8 (cwAddr home.2.1 home.2.2 cw) ++ leBytes 1 data.length) data use s

/-- Seals a bale: it takes its WRITE_SEQs, parity is computed, and every plot is written to its bridge (R85, R206, R214). -/
def sealBale (acre bale : Nat) (s : State) : State :=
  match acreAt acre s, baleAt acre bale s with
  | some a, some b =>
    if b.closed then s
    else
      let (base, s1) := takeWriteSeq (a.k + a.m) s
      let b1 := { b with closed := true, baseSeq := base, waiting := List.range (a.k + a.m) }
      let s2 := modifyAcre acre (fun x => if bale = 0 then { x with openSeq := base } else x) (modifyBale acre bale (fun _ => b1) s1)
      let plots := balePlots ((acreAt acre s2).getD a) b1 (arrayTime s) s.media.arrayUid
      (List.range (a.k + a.m)).foldl (fun st p =>
        programBlock (plotHome a p bale) (64 * bale) (codewords 64 (plots.getD p [])) (.balePlot acre bale p) st) s2
  | _, _ => s

/-- How many acres of a stream and quadrant the head keeps open to fill (R213). -/
def openLimit (stream : Nat) : Nat :=
  match stream with
  | 0 => 4 | 3 => 2 | _ => 1

/-- Whether a hot acre is held back: below RECLAIM_URGENT, until reclaim has freed an acre since the last one was opened (R217). The hot
acres that READONLY seals the admitted writes into are not (R230). -/
def hotHeld (s : State) : Bool :=
  !s.media.readonly && !freeAtLeast (paramNat 0x0905 0 s) s && s.media.freedSinceHot == 0

/-- Open acres of a stream and quadrant that this head fills and that have a bale left to start. -/
def fillable (stream quadrant : Nat) (s : State) : List Acre :=
  s.media.acres.filter (fun a => a.state == 1 && a.stream == stream && (stream == 3 || a.quadrant == quadrant)
    && a.opener == s.boot.headId % 2 && decide (a.started < a.nBales))

/-- Whether an acre's current bale is still being filled: one bale is filled at a time in each (R84). -/
def hasOpenBale (a : Acre) (s : State) : Bool := s.media.bales.any (fun b => b.acre == a.num && !b.closed)

/-- Opens a hot acre, where it is not held back (R217). -/
def openHot (quadrant : Nat) (s : State) : Option Nat × State :=
  if hotHeld s then (none, s)
  else
    match openAcre 0 quadrant s.media.readonly s with
    | (some n, s1) => (some n, { s1 with media := { s1.media with freedSinceHot := 0 } })
    | (none, s1) => (none, s1)

/-- Opens an acre for a data stream; a hot one that cannot be formed brings READONLY (R230). -/
def openDataAcre (stream quadrant : Nat) (s : State) : Option Nat × State :=
  if stream ≠ 0 then openAcre stream quadrant true s
  else
    match openHot quadrant s with
    | (some n, s1) => (some n, s1)
    | (none, s1) =>
      if s1.media.readonly = false ∧ hotHeld s1 = false ∧ (spaceVictims s1 = [] ∨ bridgesOnline s1 < s1.media.baleM + 4) then
        openHot quadrant (enterReadonly s1)
      else (none, s1)

/-- Starts the next bale of an acre. -/
def startBaleIn (stream quadrant a : Nat) (s : State) : (Nat × Nat) × State :=
  let n := ((acreAt a s).map (·.started)).getD 0
  let b : Bale := { acre := a, bale := n, stream := stream, quadrant := quadrant, plot := 0, next := 0x200, records := [],
                    oldest := s.time.ticks, closed := false, baseSeq := 0, waiting := [], victims := [] }
  let s1 := modifyAcre a (fun x => { x with started := n + 1 }) s
  ((a, n), { s1 with media := { s1.media with bales := s1.media.bales ++ [b] } })

/-- Keeps as many hot acres of a quadrant open as it may have, while they can be formed (R84, R213). -/
def keepHot (stream quadrant : Nat) (s : State) : State :=
  if stream = 0 ∧ (fillable 0 quadrant s).length < openLimit 0 then (openHot quadrant s).2 else s

/-- Starts the next bale of a stream and quadrant: in `only` where one acre is to take the records, else in an open acre with none being
filled, else in a new acre. -/
def startBale (stream quadrant : Nat) (only : Option Nat) (s : State) : Option (Nat × Nat) × State :=
  let next := (fillable stream quadrant s).find? (fun a => !hasOpenBale a s && (only.isNone || only == some a.num))
  match next with
  | some a =>
    let (p, s1) := startBaleIn stream quadrant a.num s
    (some p, s1)
  | none =>
    match openDataAcre stream quadrant s with
    | (some a, s1) =>
      let (p, s2) := startBaleIn stream quadrant a s1
      (some p, s2)
    | (none, s1) => (none, s1)

/-- The bale that the next record of a stream and quadrant goes to: the least filled of the open ones. The spec does not say how records
are spread over a quadrant's open hot bales (DESIGN CHOICE 157). -/
def openBaleOf (stream quadrant : Nat) (only : Option Nat) (s : State) : Option Bale :=
  let mine := s.media.bales.filter (fun b => b.stream == stream && b.quadrant == quadrant && !b.closed
    && (only.isNone || only == some b.acre) && ((acreAt b.acre s).map (·.state)) == some 1)
  (sortByKey (fun (b : Bale) => [(b.plot : Int), (b.next : Int)]) mine).head?

/-- The bale to be filled: every open acre of the stream and quadrant has one (R84). -/
def fillBale (stream quadrant : Nat) (only : Option Nat) (s : State) : Option Bale × State :=
  let s1 := if only.isNone then keepHot stream quadrant s else s
  let idle := (fillable stream quadrant s1).any (fun a => !hasOpenBale a s1 && (only.isNone || only == some a.num))
  let s2 := if idle then (startBale stream quadrant only s1).2 else s1
  (openBaleOf stream quadrant only s2, s2)

/-- Where a record of `units` × 64 bytes goes in a bale of k data plots: plot and offset, none where it does not fit (R84). -/
def placeIn (k units : Nat) (b : Bale) : Option (Nat × Nat) :=
  if b.next + 64 * units ≤ 262144 then some (b.plot, b.next)
  else if b.plot + 1 < k then some (b.plot + 1, 0x200)
  else none

/-- Puts a record in a bale at a place, with the victim it is copied from. -/
def putRecord (b : Bale) (plot off : Nat) (victim : Option Nat) (bytes : Bytes) (chunk gen : Nat) (s : State) : State :=
  let units := recUnits bytes.length
  let r : BaleRecord := { plot := plot, off := off, bytes := bytes, chunk := chunk, gen := gen }
  modifyBale b.acre b.bale (fun x =>
    { x with plot := plot, next := off + 64 * units, records := x.records ++ [r]
             oldest := if x.records.isEmpty then s.time.ticks else x.oldest
             victims := x.victims ++ victim.toList.filter (fun v => !x.victims.contains v) }) s

/-- The location of a record placed in a bale. -/
def placedLoc (b : Bale) (plot off : Nat) (bytes : Bytes) (gen domain epoch : Nat) : Loc :=
  { acre := b.acre, bale := b.bale, plot := plot, off := off / 64, len := recUnits bytes.length, gen := gen, refcount := 1,
    domain := domain, epoch := epoch }

/-- Puts a record in a bale, where it fits. -/
def tryPut (b : Bale) (victim : Option Nat) (bytes : Bytes) (chunk gen domain epoch : Nat) (s : State) : Option (Loc × State) :=
  match placeIn (((acreAt b.acre s).map (·.k)).getD 0) (recUnits bytes.length) b with
  | some (p, o) => some (placedLoc b p o bytes gen domain epoch, putRecord b p o victim bytes chunk gen s)
  | none => none

/-- Appends a chunk record to an open bale of a stream and quadrant, of the acre `only` where one is given; a bale that cannot take it is
sealed and another started (R84, R85). `victim` is the acre that reclaim copies it from. None where no bale can be had. -/
def appendRecord (stream quadrant : Nat) (victim only : Option Nat) (bytes : Bytes) (chunk gen domain epoch : Nat) (s : State) :
    Option Loc × State :=
  let fresh := fun (st : State) =>
    match startBale stream quadrant only st with
    | (some (a, n), s1) =>
      match (baleAt a n s1).bind (fun b => tryPut b victim bytes chunk gen domain epoch s1) with
      | some (l, s2) => (some l, s2)
      | none => (none, s1)
    | (none, s1) => (none, s1)
  match fillBale stream quadrant only s with
  | (none, s1) => fresh s1
  | (some b, s1) =>
    match tryPut b victim bytes chunk gen domain epoch s1 with
    | some (l, s2) => (some l, s2)
    | none => fresh (sealBale b.acre b.bale s1)

/-! ## Metadata units and rows (R206, R273) -/

/-- Puts units on the queue of the metadata stream. -/
def addDue (us : List MetaUnit) (s : State) : State := { s with journal := { s.journal with due := s.journal.due ++ us } }

/-- A page as a unit. -/
def pageUnit (utype value jseq : Nat) (payload : Bytes) : MetaUnit :=
  { utype := utype, part := 1, pageId := pageId utype value, jseq := jseq, payload := payload,
    item := .page (pageId utype value) none }

/-- Packs records into units of up to 16,320 bytes, none of them straddling (R280). -/
def packUnits : List JRecord → List (List JRecord) → List (List JRecord)
  | [], acc => acc
  | r :: rest, acc =>
    let len := fun (x : JRecord) => (journalBytes x.jseq x.body).length
    match acc.reverse with
    | cur :: before =>
      if (cur.map len).sum + len r ≤ 16320 then packUnits rest (before.reverse ++ [cur ++ [r]]) else packUnits rest (acc ++ [[r]])
    | [] => packUnits rest [[r]]

/-- A PAD record that fills the rest of a unit. -/
def padRecord (n : Nat) : Bytes :=
  if n < 16 then zeros n
  else
    let raw := packFields [(1, 0), (1, 0), (2, n), (4, 0), (8, 0)] ++ zeros (n - 16)
    overlay raw 4 (leBytes 4 (crc32c raw))

/-- A JOURNAL unit of some records. -/
def journalUnit (rs : List JRecord) : MetaUnit :=
  let bytes := rs.flatMap (fun r => journalBytes r.jseq r.body)
  { utype := 2, part := 1, pageId := pageId 2 0, jseq := (rs.head?.map (·.jseq)).getD 0,
    payload := bytes ++ padRecord (16320 - bytes.length), item := .journal ((rs.getLast?.map (·.jseq)).getD 0) }

/-- The JOURNAL units of the records that stand in no row yet. -/
def journalUnits (s : State) : List MetaUnit :=
  (packUnits (s.journal.ring.filter (fun r => !r.written && !r.persisted)) []).map journalUnit

/-- Keeps two metadata acres open, where they can be formed (R213). -/
def keepMeta (s : State) : State := if (fillable 3 0 s).length < openLimit 3 then (openAcre 3 0 true s).2 else s

/-- Starts a bale in a metadata acre. -/
def startMetaBale (a : Acre) (s : State) : MetaBale × State :=
  let (base, s1) := takeWriteSeq (a.k + a.m) s
  let b : MetaBale := { acre := a.num, bale := a.started, row := 0, baseSeq := base }
  let s2 := modifyAcre a.num (fun x => { x with started := x.started + 1, openSeq := if x.started = 0 then base else x.openSeq }) s1
  (b, { s2 with journal := { s2.journal with metaOpen := s2.journal.metaOpen ++ [b] } })

/-- The metadata bale to be filled, outside the acres of `avoid` where there is one: the first that has been begun, or a new one in the open
acre with the fewest bales begun, so that the two acres take bales in turn. Which of the two a bale goes to the spec does not say (R206, R213;
DESIGN CHOICE 158). -/
def currentMetaBale (avoid : List Nat) (s : State) : Option MetaBale × State :=
  match s.journal.metaOpen.find? (fun b => !avoid.contains b.acre) with
  | some b => (some b, s)
  | none =>
    let s0 := keepMeta s
    let acres := sortByKey (fun (a : Acre) => [(a.started : Int)]) (fillable 3 0 s0)
    match (acres.find? (fun a => !avoid.contains a.num)), s0.journal.metaOpen.head?, acres.head? with
    | some a, _, _ => let r := startMetaBale a s0; (some r.1, r.2)
    | none, some b, _ => (some b, s0)
    | none, none, some a => let r := startMetaBale a s0; (some r.1, r.2)
    | none, none, none => (none, s0)

/-- The metadata acres that a row of units must not go to where another is open: those that hold the first copy of the newest envelope of an
ENVELOPE page (R279). -/
def rowAvoids (units : List MetaUnit) (s : State) : List Nat :=
  match units.head? with
  | none => []
  | some u =>
    if u.utype ≠ 9 then []
    else
      let newest := ((domainAt (u.pageId % 256) s).map (fun d => (d.envelopes.map (·.epoch)).foldl max 0)).getD 0
      (s.media.acres.filter (fun a => a.envelopes.contains (u.pageId % 256, newest))).map (·.num)

/-- The ACRE unit at the start of a metadata bale. -/
def acreUnit (a : Acre) (uid : Bytes) : MetaUnit :=
  { utype := 1, part := 1, pageId := pageId 1 a.num, jseq := 0, payload := acreHeader a uid, item := .other }

/-- A unit of zeros. -/
def padUnit : MetaUnit := { utype := 0, part := 1, pageId := 0, jseq := 0, payload := [], item := .other }

/-- The segments of a row: its units on the data plots, and parity (R205, R206). -/
def rowSegments (a : Acre) (b : MetaBale) (units : List MetaUnit) : List Bytes :=
  let data := (List.range a.k).map (fun p =>
    let u := units.getD p padUnit
    unitBytes u.utype p b.row a.num b.bale u.part (b.baseSeq + 2 * p) u.pageId u.jseq u.payload)
  data ++ (List.range a.m).map (fun j => parityPlot a.m j 16384 data)

/-- Writes one row with the units that fit it, from the front; the rest of the row is padding. The units left over. -/
def writeRow (units : List MetaUnit) (s : State) : List MetaUnit × State :=
  match currentMetaBale (rowAvoids units s) s with
  | (none, s1) => (units, s1)
  | (some b, s1) =>
    match acreAt b.acre s1 with
    | none => (units, s1)
    | some a =>
      let front := if b.row = 0 then [acreUnit a s1.media.arrayUid] else []
      let mine := front ++ units.take (a.k - front.length)
      let segs := rowSegments a b mine
      let id := s1.journal.nextRow
      let r : MetaRow := { id := id, acre := a.num, bale := b.bale, row := b.row, units := mine,
                           waiting := List.range (a.k + a.m), failed := false }
      let upTo := mine.foldl (fun m u => match u.item with
        | .journal j => max m j
        | _ => m) 0
      let next := if b.row = 15 then s1.journal.metaOpen.erase b else s1.journal.metaOpen.map (fun x => if x = b then { b with row := b.row + 1 } else x)
      let s2 := { s1 with journal := { s1.journal with
        rows := s1.journal.rows ++ [r], nextRow := id + 1, metaOpen := next
        ring := s1.journal.ring.map (fun x => if x.jseq ≤ upTo then { x with written := true } else x) } }
      (units.drop (a.k - front.length),
        (List.range (a.k + a.m)).foldl (fun st p =>
          programBlock (plotHome a p b.bale) (64 * b.bale + 4 * b.row) (codewords 4 (segs.getD p [])) (.metaSegment id p) st) s2)

/-- Writes rows until nothing waits, or no row can be had. -/
def writeRows : Nat → List MetaUnit → State → State
  | 0, us, s => addDue us s
  | fuel + 1, us, s =>
    if us.isEmpty then s
    else
      let (left, s1) := writeRow us s
      if left.length = us.length then addDue left s1 else writeRows fuel left s1

/-- Writes journal pages and what waits for the metadata stream; ENVELOPE pages go first, as they may need an acre of their own (R86, R206,
R279). -/
def metaFlush (s : State) : State :=
  let envelope := fun (u : MetaUnit) => u.utype == 9
  let us := s.journal.due.filter envelope ++ journalUnits s ++ s.journal.due.filter (fun u => !envelope u)
  writeRows (us.length + 1) us { s with journal := { s.journal with due := [] } }

/-- The oldest unpersisted record reaches JOURNAL_PERSIST_TIME: a journal page is written (R86). -/
def execJournalPersistTimeout (s : State) : Host.Outcome State Fault Refusal :=
  .next (if s.boot.mode = .dump ∨ journalUnits s = [] then s else metaFlush s)

/-- The bales of an acre that have committed. -/
def committedBales (a : Acre) (s : State) : List Nat :=
  (List.range a.started).filter (fun n => !a.torn.contains n && (baleAt a.num n s).isNone
    && !(s.journal.metaOpen.any (fun b => b.acre == a.num && b.bale == n))
    && !s.journal.rows.any (fun r => r.acre == a.num && r.bale == n))

/-- The oldest record of an open bale reaches BALE_SEAL_TIME (R85). -/
def baleSealTimeout (acre bale : Nat) (s : State) : State :=
  match baleAt acre bale s with
  | none => s
  | some b =>
    if b.closed ∨ s.boot.mode = .dump then s
    else sealBale acre bale (countIngest b.quadrant (fun c => { c with balesSealedTimeout := bump c.balesSealedTimeout }) s)


/-- Whether the record with a JSEQ is persisted: its row has committed, or it has left the ring. -/
def isPersisted (j : Nat) (s : State) : Bool := s.journal.ring.all (fun r => r.jseq != j || r.persisted)

/-! ## Pages of a checkpoint (Tables 11-6 to 11-11) -/

/-- The distinct numbers of a list, in the order of their first appearance. -/
def distinct (xs : List Nat) : List Nat := xs.foldl (fun acc x => if acc.contains x then acc else acc ++ [x]) []

/-- MAP pages of the live content: PAGE_ID and payload. -/
def mapPages (t : MapTables) : List (Nat × Bytes) :=
  let key := fun (k : Nat) => (k / 2 ^ 31) * 2 ^ 47 + mapPage (k % 2 ^ 31)
  (distinct (t.live.map (fun e => key e.1))).map (fun pk =>
    let ns := pk / 2 ^ 47
    let page := pk % 2 ^ 31
    (pageId 4 pk, (List.range 2040).flatMap (fun i => leBytes 8 (lookupD (liveKey ns (2040 * page + i)) t.live 0))))

/-- A snapshot's MAP page as a unit's payload. -/
def snapPayload (c : SnapPage) : Bytes := (List.range 2040).flatMap (fun i => leBytes 8 (lookupD (2040 * c.page + i) c.entries 0))

/-- PAGE_ID of a snapshot's MAP page. -/
def snapPageId (c : SnapPage) : Nat := pageId 4 (c.ns * 2 ^ 47 + c.snap * 2 ^ 31 + c.page)

/-- LOCATION pages. -/
def locPages (t : MapTables) : List (Nat × Bytes) :=
  (distinct (t.locs.map (fun e => e.1 / 1020))).map (fun p =>
    (pageId 5 p, (List.range 1020).flatMap (fun i => locBytes (lookupD (1020 * p + i) t.locs noLoc))))

/-- INDEX pages (R277). -/
def indexPages (t : MapTables) : List (Nat × Bytes) :=
  (distinct (t.index.map (·.page))).map (fun p =>
    let es := t.index.filter (fun e => e.page == p)
    (pageId 6 p, packFields [(1, (es.head?.map (·.domain)).getD 0), (3, 0), (4, es.length)]
      ++ es.flatMap (fun e => padTo 32 e.fp ++ leBytes 8 e.entry)))

/-- OBJECT pages: 127 record slots each. -/
def objectPages (t : MapTables) : List (Nat × Bytes) :=
  (distinct (t.objects.map (fun o => o.number / 127))).map (fun p =>
    (pageId 7 p, (List.range 127).flatMap (fun i =>
      match t.objects.find? (fun o => o.number == 127 * p + i) with
      | some o => objectBytes o
      | none => zeros 128)))

/-- PIECES pages: 1,020 entries each. -/
def piecePages (t : MapTables) : List (Nat × Bytes) :=
  t.pieces.flatMap (fun e => (List.range ((e.2.length + 1019) / 1020)).map (fun i =>
    (pageId 8 (e.1 * 2 ^ 22 + i), ((e.2.drop (1020 * i)).take 1020).flatMap pieceBytes)))

/-- The ENVELOPE page of a domain: its live epochs and those being destroyed. -/
def envelopePage (id : Nat) (d : Domain) : Nat × Bytes :=
  (pageId 9 id, d.envelopes.flatMap (fun e => envelopeBytes id e.kek e.epoch e.time 1 e.wrapped))

/-- The ENVELOPE pages of the domains. -/
def envelopePages (t : MapTables) : List (Nat × Bytes) :=
  t.domains.filterMap (fun x => if x.2.envelopes.isEmpty then none else some (envelopePage x.1 x.2))

/-- REPL_PAIRS pages. -/
def pairPages (t : MapTables) : List (Nat × Bytes) := if t.pairs.isEmpty then [] else [(pageId 14 0, t.pairs.flatMap pairBytes)]

/-- The pages of the tables. -/
def tablePages (t : MapTables) : List (Nat × Bytes) :=
  mapPages t ++ locPages t ++ indexPages t ++ objectPages t ++ piecePages t ++ envelopePages t ++ pairPages t

/-- BLOCK_TABLE pages of a bridge: erase counts, 0xFFFF for a retired block, die after die. -/
def blockTable (b : Nat) (h : HeadBridge) : List (Nat × Bytes) :=
  match h.ident with
  | none => []
  | some i =>
    let n := i.dies * i.blocksPerDie
    let entry := fun (x : Nat) =>
      let k := nandKey (x / i.blocksPerDie) (x % i.blocksPerDie)
      if h.retired.contains k then 0xFFFF else min 0xFFFF (lookupD k h.erases 0)
    (List.range ((n + 8159) / 8160)).map (fun p =>
      (pageId 13 (b * 2 ^ 32 + p), (List.range (min 8160 (n - 8160 * p))).flatMap (fun i => leBytes 2 (entry (8160 * p + i)))))

/-- Pages that differ from those of the checkpoint before; one that has become empty is written with zeros. -/
def dirtyPages (old new : MapTables) : List (Nat × Bytes) :=
  let before := tablePages old
  let now := tablePages new
  now.filter (fun p => lookup p.1 before != some p.2)
    ++ (before.filter (fun p => (lookup p.1 now).isNone)).map (fun p => (p.1, zeros p.2.length))

/-- A page that is due, from its PAGE_ID and payload. -/
def dueUnit (jseq : Nat) (p : Nat × Bytes) : MetaUnit :=
  { utype := p.1 / 2 ^ 58, part := 1, pageId := p.1, jseq := jseq, payload := p.2, item := .page p.1 none }

/-- DIRECTORY pages: 1,020 entries each (R274). -/
def directoryPages (d : List (Nat × (Nat × Nat × Nat × Nat))) : List (Nat × Bytes) :=
  (List.range ((d.length + 1019) / 1020)).map (fun i =>
    (pageId 10 i, ((d.drop (1020 * i)).take 1020).flatMap (fun e =>
      leBytes 8 e.1 ++ unitLoc e.2.1 e.2.2.1 e.2.2.2.1 e.2.2.2.2)))

/-- FLAGS of a namespace's or object domain's root entry. -/
def scopeFlags (t : MapTables) (kind id : Nat) : Nat :=
  let v := fun (param dflt : Nat) =>
    ((t.scopeParams.find? (fun p => p.kind == kind && p.id == id && p.param == param)).map (fun p => leNat p.value)).getD dflt
  v 0x0304 0 % 2 + 2 * (v 0x0400 1 % 2) + 4 * (if kind = 2 then v 0x1003 0 % 2 else 0)

/-- The checkpoint root (Table 11-11). -/
def rootBytes (c : CheckpointRun) (s : State) : Bytes :=
  let t := c.tables
  let limit := fun (id : Nat) =>
    ((t.scopeParams.find? (fun p => p.kind == 2 && p.id == id && p.param == 0x1004)).map (fun p => leNat p.value)).getD 36500
  packFields [(8, c.number), (8, c.replayFrom - 1), (8, arrayTime s), (8, opTime s), (4, t.domains.length),
      (4, t.namespaces.length + t.objdoms.length), (4, t.snaps.length), (4, c.dirPages.length)]
    ++ t.domains.flatMap (fun d => domainEntry d.2 true)
    ++ t.namespaces.flatMap (fun n => scopeEntry 1 n.domain n.id n.lbaLog2 (scopeFlags t 1 n.id) n.size n.nguid)
    ++ t.objdoms.flatMap (fun o => scopeEntry 2 o.domain o.id 0 (scopeFlags t 2 o.id) (limit o.id) (zeros 16))
    ++ t.snaps.flatMap snapEntry
    ++ c.dirPages.flatMap (fun e => leBytes 8 e.1 ++ unitLoc e.2.1 e.2.2.1 e.2.2.2.1 e.2.2.2.2)

/-- The CHECKPOINT_ROOT units, split in PART order. -/
def rootUnits (c : CheckpointRun) (s : State) : List MetaUnit :=
  let b := rootBytes c s
  let n := (b.length + 16319) / 16320
  (List.range n).map (fun i =>
    { utype := 3, part := i * 256 + n, pageId := pageId 3 c.number, jseq := c.replayFrom - 1, payload := slice b (16320 * i) 16320,
      item := .checkpointRoot c.number })

/-- Whether metadata units of a test still wait for a row or for its commit. -/
def metaPending (p : MetaUnit → Bool) (s : State) : Bool :=
  s.journal.due.any p || s.journal.rows.any (fun r => r.units.any p)

/-- Carries a checkpoint on: dirty pages, then DIRECTORY pages, then the root, and its CHECKPOINT record once every part of the root has
committed (R87, R282). -/
def advanceCheckpoint (s : State) : State :=
  match s.journal.checkpointing with
  | none => s
  | some c =>
    let set := fun (c' : CheckpointRun) (st : State) => { st with journal := { st.journal with checkpointing := some c' } }
    let isPage := fun (u : MetaUnit) => match u.item with
      | .page _ none => true
      | _ => false
    let isRoot := fun (u : MetaUnit) => u.item == .checkpointRoot c.number
    match c.stage with
    | 0 =>
      let pages := dirtyPages s.journal.checkpoint c.tables
        ++ (List.range 192).flatMap (fun b => blockTable b (headBridge b s))
      metaFlush (set { c with stage := 1 } (addDue (pages.map (dueUnit (c.replayFrom - 1))) s))
    | 1 =>
      if metaPending isPage s then s
      else
        let pages := (directoryPages s.journal.directory).map (dueUnit (c.replayFrom - 1))
        metaFlush (set { c with stage := 2, dir := s.journal.directory } (addDue pages s))
    | 2 =>
      if metaPending isPage s then s
      else metaFlush (set { c with stage := 3, time := arrayTime s } (addDue (rootUnits c s) s))
    | _ =>
      if metaPending isRoot s then s
      else
        let (j, _, s1) := place 0 (.checkpoint c.number c.root) s
        { s1 with journal := { s1.journal with checkpointing := none, checkpointNumber := max c.number s1.journal.checkpointNumber
                                               checkpointDone := some (j, c) } }

/-- 60 s after the previous checkpoint, the head checkpoints its dirty pages (R87). -/
def execCheckpointTimer (s : State) : Host.Outcome State Fault Refusal :=
  .next (if s.boot.mode = .dump then s
         else advanceCheckpoint (beginCheckpoint { s with journal := { s.journal with lastCheckpoint := s.time.ticks } }))

/-! ## Commit of a row (R206, R274, R281) -/

/-- What an acre holds of journal records and envelopes once a unit of it is committed (R197, R279). -/
def noteUnit (r : MetaRow) (u : MetaUnit) (s : State) : State :=
  match u.item with
  | .journal upTo =>
    let mine := s.journal.ring.filter (fun x => decide (u.jseq ≤ x.jseq) && decide (x.jseq ≤ upTo))
    let envs := mine.filterMap (fun x => match x.body with
      | .envelope d e _ _ _ => some (d, e)
      | _ => none)
    modifyAcre r.acre (fun a => { a with envelopes := a.envelopes ++ envs, maxJseq := max a.maxJseq upTo }) s
  | .page pid _ =>
    if pid / 2 ^ 58 = 9 then
      let envs := match s.map.domains.find? (fun x => x.1 == pid % 2 ^ 58) with
        | some x => x.2.envelopes.map (fun e => (x.1, e.epoch))
        | none => []
      modifyAcre r.acre (fun a => { a with envelopes := a.envelopes ++ envs }) s
    else s
  | _ => s

/-- The second copy of each envelope that a JOURNAL unit has persisted: the ENVELOPE page of its domain (R279). -/
def secondEnvelopes (first upTo : Nat) (s : State) : State :=
  let mine := s.journal.ring.filter (fun x => decide (first ≤ x.jseq) && decide (x.jseq ≤ upTo))
  let ds := distinct (mine.filterMap (fun x => match x.body with
    | .envelope d _ _ _ _ => some d
    | _ => none))
  addDue (ds.filterMap (fun d => (domainAt d s).map (fun x => dueUnit (s.journal.nextJseq - 1) (envelopePage d x)))) s

/-- What a committed unit brings: journal records persisted, a PAGE record for a page, the place of a root's part 0. -/
def unitCommit (r : MetaRow) (plot : Nat) (u : MetaUnit) (s : State) : State :=
  match u.item with
  | .journal upTo =>
    secondEnvelopes u.jseq upTo { s with journal := { s.journal with
      ring := s.journal.ring.map (fun x => if x.written ∧ u.jseq ≤ x.jseq ∧ x.jseq ≤ upTo then { x with persisted := true } else x) } }
  | .page pid copy =>
    if pid / 2 ^ 58 = 10 then
      match s.journal.checkpointing with
      | some c => { s with journal := { s.journal with
          checkpointing := some { c with dirPages := insertAt pid (r.acre, r.bale, plot, r.row) c.dirPages } } }
      | none => s
    else place' 0 (.page pid r.acre r.bale plot r.row copy) s
  | .almanac _ _ => place' 0 (.page u.pageId r.acre r.bale plot r.row none) s
  | .config _ => place' 0 (.page u.pageId r.acre r.bale plot r.row none) s
  | .checkpointRoot number =>
    match s.journal.checkpointing with
    | some c =>
      if u.part < 256 ∧ c.number = number then
        { s with journal := { s.journal with checkpointing := some { c with root := (r.acre, r.bale, plot, r.row) } } }
      else s
    | none => s
  | .other => s

/-- A persisted CHECKPOINT record releases the journal space before it (R87). -/
def releaseJournal (s : State) : State :=
  match s.journal.checkpointDone with
  | none => s
  | some (j, c) =>
    if isPersisted j s then
      { s with journal := { s.journal with
        checkpointDone := none, checkpoint := c.tables, checkpointDir := c.dir, checkpointTime := c.time, replayFrom := c.replayFrom
        ring := s.journal.ring.filter (fun r => !r.persisted || decide (c.replayFrom ≤ r.jseq)) } }
    else s

/-- The bale of a row commits with its row 15, and an acre with its last bale (R206, Table 9-2). -/
def rowBale (r : MetaRow) (s : State) : State :=
  if r.row ≠ 15 then s
  else
    let s1 := modifyAcre r.acre (fun a => { a with committed := a.committed + 1 }) s
    match acreAt r.acre s1 with
    | some a => if a.nBales ≤ a.committed then sealAcre a.num s1 else s1
    | none => s1

/-- Commits a metadata row whose segments are all reported programmed. -/
def rowCommit (id : Nat) (s : State) : State :=
  match s.journal.rows.find? (fun r => r.id == id) with
  | none => s
  | some r =>
    if r.waiting ≠ [] ∨ r.failed = true ∨ s.boot.mode = .dump then s
    else
      let s1 := { s with journal := { s.journal with rows := s.journal.rows.filter (fun x => x.id != id) } }
      let s2 := (List.range r.units.length).foldl (fun st p =>
        unitCommit r p (r.units.getD p padUnit) (noteUnit r (r.units.getD p padUnit) st)) s1
      let s3 := if s2.journal.due.any (fun u => u.utype == 9) then metaFlush s2 else s2
      advanceCheckpoint (releaseJournal (rowBale r s3))

/-- A failed segment: the acre is sealed, and what the row carried is written again, in a newly opened acre; a metadata bale of the other open
acre that is being filled is filled first (R215; DESIGN CHOICE 158). -/
def rowFailed (id : Nat) (s : State) : State :=
  match s.journal.rows.find? (fun r => r.id == id) with
  | none => s
  | some r =>
    let again := r.units.filter (fun u => match u.item with
      | .journal _ => false
      | .other => false
      | _ => true)
    let held := fun (j : Nat) => r.units.any (fun u => match u.item with
      | .journal upTo => decide (u.jseq ≤ j) && decide (j ≤ upTo)
      | _ => false)
    let s1 := { s with journal := { s.journal with
      rows := s.journal.rows.filter (fun x => x.id != id)
      metaOpen := s.journal.metaOpen.filter (fun b => b.acre != r.acre)
      ring := s.journal.ring.map (fun x => if x.persisted = false ∧ held x.jseq = true then { x with written := false } else x)
      due := again ++ s.journal.due } }
    metaFlush (openAcre 3 0 true (sealAcre r.acre (modifyAcre r.acre (fun a => { a with torn := a.torn ++ [r.bale] }) s1))).2

end Sys2Proof.Machine
end

