-- ==== Sys2Proof/Machine/Cipher.lean ====
section
/-! DEFINITION. Cipher complexes and the vault (08): requests, pairing, completion, working-slot state, vault alarms, and
the commands that only read or change them. -/

namespace Sys2Proof.Machine

/-! ## Working slots (R183, Table 8-5) -/

/-- An empty working slot. -/
def emptySlot : WorkingSlot :=
  { state := .empty, use := .none, kek := 0, domain := 0, epoch := 0, key := [], label := [], used := 0 }

/-- A working slot by number. -/
def slotAt (n : Nat) (s : State) : WorkingSlot := lookupD n s.cipher.slots emptySlot

/-- REFS of a slot: requests in flight that name it. -/
def slotRefs (n : Nat) (s : State) : Nat := (s.cipher.jobs.filter (fun j => j.req.keySlot == n)).length

/-- Sets a working slot; an EMPTY slot keeps no key. -/
def setSlot (n : Nat) (w : WorkingSlot) (s : State) : State :=
  modifyCipher (fun c => { c with slots := if w.state == .empty then removeAt n c.slots else insertAt n w c.slots }) s

/-- Marks a slot as most recently used. -/
def touchSlot (n : Nat) (s : State) : State :=
  modifyCipher (fun c => { c with useClock := c.useClock + 1
                                  slots := c.slots.map (fun x => if x.1 = n then (x.1, { x.2 with used := c.useClock + 1 }) else x) }) s

/-! ## Requests (R175-R178) -/

/-- Whether a slot's USE suits an operation (Table 8-3). -/
def useSuits (op : CipherOp) (u : SlotUse) : Bool :=
  match op with
  | .hmac => u == .hmac
  | _ => u == .data || u == .repl

/-- The cases of R177 that end a request with ST_BAD_PARAM. -/
def cipherBad (op : CipherOp) (r : CipherRequest) (s : State) : Bool :=
  let w := slotAt r.keySlot s
  w.state != .valid || !useSuits op w.use || r.len == 0 || decide (262144 < r.len)
    || isStale r.dst s || decide (handleSize r.dst < cipherOutLen op r.len)

/-- A request by a ticket on a tine: refused by R177, or queued at the complex of the tine's quadrant or the next that can
take it (R174, R175). HMAC runs on two SHA-256 units of the issuing harrow. -/
def cipherRequest (op : CipherOp) (tine unit : Nat) (epoch : Option EpochRef) (r : CipherRequest) (s : State) : State :=
  let id := s.cipher.nextJob
  if cipherBad op r s then
    let (u, s1) := undefNat s
    emit (.cipherDone id (cipherWord stBadParam (u % 64) (u / 64) 0)) (modifyCipher (fun c => { c with nextJob := id + 1 }) s1)
  else
    let q := tine / 128 % 4
    let route := if op = .hmac then some q else routeFrom q s
    let place := match route with
      | some c => c
      | none => 4 + q
    let passed := match route with
      | some c => (c + 4 - q) % 4
      | none => 0
    let j : CipherJob := { id := id, op := op, req := r, harrow := unit, tine := tine, epoch := epoch, complex := place, pair := none,
                           repeats := none }
    let s1 := modifyCipher (fun c => { c with nextJob := id + 1, jobs := c.jobs ++ [j] }) s
    let s2 := countPassed q passed s1
    cipherSchedule (touchSlot r.keySlot (countComplex (place % 4) (fun c => { c with requests := bump c.requests }) s2))

/-- A GCM_ENCRYPT request (Table 8-3). -/
def execGcmEncrypt (tine unit : Nat) (epoch : Option EpochRef) (req : CipherRequest) (s : State) :
    Host.Outcome State Fault Refusal := .next (cipherRequest .gcmEncrypt tine unit epoch req s)

/-- A GCM_DECRYPT request (Table 8-3). -/
def execGcmDecrypt (tine unit : Nat) (epoch : Option EpochRef) (req : CipherRequest) (s : State) :
    Host.Outcome State Fault Refusal := .next (cipherRequest .gcmDecrypt tine unit epoch req s)

/-- An HMAC request (Table 8-3). -/
def execHmac (tine unit : Nat) (epoch : Option EpochRef) (req : CipherRequest) (s : State) :
    Host.Outcome State Fault Refusal := .next (cipherRequest .hmac tine unit epoch req s)

/-! ## Completion (R179-R182) -/

/-- An ENCRYPT ticket goes back to P2, its STAMP 1 ms later, after a second fault (R181). -/
def requeueEncrypt (j : CipherJob) (s : State) : State :=
  if j.op = .gcmEncrypt then
    let t : Ticket := { type := 0x08, prio := 2, wait := false, tomb := false, pinned := false, home := j.harrow % 32,
                        orderKey := none, epoch := j.epoch, parent := 0xFFFFFFFF, handles := [j.req.src, j.req.dst],
                        args := zeros 16, stamp := s.time.ticks + msTicks 1, ref := 0, expiries := 0, spilled := false }
    match enqueue t s with
    | some s1 => epochLive j.epoch s1
    | none => s
  else s

/-- A request whose outputs disagree ends with ST_CIPHER_FAULT, its output withheld; its requester repeats it once, as a new request on
another complex. The end of the repeat writes a record (R179-R181). -/
def cipherFault (j : CipherJob) (s : State) : State :=
  let s1 := finishJob j stCipherFault 0 (noteFault (j.complex % 4) j.pair (withholdDst j s))
  match j.repeats with
  | none =>
    let id := s1.cipher.nextJob
    let q := if j.op = .hmac then j.complex else repeatComplex (j.complex % 4) s1
    let j2 : CipherJob := { j with id := id, complex := q, pair := none, repeats := some (j.pair.getD (64, 64)) }
    countComplex (q % 4) (fun c => { c with requests := bump c.requests })
      (modifyCipher (fun c => { c with nextJob := id + 1, jobs := c.jobs ++ [j2] }) s1)
  | some _ =>
    let pr := j.pair.getD (0, 0)
    requeueEncrypt j (almanac 0x0302 (packFields [(1, j.complex % 4), (1, pr.1), (1, pr.2), (1, opCode j.op), (2, j.req.keySlot)]) s1)

/-- The result of a request on its buffers as they stand: the output, none where a decrypt's tag differs. -/
def cipherResult (j : CipherJob) (s : State) : Option Bytes × State :=
  let key := (slotAt j.req.keySlot s).key
  let (aad, s1) := if j.req.aadUnits = 0 then ([], s) else bufferRead j.req.aad 0 (16 * j.req.aadUnits) s
  match j.op with
  | .gcmEncrypt =>
    let (src, s2) := bufferRead j.req.src 0 j.req.len s1
    let r := gcmEncrypt key (padTo 12 j.req.iv) aad src
    (some (r.1 ++ r.2), s2)
  | .gcmDecrypt =>
    let (src, s2) := bufferRead j.req.src 0 (j.req.len + 16) s1
    (gcmDecrypt key (padTo 12 j.req.iv) aad (src.take j.req.len) (src.drop j.req.len), s2)
  | .hmac =>
    let (src, s2) := bufferRead j.req.src 0 j.req.len s1
    (some (hmacSha256 key src), s2)

/-- Both engines of a request have finished: `agree` says whether their outputs agree (R179). -/
def cipherComplete (id : Nat) (agree : Bool) (s : State) : State :=
  match s.cipher.jobs.find? (fun j => j.id == id) with
  | none => s
  | some j =>
    if j.pair.isNone ∧ j.op ≠ .hmac then s
    else if (slotAt j.req.keySlot s).state = .empty then cipherSchedule (finishJob j stAborted 0 (withholdDst j s))
    else if agree = false then cipherSchedule (cipherFault j s)
    else
      let (out, s1) := cipherResult j s
      match out with
      | none =>
        cipherSchedule (finishJob j stAuthFailed 0 (withholdDst j
          (countComplex (j.complex % 4) (fun c => { c with tagFails := bump c.tagFails }) s1)))
      | some bytes =>
        let s2 := countComplex (j.complex % 4) (fun c => { c with bytes := bump c.bytes j.req.len }) s1
        cipherSchedule (finishJob j stOk bytes.length (bufferPut j.req.dst 0 bytes s2))

/-- Repeated cipher faults (R182): 64 in 1 s, or fewer than 16 cores in service in the unparked quadrants. -/
def cipherSick (s : State) : Bool :=
  decide (64 ≤ (s.cipher.faultTicks.filter (fun t => decide (s.time.ticks < t + sTicks 1))).length)
    || decide ((([0, 1, 2, 3].filter (fun q => !(s.time.pace.getD q resetPace).parked)).map (fun q => inServiceCores q s)).sum < 16)

/-! ## Vault (R186-R192) -/

/-- Ends with ST_ABORTED the requests on working slots that have been erased (R190). -/
def abortErased (s : State) : State :=
  s.cipher.jobs.foldl (fun st j =>
    if (slotAt j.req.keySlot st).state = .empty then finishJob j stAborted 0 (withholdDst j st) else st) s

/-- Sets every working slot EMPTY in all four complexes (R190). -/
def eraseWorking (s : State) : State := abortErased (modifyCipher (fun c => { c with slots := [], loads := [] }) s)

/-- A vault alarm: every gauntlet slot zeroed, the working slots erased where the alarm says so, its bit latched, the record,
security attention (R190). -/
def vaultAlarm (bit : Nat) (working : Bool) (s : State) : State :=
  let erased := vaultStatus s / 2 ^ 16
  let s1 := { s with vault := { s.vault with gauntlet := List.replicate 16 none, status := s.vault.status ||| (1#32 <<< bit) } }
  let s2 := if working then eraseWorking s1 else s1
  securityEvent detailNone (almanac 0x0301 (packFields [(4, vaultStatus s2), (2, erased)]) s2)

/-- Supply glitch (Table 8-7). -/
def execVaultAlarmSupply (s : State) : Host.Outcome State Fault Refusal := .next (vaultAlarm 1 false s)

/-- Temperature (Table 8-7). -/
def execVaultAlarmTemp (s : State) : Host.Outcome State Fault Refusal := .next (vaultAlarm 2 false s)

/-- Shield mesh (Table 8-7). -/
def execVaultAlarmMesh (s : State) : Host.Outcome State Fault Refusal := .next (vaultAlarm 3 true s)

/-- Tamper input (Table 8-7). -/
def execVaultAlarmTamper (s : State) : Host.Outcome State Fault Refusal := .next (vaultAlarm 4 true s)

/-- Check mismatch (Table 8-7). -/
def execVaultAlarmCheck (s : State) : Host.Outcome State Fault Refusal := .next (vaultAlarm 5 false s)

/-- VAUX falls below 2.0 V: every gauntlet slot is lost (R189). -/
def execVauxLoss (s : State) : Host.Outcome State Fault Refusal :=
  .next { s with vault := { s.vault with gauntlet := List.replicate 16 none, vaux := false } }

/-- VAUX rises: VAULT_STATUS takes its reset value, with VAULT_LOST set, and security attention stands (R191). -/
def execVauxRise (s : State) : Host.Outcome State Fault Refusal :=
  if s.vault.vaux then .next s
  else .next (hswSync { s with vault := { gauntlet := List.replicate 16 none, status := 1, vaux := true } })

/-- KEY_STATUS: VAULT_STATUS and the in-service cores of each complex (Table 8-12). -/
def keyStatus (s : State) : McEnd × State :=
  ok (leBytes 4 (vaultStatus s) ++ ([0, 1, 2, 3].map (fun q => BitVec.ofNat 8 (inServiceCores q s)))) s

/-- KEY_STATUS. -/
def execKeyStatus (p : McPacket) (s : State) : Host.Outcome State Fault Refusal := .next (mciRun 0x0300 p keyStatus s)

/-- The transport key of the part. -/
def transportKey : Bytes := (List.range 32).map Config.transportKey

/-- KEY_LOAD_GAUNTLET: unwraps under the transport key and writes the slot; an alarm that wins its race ends it with
ST_ABORTED, the slot empty (R186, R187, R192). -/
def keyLoadGauntlet (p : McPacket) (alarmWins : Bool) (s : State) : McEnd × State :=
  let slot := parm p 0 1
  if 16 ≤ slot then refuse stBadParam s
  else
    match keyUnwrap transportKey (parmBytes p 8 40) with
    | none => refuse stAuthFailed s
    | some key =>
      if alarmWins then (.reply stAborted [], { s with vault := { s.vault with gauntlet := s.vault.gauntlet.set slot none } })
      else ok [] { s with vault := { s.vault with gauntlet := s.vault.gauntlet.set slot (some key) } }

/-- KEY_LOAD_GAUNTLET. -/
def execKeyLoadGauntlet (p : McPacket) (alarmWins : Bool) (s : State) : Host.Outcome State Fault Refusal :=
  .next (mciRun 0x0301 p (keyLoadGauntlet p alarmWins) s)

/-- KEY_CLEAR_GAUNTLET: the slots of the mask are emptied. -/
def keyClearGauntlet (p : McPacket) (s : State) : McEnd × State :=
  let mask := BitVec.ofNat 16 (parm p 0 2)
  ok [] { s with vault := { s.vault with gauntlet := (List.range 16).map (fun i =>
    if mask.getLsbD i then none else s.vault.gauntlet.getD i none) } }

/-- KEY_CLEAR_GAUNTLET. -/
def execKeyClearGauntlet (p : McPacket) (s : State) : Host.Outcome State Fault Refusal :=
  .next (mciRun 0x0302 p (keyClearGauntlet p) s)

/-- KEY_ALARM_CLEAR: each 1 bit of the mask clears the latched bit concerned (R191). -/
def keyAlarmClear (p : McPacket) (s : State) : McEnd × State :=
  let mask := BitVec.ofNat 32 (parm p 0 1 % 64)
  let s1 := hswSync { s with vault := { s.vault with status := s.vault.status &&& ~~~ mask } }
  ok (leBytes 4 (vaultStatus s1)) s1

/-- KEY_ALARM_CLEAR. -/
def execKeyAlarmClear (p : McPacket) (s : State) : Host.Outcome State Fault Refusal :=
  .next (mciRun 0x0303 p (keyAlarmClear p) s)

/-- KEY_HMAC: HMAC-SHA-256 under a gauntlet slot 12 to 15 over a message of 1 to 32 bytes: 24 bytes of it in RESULT, and all
32 in the buffer where one is given (DESIGN CHOICE 12). An empty slot ends it with ST_AUTH_FAILED. -/
def keyHmac (p : McPacket) (s : State) : McEnd × State :=
  let slot := parm p 0 1
  let len := parm p 7 1
  if slot < 12 ∨ 16 ≤ slot ∨ len = 0 ∨ 32 < len then refuse stBadParam s
  else
    match s.vault.gauntlet.getD slot none with
    | none => refuse stAuthFailed s
    | some key =>
      let mac := hmacSha256 key (parmBytes p 8 len)
      ok (mac.take 24) (if p.dataPages = 0 then s else bufferWrite p mac s)

/-- KEY_HMAC. -/
def execKeyHmac (p : McPacket) (s : State) : Host.Outcome State Fault Refusal := .next (mciRun 0x030A p (keyHmac p) s)

/-- Working-slot information (Table 8-5). -/
def slotInfo (n : Nat) (s : State) : Nat :=
  let w := slotAt n s
  let st := match w.state with
    | .empty => 0 | .loading => 1 | .valid => 2 | .evicting => 3
  let use := match w.use with
    | .none => 0 | .data => 1 | .repl => 2 | .hmac => 3
  st * 2 ^ 62 + use * 2 ^ 56 + w.kek % 16 * 2 ^ 52 + w.domain % 256 * 2 ^ 44 + min (slotRefs n s) 4095 * 2 ^ 32
    + w.epoch % 2 ^ 32

/-- KEY_SLOT_INFO. -/
def keySlotInfo (p : McPacket) (s : State) : McEnd × State :=
  let n := parm p 0 2
  if 4096 ≤ n then refuse stBadParam s else ok (leBytes 8 (slotInfo n s)) s

/-- KEY_SLOT_INFO. -/
def execKeySlotInfo (p : McPacket) (s : State) : Host.Outcome State Fault Refusal := .next (mciRun 0x0309 p (keySlotInfo p) s)

/-- The counters of a complex in the order of R202, then its quarantined cores. -/
def cipherWords (q : Nat) (s : State) : List Nat :=
  match s.cipher.complexes[q]? with
  | none => []
  | some c => [c.requests, c.bytes, c.tagFails, c.cipherFaults, c.forwarded, c.slotLoads, c.slotEvictions, 16 - inServiceCores q s]

/-- CIPHER_STATS. -/
def cipherStats (p : McPacket) (s : State) : McEnd × State :=
  let q := parm p 0 1
  if 4 ≤ q then refuse stBadParam s else answerRecords p [(cipherWords q s).flatMap (leBytes 8)] [] s

/-- CIPHER_STATS. -/
def execCipherStats (p : McPacket) (s : State) : Host.Outcome State Fault Refusal := .next (mciRun 0x030B p (cipherStats p) s)

end Sys2Proof.Machine
end

