-- ==== Sys2Proof/Machine/Keys.lean ====
section
/-! DEFINITION. Working-slot loads, domains and key epochs (R183-R185, R188, R192-R197, R201), and the commands a head passes to
its peer (R61, R493). -/

namespace Sys2Proof.Machine

/-! ## Forwarding -/

/-- Sends a FORWARD of a command to the peer: its FWD_ID (Table 13-3). -/
def forwardSend (kind : Nat) (header payload : Bytes) (client : Option (Nat × Nat)) (mci : Option (Nat × Nat)) (s : State) : Nat × State :=
  let id := s.headland.nextForward
  let f : Forward := { id := id, kind := kind, body := padTo 64 header ++ payload, room := [], client := client, mci := mci }
  let s1 := { s with headland := { s.headland with nextForward := id + 1, forwards := s.headland.forwards ++ [f] } }
  (id, headSend 0 0x0020 (packFields [(8, id), (1, kind), (7, 0)] ++ f.body) s1)

/-- Makes a command wait. -/
def waitOn (p : McPacket) (kind : WaitKind) (result : Bytes) (s : State) : McEnd × State :=
  (.stands, { s with mci := { s.mci with waits := s.mci.waits ++ [{ ref := refOf p, kind := kind, status := stOk, result := result }] } })

/-- Passes an MCI command to the peer; the reply follows its FORWARD_DONE (R194, R493). One that came from the peer does not go back. -/
def forwardMci (opcode : Nat) (p : McPacket) (s : State) : McEnd × State :=
  if peerRing ≤ p.fetchedFrom then (.reply stWrongMode [], s)
  else
  let (id, s1) := forwardSend 3 (packetBytes opcode p) p.data none (some (p.fetchedFrom, (refOf p).tag)) s
  waitOn p (.forward id) [] s1

/-- Ends the commands that wait for something, with a status, or with their own where `status` is none. -/
def endWaits (kind : WaitKind) (status : Option Status) (result : Option Bytes) (s : State) : State :=
  let mine := s.mci.waits.filter (fun w => w.kind == kind)
  mine.foldl (fun st w => complete w.ref (status.getD w.status) (result.getD w.result) st)
    { s with mci := { s.mci with waits := s.mci.waits.filter (fun w => w.kind != kind) } }

/-! ## Key-encryption keys and locked domains (R188) -/

/-- The key in a gauntlet slot. -/
def gauntletKey (n : Nat) (s : State) : Option Bytes := s.vault.gauntlet.getD n none

/-- Whether a gauntlet slot may hold a key-encryption key: 1 to 7 or 12 to 15. -/
def kekSlot (n : Nat) : Bool := (decide (1 ≤ n) && decide (n ≤ 7)) || (decide (12 ≤ n) && decide (n ≤ 15))

/-- The VALID working slot of a data key. -/
def dataSlot (d epoch : Nat) (s : State) : Option (Nat × WorkingSlot) :=
  s.cipher.slots.find? (fun x => x.2.state == .valid && x.2.use == .data && x.2.domain == d && x.2.epoch == epoch)

/-- The envelope of an epoch. -/
def envelopeOf (d epoch : Nat) (s : State) : Option Envelope :=
  (domainAt d s).bind (fun x => x.envelopes.find? (fun e => e.epoch == epoch))

/-- Marks a domain locked, with the security event when the lock begins (R188), and with the DOMAIN_LOCKED record of the lock where
`record` says so: a read writes none (R99). -/
def noteLocked (d : Nat) (record : Bool) (s : State) : State :=
  match domainAt d s with
  | none => s
  | some x =>
    let tell := record && !x.lockTold
    let s1 := modifyDomain d (fun y => { y with locked := true, lockTold := x.lockTold || record }) s
    let s2 := if tell then almanac 0x0304 (leBytes 1 d) s1 else s1
    if x.locked then s2 else securityEvent d s2

/-! ## Loading working slots (R184, R185) -/

/-- Whether the head allots slots of both parities: it serves alone. -/
def servesAlone (s : State) : Bool := baseMode s == .sole

/-- Slots the head may allot and evict. -/
def ownParity (n : Nat) (s : State) : Bool := servesAlone s || n % 2 == s.boot.headId % 2

/-- Whether a slot's key may be evicted: not the current epoch of a domain nor one of a locked domain, its session not open. -/
def evictable (x : Nat × WorkingSlot) (s : State) : Bool :=
  x.2.state == .valid && ownParity x.1 s
    && !(x.2.use == .data && (match domainAt x.2.domain s with
      | some d => d.epoch == x.2.epoch || d.locked
      | none => false))
    && !(x.2.use == .repl && s.repl.sessions.any (fun y => y.wslot == some x.1))

/-- Adds 1 to a counter of all four complexes: every load and eviction concerns all four copies. -/
def countComplexes (f : CipherComplex → CipherComplex) (s : State) : State :=
  (List.range 4).foldl (fun st q => countComplex q f st) s

/-- An EVICTING slot whose REFS has reached zero becomes EMPTY (R184). -/
def slotEmptied (n : Nat) (s : State) : State :=
  if (slotAt n s).state = .evicting ∧ slotRefs n s = 0 then
    countComplexes (fun c => { c with slotEvictions := bump c.slotEvictions }) (setSlot n emptySlot s)
  else s

/-- Starts evicting a slot. -/
def evict (n : Nat) (s : State) : State := slotEmptied n (setSlot n { slotAt n s with state := .evicting } s)

/-- The lowest EMPTY slot the head may allot; where there is none, the least recently used key that may go is evicted first.
None while the evicted slot still has requests in flight, or no key may go. -/
def allotSlot (s : State) : Option Nat × State :=
  let free := fun (st : State) => firstIndex 4096 (fun n => ownParity n st && (slotAt n st).state == .empty)
  match free s with
  | some n => (some n, s)
  | none =>
    let worst := (s.cipher.slots.filter (fun x => evictable x s)).foldl (fun (m : Option (Nat × WorkingSlot)) x => match m with
      | none => some x
      | some y => if x.2.used < y.2.used then some x else m) none
    match worst with
    | none => (none, s)
    | some x =>
      let s1 := evict x.1 s
      if (slotAt x.1 s1).state = .empty then (some x.1, s1) else (none, s1)

/-- The USE code (Table 8-5). -/
def useCode (u : SlotUse) : Nat :=
  match u with
  | .none => 0 | .data => 1 | .repl => 2 | .hmac => 3

/-- A load writes all four copies and sets the slot VALID (R183). -/
def slotValid (n : Nat) (use : SlotUse) (kek domain epoch : Nat) (key label : Bytes) (s : State) : State :=
  touchSlot n (countComplexes (fun c => { c with slotLoads := bump c.slotLoads })
    (setSlot n { state := .valid, use := use, kek := kek, domain := domain, epoch := epoch, key := key, label := label, used := 0 } s))

/-- The key-load event (R185). -/
def sendKeyLoad (n : Nat) (use : SlotUse) (domain epoch : Nat) (body : Bytes) (s : State) : State :=
  if s.headland.peerPresent then
    headSend 0 0x0030 (packFields [(2, n), (1, useCode use), (1, domain), (4, epoch)] ++ body) s
  else s

/-- The bytes of an envelope. -/
def envBytes (d : Nat) (e : Envelope) : Bytes := envelopeBytes d e.kek e.epoch e.time 1 e.wrapped

/-- The key-load event of a VALID slot: with the envelope of a DATA key, else with the label and, for DOMAIN, the gauntlet slot that its key
is derived from (R185; Table 13-3 names no place for that slot: DESIGN CHOICE 152). -/
def slotEvent (n : Nat) (w : WorkingSlot) (s : State) : State :=
  if w.use = .data then sendKeyLoad n .data w.domain w.epoch (((envelopeOf w.domain w.epoch s).map (envBytes w.domain)).getD []) s
  else sendKeyLoad n w.use w.kek w.epoch (padTo 32 w.label) s

/-- How a request for a data key ends: the working slot that holds it, with the key; the domain is locked (R188); or no slot can be had
yet, so that the request waits (R184). -/
inductive KeyAnswer where
  | key (slot : Nat) (key : Bytes)
  | locked
  | wait
  deriving DecidableEq, Repr

/-- The data key of a domain's epoch: resident, or loaded from its envelope under the domain's key-encryption key (R184, R188, R192).
`record`: whether a lock found is recorded. -/
def needKey (d epoch : Nat) (record : Bool) (s : State) : KeyAnswer × State :=
  match dataSlot d epoch s with
  | some (n, w) => (.key n w.key, touchSlot n s)
  | none =>
    match envelopeOf d epoch s with
    | none => (.locked, s)
    | some e =>
      match (gauntletKey e.kek s).bind (fun k => keyUnwrap k e.wrapped) with
      | none => (.locked, noteLocked d record s)
      | some key =>
        let s1 := modifyDomain d (fun y => { y with locked := false, lockTold := false }) s
        match allotSlot s1 with
        | (some n, s2) => (.key n key, sendKeyLoad n .data d epoch (envBytes d e) (slotValid n .data e.kek d epoch key [] s2))
        | (none, s2) => (.wait, s2)

/-- Whether the keys of a domain are to be had: its needed key is resident or can be loaded (R188). -/
def keyAvailable (d epoch : Nat) (s : State) : Bool :=
  (dataSlot d epoch s).isSome || ((envelopeOf d epoch s).bind (fun e =>
    (gauntletKey e.kek s).bind (fun k => keyUnwrap k e.wrapped))).isSome

/-! ## The key owner and the epoch advance (R193-R195) -/

/-- Whether the head is the key owner of a domain (R194). -/
def isKeyOwner (d : Nat) (s : State) : Bool :=
  match baseMode s with
  | .active => s.boot.headId % 2 == d % 2
  | .sole => true
  | .returning => !s.headland.ret.inbound
  | _ => false

/-- Changes an advance under way. -/
def modifyAdvance (d epoch : Nat) (f : EpochAdvance → EpochAdvance) (s : State) : State :=
  modifyCipher (fun c => { c with advances := mapIf (fun a => a.domain == d && a.epoch == epoch) f c.advances }) s

/-- Takes an advance out. -/
def dropAdvance (d epoch : Nat) (s : State) : State :=
  modifyCipher (fun c => { c with advances := c.advances.filter (fun a => !(a.domain == d && a.epoch == epoch)) }) s

/-- Steps 5 and 6 of Table 8-9: KEY_EPOCH is set by a journal record, and the command ends. -/
def advanceDone (d epoch : Nat) (s : State) : State :=
  endWaits (.epochAck d epoch) none none (dropAdvance d epoch (place' 0 (.keyEpoch d epoch) s))

/-- Retires a new epoch unused: its slot is emptied, its envelope destroyed, its number kept (R194). -/
def retireEpoch (d epoch : Nat) (status : Status) (s : State) : State :=
  let s1 := place' 0 (.epochDestroy d epoch) s
  let s2 := almanac 0x0303 (packFields [(1, d), (4, epoch), (1, 1)]) s1
  endWaits (.epochAck d epoch) (some status) none (dropAdvance d epoch s2)

/-- Step 3: the working slot of a new epoch is loaded. -/
def advanceLoad (a : EpochAdvance) (s : State) : State :=
  match (envelopeOf a.domain a.epoch s).bind (fun e => (gauntletKey e.kek s).bind (fun k => (keyUnwrap k e.wrapped).map (fun key => (e, key)))) with
  | none => retireEpoch a.domain a.epoch stAuthFailed s
  | some (e, key) =>
    match allotSlot s with
    | (none, s1) => s1
    | (some n, s1) =>
      let w : WorkingSlot := { state := .loading, use := .data, kek := e.kek, domain := a.domain, epoch := a.epoch, key := [], label := [], used := 0 }
      let l : SlotLoad := { slot := n, use := .data, kek := e.kek, domain := a.domain, epoch := a.epoch, key := key, label := [], ackTo := none }
      modifyAdvance a.domain a.epoch (fun x => { x with slot := n, step := 3 })
        (setSlot n w (modifyCipher (fun c => { c with loads := c.loads ++ [l] }) s1))

/-- Whether the envelope record of an epoch is persisted (Table 8-9 step 2). -/
def envelopePersisted (d epoch : Nat) (s : State) : Bool :=
  s.journal.ring.all (fun r => r.persisted || match r.body with
    | .envelope d' e' _ _ _ => !(d' == d && e' == epoch)
    | _ => true)

/-- Carries every advance on whose awaited step has come about: the envelope persisted, or the peer gone (Table 8-9). -/
def advanceEpochs (s : State) : State :=
  s.cipher.advances.foldl (fun st a =>
    if a.step = 2 ∧ envelopePersisted a.domain a.epoch st = true then advanceLoad a st
    else if a.step = 4 ∧ servesAlone st = true then advanceDone a.domain a.epoch st
    else st) s

/-- A working-slot load ends: all four copies written, the slot VALID; then the load goes to the peer, or is acknowledged (R183-R185,
Table 8-9). -/
def slotLoadDone (n : Nat) (s : State) : State :=
  match s.cipher.loads.find? (fun l => l.slot == n) with
  | none => s
  | some l =>
    if (slotAt n s).state ≠ .loading then s
    else
      let s1 := slotValid n l.use l.kek l.domain l.epoch l.key l.label
        (modifyCipher (fun c => { c with loads := c.loads.filter (fun x => x.slot != n) }) s)
      match l.ackTo with
      | some q => headSend q 0x0031 (packFields [(2, n), (2, 0)]) s1
      | none =>
        let s2 := slotEvent n (slotAt n s1) s1
        if s2.cipher.advances.any (fun a => a.domain == l.domain && a.epoch == l.epoch && a.step == 3) then
          if s2.headland.peerPresent = true ∧ servesAlone s2 = false then modifyAdvance l.domain l.epoch (fun a => { a with step := 4 }) s2
          else advanceDone l.domain l.epoch s2
        else s2

/-- SLOT_LOAD_DONE (R184). -/
def execSlotLoadDone (slot : Nat) (s : State) : Host.Outcome State Fault Refusal := .next (slotLoadDone slot s)

/-- An EVICTING slot has emptied; a load that waits for it begins (R184, R185). -/
def execSlotEvictDone (slot : Nat) (s : State) : Host.Outcome State Fault Refusal :=
  let s1 := slotEmptied slot s
  .next (match s1.cipher.loads.find? (fun l => l.slot == slot) with
    | some l =>
      if (slotAt slot s1).state = .empty then
        setSlot slot { state := .loading, use := l.use, kek := l.kek, domain := l.domain, epoch := l.epoch, key := [], label := [], used := 0 } s1
      else s1
    | none => s1)

/-- Begins an epoch: the vault draws the data key and wraps it, and the envelope record is placed (Table 8-9 steps 1 and 2). The
command waits for step 6. -/
def beginEpoch (p : McPacket) (d kek epoch : Nat) (kekKey result : Bytes) (s : State) : McEnd × State :=
  let (key, s1) := draw 32 s
  let s2 := place' 0 (.envelope d epoch kek (arrayTime s1) (keyWrap kekKey key)) s1
  let s3 := modifyCipher (fun c => { c with advances := c.advances ++ [{ domain := d, epoch := epoch, slot := 0, step := 2, ref := none }] }) s2
  waitOn p (.epochAck d epoch) result s3

/-- Epochs of a domain with a nonzero count. -/
def liveEpochs (x : Domain) : List (Nat × Nat) := x.counts.filter (fun c => decide (0 < c.2))

/-- A key command of a domain: on the key owner, or forwarded to it (R194, R201). -/
def onKeyOwner (opcode d : Nat) (p : McPacket) (body : Domain → State → McEnd × State) (s : State) : McEnd × State :=
  match domainAt d s with
  | none => refuse stBadParam s
  | some x =>
    if isKeyOwner d s then body x s
    else if s.headland.peerPresent then forwardMci opcode p s
    else refuse stWrongMode s

/-- KEY_EPOCH_ADVANCE (R193-R195). -/
def keyEpochAdvance (p : McPacket) (s : State) : McEnd × State :=
  onKeyOwner 0x0306 (parm p 0 1) p (fun x s =>
    if 0xFFFFFFFF ≤ x.epoch ∨ 0xFFFFFFFF ≤ x.issued then refuse stNoResource s
    else if 64 ≤ (liveEpochs x).length then refuse stNoResource s
    else
      match gauntletKey x.kek s with
      | none => refuse stAuthFailed (if keyAvailable x.id x.epoch s then s else noteLocked x.id true s)
      | some k => beginEpoch p x.id x.kek (x.issued + 1) k (leBytes 4 (x.issued + 1)) s) s

/-- KEY_EPOCH_ADVANCE. -/
def execKeyEpochAdvance (p : McPacket) (s : State) : Host.Outcome State Fault Refusal := .next (mciRun 0x0306 p (keyEpochAdvance p) s)

/-- KEY_EPOCH_DESTROY: an unused epoch's slot is emptied in both heads and its destruction journaled; reclaim relocates what holds a
copy of its envelope (R197). -/
def keyEpochDestroy (p : McPacket) (s : State) : McEnd × State :=
  onKeyOwner 0x0307 (parm p 0 1) p (fun x s =>
    let e := parm p 4 4
    if e = x.epoch ∨ e = 0 ∨ x.issued < e then refuse stBadParam s
    else if lookupD e x.counts 0 ≠ 0 then refuse stBusy s
    else ok [] (place' 0 (.epochDestroy x.id e) s)) s

/-- KEY_EPOCH_DESTROY. -/
def execKeyEpochDestroy (p : McPacket) (s : State) : Host.Outcome State Fault Refusal := .next (mciRun 0x0307 p (keyEpochDestroy p) s)

/-- KEY_REWRAP: every envelope of the domain is wrapped again under the new slot; both slots must be loaded (Table 8-12). -/
def keyRewrap (p : McPacket) (s : State) : McEnd × State :=
  onKeyOwner 0x0305 (parm p 0 1) p (fun x s =>
    let new := parm p 1 1
    if kekSlot new = false then refuse stBadParam s
    else
      match gauntletKey new s with
      | none => refuse stAuthFailed s
      | some nk =>
        let keys := x.envelopes.map (fun e => (gauntletKey e.kek s).bind (fun k => (keyUnwrap k e.wrapped).map (fun key => (e, key))))
        if keys.any (fun k => k.isNone) then refuse stAuthFailed s
        else ok [] (modifyDomain x.id (fun y => { y with kek := new }) ((keys.filterMap id).foldl (fun st k =>
          place' 0 (.envelope x.id k.1.epoch new (arrayTime st) (keyWrap nk k.2)) st) s))) s

/-- KEY_REWRAP. -/
def execKeyRewrap (p : McPacket) (s : State) : Host.Outcome State Fault Refusal := .next (mciRun 0x0305 p (keyRewrap p) s)

/-- KEY_EPOCH_STATS: the current epoch, and the live epochs with their counts in ascending order (Table 8-12). -/
def keyEpochStats (p : McPacket) (s : State) : McEnd × State :=
  match domainAt (parm p 0 1) s with
  | none => refuse stBadParam s
  | some x =>
    let live := liveEpochs x
    let all := if live.any (fun c => c.1 == x.epoch) then live else live ++ [(x.epoch, 0)]
    let sorted := sortByKey (fun (c : Nat × Nat) => [(c.1 : Int)]) all
    answerRecords p (sorted.map (fun c => packFields [(4, c.1), (4, 0), (8, c.2)])) (leBytes 4 x.epoch ++ leBytes 4 sorted.length) s

/-- KEY_EPOCH_STATS. -/
def execKeyEpochStats (p : McPacket) (s : State) : Host.Outcome State Fault Refusal := .next (mciRun 0x0308 p (keyEpochStats p) s)

/-- The peer gives no KEY_LOAD_ACK within 1 ms while it stays present: the new epoch is retired (R194). -/
def execKeyLoadAckTimeout (domain epoch : Nat) (s : State) : Host.Outcome State Fault Refusal :=
  .next (if s.headland.peerPresent ∧ s.cipher.advances.any (fun a => a.domain == domain && a.epoch == epoch && a.step == 4) = true then
    retireEpoch domain epoch stInternal s
  else s)

end Sys2Proof.Machine
end

