-- ==== Sys2Proof/Machine/Media.lean ====
section
/-! DEFINITION. Failing media, health and the media commands (R203, R209, R225-R229, R232, R236). -/

namespace Sys2Proof.Machine

/-! ## Dies, blocks and bridges that fail (R225, R226) -/

/-- A die in service that has done nothing. -/
def newDie : DieState :=
  { state := 0, reads := 0, retries := 0, softReads := 0, uncorrectable := 0, cbitsHist := List.replicate 16 0, silent := 0,
    retirements := [] }

/-- Changes a die. -/
def modifyDie (b d : Nat) (f : DieState → DieState) (s : State) : State :=
  modifyHeadBridge b (fun h => { h with dies := modifyNth f d h.dies }) s

/-- Whether a component is to be emptied: EVACUATING, FAILED or LOST. -/
def blockLeaves (s : State) (x : Nat × Nat × Nat) : Bool :=
  blockLost s x || (headBridge x.1 s).state == 2 || dieState x.1 x.2.1 s == 1

/-- Bytes of the write arena, and those its buffers have out. -/
def wbCapacity (s : State) : Nat := ((List.range 8).map (fun p => listBytes 0 p s)).sum

/-! ## Dump acres (R233) -/

/-- Whether the head's dump acres have a block on every bridge it leases that is in service, and hold what the write and mirror arenas can. -/
def dumpReserved (s : State) : Bool :=
  let mine := s.media.acres.filter (fun a => s.media.dumpAcres.contains a.num)
  let content := wbCapacity s + ((List.range 8).map (fun p => listBytes 1 p s)).sum
  ((leasedBridges s).filter (fun b => decide ((headBridge b s).state ≤ 1))).all (fun b => mine.any (fun a => a.blocks.any (fun x => x.1 == b)))
    && decide (content ≤ (mine.map (fun a => a.k * a.nBales * 262144)).sum)

/-- Opens dump acres until they suffice, or none can be formed. -/
def openDumpAcres : Nat → State → State
  | 0, s => s
  | fuel + 1, s =>
    if dumpReserved s then s
    else match openAcre 4 0 false s with
      | (some n, s1) => openDumpAcres fuel { s1 with media := { s1.media with dumpAcres := s1.media.dumpAcres ++ [n] } }
      | (none, s1) => s1

/-- Gives up the reserved dump acres, erased as they are, that have a block on a component which is to be emptied (R226, R233). -/
def dropLeavingDump (s : State) : State :=
  let drop := s.media.acres.filter (fun a => s.media.dumpAcres.contains a.num && a.started == 0 && a.blocks.any (blockLeaves s))
  { s with media := { s.media with
    acres := s.media.acres.filter (fun a => !drop.contains a)
    dumpAcres := s.media.dumpAcres.filter (fun n => !drop.any (fun a => a.num == n))
    freedAcres := s.media.freedAcres ++ (drop.map (·.num)).filter (fun n => n % 2 == s.boot.headId % 2) } }

/-- Keeps the head's dump acres reserved: those no longer open, or written, or on a component that is to be emptied, are replaced (R233). -/
def reserveDump (s0 : State) : State :=
  let s := dropLeavingDump s0
  if (leasedBridges s).isEmpty then s
  else openDumpAcres 256 { s with media := { s.media with
    dumpAcres := s.media.dumpAcres.filter (fun n => s.media.acres.any (fun a => a.num == n && a.state == 1 && a.started == 0)) } }

/-! ## Components that fail -/

/-- Acres with a block on a bridge. -/
def acresOn (b : Nat) (s : State) : List Acre := s.media.acres.filter (fun a => a.blocks.any (fun x => x.1 == b))

/-- Seals every open acre with a block on a bridge (Table 9-2). -/
def sealOn (b : Nat) (s : State) : State := (acresOn b s).foldl (fun st a => sealAcre a.num st) s

/-- Components in EVACUATING on which nothing is left become RETIRED (R226). -/
def evacuated (s : State) : State :=
  (List.range 192).foldl (fun st b =>
    let h := headBridge b st
    let s1 := (List.range h.dies.length).foldl (fun st' d =>
      if dieState b d st' = 1 ∧ blocksOnDie b d (fun _ => true) st' = 0 then
        mediaRecord 4 b d 2 (modifyDie b d (fun x => { x with state := 2 }) st')
      else st') st
    if h.state = 2 ∧ acresOn b s1 = [] then mediaRecord 4 b 0xFF 3 (modifyHeadBridge b (fun x => { x with state := 3 }) s1) else s1) s

/-- What follows when a component is to be emptied: dump acres are reserved elsewhere, and a component that holds nothing is RETIRED at once. -/
def leaveMedia (s : State) : State :=
  if s.boot.mode = .dump then s else evacuated (if servingMode s.boot.mode then reserveDump s else dropLeavingDump s)

/-- A bridge is LOST: record, media attention, its open acres sealed (R226). -/
def bridgeLost (b : Nat) (s : State) : State :=
  if (headBridge b s).state = 4 then s
  else
    let s1 := modifyHeadBridge b (fun h => { h with state := 4 }) s
    sealOn b (leaveMedia (mediaRecord 4 b 0xFF 4 (mediaAttn s1)))

/-- ST_INTERNAL: the bridge is treated as LOST, with a record (Table 10-12). -/
def bridgeBroken (b : Nat) (s : State) : State :=
  if (furrowAt b s).broken then s
  else bridgeLost b (mediaRecord 7 b 0xFF 7 (modifyFurrow b (fun f => { f with broken := true }) s))

/-! ## Labels (R266, R267) -/

/-- The die whose first blocks are the reserved area (R266). -/
def reservedDie (b : Nat) (s : State) : Nat :=
  if dieState b 0 s = 3 ∧ 2 ≤ (((headBridge b s).ident).map (·.dies)).getD 0 then 1 else 0

/-- Label copies that fill a block. -/
def labelRoom (b : Nat) (s : State) : Nat := ((headBridge b s).ident.map (fun i => blockCodewords i / 4)).getD 0

/-- The label copies that a block holds, each with the number of program units before it. -/
def labelCopies (cws : List Bytes) : List BridgeLabel :=
  (List.range ((cws.length + 3) / 4)).filterMap (fun i =>
    let c := cws.getD (4 * i) []
    if isLabel c then some (parseLabel c) else none)

/-- The label of a bridge as its reserved and standby areas show it: the valid copy with the highest LABEL_SEQ; the head appends behind it
(R266, R283). -/
def readLabel (b : Nat) (s : State) : State :=
  let cells := (List.range 32).map (fun i => (i / 16, i % 16))
  let found := cells.flatMap (fun x => (labelCopies (nandBlock b x.1 x.2 s)).map (fun l => (x, l)))
  let best := found.foldl (fun (acc : Option ((Nat × Nat) × BridgeLabel)) x => match acc with
    | some y => if y.2.seq < x.2.seq then some x else acc
    | none => some x) none
  modifyHeadBridge b (fun h => match best with
    | none => h
    | some (x, l) =>
      if l.seq < (h.label.map (·.seq)).getD 0 then h else
      let mine := x.1 == reservedDie b s && h.labelBlocks.contains x.2
      { h with label := some l, faultDomain := (h.nextSet.map (·.2)).getD l.faultDomain, preferred := (h.nextSet.map (·.1)).getD l.preferred
               labelBlocks := if mine then x.2 :: h.labelBlocks.erase x.2 else h.labelBlocks
               labelUsed := if mine then ((nandBlock b x.1 x.2 s).length + 3) / 4 else h.labelUsed }) s

/-- Appends a label copy, with the next LABEL_SEQ; when the label block is full, the other one is erased and continues (R266). -/
def writeLabel (b : Nat) (l : BridgeLabel) (s : State) : State :=
  let die := reservedDie b s
  let h := headBridge b s
  let full := decide (labelRoom b s ≤ h.labelUsed)
  let blocks := if full then h.labelBlocks.drop 1 ++ h.labelBlocks.take 1 else h.labelBlocks
  let used := if full then 0 else h.labelUsed
  match blocks with
  | [] => s
  | k :: _ =>
    let new := { l with seq := (h.label.map (·.seq)).getD 0 + 1 }
    let s1 := modifyHeadBridge b (fun x => { x with label := some new, labelBlocks := blocks, labelUsed := used + 1 }) s
    let s2 := if full then furrowIssue b 4 (leBytes 8 (cwAddr die k 0)) [] (.label k) s1 else s1
    programBlock (b, die, k) (4 * used) (codewords 4 (labelBytes new)) (.label k) s2

/-- The lease of a bridge has changed: what BRIDGE_SET gave takes effect, and the head that now leases the bridge writes it into the label
(R209, R266, Table 9-9). -/
def leaseChanged (b : Nat) (s : State) : State :=
  match (headBridge b s).nextSet with
  | none => s
  | some (o, d) =>
    let s1 := modifyHeadBridge b (fun h => { h with preferred := o, faultDomain := d }) s
    match (headBridge b s).label with
    | some l =>
      if leases b s then
        let s2 := modifyHeadBridge b (fun h => { h with nextSet := none }) s1
        if l.preferred ≠ o ∨ l.faultDomain ≠ d then writeLabel b { l with preferred := o, faultDomain := d } s2 else s2
      else s1
    | none => s1

/-- Die 0 of a bridge has failed: the standby area becomes the reserved area, and the label is written there (R266). -/
def standbyArea (b : Nat) (s : State) : State :=
  let s1 := modifyHeadBridge b (fun h =>
    { h with labelBlocks := [0, 1], labelUsed := 0, firmwareBlocks := [2, 3, 4, 5, 6, 7, 8, 9], spares := [10, 11, 12, 13, 14, 15] }) s
  match (headBridge b s).label with
  | some l => if leases b s1 then writeLabel b l s1 else s1
  | none => s1

/-- A die is FAILED: record, media attention, its bridge DEGRADED, or LOST with the last of its dies (R226). -/
def dieFailed (b d : Nat) (s : State) : State :=
  if dieState b d s = 3 then s
  else
    let s1 := modifyDie b d (fun x => { x with state := 3 }) s
    let s0 := leaveMedia (mediaRecord 4 b d 3 (mediaAttn s1))
    let s2 := if d = 0 ∧ 2 ≤ (headBridge b s0).dies.length then standbyArea b s0 else s0
    if (headBridge b s2).dies.all (fun x => x.state == 3) then bridgeLost b s2
    else modifyHeadBridge b (fun h => { h with state := if h.state = 0 then 1 else h.state }) s2

/-- Blocks of a die as its bridge reports them. -/
def blocksPerDie (b : Nat) (s : State) : Nat := (((headBridge b s).ident).map (·.blocksPerDie)).getD 0

/-- Retires a block; a die with more than 10 % of its blocks retired within 24 h is FAILED (R225, R226). -/
def retireBlock (b d k : Nat) (s : State) : State :=
  let key := nandKey d k
  if (headBridge b s).retired.contains key then s
  else
    let now := s.time.ticks
    let c := s.media.counters
    let s1 := modifyHeadBridge b (fun h => { h with retired := h.retired ++ [key] }) s
    let s2 := modifyDie b d (fun x =>
      { x with retirements := now :: x.retirements.filter (fun t => decide (now < t + sTicks 86400)) }) s1
    let s3 := checkWarnings { s2 with media := { s2.media with counters := { c with blocksRetired := bump c.blocksRetired } } }
    let n := (((headBridge b s3).dies[d]?).map (fun x => x.retirements.length)).getD 0
    if blocksPerDie b s3 < 10 * n then dieFailed b d s3 else s3

/-- A program or an erase of a block has failed: counted, and the block retired. -/
def blockFail (b d k : Nat) (s : State) : State :=
  retireBlock b d k (modifyHeadBridge b (fun h => { h with programEraseFails := bump h.programEraseFails }) s)

/-- A block has been erased: its erase count, saturated at 0xFFFF, and its retirement at the wear limit (R225, R553). -/
def blockErased (b d k : Nat) (s : State) : State :=
  let key := nandKey d k
  let s1 := modifyHeadBridge b (fun h => { h with erases := updateAt key 0 (fun n => satAdd 16 n 1) h.erases }) s
  if (headBridge b s1).ident.isSome = true ∧ wearLimit b s1 ≤ lookupD key (headBridge b s1).erases 0 then
    retireBlock b d k s1
  else checkWarnings s1

/-- A command of a die goes unanswered for READ_TIMEOUT: the third in a row fails the die (R226). -/
def dieSilent (b d : Nat) (s : State) : State :=
  let s1 := modifyDie b d (fun x => { x with silent := x.silent + 1 }) s
  if 3 ≤ (((headBridge b s1).dies[d]?).map (·.silent)).getD 0 then dieFailed b d s1 else s1

/-- A die has answered. -/
def dieAnswered (b d : Nat) (s : State) : State := modifyDie b d (fun x => { x with silent := 0 }) s

/-- The bin of a codeword's corrected bits (R232). -/
def cbitsBin (soft : Bool) (bits : Nat) : Nat := if soft ∨ 225 ≤ bits then 15 else (bits + 15) / 16

/-- Raises a 32-bit bin. -/
def bumpBin (i n : Nat) (h : List Nat) : List Nat := h.set i (satAdd 32 (h.getD i 0) n)

/-- Counts one codeword read, with its report of Table 10-8 (R232). -/
def countCodeword (x : DieState) (report : Nat) : DieState :=
  let unc := bitOf report 15
  let soft := bitOf report 14
  { x with reads := bump x.reads
           retries := if bitsOf report 13 11 = 0 ∨ unc = true then x.retries else bump x.retries
           softReads := if soft = true ∧ unc = false then bump x.softReads else x.softReads
           uncorrectable := if unc then bump x.uncorrectable else x.uncorrectable
           cbitsHist := if unc then x.cbitsHist else bumpBin (cbitsBin soft (bitsOf report 10 0)) 1 x.cbitsHist }

/-- Counts a read of codewords, by their reports, against a die (R232). -/
def countRead (b d : Nat) (reports : List Nat) (s : State) : State :=
  modifyDie b d (fun x => reports.foldl countCodeword x) s

/-- The role of a failed block of the reserved area passes to the lowest spare; whether there is one (R267). -/
def replaceReserved (b block : Nat) (s : State) : State :=
  let h := headBridge b s
  let spare := h.spares.foldl min 1000
  let swap := fun (xs : List Nat) => if xs.contains block then (if h.spares.isEmpty then xs.erase block else xs.map (fun x => if x = block then spare else x)) else xs
  blockFail b (reservedDie b s) block (modifyHeadBridge b (fun x =>
    { x with labelBlocks := swap x.labelBlocks, firmwareBlocks := swap x.firmwareBlocks, spares := x.spares.erase spare }) s)

/-- A label block has failed: it is replaced, and the label is written into the replacement; a bridge with fewer than two label blocks is
put into EVACUATING (R267). -/
def labelFailed (b block : Nat) (s : State) : State :=
  let s1 := modifyHeadBridge b (fun h => { h with labelUsed := if h.labelBlocks.head? = some block then 0 else h.labelUsed })
    (replaceReserved b block s)
  let s2 := if (headBridge b s1).labelBlocks.length < 2 ∧ (headBridge b s1).state < 2 then
      mediaRecord 4 b 0xFF 2 (mediaAttn (modifyHeadBridge b (fun h => { h with state := 2 }) s1))
    else s1
  match (headBridge b s2).label with
  | some l => if leases b s2 then writeLabel b l s2 else s2
  | none => s2

/-- Marks a bale for relocation (R103, R224). -/
def markBale (acre bale : Nat) (s : State) : State :=
  modifyAcre acre (fun a => { a with marked := if a.marked.contains bale then a.marked else a.marked ++ [bale] }) s

/-! ## Lost bridges -/

/-- A bridge's link has stayed down for longer than a lease period on both heads (R226). -/
def execBridgeLostTimer (bridge : Nat) (s : State) : Host.Outcome State Fault Refusal :=
  .next (if (furrowAt bridge s).link.state = .up then s else hswSync (bridgeLost bridge s))

/-- Each hour the hour's mean temperature adds 1 to its bin (R232). -/
def tempHour (h : HeadBridge) : HeadBridge :=
  if h.tempCount = 0 then h
  else
    let mean := h.tempSum / (h.tempCount : Int)
    let bin := if mean < 0 then 0 else min 15 ((mean / 5).toNat + 1)
    { h with tempHist := bumpBin bin 1 h.tempHist, tempCount := 0, tempSum := 0 }

/-- Reads STATUS, and the grown-bad list, of every bridge that answers: the spec names no time for it, and the head does it each hour
(DESIGN CHOICE 30). -/
def pollBridges (s : State) : State :=
  ((List.range 192).filter (fun b => (headBridge b s).ident.isSome)).foldl (fun st b =>
    furrowIssue b 6 [1, 0, 0, 0] [] .telemetry (furrowIssue b 5 [] [] .status st)) s

/-- TEMP_HIST_HOUR (R232). -/
def execTempHistHour (s : State) : Host.Outcome State Fault Refusal :=
  .next (pollBridges (modifyMedia (fun m => { m with bridges := m.bridges.map tempHour }) s))

/-! ## Records (Tables 9-5 to 9-8) -/

/-- Erase counts of the blocks in use that a test picks: mean and highest. -/
def peOf (b : Nat) (p : Nat → Bool) (s : State) : Nat × Nat :=
  let used := (((s.media.acres.flatMap (·.blocks)).filter (fun x => x.1 == b && p x.2.1))).map (fun x =>
    lookupD (nandKey x.2.1 x.2.2) (headBridge b s).erases 0)
  let top := (((headBridge b s).erases.filter (fun e => p (e.1 / 2 ^ 23))).map (·.2)).foldl max 0
  (if used = [] then 0 else used.sum / used.length, top)

/-- Blocks of a die erased and unassigned. -/
def dieFree (b d : Nat) (s : State) : Nat :=
  let reserved := if d ≤ 1 then 16 else 0
  let gone := ((headBridge b s).retired.filter (fun k => k / 2 ^ 23 == d)).length
  blocksPerDie b s - reserved - gone - blocksOnDie b d (fun _ => true) s

/-- A die health record (Table 9-5). -/
def dieRecord (b d : Nat) (s : State) : Bytes :=
  let x := (headBridge b s).dies.getD d newDie
  let pe := peOf b (fun n => n == d) s
  packFields [(2, b), (1, d), (1, x.state), (4, blocksPerDie b s),
    (4, ((headBridge b s).retired.filter (fun k => k / 2 ^ 23 == d)).length), (4, dieFree b d s), (2, pe.1), (2, pe.2),
    (2, peRated b s), (2, 0), (8, x.reads), (8, x.retries), (8, x.softReads), (8, x.uncorrectable)]
    ++ (x.cbitsHist.flatMap (leBytes 4)) ++ zeros 8

/-- The head that holds a bridge's lease as its lease register was last read. -/
def leaseHolder (b : Nat) (s : State) : Nat :=
  let o := (furrowAt b s).leaseReg / 2 ^ 30 % 4
  if leases b s then s.boot.headId % 2 else if o ≤ 1 ∧ o ≠ s.boot.headId % 2 then o else 0xFF

/-- A byte of a signed temperature. -/
def tempByte (t : Int) : Nat := (BitVec.ofInt 8 t).toNat

/-- A bridge health record (Table 9-6). -/
def bridgeRecord (b : Nat) (s : State) : Bytes :=
  let h := headBridge b s
  let n := h.dies.length
  let sum := fun (f : DieState → Nat) => (h.dies.map f).sum
  let pe := peOf b (fun _ => true) s
  let hist := (List.range 16).map (fun i => min (2 ^ 32 - 1) (sum (fun d => d.cbitsHist.getD i 0)))
  packFields [(2, b), (1, h.state), (1, leaseHolder b s), (1, h.preferred), (1, h.faultDomain), (1, n),
    (1, (h.dies.filter (fun d => d.state == 3)).length), (4, n * blocksPerDie b s), (4, h.retired.length),
    (4, ((List.range n).map (fun d => dieFree b d s)).sum), (2, pe.1), (2, pe.2), (2, peRated b s), (1, tempByte h.tempMin),
    (1, tempByte h.tempMax), (4, 0), (8, sum (·.uncorrectable)), (8, sum (·.retries)), (8, sum (·.softReads)),
    (8, h.programEraseFails)] ++ h.tempHist.flatMap (leBytes 4) ++ hist.flatMap (leBytes 4)

/-- Plaintext bytes that the map names: grains, and pieces of object versions, chunk ID 0 excluded. -/
def logicalBytes (s : State) : Nat :=
  16384 * (s.map.live.filter (fun e => entryChunk e.2 != 0)).length
    + ((s.map.pieces.flatMap (·.2)).filter (fun p => entryChunk p.entry != 0)).foldl (fun n p => n + p.len) 0

/-- Blocks of the reserve that hold data: those by which the assigned blocks exceed what lies outside the reserve. -/
def reserveInUse (s : State) : Bool :=
  (leasedBridges s).any (fun b => decide (unassignedBlocks b s < bridgeReserve b s))
    || decide (((leasedBridges s).map (fun b => unassignedBlocks b s)).sum < headReserve s)

/-- FLAGS (Table 9-8). -/
def mediaFlags (s : State) : Nat :=
  let short := match s.media.lastBroken with
    | some t => decide (s.time.ticks < t + sTicks 3600)
    | none => false
  let restore := s.media.reclaims.any (fun j => match acreAt j.acre s with
    | some a => decide (0 < lostBlocks a s)
    | none => false)
  flagBit s.media.readonly + 2 * flagBit s.media.spareWarned + 4 * flagBit s.media.wearWarned + 8 * flagBit (reserveInUse s)
    + 16 * flagBit restore + 32 * flagBit short

/-- WEAR_PCT: the mean wear of the most worn leased bridge, in units of 0.01 % (Table 9-7). -/
def wearPct (s : State) : Nat :=
  ((leasedBridges s).map (fun b => if peRated b s = 0 then 0 else 10000 * peMean b s / peRated b s)).foldl max 0

/-- The array health record (Table 9-7). -/
def arrayRecord (s : State) : Bytes :=
  let here := (List.range 192).filter (fun b => (headBridge b s).state != 3 && (headBridge b s).state != 4 && (headBridge b s).ident.isSome)
  let size := fun b => match (headBridge b s).ident with
    | some i => i.blockUnits * 262144
    | none => 0
  let raw := (here.map (fun b => match (headBridge b s).ident with
    | some i => i.dies * i.blocksPerDie * size b
    | none => 0)).sum
  let floor' := headReserve s - ((leasedBridges s).map (fun b => bridgeReserve b s)).sum
  let usable := (((leasedBridges s).map (fun b => (usableBlocks b s - bridgeReserve b s) * size b)).sum - floor' * blockPlots s * 262144)
    * s.media.baleK / (s.media.baleK + s.media.baleM)
  let dead := (s.media.acres.map (fun a => deadBytes a s)).sum
  let stored := (s.media.acres.map (fun a => liveBytes a.num s)).sum
  let online := ((List.range 192).filter (fun b => (headBridge b s).ident.isSome && decide ((headBridge b s).state ≤ 1))).length
  let lost := ((List.range 192).filter (fun b => (headBridge b s).state == 4)).length
  packFields [(8, raw), (8, usable), (8, stored), (8, dead), (8, logicalBytes s), (2, online), (2, lost), (2, sparePct s), (2, wearPct s),
    (8, degradedBales s), (8, criticalBales s), (4, mediaFlags s), (12, 0)]

/-! ## Media commands (Table 9-9) -/


/-- The acre counts of MEDIA_GEOMETRY_GET. -/
def acreCounts (s : State) : List Nat :=
  (List.range 5).flatMap (fun st => (List.range 5).map (fun k =>
    (s.media.acres.filter (fun a => a.stream == st && a.state == k + 1 && isReclaimer a s)).length))

/-- MEDIA_GEOMETRY_GET. -/
def mediaGeometryGet (p : McPacket) (s : State) : McEnd × State :=
  let m := s.media
  answerRecords p [(acreCounts s).flatMap (leBytes 4)]
    (packFields [(1, m.baleK), (1, m.baleM), (1, m.metaK), (1, m.metaM), (4, 0), (8, headFree s)]) s

/-- MEDIA_GEOMETRY_GET (R236). -/
def execMediaGeometryGet (p : McPacket) (s : State) : Host.Outcome State Fault Refusal := .next (mciRun 0x0400 p (mediaGeometryGet p) s)

/-- The constraints of R203 on a geometry. -/
def geometryOk (k m mk mm : Nat) (s : State) : Bool :=
  decide (4 ≤ k) && decide (k ≤ 20) && decide (1 ≤ m) && decide (m ≤ 4) && decide (4 ≤ mk) && decide (mk ≤ 8) && decide (m ≤ mm)
    && decide (mm ≤ 4) && decide (k + m ≤ 24) && decide (k + m ≤ (leasedBridges s).length) && decide (mk + mm ≤ (leasedBridges s).length)

/-- Puts a value among the pending ones (R491). -/
def setPending (id index : Nat) (v : Bytes) (s : State) : State :=
  { s with mci := { s.mci with
    pendingParams := s.mci.pendingParams.filter (fun x => !(x.id == id && x.index == index)) ++ [{ id := id, index := index, value := v }] } }

/-- MEDIA_GEOMETRY_SET: the geometry of acres opened after RESUME (R203, R207); ingest and reclaim must be quiesced (Table 9-1). -/
def mediaGeometrySet (p : McPacket) (s : State) : McEnd × State :=
  let v := [parm p 0 1, parm p 1 1, parm p 2 1, parm p 3 1]
  if geometryOk (v.getD 0 0) (v.getD 1 0) (v.getD 2 0) (v.getD 3 0) s = false then refuse stBadParam s
  else if (fullyQuiesced 4 s && fullyQuiesced 5 s) = false then refuse stNotQuiesced s
  else ok [] ((List.range 4).foldl (fun st i => setPending (0x0900 + i) 0 (leBytes 8 (v.getD i 0)) st) s)

/-- MEDIA_GEOMETRY_SET (R203). -/
def execMediaGeometrySet (p : McPacket) (s : State) : Host.Outcome State Fault Refusal := .next (mciRun 0x0401 p (mediaGeometrySet p) s)

/-- MEDIA_HEALTH_ARRAY (R236). -/
def execMediaHealthArray (p : McPacket) (s : State) : Host.Outcome State Fault Refusal :=
  .next (mciRun 0x0402 p (fun s => answerRecords p [arrayRecord s] [] s) s)

/-- MEDIA_HEALTH_BRIDGE. -/
def mediaHealthBridge (p : McPacket) (s : State) : McEnd × State :=
  let first := parm p 0 2
  let count := parm p 2 2
  if count = 0 ∨ 192 < first + count then refuse stBadParam s
  else answerRecords p ((List.range count).map (fun i => bridgeRecord (first + i) s)) [] s

/-- MEDIA_HEALTH_BRIDGE (R236). -/
def execMediaHealthBridge (p : McPacket) (s : State) : Host.Outcome State Fault Refusal := .next (mciRun 0x0403 p (mediaHealthBridge p) s)

/-- MEDIA_HEALTH_DIE. -/
def mediaHealthDie (p : McPacket) (s : State) : McEnd × State :=
  let b := parm p 0 2
  let first := parm p 2 1
  let count := parm p 3 1
  if 192 ≤ b ∨ count = 0 ∨ (headBridge b s).dies.length < first + count then refuse stBadParam s
  else answerRecords p ((List.range count).map (fun i => dieRecord b (first + i) s)) [] s

/-- MEDIA_HEALTH_DIE (R236). -/
def execMediaHealthDie (p : McPacket) (s : State) : Host.Outcome State Fault Refusal := .next (mciRun 0x0404 p (mediaHealthDie p) s)

/-- BRIDGE_SET: preferred owner and fault domain, which take effect when the bridge's lease next changes (R209, Table 9-9; DEDUCED 160). -/
def bridgeSet (p : McPacket) (s : State) : McEnd × State :=
  let b := parm p 0 2
  let o := parm p 2 1
  if 192 ≤ b ∨ (o ≠ 0 ∧ o ≠ 1 ∧ o ≠ 0xFF) then refuse stBadParam s
  else ok [] (modifyHeadBridge b (fun h => { h with nextSet := some (o, parm p 3 1) }) s)

/-- BRIDGE_SET (R209). -/
def execBridgeSet (p : McPacket) (s : State) : Host.Outcome State Fault Refusal := .next (mciRun 0x0407 p (bridgeSet p) s)

/-- DIE_RETIRE: the die goes into EVACUATING, and into RETIRED once nothing live remains on it (R226). -/
def dieRetire (p : McPacket) (s : State) : McEnd × State :=
  let b := parm p 0 2
  let d := parm p 2 1
  if 192 ≤ b ∨ (headBridge b s).dies.length ≤ d then refuse stBadParam s
  else if 2 ≤ dieState b d s then ok [] s
  else
    ok [] (hswSync (leaveMedia (mediaRecord 4 b d 1
      (modifyHeadBridge b (fun h => { h with state := if h.state = 0 then 1 else h.state })
        (modifyDie b d (fun x => { x with state := 1 }) s)))))

/-- DIE_RETIRE (R226). -/
def execDieRetire (p : McPacket) (s : State) : Host.Outcome State Fault Refusal := .next (mciRun 0x0408 p (dieRetire p) s)

/-- BRIDGE_RETIRE: the bridge goes into EVACUATING, and into RETIRED once nothing live remains on it (R226). -/
def bridgeRetire (p : McPacket) (s : State) : McEnd × State :=
  let b := parm p 0 2
  if 192 ≤ b then refuse stBadParam s
  else if (headBridge b s).state = 3 ∨ (headBridge b s).state = 4 then ok [] s
  else ok [] (hswSync (leaveMedia (mediaRecord 4 b 0xFF 2 (modifyHeadBridge b (fun h => { h with state := 2 }) s))))

/-- BRIDGE_RETIRE (R226). -/
def execBridgeRetire (p : McPacket) (s : State) : Host.Outcome State Fault Refusal := .next (mciRun 0x0409 p (bridgeRetire p) s)

end Sys2Proof.Machine
end

