-- ==== Sys2Proof/Machine/Read.lean ====
section
/-! DEFINITION. Reading chunks (04): the read cache, plot reads, verification of records, rebuilds from the bale, failures,
and read-ahead. -/

namespace Sys2Proof.Machine

/-! ## Counters and the read cache (R94-R96, R109) -/

/-- Changes the read counters of a quadrant. -/
def countReads (q : Nat) (f : ReadCounters → ReadCounters) (s : State) : State :=
  { s with read := { s.read with counters := modifyNth f q s.read.counters } }

/-- The cache entry of a map entry. -/
def cached (entry : Nat) (s : State) : Option CacheEntry :=
  s.read.cache.find? (fun e => e.chunk == entryChunk entry && e.gen == entryGen entry)

/-- Bytes of the cache's plaintext. -/
def cacheBytes (c : List CacheEntry) : Nat := (c.map (fun e => e.data.length)).sum

/-- Size of the read cache: its near-store region (R417). -/
def cacheSize (s : State) : Nat := s.mem.partition.getD 2 0 * 2 ^ 30

/-- Evicts by the clock rule until `need` bytes fit: an entry with its bit set loses it and goes behind the hand (R95). -/
def clockEvict : Nat → Nat → List CacheEntry → List CacheEntry
  | 0, _, c => c
  | fuel + 1, room, c =>
    if cacheBytes c ≤ room then c
    else
      match c with
      | [] => []
      | e :: rest => if e.ref then clockEvict fuel room (rest ++ [{ e with ref := false }]) else clockEvict fuel room rest

/-- Fills the cache with verified plaintext; a demand read sets the reference bit (R95, R96). -/
def cacheFill (entry : Nat) (data : Bytes) (demand : Bool) (s : State) : State :=
  if (cached entry s).isSome ∨ entryChunk entry = 0 then s
  else
    let c := clockEvict (2 * s.read.cache.length + 1) (cacheSize s - data.length) s.read.cache
    { s with read := { s.read with cache := c ++
      [{ chunk := entryChunk entry, gen := entryGen entry, data := data, ref := demand, ahead := !demand }] } }

/-- A demand read uses a cache entry: its bit is set, and the first use of a read-ahead entry is counted (R95, R109). -/
def cacheUse (q : Nat) (e : CacheEntry) (s : State) : State :=
  let same := fun (x : CacheEntry) => x.chunk == e.chunk && x.gen == e.gen
  let used := mapIf same (fun x => { x with ref := true, ahead := false }) s.read.cache
  let s1 := { s with read := { s.read with cache := used } }
  countReads q (fun c => { c with cacheHits := bump c.cacheHits, raUsed := if e.ahead then bump c.raUsed else c.raUsed }) s1

/-! ## Plots (R97, R101) -/

/-- What records are read for: a client, read-ahead, or work in the background. -/
inductive ReadFor where
  | client | ahead | background
  deriving DecidableEq, Repr

/-- Whether a bridge is neither LOST, nor broken, nor miswired (R17). -/
def bridgeUsable (b : Nat) (s : State) : Bool :=
  !(furrowAt b s).broken && (headBridge b s).state != 4 && (headBridge b s).state != 5

/-- Whether a bridge can be reached: its link is up and it can be used. -/
def bridgeReachable (b : Nat) (s : State) : Bool := (furrowAt b s).link.state == .up && bridgeUsable b s

/-- What a plot's block does in this step. -/
def factOf (home : Nat × Nat × Nat) (f : MediaFacts) : Option PlotFact :=
  f.plots.find? (fun x => x.bridge == home.1 && x.die == home.2.1 && x.block == home.2.2)

/-- A plot read has lost its race with READ_TIMEOUT (R43, R577). -/
def readLate (q : Nat) (s : State) : State := countReads q (fun c => { c with readLate := bump c.readLate }) s

/-- The reports of `n` codewords of a plot from the `first` on, as the bridge gives them for the head's reads (R250). -/
def plotReports (b first n : Nat) (x : Option PlotFact) (s : State) : List Nat :=
  let top := ((headBridge b s).ident.map (·.retryLevels)).getD 0
  (List.range n).map (fun i => readReport top true (((x.map (·.reports)).getD []).getD (first + i) 0))

/-- Reads bytes of a plot: the codewords that cover them, from its bridge. The bytes, with the reports of the codewords (R224); none where
the plot is not to be read (R101). A read that is held while the link trains loses its race (R577), as one does whose die answers late.
`q` counts the read. -/
def plotRead (q : Nat) (a : Acre) (bale p off len : Nat) (why : ReadFor) (f : MediaFacts) (s : State) :
    Option (Bytes × List Nat) × State :=
  let (b, d, k) := plotHome a p bale
  let first := off / 4096
  let n := (off + len + 4095) / 4096 - first
  if (furrowAt b s).link.state = .training ∧ bridgeUsable b s = true then (none, readLate q (sendRead b d k (64 * bale + first) n s))
  else if !bridgeReachable b s then (none, s)
  else
    let x := factOf (b, d, k) f
    if (x.map (·.late)).getD false then
      let s1 := readLate q (sendRead b d k (64 * bale + first) n s)
      (none, if why = .ahead then s1 else dieSilent b d s1)
    else if (bridgeAt b s).internalFault then (none, bridgeBroken b (readExchange b d k (64 * bale + first) 0 s))
    else
      let cws := ((nandBlock b d k s).drop (64 * bale + first)).take n
      if cws.length < n then (none, dieAnswered b d (readExchange b d k (64 * bale + first) 0 s))
      else
        let reports := plotReports b first n x s
        let s1 := dieAnswered b d (countRead b d reports (readExchange b d k (64 * bale + first) n s))
        if reports.any (fun r => bitOf r 15) = true then (none, s1)
        else (some (slice cws.flatten (off - 4096 * first) len, reports), s1)

/-! ## The bale code: any k plots recover the rest (R205) -/

/-- The row of a plot over the k data plots. -/
def codeRow (k m p : Nat) : List Byte :=
  (List.range k).map (fun i =>
    if p < k then (if i = p then 1 else 0) else gfInv (BitVec.ofNat 8 (p - k) ^^^ BitVec.ofNat 8 (m + i)))

/-- Multiplies a row. -/
def gfScale (c : Byte) (r : List Byte) : List Byte := r.map (gfMul c)

/-- Adds rows. -/
def gfAdd (a b : List Byte) : List Byte := List.zipWith (· ^^^ ·) a b

/-- Clears column `c` of the other rows with the row that has an entry there, which is made 1 and put first. -/
def gfPivot (c : Nat) (rows : List (List Byte × Bytes)) : List (List Byte × Bytes) × List (List Byte × Bytes) :=
  match rows.find? (fun r => r.1.getD c 0 != 0) with
  | none => ([], rows)
  | some r =>
    let inv := gfInv (r.1.getD c 0)
    let pr := (gfScale inv r.1, gfScale inv r.2)
    ([pr], (rows.erase r).map (fun x =>
      let k := x.1.getD c 0
      (gfAdd x.1 (gfScale k pr.1), gfAdd x.2 (gfScale k pr.2))))

/-- Solves for the data plots by elimination: the pivot rows found so far are kept reduced. -/
def gfSolve : Nat → Nat → List (List Byte × Bytes) → List (List Byte × Bytes) → List (List Byte × Bytes)
  | 0, _, done, _ => done
  | fuel + 1, c, done, rows =>
    match gfPivot c rows with
    | ([pr], rest) =>
      let red := done.map (fun (x : List Byte × Bytes) =>
        let k := x.1.getD c 0
        (gfAdd x.1 (gfScale k pr.1), gfAdd x.2 (gfScale k pr.2)))
      gfSolve fuel (c + 1) (red ++ [pr]) rest
    | (_, rest) => gfSolve fuel (c + 1) done rest

/-- The bytes of plot `p` from k others, given with their indices. -/
def recoverPlot (k m p : Nat) (have' : List (Nat × Bytes)) : Bytes :=
  let data := (gfSolve k 0 [] (have'.map (fun x => (codeRow k m x.1, x.2)))).map (·.2)
  let row := codeRow k m p
  (List.range k).foldl (fun acc i => gfAdd acc (gfScale (row.getD i 0) (data.getD i [])))
    (zeros ((data.head?.map (·.length)).getD 0))

/-- The other plots of a bale in the order a rebuild reads them: data plots before parity, reachable bridges with the shortest
queues first (R102). -/
def rebuildOrder (a : Acre) (bale p : Nat) (s : State) : List Nat :=
  let others := (List.range (a.k + a.m)).filter (fun i => i != p)
  let load := fun i => (furrowAt (plotHome a i bale).1 s).cmds.length
  let key := fun (i : Nat) =>
    [(if bridgeReachable (plotHome a i bale).1 s then (0 : Int) else 1), (if i < a.k then (0 : Int) else 1), (load i : Int), (i : Int)]
  sortByKey key others

/-- Reads a range of plots in order until k have been read. -/
def readPlots (q : Nat) (a : Acre) (bale off len need : Nat) (f : MediaFacts) :
    List Nat → List (Nat × Bytes) → State → List (Nat × Bytes) × State
  | [], got, s => (got, s)
  | i :: rest, got, s =>
    if need ≤ got.length then (got, s)
    else
      match plotRead q a bale i off len .background f s with
      | (some (b, _), s1) => readPlots q a bale off len need f rest (got ++ [(i, b)]) s1
      | (none, s1) => readPlots q a bale off len need f rest got s1

/-- Rebuilds a range of a plot from k other plots of its bale (R102); after it the bale is marked (R103). -/
def rebuild (q : Nat) (a : Acre) (bale p off len : Nat) (f : MediaFacts) (s : State) : Option Bytes × State :=
  let s1 := countReads q (fun c => { c with rebuilds := bump c.rebuilds }) s
  let (got, s2) := readPlots q a bale off len a.k f (rebuildOrder a bale p s1) [] s1
  if got.length < a.k then (none, s2) else (some (recoverPlot a.k a.m p got), markBale a.num bale s2)

/-! ## Verifying a record (R98-R100, R272) -/

/-- What the check of a chunk record finds. -/
inductive Verdict where
  /-- what is delivered, and the whole plaintext where all of it is verified -/
  | good (plain : Bytes) (whole : Option Bytes)
  /-- its CHUNK_ID or GEN differs (R98) -/
  | stale
  /-- its header CRC fails (R272) -/
  | crc
  /-- its key cannot be had (R188) -/
  | locked
  /-- no working slot, or no complex, can be had yet (R174, R184) -/
  | busy
  /-- its decryption is ended with ST_ABORTED twice (R99) -/
  | aborted
  /-- ST_CIPHER_FAULT twice (R99) -/
  | cipher
  | tag
  /-- the decoder's status -/
  | decode (status : Nat)
  /-- the fingerprint of what was decoded (R100) -/
  | rehash (fp : Bytes)
  deriving DecidableEq, Repr

/-- The key of a record's epoch. A read that finds its domain locked writes no record of it (R99). -/
def recordKey (r : Bytes) (why : ReadFor) (s : State) : Except Verdict (Nat × Bytes) × State :=
  match needKey (recDomain r) (recEpoch r) (why == .background) s with
  | (.key n k, s1) => (.ok (n, k), s1)
  | (.locked, s1) => (.error .locked, s1)
  | (.wait, s1) => (.error .busy, s1)

/-- The key of a record, loaded again once where a vault alarm ends the decryption with ST_ABORTED (R99). -/
def recordKeyAgain (q : Nat) (r : Bytes) (why : ReadFor) (f : MediaFacts) (s : State) :
    Except Verdict (Nat × Bytes) × MediaFacts × State :=
  match recordKey r why s with
  | (.error v, s1) => (.error v, f, s1)
  | (.ok k, s1) =>
    if f.aborted = 0 then (.ok k, f, s1)
    else
      let s2 := countComplex ((routeFrom (q % 4) s1).getD (q % 4)) (fun c => { c with requests := bump c.requests }) s1
      let (k2, s3) := recordKey r why s2
      (if 2 ≤ f.aborted then .error .aborted else k2, { f with aborted := f.aborted - 2 }, s3)

/-- The stored payload of a record, decrypted under the key of its epoch on the complex of quadrant `q` or the next (R99). -/
def openRecord (q entry : Nat) (r : Bytes) (why : ReadFor) (f : MediaFacts) (s : State) : Except Verdict Bytes × MediaFacts × State :=
  if recordCrcOk r = false then (.error .crc, f, s)
  else if recChunk r ≠ entryChunk entry ∨ recGen r ≠ entryGen entry then (.error .stale, f, s)
  else
    match recordKeyAgain q r why f s with
    | (.error v, f1, s1) => (.error v, f1, s1)
    | (.ok (n, key), f1, s1) =>
      match cipherRun q (why == .client) .gcmDecrypt n f1.cipherFaults s1 with
      | (none, s2) => (.error .busy, f1, s2)
      | (some (false, _), s2) => (.error .cipher, { f1 with cipherFaults := f1.cipherFaults - 2 }, s2)
      | (some (true, c), s2) =>
        let f2 := { f1 with cipherFaults := f1.cipherFaults - 2 }
        let aad := chunkAad (recDomain r) (recFormat r) (recPlainLen r) (recFp r)
        match gcmDecrypt key (chunkIv (recChunk r) (recGen r) (recEpoch r)) aad (recCiphertext r) (recTag r) with
        | none => (.error .tag, f2, countComplex c (fun x => { x with tagFails := bump x.tagFails }) s2)
        | some payload => (.ok payload, f2, countReleased c payload.length s2)

/-- REHASH_ON_READ of a domain: bit 1 of VERIFY_POLICY. -/
def rehashOn (d : Nat) (s : State) : Bool := ((domainAt d s).map (fun x => bitOf x.verifyPolicy 1)).getD false

/-- The fingerprint of a chunk in a domain (R72). -/
def fingerprint (d : Nat) (plain : Bytes) (s : State) : Bytes := sha256 (((domainAt d s).map (·.salt)).getD [] ++ plain)

/-- The decompressor of a read of quadrant `q`: one in service, of its lowest harrow where there is one (R168). With none in service on
the chip, on which the spec is silent, its first one (DESIGN CHOICE 147). -/
def readDecompressor (q : Nat) (s : State) : Nat × Nat :=
  let all := ((8 * (q % 4)) :: List.range 32).flatMap (fun h => [(h, 0), (h, 1), (h, 2)])
  (all.find? (fun p => decompressorUsable p.1 p.2 s)).getD (8 * (q % 4), 0)

/-- Decodes a stream as far as `stop`, by a decompressor of quadrant `q`; one status that a faulty engine gives is taken. -/
def readDecode (q : Nat) (payload : Bytes) (stop : Option Nat) (f : MediaFacts) (s : State) : Nat × Bytes × MediaFacts × State :=
  let (h, e) := readDecompressor q s
  let (st, plain, s1) := decodeTwice h e payload stop ((f.decoder.head?).getD none) s
  (st, plain, { f with decoder := f.decoder.drop 1 }, s1)

/-- Checks the whole plaintext of a record against its fingerprint where its domain asks for it (R100). -/
def checkWhole (r plain : Bytes) (s : State) : Verdict :=
  if rehashOn (recDomain r) s ∧ fingerprint (recDomain r) plain s ≠ recFp r then .rehash (fingerprint (recDomain r) plain s)
  else .good plain (some plain)

/-- Checks a record and decodes it, to the end `upTo` of the range that is asked for; the rest is decoded off the path, and an error there
only keeps the chunk out of the cache (R98-R100, R167). A domain with REHASH_ON_READ has the whole chunk decoded first. -/
def verifyRecord (q entry : Nat) (r : Bytes) (upTo : Nat) (why : ReadFor) (f : MediaFacts) (s : State) : Verdict × MediaFacts × State :=
  match openRecord q entry r why f s with
  | (.error v, f1, s1) => (v, f1, s1)
  | (.ok payload, f1, s1) =>
    if recFormat r = 0 then (checkWhole r payload s1, f1, s1)
    else if recPlainLen r ≤ upTo ∨ rehashOn (recDomain r) s1 = true then
      let (st, plain, f2, s2) := readDecode q payload none f1 s1
      if vxCode st ≠ vxOk ∨ plain.length ≠ recPlainLen r then (.decode st, f2, s2) else (checkWhole r plain s2, f2, s2)
    else
      let (st, plain, f2, s2) := readDecode q payload (some (max 1 upTo)) f1 s1
      if vxCode st ≠ vxOk then (.decode st, f2, s2)
      else
        let (st3, whole, f3, s3) := readDecode q payload none f2 s2
        (.good plain (if vxCode st3 = vxOk ∧ whole.length = recPlainLen r then some whole else none), f3, s3)

/-! ## Failures (R108) -/

/-- A READ_FAIL record (Table 22-2): the row of Table 4-4, or 9 lost and 10 held grain. -/
def readFail (row entry : Nat) (l : Option Loc) (vx : Nat) (fps : Bytes) (s : State) : State :=
  almanac 0x0103 (packFields [(1, row), (8, entry)] ++ locBytes (l.getD noLoc) ++ leBytes 8 vx ++ padTo 64 fps) s

/-- How a chunk read ends: plaintext or the status of R108. -/
abbrev ChunkResult := Except Status Bytes

/-- How a read from media ends: what is delivered, with the whole chunk where all of it is verified, or the status of R108. -/
abbrev MediaResult := Except Status (Bytes × Option Bytes)

/-- RD_UNRECOVERED: counted, recorded, media attention. -/
def unrecovered (q entry : Nat) (l : Option Loc) (s : State) : State :=
  mediaAttn (readFail 8 entry l 0 [] (countReads q (fun c => { c with unrecovered := bump c.unrecovered }) s))

/-- The report of a record that fails after its rebuild, or after its location has been resolved again (Table 4-4). A read that finds no
slot or complex free ends with ST_BUSY, and one aborted twice with ST_ABORTED (DESIGN CHOICE 140, 148). -/
def verdictFail (q entry : Nat) (l : Loc) (v : Verdict) (s : State) : MediaResult × State :=
  let mark := fun st => markBale l.acre l.bale st
  match v with
  | .good p w => (.ok (p, w), s)
  | .stale => (.error stMedia, readFail 3 entry (some l) 0 [] s)
  | .crc => (.error stMedia, unrecovered q entry (some l) (mark s))
  | .locked => (.error stAuthFailed, s)
  | .busy => (.error stBusy, s)
  | .aborted => (.error stAborted, s)
  | .cipher => (.error stInternal, readFail 5 entry (some l) 0 [] s)
  | .tag => (.error stMedia, mediaAttn (readFail 4 entry (some l) 0 [] (mark s)))
  | .decode st => (.error stMedia, readFail 6 entry (some l) st [] (mark s))
  | .rehash fp => (.error stMedia, readFail 7 entry (some l) 0 fp (mark s))

/-- Whether a verdict on the plot's own copy calls for a rebuild (R101, R272). -/
def wantsRebuild (v : Verdict) : Bool :=
  match v with
  | .crc => true | .tag => true | .decode _ => true | .rehash _ => true | _ => false

/-- The fingerprint that a verdict found. -/
def verdictFp (v : Verdict) : Bytes :=
  match v with
  | .rehash fp => fp
  | _ => []

/-- The record as it waits in a bale that is not committed, if it does. -/
def pendingRecord (l : Loc) (s : State) : Option Bytes :=
  (baleAt l.acre l.bale s).bind (fun b =>
    (b.records.find? (fun r => r.plot == l.plot && r.off == 64 * l.off)).map (·.bytes))

/-- How an attempt to read a record ends: with a verdict that stands, or with too few plots. -/
abbrev Tried := Option Verdict

/-- The rebuilt record, checked once more (R102). -/
def rebuildRead (q entry : Nat) (l : Loc) (a : Acre) (fp1 : Bytes) (upTo : Nat) (f : MediaFacts) (s : State) : Tried × MediaFacts × State :=
  match rebuild q a l.bale l.plot (64 * l.off) (64 * l.len) f s with
  | (none, s1) => (none, f, s1)
  | (some rec, s1) =>
    let (v, f1, s2) := verifyRecord q entry rec upTo .client f s1
    (some (match v with
      | .rehash fp2 => .rehash (padTo 32 fp1 ++ fp2)
      | x => x), f1, s2)

/-- Reads the record of a location: from the bale that waits for it, else from its plot, else from the rest of its bale (R97-R102). -/
def mediaTry (q entry : Nat) (l : Loc) (upTo : Nat) (f : MediaFacts) (s : State) : Tried × MediaFacts × State :=
  match pendingRecord l s with
  | some rec =>
    let (v, f1, s1) := verifyRecord q entry rec upTo .client f s
    (some v, f1, s1)
  | none =>
    match acreHome l.acre s with
    | none => (none, f, s)
    | some a =>
      match plotRead q a l.bale l.plot (64 * l.off) (64 * l.len) .client f s with
      | (none, s1) => rebuildRead q entry l a [] upTo f s1
      | (some (rec, _), s1) =>
        let (v, f1, s2) := verifyRecord q entry rec upTo .client f s1
        if wantsRebuild v then rebuildRead q entry l a (verdictFp v) upTo f1 s2 else (some v, f1, s2)

/-- The outcome of an attempt (Table 4-4). -/
def triedEnd (q entry : Nat) (l : Loc) (t : Tried) (s : State) : MediaResult × State :=
  match t with
  | none => (.error stMedia, unrecovered q entry (some l) s)
  | some v => verdictFail q entry l v s

/-- PAGE_ID of the LOCATION page of a chunk (Table 11-6). -/
def locPageId (entry : Nat) : Nat := pageId 5 (entryChunk entry / 1020)

/-- The location of a chunk that can be read: its page is to be had, and it is not lost (R91 step 4, R220). -/
def readableLoc (entry : Nat) (f : MediaFacts) (s : State) : Option Loc :=
  if f.lostPages.contains (locPageId entry) then none else (entryLoc entry s).filter (fun l => l.len != 0)

/-- Reads a chunk from where its record lies. A record that is another chunk's has its location resolved once more, and is read again; the
second mismatch is RD_STALE_LOCATION (R97-R102). -/
def mediaRead (q entry upTo : Nat) (f : MediaFacts) (s : State) : MediaResult × MediaFacts × State :=
  match readableLoc entry f s with
  | none => (.error stMedia, f, unrecovered q entry (entryLoc entry s) s)
  | some l =>
    match mediaTry q entry l upTo f s with
    | (some .stale, f1, s1) =>
      match readableLoc entry f1 s1 with
      | none => (.error stMedia, f1, unrecovered q entry (entryLoc entry s1) s1)
      | some l2 =>
        let (t, f2, s2) := mediaTry q entry l2 upTo f1 s1
        let r := triedEnd q entry l2 t s2
        (r.1, f2, r.2)
    | (t, f1, s1) =>
      let r := triedEnd q entry l t s1
      (r.1, f1, r.2)

/-- The plaintext of a map entry for quadrant `q`, at least as far as `upTo`, from the cache or from media; a miss fills the cache (R91
steps 2 to 5). Every miss counts in MEDIA_READS, also where no plot is read: when it counts the spec does not say (DESIGN CHOICE 149). -/
def chunkReadTo (q entry upTo : Nat) (f : MediaFacts) (s : State) : ChunkResult × MediaFacts × State :=
  match cached entry s with
  | some e => (.ok e.data, f, cacheUse q e s)
  | none =>
    let s1 := countReads q (fun c => { c with cacheMisses := bump c.cacheMisses, mediaReads := bump c.mediaReads }) s
    match mediaRead q entry upTo f s1 with
    | (.ok (data, some whole), f1, s2) => (.ok data, f1, cacheFill entry whole true s2)
    | (.ok (data, none), f1, s2) => (.ok data, f1, s2)
    | (.error st, f1, s2) => (.error st, f1, s2)

/-- The whole plaintext of a map entry. -/
def chunkRead (q entry : Nat) (f : MediaFacts) (s : State) : ChunkResult × MediaFacts × State := chunkReadTo q entry 131072 f s

/-! ## Grains (R70, R90, R91) -/

/-- Whether every byte of a BUFFERED record is committed. -/
def finished (r : BufferedRec) : Bool :=
  (List.range r.len).all (fun i => r.done.any (fun c => decide (c.off ≤ r.off + i) && decide (r.off + i < c.off + c.len)))

/-- BUFFERED records of a grain, own and held for the peer, in ingest-sequence order (R70, R91 step 1a). -/
def bufferedOf (t : Target) (s : State) : List BufferedRec :=
  let mine := (s.ingest.own ++ s.ingest.mirror).filter (fun r => r.target == t && !finished r)
  sortByKey (fun (r : BufferedRec) => [(r.seq : Int)]) mine

/-- Bytes held in a list of buffers, as far as `len`. -/
def handlesRead : List Nat → Nat → State → Bytes × State
  | [], _, s => ([], s)
  | h :: rest, len, s =>
    let n := min len (handleSize h)
    let (b, s1) := bufferRead h 0 n s
    let (bs, s2) := handlesRead rest (len - n) s1
    (b ++ bs, s2)

/-- The data of a BUFFERED record; zeros need no buffer. -/
def recordData (r : BufferedRec) (s : State) : Bytes × State :=
  if r.zero then (zeros r.len, s)
  else
    match r.inDump with
    | some b => (b.drop r.skip, s)
    | none =>
      let (b, s1) := handlesRead r.handles (r.skip + r.len) s
      (b.drop r.skip, s1)

/-- Lays records over a base in order. -/
def layOver : List BufferedRec → Bytes → State → Bytes × State
  | [], b, s => (b, s)
  | r :: rest, b, s =>
    let (d, s1) := recordData r s
    layOver rest (overlay b r.off (padTo r.len d)) s1

/-- Whether records cover a range in full. -/
def covers (rs : List BufferedRec) (off len : Nat) : Bool :=
  (List.range len).all (fun i => rs.any (fun r => decide (r.off ≤ off + i) && decide (off + i < r.off + r.len)))

/-- PAGE_ID of the MAP page that holds a grain's entry: of the live content, or of the snapshot whose copy of the page serves it
(Table 11-6). -/
def grainPageId (ns snap grain : Nat) (s : State) : Nat :=
  let from' := if snap = 0 then [] else (snapsOf 1 ns s).dropWhile (fun x => x.num != snap)
  let own := from'.find? (fun x => (snapCopy ns x.num (mapPage grain) s).isSome)
  pageId 4 (ns * 2 ^ 47 + (own.map (·.num)).getD 0 * 2 ^ 31 + mapPage grain)

/-- The 16 KiB of a grain of a namespace, snapshot 0 for the live content: base and records composed. Where the base cannot be
read, only a range that records cover in full can be given: then the base counts as zeros (R70, R91, R575). -/
def grainRead (ns snap grain off len : Nat) (f : MediaFacts) (s : State) : ChunkResult × MediaFacts × State :=
  let q := (grain + ns) % 4
  let rs := if snap = 0 then bufferedOf (.grain ns grain) s else []
  let entry := resolveGrain ns snap grain s
  let lay := fun (base : Bytes) (f1 : MediaFacts) (s1 : State) =>
    let (b, s2) := layOver rs base s1
    ((Except.ok (slice b off len) : ChunkResult), f1, s2)
  if covers rs off len = true then lay (zeros 16384) f s
  else if f.lostPages.contains (grainPageId ns snap grain s) then (.error stMedia, f, unrecovered q 0 none s)
  else if entry = 0 ∨ entryChunk entry = 0 then lay (zeros 16384) f s
  else
    match chunkReadTo q entry (off + len) f s with
    | (.ok base, f1, s1) => lay (padTo 16384 base) f1 s1
    | (.error st, f1, s1) => (.error st, f1, s1)

/-- A byte range of a namespace, grain by grain (R90). -/
def rangeRead (ns snap : Nat) : Nat → Nat → Nat → MediaFacts → State → ChunkResult × MediaFacts × State
  | 0, _, _, f, s => (.ok [], f, s)
  | fuel + 1, off, len, f, s =>
    if len = 0 then (.ok [], f, s)
    else
      let n := min len (16384 - off % 16384)
      match grainRead ns snap (off / 16384) (off % 16384) n f s with
      | (.error st, f1, s1) => (.error st, f1, s1)
      | (.ok b, f1, s1) =>
        match rangeRead ns snap fuel (off + n) (len - n) f1 s1 with
        | (.error st, f2, s2) => (.error st, f2, s2)
        | (.ok bs, f2, s2) => (.ok (b ++ bs), f2, s2)

/-- A byte range of a namespace. -/
def nsRead (ns snap off len : Nat) (f : MediaFacts) (s : State) : ChunkResult × MediaFacts × State :=
  rangeRead ns snap (len / 16384 + 2) off len f s

/-! ## Read-ahead (R106, R107) -/

/-- A parameter of a scope in effect (R576). -/
def scopeParam (kind id param : Nat) (s : State) : Nat :=
  match s.map.scopeParams.find? (fun p => p.kind == kind && p.id == id && p.param == param) with
  | some p => leNat p.value
  | none => leNat (((paramDef param).map (·.dflt)).getD [])

/-- Advances or takes a stream slot for a read of `n` units from `pos`: the window to prefetch, in bytes, 0 for none, and the slots,
most recently used first. -/
def streamStep (source pos n maxBytes : Nat) (slots : List StreamSlot) : Nat × List StreamSlot :=
  match slots.find? (fun x => x.source == source && decide (x.next ≤ pos) && decide (pos ≤ x.next + 16)) with
  | some x =>
    let adv := x.advances + 1
    let w := if adv < 2 then 0 else if adv = 2 then 65536 else min (2 * x.window) maxBytes
    (w, { x with next := pos + n, advances := adv, window := w } :: slots.erase x)
  | none => (0, { source := source, next := pos + n, advances := 0, window := 0 } :: slots.take 255)

/-- The record of a location as read-ahead finds it: no rebuild follows (R107). -/
def aheadRecord (q : Nat) (l : Loc) (f : MediaFacts) (s : State) : Option Bytes × State :=
  match pendingRecord l s with
  | some r => (some r, s)
  | none =>
    match acreHome l.acre s with
    | none => (none, s)
    | some a =>
      let r := plotRead q a l.bale l.plot (64 * l.off) (64 * l.len) .ahead f s
      (r.1.map (·.1), r.2)

/-- Prefetches a map entry that is not cached; a failure is dropped and counted, starts no rebuild and leaves no Almanac record (R107). -/
def prefetchOne (q entry : Nat) (f : MediaFacts) (s : State) : State :=
  if entryChunk entry = 0 ∨ (cached entry s).isSome then s
  else
    let s1 := countReads q (fun c => { c with raIssued := bump c.raIssued }) s
    let drop := fun (x : State) => countReads q (fun c => { c with raDropped := bump c.raDropped }) { x with alm := s.alm }
    match readableLoc entry f s1 with
    | none => drop s1
    | some l =>
      match aheadRecord q l f s1 with
      | (none, s2) => drop s2
      | (some r, s2) =>
        match verifyRecord q entry r 131072 .ahead f s2 with
        | (.good plain _, _, s3) => cacheFill entry plain false s3
        | (_, _, s3) => drop s3

/-- Prefetches map entries. -/
def prefetch (q : Nat) (entries : List Nat) (f : MediaFacts) (s : State) : State := entries.foldl (fun st e => prefetchOne q e f st) s

/-- READ_AHEAD_MAX in effect, in bytes. -/
def readAheadMax (s : State) : Nat := paramNat 0x0401 0 s * 1024

/-- Read-ahead after a read of grains of a namespace (R106). A read that spans grains of several quadrants uses the stream slots and the
counters of its first grain's quadrant: the spec does not say whose (DESIGN CHOICE 150). -/
def grainAhead (ns snap first n : Nat) (f : MediaFacts) (s : State) : State :=
  if n = 0 ∨ scopeParam 1 ns 0x0400 s = 0 then s
  else
    let q := (first + ns) % 4
    let (w, slots) := streamStep ns first n (readAheadMax s) (s.read.streams.getD q [])
    let s1 := { s with read := { s.read with streams := s.read.streams.set q slots } }
    prefetch q ((List.range (w / 16384)).map (fun i => resolveGrain ns snap (first + n + i) s1)) f s1

/-- A DIE_READ's READ_TIMEOUT wins its race (R43): its late data is discarded, the plot read of chunk `entry` has failed, and the
chunk is rebuilt from its bale (R101). -/
def readTimeout (q entry : Nat) (f : MediaFacts) (s : State) : State :=
  match entryLoc entry s with
  | none => s
  | some l =>
    match acreHome l.acre s with
    | none => s
    | some a =>
      if l.len = 0 then s
      else
        let home := plotHome a l.plot l.bale
        let s1 := countReads q (fun c => { c with readLate := bump c.readLate }) (dieSilent home.1 home.2.1 s)
        match rebuildRead q entry l a [] 131072 f s1 with
        | (some (.good data _), _, s2) => cacheFill entry data true s2
        | (t, _, s2) => (triedEnd q entry l t s2).2

/-- READ_TIMEOUT_EXPIRY (R43, R101). -/
def execReadTimeoutExpiry (quadrant entry : Nat) (facts : MediaFacts) (s : State) : Host.Outcome State Fault Refusal :=
  .next (hswSync (readTimeout (quadrant % 4) entry facts s))

end Sys2Proof.Machine
end

