-- ==== Sys2Proof/Machine/Ingest.lean ====
section
/-! DEFINITION. Ingest behind the acknowledgement (R54-R84, R575): composition and chunking, fingerprints, the dedup decision,
run-ahead, commit and squash. -/

namespace Sys2Proof.Machine

/-! ## Chunk IDs (R80, R199, R310) -/

/-- Asks the peer for blocks of chunk IDs when fewer than 4 free ones are left (R310). -/
def idWatch (s : State) : State :=
  let left := (s.headland.idBlocks.map (·.2)).sum
  if left < 4 ∧ s.headland.idAsked = false ∧ s.headland.peerPresent = true then
    headSend 0 0x0040 (leBytes 4 4) { s with headland := { s.headland with idAsked := true } }
  else s

/-- Takes the next free block of chunk IDs into use. -/
def takeIdBlock (s : State) : Option Nat × State :=
  match s.headland.idBlocks with
  | [] => (none, idWatch s)
  | (first, n) :: rest =>
    let left := if n ≤ 1 then rest else (first + 1, n - 1) :: rest
    (some first, idWatch { s with headland := { s.headland with idBlocks := left }
                                  ingest := { s.ingest with drawnBlocks := s.ingest.drawnBlocks ++ [first] } })

/-- The generation of an ID's next assignment. -/
def idGen (id : Nat) (s : State) : Nat := lookupD id s.ingest.idGens s.ingest.startGen

/-- The next position of a block, from one on, whose chunk ID no location names and whose generations are not used up: a block adopted from the peer may hold assigned IDs
(R319). -/
def nextPosition (b n : Nat) (s : State) : Option Nat :=
  (firstIndex (65536 - n) (fun i => (lookup (65536 * b + n + i) s.map.locs).isNone && decide (idGen (65536 * b + n + i) s ≤ 0xFFFFFF))).map (fun i => n + i)

/-- Draws an ID of a block, from a position on; what is left of the block stays in use, and a block with no free ID left is done with. -/
def drawFrom (b n : Nat) (rest : List (Nat × Nat)) (s : State) : Option Nat × State :=
  match nextPosition b n s with
  | none => (none, modifyIngest (fun i => { i with idRanges := rest }) s)
  | some k => (some (65536 * b + k), modifyIngest (fun i => { i with idRanges := if k + 1 = 65536 then rest else (b, k + 1) :: rest }) s)

/-- Draws an ID of a new block. -/
def drawNew (s : State) : Option Nat × State :=
  match takeIdBlock s with
  | (none, s1) => (none, s1)
  | (some b, s1) => drawFrom b (if b = 0 then 1 else 0) [] s1

/-- Draws an ID of the blocks in use, else of a new one. -/
def drawRanges : List (Nat × Nat) → State → Option Nat × State
  | [], s => drawNew s
  | (b, n) :: rest, s =>
    match drawFrom b n rest s with
    | (some id, s1) => (some id, s1)
    | (none, s1) => drawRanges rest s1

/-- Draws a chunk ID: one freed by reclaim, else the next of the blocks in use, else of a new block; ID 0 is never assigned (R56, R552). -/
def drawId (s : State) : Option Nat × State :=
  match s.ingest.freedIds with
  | id :: rest => (some id, modifyIngest (fun i => { i with freedIds := rest }) s)
  | [] => drawRanges s.ingest.idRanges s

/-- Reserves a chunk ID for a harrow: from its provisional ID block, where a squash has returned one, else a new one (R77, R80). -/
def reserveId (h : Nat) (s : State) : Option Nat × State :=
  match (harrowAt h s).idBlock with
  | id :: rest => (some id, modifyHarrow h (fun x => { x with idBlock := rest }) s)
  | [] => drawId s

/-- An ID freed by reclaim: assigned again with its generation advanced by one, or retired (R199). -/
def freeId (id gen : Nat) (s : State) : State :=
  if 0xFFFFFF ≤ gen then s
  else modifyIngest (fun i => { i with freedIds := i.freedIds ++ [id], idGens := insertAt id (gen + 1) i.idGens }) s

/-! ## Stamps and landing (R60, R64) -/

/-- The next ingest sequence of a quadrant. -/
def takeStamp (q : Nat) (s : State) : Nat × State :=
  let n := s.ingest.nextSeq.getD q 1
  (n, modifyIngest (fun i => { i with nextSeq := i.nextSeq.set q (n + 1) }) s)

/-- Lands a write part: its BUFFERED record is placed, and mirrored with its payload (R64). The MSEQ that carries it. -/
def landRecord (t : Target) (off len q seq : Nat) (handles : List Nat) (payload : Bytes) (zero : Bool) (s : State) : Option Nat × State :=
  let (j, m, s1) := placeWith q (.buffered t off len seq) payload [] s
  let r : BufferedRec := { target := t, off := off, len := len, quadrant := q, seq := seq, handles := handles, skip := 0, zero := zero, inDump := none,
                           mseq := m.getD 0, jseq := j, done := [] }
  (m, modifyIngest (fun i => { i with own := i.own ++ [r] }) s1)

/-! ## Barriers (R288) -/

/-- The barrier of a snapshot in creation that holds back a target's later records. -/
def barrierOf (t : Target) (s : State) : Option Nat :=
  match t with
  | .grain ns g =>
    (s.repl.jobs.find? (fun j => j.kind == 1 && j.scope == ns)).map (fun j => j.barrier.getD ((g + ns) % 4) 0)
  | .piece _ _ _ => none

/-- The records of a grain that may be composed now: those before the barrier while a snapshot is being created. -/
def composable (t : Target) (s : State) : List BufferedRec :=
  let mine := sortByKey (fun (r : BufferedRec) => [(r.seq : Int)]) (s.ingest.own.filter (fun r => r.target == t && !finished r))
  match barrierOf t s with
  | none => mine
  | some b => mine.filter (fun r => decide (r.seq < b))

/-! ## Ending a composition or a chunk (R71, R79) -/

/-- Squashes a work: its epoch, or the reserved ID where it is real work; nothing else of it remains (R79, R80). -/
def squashWork (w : ChunkWork) (s : State) : State :=
  let s1 := dropWork w.id s
  match w.epoch with
  | some e =>
    countIngest (harrowQuadrant w.harrow) (fun c => { c with runAheadSquash := bump c.runAheadSquash }) (squashEpoch e s1)
  | none => if w.chunkId = 0 then s1 else modifyHarrow w.harrow (fun h => { h with idBlock := w.chunkId :: h.idBlock }) s1

/-- Squashes every work on a target. -/
def squashTarget (t : Target) (s : State) : State := (s.ingest.works.filter (fun w => w.target == t)).foldl (fun st w => squashWork w st) s

/-- Whether a record newer than the composed ones has arrived for the grain (R71). -/
def superseded (w : ChunkWork) (s : State) : Bool :=
  match w.target with
  | .grain _ _ => (composable w.target s).any (fun r => !w.records.contains (r.quadrant, r.seq))
  | .piece _ _ _ => false

/-- The range of a target that its chunk covers. -/
def targetRange (t : Target) : Nat × Nat :=
  match t with
  | .grain _ _ => (0, 16384)
  | .piece _ off len => (off, len)

/-- Whether a record is one that a commit of a target covers: of the same grain, or overlapping in the same object. -/
def sameTarget (t : Target) (r : BufferedRec) : Bool :=
  match t, r.target with
  | .grain a b, .grain c d => a == c && b == d
  | .piece o off len, .piece o' _ _ => o == o' && decide (r.off < off + len) && decide (off < r.off + r.len)
  | _, _ => false

/-- Whether a write of a grain stamped earlier in a quadrant has still to land: its data is being pulled (R60, R88). -/
def earlierPulls (ns grain q seq : Nat) (s : State) : Bool :=
  s.nvme.commands.any (fun c => c.stage == .pulling && c.parts.any (fun p =>
    p.ns == ns && p.quadrant == q && (p.grain == grain || p.len == 0) && decide (p.seq < seq)))

/-- Notes the range of a grain that a commit gives to a write, as long as one stamped earlier has still to land; notes that no such one
concerns any more go (R88). -/
def noteOverlaid (ns grain off len q seq : Nat) (s : State) : State :=
  let o : Overlaid := { ns := ns, grain := grain, off := off, len := len, quadrant := q, seq := seq }
  let live := s.ingest.overlaid.filter (fun x => earlierPulls x.ns x.grain x.quadrant x.seq s)
  modifyIngest (fun i => { i with overlaid := if earlierPulls ns grain q seq s then live ++ [o] else live }) s

/-- Notes the ranges of the records that a grain's commit covers. -/
def noteComposed (t : Target) (seqs : List (Nat × Nat)) (s : State) : State :=
  match t with
  | .grain ns g =>
    (s.ingest.own.filter (fun r => sameTarget t r && seqs.contains (r.quadrant, r.seq))).foldl (fun st r =>
      noteOverlaid ns g r.off r.len r.quadrant r.seq st) s
  | .piece _ _ _ => s

/-- Marks the records of a commit: entry, JSEQ and MSEQ of its record. `seqs` are the stamps composed; a piece's commit concerns every
record it overlaps. -/
def markDone (t : Target) (seqs : List (Nat × Nat)) (entry jseq : Nat) (mseq : Option Nat) (s : State) : State :=
  let (off, len) := targetRange t
  let q := targetQuadrant t s
  let c : Commit := { off := off, len := len, entry := entry, jseq := jseq, mseq := mseq, sub := subFor q s }
  let hit := fun (r : BufferedRec) => sameTarget t r && (match t with
    | .grain _ _ => seqs.contains (r.quadrant, r.seq)
    | .piece _ _ _ => true)
  modifyIngest (fun i => { i with own := mapIf hit (fun r => { r with done := r.done ++ [c] }) i.own }) (noteComposed t seqs s)

/-- A hold ends with a commit of its grain (R575). -/
def endHold (t : Target) (s : State) : State :=
  match t with
  | .grain ns g => modifyIngest (fun i => { i with held := i.held.filter (fun h => !(h.1 == ns && h.2.1 == g)) }) s
  | .piece _ _ _ => s

/-- Maps a target without a new chunk: to zeros, or to an existing chunk, by a REFERENCE record (R56, R79). -/
def commitReference (t : Target) (seqs : List (Nat × Nat)) (entry : Nat) (s : State) : State :=
  let q := targetQuadrant t s
  let (j, m, s1) := place q (.reference t entry) s
  endHold t (markDone t seqs entry j m s1)

/-- Makes a whole grain zeros or unmapped at once, for a command stamped `seq`: every earlier record of the grain is settled with it
(R68, R69), and it counts as a chunk mapped to chunk ID 0 unless it is unmapped (Table 3-7). -/
def commitZero (ns grain : Nat) (unmap : Bool) (seq : Nat) (s : State) : Option Nat × State :=
  let t := Target.grain ns grain
  let s1 := squashTarget t s
  let seqs := (s1.ingest.own.filter (fun r => sameTarget t r)).map (fun r => (r.quadrant, r.seq))
  let q := targetQuadrant t s1
  let (j, m, s2) := place q (if unmap then .unmap t 1 else .reference t 0) s1
  let s3 := endHold t (noteOverlaid ns grain 0 16384 q seq (markDone t seqs 0 j m s2))
  (m, if unmap then s3 else countIngest q (fun c => { c with zeroChunks := bump c.zeroChunks }) s3)

/-! ## Composition and chunking (R55, R56, R70, R575) -/

/-- Whether a grain's live entry may change: a snapshot's copy of its page that must come first is there (R276). -/
def pageReady (t : Target) (s : State) : Bool :=
  match t with
  | .grain ns g => (copyNeeded ns g s).isNone
  | .piece _ _ _ => true

/-- Writes a snapshot's copy of a page, unless it is on its way already: its PAGE record is placed once its row has committed
(R274, R276). -/
def writeCopy (c : SnapPage) (s : State) : State :=
  if metaPending (fun u => u.pageId == snapPageId c) s then s
  else
    metaFlush (addDue [{ utype := 4, part := 1, pageId := snapPageId c, jseq := s.journal.nextJseq - 1, payload := snapPayload c
                         item := .page (snapPageId c) (some c) }] s)

/-- Starts the copy that a change of a grain has to wait for. -/
def startCopy (t : Target) (s : State) : State :=
  match t with
  | .grain ns g =>
    match copyNeeded ns g s with
    | some c => writeCopy c s
    | none => s
  | .piece _ _ _ => s

/-- A grain becomes held: health attention and a record (R575). -/
def noteHeld (ns grain base : Nat) (s : State) : State :=
  if s.ingest.held.any (fun h => h.1 == ns && h.2.1 == grain) then s
  else
    let s1 := modifyIngest (fun i => { i with held := i.held ++ [(ns, grain, base)] }) s
    let s2 := readFail 10 base (entryLoc base s1) 0 [] s1
    healthAttn (almSeqAfter s1 s2) s2

/-- Starts the reduction of a chunk: a zero chunk is mapped to chunk ID 0 at once (R56). -/
def startChunk (harrow : Nat) (t : Target) (plain : Bytes) (seqs : List (Nat × Nat)) (s : State) : State :=
  let q := harrowQuadrant harrow
  if allZero plain then
    commitReference t seqs 0
      (countIngest q (fun c => { c with chunksIn := bump c.chunksIn, zeroChunks := bump c.zeroChunks }) s)
  else
    let d := targetDomain t s
    let w : ChunkWork :=
      { id := s.ingest.nextWork, harrow := harrow, epoch := none, target := t, plain := plain, domain := d, level := 0, keyEpoch := 0,
        fp := none, records := seqs, chunkId := 0, gen := 0, decision := .undecided, noIndex := false, stream := none, stored := none }
    modifyIngest (fun i => { i with works := i.works ++ [w], nextWork := i.nextWork + 1 }) s

/-- Composes a grain on a harrow under the grain's ordering key (R70, R71): nothing where no record waits, or where a composition of
it runs already; a snapshot's copy of its page comes first (R276). -/
def composeGrain (ns grain harrow : Nat) (f : MediaFacts) (s : State) : State :=
  let t := Target.grain ns grain
  let rs := composable t s
  if rs = [] ∨ s.ingest.works.any (fun w => w.target == t) = true ∨ s.boot.mode = .dump then s
  else if pageReady t s = false then startCopy t s
  else
    let seqs := rs.map (fun r => (r.quadrant, r.seq))
    let base := liveEntry ns grain s
    let whole := rs.any (fun r => decide (r.off = 0) && decide (r.len = 16384))
    if whole = true ∨ entryChunk base = 0 then
      let (plain, s1) := layOver rs (zeros 16384) s
      startChunk harrow t plain seqs s1
    else
      match chunkRead ((grain + ns) % 4) base f s with
      | (.ok b, _, s1) =>
        let (plain, s2) := layOver rs (padTo 16384 b) s1
        startChunk harrow t plain seqs s2
      | (.error st, _, s1) => if st = stAuthFailed then s1 else noteHeld ns grain base s1

/-- Bytes of an object from its BUFFERED records. -/
def objectBuffered (o off len : Nat) (s : State) : Bytes × State :=
  let rs := sortByKey (fun (r : BufferedRec) => [(r.seq : Int)])
    (s.ingest.own.filter (fun r => sameTarget (.piece o off len) r))
  let lay := rs.foldl (fun (acc : Bytes × State) r =>
    let (d, st) := recordData r acc.2
    let skip := off - r.off
    (overlay acc.1 (r.off - off) ((padTo r.len d).drop skip), st)) (zeros len, s)
  (lay.1.take len, lay.2)

/-- The length of the next chunk of an object, from the bytes that have landed after the last cut; none while it cannot be known
(R55). -/
def cutLength (landed : Bytes) (complete : Bool) : Option Nat :=
  if landed = [] then none
  else if complete = true ∨ 131072 ≤ landed.length then some (nextCut (landed.take 131072))
  else
    let c := nextCut landed
    if 8192 < landed.length ∧ c < landed.length then some c else none

/-- The chunker cuts the next chunk of an object (R55). -/
def chunkCut (o harrow : Nat) (s : State) : State :=
  match s.ingest.objects.find? (fun x => x.number == o) with
  | none => s
  | some x =>
    let (bytes, s1) := objectBuffered o x.cut (min 131072 (x.landed - x.cut)) s
    let complete := x.size == some x.landed
    match cutLength bytes (complete && decide (x.landed - x.cut ≤ 131072)) with
    | none => s
    | some n =>
      let whole := complete && decide (x.cut + n = x.landed) && (objectAt o s).isSome
      let next := if whole then s.ingest.objects.erase x else mapIf (fun y => y.number == o) (fun y => { y with cut := x.cut + n }) s.ingest.objects
      let s2 := modifyIngest (fun i => { i with objects := next }) s1
      startChunk harrow (.piece o x.cut n) (bytes.take n) [] s2

/-! ## Fingerprint and run-ahead (R58, R72, R77) -/

/-- Level and key epoch of the chunks whose run-ahead begins now. -/
def domainNow (d : Nat) (s : State) : Nat × Nat := ((domainAt d s).map (fun x => (x.voxcaLevel, x.epoch))).getD (0, 0)

/-- Gives a work a reserved chunk ID. -/
def workReserve (w : ChunkWork) (s : State) : State :=
  match reserveId w.harrow s with
  | (none, s1) => idsWatch s1
  | (some id, s0) =>
    let s1 := idsWatch s0
    let s2 := modifyWork w.id (fun x => { x with chunkId := id, gen := idGen id s1 }) s1
    match w.epoch with
    | some e => modifyEpoch e (fun y => { y with chunkId := some id }) s2
    | none => s2

/-- A chunk is fingerprinted, and its run-ahead starts where the harrow's budget allows (R72, R77). A chunk without run-ahead takes the
level and epoch in force now too, not those in force when its compression starts, on which R58 is silent (DESIGN CHOICE 136). -/
def fingerprintWork (work : Nat) (s : State) : State :=
  match workAt work s with
  | none => s
  | some w =>
    if w.fp.isSome then s
    else
      let (lv, ep) := domainNow w.domain s
      let s1 := countIngest (harrowQuadrant w.harrow) (fun c => { c with chunksIn := bump c.chunksIn })
        (modifyWork work (fun x => { x with fp := some (fingerprint w.domain w.plain s), level := lv, keyEpoch := ep }) s)
      match openEpoch w.harrow work s1 with
      | none => s1
      | some (e, s2) => workReserve { w with epoch := some e } (modifyWork work (fun x => { x with epoch := some e }) s2)

/-- FINGERPRINT (R72, R77). -/
def execFingerprint (work : Nat) (s : State) : Host.Outcome State Fault Refusal := .next (fingerprintWork work s)

/-! ## The dedup decision (R73-R76, R79) -/

/-- Whether a decision waits for another chunk of the same fingerprint and domain that was decided a miss and has not committed
(R75). -/
def decisionWaits (w : ChunkWork) (s : State) : Bool :=
  s.ingest.works.any (fun x => x.id != w.id && x.domain == w.domain && x.fp == w.fp && x.decision == .miss)

/-- COMPARE_ON_HIT of a domain: bit 0 of VERIFY_POLICY. -/
def compareOn (d : Nat) (s : State) : Bool := ((domainAt d s).map (fun x => bitOf x.verifyPolicy 0)).getD false

/-- A hit is confirmed by COMPARE where the domain asks for it: whether it stands (R76). A stored chunk that cannot be read confirms
nothing: the new one is stored without an index entry, as after a mismatch (DESIGN CHOICE 121). -/
def confirmHit (w : ChunkWork) (entry : Nat) (f : MediaFacts) (s : State) : Bool × State :=
  if compareOn w.domain s = false then (true, s)
  else
    match chunkRead (harrowQuadrant w.harrow) entry f s with
    | (.ok plain, _, s1) =>
      if plain = w.plain then (true, s1)
      else
        let s2 := if w.chunkId = 0 then workReserve w s1 else s1
        let new := (workAt w.id s2).getD w
        let s3 := countIngest (harrowQuadrant w.harrow) (fun c => { c with compareMismatch := bump c.compareMismatch }) s2
        (false, almanac 0x0102 (packFields [(1, w.domain), (8, mapEntry new.chunkId new.gen), (8, entry)] ++ padTo 32 (w.fp.getD [])) s3)
    | (.error _, _, s1) => (false, s1)

/-- The hit is applied in one step: the run-ahead squashed, one reference added, the target mapped (Table 3-6). -/
def applyHit (w : ChunkWork) (entry : Nat) (s : State) : State :=
  let s1 := squashWork w s
  if superseded w s1 then s1 else commitReference w.target w.records entry s1

/-- The miss is decided: commit follows when the run-ahead has finished (Table 3-6). -/
def decideMiss (w : ChunkWork) (noIndex : Bool) (s : State) : State :=
  modifyWork w.id (fun x => { x with decision := .miss, noIndex := noIndex }) s

/-- Searches the hot tag: the index page it names, if it is there (Table 3-5 step 1). -/
def winnowHot (key : Nat) (s : State) : Option Nat × State :=
  let (w, s1) := winnowSearch 0 0 key false 0 s
  (if bitOf w 39 then some (w % 2 ^ 32) else none, s1)

/-- The three steps of Table 3-5. `falsePositive`: the summary filter answers positive for a fingerprint that was never entered. -/
def dedupLookup (work : Nat) (falsePositive : Bool) (f : MediaFacts) (s : State) : State :=
  match workAt work s with
  | none => s
  | some w =>
    match w.fp with
    | none => s
    | some fp =>
      if w.decision ≠ .undecided ∨ decisionWaits w s = true then s
      else
        let q := harrowQuadrant w.harrow
        let key := hotKey w.domain fp
        let hot := winnowHot key s
        let entry := indexFind w.domain fp s
        let positive := s.ingest.filter.contains key || falsePositive
        match hot.1 with
        | some page =>
          match entry with
          | some e =>
            if e.page = page then
              let (ok, s1) := confirmHit w e.entry f (countIngest q (fun c => { c with hitsWinnow := bump c.hitsWinnow }) hot.2)
              if ok then applyHit w e.entry s1 else decideMiss w true s1
            else decideMiss w true hot.2
          | none => decideMiss w false hot.2
        | none =>
          if !positive then decideMiss w false hot.2
          else
            match entry with
            | some e =>
              let s1 := winnowInsert 0 key e.page (countIngest q (fun c => { c with hitsFilterPage := bump c.hitsFilterPage }) hot.2)
              let (ok, s2) := confirmHit w e.entry f s1
              if ok then applyHit w e.entry s2 else decideMiss w true s2
            | none => decideMiss w false (countIngest q (fun c => { c with filterFalsePos := bump c.filterFalsePos }) hot.2)

/-! ## Commit (R79, R82-R84, R124) -/

/-- A compressor in service, of the harrow if it has one, else of the lowest harrow that has (R165). -/
def anyCompressor (h : Nat) (s : State) : Option (Nat × Nat) :=
  ((h :: List.range 32).flatMap (fun x => [(x, 0), (x, 1), (x, 2)])).find? (fun p => compressorUsable p.1 p.2 s)

/-- Finishes the compression of a chunk as real work (Table 3-6, R78). -/
def finishWork (w : ChunkWork) (s : State) : State :=
  if w.stored.isSome then s
  else
    let s1 := if w.stream.isSome then s
      else match anyCompressor w.harrow s with
        | some (h, e) => voxcaCompress h e w.id none s
        | none => voxcaCompress w.harrow 0 w.id none s
    voxcaVerify w.id s1

/-- The record of a finished chunk, encrypted under its key epoch (R77, R198, R271). -/
def buildRecord (w : ChunkWork) (key : Bytes) : Bytes :=
  let (fmt, payload) := w.stored.getD (0, w.plain)
  let fp := w.fp.getD []
  let r := gcmEncrypt key (chunkIv w.chunkId w.gen w.keyEpoch) (chunkAad w.domain fmt w.plain.length fp) payload
  chunkRecord fmt w.domain w.chunkId w.gen w.keyEpoch w.plain.length fp r.1 r.2

/-- The epoch commits: its tickets and buffers become real (R124). -/
def commitEpoch (e : EpochRef) (s : State) : State :=
  match epochEntry e s with
  | none => s
  | some x =>
    if x.state ≠ .opened then s
    else
      let s1 := modifyEpoch e (fun y => { y with state := .committed }) s
      let s2 := modifyHarrow e.harrow (fun h => { h with commits := bump h.commits, windowDecided := h.windowDecided + 1 }) s1
      releaseEpoch e (mapWaiters (fun ws => mapIf (fun w => w.epoch == some e) (fun w => { w with epoch := none }) ws) (clearProv x.handles s2))

/-- The work on a chunk stops because its domain is locked: provisional work is squashed, real work gives its chunk ID back; it starts again
under the domain's current epoch once the key is to be had (R181). -/
def stopWork (w : ChunkWork) (s : State) : State :=
  let s1 := match w.epoch with
    | some e => countIngest (harrowQuadrant w.harrow) (fun c => { c with runAheadSquash := bump c.runAheadSquash }) (squashEpoch e s)
    | none => modifyHarrow w.harrow (fun h => { h with idBlock := w.chunkId :: h.idBlock }) s
  modifyWork w.id (fun x => { x with epoch := none, chunkId := 0, gen := 0, keyEpoch := 0, stream := none }) s1

/-- A chunk that was stopped takes the epoch that its domain now has (R181). -/
def withEpoch (w : ChunkWork) (s : State) : ChunkWork :=
  if w.keyEpoch = 0 then { w with keyEpoch := (domainNow w.domain s).2 } else w

/-- The chunk's record, encrypted on the complex of its harrow's quadrant or the next (R121, R174); none where the key or a complex is not
to be had. -/
def encryptChunk (w : ChunkWork) (s : State) : Option Bytes × State :=
  match needKey w.domain w.keyEpoch true s with
  | (.locked, s1) => (none, stopWork w s1)
  | (.wait, s1) => (none, s1)
  | (.key n key, s1) =>
    match cipherRun (harrowQuadrant w.harrow) false .gcmEncrypt n 0 s1 with
    | (none, s2) => (none, s2)
    | (some (_, c), s2) => (some (buildRecord w key), countReleased c ((w.stored.map (fun x => x.2.length)).getD 0) s2)

/-- What the commit of a chunk counts: a raw one, and one that ran ahead, whose epoch commits with it (R79, R89). -/
def countCommit (w : ChunkWork) (s : State) : State :=
  let q := harrowQuadrant w.harrow
  let s1 := if (w.stored.map (·.1)) = some 0 then countIngest q (fun c => { c with rawStored := bump c.rawStored }) s else s
  match w.epoch with
  | some e => countIngest q (fun c => { c with runAheadCommit := bump c.runAheadCommit }) (commitEpoch e s1)
  | none => s1

/-- Appends the record of a chunk decided a miss to its bale, and journals the chunk with its map entry (R79, R82). A chunk that makes no
index entry carries zeros for its fingerprint (R76; DESIGN CHOICE 138). -/
def storeChunk (w : ChunkWork) (bytes : Bytes) (s : State) : State :=
  let q := targetQuadrant w.target s
  match appendRecord 0 q none none bytes w.chunkId w.gen w.domain w.keyEpoch s with
  | (none, s1) => s1
  | (some l, s1) =>
    let entry := mapEntry w.chunkId w.gen
    let (j, m, s2) := place q (.chunk w.target entry l (if w.noIndex then zeros 32 else w.fp.getD [])) s1
    dropWork w.id (countCommit w (endHold w.target (markDone w.target w.records entry j m s2)))

/-- The commit of a chunk decided a miss (Table 3-6, R79): nothing where newer records have superseded it (R71); its compression is finished
as real work if need be, and it is encrypted and stored. -/
def commitMiss (w0 : ChunkWork) (s : State) : State :=
  if superseded w0 s then squashWork w0 s
  else
    let s1 := finishWork w0 (if w0.chunkId = 0 then workReserve w0 s else s)
    match (workAt w0.id s1).map (fun w => withEpoch w s1) with
    | none => s1
    | some w =>
      if w.chunkId = 0 ∨ w.stored.isNone = true then s1
      else
        match encryptChunk w s1 with
        | (none, s2) => s2
        | (some bytes, s2) => storeChunk w bytes s2

end Sys2Proof.Machine
end

