-- ==== Sys2Proof/Machine/Ports.lean ====
section
/-! DEFINITION. The queue pairs as far as no service is concerned: neighbours, new contexts, landing zones, congestion
control, closing (R334, R346, R352-R361). -/

namespace Sys2Proof.Machine

/-! ## Neighbours and new contexts (R334, R346) -/

/-- Enters a neighbour: the newest of an address replaces the earlier, and past 4,096 the oldest entry goes (R334;
DESIGN CHOICE 17). -/
def learnNeighbour (l addr mac : Nat) (s : State) : State :=
  let n : Neighbour := { lport := l, address := addr, mac := mac }
  let keep := s.ports.neighbours.filter (fun x => !(x.lport == l && x.address == addr))
  let room := if keep.length < 4096 then keep else keep.drop 1
  pumpAll (modifyPorts (fun p => { p with neighbours := room ++ [n] }) s)

/-- The home harrow of a new connection: of those not parked, the one with the fewest CONNECTED contexts, lowest number first (R348). -/
def chooseHome (s : State) : Nat :=
  let load := fun (h : Nat) => (s.ports.qps.filter (fun c => c.state == .connected && c.home == h)).length
  let open' := (List.range 32).filter (fun h => ((s.tines.harrows[h]?).map (fun x => x.park == .running)).getD false)
  open'.foldl (fun best h => if load h < load best then h else best) (open'.headD 0)

/-- The index that has been FREE longest: one never used, lowest first (DESIGN CHOICE 18), then the one freed earliest (R346). -/
def nextQp (s : State) : Option Nat :=
  if s.ports.freshQp < 1048576 then some s.ports.freshQp else s.ports.freedQps.head?

/-- The path MTU of a queue pair (R340). -/
def pathMtu (l peerMtu : Nat) (v4 : Bool) (s : State) : Nat :=
  let fits := fun m => decide (m ≤ peerMtu) && decide (m + (if v4 then 60 else 80) ≤ paramNat 0x0E02 l s)
  ([4096, 2048, 1024, 512].find? fits).getD 256

/-- Takes a context: its GEN advances, its home harrow and a random PSN are chosen (R340, R346, R347). -/
def allocQp (v : Service) (active : Bool) (l remoteAddr gid peerMtu : Nat) (s : State) : Option (Nat × State) :=
  match nextQp s with
  | none => none
  | some q =>
    let gen := lookupD q s.ports.gens 0 % 15 + 1
    let (psn, s1) := draw 3 s
    let c : QpCtx :=
      { index := q, gen := gen, state := .connecting, service := v, active := active, lport := l, remoteQpn := 0,
        remoteAddr := remoteAddr, gid := gid, remoteId := 0, pmtu := pathMtu l peerMtu (isIpv4 remoteAddr) s, cmTimeout := 0,
        resends := 0, sentPriv := [], home := chooseHome s, closing := false, epsn := 0, msn := 0, inbound := none, naked := false,
        unacked := 0, posted := 0, received := [], owed := 0, bound := none, abandoned := false, npsn := leNat psn, sent := [], waiting := [],
        retries := 0, rnrs := 0, rnrWait := false, sinceAck := 0, rate := portRate l s, srtt := 0, lastCut := none, lastCnp := none,
        cnpSent := none }
    let fresh := decide (s.ports.freshQp < 1048576)
    some (q, modifyPorts (fun p => { p with
      qps := p.qps ++ [c], gens := insertAt q gen p.gens, freshQp := if fresh then p.freshQp + 1 else p.freshQp,
      freedQps := if fresh then p.freedQps else p.freedQps.drop 1 }) s1)

/-- The Winnow key of a queue pair's steering entry (R141, table 1). -/
def steeringKey (c : QpCtx) : Nat := qpnOf c + c.lport * 2 ^ 24 + 2 ^ 94

/-- A queue pair is CONNECTED: its steering entry is inserted and its context cached (Table 14-6). -/
def qpConnect (q : Nat) (s : State) : State :=
  let s1 := modifyQp q (fun c => { c with state := .connected }) s
  match qpAt q s1 with
  | none => s1
  | some c => (cacheContext q (winnowInsert 1 (steeringKey c) c.home s1)).2

/-! ## Landing zones (R352-R357) -/

/-- A zone record. -/
def zoneAt (z : Nat) (s : State) : Option Zone := s.ports.zones.find? (fun x => x.index == z)

/-- Changes a zone record. -/
def modifyZone (z : Nat) (f : Zone → Zone) (s : State) : State :=
  modifyPorts (fun p => { p with zones := mapIf (fun x => x.index == z) f p.zones }) s

/-- The remote key of a zone (Table 14-8). -/
def zoneKey (z : Zone) : Nat := z.check * 2 ^ 24 + z.index * 2 ^ 8 + z.gen

/-- The Winnow key of a zone's entry. -/
def zoneWinnowKey (z : Zone) (s : State) : Nat := zoneKey z + qpnAt z.qp s * 2 ^ 32 + 2 * 2 ^ 94

/-- The next record to grant: the one FREE longest. -/
def nextZone (s : State) : Option Nat :=
  if s.ports.freshZone < 65536 then some s.ports.freshZone else s.ports.freedZones.head?

/-- Grants a zone on a queue pair over Granary buffers (R352, R357, R398). -/
def grantZone (q len : Nat) (handles : List Nat) (s : State) : Option (Nat × State) :=
  match nextZone s with
  | none => none
  | some z =>
    let old := zoneAt z s
    let gen := (old.map (·.gen)).getD 0
    let s0 := if 0xF0 ≤ gen ∧ s.ports.lzWarned = false then
        raiseAttn bitHealth (raiseEvent 0x0108 0 0 (modifyPorts (fun p => { p with lzWarned := true }) s)) else s
    let (c, s1) := draw 1 s0
    let x : Zone := { index := z, state := .granted, gen := gen, check := leNat c, qp := q, len := len, inFlight := 0, handles := handles }
    let fresh := decide (s.ports.freshZone < 65536)
    let s2 := modifyPorts (fun p => { p with
      zones := (p.zones.filter (fun y => y.index != z)) ++ [x], freshZone := if fresh then p.freshZone + 1 else p.freshZone,
      freedZones := if fresh then p.freedZones else p.freedZones.drop 1, lzGrants := bump p.lzGrants }) s1
    some (z, winnowInsert 1 (zoneWinnowKey x s2) z s2)

/-- Begins the revocation of a zone: REVOKING, and its Winnow entry deleted (Table 14-9 steps 1 and 2). -/
def revokeZone (z : Nat) (s : State) : State :=
  match zoneAt z s with
  | none => s
  | some x =>
    if x.state ≠ .granted then s
    else (winnowDelete 1 0 (zoneWinnowKey x s) (modifyZone z (fun y => { y with state := .revoking }) s)).2

/-- Revokes every zone of a queue pair (R355). -/
def revokeZones (q : Nat) (s : State) : State :=
  ((s.ports.zones.filter (fun z => z.qp == q && z.state == .granted)).map (·.index)).foldl (fun st z => revokeZone z st) s

/-- Step 4 of Table 14-9: nothing is in flight, GEN advances, CHECK is cleared; FREE, or QUARANTINED where GEN passed 0xFF. The zone
as it was, where it is done. -/
def zoneDone (z : Nat) (s : State) : Option (Zone × State) :=
  match zoneAt z s with
  | none => none
  | some x =>
    if x.state ≠ .revoking ∨ x.inFlight ≠ 0 then none
    else
      let gen := (x.gen + 1) % 256
      let bad := decide (gen = 0)
      let f := fun (y : Zone) => { y with state := if bad then .quarantined else .free, gen := gen, check := 0, handles := [], len := 0 }
      let s1 := modifyZone z f s
      if bad = false then some (x, modifyPorts (fun p => { p with freedZones := p.freedZones ++ [z] }) s1)
      else
        let n := s.ports.lzQuarantined + 1
        let s2 := modifyPorts (fun p => { p with lzQuarantined := n }) s1
        if 655 < n ∧ s.ports.lzTold = false then
          some (x, raiseAttn bitHealth (raiseEvent 0x0108 n 0 (modifyPorts (fun p => { p with lzTold := true }) s2)))
        else some (x, s2)

/-! ## Congestion control (R359-R361) -/

/-- A rate within CC_MIN_RATE and the port's rate. -/
def clampRate (c : QpCtx) (r : Nat) (s : State) : Nat := min (max r (paramNat 0x0E22 0 s)) (max (portRate c.lport s) (paramNat 0x0E22 0 s))

/-- `on_sample` of R360, with the smoothed RTT of R359; `sample` in ns. -/
def onSample (q sample : Nat) (s : State) : State :=
  match qpAt q s with
  | none => s
  | some c =>
    let t := 1000 * paramNat 0x0E1F 0 s
    let s1 := modifyQp q (fun x => { x with srtt := Config.smoothRtt x.srtt sample }) s
    if t < sample then
      let held := match c.lastCut with
        | some k => decide (40 * (s.time.ticks - k) < t)
        | none => false
      if held then s1
      else
        let r := c.rate - c.rate * paramNat 0x0E20 0 s * (sample - t) / (sample * 256)
        modifyQp q (fun x => { x with rate := clampRate c r s, lastCut := some s.time.ticks }) s1
    else modifyQp q (fun x => { x with rate := clampRate c (c.rate + paramNat 0x0E21 0 s) s }) s1

/-- `on_cnp` of R360. -/
def onCnp (q : Nat) (s : State) : State :=
  match qpAt q s with
  | none => s
  | some c =>
    let s1 := countPort c.lport (fun k => { k with cnpReceived := bump k.cnpReceived }) s
    let held := match c.lastCnp with
      | some k => decide (s.time.ticks < k + usTicks (paramNat 0x0E26 0 s))
      | none => false
    if paramNat 0x0E24 0 s = 0 ∨ held = true then s1
    else
      let r := max (paramNat 0x0E22 0 s) (c.rate - c.rate * paramNat 0x0E25 0 s / 256)
      modifyQp q (fun x => { x with rate := r, lastCnp := some s.time.ticks }) s1

/-- A marked packet draws a CNP, at most one per CNP_INTERVAL (R361). -/
def answerMark (q : Nat) (s : State) : State :=
  match qpAt q s with
  | none => s
  | some c =>
    let held := match c.cnpSent with
      | some k => decide (s.time.ticks < k + usTicks (paramNat 0x0E26 0 s))
      | none => false
    if held then s
    else
      sendResponse c 0x81 0 (zeros 16)
        (countPort c.lport (fun k => { k with cnpSent := bump k.cnpSent })
          (modifyQp q (fun x => { x with cnpSent := some s.time.ticks }) s))

/-! ## Closing (Table 14-6) -/

/-- Sends a DREQ. -/
def sendDreq (c : QpCtx) (s : State) : State :=
  transmit c.lport (paramNat 0x0E0F 0 s) (qpPath c s) (.cmDreq (qpnOf c) c.remoteId c.remoteQpn) s

/-- What every end of a connection drops: zones are revoked, nothing more is sent, and what waits for the context goes. -/
def qpStop (q : Nat) (st : CtxState) (s : State) : State :=
  revokeZones q (modifyQp q (fun c => { c with state := st, sent := [], waiting := [], received := [], inbound := none, posted := 0, owed := 0,
                                                rnrWait := false }) s)

/-- Deletes a context's steering entry. -/
def dropSteering (c : QpCtx) (s : State) : State := (winnowDelete 1 0 (steeringKey c) s).2

/-- The service, or the head, closes a CONNECTED queue pair: DREQ is sent, and the context is in TIMEWAIT with its DREP awaited
(Table 14-6, R346). -/
def qpClose (q : Nat) (s : State) : State :=
  match qpAt q s with
  | none => s
  | some c =>
    if c.state ≠ .connected then s
    else dropSteering c (sendDreq c (modifyQp q (fun x => { x with closing := true }) (qpStop q .timewait s)))

/-- A queue pair enters ERROR: it counts, zones are revoked, DREQ is sent (Table 14-6). -/
def qpFail (q : Nat) (s : State) : State :=
  match qpAt q s with
  | none => s
  | some c =>
    if c.state ≠ .connected then s
    else
      let s1 := countPort c.lport (fun k => { k with qpErrors := bump k.qpErrors }) (qpStop q .error s)
      sendDreq c (modifyQp q (fun x => { x with closing := true }) s1)

/-- QP_REUSE_DELAY has elapsed: the context is FREE (Table 14-6). -/
def qpFree (q : Nat) (s : State) : State :=
  match qpAt q s with
  | none => s
  | some c =>
    if c.state ≠ .timewait then s
    else modifyPorts (fun p => { p with
      qps := p.qps.filter (fun x => x.index != q), freedQps := p.freedQps ++ [q], cached := p.cached.map (fun l => l.erase q) }) s

end Sys2Proof.Machine
end

