-- ==== Sys2Proof/Machine/Packets.lean ====
section
/-! DEFINITION. Received RoCE packets (R333, R335-R343, R347-R354, R359-R361): acceptance, the context fetch, requests, responses,
resends. What a service must then do is answered as a list. -/

namespace Sys2Proof.Machine

/-- What a packet brings to a service. -/
inductive QpDone where
  /-- an RDMA READ has completed with its data -/
  | read (qp : Nat) (use : ReadUse) (data : Bytes)
  /-- a SEND with this tag has been acknowledged -/
  | acked (qp tag : Nat)
  /-- the queue pair is CONNECTED by its first packet -/
  | connected (qp : Nat)
  /-- the queue pair has entered ERROR -/
  | lost (qp : Nat)
  deriving DecidableEq, Repr

/-! ## Responder (R341, R343, R353, R358) -/

/-- Acknowledges everything received in order. -/
def sendAck (q : Nat) (s : State) : State :=
  match qpAt q s with
  | none => s
  | some c =>
    sendResponse c 0x11 ((c.epsn + 2 ^ 24 - 1) % 2 ^ 24) (beBytes 1 0x1F ++ beBytes 3 c.msn)
      (modifyQp q (fun x => { x with unacked := 0 }) s)

/-- Sends a NAK or RNR NAK with an AETH syndrome, for the expected PSN. -/
def sendNak (q syndrome : Nat) (s : State) : State :=
  match qpAt q s with
  | none => s
  | some c =>
    let f := fun (k : PortCounters) =>
      if syndrome / 32 = 1 then { k with rnrNakSent := bump k.rnrNakSent } else { k with nakSent := bump k.nakSent }
    sendResponse c 0x11 c.epsn (beBytes 1 syndrome ++ beBytes 3 c.msn) (countPort c.lport f s)

/-- AETH syndromes: 0x60 PSN Sequence Error, 0x61 Invalid Request, 0x62 Remote Access Error. -/
def nakInvalid (q : Nat) (s : State) : State := sendNak q 0x61 s

/-- NAK Remote Access Error (R353). -/
def nakAccess (q : Nat) (s : State) : State :=
  sendNak q 0x62 (modifyPorts (fun p => { p with lzAccessNaks := bump p.lzAccessNaks }) s)

/-- Takes a packet in order: the expected PSN advances, and the ACK goes now where AckReq is set or ACK_COALESCE packets wait (R341). -/
def takePacket (q : Nat) (ackReq last : Bool) (s : State) : State :=
  let s1 := modifyQp q (fun c => { c with epsn := (c.epsn + 1) % 2 ^ 24, naked := false, unacked := c.unacked + 1,
                                           msn := if last then (c.msn + 1) % 2 ^ 24 else c.msn }) s
  let due := ((qpAt q s1).map (fun c => decide (paramNat 0x0E1C 0 s1 ≤ c.unacked))).getD false
  if ackReq = true ∨ due = true then sendAck q s1 else s1

/-- First or Only, and Last or Only. -/
def posFirst (p : MsgPos) : Bool := p == .first || p == .only

/-- Whether a packet ends its message. -/
def posLast (p : MsgPos) : Bool := p == .last || p == .only

/-- Bytes that a posted receive buffer takes; none where the manual gives the service no size (R373). -/
def bufferRoom (q : Nat) (s : State) : Option Nat :=
  (s.nvme.queues.find? (fun x => x.qp == q)).map (fun x => if x.qid = 0 then 64 + 4096 else 516 * 16)

/-- A SEND packet in order: into a posted buffer, or RNR NAK (R343). A packet out of place in its message, or a message longer than
the buffer, draws NAK Invalid Request. -/
def takeSend (q : Nat) (h : RoceHead) (pos : MsgPos) (payload : Bytes) (s : State) : State :=
  match qpAt q s with
  | none => s
  | some c =>
    let whole := (c.inbound.getD []) ++ payload
    let fits := match bufferRoom q s with
      | none => true
      | some n => decide (whole.length ≤ n)
    if posFirst pos == c.inbound.isSome || !fits then nakInvalid q s
    else if posFirst pos = true ∧ c.posted = 0 then sendNak q (0x20 + paramNat 0x0E1B 0 s) s
    else
      let s1 := if posFirst pos then modifyQp q (fun x => { x with posted := x.posted - 1 }) s else s
      let f := fun (x : QpCtx) =>
        if posLast pos then { x with inbound := none, received := x.received ++ [whole] } else { x with inbound := some whole }
      takePacket q h.ackReq (posLast pos) (modifyQp q f s1)

/-- A SEND with Invalidate (R358): the zone it names on this queue pair is revoked, and it is delivered as a SEND. -/
def takeSendInvalidate (q : Nat) (h : RoceHead) (pos : MsgPos) (key : Nat) (payload : Bytes) (s : State) : State :=
  let named := s.ports.zones.find? (fun z => z.state == .granted && z.qp == q && zoneKey z == key % 2 ^ 32)
  match named with
  | none => nakInvalid q s
  | some z =>
    let before := ((qpAt q s).map (·.epsn))
    let s1 := takeSend q h pos payload s
    if ((qpAt q s1).map (·.epsn)) = before then s1 else revokeZone z.index s1

/-- Where a byte of a zone rests: the handle and the offset in its buffer. A zone is a run of 4 MiB buffers and one tail (R443). -/
def zoneWrite (z : Zone) (off : Nat) (bs : Bytes) (s : State) : State :=
  (List.range z.handles.length).foldl (fun st i =>
    let base := 4194304 * i
    let top := base + 4194304
    let lo := max off base
    let hi := min (off + bs.length) top
    if lo < hi then bufferPut (z.handles.getD i 0) (lo - base) (slice bs (lo - off) (hi - lo)) st else st) s

/-- Reads a zone's bytes. -/
def zoneRead (z : Zone) (off len : Nat) (s : State) : Bytes × State :=
  (List.range z.handles.length).foldl (fun (acc : Bytes × State) i =>
    let base := 4194304 * i
    let lo := max off base
    let hi := min (off + len) (base + 4194304)
    if lo < hi then
      let (b, st) := bufferRead (z.handles.getD i 0) (lo - base) (hi - lo) acc.2
      (acc.1 ++ b, st)
    else acc) ([], s)

/-- The key check of R353: the record GRANTED, held by this queue pair, CHECK and GEN equal, the range within the zone. -/
def zoneAccepts (q : Nat) (w : WriteHeader) (s : State) : Option Zone :=
  s.ports.zones.find? (fun z => z.state == .granted && z.qp == q && zoneKey z == w.key && decide (w.offset + w.length ≤ z.len))

/-- The landing of a bound write's data; its Last or Only packet lowers the in-flight count (R353). -/
def landWrite (q : Nat) (h : RoceHead) (z : Zone) (first off left : Nat) (last : Bool) (payload : Bytes) (s : State) : State :=
  let n := min payload.length left
  let s1 := zoneWrite z off (payload.take n) s
  let next := if last then none else some (z.index, first, off + n, left - n)
  let s2 := modifyQp q (fun c => { c with bound := next }) s1
  let s3 := if last then modifyZone z.index (fun x => { x with inFlight := x.inFlight - 1 }) s2 else s2
  takePacket q h.ackReq last s3

/-- An RDMA WRITE packet in order (R353, R354). -/
def takeWrite (q : Nat) (h : RoceHead) (pos : MsgPos) (w : Option WriteHeader) (payload : Bytes) (s : State) : State :=
  match qpAt q s with
  | none => s
  | some c =>
    if posFirst pos = true ∧ c.bound.isSome = true then nakInvalid q s
    else if posFirst pos then
      match w.bind (fun x => (zoneAccepts q x s).map (fun z => (x, z))) with
      | none => nakAccess q s
      | some (x, z) =>
        let s1 := modifyQp q (fun y => { y with abandoned := false })
          (modifyZone z.index (fun y => { y with inFlight := y.inFlight + 1 }) s)
        landWrite q h z x.offset x.offset x.length (posLast pos) payload s1
    else
      match c.bound.bind (fun b => (zoneAt b.1 s).map (fun z => (b, z))) with
      | some (b, z) => landWrite q h z b.2.1 b.2.2.1 b.2.2.2 (posLast pos) payload s
      | none => if c.abandoned then nakAccess q s else nakInvalid q s

/-- A request packet: executed in order, acknowledged again where it is a duplicate, NAKed once where it is beyond the expected PSN
(R341). -/
def takeRequest (q : Nat) (h : RoceHead) (b : RoceBody) (s : State) : State :=
  match qpAt q s with
  | none => s
  | some c =>
    let ahead := psnSub h.psn c.epsn
    if ahead = 0 then
      match b with
      | .send pos payload => takeSend q h pos payload s
      | .sendInvalidate pos key payload =>
        if c.service = .sheaf then takeSendInvalidate q h pos key payload s else nakInvalid q s
      | .write pos w payload => takeWrite q h pos w payload s
      | _ => nakInvalid q s
    else if ahead < 2 ^ 23 then
      if c.naked then s else sendNak q 0x60 (modifyQp q (fun x => { x with naked := true }) s)
    else sendAck q s

/-! ## Requester (R342, R359) -/

/-- Packets of a context covered by an acknowledgement of a PSN: up to it, and no further than an unanswered READ. -/
def coveredBy (psn : Nat) : List OutPacket → List OutPacket
  | [] => []
  | p :: rest => if p.read.isNone ∧ psnSub psn p.psn < 2 ^ 23 then p :: coveredBy psn rest else []

/-- The RTT samples of an acknowledgement: of each packet with AckReq that it is the first to cover, unless it has been resent (R359). -/
def rttSamples (ps : List OutPacket) (now : Nat) : List Nat :=
  (ps.filter (fun p => p.ackReq && !p.resent)).map (fun p => 40 * (now - p.sentAt))

/-- Retires acknowledged packets: progress resets the retry counts. The tags whose SEND is acknowledged. -/
def retire (q psn : Nat) (s : State) : List QpDone × State :=
  match qpAt q s with
  | none => ([], s)
  | some c =>
    let gone := coveredBy psn c.sent
    let s0 := (rttSamples gone s.time.ticks).foldl (fun st x => onSample q x st) s
    if gone = [] then ([], s0)
    else
      ((gone.filter (fun p => p.tag != 0)).map (fun p => QpDone.acked q p.tag),
        modifyQp q (fun x => { x with sent := x.sent.drop gone.length, retries := 0, rnrs := 0 }) s0)

/-- A READ Request as it is sent again: for what has not yet come. -/
def againFrom (pmtu : Nat) (p : OutPacket) : OutPacket :=
  match p.read with
  | none => { p with resent := true }
  | some (a, k, n, u) =>
    let done := p.got.length
    let m := done / pmtu
    { p with psn := (p.psn + m) % 2 ^ 24, span := max 1 (p.span - m), ext := rethBytes (a + done) k (n - done),
             resent := true, read := some (a, k, n, u) }

/-- Resends from the oldest unacknowledged PSN, go-back-N (R342). -/
def resendAll (q : Nat) (s : State) : State :=
  match qpAt q s with
  | none => s
  | some c =>
    let s1 := modifyQp q (fun x => { x with sent := x.sent.map (fun p => { p with resent := true }), rnrWait := false }) s
    let s2 := countPort c.lport (fun k => { k with retransmits := bump k.retransmits c.sent.length }) s1
    qpPump q c.waiting.length (c.sent.foldl (fun st p => sendPacket c (againFrom c.pmtu p) st) s2)

/-- A resend for a timeout or a sequence error; after RETRY_COUNT without progress the queue pair enters ERROR (R342). -/
def retryOrFail (q : Nat) (s : State) : List QpDone × State :=
  match qpAt q s with
  | none => ([], s)
  | some c =>
    if c.state ≠ .connected ∨ c.sent = [] then ([], s)
    else if paramNat 0x0E19 0 s ≤ c.retries then ([.lost q], qpFail q s)
    else ([], resendAll q (modifyQp q (fun x => { x with retries := x.retries + 1 }) s))

/-- An ACK or NAK (R342). -/
def takeAck (q : Nat) (h : RoceHead) (k : AckKind) (s : State) : List QpDone × State :=
  let pump := fun (r : List QpDone × State) => (r.1, qpPump q (((qpAt q r.2).map (fun c => c.waiting.length)).getD 0) r.2)
  match k with
  | .ack => pump (retire q h.psn s)
  | .sequenceError =>
    let (d, s1) := retire q ((h.psn + 2 ^ 24 - 1) % 2 ^ 24) s
    let (e, s2) := retryOrFail q s1
    (d ++ e, s2)
  | .rnr _ =>
    let (d, s1) := retire q ((h.psn + 2 ^ 24 - 1) % 2 ^ 24) s
    match qpAt q s1 with
    | none => (d, s1)
    | some c =>
      if c.state ≠ .connected ∨ c.sent = [] then (d, s1)
      else if paramNat 0x0E1A 0 s ≤ c.rnrs then (d ++ [.lost q], qpFail q s1)
      else (d, modifyQp q (fun x => { x with rnrs := x.rnrs + 1, rnrWait := true }) s1)
  | _ =>
    let (d, s1) := retire q ((h.psn + 2 ^ 24 - 1) % 2 ^ 24) s
    if qpConnected q s1 then (d ++ [.lost q], qpFail q s1) else (d, s1)

/-- A READ response packet: it acknowledges what came before it, and in order it adds to its READ; the Last completes it (R359). -/
def takeReadResponse (q : Nat) (h : RoceHead) (pos : MsgPos) (payload : Bytes) (s : State) : List QpDone × State :=
  let (d, s1) := retire q ((h.psn + 2 ^ 24 - 1) % 2 ^ 24) s
  match qpAt q s1 with
  | none => (d, s1)
  | some c =>
    match c.sent with
    | [] => (d, s1)
    | p :: rest =>
      match p.read with
      | none => (d, s1)
      | some (_, _, n, u) =>
        let expect := (p.psn + p.got.length / max 1 c.pmtu) % 2 ^ 24
        if h.psn ≠ expect then (d, s1)
        else
          let s2 := if p.got = [] ∧ p.resent = false then onSample q (40 * (s.time.ticks - p.sentAt)) s1 else s1
          let got := (p.got ++ payload).take n
          if posLast pos = true ∨ n ≤ got.length then
            let s3 := modifyQp q (fun x => { x with sent := rest, retries := 0, rnrs := 0 }) s2
            (d ++ [.read q u (padTo n got)], qpPump q c.waiting.length s3)
          else
            (d, modifyQp q (fun x => { x with sent := { p with got := got } :: rest, retries := 0, rnrs := 0 }) s2)

/-! ## From the port to the context (R333, R339, R347-R351) -/

/-- Processes a packet in its context. The first valid packet of a CONNECTING queue pair counts as its RTU (R344). -/
def inContext (q : Nat) (h : RoceHead) (b : RoceBody) (s : State) : List QpDone × State :=
  match qpAt q s with
  | none => ([], s)
  | some c =>
    let joins := c.state == .connecting && !c.active
    let s1 := if joins then qpConnect q s else s
    let s2 := if h.ce then answerMark q s1 else s1
    if ¬ qpConnected q s2 then ([], s2)
    else
      let (d, s3) := match b with
        | .ack k => takeAck q h k s2
        | .readResponse pos payload => takeReadResponse q h pos payload s2
        | .cnp => ([], onCnp q s2)
        | _ => ([], takeRequest q h b s2)
      (if joins then .connected q :: d else d, s3)

/-- Whether a packet is one that an RNR NAK may answer with no context: a First or Only of a SEND or RDMA WRITE (R351). -/
def beginsMessage (b : RoceBody) : Bool :=
  match b with
  | .send p _ => posFirst p
  | .write p _ _ => posFirst p
  | _ => false

/-- Counts MHB_FULL. -/
def mhbFull (d : Nat) (s : State) : State := countCtx d (fun k => { k with mhbFull := bump k.mhbFull, window := k.window + 1 }) s

/-- A packet whose context is not cached: an entry of the miss holding buffer, else a NAK order, else nothing (R350, R351). -/
def missPacket (c : QpCtx) (h : RoceHead) (b : RoceBody) (s : State) : State :=
  let d := qpQuadrant c
  let m : MissedPacket := { index := c.index, head := h, body := b }
  let held := s.ports.missed.getD d []
  let s1 := if held.any (fun x => x.index == c.index) then s else countCtx d (fun k => { k with misses := bump k.misses }) s
  if held.length < 4096 then modifyPorts (fun p => { p with missed := p.missed.set d (held ++ [m]) }) s1
  else if (s.ports.nakOrders.getD d []).length < 1024 then
    mhbFull d (modifyPorts (fun p => { p with nakOrders := p.nakOrders.set d (p.nakOrders.getD d [] ++ [m]) }) s1)
  else mhbFull d s1

/-- A packet of an accepted frame reaches its context: stale ones are dropped and counted, QPN 0 is dropped, the steering table is
searched (R347, R348); the context is cached, or must be fetched. -/
def steer (h : RoceHead) (b : RoceBody) (s : State) : List QpDone × State :=
  if h.qpn % 2 ^ 20 < 2 ∧ h.qpn / 2 ^ 20 = 0 then ([], s)
  else
    match qpAt (h.qpn % 2 ^ 20) s with
    | none => ([], countPort h.lport (fun k => { k with staleQpn := bump k.staleQpn }) s)
    | some c =>
      if c.gen ≠ h.qpn / 2 ^ 20 ∨ c.state = .timewait then
        ([], countPort h.lport (fun k => { k with staleQpn := bump k.staleQpn }) s)
      else
        let s1 := (winnowSearch 1 0 (steeringKey c) false 0 s).2
        let waits := (s1.ports.missed.getD (qpQuadrant c) []).any (fun m => m.index == c.index)
        if isCached c s1 = true ∧ waits = false then
          inContext c.index h b (cacheContext c.index (countCtx (qpQuadrant c) (fun k => { k with hits := bump k.hits }) s1)).2
        else ([], missPacket c h b s1)

/-- Whether a frame's VLAN tag matches PORT_VLAN: none where that is 0 (R333). -/
def vlanMatches (l : Nat) (tag : Option (Nat × Nat)) (s : State) : Bool :=
  let vlan := paramNat 0x0E03 l s
  match tag with
  | none => vlan == 0
  | some (v, _) => vlan != 0 && v == vlan

/-- Whether a RoCE v2 packet passes the port: addressed to its MAC address and with its VLAN tag (R333). -/
def portAccepts (h : RoceHead) (s : State) : Bool := h.dest == portMac h.lport && vlanMatches h.lport h.vlan s

/-- A received RoCE packet, from the port on (R333, R335, R336, R339). In DUMP nothing is taken (R346). -/
def receivePacket (h : RoceHead) (b : RoceBody) (s : State) : List QpDone × State :=
  if portUp h.lport s = false ∨ s.boot.mode = .dump then ([], s)
  else
    let s1 := countPort h.lport (fun k => { k with rxBytes := bump k.rxBytes h.wire }) s
    if ¬ portAccepts h s1 then ([], countPort h.lport (fun k => { k with nonRoceDropped := bump k.nonRoceDropped }) s1)
    else
      let prio := rxPriority h s1
      if isLossless h.lport prio s1 = false ∧ rxShare h.lport prio s1 < h.occupancy then
        ([], countPort h.lport (fun k => { k with rxDiscards := bump k.rxDiscards }) s1)
      else
        let s2 := noteOccupancy h.lport prio h.occupancy s1
        if h.intact = false then ([], countPort h.lport (fun k => { k with icrcErrors := bump k.icrcErrors }) s2)
        else
          match b with
          | .other op =>
            if op = 0x03 ∨ op = 0x05 ∨ op = 0x09 ∨ op = 0x0B ∨ (0x12 ≤ op ∧ op ≤ 0x14) then steer h b s2
            else ([], countPort h.lport (fun k => { k with badOpcodes := bump k.badOpcodes }) s2)
          | _ => steer h b s2

/-! ## Contexts and stubs that arrive (R350, R351) -/

/-- Processes held packets in order of arrival. -/
def drainMissed (q : Nat) : List MissedPacket → State → List QpDone × State
  | [], s => ([], s)
  | m :: rest, s =>
    let (d, s1) := inContext q m.head m.body s
    let (e, s2) := drainMissed q rest s1
    (d ++ e, s2)

/-- A fetched context arrives: where a way of its set can be had, it is cached and its packets are processed; else it waits (R350). -/
def contextFetched (q : Nat) (s : State) : List QpDone × State :=
  match qpAt q s with
  | none =>
    ([], modifyPorts (fun p => { p with missed := p.missed.map (fun l => l.filter (fun m => m.index != q)) }) s)
  | some c =>
    let d := qpQuadrant c
    let mine := (s.ports.missed.getD d []).filter (fun m => m.index == q)
    let (ok, s1) := cacheContext q s
    if ok = false ∨ mine = [] then ([], s)
    else
      let s2 := modifyPorts (fun p => { p with missed := p.missed.set d ((p.missed.getD d []).filter (fun m => m.index != q)) }) s1
      drainMissed q mine s2

/-- A reply stub arrives for the oldest NAK order of a quadrant: RNR NAK with the shortest timer, or the packet is dropped (R351). -/
def stubFetched (d : Nat) (s : State) : State :=
  match s.ports.nakOrders.getD d [] with
  | [] => s
  | m :: rest =>
    let s1 := modifyPorts (fun p => { p with nakOrders := p.nakOrders.set d rest }) s
    match qpAt m.index s1 with
    | none => s1
    | some c => if beginsMessage m.body = true ∧ m.head.psn = c.epsn then sendNak m.index 0x21 s1 else s1

end Sys2Proof.Machine
end

