-- ==== Sys2Proof/Machine/ClientCore.lean ====
section
/-! DEFINITION. What NVMe and Sheaf share with the data path: ingest ownership (R61), the delivery of an NVMe Read (R104, R377), the
reply of a Sheaf verb (R395), and the end of an accepted write (R65). -/

namespace Sys2Proof.Machine

/-! ## Ownership -/

/-- The bridges in service that prefer a head; "either" counts for head 0 (R209, Table 13-8). -/
def preferring (h : Nat) (s : State) : List Nat :=
  (List.range 192).filter (fun b =>
    let x := headBridge b s
    x.ident.isSome && decide (x.state < 3) && (x.preferred == h || (x.preferred == 0xFF && h == 0)))

/-- Whether fewer bridges prefer a head than its acres need (R209). -/
def thinHead (h : Nat) (s : State) : Bool :=
  decide ((preferring h s).length < max (s.media.baleK + s.media.baleM) (s.media.metaK + s.media.metaM))

/-- Whether a head takes no bridge, and its preferred ones pass to the other; where both would, head 0 takes all (R209; DESIGN
CHOICE 31). -/
def takesNone (h : Nat) (s : State) : Bool := thinHead h s && (h == 1 || !thinHead (1 - h) s)

/-- Whether this head is the ingest owner of what prefers head `owner`, and of everything where the peer takes no bridge: the sole head owns everything once a take-over is done, and
keeps it through RETURN until it hands it over (R61, R209, Tables 13-6 and 13-9). -/
def ownsIngest (owner : Nat) (s : State) : Bool :=
  match baseMode s with
  | .sole => s.headland.takeover.isNone || owner == s.boot.headId
  | .returning => !s.headland.ret.inbound
  | _ => !takesNone s.boot.headId s && (owner == s.boot.headId || takesNone (1 - s.boot.headId) s)

/-- A namespace by NSID. -/
def nsAt (id : Nat) (s : State) : Option Namespace := s.map.namespaces.find? (fun n => n.id == id)

/-- An object domain. -/
def objdomAt (id : Nat) (s : State) : Option ObjDomain := s.map.objdoms.find? (fun o => o.id == id)

/-- The sequence of the newest Almanac record, where one has been written since an earlier state. -/
def newAlmSeq (before after : State) : Nat := if before.alm.newestSeq < after.alm.newestSeq then after.alm.newestSeq else 0

/-! ## NVMe Read and Compare -/

/-- Starting LBA and number of blocks of an I/O command. -/
def sqeRange (c : Bytes) : Nat × Nat := (fieldAt c 40 8, fieldAt c 48 2 + 1)

/-- Reads a range of a namespace, or of the snapshot it exposes; held grains of the range are composed again (R293, R575). -/
def nsData (n : Namespace) (off len : Nat) (f : MediaFacts) (s : State) : ChunkResult × State :=
  let (src, snap) := n.exposes.getD (n.id, 0)
  let (r, f1, s1) := nsRead src snap off len f s
  let held := s1.ingest.held.filter (fun h => h.1 == src && decide (off / 16384 ≤ h.2.1) && decide (h.2.1 * 16384 < off + len))
  (r, held.foldl (fun st h => composeGrain h.1 h.2.1 (8 * ((h.1 + h.2.1) % 4)) f1 st) s1)

/-- Ends a read or compare that failed, with the sequence of the Almanac record it wrote (R108, R382, R386). -/
def readFailed (qp cid : Nat) (st : Status) (before s : State) : State :=
  let s1 := if st = stMedia then modifyNvme (fun n => { n with mediaErrors := bump n.mediaErrors }) s else s
  nvEnd qp cid 0 0 (nvOfStatus st) (newAlmSeq before s) s1

/-- Resolves an NVMe Read and delivers it: RDMA WRITE of the data, then the completion (R104); read-ahead follows (R106). -/
def nvReadNow (qp cid : Nat) (f : MediaFacts) (s : State) : State :=
  match nvCmd qp cid s with
  | none => s
  | some c =>
    match nsAt (sqeNsid c.capsule) s with
    | none => nvEnd qp cid 0 0 nvBadNamespace 0 s
    | some n =>
      let (lba, blocks) := sqeRange c.capsule
      let b := 2 ^ n.lbaLog2
      match nsData n (lba * b) (blocks * b) f s with
      | (.error st, s1) => readFailed qp cid st s s1
      | (.ok data, s1) =>
        let (addr, _, key) := sqeKeyed c.capsule
        let s2 := qpSend qp [.write addr key data] s1
        let s3 := nvEnd qp cid 0 0 nvOk 0 (modifyNvme (fun v => { v with readBytes := v.readBytes + data.length }) s2)
        let (src, snap) := n.exposes.getD (n.id, 0)
        let first := lba * b / 16384
        grainAhead src snap first ((lba * b + blocks * b + 16383) / 16384 - first) f s3

/-- Resolves an NVMe Compare against the host's data (Table 15-2). -/
def nvCompareNow (qp cid : Nat) (host : Bytes) (f : MediaFacts) (s : State) : State :=
  match nvCmd qp cid s with
  | none => s
  | some c =>
    match nsAt (sqeNsid c.capsule) s with
    | none => nvEnd qp cid 0 0 nvBadNamespace 0 s
    | some n =>
      let (lba, blocks) := sqeRange c.capsule
      let b := 2 ^ n.lbaLog2
      match nsData n (lba * b) (blocks * b) f s with
      | (.error st, s1) => readFailed qp cid st s s1
      | (.ok data, s1) =>
        nvEnd qp cid 0 0 (if data = host then nvOk else nvCompareFail) 0 s1

/-! ## Sheaf replies -/

/-- Changes the Sheaf part. -/
def modifySheaf (f : SheafPart → SheafPart) (s : State) : State := { s with sheaf := f s.sheaf }

/-- Counts of the Sheaf service. -/
def countSheaf (f : SheafCounters → SheafCounters) (s : State) : State := modifySheaf (fun x => { x with counters := f x.counters }) s

/-- VERB of a request. -/
def shVerb (r : Bytes) : Nat := fieldAt r 0 1

/-- FLAGS of a request. -/
def shFlags (r : Bytes) : Nat := fieldAt r 1 1

/-- TAG of a request. -/
def shTag (r : Bytes) : Nat := fieldAt r 2 2

/-- HINT and RETRY_US of a status (R411): HINT 2 where `away`, HINT 1 with 10,000 µs for ST_BUSY. -/
def shHint (st : Status) (away : Bool) : Nat × Nat := if away then (2, 0) else if st = stBusy then (1, 10000) else (0, 0)

/-- A reply (Table 16-5); `result` fills offsets 0x10 to 0x3F. -/
def shReply (verb tag : Nat) (st : Status) (reason : Nat) (away : Bool) (result : Bytes) (s : State) : Bytes :=
  let (hint, us) := shHint st away
  packFields [(1, verb), (1, 0), (2, tag), (2, st.toNat), (2, reason), (1, hint), (1, s.boot.headId), (2, 0), (4, us)]
    ++ padTo 48 (if st.toNat < 2 then result else [])

/-- An outstanding request. -/
def shReq (qp tag : Nat) (s : State) : Option SheafReq := s.sheaf.requests.find? (fun r => r.qp == qp && r.tag == tag)

/-- Sends a reply and posts the receive buffer of its request again: SEND with Invalidate where a GET or LIST asks for it (R392, R395). -/
def shSend (qp : Nat) (request reply : Bytes) (s : State) : State :=
  let asks := (shVerb request == 6 || shVerb request == 9) && bitOf (shFlags request) 1
  qpSend qp [.send reply (if asks then some (fieldAt request 0x34 4) else none) 0] (qpRepost qp s)

/-- Ends an outstanding request with a reply. -/
def shEnd (qp tag : Nat) (reply : Bytes) (s : State) : State :=
  match shReq qp tag s with
  | none => s
  | some r => shSend qp r.bytes reply (modifySheaf (fun x => { x with requests := x.requests.erase r }) s)

/-! ## The end of an accepted write -/

/-- Completes the client of a write, flush or verb that has reached its acknowledgement point: an NVMe Read with FUA is resolved now
(R377); one of which a part is still with the owner waits. -/
def clientDone (ref : ClientRef) (reply : Bytes) (s : State) : State :=
  if s.headland.forwards.any (fun f => f.client == some (ref.qp, ref.id)) then s
  else match nvCmd ref.qp ref.id s with
  | some c =>
    if sqeOpcode c.capsule = 2 then nvReadNow ref.qp ref.id c.facts s
    else nvEnd ref.qp ref.id (leNat reply) 0 nvOk 0 s
  | none => shEnd ref.qp ref.id reply s

end Sys2Proof.Machine
end

