-- ==== Sys2Proof/Machine/Reclaim.lean ====
section
/-! DEFINITION. Reclaim and scrub (R195-R197, R216-R222, R224): victims, copies, relocation, drain and erase. -/

namespace Sys2Proof.Machine

/-! ## Victims (R216-R218) -/


/-- The oldest live epoch of a domain that has more than 48 (R195). -/
def crowdedEpoch (x : Domain) : Option Nat :=
  if (liveEpochs x).length ≤ 48 then none
  else some (((liveEpochs x).map (·.1)).foldl min (2 ^ 32))

/-- Whether R195 favours an acre: it holds chunks of the oldest epoch of a crowded domain. -/
def favoured (a : Acre) (s : State) : Bool :=
  (acreLocs a.num s).any (fun l => match (domainAt l.2.domain s).bind crowdedEpoch with
    | some e => l.2.epoch == e
    | none => false)

/-- The space score of a sealed acre, in units of 2^-32 (R216). -/
def spaceScore (a : Acre) (s : State) : Nat :=
  let t := acreBytes a
  let l := acreLive a s
  (opHours s - a.sealedAt) * (if favoured a s then 4 else 1) * (t - l) * 2 ^ 32 / (t + l)

/-- Whether an acre holds an envelope copy of a destroyed epoch (R197). -/
def holdsDestroyed (a : Acre) (s : State) : Bool :=
  a.envelopes.any (fun e => ((domainAt e.1 s).map (fun d => d.destroying.contains e.2)).getD false)

/-- Whether an acre's oldest plot is older than RETENTION_REFRESH. -/
def retentionDue (a : Acre) (s : State) : Bool :=
  decide (paramNat 0x090C 0 s * 86400000000 < arrayTime s - a.openTime)


/-- The class of R216 that makes an acre a victim, 1 to 5; class 5 only below RECLAIM_START (R217). -/
def victimClass (a : Acre) (s : State) : Option Nat :=
  if a.blocks.any (blockLeaves s) then some 1
  else if a.marked ≠ [] then some 2
  else if holdsDestroyed a s then some 3
  else if retentionDue a s then some 4
  else if freeAtLeast (paramNat 0x0904 0 s) s = false ∧ spaceWorth a s = true then some 5
  else none

/-- The victim that the reclaimer chooses, with its class. -/
def chooseVictim (s : State) : Option (Nat × Acre) :=
  let cands := (reclaimable s).filterMap (fun a => (victimClass a s).map (fun c => (c, a)))
  let key := fun (x : Nat × Acre) =>
    [(x.1 : Int), (if x.1 = 1 ∧ x.2.m ≤ lostBlocks x.2 s then (0 : Int) else 1), -(spaceScore x.2 s : Int), (x.2.num : Int)]
  (sortByKey key cands).head?

/-- The queue of the tickets of a victim of a class: P3, and P2 below RECLAIM_URGENT and for class 1 (R217). -/
def reclaimPrio (cls : Nat) (s : State) : Nat := if cls = 1 ∨ freeAtLeast (paramNat 0x0905 0 s) s = false then 2 else 3

/-- Issues a ticket of the head's own background work on a quadrant's first harrow (Tables 5-5 and 5-6; DESIGN CHOICE 159). -/
def workTicket (type prio quadrant : Nat) (args : Bytes) (s : State) : State :=
  let t : Ticket := { type := type, prio := prio, wait := false, tomb := false, pinned := false, home := rootHarrow (8 * (quadrant % 4)) s,
                      orderKey := none, epoch := none, parent := 0xFFFFFFFF, handles := [], args := padTo 16 args,
                      stamp := s.time.ticks, ref := 0, expiries := 0, spilled := false }
  (enqueue t s).getD s

/-! ## Copying (Table 9-3 steps 1 and 2) -/

/-- Changes the reclaim of an acre. -/
def modifyJob (a : Nat) (f : ReclaimJob → ReclaimJob) (s : State) : State :=
  { s with media := { s.media with reclaims := mapIf (fun j => j.acre == a) f s.media.reclaims } }

/-- Changes the reclaim counters. -/
def countReclaim (f : ReclaimCounters → ReclaimCounters) (s : State) : State :=
  { s with media := { s.media with counters := f s.media.counters } }

/-- Live records of a victim that are still to be copied, in the order in which they lie. -/
def toCopy (j : ReclaimJob) (s : State) : List (Nat × Loc) :=
  let mine := (acreLocs j.acre s).filter (fun x => (match j.bales with
    | some bs => bs.contains x.2.bale
    | none => true) && !j.copies.any (fun c => c.1 == x.1 && c.2.1 == x.2.gen))
  sortByKey (fun (x : Nat × Loc) => [(x.2.bale : Int), (x.2.plot : Int), (x.2.off : Int)]) mine

/-- The status of a verdict that ends a copy for now; ST_MEDIA where the record itself is bad. -/
def copyFail (v : Verdict) : Status :=
  match v with
  | .locked => stAuthFailed
  | .cipher => stCipherFault
  | .busy => stBusy
  | .aborted => stAborted
  | _ => stMedia

/-- The stored bytes of a record for its copy, its tag verified, rebuilt where its plot fails (R218, R220). -/
def copyBytes (q entry : Nat) (l : Loc) (a : Acre) (f : MediaFacts) (s : State) :
    (Except Status (Bytes × Bytes)) × MediaFacts × State :=
  let own := fun (r : Bytes) (f0 : MediaFacts) (st : State) => openRecord q entry r .background f0 st
  let again := fun (f1 : MediaFacts) (s1 : State) =>
    match rebuild q a l.bale l.plot (64 * l.off) (64 * l.len) f1 s1 with
    | (none, s2) => (Except.error stMedia, f1, s2)
    | (some r, s2) =>
      match own r f1 s2 with
      | (.ok p, f2, s3) => (.ok (r, p), f2, s3)
      | (.error v, f2, s3) => (.error (copyFail v), f2, s3)
  match plotRead q a l.bale l.plot (64 * l.off) (64 * l.len) .background f s with
  | (none, s1) => again f s1
  | (some (r, _), s1) =>
    match own r f s1 with
    | (.ok p, f2, s2) => (.ok (r, p), f2, s2)
    | (.error v, f2, s2) => if copyFail v = stMedia then again f2 s2 else (.error (copyFail v), f2, s2)

/-- The copy of a record: byte for byte at the current epoch, else re-encrypted under it (R196). None where the new key is not to be
had. -/
def rekeyed (q : Nat) (r payload : Bytes) (s : State) : Option (Bytes × Nat × Bool) × State :=
  let cur := ((domainAt (recDomain r) s).map (·.epoch)).getD (recEpoch r)
  if cur ≤ recEpoch r then (some (r, recEpoch r, false), s)
  else
    match needKey (recDomain r) cur true s with
    | (.key n key, s1) =>
      match cipherRun q false .gcmEncrypt n 0 s1 with
      | (none, s2) => (none, s2)
      | (some (_, c), s2) =>
        let e := gcmEncrypt key (chunkIv (recChunk r) (recGen r) cur) (chunkAad (recDomain r) (recFormat r) (recPlainLen r) (recFp r)) payload
        (some (chunkRecord (recFormat r) (recDomain r) (recChunk r) (recGen r) cur (recPlainLen r) (recFp r) e.1 e.2, cur, true),
          countReleased c payload.length s2)
    | (_, s1) => (none, s1)

/-- Notes the JSEQ of a RELOCATE record of a victim: the highest is carried by the drain request (R222). -/
def noteRelocate (victim j : Nat) (s : State) : State := modifyJob victim (fun x => { x with lastJseq := max x.lastJseq j }) s

/-- Marks a chunk lost: its location's LENGTH becomes 0, and reads of it end with ST_MEDIA (R220). -/
def markLost (victim q entry : Nat) (l : Loc) (s : State) : State :=
  let s1 := unrecovered q entry (some l) s
  let (j, _, s2) := place q (.relocate entry { l with acre := 0xFFFFFFFF, bale := 0, plot := 0, off := 0, len := 0 }) s1
  noteRelocate victim j s2

/-- Copies one live record into the destination of its reclaim; whether the copying can go on. -/
def copyOne (j : ReclaimJob) (a : Acre) (x : Nat × Loc) (f : MediaFacts) (s : State) : Bool × MediaFacts × State :=
  let entry := mapEntry x.1 x.2.gen
  let q := a.quadrant
  match copyBytes q entry x.2 a f s with
  | (.error st, f1, s1) => if st = stMedia then (true, f1, markLost j.acre q entry x.2 s1) else (true, f1, s1)
  | (.ok (r, payload), f1, s1) =>
    match rekeyed q r payload s1 with
    | (none, s2) => (true, f1, s2)
    | (some (bytes, ep, rekey), s2) =>
      match appendRecord (if a.stream = 0 then 1 else 2) q (some j.acre) none bytes x.1 x.2.gen x.2.domain ep s2 with
      | (none, s3) => (false, f1, s3)
      | (some l, s3) =>
        let s4 := countReclaim (fun c =>
          { c with recordsCopied := bump c.recordsCopied, bytesCopied := bump c.bytesCopied bytes.length,
                   recordsRekeyed := if rekey then bump c.recordsRekeyed else c.recordsRekeyed }) s3
        (true, f1, modifyJob j.acre (fun y => { y with copies := y.copies ++ [(x.1, x.2.gen, l)] }) s4)

/-- Copies records until no destination can be had. -/
def copyAll (j : ReclaimJob) (a : Acre) : List (Nat × Loc) → MediaFacts → State → State
  | [], _, s => s
  | x :: rest, f, s =>
    let (more, f1, s1) := copyOne j a x f s
    if more then copyAll j a rest f1 s1 else s1

/-- The live pages of a metadata victim that its reclaim moves: of the marked bales alone where it relocates those (R216 class 2). -/
def pagesToMove (j : ReclaimJob) (s : State) : List (Nat × (Nat × Nat × Nat × Nat)) :=
  (livePages j.acre s).filter (fun e => match j.bales with
    | some bs => bs.contains e.2.2.1
    | none => true)

/-- Writes live pages of a metadata victim to the metadata stream again. -/
def copyPages (j : ReclaimJob) (a : Acre) (f : MediaFacts) (s : State) : State :=
  (pagesToMove j s).foldl (fun st e =>
    let (bale, plot, row) := (e.2.2.1, e.2.2.2.1, e.2.2.2.2)
    let read := match plotRead 0 a bale plot (16384 * row) 16384 .background f st with
      | (some (b, _), s1) => (some b, s1)
      | (none, s1) => rebuild 0 a bale plot (16384 * row) 16384 f s1
    match read with
    | (none, s1) => mediaAttn s1
    | (some u, s1) =>
      addDue [{ utype := fieldAt u 4 1, part := fieldAt u 0xE 2, pageId := e.1, jseq := fieldAt u 0x20 8,
                payload := slice u 0x40 (fieldAt u 0x28 4), item := .page e.1 none }] s1) s

/-- Copies what a reclaim still has to move. -/
def copyVictim (n : Nat) (f : MediaFacts) (s : State) : State :=
  match s.media.reclaims.find? (fun j => j.acre == n), acreAt n s with
  | some j, some a =>
    if a.stream = 3 then metaFlush (copyPages j a f s) else copyAll j a (toCopy j s) f s
  | _, _ => s

/-! ## Erasing and freeing (Table 9-3 steps 6 and 7) -/

/-- A destroyed epoch of which no acre holds an envelope copy any more: its record (R197). -/
def destroyedDone (s : State) : State :=
  (s.map.domains.flatMap (fun d => d.2.destroying.map (fun e => (d.1, e)))).foldl (fun st x =>
    if st.media.acres.any (fun a => a.envelopes.contains x) then st
    else
      almanac 0x0303 (packFields [(1, x.1), (4, x.2), (1, 2)])
        (modifyDomain x.1 (fun d => { d with destroying := d.destroying.erase x.2 }) st)) s

/-- An acre is FREE: its number is released, the IDs of the chunks that died in it are freed, and the counters advance (R199, R219). A
dump acre that has been erased frees its blocks only (R235). -/
def acreFree (n : Nat) (s : State) : State :=
  if ((acreAt n s).map isDump).getD false then
    { s with media := { s.media with
      acres := s.media.acres.filter (fun a => a.num != n), reclaims := s.media.reclaims.filter (fun j => j.acre != n)
      dumpAcres := s.media.dumpAcres.filter (fun a => a != n)
      freedAcres := if n % 2 = s.boot.headId % 2 then s.media.freedAcres ++ [n] else s.media.freedAcres } }
    |> evacuated
  else
  let dead := s.map.locs.filter (fun x => x.2.acre == n && x.2.refcount == 0)
  let s1 := dead.foldl (fun st x => freeId x.1 x.2.gen st)
    (modifyMap (fun m => { m with locs := m.locs.filter (fun x => !(x.2.acre == n && x.2.refcount == 0)) }) s)
  let s2 := place' 0 (.acreState n 0) s1
  let s3 := { s2 with media := { s2.media with
    reclaims := s2.media.reclaims.filter (fun j => j.acre != n)
    freedSinceHot := s2.media.freedSinceHot + 1
    freedAcres := if n % 2 = s2.boot.headId % 2 then s2.media.freedAcres ++ [n] else s2.media.freedAcres } }
  hswSync (checkWarnings (evacuated (destroyedDone (countReclaim (fun c => { c with acresReclaimed := bump c.acresReclaimed }) s3))))

/-- A block of a victim has been erased, or has failed and is retired. -/
def victimBlock (n i : Nat) (good : Bool) (s : State) : State :=
  match s.media.reclaims.find? (fun j => j.acre == n), acreAt n s with
  | some j, some a =>
    let x := a.blocks.getD i (192, 0, 0)
    let s1 := if good then blockErased x.1 x.2.1 x.2.2 s else blockFail x.1 x.2.1 x.2.2 s
    let left := j.blocks.erase x
    let s2 := modifyJob n (fun y => { y with blocks := left }) s1
    if left = [] then acreFree n s2 else s2
  | _, _ => s

/-- A block entry of Table 11-2. -/
def blockEntry (x : Nat × Nat × Nat) : Bytes := packFields [(1, x.1), (1, x.2.1), (2, 0), (4, x.2.2)]

/-- Erases one block of a victim: by DIE_ERASE behind a FENCE of both ports (R257), by an erase request to the peer, or not at all where
it is lost or retired (R210). -/
def eraseBlock (n i : Nat) (x : Nat × Nat × Nat) (s : State) : State :=
  if blockLost s x ∨ (headBridge x.1 s).retired.contains (nandKey x.2.1 x.2.2) = true then
    modifyJob n (fun y => { y with blocks := y.blocks.erase x }) s
  else if leases x.1 s then
    furrowIssue x.1 4 (leBytes 8 (cwAddr x.2.1 x.2.2 0)) [] (.blockErase n i)
      (furrowIssue x.1 10 (leBytes 4 (2 ^ x.2.1) ++ [1]) [] .fence s)
  else headSend 0 0x0050 (packFields [(4, n), (1, i), (3, 0)] ++ blockEntry x) s

/-- Step 6: every block is erased. -/
def eraseVictim (n : Nat) (s : State) : State :=
  match acreAt n s with
  | none => s
  | some a =>
    let s1 := acreTo n 5 (modifyJob n (fun j => { j with step := 6, blocks := a.blocks }) s)
    let s2 := (List.range a.blocks.length).foldl (fun st i => eraseBlock n i (a.blocks.getD i (192, 0, 0)) st) s1
    match s2.media.reclaims.find? (fun j => j.acre == n) with
    | some j => if j.blocks = [] then acreFree n s2 else s2
    | none => s2

/-! ## From step 3 to step 5 -/

/-- Whether the peer is asked to drain: present and not in YIELD, and the head is not in SOLE (R222). -/
def peerDrains (s : State) : Bool :=
  s.headland.peerPresent && s.headland.peer.hsw % 16 != modeCode .yield && baseMode s != .sole

/-- Ends a relocation of marked bales: the acre is SEALED again. -/
def endMarked (j : ReclaimJob) (s : State) : State :=
  let bs := j.bales.getD []
  let s1 := modifyAcre j.acre (fun a => { a with marked := a.marked.filter (fun b => !bs.contains b) }) s
  let s2 := { s1 with media := { s1.media with reclaims := s1.media.reclaims.filter (fun x => x.acre != j.acre) } }
  acreTo j.acre 2 s2

/-- Whether every record up to a JSEQ is persisted. -/
def persistedUpTo (j : Nat) (s : State) : Bool := s.journal.ring.all (fun r => decide (j < r.jseq) || r.persisted)

/-- Whether nothing of a reclaim's scope is live any more and no copy waits. -/
def movedOut (j : ReclaimJob) (s : State) : Bool :=
  j.copies.isEmpty && (toCopy j s).isEmpty && (pagesToMove j s).isEmpty

/-- The highest JSEQ that must be persisted before a victim's blocks are erased: of its RELOCATE records, or of the PAGE records placed
so far for a metadata acre (R219). -/
def mustPersist (j : ReclaimJob) (s : State) : Nat :=
  if ((acreAt j.acre s).map (·.stream)) = some 3 then s.journal.nextJseq - 2 else j.lastJseq

/-- Carries one reclaim on as far as it can go (Table 9-3 steps 3 to 6). The drain request carries the highest JSEQ of the acre's RELOCATE records,
0 for a metadata acre, which has none. A peer that has gone, or has stepped into YIELD, is waited for no
longer: the head's own reads end in their own steps (R222). -/
def stepReclaim (n : Nat) (s : State) : State :=
  match s.media.reclaims.find? (fun j => j.acre == n) with
  | none => s
  | some j =>
    if j.step = 3 ∧ movedOut j s = true then
      metaFlush (modifyJob n (fun x => { x with step := 4, lastJseq := mustPersist j s }) s)
    else if j.step = 4 ∧ persistedUpTo j.lastJseq s = true then
      if j.bales.isSome then endMarked j s
      else
        let s1 := acreTo n 4 s
        if peerDrains s1 then
          let top := if ((acreAt n s).map (·.stream)) = some 3 then 0 else j.lastJseq
          headSend 0 0x0052 (packFields [(4, n), (4, 0), (8, top)]) (modifyJob n (fun x => { x with step := 5 }) s1)
        else eraseVictim n s1
    else if j.step = 5 ∧ peerDrains s = false then eraseVictim n s
    else s

/-- Carries every reclaim on. -/
def stepReclaims (s : State) : State := (s.media.reclaims.map (·.acre)).foldl (fun st n => stepReclaim n st) s

/-- One copy whose destination bale has committed: RELOCATE, unless the chunk died or moved meanwhile (Table 9-3 step 3, R221). -/
def relocateCopy (n : Nat) (c : Nat × Nat × Loc) (s : State) : State :=
  let s1 := modifyJob n (fun j => { j with copies := j.copies.erase c }) s
  match locOf c.1 s1 with
  | some l =>
    if l.gen = c.2.1 ∧ l.acre = n ∧ l.refcount ≠ 0 then
      let (j, _, s2) := place ((acreAt n s1).map (·.quadrant) |>.getD 0) (.relocate (mapEntry c.1 c.2.1) { c.2.2 with refcount := l.refcount }) s1
      noteRelocate n j s2
    else countReclaim (fun x => { x with relocateDropped := bump x.relocateDropped, orphans := bump x.orphans }) s1
  | none => countReclaim (fun x => { x with relocateDropped := bump x.relocateDropped, orphans := bump x.orphans }) s1

/-- A destination bale of reclaim commits. -/
def relocateBale (victim acre bale : Nat) (s : State) : State :=
  match s.media.reclaims.find? (fun j => j.acre == victim) with
  | none => s
  | some j => stepReclaim victim ((j.copies.filter (fun c => c.2.2.acre == acre && c.2.2.bale == bale)).foldl
      (fun st c => relocateCopy victim c st) s)

/-- Whether reclaim works: a mode that serves, not quiesced, no DUMP. -/
def reclaimRuns (s : State) : Bool := servingMode s.boot.mode && !isQuiesced 5 s

/-- RECLAIM_VICTIM: what an earlier victim still has to move is moved; else a victim is chosen, set RECLAIMING, and its live records
copied (R216-R220). -/
def reclaimVictim (f : MediaFacts) (s : State) : State :=
  if reclaimRuns s = false then s
  else
    match s.media.reclaims.find? (fun j => j.step == 3 && j.copies.isEmpty && !movedOut j s) with
    | some j => stepReclaim j.acre (copyVictim j.acre f s)
    | none =>
      match chooseVictim s with
      | none => s
      | some (c, a) =>
        let j : ReclaimJob := { acre := a.num, bales := if c = 2 then some a.marked else none, step := 3, copies := [], lastJseq := 0,
                                blocks := [] }
        let s1 := acreTo a.num 3 { s with media := { s.media with reclaims := s.media.reclaims ++ [j] } }
        let s2 := workTicket 0x0F (reclaimPrio c s) a.quadrant (packFields [(4, a.num), (4, c)]) s1
        stepReclaim a.num (copyVictim a.num f s2)

/-- RECLAIM_VICTIM (R216). -/
def execReclaimVictim (facts : MediaFacts) (s : State) : Host.Outcome State Fault Refusal := .next (reclaimVictim facts s)

/-- RECLAIM_STATUS: F in units of 0.01 %, 4 bytes, victims in progress, 4 bytes, then the counters in the buffer where one is given
(DESIGN CHOICE 12). -/
def reclaimStatus (p : McPacket) (s : State) : McEnd × State :=
  let den := headUsable s - headReserve s
  let c := s.media.counters
  let words := [c.acresReclaimed, c.recordsCopied, c.bytesCopied, c.recordsRekeyed, c.orphans, c.relocateDropped, c.domainShort,
    c.blocksRetired]
  let res := leBytes 4 (if den = 0 then 0 else 10000 * headFree s / den) ++ leBytes 4 s.media.reclaims.length
  if p.dataPages = 0 then ok res s else answerRecords p [words.flatMap (leBytes 8)] res s

/-- RECLAIM_STATUS (R238). -/
def execReclaimStatus (p : McPacket) (s : State) : Host.Outcome State Fault Refusal := .next (mciRun 0x0405 p (reclaimStatus p) s)

/-! ## Scrub (R224) -/

/-- Whether what a plot needed marks its bale: many corrected bits, a soft read, or no reading at all. -/
def weakPlot (b : Nat) (r : Option (Bytes × List Nat)) (s : State) : Bool :=
  match r with
  | none => true
  | some (_, reports) => reports.any (fun rep => bitOf rep 14
      || decide (paramNat 0x090B 0 s * ((((headBridge b s).ident).map (·.corrLimit)).getD 0) < 100 * bitsOf rep 10 0))

/-- Scrubs one plot. -/
def scrubPlot (a : Acre) (bale p : Nat) (f : MediaFacts) (s : State) : State :=
  let (r, s1) := plotRead a.quadrant a bale p 0 262144 .background f s
  if weakPlot (plotHome a p bale).1 r s1 then markBale a.num bale s1 else s1

/-- Scrubs every committed plot on some bridges, a P3 HOUSEKEEP ticket for each bridge, and composes again the held grains whose base lies
there (R224, R575). The whole pass is one step (DESIGN CHOICE 159). -/
def scrubPass (bridges : List Nat) (f : MediaFacts) (s : State) : State :=
  let jobs := s.media.acres.flatMap (fun a => (committedBales a s).flatMap (fun bale =>
    ((List.range (a.k + a.m)).filter (fun p => bridges.contains (plotHome a p bale).1)).map (fun p => (a, bale, p))))
  let s0 := bridges.foldl (fun st b => workTicket 0x11 3 b (leBytes 4 b) st) s
  let s1 := jobs.foldl (fun st x => scrubPlot x.1 x.2.1 x.2.2 f st) s0
  s.ingest.held.foldl (fun st h => composeGrain h.1 h.2.1 (8 * ((h.2.1 + h.1) % 4)) f st) s1

/-- SCRUB_TIMER: a pass over the bridges the head leases (R224). -/
def execScrubTimer (facts : MediaFacts) (s : State) : Host.Outcome State Fault Refusal :=
  .next (if servingMode s.boot.mode then hswSync (scrubPass (leasedBridges s) facts s) else s)

/-- SCRUB_START: an immediate pass over the leased bridges of a mask (Table 9-9). -/
def scrubStart (p : McPacket) (f : MediaFacts) (s : State) : McEnd × State :=
  let mask := parm p 0 24
  ok [] (hswSync (scrubPass ((leasedBridges s).filter (fun b => bitOf mask b)) f s))

/-- SCRUB_START (R224). -/
def execScrubStart (p : McPacket) (facts : MediaFacts) (s : State) : Host.Outcome State Fault Refusal :=
  .next (mciRun 0x0406 p (scrubStart p facts) s)

end Sys2Proof.Machine
end

