-- ==== Sys2Proof/Machine/Commit.lean ====
section
/-! DEFINITION. What waits for commits and acknowledgements: release of BUFFERED records (R85, R314), acknowledgement points (R65, Table 3-4),
admission (R63), the commit of bales and of metadata rows (R85, R206). -/

namespace Sys2Proof.Machine

/-! ## Release of committed records -/

/-- Whether the record a map entry names is in a committed bale; a zero entry needs none (R85). -/
def entryStored (entry : Nat) (s : State) : Bool :=
  match entryLoc entry s with
  | none => true
  | some l => (baleAt l.acre l.bale s).isNone

/-- Whether the peer has acknowledged a MIRROR message, or none was sent (R314). -/
def mirrorAcked (mseq : Option Nat) (s : State) : Bool :=
  match mseq with
  | none => true
  | some m => !s.headland.msgs.any (fun x => x.mseq == m)

/-- Whether a BUFFERED record has nothing more to wait for: committed in full, its bales committed, its journal records persisted and
acknowledged by the peer, itself acknowledged. -/
def recordSettled (r : BufferedRec) (s : State) : Bool :=
  finished r && mirrorAcked (some r.mseq) s
    && r.done.all (fun c => entryStored c.entry s && isPersisted c.jseq s && mirrorAcked c.mseq s)

/-- Whether an earlier record of the same target still waits: records of a target leave in the order of their stamps. -/
def earlierWaits (r : BufferedRec) (rs : List BufferedRec) (s : State) : Bool :=
  rs.any (fun x => sameTarget x.target r && x.target == r.target && decide (x.seq < r.seq) && !recordSettled x s)

/-- Releases a buffer as the unit that owns it (R449). -/
def releaseOwn (h : Nat) (s : State) : State := (gRelease (gHeader (hPool h) (hIndex h) s).owner h none s).2

/-- Tells the peer that a BUFFERED record is committed, on the sub-link of the message that carried its last commit (R314). -/
def sendRelease (r : BufferedRec) (s : State) : State :=
  if r.mseq = 0 ∨ s.headland.peerPresent = false then s
  else headSendOn ((r.done.getLast?.map (·.sub)).getD r.quadrant) 0x0012 (packFields [(4, 1), (4, 0), (8, r.jseq)]) s

/-- Releases every record of the own write buffer that is settled. -/
def settleOwn (s : State) : State :=
  let gone := s.ingest.own.filter (fun r => recordSettled r s && !earlierWaits r s.ingest.own s)
  let s1 := modifyIngest (fun i => { i with own := i.own.filter (fun r => !gone.contains r) }) s
  gone.foldl (fun st r => sendRelease r (r.handles.foldl (fun t h => releaseOwn h t) st)) s1

/-! ## Acknowledgement points (Table 3-4) -/

/-- Whether completions wait for the peer: in ACTIVE and RETURN, in YIELD, and in SOLE from the acknowledgement of RESYNC_END on. -/
def waitsForPeer (s : State) : Bool :=
  match baseMode s with
  | .sole => s.headland.ret.resyncAcked
  | _ => true

/-- Whether a grain is held (R575). -/
def grainHeld (ns grain : Nat) (s : State) : Bool := s.ingest.held.any (fun h => h.1 == ns && h.2.1 == grain)

/-- Whether a command whose data is still being pulled has a stamp (R60). -/
def stampPulls (x : Nat × Nat) (s : State) : Bool :=
  s.nvme.commands.any (fun c => c.stage == .pulling && c.parts.any (fun p => p.quadrant == x.1 && p.seq == x.2))

/-- Whether a stamp of a write no longer holds back what waits for its commit: its data has landed, and each record of it is committed, or
its grain is held (R575). -/
def stampSettled (x : Nat × Nat) (s : State) : Bool :=
  !stampPulls x s && (s.ingest.own.filter (fun r => r.quadrant == x.1 && r.seq == x.2)).all (fun r =>
    match r.target with
    | .grain ns g => grainHeld ns g s || recordSettled r s
    | .piece _ _ _ => recordSettled r s)

/-- Whether an operation waits for commits: FUA and Flush always, SOLE_WRITE_THROUGH while the head acknowledges alone. -/
def needsCommit (op : WriteOp) (s : State) : Bool :=
  op.fua || (op.through && baseMode s == .sole && !s.headland.ret.resyncAcked)

/-- Whether an operation has reached its acknowledgement point. -/
def opReady (op : WriteOp) (s : State) : Bool :=
  (!waitsForPeer s || op.mseqs.isEmpty) && (!needsCommit op s || op.stamps.all (fun x => stampSettled x s))
    && s.boot.mode != .dump

/-- Completes an operation: at its client here, or by FORWARD_DONE at the head that received it (R61). -/
def opDone (op : WriteOp) (s : State) : State :=
  match op.forward with
  | some id => forwardDone id stOk op.done s
  | none => clientDone op.client op.done s

/-- Completes every operation that has reached its acknowledgement point, in order. -/
def settleOps (s : State) : State :=
  let ready := s.ingest.ops.filter (fun op => opReady op s)
  let s1 := modifyIngest (fun i => { i with ops := i.ops.filter (fun op => !ready.contains op) }) s
  ready.foldl (fun st op => opDone op st) s1

/-- A journal page is full: the records that are not yet written fill its four units (R86). -/
def pageFull (s : State) : Bool := decide (4 < (journalUnits s).length)

/-- Whether the journal record of a commit stands in no page yet. -/
def commitUnwritten (c : Commit) (s : State) : Bool := s.journal.ring.any (fun j => j.jseq == c.jseq && !j.written && !j.persisted)

/-- FUA and Flush seal every open bale that holds a record they wait for, and have the journal page written that holds the last one
(R67); a full page is written at once (R86). -/
def pushCommits (s : State) : State :=
  let stamps := (s.ingest.ops.filter (fun op => needsCommit op s)).flatMap (·.stamps)
  let recs := s.ingest.own.filter (fun r => stamps.contains (r.quadrant, r.seq))
  let commits := recs.flatMap (·.done)
  let bales := commits.filterMap (fun c => (entryLoc c.entry s).bind (fun l => baleAt l.acre l.bale s))
  let s1 := bales.foldl (fun st b => if b.closed then st else sealBale b.acre b.bale st) s
  if s1.boot.mode ≠ .dump ∧ (commits.any (fun c => commitUnwritten c s1) || pageFull s1) = true then metaFlush s1 else s1

/-- Everything that commits and acknowledgements may have brought about. -/
def settle (s : State) : State := settleOps (settleOwn (pushCommits s))

/-! ## Admission (R63, R233, R312) -/

/-- Bytes of the write arena in use. -/
def wbBytes (s : State) : Nat := ((List.range 8).map (fun p => ((gList 0 p s).count - freeNow (gList 0 p s)) * poolSize p)).sum

/-- What DUMP could write in its time: D × 0.45 s × k / (k+m), D the smaller of 120 GB/s and 0.9 times the program rates of the leased
bridges (R233). -/
def dumpBound (s : State) : Nat :=
  let rates := ((leasedBridges s).map (fun b => (((headBridge b s).ident.map (·.progRate)).getD 0) * 1000000)).sum
  min 120000000000 (rates * 9 / 10) * 45 / 100 * s.media.baleK / (s.media.baleK + s.media.baleM)

/-- Effective WB_HIGH_WATER in bytes: the parameter's, lowered until what DUMP could have to write fits, and so that the buffer
never holds more than the peer's mirror buffer can (R233, R312). -/
def wbLimit (s : State) : Nat :=
  let high := wbCapacity s * paramNat 0x0308 0 s / 100
  let mirror := ((List.range 8).map (fun p => listBytes 1 p s)).sum
  let dump := dumpBound s - mirror
  let peer := if mirrorActive s then wbBytes s + s.headland.peer.mirrorFree else high
  min high (min dump peer)

/-! ## Dump acres that have been read back (R235) -/

/-- Erases a dump acre, block by block. -/
def eraseDump (n : Nat) (s : State) : State :=
  match acreAt n s with
  | none => s
  | some a =>
    let j : ReclaimJob := { acre := n, bales := none, step := 6, copies := [], lastJseq := 0, blocks := a.blocks }
    let s1 := modifyAcre n (fun x => { x with state := 5 }) { s with media := { s.media with reclaims := s.media.reclaims ++ [j] } }
    let s2 := (List.range a.blocks.length).foldl (fun st i => eraseBlock n i (a.blocks.getD i (192, 0, 0)) st) s1
    if s2.media.reclaims.any (fun x => x.acre == n && x.blocks == []) then acreFree n s2 else s2

/-- Releases the dump acres whose replayed or adopted records are all in committed bales and persisted (R235, R319). -/
def dumpRelease (s : State) : State :=
  let due := s.media.dumpErase.filter (fun d => d.2.all (fun x => s.ingest.own.all (fun r => !(r.quadrant == x.1 && r.seq == x.2))))
  due.foldl (fun st d => eraseDump d.1 st) { s with media := { s.media with dumpErase := s.media.dumpErase.filter (fun d => !due.contains d) } }

/-- Admission stops once the buffer is filled to its limit, or a pool it has just asked is exhausted (R63). -/
def admissionCheck (exhausted : Bool) (s : State) : State :=
  if exhausted = true ∨ wbLimit s ≤ wbBytes s then modifyIngest (fun i => { i with stopped := true }) s else s

/-- The length to ask of the write arena for `len` bytes: that of the smallest pool that holds them and that the carve gives any
buffers (R443). -/
def arenaLength (arena len : Nat) (s : State) : Nat :=
  match (List.range 8).find? (fun p => decide (len ≤ poolSize p) && decide (0 < (gList arena p s).count)) with
  | some p => max len (if p = 0 then 1 else poolSize (p - 1) + 1)
  | none => len

/-- Pieces of at most 4 MiB in which a run of bytes is held (R443). -/
def runLengths (len : Nat) : List Nat :=
  List.replicate (len / 4194304) 4194304 ++ (if len % 4194304 = 0 then [] else [len % 4194304])

/-- Whether an arena has a buffer at once for each of some lengths. -/
def arenaHas (arena : Nat) (lens : List Nat) (s : State) : Bool :=
  (List.range 8).all (fun p =>
    let want := (lens.filter (fun n => poolFor (arenaLength arena n s) == some p)).length
    let l := gList arena p s
    decide (want = 0) || (!l.cut && l.waiters.isEmpty && decide (want ≤ freeNow l)))
    && lens.all (fun n => (poolFor (arenaLength arena n s)).any (fun p => decide (0 < (gList arena p s).count)))

/-- Takes buffers for a list of lengths; none where one of them is not to be had at once, and then nothing is taken. -/
def takeRun (unit arena : Nat) (lens : List Nat) (s : State) : Option (List Nat × State) :=
  if ¬ arenaHas arena lens s then none
  else
    some (lens.foldl (fun (acc : List Nat × State) n =>
      match gAlloc unit none arena (arenaLength arena n acc.2) false acc.2 with
      | (some h, s1) => (acc.1 ++ [h], s1)
      | (none, s1) => (acc.1, s1)) ([], s))

/-- Takes buffers for bytes and puts them there. -/
def landBytes (unit arena : Nat) (data : Bytes) (s : State) : Option (List Nat × State) :=
  (takeRun unit arena (runLengths data.length) s).map (fun r =>
    (r.1, (List.range r.1.length).foldl (fun st i => bufferPut (r.1.getD i 0) 0 (slice data (4194304 * i) 4194304) st) r.2))

/-! ## Commit steps that may settle something -/

/-- GRAIN_COMPOSITION (R70). -/
def execGrainComposition (ns grain harrow : Nat) (facts : MediaFacts) (s : State) : Host.Outcome State Fault Refusal :=
  .next (if s.boot.mode = .dump then s else settle (composeGrain ns grain (harrow % 32) facts s))

/-- CHUNK_CUT (R55). -/
def execChunkCut (object harrow : Nat) (s : State) : Host.Outcome State Fault Refusal :=
  .next (if s.boot.mode = .dump then s else settle (chunkCut object (harrow % 32) s))

/-- DEDUP_LOOKUP (R73-R76, R79). -/
def execDedupLookup (work : Nat) (falsePositive : Bool) (facts : MediaFacts) (s : State) : Host.Outcome State Fault Refusal :=
  .next (if s.boot.mode = .dump then s else settle (dedupLookup work falsePositive facts s))

/-- The answer to a commit whose epoch a squash has decided (Table 5-8). -/
def answerFor (epoch : Option EpochRef) (s : State) : State :=
  match epoch with
  | some e => answerDecided e s
  | none => s

/-- EPOCH_COMMIT of an epoch, with the chunk whose run-ahead it is; `epoch` is none for a chunk reduced without run-ahead (R79, R124).
A chunk whose decision is open commits nothing, and in DUMP none does (R234). -/
def execEpochCommit (epoch : Option EpochRef) (work : Option Nat) (s : State) : Host.Outcome State Fault Refusal :=
  .next (if s.boot.mode = .dump then s else settle (growFar (match work.bind (fun w => workAt w s) with
    | some w => if w.decision = .miss ∧ w.epoch = epoch then commitMiss w s else answerFor epoch s
    | none => match epoch with
      | some e => commitEpoch e (answerDecided e s)
      | none => s)))

/-! ## BALE_COMMIT (R85) and METADATA_ROW_COMMIT (R206) -/

/-- A bale commits once all its plots are reported programmed; an acre is SEALED with its last bale; reclaim's copies are relocated
(R85, R221, Table 9-2). -/
def baleCommit (acre bale : Nat) (s : State) : State :=
  match baleAt acre bale s, acreAt acre s with
  | some b, some a =>
    if b.closed = false ∨ b.waiting ≠ [] ∨ s.boot.mode = .dump then s
    else
      let s1 := modifyAcre acre (fun x => { x with committed := x.committed + 1 })
        { s with media := { s.media with bales := s.media.bales.filter (fun x => !(x.acre == acre && x.bale == bale)) } }
      let s2 := if a.committed + 1 = a.nBales then sealAcre acre s1 else s1
      let s3 := b.victims.foldl (fun st v => relocateBale v acre bale st) s2
      dumpRelease (settle (hswSync s3))
  | _, _ => s

/-- BALE_COMMIT (R85). -/
def execBaleCommit (acre bale : Nat) (s : State) : Host.Outcome State Fault Refusal := .next (baleCommit acre bale s)

end Sys2Proof.Machine
end

