-- ==== Sys2Proof/Machine/NvmeIo.lean ====
section
/-! DEFINITION. NVMe I/O commands: Read, Write, Flush, Write Zeroes, Dataset Management, Compare (R60-R69, R373-R377, R382, R388). -/

namespace Sys2Proof.Machine

/-! ## ANA (R327) -/

/-- The head that returns, while a RETURN runs. -/
def returningHead (s : State) : Nat := if s.headland.ret.inbound then s.boot.headId else 1 - s.boot.headId

/-- ANA state of a group as this head reports it (Table 13-10): 1 optimised, 2 non-optimised, 3 inaccessible, 0xF change. -/
def anaState (group : Nat) (s : State) : Nat :=
  let own := if ownsIngest (group - 1) s then 1 else 2
  match baseMode s with
  | .active => own
  | .sole => own
  | .returning => if group = returningHead s + 1 then 0xF else if s.headland.ret.inbound then 3 else 1
  | _ => 3

/-- The ANA group of a namespace: 1 where its preferred owner is head 0 (R327). -/
def nsGroup (n : Namespace) : Nat := n.owner + 1

/-! ## Taking a command -/

/-- Whether the NVMe target holds commands: it, the head or, for writes, ingest is quiesced (Tables 3-3, 4-2). -/
def nvHolds (writes : Bool) (s : State) : Bool := isQuiesced 2 s || (writes && isQuiesced 4 s)

/-- Whether the head's mode serves clients. -/
def clientsServed (s : State) : Bool := servingMode s.boot.mode

/-- The effective power state: the lowest of the controllers with an I/O queue; PS0 with none, and in SOLE and RETURN (R387). -/
def effectivePower (s : State) : Nat :=
  if baseMode s = .sole ∨ baseMode s = .returning then 0
  else
    let io := s.nvme.controllers.filter (fun c => s.nvme.queues.any (fun q => q.controller == some c.id && q.qid != 0))
    match io.map (·.ps) with
    | [] => 0
    | p :: rest => rest.foldl min p

/-- Puts the effective power state in force: the parked set follows (R128, R387). -/
def powerSync (s : State) : State :=
  let p := effectivePower s
  if p = s.nvme.powerState then s else applyParkedSet (modifyNvme (fun n => { n with powerState := p }) s)

/-- Changes the power state a controller holds (R388). -/
def setPower (id ps : Nat) (s : State) : State :=
  match ctrlAt id s with
  | none => s
  | some c =>
    if c.ps = ps then s
    else
      let f := fun (x : Controller) => { x with ps := ps, operational := if ps ≤ 1 then ps else x.operational }
      powerSync (countNvme (fun k => { k with psTransitions := bump k.psTransitions }) (modifyCtrl id f s))

/-- An I/O command moves its controller out of PS2 or PS3 (R388). -/
def wakeController (qp : Nat) (s : State) : State :=
  match qpCtrl qp s with
  | none => s
  | some c => if 2 ≤ c.ps then setPower c.id c.operational s else s

/-- Notes that commands are outstanding in the present minute (Table 15-7, Controller Busy Time). -/
def noteBusy (s : State) : State :=
  let m := s.time.ticks / sTicks 60
  if s.nvme.busyMinute = some m then s
  else modifyNvme (fun n => { n with busyMinute := some m, busyMinutes := n.busyMinutes + 1 }) s

/-- Takes a capsule on a queue, its root ticket admitted (R113): out of its receive buffer, which is posted again; the queue's head advances; a CID still outstanding
ends it with Command ID Conflict (R373). Whether the command is outstanding now. -/
def nvTake (qp : Nat) (capsule : Bytes) (s : State) : Bool × State :=
  match nvQueue qp s with
  | none => (false, s)
  | some q =>
    if qpConnected qp s = false ∨ s.boot.mode = .dump then (false, s)
    else
      let cid := sqeCid capsule
      match arriveRoot (qpHome qp s) qp cid s with
      | (false, s0) => (false, s0)
      | (true, s0) =>
        let landed := ((qpAt qp s0).map (fun c => c.received.contains capsule)).getD false
        let s1 := if landed then (if q.qid = 0 then qpPost qp 1 else qpRepost qp) (qpTake qp capsule s0) else s0
        let s2 := modifyNvQueue qp (fun x => { x with head := if q.entries = 0 then 0 else (x.head + 1) % q.entries, used := s.time.ticks }) s1
        if (nvCmd qp cid s2).isSome then
          (false, nvRespond qp capsule 0 0 nvCidConflict 0 (countNvme (fun k => { k with cidConflicts := bump k.cidConflicts }) s2))
        else
          let c : NvmeCmd := { qp := qp, cid := cid, capsule := capsule, stage := .held, parts := [], pulled := [], facts := .quiet }
          (true, noteBusy (modifyNvme (fun n => { n with commands := n.commands ++ [c] }) s2))

/-- Ends a command with a status. -/
def nvFail (qp cid status : Nat) (s : State) : State := nvEnd qp cid 0 0 status 0 s

/-- The host of a queue pair's controller. -/
def qpHost (qp : Nat) (s : State) : Option Nat := (qpCtrl qp s).map (·.host)

/-- The namespace that a command on a queue pair may use: it exists and is attached to the host (R380, R381). -/
def nsFor (qp nsid : Nat) (s : State) : Option Namespace :=
  match nsAt nsid s, qpHost qp s with
  | some n, some h => if n.hosts.contains h then some n else none
  | _, _ => none

/-- Whether a domain is locked: its current epoch's key is neither resident nor to be had (R188). -/
def domainLocked (d : Nat) (s : State) : Bool :=
  match domainAt d s with
  | some x => !keyAvailable d x.epoch s
  | none => false

/-- Whether a namespace (kind 1) or object domain (kind 2) is a designated replication target (R294). -/
def isDesignated (kind id : Nat) (s : State) : Bool :=
  s.map.pairs.any (fun p => p.pair == 0xFFFF && p.kind == kind && p.target == id)

/-- Why an I/O command may not run on a namespace: mode, ANA state, range, and for writes protection and lock (R382, Table 15-6).
`grows`: it needs space, so that READONLY refuses it (Table 3-3). -/
def nsRefusal (n : Namespace) (lba blocks : Nat) (writes grows : Bool) (s : State) : Option Nat :=
  let ana := anaState (nsGroup n) s
  if clientsServed s = false ∨ ana = 3 then some nvInaccessible
  else if ana = 0xF then some nvTransition
  else if n.size < (lba + blocks) * 2 ^ n.lbaLog2 then some nvLbaRange
  else if writes = true ∧ (n.exposes.isSome = true ∨ isDesignated 1 n.id s = true) then some nvWriteProtected
  else if grows = true ∧ s.boot.mode = .readonly then some nvCapacity
  else if writes = true ∧ domainLocked n.domain s = true then some nvDenied
  else none

/-! ## Data descriptors (R374) -/

/-- Where a command's data is: in the capsule, or in the host's buffer. -/
inductive NvData where
  | inCapsule (data : Bytes)
  | keyed (addr key : Nat)
  deriving DecidableEq, Repr

/-- The data descriptor of a command that moves `len` bytes, `room` of them at most in the capsule: its place, or the status that refuses
it. -/
def nvData (c : Bytes) (len room : Nat) : Except Nat NvData :=
  let id := sqeSgl c
  let (addr, n, key) := sqeKeyed c
  if 2097152 < len then .error nvBadField
  else if id = 0x40 ∨ id = 0x4F then (if n = len then .ok (.keyed addr key) else .error nvSglLength)
  else if id = 0x01 ∧ 0 < room then
    if fieldAt c 32 4 ≠ len ∨ room < len ∨ (sqeData c).length < addr + len then .error nvSglLength
    else .ok (.inCapsule (slice (sqeData c) addr len))
  else .error nvSglType

/-! ## Write parts -/

/-- The parts of a byte range of a namespace, one a grain (R59). -/
def rangeParts (ns : Nat) : Nat → Nat → Nat → List WritePart
  | 0, _, _ => []
  | fuel + 1, off, len =>
    if len = 0 then []
    else
      let n := min len (16384 - off % 16384)
      let g := off / 16384
      { ns := ns, grain := g, off := off % 16384, len := n, quadrant := (g + ns) % 4, seq := 0 } :: rangeParts ns fuel (off + n) (len - n)

/-- The parts of a byte range. -/
def partsOf (ns off len : Nat) : List WritePart := rangeParts ns (len / 16384 + 2) off len

/-- Stamps parts in order (R60). -/
def stampParts : List WritePart → State → List WritePart × State
  | [], s => ([], s)
  | p :: rest, s =>
    let (n, s1) := takeStamp p.quadrant s
    let (ps, s2) := stampParts rest s1
    ({ p with seq := n } :: ps, s2)

/-- A stamp in each quadrant, for a command whose data says which parts it changes (DESIGN CHOICE 141). -/
def quadrantParts (ns : Nat) : List WritePart :=
  (List.range 4).map (fun q => { ns := ns, grain := 0, off := 0, len := 0, quadrant := q, seq := 0 })

/-- The stamps of parts. -/
def partStamps (ps : List WritePart) : List (Nat × Nat) := ps.map (fun p => (p.quadrant, p.seq))

/-- Registers what an accepted write waits for, and completes what is ready. -/
def awaitOp (op : WriteOp) (s : State) : State := settle (modifyIngest (fun i => { i with ops := i.ops ++ [op] }) s)

/-- FUA of a command. -/
def sqeFua (c : Bytes) : Bool := bitOf (sqeDw 12 c) 30

/-- The operation of an NVMe write, from its MSEQs and stamps; `forward` where the peer sent it. -/
def nvOp (qp cid : Nat) (c : Bytes) (mseqs : List Nat) (stamps : List (Nat × Nat)) (forward : Option Nat) (s : State) : WriteOp :=
  { client := { qp := qp, id := cid }, done := [], mseqs := mseqs, stamps := stamps
    through := scopeParam 1 (sqeNsid c) 0x0304 s == 1, fua := sqeFua c && sqeOpcode c != 9, forward := forward }

/-- Parts of a range that lie outside another one. -/
def outside (lo hi off len : Nat) : List (Nat × Nat) :=
  (if off < lo then [(off, min (off + len) lo - off)] else []) ++
    (if hi < off + len then [(max off hi, off + len - max off hi)] else [])

/-- What is left to land of a part: the ranges in which no later-stamped write is committed already (R88). -/
def partsLeft (p : WritePart) (s : State) : List WritePart :=
  let laid := s.ingest.overlaid.filter (fun o => o.ns == p.ns && o.grain == p.grain && o.quadrant == p.quadrant && decide (p.seq < o.seq))
  let left := laid.foldl (fun (rs : List (Nat × Nat)) o => rs.flatMap (fun r => outside o.off (o.off + o.len) r.1 r.2)) [(p.off, p.len)]
  left.map (fun r => { p with off := r.1, len := r.2 })

/-- The parts of a write that are to land, each with its data. -/
def partsData : List WritePart → Bytes → State → List (WritePart × Bytes)
  | [], _, _ => []
  | p :: rest, data, s =>
    (partsLeft p s).map (fun x => (x, slice data (x.off - p.off) x.len)) ++ partsData rest (data.drop p.len) s

/-- Lands the parts of a write in the buffers taken for them: BUFFERED records, mirrored (R64), without the payload where `away`: the peer
that forwarded it holds it already (R61). The MSEQs. -/
def landParts (away : Bool) : List (WritePart × Bytes) → List Nat → State → List Nat × State
  | [], _, s => ([], s)
  | (p, d) :: rest, hs, s =>
    let s0 := bufferPut (hs.headD 0) 0 d s
    let (m, s1) := landRecord (.grain p.ns p.grain) p.off p.len p.quadrant p.seq (hs.take 1) (if away then [] else d) false s0
    let (ms, s2) := landParts away rest (hs.drop 1) s1
    (m.toList ++ ms, s2)

/-- Lands the whole data of a write, where buffers can be had: the MSEQs; none where a pool is exhausted, and admission stops (R63). -/
def landWriteData (unit : Nat) (parts : List WritePart) (data : Bytes) (away : Bool) (s : State) : Option (List Nat × State) :=
  let ps := partsData parts data s
  (takeRun unit 0 (ps.map (·.1.len)) s).map (fun r => landParts away ps r.1 r.2)

/-- Whether a grain has a record stamped later than a part, landed or committed. -/
def laterStamped (p : WritePart) (s : State) : Bool :=
  s.ingest.own.any (fun r => r.target == .grain p.ns p.grain && decide (p.seq < r.seq))
    || s.ingest.overlaid.any (fun o => o.ns == p.ns && o.grain == p.grain && decide (p.seq < o.seq))

/-- Whether a part may be made zeros at once: it is a whole grain, no barrier holds it back, nothing stamped later is there, and no commit
has to be awaited. -/
def zeroAtOnce (p : WritePart) (strict : Bool) (s : State) : Bool :=
  let t := Target.grain p.ns p.grain
  p.len == 16384 && (barrierOf t s).isNone && pageReady t s && !strict && !laterStamped p s

/-- Makes parts zeros or unmapped: whole grains in their map records, others, those behind a snapshot's barrier, and those whose commit is
awaited, as zero records (R65, R68, R69). The MSEQs. -/
def zeroParts (unmap strict : Bool) : List WritePart → State → List Nat × State
  | [], s => ([], s)
  | p :: rest, s =>
    let put := fun (acc : List Nat × State) (x : WritePart) =>
      let (m, st) := landRecord (.grain x.ns x.grain) x.off x.len x.quadrant x.seq [] [] true acc.2
      (acc.1 ++ m.toList, st)
    let (m, s1) :=
      if zeroAtOnce p strict s then
        let (m, st) := commitZero p.ns p.grain unmap p.seq s
        (m.toList, st)
      else (partsLeft p s).foldl put ([], s)
    let (ms, s2) := zeroParts unmap strict rest s1
    (m ++ ms, s2)

/-- The byte ranges that a Write Zeroes or a Dataset Management names (R69, Table 15-2). -/
def zeroRanges (c data : Bytes) (lbaLog2 : Nat) : List (Nat × Nat) :=
  if sqeOpcode c = 8 then
    let (lba, n) := sqeRange c
    [(lba * 2 ^ lbaLog2, n * 2 ^ lbaLog2)]
  else
    (List.range (sqeDw 10 c % 256 + 1)).map (fun i => (fieldAt data (16 * i + 8) 8 * 2 ^ lbaLog2, fieldAt data (16 * i + 4) 4 * 2 ^ lbaLog2))

/-! ## At the ingest owner -/

/-- Runs a Write, Write Zeroes or Dataset Management whose data is all here, at the owner (R60, R64, R68, R69): the MSEQs and stamps it
waits for; none where the write buffer has no room yet. -/
def ownerWrite (unit : Nat) (c data : Bytes) (parts : List WritePart) (lbaLog2 : Nat) (away : Bool) (s : State) :
    Option (List Nat × List (Nat × Nat) × State) :=
  if sqeOpcode c = 1 then (landWriteData unit parts data away s).map (fun r => (r.1, partStamps parts, r.2))
  else
    let ranges := zeroRanges c data lbaLog2
    let stampOf := fun (p : WritePart) => ((parts.find? (fun x => x.quadrant == p.quadrant && (x.len == 0 || x.grain == p.grain))).map (·.seq)).getD 0
    let ps := (ranges.flatMap (fun r => partsOf (sqeNsid c) r.1 r.2)).map (fun p => { p with seq := stampOf p })
    let op := nvOp 0 0 c [] [] none s
    let (ms, s2) := zeroParts (sqeOpcode c = 9) (needsCommit op s) ps s
    some (ms, partStamps ps, s2)

/-- Stamps what an accepted command changes, before its data is pulled (R60): the parts of its range, or one stamp a quadrant where its data
names the ranges. -/
def acceptParts (c : Bytes) (lbaLog2 : Nat) (s : State) : List WritePart × State :=
  if sqeOpcode c = 9 then stampParts (quadrantParts (sqeNsid c)) s
  else if sqeOpcode c = 1 ∨ sqeOpcode c = 8 then
    let (lba, blocks) := sqeRange c
    stampParts (partsOf (sqeNsid c) (lba * 2 ^ lbaLog2) (blocks * 2 ^ lbaLog2)) s
  else ([], s)

/-- Notes the bytes that a Write brings, for the health log (Table 15-7). -/
def noteWritten (c data : Bytes) (s : State) : State :=
  if sqeOpcode c = 1 then modifyNvme (fun v => { v with writtenBytes := v.writtenBytes + data.length }) s else s

/-- Lands the payload of a command that goes to the owner in the mirror buffer, in pieces of the given lengths; none where a pool has no
room (R61). -/
def landAway (unit : Nat) : Nat → List Nat → Bytes → State → Option (List (Nat × Nat × List Nat) × State)
  | _, [], _, s => some ([], s)
  | off, n :: rest, data, s =>
    match landBytes unit 1 (data.take n) s with
    | none => none
    | some (hs, s1) => (landAway unit (off + n) rest (data.drop n) s1).map (fun r => ((off, n, hs) :: r.1, r.2))

/-- Gives a forward its room in the mirror buffer. -/
def setRoom (id : Nat) (room : List (Nat × Nat × List Nat)) (s : State) : State :=
  { s with headland := { s.headland with forwards := mapIf (fun f => f.id == id) (fun f => { f with room := room }) s.headland.forwards } }

/-- Gives back what forwards hold of the mirror buffer. -/
def freeRoom (fs : List Forward) (s : State) : State :=
  (fs.flatMap (fun f => f.room.flatMap (·.2.2))).foldl (fun st h => releaseOwn h st) s

/-- A command whose data is complete goes on: at the owner it lands, elsewhere its payload lands in the mirror buffer and it is forwarded
with it (R61). -/
def nvDataHere (qp cid : Nat) (data : Bytes) (f : MediaFacts) (s : State) : State :=
  match nvCmd qp cid s with
  | none => s
  | some c =>
    if sqeOpcode c.capsule = 5 then nvCompareNow qp cid data f s
    else
      match nsAt (sqeNsid c.capsule) s with
      | none => nvFail qp cid nvBadNamespace s
      | some n =>
        let out := sqeOpcode c.capsule == 9 && (zeroRanges c.capsule data n.lbaLog2).any (fun r => decide (n.size < r.1 + r.2))
        let keep := fun (st : State) => modifyNvCmd qp cid (fun x => { x with pulled := [(0, data)] }) st
        if out then settle (nvFail qp cid nvLbaRange s)
        else if ownsIngest n.owner s then
          let unit := 0x20 + ((qpAt qp s).map (fun x => portQuadrant x.lport)).getD 0
          match ownerWrite unit c.capsule data c.parts n.lbaLog2 false s with
          | none => admissionCheck true (keep s)
          | some (ms, stamps, s1) =>
            let s2 := modifyNvCmd qp cid (fun x => { x with stage := .acking, pulled := [] }) (noteWritten c.capsule data s1)
            admissionCheck false (awaitOp (nvOp qp cid c.capsule ms stamps none s2) s2)
        else
          let unit := 0x20 + ((qpAt qp s).map (fun x => portQuadrant x.lport)).getD 0
          let lens := if sqeOpcode c.capsule = 1 then
            (partsOf n.id ((sqeRange c.capsule).1 * 2 ^ n.lbaLog2) data.length).map (·.len) else []
          match landAway unit 0 lens data s with
          | none => admissionCheck true (keep s)
          | some (room, s0) =>
            let s1 := modifyNvCmd qp cid (fun x => { x with stage := .forwarded, pulled := [] }) (noteWritten c.capsule data s0)
            let (id, s2) := forwardSend 1 (c.capsule.take 64) data (some (qp, cid)) none s1
            setRoom id room s2

/-- Bytes that a command moves from the host. -/
def pullLength (c : Bytes) (lbaLog2 : Nat) : Nat :=
  if sqeOpcode c = 9 then 16 * (sqeDw 10 c % 256 + 1) else if sqeOpcode c = 8 then 0 else (sqeRange c).2 * 2 ^ lbaLog2

/-- Issues the RDMA READs of a command's data: one a grain or less (R374; DESIGN CHOICE 22). -/
def pullData (qp cid addr key : Nat) (lens : List Nat) (s : State) : State :=
  let offs := lens.foldl (fun (acc : List (Nat × Nat) × Nat) n => (acc.1 ++ [(acc.2, n)], acc.2 + n)) ([], 0)
  qpSend qp (offs.1.map (fun x => OutMsg.read (addr + x.1) key x.2 { id := cid, offset := x.1 })) s

/-- Admits a command that changes a namespace or compares: its parts are stamped at the owner before any data is pulled (R60), then its
data is taken from the capsule or pulled (R374). -/
def nvAdmit (qp cid : Nat) (f : MediaFacts) (s : State) : State :=
  match nvCmd qp cid s with
  | none => s
  | some c =>
    match nsFor qp (sqeNsid c.capsule) s with
    | none => nvFail qp cid nvBadNamespace s
    | some n =>
      let op := sqeOpcode c.capsule
      let (lba, blocks) := if op = 9 then (0, 0) else sqeRange c.capsule
      match nsRefusal n lba blocks (op != 5) (op == 1 || op == 8) s with
      | some st => nvFail qp cid st s
      | none =>
        let len := pullLength c.capsule n.lbaLog2
        let stamped := if ownsIngest n.owner s then acceptParts c.capsule n.lbaLog2 s else ([], s)
        let s1 := modifyNvCmd qp cid (fun x => { x with stage := .pulling, parts := stamped.1 }) stamped.2
        if op = 9 ∧ bitOf (sqeDw 11 c.capsule) 2 = false then nvEnd qp cid 0 0 nvOk 0 s
        else if op = 8 then nvDataHere qp cid [] f s1
        else
          match nvData c.capsule len 8192 with
          | .error st => nvFail qp cid st s1
          | .ok (.inCapsule data) => nvDataHere qp cid data f s1
          | .ok (.keyed addr key) =>
            let ps := if op = 9 then [len] else (partsOf n.id (lba * 2 ^ n.lbaLog2) len).map (·.len)
            pullData qp cid addr key ps s1

/-- Whether a take-over has still to end before this head owns what prefers head `owner` (Table 13-6 steps 3 to 8). -/
def ownerComing (owner : Nat) (s : State) : Bool :=
  baseMode s == .sole && s.headland.takeover.isSome && owner != s.boot.headId

/-- Whether a command must wait before it is admitted: quiesced, it brings write data and admission has stopped (R63), or what it
changes or flushes is about to be taken over (Table 13-6 step 8). -/
def mustHold (c : Bytes) (s : State) : Bool :=
  let op := sqeOpcode c
  let writes := op == 1 || op == 8 || op == 9
  let comes := s.map.namespaces.any (fun n => (sqeNsid c == 0xFFFFFFFF || n.id == sqeNsid c) && ownerComing n.owner s)
  nvHolds writes s || (op == 1 && s.ingest.stopped) || ((writes || op == 0) && comes)

/-- RDMA READ data of a command has come (R374): with the last of it the command goes on. -/
def nvPulled (qp cid off : Nat) (data : Bytes) (s : State) : State :=
  match nvCmd qp cid s with
  | none => s
  | some c =>
    let got := c.pulled ++ [(off, data)]
    let n := ((nsAt (sqeNsid c.capsule) s).map (·.lbaLog2)).getD 9
    let want := pullLength c.capsule n
    let s1 := modifyNvCmd qp cid (fun x => { x with pulled := got }) s
    if (got.map (fun x => x.2.length)).sum < want then s1
    else
      let whole := got.foldl (fun acc x => overlay acc x.1 x.2) (zeros want)
      nvDataHere qp cid whole c.facts s1

/-! ## Reads and flushes -/

/-- Whether a part lies in a byte range of its namespace, or in any where none is given; the parts of a Dataset Management whose list is
still to come may lie anywhere. -/
def partIn (range : Option (Nat × Nat)) (p : WritePart) : Bool :=
  match range with
  | none => true
  | some (off, len) => p.len == 0 || (decide (16384 * p.grain + p.off < off + len) && decide (off < 16384 * p.grain + p.off + p.len))

/-- The stamps that a Flush, or a Read with FUA of a range, waits for: those of the records of a namespace that the own write buffer holds,
and those of the writes whose data is still being pulled (Table 3-4, R377). -/
def waitStamps (ns : Nat) (range : Option (Nat × Nat)) (s : State) : List (Nat × Nat) :=
  (s.ingest.own.filter (fun r => match r.target with
    | .grain n g => n == ns && (match range with
      | none => true
      | some (off, len) => decide (16384 * g + r.off < off + len) && decide (off < 16384 * g + r.off + r.len))
    | .piece _ _ _ => false)).map (fun r => (r.quadrant, r.seq))
    ++ (s.nvme.commands.filter (fun c => c.stage == .pulling)).flatMap (fun c =>
      partStamps (c.parts.filter (fun p => p.ns == ns && partIn range p)))

/-- Waits for stamps with FUA's strength, then completes. -/
def awaitStamps (qp cid : Nat) (stamps : List (Nat × Nat)) (forward : Option Nat) (s : State) : State :=
  awaitOp { client := { qp := qp, id := cid }, done := [], mseqs := [], stamps := stamps, through := false, fua := true,
            forward := forward } s

/-- A Read (R104, R374, R377). -/
def nvRead (qp cid : Nat) (f : MediaFacts) (s : State) : State :=
  match nvCmd qp cid s with
  | none => s
  | some c =>
    match nsFor qp (sqeNsid c.capsule) s with
    | none => nvFail qp cid nvBadNamespace s
    | some n =>
      let (lba, blocks) := sqeRange c.capsule
      match nsRefusal n lba blocks false false s with
      | some st => nvFail qp cid st s
      | none =>
        let b := 2 ^ n.lbaLog2
        match nvData c.capsule (blocks * b) 0 with
        | .error st => nvFail qp cid st s
        | .ok _ =>
          if sqeFua c.capsule = false then nvReadNow qp cid f s
          else
            let s1 := modifyNvCmd qp cid (fun x => { x with stage := .acking }) s
            if ownsIngest n.owner s then awaitStamps qp cid (waitStamps n.id (some (lba * b, blocks * b)) s) none s1
            else
              let s2 := modifyNvCmd qp cid (fun x => { x with stage := .forwarded }) s
              (forwardSend 1 (c.capsule.take 64) [] (some (qp, cid)) none s2).2

/-- The namespaces a Flush covers: all that are attached for NSID 0xFFFF_FFFF (Table 15-2). -/
def flushSet (qp nsid : Nat) (s : State) : List Namespace :=
  if nsid = 0xFFFFFFFF then
    match qpHost qp s with
    | some h => s.map.namespaces.filter (fun n => n.hosts.contains h)
    | none => []
  else (nsFor qp nsid s).toList

/-- A Flush (R65, R67): namespaces that the peer owns are flushed there, the others here. -/
def nvFlush (qp cid : Nat) (s : State) : State :=
  match nvCmd qp cid s with
  | none => s
  | some c =>
    let nsid := sqeNsid c.capsule
    let set := flushSet qp nsid s
    if nsid ≠ 0xFFFFFFFF ∧ set = [] then nvFail qp cid nvBadNamespace s
    else
      match set.findSome? (fun n => nsRefusal n 0 0 false false s) with
      | some st => nvFail qp cid st s
      | none =>
        let away := set.filter (fun n => !ownsIngest n.owner s)
        let s1 := modifyNvCmd qp cid (fun x => { x with stage := if away.isEmpty then .acking else .forwarded }) s
        let s2 := away.foldl (fun st n =>
          (forwardSend 1 (overlay (c.capsule.take 64) 4 (leBytes 4 n.id)) [] (some (qp, cid)) none st).2) s1
        awaitStamps qp cid ((set.filter (fun n => ownsIngest n.owner s)).flatMap (fun n => waitStamps n.id none s)) none s2

/-! ## Resuming held commands -/

/-- Runs an I/O command by its opcode, from where it stands. -/
def nvRunIo (qp cid : Nat) (f : MediaFacts) (s : State) : State :=
  match nvCmd qp cid s with
  | none => s
  | some c =>
    match sqeOpcode c.capsule with
    | 0 => nvFlush qp cid s
    | 2 => nvRead qp cid f s
    | _ => nvAdmit qp cid f s

/-! ## Commands the peer has forwarded (R61) -/

/-- Why the owner refuses a forwarded command; none where it runs. -/
def forwardRefusal (c : Bytes) (s : State) : Option Status :=
  let op := sqeOpcode c
  let writes := op != 0 && op != 2
  match nsAt (sqeNsid c) s with
  | none => some stBadParam
  | some n =>
    if clientsServed s = false ∨ ownsIngest n.owner s = false then some stWrongMode
    else if writes = true ∧ (n.exposes.isSome = true ∨ isDesignated 1 n.id s = true) then some stReadOnly
    else if (op = 1 ∨ op = 8) ∧ s.boot.mode = .readonly then some stNoResource
    else if writes = true ∧ domainLocked n.domain s = true then some stAuthFailed
    else none

/-- Whether a forwarded command waits: ingest is quiesced, or it brings write data and admission has stopped. -/
def forwardHolds (c : Bytes) (s : State) : Bool :=
  let op := sqeOpcode c
  ((op == 1 || op == 8 || op == 9) && isQuiesced 4 s) || (op == 1 && s.ingest.stopped)

/-- Runs a forwarded command at the owner: a write is stamped and lands in the own write buffer, a Flush or a Read with FUA waits for
commits. None where the write buffer has no room. -/
def forwardedRun (id q : Nat) (c data : Bytes) (s : State) : Option State :=
  let n := ((nsAt (sqeNsid c) s).map (·.lbaLog2)).getD 9
  let op := sqeOpcode c
  if op = 0 then some (awaitStamps 0 0 (waitStamps (sqeNsid c) none s) (some id) s)
  else
    let (lba, blocks) := if op = 9 then (0, 0) else sqeRange c
    if op = 2 then some (awaitStamps 0 0 (waitStamps (sqeNsid c) (some (lba * 2 ^ n, blocks * 2 ^ n)) s) (some id) s)
    else
      let (parts, s1) := acceptParts c n s
      (ownerWrite (0x24 + q) c data parts n true s1).map (fun r => admissionCheck false (awaitOp (nvOp 0 0 c r.1 r.2.1 (some id) r.2.2) r.2.2))

/-- A forwarded NVMe command: refused, run, or held until it is admitted. -/
def nvFromPeer (id q : Nat) (body : Bytes) (s : State) : State :=
  let c := body.take 64
  let keep := fun (st : State) => { st with headland := { st.headland with toRun := st.headland.toRun ++ [(id, q, body)] } }
  match forwardRefusal c s with
  | some st => forwardDone id st [] s
  | none =>
    if forwardHolds c s then keep s
    else match forwardedRun id q c (body.drop 64) s with
      | some s1 => s1
      | none => admissionCheck true (keep s)

/-- Forwarded commands that were held are tried again, in order of arrival. -/
def resumeForwarded (s : State) : State :=
  s.headland.toRun.foldl (fun st x => nvFromPeer x.1 x.2.1 x.2.2 st) { s with headland := { s.headland with toRun := [] } }

/-- Runs every held I/O command that need not wait any more, in order of arrival; data that waits for buffers lands (R63, R105). -/
def resumeIo (s : State) : State :=
  resumeForwarded (s.nvme.commands.foldl (fun st c =>
    let io := ((nvQueue c.qp st).map (fun q => decide (q.qid ≠ 0))).getD false
    if io = false then st
    else
      match nvCmd c.qp c.cid st with
      | none => st
      | some x =>
        if x.stage = .held ∧ mustHold x.capsule st = false then nvRunIo c.qp c.cid x.facts st
        else if x.stage = .pulling ∧ st.ingest.stopped = false then
          match x.pulled with
          | [(0, data)] =>
            let n := ((nsAt (sqeNsid x.capsule) st).map (·.lbaLog2)).getD 9
            if data.length = pullLength x.capsule n then nvDataHere c.qp c.cid data x.facts st else st
          | _ => st
        else st) s)

/-! ## The rows -/

/-- Takes and runs an I/O capsule under the row's opcode. -/
def ioRow (opcode : Nat) (qp : Nat) (capsule : Bytes) (f : MediaFacts) (s : State) : State :=
  let c := overlay capsule 0 [BitVec.ofNat 8 opcode]
  let io := ((nvQueue qp s).map (fun q => decide (q.qid ≠ 0) && q.controller.isSome)).getD false
  let (live, s1) := nvTake qp c s
  if live = false then s1
  else if io = false then nvFail qp (sqeCid c) nvSequence s1
  else
    let s2 := if opcode = 2 ∨ opcode = 5 then modifyNvme (fun n => { n with readCommands := n.readCommands + 1 }) s1
      else if opcode = 0 then s1 else modifyNvme (fun n => { n with writeCommands := n.writeCommands + 1 }) s1
    let s3 := modifyNvCmd qp (sqeCid c) (fun x => { x with facts := f }) s2
    if mustHold c s3 then s3 else nvRunIo qp (sqeCid c) f (wakeController qp s3)

/-- READ (R91, R104, R377). -/
def execRead (qp : Nat) (capsule : Bytes) (facts : MediaFacts) (s : State) : Host.Outcome State Fault Refusal :=
  .next (ioRow 2 qp capsule facts s)

/-- WRITE (R60-R65). -/
def execWrite (qp : Nat) (capsule : Bytes) (s : State) : Host.Outcome State Fault Refusal :=
  .next (ioRow 1 qp capsule .quiet s)

/-- FLUSH (R65, R67). -/
def execFlush (qp : Nat) (capsule : Bytes) (s : State) : Host.Outcome State Fault Refusal :=
  .next (ioRow 0 qp capsule .quiet s)

/-- WRITE_ZEROES (R68). -/
def execWriteZeroes (qp : Nat) (capsule : Bytes) (s : State) : Host.Outcome State Fault Refusal :=
  .next (ioRow 8 qp capsule .quiet s)

/-- DATASET_MANAGEMENT (R69). -/
def execDatasetManagement (qp : Nat) (capsule : Bytes) (s : State) : Host.Outcome State Fault Refusal :=
  .next (ioRow 9 qp capsule .quiet s)

/-- COMPARE (Table 15-2). -/
def execCompare (qp : Nat) (capsule : Bytes) (facts : MediaFacts) (s : State) : Host.Outcome State Fault Refusal :=
  .next (ioRow 5 qp capsule facts s)

end Sys2Proof.Machine
end

