-- ==== Sys2Proof/Machine/Spaces.lean ====
section
/-! DEFINITION. The array's tables of namespaces and hosts and the snapshots (R287-R293, R368, R378-R381): creation, deletion, attachment,
and the MCI commands over them. -/

namespace Sys2Proof.Machine

/-! ## Table changes -/

/-- Ends an MCI command once the peer has acknowledged the record it placed, or at once where none was mirrored (R379, R576). -/
def endMirrored (p : McPacket) (m : Option Nat) (result : Bytes) (s : State) : McEnd × State :=
  match m with
  | some k => waitOn p (.mirrorAck k) result s
  | none => ok result s

/-- Places a change of the tables: the MSEQ that carries it. -/
def changeTable (c : TableChange) (s : State) : Option Nat × State := (place 0 (.table c) s).2

/-- Whether the head can journal a change: it is in a serving mode. -/
def journals (s : State) : Bool := servingMode s.boot.mode

/-! ## Namespaces -/

/-- Whether a namespace ID is in use: by a namespace, or by references of a deleted one that are still to be released (R380). -/
def nsidUsed (id : Nat) (s : State) : Bool :=
  (nsAt id s).isSome || s.map.snaps.any (fun x => x.kind == 1 && x.id == id)

/-- The lowest free NSID (R379). -/
def freeNsid (s : State) : Option Nat := (firstIndex 1024 (fun i => !nsidUsed (i + 1) s)).map (· + 1)

/-- Whether a nspaces size and format are legal (R378, R379). -/
def nsShapeOk (size lbaLog2 : Nat) : Bool :=
  (lbaLog2 == 9 || lbaLog2 == 12) && decide (16384 ≤ size) && decide (size ≤ 2 ^ 52) && size % 2 ^ lbaLog2 == 0

/-- The ingest owner that an ANA group names: 0 is the head that receives the command (R379). -/
def groupOwner (group : Nat) (s : State) : Nat := if group = 0 then s.boot.headId else group - 1

/-- Enters a new namespace: NSID and the MSEQ of its record; none where no NSID is free. The manual does not say what its NGUID is
(DESIGN CHOICE 3). -/
def createNs (domain size lbaLog2 group : Nat) (exposes : Option (Nat × Nat)) (s : State) : Option (Nat × Option Nat × State) :=
  match freeNsid s with
  | none => none
  | some id =>
    let (guid, s1) := undefBytes 16 s
    let n : Namespace := { id := id, size := size, lbaLog2 := lbaLog2, domain := domain, nguid := guid, hosts := [],
                           owner := groupOwner group s, exposes := exposes }
    let (m, s2) := changeTable (.nspace n) s1
    some (id, m, s2)

/-- Whether a snapshot is exposed, or used by a replication or an export (R293, R299, R301). -/
def snapInUse (x : Snapshot) (s : State) : Bool :=
  (x.kind == 1 && s.map.namespaces.any (fun n => n.exposes == some (x.id, x.num)))
    || s.repl.sessions.any (fun r => r.kind == x.kind &&
        (if r.initiator then s.map.pairs.any (fun p => p.role == 1 && p.pair == r.pair && p.source == x.id)
            && (r.baseNum == x.num || r.goalNum == x.num)
         else decide (4 ≤ r.stage) && s.repl.copies.contains (x.kind * 2 ^ 16 + x.id, r.base, x.num) && r.target == x.id))
    || s.repl.exports.any (fun e => e.state == 0 && e.snaps.contains (x.kind, x.id, x.num))

/-- Whether a namespace may not be deleted: a snapshot of it is exposed or used (R380). -/
def nsPinned (id : Nat) (s : State) : Bool := (snapsOf 1 id s).any (fun x => snapInUse x s)

/-- What waits in ingest for the grains of a namespace goes with their unmapping. -/
def dropNsIngest (id jseq : Nat) (m : Option Nat) (s : State) : State :=
  let ofNs := fun (t : Target) => match t with
    | .grain ns _ => ns == id
    | .piece _ _ _ => false
  let s1 := (s.ingest.works.filter (fun w => ofNs w.target)).foldl (fun st w => squashWork w st) s
  let s2 := (s1.ingest.own.filter (fun r => ofNs r.target)).foldl (fun st r => markDone r.target [(r.quadrant, r.seq)] 0 jseq m st) s1
  modifyIngest (fun i => { i with held := i.held.filter (fun h => h.1 != id) }) s2

/-- Deletes a namespace: detached from every host, unmapped by one record, its snapshots deleted (R380). -/
def deleteNs (n : Namespace) (s : State) : State :=
  let s1 := namespaceNotice n.hosts n.id s
  let s2 := if n.exposes.isSome then s1
    else
      let (j, m, st) := place 0 (.unmap (.grain n.id 0) ((n.size + 16383) / 16384)) s1
      dropNsIngest n.id j m st
  let s3 := (snapsOf 1 n.id s2).foldl (fun st x => if x.deleting then st else place' 0 (.snapshot 1 2 n.id x.num (arrayTime st)) st) s2
  settle (changeTable (.namespaceGone n.id) s3).2

/-- Attaches a namespace to hosts or detaches it: the MSEQ of the record (R381). -/
def attachNs (n : Namespace) (hosts : List Nat) (attach : Bool) (s : State) : Option Nat × State :=
  let now := if attach then n.hosts ++ hosts.filter (fun h => !n.hosts.contains h) else n.hosts.filter (fun h => !hosts.contains h)
  let (m, s1) := changeTable (.nspace { n with hosts := now }) s
  (m, namespaceNotice hosts n.id s1)

/-- NS_CREATE. -/
def nsCreate (p : McPacket) (s : State) : McEnd × State :=
  let size := parm p 8 8
  if journals s = false then refuse stWrongMode s
  else if (domainAt (parm p 0 1) s).isNone = true ∨ nsShapeOk size (parm p 1 1) = false ∨ 2 < parm p 2 1 then refuse stBadParam s
  else
    match createNs (parm p 0 1) size (parm p 1 1) (parm p 2 1) none s with
    | none => refuse stNoResource s
    | some (id, m, s1) => endMirrored p m (leBytes 2 id) s1

/-- NS_CREATE (R379). -/
def execNsCreate (p : McPacket) (s : State) : Host.Outcome State Fault Refusal := .next (mciRun 0x0210 p (nsCreate p) s)

/-- NS_DELETE (R380): ST_READ_ONLY stands for Namespace is Write Protected (Table 15-6). -/
def nsDelete (p : McPacket) (s : State) : McEnd × State :=
  if journals s = false then refuse stWrongMode s
  else
    match nsAt (parm p 0 2) s with
    | none => refuse stBadParam s
    | some n => if nsPinned n.id s then refuse stReadOnly s else ok [] (deleteNs n s)

/-- NS_DELETE (R380). -/
def execNsDelete (p : McPacket) (s : State) : Host.Outcome State Fault Refusal := .next (mciRun 0x0211 p (nsDelete p) s)

/-- The root entry of a namespace (Table 11-11). -/
def nsEntry (n : Namespace) (s : State) : Bytes := scopeEntry 1 n.domain n.id n.lbaLog2 (scopeFlags s.map 1 n.id) n.size n.nguid

/-- NS_LIST: entries from an NSID on. -/
def nsList (p : McPacket) (s : State) : McEnd × State :=
  let from' := parm p 0 2
  if 1024 < from' then refuse stBadParam s
  else
    let ns := sortByKey (fun (n : Namespace) => [(n.id : Int)]) (s.map.namespaces.filter (fun n => decide (from' ≤ n.id)))
    answerRecords p (ns.map (fun n => nsEntry n s)) [] s

/-- NS_LIST (R497). -/
def execNsList (p : McPacket) (s : State) : Host.Outcome State Fault Refusal := .next (mciRun 0x0212 p (nsList p) s)

/-! ## Hosts -/

/-- The index of a host in the host table. -/
def hostIndex (nqn : Bytes) (s : State) : Option Nat := (s.map.hosts.find? (fun h => h.2 == nqn)).map (·.1)

/-- HOST_ADD: a host already there, or a length out of range, gives ST_BAD_PARAM. -/
def hostAdd (p : McPacket) (s : State) : McEnd × State :=
  let n := parm p 0 2
  let nqn := p.data.take n
  if journals s = false then refuse stWrongMode s
  else if p.busError = true then busFail p s
  else if n = 0 ∨ 223 < n ∨ nqn.length < n ∨ (hostIndex nqn s).isSome = true then refuse stBadParam s
  else
    match firstIndex 1024 (fun i => (lookup i s.map.hosts).isNone) with
    | none => refuse stNoResource s
    | some i =>
      let (m, s1) := changeTable (.host i nqn) s
      endMirrored p m (leBytes 2 i) s1

/-- HOST_ADD (R368). -/
def execHostAdd (p : McPacket) (s : State) : Host.Outcome State Fault Refusal := .next (mciRun 0x0220 p (hostAdd p) s)

/-- HOST_REMOVE: ST_BUSY while the host is attached. -/
def hostRemove (p : McPacket) (s : State) : McEnd × State :=
  let i := parm p 0 2
  if journals s = false then refuse stWrongMode s
  else if (lookup i s.map.hosts).isNone then refuse stBadParam s
  else if s.map.namespaces.any (fun n => n.hosts.contains i) then refuse stBusy s
  else
    let (m, s1) := changeTable (.hostGone i) s
    endMirrored p m [] s1

/-- HOST_REMOVE (R497). -/
def execHostRemove (p : McPacket) (s : State) : Host.Outcome State Fault Refusal := .next (mciRun 0x0221 p (hostRemove p) s)

/-- NS_ATTACH, op 0x01 attach and 0x02 detach (R381): attaching an attached host, or detaching one that is not, is refused. -/
def nsAttach (p : McPacket) (s : State) : McEnd × State :=
  let i := parm p 2 2
  let op := parm p 4 1
  if journals s = false then refuse stWrongMode s
  else
    match nsAt (parm p 0 2) s with
    | none => refuse stBadParam s
    | some n =>
      if (lookup i s.map.hosts).isNone = true ∨ ¬ (op = 1 ∨ op = 2) ∨ n.hosts.contains i = (op == 1) then refuse stBadParam s
      else
        let (m, s1) := attachNs n [i] (op == 1) s
        endMirrored p m [] s1

/-- NS_ATTACH with op attach (R381). -/
def execNsAttach (p : McPacket) (s : State) : Host.Outcome State Fault Refusal := .next (mciRun 0x0222 p (nsAttach p) s)

/-- NS_ATTACH with op detach (R381). -/
def execNsDetach (p : McPacket) (s : State) : Host.Outcome State Fault Refusal := .next (mciRun 0x0222 p (nsAttach p) s)

/-! ## Snapshots (R287-R293) -/

/-- Changes the replication part. -/
def modifyRepl (f : ReplPart → ReplPart) (s : State) : State := { s with repl := f s.repl }

/-- Counts of R306. -/
def countRepl (f : ReplCounters → ReplCounters) (s : State) : State := modifyRepl (fun r => { r with counters := f r.counters }) s

/-- Whether a mode takes SNAP_CREATE and SNAP_DELETE (R289). -/
def snapMode (s : State) : Bool :=
  match s.boot.mode with
  | .active => true | .sole => true | .returning => true | .readonly => true | _ => false

/-- The ingest owner of a namespace (kind 1) or object domain (kind 2), if it exists; an exposed snapshot has no content of its own. -/
def scopeOwner (kind id : Nat) (s : State) : Option Nat :=
  if kind = 1 then (nsAt id s).bind (fun n => if n.exposes.isSome then none else some n.owner)
  else if kind = 2 then (objdomAt id s).map (·.owner) else none

/-- Whether a snapshot number is in use. -/
def snapUsed (kind id num : Nat) (s : State) : Bool :=
  s.map.snaps.any (fun x => x.kind == kind && x.id == id && x.num == num)
    || s.repl.jobs.any (fun j => j.kind == kind && j.scope == id && j.num == num)

/-- The number above the number last allotted, past those in use, wrapping from 65,535 to 1 (R287). -/
def nextSnap (kind id : Nat) (s : State) : Option Nat :=
  let last := lookupD (kind * 2 ^ 16 + id) s.repl.lastSnap 0
  (firstIndex 65535 (fun i => !snapUsed kind id ((last + i) % 65535 + 1) s)).map (fun i => (last + i) % 65535 + 1)

/-- A barrier in each of the four ingest sequences (Table 12-1 step 1). -/
def stampBarrier (s : State) : List Nat × State :=
  (List.range 4).foldl (fun (acc : List Nat × State) q =>
    let (n, s1) := takeStamp q acc.2
    (acc.1 ++ [n], s1)) ([], s)

/-- Begins a snapshot under a barrier: its job. -/
def beginSnap (kind id : Nat) (barrier : List Nat) (forExport forDiff : Option Nat) (s : State) : Option (SnapJob × State) :=
  match nextSnap kind id s with
  | none => none
  | some num =>
    let j : SnapJob := { id := s.repl.nextJob, kind := kind, scope := id, num := num, barrier := barrier, forExport := forExport,
                         forDiff := forDiff }
    some (j, modifyRepl (fun r => { r with jobs := r.jobs ++ [j], nextJob := r.nextJob + 1
                                           lastSnap := insertAt (kind * 2 ^ 16 + id) num r.lastSnap }) s)

/-- SNAP_CREATE: on the ingest owner, or forwarded to it (R288, R289). -/
def snapCreate (p : McPacket) (s : State) : McEnd × State :=
  let kind := parm p 0 1
  let id := parm p 2 2
  if snapMode s = false then refuse stWrongMode s
  else
    match scopeOwner kind id s with
    | none => refuse stBadParam s
    | some owner =>
      if ownsIngest owner s = false then forwardMci 0x0500 p s
      else
        let (b, s1) := stampBarrier s
        match beginSnap kind id b none none s1 with
        | none => refuse stNoResource s
        | some (j, s2) => waitOn p (.barrier j.id) [] s2

/-- SNAP_CREATE (R288). -/
def execSnapCreate (p : McPacket) (s : State) : Host.Outcome State Fault Refusal := .next (mciRun 0x0500 p (snapCreate p) s)

/-- Whether a job waits for nothing: every pre-barrier record of its namespace, or of the committed objects of its object domain, is
committed, or belongs to a held grain (Table 12-1 step 2, R575), no write stamped before the barrier is still pulling its data, and no
PUT_COMMIT stamped before it has still to run. -/
def barrierDrained (j : SnapJob) (s : State) : Bool :=
  let before := fun (r : BufferedRec) => decide (r.seq < j.barrier.getD r.quadrant 0)
  if j.kind = 1 then
    s.ingest.own.all (fun r => match r.target with
      | .grain ns g => ns != j.scope || !before r || finished r || grainHeld ns g s
      | .piece _ _ _ => true)
      && s.ingest.works.all (fun w => match w.target with
        | .grain ns g => ns != j.scope || grainHeld ns g s
        | .piece _ _ _ => true)
      && (s.nvme.commands.filter (fun c => c.stage == .pulling)).all (fun c =>
        c.parts.all (fun p => p.ns != j.scope || decide (j.barrier.getD p.quadrant 0 ≤ p.seq)))
  else
    s.ingest.own.all (fun r => match r.target with
        | .grain _ _ => true
        | .piece o _ _ => ((objectAt o s).map (·.objDomain)) != some j.scope || !before r || finished r)

/-- Steps 3 and 4 of Table 12-1: the SNAPSHOT record is placed; its JSEQ and the MSEQ that carries it. -/
def placeSnap (j : SnapJob) (s : State) : Nat × Option Nat × State :=
  let s1 := modifyRepl (fun r => { r with jobs := r.jobs.filter (fun x => x.id != j.id) }) s
  let (t, s2) := if j.kind = 2 then issueTime j.scope s1 else (arrayTime s1, s1)
  place 0 (.snapshot j.kind 1 j.scope j.num t) s2

/-- The result of SNAP_CREATE: number and CREATE_JSEQ (DESIGN CHOICE 12). -/
def snapResult (num jseq : Nat) : Bytes := packFields [(2, num), (6, 0), (8, jseq)]

/-- The command that waits for a job ends with the snapshot, once its record is mirrored (R288). -/
def snapReply (j : SnapJob) (jseq : Nat) (m : Option Nat) (s : State) : State :=
  match m with
  | none => endWaits (.barrier j.id) (some stOk) (some (snapResult j.num jseq)) s
  | some k =>
    let mine := fun (w : McWait) => w.kind == .barrier j.id
    let next := fun (w : McWait) => { w with kind := .mirrorAck k, result := snapResult j.num jseq }
    { s with mci := { s.mci with waits := mapIf mine next s.mci.waits } }

/-- A snapshot by its kind, ID and number, that is not being deleted. -/
def snapAt (kind id num : Nat) (s : State) : Option Snapshot :=
  s.map.snaps.find? (fun x => x.kind == kind && x.id == id && x.num == num && !x.deleting)

/-- Places a snapshot's delete record. -/
def placeSnapDelete (x : Snapshot) (s : State) : State := place' 0 (.snapshot x.kind 2 x.id x.num (arrayTime s)) s

/-- The P3 HOUSEKEEP tickets that visit the pages of which a deleted snapshot holds a copy (R291). -/
def deleteTickets (x : Snapshot) (s : State) : State :=
  (s.map.pages.filter (fun c => x.kind == 1 && c.ns == x.id && c.snap == x.num)).foldl (fun st c =>
    workTicket 0x11 3 (c.page % 4) (packFields [(2, c.ns), (2, c.snap), (4, c.page)]) st) s

/-- SNAP_DELETE (R289, R291, R293). -/
def snapDelete (p : McPacket) (s : State) : McEnd × State :=
  if snapMode s = false then refuse stWrongMode s
  else
    match snapAt (parm p 0 1) (parm p 2 2) (parm p 4 2) s with
    | none => refuse stBadParam s
    | some x => if snapInUse x s then refuse stBusy s else ok [] (deleteTickets x (placeSnapDelete x s))

/-- SNAP_DELETE (R291). -/
def execSnapDelete (p : McPacket) (s : State) : Host.Outcome State Fault Refusal := .next (mciRun 0x0501 p (snapDelete p) s)

/-- Step 2 of R291 for one grain: `vo` none where the snapshot is the oldest version. -/
def settleGrain (vs vn : Nat) (vo : Option Nat) (s : State) : State :=
  let s1 := if vs ≠ 0 ∧ vo ≠ some vs ∧ vn ≠ vs then refLose vs s else s
  match vo with
  | some v => if v ≠ 0 ∧ v = vn ∧ v ≠ vs then refLose v s1 else s1
  | none => s1

/-- Drops a deleted snapshot's copy of a page; with the last of them its number is free. -/
def dropCopy (c : SnapPage) (s : State) : State :=
  let s1 := modifyMap (fun m => { m with pages := m.pages.filter (fun p => !(p.ns == c.ns && p.snap == c.snap && p.page == c.page)) }) s
  let s2 := countRepl (fun k => { k with snapDeleteSteps := bump k.snapDeleteSteps }) s1
  if s2.map.pages.any (fun p => p.ns == c.ns && p.snap == c.snap) then s2
  else modifyMap (fun m => { m with snaps := m.snaps.filter (fun x => !(x.kind == 1 && x.id == c.ns && x.num == c.snap && x.deleting)) }) s2

/-- Settles one page of a deleted snapshot (R291): where the next older version holds no copy, the ingest owner first writes the page as
its copy, and the step comes again once that is in. -/
def settlePage (ns num page : Nat) (s : State) : State :=
  match s.map.snaps.find? (fun x => x.kind == 1 && x.id == ns && x.num == num && x.deleting), snapCopy ns num page s with
  | some _, some c =>
    let vs := pageVersions ns page s
    let older := (vs.takeWhile (fun x => x.num != num)).getLast?
    let newer := ((vs.dropWhile (fun x => x.num != num)).drop 1).head?
    match older.filter (fun o => (snapCopy ns o.num page s).isNone) with
    | some o =>
      if ((nsAt ns s).map (fun n => ownsIngest n.owner s)).getD false then
        writeCopy { ns := ns, snap := o.num, page := page, entries := c.entries } s
      else s
    | none =>
      let oldEntries := (older.bind (fun o => snapCopy ns o.num page s)).map (·.entries)
      let grains := distinct (c.entries.map (·.1) ++ (oldEntries.getD []).map (·.1))
      let s1 := grains.foldl (fun st g =>
        let vn := match newer with
          | some n => resolveGrain ns n.num g st
          | none => liveEntry ns g st
        settleGrain (copyEntry c g) vn (oldEntries.map (fun es => lookupD g es 0)) st) s
      dropCopy c s1
  | _, _ => s

/-- SNAP_DELETE_PAGE: a P3 HOUSEKEEP ticket settles a page (R291). -/
def execSnapDeletePage (ns snapshot page : Nat) (s : State) : Host.Outcome State Fault Refusal := .next (settlePage ns snapshot page s)

/-- SNAP_LIST: entries of a scope from a number on. -/
def snapList (p : McPacket) (s : State) : McEnd × State :=
  let kind := parm p 0 1
  let id := parm p 2 2
  if (scopeOwner kind id s).isNone then refuse stBadParam s
  else
    let mine := s.map.snaps.filter (fun x => x.kind == kind && x.id == id && decide (parm p 4 2 ≤ x.num) && !x.deleting)
    answerRecords p ((sortByKey (fun (x : Snapshot) => [(x.num : Int)]) mine).map snapEntry) [] s

/-- SNAP_LIST (R305). -/
def execSnapList (p : McPacket) (s : State) : Host.Outcome State Fault Refusal := .next (mciRun 0x0502 p (snapList p) s)

/-- SNAP_EXPOSE, op 0x01 expose and 0x02 withdraw (R293). -/
def snapExpose (p : McPacket) (s : State) : McEnd × State :=
  let id := parm p 2 2
  let num := parm p 4 2
  if journals s = false then refuse stWrongMode s
  else if parm p 0 1 ≠ 1 then refuse stBadParam s
  else
    match nsAt id s, snapAt 1 id num s, parm p 6 1 with
    | some n, some _, 1 =>
      if s.map.namespaces.any (fun x => x.exposes == some (id, num)) then refuse stBadParam s
      else
        match createNs n.domain n.size n.lbaLog2 (n.owner + 1) (some (id, num)) s with
        | none => refuse stNoResource s
        | some (nsid, m, s1) => endMirrored p m (leBytes 2 nsid) s1
    | some _, some _, 2 =>
      match s.map.namespaces.find? (fun x => x.exposes == some (id, num)) with
      | none => refuse stBadParam s
      | some x => ok (leBytes 2 x.id) (deleteNs x s)
    | _, _, _ => refuse stBadParam s

/-- SNAP_EXPOSE with op expose (R293). -/
def execSnapExpose (p : McPacket) (s : State) : Host.Outcome State Fault Refusal := .next (mciRun 0x0503 p (snapExpose p) s)

/-- SNAP_EXPOSE with op withdraw (R293). -/
def execSnapWithdraw (p : McPacket) (s : State) : Host.Outcome State Fault Refusal := .next (mciRun 0x0503 p (snapExpose p) s)

end Sys2Proof.Machine
end

