-- ==== Sys2Proof/Machine/NvmeAdmin.lean ====
section
/-! DEFINITION. The NVMe target's controllers, admin and fabrics commands, log pages, features and power states (R367-R390). Fields and
encodings that this manual leaves to the standards are those of NVMe Base 2.0 and NVMe over Fabrics (log entry 19). -/

namespace Sys2Proof.Machine

/-! ## The end of queues and controllers (R371) -/

/-- Drops every command of a queue pair without completion. -/
def dropQueueCommands (qp : Nat) (s : State) : State :=
  let forget := fun (f : Forward) => match f.client with
    | some (q, _) => if q = qp then { f with client := none } else f
    | none => f
  let s1 := modifyNvme (fun n => { n with commands := n.commands.filter (fun c => c.qp != qp) }) s
  let s2 := modifyIngest (fun i => { i with ops := i.ops.filter (fun o => !(o.client.qp == qp && o.forward.isNone)) }) s1
  settle { s2 with headland := { s2.headland with forwards := s2.headland.forwards.map forget } }

/-- Closes an I/O queue: its commands are dropped, its queue pair is closed. -/
def closeQueue (qp : Nat) (s : State) : State :=
  modifyNvme (fun n => { n with queues := n.queues.filter (fun x => x.qp != qp) }) (qpClose qp (dropQueueCommands qp s))

/-- A controller ends: its commands that are not acknowledged are dropped, its I/O queue pairs are closed; the admin queue pair is
without a controller from then on. -/
def endController (id : Nat) (s : State) : State :=
  match ctrlAt id s with
  | none => s
  | some c =>
    let io := (ctrlQps id s).filter (fun q => q != c.adminQp)
    let s1 := io.foldl (fun st q => closeQueue q st) (dropQueueCommands c.adminQp s)
    let s2 := modifyNvQueue c.adminQp (fun x => { x with controller := none, entries := 0, head := 0 }) s1
    powerSync (modifyNvme (fun n => { n with controllers := n.controllers.filter (fun x => x.id != id) }) s2)

/-- The queue pair of a queue has left CONNECTED: with an admin queue its controller ends; an I/O queue is gone. -/
def nvQueueGone (qp : Nat) (s : State) : State :=
  match nvQueue qp s with
  | none => s
  | some x =>
    let s1 := match x.controller with
      | some id => if x.qid = 0 then endController id s else s
      | none => s
    powerSync (modifyNvme (fun n => { n with queues := n.queues.filter (fun y => y.qp != qp) }) (dropQueueCommands qp s1))

/-- Every controller ends, as the head leaves the serving modes. -/
def endControllers (s : State) : State := s.nvme.controllers.foldl (fun st c => endController c.id st) s

/-! ## Data of an admin command (R374) -/

/-- Ends a command with success. -/
def nvDone (qp cid dw0 dw1 : Nat) (s : State) : State := nvEnd qp cid dw0 dw1 nvOk 0 s

/-- Returns data to the host's buffer and completes. -/
def nvReturn (qp cid dw0 : Nat) (data : Bytes) (s : State) : State :=
  match nvCmd qp cid s with
  | none => s
  | some c =>
    match nvData c.capsule data.length 0 with
    | .error st => nvFail qp cid st s
    | .ok (.inCapsule _) => nvFail qp cid nvSglType s
    | .ok (.keyed addr key) => nvDone qp cid dw0 0 (qpSend qp [.write addr key data] s)

/-! ## Connect (R367-R370) -/

/-- Hexadecimal digit of a number below 16. -/
def hexDigit (n : Nat) : Byte := BitVec.ofNat 8 (if n < 10 then 48 + n else 87 + n)

/-- Bytes in hexadecimal text. -/
def hexText (bs : Bytes) : Bytes := bs.flatMap (fun b => [hexDigit (b.toNat / 16), hexDigit (b.toNat % 16)])

/-- SUBSYS_NQN in effect: the parameter, or the form of R367 over ARRAY_UID. -/
def subsysNqn (s : State) : Bytes :=
  let v := paramBytes 0x0F00 0 s
  if v.isEmpty then
    let u := s.media.arrayUid
    asciiBytes "nqn.2014-08.org.nvmexpress:uuid:" ++ hexText (slice u 0 4) ++ [0x2D] ++ hexText (slice u 4 2) ++ [0x2D]
      ++ hexText (slice u 6 2) ++ [0x2D] ++ hexText (slice u 8 2) ++ [0x2D] ++ hexText (slice u 10 6)
  else v

/-- A null-terminated name in a field. -/
def nameIn (bs : Bytes) : Bytes := bs.takeWhile (fun b => b != 0)

/-- Result dword of Connect Invalid Parameters: the offset at fault, in the command or in its data. -/
def connectAt (off : Nat) (inData : Bool) : Nat := off + 65536 * flagBit inData

/-- A Connect that is refused (R390). -/
def connectRefused (qp cid dw0 status : Nat) (s : State) : State :=
  nvEnd qp cid dw0 0 status 0 (countNvme (fun k => { k with rejects := bump k.rejects }) s)

/-- The queue of a queue pair belongs to a controller from a Connect on. -/
def joinQueue (qp id : Nat) (c : Bytes) (s : State) : State :=
  modifyNvQueue qp (fun x => { x with controller := some id, entries := fieldAt c 44 2 + 1, head := 1 % (fieldAt c 44 2 + 1)
                                      noFlow := bitOf (fieldAt c 46 1) 2 })
    (countNvme (fun k => { k with connects := bump k.connects }) s)

/-- The lowest free controller ID of the head (R368). -/
def freeCtrl (s : State) : Option Nat :=
  (firstIndex 4096 (fun i => (ctrlAt (4096 * s.boot.headId + i + 1) s).isNone)).map (fun i => 4096 * s.boot.headId + i + 1)

/-- A Connect on queue 0: a controller is created (R368, R372). -/
def connectAdmin (qp cid : Nat) (c data : Bytes) (s : State) : State :=
  let kato := (fieldAt c 48 4 + 999) / 1000
  if fieldAt data 16 2 ≠ 0xFFFF then connectRefused qp cid (connectAt 16 true) nvConnectBad s
  else if kato = 0 then connectRefused qp cid (connectAt 48 false) nvConnectBad s
  else
    match hostIndex (nameIn (slice data 512 256)) s, freeCtrl s with
    | none, _ => connectRefused qp cid 0 nvConnectHost s
    | _, none => connectRefused qp cid 0 nvConnectBusy s
    | some h, some id =>
      if paramNat 0x0F01 0 s ≤ s.nvme.controllers.length then connectRefused qp cid 0 nvConnectBusy s
      else
        let k : Controller :=
          { id := id, host := h, adminQp := qp, kato := kato, katoFrom := s.time.ticks, granted := none, ioSeen := false, cc := 0,
            ready := false, shst := 0, ps := 0, operational := 0, apste := false, apst := List.replicate 32 0, aec := 0, masked := [],
            events := [], changed := [] }
        nvDone qp cid id 0 (joinQueue qp id c (modifyNvme (fun n => { n with controllers := n.controllers ++ [k] }) s))

/-- A Connect on a queue from 1 on (R369). -/
def connectIo (qp cid : Nat) (c data : Bytes) (s : State) : State :=
  let qid := fieldAt c 42 2
  match ctrlAt (fieldAt data 16 2) s with
  | none => connectRefused qp cid (connectAt 16 true) nvConnectBad s
  | some k =>
    let mine := s.nvme.queues.filter (fun x => x.controller == some k.id)
    if lookup k.host s.map.hosts ≠ some (nameIn (slice data 512 256)) then connectRefused qp cid (connectAt 512 true) nvConnectBad s
    else if mine.any (fun x => x.qid == qid) = true ∨ k.granted.getD 0 < qid then connectRefused qp cid (connectAt 42 false) nvConnectBad s
    else if 65536 ≤ (s.nvme.queues.filter (fun x => x.qid != 0 && x.controller.isSome)).length then connectRefused qp cid 0 nvConnectBusy s
    else
      let s1 := modifyCtrl k.id (fun x => { x with ioSeen := true }) (joinQueue qp k.id c s)
      powerSync (nvDone qp cid k.id 0 s1)

/-- Connect: the checks of both kinds, then one of them (R367, R370). -/
def connect (qp cid : Nat) (c data : Bytes) (s : State) : State :=
  match nvQueue qp s with
  | none => s
  | some x =>
    if x.controller.isSome then connectRefused qp cid (connectAt 42 false) nvConnectBad s
    else if fieldAt c 40 2 ≠ 0 then connectRefused qp cid 0 0x180 s
    else if nameIn (slice data 256 256) ≠ subsysNqn s then connectRefused qp cid (connectAt 256 true) nvConnectBad s
    else if fieldAt c 42 2 ≠ x.qid then connectRefused qp cid (connectAt 42 false) nvConnectBad s
    else if fieldAt c 44 2 = 0 ∨ 31 < fieldAt c 44 2 then connectRefused qp cid (connectAt 44 false) nvConnectBad s
    else if x.qid = 0 then connectAdmin qp cid c data s else connectIo qp cid c data s

/-! ## Properties (Table 15-5) -/

/-- CAP. -/
def capValue : Nat := 31 + 2 ^ 16 + 2 * 2 ^ 24 + 2 ^ 37

/-- CSTS. -/
def cstsValue (k : Controller) : Nat := flagBit k.ready + 4 * k.shst

/-- Property Get: the value by offset and size, 4 or 8 bytes. -/
def propertyValue (k : Controller) (size off : Nat) : Option Nat :=
  match size, off with
  | 1, 0x00 => some capValue
  | 0, 0x08 => some 0x00020000
  | 0, 0x14 => some k.cc
  | 0, 0x1C => some (cstsValue k)
  | 0, 0x20 => some 0
  | _, _ => none

/-- Property Get. -/
def propertyGet (qp cid : Nat) (c : Bytes) (k : Controller) (s : State) : State :=
  match propertyValue k (fieldAt c 40 1 % 8) (fieldAt c 44 4) with
  | some v => nvDone qp cid (v % 2 ^ 32) (v / 2 ^ 32) s
  | none => nvFail qp cid nvBadField s

/-- A clear of CC.EN resets its controller: its I/O queues go, its other commands are dropped, and what was set through it returns to its
first values (Table 15-5). -/
def resetController (id cid : Nat) (s : State) : State :=
  match ctrlAt id s with
  | none => s
  | some k =>
    let io := (ctrlQps id s).filter (fun q => q != k.adminQp)
    let s1 := io.foldl (fun st q => closeQueue q st) s
    let s2 := modifyNvme (fun n => { n with commands := n.commands.filter (fun c => c.qp != k.adminQp || c.cid == cid) }) s1
    powerSync (modifyCtrl id (fun x => { x with granted := none, ioSeen := false, ready := false, shst := 0, ps := 0, operational := 0
                                                apste := false, apst := List.replicate 32 0, aec := 0, masked := [], events := [] }) s2)

/-- Property Set of CC; every other property is refused. EN set makes RDY follow; a shutdown notification begins a shutdown, complete
once every other command of the controller has completed. -/
def propertySet (qp cid : Nat) (c : Bytes) (k : Controller) (s : State) : State :=
  let v := fieldAt c 48 4
  if fieldAt c 40 1 % 8 ≠ 0 ∨ fieldAt c 44 4 ≠ 0x14 ∨ bitsOf v 19 16 ≠ 6 ∨ bitsOf v 23 20 ≠ 4 then nvFail qp cid nvBadField s
  else
    let s1 := if bitOf k.cc 0 = true ∧ bitOf v 0 = false then resetController k.id cid s else s
    let s2 := modifyCtrl k.id (fun x => { x with cc := v, ready := bitOf v 0 }) s1
    let s3 := if bitsOf v 15 14 ≠ 0 ∧ bitsOf k.cc 15 14 = 0 then modifyCtrl k.id (fun x => { x with shst := 1 }) s2 else s2
    nvDone qp cid 0 0 s3

/-! ## Identify (R376, R378, Table 15-3) -/

/-- Text in a field, filled with spaces. -/
def textField (n : Nat) (t : Bytes) : Bytes := (t ++ List.replicate n 0x20).take n

/-- A power state descriptor: MP in 0.01 W, NOPS, latencies in µs, relative rank (Table 15-8). -/
def powerDescriptor (mp nops enlat exlat rank : Nat) : Bytes :=
  packFields [(2, mp), (1, 0), (1, 2 * nops), (4, enlat), (4, exlat), (1, rank), (1, rank), (1, rank), (1, rank), (16, 0)]

/-- Identify Controller (Tables 15-1, 15-3, 15-8). -/
def identifyController (k : Controller) (s : State) : Bytes :=
  let front := packFields [(2, Config.pciVendor), (2, Config.pciVendor)] ++ textField 20 (hexText (s.media.arrayUid.take 10))
    ++ textField 40 (asciiBytes "Colko Hexgan HX9256") ++ textField 8 (hexText (beBytes 4 (runningRelease s)))
  let b1 := overlay (zeros 4096) 0 front
  let b2 := overlay b1 77 (packFields [(1, 9), (2, k.id), (4, 0x00020000)])
  let b3 := overlay b2 111 [1]
  let b4 := overlay b3 256 (packFields [(2, 8), (1, 3), (1, 15), (1, 0), (1, 0), (1, 63), (1, 3), (1, 0), (1, 1)])
  let b5 := overlay b4 320 (leBytes 2 10)
  let b6 := overlay b5 342 (packFields [(1, 2), (1, 0x57), (4, 2), (4, 2)])
  let b7 := overlay b6 512 (packFields [(1, 0x66), (1, 0x44), (2, 32), (4, 1024), (2, 0x000D)])
  let b8 := overlay (overlay b7 525 [1]) 536 (leBytes 4 0x00100005)
  let b9 := overlay b8 768 (padTo 256 (subsysNqn s))
  let b10 := overlay b9 1792 (packFields [(4, 516), (4, 1), (2, 0), (1, 0), (1, 1)])
  overlay b10 2048 (powerDescriptor 42000 0 0 0 0 ++ powerDescriptor 32000 0 10 20 1 ++ powerDescriptor 20000 1 100 200 2
    ++ powerDescriptor 7000 1 1000 2000 3)

/-- Mapped logical blocks of a namespace, or of the snapshot it exposes. -/
def mappedBlocks (n : Namespace) (s : State) : Nat :=
  let grains := match n.exposes with
    | none => (s.map.live.filter (fun e => e.1 / 2 ^ 31 == n.id)).length
    | some (src, snap) => ((List.range ((n.size + 16383) / 16384)).filter (fun g => resolveGrain src snap g s != 0)).length
  grains * 16384 / 2 ^ n.lbaLog2

/-- The formats: LBAF0 4,096 bytes RP 0, LBAF1 512 bytes RP 2. -/
def lbaFormats : Bytes := packFields [(2, 0), (1, 12), (1, 0), (2, 0), (1, 9), (1, 2)]

/-- Identify Namespace (R378). -/
def identifyNamespace (n : Namespace) (s : State) : Bytes :=
  let blocks := n.size / 2 ^ n.lbaLog2
  let grain := 16384 / 2 ^ n.lbaLog2 - 1
  let b1 := overlay (zeros 4096) 0 (packFields [(8, blocks), (8, blocks), (8, mappedBlocks n s), (1, 0x13), (1, 1),
    (1, if n.lbaLog2 = 12 then 0 else 1)])
  let b2 := overlay b1 33 [0x09]
  let b3 := overlay b2 34 (packFields [(2, grain), (2, grain), (2, 0), (2, grain), (2, 0)])
  let b4 := overlay b3 64 (leBytes 2 grain)
  let b5 := overlay b4 92 (leBytes 4 (nsGroup n))
  overlay (overlay b5 104 (padTo 16 n.nguid)) 128 lbaFormats

/-- What Identify Namespace of every namespace has in common: NSID 0xFFFF_FFFF. -/
def identifyCommon : Bytes := overlay (overlay (overlay (zeros 4096) 24 [0x13, 1]) 33 [0x09]) 128 lbaFormats

/-- A list of 32-bit IDs in ascending order, at most 1,024. -/
def idList (ids : List Nat) : Bytes := padTo 4096 (((sortByKey (fun (i : Nat) => [(i : Int)]) ids).take 1024).flatMap (leBytes 4))

/-- A controller list: count, then 16-bit IDs in ascending order. -/
def controllerList (ids : List Nat) : Bytes :=
  let xs := (sortByKey (fun (i : Nat) => [(i : Int)]) ids).take 2047
  padTo 4096 (leBytes 2 xs.length ++ xs.flatMap (leBytes 2))

/-- NSIDs that are attached to a controller's host. -/
def attachedNsids (k : Controller) (s : State) : List Nat := (s.map.namespaces.filter (fun n => n.hosts.contains k.host)).map (·.id)

/-- The controllers of the head at or above an ID whose host a namespace is attached to. -/
def attachedCtrls (n : Namespace) (s : State) : List Nat := (s.nvme.controllers.filter (fun k => n.hosts.contains k.host)).map (·.id)

/-- Identify (Table 15-2). -/
def identify (qp cid : Nat) (c : Bytes) (k : Controller) (s : State) : State :=
  let nsid := sqeNsid c
  let from' := bitsOf (sqeDw 10 c) 31 16
  let bad := nvFail qp cid nvBadNamespace s
  match sqeDw 10 c % 256 with
  | 0x00 =>
    if nsid = 0xFFFFFFFF then nvReturn qp cid 0 identifyCommon s
    else
      match nsFor qp nsid s with
      | some n => nvReturn qp cid 0 (identifyNamespace n s) s
      | none => bad
  | 0x01 => nvReturn qp cid 0 (identifyController k s) s
  | 0x02 => if 0xFFFFFFFE ≤ nsid then bad else nvReturn qp cid 0 (idList ((attachedNsids k s).filter (fun i => decide (nsid < i)))) s
  | 0x03 =>
    match nsFor qp nsid s with
    | some n => nvReturn qp cid 0 (padTo 4096 (packFields [(1, 2), (1, 16), (2, 0)] ++ padTo 16 n.nguid)) s
    | none => bad
  | 0x10 =>
    if 0xFFFFFFFE ≤ nsid then bad
    else nvReturn qp cid 0 (idList ((s.map.namespaces.map (·.id)).filter (fun i => decide (nsid < i)))) s
  | 0x11 =>
    match nsAt nsid s with
    | some n => nvReturn qp cid 0 (identifyNamespace n s) s
    | none => bad
  | 0x12 =>
    match nsAt nsid s with
    | some n => nvReturn qp cid 0 (controllerList ((attachedCtrls n s).filter (fun i => decide (from' ≤ i)))) s
    | none => bad
  | 0x13 => nvReturn qp cid 0 (controllerList ((s.nvme.controllers.map (·.id)).filter (fun i => decide (from' ≤ i)))) s
  | _ => nvFail qp cid nvBadField s

/-! ## Log pages (R384-R386) -/

/-- An entry of log 0x01; the Almanac sequence stands in the command specific information (DESIGN CHOICE 12). -/
def errorBytes (e : ErrorEntry) : Bytes :=
  packFields [(8, e.count), (2, e.sqid), (2, e.cid), (2, 2 * e.status), (2, e.location), (8, e.lba), (4, e.nsid), (1, 0), (1, 1), (2, 0),
    (6, e.almSeq), (2, 0), (24, 0)]

/-- Log 0x01. -/
def errorLog (s : State) : Bytes := padTo 4096 (s.nvme.errors.flatMap errorBytes)

/-- A temperature in 1/8 °C, in kelvin. -/
def kelvin (t : Int) : Nat := ((t + 8 * 273) / 8).toNat

/-- The highest of some temperatures. -/
def hottest (ts : List Int) : Int :=
  match ts with
  | [] => 0
  | t :: rest => rest.foldl max t

/-- Log 0x02 (Table 15-7). -/
def healthLog (s : State) : Bytes :=
  let n := s.nvme
  let front := packFields [(1, criticalWarning s), (2, kelvin (hottest s.thermal.tjQ)), (1, min 100 (sparePct s / 100)),
    (1, paramNat 0x0907 0 s), (1, min 255 (wearPct s / 100)), (26, 0)]
  let body := packFields [(16, (n.readBytes + 511999) / 512000), (16, (n.writtenBytes + 511999) / 512000), (16, n.readCommands),
    (16, n.writeCommands), (16, n.busyMinutes), (16, s.time.powerCycles), (16, opHours s), (16, n.unsafeShutdowns), (16, n.mediaErrors),
    (16, n.errorCount), (4, n.warnMinutes), (4, n.critMinutes), (2, kelvin (8 * hottest (s.media.bridges.map (·.tempMax)))),
    (2, kelvin (hottest s.thermal.tempHbm))]
  padTo 512 (front ++ body)

/-- Log 0x04: the changed NSIDs. -/
def changedLog (k : Controller) : Bytes := idList k.changed

/-- Log 0x0C: both groups with their states; with RGO set, without their NSIDs. -/
def anaLog (rgo : Bool) (k : Controller) (s : State) : Bytes :=
  let group := fun (g : Nat) =>
    let ids := if rgo then [] else sortByKey (fun (i : Nat) => [(i : Int)])
      ((s.map.namespaces.filter (fun n => n.hosts.contains k.host && nsGroup n == g)).map (·.id))
    packFields [(4, g), (4, ids.length), (8, s.nvme.anaChanges), (1, anaState g s), (15, 0)] ++ ids.flatMap (leBytes 4)
  packFields [(8, s.nvme.anaChanges), (2, 2), (6, 0)] ++ group 1 ++ group 2

/-- The host has read a log page with RAE cleared: its event type is no longer masked, and the changed NSIDs are told. -/
def logRead (k : Controller) (lid : Nat) (rae : Bool) (s : State) : State :=
  if rae then s
  else modifyCtrl k.id (fun x => { x with masked := x.masked.filter (fun m => m != lid), changed := if lid = 4 then [] else x.changed }) s

/-- Get Log Page (Table 15-2): log 0x02 takes NSID 0xFFFF_FFFF only. -/
def getLog (qp cid : Nat) (c : Bytes) (k : Controller) (s : State) : State :=
  let lid := sqeDw 10 c % 256
  let len := 4 * (bitsOf (sqeDw 10 c) 31 16 + 65536 * (sqeDw 11 c % 65536) + 1)
  let off := sqeDw 12 c + 2 ^ 32 * sqeDw 13 c
  let page := match lid with
    | 0x01 => some (errorLog s)
    | 0x02 => some (healthLog s)
    | 0x04 => some (changedLog k)
    | 0x0C => some (anaLog (bitOf (sqeDw 10 c) 8) k s)
    | _ => none
  match page with
  | none => nvFail qp cid nvBadLog s
  | some bytes =>
    if (lid = 2 ∧ sqeNsid c ≠ 0xFFFFFFFF) ∨ bytes.length < off ∨ 2097152 < len then nvFail qp cid nvBadField s
    else logRead k lid (bitOf (sqeDw 10 c) 15) (nvReturn qp cid 0 (padTo len (bytes.drop off)) s)

/-! ## Namespace Management and Attachment (R379-R381) -/

/-- Waits until the peer has acknowledged a table change, then completes with a result dword (R379). -/
def nvAfter (qp cid dw0 : Nat) (m : Option Nat) (s : State) : State :=
  awaitOp { client := { qp := qp, id := cid }, done := leBytes 4 dw0, mseqs := m.toList, stamps := [], through := false, fua := false,
            forward := none } (modifyNvCmd qp cid (fun x => { x with stage := .acking }) s)

/-- Namespace Management create. -/
def namespaceCreate (qp cid : Nat) (data : Bytes) (s : State) : State :=
  let lbaLog2 := match fieldAt data 26 1 % 16 with
    | 0 => 12
    | 1 => 9
    | _ => 0
  let size := fieldAt data 0 8 * 2 ^ lbaLog2
  let group := fieldAt data 92 4
  let domain := paramNat 0x0F03 0 s
  if fieldAt data 8 8 ≠ fieldAt data 0 8 ∨ nsShapeOk size lbaLog2 = false ∨ 2 < group ∨ (domainAt domain s).isNone = true then
    nvFail qp cid nvBadField s
  else
    match createNs domain size lbaLog2 group none s with
    | none => nvFail qp cid nvNoNsid s
    | some (id, m, s1) => nvAfter qp cid id m s1

/-- Namespace Management delete. -/
def namespaceDelete (qp cid nsid : Nat) (s : State) : State :=
  match nsAt nsid s with
  | none => nvFail qp cid nvBadNamespace s
  | some n => if nsPinned nsid s then nvFail qp cid nvWriteProtected s else nvDone qp cid 0 0 (deleteNs n s)

/-- Namespace Attachment: the hosts of the listed controllers are attached or detached (R381). -/
def namespaceAttach (qp cid nsid : Nat) (attach : Bool) (data : Bytes) (s : State) : State :=
  let n := min (fieldAt data 0 2) 2047
  let ids := (List.range n).map (fun i => fieldAt data (2 + 2 * i) 2)
  let hosts := distinct (ids.filterMap (fun i => (ctrlAt i s).map (·.host)))
  match nsAt nsid s with
  | none => nvFail qp cid nvBadNamespace s
  | some x =>
    if ids = [] ∨ ids.any (fun i => (ctrlAt i s).isNone) = true then nvFail qp cid nvBadList s
    else if hosts.any (fun h => x.hosts.contains h == attach) then nvFail qp cid (if attach then nvAttached else nvNotAttached) s
    else
      let (m, s1) := attachNs x hosts attach s
      nvAfter qp cid 0 m s1

/-! ## Abort (R383) -/

/-- Whether a command has not reached its catch point. -/
def catchable (c : NvmeCmd) : Bool :=
  match c.stage with
  | .held => true
  | .pulling => true
  | .event => true
  | .forwarded => false
  | .acking => sqeOpcode c.capsule == 0 || sqeOpcode c.capsule == 2

/-- RDMA READs of a caught command: those sent are no longer its own, those that wait are not sent. -/
def discardReads (qp cid : Nat) (s : State) : State :=
  let mine := fun (u : ReadUse) => u.id == cid
  let orphan := fun (p : OutPacket) => match p.read with
    | some (a, k, n, u) => if mine u then { p with read := some (a, k, n, { u with id := 65536 }) } else p
    | none => p
  let keep := fun (m : OutMsg) => match m with
    | .read _ _ _ u => !mine u
    | _ => true
  modifyQp qp (fun x => { x with sent := x.sent.map orphan, waiting := x.waiting.filter keep }) s

/-- Catches a command: it ends with Command Abort Requested and leaves no change. -/
def catchCmd (c : NvmeCmd) (s : State) : State :=
  let s1 := modifyIngest (fun i => { i with ops := i.ops.filter (fun o => !(o.client == { qp := c.qp, id := c.cid } && o.forward.isNone)) }) s
  settle (nvFail c.qp c.cid nvAborted (discardReads c.qp c.cid s1))

/-- Abort. -/
def abortCmd (qp cid : Nat) (c : Bytes) (k : Controller) (s : State) : State :=
  let sqid := sqeDw 10 c % 65536
  let victim := (s.nvme.queues.find? (fun x => x.controller == some k.id && x.qid == sqid)).bind (fun x => nvCmd x.qp (sqeDw 10 c / 65536) s)
  match victim.filter (fun v => catchable v && !(v.qp == qp && v.cid == cid)) with
  | some v => nvDone qp cid 0 0 (countNvme (fun n => { n with abortsCaught := bump n.abortsCaught }) (catchCmd v s))
  | none => nvDone qp cid 1 0 (countNvme (fun n => { n with abortsMissed := bump n.abortsMissed }) s)

/-! ## Features (Table 15-4) -/

/-- An APST entry is legal: zero, or in place 2 or 3 with ITPS 2 or 3 (R388). -/
def apstOk (es : List Nat) : Bool :=
  (List.range 32).all (fun i =>
    let e := es.getD i 0
    e == 0 || ((i == 2 || i == 3) && (bitsOf e 7 3 == 2 || bitsOf e 7 3 == 3) && e % 8 == 0 && decide (e < 2 ^ 32)))

/-- Set Features. -/
def setFeatures (qp cid : Nat) (c data : Bytes) (k : Controller) (s : State) : State :=
  let v := sqeDw 11 c
  if bitOf (sqeDw 10 c) 31 then nvFail qp cid nvNotSaveable s
  else
    match sqeDw 10 c % 256 with
    | 0x02 => if 3 < v % 32 then nvFail qp cid nvBadField s else nvDone qp cid 0 0 (setPower k.id (v % 32) s)
    | 0x07 =>
      if k.granted.isSome = true ∨ k.ioSeen = true then nvFail qp cid nvSequence s
      else if v % 65536 = 65535 ∨ v / 65536 = 65535 then nvFail qp cid nvBadField s
      else
        let n := min (v % 65536 + 1) (paramNat 0x0F02 0 s)
        let m := min (v / 65536 + 1) (paramNat 0x0F02 0 s)
        nvDone qp cid (n - 1 + 65536 * (m - 1)) 0 (modifyCtrl k.id (fun x => { x with granted := some (min n m) }) s)
    | 0x0B =>
      if v % 256 + 256 * flagBit (bitOf v 8) + 2048 * flagBit (bitOf v 11) ≠ v then nvFail qp cid nvBadField s
      else nvDone qp cid 0 0 (modifyCtrl k.id (fun x => { x with aec := v }) s)
    | 0x0C =>
      let es := (List.range 32).map (fun i => fieldAt data (8 * i) 8)
      if apstOk es = false then nvFail qp cid nvBadField s
      else nvDone qp cid 0 0 (modifyCtrl k.id (fun x => { x with apste := bitOf v 0, apst := es }) s)
    | 0x0F =>
      if v = 0 then nvFail qp cid nvBadField s
      else nvDone qp cid 0 0 (modifyCtrl k.id (fun x => { x with kato := (v + 999) / 1000, katoFrom := s.time.ticks }) s)
    | _ => nvFail qp cid nvBadField s

/-- Get Features: SEL 0 current, 1 default, 2 the default too, 3 capabilities: changeable, not saveable, not per namespace. The manual gives no
default for Number of Queues and Keep Alive Timer, nor a count before the grant (DESIGN CHOICE 3). -/
def getFeatures (qp cid : Nat) (c : Bytes) (k : Controller) (s : State) : State :=
  let sel := bitsOf (sqeDw 10 c) 10 8
  let fid := sqeDw 10 c % 256
  if ¬ [0x02, 0x07, 0x0B, 0x0C, 0x0F].contains fid ∨ 3 < sel then nvFail qp cid nvBadField s
  else if sel = 3 then nvDone qp cid 4 0 s
  else
    match fid with
    | 0x02 => nvDone qp cid (if sel = 0 then k.ps else 0) 0 s
    | 0x0B => nvDone qp cid (if sel = 0 then k.aec else 0) 0 s
    | 0x0C => nvReturn qp cid (if sel = 0 then flagBit k.apste else 0) (if sel = 0 then k.apst.flatMap (leBytes 8) else zeros 256) s
    | 0x0F =>
      if sel = 0 then nvDone qp cid (1000 * k.kato) 0 s
      else
        let (n, s1) := undefNat s
        nvDone qp cid (n % 2 ^ 32) 0 s1
    | _ =>
      match k.granted, sel with
      | some g, 0 => nvDone qp cid (65537 * (g - 1)) 0 s
      | _, _ =>
        let (n, s1) := undefNat s
        nvDone qp cid (n % 2 ^ 32) 0 s1

/-- Asynchronous Event Request: it completes with the oldest event that waits, or waits itself; more than 16 are too many (R384). -/
def eventRequest (qp cid : Nat) (k : Controller) (s : State) : State :=
  if 16 ≤ (s.nvme.commands.filter (fun x => x.qp == qp && x.stage == .event)).length then nvFail qp cid nvEventLimit s
  else
    match k.events with
    | [] => modifyNvCmd qp cid (fun x => { x with stage := .event }) s
    | (log, dword) :: rest =>
      countNvme (fun n => { n with aenSent := bump n.aenSent })
        (nvDone qp cid dword 0 (modifyCtrl k.id (fun x => { x with events := rest, masked := x.masked ++ [log] }) s))

/-! ## Running an admin command -/

/-- Bytes of host data that an admin command brings. -/
def adminIn (c : Bytes) : Option Nat :=
  match sqeOpcode c with
  | 0x7F => if fieldAt c 4 1 = 1 then some 1024 else none
  | 0x0D => if sqeDw 10 c % 16 = 0 then some 4096 else none
  | 0x15 => some 4096
  | 0x09 => if sqeDw 10 c % 256 = 0x0C ∧ bitOf (sqeDw 10 c) 31 = false then some 256 else none
  | _ => none

/-- A Disconnect (R371): the command completes; on queue 0 the controller ends, else the queue is closed. -/
def disconnect (qp cid : Nat) (s : State) : State :=
  match nvQueue qp s with
  | none => s
  | some x =>
    let s1 := nvDone qp cid 0 0 s
    match x.controller with
    | some id => if x.qid = 0 then endController id s1 else powerSync (closeQueue qp s1)
    | none => s1

/-- A fabrics command (R376). -/
def fabricsRun (qp cid : Nat) (c data : Bytes) (s : State) : State :=
  match fieldAt c 4 1, qpCtrl qp s with
  | 1, _ => connect qp cid c data s
  | _, none => nvFail qp cid nvSequence s
  | 0, some k => if k.adminQp = qp then propertySet qp cid c k s else nvFail qp cid nvBadField s
  | 4, some k => if k.adminQp = qp then propertyGet qp cid c k s else nvFail qp cid nvBadField s
  | 8, some _ => if fieldAt c 40 2 = 0 then disconnect qp cid s else nvFail qp cid 0x180 s
  | _, some _ => nvFail qp cid nvBadField s

/-- Runs an admin or fabrics command whose data is all here. -/
def adminRun (qp cid : Nat) (data : Bytes) (s : State) : State :=
  match nvCmd qp cid s with
  | none => s
  | some x =>
    let c := x.capsule
    if sqeOpcode c = 0x7F then fabricsRun qp cid c data s
    else
      match qpCtrl qp s with
      | none => nvFail qp cid nvSequence s
      | some k =>
        if k.adminQp ≠ qp then nvFail qp cid nvBadOpcode s
        else
          match sqeOpcode c with
          | 0x02 => getLog qp cid c k s
          | 0x06 => identify qp cid c k s
          | 0x08 => abortCmd qp cid c k s
          | 0x09 => setFeatures qp cid c data k s
          | 0x0A => getFeatures qp cid c k s
          | 0x0C => eventRequest qp cid k s
          | 0x0D =>
            match sqeDw 10 c % 16 with
            | 0 => namespaceCreate qp cid data s
            | 1 => namespaceDelete qp cid (sqeNsid c) s
            | _ => nvFail qp cid nvBadField s
          | 0x15 =>
            match sqeDw 10 c % 16 with
            | 0 => namespaceAttach qp cid (sqeNsid c) true data s
            | 1 => namespaceAttach qp cid (sqeNsid c) false data s
            | _ => nvFail qp cid nvBadField s
          | 0x18 => nvDone qp cid 0 0 s
          | _ => nvFail qp cid nvBadOpcode s

/-- Starts an admin command: its data is taken from the capsule, or read from the host (R374). -/
def adminGo (qp cid : Nat) (s : State) : State :=
  match nvCmd qp cid s with
  | none => s
  | some x =>
    match adminIn x.capsule with
    | none => adminRun qp cid [] s
    | some n =>
      match nvData x.capsule n 4096 with
      | .error st => nvFail qp cid st s
      | .ok (.inCapsule data) => adminRun qp cid data s
      | .ok (.keyed addr key) =>
        qpSend qp [.read addr key n { id := cid, offset := 0 }] (modifyNvCmd qp cid (fun c => { c with stage := .pulling }) s)

/-- RDMA READ data of an NVMe command has come: an admin command's whole data, or a part of an I/O command's. -/
def nvReadDone (qp cid off : Nat) (data : Bytes) (s : State) : State :=
  if ((nvQueue qp s).map (fun q => decide (q.qid ≠ 0) && q.controller.isSome)).getD false then nvPulled qp cid off data s
  else adminRun qp cid data s

/-- Runs every held admin command, in order of arrival (R382). -/
def resumeAdmin (s : State) : State :=
  s.nvme.commands.foldl (fun st c =>
    let io := ((nvQueue c.qp st).map (fun q => decide (q.qid ≠ 0) && q.controller.isSome)).getD false
    if io = false ∧ ((nvCmd c.qp c.cid st).map (·.stage)) = some .held ∧ nvHolds false st = false then adminGo c.qp c.cid st else st) s

/-- Aborts outstanding on the controller of a queue pair. -/
def abortsOut (qp : Nat) (s : State) : Nat := (s.nvme.commands.filter (fun c => c.qp == qp && sqeOpcode c.capsule == 0x08)).length

/-- Takes and runs a capsule under a row's opcode and, where the row has them, the command's own discriminators. A fifth Abort outstanding
on a controller is too many (R383). -/
def adminRow (set : List (Nat × Bytes)) (qp : Nat) (capsule : Bytes) (s : State) : State :=
  let c := set.foldl (fun b x => overlay b x.1 x.2) (padTo (max 64 capsule.length) capsule)
  let (live, s1) := nvTake qp c s
  if live = false then s1
  else if sqeOpcode c = 0x08 ∧ 4 < abortsOut qp s1 then nvFail qp (sqeCid c) nvAbortLimit s1
  else if nvHolds false s1 then s1
  else adminGo qp (sqeCid c) s1

/-- The low byte of a command dword, kept apart from its upper bytes. -/
def dwByte (n v : Nat) : Nat × Bytes := (4 * n, leBytes 1 v)

/-- CONNECT (R368, R369). -/
def execConnect (qp : Nat) (capsule : Bytes) (s : State) : Host.Outcome State Fault Refusal :=
  .next (adminRow [(0, [0x7F]), (4, [1])] qp capsule s)

/-- PROPERTY_GET (Table 15-5). -/
def execPropertyGet (qp : Nat) (capsule : Bytes) (s : State) : Host.Outcome State Fault Refusal :=
  .next (adminRow [(0, [0x7F]), (4, [4])] qp capsule s)

/-- CC_EN: a Property Set of CC that enables or resets (Table 15-5). -/
def execCcEn (qp : Nat) (capsule : Bytes) (s : State) : Host.Outcome State Fault Refusal :=
  .next (adminRow [(0, [0x7F]), (4, [0])] qp capsule s)

/-- CC_SHN: a Property Set of CC that notifies of a shutdown (Table 15-5). -/
def execCcShn (qp : Nat) (capsule : Bytes) (s : State) : Host.Outcome State Fault Refusal :=
  .next (adminRow [(0, [0x7F]), (4, [0])] qp capsule s)

/-- DISCONNECT (R371). -/
def execDisconnect (qp : Nat) (capsule : Bytes) (s : State) : Host.Outcome State Fault Refusal :=
  .next (adminRow [(0, [0x7F]), (4, [8])] qp capsule s)

/-- NVME_IDENTIFY (R376, R378). -/
def execNvmeIdentify (qp : Nat) (capsule : Bytes) (s : State) : Host.Outcome State Fault Refusal :=
  .next (adminRow [(0, [0x06])] qp capsule s)

/-- GET_LOG_PAGE (R384-R386). -/
def execGetLogPage (qp : Nat) (capsule : Bytes) (s : State) : Host.Outcome State Fault Refusal :=
  .next (adminRow [(0, [0x02])] qp capsule s)

/-- NAMESPACE_CREATE (R379). -/
def execNamespaceCreate (qp : Nat) (capsule : Bytes) (s : State) : Host.Outcome State Fault Refusal :=
  .next (adminRow [(0, [0x0D]), dwByte 10 0] qp capsule s)

/-- NAMESPACE_DELETE (R380). -/
def execNamespaceDelete (qp : Nat) (capsule : Bytes) (s : State) : Host.Outcome State Fault Refusal :=
  .next (adminRow [(0, [0x0D]), dwByte 10 1] qp capsule s)

/-- NAMESPACE_ATTACH (R381). -/
def execNamespaceAttach (qp : Nat) (capsule : Bytes) (s : State) : Host.Outcome State Fault Refusal :=
  .next (adminRow [(0, [0x15]), dwByte 10 0] qp capsule s)

/-- NAMESPACE_DETACH (R381). -/
def execNamespaceDetach (qp : Nat) (capsule : Bytes) (s : State) : Host.Outcome State Fault Refusal :=
  .next (adminRow [(0, [0x15]), dwByte 10 1] qp capsule s)

/-- ABORT (R383). -/
def execAbort (qp : Nat) (capsule : Bytes) (s : State) : Host.Outcome State Fault Refusal :=
  .next (adminRow [(0, [0x08])] qp capsule s)

/-- SET_FEATURES_POWER_MANAGEMENT (R387). -/
def execSetFeaturesPowerManagement (qp : Nat) (capsule : Bytes) (s : State) : Host.Outcome State Fault Refusal :=
  .next (adminRow [(0, [0x09]), dwByte 10 0x02] qp capsule s)

/-- SET_FEATURES_NUMBER_OF_QUEUES (R369). -/
def execSetFeaturesNumberOfQueues (qp : Nat) (capsule : Bytes) (s : State) : Host.Outcome State Fault Refusal :=
  .next (adminRow [(0, [0x09]), dwByte 10 0x07] qp capsule s)

/-- SET_FEATURES_ASYNC_EVENT_CONFIG (R384). -/
def execSetFeaturesAsyncEventConfig (qp : Nat) (capsule : Bytes) (s : State) : Host.Outcome State Fault Refusal :=
  .next (adminRow [(0, [0x09]), dwByte 10 0x0B] qp capsule s)

/-- SET_FEATURES_APST (R388). -/
def execSetFeaturesApst (qp : Nat) (capsule : Bytes) (s : State) : Host.Outcome State Fault Refusal :=
  .next (adminRow [(0, [0x09]), dwByte 10 0x0C] qp capsule s)

/-- SET_FEATURES_KEEP_ALIVE_TIMER (R372). -/
def execSetFeaturesKeepAliveTimer (qp : Nat) (capsule : Bytes) (s : State) : Host.Outcome State Fault Refusal :=
  .next (adminRow [(0, [0x09]), dwByte 10 0x0F] qp capsule s)

/-- GET_FEATURES (Table 15-4). -/
def execGetFeatures (qp : Nat) (capsule : Bytes) (s : State) : Host.Outcome State Fault Refusal :=
  .next (adminRow [(0, [0x0A])] qp capsule s)

/-- ASYNCHRONOUS_EVENT_REQUEST (R384). -/
def execAsynchronousEventRequest (qp : Nat) (capsule : Bytes) (s : State) : Host.Outcome State Fault Refusal :=
  .next (adminRow [(0, [0x0C])] qp capsule s)

/-- KEEP_ALIVE: its completion restarts the timer (R372). -/
def execKeepAlive (qp : Nat) (capsule : Bytes) (s : State) : Host.Outcome State Fault Refusal :=
  .next (adminRow [(0, [0x18])] qp capsule s)

/-- KATO_EXPIRY: the expiry has won its race, and the controller ends (R372). While the target is quiesced the timers stand still. -/
def execKatoExpiry (controller : Nat) (s : State) : Host.Outcome State Fault Refusal :=
  .next (if (ctrlAt controller s).isNone = true ∨ nvHolds false s = true then s
         else endController controller (countNvme (fun k => { k with katoExpired := bump k.katoExpired }) s))

/-- Whether no I/O queue of a controller has a command outstanding. -/
def ioIdle (id : Nat) (s : State) : Bool :=
  let k := ctrlAt id s
  (ctrlCommands id s).all (fun c => some c.qp == k.map (·.adminQp))

/-- APST_IDLE_TIMER: a controller whose I/O queues have been idle for the ITPT of entry `entry` moves to its ITPS (R388). -/
def apstIdle (id entry : Nat) (s : State) : State :=
  match ctrlAt id s with
  | none => s
  | some k =>
    let e := k.apst.getD entry 0
    if k.apste = true ∧ e ≠ 0 ∧ ioIdle id s = true then setPower id (bitsOf e 7 3) s else s

/-- APST_IDLE_TIMER (R388). -/
def execApstIdleTimer (controller entry : Nat) (s : State) : Host.Outcome State Fault Refusal := .next (apstIdle controller entry s)

end Sys2Proof.Machine
end

