-- ==== Sys2Proof/Machine/Sheaf.lean ====
section
/-! DEFINITION. The Sheaf object service (16): requests and replies, PUT in fills, GET, STAT, LIST, DELETE, retention holds. -/

namespace Sys2Proof.Machine

/-! ## Requests -/

/-- The queue pair number that stands for the peer: a verb it forwarded, with its FWD_ID for the TAG (R397). -/
def peerQp : Nat := 2 ^ 32

/-- The service connection of a queue pair. -/
def shConn (qp : Nat) (s : State) : Option SheafConn := s.sheaf.conns.find? (fun c => c.qp == qp)

/-- Changes a service connection. -/
def modifyConn (qp : Nat) (f : SheafConn → SheafConn) (s : State) : State :=
  modifySheaf (fun x => { x with conns := mapIf (fun c => c.qp == qp) f x.conns }) s

/-- The object domain of a request: its connection's, or the one a forwarded request carries in the two bytes behind its header
(DESIGN CHOICE 23). -/
def shDomain (qp : Nat) (r : Bytes) (s : State) : Option ObjDomain :=
  if qp = peerQp then objdomAt (fieldAt r 64 2) s else (shConn qp s).bind (fun c => objdomAt c.objDomain s)

/-- Sets where a request stands. -/
def shStage (qp tag : Nat) (st : SheafStage) (s : State) : State :=
  modifySheaf (fun x => { x with requests := mapIf (fun r => r.qp == qp && r.tag == tag) (fun r => { r with stage := st }) x.requests }) s

/-- Ends an outstanding request: a reply to its client, or FORWARD_DONE, whose result begins with the REASON of a refusal
(DESIGN CHOICE 23). -/
def shAnswer (qp tag : Nat) (st : Status) (reason : Nat) (away : Bool) (result : Bytes) (s : State) : State :=
  match shReq qp tag s with
  | none => s
  | some r =>
    if qp = peerQp then
      forwardDone tag st (padTo 16 (if st.toNat < 2 then result else leBytes 2 reason))
        (modifySheaf (fun x => { x with requests := x.requests.erase r }) s)
    else shEnd qp tag (shReply (shVerb r.bytes) tag st reason away result s) s

/-- Refuses a request with a reason (Table 16-7). -/
def shFail (qp tag : Nat) (st : Status) (reason : Nat) (s : State) : State := shAnswer qp tag st reason false [] s

/-- Ends a request with ST_OK and a result. -/
def shOk (qp tag : Nat) (result : Bytes) (s : State) : State := shAnswer qp tag stOk 0 false result s

/-- Lets a request wait for its acknowledgement point (Table 3-4), with its result. -/
def shAwait (qp tag domain : Nat) (st : Status) (result : Bytes) (mseqs : List Nat) (stamps : List (Nat × Nat)) (s : State) : State :=
  match shReq qp tag s with
  | none => s
  | some r =>
    let peer := decide (qp = peerQp)
    let op : WriteOp :=
      { client := ⟨qp, tag⟩, done := if peer then padTo 16 result else shReply (shVerb r.bytes) tag st 0 false result s, mseqs := mseqs
        stamps := stamps, through := decide (scopeParam 2 domain 0x0304 s ≠ 0), fua := false, forward := if peer then some tag else none }
    awaitOp op (if peer then modifySheaf (fun x => { x with requests := x.requests.erase r }) s else shStage qp tag .acking s)

/-- Sends a request to the owner, with the owner's number for its PUT, and the object domain in front of the payload (R397,
DESIGN CHOICE 23). -/
def shForward (qp tag domain : Nat) (remote : Option Nat) (payload : Bytes) (s : State) : State :=
  match shReq qp tag s with
  | none => s
  | some r =>
    let h := match remote with
      | some n => overlay (r.bytes.take 64) 8 (leBytes 4 n)
      | none => r.bytes.take 64
    (forwardSend 2 h (leBytes 2 domain ++ payload) (some (qp, tag)) none (countSheaf (fun k => { k with forwarded := bump k.forwarded }) (shStage qp tag .forwarded s))).2

/-! ## Objects -/

/-- A request's key. -/
def shKey (r : Bytes) : Bytes := slice r 8 32

/-- The highest object number plus one of an object that means "none". -/
def noObject : Nat := 2 ^ 64 - 1

/-- Whether an object number names anything: a record, pieces, or a PUT under way. -/
def numberUsed (n : Nat) (s : State) : Bool :=
  (objectAt n s).isSome || s.ingest.objects.any (fun x => x.number == n) || s.sheaf.puts.any (fun x => x.number == n)
    || s.map.pieces.any (fun p => p.1 == n)

/-- The object number a new record takes: the lowest free one of the head's half (DESIGN CHOICE 23). -/
def freeNumber (s : State) : Nat :=
  let base := s.boot.headId * 2 ^ 35
  let bound := s.map.objects.length + s.ingest.objects.length + s.sheaf.puts.length + s.map.pieces.length + 1
  base + ((firstIndex bound (fun i => !numberUsed (base + i) s)).getD bound)

/-- The version of a key that is current under a snapshot, 0 for the live domain: DELETED counts as none (R292, R403). -/
def versionUnder (dom snap : Nat) (key : Bytes) (s : State) : Option ObjRecord :=
  let found :=
    if snap = 0 then currentVersion dom key s
    else match snapAt 2 dom snap s with
      | none => none
      | some x =>
        let older := s.map.objects.filter (fun o => o.objDomain == dom && o.key == key && decide (o.commitTime ≤ x.createTime))
        (sortByKey (fun (o : ObjRecord) => [(o.commitTime : Int)]) older).getLast?
  found.filter (fun o => o.state != 3)

/-- The version a request names: by key under SNAP, or by number (R394). -/
def versionOf (dom : Nat) (r : Bytes) (s : State) : Option ObjRecord :=
  if bitOf (shFlags r) 0 then (objectAt (fieldAt r 8 8) s).filter (fun o => o.objDomain == dom && (o.state == 1 || o.state == 2))
  else versionUnder dom (fieldAt r 4 2) (shKey r) s

/-- The bytes of an object in a range: its pieces and its BUFFERED records composed; nothing where a PIECES page of the range is not to be
had (R91, R108, R403). -/
def objectRead (o : ObjRecord) (off len : Nat) (f : MediaFacts) (s : State) : ChunkResult × MediaFacts × State :=
  let hit := fun (r : BufferedRec) => sameTarget (.piece o.number off len) r
  let rs := (s.ingest.own ++ s.ingest.mirror).filter hit
  let ps := (piecesOf o.number s).filter (fun p => decide (p.offset < off + len) && decide (off < p.offset + p.len))
  let put := fun (base : Bytes) (at' : Nat) (d : Bytes) => overlay base (at' - off) (d.drop (off - at'))
  let step := fun (acc : ChunkResult × MediaFacts × State) (p : Piece) =>
    match acc with
    | (.error st, f1, s1) => ((.error st : ChunkResult), f1, s1)
    | (.ok b, f1, s1) =>
      if entryChunk p.entry = 0 ∨ covers rs p.offset p.len = true then (.ok b, f1, s1)
      else match chunkReadTo (leNat (o.key.take 1) % 4) p.entry (off + len - p.offset) f1 s1 with
        | (.ok d, f2, s2) => (.ok (put b p.offset d), f2, s2)
        | (.error st, f2, s2) => (.error st, f2, s2)
  let lost := (List.range ((piecesOf o.number s).length / 1020 + 1)).any (fun i =>
    f.lostPages.contains (pageId 8 (o.number * 2 ^ 22 + i))
      && (((piecesOf o.number s).drop (1020 * i)).take 1020).any (fun p => ps.contains p))
  if lost then (.error stMedia, f, unrecovered (leNat (o.key.take 1) % 4) 0 none s)
  else
  match ps.foldl step (.ok (zeros len), f, s) with
  | (.error st, f1, s1) => (.error st, f1, s1)
  | (.ok b, f1, s1) =>
    let (b2, s2) := rs.foldl (fun (acc : Bytes × State) r =>
      let (d, st) := recordData r acc.2
      (put acc.1 r.off (padTo r.len d), st)) (b, s1)
    (.ok (b2.take len), f1, s2)

/-- Read-ahead after a read of an object, in pieces (R106). -/
def objectAhead (o : ObjRecord) (off len : Nat) (f : MediaFacts) (s : State) : State :=
  if scopeParam 2 o.objDomain 0x0400 s = 0 then s
  else
    let ps := piecesOf o.number s
    let first := (ps.filter (fun p => decide (p.offset + p.len ≤ off))).length
    let n := (ps.filter (fun p => decide (p.offset < off + len) && decide (off < p.offset + p.len))).length
    let q := leNat (o.key.take 1) % 4
    let (w, slots) := streamStep (2 ^ 32 + o.number) first n (readAheadMax s) (s.read.streams.getD q [])
    let s1 := { s with read := { s.read with streams := s.read.streams.set q slots } }
    let ahead := ps.filter (fun p => decide (off + len ≤ p.offset) && decide (p.offset < off + len + w))
    prefetch q (ahead.map (·.entry)) f s1

/-! ## Who may run (R188, R294, R409, R411) -/

/-- Whether ingest ownership of what prefers a head is passing to it: step 7 of Table 13-9 (R411). -/
def ownerPassing (owner : Nat) (s : State) : Bool :=
  baseMode s == .returning && owner == returningHead s &&
    (if s.headland.ret.inbound then
      (List.range 192).all (fun b =>
        ((s.media.bridges[b]?).map (fun h => h.preferred != s.boot.headId || h.state == 4)).getD true
          || ((s.furrow[b]?).map (·.leased)).getD false)
     else s.headland.ret.toHand.isEmpty && s.headland.ret.handing.isEmpty)

/-- Classes of verbs of Table 16-8: 0 PUT_BEGIN, PUT_DATA, PUT_COMMIT; 1 DELETE, HOLD, RELEASE_HOLD, PUT_ABORT; 2 reading verbs. -/
def verbClass (v : Nat) : Nat := if v = 2 ∨ v = 3 ∨ v = 4 then 0 else if v = 5 ∨ v = 8 ∨ v = 10 ∨ v = 11 then 1 else 2

/-- FLAGS that a verb lists (R393, R394). -/
def verbFlags (v : Nat) : Nat :=
  match v with
  | 4 => 4
  | 6 => 3
  | 7 => 1
  | 9 => 10
  | 10 => 1
  | 11 => 1
  | _ => 0

/-- Reserved ranges of a request's body, by verb (Table 16-4, R394). -/
def verbReserved (v : Nat) (byNumber : Bool) : List (Nat × Nat) :=
  let tail := if byNumber then [(0x10, 0x18)] else []
  match v with
  | 1 => [(0x09, 0x37)]
  | 2 => [(0x34, 12)]
  | 3 => [(0x0C, 0x1C)]
  | 4 => [(0x0C, 4), (0x20, 8)]
  | 5 => [(0x0C, 0x34)]
  | 6 => tail
  | 9 => [(0x28, 8)]
  | 10 => (0x30, 16) :: tail
  | _ => (0x28, 24) :: tail

/-- The checks of a request's form (R393, R394): status and reason of the failure. -/
def shForm (dom : Nat) (r : Bytes) (s : State) : Option (Status × Nat) :=
  let v := shVerb r
  let fl := shFlags r
  let snap := fieldAt r 4 2
  if r.length ≠ 64 ∨ v = 0 ∨ 11 < v then some (stBadOpcode, 0)
  else if fl &&& (255 - verbFlags v) ≠ 0 ∨ fieldAt r 6 2 ≠ 0
      ∨ ((verbReserved v (bitOf fl 0)).all (fun x => allZero (slice r x.1 x.2))) = false then some (stBadParam, 0)
  else if snap ≠ 0 ∧ (verbClass v ≠ 2 ∨ bitOf fl 0 = true) then some (stBadParam, 0)
  else if snap ≠ 0 ∧ (snapAt 2 dom snap s).isNone = true then some (stBadParam, 8)
  else none

/-- Whether a verb is held by a quiesce (Table 16-8). -/
def shQuiesced (v : Nat) (s : State) : Bool := isQuiesced 3 s || (verbClass v != 2 && isQuiesced 4 s)

/-- Whether a snapshot of an object domain is being created: versions of it are made after its barrier (Table 12-1). -/
def domainBarrier (dom : Nat) (s : State) : Bool := s.repl.jobs.any (fun j => j.kind == 2 && j.scope == dom)

/-- Whether a verb has to wait before it is taken: quiesced; it would pull data while admission has stopped (R63); a DELETE behind a
snapshot's barrier; or an earlier request for the same PUT waits. -/
def shMustHold (qp tag dom : Nat) (r : Bytes) (s : State) : Bool :=
  let v := shVerb r
  let fills := v == 3 || (v == 4 && fieldAt r 0x30 4 != 0)
  let before := (s.sheaf.requests.takeWhile (fun x => !(x.qp == qp && x.tag == tag))).filter (fun x => x.qp == qp && x.stage == .held)
  let same := before.any (fun x => (shVerb x.bytes == 3 || shVerb x.bytes == 4) && fieldAt x.bytes 8 4 == fieldAt r 8 4)
  (verbClass v != 2 && ((objdomAt dom s).map (fun o => ownerComing o.owner s)).getD false)
    || shQuiesced v s || (fills && s.ingest.stopped) || (v == 8 && domainBarrier dom s) || ((v == 3 || v == 4 || v == 5) && same)

/-! ## PUT (R398-R402) -/

/-- An open PUT of a queue pair. -/
def putAt (qp id : Nat) (s : State) : Option Put := s.sheaf.puts.find? (fun p => p.qp == qp && p.id == id)

/-- Changes an open PUT. -/
def modifyPut (qp id : Nat) (f : Put → Put) (s : State) : State :=
  modifySheaf (fun x => { x with puts := mapIf (fun p => p.qp == qp && p.id == id) f x.puts }) s

/-- The unit and the arena of a PUT's buffers: the write arena at the owner, the mirror arena at the other head (R61, R398). -/
def putArena (p : Put) (s : State) : Nat × Nat :=
  (0x20 + ((qpAt p.qp s).map (fun x => portQuadrant x.lport)).getD 0, if p.remote.isSome then 1 else 0)

/-- Grants a PUT its next zone, where R398 allows one; otherwise it goes on in pull mode. -/
def nextPutZone (qp id : Nat) (s : State) : State :=
  match putAt qp id s with
  | none => s
  | some p =>
    if p.zoneWant = 0 then s
    else
      let most := paramNat 0x1001 0 s * 1024
      let len := max 4096 (min p.zoneWant (min most (roundUp (p.size - p.accepted) 4096)))
      let pull := fun (st : State) => countSheaf (fun k => { k with fallbacks := bump k.fallbacks })
        (modifyPut qp id (fun x => { x with zone := none, zoneWant := 0 }) st)
      if most = 0 ∨ (nextZone s).isNone = true ∨ 32768 ≤ s.ports.lzQuarantined ∨ s.ingest.stopped = true then pull s
      else
        let (unit, arena) := putArena p s
        match takeRun unit arena (runLengths len) s with
        | none => pull (admissionCheck true s)
        | some (hs, s1) =>
          match grantZone qp len hs s1 with
          | none => pull s
          | some (z, s2) => modifyPut qp id (fun x => { x with zone := some z }) (admissionCheck false s2)

/-- The remote key and length of a PUT's current zone; zeros where it has none. -/
def putZoneKey (qp id : Nat) (s : State) : Nat × Nat :=
  match ((putAt qp id s).bind (·.zone)).bind (fun z => zoneAt z s) with
  | some z => (zoneKey z, z.len)
  | none => (0, 0)

/-- Opens a PUT and answers its client: `remote` is the owner's number of it, `number` its object number. -/
def openPut (qp tag : Nat) (dom : ObjDomain) (r : Bytes) (number : Nat) (remote : Option Nat) (s : State) : State :=
  let id := if qp = peerQp then s.sheaf.nextPeerPut else ((shConn qp s).map (·.nextPut)).getD 0
  let p : Put :=
    { qp := qp, id := id, objDomain := dom.id, key := shKey r, number := number, size := fieldAt r 0x28 8, accepted := 0, received := 0
      zone := none, zoneWant := if qp = peerQp then 0 else fieldAt r 0x30 4, fills := [], commit := none, commitSeq := 0, remote := remote
      lastVerb := s.time.ticks }
  let o : OpenObject :=
    { number := number, objDomain := dom.id, domain := dom.domain, quadrant := leNat (p.key.take 1) % 4, landed := 0
      size := some p.size, cut := 0 }
  let s1 := modifySheaf (fun x => { x with puts := x.puts ++ [p] }) s
  let s2 := if qp = peerQp then modifySheaf (fun x => { x with nextPeerPut := id + 1 }) s1
    else modifyConn qp (fun c => { c with nextPut := id + 1 }) s1
  let s3 := if remote.isSome then s2 else modifyIngest (fun i => { i with objects := i.objects ++ [o] }) s2
  if qp = peerQp then shOk qp tag (packFields [(4, id), (4, 0), (8, number)]) s3
  else
    let s4 := nextPutZone qp id s3
    let (k, n) := putZoneKey qp id s4
    shOk qp tag (packFields [(4, id), (4, k), (4, n), (1, flagBit (n != 0))]) s4

/-- PUT_BEGIN (R396, R398). -/
def putBegin (qp tag : Nat) (dom : ObjDomain) (r : Bytes) (s : State) : State :=
  let opening := fun (r : SheafReq) => r.qp == qp && r.stage == .forwarded && shVerb r.bytes == 2
  let openHere := (s.sheaf.puts.filter (fun p => p.qp == qp)).length + (s.sheaf.requests.filter opening).length
  if fieldAt r 0x30 4 % 4096 ≠ 0 then shFail qp tag stBadParam 0 s
  else if 2 ^ 44 < fieldAt r 0x28 8 then shFail qp tag stBadParam 0x0B s
  else if qp ≠ peerQp ∧ paramNat 0x1000 0 s ≤ openHere then shFail qp tag stNoResource 9 s
  else if ownsIngest dom.owner s = false then shForward qp tag dom.id none [] s
  else if 2 ^ 36 ≤ s.map.objects.length + (s.sheaf.puts.filter (fun p => p.remote.isNone)).length then shFail qp tag stNoResource 0x0C s
  else openPut qp tag dom r (freeNumber s) none s

/-- Why a fill may not be taken (R399): its reason. -/
def fillRefusal (p : Put) (r : Bytes) (s : State) : Option Nat :=
  let off := fieldAt r 0x28 8
  let len := fieldAt r 0x30 4
  if off ≠ p.accepted then some 3
  else if p.size < off + len then some 4
  else if p.qp = peerQp ∨ p.zoneWant = 0 then none
  else match p.zone.bind (fun z => zoneAt z s) with
    | none => some 0x0A
    | some z => if fieldAt r 0x34 4 ≠ zoneKey z ∨ z.len < fieldAt r 0x38 8 + len then some 0x0A else none

/-- The bytes of a fill that are here. -/
def fillData (x : Fill) : Bytes := (sortByKey (fun (p : Nat × Bytes) => [(p.1 : Int)]) x.pulled).flatMap (·.2)

/-- Issues the RDMA READs of a pull fill, in pieces of 4 MiB (R374's way; DESIGN CHOICE 22). -/
def pullFill (qp tag addr key len : Nat) (s : State) : State :=
  let reads := (List.range ((len + 4194303) / 4194304)).map (fun i =>
    OutMsg.read (addr + 4194304 * i) key (min 4194304 (len - 4194304 * i)) { id := tag, offset := 4194304 * i })
  qpSend qp reads s

/-- Takes a fill (R399, R400): it is stamped; its data is pulled, or its zone revoked; a forwarded one brings its data. -/
def takeFill (p : Put) (tag : Nat) (r : Bytes) (s : State) : State :=
  let len := fieldAt r 0x30 4
  let push := p.qp ≠ peerQp ∧ p.zoneWant ≠ 0
  let (seq, s1) := if p.remote.isSome then (0, s) else takeStamp (leNat (p.key.take 1) % 4) s
  let x : Fill :=
    { tag := tag, offset := fieldAt r 0x28 8, len := len, seq := seq, pulled := if p.qp = peerQp then [(0, r.drop 64)] else []
      zone := if push then p.zone.map (fun z => (z, fieldAt r 0x38 8)) else none }
  let next := fun (y : Put) => { y with accepted := y.accepted + len, fills := y.fills ++ [x], zone := if push then none else y.zone }
  let s2 := shStage p.qp tag .filling (modifyPut p.qp p.id next s1)
  if p.qp = peerQp then s2
  else match x.zone with
    | some z => revokeZone z.1 s2
    | none => pullFill p.qp tag (fieldAt r 0x38 8) (fieldAt r 0x34 4) len s2

/-- What waits in ingest for an object goes with the unmapping of its pieces. -/
def dropObjectIngest (o jseq : Nat) (m : Option Nat) (s : State) : State :=
  let ofObj := fun (t : Target) => match t with
    | .grain _ _ => false
    | .piece n _ _ => n == o
  let s1 := (s.ingest.works.filter (fun w => ofObj w.target)).foldl (fun st w => squashWork w st) s
  let s2 := (s1.ingest.own.filter (fun r => ofObj r.target)).foldl (fun st r => markDone (.piece o r.off r.len) [] 0 jseq m st) s1
  modifyIngest (fun i => { i with objects := i.objects.filter (fun x => x.number != o) }) s2

/-- A PUT ends without a version (R402): its zone is revoked, what is mapped to its object number is released, and requests that name
it end with a reason; none where its queue pair is gone. At the other head the owner is told (DESIGN CHOICE 23). -/
def endPut (p : Put) (reason : Option Nat) (s : State) : State :=
  let s1 := modifySheaf (fun x => { x with puts := x.puts.filter (fun y => !(y.qp == p.qp && y.id == p.id)) }) s
  let s2 := match p.zone with
    | some z => revokeZone z s1
    | none => s1
  let dirty := !(piecesOf p.number s2).isEmpty || s2.ingest.own.any (fun r => sameTarget (.piece p.number 0 (2 ^ 45)) r)
  let s3 := match p.remote with
    | some n =>
      (forwardSend 2 (overlay (overlay (zeros 64) 0 [5]) 8 (leBytes 4 n)) (leBytes 2 p.objDomain) none none s2).2
    | none =>
      if dirty then
        let (j, m, st) := place (leNat (p.key.take 1) % 4) (.unmap (.piece p.number 0 0) 0) s2
        settle (dropObjectIngest p.number j m st)
      else dropObjectIngest p.number 0 none s2
  let tags := p.fills.map (·.tag) ++ p.commit.toList
  tags.foldl (fun st t => match reason with
    | some k => shFail p.qp t stBadParam k st
    | none => modifySheaf (fun x => { x with requests := x.requests.filter (fun r => !(r.qp == p.qp && r.tag == t)) }) st) s3

/-- Pieces of an object once all of it is reduced: those mapped, those in reduction and those still to be cut. -/
def totalPieces (number size : Nat) (s : State) : Nat × State :=
  match s.ingest.objects.find? (fun x => x.number == number) with
  | none => ((piecesOf number s).length, s)
  | some x =>
    let (rest, s1) := objectBuffered number x.cut (size - x.cut) s
    let busy := (s.ingest.works.filter (fun w => match w.target with
      | .grain _ _ => false
      | .piece n _ _ => n == number)).length
    ((piecesOf number s).length + busy + (cutAll (rest.length + 1) rest).length, s1)

/-- The Winnow key of an object: bytes 0x00 to 0x16 of its key, and its object domain (Table 6-3). -/
def objectWinnowKey (o : ObjRecord) : Nat := leNat (o.key.take 23) + o.objDomain % 256 * 2 ^ 184

/-- An object is committed or served: table 2 gets its entry, with the page of its record (R138, R148). -/
def hotObject (o : ObjRecord) (s : State) : State := winnowInsert 2 (objectWinnowKey o) (o.number / 127) s

/-- An object is deleted: its entry goes (R148). -/
def coldObject (o : ObjRecord) (s : State) : State := (winnowDelete 2 0 (objectWinnowKey o) s).2

/-- Whether a hold may be placed (R405): the refusal, or whether the record changes. -/
def holdCheck (dom until' current : Nat) (s : State) : Except (Status × Nat) Bool :=
  if s.time.arraySet = false then .error (stWrongMode, 6)
  else if arrayTime s + scopeParam 2 dom 0x1004 s * 86400000000 < until' then .error (stBadParam, 0x0B)
  else .ok (decide (arrayTime s < until') && decide (current < until'))

/-- A refusal of a hold, a release or a DELETE counts. -/
def holdRefused (qp tag : Nat) (st : Status) (reason : Nat) (s : State) : State :=
  shFail qp tag st reason (countSheaf (fun k => { k with refusals := bump k.refusals }) s)

/-- Stamps of the BUFFERED records of an object. -/
def objectStamps (number : Nat) (s : State) : List (Nat × Nat) :=
  (s.ingest.own.filter (fun r => sameTarget (.piece number 0 (2 ^ 45)) r)).map (fun r => (r.quadrant, r.seq))

/-- The zone that a PUT still holds as it ends is revoked. -/
def dropZone (p : Put) (s : State) : State :=
  match p.zone with
  | some z => revokeZone z s
  | none => s

/-- The commit of a PUT whose fills have all landed, at the owner: it is stamped then (R401). -/
def commitPut (p : Put) (tag : Nat) (s : State) : State :=
  match shReq p.qp tag s, objdomAt p.objDomain s with
  | some q, some dom =>
    let r := q.bytes
    let keep := modifyPut p.qp p.id (fun x => { x with commit := none }) s
    if p.received ≠ p.size then shFail p.qp tag stBadParam 4 keep
    else
      let (t, s1) := issueTime dom.id (takeStamp (leNat (p.key.take 1) % 4) keep).2
      let cur := currentVersion dom.id p.key s1
      let shown := ((cur.filter (fun o => o.state != 3)).map (·.number)).getD noObject
      let until' := fieldAt r 0x10 8
      let hold := if until' = 0 then .ok false else holdCheck dom.id until' 0 s1
      if bitOf (shFlags r) 2 = true ∧ fieldAt r 0x18 8 ≠ shown then
        shFail p.qp tag stBadParam 0x0F
          (endPut { p with commit := none } (some 5) (countSheaf (fun k => { k with conflicts := bump k.conflicts }) s1))
      else match hold with
        | .error e => holdRefused p.qp tag e.1 e.2 s1
        | .ok held =>
          let (n, s2) := totalPieces p.number p.size s1
          let o : ObjRecord :=
            { key := p.key, objDomain := dom.id, dedupDomain := dom.domain, state := 1, holdFlags := flagBit held, number := p.number
              size := p.size, pieceCount := n, commitTime := t, holdUntil := if held then until' else 0
              prev := (cur.map (·.number)).getD noObject }
          let (_, m, s3) := place (leNat (p.key.take 1) % 4) (.object o) s2
          let f := fun (x : SheafPart) => { x with puts := x.puts.filter (fun y => !(y.qp == p.qp && y.id == p.id)) }
          let g := fun (i : IngestPart) => { i with objects := i.objects.filter (fun y => !(y.number == p.number && y.cut == p.size)) }
          let s4 := countSheaf (fun k => { k with committed := bump k.committed, holds := if held then bump k.holds else k.holds })
            (modifyIngest g (dropZone p (modifySheaf f (hotObject o s3))))
          let st := if until' ≠ 0 ∧ held = false then stOkInfo else stOk
          shAwait p.qp tag dom.id st (packFields [(8, o.number), (8, t), (8, o.prev)]) m.toList (objectStamps o.number s4) s4
  | _, _ => s

/-- Whether a snapshot's barrier holds back a PUT_COMMIT: what has not run yet is stamped after it (Table 12-1, R401). -/
def commitBarred (p : Put) (s : State) : Bool := domainBarrier p.objDomain s

/-- A PUT whose commit waits goes on once its fills have landed and no snapshot's barrier holds it back (R401; DEDUCED 137). -/
def tryOne (qp id : Nat) (s : State) : State :=
  match putAt qp id s with
  | none => s
  | some p =>
    match p.commit with
    | none => s
    | some tag =>
      if p.fills ≠ [] ∨ commitBarred p s = true then s
      else match p.remote with
        | some n => shForward qp tag p.objDomain (some n) [] (modifyPut qp id (fun x => { x with commit := none }) s)
        | none => commitPut p tag s

/-- Tries the commits that wait, in the order in which they came. -/
def tryCommits (s : State) : State :=
  (sortByKey (fun (p : Put) => [(p.commitSeq : Int)]) (s.sheaf.puts.filter (fun p => p.commit.isSome))).foldl (fun st p => tryOne p.qp p.id st) s

/-- Tries the commit of a PUT, and those that may have waited for it. -/
def tryCommit (qp id : Nat) (s : State) : State :=
  if ((putAt qp id s).map (fun p => p.commit.isSome)).getD false then tryCommits s else s

/-- A fill has landed: its verb is answered, with the next zone in push mode, or its PUT's commit goes on (R400). -/
def fillLanded (p : Put) (x : Fill) (mseqs : List Nat) (stamps : List (Nat × Nat)) (s : State) : State :=
  let next := fun (y : Put) => { y with received := y.received + x.len, fills := y.fills.drop 1 }
  let s1 := countSheaf (fun k => { k with putBytes := bump k.putBytes x.len }) (modifyPut p.qp p.id next s)
  let more := decide (p.received + x.len < p.size)
  if p.commit = some x.tag then tryCommit p.qp p.id s1
  else
    let s2 := if x.zone.isSome && more then nextPutZone p.qp p.id s1 else s1
    let (k, n) := if x.zone.isSome then putZoneKey p.qp p.id s2 else (0, 0)
    shAwait p.qp x.tag p.objDomain stOk (packFields [(8, p.received + x.len), (4, k), (4, n)]) mseqs stamps s2

/-- Sends a fill's data to the owner; the mirror buffer holds it in `hs` (R61). -/
def fillForward (p : Put) (x : Fill) (data : Bytes) (hs : List Nat) (s : State) : State :=
  let next := fun (y : Put) => { y with received := y.received + x.len, fills := y.fills.drop 1 }
  let s1 := countSheaf (fun k => { k with putBytes := bump k.putBytes x.len }) (modifyPut p.qp p.id next s)
  setRoom s1.headland.nextForward [(0, x.len, hs)] (shForward p.qp x.tag p.objDomain p.remote data s1)

/-- Notes how far an object has landed. -/
def noteLanded (number upTo : Nat) (s : State) : State :=
  modifyIngest (fun i => { i with objects := mapIf (fun o => o.number == number) (fun o => { o with landed := upTo }) i.objects }) s

/-- Lands a PUT's fills whose data is here, in order (R400). -/
def landFills (qp id : Nat) : Nat → State → State
  | 0, s => s
  | n + 1, s =>
    match putAt qp id s with
    | none => s
    | some p =>
      match p.fills with
      | [] => tryCommit qp id s
      | x :: _ =>
        let data := fillData x
        if data.length < x.len then s
        else if p.remote.isSome then
          match landBytes (putArena p s).1 1 (data.take x.len) s with
          | none => admissionCheck true s
          | some (hs, s1) => landFills qp id n (fillForward p x data hs s1)
        else if x.len = 0 then landFills qp id n (fillLanded p x [] [] s)
        else
          let (unit, arena) := putArena p s
          match landBytes unit arena (data.take x.len) s with
          | none => admissionCheck true s
          | some (hs, s1) =>
            let q := leNat (p.key.take 1) % 4
            let t := Target.piece p.number x.offset x.len
            let (m, s2) := landRecord t x.offset x.len q x.seq hs (if qp = peerQp then [] else data.take x.len) false s1
            landFills qp id n (admissionCheck false (fillLanded p x m.toList [(q, x.seq)] (noteLanded p.number (x.offset + x.len) s2)))

/-- Lands what can be landed of a PUT. -/
def landPut (qp id : Nat) (s : State) : State :=
  landFills qp id (((putAt qp id s).map (fun p => p.fills.length + 1)).getD 0) s

/-- RDMA READ data of a fill has come. -/
def shReadDone (qp tag off : Nat) (data : Bytes) (s : State) : State :=
  match s.sheaf.puts.find? (fun p => p.qp == qp && p.fills.any (fun x => x.tag == tag)) with
  | none => s
  | some p =>
    let f := fun (x : Fill) => { x with pulled := x.pulled ++ [(off, data)] }
    landPut qp p.id (modifyPut qp p.id (fun y => { y with fills := mapIf (fun x => x.tag == tag) f y.fills }) s)

/-- A zone has been revoked: the push fill that waits for it takes its content; a zone without one gives its buffers back
(R356, R400). -/
def zoneTaken (z : Zone) (s : State) : State :=
  let mine := fun (x : Fill) => (x.zone.map (·.1)) == some z.index
  let free := fun (st : State) => z.handles.foldl (fun t h => releaseOwn h t) st
  match s.sheaf.puts.find? (fun p => p.qp == z.qp && p.fills.any mine) with
  | none => free s
  | some p =>
    match p.fills.find? mine with
    | none => free s
    | some x =>
      let at' := (x.zone.map (·.2)).getD 0
      let (data, s1) := zoneRead z at' x.len s
      if p.remote.isSome ∧ at' = 0 ∧ x.len ≠ 0 then landPut p.qp p.id (fillForward p x (padTo x.len data) z.handles s1)
      else if p.remote.isSome ∨ x.len = 0 then
        landPut p.qp p.id (modifyPut p.qp p.id (fun y => { y with fills := mapIf mine (fun w => { w with pulled := [(0, data)] }) y.fills }) (free s1))
      else
        let q := leNat (p.key.take 1) % 4
        let (m, s2) := landRecord (.piece p.number x.offset x.len) x.offset x.len q x.seq z.handles data false s1
        let skip := fun (r : BufferedRec) => { r with skip := at' }
        let s3 := modifyIngest (fun i => { i with own := mapIf (fun r => r.quadrant == q && r.seq == x.seq) skip i.own }) s2
        fillLanded p x m.toList [(q, x.seq)] (noteLanded p.number (x.offset + x.len) s3)

/-- The PUT that a verb names, with the refusal where it names none (R402). -/
def namedPut (qp tag : Nat) (r : Bytes) (s : State) : Option Put × State :=
  let id := fieldAt r 8 4
  match putAt qp id s with
  | some p => (some p, modifyPut qp id (fun x => { x with lastVerb := s.time.ticks }) s)
  | none =>
    let late := ((shConn qp s).map (fun c => c.expired.contains id)).getD false
    (none, shFail qp tag stBadParam (if late then 0x0E else 5) s)

/-- PUT_DATA (R399, R400). -/
def putData (qp tag : Nat) (r : Bytes) (s : State) : State :=
  match namedPut qp tag r s with
  | (none, s1) => s1
  | (some p, s1) =>
    match fillRefusal p r s1 with
    | some k => shFail qp tag stBadParam k s1
    | none => landPut qp p.id (takeFill p tag r s1)

/-- Numbers the PUT_COMMIT of a PUT behind those that wait already. -/
def queueCommit (qp id : Nat) (s : State) : State :=
  modifyPut qp id (fun x => { x with commitSeq := (s.sheaf.puts.map (·.commitSeq)).foldl max 0 + 1 }) s

/-- PUT_COMMIT (R401): its final fill first. -/
def putCommit (qp tag : Nat) (r : Bytes) (s : State) : State :=
  match namedPut qp tag r s with
  | (none, s1) => s1
  | (some p, s1) =>
    let fills := fieldAt r 0x30 4 != 0
    match if fills then fillRefusal p r s1 else none with
    | some k => shFail qp tag stBadParam k s1
    | none =>
      if p.commit.isSome then shFail qp tag stBadParam 4 s1
      else
        let away := fills ∧ p.remote.isSome
        let keep := if away then s1 else modifyPut qp p.id (fun x => { x with commit := some tag }) s1
        let s2 := if fills then takeFill p tag r keep else shStage qp tag .filling keep
        landPut qp p.id (if away then s2 else queueCommit qp p.id s2)

/-- PUT_ABORT (R402). -/
def putAbort (qp tag : Nat) (r : Bytes) (s : State) : State :=
  match namedPut qp tag r s with
  | (none, s1) => s1
  | (some p, s1) => tryCommits (shOk qp tag [] (endPut p (some 5) (countSheaf (fun k => { k with aborted := bump k.aborted }) s1)))

/-! ## GET, STAT, LIST, VERSION (R394, R403, R404) -/

/-- GET: of a live key, Winnow is searched for the page of the object's record, which the record confirms (R132), and holds it afterwards
(R148). -/
def shGet (qp tag dom : Nat) (r : Bytes) (f : MediaFacts) (s : State) : State :=
  let off := fieldAt r 0x28 8
  let len := fieldAt r 0x30 4
  if len = 0 ∨ 67108864 < len then shFail qp tag stBadParam 0 s
  else match versionOf dom r s with
    | none => shFail qp tag stBadParam 1 s
    | some o =>
      if o.size < off then shFail qp tag stBadParam 0x0B s
      else
        let n := min len (o.size - off)
        let byKey := !bitOf (shFlags r) 0 && fieldAt r 4 2 == 0
        match objectRead o off n f (if byKey then hotObject o (winnowSearch 2 0 (objectWinnowKey o) false 0 s).2 else s) with
        | (.error st, _, s1) => shFail qp tag st 0 s1
        | (.ok data, f1, s1) =>
          let s2 := if data = [] then s1 else qpSend qp [.write (fieldAt r 0x38 8) (fieldAt r 0x34 4) data] s1
          let s3 := countSheaf (fun k => { k with getBytes := bump k.getBytes n }) s2
          objectAhead o off n f1 (shOk qp tag (packFields [(4, n), (4, 0), (8, o.size), (8, o.number), (8, o.commitTime)]) s3)

/-- STAT. -/
def shStat (qp tag dom : Nat) (r : Bytes) (s : State) : State :=
  match versionOf dom r s with
  | none => shFail qp tag stBadParam 1 s
  | some o =>
    shOk qp tag (packFields [(8, o.size), (8, o.number), (8, o.prev), (8, o.commitTime), (8, o.holdUntil), (1, o.state), (1, o.holdFlags),
      (1, o.dedupDomain)]) s

/-- The keys a LIST may show: of every key the version under SNAP, unless it is DELETED, in key order. -/
def listed (dom snap : Nat) (s : State) : List ObjRecord :=
  let all := s.map.objects.filter (fun o => o.objDomain == dom && (versionUnder dom snap o.key s).map (·.number) == some o.number)
  sortByKey (fun (o : ObjRecord) => [(beNat o.key : Int)]) all

/-- LIST. -/
def shList (qp tag dom : Nat) (r : Bytes) (s : State) : State :=
  let len := fieldAt r 0x30 4
  if len < 64 ∨ 1048576 < len ∨ len % 64 ≠ 0 then shFail qp tag stBadParam 0 s
  else
    let start := beNat (shKey r)
    let incl := bitOf (shFlags r) 3
    let keys := (listed dom (fieldAt r 4 2) s).filter (fun o => decide (start < beNat o.key) || (incl && decide (start = beNat o.key)))
    let page := keys.take (len / 64)
    let bytes := page.flatMap (fun o => padTo 32 o.key ++ packFields [(8, o.size), (8, o.number), (8, o.commitTime), (8, o.holdUntil)])
    let s1 := if bytes = [] then s else qpSend qp [.write (fieldAt r 0x38 8) (fieldAt r 0x34 4) bytes] s
    shOk qp tag (packFields [(4, page.length), (1, flagBit (decide (page.length < keys.length)))]) s1

/-- VERSION (R394, Table 16-6). -/
def shVersion (qp tag : Nat) (dom : ObjDomain) (r : Bytes) (s : State) : State :=
  if bitOf (fieldAt r 8 1) 0 = false then shFail qp tag stBadParam 0x0D s
  else
    let owner := if ownsIngest dom.owner s then s.boot.headId else 1 - s.boot.headId
    shOk qp tag (packFields [(1, 1), (1, s.boot.headId), (1, owner), (1, 0), (4, paramNat 0x1001 0 s * 1024),
      (8, if s.time.arraySet then arrayTime s else 0), (2, paramNat 0x1000 0 s)]) s

/-! ## DELETE and holds (R405-R407) -/

/-- DELETE, at the owner. -/
def shDelete (qp tag : Nat) (dom : ObjDomain) (r : Bytes) (s : State) : State :=
  let cur := currentVersion dom.id (shKey r) s
  match cur.filter (fun o => o.state != 3) with
  | none => shAnswer qp tag stOkInfo 1 false [] s
  | some o =>
    if arrayTime s < o.holdUntil then holdRefused qp tag stReadOnly 2 s
    else
      let (t, s1) := issueTime dom.id (takeStamp (leNat (o.key.take 1) % 4) s).2
      let d : ObjRecord :=
        { key := o.key, objDomain := dom.id, dedupDomain := dom.domain, state := 3, holdFlags := 0, number := freeNumber s1, size := 0
          pieceCount := 0, commitTime := t, holdUntil := 0, prev := o.number }
      let (_, m, s2) := place (leNat (o.key.take 1) % 4) (.object d) (coldObject o s1)
      shAwait qp tag dom.id stOk (packFields [(8, d.number), (8, t)]) m.toList [] s2

/-- Rewrites the hold of a version under a stamp of its object's sequencer (R397), and answers with the HOLD_UNTIL then in force. -/
def writeHold (qp tag dom : Nat) (o : ObjRecord) (flags until' : Nat) (s : State) : State :=
  let q := leNat (o.key.take 1) % 4
  let (_, m, s1) := place q (.object { o with holdFlags := flags, holdUntil := until' }) (takeStamp q s).2
  shAwait qp tag dom stOk (leBytes 8 until') m.toList [] s1

/-- HOLD, at the owner. -/
def shHold (qp tag : Nat) (dom : ObjDomain) (r : Bytes) (s : State) : State :=
  match versionOf dom.id r s with
  | none => shFail qp tag stBadParam 1 s
  | some o =>
    let until' := fieldAt r 0x28 8
    match holdCheck dom.id until' o.holdUntil s with
    | .error e => holdRefused qp tag e.1 e.2 s
    | .ok false => shAnswer qp tag stOkInfo 0 false (leBytes 8 o.holdUntil) s
    | .ok true =>
      writeHold qp tag dom.id o (o.holdFlags ||| 1) until' (countSheaf (fun k => { k with holds := bump k.holds }) s)

/-- RELEASE_HOLD, at the owner. -/
def shReleaseHold (qp tag : Nat) (dom : ObjDomain) (r : Bytes) (s : State) : State :=
  match versionOf dom.id r s with
  | none => shFail qp tag stBadParam 1 s
  | some o =>
    if arrayTime s < o.holdUntil ∧ scopeParam 2 dom.id 0x1003 s = 0 then holdRefused qp tag stAuthFailed 7 s
    else writeHold qp tag dom.id o 0 0 s

/-! ## Running a request -/

/-- Runs a request that need not wait. -/
def shServe (qp tag : Nat) (dom : ObjDomain) (r : Bytes) (f : MediaFacts) (s : State) : State :=
  let v := shVerb r
  let writes := verbClass v ≠ 2 ∧ v ≠ 5
  let away := v = 8 ∨ v = 10 ∨ v = 11
  match shForm dom.id (if qp = peerQp then r.take 64 else r) s with
  | some e => shFail qp tag e.1 e.2 s
  | none =>
    if writes ∧ (v ≠ 3) ∧ ownerPassing dom.owner s = true then shFail qp tag stBusy 0 s
    else if writes ∧ isDesignated 2 dom.id s = true then shFail qp tag stReadOnly 0 s
    else if writes ∧ domainLocked dom.domain s = true then shFail qp tag stAuthFailed 0 s
    else if away ∧ ownsIngest dom.owner s = false then shForward qp tag dom.id none [] s
    else match v with
      | 1 => shVersion qp tag dom r s
      | 2 => putBegin qp tag dom r s
      | 3 => putData qp tag r s
      | 4 => putCommit qp tag r s
      | 5 => putAbort qp tag r s
      | 6 => shGet qp tag dom.id r f s
      | 7 => shStat qp tag dom.id r s
      | 8 => shDelete qp tag dom r s
      | 9 => shList qp tag dom.id r s
      | 10 => shHold qp tag dom r s
      | _ => shReleaseHold qp tag dom r s

/-- The bytes of a request as its verb's rules read them: a forwarded one carries its object domain behind the header. -/
def shBody (qp : Nat) (r : Bytes) : Bytes := if qp = peerQp then r.take 64 ++ r.drop 66 else r

/-- Runs a request by the head's mode (Table 16-8), or leaves it held. -/
def shRun (qp tag : Nat) (f : MediaFacts) (s : State) : State :=
  match shReq qp tag s with
  | none => s
  | some q =>
    let v := shVerb q.bytes
    match shDomain qp q.bytes s with
    | none => shFail qp tag stBadParam 0 s
    | some dom =>
      if s.boot.mode = .dump then s
      else if shMustHold qp tag dom.id q.bytes s then s
      else if clientsServed s = false then shAnswer qp tag stWrongMode 0 (s.boot.mode == .yield) [] s
      else if s.boot.mode = .readonly ∧ verbClass v = 0 then shFail qp tag stReadOnly 0 s
      else shServe qp tag dom (shBody qp q.bytes) f s

/-- Whether a request on a queue pair is one the head takes: a service queue pair that is CONNECTED, and not in DUMP. -/
def shTakes (qp : Nat) (s : State) : Bool := (shConn qp s).isSome && qpConnected qp s && s.boot.mode != .dump

/-- Takes a request as its SEND has brought it, and runs it (R392, R393). One that stands in no receive buffer uses one now, and
beyond QDEPTH it draws an RNR NAK. -/
def shRequest (qp : Nat) (r : Bytes) (f : MediaFacts) (s : State) : State :=
  if shTakes qp s = false then s
  else
    let landed := ((qpAt qp s).map (fun c => c.received.contains r)).getD false
    let room := ((qpAt qp s).map (fun c => decide (c.posted ≠ 0))).getD false
    let tag := shTag r
    if landed = false ∧ room = false then sendNak qp (0x20 + paramNat 0x0E1B 0 s) s
    else
      match arriveRoot (qpHome qp s) qp tag s with
      | (false, s0) => s0
      | (true, s0) =>
        let s1 := if landed then qpTake qp r s0 else modifyQp qp (fun c => { c with posted := c.posted - 1 }) s0
        let s2 := countSheaf (fun k => { k with verbs := bump k.verbs }) s1
        if (shReq qp tag s2).isSome then shSend qp r (shReply (shVerb r) tag stBadParam 0x10 false [] s2) s2
        else
          shRun qp tag f (modifySheaf (fun x =>
            { x with requests := x.requests ++ [{ qp := qp, tag := tag, bytes := r, stage := .held, facts := f }] }) s2)

/-- A verb the peer has forwarded (R397). -/
def shFromPeer (fwd : Nat) (header payload : Bytes) (s : State) : State :=
  shRun peerQp fwd .quiet
    (modifySheaf (fun x =>
      { x with requests := x.requests ++ [{ qp := peerQp, tag := fwd, bytes := header ++ payload, stage := .held, facts := .quiet }] }) s)

/-- The owner's answer to a forwarded verb (DESIGN CHOICE 23). -/
def shForwardDone (qp tag : Nat) (st : Status) (result : Bytes) (s : State) : State :=
  match shReq qp tag s with
  | none => s
  | some q =>
    let r := q.bytes
    let v := shVerb r
    let p := if v = 3 ∨ v = 4 then putAt qp (fieldAt r 8 4) s else none
    let forget := fun (st' : State) =>
      (p.map (fun y => dropZone y)).getD id (modifySheaf (fun x => { x with puts := x.puts.filter (fun y => some y != p) }) st')
    if st.toNat < 2 then
      match v, p, shDomain qp r s with
      | 2, _, some dom => openPut qp tag dom r (fieldAt result 8 8) (some (fieldAt result 0 4)) s
      | 3, some x, _ =>
        let s1 := if x.zoneWant ≠ 0 ∧ x.received < x.size then nextPutZone qp x.id s else s
        let (k, n) := putZoneKey qp x.id s1
        shOk qp tag (packFields [(8, fieldAt r 0x28 8 + fieldAt r 0x30 4), (4, k), (4, n)]) s1
      | 4, _, _ =>
        let prev := ((objectAt (fieldAt result 0 8) s).map (·.prev)).getD noObject
        shAnswer qp tag st 0 false (result.take 16 ++ leBytes 8 prev) (forget s)
      | 8, _, _ => shAnswer qp tag st (if st = stOkInfo then 1 else 0) false result s
      | _, _, _ => shAnswer qp tag st 0 false result s
    else
      let reason := fieldAt result 0 2
      let keep := if v = 4 ∧ reason = 0x0F then forget s
        else match p with
          | some x => modifyPut qp x.id (fun y => { y with commit := none }) s
          | none => s
      shFail qp tag st reason keep

/-- A service queue pair has left CONNECTED: its PUTs end, its requests get no reply (R402). -/
def sheafGone (qp : Nat) (s : State) : State :=
  let s1 := (s.sheaf.puts.filter (fun p => p.qp == qp)).foldl (fun st p => endPut p none st) s
  tryCommits (modifySheaf (fun x =>
    { x with conns := x.conns.filter (fun c => c.qp != qp), requests := x.requests.filter (fun r => r.qp != qp) }) s1)

/-- Every PUT ends, as the head enters YIELD (R402). -/
def endPuts (s : State) : State := s.sheaf.puts.foldl (fun st p => endPut p none st) s

/-- Whether an object number has pieces and neither a record nor a PUT of this head. -/
def strayPieces (n : Nat) (s : State) : Bool := (objectAt n s).isNone && !s.sheaf.puts.any (fun p => p.number == n)

/-- Pieces mapped to object numbers that have no record are released (R402): of the head's own half of the numbers, or of both. -/
def releaseStrays (both : Bool) (s : State) : State :=
  let ns := ((s.map.pieces.filter (fun p => !p.2.isEmpty)).map (·.1)).filter (fun n => both || n / 2 ^ 35 == s.boot.headId)
  (ns.filter (fun n => strayPieces n s)).foldl (fun st n => place' (targetQuadrant (.piece n 0 0) st) (.unmap (.piece n 0 0) 0) st) s

/-- The PUTs that the peer has open here end, as it is no longer present. -/
def endPeerPuts (s : State) : State :=
  let s1 := (s.sheaf.puts.filter (fun p => p.qp == peerQp)).foldl (fun st p => endPut p none st) s
  modifySheaf (fun x => { x with requests := x.requests.filter (fun r => r.qp != peerQp) }) s1

/-- Goes on with everything of the service that waits and may go: held requests in order of arrival, fills, commits. -/
def resumeSheaf (s : State) : State :=
  let s1 := s.sheaf.puts.foldl (fun st p => if st.ingest.stopped = false ∧ shQuiesced 3 st = false then landPut p.qp p.id st else st) s
  s1.sheaf.requests.foldl (fun st r => match shReq r.qp r.tag st with
    | some x => if x.stage = .held then shRun r.qp r.tag x.facts st else st
    | none => st) s1

/-! ## The rows -/

/-- Takes a request under its row's VERB. -/
def sheafRow (verb qp : Nat) (request : Bytes) (f : MediaFacts) (s : State) : State :=
  shRequest qp (overlay request 0 (leBytes 1 verb)) f s

/-- No read of the step meets anything out of the ordinary. -/
def calm : MediaFacts := .quiet

/-- VERSION (R394). -/
def execVersion (qp : Nat) (request : Bytes) (s : State) : Host.Outcome State Fault Refusal := .next (sheafRow 1 qp request calm s)

/-- PUT_BEGIN (R398). -/
def execPutBegin (qp : Nat) (request : Bytes) (s : State) : Host.Outcome State Fault Refusal := .next (sheafRow 2 qp request calm s)

/-- PUT_DATA (R399, R400). -/
def execPutData (qp : Nat) (request : Bytes) (s : State) : Host.Outcome State Fault Refusal := .next (sheafRow 3 qp request calm s)

/-- PUT_COMMIT (R401). -/
def execPutCommit (qp : Nat) (request : Bytes) (s : State) : Host.Outcome State Fault Refusal := .next (sheafRow 4 qp request calm s)

/-- PUT_ABORT (R402). -/
def execPutAbort (qp : Nat) (request : Bytes) (s : State) : Host.Outcome State Fault Refusal := .next (sheafRow 5 qp request calm s)

/-- GET (R403). -/
def execGet (qp : Nat) (request : Bytes) (facts : MediaFacts) (s : State) : Host.Outcome State Fault Refusal :=
  .next (sheafRow 6 qp request facts s)

/-- STAT (R394). -/
def execStat (qp : Nat) (request : Bytes) (s : State) : Host.Outcome State Fault Refusal := .next (sheafRow 7 qp request calm s)

/-- DELETE (R406). -/
def execDelete (qp : Nat) (request : Bytes) (s : State) : Host.Outcome State Fault Refusal := .next (sheafRow 8 qp request calm s)

/-- LIST (R404). -/
def execList (qp : Nat) (request : Bytes) (s : State) : Host.Outcome State Fault Refusal := .next (sheafRow 9 qp request calm s)

/-- HOLD (R405). -/
def execHold (qp : Nat) (request : Bytes) (s : State) : Host.Outcome State Fault Refusal := .next (sheafRow 10 qp request calm s)

/-- RELEASE_HOLD (R407). -/
def execReleaseHold (qp : Nat) (request : Bytes) (s : State) : Host.Outcome State Fault Refusal := .next (sheafRow 11 qp request calm s)

/-- SHEAF_PUT_TIMEOUT: no verb has named a PUT for that long, and the timer has won its race (R402). PUT timers stand still while the
verbs of PUT are held (R409). -/
def sheafPutTimeout (qp put : Nat) (s : State) : State :=
  match putAt qp put s with
  | none => s
  | some p =>
    if shQuiesced 3 s then s
    else
      tryCommits (endPut p (some 0x0E) (countSheaf (fun k => { k with expired := bump k.expired })
        (modifyConn qp (fun c => { c with expired := c.expired ++ [put] }) s)))

/-- SHEAF_PUT_TIMEOUT (R402). -/
def execSheafPutTimeout (qp put : Nat) (s : State) : Host.Outcome State Fault Refusal := .next (sheafPutTimeout qp put s)

end Sys2Proof.Machine
end

