-- ==== Sys2Proof/Machine/Repl.lean ====
section
/-! DEFINITION. Replication sessions (R294-R300) over their queue pairs: frames, opening, diffs on both sides. -/

namespace Sys2Proof.Machine

/-! ## Connections the head initiates (R344-R347) -/

/-- The logical port and GID index from which the head reaches an address: the lowest UP port with an address of its family
(DESIGN CHOICE 24). -/
def outPort (addr : Nat) (s : State) : Option (Nat × Nat) :=
  ((List.range 32).filter (fun l => portUp l s)).findSome? (fun l =>
    ((ownAddresses l s).find? (fun a => isIpv4 a.2.1 == isIpv4 addr)).map (fun a => (l, a.1)))

/-- The service ID of a port number (14). -/
def serviceId (port : Nat) : Nat := 0x01060000 + port

/-- Initiates a connection: a context in CONNECTING, and the REQ sent (R344, R345). -/
def connectOut (v : Service) (addr port : Nat) (s : State) : Option (Nat × State) :=
  match outPort addr s with
  | none => none
  | some (l, gid) =>
    match allocQp v true l addr gid 4096 s with
    | none => none
    | some (q, s1) =>
      (qpAt q s1).map (fun c =>
        (q, transmit l (paramNat 0x0E0F 0 s1) (qpPath c s1)
          (.cmReq (serviceId port) (qpnOf c) (qpnOf c) c.npsn 0 16 (paramNat 0x0E1A 0 s1) (paramNat 0x0E18 0 s1) c.pmtu []) s1))

/-! ## Sessions and frames (R295, R200) -/

/-- Receive buffers kept on a replication queue pair; the manual gives no number (DESIGN CHOICE 25). -/
def replBuffers : Nat := 32

/-- The session of a queue pair. -/
def sesAt (qp : Nat) (s : State) : Option ReplSession := s.repl.sessions.find? (fun x => x.qp == some qp)

/-- Changes the session of a queue pair. -/
def modifySes (qp : Nat) (f : ReplSession → ReplSession) (s : State) : State :=
  modifyRepl (fun r => { r with sessions := mapIf (fun x => x.qp == some qp) f r.sessions }) s

/-- The session key with its working slot, as long as the slot's USE, DOMAIN and EPOCH are those of the session (R185, Table 8-5). -/
def sesKey (x : ReplSession) (s : State) : Option (Nat × Bytes) :=
  x.wslot.bind (fun n =>
    let w := slotAt n s
    if w.state = .valid ∧ w.use = .repl ∧ w.domain = 0 ∧ w.epoch = x.session then some (n, w.key) else none)

/-- Counts the cipher work of a frame, on the complex of its queue pair's home quadrant or the next (R174): the bytes it releases, none where
the tag fails. A wait for a complex ends within the step (DESIGN CHOICE 140). -/
def frameCipher (qp : Nat) (op : CipherOp) (slot : Nat) (len : Option Nat) (s : State) : State :=
  match cipherRun (qpHome qp s / 8) false op slot 0 s with
  | (none, s1) => s1
  | (some (_, c), s1) =>
    match len with
    | some n => countReleased c n s1
    | none => countComplex c (fun x => { x with tagFails := bump x.tagFails }) s1

/-- The IV of a frame: its sequence, session and direction (R200). -/
def frameIv (fseq session : Nat) (responder : Bool) : Bytes := packFields [(8, fseq), (3, session), (1, flagBit responder)]

/-- A frame header (Table 12-3). -/
def frameHeader (rtype prot fseq session len crc : Nat) : Bytes :=
  packFields [(4, 0x50525848), (1, rtype), (1, prot), (2, 0), (8, fseq), (4, session), (4, len), (4, 0), (4, crc)]

/-- An unprotected frame. -/
def plainFrame (rtype session : Nat) (body : Bytes) : Bytes :=
  let raw := frameHeader rtype 0 0 session body.length 0 ++ body
  overlay raw 0x1C (leBytes 4 (crc32c raw))

/-- A protected frame. -/
def sealedFrame (rtype fseq session : Nat) (responder : Bool) (key body : Bytes) : Bytes :=
  let h := frameHeader rtype 1 fseq session body.length 0
  let r := gcmEncrypt key (frameIv fseq session responder) h body
  h ++ r.1 ++ r.2

/-- Sends a frame of a session: protected once its key is there, but for HELLO and HELLO_REPLY. -/
def sendFrame (qp rtype : Nat) (body : Bytes) (s : State) : State :=
  match sesAt qp s with
  | none => s
  | some x =>
    let key := if rtype ≤ 2 then none else sesKey x s
    let (bytes, s1) := match key with
      | some (n, k) => (sealedFrame rtype x.txSeq x.session (!x.initiator) k body, frameCipher qp .gcmEncrypt n (some body.length) s)
      | none => (plainFrame rtype x.session body, s)
    let f := fun (y : ReplSession) =>
      { y with txSeq := if key.isSome then y.txSeq + 1 else y.txSeq, lastTx := s.time.ticks, bytesSent := y.bytesSent + bytes.length }
    qpSendBytes qp bytes (countRepl (fun k => { k with frames := bump k.frames }) (modifySes qp f s1))

/-- Keeps what REPL_STATUS reports of a pair after a session. -/
def noteLast (pair reason : Nat) (snap : Option Nat) (bytes : Nat) (s : State) : State :=
  let old := s.repl.last.find? (fun x => x.pair == pair)
  let new : ReplLast := { pair := pair, reason := reason, snap := snap.getD ((old.map (·.snap)).getD 0), bytes := bytes }
  modifyRepl (fun r => { r with last := r.last.filter (fun x => x.pair != pair) ++ [new] }) s

/-- A session is over: its queue pair is closed, its key may go, and REPL_STATUS keeps its reason. -/
def dropSession (x : ReplSession) (reason : Nat) (snap : Option Nat) (s : State) : State :=
  let s1 := modifyRepl (fun r => { r with
    sessions := r.sessions.filter (fun y => !(y.qp == x.qp && y.session == x.session && y.pair == x.pair))
    jobs := mapIf (fun j => j.forDiff.isSome && j.forDiff == x.qp) (fun j => { j with forDiff := none }) r.jobs }) s
  let s2 := noteLast x.pair reason snap x.bytesSent s1
  match x.qp with
  | some q => qpClose q s2
  | none => s2

/-- A session ends by a fault that this side finds: ABORT, the queue pair closed, a record, the reason (R300). -/
def abortSession (x : ReplSession) (reason : Nat) (s : State) : State :=
  let s1 := match x.qp with
    | some q => sendFrame q 0x3F (packFields [(2, reason), (6, 0)]) s
    | none => s
  let s2 := countRepl (fun k => { k with aborts := bump k.aborts }) s1
  let y := (x.qp.bind (fun q => sesAt q s2)).getD x
  dropSession y reason none (almanac 0x0503 (packFields [(2, x.pair), (2, reason), (4, x.session)]) s2)

/-- Aborts the session of a queue pair. -/
def abortQp (qp reason : Nat) (s : State) : State :=
  match sesAt qp s with
  | some x => abortSession x reason s
  | none => s

/-- Ends every session as the head leaves the serving modes (Table 12-6). -/
def endSessions (s : State) : State := s.repl.sessions.foldl (fun st x => abortSession x 8 st) s

/-- Opens the body of a protected frame with the session key (R295, R202). -/
def openSealed (x : ReplSession) (b : Bytes) (s : State) : Except Nat Bytes × State :=
  let len := fieldAt b 0x14 4
  match sesKey x s with
  | none => (.error 1, s)
  | some (n, k) =>
    match gcmDecrypt k (frameIv x.rxSeq x.session x.initiator) (b.take 32) (slice b 32 len) (slice b (32 + len) 16) with
    | none => (.error 1, frameCipher (x.qp.getD 0) .gcmDecrypt n none s)
    | some body => (.ok body, frameCipher (x.qp.getD 0) .gcmDecrypt n (some len) s)

/-- Checks a received frame: its body, or the reason that ends the session (Table 12-6). -/
def openFrame (x : ReplSession) (rtype : Nat) (b : Bytes) (s : State) : Except Nat Bytes × State :=
  let len := fieldAt b 0x14 4
  let prot := bitOf (fieldAt b 5 1) 0
  if b.length < 32 ∨ fieldAt b 0 4 ≠ 0x50525848 ∨ 262144 < len ∨ b.length ≠ 32 + len + (if prot then 16 else 0) then (.error 6, s)
  else if prot then
    if rtype ≤ 2 ∨ fieldAt b 8 8 ≠ x.rxSeq ∨ fieldAt b 0x1C 4 ≠ 0 then (.error 6, s)
    else openSealed x b s
  else if crc32c (overlay b 0x1C (zeros 4)) ≠ fieldAt b 0x1C 4 ∨ fieldAt b 8 8 ≠ 0 ∨ (2 < rtype ∧ (rtype ≠ 0x3F ∨ x.wslot.isSome = true)) then
    (.error 6, s)
  else (.ok (b.drop 32), s)

/-- The label of a session key (R200). -/
def sessionLabel (session : Nat) (nonceI nonceR : Bytes) : Bytes :=
  asciiBytes "HXREPL01" ++ leBytes 4 session ++ padTo 8 nonceI ++ padTo 8 nonceR ++ zeros 4

/-- The vault derives a session key into a REPL working slot (R200, R185); none where its gauntlet slot is empty, or no slot can be
had. -/
def deriveKey (qp : Nat) (s : State) : Bool × State :=
  match sesAt qp s with
  | none => (false, s)
  | some x =>
    match gauntletKey x.slot s with
    | none => (false, s)
    | some k =>
      let label := sessionLabel x.session x.nonceI x.nonceR
      match allotSlot s with
      | (none, s1) => (false, s1)
      | (some n, s1) =>
        let s2 := slotValid n .repl x.slot 0 x.session (hmacSha256 k label) label s1
        (true, modifySes qp (fun y => { y with wslot := some n }) (slotEvent n (slotAt n s2) s2))

/-- The number of sessions that may be open (Table 12-8). -/
def sessionsFull (s : State) : Bool := decide (paramNat 0x0C01 0 s ≤ s.repl.sessions.length)

/-- HELLO's and HELLO_REPLY's body. -/
def helloBody (nonce : Bytes) (slot reason : Nat) (s : State) : Bytes :=
  padTo 16 s.media.arrayUid ++ padTo 8 nonce ++ packFields [(1, slot), (1, 1), (2, reason), (4, 0)]

/-! ## Pair records (R294, R296) -/

/-- The pair record of the sending array, in force. -/
def pairAt (n : Nat) (s : State) : Option PairRecord := s.map.pairs.find? (fun p => p.role == 1 && p.state == 1 && p.pair == n)

/-- The designation of a target. -/
def designation (kind id : Nat) (s : State) : Option PairRecord :=
  s.map.pairs.find? (fun p => p.role == 2 && p.state == 1 && p.kind == kind && p.target == id)

/-- Places a pair record: its JSEQ and the MSEQ that carries it. -/
def placePair (p : PairRecord) (s : State) : Nat × Option Nat × State := place 0 (.replPair p) s

/-- REPL_PAIR. -/
def replPair (p : McPacket) (s : State) : McEnd × State :=
  let kind := parm p 0 1
  let slot := parm p 6 1
  if journals s = false then refuse stWrongMode s
  else if (scopeOwner kind (parm p 2 2) s).isNone ∨ slot < 8 ∨ 11 < slot then refuse stBadParam s
  else
    let used := fun (n : Nat) => s.map.pairs.any (fun x => x.role == 1 && x.pair == n && x.state == 1)
    match firstIndex 0xFFFF (fun n => !used n) with
    | none => refuse stNoResource s
    | some n =>
      let r : PairRecord :=
        { pair := n, role := 1, state := 1, kind := kind, slot := slot, source := parm p 2 2, target := parm p 4 2, sessionLast := 0
          partner := parmBytes p 8 16, lastTargetJseq := 0 }
      let (_, m, s1) := placePair r s
      endMirrored p m (leBytes 2 n) s1

/-- REPL_PAIR (R296). -/
def execReplPair (p : McPacket) (s : State) : Host.Outcome State Fault Refusal := .next (mciRun 0x0510 p (replPair p) s)

/-- REPL_ACCEPT: a designation replaces an earlier one of its target. -/
def replAccept (p : McPacket) (s : State) : McEnd × State :=
  let kind := parm p 0 1
  let slot := parm p 6 1
  if journals s = false then refuse stWrongMode s
  else if (scopeOwner kind (parm p 2 2) s).isNone ∨ slot < 8 ∨ 11 < slot then refuse stBadParam s
  else
    let r : PairRecord :=
      { pair := 0xFFFF, role := 2, state := 1, kind := kind, slot := slot, source := 0, target := parm p 2 2, sessionLast := 0
        partner := parmBytes p 8 16, lastTargetJseq := 0 }
    let (_, m, s1) := placePair r s
    endMirrored p m [] s1

/-- REPL_ACCEPT (R294). -/
def execReplAccept (p : McPacket) (s : State) : Host.Outcome State Fault Refusal := .next (mciRun 0x0511 p (replAccept p) s)

/-- REPL_START (R296, R554): the session number is raised and its journal page persisted before anything is sent. -/
def replStart (p : McPacket) (s : State) : McEnd × State :=
  if snapMode s = false then refuse stWrongMode s
  else
    match pairAt (parm p 0 2) s with
    | none => refuse stBadParam s
    | some r =>
      let base := if parm p 2 2 = 0 then none else snapAt r.kind r.source (parm p 2 2) s
      match snapAt r.kind r.source (parm p 4 2) s with
      | none => refuse stBadParam s
      | some goal =>
        if parm p 2 2 ≠ 0 ∧ base.isNone = true then refuse stBadParam s
        else if s.repl.sessions.any (fun x => x.initiator && x.pair == r.pair) then refuse stBusy s
        else if r.sessionLast = 0xFFFFFF then refuse stNoResource s
        else if sessionsFull s then
          refuse stNoResource (noteLast r.pair 8 none 0 (countRepl (fun k => { k with aborts := bump k.aborts })
            (almanac 0x0503 (packFields [(2, r.pair), (2, 8), (4, r.sessionLast)]) s)))
        else
          let n := r.sessionLast + 1
          let (j, _, s1) := placePair { r with sessionLast := n } s
          let x : ReplSession :=
            { qp := none, initiator := true, pair := r.pair, kind := r.kind, target := r.target, session := n, slot := r.slot, wslot := none
              nonceI := [], nonceR := [], partner := r.partner, persist := j, stage := 1, txSeq := 0, rxSeq := 0, baseNum := parm p 2 2
              goalNum := goal.num, base := (base.map (·.createJseq)).getD 0, goal := goal.createJseq, batches := [], batch := 0
              lastBegins := [], inbound := [], object := none, held := false, bytesSent := 0, lastRx := s.time.ticks
              lastTx := s.time.ticks }
          ok [] (metaFlush (modifyRepl (fun y => { y with sessions := y.sessions ++ [x] }) s1))

/-- REPL_START (R296). -/
def execReplStart (p : McPacket) (s : State) : Host.Outcome State Fault Refusal := .next (mciRun 0x0512 p (replStart p) s)

/-- Sessions whose number has been persisted ask for their connection. One for which no port or context can be had ends as one that
nobody answers. -/
def replPersisted (s : State) : State :=
  s.repl.sessions.foldl (fun st x =>
    if x.qp.isSome ∨ isPersisted x.persist st = false then st
    else
      match connectOut .replication (leNat x.partner) (paramNat 0x0E16 0 st) st with
      | none => abortSession x 7 st
      | some (q, s1) =>
        let mine := fun (y : ReplSession) => y.pair == x.pair && y.qp.isNone && y.initiator
        let ask := fun (y : ReplSession) => { y with qp := some q, lastRx := s1.time.ticks }
        modifyRepl (fun r => { r with sessions := mapIf mine ask r.sessions }) s1) s

/-- The connection of a session is up: HELLO (Table 12-5 step 1). -/
def replConnected (qp : Nat) (s : State) : State :=
  match sesAt qp s with
  | none => qpPost qp replBuffers s
  | some x =>
    let (n, s1) := draw 8 s
    let f := fun (y : ReplSession) => { y with nonceI := n, lastRx := s.time.ticks }
    sendFrame qp 1 (helloBody n x.slot 0 s1) (modifySes qp f (qpPost qp replBuffers s1))

/-- The queue pair of a session is gone, or was never connected: the session ends as one that hears nothing more. -/
def replGone (qp : Nat) (s : State) : State :=
  match sesAt qp s with
  | none => s
  | some x =>
    dropSession x 7 none (countRepl (fun k => { k with aborts := bump k.aborts })
      (almanac 0x0503 (packFields [(2, x.pair), (2, 7), (4, x.session)]) s))

/-- REPL_STATUS: state, batch, bytes sent, last reason, last DIFF_DONE snapshot (DESIGN CHOICE 12). -/
def replStatus (p : McPacket) (s : State) : McEnd × State :=
  let n := parm p 0 2
  if (s.map.pairs.any (fun x => x.role == 1 && x.pair == n)) = false then refuse stBadParam s
  else
    let x := s.repl.sessions.find? (fun y => y.initiator && y.pair == n)
    let l := s.repl.last.find? (fun y => y.pair == n)
    ok (packFields [(4, (x.map (·.stage)).getD 0), (4, (x.map (·.batch)).getD 0),
      (8, (x.map (·.bytesSent)).getD ((l.map (·.bytes)).getD 0)), (2, (l.map (·.reason)).getD 0), (2, (l.map (·.snap)).getD 0)]) s

/-- REPL_STATUS (R305). -/
def execReplStatus (p : McPacket) (s : State) : Host.Outcome State Fault Refusal := .next (mciRun 0x0513 p (replStatus p) s)

/-- Stops the session of a pair. -/
def stopPair (n : Nat) (s : State) : State :=
  match s.repl.sessions.find? (fun y => y.initiator && y.pair == n) with
  | some x => abortSession x 8 s
  | none => s

/-- REPL_STOP. -/
def replStop (p : McPacket) (s : State) : McEnd × State :=
  if (pairAt (parm p 0 2) s).isNone then refuse stBadParam s else ok [] (stopPair (parm p 0 2) s)

/-- REPL_STOP (R300). -/
def execReplStop (p : McPacket) (s : State) : Host.Outcome State Fault Refusal := .next (mciRun 0x0514 p (replStop p) s)

/-- REPL_UNPAIR: the pair's record is ended, and its session stopped. -/
def replUnpair (p : McPacket) (s : State) : McEnd × State :=
  if journals s = false then refuse stWrongMode s
  else
    match pairAt (parm p 0 2) s with
    | none => refuse stBadParam s
    | some r =>
      let (_, m, s1) := placePair { r with state := 2 } (stopPair r.pair s)
      endMirrored p m [] s1

/-- REPL_UNPAIR (R296). -/
def execReplUnpair (p : McPacket) (s : State) : Host.Outcome State Fault Refusal := .next (mciRun 0x0515 p (replUnpair p) s)

/-! ## What a frame row shares -/

/-- Takes a frame out of its receive buffer, which is posted again. -/
def takeFrame (qp : Nat) (b : Bytes) (s : State) : State :=
  let landed := ((qpAt qp s).map (fun c => c.received.contains b)).getD false
  if landed then qpPost qp 1 (qpTake qp b s) else s

/-- Runs a frame of a session, its EXPORT root ticket admitted (R113): `run` is what its type does. A frame of no session is late: discarded
and counted (R300). In DUMP nothing is taken. -/
def replRow (rtype qp : Nat) (frame : Bytes) (run : ReplSession → Bytes → State → State) (s : State) : State :=
  if s.boot.mode = .dump then s
  else
    let b := overlay frame 4 (leBytes 1 rtype)
    match arrive 0x10 3 (qpHome qp s) qp rtype s with
    | (false, s0) => s0
    | (true, s0) =>
      let s1 := takeFrame qp frame s0
      match sesAt qp s1 with
      | none => countRepl (fun k => { k with lateFrames := bump k.lateFrames }) s1
      | some x =>
        match openFrame x rtype b s1 with
        | (.error r, s2) => abortQp qp r s2
        | (.ok body, s2) =>
          let f := fun (y : ReplSession) =>
            { y with rxSeq := if bitOf (fieldAt b 5 1) 0 then y.rxSeq + 1 else y.rxSeq, lastRx := s.time.ticks }
          run (f x) body (modifySes qp f s2)

/-- A frame that comes where its type is not expected ends the session with REPL_SEQUENCE. -/
def expectStage (stage : Nat) (initiator : Bool) (run : ReplSession → Bytes → State → State) (x : ReplSession) (body : Bytes) (s : State) :
    State := if x.stage = stage ∧ x.initiator = initiator then run x body s else abortSession x 6 s

/-! ## Opening (Table 12-5) -/

/-- The responder's session as a HELLO opens it: the initiator's identity, slot and nonce, and a nonce of its own. -/
def newSession (qp session : Nat) (body nonce : Bytes) (s : State) : ReplSession :=
  { qp := some qp, initiator := false, pair := 0xFFFF, kind := 0, target := 0, session := session, slot := fieldAt body 0x18 1
    wslot := none, nonceI := slice body 0x10 8, nonceR := nonce, partner := slice body 0 16, persist := 0, stage := 2, txSeq := 0
    rxSeq := 0, baseNum := 0, goalNum := 0, base := 0, goal := 0, batches := [], batch := 0, lastBegins := [], inbound := []
    object := none, held := false, bytesSent := 0, lastRx := s.time.ticks, lastTx := s.time.ticks }

/-- REPL_ACCEPT has named this initiator and this slot (R294). -/
def acceptsFrom (x : ReplSession) (s : State) : Bool :=
  s.map.pairs.any (fun p => p.role == 2 && p.state == 1 && p.slot == x.slot && p.partner == x.partner)

/-- What is wrong with a HELLO, as a reason of Table 12-6, 0 for nothing: the frame, the version, the room, the initiator's identity and slot. -/
def helloFault (b : Bytes) (x : ReplSession) (full : Bool) (s : State) : Nat :=
  let body := b.drop 32
  let intact := match (openFrame x 1 b s).1 with
    | .ok y => y == body && body.length == 32
    | .error _ => false
  if intact = false then 6
  else if fieldAt body 0x19 1 ≠ 1 then 9
  else if full = true ∨ snapMode s = false then 8
  else if acceptsFrom x s = false then 1
  else 0

/-- The responder refuses a HELLO with its reason. -/
def refuseHello (qp r : Nat) (x : ReplSession) (s : State) : State := abortQp qp r (sendFrame qp 2 (helloBody x.nonceR x.slot r s) s)

/-- The responder checks a HELLO on a connection that has no session, and answers HELLO_REPLY with its nonce or with the reason it refuses
(R296, Tables 12-5 and 12-6). -/
def helloTaken (qp : Nat) (b : Bytes) (s : State) : State :=
  let body := b.drop 32
  let (nr, s1) := draw 8 s
  let x := newSession qp (fieldAt b 0x10 3) body nr s
  let s2 := modifyRepl (fun r => { r with sessions := r.sessions ++ [x] }) s1
  let fault := helloFault b x (sessionsFull s1) s2
  if fault = 6 then abortQp qp 6 s2
  else if fault ≠ 0 then refuseHello qp fault x s2
  else
    match deriveKey qp s2 with
    | (false, s3) => refuseHello qp 1 x s3
    | (true, s3) => sendFrame qp 2 (helloBody nr x.slot 0 s3) s3

/-- HELLO, whose arrival is a root ticket like every frame's (R113): a second one on a session ends it, and one on a connection that is not a
replication partner's is a late frame (step 2). -/
def hello (qp : Nat) (frame : Bytes) (s : State) : State :=
  if s.boot.mode = .dump then s
  else
    match arrive 0x10 3 (qpHome qp s) qp 1 s with
    | (false, s0) => s0
    | (true, s0) =>
      let s1 := takeFrame qp frame s0
      if (sesAt qp s1).isSome then abortQp qp 6 s1
      else if qpConnected qp s1 = false ∨ ((qpAt qp s1).map (fun c => c.service == .replication && !c.active)).getD false = false then
        countRepl (fun k => { k with lateFrames := bump k.lateFrames }) s1
      else helloTaken qp (overlay frame 4 (leBytes 1 1)) s1

/-- HELLO (R296). -/
def execHello (qp : Nat) (frame : Bytes) (s : State) : Host.Outcome State Fault Refusal := .next (hello qp frame s)

/-- The nonces of a CONFIRM. -/
def confirmBody (x : ReplSession) : Bytes := padTo 8 x.nonceI ++ padTo 8 x.nonceR

/-- HELLO_REPLY: the initiator derives the session key and sends CONFIRM (steps 3 and 4). -/
def helloReply (qp : Nat) (x : ReplSession) (body : Bytes) (s : State) : State :=
  let reason := fieldAt body 0x1A 2
  if body.length ≠ 32 then abortSession x 6 s
  else if reason ≠ 0 then dropSession x reason none (countRepl (fun k => { k with aborts := bump k.aborts }) s)
  else if fieldAt body 0x19 1 ≠ 1 then abortSession x 9 s
  else
    match deriveKey qp (modifySes qp (fun y => { y with nonceR := slice body 0x10 8, stage := 2 }) s) with
    | (false, s1) => abortQp qp 1 s1
    | (true, s1) => match sesAt qp s1 with
      | some y => sendFrame qp 3 (confirmBody y) s1
      | none => s1

/-- HELLO_REPLY (R296). -/
def execHelloReply (qp : Nat) (frame : Bytes) (s : State) : Host.Outcome State Fault Refusal :=
  .next (replRow 2 qp frame (expectStage 1 true (helloReply qp)) s)

/-- The size of a namespace; 0 for an object domain. -/
def sourceSize (kind id : Nat) (s : State) : Nat := if kind = 1 then ((nsAt id s).map (·.size)).getD 0 else 0

/-- The dedup domain of a namespace or object domain. -/
def scopeDomain (kind id : Nat) (s : State) : Nat :=
  if kind = 1 then ((nsAt id s).map (·.domain)).getD 0 else ((objdomAt id s).map (·.domain)).getD 0

/-- DIFF_BEGIN's body. -/
def diffBegin (x : ReplSession) (s : State) : Bytes :=
  let src := ((pairAt x.pair s).map (·.source)).getD 0
  let salt := ((domainAt (scopeDomain x.kind src s) s).map (·.salt)).getD []
  packFields [(1, x.kind), (1, 0), (2, x.target), (2, x.baseNum), (2, x.goalNum), (8, x.base), (8, x.goal), (8, sourceSize x.kind src s)]
    ++ padTo 32 salt

/-- CONFIRM: each side checks both nonces; the responder answers with its own, the initiator with DIFF_BEGIN (steps 4 and 5). -/
def confirm (qp : Nat) (x : ReplSession) (body : Bytes) (s : State) : State :=
  if x.stage ≠ 2 then abortSession x 6 s
  else if body ≠ confirmBody x then abortSession x 1 s
  else
    let s1 := modifySes qp (fun y => { y with stage := 3 }) s
    if x.initiator then sendFrame qp 0x10 (diffBegin x s1) s1 else sendFrame qp 3 (confirmBody x) s1

/-- CONFIRM (R296). -/
def execConfirm (qp : Nat) (frame : Bytes) (s : State) : Host.Outcome State Fault Refusal := .next (replRow 3 qp frame (confirm qp) s)

/-! ## The sender's diff (R297) -/

/-- The record of a chunk as it is stored, with its decrypted payload (R298, R303): from a bale that is not committed, else from
media. -/
def storedChunk (q entry : Nat) (f : MediaFacts) (s : State) : Except Status (Bytes × Bytes) × MediaFacts × State :=
  match entryLoc entry s with
  | none => (.error stMedia, f, s)
  | some l =>
    if l.len = 0 then (.error stMedia, f, s)
    else match pendingRecord l s with
      | some r => match openRecord q entry r .background f s with
        | (.ok p, f1, s1) => (.ok (r, p), f1, s1)
        | (.error .locked, f1, s1) => (.error stAuthFailed, f1, s1)
        | (.error _, f1, s1) => (.error stMedia, f1, s1)
      | none => match acreAt l.acre s with
        | none => (.error stMedia, f, s)
        | some a => copyBytes q entry l a f s

/-- Cuts a list into pieces of at most `m`. -/
def pieces {α : Type} (m : Nat) : Nat → List α → List (List α)
  | 0, _ => []
  | n + 1, xs => if xs.isEmpty then [] else xs.take m :: pieces m n (xs.drop m)

/-- The grains of a namespace whose entry under the goal differs from that under the base, with it (R297). -/
def changedGrains (ns base goal : Nat) (s : State) : List (Nat × Nat) :=
  let known := ((s.map.live.filter (fun e => e.1 / 2 ^ 31 == liveKey ns 0 / 2 ^ 31)).map (fun e => e.1 - liveKey ns 0))
    ++ (s.map.pages.filter (fun c => c.ns == ns)).flatMap (fun c => c.entries.map (·.1))
  let grains := sortByKey (fun (g : Nat) => [(g : Int)]) (distinct known)
  grains.filterMap (fun g =>
    let new := resolveGrain ns goal g s
    let old := if base = 0 then 0 else resolveGrain ns base g s
    if new = old then none else some (g, new))

/-- An entry of a batch as the sender keeps it. -/
def sendEntry (position entry len : Nat) : ReplEntry :=
  { position := position, entry := entry, zero := entryChunk entry == 0, len := len, fp := [], data := none }

/-- The batches of a namespace's diff. -/
def grainBatches (ns base goal : Nat) (s : State) : List ReplBatch :=
  let es := (changedGrains ns base goal s).map (fun g => sendEntry g.1 g.2 16384)
  (pieces 1024 (es.length + 1) es).map (fun b => { begins := [], entries := b })

/-- The object records of an object domain's diff: each changed key's version under the goal, or a DELETED record (R297). -/
def changedObjects (dom base goal : Nat) (s : State) : List ObjRecord :=
  let mine := s.map.objects.filter (fun o => o.objDomain == dom)
  let keys := mine.foldl (fun acc o => if acc.any (fun (x : ObjRecord) => x.key == o.key) then acc else acc ++ [o]) []
  let sorted := sortByKey (fun (o : ObjRecord) => [(beNat o.key : Int)]) keys
  sorted.filterMap (fun o =>
    let new := versionUnder dom goal o.key s
    let old := if base = 0 then none else versionUnder dom base o.key s
    if new.map (·.number) = old.map (·.number) then none
    else match new with
      | some v => some v
      | none => old.map (fun v => { v with state := 3, size := 0, pieceCount := 0, holdFlags := 0, holdUntil := 0 }))

/-- The batches of an object domain's diff, and the records that come after the last of them. -/
def objectBatches (dom base goal : Nat) (s : State) : List ReplBatch × List ObjRecord :=
  (changedObjects dom base goal s).foldl (fun (acc : List ReplBatch × List ObjRecord) o =>
    let ps := if o.state = 3 then [] else piecesOf o.number s
    let es := (List.range ps.length).map (fun i =>
      let p := ps.getD i { entry := 0, offset := 0, len := 0 }
      sendEntry i p.entry p.len)
    match pieces 1024 (es.length + 1) es with
    | [] => (acc.1, acc.2 ++ [o])
    | b :: rest => (acc.1 ++ { begins := acc.2 ++ [o], entries := b } :: rest.map (fun c => { begins := [], entries := c }), [])) ([], [])

/-- The fingerprint of a stored chunk: the index names it, or its record's header does. -/
def entryFp (entry : Nat) (s : State) : Option Bytes × State :=
  match s.map.index.find? (fun e => e.entry == entry) with
  | some e => (some e.fp, s)
  | none =>
    match storedChunk 0 entry calm s with
    | (.ok (r, _), _, s1) => (some (recFp r), s1)
    | (.error _, _, s1) => (none, s1)

/-- Fills in the fingerprints of a batch; none where a chunk cannot be read. -/
def fillFps : List ReplEntry → State → Option (List ReplEntry) × State
  | [], s => (some [], s)
  | e :: rest, s =>
    let (fp, s1) := if e.zero then (some (zeros 32), s) else entryFp e.entry s
    let (more, s2) := fillFps rest s1
    (match fp, more with
     | some x, some m => some ({ e with fp := x } :: m)
     | _, _ => none, s2)

/-- FP_LIST's body. -/
def fpList (batch : Nat) (es : List ReplEntry) : Bytes :=
  packFields [(4, batch), (2, es.length), (2, 0)]
    ++ es.flatMap (fun e => packFields [(8, e.position), (1, flagBit e.zero), (3, 0), (4, e.len)] ++ padTo 32 e.fp)

/-- Starts the batch a session stands at: what goes before it, and its FP_LIST; past the last one, DIFF_END. While replication is
quiesced no batch starts (Table 20-11). `again` repeats the record of an object that an earlier batch began (R299). -/
def startBatch (qp : Nat) (again : Bool) (s : State) : State :=
  match sesAt qp s with
  | none => s
  | some x =>
    let begin' := fun (os : List ObjRecord) (st : State) => os.foldl (fun t o => sendFrame qp 0x17 (objectBytes o) t) st
    if isQuiesced 6 s then modifySes qp (fun y => { y with held := true }) s
    else
      let s0 := modifySes qp (fun y => { y with held := false }) s
      match x.batches[x.batch]? with
      | none =>
        sendFrame qp 0x1F (packFields [(4, x.batches.length), (4, 0)])
          (modifySes qp (fun y => { y with stage := 5 }) (begin' x.lastBegins s0))
      | some b =>
        let earlier := if again ∧ b.begins = [] then ((x.batches.take x.batch).flatMap (·.begins)).getLast?.toList else []
        match fillFps b.entries s0 with
        | (none, s1) => abortQp qp 0x0A s1
        | (some es, s1) => sendFrame qp 0x12 (fpList x.batch es) (begin' (earlier ++ b.begins) s1)

/-- DIFF_READY: the sender starts its batches from RESUME_BATCH. -/
def diffReady (qp : Nat) (x : ReplSession) (body : Bytes) (s : State) : State :=
  let reason := fieldAt body 0 2
  if reason ≠ 0 then dropSession x reason none (countRepl (fun k => { k with aborts := bump k.aborts }) s)
  else
    let src := ((pairAt x.pair s).map (·.source)).getD 0
    let (bs, last) := if x.kind = 1 then (grainBatches src x.baseNum x.goalNum s, []) else objectBatches src x.baseNum x.goalNum s
    let r := min (fieldAt body 4 4) bs.length
    startBatch qp true (modifySes qp (fun y => { y with batches := bs, batch := r, lastBegins := last, stage := 4 }) s)

/-- DIFF_READY (R299). -/
def execDiffReady (qp : Nat) (frame : Bytes) (s : State) : Host.Outcome State Fault Refusal :=
  .next (replRow 0x11 qp frame (expectStage 3 true (diffReady qp)) s)

/-- Sends the chunks of a batch that a bitmap asks for, then BATCH_END (R298). -/
def sendChunks (qp : Nat) (x : ReplSession) (bitmap : Bytes) (f : MediaFacts) (s : State) : State :=
  match x.batches[x.batch]? with
  | none => abortSession x 6 s
  | some b =>
    let wanted := fun (i : Nat) => bitOf (leNat bitmap) i && !((b.entries[i]?).map (·.zero)).getD true
    let step := fun (acc : Bool × MediaFacts × State) (i : Nat) =>
      if acc.1 = false ∨ wanted i = false then acc
      else match storedChunk 0 (((b.entries[i]?).map (·.entry)).getD 0) acc.2.1 acc.2.2 with
        | (.error _, f1, s1) => (false, f1, s1)
        | (.ok (r, p), f1, s1) =>
          (true, f1, sendFrame qp 0x14 (packFields [(4, x.batch), (2, i), (1, recFormat r), (1, 0), (4, recPlainLen r), (4, p.length)] ++ p)
            (countRepl (fun k => { k with chunksSent := bump k.chunksSent }) s1))
    let skipped := ((List.range b.entries.length).filter (fun i => !wanted i && !((b.entries[i]?).map (·.zero)).getD true)).length
    match (List.range b.entries.length).foldl step (true, f, s) with
    | (false, _, s1) => abortQp qp 0x0A s1
    | (true, _, s1) =>
      sendFrame qp 0x15 (packFields [(4, x.batch), (4, 0)])
        (countRepl (fun k => { k with chunksSkipped := bump k.chunksSkipped skipped }) s1)

/-- FP_WANT: the sender sends what is asked for. -/
def fpWant (qp : Nat) (f : MediaFacts) (x : ReplSession) (body : Bytes) (s : State) : State :=
  if fieldAt body 0 4 ≠ x.batch then abortSession x 6 s else sendChunks qp x (slice body 8 128) f s

/-- FP_WANT (R298). -/
def execFpWant (qp : Nat) (frame : Bytes) (facts : MediaFacts) (s : State) : Host.Outcome State Fault Refusal :=
  .next (replRow 0x13 qp frame (expectStage 4 true (fpWant qp facts)) s)

/-- BATCH_DONE: the next batch, or chunks asked for again. -/
def batchDone (qp : Nat) (f : MediaFacts) (x : ReplSession) (body : Bytes) (s : State) : State :=
  if fieldAt body 0 4 ≠ x.batch then abortSession x 6 s
  else if fieldAt body 4 2 = 0 then startBatch qp false (modifySes qp (fun y => { y with batch := x.batch + 1 }) s)
  else
    let skipped := s.repl.counters.chunksSkipped
    countRepl (fun k => { k with chunksSkipped := skipped }) (sendChunks qp x (slice body 8 128) f s)

/-- BATCH_DONE (R298). -/
def execBatchDone (qp : Nat) (frame : Bytes) (facts : MediaFacts) (s : State) : Host.Outcome State Fault Refusal :=
  .next (replRow 0x16 qp frame (expectStage 4 true (batchDone qp facts)) s)

/-- DIFF_DONE: the sender records the completed diff, and its session is over (R299). -/
def diffDone (qp : Nat) (x : ReplSession) (body : Bytes) (s : State) : State :=
  let reason := fieldAt body 0 2
  if reason ≠ 0 then dropSession x reason none (countRepl (fun k => { k with aborts := bump k.aborts }) s)
  else
    let s1 := match pairAt x.pair s with
      | some r => (placePair { r with lastTargetJseq := x.goal } s).2.2
      | none => s
    dropSession ((sesAt qp s1).getD x) 0 (some (fieldAt body 2 2)) s1

/-- DIFF_DONE (R299). -/
def execDiffDone (qp : Nat) (frame : Bytes) (s : State) : Host.Outcome State Fault Refusal :=
  .next (replRow 0x20 qp frame (expectStage 5 true (diffDone qp)) s)

/-! ## The receiver's diff (R298, R299) -/

/-- Whether a dedup domain holds no chunk. -/
def domainEmpty (d : Domain) : Bool := d.counts.all (fun c => c.2 == 0)

/-- What an unfinished object of an abandoned diff has mapped is released. -/
def dropPartial (o : Nat × ObjRecord) (s : State) : State :=
  if (objectAt o.1 s).isSome then s
  else
    let (j, m, s1) := place 0 (.unmap (.piece o.1 0 0) 0) s
    dropObjectIngest o.1 j m s1

/-- Whether the target still holds the local snapshot that its last completed diff made (R299, Table 12-6): the one noted for the base, or
any, where a take-over has lost the note. -/
def holdsBase (kind target base : Nat) (s : State) : Bool :=
  match s.repl.copies.find? (fun c => c.1 == kind * 2 ^ 16 + target && c.2.1 == base) with
  | some c => (snapAt kind target c.2.2 s).isSome
  | none => s.map.snaps.any (fun x => x.kind == kind && x.id == target)

/-- DIFF_BEGIN: the receiver checks target, size, salt and base, and answers DIFF_READY. -/
def diffBeginRow (qp : Nat) (x : ReplSession) (b : Bytes) (s : State) : State :=
  let kind := fieldAt b 0 1
  let target := fieldAt b 2 2
  let base := fieldAt b 8 8
  let goal := fieldAt b 0x10 8
  let salt := slice b 0x20 32
  let dom := scopeDomain kind target s
  let d := domainAt dom s
  let size := fieldAt b 0x18 8
  let mine := (designation kind target s).filter (fun p => p.partner == x.partner)
  let saltOk := (d.map (fun y => y.salt == salt)).getD false
  let adopt := (d.map domainEmpty).getD false
  let copy := holdsBase kind target base s
  let fault :=
    if mine.isNone ∨ (scopeOwner kind target s).isNone = true ∨ d.isNone = true then 4
    else if s.boot.mode = .readonly ∨ (kind = 1 ∧ sourceSize 1 target s < size) then 5
    else if saltOk = false ∧ adopt = false then 2
    else if base ≠ 0 ∧ ((mine.map (·.lastTargetJseq)) ≠ some base ∨ copy = false) then 3
    else 0
  if fault ≠ 0 then
    abortQp qp fault (sendFrame qp 0x11 (packFields [(2, fault), (2, 0), (4, 0)]) s)
  else
    let s1 := match d with
      | some y => if saltOk then s else (changeTable (.domain y.id y.kek y.voxcaLevel y.verifyPolicy salt) s).2
      | none => s
    let same := fun (r : ReplResume) => r.kind == kind && r.target == target
    let old := s1.repl.resume.find? (fun r => same r && r.base == base && r.goal == goal)
    let stale := s1.repl.resume.filter (fun r => same r && !(r.base == base && r.goal == goal))
    let s2 := stale.foldl (fun st r => match r.object with
      | some o => dropPartial o st
      | none => st) (modifyRepl (fun r => { r with resume := r.resume.filter (fun y => !stale.contains y) }) s1)
    let n := (old.map (·.batch)).getD 0
    let f := fun (y : ReplSession) => { y with kind := kind, target := target, base := base, goal := goal, stage := 4, batch := n
                                               object := old.bind (·.object) }
    sendFrame qp 0x11 (packFields [(2, 0), (2, 0), (4, n)]) (modifySes qp f s2)

/-- DIFF_BEGIN (R297). -/
def execDiffBegin (qp : Nat) (frame : Bytes) (s : State) : Host.Outcome State Fault Refusal :=
  .next (replRow 0x10 qp frame (expectStage 3 false (diffBeginRow qp)) s)

/-- Entries of an FP_LIST. -/
def parseEntries (n : Nat) (b : Bytes) : List ReplEntry :=
  (List.range n).map (fun i =>
    let e := slice b (48 * i) 48
    { position := fieldAt e 0 8, entry := 0, zero := fieldAt e 8 1 == 1, len := fieldAt e 12 4, fp := slice e 16 32, data := none })

/-- The 128-byte bitmap of the indices that a test picks. -/
def bitmapOf (n : Nat) (p : Nat → Bool) : Bytes :=
  leBytes 128 (((List.range n).filter p).foldl (fun acc i => acc + 2 ^ i) 0)

/-- Whether an entry's chunk is missing: mapped, neither brought by CHUNK_DATA nor in the dedup domain. -/
def entryMissing (dom : Nat) (e : ReplEntry) (s : State) : Bool := !e.zero && e.data.isNone && (indexFind dom e.fp s).isNone

/-- FP_LIST: the receiver looks up each fingerprint and answers FP_WANT (R298). -/
def fpListRow (qp : Nat) (x : ReplSession) (b : Bytes) (s : State) : State :=
  let n := fieldAt b 4 2
  if n = 0 ∨ 1024 < n ∨ b.length ≠ 8 + 48 * n ∨ (x.kind = 2 ∧ x.object.isNone = true) then abortSession x 6 s
  else
    let es := parseEntries n (b.drop 8)
    let dom := scopeDomain x.kind x.target s
    let looked := es.foldl (fun st e => if e.zero then st else (winnowHot (hotKey dom e.fp) st).2) s
    let want := bitmapOf n (fun i => ((es[i]?).map (fun e => entryMissing dom e s)).getD false)
    sendFrame qp 0x13 (packFields [(4, fieldAt b 0 4), (4, 0)] ++ want)
      (modifySes qp (fun y => { y with inbound := es, batch := fieldAt b 0 4 }) looked)

/-- FP_LIST (R298). -/
def execFpList (qp : Nat) (frame : Bytes) (s : State) : Host.Outcome State Fault Refusal :=
  .next (replRow 0x12 qp frame (expectStage 4 false (fpListRow qp)) s)

/-- CHUNK_DATA: the receiver decodes a chunk and checks its fingerprint (R298). -/
def chunkData (qp : Nat) (x : ReplSession) (b : Bytes) (s : State) : State :=
  let i := fieldAt b 4 2
  let stored := slice b 16 (fieldAt b 12 4)
  match x.inbound[i]? with
  | none => abortSession x 6 s
  | some e =>
    if fieldAt b 0 4 ≠ x.batch ∨ b.length ≠ 16 + fieldAt b 12 4 then abortSession x 6 s
    else
      let plain := if fieldAt b 6 1 = 1 then
          let (st, out) := vxDecode stored
          if vxCode st = vxOk then some out else none
        else some stored
      let dom := scopeDomain x.kind x.target s
      match plain with
      | none => abortSession x 0x0A s
      | some p =>
        if p.length ≠ fieldAt b 8 4 ∨ p.length ≠ e.len ∨ fingerprint dom p s ≠ e.fp then abortSession x 0x0A s
        else
          let set := fun (es : List ReplEntry) => modifyNth (fun (y : ReplEntry) => { y with data := some p }) i es
          modifySes qp (fun y => { y with inbound := set y.inbound }) s

/-- CHUNK_DATA (R298). -/
def execChunkData (qp : Nat) (frame : Bytes) (s : State) : Host.Outcome State Fault Refusal :=
  .next (replRow 0x14 qp frame (expectStage 4 false (chunkData qp)) s)

/-- The target an entry of a batch maps: a grain, or the piece at its index of the object being built. -/
def entryTarget (x : ReplSession) (e : ReplEntry) (s : State) : Target :=
  match x.kind, x.object with
  | 2, some (o, _) =>
    let before := (piecesOf o s).take e.position
    .piece o (before.foldl (fun n p => n + p.len) 0) e.len
  | _, _ => .grain x.target e.position

/-- Ingests a checked chunk as a miss under the receiver's own level and epoch (R298); whether it found room. -/
def ingestEntry (t : Target) (dom : Nat) (e : ReplEntry) (plain : Bytes) (s : State) : Bool × State :=
  let (lv, ep) := domainNow dom s
  let w : ChunkWork :=
    { id := s.ingest.nextWork, harrow := 8 * targetQuadrant t s, epoch := none, target := t, plain := plain, domain := dom, level := lv
      keyEpoch := ep, fp := some e.fp, records := [], chunkId := 0, gen := 0, decision := .miss, noIndex := false, stream := none
      stored := none }
  let s1 := commitMiss w (modifyIngest (fun i => { i with works := i.works ++ [w], nextWork := i.nextWork + 1 }) s)
  match workAt w.id s1 with
  | none => (true, s1)
  | some y => (false, squashWork y s1)

/-- Maps the entries of a batch in order (R290, R298); whether every one found room. -/
def mapEntries (x : ReplSession) (dom : Nat) : List ReplEntry → State → Bool × State
  | [], s => (true, s)
  | e :: rest, s =>
    let t := entryTarget x e s
    if e.zero then mapEntries x dom rest (commitReference t [] 0 s)
    else match indexFind dom e.fp s, e.data with
      | some i, _ => mapEntries x dom rest (commitReference t [] i.entry s)
      | none, some plain =>
        match ingestEntry t dom e plain s with
        | (true, s1) => mapEntries x dom rest s1
        | (false, s1) => (false, s1)
      | none, none => (false, s)

/-- Writes the record of an object whose pieces are all there; a version that a repeated record brings again is not written twice. -/
def closeObject (qp : Nat) (s : State) : State :=
  match sesAt qp s with
  | none => s
  | some x =>
    match x.object with
    | none => s
    | some (o, r) =>
      let have' := (piecesOf o s).foldl (fun n p => n + p.len) 0
      if have' < r.size then s
      else
        let cur := currentVersion x.target r.key s
        let rec' : ObjRecord :=
          { r with objDomain := x.target, dedupDomain := scopeDomain 2 x.target s, number := o, pieceCount := (piecesOf o s).length
                   prev := (cur.map (·.number)).getD noObject }
        let s1 := place' (leNat (r.key.take 1) % 4) (.object rec') s
        modifySes qp (fun y => { y with object := none })
          (modifyIngest (fun i => { i with objects := i.objects.filter (fun y => y.number != o) }) s1)

/-- Applies the receiver's open batch: asks again for what is missing, waits for copies that snapshots must have first, else maps it and
answers BATCH_DONE (R276, R298, R299). -/
def applyBatch (qp : Nat) (s : State) : State :=
  match sesAt qp s with
  | none => s
  | some x =>
    let dom := scopeDomain x.kind x.target s
    let miss := fun (i : Nat) => ((x.inbound[i]?).map (fun e => entryMissing dom e s)).getD false
    let done := fun (st : Nat) (m : Bytes) (y : State) => sendFrame qp 0x16 (packFields [(4, x.batch), (2, st), (2, 0)] ++ padTo 128 m) y
    let ts := x.inbound.map (fun e => entryTarget x e s)
    if (List.range x.inbound.length).any miss then done 1 (bitmapOf x.inbound.length miss) s
    else if ts.any (fun t => !pageReady t s) then
      modifySes qp (fun y => { y with held := true }) (ts.foldl (fun st t => startCopy t st) s)
    else
      match mapEntries x dom x.inbound (modifySes qp (fun y => { y with held := false }) s) with
      | (false, s1) => abortQp qp (if domainLocked dom s1 then 1 else 5) s1
      | (true, s1) =>
        let s2 := closeObject qp s1
        let obj := (sesAt qp s2).bind (·.object)
        let r : ReplResume := { kind := x.kind, target := x.target, base := x.base, goal := x.goal, batch := x.batch, object := obj }
        let keep := fun (y : ReplResume) => !(y.kind == x.kind && y.target == x.target)
        done 0 [] (modifyRepl (fun y => { y with resume := y.resume.filter keep ++ [r] }) s2)

/-- BATCH_END: the receiver maps the batch and answers BATCH_DONE. -/
def batchEnd (qp : Nat) (x : ReplSession) (b : Bytes) (s : State) : State :=
  if fieldAt b 0 4 ≠ x.batch ∨ x.inbound = [] then abortSession x 6 s else settle (applyBatch qp s)

/-- BATCH_END (R298). -/
def execBatchEnd (qp : Nat) (frame : Bytes) (s : State) : Host.Outcome State Fault Refusal :=
  .next (replRow 0x15 qp frame (expectStage 4 false (batchEnd qp)) s)

/-- OBJECT_BEGIN: the receiver starts an object version under a number of its own, or goes on with one of which it has applied
batches; one it holds already is not begun again (R297, R299). -/
def objectBegin (qp : Nat) (x : ReplSession) (b : Bytes) (s : State) : State :=
  let r := parseObject b
  if x.kind ≠ 2 ∨ b.length ≠ 128 then abortSession x 6 s
  else if (x.object.map (fun o => o.2.number)) = some r.number then s
  else
    let s0 := match x.object with
      | some o => dropPartial o s
      | none => s
    let cur := currentVersion x.target r.key s0
    let again := (cur.map (fun o => o.commitTime == r.commitTime && o.state == r.state)).getD false
    if r.state = 3 ∧ (cur.filter (fun o => o.state != 3)).isNone = true then modifySes qp (fun y => { y with object := none }) s0
    else if again ∧ r.size = 0 then modifySes qp (fun y => { y with object := none }) s0
    else
      let n := freeNumber s0
      let o : OpenObject :=
        { number := n, objDomain := x.target, domain := scopeDomain 2 x.target s0, quadrant := leNat (r.key.take 1) % 4, landed := 0
          size := none, cut := 0 }
      let time := if r.state = 3 then (issueTime x.target s0).1 else r.commitTime
      let s1 := modifyIngest (fun i => { i with objects := i.objects ++ [o] }) s0
      settle (closeObject qp (modifySes qp (fun y => { y with object := some (n, { r with commitTime := time }) }) s1))

/-- OBJECT_BEGIN (R297). -/
def execObjectBegin (qp : Nat) (frame : Bytes) (s : State) : Host.Outcome State Fault Refusal :=
  .next (replRow 0x17 qp frame (expectStage 4 false (objectBegin qp)) s)

/-- DIFF_END: the receiver begins a local snapshot, whose number DIFF_DONE reports (R299). -/
def diffEnd (qp : Nat) (x : ReplSession) (_b : Bytes) (s : State) : State :=
  let (bar, s1) := stampBarrier s
  match beginSnap x.kind x.target bar none (some qp) s1 with
  | none => abortQp qp 5 (sendFrame qp 0x20 (packFields [(2, 5), (2, 0), (4, 0)]) s1)
  | some (_, s2) => modifySes qp (fun y => { y with stage := 5 }) s2

/-- DIFF_END (R299). -/
def execDiffEnd (qp : Nat) (frame : Bytes) (s : State) : Host.Outcome State Fault Refusal :=
  .next (replRow 0x1F qp frame (expectStage 4 false (diffEnd qp)) s)

/-- The local snapshot of a diff is placed: the designation's record notes it, and DIFF_DONE goes out. -/
def diffSnapped (qp num : Nat) (s : State) : State :=
  match sesAt qp s with
  | none => s
  | some x =>
    let s1 := match designation x.kind x.target s with
      | some r => (placePair { r with lastTargetJseq := x.goal } s).2.2
      | none => s
    let key := x.kind * 2 ^ 16 + x.target
    let s2 := modifyRepl (fun r => { r with
      copies := r.copies.filter (fun c => c.1 != key) ++ [(key, x.goal, num)]
      resume := r.resume.filter (fun y => !(y.kind == x.kind && y.target == x.target)) }) s1
    sendFrame qp 0x20 (packFields [(2, 0), (2, num), (4, 0)]) s2

/-! ## Keeping a session alive (R300) -/

/-- KEEPALIVE: it has restarted the idle timer. -/
def execKeepalive (qp : Nat) (frame : Bytes) (s : State) : Host.Outcome State Fault Refusal :=
  .next (replRow 0x30 qp frame (fun _ _ st => st) s)

/-- ABORT of the other side: the session is over with its reason. -/
def replAbortRow (x : ReplSession) (b : Bytes) (s : State) : State :=
  dropSession x (fieldAt b 0 2) none (countRepl (fun k => { k with aborts := bump k.aborts }) s)

/-- REPL_ABORT (R300). -/
def execReplAbort (qp : Nat) (frame : Bytes) (s : State) : Host.Outcome State Fault Refusal := .next (replRow 0x3F qp frame replAbortRow s)

/-- REPL_KEEPALIVE_TIMER: a side that has sent no frame for 5 s sends KEEPALIVE. -/
def execReplKeepaliveTimer (qp : Nat) (s : State) : Host.Outcome State Fault Refusal :=
  .next (match sesAt qp s with
    | some x => if x.wslot.isSome then sendFrame qp 0x30 [] s else s
    | none => s)

/-- REPL_IDLE_TIMEOUT: the timer has won, and the session ends with REPL_TIMEOUT (R300). -/
def execReplIdleTimeout (qp : Nat) (s : State) : Host.Outcome State Fault Refusal := .next (abortQp qp 7 s)

/-- Goes on with sessions that wait: batches held by a quiesce, batches whose mapping waited for snapshot copies. -/
def resumeRepl (s : State) : State :=
  s.repl.sessions.foldl (fun st x => match x.qp with
    | some q => if x.held = false then st else if x.initiator then startBatch q false st else applyBatch q st
    | none => st) s

end Sys2Proof.Machine
end

