-- ==== Sys2Proof/Machine/Export.lean ====
section
/-! DEFINITION. Migration export (R301-R304, R285, R286), and the end of a snapshot's barrier (Table 12-1). -/

namespace Sys2Proof.Machine

/-- An export by number. -/
def exportAt (n : Nat) (s : State) : Option ExportRun := s.repl.exports.find? (fun e => e.num == n)

/-- Changes an export. -/
def modifyRun (n : Nat) (f : ExportRun → ExportRun) (s : State) : State :=
  modifyRepl (fun r => { r with exports := mapIf (fun e => e.num == n) f r.exports }) s

/-! ## The frames of a stream (R285, R286, R303) -/

/-- A stream as it is built: its frames, the chunk IDs sent, and whether every chunk could be read. -/
structure StreamAcc where
  frames : List Bytes
  sent : List Nat
  whole : Bool
  deriving DecidableEq, Repr

/-- Adds a frame. -/
def addFrame (sealed' etype : Nat) (body : Bytes) (a : StreamAcc) : StreamAcc :=
  { a with frames := a.frames ++ [exportFrame etype sealed' a.frames.length body] }

/-- The CHUNK frame of a map entry, unless it names chunk ID 0 or its chunk has been sent (R286, R303). -/
def addChunk (sealed' entry : Nat) (x : StreamAcc × State) : StreamAcc × State :=
  let (a, s) := x
  let id := entryChunk entry
  if id = 0 ∨ a.sent.contains id then (a, s)
  else
    match storedChunk 0 entry calm s with
    | (.error _, _, s1) => ({ a with whole := false }, s1)
    | (.ok (r, payload), _, s1) =>
      let plain := if recFormat r = 1 then (vxDecode payload).2 else payload
      let body := if sealed' = 1 then r
        else packFields [(8, entry), (1, recDomain r), (7, 0)] ++ recFp r ++ plain
      (addFrame sealed' 5 body { a with sent := id :: a.sent }, s1)

/-- Consecutive mapped grains, in runs of at most 2,040: first grain and entries. -/
def mapRuns : List (Nat × Nat) → List (Nat × List Nat) → List (Nat × List Nat)
  | [], acc => acc.reverse
  | (g, e) :: rest, [] => mapRuns rest [(g, [e])]
  | (g, e) :: rest, (g0, es) :: acc =>
    if g = g0 + es.length ∧ es.length < 2040 then mapRuns rest ((g0, es ++ [e]) :: acc) else mapRuns rest ((g, [e]) :: (g0, es) :: acc)

/-- The grains that a snapshot of a namespace maps: those of the live page set and of every copy, as the snapshot resolves them. -/
def snapGrains (ns snap : Nat) (s : State) : List (Nat × Nat) :=
  let live := (s.map.live.filter (fun e => e.1 / 2 ^ 31 == ns)).map (fun e => e.1 % 2 ^ 31)
  let copies := (s.map.pages.filter (fun c => c.ns == ns)).flatMap (fun c => c.entries.map (·.1))
  let all := sortByKey (fun (g : Nat) => [(g : Int)]) (distinct (live ++ copies))
  (all.map (fun g => (g, resolveGrain ns snap g s))).filter (fun x => x.2 != 0)

/-- The frames of a namespace's content. -/
def addNamespace (sealed' ns snap : Nat) (x : StreamAcc × State) : StreamAcc × State :=
  (mapRuns (snapGrains ns snap x.2) []).foldl (fun y run =>
    let (a, s) := run.2.foldl (fun z e => addChunk sealed' e z) y
    (addFrame sealed' 6 (packFields [(2, ns), (2, snap), (4, run.2.length), (8, run.1)] ++ run.2.flatMap (leBytes 8)) a, s)) x

/-- The frames of an object: its record, with pieces 4,096 a frame. -/
def addObject (sealed' : Nat) (o : ObjRecord) (x : StreamAcc × State) : StreamAcc × State :=
  let ps := piecesOf o.number x.2
  let groups := if ps.isEmpty then [[]] else pieces 4096 ps.length ps
  ((List.range groups.length).zip groups).foldl (fun y g =>
    let (a, s) := g.2.foldl (fun z p => addChunk sealed' p.entry z) y
    (addFrame sealed' 7 (objectBytes o ++ leBytes 8 (4096 * g.1) ++ g.2.flatMap pieceBytes) a, s)) x

/-- The dedup domain of an export's scope. -/
def exportDomain (kind id : Nat) (s : State) : Nat := if kind = 3 then id else scopeDomain kind id s

/-- The root entry of a namespace or object domain (Table 11-11). -/
def rootEntry (kind id : Nat) (s : State) : Option Bytes :=
  if kind = 1 then (nsAt id s).map (fun n => nsEntry n s)
  else (objdomAt id s).map (fun d => scopeEntry 2 d.domain d.id 0 (scopeFlags s.map 2 d.id) (scopeParam 2 d.id 0x1004 s) (zeros 16))

/-- All frames of a stream in the order of R303; none where a chunk cannot be read. -/
def streamFrames (e : ExportRun) (s : State) : Option (List Bytes) × State :=
  let sealed' := e.eflags % 2
  let d := exportDomain e.kind e.id s
  let snap := if e.kind = 3 then 0 else (e.snaps.map (·.2.2)).headD e.snap
  let scopes := sortByKey (fun (x : Nat × Nat × Nat) => [(x.1 : Int), (x.2.1 : Int)]) e.snaps
  let a0 : StreamAcc := { frames := [], sent := [], whole := true }
  let head := s.media.arrayUid ++ packFields [(1, e.kind), (1, 0), (2, e.id), (2, snap), (2, 0), (8, e.startTime)]
  let a1 := addFrame sealed' 1 head a0
  let a2 := match domainAt d s with
    | none => a1
    | some x =>
      let b := addFrame sealed' 2 (domainEntry x (sealed' == 1)) a1
      let es := sortByKey (fun (v : Envelope) => [(v.epoch : Int)]) x.envelopes
      if sealed' = 1 then es.foldl (fun c v => addFrame sealed' 3 (envBytes d v) c) b else b
  let a3 := scopes.foldl (fun c x => match rootEntry x.1 x.2.1 s with
    | some b => addFrame sealed' 4 b c
    | none => c) a2
  let (a4, s1) := scopes.foldl (fun y x =>
    if x.1 = 1 then addNamespace sealed' x.2.1 x.2.2 y
    else (listed x.2.1 x.2.2 y.2).foldl (fun z o => addObject sealed' o z) y) (a3, s)
  let body := (a4.frames.map (fun f => f.length - 32)).sum
  let tail := packFields [(8, a4.frames.length), (8, a4.sent.length), (8, body)] ++ sha256 a4.frames.flatten
  if a4.whole then (some (addFrame sealed' 15 tail a4).frames, s1) else (none, s1)

/-! ## Running an export -/

/-- Lanes of an export that are still open are closed, and the snapshots made for it are deleted. -/
def exportOver (n state : Nat) (s : State) : State :=
  match exportAt n s with
  | none => s
  | some e =>
    if e.state ≠ 0 then s
    else
      let s1 := modifyRun n (fun x => { x with state := state, lanes := [], open' := [], asked := [], frames := [] }) s
      let unwanted := fun (j : SnapJob) => j.forExport == some n
      let s2 := modifyRepl (fun r => { r with jobs := r.jobs.filter (fun j => !unwanted j) }) s1
      let s3 := e.lanes.foldl (fun st q => qpClose q st) s2
      if e.temp then e.snaps.foldl (fun st x => match snapAt x.1 x.2.1 x.2.2 st with
        | some y => placeSnapDelete y st
        | none => st) s3
      else s3

/-- Every running export ends with ST_ABORTED, as the head enters YIELD or DUMP (R304). -/
def endExports (s : State) : State := s.repl.exports.foldl (fun st e => exportOver e.num 2 st) s

/-- Opens the lanes of an export; without a port or a context for each it ends. -/
def openLanes (n : Nat) (s : State) : State :=
  match exportAt n s with
  | none => s
  | some e => (List.range e.wanted).foldl (fun st _ =>
      match connectOut .migration e.address (paramNat 0x0E17 0 st) st with
      | none => exportOver n 2 st
      | some (q, s1) => modifyRun n (fun x => { x with lanes := x.lanes ++ [q] }) s1) s

/-- Goes on with an export whose snapshots are all there: its frames are formed and its lanes opened (R301, R302). -/
def exportGo (n : Nat) (s : State) : State :=
  match exportAt n s with
  | none => s
  | some e =>
    if e.state ≠ 0 ∨ !e.asked.isEmpty ∨ !e.frames.isEmpty ∨ s.repl.jobs.any (fun j => j.forExport == some n) then s
    else
      match streamFrames e s with
      | (none, s1) => exportOver n 2 s1
      | (some fs, s1) =>
        if fs.length ≤ e.resume then exportOver n 2 s1
        else openLanes n (modifyRun n (fun x => { x with frames := fs, lastAdvance := s1.time.ticks }) s1)

/-- A snapshot asked for an export is placed. -/
def exportSnapped (n kind id num : Nat) (s : State) : State :=
  exportGo n (modifyRun n (fun e => { e with snaps := e.snaps ++ [(kind, id, num)] }) s)

/-- The peer's answer to a SNAP_CREATE that an export asked of it (R289). -/
def exportAnswered (fwd : Nat) (st : Status) (result : Bytes) (s : State) : State :=
  match s.repl.exports.find? (fun e => e.asked.any (fun x => x.1 == fwd)) with
  | none => s
  | some e => match e.asked.find? (fun x => x.1 == fwd) with
    | none => s
    | some (_, kind, id) =>
      let s1 := modifyRun e.num (fun y => { y with asked := removeAt fwd y.asked }) s
      if statusOk st then exportSnapped e.num kind id (fieldAt result 0 2) s1 else exportOver e.num 2 s1

/-- The export that a lane belongs to. -/
def laneRun (q : Nat) (s : State) : Option ExportRun := s.repl.exports.find? (fun e => e.lanes.contains q)

/-- A lane is CONNECTED: with the last of them the frames go out, ESEQ i on lane i mod L (R302). -/
def laneConnected (q : Nat) (s : State) : State :=
  match laneRun q s with
  | none => s
  | some e =>
    if e.open'.contains q then s
    else
      let s1 := modifyRun e.num (fun x => { x with open' := x.open' ++ [q], lastAdvance := s.time.ticks }) s
      if e.open'.length + 1 < e.wanted then s1
      else
        let numbered := ((List.range e.frames.length).zip e.frames).drop e.resume
        let counted := fun (k : ReplCounters) =>
          { k with exportFrames := bump k.exportFrames numbered.length
                   exportBytes := bump k.exportBytes ((numbered.map (·.2.length)).sum) }
        numbered.foldl (fun st f => qpSend (e.lanes.getD (f.1 % e.wanted) q) [.send f.2 none (f.1 + 1)] st) (countRepl counted s1)

/-- A frame has been acknowledged; with the last one the export is complete. -/
def laneAcked (q tag : Nat) (s : State) : State :=
  match laneRun q s with
  | none => s
  | some e =>
    let n := ((e.frames[tag - 1]?).map (·.length)).getD 0
    let s1 := modifyRun e.num (fun x => { x with acked := x.acked + 1, bytes := x.bytes + n, lastAdvance := s.time.ticks }) s
    if e.acked + 1 < e.frames.length - e.resume then s1 else exportOver e.num 1 s1

/-- A lane is lost: the export ends. -/
def laneGone (q : Nat) (s : State) : State :=
  match laneRun q s with
  | none => s
  | some e => exportOver e.num 2 s

/-! ## Commands (R305) -/

/-- The scopes that an export snapshots: its own, or those of its dedup domain. -/
def exportScopes (kind id : Nat) (s : State) : List (Nat × Nat) :=
  if kind = 3 then
    (s.map.namespaces.filter (fun n => n.domain == id && n.exposes.isNone)).map (fun n => (1, n.id))
      ++ (s.map.objdoms.filter (fun o => o.domain == id)).map (fun o => (2, o.id))
  else [(kind, id)]

/-- Whether far store holds a bitmap of one bit for each chunk ID up to the highest assigned (R303). -/
def bitmapFits (s : State) : Bool :=
  let top := s.map.locs.foldl (fun m x => max m x.1) 0
  decide (top / 8 + 1 ≤ (farRegions s).getD 5 0)

/-- Begins the snapshots of an export: under one barrier here, and asked of the peer for the scopes it owns. -/
def beginSnaps (n : Nat) (p : McPacket) (scopes : List (Nat × Nat)) (s : State) : Option State :=
  let (b, s1) := stampBarrier s
  scopes.foldl (fun acc x => acc.bind (fun st =>
    match scopeOwner x.1 x.2 st with
    | none => none
    | some owner =>
      if ownsIngest owner st then (beginSnap x.1 x.2 b (some n) none st).map (·.2)
      else
        let ask := { p with flags := 0, dataPages := 0, dataPtr := 0, params := padTo 40 (packFields [(1, x.1), (1, 0), (2, x.2)]) }
        let (id, st1) := forwardSend 3 (packetBytes 0x0500 ask) [] none none st
        some (modifyRun n (fun e => { e with asked := e.asked ++ [(id, x.1, x.2)] }) st1))) (some s1)

/-- MIGRATE_EXPORT (R301-R303). A resumed export takes the start time of the run it resumes, so that its frames are the same. -/
def migrateExport (p : McPacket) (s : State) : McEnd × State :=
  let kind := parm p 0 1
  let id := parm p 2 2
  let snap := parm p 4 2
  let flags := parm p 6 1
  let lanes := parm p 7 1
  let exists' := if kind = 3 then (domainAt id s).isSome else (kind == 1 || kind == 2) && (scopeOwner kind id s).isSome
  let snapOk := snap == 0 || (kind != 3 && (snapAt kind id snap s).isSome)
  if exists' = false ∨ snapOk = false ∨ 2 ≤ flags ∨ lanes = 0 ∨ 16 < lanes then refuse stBadParam s
  else if servingMode s.boot.mode = false ∨ (snap = 0 ∧ snapMode s = false) then refuse stWrongMode s
  else if bitmapFits s = false then refuse stNoResource s
  else
    let n := s.repl.nextExport
    let earlier := s.repl.exports.find? (fun e => e.kind == kind && e.id == id && e.snap == snap && e.eflags == flags)
    let start := if parm p 0x18 8 = 0 then arrayTime s else (earlier.map (·.startTime)).getD (arrayTime s)
    let e : ExportRun :=
      { num := n, kind := kind, id := id, snap := snap, eflags := flags, address := parm p 8 16, wanted := lanes, lanes := []
        open' := [], resume := parm p 0x18 8, asked := [], frames := [], acked := 0, bytes := 0, state := 0
        snaps := if snap = 0 then [] else [(kind, id, snap)], temp := snap == 0, startTime := start, lastAdvance := s.time.ticks }
    let s1 := modifyRepl (fun r => { r with exports := r.exports ++ [e], nextExport := n + 1 }) s
    if snap = 0 then
      match beginSnaps n p (exportScopes kind id s) s1 with
      | none => refuse stNoResource s
      | some s2 => ok (leBytes 2 n) (exportGo n s2)
    else ok (leBytes 2 n) (exportGo n s1)

/-- MIGRATE_EXPORT (R301). -/
def execMigrateExport (p : McPacket) (s : State) : Host.Outcome State Fault Refusal := .next (mciRun 0x0520 p (migrateExport p) s)

/-- State of an export: state, ESEQ sent, bytes; 8 bytes each (DESIGN CHOICE 12). -/
def exportBytesOf (e : ExportRun) : Bytes := packFields [(8, e.state), (8, e.resume + e.acked), (8, e.bytes)]

/-- MIGRATE_STATUS. -/
def migrateStatus (p : McPacket) (s : State) : McEnd × State :=
  match exportAt (parm p 0 2) s with
  | none => refuse stBadParam s
  | some e => ok (exportBytesOf e) s

/-- MIGRATE_STATUS (R305). -/
def execMigrateStatus (p : McPacket) (s : State) : Host.Outcome State Fault Refusal := .next (mciRun 0x0521 p (migrateStatus p) s)

/-- MIGRATE_STOP: a running export ends in its ST_ABORTED state. -/
def migrateStop (p : McPacket) (s : State) : McEnd × State :=
  let n := parm p 0 2
  match exportAt n s with
  | none => refuse stBadParam s
  | some _ =>
    let s1 := exportOver n 2 s
    ok (((exportAt n s1).map exportBytesOf).getD []) s1

/-- MIGRATE_STOP (R305). -/
def execMigrateStop (p : McPacket) (s : State) : Host.Outcome State Fault Refusal := .next (mciRun 0x0522 p (migrateStop p) s)

/-- EXPORT_STALL_TIMEOUT: no lane of an export has advanced for that long, and it ends with ST_ABORTED (R302). -/
def execExportStallTimeout (number : Nat) (s : State) : Host.Outcome State Fault Refusal := .next (exportOver number 2 s)

/-! ## The end of a barrier (Table 12-1) -/

/-- A snapshot's barrier has drained: its record is placed, and what waited for it goes on. -/
def snapDrained (job : Nat) (s : State) : State :=
  match s.repl.jobs.find? (fun j => j.id == job) with
  | none => s
  | some j =>
    if barrierDrained j s = false then s
    else
      let (jseq, m, s1) := placeSnap j s
      let s2 := snapReply j jseq m s1
      let s3 := match j.forDiff with
        | some q => diffSnapped q j.num s2
        | none => s2
      let s4 := match j.forExport with
        | some n => exportSnapped n j.kind j.scope j.num s3
        | none => s3
      resumeRepl (resumeSheaf s4)

/-- SNAP_BARRIER_DRAINED (R288). -/
def execSnapBarrierDrained (job : Nat) (s : State) : Host.Outcome State Fault Refusal := .next (snapDrained job s)

end Sys2Proof.Machine
end

