-- ==== Sys2Proof/Machine/Transport.lean ====
section
/-! DEFINITION. The front ports: links, address resolution, priority flow control, packets, connections, landing zones (14). -/

namespace Sys2Proof.Machine

/-! ## What packets bring to the services -/

/-- The service of a queue pair learns that it has left CONNECTED, or was never connected. -/
def serviceGone (v : Service) (q : Nat) (s : State) : State :=
  match v with
  | .nvme => nvQueueGone q s
  | .sheaf => sheafGone q s
  | .replication => replGone q s
  | .migration => laneGone q s

/-- The service of a queue pair learns that a connection the head initiated is up. -/
def serviceUp (v : Service) (q : Nat) (s : State) : State :=
  match v with
  | .replication => replConnected q s
  | .migration => laneConnected q s
  | .nvme => s
  | .sheaf => s

/-- Hands what a packet brought to the service of its queue pair. -/
def takeDone (s : State) (d : QpDone) : State :=
  match d with
  | .read q u data => match qpAt q s with
    | none => s
    | some c => match c.service with
      | .nvme => nvReadDone q u.id u.offset data s
      | .sheaf => shReadDone q u.id u.offset data s
      | .replication => s
      | .migration => s
  | .acked q tag => laneAcked q tag s
  | .connected _ => s
  | .lost q => match qpAt q s with
    | some c => serviceGone c.service q s
    | none => s

/-- Hands over everything, in order. -/
def takeDones (r : List QpDone × State) : State := r.1.foldl takeDone r.2

/-- Whether a row of the table takes a message that stands in a receive buffer: a command of Table 15-2, a verb of 64 bytes, a frame
type of Table 12-4. -/
def spellsRow (v : Service) (m : Bytes) : Bool :=
  let op := fieldAt m 0 1
  match v with
  | .nvme => decide (64 ≤ m.length) && ([0, 1, 2, 5, 6, 8, 0x0A, 0x0C, 0x18].contains op
      || (op == 9 && [0x02, 0x07, 0x0B, 0x0C, 0x0F].contains (fieldAt m 40 1))
      || ((op == 0x0D || op == 0x15) && decide (fieldAt m 40 1 % 16 < 2)) || (op == 0x7F && [0, 1, 4, 8].contains (fieldAt m 4 1)))
  | .sheaf => m.length == 64 && decide (1 ≤ op) && decide (op ≤ 11)
  | .replication => [1, 2, 3, 0x10, 0x11, 0x12, 0x13, 0x14, 0x15, 0x16, 0x17, 0x1F, 0x20, 0x30, 0x3F].contains (fieldAt m 4 1)
  | .migration => true

/-- A message that no row takes ends as its service says: Invalid Command Opcode or Invalid Field (R376), ST_BAD_OPCODE (R393),
REPL_SEQUENCE (Table 12-6). -/
def endStray (q : Nat) (s : State) : State :=
  match qpAt q s with
  | none => s
  | some c => (c.received.filter (fun m => !spellsRow c.service m)).foldl (fun st m =>
      match c.service with
      | .nvme => adminRow [] q m st
      | .sheaf => shRequest q m calm st
      | .replication => replRow (fieldAt m 4 1) q m (fun x _ y => abortSession x 6 y) st
      | .migration => st) s

/-- A received packet, and what it brings. A message that it completes waits in its receive buffer for the row that it spells. -/
def packetRow (h : RoceHead) (b : RoceBody) (s : State) : State :=
  let q := h.qpn % 2 ^ 20
  let before := ((qpAt q s).map (·.msn)).getD 0
  let s1 := takeDones (receivePacket h b s)
  if ((qpAt q s1).map (·.msn)).getD 0 = before then s1 else endStray q s1

/-- SEND (R341, R343). -/
def execSend (head : RoceHead) (pos : MsgPos) (payload : Bytes) (s : State) : Host.Outcome State Fault Refusal :=
  .next (packetRow head (.send pos payload) s)

/-- SEND_WITH_INVALIDATE (R358). -/
def execSendWithInvalidate (head : RoceHead) (pos : MsgPos) (key : Nat) (payload : Bytes) (s : State) : Host.Outcome State Fault Refusal :=
  .next (packetRow head (.sendInvalidate pos key payload) s)

/-- RDMA_WRITE (R353, R354). -/
def execRdmaWrite (head : RoceHead) (pos : MsgPos) (header : Option WriteHeader) (payload : Bytes) (s : State) :
    Host.Outcome State Fault Refusal := .next (takeDones (receivePacket head (.write pos header payload) s))

/-- RDMA_READ_REQUEST: NAK Invalid Request (R339). -/
def execRdmaReadRequest (head : RoceHead) (s : State) : Host.Outcome State Fault Refusal :=
  .next (takeDones (receivePacket head .readRequest s))

/-- RDMA_READ_RESPONSE (R374, R400). -/
def execRdmaReadResponse (head : RoceHead) (pos : MsgPos) (payload : Bytes) (s : State) : Host.Outcome State Fault Refusal :=
  .next (takeDones (receivePacket head (.readResponse pos payload) s))

/-- ACKNOWLEDGE (R342, R359). -/
def execAcknowledge (head : RoceHead) (kind : AckKind) (s : State) : Host.Outcome State Fault Refusal :=
  .next (takeDones (receivePacket head (.ack kind) s))

/-- CNP (R360). -/
def execCnp (head : RoceHead) (s : State) : Host.Outcome State Fault Refusal := .next (takeDones (receivePacket head .cnp s))

/-- ROCE_PACKET_OTHER: NAK Invalid Request, or discarded and counted (Table 14-4). -/
def execRocePacketOther (head : RoceHead) (opcode : Nat) (s : State) : Host.Outcome State Fault Refusal :=
  .next (takeDones (receivePacket head (.other opcode) s))

/-- RETRANSMIT_TIMER: it has won its race with the ACK (R342). -/
def execRetransmitTimer (qp : Nat) (s : State) : Host.Outcome State Fault Refusal := .next (takeDones (retryOrFail qp s))

/-- RNR_DELAY_END: the delayed packets are sent again (R342). -/
def execRnrDelayEnd (qp : Nat) (s : State) : Host.Outcome State Fault Refusal :=
  .next (if ((qpAt qp s).map (·.rnrWait)).getD false then resendAll qp s else s)

/-- ACK_COALESCE_TIMER (R341). -/
def execAckCoalesceTimer (qp : Nat) (s : State) : Host.Outcome State Fault Refusal :=
  .next (if ((qpAt qp s).map (fun c => decide (0 < c.unacked))).getD false then sendAck qp s else s)

/-- CONTEXT_FETCH_DONE (R350). -/
def execContextFetchDone (qp : Nat) (s : State) : Host.Outcome State Fault Refusal :=
  .next (endStray qp (takeDones (contextFetched qp s)))

/-- STUB_FETCH_DONE (R351). -/
def execStubFetchDone (quadrant : Nat) (s : State) : Host.Outcome State Fault Refusal := .next (stubFetched quadrant s)

/-! ## Links and address resolution (R332, R334) -/

/-- A sub-port comes UP: the event, and a probe for each address. -/
def subPortUp (l : Nat) (s : State) : State :=
  if lportUsed l s = false then s
  else
    let s1 := raiseEvent 0x0101 l 0 (modifyLport l (fun p => { p with link := 2, downTold := false, conflicts := [] }) s)
    pumpAll ((ownAddresses l s1).foldl (fun st a => transmit l (paramNat 0x0E0F 0 st) none (.probe a.2.1) st) s1)

/-- SUB_PORT_UP (R332, R334). -/
def execSubPortUp (lport : Nat) (s : State) : Host.Outcome State Fault Refusal := .next (subPortUp (lport % 32) s)

/-- SUB_PORT_DOWN: flow control in both directions ends with the link (R332). -/
def execSubPortDown (lport : Nat) (s : State) : Host.Outcome State Fault Refusal :=
  let l := lport % 32
  .next (if (lportAt l s).link = 2 then
    modifyLport l (fun p => { p with
      link := 0, paused := [], xoff := [], counters := { p.counters with linkDowns := bump p.counters.linkDowns } }) s
  else s)

/-- PORT_LINK_DOWN: a used sub-port has been DOWN for 10 ms (Table 14-10). -/
def execPortLinkDown (lport : Nat) (s : State) : Host.Outcome State Fault Refusal :=
  let l := lport % 32
  .next (if lportUsed l s = true ∧ (lportAt l s).link ≠ 2 ∧ (lportAt l s).downTold = false then
    raiseEvent 0x0102 l 0 (modifyLport l (fun p => { p with downTold := true }) s)
  else s)

/-- A frame other than a RoCE v2 packet: it is taken where the port is UP, its VLAN tag matches, and it goes to the port's own MAC address or
to one of the group addresses that its kind admits; any other is discarded and counted (R333). -/
def frameRow (h : FrameHead) (groups : List Nat) (f : Nat → State → State) (s : State) : State :=
  let l := h.lport % 32
  if portUp l s = false then s
  else if vlanMatches l h.vlan s = true ∧ (h.dest = portMac l ∨ groups.contains h.dest = true) then f l s
  else countPort l (fun k => { k with nonRoceDropped := bump k.nonRoceDropped }) s

/-- The group addresses of IPv6 that a port takes: the solicited-node ones of its addresses, and all-nodes (R333). -/
def groupMacs (l : Nat) (s : State) : List Nat :=
  macOfGroup allNodes :: ((ownAddresses l s).filter (fun a => !isIpv4 a.2.1)).map (fun a => macOfGroup (solicitedNode a.2.1))

/-- Answers a request for one of a port's addresses, to the MAC address it came from. -/
def answerResolution (sender target mac l : Nat) (s : State) : State :=
  if isOwnAddress l target s then transmit l (paramNat 0x0E0F 0 s) none (.resolution true target sender mac) s else s

/-- An answer that resolves an address; of an address that the port holds itself it shows a conflict, and the port uses it no longer
(R334). -/
def resolutionAnswer (addr mac l : Nat) (s : State) : State :=
  match (ownAddresses l s).find? (fun a => a.2.1 == addr) with
  | some a => raiseEvent 0x0106 (detail2 l a.1) 0 (modifyLport l (fun p => { p with conflicts := p.conflicts ++ [a.1] }) s)
  | none => pumpAll (learnNeighbour l addr mac s)

/-- ARP_REQUEST (R334). Addresses are in IPv4-mapped form. -/
def execArpRequest (head : FrameHead) (sender target : Nat) (s : State) : Host.Outcome State Fault Refusal :=
  .next (frameRow head [macBroadcast] (answerResolution sender target head.source) s)

/-- ARP_REPLY (R334). -/
def execArpReply (head : FrameHead) (address mac : Nat) (s : State) : Host.Outcome State Fault Refusal :=
  .next (frameRow head [macBroadcast] (resolutionAnswer address mac) s)

/-- NEIGHBOUR_SOLICITATION (R334). -/
def execNeighbourSolicitation (head : FrameHead) (sender target : Nat) (s : State) : Host.Outcome State Fault Refusal :=
  .next (frameRow head (groupMacs (head.lport % 32) s) (fun l st => answerResolution sender target head.source l st) s)

/-- NEIGHBOUR_ADVERTISEMENT (R334). -/
def execNeighbourAdvertisement (head : FrameHead) (address mac : Nat) (s : State) : Host.Outcome State Fault Refusal :=
  .next (frameRow head (groupMacs (head.lport % 32) s) (fun l st => resolutionAnswer address mac l st) s)

/-- Answers an echo request to an address of the port, up to 1,500 bytes. -/
def answerEcho (sender target : Nat) (payload : Bytes) (l : Nat) (s : State) : State :=
  if isOwnAddress l target s = true ∧ payload.length ≤ 1500 then
    transmit l (paramNat 0x0E0F 0 s) (some (target, sender)) (.echo sender payload) s
  else s

/-- ICMP_ECHO_REQUEST: requests of up to 1,500 bytes to an address of the port are answered (R334). The payload is what follows the
request's checksum. -/
def execIcmpEchoRequest (head : FrameHead) (sender target : Nat) (payload : Bytes) (s : State) : Host.Outcome State Fault Refusal :=
  .next (frameRow head [] (answerEcho sender target payload) s)

/-! ## Priority flow control (R336, R337) -/

/-- Ticks of some quanta of 512 bit times at a rate in Mbit/s. -/
def quantaTicks (quanta rate : Nat) : Nat := (quanta * 512 * 25 + rate - 1) / max 1 rate

/-- A pause is over: what has waited goes out. -/
def pauseOver (l prio : Nat) (s : State) : State :=
  pumpAll (modifyLport l (fun p => { p with paused := p.paused.filter (fun x => x.1 != prio) }) s)

/-- A received PFC frame for a priority: quanta 0 ends a pause. -/
def pfcFrame (l prio quanta : Nat) (s : State) : State :=
  if portUp l s = false then s
  else
    let s1 := countPort l (fun c => { c with pfcRx := bumpAt c.pfcRx prio }) s
    if quanta = 0 then pauseOver l prio s1
    else
      let since := ((lportAt l s).paused.find? (fun x => x.1 == prio)).map (fun x => x.2.1)
      let now := s.time.ticks
      modifyLport l (fun p => { p with
        paused := p.paused.filter (fun x => x.1 != prio) ++ [(prio, since.getD now, now + quantaTicks quanta (portRate l s))] }) s1

/-- PFC_FRAME (R337). -/
def execPfcFrame (lport priority quanta : Nat) (s : State) : Host.Outcome State Fault Refusal :=
  .next (pfcFrame (lport % 32) (priority % 8) quanta s)

/-- PFC_PAUSE_END (R337). -/
def execPfcPauseEnd (lport priority : Nat) (s : State) : Host.Outcome State Fault Refusal := .next (pauseOver (lport % 32) priority s)

/-- PFC_REFRESH: 0x8000 quanta after an XOFF, or as the occupancy of its priority falls: XOFF again while the priority stays at or above
PFC_XON, else quanta 0 (R336). -/
def execPfcRefresh (lport priority occupancy : Nat) (s : State) : Host.Outcome State Fault Refusal :=
  let l := lport % 32
  .next (if (lportAt l s).xoff.any (fun x => x.1 == priority) then
    if pfcXon l priority s ≤ occupancy then sendPfc l priority 0xFFFF s else noteOccupancy l priority occupancy s
  else s)

/-- PFC_STORM_TIMER: a pause received, or one that the head has `sent`, has lasted for PFC_STORM_TIME (R337). -/
def execPfcStormTimer (lport priority : Nat) (sent : Bool) (s : State) : Host.Outcome State Fault Refusal :=
  let l := lport % 32
  let p := lportAt l s
  .next (if sent = true ∧ p.xoff.any (fun x => x.1 == priority) = true then raiseEvent 0x0105 (detail2 l priority) 0 s
    else if sent = false ∧ p.paused.any (fun x => x.1 == priority) = true then raiseEvent 0x0104 (detail2 l priority) 0 s
    else s)

/-- FEC_WINDOW: the codewords of a 1 s window (Table 14-10). -/
def execFecWindow (lport corrected uncorrectable : Nat) (s : State) : Host.Outcome State Fault Refusal :=
  let l := lport % 32
  let s1 := countPort l (fun c => { c with
    fecCorrected := bump c.fecCorrected corrected, fecUncorrected := bump c.fecUncorrected uncorrectable }) s
  .next (if paramNat 0x0E13 0 s < uncorrectable then raiseEvent 0x0103 (detail2 l uncorrectable) 0 s1 else s1)

/-- CTX_PRESSURE_WINDOW: the MHB_FULL of a quadrant in a 1 s window (Table 14-10). -/
def execCtxPressureWindow (quadrant : Nat) (s : State) : Host.Outcome State Fault Refusal :=
  let n := ((s.ports.counters[quadrant]?).map (·.window)).getD 0
  let s1 := modifyPorts (fun p => { p with counters := modifyNth (fun k => { k with window := 0 }) quadrant p.counters }) s
  .next (if 10000 < n then raiseEvent 0x0107 (detail2 quadrant n) 0 s1 else s1)

/-! ## Connections (R344-R346) -/

/-- Answers a request with a rejection. -/
def reject (r : CmRequest) (reason : Nat) (priv : Bytes) (s : State) : State :=
  transmit r.lport (paramNat 0x0E0F 0 s) (some (r.toAddr, r.fromAddr)) (.cmRej r.commId reason priv) s

/-- The service of a service ID (Table 14-5); migration is active only. -/
def serviceOf (id : Nat) (s : State) : Option Service :=
  if id = serviceId (paramNat 0x0E14 0 s) then some .nvme
  else if id = serviceId (paramNat 0x0E15 0 s) then some .sheaf
  else if id = serviceId (paramNat 0x0E16 0 s) then some .replication
  else none

/-- Whether the head accepts connections: ACTIVE, SOLE, RETURN or READONLY, and the front ports not quiesced (R345). -/
def acceptsConnections (s : State) : Bool :=
  (match s.boot.mode with
    | .active => true
    | .sole => true
    | .returning => true
    | .readonly => true
    | _ => false) && !isQuiesced 1 s

/-- The NVMe private-data check (R370): the status of the REJ's private data, if it fails. A QID above NVME_MAX_IOQ can match no
Connect. -/
def nvmePrivate (b : Bytes) (s : State) : Option Nat :=
  if fieldAt b 0 2 ≠ 0 then some 2
  else if paramNat 0x0F02 0 s < fieldAt b 2 2 then some 3
  else if 32 < fieldAt b 6 2 then some 4
  else if 32 < fieldAt b 4 2 then some 5
  else none

/-- The Sheaf private-data check (R391): the object domain, if it passes. -/
def sheafPrivate (b : Bytes) (s : State) : Option ObjDomain :=
  if fieldAt b 0 4 ≠ 0x31464853 ∨ fieldAt b 4 1 ≠ 1 ∨ fieldAt b 5 1 = 0 ∨ 64 < fieldAt b 5 1 ∨ isQuiesced 3 s = true then none
  else (objdomAt (fieldAt b 6 1) s).bind (fun d => if d.clients.contains (fieldAt b 8 16) then some d else none)

/-- Private data of a Sheaf REP (Table 16-2). -/
def sheafReply (qdepth : Nat) (d : ObjDomain) (s : State) : Bytes :=
  let owner := if ownsIngest d.owner s then s.boot.headId else 1 - s.boot.headId
  packFields [(4, 0x31464853), (1, 1), (1, qdepth), (1, s.boot.headId), (1, owner), (2, paramNat 0x1000 0 s), (2, 0),
    (4, 1024 * paramNat 0x1001 0 s), (16, 0)]

/-- Sends the REP of a context. -/
def sendRep (c : QpCtx) (s : State) : State :=
  transmit c.lport (paramNat 0x0E0F 0 s) (qpPath c s)
    (.cmRep (qpnOf c) c.remoteId (qpnOf c) c.npsn 0 16 (paramNat 0x0E1A 0 s) c.pmtu c.sentPriv) s

/-- Accepts a request: a context, its receive buffers, REP (R345, R346). -/
def acceptReq (v : Service) (r : CmRequest) (gid buffers : Nat) (priv : Bytes) (enter : Nat → State → State) (s : State) : State :=
  match allocQp v false r.lport r.fromAddr gid r.mtu s with
  | none => reject r 1 [] s
  | some (q, s1) =>
    let f := fun (c : QpCtx) => { c with remoteQpn := r.qpn, remoteId := r.commId, epsn := r.psn, cmTimeout := r.timeout, sentPriv := priv }
    let s2 := enter q (qpPost q buffers (modifyQp q f s1))
    match qpAt q s2 with
    | some c => sendRep c s2
    | none => s2

/-- A connection request. A repeated one of a context that is CONNECTING draws the REP again. -/
def takeReq (r : CmRequest) (s : State) : State :=
  if portUp r.lport s = false then s
  else
    match (ownAddresses r.lport s).find? (fun a => a.2.1 == r.toAddr) with
    | none => s
    | some (gid, _, _) =>
      match s.ports.qps.find? (fun c => c.state == .connecting && !c.active && c.remoteId == r.commId && c.remoteAddr == r.fromAddr) with
      | some c => sendRep c s
      | none =>
        if (nextQp s).isNone then reject r 1 [] s
        else
          match serviceOf r.service s with
          | none => reject r 8 [] s
          | some v =>
            if r.transport ≠ 0 then reject r 9 [] s
            else if acceptsConnections s = false then reject r 28 [] s
            else
              match v with
              | .nvme => match nvmePrivate r.privData s with
                | some st => reject r 28 (packFields [(2, 0), (2, st)]) s
                | none =>
                  let hsq := fieldAt r.privData 6 2
                  acceptReq .nvme r gid 32 (packFields [(2, 0), (2, hsq)]) (fun q => modifyNvme (fun n => { n with
                    queues := n.queues ++ [{ qp := q, qid := fieldAt r.privData 2 2, hsq := hsq, controller := none, entries := 0, head := 0
                                             noFlow := false, used := s.time.ticks }] })) s
              | .sheaf => match sheafPrivate r.privData s with
                | none => reject r 28 [] s
                | some d =>
                  let depth := fieldAt r.privData 5 1
                  acceptReq .sheaf r gid depth (sheafReply depth d s) (fun q => modifySheaf (fun x => { x with
                    conns := x.conns ++ [{ qp := q, objDomain := d.id, qdepth := depth, nextPut := 1, expired := [] }] })) s
              | .replication => acceptReq .replication r gid replBuffers [] (fun _ st => st) s
              | .migration => reject r 8 [] s

/-- REQ (R344, R345). -/
def execReq (request : CmRequest) (s : State) : Host.Outcome State Fault Refusal := .next (takeReq request s)

/-- The context that the head's communication ID names: the ID is the QPN it gave. -/
def ctxOf (commId : Nat) (s : State) : Option QpCtx := (qpAt (commId % 2 ^ 20) s).filter (fun c => qpnOf c == commId)

/-- MRA: the peer asks for more time; its service timeout takes the place of the response timeout (R344). -/
def execMra (commId timeout : Nat) (s : State) : Host.Outcome State Fault Refusal :=
  .next (match ctxOf commId s with
  | some c => if c.state = .connecting then modifyQp c.index (fun x => { x with cmTimeout := timeout }) s else s
  | none => s)

/-- A context that never came to be CONNECTED goes to TIMEWAIT, and its service learns of it (Table 14-6). -/
def neverConnected (c : QpCtx) (s : State) : State :=
  if c.state ≠ .connecting then s else serviceGone c.service c.index (qpStop c.index .timewait s)

/-- REJ (R346). -/
def execRej (commId _reason : Nat) (s : State) : Host.Outcome State Fault Refusal :=
  .next (match ctxOf commId s with
  | some c => neverConnected c s
  | none => s)

/-- A reply to a connection that the head initiated: CONNECTED, and RTU. -/
def takeRep (r : CmReply) (s : State) : State :=
  match ctxOf r.commId s with
  | none => s
  | some c =>
    let rtu := fun (st : State) => transmit c.lport (paramNat 0x0E0F 0 st) (qpPath c st) (.cmRtu (qpnOf c) r.remoteId) st
    if c.active = false then s
    else if c.state = .connected then rtu s
    else if c.state ≠ .connecting then s
    else
      let m := pathMtu c.lport r.mtu (isIpv4 c.remoteAddr) s
      let f := fun (x : QpCtx) => { x with remoteQpn := r.qpn, remoteId := r.remoteId, epsn := r.psn, pmtu := m }
      serviceUp c.service c.index (rtu (qpConnect c.index (modifyQp c.index f s)))

/-- REP (R344). -/
def execRep (reply : CmReply) (s : State) : Host.Outcome State Fault Refusal := .next (takeRep reply s)

/-- RTU (Table 14-6). -/
def execRtu (commId : Nat) (s : State) : Host.Outcome State Fault Refusal :=
  .next (match ctxOf commId s with
  | some c => if c.state = .connecting ∧ c.active = false then qpConnect c.index s else s
  | none => s)

/-- A disconnect request: DREP, and the context is in TIMEWAIT. -/
def takeDreq (commId remoteId : Nat) (s : State) : State :=
  match ctxOf commId s with
  | none => s
  | some c =>
    let s1 := transmit c.lport (paramNat 0x0E0F 0 s) (qpPath c s) (.cmDrep (qpnOf c) remoteId) s
    match c.state with
    | .connecting => neverConnected c s1
    | .connected => serviceGone c.service c.index (dropSteering c (qpStop c.index .timewait s1))
    | .error => dropSteering c (modifyQp c.index (fun x => { x with state := .timewait, closing := false }) s1)
    | .timewait => modifyQp c.index (fun x => { x with closing := false }) s1

/-- DREQ (Table 14-6). -/
def execDreq (commId remoteId : Nat) (s : State) : Host.Outcome State Fault Refusal := .next (takeDreq commId remoteId s)

/-- The DREP has come, or 1 s has passed since the DREQ: an ERROR context goes to TIMEWAIT. -/
def closingDone (c : QpCtx) (s : State) : State :=
  let s1 := modifyQp c.index (fun x => { x with closing := false }) s
  if c.state = .error then dropSteering c (modifyQp c.index (fun x => { x with state := .timewait }) s1) else s1

/-- DREP (Table 14-6). -/
def execDrep (commId : Nat) (s : State) : Host.Outcome State Fault Refusal :=
  .next (match ctxOf commId s with
  | some c => closingDone c s
  | none => s)

/-- REP_RESEND_TIMER: a REP unanswered is sent again three times, and then the context is given up (R344). -/
def execRepResendTimer (qp : Nat) (s : State) : Host.Outcome State Fault Refusal :=
  .next (match qpAt qp s with
  | none => s
  | some c =>
    if c.state ≠ .connecting ∨ c.active = true then s
    else if c.resends < 3 then sendRep c (modifyQp qp (fun x => { x with resends := x.resends + 1 }) s)
    else neverConnected c s)

/-- DREQ_TIMEOUT: 1 s after DREQ (Table 14-6). -/
def execDreqTimeout (qp : Nat) (s : State) : Host.Outcome State Fault Refusal :=
  .next (match qpAt qp s with
  | some c => if c.closing then closingDone c s else s
  | none => s)

/-- REQ_TIMEOUT: a REQ of the head unanswered (Table 14-6). -/
def execReqTimeout (qp : Nat) (s : State) : Host.Outcome State Fault Refusal :=
  .next (match qpAt qp s with
  | some c => if c.active then neverConnected c s else s
  | none => s)

/-- QP_REUSE_DELAY (Table 14-6). -/
def execQpReuseDelay (qp : Nat) (s : State) : Host.Outcome State Fault Refusal := .next (qpFree qp s)

/-- Closes every queue pair that a test picks, as the head itself does (R346, R363): its service learns of it. -/
def closeAll (p : QpCtx → Bool) (s : State) : State :=
  (s.ports.qps.filter (fun c => p c && (c.state == .connected || c.state == .connecting))).foldl (fun st c =>
    if c.state = .connected then serviceGone c.service c.index (qpClose c.index st) else neverConnected c st) s

/-! ## Landing zones (R354, R355) -/

/-- What a zone's range holds is undefined from here on (R354). -/
def zoneForget (z : Zone) (off len : Nat) (s : State) : State :=
  (List.range z.handles.length).foldl (fun st i =>
    let base := 4194304 * i
    let lo := max off base
    let hi := min (off + len) (base + 4194304)
    match handleAddr (z.handles.getD i 0) st with
    | some a => if lo < hi then modifyMem (fun m => { m with near := memErase (a + (lo - base)) (hi - lo) m.near }) st else st
    | none => st) s

/-- A bound write is abandoned: its in-flight count is released and its binding cleared (R354). -/
def abandonWrite (q : Nat) (s : State) : State :=
  match (qpAt q s).bind (·.bound) with
  | none => s
  | some (z, first, next, left) =>
    let s1 := modifyQp q (fun c => { c with bound := none, abandoned := true }) s
    let s2 := match zoneAt z s1 with
      | some x => zoneForget x first (next - first + left) s1
      | none => s1
    modifyPorts (fun p => { p with lzAbandoned := bump p.lzAbandoned }) (modifyZone z (fun x => { x with inFlight := x.inFlight - 1 }) s2)

/-- LZ_MSG_TIMEOUT: the timer has won its race with the Last packet (R354). -/
def execLzMsgTimeout (qp : Nat) (s : State) : Host.Outcome State Fault Refusal := .next (abandonWrite qp s)

/-- LZ_REVOKE_DONE: step 4 of Table 14-9, reported to Sheaf (R356). -/
def execLzRevokeDone (zone : Nat) (s : State) : Host.Outcome State Fault Refusal :=
  .next (match zoneDone zone s with
  | some (z, s1) => zoneTaken z s1
  | none => s)

/-! ## Commands (R365) -/

/-- A bitmap of priorities. -/
def priorityMap (ps : List Nat) : Nat := ((List.range 8).filter (fun p => ps.contains p)).foldl (fun m p => m + 2 ^ p) 0

/-- A logical port's record (Table 14-12) and its counters in the order of R366, 8 bytes each. -/
def lportRecord (l : Nat) (s : State) : Bytes :=
  let p := lportAt l s
  let c := p.counters
  let speed := if lportUsed l s = false then 0 else if portRate l s = 100000 then 1 else if portRate l s = 200000 then 2 else 3
  let qps := (s.ports.qps.filter (fun x => x.lport == l && x.state == .connected)).length
  packFields [(1, l), (1, if lportUsed l s then p.link else 3), (1, speed), (1, paramNat 0x0E01 (l / 4) s),
      (1, priorityMap (p.paused.map (·.1))), (1, priorityMap (p.xoff.map (·.1))), (2, 0), (4, qps), (4, 0), (8, c.fecCorrected),
      (8, c.fecUncorrected), (8, c.rxBytes), (8, c.txBytes), (8, c.linkDowns), (8, 0)]
    ++ ([c.rxDiscards, c.nonRoceDropped, c.icrcErrors, c.badOpcodes, c.staleQpn] ++ c.pfcTx ++ c.pfcRx
        ++ [c.nakSent, c.rnrNakSent, c.retransmits, c.qpErrors, c.cnpSent, c.cnpReceived]).flatMap (leBytes 8)

/-- PORT_STATUS. -/
def portStatus (p : McPacket) (s : State) : McEnd × State :=
  let first := parm p 0 1
  let n := parm p 1 1
  if n = 0 ∨ 32 < first + n then refuse stBadParam s
  else answerRecords p ((List.range n).map (fun i => lportRecord (first + i) s)) [] s

/-- PORT_STATUS (R365). -/
def execPortStatus (p : McPacket) (s : State) : Host.Outcome State Fault Refusal := .next (mciRun 0x040D p (portStatus p) s)

/-- Code of a context state, in the order of Table 14-6 from FREE, 0. -/
def ctxCode (st : CtxState) : Nat :=
  match st with
  | .connecting => 1
  | .connected => 2
  | .error => 3
  | .timewait => 4

/-- QP_INFO: state, logical port, remote QPN, address, rate, smoothed RTT, send and receive PSN (DESIGN CHOICE 12). -/
def qpInfo (p : McPacket) (s : State) : McEnd × State :=
  let n := parm p 0 3
  match (qpAt (n % 2 ^ 20) s).filter (fun c => c.gen == n / 2 ^ 20 && c.state != .timewait) with
  | none => refuse stBadParam s
  | some c =>
    answerRecords p [packFields [(1, ctxCode c.state), (1, c.lport), (2, 0), (4, c.remoteQpn)] ++ beBytes 16 c.remoteAddr
      ++ packFields [(8, c.rate), (8, c.srtt), (4, c.npsn), (4, c.epsn)]] [] s

/-- QP_INFO (R365). -/
def execQpInfo (p : McPacket) (s : State) : Host.Outcome State Fault Refusal := .next (mciRun 0x040E p (qpInfo p) s)

end Sys2Proof.Machine
end

