-- ==== Sys2Proof/Machine/Almanac.lean ====
section
/-! DEFINITION. The Almanac event recorder (22): the drain to the main ring, the early ring's copies and the stops, reading and clearing. -/

namespace Sys2Proof.Machine

/-- Changes the Almanac part. -/
def modifyAlm (f : AlmPart → AlmPart) (s : State) : State := { s with alm := f s.alm }

/-- Records staged and in no unit yet. -/
def unwritten (a : AlmPart) : List AlmRecord := a.staged.drop ((a.inFlight.map (·.2)).sum)

/-- The records from the front that fit a unit of 16,320 bytes (R525). -/
def unitFit : Nat → List AlmRecord → List AlmRecord
  | _, [] => []
  | room, r :: rest =>
    let n := almLen r.payload.length
    if n ≤ room then r :: unitFit (room - n) rest else []

/-- The 64.2 ms that must lie between units, in ticks (R525). -/
def unitSpacing : Nat := 1605000

/-- Whether a unit may be written now: the queue exists, something waits, and the last unit is 64.2 ms back (R525). -/
def mayDrain (s : State) : Bool :=
  s.alm.queueReady && !(unwritten s.alm).isEmpty && s.boot.mode != .dump
    && (s.alm.lastUnit.map (fun t => decide (t + unitSpacing ≤ s.time.ticks))).getD true

/-- The records of a main-ring slot. -/
def slotRecords (slot : Nat) (a : AlmPart) : List AlmRecord := lookupD slot a.ring []

/-- A unit takes a slot: the records of the slot's earlier copy are overwritten (R526). -/
def takeSlot (slot : Nat) (s : State) : State :=
  let old := slotRecords slot s.alm
  if old.isEmpty then s
  else
    let next := (slotRecords ((slot + 1) % 4194304) s.alm).head?
    let after := ((old.getLast?).map (·.seq + 1)).getD 0
    let unread := old.any (fun r => decide (s.alm.readMark < r.seq)) && !s.alm.overwriteTold
    let s1 := modifyAlm (fun a => { a with
      ring := a.ring.filter (fun x => x.1 != slot)
      overwritten := satAdd 64 a.overwritten old.length
      oldestSeq := max a.oldestSeq ((next.map (·.seq)).getD after)
      overwriteTold := a.overwriteTold || unread }) s
    if unread then raiseAttn bitAlmanac s1 else s1

/-- The drain writes a unit with the records that fit it (R524, R525). -/
def almDrain (s : State) : State :=
  if mayDrain s = false then s
  else
    let rs := unitFit 16320 (unwritten s.alm)
    let slot := s.alm.slot
    let u : MetaUnit := { utype := 11, part := 1, pageId := pageId 11 (s.boot.headId * 2 ^ 57 + slot), jseq := 0,
                          payload := rs.flatMap (almBytes false), item := .almanac slot ((rs.getLast?.map (·.seq)).getD 0) }
    let s1 := modifyAlm (fun a => { a with inFlight := a.inFlight ++ [(slot, rs.length)], slot := (slot + 1) % 4194304,
                                           lastUnit := some s.time.ticks }) (takeSlot slot s)
    metaFlush (addDue [u] s1)

/-- ALMANAC_FLUSH_TIMER (R525). -/
def execAlmanacFlushTimer (s : State) : Host.Outcome State Fault Refusal := .next (almDrain s)

/-! ## Persisted records -/

/-- Step 3 of a clear: records up to `upTo` are removed, and units that hold only such records released (R531). -/
def almRemove (upTo : Nat) (s : State) : State :=
  let keep := fun (x : Nat × List AlmRecord) => (x.1, x.2.filter (fun r => decide (upTo < r.seq)))
  raiseAttn bitAlmanac (modifyAlm (fun a =>
    { a with oldestSeq := max a.oldestSeq (upTo + 1)
             ring := (a.ring.map keep).filter (fun x => !x.2.isEmpty) }) s)

/-- What a record's persistence brings: a CLEAR takes effect, unless it took effect in the early ring, and a command that waits for it
ends (R52, R531). A CLEAR that a stop wrote into the reserve takes effect at the next start-up, when its copy is persisted. -/
def recordPersisted (s : State) (r : AlmRecord) : State :=
  let s1 := if r.type = 0x0603 ∧ (r.early && !r.flush) = false then almRemove (fieldAt r.payload 20 8) s else s
  endWaits (.almUnit r.seq) none none s1

/-- With 1 MiB of the queue free again, one LOSS record tells what was lost (R527). -/
def tellLoss (s : State) : State :=
  let a := s.alm
  if a.lossCount = 0 ∨ stagingSize < stagedBytes a + 1048576 then s
  else
    let s1 := modifyAlm (fun x => { x with lossCount := 0, lossFirst := 0, lossLast := 0 }) s
    raiseAttn bitAlmanac (almStage 0x0602 (packFields [(8, a.lossCount), (8, a.lossFirst), (8, a.lossLast), (1, 1)]) s1)

/-- Once every copy of the early records is persisted, EARLY_COPIED says so in the early ring (R523). -/
def copiesPersisted (s : State) : State :=
  match s.alm.copying with
  | none => s
  | some (last, off, n) =>
    if s.alm.staged.any (fun r => decide (r.seq ≤ last)) then s
    else almEarlyAdd 0x0604 (packFields [(4, off), (4, n)]) (modifyAlm (fun a => { a with copying := none }) s)

/-- The row of an ALMANAC unit commits: its records leave the staging queue for their slot, but those that a clear has already removed
(R525, R531). -/
def almUnitDone (slot : Nat) (s : State) : State :=
  let a := s.alm
  match a.inFlight.findIdx? (fun x => x.1 == slot) with
  | none => s
  | some i =>
    let before := ((a.inFlight.take i).map (·.2)).sum
    let n := (a.inFlight.getD i (slot, 0)).2
    let rs := (a.staged.drop before).take n
    let s1 := modifyAlm (fun x => { x with
      staged := x.staged.take before ++ x.staged.drop (before + n)
      inFlight := x.inFlight.eraseIdx i
      ring := let kept := rs.filter (fun r => decide (a.oldestSeq ≤ r.seq))
              if kept.isEmpty then x.ring else insertAt slot kept x.ring }) s
    copiesPersisted (tellLoss (rs.foldl recordPersisted s1))

/-- The ALMANAC units of a committed row. -/
def almUnits (units : List MetaUnit) (s : State) : State :=
  units.foldl (fun st u => match u.item with
    | .almanac slot _ => almUnitDone slot st
    | _ => st) s

/-! ## Time marks and stops (R49, R528, R529) -/

/-- Payload of a TIME_MARK: array time, 0 while unset, OVERWRITTEN and LOST. -/
def timeMark (s : State) : Bytes :=
  packFields [(8, if s.time.arraySet then arrayTime s else 0), (8, s.alm.overwritten), (8, s.alm.lost)]

/-- TIME_MARK_TIMER: every 60 s operating hours and array time are persisted, once step 0x0C has resumed them (R49, R51). -/
def execTimeMarkTimer (s : State) : Host.Outcome State Fault Refusal :=
  .next (if s.time.resumed then almanac 0x0601 (timeMark s) s else s)

/-- Writes a record of a stop into the reserve. -/
def reserveWrite (r : AlmRecord) (s : State) : State :=
  flashWritten 2 <| modifyAlm (fun a => { earlyWrite { r with early := true, flush := true } a with
    earlyReserveUsed := a.earlyReserveUsed + almLen r.payload.length }) s

/-- A record formed at a stop, with the next SEQ once sequencing has resumed; none is left once SEQ has stopped (R519). -/
def stopRecord (type : Nat) (payload : Bytes) (s : State) : AlmRecord × State :=
  let seq := if s.time.resumed then s.alm.newestSeq + 1 else almUnsequenced
  ({ type := type, seq := seq, head := s.boot.headId, early := true, flush := true, powerCycles := s.time.powerCycles,
     opTime := opTime s, payload := payload, elapsed := !s.time.resumed },
   if s.time.resumed then modifyAlm (fun a => { a with newestSeq := a.newestSeq + 1 }) s else s)

/-- Forms a record of a stop and writes it into the reserve, if it fits. -/
def reserveForm (type : Nat) (payload : Bytes) (s : State) : State :=
  let (r, s1) := stopRecord type payload s
  if 65536 < s.alm.earlyReserveUsed + almLen payload.length ∨ (s.time.resumed = true ∧ almLastSeq ≤ s.alm.newestSeq) then s
  else reserveWrite r s1

/-- The staged records that fit the rest of the reserve beside a LOSS record of 56 bytes. -/
def reserveFit : Nat → List AlmRecord → List AlmRecord
  | _, [] => []
  | room, r :: rest =>
    let n := almLen r.payload.length
    if n + (if rest.isEmpty then 0 else 56) ≤ room then r :: reserveFit (room - n) rest else []

/-- The stop of R529: a TIME_MARK, the early ring's own losses (R522), then the staged records not yet persisted, into the 64 KiB
reserve; with it nothing is left staged. A quiet stop writes nothing (R514). -/
def flushStop (s : State) : State :=
  if flashStill s then s
  else
  let a := s.alm
  let s1 := reserveForm 0x0601 (timeMark s) s
  let s2 := if a.earlyLost = 0 then s1
    else reserveForm 0x0602 (packFields [(8, a.earlyLost), (8, a.earlyLostFirst), (8, a.earlyLostLast), (1, 2)])
      (modifyAlm (fun x => { x with earlyLost := 0, earlyLostFirst := 0, earlyLostLast := 0 }) s1)
  let fit := reserveFit (65536 - s2.alm.earlyReserveUsed) a.staged
  let s3 := modifyAlm (fun x => { x with staged := [], inFlight := [] }) (fit.foldl (fun st r => reserveWrite r st) s2)
  let rest := a.staged.drop fit.length
  match rest.head?, rest.getLast? with
  | some x, some y => reserveForm 0x0602 (packFields [(8, rest.length), (8, x.opTime), (8, y.opTime), (1, 3)]) s3
  | _, _ => s3

/-! ## Step 0x0C (R49, R523, R528) -/

/-- Whether a record was formed no later than another: OP_TIME never falls, and SEQ rises, in formation order (R519). -/
def formedBefore (x r : AlmRecord) : Bool := decide (x.opTime < r.opTime) || (x.opTime == r.opTime && decide (x.seq ≤ r.seq))

/-- The newest TIME_MARK among records; one formed before its reset had resumed operating hours holds none (R49). -/
def newestMark (rs : List AlmRecord) : Option AlmRecord :=
  (rs.filter (fun r => r.type == 0x0601 && !r.elapsed)).foldl (fun (m : Option AlmRecord) r => match m with
    | none => some r
    | some x => if formedBefore x r then some r else some x) none

/-- The records on the main ring and in the early ring. -/
def heldRecords (a : AlmPart) : List AlmRecord := a.ring.flatMap (·.2) ++ a.early.map (·.2)

/-- Sequenced records on the main ring and in the early ring. -/
def sequencedRecords (a : AlmPart) : List AlmRecord :=
  a.ring.flatMap (·.2) ++ (a.early.map (·.2)).filter (fun r => r.seq != almUnsequenced)

/-- Early-ring records written since the newest EARLY_COPIED record names, in ring order (R523). -/
def toCopyEarly (a : AlmPart) : List (Nat × AlmRecord) :=
  match (a.early.filter (fun e => e.2.type == 0x0604)).getLast? with
  | none => a.early
  | some m =>
    let off := fieldAt m.2.payload 0 4
    let after : List (Nat × AlmRecord) := match a.early.findIdx? (fun e => e.1 == off) with
      | none => a.early
      | some i => a.early.drop (i + 1)
    after.filter (fun e => e.2.type != 0x0604)

/-- Whether the previous stop was flushed: a TIME_MARK with the FLUSH flag stands after the newest EARLY_COPIED record (R523). -/
def stopFlushed (a : AlmPart) : Bool := (toCopyEarly a).any (fun e => e.2.type == 0x0601 && e.2.flush)

/-- Resumes operating hours, array time, OVERWRITTEN and LOST from the newest TIME_MARK, and array time from the newest checkpoint,
given as `checkpointTime`, and from the peer, where they show more (R49, R51, R528). -/
def resumeTime (checkpointTime : Nat) (s : State) : State :=
  let mark := newestMark (heldRecords s.alm)
  let markTime := (mark.map (fun r => fieldAt r.payload 0 8)).getD 0
  let best := max markTime (max checkpointTime (if s.time.arraySet then arrayTime s else 0))
  let s1 := { s with time := { s.time with opBase := (mark.map (·.opTime)).getD 0, resumed := true,
                                           arraySet := s.time.arraySet || decide (0 < best),
                                           arrayBase := if best = 0 then s.time.arrayBase else best,
                                           arrayTick := if best = 0 then s.time.arrayTick else s.time.ticks } }
  modifyAlm (fun a => { a with overwritten := (mark.map (fun r => fieldAt r.payload 8 8)).getD 0
                               lost := (mark.map (fun r => fieldAt r.payload 16 8)).getD 0 }) s1

/-- Copies the early records into the staging queue: sequenced ones keep their SEQ, the others receive theirs, with the operating hours
resumed for the reset added to the OP_TIME of those that hold the time elapsed since it (R49, R523; DESIGN CHOICE 133). -/
def copyEarly (rs : List (Nat × AlmRecord)) (s : State) : State :=
  let step := fun (acc : List AlmRecord × Nat) (e : Nat × AlmRecord) =>
    let hours := if e.2.elapsed then min (e.2.opTime + s.time.opBase) (0xFFFFFFFF * 4096) else e.2.opTime
    if e.2.seq = almUnsequenced then (acc.1 ++ [{ e.2 with seq := acc.2 + 1, opTime := hours, elapsed := false }], acc.2 + 1)
    else (acc.1 ++ [e.2], acc.2)
  let r := rs.foldl step ([], s.alm.newestSeq)
  let sorted := sortByKey (fun (x : AlmRecord) => [(x.seq : Int)]) r.1
  modifyAlm (fun a => { a with
    staged := a.staged ++ sorted, newestSeq := r.2
    copying := match rs.getLast?, sorted.getLast? with
      | some e, some x => some (x.seq, e.1, rs.length)
      | _, _ => a.copying }) s

/-- Losses of the early ring that LOSS records among copied ones tell: they join LOST with the copies (R522). -/
def earlyLosses (rs : List (Nat × AlmRecord)) : Nat :=
  ((rs.filter (fun e => e.2.type == 0x0602 && fieldAt e.2.payload 24 1 == 2)).map (fun e => fieldAt e.2.payload 0 8)).sum

/-- OLDEST_SEQ after a start-up: the lowest SEQ on the main ring or among the copies that no clear and no overwriting has passed, 0 where
there is none. -/
def oldestHeld (a : AlmPart) : Nat :=
  let seqs := (a.ring.flatMap (·.2) ++ a.staged).map (·.seq)
  (seqs.filter (fun q => decide (a.oldestSeq ≤ q))).foldl (fun m q => if m = 0 ∨ q < m then q else m) 0

/-- What step 0x0C does for the Almanac: the staging queue is allocated, the first SEQ given is the highest found plus 2^22, early records
are copied, and what an unflushed stop or the early ring lost is told (R522, R523, R525). `fresh` for the first start-up of a new array,
whose sequences begin at 1 (DESIGN CHOICE 187). -/
def almanacResume (fresh : Bool) (s : State) : State :=
  let a := s.alm
  let highest := (sequencedRecords a).foldl (fun m r => max m r.seq) 0
  let rs := toCopyEarly a
  let s0 := copyEarly rs (modifyAlm (fun x => { x with
    queueReady := true, newestSeq := if fresh = true ∧ highest = 0 then 0 else highest + 4194303,
    lost := satAdd 64 x.lost (earlyLosses rs) }) s)
  let s1 := modifyAlm (fun x => { x with oldestSeq := oldestHeld x }) s0
  let s2 := if a.earlyLost = 0 then s1
    else modifyAlm (fun x => { x with lost := satAdd 64 x.lost a.earlyLost, earlyLost := 0, earlyLostFirst := 0, earlyLostLast := 0 })
      (almStage 0x0602 (packFields [(8, a.earlyLost), (8, a.earlyLostFirst), (8, a.earlyLostLast), (1, 2)]) s1)
  if fresh = true ∨ stopFlushed a = true then s2
  else almStage 0x0602 (packFields [(8, 2 ^ 64 - 1), (8, ((newestMark (heldRecords a)).map (·.opTime)).getD 0), (8, s2.time.opBase), (1, 3)]) s2

/-! ## Commands (R530-R532) -/

/-- Bytes of early-ring records written this power cycle. -/
def earlyWritten (a : AlmPart) : Nat := a.earlyUsed + a.earlyReserveUsed

/-- The ALMANAC_STATUS record (Table 22-3). -/
def almStatusRecord (s : State) : Bytes :=
  let a := s.alm
  packFields [(8, a.newestSeq), (8, a.oldestSeq), (8, a.readMark), (4, a.staged.length), (4, stagedBytes a), (8, a.overwritten),
    (8, a.lost), (4, a.slot), (4, earlyWritten a), (1, flagBit (almEarly s)), (7, 0)]

/-- ALMANAC_STATUS. -/
def almanacStatus (p : McPacket) (s : State) : McEnd × State :=
  answerRecords p [almStatusRecord s] ((almStatusRecord s).take 24) s

/-- ALMANAC_STATUS (R532). -/
def execAlmanacStatus (p : McPacket) (s : State) : Host.Outcome State Fault Refusal := .next (mciRun 0x0600 p (almanacStatus p) s)

/-- Records that fit a count and a buffer. -/
def readFit (count room : Nat) (rs : List (AlmRecord × Bytes)) : List (AlmRecord × Bytes) :=
  let fit := recordsThatFit room ((rs.take count).map (·.2))
  rs.take fit.length

/-- The records readable from a sequence on, in ascending SEQ: of the main ring, and of the staging queue with STAGED set (R530). -/
def readable (first : Nat) (a : AlmPart) : List (AlmRecord × Bytes) :=
  let main := (a.ring.flatMap (·.2)).map (fun r => (r, almBytes false r))
  let staged := a.staged.map (fun r => (r, almBytes true r))
  sortByKey (fun (x : AlmRecord × Bytes) => [(x.1.seq : Int)])
    ((main ++ staged).filter (fun x => decide (max first a.oldestSeq ≤ x.1.seq)))

/-- READ_MARK rises to the highest SEQ returned; unsequenced records have none (R530). -/
def raiseReadMark (p : McPacket) (fit : List (AlmRecord × Bytes)) (s : State) : State :=
  let seqs := (fit.map (·.1.seq)).filter (fun q => q != almUnsequenced)
  if p.busError then s else modifyAlm (fun x => { x with readMark := seqs.foldl max x.readMark }) s

/-- ALMANAC_READ: the records asked for that the buffer holds, with ST_OK_INFO where it holds not all of them (R480, R530). RESULT is the
number returned, 4 bytes, then the next position and OLDEST_SEQ, 8 bytes each, without gaps (DESIGN CHOICE 12). -/
def almanacRead (p : McPacket) (s : State) : McEnd × State :=
  let first := parm p 0 8
  let count := parm p 8 4
  let room := 4096 * p.dataPages.toNat
  let a := s.alm
  if s.boot.mode = .boot ∨ s.boot.mode = .recovery then
    let asked := (((a.early.map (·.2)).drop first).take count).map (fun r => (r, almBytes false r))
    let fit := readFit count room asked
    answerRecords p (asked.map (·.2)) (packFields [(4, fit.length), (8, first + fit.length), (8, 0)]) (raiseReadMark p fit s)
  else
    let asked := (readable first a).take count
    let fit := readFit count room asked
    let last := (fit.getLast?.map (·.1.seq + 1)).getD first
    let r := answerRecords p (asked.map (·.2)) (packFields [(4, fit.length), (8, last), (8, a.oldestSeq)]) (raiseReadMark p fit s)
    if first < a.oldestSeq then
      (match r.1 with
        | .reply st res => .reply (if st = stOk then stOkInfo else st) res
        | x => x, r.2)
    else r

/-- ALMANAC_READ (R530). -/
def execAlmanacRead (p : McPacket) (s : State) : Host.Outcome State Fault Refusal := .next (mciRun 0x0601 p (almanacRead p) s)

/-- The payload of the CLEAR record of a command that clears up to `upTo` (Table 22-2, R531). -/
def clearBody (p : McPacket) (upTo : Nat) (a : AlmPart) : Bytes :=
  let n := ((a.ring.flatMap (·.2) ++ a.staged).filter (fun r => decide (a.oldestSeq ≤ r.seq) && decide (r.seq ≤ upTo))).length
  packFields [(1, p.fetchedFrom), (1, 0), (2, (refOf p).tag)] ++ padTo 8 (p.authBlock.take 8)
    ++ packFields [(8, a.oldestSeq), (8, upTo), (8, n)]

/-- ALMANAC_CLEAR: the CLEAR record's unit is persisted at once, and the command ends with the removal (R531). Where records go to the
early ring (R521), the record is persisted as it is written. -/
def almanacClear (p : McPacket) (s : State) : McEnd × State :=
  let a := s.alm
  let upTo := min (parm p 0 8) a.newestSeq
  if almEarly s then
    if 196608 < a.earlyUsed + almLen 36 ∨ flashStill s = true then refuse stBusy s
    else (.reply stOk [], almRemove upTo (almEarlyAdd 0x0603 (clearBody p upTo a) s))
  else if a.queueReady = false ∨ stagingSize < stagedBytes a + almLen 36 ∨ almLastSeq ≤ a.newestSeq then refuse stBusy s
  else
    let s1 := almStage 0x0603 (clearBody p upTo a) s
    let r := waitOn p (.almUnit s1.alm.newestSeq) [] s1
    (r.1, almDrain r.2)

/-- ALMANAC_CLEAR (R531). -/
def execAlmanacClear (p : McPacket) (s : State) : Host.Outcome State Fault Refusal := .next (mciRun 0x0602 p (almanacClear p) s)

end Sys2Proof.Machine
end

