-- ==== Sys2Proof/Machine/Granary.lean ====
section
/-! DEFINITION. The Granary commands (18). -/

namespace Sys2Proof.Machine

/-- ALLOC by a unit, for real or provisional work, in an arena, of a length; `badLink` where the link at the list head fails
its check (R443, R447, R451, R453, R456, R457). -/
def execAlloc (unit : Nat) (epoch : Option EpochRef) (arena len : Nat) (badLink : Bool) (s : State) :
    Host.Outcome State Fault Refusal := .next (gAlloc unit epoch arena len badLink s).2

/-- SHARE of a handle by a unit to a receiving unit, issued by a ticket of an epoch (R447, R449, R453). -/
def gShare (unit h receiver : Nat) (ticket : Option EpochRef) (s : State) : State :=
  let pool := hPool h
  let index := hIndex h
  let hd := gHeader pool index s
  let provOpen : Bool := match hd.prov with
    | none => false
    | some e => (harrowAt e.harrow s).epochs.any (fun x => x.1 == e.entry && x.2.gen % 4096 == e.gen % 4096 && x.2.state == .opened)
  if isStale h s = true ∨ hd.refcount = 0 then emit (.granaryOutcome unit 1) s
  else if isForeign unit h s then emit (.granaryOutcome unit 2) s
  else if provOpen ∧ unitClass receiver ≠ some 0 then
    match ticket with
    | some e => emit (.granaryOutcome unit 7) (refuseGuarded e receiver s)
    | none => emit (.granaryOutcome unit 7) s
  else if hd.refcount = 0xFFFF then
    emit (.granaryOutcome unit 6) (modifyList (counterList h s) pool (fun l => { l with refFull := bump l.refFull }) s)
  else
    let bits := match unitClass receiver with
      | some c => 1#6 <<< c
      | none => 0#6
    emit (.granaryOutcome unit 5) (setGHeader pool index { hd with refcount := hd.refcount + 1, share := hd.share ||| bits } s)

/-- SHARE (R447, R449). -/
def execShare (unit handle receiver : Nat) (ticket : Option EpochRef) (s : State) : Host.Outcome State Fault Refusal :=
  .next (gShare unit handle receiver ticket s)

/-- RELEASE of a handle by a unit for a ticket (R447, R448). -/
def execGranaryRelease (unit handle : Nat) (ticket : Option EpochRef) (s : State) : Host.Outcome State Fault Refusal :=
  let r := gRelease unit handle ticket s
  .next (emit (.granaryOutcome unit r.1) r.2)

/-- The oldest waiter of a list that has not been reported has waited longer than 100 ms (R457). -/
def allocWaitLong (arena pool : Nat) (s : State) : State :=
  match (gList arena pool s).waiters.find? (fun w => !w.long) with
  | none => s
  | some w =>
    let mark := fun (l : GList) => { l with waiters := mapIf (fun x => x == w) (fun x => { x with long := true }) l.waiters }
    healthRecord 0x0107 (packFields [(1, 7), (4, nullHandle), (1, w.unit), (8, 0)]) (modifyList arena pool mark s)

/-- An allocation waits longer than 100 ms (R457). -/
def execAllocWaitLong (arena pool : Nat) (s : State) : Host.Outcome State Fault Refusal := .next (allocWaitLong arena pool s)

/-- Rebuilds a cut list from the header table, in ascending index, its links written anew, and serves its waiters (R451). -/
def listRebuild (arena pool : Nat) (s : State) : State :=
  let l := gList arena pool s
  if l.cut then
    let free := ((List.range l.fresh).map (fun i => l.base + i)).filter (fun i => (gHeader pool i s).refcount == 0)
    let next := fun (k : Nat) => free.getD (k + 1) (listHead { l with stack := [] })
    let relink := fun (st : State) (k : Nat) =>
      nearWrite (bufferAddr arena pool (free.getD k 0) st) (listWords pool (free.getD k 0) (next k)) st
    serveWaiters arena pool l.waiters.length
      (modifyList arena pool (fun l => noteLevel (granaryReserve s) { l with cut := false, stack := free })
        ((List.range free.length).foldl relink s))
  else s

/-- The rebuild of a cut list ends (R451). -/
def execListRebuildDone (arena pool : Nat) (s : State) : Host.Outcome State Fault Refusal := .next (listRebuild arena pool s)

/-- One list's record: the values of R458 in order, 8 bytes each. -/
def listRecord (l : GList) : Bytes :=
  [l.count, freeNow l, l.freeMin, flagBit l.low, l.allocs, l.frees, l.waits, l.lowEntries, l.staleReleases,
    l.foreignReleases, l.doubleReleases, l.squashLate, l.squashFrees, l.refFull, l.listCuts].flatMap (leBytes 8)

/-- GRANARY_STATUS: one record per list, in the order of the arenas and pools (R458). -/
def execGranaryStatus (p : McPacket) (s : State) : Host.Outcome State Fault Refusal :=
  .next (mciRun 0x0416 p (fun s => answerRecords p (s.granary.lists.map listRecord) [] s) s)

/-- GRANARY_HEADER_READ: POOL and INDEX of the handle at parameter offset 0 (R458; DESIGN CHOICE 12). -/
def granaryHeaderRead (p : McPacket) (s : State) : McEnd × State :=
  let h := parm p 0 4
  if (arenaOf (hPool h) (hIndex h) s).isNone then refuse stBadParam s
  else ok (leBytes 8 (headerWord (gHeader (hPool h) (hIndex h) s))) s

/-- GRANARY_HEADER_READ (R458). -/
def execGranaryHeaderRead (p : McPacket) (s : State) : Host.Outcome State Fault Refusal :=
  .next (mciRun 0x0F12 p (granaryHeaderRead p) s)

end Sys2Proof.Machine
end

