-- ==== Sys2Proof/Machine/Dma.lean ====
section
/-! DEFINITION. The DMA engine (19): fetch, checks, the three operations, write-back, halts, disable, the commands. -/

namespace Sys2Proof.Machine

/-! ## Channels -/

/-- A channel by number. -/
def dmaAt (c : Nat) (s : State) : DmaChannel := s.dma.getD c resetChannel

/-- Changes a channel. -/
def modifyDma (c : Nat) (f : DmaChannel → DmaChannel) (s : State) : State := { s with dma := modifyNth f c s.dma }

/-- Whether a channel is the control host's (Table 19-1). -/
def hostChannel (c : Nat) : Bool := decide (240 ≤ c)

/-- The function code of a channel's quiesce group (Tables 19-1, 20-11). -/
def dmaGroup (c : Nat) : Nat := if hostChannel c then 0x44 else 0x40 + c / 60

/-- Fetches the descriptor at HEAD where the channel may: enabled, not halted, idle, not quiesced, and with work. A
descriptor whose OWN is 0 is not run: WAITING is set and OWN_STALLS counted (R465, R466, R472). -/
def dmaFetchNext (c : Nat) (f : Option DmaFetch) (s : State) : State :=
  let ch := dmaAt c s
  if ch.enable ∧ ¬ ch.halted ∧ ¬ ch.waiting ∧ ch.running = none ∧ ch.head ≠ ch.tail ∧ isQuiesced (dmaGroup c) s = false then
    match f with
    | none => s
    | some d =>
      if d.desc.ctrl.getLsbD 31 then modifyDma c (fun x => { x with running := some d, idle := false }) s
      else modifyDma c (fun x => { x with waiting := true, ownStalls := bump x.ownStalls }) s
  else s

/-! ## Checks (R463, Table 19-6) -/

/-- OP of CTRL. -/
def dmaOp (d : DmaDescriptor) : Nat := bitsOf d.ctrl.toNat 27 24
/-- SRC_SPACE of CTRL. -/
def dmaSrcSpace (d : DmaDescriptor) : Nat := bitsOf d.ctrl.toNat 21 20
/-- DST_SPACE of CTRL. -/
def dmaDstSpace (d : DmaDescriptor) : Nat := bitsOf d.ctrl.toNat 17 16

/-- Whether an address has a nonzero RSV field in its space (Table 19-4). -/
def addrRsv (space addr : Nat) : Bool :=
  match space with
  | 0 => decide (2 ^ 37 ≤ addr)
  | 1 => decide (2 ^ 42 ≤ addr)
  | _ => false

/-- Check 1: the status, if it fails. -/
def dmaCheck1 (d : DmaDescriptor) : Option Status :=
  if dmaOp d = 0 ∨ 3 < dmaOp d then some stBadOpcode
  else if bitsOf d.ctrl.toNat 30 28 ≠ 0 ∨ bitsOf d.ctrl.toNat 23 22 ≠ 0 ∨ bitsOf d.ctrl.toNat 19 18 ≠ 0
      ∨ (dmaOp d ≠ 2 ∧ addrRsv (dmaSrcSpace d) d.src.toNat = true) ∨ addrRsv (dmaDstSpace d) d.dst.toNat = true
  then some stBadParam else none

/-- Whether a channel may use a space (R468). -/
def spaceAllowed (c space : Nat) (s : State) : Bool :=
  if hostChannel c then decide (2 ≤ space) || s.boot.mode == .service else space != 2

/-- Whether a Steward channel's descriptor writes the result of an MCI command to the host buffer of that command (R468). -/
def mciResult (c : Nat) (f : DmaFetch) : Bool := !hostChannel c && f.forMci && dmaOp f.desc != 3 && dmaDstSpace f.desc == 2

/-- Whether a channel may use the spaces that a descriptor names (check 3). -/
def spacesAllowed (c : Nat) (f : DmaFetch) (s : State) : Bool :=
  (dmaOp f.desc == 2 || spaceAllowed c (dmaSrcSpace f.desc) s) && (spaceAllowed c (dmaDstSpace f.desc) s || mciResult c f)

/-- Whether a range lies in its space (check 4). -/
def rangeInSpace (space addr len : Nat) (s : State) : Bool :=
  match space with
  | 0 => decide (addr + len ≤ nearBytes s)
  | 1 => decide (addr + len ≤ s.mem.farBytes)
  | 2 => true
  | _ => decide (addr % 2 ^ 32 + len ≤ handleSize (addr / 2 ^ 32))

/-- Whether a Granary operand fails check 1 of Table 18-5. -/
def operandStale (space addr : Nat) (s : State) : Bool := space == 3 && isStale (addr / 2 ^ 32) s

/-- Whether a Granary operand fails check 2 of Table 18-5 (R463). -/
def operandForeign (c space addr : Nat) (f : DmaFetch) (s : State) : Bool :=
  space == 3 && isForeign (if hostChannel c then 0x2D else f.harrow) (addr / 2 ^ 32) s

/-- The operands a descriptor names: space and address of each. -/
def dmaOperands (d : DmaDescriptor) : List (Nat × Nat) :=
  (if dmaOp d = 2 then [] else [(dmaSrcSpace d, d.src.toNat)]) ++ [(dmaDstSpace d, d.dst.toNat)]

/-- The first failure of Table 19-6 before any byte moves: CODE and DETAIL. -/
def dmaCheck (c : Nat) (f : DmaFetch) (s : State) : Option (Status × Nat) :=
  let d := f.desc
  let ops := dmaOperands d
  match dmaCheck1 d with
  | some st => some (st, 1)
  | none =>
    if d.len = 0 ∨ 16777216 < d.len then some (stBadParam, 2)
    else if spacesAllowed c f s = false then some (stBadParam, 3)
    else if ops.any (fun o => !rangeInSpace o.1 o.2 d.len s) then some (stBadParam, 4)
    else if ops.any (fun o => operandStale o.1 o.2 s) then some (stBadParam, 5)
    else if ops.any (fun o => operandForeign c o.1 o.2 f s) then some (stBadParam, 6)
    else if isGuarded f.epoch s = true ∧ dmaOp d ≠ 3 ∧ dmaDstSpace d ≠ 3 then some (stBadParam, 7)
    else none

/-! ## Moving data (R462) -/

/-- Reads `len` bytes of an operand; undefined bytes are free values. -/
def spaceRead (space addr len : Nat) (host : Bytes) (s : State) : Bytes × State :=
  match space with
  | 0 => nearRead addr len s
  | 1 => (fillFree s.freeCount (farView addr len s), { s with freeCount := s.freeCount + len })
  | 2 => (padTo len host, s)
  | _ => bufferRead (addr / 2 ^ 32) (addr % 2 ^ 32) len s

/-- Writes bytes to an operand. -/
def spaceWrite (space addr : Nat) (bytes : Bytes) (s : State) : State :=
  match space with
  | 0 => nearWrite addr bytes s
  | 1 => farPut addr bytes s
  | 2 => emit (.hostWrite addr bytes) s
  | _ => bufferPut (addr / 2 ^ 32) (addr % 2 ^ 32) bytes s

/-- Makes a range of an operand undefined (R470, Table 19-6). -/
def spaceForget (space addr len : Nat) (s : State) : State :=
  match space with
  | 0 => modifyMem (fun m => { m with near := memErase addr len m.near }) s
  | 1 => farForget addr len s
  | 2 => s
  | _ =>
    match handleAddr (addr / 2 ^ 32) s with
    | some a => modifyMem (fun m => { m with near := memErase (a + addr % 2 ^ 32) len m.near }) s
    | none => s

/-- What FILL writes: byte i is byte i mod 8 of SRC. -/
def fillBytes (src : BitVec 64) (len : Nat) : Bytes :=
  (List.range len).map (fun i => BitVec.ofNat 8 (src.toNat / 256 ^ (i % 8)))

/-- The first offset at which two byte strings differ. -/
def firstDiff (a b : Bytes) : Option Nat := firstIndex (min a.length b.length) (fun i => a.getD i 0 != b.getD i 0)

/-- STATUS (Table 19-5). -/
def dmaStatusWord (code : Status) (detail : Nat) (equal : Bool) (count : Nat) : Nat :=
  code.toNat * 2 ^ 48 + detail * 2 ^ 40 + flagBit equal * 2 ^ 32 + count % 2 ^ 32

/-- Writes a descriptor back: STATUS, then CTRL with OWN cleared; then HEAD advances. A failure halts the channel, and
otherwise it fetches the next descriptor (R464, R465). -/
def dmaEnd (c : Nat) (d : DmaDescriptor) (code : Status) (detail : Nat) (equal : Bool) (count : Nat)
    (next : Option DmaFetch) (s : State) : State :=
  let ch := dmaAt c s
  let failed := code ≠ stOk
  let mismatch := code = stOk ∧ dmaOp d = 3 ∧ equal = false
  let s1 := emit (.dmaWriteBack c ch.head (dmaStatusWord code detail equal count) (d.ctrl &&& 0x7FFFFFFF#32).toNat) s
  let s2 := modifyDma c (fun x =>
    { x with running := none, idle := true, head := (x.head + 1) % x.size, halted := x.halted || failed
             descriptors := bump x.descriptors
             bytes := if code = stOk ∧ dmaOp d ≠ 3 then bump x.bytes d.len
                      else if code = stOk then bump x.bytes (if equal then d.len else count) else x.bytes
             errors := if failed then bump x.errors else x.errors
             mismatches := if mismatch then bump x.mismatches else x.mismatches }) s1
  dmaFetchNext c next s2

/-- Runs COPY or FILL to its end. -/
def dmaMove (c : Nat) (d : DmaDescriptor) (data : Bytes) (ctx : DmaContext) (s : State) : State :=
  match ctx.error with
  | none => dmaEnd c d stOk 0 false d.len ctx.next (spaceWrite (dmaDstSpace d) d.dst.toNat data s)
  | some e =>
    let n := min ctx.moved d.len
    let s1 := spaceForget (dmaDstSpace d) d.dst.toNat d.len s
    dmaEnd c d stInternal e false n ctx.next (spaceWrite (dmaDstSpace d) d.dst.toNat (data.take n) s1)

/-- Runs COMPARE to its end (R462). -/
def dmaCompare (c : Nat) (d : DmaDescriptor) (a b : Bytes) (ctx : DmaContext) (s : State) : State :=
  match ctx.error with
  | some e => dmaEnd c d stInternal e false 0 ctx.next s
  | none =>
    match firstDiff a b with
    | none => dmaEnd c d stOk 0 true d.len ctx.next s
    | some i => dmaEnd c d stOk 0 false i ctx.next s

/-- Runs the channel's fetched descriptor to its end, where its OP is `op`, or is none of the three (R462-R467). -/
def dmaRun (op c : Nat) (ctx : DmaContext) (s : State) : State :=
  match (dmaAt c s).running with
  | none => s
  | some f =>
    let d := f.desc
    if dmaOp d ≠ op ∧ 1 ≤ dmaOp d ∧ dmaOp d ≤ 3 then s
    else
      match dmaCheck c f s with
      | some (code, detail) =>
        let s1 := dmaEnd c d code detail false 0 ctx.next s
        if detail = 7 then
          match f.epoch with
          | some e => refuseGuarded e 0x2C s1
          | none => s1
        else s1
      | none =>
        match op with
        | 2 => dmaMove c d (fillBytes d.src d.len) ctx s
        | 1 =>
          let (data, s1) := spaceRead (dmaSrcSpace d) d.src.toNat d.len ctx.hostSrc s
          dmaMove c d data ctx s1
        | _ =>
          let (a, s1) := spaceRead (dmaSrcSpace d) d.src.toNat d.len ctx.hostSrc s
          let (b, s2) := spaceRead (dmaDstSpace d) d.dst.toNat d.len ctx.hostDst s1
          dmaCompare c d a b ctx s2

/-- A COPY descriptor runs (R462). -/
def execCopy (channel : Nat) (ctx : DmaContext) (s : State) : Host.Outcome State Fault Refusal := .next (dmaRun 1 channel ctx s)

/-- A FILL descriptor runs (R462). -/
def execFill (channel : Nat) (ctx : DmaContext) (s : State) : Host.Outcome State Fault Refusal := .next (dmaRun 2 channel ctx s)

/-- A COMPARE descriptor runs (R462). -/
def execDmaCompare (channel : Nat) (ctx : DmaContext) (s : State) : Host.Outcome State Fault Refusal :=
  .next (dmaRun 3 channel ctx s)

/-! ## Registers of a channel (R466, R469, R470) -/

/-- A write of TAIL: one of RING_SIZE or above is ignored and counted; while the group is quiesced it is held for RESUME;
otherwise it takes effect, and a waiting slot is fetched again. -/
def dmaTail (c tail : Nat) (f : Option DmaFetch) (s : State) : State :=
  let ch := dmaAt c s
  if ch.size ≤ tail then modifyDma c (fun x => { x with badDoorbells := bump x.badDoorbells }) s
  else if isQuiesced (dmaGroup c) s then modifyDma c (fun x => { x with heldTail := some tail }) s
  else dmaFetchNext c f (modifyDma c (fun x => { x with tail := tail, waiting := false }) s)

/-- What reaches a channel's registers: nothing of the control host's while PERST_N is low (R504). -/
def toChannel (c : Nat) (f : State → State) (s : State) : State := if hostChannel c && s.mci.perstLow then s else f s

/-- A write of TAIL, with the descriptor at HEAD as the channel would fetch it (R461, R466). -/
def execDmaDoorbell (channel tail : Nat) (fetched : Option DmaFetch) (s : State) : Host.Outcome State Fault Refusal :=
  .next (toChannel channel (dmaTail channel tail fetched) s)

/-- A write of ENABLE with 1: the channel fetches from HEAD; before IDLE is set it is ignored (Table 19-8). -/
def dmaEnable (c : Nat) (f : Option DmaFetch) (s : State) : State :=
  if (dmaAt c s).idle then dmaFetchNext c f (modifyDma c (fun x => { x with enable := true }) s) else s

/-- A write of ENABLE with 1 (Table 19-8). -/
def execDmaEnable (channel : Nat) (fetched : Option DmaFetch) (s : State) : Host.Outcome State Fault Refusal :=
  .next (toChannel channel (dmaEnable channel fetched) s)

/-- DISABLE: the running descriptor is abandoned, LOST set, its destination undefined, and the channel's DESCRIPTORS and
BYTES undefined; IDLE follows (R470). -/
def dmaDisable (c : Nat) (s : State) : State :=
  let ch := dmaAt c s
  let s0 := modifyDma c (fun x => { x with enable := false, waiting := false, disables := bump x.disables }) s
  match ch.running with
  | none => s0
  | some f =>
    let (u, s1) := undefNat s0
    let (v, s2) := undefNat s1
    let s3 := if dmaOp f.desc = 3 then s2 else spaceForget (dmaDstSpace f.desc) f.desc.dst.toNat f.desc.len s2
    modifyDma c (fun x => { x with running := none, idle := false, lost := true, descriptors := u % 2 ^ 64, bytes := v % 2 ^ 64 }) s3

/-- A write of DISABLE with 1 (R470). -/
def execDmaDisable (channel : Nat) (s : State) : Host.Outcome State Fault Refusal :=
  .next (toChannel channel (dmaDisable channel) s)

/-- The last write of a disabled channel has landed (R470). -/
def execDmaChannelIdle (channel : Nat) (s : State) : Host.Outcome State Fault Refusal :=
  .next (if (dmaAt channel s).enable then s else modifyDma channel (fun x => { x with idle := true }) s)

/-- A 1 written to HALTED resumes a halted channel at HEAD (R465). -/
def execDmaResume (channel : Nat) (fetched : Option DmaFetch) (s : State) : Host.Outcome State Fault Refusal :=
  .next (toChannel channel (fun st => dmaFetchNext channel fetched (modifyDma channel (fun x => { x with halted := false }) st)) s)

/-! ## Commands (Table 19-10) -/

/-- CH_STATUS (Table 19-9). -/
def chStatus (ch : DmaChannel) : Nat :=
  flagBit ch.lost * 8 + flagBit ch.halted * 4 + flagBit ch.waiting * 2 + flagBit ch.idle

/-- A channel's record: owner (0 Steward, 1 control host), CH_STATUS with ENABLE in bit 8, HEAD, TAIL, the counters of R474;
8 bytes each (DESIGN CHOICE 12). -/
def dmaRecord (c : Nat) (ch : DmaChannel) : Bytes :=
  [flagBit (hostChannel c), chStatus ch + flagBit ch.enable * 256, ch.head, ch.tail, ch.descriptors, ch.bytes, ch.errors,
    ch.mismatches, ch.ownStalls, ch.badDoorbells, ch.disables].flatMap (leBytes 8)

/-- DMA_STATUS (Table 19-10). -/
def dmaStatusCmd (p : McPacket) (s : State) : McEnd × State :=
  let first := parm p 0 1
  let count := parm p 1 1
  if count = 0 ∨ 256 < first + count then refuse stBadParam s
  else answerRecords p ((List.range count).map (fun i => dmaRecord (first + i) (dmaAt (first + i) s))) [] s

/-- DMA_STATUS. -/
def execDmaStatus (p : McPacket) (s : State) : Host.Outcome State Fault Refusal := .next (mciRun 0x0800 p (dmaStatusCmd p) s)

/-- Work-arena handles the control host holds. -/
def hostBuffers (s : State) : Nat := (s.granary.headers.filter (fun h => h.2.owner == 0x2D && decide (0 < h.2.refcount))).length

/-- DMA_BUFFER_ALLOC: a work-arena handle of MCI (Table 19-10). -/
def dmaBufferAlloc (p : McPacket) (s : State) : McEnd × State :=
  let len := parm p 0 4
  match poolFor len with
  | none => refuse stBadParam s
  | some pool =>
    let l := gList 2 pool s
    if listLow (granaryReserve s) l = true ∨ l.cut = true ∨ freeNow l = 0 ∨ l.waiters ≠ [] then refuse stBusy s
    else if paramNat 0x1301 0 s ≤ hostBuffers s then refuse stNoResource s
    else
      match takeBuffer 2 pool 0x2D none s with
      | (some h, s1) => ok (leBytes 4 h) s1
      | (none, s1) => refuse stBusy s1

/-- DMA_BUFFER_ALLOC. -/
def execDmaBufferAlloc (p : McPacket) (s : State) : Host.Outcome State Fault Refusal :=
  .next (mciRun 0x0801 p (dmaBufferAlloc p) s)

/-- DMA_BUFFER_FREE: a RELEASE by MCI; a failure of Table 18-5 ends the command with ST_BAD_PARAM (DESIGN CHOICE 12). -/
def dmaBufferFree (p : McPacket) (s : State) : McEnd × State :=
  let r := gRelease 0x2D (parm p 0 4) none s
  if r.1 = 5 then ok (leBytes 1 5) r.2 else refuse stBadParam r.2

/-- DMA_BUFFER_FREE. -/
def execDmaBufferFree (p : McPacket) (s : State) : Host.Outcome State Fault Refusal :=
  .next (mciRun 0x0802 p (dmaBufferFree p) s)

end Sys2Proof.Machine
end

