-- ==== Sys2Proof/Machine/Rows.lean ====
section
/-! DEFINITION. What the commit of a metadata row brings about (R206), and the resumption of admission (R63). -/

namespace Sys2Proof.Machine

/-- The configuration records that a committed row completes are committed, and their commands end (R494). -/
def configCommitted (units : List MetaUnit) (s : State) : State :=
  (s.mci.configInFlight.filter (fun c => units.any (fun u => u.item == .config c.recordNo)
      && !metaPending (fun u => u.item == .config c.recordNo) s)).foldl (fun st c =>
    let newer := (st.mci.committed.map (fun x => decide (x.recordNo < c.recordNo))).getD true
    endWaits (.rowCommit c.recordNo) none none { st with mci := { st.mci with
      committed := if newer then some c else st.mci.committed
      configInFlight := st.mci.configInFlight.filter (fun x => x.recordNo != c.recordNo) } }) s

/-- Everything that the persistence of journal records lets go on. -/
def afterRows (s : State) : State :=
  dumpRelease (settle (resumeRepl (replPersisted (stepReclaims (advanceEpochs s)))))

/-- A metadata row commits: its units are persisted (R206), and what waited for them goes on. -/
def metadataRowCommit (row : Nat) (s : State) : State :=
  match s.journal.rows.find? (fun r => r.id == row) with
  | none => s
  | some r =>
    let s1 := rowCommit row s
    if s1.journal.rows.any (fun x => x.id == row) then s1 else hswSync (afterRows (almUnits r.units (configCommitted r.units s1)))

/-- METADATA_ROW_COMMIT (R206). -/
def execMetadataRowCommit (row : Nat) (s : State) : Host.Outcome State Fault Refusal := .next (metadataRowCommit row s)

/-- ALMANAC_UNIT_COMMIT: the row of an ALMANAC unit commits (R525). -/
def execAlmanacUnitCommit (row : Nat) (s : State) : Host.Outcome State Fault Refusal :=
  .next (if s.journal.rows.any (fun r => r.id == row && r.units.any (fun u => u.utype == 11)) then metadataRowCommit row s else s)

/-- Admission resumes once the fill has fallen 5 points below the limit (R63). -/
def admissionResume (s : State) : State :=
  if s.ingest.stopped = true ∧ wbBytes s + 5 * wbCapacity s / 100 ≤ wbLimit s then
    resumeSheaf (resumeIo (postOwed (modifyIngest (fun i => { i with stopped := false }) s)))
  else s

/-- ADMISSION_RESUME (R63). -/
def execAdmissionResume (s : State) : Host.Outcome State Fault Refusal := .next (admissionResume s)

end Sys2Proof.Machine
end

