-- ==== Sys2Proof/Machine/Resets.lean ====
section
/-! DEFINITION. The boot step ledger (R506-R508), the three kinds of reset (R503), RECOVERY and PERST_N. -/

namespace Sys2Proof.Machine

/-- Changes the boot part. -/
def modifyBoot (f : BootPart → BootPart) (s : State) : State := { s with boot := f s.boot }

/-- Changes the Headland part. -/
def modifyHeadland (f : HeadlandPart → HeadlandPart) (s : State) : State := { s with headland := f s.headland }

/-! ## The ledger (R506) -/

/-- Writes a ledger entry: before the first entry of a sector the next sector is erased, so that 14 whole sectors stay beside it. -/
def ledgerWrite (kind step attempt variant : Nat) (result : Status) (detail : Nat) (s : State) : State :=
  let e : LedgerEntry := { kind := kind, step := step, attempt := attempt, variant := variant, powerCycles := s.time.powerCycles,
                           result := result, detail := detail }
  modifyBoot (fun b =>
    let old := if b.ledgerCount % 4096 = 0 then b.ledger.drop (b.ledger.length - 57344) else b.ledger
    { b with ledger := old ++ [e], ledgerCount := b.ledgerCount + 1 }) (flashWritten 3 s)

/-- A count of failures by step. -/
def failAdd (step : Nat) (fs : List (Nat × Nat)) : List (Nat × Nat) := insertAt step (lookupD step fs 0 + 1) fs

/-- What an entry does to the failure counts and to the BEGIN that still awaits its DONE (R507, R508). -/
def ledgerStep (acc : List (Nat × Nat) × Option LedgerEntry) (e : LedgerEntry) : List (Nat × Nat) × Option LedgerEntry :=
  if e.kind = 0xC0 then ([], none)
  else if e.kind = 0xB0 then
    match acc.2 with
    | some o => (failAdd o.step acc.1, some e)
    | none => (acc.1, some e)
  else if e.variant = 3 then (acc.1, none)
  else if statusOk e.result then (insertAt e.step 0 acc.1, none)
  else (failAdd e.step acc.1, none)

/-- The failure counts that the ledger shows, and the BEGIN with no DONE after it, if there is one. -/
def ledgerView (l : List LedgerEntry) : List (Nat × Nat) × Option LedgerEntry := l.foldl ledgerStep ([], none)

/-- The failure count of a step (R508). -/
def failures (step : Nat) (s : State) : Nat := lookupD step (ledgerView s.boot.ledger).1 0

/-- Steps that a start-up may do without (Table 21-4). -/
def optionalStep (step : Nat) : Bool := step == 0x03 || step == 0x09 || step == 0x0F || step == 0x10

/-- The variant that a failure count chooses: alternates for HBM, DDR, IMAGE and RECOVER, of which DDR and RECOVER have one (Table 21-4). -/
def stepVariant (step count : Nat) : Nat :=
  if step = 0x04 ∨ step = 0x06 then min count 2
  else if step = 0x05 ∨ step = 0x0C then min count 1
  else 0

/-- How a step is begun (R508). -/
inductive StepChoice where
  | attempt (number variant : Nat) (grace : Bool)
  | skip
  | recovery
  deriving DecidableEq, Repr

/-- The choice by failure count, and by whether this power-on reset still grants the step an attempt. -/
def stepChoice (step : Nat) (s : State) : StepChoice :=
  let c := failures step s
  let grace := s.boot.graceSteps.contains step
  if optionalStep step then
    if c = 0 then .attempt 1 0 false
    else if grace then .attempt 1 0 true
    else .skip
  else if c < 3 then .attempt (c + 1) (stepVariant step c) false
  else if grace then .attempt 4 (stepVariant step 2) true
  else .recovery

/-- DETAIL of a step's entries: pseudo-channels mapped out for HBM, the source for IMAGE (Table 21-5). -/
def stepDetail (step variant : Nat) (s : State) : Nat :=
  if step = 0x04 then s.mem.mappedOut else if step = 0x06 then variant else 0

/-- A partition less what the pseudo-channels mapped out take: 3 GiB each, from the read cache first, then from the victim region (R416). -/
def lessMapped (n : Nat) (v : List Nat) : List Nat :=
  let cache := min (v.getD 2 0) (3 * n)
  (v.set 2 (v.getD 2 0 - cache)).set 3 (v.getD 3 0 - (3 * n - cache))

/-- Writes BEGIN: the step is open. -/
def openStep (step number variant : Nat) (grace : Bool) (s : State) : State :=
  let s1 := modifyBoot (fun b => { b with step := step, attempt := number, variant := variant, stepOpen := true,
                                          ledgerSteps := b.ledgerSteps + 1,
                                          graceSteps := if grace then b.graceSteps.erase step else b.graceSteps }) s
  let s2 := if step = 0x04 then { s1 with mem := { s1.mem with mappedOut := variant, partition := lessMapped variant resetMem.partition } } else s1
  ledgerWrite 0xB0 step number variant stOk (stepDetail step variant s2) s2

/-- Writes DONE: the step is closed. -/
def closeStep (result : Status) (s : State) : State :=
  let b := s.boot
  ledgerWrite 0xD0 b.step b.attempt b.variant result (stepDetail b.step b.variant s) (modifyBoot (fun x => { x with stepOpen := false }) s)

/-- Writes BEGIN and DONE of a step that is skipped (R508). -/
def skipStep (step : Nat) (s : State) : State :=
  let n := min 4 (failures step s + 1)
  ledgerWrite 0xD0 step n 3 stOkInfo 0 (ledgerWrite 0xB0 step n 3 stOk 0
    (modifyBoot (fun b => { b with step := step, attempt := n, variant := 3, stepOpen := false, ledgerSteps := b.ledgerSteps + 1 }) s))

/-! ## RECOVERY (R508, R511) -/

/-- Releases every lease the head holds. -/
def releaseAllLeases (s : State) : State := (leasedBridges s).foldl (fun st b => release b st) s

/-- A mandatory step has failed its last attempt: the leases are released, YIELD_OUT_N is low, the loader serves MCI. -/
def enterRecovery (s : State) : State :=
  let s1 := modifyHeadland (fun h => { h with yieldOutLow := true }) (releaseAllLeases s)
  setMode .recovery 0 (modifyBoot (fun b => { b with loader := true, stepOpen := false }) s1)

/-! ## Resets (R503) -/

/-- What the head keeps of its time: the time base unless it is a power-on reset (R45). -/
def keptTime (kind : ResetKind) (s : State) : TimePart :=
  let t := if kind = .powerOn then 0 else s.time.ticks
  { resetTime with ticks := t, resetTick := t, powerCycles := s.time.powerCycles }

/-- Whether the stop that a reset ends is unsafe: no DUMP with a valid DUMP_END, and BUFFERED records or unpersisted journal held (R516). -/
def unsafeStop (s : State) : Option Nat :=
  s.boot.stopUnsafe.orElse (fun _ =>
    if s.boot.dumpEnd = false ∧ (s.ingest.own ≠ [] ∨ s.journal.ring.any (fun r => !r.persisted) = true) then some s.time.powerCycles else none)

/-- The steps that a power-on reset grants one more attempt: mandatory ones whose count stands at 3 or more, optional ones with a nonzero
count (R508). -/
def graceOf (s : State) : List Nat :=
  let v := ledgerView s.boot.ledger
  let n := fun (k : Nat) => lookupD k v.1 0 + flagBit ((v.2.map (·.step)) == some k)
  (List.range 18).filter (fun k => decide ((if optionalStep k then 1 else 3) ≤ n k))

/-- The boot part after a reset: ledger kept, counters kept but at power-on (R517). -/
def keptBoot (kind : ResetKind) (s : State) : BootPart :=
  let b := s.boot
  let c : BootPart := { resetBoot with ledger := b.ledger, ledgerCount := b.ledgerCount, lastReset := kind, headId := b.headId,
                                       step := 0, attempt := 0, stepOpen := false, ledgerSteps := 0, graceSteps := if kind = .powerOn then graceOf s else [], stopUnsafe := unsafeStop s,
                                       pwrFailLow := b.pwrFailLow, resetLow := b.resetLow }
  if kind = .powerOn then c
  else { c with bootStepFailures := b.bootStepFailures, selfResets := b.selfResets, pwrFailGlitches := b.pwrFailGlitches,
                dumps := b.dumps, quietStops := b.quietStops }

/-- The Almanac after a reset: its rings are on media and in boot flash; what was staged is gone (R522, R523). -/
def keptAlm (kind : ResetKind) (s : State) : AlmPart :=
  let a := s.alm
  let cold := decide (kind = .powerOn)
  { resetAlm with ring := a.ring, slot := a.slot, early := a.early, earlyPos := a.earlyPos, oldestSeq := a.oldestSeq
                  earlyUsed := if cold then 0 else a.earlyUsed
                  earlyReserveUsed := if cold then 0 else a.earlyReserveUsed
                  readMark := if cold then 0 else a.readMark }

/-- The thermal part after a reset: sensors read on; THERMTRIP stays latched until power-on reset (R567, R572). -/
def keptThermal (kind : ResetKind) (s : State) : ThermalPart :=
  let t := s.thermal
  { resetThermal with tjQ := t.tjQ, tempHbm := t.tempHbm, tempVault := t.tempVault, powerMw := t.powerMw, vcoreMv := t.vcoreMv
                      tripLatched := t.tripLatched && decide (kind ≠ .powerOn), tripUncounted := t.tripUncounted
                      energyMj := if kind = .powerOn then 0 else t.energyMj
                      thermTrips := t.thermTrips, lifeUsed := t.lifeUsed }

/-- Tines after a reset: quarantine and permanent parking end only at power-on (Table 21-3). The harrow counters, which R131 resets at
power-on without naming the other kinds, are zero after each (DEDUCED 92). -/
def keptTines (kind : ResetKind) (s : State) : TinesPart :=
  if kind = .powerOn then resetTines
  else
    { resetTines with
      harrows := s.tines.harrows.map (fun h => if h.permanentlyParked then { resetHarrow with permanentlyParked := true, park := .parked } else resetHarrow)
      tines := s.tines.tines.map (fun t => { t with expiries := [] }) }

/-- Engine slices after a reset. -/
def keptVoxca (kind : ResetKind) (s : State) : List VoxcaSlice :=
  if kind = .powerOn then resetVoxca
  else s.voxca.map (fun v => { v with compInBytes := 0, compOutBytes := 0, compAbandoned := 0, decompOutBytes := 0, decodeErrors := 0,
                                      decompDisagree := 0 })

/-- Landing-zone records after a reset: QUARANTINED ones are kept but at power-on. -/
def keptPorts (kind : ResetKind) (s : State) : PortsPart :=
  let bad := s.ports.zones.filter (fun z => z.state == .quarantined)
  if kind = .powerOn ∨ bad = [] then resetPorts
  else { resetPorts with zones := bad, freshZone := s.ports.freshZone
                         freedZones := (List.range s.ports.freshZone).filter (fun i => bad.all (fun z => z.index != i)) }

/-- The journal after a reset: what media holds. A checkpoint whose CHECKPOINT record was not persisted does not count; the directory is that of
the newest checkpoint with the persisted PAGE records (R274). -/
def keptJournal (s : State) : JournalPart :=
  let j := s.journal
  let ring := j.ring.filter (·.persisted)
  let dir := (ring.filter (fun r => decide (j.replayFrom ≤ r.jseq))).foldl (fun d r => match r.body with
    | .page pid a b p row _ => insertAt pid (a, b, p, row) d
    | _ => d) j.checkpointDir
  { resetJournal s.boot.headId with
      ring := ring, nextJseq := j.nextJseq, nextRow := j.nextRow, checkpointNumber := j.checkpointNumber
      lastCheckpoint := j.lastCheckpoint, checkpoint := j.checkpoint, checkpointDir := j.checkpointDir, replayFrom := j.replayFrom
      checkpointTime := j.checkpointTime, directory := dir, writeSeq := j.writeSeq }

/-- Chunk-ID state that the journal and the checkpoint keep. -/
def keptIngest (s : State) : IngestPart :=
  { resetIngest with idRanges := s.ingest.idRanges, freedIds := s.ingest.freedIds, drawnBlocks := s.ingest.drawnBlocks, idGens := s.ingest.idGens, startGen := s.ingest.startGen }

/-- Media management after a reset: what stands on media and in the lifetime counters; identities and labels are to be read again. -/
def keptMedia (s : State) : MediaPart :=
  let m := s.media
  let unsaid := fun (n : Nat) => s.journal.ring.any (fun r => !r.persisted && r.body == .acreState n 2)
  let half := m.bales.map (fun b => (b.acre, b.bale)) ++ s.journal.metaOpen.map (fun b => (b.acre, b.bale))
    ++ s.journal.rows.map (fun r => (r.acre, r.bale))
  let after := fun (a : Acre) =>
    { a with state := if a.state = 2 ∧ unsaid a.num = true then 1 else a.state
             torn := a.torn ++ ((half.filter (fun x => x.1 == a.num)).map (·.2)).eraseDups.filter (fun n => !a.torn.contains n) }
  { resetMedia with acres := m.acres.map after, bridges := m.bridges.map (fun b => { b with ident := none, label := none })
                    nextAcre := m.nextAcre, freedAcres := m.freedAcres, dumpAcres := m.dumpAcres, dumpErase := [], dumped := m.dumped
                    torn := m.torn ++ m.bales.map (fun b => (b.acre, b.bale)) }

/-- Headland after a reset: what is kept with the lifetime counters, and the level of YIELD_IN_N (R320, R330). -/
def keptHeadland (s : State) : HeadlandPart :=
  let h := s.headland
  { resetHeadland s.boot.headId with
      yieldTimes := h.yieldTimes, returnDisable := h.returnDisable, idBlocks := h.idBlocks, yieldInLow := h.yieldInLow
      counters := { (resetHeadland 0).counters with yields := h.counters.yields, takeovers := h.counters.takeovers,
                                                    returns := h.counters.returns } }

/-- Firmware after a reset: boot flash and firmware blocks as they stand; staging off media is lost, and staging on media is found again
by step 0x0C (R538, R539). -/
def keptFw (kind : ResetKind) (s : State) : FwPart :=
  let f := s.fw
  { resetFw with
      running := f.running, image := f.image, loaders := f.loaders, loader := f.loader
      records := f.records.filter (·.programmed)
      piecesPut := if kind = .powerOn then 0 else f.piecesPut
      piecesRejected := if kind = .powerOn then 0 else f.piecesRejected
      activations := if kind = .powerOn then 0 else f.activations }

/-- The NVMe target after a reset: lifetime statistics kept, the error count kept but at power-on. -/
def keptNvme (kind : ResetKind) (s : State) : NvmePart :=
  let n := s.nvme
  { resetNvme with
      errors := if kind = .powerOn then [] else n.errors
      errorCount := if kind = .powerOn then 0 else n.errorCount
      readBytes := n.readBytes, writtenBytes := n.writtenBytes, readCommands := n.readCommands, writeCommands := n.writeCommands
      busyMinutes := n.busyMinutes, unsafeShutdowns := n.unsafeShutdowns, mediaErrors := n.mediaErrors
      warnMinutes := n.warnMinutes, critMinutes := n.critMinutes }

/-- The head in reset (Table 21-3). -/
def inReset (kind : ResetKind) (s : State) : State :=
  { s with
    time := keptTime kind s
    hsw := { attn := 0, autonomy := false, word := 0x0001, attnSeq := if kind = .powerOn then 0 else s.hsw.attnSeq }
    boot := keptBoot kind s
    alm := keptAlm kind s
    mci := { resetMci with committed := s.mci.committed, recordNo := s.mci.recordNo, perstLow := s.mci.perstLow }
    thermal := keptThermal kind s
    fw := keptFw kind s
    tines := keptTines kind s
    winnow := resetWinnow
    voxca := keptVoxca kind s
    cipher := { resetCipher with cores := if kind = .powerOn then resetCipher.cores else s.cipher.cores }
    mem := resetMem
    granary := resetGranary
    dma := List.replicate 256 resetChannel
    map := resetTables
    journal := keptJournal s
    ingest := keptIngest s
    media := keptMedia s
    read := resetRead
    furrow := List.replicate 192 resetFurrow
    headland := keptHeadland s
    repl := { resetRepl with lastSnap := s.repl.lastSnap, copies := s.repl.copies }
    ports := keptPorts kind s
    nvme := keptNvme kind s
    sheaf := resetSheaf }

/-- A BEGIN without a DONE is counted by the start-up that finds it: a BOOT_STEP record, and BOOT_STEP_FAILURES (R507). -/
def countUnfinished (s : State) : State :=
  match (ledgerView s.boot.ledger).2 with
  | none => s
  | some e =>
    almanac 0x0004 (packFields [(1, e.step), (1, e.attempt), (1, e.variant), (1, 0), (2, stAborted.toNat)])
      (modifyBoot (fun b => { b with bootStepFailures := bump b.bootStepFailures }) s)

/-- Begins a start-up: step 0x00 is written, an unfinished step counted, and step 0x01 begun (R503, R505). A latched THERMTRIP is counted
(R572). -/
def startUp (s : State) : State :=
  let s1 := if s.thermal.tripUncounted then
      { s with thermal := { s.thermal with tripUncounted := false, thermTrips := bump s.thermal.thermTrips } } else s
  let s2 := countUnfinished s1
  let s3 := ledgerWrite 0xD0 0 1 0 stOk 0 (ledgerWrite 0xB0 0 1 0 stOk 0 (modifyBoot (fun b => { b with ledgerSteps := 1 }) s2))
  hswSync (match stepChoice 1 s3 with
    | .attempt n v g => openStep 1 n v g s3
    | .skip => s3
    | .recovery => enterRecovery s3)

/-- A self reset without a stop of R529 before it. -/
def bareReset (s : State) : State := startUp (inReset .self (modifyBoot (fun b => { b with selfResets := bump b.selfResets }) s))

/-- A self reset: a stop of R529 first, then the reset, and the start-up after it. -/
def selfReset (s : State) : State := bareReset (flushStop s)

/-- RESET_N rises: HEAD_ID is sampled (R14), the TAP leaves an instruction that only a low RESET_N allows (R566), and the start-up begins. -/
def resetReleased (strap : Bool) (s : State) : State :=
  let tap := match s.jtag with
    | .bypass => JtagInstr.bypass | .idcode => .idcode | .samplePreload => .samplePreload | _ => .bypass
  let s1 := modifyBoot (fun b => { b with headId := flagBit strap, resetLow := false }) { s with jtag := tap }
  let s2 := { s1 with headland := { s1.headland with idBlocks :=
    if s1.journal.checkpointNumber = 0 ∧ s1.ingest.idRanges = [] then (resetHeadland (flagBit strap)).idBlocks else s1.headland.idBlocks } }
  let n := flagBit strap
  startUp { s2 with journal := { s2.journal with writeSeq := s2.journal.writeSeq / 2 * 2 + n, nextJseq := s2.journal.nextJseq / 2 * 2 + n } }

/-- POWER_ON_RESET: with `held` the reset lasts while RESET_N is low; otherwise RESET_N is high again and the start-up follows. The
power-cycle count rises by one per reset, before the first ledger step (R50). -/
def execPowerOnReset (held strap : Bool) (s : State) : Host.Outcome State Fault Refusal :=
  let s1 := inReset .powerOn s
  .next (if held then modifyBoot (fun b => { b with resetLow := true }) s1
    else resetReleased strap { s1 with time := { s1.time with powerCycles := satAdd 32 s1.time.powerCycles 1 } })

/-- PIN_RESET: RESET_N low for 1 µs or longer; with `held` it is still low. -/
def execPinReset (held strap : Bool) (s : State) : Host.Outcome State Fault Refusal :=
  let s1 := inReset .pin s
  .next (if held then modifyBoot (fun b => { b with resetLow := true }) s1 else resetReleased strap s1)

/-- SELF_RESET (R503). -/
def execSelfReset (s : State) : Host.Outcome State Fault Refusal := .next (selfReset s)

/-- PERST_N falls or rises: BAR0 returns to its reset values, every ring is disabled, every control-host DMA channel is disabled; commands
already fetched run on, and their replies wait (R504). -/
def execPerstN (low : Bool) (s : State) : Host.Outcome State Fault Refusal :=
  let off := fun (r : CmdRing) => { resetRing with fetched := r.fetched, nonce := r.nonce, watch := r.watch }
  let s1 := { s with mci := { s.mci with perstLow := low, rings := s.mci.rings.map off, reply := resetReplyRing } }
  .next ((List.range 16).foldl (fun st n => dmaDisable (240 + n) st) s1)

end Sys2Proof.Machine
end

