-- ==== Sys2Proof/Machine/Settings.lean ====
section
/-! DEFINITION. Parameters, quiesce and resume, the configuration record, and Steward autonomy (R442, R489-R496, R576). -/

namespace Sys2Proof.Machine

/-! ## Values of parameters -/

/-- A list of 24 counts as GRANARY_CARVE encodes it (Table 20-10). -/
def carveCode (counts : List Nat) : Bytes := counts.flatMap (leBytes 4)

/-- The counts that a GRANARY_CARVE value encodes. -/
def carveOf (v : Bytes) : List Nat := (List.range 24).map (fun i => fieldAt v (4 * i) 4)

/-- The value in effect of a parameter instance. The partition and the carve in effect are those that the memories have. -/
def paramNow (id index : Nat) (s : State) : Bytes :=
  if id = 0x1100 then s.mem.partition.map (BitVec.ofNat 8)
  else if id = 0x1201 then carveCode (s.granary.lists.map (·.count))
  else paramBytes id index s

/-- The default of a parameter. -/
def paramDefault (id : Nat) : Bytes := if id = 0x1201 then carveCode defaultCarve else ((paramDef id).map (·.dflt)).getD []

/-- The pending value of a parameter instance. -/
def paramPending (id index : Nat) (s : State) : Option Bytes :=
  (s.mci.pendingParams.find? (fun v => v.id == id && v.index == index)).map (·.value)

/-- The value of a parameter instance in the committed record. -/
def paramCommitted (id index : Nat) (s : State) : Option Bytes :=
  s.mci.committed.bind (fun r => (r.entries.find? (fun v => v.id == id && v.index == index)).map (·.value))

/-- Sets the stored value of a parameter instance. -/
def storeParam (id index : Nat) (v : Bytes) (s : State) : State :=
  let others := s.mci.params.filter (fun x => !(x.id == id && x.index == index))
  { s with mci := { s.mci with params := others ++ [{ id := id, index := index, value := v }] } }

/-- Puts a value on the pending ones; the last value set wins (R491). -/
def pendParam (id index : Nat) (v : Bytes) (s : State) : State :=
  let others := s.mci.pendingParams.filter (fun x => !(x.id == id && x.index == index))
  { s with mci := { s.mci with pendingParams := others ++ [{ id := id, index := index, value := v }] } }

/-! ## Near-store partition and carve (R417, R418, R442) -/

/-- GiB of near store that are left: 96 less 3 for each pseudo-channel number mapped out (R416). -/
def nearGiB (s : State) : Nat := ((resetMem.partition).sum) - 3 * s.mem.mappedOut

/-- Whether a partition is legal (R417). -/
def partitionLegal (v : List Nat) (s : State) : Bool :=
  v.sum == nearGiB s && decide (4 ≤ v.getD 0 0) && decide (4 ≤ v.getD 1 0) && decide (8 ≤ v.getD 4 0)

/-- Bytes of an arena under a partition (Table 18-1): the write and mirror regions less the journal rings, the working pools less 384 MiB. -/
def arenaBytes (arena : Nat) (v : List Nat) : Nat :=
  match arena with
  | 0 => (v.getD 0 0 - 1) * 2 ^ 30
  | 1 => (v.getD 1 0 - 1) * 2 ^ 30
  | _ => v.getD 4 0 * 2 ^ 30 - 384 * 2 ^ 20

/-- The regions whose size or offset differs between two partitions. -/
def regionsChanged (old new : List Nat) : List Nat :=
  (List.range 5).filter (fun i => old.getD i 0 != new.getD i 0 || (old.take i).sum != (new.take i).sum)

/-- The carve that a new partition makes of the present counts: the lists of a changed arena are scaled (R442). -/
def scaledCarve (new : List Nat) (s : State) : List Nat :=
  (List.range 24).map (fun i =>
    let c := (s.granary.lists.getD i (freshList 0 0)).count
    let old := arenaBytes (i / 8) s.mem.partition
    let now := arenaBytes (i / 8) new
    if old = now then c else c * now / max 1 old)

/-- Bytes of an arena that a carve uses. -/
def carveBytes (arena : Nat) (c : List Nat) : Nat := ((List.range 8).map (fun p => c.getD (8 * arena + p) 0 * poolSize p)).sum

/-- Buffers that a carve gives a pool. -/
def carvePool (pool : Nat) (c : List Nat) : Nat := c.getD pool 0 + c.getD (8 + pool) 0 + c.getD (16 + pool) 0

/-- Whether a carve fits (R442). -/
def carveLegal (c : List Nat) (s : State) : Bool :=
  (List.range 3).all (fun a => decide (carveBytes a c ≤ arenaBytes a s.mem.partition))
    && (List.range 8).all (fun p => decide (carvePool p c ≤ 2097152)) && decide (c.sum ≤ 2097152)

/-- The arenas whose lists a carve changes, in their counts or in the index ranges they take in a pool (R441). -/
def arenasChanged (c : List Nat) (s : State) : List Nat :=
  (List.range 3).filter (fun a => (List.range 8).any (fun p =>
    let l := s.granary.lists.getD (8 * a + p) (freshList 0 0)
    let n := (carveLists c).getD (8 * a + p) (freshList 0 0)
    l.count != n.count || (l.base != n.base && n.count != 0)))

/-- The regions that a change of the partition or the carve touches: an arena's is 0, 1 or 4. -/
def touchedRegions (id : Nat) (v : Bytes) (s : State) : List Nat :=
  let region := fun (a : Nat) => if a = 2 then 4 else a
  if id = 0x1100 then
    let new := v.map (·.toNat)
    let ofCarve := (arenasChanged (scaledCarve new s) s).map region
    (List.range 5).filter (fun i => (regionsChanged s.mem.partition new).contains i || ofCarve.contains i)
  else (arenasChanged (carveOf v) s).map region

/-- Functions that must be quiesced for a region (Table 17-3). -/
def regionFunctions (region : Nat) : List Nat :=
  match region with
  | 0 => [0x04]
  | 1 => [0x31]
  | 2 => [0x02, 0x03]
  | 3 => [0x30]
  | _ => [0x04, 0x05, 0x06]

/-- Whether a region meets its condition (Table 17-3). The staging queue's buffers are no obstacle (R525). -/
def regionReady (region : Nat) (s : State) : Bool :=
  match region with
  | 0 => s.ingest.own.isEmpty && s.journal.ring.all (·.persisted)
  | 1 => s.ingest.mirror.isEmpty
  | 4 => s.granary.headers.all (fun h => h.2.refcount == 0 || arenaOf (h.1 / 2 ^ 21) (h.1 % 2 ^ 21) s != some 2
      || s.alm.buffers.any (fun b => hPool b == h.1 / 2 ^ 21 && hIndex b == h.1 % 2 ^ 21))
  | _ => true

/-- The functions that a value of a parameter instance needs quiesced. -/
def quiesceFor (id index : Nat) (v : Bytes) (s : State) : List Nat :=
  if id = 0x1100 ∨ id = 0x1201 then distinct ((touchedRegions id v s).flatMap regionFunctions)
  else (((paramDef id).map (·.quiesce)).getD []).map (fun f => if f = 0x20 then 0x20 + index else f)

/-- Whether the conditions of a partition or carve are met; every other parameter has none. -/
def conditionsMet (id : Nat) (v : Bytes) (s : State) : Bool :=
  !(id == 0x1100 || id == 0x1201) || (touchedRegions id v s).all (fun r => regionReady r s)

/-- Takes the staging queue's sixteen 4 MiB buffers from the work arena (R525). -/
def takeStaging (s : State) : State :=
  (List.range 16).foldl (fun st _ => match gAlloc 0 none 2 4194304 false st with
    | (some h, s1) => modifyAlm (fun a => { a with buffers := a.buffers ++ [h] }) s1
    | (none, s1) => s1) (modifyAlm (fun a => { a with buffers := [] }) s)

/-- Puts a carve in effect: the lists of every arena it changes are built anew. -/
def setCarve (c : List Nat) (s : State) : State :=
  let changed := arenasChanged c s
  let fresh := carveLists c
  let lists := (List.range 24).map (fun i => if changed.contains (i / 8) then fresh.getD i (freshList 0 0) else s.granary.lists.getD i (freshList 0 0))
  let keep := s.granary.headers.filter (fun h => match arenaOf (h.1 / 2 ^ 21) (h.1 % 2 ^ 21) s with
    | some a => !changed.contains a
    | none => false)
  let s1 := { s with granary := { s.granary with lists := lists, headers := keep } }
  if changed.contains 2 ∧ s.alm.buffers ≠ [] then takeStaging s1 else s1

/-- Puts a partition in effect: read cache and victim region lose their content where they change, dirty lines written back first
(Table 17-3). -/
def setPartition (new : List Nat) (s : State) : State :=
  let changed := regionsChanged s.mem.partition new
  let s1 := if changed.contains 3 then
      let w := s.mem.victim.foldl (fun st l => if l.dirty then writeBack l.line l.data st else st) s
      modifyMem (fun m => { m with victim := [] }) w
    else s
  let s2 := if changed.contains 2 then { s1 with read := { s1.read with cache := [] } } else s1
  let carve := scaledCarve new s2
  let s3 := setCarve carve s2
  modifyMem (fun m => { m with partition := new }) s3

/-! ## Values taking effect -/

/-- What a value that has come into effect brings about at once, beside being read where it is used. -/
def paramEffect (id index : Nat) (v : Bytes) (s : State) : State :=
  if id = 0x1100 then setPartition (v.map (·.toNat)) s
  else if id = 0x1201 then setCarve (carveOf v) s
  else if id = 0x0503 then applyParkedSet s
  else if id = 0x0305 then modifyHarrow index (fun h => { h with budget := leNat v }) s
  else if 0x0900 ≤ id ∧ id ≤ 0x0903 then
    let n := leNat v
    modifyMedia (fun m => if id = 0x0900 then { m with baleK := n } else if id = 0x0901 then { m with baleM := n }
      else if id = 0x0902 then { m with metaK := n } else { m with metaM := n }) s
  else if 0x0906 ≤ id ∧ id ≤ 0x0908 then checkWarnings s
  else if id = 0x1200 then { s with granary := { s.granary with lists := s.granary.lists.map (noteLevel (leNat v)) } }
  else s

/-- A value takes effect. -/
def applyParam (id index : Nat) (v : Bytes) (s : State) : State :=
  let s1 := if id = 0x1100 ∨ id = 0x1201 then s else storeParam id index v s
  hswSync (paramEffect id index v s1)

/-! ## GET_PARAM (R495) -/

/-- Answers with a value: VLEN, PENDING, and the value in the result, or in the buffer where it is longer than 16 bytes. -/
def answerValue (p : McPacket) (pending : Bool) (v : Bytes) (s : State) : McEnd × State :=
  let head := leBytes 2 v.length ++ [BitVec.ofNat 8 (flagBit pending)] ++ zeros 5
  if v.length ≤ 16 then ok (head ++ v) s
  else if p.dataPages = 0 then (.reply stOkInfo head, s)
  else if p.busError then busFail p s
  else ok head (bufferWrite p v s)

/-- Answers that there is no such value: ST_OK_INFO with VLEN 0. -/
def answerNone (pending : Bool) (s : State) : McEnd × State :=
  (.reply stOkInfo (leBytes 2 0 ++ [BitVec.ofNat 8 (flagBit pending)]), s)

/-- GET_PARAM. -/
def getParam (p : McPacket) (s : State) : McEnd × State :=
  let id := parm p 0 2
  let index := parm p 2 2
  match paramDef id with
  | none => refuse stBadParam s
  | some d =>
    let pend := paramPending id index s
    if scopeCount d.scope ≤ index then refuse stBadParam s
    else
      match parm p 4 1 with
      | 0 => answerValue p pend.isSome (paramNow id index s) s
      | 1 => match pend with
        | some v => answerValue p true v s
        | none => answerNone false s
      | 2 => answerValue p pend.isSome (paramDefault id) s
      | 3 => match paramCommitted id index s with
        | some v => answerValue p pend.isSome v s
        | none => answerNone pend.isSome s
      | _ => refuse stBadParam s

/-- GET_PARAM. -/
def execGetParam (p : McPacket) (s : State) : Host.Outcome State Fault Refusal := .next (mciRun 0x0100 p (getParam p) s)

/-! ## SET_PARAM (R491, R493) -/

/-- The value that a packet carries: in the parameters up to 40 bytes, else in the data buffer; none where it is not there. -/
def packetValue (p : McPacket) (vlen : Nat) : Option Bytes :=
  if vlen ≤ 40 then some (parmBytes p 8 vlen)
  else if p.data.length < vlen then none else some (p.data.take vlen)

/-- The first check of R491: ID, scope, INDEX, VLEN and range. -/
def paramShape (id index : Nat) (v : Bytes) (s : State) : Bool :=
  match paramDef id with
  | none => false
  | some d => scopeByIndex d.scope && decide (index < scopeCount d.scope) && kindAccepts d.kind v
      && (id != 0x1100 || partitionLegal (v.map (·.toNat)) s) && (id != 0x1201 || carveLegal (carveOf v) s)

/-- Whether VCORE_TARGET may take a value: 0xA only while the committed record holds BOOST_PERMIT 1 (R41, Table 20-9). -/
def boostAllowed (id : Nat) (v : Bytes) (s : State) : Bool :=
  !(id == 0x1400 && leNat v == 10) || (paramCommitted 0x1401 0 s).map leNat == some 1

/-- The value a parameter will have: its pending value, or the one in effect. -/
def paramComing (id : Nat) (s : State) : Nat := leNat ((paramPending id 0 s).getD (paramNow id 0 s))

/-- Ranges that hang on other parameters or on the machine: the geometry of R203, RECLAIM_URGENT up to RECLAIM_START (Table 9-10), and a
PARK_MASK that leaves a harrow running (R128). -/
def paramCross (id : Nat) (v : Bytes) (s : State) : Bool :=
  let g := fun (o : Nat) => if o = id then leNat v else paramComing o s
  if 0x0900 ≤ id ∧ id ≤ 0x0903 then geometryOk (g 0x0900) (g 0x0901) (g 0x0902) (g 0x0903) s
  else if id = 0x0905 then decide (leNat v ≤ paramNat 0x0904 0 s)
  else if id = 0x0503 then !(List.range 32).all (fun h => parkedUnder (leNat v) h s)
  else true

/-- A refusal that a parameter's own chapter states: VCORE_TARGET 0xA without the permit of the committed record (Table 20-9), a port that
another service uses (Table 14-11), a partition or carve whose condition is not met (R418). -/
def paramRefusal (id : Nat) (v : Bytes) (s : State) : Option Status :=
  let ports := [0x0E14, 0x0E15, 0x0E16, 0x0E17]
  if boostAllowed id v s = false then some stBadParam
  else if id = 0x0503 ∧ (List.range 32).all (fun h => parkedUnder (leNat v) h s) = true then some stBadParam
  else if ports.contains id = true ∧ (ports.any (fun o => o != id && leNat ((paramPending o 0 s).getD (paramNow o 0 s)) == leNat v)) = true then
    some stBadParam
  else if conditionsMet id v s then none else some stBusy

/-- The checks of R491 in order. -/
def paramCheck (id index : Nat) (v : Bytes) (s : State) : Option Status :=
  if paramShape id index v s = false ∨ paramCross id v s = false then some stBadParam
  else if (quiesceFor id index v s).any (fun f => !fullyQuiesced f s) = true then some stNotQuiesced
  else paramRefusal id v s

/-- Sets a checked value: pending where the parameter is quiesce-only, else in effect. Whether it is pending, and the state. -/
def setChecked (id index : Nat) (v : Bytes) (s : State) : Bool × State :=
  if (quiesceFor id index v s).isEmpty then (false, applyParam id index v s) else (true, pendParam id index v s)

/-- Sets a checked value, and answers with APPLIED. -/
def setAnswer (id index : Nat) (v : Bytes) (s : State) : McEnd × State :=
  let r := setChecked id index v s
  ok [BitVec.ofNat 8 (flagBit r.1)] r.2

/-- SET_PARAM. An array-scope parameter goes to the peer first, unless the peer sent it or is absent. -/
def setParam (p : McPacket) (s : State) : McEnd × State :=
  let id := parm p 0 2
  let index := parm p 2 2
  if 40 < parm p 4 2 ∧ p.busError = true then busFail p s
  else
  match packetValue p (parm p 4 2) with
  | none => refuse stBadParam s
  | some v =>
    match paramCheck id index v s with
    | some st => refuse st s
    | none =>
      let array := ((paramDef id).map (fun d => d.scope == .array)).getD false
      if array = true ∧ s.headland.peerPresent = true ∧ p.fetchedFrom < peerRing then forwardMci 0x0101 p s
      else setAnswer id index v s

/-- SET_PARAM. -/
def execSetParam (p : McPacket) (s : State) : Host.Outcome State Fault Refusal := .next (mciRun 0x0101 p (setParam p) s)

/-! ## Scope parameters (R576) -/

/-- Whether a scope of a kind exists: 1 namespace, 2 object domain, 3 dedup domain. -/
def scopeExists (kind id : Nat) (s : State) : Bool :=
  match kind with
  | 1 => (nsAt id s).isSome
  | 2 => s.map.objdoms.any (fun o => o.id == id)
  | 3 => (domainAt id s).isSome
  | _ => false

/-- Whether a parameter is one of a scope of a kind. -/
def scopeTakes (sc : ParamScope) (kind : Nat) : Bool :=
  match sc with
  | .nsOrObjdom => kind == 1 || kind == 2
  | .objdom => kind == 2
  | .domain => kind == 3
  | _ => false

/-- The value in effect of a scope parameter. -/
def scopeNow (kind id param : Nat) (s : State) : Bytes :=
  match s.map.scopeParams.find? (fun x => x.kind == kind && x.id == id && x.param == param) with
  | some x => x.value
  | none =>
    match domainAt id s with
    | some d =>
      if kind = 3 ∧ param = 0x0301 then leBytes 8 d.voxcaLevel
      else if kind = 3 ∧ param = 0x0303 then leBytes 8 d.verifyPolicy
      else paramDefault param
    | none => paramDefault param

/-- SCOPE_PARAM_SET. A quiesce-only parameter asks the peer first whether its function is quiesced too; what the peer answers to that is
its own check (DESIGN CHOICE 27). HOLD_MODE is fixed once the domain has a hold. -/
def scopeParamSet (p : McPacket) (s : State) : McEnd × State :=
  let param := parm p 0 2
  let kind := parm p 2 1
  let id := parm p 4 2
  let v := parmBytes p 8 (parm p 6 2)
  match paramDef param with
  | none => refuse stBadParam s
  | some d =>
    if scopeTakes d.scope kind = false ∨ scopeExists kind id s = false ∨ 40 < parm p 6 2 ∨ kindAccepts d.kind v = false then refuse stBadParam s
    else if param = 0x1003 ∧ s.map.objects.any (fun o => o.objDomain == id && (o.holdFlags != 0 || o.holdUntil != 0)) = true then refuse stBadParam s
    else if d.quiesce.any (fun f => !fullyQuiesced f s) = true then refuse stNotQuiesced s
    else if peerRing ≤ p.fetchedFrom then ok [] s
    else if journals s = false then refuse stWrongMode s
    else if d.quiesce ≠ [] ∧ s.headland.peerPresent = true then forwardMci 0x0203 p s
    else
      let (_, m, s1) := place 0 (.scopeParam { kind := kind, id := id, param := param, value := v }) s
      endMirrored p m [BitVec.ofNat 8 (flagBit (!d.quiesce.isEmpty))] s1

/-- SCOPE_PARAM_SET. -/
def execScopeParamSet (p : McPacket) (s : State) : Host.Outcome State Fault Refusal := .next (mciRun 0x0203 p (scopeParamSet p) s)

/-- SCOPE_PARAM_GET. -/
def scopeParamGet (p : McPacket) (s : State) : McEnd × State :=
  let param := parm p 0 2
  let kind := parm p 2 1
  let id := parm p 4 2
  match paramDef param with
  | none => refuse stBadParam s
  | some d =>
    if scopeTakes d.scope kind = false ∨ scopeExists kind id s = false then refuse stBadParam s
    else answerValue p (paramPending param (2 ^ 16 * kind + id) s).isSome (scopeNow kind id param s) s

/-- SCOPE_PARAM_GET. -/
def execScopeParamGet (p : McPacket) (s : State) : Host.Outcome State Fault Refusal := .next (mciRun 0x0204 p (scopeParamGet p) s)

/-! ## Quiesce and resume (R492) -/

/-- The functions of Table 20-11 below the whole head. -/
def functionCodes : List Nat :=
  [0x01, 0x02, 0x03, 0x04, 0x05, 0x06] ++ (List.range 8).map (0x10 + ·) ++ (List.range 4).map (0x20 + ·) ++ [0x30, 0x31]
    ++ (List.range 5).map (0x40 + ·)

/-- Whether one function has reached its quiesced state: no acre step runs (Table 20-11), no batch is under way, no request holds a pair of
the complex, no descriptor of the group runs (R472); the others reach it at once. -/
def functionStill (f : Nat) (s : State) : Bool :=
  if f = 0x05 then s.media.reclaims.all (fun j => j.step != 6 && j.copies.isEmpty)
  else if f = 0x06 then s.repl.sessions.all (fun x => !x.initiator || x.stage != 4 || x.held)
  else if 0x20 ≤ f ∧ f ≤ 0x23 then s.cipher.jobs.all (fun j => j.complex != f - 0x20 || j.pair.isNone)
  else if 0x40 ≤ f then (List.range 256).all (fun c => dmaGroup c != f || (dmaAt c s).running.isNone)
  else true

/-- Whether a function, or with code 0 every function, has reached its quiesced state. -/
def quiesceReached (f : Nat) (s : State) : Bool :=
  if f = 0 then functionCodes.all (fun g => functionStill g s) else functionStill f s

/-- A function is quiesced: what waits for it ends; the whole head enters mode QUIESCE, keeping the mode below it (R492, R501). -/
def nowQuiesced (f : Nat) (s : State) : State :=
  let s1 := { s with mci := { s.mci with quiescing := s.mci.quiescing.filter (· != f)
                                         quiesced := if s.mci.quiesced.contains f then s.mci.quiesced else s.mci.quiesced ++ [f] } }
  let s2 := if f = 0 then setMode .quiesce 0 { s1 with boot := { s1.boot with underQuiesce := s1.boot.mode } } else s1
  endWaits (.quiesce f) none none s2

/-- Whether the whole head may be quiesced (Table 21-2). -/
def mayQuiesceHead (s : State) : Bool :=
  match s.boot.mode with
  | .active => true | .sole => true | .returning => true | .readonly => true | _ => false

/-- QUIESCE: it stays outstanding until the function has reached its quiesced state. -/
def quiesceCmd (p : McPacket) (s : State) : McEnd × State :=
  let f := p.function.toNat
  if (f == 0 || functionCodes.contains f) = false then refuse stBadParam s
  else if f = 0 ∧ s.fw.state = 3 then refuse stBusy s
  else if fullyQuiesced f s then (.reply stOkInfo [], s)
  else if f = 0 ∧ mayQuiesceHead s = false then refuse stWrongMode s
  else
    let s1 := { s with mci := { s.mci with quiescing := if s.mci.quiescing.contains f then s.mci.quiescing else s.mci.quiescing ++ [f] } }
    let s2 := cipherSchedule s1
    if quiesceReached f s2 then ok [] (nowQuiesced f s2) else waitOn p (.quiesce f) [] s2

/-- QUIESCE (R492). -/
def execQuiesce (p : McPacket) (s : State) : Host.Outcome State Fault Refusal := .next (mciRun 0x0004 p (quiesceCmd p) s)

/-- QUIESCE_COMPLETE: a function that is being quiesced has reached its quiesced state. -/
def execQuiesceComplete (function : Nat) (s : State) : Host.Outcome State Fault Refusal :=
  .next (if s.mci.quiescing.contains function = true ∧ quiesceReached function s = true then nowQuiesced function s else s)

/-- Whether a logical port's configuration has changed between two states of the parameters (R363). -/
def portChanged (l : Nat) (old new : State) : Bool :=
  [0x0E02, 0x0E03, 0x0E04, 0x0E05, 0x0E06, 0x0E07, 0x0E08, 0x0E10, 0x0E11].any (fun id => paramBytes id l old != paramBytes id l new)
    || [0x0E00, 0x0E01].any (fun id => paramBytes id (l / 4) old != paramBytes id (l / 4) new)

/-- Whether a front port is to be trained anew. -/
def portRetrains (l : Nat) (old new : State) : Bool :=
  [0x0E00, 0x0E01].any (fun id => paramBytes id (l / 4) old != paramBytes id (l / 4) new)

/-- What the resumption of the front ports makes of changed values (R363). -/
def portsResume (old s : State) : State :=
  let s1 := closeAll (fun c => portChanged c.lport old s) s
  (List.range 32).foldl (fun st l =>
    if portRetrains l old s then
      modifyLport l (fun p => { p with link := 1, paused := [], xoff := [], conflicts := []
                                       counters := if p.link = 2 then { p.counters with linkDowns := bump p.counters.linkDowns } else p.counters }) st
    else if portChanged l old s then modifyLport l (fun p => { p with conflicts := [] }) st
    else st) s1

/-- Applies a pending value. A scope parameter's goes to the tables. -/
def applyPending (v : ParamVal) (s : State) : State :=
  if v.index < 2 ^ 16 then applyParam v.id v.index v.value s
  else
    let x : ScopeParam := { kind := v.index / 2 ^ 16, id := v.index % 2 ^ 16, param := v.id, value := v.value }
    modifyMap (fun m => { m with scopeParams := m.scopeParams.filter (fun y => !(y.kind == x.kind && y.id == x.id && y.param == x.param)) ++ [x] }) s

/-- The functions that hold a pending value back. -/
def pendingFunctions (v : ParamVal) (s : State) : List Nat :=
  if v.index < 2 ^ 16 then quiesceFor v.id v.index v.value s else ((paramDef v.id).map (·.quiesce)).getD []

/-- Applies every pending value of which no function is quiesced any more: how many. -/
def applyPendings (s : State) : Nat × State :=
  let due := s.mci.pendingParams.filter (fun v => (pendingFunctions v s).all (fun f => !isQuiesced f s))
  let s1 := { s with mci := { s.mci with pendingParams := s.mci.pendingParams.filter (fun v => !due.contains v) } }
  (due.length, due.foldl (fun st v => applyPending v st) s1)

/-- Pending descriptors and masks of a Winnow table. -/
def winnowPendings (t : Nat) (s : State) : Nat :=
  (s.winnow.pendingDesc.filter (fun x => x.1 == t)).length + (s.winnow.pendingMasks.filter (fun x => x.1 / 16 == t)).length

/-- A channel group goes on: tails written meanwhile take effect (R472). `fetches` gives the descriptor that each channel then fetches. -/
def dmaResumeGroup (g : Nat) (fetches : List (Nat × DmaFetch)) (s : State) : State :=
  (List.range 256).foldl (fun st c =>
    if dmaGroup c ≠ g then st
    else
      match (dmaAt c st).heldTail with
      | some t => dmaTail c t (lookup c fetches) (modifyDma c (fun x => { x with heldTail := none }) st)
      | none => dmaFetchNext c (lookup c fetches) st) s

/-- What a function does as it runs again. -/
def functionRuns (f : Nat) (fetches : List (Nat × DmaFetch)) (s : State) : State :=
  if isQuiesced f s then s
  else if f = 0x02 then
    resumeIo (modifyNvme (fun n => { n with controllers := n.controllers.map (fun c => { c with katoFrom := s.time.ticks }) }) s)
  else if f = 0x03 then resumeSheaf s
  else if f = 0x04 then settle (resumeSheaf (resumeIo s))
  else if f = 0x05 then stepReclaims s
  else if f = 0x06 then resumeRepl s
  else if 0x20 ≤ f ∧ f ≤ 0x23 then cipherSchedule s
  else if 0x40 ≤ f then dmaResumeGroup f fetches s
  else s

/-- Takes functions out of quiesce, with what their pending values and tables bring: the number of values applied. -/
def resumeFunctions (fs : List Nat) (fetches : List (Nat × DmaFetch)) (s : State) : Nat × State :=
  let s1 := { s with mci := { s.mci with quiesced := s.mci.quiesced.filter (fun f => !fs.contains f)
                                         quiescing := s.mci.quiescing.filter (fun f => !fs.contains f) } }
  let tables := (List.range 8).filter (fun t => fs.contains (0x10 + t) && !isQuiesced (0x10 + t) s1)
  let n := (tables.map (fun t => winnowPendings t s1)).sum
  let s2 := tables.foldl (fun st t => winnowResume t st) s1
  let r := applyPendings s2
  let s3 := if isQuiesced 0x01 r.2 then r.2 else portsResume s2 r.2
  (n + r.1, (functionCodes.filter (fun f => fs.contains f)).foldl (fun st f => functionRuns f fetches st) s3)

/-- Every function runs again, and a head in mode QUIESCE returns to the mode below it. -/
def resumeHead (fetches : List (Nat × DmaFetch)) (s : State) : Nat × State :=
  let s1 := if s.boot.mode = .quiesce then setMode s.boot.underQuiesce 0 s else s
  resumeFunctions (0 :: functionCodes) fetches s1

/-- RESUME. `fetches` gives the descriptor at the head of each DMA channel that has one to fetch. -/
def resumeCmd (p : McPacket) (fetches : List (Nat × DmaFetch)) (s : State) : McEnd × State :=
  let f := p.function.toNat
  let idle := (.reply stOkInfo (leBytes 4 0), s)
  if (f == 0 || functionCodes.contains f) = false then refuse stBadParam s
  else if f = 0 then
    if s.mci.quiesced.isEmpty ∧ s.mci.quiescing.isEmpty ∧ s.boot.mode ≠ .quiesce then idle
    else
      let r := resumeHead fetches s
      ok (leBytes 4 r.1) r.2
  else if s.mci.quiesced.contains f = false then idle
  else
    let r := resumeFunctions [f] fetches s
    ok (leBytes 4 r.1) r.2

/-- RESUME (R492). -/
def execResume (p : McPacket) (fetches : List (Nat × DmaFetch)) (s : State) : Host.Outcome State Fault Refusal :=
  .next (mciRun 0x0005 p (resumeCmd p fetches) s)

/-- The QUIESCE that has not completed under a tag: its command and its function. -/
def openQuiesce (tag : Nat) (s : State) : Option (McRef × Nat) :=
  s.mci.waits.findSome? (fun w => match w.kind with
    | .quiesce f => if w.ref.tag = tag then some (w.ref, f) else none
    | _ => none)

/-- Gives a quiesce up: its function runs again, and pending values stay (R492). -/
def abandonQuiesce (f : Nat) (fetches : List (Nat × DmaFetch)) (s : State) : State :=
  let s1 := { s with mci := { s.mci with quiescing := s.mci.quiescing.filter (· != f) } }
  if f = 0 then functionCodes.foldl (fun st g => functionRuns g fetches st) s1 else functionRuns f fetches s1

/-- CANCEL: a standing WATCH or an uncompleted QUIESCE ends with ST_ABORTED; CAUGHT tells whether it did (R485, R492). -/
def cancelCmd (p : McPacket) (fetches : List (Nat × DmaFetch)) (s : State) : McEnd × State :=
  let tag := parm p 0 2 % 2 ^ 15
  match firstIndex 16 (fun n => (((s.mci.rings[n]?).bind (·.watch)).map (fun w => w.tag == tag)).getD false) with
  | some n =>
    ok [1] (complete { ring := n, tag := tag } stAborted []
      { s with mci := { s.mci with rings := modifyNth (fun r => { r with watch := none }) n s.mci.rings } })
  | none =>
    match openQuiesce tag s with
    | some (_, f) => ok [1] (abandonQuiesce f fetches (endWaits (.quiesce f) (some stAborted) (some []) s))
    | none => ok [0] s

/-- CANCEL. -/
def execCancel (p : McPacket) (fetches : List (Nat × DmaFetch)) (s : State) : Host.Outcome State Fault Refusal :=
  .next (mciRun 0x0008 p (cancelCmd p fetches) s)

/-! ## Configuration record (R27, R494) -/

/-- Every parameter instance that SET_PARAM reaches, with its value in effect, in order of ID and INDEX. -/
def configEntries (s : State) : List ParamVal :=
  (paramTable.filter (fun d => scopeByIndex d.scope && d.kind != .fixed)).flatMap (fun d =>
    (List.range (scopeCount d.scope)).map (fun i => { id := d.id, index := i, value := paramNow d.id i s }))

/-- An entry's bytes. -/
def configEntryBytes (v : ParamVal) : Bytes :=
  packFields [(2, v.id), (2, v.index), (2, v.value.length), (2, 0)] ++ padTo (roundUp v.value.length 8) v.value

/-- A configuration record's bytes (Table 20-12). -/
def configBytes (c : ConfigRecord) : Bytes :=
  let body := c.entries.flatMap configEntryBytes
  withCrc (packFields [(4, 0x46435848), (1, 1), (1, c.head), (2, 0), (8, c.recordNo), (8, c.commitTime), (4, c.entries.length),
    (4, 0x20 + body.length + 4)] ++ body)

/-- The CONFIG units of a record, split in PART order. -/
def configUnits (c : ConfigRecord) : List MetaUnit :=
  let b := configBytes c
  let n := (b.length + 16319) / 16320
  (List.range n).map (fun i =>
    { utype := 12, part := i * 256 + n, pageId := pageId 12 c.recordNo, jseq := 0, payload := slice b (16320 * i) 16320,
      item := .config c.recordNo })

/-- COMMIT_CONFIG: at most once per second; it completes when its row commits. -/
def commitConfig (p : McPacket) (s : State) : McEnd × State :=
  let early := match s.mci.lastCommit with
    | some t => decide (s.time.ticks < t + sTicks 1)
    | none => false
  if early then refuse stBusy s
  else
    let no := (s.mci.recordNo / 2 + 1) * 2 + s.boot.headId
    let c : ConfigRecord := { head := s.boot.headId, recordNo := no, commitTime := arrayTime s, entries := configEntries s }
    let s1 := addDue (configUnits c) { s with mci := { s.mci with recordNo := no, lastCommit := some s.time.ticks,
                                                                  configInFlight := s.mci.configInFlight ++ [c] } }
    waitOn p (.rowCommit no) (packFields [(8, no), (4, (configBytes c).length)]) (metaFlush s1)

/-- COMMIT_CONFIG (R494). -/
def execCommitConfig (p : McPacket) (s : State) : Host.Outcome State Fault Refusal := .next (mciRun 0x0102 p (commitConfig p) s)

/-- CONFIG_READ: the newest committed record, or ST_OK_INFO. -/
def configRead (p : McPacket) (s : State) : McEnd × State :=
  match s.mci.committed with
  | none => (.reply stOkInfo [], s)
  | some c => answerRecords p [configBytes c] [] s

/-- CONFIG_READ (R494). -/
def execConfigRead (p : McPacket) (s : State) : Host.Outcome State Fault Refusal := .next (mciRun 0x0103 p (configRead p) s)

/-- A committed partition less what has been mapped out since (R416). -/
def partitionLess (v : ParamVal) (s : State) : ParamVal :=
  let sizes := v.value.map (·.toNat)
  if v.id = 0x1100 then { v with value := (lessMapped ((sizes.sum - nearGiB s) / 3) sizes).map (BitVec.ofNat 8) } else v

/-- The values of the committed record take effect at start-up; a parameter it does not hold takes its default (R494). -/
def applyConfig (s : State) : State :=
  match s.mci.committed with
  | none => s
  | some c =>
    let fits := fun (v : ParamVal) => paramShape v.id v.index v.value s && v.value != paramNow v.id v.index s && boostAllowed v.id v.value s
    ((c.entries.map (fun v => partitionLess v s)).filter fits).foldl (fun st v => applyParam v.id v.index v.value st) s

/-! ## Steward autonomy (R496) -/

/-- Whether the control-host watchdog runs. -/
def watchdogRuns (s : State) : Bool :=
  match s.boot.mode with
  | .boot => false | .recovery => false | .service => false | .dump => false | _ => true

/-- The value that autonomy returns a parameter instance to. -/
def restoreValue (id index : Nat) (s : State) : Bytes := (paramCommitted id index s).getD (paramDefault id)

/-- Returns one instance to its value; a partition or carve whose condition is not met stays. -/
def restoreParam (old : State) (x : Nat × Nat) (s : State) : State :=
  let v := restoreValue x.1 x.2 old
  if v = paramNow x.1 x.2 s ∨ conditionsMet x.1 v s = false ∨ boostAllowed x.1 v s = false then s else applyParam x.1 x.2 v s

/-- HOST_WATCHDOG passes without a fetch: autonomy. Every uncompleted QUIESCE has its function resumed too. -/
def hostWatchdog (fetches : List (Nat × DmaFetch)) (s : State) : State :=
  if watchdogRuns s = false ∨ s.hsw.autonomy = true then s
  else
    let s1 := almanac 0x0007 (packFields [(1, 1)]) { s with hsw := { s.hsw with autonomy := true },
                                                            mci := { s.mci with watchdogExpiries := bump s.mci.watchdogExpiries } }
    let s2 := raiseEvent 0x0208 1 0 (hswSync s1)
    let s3 := { s2 with mci := { s2.mci with pendingParams := [] }, winnow := { s2.winnow with pendingDesc := [], pendingMasks := [] } }
    let s4 := (functionCodes ++ [0]).foldl (fun st f => endWaits (.quiesce f) (some stAborted) (some []) st) (resumeHead fetches s3).2
    let all := (paramTable.filter (fun d => scopeByIndex d.scope && d.kind != .fixed)).flatMap (fun d =>
      (List.range (scopeCount d.scope)).map (fun i => (d.id, i)))
    portsResume s4 (all.foldl (fun st x => restoreParam s4 x st) s4)

/-- HOST_WATCHDOG (R496). -/
def execHostWatchdog (fetches : List (Nat × DmaFetch)) (s : State) : Host.Outcome State Fault Refusal := .next (hostWatchdog fetches s)

end Sys2Proof.Machine
end

