-- ==== Sys2Proof/Machine/Setpoint.lean ====
section
/-! DEFINITION. The VCORE setpoint (R38, R41) and the measured words of Tables 25-7 and 25-9. -/

namespace Sys2Proof.Machine

/-- Whether Steward runs: from step 0x07 of BOOT on, and in every mode that the loader does not serve (Table 21-4). -/
def stewardRuns (s : State) : Bool :=
  !s.boot.resetLow && (!s.boot.loader || (s.boot.mode == .boot && decide (7 ≤ s.boot.step)))

/-- VCORE_TARGET, a VSET code (R41). -/
def vcoreTarget (s : State) : Nat := paramNat 0x1400 0 s

/-- The level of the current NVMe power state: PS1 asks for 0.65 V, the others for none (Tables 2-5 and 15-8). -/
def psLevel (s : State) : Option Nat := if s.nvme.powerState = 1 then some 2 else none

/-- The lower of two requests, one of which may be absent. -/
def lowerOf (a : Option Nat) (b : Nat) : Nat := match a with
  | none => b
  | some x => min x b

/-- The lower of the two requests of R41 other than thermal policy. -/
def otherRequests (s : State) : Nat := lowerOf (psLevel s) (vcoreTarget s)

/-- The code driven on VSET[3:0]: 0x4 in DUMP, 0x6 until Steward sets a setpoint, else the lowest request (R38, R41, Table 21-7). -/
def vset (s : State) : Nat :=
  if s.boot.mode = .dump then 4
  else if stewardRuns s then lowerOf s.thermal.limit (otherRequests s)
  else 6

/-- A temperature in 1/8 °C as a 16-bit field. -/
def tempField (t : Int) : Nat := (BitVec.ofInt 16 t).toNat

/-- TJ_MAX: the hottest quadrant sensor (Table 25-7). -/
def tjMax (s : State) : Int :=
  match s.thermal.tjQ with
  | [] => 0
  | t :: ts => ts.foldl max t

/-- Fields of 16 bits in one word, the first lowest. -/
def packWords : List Nat → Nat
  | [] => 0
  | w :: ws => w % 2 ^ 16 + 2 ^ 16 * packWords ws

/-- A request of the VSET word, 0xF where there is none (Table 25-7). -/
def requestField (r : Option Nat) : Nat := r.getD 0xF % 16

/-- The VSET word (Table 25-7). -/
def vsetWord (s : State) : Nat :=
  vset s % 16 + 16 * (vcoreTarget s % 16) + 256 * requestField s.thermal.limit + 4096 * requestField (psLevel s)

/-- SMB_ALERT_N is low: TJ_MAX at or above TEMP_WARN, or THERMTRIP latched (R564). -/
def alertLow (s : State) : Bool := s.thermal.tripLatched || decide ((8 * paramNat 0x0F04 0 s : Int) ≤ tjMax s)

/-- SMB_STATUS (Table 25-7). -/
def smbStatus (s : State) : Nat :=
  flagBit s.thermal.tripLatched + 2 * flagBit (alertLow s) + 4 * flagBit s.boot.resetLow + 8 * flagBit (stewardRuns s)

/-- The sixteen words of Table 25-7 by code. -/
def smbusWords (s : State) : List (BitVec 16) :=
  let t := s.thermal
  let hsw := if s.boot.resetLow then 0x0001 else s.hsw.word
  hsw :: s.hsw.attnSeq :: (([tempField (tjMax s)] ++ t.tjQ.map tempField ++ t.tempHbm.map tempField
    ++ [tempField t.tempVault, t.powerMw / 100, t.vcoreMv, vsetWord s, smbStatus s]).map (BitVec.ofNat 16))

end Sys2Proof.Machine
end

