-- ==== Sys2Proof/Machine/Mci.lean ====
section
/-! DEFINITION. The Maivo Command Interface's own registers and commands (20): BAR0 writes, rings, doorbells, head control, events, telemetry,
dedup and object domains. -/

namespace Sys2Proof.Machine

/-! ## BAR0 writes (R475-R479) -/

/-- Changes a command ring. -/
def modifyRing (n : Nat) (f : CmdRing → CmdRing) (s : State) : State := { s with mci := { s.mci with rings := modifyNth f n s.mci.rings } }

/-- Changes the reply ring. -/
def modifyReply (f : ReplyRing → ReplyRing) (s : State) : State := { s with mci := { s.mci with reply := f s.mci.reply } }

/-- Writes every held reply for which there is room. -/
def drainHeld (s : State) : State := drainReplies s.mci.held.length s

/-- Sets one half of a 64-bit register. -/
def setHalf (old : Nat) (high : Bool) (v : Nat) : Nat :=
  if high then old % 2 ^ 32 + v % 2 ^ 32 * 2 ^ 32 else old / 2 ^ 32 * 2 ^ 32 + v % 2 ^ 32

/-- Whether a command or reply ring may have a size: a power of two from 16 up (Table 20-2). A write of any other size is ignored
(DESIGN CHOICE 185). -/
def ringSizeOk (most v : Nat) : Bool := decide (16 ≤ v) && decide (v ≤ most) && decide (2 ^ v.log2 = v)

/-- A 64-bit RING_BASE after a write of one half; its low 12 bits stay 0, as it is a multiple of 4,096 (DESIGN CHOICE 185). -/
def setBase (old : Nat) (high : Bool) (v : Nat) : Nat := setHalf old high v / 4096 * 4096

/-- Fetches packets from a ring in slot order, as they lie there: two slots where AUTH is set and both are given. The fetch stops at
TAIL, at a failed fetch, and at 256 commands outstanding (R477, R479). -/
def fetchSlots (n : Nat) : List McSlot → State → State
  | [], s => s
  | x :: rest, s =>
    match s.mci.rings[n]? with
    | none => s
    | some r =>
      let need := if hasAuth x.pkt then 2 else 1
      if r.enable = false ∨ r.fault = true ∨ ringFilled r < need ∨ 256 ≤ s.mci.outstanding.length then s
      else if x.fetchError then modifyRing n (fun y => { y with fault := true }) s
      else
        let p : McPacket := { x.pkt with fetchedFrom := n }
        let (good, s1) := acceptPacket x.opcode.toNat p (modifyRing n (fun y => { y with head := (y.head + need) % y.size }) s)
        let s2 := if good = true then modifyRing n (fun y => { y with fetched := y.fetched ++ [{ x with pkt := p }] }) s1 else s1
        fetchSlots n rest s2

/-- MCI_DOORBELL: TAIL is written; one of RING_SIZE or above is ignored and counted. In DUMP no packet is fetched (R477, R497). -/
def doorbell (ring tail : Nat) (slots : List McSlot) (s : State) : State :=
  match s.mci.rings[ring]? with
  | none => s
  | some r =>
    if r.size ≤ tail then { s with mci := { s.mci with badDoorbells := bump s.mci.badDoorbells } }
    else
      let s1 := modifyRing ring (fun x => { x with tail := tail }) s
      if s.boot.mode = .dump then s1 else fetchSlots ring slots s1

/-- RING_CTRL of a command ring: HEAD and TAIL go to 0 as it is enabled. Nothing is enabled before READY (Table 20-3); commands already
fetched run on in a disabled ring (R476). -/
def ringControl (n : Nat) (on : Bool) (s : State) : State :=
  if on = false then modifyRing n (fun r => { r with enable := false }) s
  else if s.boot.ready = false then s
  else modifyRing n (fun r => { r with enable := true, head := 0, tail := 0 }) s

/-- RING_CTRL of the reply ring: enabled, its PHASE goes to 1 and it writes what it holds; disabled, it holds every reply (R476). -/
def replyControl (on : Bool) (s : State) : State :=
  if on = false then modifyReply (fun r => { r with enable := false }) s
  else if s.boot.ready = false then s
  else drainHeld (modifyReply (fun r => { r with enable := true, head := 0, tail := 0, phase := true }) s)

/-- HEAD of the reply ring: slots are free, and held replies go out (R478). -/
def replyHead (head : Nat) (s : State) : State := drainHeld (modifyReply (fun r => { r with head := head }) s)

/-- Writes one 32-bit lane of a command ring's block: base and size while it is disabled, TAIL, RING_CTRL, FAULT where a 1 clears it. What
TAIL gives is fetched with the next MCI_DOORBELL, which brings the packets. -/
def ringLane (n off v : Nat) (s : State) : State :=
  let f := fun (r : CmdRing) =>
    if off = 0x00 then (if r.enable then r else { r with base := setBase r.base false v })
    else if off = 0x04 then (if r.enable then r else { r with base := setBase r.base true v })
    else if off = 0x08 then (if r.enable = true ∨ ringSizeOk 4096 v = false then r else { r with size := v })
    else if off = 0x18 then (if bitOf v 2 then { r with fault := false } else r)
    else r
  if off = 0x0C then doorbell n v [] s else if off = 0x14 then ringControl n (bitOf v 0) s else modifyRing n f s

/-- Writes one lane of the reply ring's block. -/
def replyLane (off v : Nat) (s : State) : State :=
  let f := fun (r : ReplyRing) =>
    if off = 0x00 then (if r.enable then r else { r with base := setBase r.base false v })
    else if off = 0x04 then (if r.enable then r else { r with base := setBase r.base true v })
    else if off = 0x08 then (if r.enable = true ∨ ringSizeOk 65536 v = false then r else { r with size := v })
    else if off = 0x18 then (if bitOf v 2 then { r with fault := false } else r)
    else r
  if off = 0x10 then replyHead v s else if off = 0x14 then replyControl (bitOf v 0) s else drainHeld (modifyReply f s)

/-- A write of CH_CTRL: DISABLE, ENABLE, or a 0 to ENABLE (Table 19-8). -/
def channelControl (c v : Nat) (s : State) : State :=
  if bitOf v 1 then dmaDisable c s else if bitOf v 0 then dmaEnable c none s else modifyDma c (fun ch => { ch with enable := false }) s

/-- A write of CH_STATUS: LOST and HALTED are cleared by a 1; a channel that is no longer halted goes on (Table 19-9). -/
def channelClear (c v : Nat) (s : State) : State :=
  let f := fun (ch : DmaChannel) => { ch with lost := ch.lost && !bitOf v 3, halted := ch.halted && !bitOf v 2 }
  dmaFetchNext c none (modifyDma c f s)

/-- Writes one lane of a control-host channel's block: base and size while it is disabled (R469), TAIL, CH_CTRL, CH_STATUS. -/
def channelLane (c off v : Nat) (s : State) : State :=
  let f := fun (ch : DmaChannel) =>
    if off = 0x00 then (if ch.enable then ch else { ch with base := setBase ch.base false v })
    else if off = 0x04 then (if ch.enable then ch else { ch with base := setBase ch.base true v })
    else if off = 0x08 then (if ch.enable = true ∨ ringSizeOk 65536 v = false then ch else { ch with size := v })
    else ch
  if off = 0x0C then dmaTail c v none s else if off = 0x14 then channelControl c v s else if off = 0x18 then channelClear c v s
  else modifyDma c f s

/-- Writes one 32-bit lane of BAR0; every other register ignores it. -/
def barLane (off v : Nat) (s : State) : State :=
  if 0x1000 ≤ off ∧ off < 0x1200 then ringLane ((off - 0x1000) / 32) (off % 32) v s
  else if 0x1200 ≤ off ∧ off < 0x1220 then replyLane (off % 32) v s
  else if 0x2000 ≤ off ∧ off < 0x2200 then channelLane (240 + (off - 0x2000) / 32) (off % 32) v s
  else s

/-- A write of BAR0: naturally aligned and of 32 or 64 bits, or ignored; nothing reaches BAR0 while PERST_N is low (R475, R504). -/
def registerWrite (offset width value : Nat) (s : State) : State :=
  if s.mci.perstLow then s
  else if width = 4 ∧ offset % 4 = 0 then barLane offset (value % 2 ^ 32) s
  else if width = 8 ∧ offset % 8 = 0 then barLane (offset + 4) (value / 2 ^ 32 % 2 ^ 32) (barLane offset (value % 2 ^ 32) s)
  else s

/-- What reaches the head of an access to BAR0: nothing while PERST_N is low (R504). -/
def fromHost (f : State → State) (s : State) : State := if s.mci.perstLow then s else f s

/-! ## BAR0 reads (R11, R475) -/

/-- One half of a 64-bit register. -/
def halfOf (v : Nat) (high : Bool) : Nat := if high then v / 2 ^ 32 % 2 ^ 32 else v % 2 ^ 32

/-- A lane of a ring block (Tables 20-2 and 20-3); IDLE is 1 in the reply ring's block, which fetches nothing. -/
def ringRead (off base size tail head : Nat) (enable fault phase idle : Bool) : Nat :=
  if off = 0x00 then halfOf base false else if off = 0x04 then halfOf base true else if off = 0x08 then size else if off = 0x0C then tail
  else if off = 0x10 then head else if off = 0x14 then flagBit enable
  else if off = 0x18 then 4 * flagBit fault + 2 * flagBit phase + flagBit idle else 0

/-- A lane of a control-host channel's block; DISABLE reads as 0 (Tables 19-7 to 19-9). -/
def channelRead (off : Nat) (c : DmaChannel) : Nat :=
  if off = 0x00 then halfOf c.base false else if off = 0x04 then halfOf c.base true else if off = 0x08 then c.size
  else if off = 0x0C then c.tail else if off = 0x10 then c.head else if off = 0x14 then flagBit c.enable
  else if off = 0x18 then 8 * flagBit c.lost + 4 * flagBit c.halted + 2 * flagBit c.waiting + flagBit c.idle else 0

/-- What one 32-bit lane of BAR0 reads as: RO, RW and W1C fields their current value, RSV and WO fields zero (Tables 0-3 and 20-1). -/
def barLaneRead (off : Nat) (s : State) : Nat :=
  if off = 0x0000 then 0x3149434D
  else if off = 0x0004 then 0x00010000
  else if off = 0x0008 then mciStatus s
  else if off = 0x000C then s.hsw.attnSeq.toNat * 2 ^ 16 + s.hsw.word.toNat
  else if 0x0010 ≤ off ∧ off < 0x0020 then leNat (slice ((List.range 16).map Config.serial) (off - 0x10) 4)
  else if 0x1000 ≤ off ∧ off < 0x1200 then
    ((s.mci.rings[(off - 0x1000) / 32]?).map (fun r =>
      ringRead (off % 32) r.base r.size r.tail r.head r.enable r.fault true r.fetched.isEmpty)).getD 0
  else if 0x1200 ≤ off ∧ off < 0x1220 then
    let r := s.mci.reply
    ringRead (off % 32) r.base r.size r.tail r.head r.enable r.fault r.phase true
  else if 0x2000 ≤ off ∧ off < 0x2200 then channelRead (off % 32) (dmaAt (240 + (off - 0x2000) / 32) s)
  else 0

/-- A read of BAR0: naturally aligned and of 32 or 64 bits, or all ones (R475). -/
def registerRead (offset width : Nat) (s : State) : Nat :=
  if width = 4 ∧ offset % 4 = 0 then barLaneRead offset s
  else if width = 8 ∧ offset % 8 = 0 then barLaneRead offset s + 2 ^ 32 * barLaneRead (offset + 4) s
  else 0xFFFFFFFF

/-- REGISTER_WRITE (R475, R476). -/
def execRegisterWrite (offset width value : Nat) (s : State) : Host.Outcome State Fault Refusal := .next (registerWrite offset width value s)

/-- RING_ENABLE; ring 16 is the reply ring (Table 20-3). -/
def execRingEnable (ring : Nat) (s : State) : Host.Outcome State Fault Refusal :=
  .next (fromHost (if ring = 16 then replyControl true else ringControl ring true) s)

/-- RING_DISABLE (R476). -/
def execRingDisable (ring : Nat) (s : State) : Host.Outcome State Fault Refusal :=
  .next (fromHost (if ring = 16 then replyControl false else ringControl ring false) s)

/-- REPLY_HEAD_WRITE (R478). -/
def execReplyHeadWrite (head : Nat) (s : State) : Host.Outcome State Fault Refusal := .next (fromHost (replyHead head) s)

/-- MCI_DOORBELL (R477). -/
def execMciDoorbell (ring tail : Nat) (slots : List McSlot) (s : State) : Host.Outcome State Fault Refusal :=
  .next (fromHost (doorbell ring tail slots) s)

/-! ## Head control (Table 20-13) -/

/-- NOP. -/
def execNop (p : McPacket) (s : State) : Host.Outcome State Fault Refusal := .next (mciRun 0x0000 p (ok []) s)

/-- The IDENTIFY record (Table 20-16). -/
def identifyRecord (s : State) : Bytes :=
  padTo 8 (asciiBytes "HX9256") ++ packFields [(1, if Config.gradeL then 0x4C else 0x53), (1, 0xA1), (1, s.boot.headId), (1, 0),
    (4, if s.boot.loader then 0 else runningRelease s)] ++ (List.range 16).map Config.serial ++ leBytes 8 macBase
    ++ padTo 16 s.media.arrayUid ++ packFields [(4, s.time.powerCycles), (4, opHours s)]

/-- IDENTIFY: the record to the buffer, its first 24 bytes in the result. -/
def identifyCmd (p : McPacket) (s : State) : McEnd × State := answerRecords p [identifyRecord s] ((identifyRecord s).take 24) s

/-- IDENTIFY. -/
def execIdentify (p : McPacket) (s : State) : Host.Outcome State Fault Refusal := .next (mciRun 0x0001 p (identifyCmd p) s)

/-- WATCH (R485). -/
def watchCmd (p : McPacket) (s : State) : McEnd × State :=
  let seen := parm p 0 2
  let limit := parm p 4 4
  if 3600000 < limit then refuse stBadParam s
  else if (((s.mci.rings[p.fetchedFrom]?).bind (·.watch))).isSome = true then refuse stBusy s
  else if seen ≠ s.hsw.attnSeq.toNat then ok [] s
  else (.stands, modifyRing p.fetchedFrom (fun r => { r with watch := some { tag := (refOf p).tag, attnSeen := seen, timeout := limit } }) s)

/-- WATCH. -/
def execWatch (p : McPacket) (s : State) : Host.Outcome State Fault Refusal := .next (mciRun 0x0002 p (watchCmd p) s)

/-- WATCH_TIMEOUT: the timeout has won its race; the standing WATCH of the ring ends with ST_OK_INFO (R485). -/
def execWatchTimeout (ring : Nat) (s : State) : Host.Outcome State Fault Refusal :=
  .next (match (s.mci.rings[ring]?).bind (·.watch) with
    | none => s
    | some w =>
      if w.timeout = 0 then s
      else complete { ring := ring, tag := w.tag } stOkInfo [] (modifyRing ring (fun r => { r with watch := none }) s))

/-- AUTH_CHALLENGE: a nonce from the generator, in place of the ring's earlier one (R486). -/
def authChallenge (p : McPacket) (s : State) : McEnd × State :=
  let (n, s1) := draw 16 s
  ok n (modifyRing p.fetchedFrom (fun r => { r with nonce := some { value := n, issued := s1.time.ticks } }) s1)

/-- AUTH_CHALLENGE. -/
def execAuthChallenge (p : McPacket) (s : State) : Host.Outcome State Fault Refusal := .next (mciRun 0x0006 p (authChallenge p) s)

/-- AUTH_NONCE_EXPIRY: the ring's nonce is no longer valid (R486, R487). -/
def execAuthNonceExpiry (ring : Nat) (s : State) : Host.Outcome State Fault Refusal :=
  .next (modifyRing ring (fun r => { r with nonce := none }) s)

/-- Whether the records of an accepted TIME_SET have room: 96 bytes of the early ring or of the staging queue. -/
def markRoom (s : State) : Bool :=
  if almEarly s then decide (s.alm.earlyUsed + almLen 16 + almLen 24 ≤ 196608)
  else decide (stagedBytes s.alm + almLen 16 + almLen 24 ≤ stagingSize) && decide (s.alm.newestSeq + 2 ≤ almLastSeq)

/-- TIME_SET (R51, R52). One whose time mark would be lost for want of room ends with ST_BUSY and changes nothing, since it could not
complete (DESIGN CHOICE 134). -/
def timeSet (p : McPacket) (s : State) : McEnd × State :=
  let t := parm p 0 8
  let now := arrayTime s
  if s.time.resumed = false then refuse stBusy s
  else if t = 0 then refuse stBadParam s
  else
    let needs := !s.time.arraySet || decide (now + 86400000000 < t)
    let (good, s1) := if needs || hasAuth p then authCheck 0x0007 p s else (true, s)
    if good = false ∧ (needs = true ∨ hasAuth p = true) then refuse stAuthFailed s1
    else if t < now then (.reply stOkInfo (leBytes 8 now ++ leBytes 8 now), s1)
    else if markRoom s1 = false then refuse stBusy s1
    else
      let s2 := almanac 0x0002 (leBytes 8 now ++ leBytes 8 t)
        { s1 with time := { s1.time with arraySet := true, arrayBase := t, arrayTick := s1.time.ticks, slewing := false } }
      let s3 := almanac 0x0601 (timeMark s2) (hswSync s2)
      let res := leBytes 8 now ++ leBytes 8 t
      if almEarly s3 then ok res s3
      else
        let r := waitOn p (.almUnit s3.alm.newestSeq) res s3
        (r.1, almDrain r.2)

/-- TIME_SET. -/
def execTimeSet (p : McPacket) (s : State) : Host.Outcome State Fault Refusal := .next (mciRun 0x0007 p (timeSet p) s)

/-- ATTN_ACK: clears the bits of the mask; a standing condition keeps its bit (R483). -/
def attnAck (p : McPacket) (s : State) : McEnd × State :=
  let mask := parm p 0 2
  if (BitVec.ofNat 16 mask) &&& ~~~attnMask ≠ 0 then refuse stBadParam s
  else
    let s1 := { s with hsw := { s.hsw with attn := s.hsw.attn &&& ~~~(BitVec.ofNat 16 mask) } }
    let s2 := if bitOf mask bitAlmanac then modifyAlm (fun a => { a with overwriteTold := false }) s1 else s1
    ok [] (hswSync s2)

/-- ATTN_ACK. -/
def execAttnAck (p : McPacket) (s : State) : Host.Outcome State Fault Refusal := .next (mciRun 0x0009 p (attnAck p) s)

/-! ## Events and counters (R498, R499) -/

/-- An event entry (Table 20-18). -/
def eventBytes (e : McEvent) : Bytes :=
  packFields [(2, e.code), (2, e.repeats), (4, 0), (8, e.detail), (8, e.time), (6, e.almSeq), (2, 0)]

/-- Tells of dropped events once the queue has room (R498). -/
def tellDropped (s : State) : State :=
  if s.mci.eventsDropped = 0 ∨ 1024 ≤ s.mci.events.length then s
  else queueEvent 0x0207 s.mci.eventsDropped 0 { s with mci := { s.mci with eventsDropped := 0 } }

/-- EVENT_READ: entries leave the queue for the buffer. -/
def eventRead (p : McPacket) (s : State) : McEnd × State :=
  let want := min (parm p 0 2) s.mci.events.length
  let n := min want (128 * p.dataPages.toNat)
  if p.busError then busFail p s
  else
    let out := s.mci.events.take n
    let s1 := tellDropped { s with mci := { s.mci with events := s.mci.events.drop n } }
    (.reply (if n = want then stOk else stOkInfo) (leBytes 2 n ++ leBytes 2 s1.mci.events.length),
      hswSync (bufferWrite p (out.flatMap eventBytes) s1))

/-- EVENT_READ. -/
def execEventRead (p : McPacket) (s : State) : Host.Outcome State Fault Refusal := .next (mciRun 0x0A02 p (eventRead p) s)

/-- MCI_STATS: the counters of R499 in order. -/
def mciStats (p : McPacket) (s : State) : McEnd × State :=
  let m := s.mci
  answerRecords p [[m.mciCommands, m.badPackets, m.badDoorbells, m.authFailures, m.watchdogExpiries, m.replyRingFull, m.eventsLost].flatMap (leBytes 8)] [] s

/-- MCI_STATS. -/
def execMciStats (p : McPacket) (s : State) : Host.Outcome State Fault Refusal := .next (mciRun 0x0A03 p (mciStats p) s)

/-- The pace word of a quadrant (Table 2-2). -/
def paceBits (w : PaceWord) : Nat :=
  w.paceMin % 2 ^ 16 * 2 ^ 48 + w.paceMax % 2 ^ 16 * 2 ^ 32 + w.pace % 2 ^ 16 * 2 ^ 16 + 2 * flagBit w.stale + flagBit w.parked

/-- Words of an ingest instance (Table 3-7). -/
def ingestWords (c : IngestCounters) : List Nat :=
  [c.chunksIn, c.zeroChunks, c.hitsWinnow, c.hitsFilterPage, c.filterFalsePos, c.runAheadSquash, c.runAheadCommit, c.verifyFail,
    c.rawStored, c.compareMismatch, c.refcountSaturated, c.mirrorLate, c.balesSealedTimeout]

/-- Words of a read instance (R109). -/
def readWords (c : ReadCounters) : List Nat :=
  [c.cacheHits, c.cacheMisses, c.mediaReads, c.rebuilds, c.readLate, c.unrecovered, c.raIssued, c.raUsed, c.raDropped]

/-- Code of a park state (Table 20-17). -/
def parkCode : ParkState → Nat
  | .running => 0 | .draining => 1 | .parked => 2 | .waking => 3

/-- Words of a harrow (Tables 5-11, 20-17). -/
def harrowWords (h : Nat) (s : State) : List Nat :=
  let x := harrowAt h s
  [x.ticketsRun, x.gleanedIn, x.gleanedOut, x.keyConflicts, x.spills, x.rootRefused, x.epochsOpened, x.commits, x.squashes,
    x.tombstones, x.provRefused, x.watchdog, x.parkAbandoned, x.budget, parkCode x.park,
    (((s.tines.tines.drop (16 * h)).take 16).filter (·.quarantined)).length,
    ((((s.voxca[h]?).map (·.compressors)).getD []).filter (·.quarantined)).length]

/-- Words of an engine slice (Table 7-8). -/
def sliceWords (v : VoxcaSlice) : List Nat :=
  [v.compInBytes, v.compOutBytes, v.compAbandoned, v.decompOutBytes, v.decodeErrors, v.decompDisagree]

/-- Words of group 0x06: Table 25-9, then R517. -/
def headWords (s : State) : List Nat :=
  let t := s.thermal
  let b := s.boot
  [tempField (tjMax s), packWords (t.tjQ.map tempField), packWords (t.tempHbm.map tempField), tempField t.tempVault,
    t.vcoreMv % 2 ^ 16 + vsetWord s * 2 ^ 16, t.powerMw, t.energyMj, (t.parked.eraseDups.map (2 ^ ·)).sum, t.lifeUsed, t.thermalSteps, t.throttleMs, t.supplyExcursions, t.thermTrips, b.bootStepFailures, b.selfResets, b.pwrFailGlitches,
    b.dumps, b.quietStops]

/-- Words of the Sheaf counters (R413). -/
def sheafWords (c : SheafCounters) : List Nat :=
  [c.verbs, c.forwarded, c.committed, c.aborted, c.expired, c.conflicts, c.fallbacks, c.putBytes, c.getBytes, c.holds, c.refusals]

/-- Words of the NVMe counters (R390). -/
def nvmeWords (c : NvmeCounters) : List Nat :=
  [c.connects, c.rejects, c.katoExpired, c.cidConflicts, c.abortsCaught, c.abortsMissed, c.aenSent, c.psTransitions]

/-- Words of the snapshot, replication and export counters (R306). -/
def replWords (c : ReplCounters) : List Nat :=
  [c.snapPagesCopied, c.snapDeleteSteps, c.frames, c.chunksSent, c.chunksSkipped, c.aborts, c.lateFrames, c.exportFrames, c.exportBytes]

/-- Instances of a telemetry group; none for a group that Table 20-17 does not list. -/
def groupSize (g : Nat) : Option Nat :=
  match g with
  | 1 => some 4 | 2 => some 4 | 3 => some 4 | 4 => some 32 | 5 => some 32 | 6 => some 1 | 7 => some 1 | 8 => some 1 | 9 => some 1
  | 10 => some 4 | 11 => some 1 | _ => none

/-- Words of an instance of a group. -/
def groupWords (g i : Nat) (s : State) : List Nat :=
  match g with
  | 1 => [paceBits (s.time.pace.getD i resetPace)]
  | 2 => ((s.ingest.counters[i]?).map ingestWords).getD []
  | 3 => ((s.read.counters[i]?).map readWords).getD []
  | 4 => harrowWords i s
  | 5 => ((s.voxca[i]?).map sliceWords).getD []
  | 6 => headWords s
  | 7 => sheafWords s.sheaf.counters
  | 8 => nvmeWords s.nvme.counters
  | 9 => replWords s.repl.counters
  | 10 => ((s.ports.counters[i]?).map (fun c => [c.hits, c.misses, c.evictions, c.mhbFull])).getD []
  | _ => [s.ports.lzGrants, s.ports.lzAccessNaks, s.ports.lzAbandoned, s.ports.lzQuarantined]

/-- A telemetry record (R498). -/
def telemetryRecord (g i : Nat) (s : State) : Bytes :=
  let w := groupWords g i s
  leBytes 8 (w.length * 2 ^ 16 + i * 256 + g) ++ w.flatMap (leBytes 8)

/-- TELEMETRY_GET. -/
def telemetryGet (p : McPacket) (s : State) : McEnd × State :=
  let g := parm p 0 1
  let first := parm p 1 1
  let count := parm p 2 1
  match groupSize g with
  | none => refuse stBadParam s
  | some n =>
    if count = 0 ∨ n < first + count then refuse stBadParam s
    else answerRecords p ((List.range count).map (fun k => telemetryRecord g (first + k) s)) [] s

/-- TELEMETRY_GET. -/
def execTelemetryGet (p : McPacket) (s : State) : Host.Outcome State Fault Refusal := .next (mciRun 0x0A00 p (telemetryGet p) s)

/-! ## Telemetry clear -/

/-- Counters of the link ends. -/
def clearLink (e : LinkEnd) : LinkEnd := { e with crcErrors := 0, replayCount := 0, retrains := 0, linkDowns := 0 }

/-- Counters of the work model and the engines (R131, R151, R170, R202). -/
def clearEngines (s : State) : State :=
  { s with
    tines := { s.tines with harrows := s.tines.harrows.map (fun h => { h with
      ticketsRun := 0, gleanedIn := 0, gleanedOut := 0, keyConflicts := 0, spills := 0, rootRefused := 0, epochsOpened := 0, commits := 0
      squashes := 0, tombstones := 0, provRefused := 0, watchdog := 0, parkAbandoned := 0 }) }
    winnow := { s.winnow with counters := resetWinnow.counters }
    voxca := s.voxca.map (fun v => { v with compInBytes := 0, compOutBytes := 0, compAbandoned := 0, decompOutBytes := 0, decodeErrors := 0
                                            decompDisagree := 0 })
    cipher := { s.cipher with complexes := s.cipher.complexes.map (fun c => { c with
      requests := 0, bytes := 0, tagFails := 0, cipherFaults := 0, forwarded := 0, slotLoads := 0, slotEvictions := 0 }) } }

/-- Counters of the memories, the pools and the channels (R440, R458, R474), with FREE_MIN at the present count. -/
def clearMemories (s : State) : State :=
  { s with
    mem := { s.mem with nsCe := resetMem.nsCe, nsUe := resetMem.nsUe, fsCe := resetMem.fsCe, fsUe := resetMem.fsUe
                        counters := resetMem.counters, locationPaged := 0 }
    granary := { s.granary with lists := s.granary.lists.map (fun l => { l with
      freeMin := freeNow l, allocs := 0, frees := 0, waits := 0, lowEntries := 0, staleReleases := 0, foreignReleases := 0
      doubleReleases := 0, squashLate := 0, squashFrees := 0, refFull := 0, listCuts := 0 }) }
    dma := s.dma.map (fun c => { c with descriptors := 0, bytes := 0, errors := 0, mismatches := 0, ownStalls := 0, badDoorbells := 0
                                        disables := 0 }) }

/-- Counters of ingest, read, reclaim and the links (R89, R109, R238, R260, R330). -/
def clearPaths (s : State) : State :=
  { s with
    ingest := { s.ingest with counters := resetIngest.counters }
    read := { s.read with counters := resetRead.counters }
    media := { s.media with counters := resetMedia.counters }
    furrow := s.furrow.map (fun f => { f with link := clearLink f.link, lateResponses := 0, leaseLost := 0 })
    headland := { s.headland with
      links := s.headland.links.map clearLink
      counters := { (resetHeadland 0).counters with yields := s.headland.counters.yields, takeovers := s.headland.counters.takeovers
                                                    returns := s.headland.counters.returns } } }

/-- Counters of the services and the front ports (R306, R366, R390, R413). -/
def clearServices (s : State) : State :=
  { s with
    repl := { s.repl with counters := resetRepl.counters }
    nvme := { s.nvme with counters := resetNvme.counters }
    sheaf := { s.sheaf with counters := resetSheaf.counters }
    ports := { s.ports with
      lports := s.ports.lports.map (fun l => { l with counters := resetPortCounters })
      counters := s.ports.counters.map (fun c => { c with hits := 0, misses := 0, evictions := 0, mhbFull := 0 })
      lzGrants := 0, lzAccessNaks := 0, lzAbandoned := 0 } }

/-- Counters of the head itself (R499, R517, R550, R572), with PACE_MIN and PACE_MAX. -/
def clearHead (s : State) : State :=
  { s with
    time := { s.time with pace := s.time.pace.map (fun w => { w with paceMin := 0xFFFF, paceMax := 0 }) }
    mci := { s.mci with mciCommands := 0, badPackets := 0, badDoorbells := 0, authFailures := 0, watchdogExpiries := 0, replyRingFull := 0
                        eventsLost := 0 }
    boot := { s.boot with bootStepFailures := 0, selfResets := 0, pwrFailGlitches := 0, dumps := 0, quietStops := 0 }
    fw := { s.fw with piecesPut := 0, piecesRejected := 0, activations := 0 }
    thermal := { s.thermal with energyMj := 0, thermalSteps := 0, throttleMs := 0, supplyExcursions := 0 } }

/-- TELEMETRY_CLEAR: every counter so marked, and an Almanac record, for which Table 22-2 lists no type (DESIGN CHOICE 28). -/
def telemetryClear (s : State) : McEnd × State :=
  ok [] (almanac (Config.recordType 0x0A01) [] (clearHead (clearServices (clearPaths (clearMemories (clearEngines s))))))

/-- TELEMETRY_CLEAR. -/
def execTelemetryClear (p : McPacket) (s : State) : Host.Outcome State Fault Refusal := .next (mciRun 0x0A01 p telemetryClear s)

/-! ## Tickets (R110) -/

/-- A ticket's bytes (Table 5-1). -/
def ticketBytes (t : Ticket) : Bytes :=
  let flags := 64 * (t.prio % 4) + 8 * flagBit t.wait + 4 * flagBit t.tomb + 2 * flagBit t.pinned + flagBit t.orderKey.isSome
  packFields [(1, t.type), (1, flags), (1, t.home % 32), (1, t.handles.length), (4, t.orderKey.getD 0), (4, provWord t.epoch), (4, t.parent)]
    ++ padTo 24 (t.handles.flatMap (leBytes 4)) ++ padTo 16 t.args ++ leBytes 8 t.stamp

/-- TICKET_DUMP: the tickets of a queue from a slot on, in slot order. -/
def ticketDump (p : McPacket) (s : State) : McEnd × State :=
  let h := parm p 0 1
  let q := parm p 1 1
  let first := parm p 4 4
  if 32 ≤ h ∨ 4 ≤ q ∨ 2 ^ 19 ≤ first then refuse stBadParam s
  else
    let ts := sortByKey (fun (t : Ticket) => [(refSlot t.ref : Int)]) ((queueAt h q s).filter (fun t => decide (first ≤ refSlot t.ref)))
    answerRecords p (ts.map ticketBytes) [] s

/-- TICKET_DUMP (R110). -/
def execTicketDump (p : McPacket) (s : State) : Host.Outcome State Fault Refusal := .next (mciRun 0x0F01 p (ticketDump p) s)

/-! ## Dedup domains -/

/-- DOMAIN_CREATE: the domain's entry, then epoch 1 as an advance creates it (R194, Table 8-9). -/
def domainCreate (p : McPacket) (s : State) : McEnd × State :=
  let d := parm p 0 1
  let kek := parm p 1 1
  let level := parm p 2 1
  let policy := parm p 3 1
  let given := bitOf (parm p 4 1) 0
  if journals s = false then refuse stWrongMode s
  else if (domainAt d s).isSome = true ∨ kekSlot kek = false ∨ 9 < level ∨ 3 < policy ∨ (given = true ∧ p.data.length < 32) then refuse stBadParam s
  else if given = true ∧ p.busError = true then busFail p s
  else if isKeyOwner d s = false then
    (if s.headland.peerPresent then forwardMci 0x0200 p s else refuse stWrongMode s)
  else
    match gauntletKey kek s with
    | none => refuse stAuthFailed s
    | some k =>
      let (salt, s1) := if given then (p.data.take 32, s) else draw 32 s
      beginEpoch p d kek 1 k [] (changeTable (.domain d kek level policy salt) s1).2

/-- DOMAIN_CREATE. -/
def execDomainCreate (p : McPacket) (s : State) : Host.Outcome State Fault Refusal := .next (mciRun 0x0200 p (domainCreate p) s)

/-- KEY_DOMAIN_BIND: the domain's key-encryption key slot, refused once the domain holds chunks (Table 8-12); the change is journaled, so
that both heads keep it. -/
def keyDomainBind (p : McPacket) (s : State) : McEnd × State :=
  let d := parm p 0 1
  match domainAt d s with
  | none => refuse stBadParam s
  | some x =>
    if kekSlot (parm p 1 1) = false then refuse stBadParam s
    else if liveEpochs x ≠ [] then refuse stBusy s
    else if journals s = false then refuse stWrongMode s
    else
      let (m, s1) := changeTable (.bind d (parm p 1 1)) s
      endMirrored p m [] s1

/-- KEY_DOMAIN_BIND. -/
def execKeyDomainBind (p : McPacket) (s : State) : Host.Outcome State Fault Refusal := .next (mciRun 0x0304 p (keyDomainBind p) s)

/-- DOMAIN_DELETE: ST_BUSY while anything belongs to the domain. -/
def domainDelete (p : McPacket) (s : State) : McEnd × State :=
  let d := parm p 0 1
  match domainAt d s with
  | none => refuse stBadParam s
  | some x =>
    if journals s = false then refuse stWrongMode s
    else if s.map.namespaces.any (fun n => n.domain == d) = true ∨ s.map.objdoms.any (fun o => o.domain == d) = true ∨ liveEpochs x ≠ [] then
      refuse stBusy s
    else
      let (m, s1) := changeTable (.domainGone d) s
      endMirrored p m [] s1

/-- DOMAIN_DELETE. -/
def execDomainDelete (p : McPacket) (s : State) : Host.Outcome State Fault Refusal := .next (mciRun 0x0201 p (domainDelete p) s)

/-- DOMAIN_GET: the domain's root entry. -/
def domainGet (p : McPacket) (s : State) : McEnd × State :=
  match domainAt (parm p 0 1) s with
  | none => refuse stBadParam s
  | some x => answerRecords p [domainEntry x true] [] s

/-- DOMAIN_GET. -/
def execDomainGet (p : McPacket) (s : State) : Host.Outcome State Fault Refusal := .next (mciRun 0x0202 p (domainGet p) s)

/-! ## Object domains -/

/-- OBJDOM_CREATE. -/
def objdomCreate (p : McPacket) (s : State) : McEnd × State :=
  let id := parm p 0 1
  let d := parm p 1 1
  let owner := parm p 2 1
  if journals s = false then refuse stWrongMode s
  else if (objdomAt id s).isSome = true ∨ (domainAt d s).isNone = true ∨ 1 < owner then refuse stBadParam s
  else
    let (m, s1) := changeTable (.objdom { id := id, domain := d, owner := owner, clients := [] }) s
    endMirrored p m [] s1

/-- OBJDOM_CREATE. -/
def execObjdomCreate (p : McPacket) (s : State) : Host.Outcome State Fault Refusal := .next (mciRun 0x0230 p (objdomCreate p) s)

/-- Whether a version is under a standing hold (R405, R408). -/
def holdStands (o : ObjRecord) (s : State) : Bool := decide (arrayTime s < o.holdUntil)

/-- The service connections of an object domain that is gone are closed, and its open PUTs end with them. -/
def objdomDropped (id : Nat) (s : State) : State :=
  let qps := (s.sheaf.conns.filter (fun c => c.objDomain == id)).map (·.qp)
  closeAll (fun c => qps.contains c.index) s

/-- OBJDOM_DELETE: every object is deleted, unless a hold stands (R408). -/
def objdomDelete (p : McPacket) (s : State) : McEnd × State :=
  let id := parm p 0 1
  if journals s = false then refuse stWrongMode s
  else if (objdomAt id s).isNone = true then refuse stBadParam s
  else if s.map.objects.any (fun o => o.objDomain == id && holdStands o s) = true ∨ (snapsOf 2 id s).any (fun x => snapInUse x s) = true then refuse stBusy s
  else
    let (m, s1) := changeTable (.objdomGone id) (objdomDropped id s)
    endMirrored p m [] (settle s1)

/-- OBJDOM_DELETE. -/
def execObjdomDelete (p : McPacket) (s : State) : Host.Outcome State Fault Refusal := .next (mciRun 0x0231 p (objdomDelete p) s)

/-- CLIENT_SET: adds or removes a client of an object domain (R391). -/
def clientSet (p : McPacket) (s : State) : McEnd × State :=
  let op := parm p 1 1
  let client := parm p 8 16
  if journals s = false then refuse stWrongMode s
  else
    match objdomAt (parm p 0 1) s with
    | none => refuse stBadParam s
    | some o =>
      let there := o.clients.contains client
      if (op = 1 ∧ there = true) ∨ (op = 2 ∧ there = false) ∨ op = 0 ∨ 2 < op then refuse stBadParam s
      else if op = 1 ∧ 256 ≤ o.clients.length then refuse stNoResource s
      else
        let now := if op = 1 then o.clients ++ [client] else o.clients.filter (· != client)
        let (m, s1) := changeTable (.objdom { o with clients := now }) s
        endMirrored p m [] s1

/-- CLIENT_ADD (R391). -/
def execClientAdd (p : McPacket) (s : State) : Host.Outcome State Fault Refusal := .next (mciRun 0x0232 p (clientSet p) s)

/-- CLIENT_REMOVE (R391). -/
def execClientRemove (p : McPacket) (s : State) : Host.Outcome State Fault Refusal := .next (mciRun 0x0232 p (clientSet p) s)

/-- HOLD_CLEAR: ends a hold as RELEASE_HOLD does, whatever HOLD_MODE says (R407); on the domain's ingest owner. The record's type is not
listed (DESIGN CHOICE 28). -/
def holdClear (p : McPacket) (s : State) : McEnd × State :=
  let number := parm p 8 8
  match objdomAt (parm p 0 1) s, objectAt number s with
  | some d, some o =>
    if o.objDomain ≠ d.id then refuse stBadParam s
    else if journals s = false then refuse stWrongMode s
    else if d.owner ≠ s.boot.headId ∧ s.headland.peerPresent = true ∧ p.fetchedFrom < peerRing ∧ baseMode s = .active then forwardMci 0x0233 p s
    else
      let (_, m, s1) := place (leNat (o.key.take 1) % 4) (.object { o with holdFlags := 0, holdUntil := 0 }) s
      let s2 := almanac (Config.recordType 0x0233) (packFields [(1, d.id), (8, number)]) (sweepVersions d.id s1)
      endMirrored p m [] s2
  | _, _ => refuse stBadParam s

/-- HOLD_CLEAR (R407). -/
def execHoldClear (p : McPacket) (s : State) : Host.Outcome State Fault Refusal := .next (mciRun 0x0233 p (holdClear p) s)

end Sys2Proof.Machine
end

