-- ==== Sys2Proof/Machine/Tines.lean ====
section
/-! DEFINITION. Dispatch, gleaning, the run-ahead window, squash and parking (05). -/

namespace Sys2Proof.Machine

/-- Changes a tine. -/
def modifyTine (t : Nat) (f : Tine → Tine) (s : State) : State :=
  { s with tines := { s.tines with tines := modifyNth f t s.tines.tines } }

/-- Whether a tine takes tickets: it exists and is not quarantined (R116). -/
def tineUsable (t : Nat) (s : State) : Bool := ((s.tines.tines[t]?).map (fun x => !x.quarantined)).getD false

/-- Whether a home tine may dispatch a ticket in its harrow's park state (Table 5-9). -/
def mayDispatch (p : ParkState) (t : Ticket) : Bool :=
  match p with
  | .running => true
  | .draining => t.pinned
  | _ => false

/-- Whether the tines of a harrow pass over a ticket because no compressor of theirs is in service, while the chip has one
(R165). -/
def skipsCompress (h : Nat) (t : Ticket) (s : State) : Bool := t.type == compressType && noCompress h s && !allQuarantined s

/-- Whether a tine of a harrow may take a ticket of its own queues. -/
def homeEligible (h : Nat) (t : Ticket) (s : State) : Bool := eligible t s && !skipsCompress h t s

/-- Counts a conflict on an ordering key where one was met (Table 5-11). -/
def noteConflict (h : Nat) (met : Bool) (s : State) : State :=
  if met then modifyHarrow h (fun x => { x with keyConflicts := bump x.keyConflicts }) s else s

/-- The queues a dispatch from queue `q` has passed over: those of higher priority, unless it serves the minimum share of `q`. -/
def passedQueues (hw : Harrow) (q : Nat) : List Ticket := if shareQueue hw.dispatches = some q then [] else (hw.queues.take q).flatten

/-- A free tine takes the oldest eligible ticket of the queue its harrow serves, and runs it (R114, R117, R120). A tine whose ticket still
waits for a spill entry is not free (R113). -/
def ticketDispatch (tine : Nat) (run : TicketRun) (s0 : State) : State :=
  if !tineUsable tine s0 then s0
  else
    let (free, s) := freeTine tine s0
    let h := tineHarrow tine
    let hw := harrowAt h s
    let may := fun t => homeEligible h t s && mayDispatch hw.park t
    if !free then s
    else
      match chooseQueue hw may with
      | none => noteConflict h (hw.queues.any (fun q => keyConflict q s)) s
      | some q =>
        let ts := hw.queues.getD q []
        match ts.find? may with
        | none => s
        | some t =>
          let s1 := noteConflict h (keyConflict (passedQueues hw q ++ ts.takeWhile (fun x => x != t)) s) s
          runOn tine t run (modifyHarrow h (fun x => { x with dispatches := (x.dispatches + 1) % 64 }) (dequeue t s1))

/-- A free tine dispatches a ticket of its home harrow (R114). -/
def execTicketDispatch (tine : Nat) (run : TicketRun) (s : State) : Host.Outcome State Fault Refusal :=
  .next (ticketDispatch tine run s)

/-- The harrows a tine of harrow `h` searches within a radius, in order (R119). -/
def gleanOrder (h radius : Nat) : List Nat :=
  let q := h / 8
  let own := (List.range 7).map (fun i => 8 * q + (h % 8 + 1 + i) % 8)
  match radius with
  | 0 => []
  | 1 => own
  | _ => own ++ [1, 2, 3].flatMap (fun d => (List.range 8).map (fun i => 8 * ((q + d) % 4) + i))

/-- Whether a thief may glean a ticket (R119, R122): eligible and not pinned. -/
def mayGlean (t : Ticket) (s : State) : Bool := eligible t s && !t.pinned

/-- Whether a tine of harrow `thief` may glean a ticket. -/
def thiefMay (thief : Nat) (t : Ticket) (s : State) : Bool := mayGlean t s && !skipsCompress thief t s

/-- The tickets of a harrow that a thief may glean. -/
def gleanable (thief h : Nat) (s : State) : List Ticket := ((harrowAt h s).queues.flatten).filter (fun t => thiefMay thief t s)

/-- The ticket with the highest STAMP, the later one of two with an equal one. -/
def newestOf (ts : List Ticket) : Option Ticket :=
  ts.foldl (fun best t => match best with
    | none => some t
    | some b => if b.stamp ≤ t.stamp then some t else some b) none

/-- The harrow in NO_COMPRESS and the newest eligible COMPRESS ticket there that an idle tine takes before it gleans (R165). -/
def rescueCompress (h : Nat) (s : State) : Option (Nat × Ticket) :=
  if noCompress h s then none
  else
    (gleanOrder h 2).findSome? (fun v =>
      if noCompress v s then
        (newestOf (((harrowAt v s).queues.flatten).filter (fun t => eligible t s && t.type == compressType))).map (fun t => (v, t))
      else none)

/-- Takes a ticket of another harrow and runs it (R121, Table 5-11). -/
def takeGleaned (tine v : Nat) (t : Ticket) (run : TicketRun) (s : State) : State :=
  let s2 := modifyHarrow (tineHarrow tine) (fun x => { x with gleanedIn := bump x.gleanedIn })
    (modifyHarrow v (fun x => { x with gleanedOut := bump x.gleanedOut }) (dequeue t s))
  runOn tine t run s2

/-- The tickets that a glean of a ticket of a victim's queue has passed over: those of its queues of higher priority and the newer ones of
its queue, pinned ones apart. -/
def gleanPassed (v : Nat) (t : Ticket) (s : State) : List Ticket :=
  let qs := (harrowAt v s).queues
  (((qs.takeWhile (fun q => !q.contains t)).flatten)
    ++ ((qs.find? (fun q => q.contains t)).getD []).reverse.takeWhile (fun x => x != t)).filter (fun x => !x.pinned)

/-- An idle tine takes the newest ticket that may be gleaned from the victim's highest-priority queue that holds one, and
runs it (R119-R121). -/
def glean (tine : Nat) (run : TicketRun) (s0 : State) : State :=
  let h := tineHarrow tine
  if !tineUsable tine s0 then s0
  else
    let (free, s) := freeTine tine s0
    if !free ∨ (harrowAt h s).park ≠ .running ∨ ((harrowAt h s).queues.flatten).any (fun t => homeEligible h t s) = true then s
    else
      match rescueCompress h s with
      | some (v, t) => takeGleaned tine v t run s
      | none =>
        match (gleanOrder h (paramNat 0x0500 (h / 8) s)).find? (fun v => decide (paramNat 0x0501 0 s ≤ (gleanable h v s).length)) with
        | none => s
        | some v =>
          let ts := (((harrowAt v s).queues.find? (fun q => q.any (fun t => thiefMay h t s))).getD [])
          match ts.reverse.find? (fun t => thiefMay h t s) with
          | none => s
          | some t => takeGleaned tine v t run (noteConflict h (keyConflict (gleanPassed v t s) s) s)

/-- An idle tine gleans (R119). -/
def execGlean (tine : Nat) (run : TicketRun) (s : State) : Host.Outcome State Fault Refusal := .next (glean tine run s)

/-! ## Watchdog (R116) -/

/-- Quarantined tines of a harrow (R131). -/
def quarantinedTines (h : Nat) (s : State) : Nat :=
  ((List.range 16).filter (fun i => !tineUsable (16 * h + i) s)).length

/-- Notes an expiry of a tine: the second within 1 h quarantines it, and eight quarantined tines park the harrow for good. -/
def tineExpiry (tine : Nat) (s : State) : State :=
  let now := s.time.ticks
  let h := tineHarrow tine
  let s1 := modifyTine tine (fun t =>
    let recent := now :: t.expiries.filter (fun x => decide (now < x + sTicks 3600))
    { expiries := recent, quarantined := t.quarantined || decide (2 ≤ recent.length) }) s
  let s2 := modifyHarrow h (fun x => { x with watchdog := bump x.watchdog }) s1
  if 8 ≤ quarantinedTines h s2 then applyParkedSet (modifyHarrow h (fun x => { x with permanentlyParked := true }) s2) else s2

/-- Whether a running ticket's allocation waits, which suspends its watchdog (R457). -/
def waitsForBuffer (t : Ticket) (s : State) : Bool :=
  s.granary.lists.any (fun l => l.waiters.any (fun w => w.unit == t.home && w.epoch == t.epoch))

/-- The operation of a capsule's ticket ends with ST_INTERNAL: the NVMe command or the Sheaf request that its ARGS name (R116). -/
def failCapsule (t : Ticket) (s : State) : State :=
  let qp := leNat (t.args.take 4)
  let id := leNat ((t.args.drop 4).take 4)
  if t.type ≠ 0x01 then s
  else if (nvCmd qp id s).isSome then nvEnd qp id 0 0 nvInternal s.alm.newestSeq s
  else
    match shReq qp id s with
    | none => s
    | some r => shEnd qp id (shReply (shVerb r.bytes) id stInternal 0 false [] s) s

/-- A ticket ends after its second expiry: provisional work is squashed; real work ends with a record, and with ST_INTERNAL for its
operation (R116). -/
def endTicket (t : Ticket) (tine : Nat) (quarantined : Bool) (s : State) : State :=
  match t.epoch.filter (fun e => epochState e s == .opened) with
  | some e => epochDone t.epoch (squashEpoch e s)
  | none =>
    failCapsule t (emit (.ticketFailed t.ref stInternal.toNat)
      (almanac 0x0105 (packFields [(1, tineHarrow tine), (2, tine), (1, t.type), (1, flagBit quarantined)]) (epochDone t.epoch s)))

/-- A ticket that its tine has lost is queued again (R116); where the spill entries are full its tine keeps it. -/
def requeueTicket (tine : Nat) (r : RunningTicket) (s : State) : State :=
  let t := { r.ticket with expiries := 1 }
  match enqueue t s with
  | some s1 => s1
  | none => { s with tines := { s.tines with
      running := s.tines.running ++ [{ tine := tine, ticket := t, started := s.time.ticks, left := [] }] } }

/-- The watchdog of a tine expires: the ticket's cipher requests are aborted (R177), and it is queued again once; a second expiry ends
it. -/
def ticketWatchdog (tine : Nat) (s : State) : State :=
  match s.tines.running.find? (fun r => r.tine == tine) with
  | none => s
  | some r =>
    if waitsForBuffer r.ticket s then s
    else
      let s1 := abortEngine r.ticket (abortJobs (fun j => j.tine == tine) (tineExpiry tine (leaveTine tine s)))
      if r.ticket.expiries = 0 then requeueTicket tine r s1 else endTicket r.ticket tine (!tineUsable tine s1) s1

/-- A ticket ends as if its watchdog had expired twice (Table 17-1). -/
def stopTicket (t : Ticket) (s : State) : State :=
  match s.tines.running.find? (fun r => r.ticket.ref == t.ref) with
  | some r => endTicket t r.tine false (abortJobs (fun j => j.tine == r.tine) (leaveTine r.tine s))
  | none => endTicket t (16 * t.home) false (dequeue t s)

/-! ## Squash and budget -/

/-- A squash request: it decides an OPEN epoch, and is answered with the state of one decided already (R124, R126, Table 5-8). -/
def execEpochSquash (epoch : EpochRef) (s : State) : Host.Outcome State Fault Refusal := .next (squashEpoch epoch (answerDecided epoch s))

/-- The budget of a harrow after a 1 ms window (R81). -/
def nextBudget (limit : Nat) (h : Harrow) : Nat :=
  if h.windowDecided < 2 * h.windowSquashes then max (h.budget / 2) (min 16 limit)
  else if 4 * h.windowSquashes < h.windowDecided then min (h.budget + 16) limit
  else h.budget

/-- Steward's 1 ms window ends: every harrow's budget is adapted (R81). -/
def runAheadWindow (s : State) : State :=
  (List.range 32).foldl (fun st h => modifyHarrow h (fun x =>
    { x with budget := nextBudget (paramNat 0x0305 h s) x, windowSquashes := 0, windowDecided := 0 }) st) s

/-- A run-ahead window ends (R81). -/
def execRunAheadWindow (s : State) : Host.Outcome State Fault Refusal := .next (runAheadWindow s)

/-! ## Parking (Table 5-9) -/

/-- Whether a harrow has drained: empty queues, no ticket running, no epoch OPEN. -/
def harrowDrained (h : Nat) (s : State) : Bool :=
  (harrowAt h s).queues.all (·.isEmpty) && s.tines.running.all (fun r => tineHarrow r.tine != h)
    && (harrowAt h s).epochs.all (fun x => x.2.state != .opened)

/-- A DRAINING harrow that has drained is PARKED; one that is being handed over waits for its HANDOVER ticket (R544). -/
def execHarrowDrained (h : Nat) (s : State) : Host.Outcome State Fault Refusal :=
  if (harrowAt h s).park = .draining ∧ harrowDrained h s = true ∧ handingOver h s = false then
    .next (notePaceParked (modifyHarrow h (fun x => { x with park := .parked }) s))
  else .next s

/-- PARK_DRAIN_LIMIT has elapsed again after an abandoned park. -/
def execParkRetryTimer (h : Nat) (s : State) : Host.Outcome State Fault Refusal :=
  if (harrowAt h s).parkRetry then
    let s1 := modifyHarrow h (fun x => { x with parkRetry := false }) s
    .next (modifyHarrow h (parkStep (inParkedSet h s1)) s1)
  else .next s

/-- The tines of a WAKING harrow are ready: RUNNING, or DRAINING where it entered the parked set again. -/
def execHarrowWakeDone (h : Nat) (s : State) : Host.Outcome State Fault Refusal :=
  if (harrowAt h s).park = .waking then
    .next (notePaceParked (modifyHarrow h (fun x =>
      { x with park := if x.parkAgain then .draining else .running, parkAgain := false }) s))
  else .next s

end Sys2Proof.Machine
end

