-- ==== Sys2Proof/Machine/Failover.lean ====
section
/-! DEFINITION. Fail-over between the heads: the state of the Headland link (R315), YIELD (R318, Table 13-6), the survivor (R319, R321), the
hold-down (R325). -/

namespace Sys2Proof.Machine

/-- Counts of the head at Headland (R330). -/
def countHead (f : HeadCounters → HeadCounters) (s : State) : State := modifyHeadland (fun h => { h with counters := f h.counters }) s

/-- Changes what RETURN has come to. -/
def modifyReturn (f : ReturnPart → ReturnPart) (s : State) : State := modifyHeadland (fun h => { h with ret := f h.ret }) s

/-- The peer's mode, from the HSW of its last heartbeat. -/
def peerMode (s : State) : Nat := s.headland.peer.hsw % 16

/-- A FAILOVER record: 1 yield, 2 take-over, 3 partition, 4 return (Table 22-2). -/
def failoverRecord (event cause : Nat) (s : State) : State := almanac 0x0501 (packFields [(1, event), (2, cause), (1, peerMode s)]) s

/-- Tells of every ANA state that has changed since an earlier state (R327, Table 14-10). -/
def anaSync (old s : State) : State :=
  [1, 2].foldl (fun st g => if anaState g old = anaState g s then st else raiseEvent 0x0202 (detail2 g (anaState g s)) 0 st) s

/-- A step that may change ANA states. -/
def withAna (f : State → State) (s : State) : State := anaSync s (f s)

/-! ## Hold-down and the link as a whole -/

/-- The hold-down starts anew, where it runs (R325). -/
def restartHold (s : State) : State :=
  if s.headland.ret.holdFrom.isSome then modifyReturn (fun r => { r with holdFrom := some s.time.ticks, holdEnded := false, asked := false }) s else s

/-- The state of the whole link, from its sub-links and the mirror timer's wins of the last second (R315). -/
def wholeLink (s : State) : HeadLinkState :=
  let ups := ((List.range 4).filter (fun q => subUp q s)).length
  let recent := s.headland.lastWin.any (fun t => decide (s.time.ticks < t + sTicks 1))
  if ups = 0 then .down else if ups = 4 ∧ recent = false then .up else .degraded

/-- Code of a state of the whole link (R329). -/
def wholeCode : HeadLinkState → Nat
  | .up => 0 | .degraded => 1 | .down => 2

/-- Brings the state of the whole link up to date: a change sets fail-over attention, is recorded, and restarts the hold-down where the
link is not UP (R315, R325). -/
def linkSync (s : State) : State :=
  let l := wholeLink s
  if l = s.headland.linkState then s
  else
    let s1 := modifyHeadland (fun h => { h with linkState := l }) s
    let s2 := raiseAttn bitFailover (almanac 0x0402 (packFields [(1, 3), (2, 0), (1, wholeCode l)]) s1)
    if l = .up then s2 else restartHold s2

/-! ## YIELD (Table 13-6) -/

/-- The modes that a cause of Table 13-5 turns into YIELD (Table 21-2). -/
def mayYield (s : State) : Bool := servingMode s.boot.mode

/-- Whether an accepted operation may still complete in YIELD: it waits for no commit, and no mirror timer has won over its messages
(R66, Table 13-6 step 4). -/
def opSurvives (op : WriteOp) (s : State) : Bool :=
  !op.fua && op.mseqs.all (fun m => s.headland.msgs.all (fun x => x.mseq != m || x.resends == 0))

/-- Every client command is dropped without completion but those that may still complete (Table 13-6 step 4). -/
def dropClients (s : State) : State :=
  let keep := s.ingest.ops.filter (fun op => opSurvives op s)
  let waits := fun (qp id : Nat) => keep.any (fun op => op.forward.isNone && op.client.qp == qp && op.client.id == id)
  let s1 := modifyIngest (fun i => { i with ops := keep }) s
  let s2 := modifyNvme (fun n => { n with commands := n.commands.filter (fun c => waits c.qp c.cid) }) s1
  modifySheaf (fun x => { x with requests := x.requests.filter (fun r => waits r.qp r.tag) }) s2

/-- Forwarded commands are dropped: those of clients without completion, those of the control host with ST_ABORTED (R61, R493). -/
def dropForwards (s : State) : State :=
  let fs := s.headland.forwards
  fs.foldl (fun st f => if f.mci.isSome then endWaits (.forward f.id) (some stAborted) none st else st)
    (modifyHeadland (fun h => { h with forwards := [], toRun := [] }) (freeRoom fs s))

/-- The times of the last three yields; three within 24 h set the return disable (R320). -/
def noteYield (s : State) : State :=
  let ts := (opTime s :: s.headland.yieldTimes).take 3
  let three := ts.length == 3 && decide (opTime s - ts.getD 2 0 < 24 * 4096)
  modifyHeadland (fun h => { h with yieldTimes := ts, returnDisable := h.returnDisable || three }) s

/-- YIELD_NOTICE on every UP sub-link. -/
def sendYieldNotice (cause : Nat) (s : State) : State :=
  let body := packFields [(2, cause), (6, 0), (8, s.headland.nextMseq - 1)]
  (List.range 4).foldl (fun st q => if subUp q st then headSendOn q 0x0060 body st else st) s

/-- What a bridge's queue still holds of programs, erases and acquires is not issued any more. -/
def dropQueued (s : State) : State :=
  { s with furrow := s.furrow.map (fun f => { f with queued := f.queued.filter (fun c => !(c.opcode == 3 || c.opcode == 4 || c.opcode == 7)) }) }

/-- A cause of Table 13-5 is confirmed: steps 1, 2, 4 and 5 of Table 13-6. In a mode that does not yield it only restarts the
hold-down. -/
def enterYield (cause : Nat) (s : State) : State :=
  if mayYield s = false then restartHold s
  else
    withAna (fun s =>
      let s1 := countHead (fun c => { c with yields := bump c.yields }) (noteYield (setMode .yield cause s))
      let s2 := modifyHeadland (fun h => { h with yieldCause := cause, takeover := none, ret := resetReturn }) s1
      let s3 := sendYieldNotice cause (failoverRecord 1 cause (raiseAttn bitFailover s2))
      let s4 := dropForwards (dropClients (settle s3))
      let s5 := endExports (endSessions (endPuts s4))
      releaseAllLeases (dropQueued s5)) s

/-- YIELD_LEASES_RELEASED: every lease is released; YIELD_OUT_N is asserted, the queue pairs are closed, and the head restarts (Table 13-6
step 6, R320, R529). -/
def execYieldLeasesReleased (s : State) : Host.Outcome State Fault Refusal :=
  .next (if s.boot.mode = .yield ∧ (leasedBridges s).isEmpty = true then
    selfReset (closeAll (fun _ => true) (modifyHeadland (fun h => { h with yieldOutLow := true }) s))
  else s)

/-! ## The survivor -/

/-- The bridges that a take-over asks for: after a notice every bridge in service that the head does not lease, after silence those that
the peer's last heartbeat showed leased (Table 13-6 step 3, R321). -/
def takeoverBridges (announced : Bool) (s : State) : List Nat :=
  (List.range 192).filter (fun b =>
    !leases b s && decide ((headBridge b s).state ≠ 5)
      && (if announced then (headBridge b s).ident.isSome && decide ((headBridge b s).state < 3) else s.headland.peer.leased.testBit b))

/-- The head's own writes complete by the SOLE rule: no mirror is waited for any more (R66). -/
def endMirrors (s : State) : State :=
  let ms := s.headland.msgs
  settle (ms.foldl (fun st m => endWaits (.mirrorAck m.mseq) none none st) (modifyHeadland (fun h => { h with msgs := [], ret := resetReturn }) s))

/-- Begins a take-over: LEASE_ACQUIRE to every bridge it asks for. -/
def beginTakeover (announced : Bool) (s : State) : State :=
  let bs := takeoverBridges announced s
  if s.headland.conflict then s
  else acquireAll bs (modifyHeadland (fun h => { h with takeover := some { wanted := bs, live := false, announced := announced } }) s)

/-- The peer has announced that it steps aside (Table 13-6 step 3): the head enters SOLE, its writes complete, the bridges are asked for.
A head that has not ended its own start-up only asks. -/
def peerStepsAside (s : State) : State :=
  match baseMode s with
  | .active | .fallow | .returning =>
    if s.boot.mode = .dump ∨ s.boot.mode = .yield then s
    else
      withAna (fun s =>
        let s1 := modifyHeadland (fun h => { h with yieldOutLow := false }) (raiseAttn bitFailover s)
        let begun := beginTakeover true s1
        stepReclaims (endMirrors (setBaseMode .sole 0 begun))) s
  | _ => s

/-- YIELD_IN_N falls: the peer claims no lease (R317). -/
def execYieldInNAsserted (low : Bool) (s : State) : Host.Outcome State Fault Refusal :=
  let s1 := modifyHeadland (fun h => { h with yieldInLow := low }) s
  .next (if low = true ∧ s.headland.yieldInLow = false then peerStepsAside s1 else s1)

/-- The peer has ceased to be present (R316, R321): a serving head holds its writes and asks for what the peer leased; the sole head goes
on alone, and takes back what it was handing over. -/
def peerGone (s : State) : State :=
  if s.headland.peerPresent = false then s
  else
    let s1 := modifyHeadland (fun h => { h with peerPresent := false, toRun := [], drains := [], idAsked := false,
                                                peer := { h.peer with ready := false } }) s
    let s2 := restartHold (endPeerPuts (advanceEpochs (raiseAttn bitFailover s1)))
    let s3 := if s2.headland.takeover.isSome then s2
      else match baseMode s2 with
        | .sole => endMirrors s2
        | .active => beginTakeover false s2
        | .returning => beginTakeover false s2
        | .fallow => beginTakeover false s2
        | .inventory => beginTakeover false s2
        | _ => s2
    hswSync (stepReclaims s3)

/-- HEARTBEAT_LOSS (R316, R321). -/
def execHeartbeatLoss (s : State) : Host.Outcome State Fault Refusal := .next (peerGone s)

/-- The head that goes on after a partition (R321, R323). -/
def partitionSurvivor (s : State) : Nat := if s.headland.survivorZero then 0 else paramNat 0x0D05 0 s

/-- A peer lease is found live: LEASE_ACQUIRE still ends with ST_BUSY at or after the expiry reported earlier (R321 cases 2 and 3). -/
def foundLive (s : State) : State :=
  match s.headland.takeover with
  | some t =>
    if t.announced = true ∨ t.live = true then s
    else
      let s1 := modifyHeadland (fun h => { h with takeover := some { t with live := true } })
        (failoverRecord 3 7 (raiseAttn bitFailover (countHead (fun c => { c with partitions := bump c.partitions }) s)))
      if (leasedBridges s).isEmpty then
        modifyHeadland (fun h => { h with takeover := none, yieldOutLow := true, newcomer := s.boot.mode == .inventory })
          { s1 with furrow := s1.furrow.map (fun f => { f with acquireAt := none }) }
      else if s.boot.headId = partitionSurvivor s then s1
      else enterYield 7 s1
  | none => s

/-- Whether no bridge that answers carries a label (R509, R510). -/
def allBlank (s : State) : Bool := s.media.bridges.all (fun b => b.ident.isNone || b.label.isNone)

/-- A head without a peer acquires every bridge that is free; head 1 with nothing but blank bridges holds, with media attention (R324, R510). -/
def loneStart (s : State) : State :=
  if s.boot.headId = 1 ∧ allBlank s = true then mediaAttn s
  else
    let s1 := modifyHeadland (fun h => { h with yieldOutLow := false }) s
    let bs := takeoverBridges true s1
    acquireAll bs (modifyHeadland (fun h => { h with takeover := some { wanted := bs, live := false, announced := false } }) s1)

/-- HEADLAND_WAIT_EXPIRY: no peer has been seen within HEADLAND_WAIT of entering INVENTORY (R324). A head whose step 0x0B has begun acquires
what is free now; before that step it does so as the step begins. -/
def execHeadlandWaitExpiry (s : State) : Host.Outcome State Fault Refusal :=
  .next (if s.boot.mode = .inventory ∧ s.headland.peerPresent = false ∧ s.headland.conflict = false ∧ s.headland.newcomer = false
      ∧ 0x0B ≤ s.boot.step then loneStart s
  else s)

/-- Both heads serve alone and lease bridges of each other's preference: the head that is not PARTITION_SURVIVOR yields (R324). -/
def bothSole (s : State) : State :=
  if baseMode s = .sole ∧ s.headland.peerPresent = true ∧ peerMode s = modeCode .sole ∧ s.headland.peer.leased ≠ 0
      ∧ s.boot.headId ≠ partitionSurvivor s then enterYield 7 s else s

/-! ## Causes that the head finds in itself (R318) -/

/-- More than 4 harrows are parked permanently: cause 1 (R116, R318). -/
def parkedYield (s : State) : State :=
  if 4 < (s.tines.harrows.filter (·.permanentlyParked)).length then enterYield 1 s else s

/-- TICKET_WATCHDOG: a tine's watchdog expires (R116). -/
def execTicketWatchdog (tine : Nat) (s : State) : Host.Outcome State Fault Refusal := .next (parkedYield (ticketWatchdog tine s))

/-- Repeated cipher faults make the head yield (R182). -/
def cipherYield (s : State) : State := if cipherSick s then enterYield 6 s else s

/-- CIPHER_COMPLETION: both engines of a job have finished, `agree` whether their outputs do (R179-R182). -/
def execCipherCompletion (job : Nat) (agree : Bool) (s : State) : Host.Outcome State Fault Refusal :=
  .next (cipherYield (cipherComplete job agree s))

/-- SUPERVISOR_DEADLINE: the supervisor ticket meets or misses its 10 ms deadline; the second miss in a row makes the head yield. It looks
for the conditions that other work has brought about too: repeated cipher faults, harrows parked permanently (DESIGN CHOICE 151). -/
def execSupervisorDeadline (missed : Bool) (s : State) : Host.Outcome State Fault Refusal :=
  let n := if missed then s.headland.supervisorMisses + 1 else 0
  let s1 := modifyHeadland (fun h => { h with supervisorMisses := n }) s
  .next (if 2 ≤ n then enterYield 1 s1 else cipherYield (parkedYield s1))

/-- ECC_WINDOW: a 1 s window ends with the corrected errors of near store and of far store; the tenth window in a row above 1,000 is an ECC
storm. -/
def execEccWindow (near far : Nat) (s : State) : Host.Outcome State Fault Refusal :=
  let n := if 1000 < near ∨ 1000 < far then s.headland.eccWindows + 1 else 0
  let s1 := modifyHeadland (fun h => { h with eccWindows := n }) s
  .next (if 10 ≤ n then enterYield 2 s1 else s1)

end Sys2Proof.Machine
end

