-- ==== Sys2Proof/Machine/Firmware.lean ====
section
/-! DEFINITION. Firmware update in service: manifests, staging, activation, handover (23). -/

namespace Sys2Proof.Machine

/-- Changes the firmware part. -/
def modifyFw (f : FwPart → FwPart) (s : State) : State := { s with fw := f s.fw }

/-! ## Manifests (Table 23-1) -/

/-- IMAGE_ID: bytes 0 to 7 of the digest of the whole manifest (R534). -/
def fwId (m : Bytes) : Nat := leNat ((sha256 m).take 8)

/-- KIND of a manifest: 1 Steward image, 2 loader image. -/
def fwKind (m : Bytes) : Nat := fieldAt m 5 1

/-- NPIECES. -/
def fwCount (m : Bytes) : Nat := fieldAt m 0xC 4

/-- NSCHEMA. -/
def fwSchemas (m : Bytes) : Nat := fieldAt m 7 1

/-- The schema entries. -/
def schemaBytes (m : Bytes) : Bytes := slice m 0x20 (8 * fwSchemas m)

/-- The digest of a piece in DIGESTS. -/
def fwDigest (m : Bytes) (n : Nat) : Bytes := slice m (0x20 + 8 * fwSchemas m + 32 * n) 32

/-- Length of a piece: 65,536 bytes, the last one the rest (R533). -/
def fwPieceLen (m : Bytes) (n : Nat) : Nat := if n + 1 = fwCount m then fieldAt m 0x10 8 - 65536 * n else 65536

/-- Whether bytes are piece `n` of an image. -/
def fwMatches (m : Bytes) (n : Nat) (b : Bytes) : Bool := b.length == fwPieceLen m n && sha256 b == fwDigest m n

/-- Whether the fields of a manifest are within range (R533, R534). -/
def fwFieldsOk (m : Bytes) : Bool :=
  let n := fwCount m
  let most := if fwKind m = 1 then 1984 else 127
  fieldAt m 0 4 == 0x57465848 && fieldAt m 4 1 == 1 && (fwKind m == 1 || fwKind m == 2) && decide (fieldAt m 6 1 ≤ 3)
    && decide (fwSchemas m ≤ 32) && decide (1 ≤ n) && decide (n ≤ most)
    && decide (65536 * (n - 1) < fieldAt m 0x10 8) && decide (fieldAt m 0x10 8 ≤ 65536 * n)
    && fieldAt m 0x18 4 == m.length && m.length == 0x20 + 8 * fwSchemas m + 32 * n + 96 && decide (m.length ≤ 65536)

/-- The acceptance of R534: fields, key, signature. -/
def fwSigned (m : Bytes) : Bool :=
  fwFieldsOk m && !Config.keyRevoked (fieldAt m 6 1)
    && ecdsaVerify (Config.signingKey (fieldAt m 6 1)) (m.take (m.length - 96)) (m.drop (m.length - 96))

/-- WRITES, ACCEPT_MIN and ACCEPT_MAX of a kind among schema entries; 1, 1 and 1 where it is omitted (R535). -/
def schemaOf : Nat → Bytes → Nat → Nat × Nat × Nat
  | 0, _, _ => (1, 1, 1)
  | fuel + 1, b, kind =>
    if b.length < 8 then (1, 1, 1)
    else if fieldAt b 0 2 = kind then (fieldAt b 2 2, fieldAt b 4 2, fieldAt b 6 2)
    else schemaOf fuel (b.drop 8) kind

/-- MEDIA must have WRITES 1 and a range that includes 1 (R535). -/
def mediaOk (m : Bytes) : Bool :=
  let (w, lo, hi) := schemaOf 32 (schemaBytes m) 5
  w == 1 && decide (lo ≤ 1) && decide (1 ≤ hi)

/-- Whether two lists of schema entries agree on a kind, both ways (R543). -/
def schemaFits (a b : Bytes) (kind : Nat) : Bool :=
  let (wa, loa, hia) := schemaOf 32 a kind
  let (wb, lob, hib) := schemaOf 32 b kind
  decide (loa ≤ wb) && decide (wb ≤ hia) && decide (lob ≤ wa) && decide (wa ≤ hib)

/-- The manifest that Steward runs under. -/
def runningManifest (s : State) : Bytes := s.fw.running.manifest.getD []

/-- Whether a new image and the running one share their internal structures (R543). -/
def fwCompatible (m : Bytes) (s : State) : Bool :=
  [1, 2, 3].all (fun k => schemaFits (schemaBytes m) (schemaBytes (runningManifest s)) k)

/-- A piece of an image, where it has it. -/
def imagePiece (i : FwImage) (n : Nat) : Option Bytes :=
  match lookup n i.pieces with
  | some b => some b
  | none => if i.factory then some (Config.factoryPiece n) else none

/-! ## Records in firmware blocks (R536) -/

/-- A record's five program units: header, zeros, data (Table 23-3). -/
def fwRecordBytes (head : Nat) (r : FwRecord) : Bytes :=
  let raw := packFields [(4, 0x50465848), (1, 1), (1, r.kind), (1, head), (1, 0), (8, r.imageId), (4, if r.kind = 1 then r.piece else 0),
    (4, r.data.length), (8, r.seq), (8, r.actSeq)] ++ zeros 20
  padTo 16384 (raw ++ leBytes 4 (crc32c raw)) ++ padTo 65536 r.data

/-- Records that a firmware block of a bridge can hold. -/
def fwCapacity (b : Nat) (s : State) : Nat := (((headBridge b s).ident).map (fun i => blockCodewords i / 20)).getD 0

/-- Records already placed in a firmware block. -/
def fwPlaced (b block : Nat) (s : State) : Nat :=
  let mine := (s.fw.records.filter (fun r => r.bridge == b && r.block == block)).map (fun r => r.place + 1)
  mine.foldl max ((nandBlock b (reservedDie b s) block s).length / 20)

/-- Whether a firmware block holds no record of the other head. -/
def fwOwn (b block : Nat) (s : State) : Bool :=
  match (nandBlock b (reservedDie b s) block s).head? with
  | some cw => fieldAt cw 6 1 == s.boot.headId
  | none => true

/-- Whether every record in a firmware block is the head's own and superseded. -/
def fwErasable (b block : Nat) (s : State) : Bool :=
  let mine := s.fw.records.filter (fun r => r.bridge == b && r.block == block)
  !mine.isEmpty && mine.all (·.superseded) && mine.length == fwPlaced b block s && fwOwn b block s

/-- Where the next record of a bridge goes: block, place, and whether the block is erased first. -/
def fwRoom (b : Nat) (s : State) : Option (Nat × Nat × Bool) :=
  let blocks := (headBridge b s).firmwareBlocks
  match blocks.find? (fun k => fwOwn b k s && decide (fwPlaced b k s < fwCapacity b s)) with
  | some k => some (k, fwPlaced b k s, false)
  | none => (blocks.find? (fun k => fwErasable b k s)).map (fun k => (k, 0, true))

/-- The bridges that can take a record, without those of a list. -/
def fwBridges (but : List Nat) (s : State) : List Nat :=
  (leasedBridges s).filter (fun b => !but.contains b && bridgeReachable b s && decide ((headBridge b s).state ≤ 2) && (fwRoom b s).isSome)

/-- Writes one copy of a record on a bridge, erasing the block first where that gives the room. -/
def fwPut (b : Nat) (r : FwRecord) (s : State) : State :=
  match fwRoom b s with
  | none => s
  | some (k, place, erase) =>
    let die := reservedDie b s
    let gone := fun (x : FwRecord) => x.bridge == b && x.block == k
    let s1 := if erase then
        furrowIssue b 4 (leBytes 8 (cwAddr die k 0)) [] (.firmware k) (modifyFw (fun f => { f with records := f.records.filter (fun x => !gone x) }) s)
      else s
    let mine := { r with bridge := b, block := k, place := place, programmed := false, superseded := false }
    programBlock (b, die, k) (20 * place) (codewords 20 (fwRecordBytes s.boot.headId r)) (.firmware k)
      (modifyFw (fun f => { f with records := f.records ++ [mine] }) s1)

/-- Writes a record on two bridges of different FAULT_DOMAIN where it can, on two different bridges otherwise; none without room. -/
def fwWrite (kind imageId piece : Nat) (data : Bytes) (actSeq : Nat) (s : State) : Option State :=
  match fwBridges [] s with
  | [] => none
  | a :: _ =>
    let rest := fwBridges [a] s
    match (rest.find? (fun b => (headBridge b s).faultDomain != (headBridge a s).faultDomain)).or rest.head? with
    | none => none
    | some b =>
      let (seq, s1) := takeWriteSeq 1 s
      let r : FwRecord := { kind := kind, imageId := imageId, piece := piece, data := data, seq := seq, actSeq := actSeq, bridge := a, block := 0,
                            place := 0, programmed := false, superseded := false }
      some (fwPut b r (fwPut a r s1))

/-- Marks records superseded. -/
def fwSupersede (p : FwRecord → Bool) (s : State) : State :=
  modifyFw (fun f => { f with records := mapIf p (fun r => { r with superseded := true }) f.records }) s

/-! ## Staging (R537-R539) -/

/-- Sets update attention. -/
def updateAttn (s : State) : State := raiseAttn bitUpdate s

/-- RECEIVING, or STAGED once every piece is held (Table 23-4). -/
def fwSync (s : State) : State :=
  match s.fw.manifest with
  | none => s
  | some m =>
    let full := (List.range (fwCount m)).all (fun n => (lookup n s.fw.pieces).isSome)
    if s.fw.state = 1 ∧ full = true then updateAttn (modifyFw (fun f => { f with state := 2 }) s) else s

/-- A piece is stored. -/
def fwStored (n : Nat) (data : Bytes) (s : State) : State :=
  fwSync (modifyFw (fun f => { f with pieces := insertAt n data f.pieces, piecesPut := bump f.piecesPut }) s)

/-- The slot or region that an image of a kind is written to: the loader slot that does not run, or IMAGE (R546). -/
def fwTarget (kind : Nat) (s : State) : FwImage :=
  if kind = 2 then s.fw.loaders.getD (1 - s.fw.loader) { manifest := none, pieces := [], factory := false } else s.fw.image

/-- Changes that slot or region, and notes the write (R26). -/
def fwTargetSet (kind : Nat) (f : FwImage → FwImage) (s : State) : State :=
  let i := f (fwTarget kind s)
  if kind = 2 then flashWritten 0 (modifyFw (fun x => { x with loaders := x.loaders.set (1 - x.loader) i }) s)
  else flashWritten 1 (modifyFw (fun x => { x with image := i }) s)

/-- Staging is kept on media while the head holds leases (R538). -/
def fwOnMedia (s : State) : Bool := !(leasedBridges s).isEmpty

/-- The staging is gone: its buffers are free. -/
def fwForget (s : State) : State :=
  s.fw.handles.foldl (fun st h => releaseOwn h st)
    (modifyFw (fun f => { f with state := 0, manifest := none, pieces := [], onMedia := false, handles := [], step := 0, sectors := 0,
                                 handed := 0, abandons := 0, skip := false, failover := false }) s)

/-- An FW_MANIFEST record. -/
def fwManifestRecord (m : Bytes) (accepted : Bool) (s : State) : State :=
  almanac 0x0701 (packFields [(8, fwId m), (4, fieldAt m 8 4), (1, fieldAt m 6 1), (1, flagBit accepted)]) s

/-- Takes an accepted manifest: a record on media, a buffer, or the loader's own store, which finds the pieces that the target already
holds (R536, R538, R539). None where there is no room. -/
def fwTake (m : Bytes) (s : State) : Option State :=
  let begin' := fun (st : State) => modifyFw (fun f => { f with state := 1, manifest := some m, pieces := [] }) st
  if s.boot.mode = .recovery then
    let held := (List.range (fwCount m)).filterMap (fun n => ((imagePiece (fwTarget (fwKind m) s) n).map (fun b => b.take (fwPieceLen m n))).bind
      (fun b => if fwMatches m n b then some (n, b) else none))
    some (modifyFw (fun f => { f with pieces := held }) (begin' s))
  else if fwOnMedia s then (fwWrite 2 (fwId m) 0 m 0 s).map (fun st => modifyFw (fun f => { f with onMedia := true }) (begin' st))
  else (landBytes 0 2 m s).map (fun r => modifyFw (fun f => { f with handles := f.handles ++ r.1 }) (begin' r.2))

/-- FW_MANIFEST_PUT. -/
def fwManifestPut (p : McPacket) (s : State) : McEnd × State :=
  let len := parm p 0 4
  let m := p.data.take len
  if s.fw.state = 3 then refuse stBusy s
  else if p.busError then busFail p s
  else if s.boot.mode = .boot then refuse stWrongMode s
  else if len = 0 ∨ 65536 < len then refuse stBadParam s
  else if fwSigned m = false then refuse stAuthFailed (fwManifestRecord m false s)
  else if mediaOk m = false then refuse stBadParam (fwManifestRecord m false s)
  else match s.fw.manifest with
    | some x => if x = m then (.reply stOkInfo [], s) else refuse stBusy s
    | none =>
      match fwTake m s with
      | none => refuse stNoResource s
      | some s1 => ok [] (fwSync (updateAttn (fwManifestRecord m true s1)))

/-- FW_MANIFEST_PUT (R534). -/
def execFwManifestPut (p : McPacket) (s : State) : Host.Outcome State Fault Refusal := .next (mciRun 0x0700 p (fwManifestPut p) s)

/-- Stores an accepted piece (R537, R539). -/
def fwStore (p : McPacket) (m : Bytes) (n : Nat) (data : Bytes) (s : State) : McEnd × State :=
  if s.boot.mode = .recovery then
    let put := fun (i : FwImage) => { i with manifest := none, pieces := insertAt n data i.pieces }
    ok [] (fwStored n data (fwTargetSet (fwKind m) put s))
  else if fwOnMedia s && s.fw.onMedia then
    if s.fw.records.any (fun r => r.kind == 1 && r.imageId == fwId m && r.piece == n && !r.superseded && !r.programmed) then
      waitOn p (.fwPiece n) [] s
    else
      match fwWrite 1 (fwId m) n data 0 s with
      | none => refuse stNoResource s
      | some s1 => waitOn p (.fwPiece n) [] s1
  else
    match landBytes 0 2 data s with
    | none => refuse stNoResource s
    | some (hs, s1) => ok [] (fwStored n data (modifyFw (fun f => { f with handles := f.handles ++ hs }) s1))

/-- PIECE_PUT. -/
def piecePut (p : McPacket) (s : State) : McEnd × State :=
  let n := parm p 0 4
  if s.fw.state = 3 then refuse stBusy s
  else if p.busError then busFail p s
  else match s.fw.manifest with
    | none => refuse stWrongMode s
    | some m =>
      let data := p.data.take (fwPieceLen m n)
      if fwCount m ≤ n then refuse stBadParam s
      else if fwMatches m n data = false then refuse stBadParam (modifyFw (fun f => { f with piecesRejected := bump f.piecesRejected }) s)
      else if (lookup n s.fw.pieces).isSome then (.reply stOkInfo [], s)
      else fwStore p m n data s

/-- PIECE_PUT (R537). -/
def execPiecePut (p : McPacket) (s : State) : Host.Outcome State Fault Refusal := .next (mciRun 0x0701 p (piecePut p) s)

/-- Whether a record belongs to an image that a later ACTIVATE record activated: it is the media copy's, and no longer staged (R547). -/
def fwActivated (r : FwRecord) (s : State) : Bool :=
  s.fw.records.any (fun a => a.kind == 3 && a.imageId == r.imageId && decide (r.seq < a.seq) && a.programmed && !a.superseded)

/-- FW_DISCARD: the staged records are superseded; a piece under way ends (R538, R548). -/
def fwDiscard (s : State) : McEnd × State :=
  match s.fw.manifest with
  | none => (.reply stOkInfo [], s)
  | some m =>
    if s.fw.state = 3 then refuse stBusy s
    else
      let s1 := (List.range (fwCount m)).foldl (fun st n => endWaits (.fwPiece n) (some stAborted) none st) s
      ok [] (fwForget (fwSupersede (fun r => r.imageId == fwId m && r.kind != 3 && !fwActivated r s) s1))

/-- FW_DISCARD (R538). -/
def execFwDiscard (p : McPacket) (s : State) : Host.Outcome State Fault Refusal := .next (mciRun 0x0704 p fwDiscard s)

/-! ## FW_STATUS (R550) -/

/-- The 256-byte piece bitmap. -/
def pieceBitmap (s : State) : Bytes :=
  (List.range 256).map (fun i => BitVec.ofNat 8 (((List.range 8).map (fun j => if (lookup (8 * i + j) s.fw.pieces).isSome then 2 ^ j else 0)).sum))

/-- What FW_STATUS writes to the buffer: bitmap, schema entries of the running manifest, counters. -/
def fwReport (s : State) : Bytes :=
  pieceBitmap s ++ schemaBytes (runningManifest s) ++ packFields [(8, s.fw.piecesPut), (8, s.fw.piecesRejected), (8, s.fw.activations)]

/-- The result of FW_STATUS. -/
def fwResult (s : State) : Bytes :=
  let m := s.fw.manifest.getD []
  let n := if s.fw.manifest.isSome then fwCount m else 0
  let missing := (firstIndex n (fun i => (lookup i s.fw.pieces).isNone)).getD n
  packFields [(1, s.fw.state), (1, if s.fw.manifest.isSome then fwKind m else 0), (2, 0), (4, s.fw.pieces.length), (4, n), (4, missing),
    (4, runningRelease s), (4, s.fw.handed)]

/-- FW_STATUS. What the peer asks is answered on the link, the buffer's bytes behind the first 16 of the result (DESIGN CHOICE 29). -/
def fwStatus (p : McPacket) (s : State) : McEnd × State :=
  if peerRing ≤ p.fetchedFrom then
    (.stands, headSend 0 0x0021 (packFields [(8, p.fetchedFrom - peerRing), (2, 0), (6, 0)] ++ (fwResult s).take 16 ++ fwReport s) s)
  else answerRecords p [fwReport s] (fwResult s) s

/-- FW_STATUS (R550). -/
def execFwStatus (p : McPacket) (s : State) : Host.Outcome State Fault Refusal := .next (mciRun 0x0702 p (fwStatus p) s)

/-! ## Activation (R540-R546) -/

/-- An FW_ACTIVATE record: path 1 in place, 2 fail-over, 3 reset, 4 loader. -/
def fwActivateRecord (m : Bytes) (path : Nat) (status : Status) (s : State) : State :=
  almanac 0x0702 (packFields [(8, fwId m), (4, runningRelease s), (4, fieldAt m 8 4), (1, path), (2, status.toNat)]) s

/-- The staged image, whole. -/
def stagedImage (m : Bytes) (s : State) : FwImage := { manifest := some m, pieces := s.fw.pieces, factory := false }

/-- The mode that decides what FW_ACTIVATE does (Table 23-5). -/
def fwMode (s : State) : Mode := if s.boot.mode = .readonly then s.boot.underReadonly else s.boot.mode

/-- The end of an activation: the staged image is the media copy, unless no ACTIVATE record could be programmed, or a loader's records are
done with; the state is NONE (R539, Table 23-4). -/
def fwFinish (m : Bytes) (path : Nat) (status : Status) (s : State) : State :=
  let old := fun (r : FwRecord) => if fwKind m = 1 then r.imageId != fwId m else r.imageId == fwId m
  let s1 := fwSupersede (fun r => old r && s.fw.onMedia && (fwKind m != 1 || fwMode s != .fallow)) (fwActivateRecord m path status s)
  updateAttn (fwForget (modifyFw (fun f => { f with activations := bump f.activations }) s1))

/-- Begins step 5 of Table 23-6: the next harrow drains. -/
def fwHandovers (s : State) : State := applyParkedSet (modifyFw (fun f => { f with step := 5, abandons := 0 }) s)

/-- A head without leases has the new image in IMAGE: it replies and restarts (R541). -/
def fwRestart (m : Bytes) (s : State) : State :=
  selfReset (endWaits .activation (some stOk) none (fwFinish m (if fwKind m = 2 then 4 else 3) stOk s))

/-- Begins an activation that is accepted: step 1, and 2 where the head programs NAND. `bad`: the pieces that step 1 finds bad. -/
def fwBegin (m : Bytes) (bad : List Nat) (s : State) : State :=
  let found := bad.filter (fun n => (lookup n s.fw.pieces).isSome)
  let s1 := modifyFw (fun f => { f with state := 3, failover := fwKind m == 1 && baseMode s == .active && !fwCompatible m s }) s
  if s.fw.skip then fwHandovers s1
  else if found ≠ [] then
    let s2 := fwSupersede (fun r => r.kind == 1 && r.imageId == fwId m && found.contains r.piece) s1
    endWaits .activation (some stMedia) none
      (modifyFw (fun f => { f with state := 1, pieces := f.pieces.filter (fun x => !found.contains x.1) }) s2)
  else if fwKind m = 2 ∨ s.fw.onMedia = false ∨ fwMode s = .fallow then modifyFw (fun f => { f with step := 3, sectors := 0 }) s1
  else
    let act := ((s.fw.records.map (·.actSeq)).foldl max 0) + 1
    match fwWrite 3 (fwId m) 0 [] act s1 with
    | some s2 => modifyFw (fun f => { f with step := 2 }) s2
    | none => endWaits .activation (some stNoResource) none (modifyFw (fun f => { f with state := 2 }) s1)

/-- FW_ACTIVATE. With a peer present, a Steward image first has the peer's schemas read (R543); while one waits for them, another is
turned away (DEDUCED 79). -/
def fwActivate (p : McPacket) (bad : List Nat) (s : State) : McEnd × State :=
  match s.fw.manifest with
  | none => refuse stWrongMode s
  | some m =>
    if s.fw.state ≠ 2 then refuse stWrongMode s
    else if s.mci.waits.any (fun w => w.kind == .activation) then refuse stBusy s
    else
      match fwMode s with
      | .active | .sole | .fallow =>
        if fwMode s = .sole ∧ fwKind m = 1 ∧ fwCompatible m s = false then refuse stWrongMode s
        else if fwKind m = 1 ∧ s.headland.peerPresent = true ∧ s.fw.skip = false then
          let ask : McPacket := { p with flags := 0, function := 0, ring := 0, dataPages := 1, params := [], authBlock := [], data := [] }
          let (_, s1) := forwardSend 3 (packetBytes 0x0702 ask) [] none (some (p.fetchedFrom, (refOf p).tag)) s
          waitOn p .activation [] s1
        else
          let (e, s1) := waitOn p .activation [] s
          (e, fwBegin m bad s1)
      | .recovery =>
        let put := fun (i : FwImage) => { i with manifest := some m, factory := false }
        let s1 := fwFinish m (if fwKind m = 2 then 4 else 3) stOk (fwTargetSet (fwKind m) put s)
        let (e, s2) := waitOn p .activation [] s1
        (e, selfReset (ledgerWrite 0xC0 0 1 0 0 0 (endWaits .activation (some stOk) none s2)))
      | _ => refuse stWrongMode s

/-- FW_ACTIVATE (R540). -/
def execFwActivate (p : McPacket) (bad : List Nat) (s : State) : Host.Outcome State Fault Refusal :=
  .next (mciRun 0x0703 p (fwActivate p bad) s)

/-- The peer has told its schemas, behind the 16 bytes of the result: HEADLAND must fit both ways, or FW_ACTIVATE is refused (R543). -/
def fwPeerSchemas (status : Status) (body : Bytes) (bad : List Nat) (s : State) : State :=
  match s.fw.manifest with
  | none => endWaits .activation (some stWrongMode) none s
  | some m =>
    let entries := slice body 256 (body.length - 280)
    if s.fw.state ≠ 2 then endWaits .activation (some stWrongMode) none s
    else if status.toNat ≥ 2 then endWaits .activation (some status) none s
    else if schemaFits (schemaBytes m) entries 4 then fwBegin m bad s
    else endWaits .activation (some stBadParam) none s

/-- IMAGE, or the loader slot, holds the new image whole: what comes after step 3 (Tables 23-5, 23-6). -/
def fwOverwritten (m : Bytes) (s : State) : State :=
  if baseMode s = .fallow then fwRestart m s
  else if fwKind m = 2 then endWaits .activation (some stOk) none (fwFinish m 4 stOk s)
  else if s.fw.failover then enterYield 8 (endWaits .activation (some stOkInfo) none (fwFinish m 2 stOkInfo s))
  else fwHandovers (modifyFw (fun f => { f with placed := some (stagedImage m s), handed := 0 }) s)

/-- FW_IMAGE_OVERWRITE: the loader ticket writes the next sector: the manifest sector is erased first, then each piece is written, the
manifest last; then the new image copy is placed (Table 23-6 steps 3 and 4). -/
def fwOverwrite (s : State) : State :=
  match s.fw.manifest with
  | none => s
  | some m =>
    if s.fw.state ≠ 3 ∨ s.fw.step ≠ 3 then s
    else
      let k := s.fw.sectors
      let s1 := modifyFw (fun f => { f with sectors := k + 1 }) s
      if k = 0 then fwTargetSet (fwKind m) (fun i => { i with manifest := none }) s1
      else if k ≤ fwCount m then
        let put := fun (i : FwImage) => { i with pieces := insertAt (k - 1) (lookupD (k - 1) s.fw.pieces []) i.pieces }
        fwTargetSet (fwKind m) put s1
      else fwOverwritten m (fwTargetSet (fwKind m) (fun _ => stagedImage m s) s1)

/-- FW_IMAGE_OVERWRITE (R542). -/
def execFwImageOverwrite (s : State) : Host.Outcome State Fault Refusal := .next (fwOverwrite s)

/-- An FW_HANDOVER record. -/
def fwHandoverRecord (h : Nat) (status : Status) (s : State) : State :=
  almanac 0x0703 (packFields [(1, h), (2, (schemaOf 32 (schemaBytes (runningManifest s)) 2).1), (2, status.toNat)]) s

/-- The pinned HANDOVER ticket of a harrow, the last it runs before its tines load the new image (R122, R544). -/
def handoverTicket (h : Nat) (s : State) : Ticket :=
  { type := handoverType, prio := 0, wait := false, tomb := false, pinned := true, home := h, orderKey := none, epoch := none,
    parent := 0xFFFFFFFF, handles := [], args := zeros 16, stamp := s.time.ticks, ref := 0, expiries := 0, spilled := false }

/-- The HANDOVER ticket runs on the harrow's first tine in service. -/
def runHandover (h : Nat) (s : State) : State :=
  runOn (((List.range 16).map (fun i => 16 * h + i)).find? (fun t => tineUsable t s) |>.getD (16 * h)) (handoverTicket h s)
    { guardedAt := none, followOns := [], retires := true } s

/-- HANDOVER: the drained harrow writes its block, loads the new image and is RUNNING again; after the last harrow the second new copy is
placed and the release is in effect (R544, Table 23-6 step 6). -/
def handover (h : Nat) (s : State) : State :=
  let hw := harrowAt h s
  if handingOver h s = false ∨ (hw.park ≠ .parked ∧ (hw.park ≠ .draining ∨ harrowDrained h s = false)) then s
  else
    let s1 := modifyFw (fun f => { f with handed := h + 1, abandons := 0 }) (fwHandoverRecord h stOk (runHandover h s))
    if h + 1 < 32 then applyParkedSet s1
    else
      match s.fw.manifest with
      | none => s1
      | some m =>
        let s2 := fwFinish m 1 stOk s1
        let s3 := modifyFw (fun f => { f with running := stagedImage m s, placed := none }) s2
        applyParkedSet (endWaits .activation (some stOk) none s3)

/-- HANDOVER (R544). -/
def execHandover (harrow : Nat) (s : State) : Host.Outcome State Fault Refusal := .next (handover harrow s)

/-- A drain of the harrow being handed over is abandoned: the third time the activation stops, and the next FW_ACTIVATE goes on with this
harrow (R544). -/
def handoverAbandoned (h : Nat) (s : State) : State :=
  let n := s.fw.abandons + 1
  if n < 3 then modifyFw (fun f => { f with abandons := n }) s
  else
    let s1 := modifyFw (fun f => { f with state := 2, step := 0, abandons := 0, skip := true }) (fwHandoverRecord h stBusy s)
    applyParkedSet (endWaits .activation (some stBusy) none s1)

/-- A harrow is not PARKED within PARK_DRAIN_LIMIT: the park is abandoned and retried after as long again (Table 5-9). -/
def execParkDrainTimeout (h : Nat) (s : State) : Host.Outcome State Fault Refusal :=
  if (harrowAt h s).park = .draining then
    let s1 := modifyHarrow h (fun x => { x with park := .running, parkRetry := true, parkAbandoned := bump x.parkAbandoned }) s
    .next (if handingOver h s then handoverAbandoned h s1 else s1)
  else .next s

/-! ## Programs and erases of firmware blocks -/

/-- The first record of a firmware block that is not yet programmed. -/
def fwUnprogrammed (b block : Nat) (s : State) : Option FwRecord :=
  s.fw.records.find? (fun r => r.bridge == b && r.block == block && !r.programmed)

/-- What the programming of a record's copies lets go on: its PIECE_PUT, or step 3 of an activation. -/
def fwGoOn (r : FwRecord) (s : State) : State :=
  let same := fun (x : FwRecord) => x.kind == r.kind && x.imageId == r.imageId && x.piece == r.piece && x.actSeq == r.actSeq && !x.superseded
  if s.fw.records.any (fun x => same x && !x.programmed) then s
  else if r.kind = 1 then
    let wanted := s.fw.state = 1 ∧ (s.fw.manifest.map fwId) = some r.imageId ∧ (lookup r.piece s.fw.pieces).isNone = true
    endWaits (.fwPiece r.piece) (some stOk) none (if wanted then fwStored r.piece r.data s else s)
  else if r.kind = 3 ∧ s.fw.state = 3 ∧ s.fw.step = 2 then modifyFw (fun f => { f with step := 3, sectors := 0 }) s
  else s

/-- A record of a firmware block is programmed. -/
def fwProgrammed (b block : Nat) (s : State) : State :=
  match fwUnprogrammed b block s with
  | none => s
  | some r =>
    fwGoOn r (modifyFw (fun f => { f with records := f.records.map (fun x => if x = r then { x with programmed := true } else x) }) s)

/-- A program or erase of a firmware block has failed: the block is replaced, and its valid records are written again (R267, R538). -/
def fwFailed (b block : Nat) (s : State) : State :=
  let lost := s.fw.records.filter (fun r => r.bridge == b && r.block == block)
  let s1 := replaceReserved b block (modifyFw (fun f => { f with records := f.records.filter (fun r => !lost.contains r) }) s)
  (lost.filter (fun r => !r.superseded)).foldl (fun st r =>
    let twins := (st.fw.records.filter (fun x => x.kind == r.kind && x.imageId == r.imageId && x.piece == r.piece && x.actSeq == r.actSeq)).map (·.bridge)
    match fwBridges twins st with
    | x :: _ => fwPut x r st
    | [] => if r.kind = 1 ∧ r.programmed = false then endWaits (.fwPiece r.piece) (some stNoResource) none st else fwGoOn r st) s1

/-! ## Staging at the change of leases and at start-up -/

/-- The pieces held of which no record stands in the firmware blocks. -/
def fwUnlanded (m : Bytes) (s : State) : List (Nat × Bytes) :=
  s.fw.pieces.filter (fun x => !s.fw.records.any (fun r => r.kind == 1 && r.imageId == fwId m && r.piece == x.1 && !r.superseded))

/-- Staging kept in buffers goes to media once the head holds leases (R539). -/
def fwLand (s : State) : State :=
  match s.fw.manifest with
  | none => s
  | some m =>
    if fwOnMedia s = false ∨ s.boot.mode = .recovery ∨ (s.fw.onMedia = true ∧ fwUnlanded m s = []) then s
    else
      match if s.fw.onMedia then some s else fwWrite 2 (fwId m) 0 m 0 s with
      | none => s
      | some s1 =>
        let put := fun (acc : Option State) (x : Nat × Bytes) => acc.bind (fun st => fwWrite 1 (fwId m) x.1 x.2 0 st)
        match (fwUnlanded m s).foldl put (some s1) with
        | none => s
        | some s2 => s.fw.handles.foldl (fun st h => releaseOwn h st) (modifyFw (fun f => { f with onMedia := true, handles := [] }) s2)

/-- Whether a record can be read: it is programmed, stands, and its bridge can be reached. -/
def fwReadable (r : FwRecord) (s : State) : Bool := r.programmed && !r.superseded && bridgeReachable r.bridge s

/-- Step 0x0C rebuilds the staging from the firmware blocks: the newest manifest that no later ACTIVATE record activated, and its pieces
that verify; a piece with one readable copy left is copied again (R538, Table 23-7). A staging of another manifest that began in INVENTORY
goes on instead (R539). -/
def fwRescan (s : State) : State :=
  let rs := s.fw.records.filter (fun r => fwReadable r s)
  let open' := rs.filter (fun r => r.kind == 2 && !fwActivated r s)
  let newest := open'.foldl (fun (acc : Option FwRecord) r => match acc with
    | some x => if x.seq < r.seq then some r else some x
    | none => some r) none
  match newest with
  | none => s
  | some r =>
    let m := r.data
    if s.fw.manifest.any (fun x => x != m) then s
    else
    let mine := rs.filter (fun x => x.kind == 1 && x.imageId == r.imageId && decide (x.piece < fwCount m) && fwMatches m x.piece x.data)
    let held := mine.foldl (fun acc x => insertAt x.piece x.data acc) s.fw.pieces
    let s1 := fwSync (modifyFw (fun f => { f with state := 1, manifest := some m, pieces := held, onMedia := true }) s)
    mine.foldl (fun st x =>
      if mine.any (fun y => y.piece == x.piece && y.bridge != x.bridge) then st
      else match fwBridges [x.bridge] st with
        | b :: _ => fwPut b x st
        | [] => st) s1

/-- The media copy: the newest activated image of which every piece can be read (R547). -/
def mediaCopy (s : State) : Option FwImage :=
  let rs := s.fw.records.filter (fun r => r.programmed && !(headBridge r.bridge s).state == 4)
  let newest := (rs.filter (fun r => r.kind == 3)).foldl (fun (acc : Option FwRecord) r => match acc with
    | some x => if x.actSeq < r.actSeq then some r else some x
    | none => some r) none
  newest.bind (fun a =>
    (rs.find? (fun r => r.kind == 2 && r.imageId == a.imageId)).bind (fun man =>
      let mine := (rs.filter (fun r => r.kind == 1 && r.imageId == a.imageId)).foldl (fun acc r => insertAt r.piece r.data acc) []
      if (List.range (fwCount man.data)).all (fun n => (lookup n mine).any (fun b => fwMatches man.data n b)) then
        some { manifest := some man.data, pieces := mine, factory := false }
      else none))

end Sys2Proof.Machine
end

