-- ==== Sys2Proof/Machine/Headland.lean ====
section
/-! DEFINITION. The Headland link and mirroring (R307-R316, R323, R329): sub-links, messages, heartbeats, the INVENTORY exchange, MIRROR and
its acknowledgement, RELEASE, the resynchronisation that precedes RETURN. -/

namespace Sys2Proof.Machine

/-! ## Messages (R309, R310) -/

/-- Whether a head takes a message of a type: the loader takes images only, RECOVERY and DUMP answer image requests, DUMP takes
heartbeats (R322, R547). -/
def hears (mtype : Nat) (s : State) : Bool :=
  match s.boot.mode with
  | .boot => mtype == 0x70 || mtype == 0x71
  | .recovery => mtype == 0x70
  | .dump => mtype == 1 || mtype == 0x70
  | _ => true

/-- A message is discarded: it is counted and recorded (R310). -/
def badMessage (mtype q len : Nat) (s : State) : State :=
  almanac 0x0502 (packFields [(2, mtype), (1, q), (4, len)]) (countHead (fun c => { c with badMessages := bump c.badMessages }) s)

/-- A complete message: its MTYPE and its body, the payloads of its run of frames; none where it does not begin with FIRST and count INDEX up
from 0 (R309). -/
def messageOf (fs : List LinkFrame) : Option (Nat × Bytes) :=
  match fs with
  | [] => none
  | f :: _ =>
    if bitOf f.flags 2 = true ∧ fs.map (·.index) = List.range fs.length then some (f.code, fs.flatMap (·.payload)) else none

/-- The frames of a message arrive on sub-link `q`, as their blocks, each one judged by itself (R308). The message they complete, if they do,
of those that `may` be taken. -/
def headReceive (may : LinkFrame → Bool) (q : Nat) (frames : List Bytes) (s : State) : Option (Nat × Bytes) × State :=
  let s1 := subLink q (linkFrames headlandKind false s.time.ticks frames) s
  let m := takeMessage may (s1.headland.links.getD q resetLinkEnd)
  match m.1 with
  | none => (none, s1)
  | some fs => (messageOf fs, subLink q (fun _ => (m.2, [])) s1)

/-- What a message does: one whose body is not shorter than `least` is taken where the head hears it; a shorter one is discarded (R310). -/
def peerMessage (q : Nat) (least : Bytes → Nat) (f : Bytes → State → State) (m : Nat × Bytes) (s : State) : State :=
  if hears m.1 s = false then s
  else if m.2.length < least m.2 then badMessage m.1 q m.2.length s
  else f m.2 s

/-- A message of the peer of a type arrives on sub-link `q`. -/
def peerRow (mtype q : Nat) (least : Bytes → Nat) (frames : List Bytes) (f : Bytes → State → State) (s : State) : State :=
  let r := headReceive (fun x => x.code == mtype) q frames s
  match r.1 with
  | none => r.2
  | some m => peerMessage q least f m r.2

/-- Credits of a sub-link that are withheld. -/
def withheld (e : LinkEnd) : Nat := if e.state = .up then headlandKind.grants - e.granted else 0

/-- A message that creates a MIRROR root ticket arrives (R113, Table 5-5). While the queue of the harrow that gets it admits no root ticket,
the credits of its frames are withheld and it waits as it was accepted (R29): the same row takes it later, and they go back. -/
def peerRoot (mtype q : Nat) (least : Bytes → Nat) (frames : List Bytes) (f : Bytes → State → State) (s : State) : State :=
  let home := 8 * (q % 4)
  if rootAdmits (queueAt (rootHarrow home s) 0 s) then
    let r := headReceive (fun x => x.code == mtype) q frames s
    let s1 := subLink q (fun e => linkReturn (withheld e) e) r.2
    match r.1 with
    | none => s1
    | some m => peerMessage q least f m (arrive 0x03 0 home mtype q s1).2
  else
    modifyHarrow (rootHarrow home s) (fun hw => { hw with rootRefused := bump hw.rootRefused })
      (subLink q (linkFrames headlandKind true s.time.ticks frames) s)

/-- HEADLAND_BAD_MESSAGE: a message of an unknown MTYPE, or one too short, arrives (R310). -/
def execHeadlandBadMessage (sub : Nat) (frames : List Bytes) (s : State) : Host.Outcome State Fault Refusal :=
  let waits := decide (withheld (s.headland.links.getD sub resetLinkEnd) ≠ 0)
  let r := headReceive (fun x => !(waits && (x.code == 0x10 || x.code == 0x12))) sub frames s
  .next (match r.1 with
  | none => r.2
  | some m => badMessage m.1 sub m.2.length r.2)

/-- Sends a message on every UP sub-link. -/
def headSendAll (mtype : Nat) (body : Bytes) (s : State) : State :=
  (List.range 4).foldl (fun st q => if subUp q st then headSendOn q mtype body st else st) s

/-! ## INVENTORY (R15, R17, R323) -/

/-- The INVENTORY message: one entry for every Furrow link in use, with the identity read from the bridge where it answers. -/
def inventoryBody (s : State) : Bytes :=
  let used := (List.range 192).filter (fun b => (furrowAt b s).link.state != .unused)
  let entry := fun (b : Nat) =>
    let h := headBridge b s
    packFields [(2, b), (1, flagBit (h.ident.isNone || (furrowAt b s).link.state != .up)), (5, 0), (8, (h.ident.map (·.uid)).getD 0)]
  packFields [(1, s.boot.headId), (1, paramNat 0x0D05 0 s), (6, 0)] ++ padTo 16 s.media.arrayUid
    ++ packFields [(4, s.time.powerCycles), (2, used.length), (2, 0)] ++ used.flatMap entry

/-- Sends INVENTORY. -/
def sendInventory (s : State) : State := headSend 0 0x0002 (inventoryBody s) s

/-- A bridge reports different identities on the heads' links: neither uses the link (R17). -/
def miswired (b : Nat) (s : State) : State :=
  if (headBridge b s).state = 5 then s
  else mediaRecord 1 b 0xFF (((headBridge b s).ident.map (·.uid)).getD 0) (mediaAttn (modifyHeadBridge b (fun h => { h with state := 5 }) s))

/-- INVENTORY of the peer: head numbers, survivor settings and bridge identities are checked; a head that has left INVENTORY answers with
its own (Table 13-8 step 2). -/
def inventoryFrom (body : Bytes) (s : State) : State :=
  let head := fieldAt body 0 1
  let survivor := fieldAt body 1 1
  let entries := (List.range (fieldAt body 0x1C 2)).map (fun i =>
    (fieldAt body (0x20 + 16 * i) 2, fieldAt body (0x22 + 16 * i) 1, fieldAt body (0x28 + 16 * i) 8))
  let inv : PeerInventory := { head := head, survivor := survivor, arrayUid := slice body 8 16, powerCycles := fieldAt body 0x18 4, bridges := entries }
  let own := paramNat 0x0D05 0 s
  let s1 := modifyHeadland (fun h => { h with peer := { h.peer with inventory := some inv, ready := false }, survivorZero := decide (survivor ≠ own)
                                              conflict := decide (head = s.boot.headId) }) s
  let rec' := almanac 0x0009 (packFields [(1, s.boot.headId), (1, head), (1, own), (1, survivor)])
  let s2 := if head = s.boot.headId then raiseAttn bitFailover (rec' s1) else if survivor ≠ own then rec' s1 else s1
  let s3 := entries.foldl (fun st e =>
    match (headBridge e.1 st).ident with
    | some i => if e.2.1 = 0 ∧ i.uid ≠ e.2.2 then miswired e.1 st else st
    | none => st) s2
  if s.boot.mode = .inventory then s3 else sendInventory s3

/-- INVENTORY. -/
def execInventory (sub : Nat) (frames : List Bytes) (s : State) : Host.Outcome State Fault Refusal :=
  .next (peerRow 0x0002 sub (fun body => 0x20 + 16 * fieldAt body 0x1C 2) frames inventoryFrom s)

/-- ACTIVE_READY: the peer has ended its start-up as far as serving goes (Table 13-8 step 5). -/
def execActiveReady (sub : Nat) (frames : List Bytes) (s : State) : Host.Outcome State Fault Refusal :=
  .next (peerRow 0x0003 sub (fun _ => 8) frames (fun _ => modifyHeadland (fun h => { h with peer := { h.peer with ready := true } })) s)

/-! ## Sub-links (R308, R315) -/

/-- A HANDOFF frame that is not acknowledged yet. -/
def handoffUnderWay (s : State) : Bool :=
  s.headland.links.any (fun e => (e.unacked ++ e.waiting).any (fun f => f.code == 0x61))

/-- The sole head enters ACTIVE once the HANDOFF of a complete return has been delivered (Table 13-9 step 7). -/
def handoffDelivered (s : State) : State :=
  if s.headland.ret.completing = false ∨ handoffUnderWay s = true then s
  else withAna (fun st => settle (resumeSheaf (resumeIo (reserveDump <| powerSync (modifyReturn (fun _ => resetReturn) (setBaseMode .active 0 st)))))) s

/-- A sub-link trains again: what a lost HANDOFF of a complete return said is sent once more. -/
def resendHandoff (s : State) : State :=
  if s.headland.ret.completing = true ∧ handoffUnderWay s = false then headSend 0 0x0061 (packFields [(2, 0xFFFF), (1, 3)]) s else s

/-- A sub-link's own event, and what the state of the whole link makes of it. -/
def subStep (q : Nat) (f : LinkEnd → LinkEnd × List Bytes) (s : State) : State := linkSync (subLink q f s)

/-- HEADLAND_TRAIN_TIMEOUT: a training bound is missed, or `miswired` a TS names the own ROLE or another SUB_LINK: the sub-link is then
not used (R241, R308, R315). -/
def execHeadlandTrainTimeout (sub : Nat) (miswired : Bool) (s : State) : Host.Outcome State Fault Refusal :=
  .next (if miswired then
    let s1 := subStep sub (fun e => if e.state = .training then ({ linkTrainFail { e with attempts := 2 } with linkDowns := bump e.linkDowns }, []) else (e, [])) s
    almanac 0x0402 (packFields [(1, 2), (2, sub), (1, 2)]) s1
  else subStep sub (fun e => (linkTrainFail e, [])) s)

/-- What a sub-link that comes up brings about: the first one after the link was DOWN begins the INVENTORY exchange of a head in INVENTORY;
the loader that takes the peer's image asks for its manifest (R321, R323, R547). -/
def linkCame (s : State) : State :=
  if s.boot.mode = .inventory ∧ 9 ≤ s.boot.step then sendInventory s
  else if s.boot.mode = .boot ∧ s.boot.step = 6 ∧ s.boot.variant = 2 ∧ s.fw.loading.isNone = true then
    headSend 0 0x0070 (packFields [(4, 0xFFFFFFFF), (4, 1)])
      { s with fw := { s.fw with loading := some { manifest := none, pieces := [], factory := false } } }
  else s

/-- HEADLAND_RETRAIN_RETRY: the 1 s retry of a DOWN sub-link (R315). -/
def execHeadlandRetrainRetry (sub : Nat) (s : State) : Host.Outcome State Fault Refusal := .next (subStep sub (fun e => (linkRetry e, [])) s)

/-- HEADLAND_LINK_FRAME: acknowledgement, credit and NAK of a sub-link; the frames of messages carry the same in their headers
(R245-R247, R308). -/
def execHeadlandLinkFrame (sub : Nat) (nak : Bool) (ack : Option Nat) (credit : Nat) (s : State) : Host.Outcome State Fault Refusal :=
  .next (handoffDelivered (subStep sub (linkOnLink nak ack credit) s))

/-- HEADLAND_REPLAY_TIMEOUT: 4 µs without an advance of the acknowledgement (R247, R308). -/
def execHeadlandReplayTimeout (sub : Nat) (s : State) : Host.Outcome State Fault Refusal :=
  .next (resendHandoff (subStep sub linkReplayTimeout s))

/-- HEADLAND_BLOCK_LOCK_LOSS: the sub-link trains again (R247, R308). -/
def execHeadlandBlockLockLoss (sub : Nat) (s : State) : Host.Outcome State Fault Refusal :=
  let s1 := subStep sub linkDrops s
  .next (resendHandoff (if subUp sub s then modifyHeadland (fun h => { h with lanes := h.lanes.set sub 0 }) s1 else s1))

/-- HEADLAND_FRAME_DISCARD: a frame is discarded (R244-R247, R308). -/
def execHeadlandFrameDiscard (sub : Nat) (cause : Discard) (s : State) : Host.Outcome State Fault Refusal :=
  .next (resendHandoff (subStep sub (linkDiscard headlandKind cause s.time.ticks) s))

/-- HEADLAND_DEGRADE_CLEAR: no mirror timer has won in the last 1 s (R315). -/
def execHeadlandDegradeClear (s : State) : Host.Outcome State Fault Refusal := .next (linkSync (modifyHeadland (fun h => { h with lastWin := none }) s))

/-! ## Heartbeat (R316, R322) -/

/-- Bytes free in the mirror arena. -/
def mirrorFree (s : State) : Nat := ((List.range 8).map (fun p => freeNow (gList 1 p s) * poolSize p)).sum

/-- FIT: fit, in hold-down, DUMP (Table 13-3). -/
def fitByte (s : State) : Nat :=
  let m := s.boot.mode
  flagBit (m != .dump && m != .yield) + 2 * flagBit (m == .fallow && s.headland.ret.holdFrom.isSome && !s.headland.ret.holdEnded)
    + 4 * flagBit (m == .dump)

/-- The body of a HEARTBEAT. -/
def heartbeatBody (s : State) : Bytes :=
  packFields ([(8, s.headland.hbSeq), (8, if s.time.arraySet then arrayTime s else 0), (8, s.journal.writeSeq - 2), (8, s.journal.nextJseq - 2)]
    ++ (List.range 4).map (fun q => (8, s.ingest.nextSeq.getD q 1 - 1))
    ++ [(2, s.hsw.word.toNat), (1, s.boot.headId), (1, fitByte s), (4, s.time.powerCycles), (24, bridgeBitmap (leasedBridges s)), (8, mirrorFree s)])

/-- HEARTBEAT_TIMER: a 100 µs interval ends: one without a heartbeat of a present peer is counted, and a head whose Steward runs sends its
own on every UP sub-link (R316, R330). -/
def execHeartbeatTimer (s : State) : Host.Outcome State Fault Refusal :=
  let missed := s.headland.peerPresent && !s.headland.peer.beatSeen
  let s1 := if missed then countHead (fun c => { c with hbMissed := bump c.hbMissed }) s else s
  let s2 := modifyHeadland (fun h => { h with peer := { h.peer with beatSeen := false } }) s1
  .next (if s.boot.mode = .boot ∨ s.boot.mode = .recovery ∨ s.headland.txOff.isSome = true then s2
  else
    let s3 := modifyHeadland (fun h => { h with hbSeq := h.hbSeq + 1 }) s2
    headSendAll 0x0001 (heartbeatBody s3) s3)

/-- Sets array time now, whether it runs fast from here on. -/
def setClock (t : Nat) (fast : Bool) (s : State) : State :=
  hswSync { s with time := { s.time with arraySet := true, arrayBase := t, arrayTick := s.time.ticks, slewing := fast } }

/-- The peer's array time: unset time takes it, more than 1 s behind steps to it, less behind runs fast until both agree within 1 ms (R53). -/
def heedTime (peer : Nat) (s : State) : State :=
  let now := arrayTime s
  if peer = 0 then s
  else if s.time.arraySet = false then almanac 0x0003 (packFields [(8, 0), (8, peer), (8, peer)]) (setClock peer false s)
  else if now + 1000000 < peer then almanac 0x0003 (packFields [(8, now), (8, peer), (8, peer)]) (setClock peer false s)
  else if now + 1000 < peer then (if s.time.slewing then s else setClock now true s)
  else if s.time.slewing then setClock now false s
  else s

/-- The next number of a head's own parity above another's (R214, R280). -/
def nextAbove (own other : Nat) : Nat := if other < own then own else if (other + 1) % 2 = own % 2 then other + 1 else other + 2

/-- The head's sequences rise above the peer's (R60, R214, R280, R316). -/
def raiseSequences (write jseq : Nat) (ingest : List Nat) (s : State) : State :=
  let j := { s.journal with writeSeq := nextAbove s.journal.writeSeq write, nextJseq := nextAbove s.journal.nextJseq jseq }
  modifyIngest (fun i => { i with nextSeq := (List.range 4).map (fun q => max (i.nextSeq.getD q 1) (ingest.getD q 0 + 1)) }) { s with journal := j }

/-- Sends what waited for room in the peer's mirror buffer, as far as its MIRROR_FREE covers (R312). -/
def sendWaitingMirrors (free : Nat) (s : State) : State :=
  (s.headland.msgs.foldl (fun (acc : Nat × State) m =>
    if m.noRoom = false ∨ acc.1 < m.body.length then acc
    else
      let st := modifyHeadland (fun h => { h with msgs := mapIf (fun x => x.mseq == m.mseq) (fun x => { x with noRoom := false }) h.msgs }) acc.2
      (acc.1 - m.body.length, headSendOn m.sub 0x0010 m.body st)) (free, s)).2

/-! ## Resynchronisation (Table 13-9 step 1) -/

/-- A record to resynchronise: its quadrant, its stamp where it is a BUFFERED one, its bytes and payload. -/
structure ResyncItem where
  quadrant : Nat
  stamp : Option Nat
  bytes : Bytes
  payload : Bytes
  deriving DecidableEq, Repr

/-- Every uncommitted BUFFERED record with its payload, and every other journal record after the last persisted page. -/
def resyncItems (s : State) : List ResyncItem × State :=
  let bufs := (s.ingest.own.filter (fun r => !finished r)).foldl (fun (acc : List ResyncItem × State) r =>
    let (d, st) := if r.zero then ([], acc.2) else recordData r acc.2
    (acc.1 ++ [{ quadrant := r.quadrant, stamp := some r.seq, bytes := journalBytes r.jseq (.buffered r.target r.off r.len r.seq), payload := d }], st))
    ([], s)
  let others := s.journal.ring.filter (fun r => !r.persisted && (match r.body with
    | .buffered _ _ _ _ => false
    | _ => true))
  (bufs.1 ++ others.map (fun r => { quadrant := 0, stamp := none, bytes := journalBytes r.jseq r.body, payload := [] }), bufs.2)

/-- Sends one record of a resynchronisation; the acknowledgement of a BUFFERED record is waited for before it is released. -/
def resyncSend (s : State) (x : ResyncItem) : State :=
  let (m, s1) := mirrorSend x.quadrant (2 + flagBit (!x.payload.isEmpty)) [x.bytes] x.payload [] s
  match x.stamp with
  | some n => modifyIngest (fun i => { i with own := mapIf (fun r => r.quadrant == x.quadrant && r.seq == n) (fun r => { r with mseq := m }) i.own }) s1
  | none => s1

/-- A key-load event for every VALID working slot (R185). -/
def sendKeys (s : State) : State :=
  s.cipher.slots.foldl (fun st x => if x.2.state = .valid then slotEvent x.1 x.2 st else st) s

/-- RESYNC_BEGIN, the records, RESYNC_END, the keys; new writes are mirrored from here on. -/
def beginResync (s : State) : State :=
  let (items, s1) := resyncItems s
  let bytes := (items.map (fun x => x.bytes.length + x.payload.length)).sum
  let s2 := items.foldl resyncSend (headSend 0 0x0013 (packFields [(8, items.length), (8, bytes)]) s1)
  let last := s2.headland.nextMseq - 1
  sendKeys (headSend 0 0x0014 (leBytes 8 last) (modifyReturn (fun r => { r with resyncEnd := some last }) s2))

/-- Whether the sole head begins to resynchronise a peer in FALLOW (R325). -/
def resyncDue (s : State) : Bool :=
  baseMode s == .sole && peerMode s == modeCode .fallow && s.headland.ret.resyncEnd.isNone && s.headland.takeover.isNone && s.headland.peerPresent

/-- A peer in INVENTORY has begun a start-up: the head forgets the MSEQs it holds of it, and what resynchronisation had reached (R555). -/
def peerStarts (s : State) : State :=
  if peerMode s ≠ modeCode .inventory then s
  else
    let s1 := modifyHeadland (fun h => { h with held := [] }) s
    if baseMode s1 = .sole ∧ s1.headland.ret.resyncEnd.isSome = true then endMirrors s1 else s1

/-- Asks the sole head for RETURN once the hold-down has passed, where automatic return is on (Table 13-9 step 4, R329). -/
def tryReturn (s : State) : State :=
  let r := s.headland.ret
  if s.boot.mode = .fallow ∧ r.holdFrom.isSome = true ∧ r.holdEnded = true ∧ r.asked = false ∧ paramNat 0x0D07 0 s = 1
      ∧ s.headland.returnDisable = false ∧ s.headland.peerPresent = true then
    headSend 0 0x0062 [] (modifyReturn (fun x => { x with asked := true }) s)
  else s

/-- HEARTBEAT of the peer (R53, R316, R322). -/
def heartbeatFrom (b : Bytes) (s : State) : State :=
  let seqs := (List.range 4).map (fun q => fieldAt b (0x20 + 8 * q) 8)
  let see := fun (p : PeerView) =>
    { p with lastBeat := some s.time.ticks, beatSeen := true, hbSeq := fieldAt b 0 8, writeSeq := fieldAt b 0x10 8, jseq := fieldAt b 0x18 8
             ingest := seqs, hsw := fieldAt b 0x40 2, fit := fieldAt b 0x43 1, powerCycles := fieldAt b 0x44 4
             leased := leNat (slice b 0x48 24), mirrorFree := fieldAt b 0x60 8 }
  let s1 := hswSync (modifyHeadland (fun h => { h with peer := see h.peer, peerPresent := true }) s)
  let s2 := raiseSequences (fieldAt b 0x10 8) (fieldAt b 0x18 8) seqs (heedTime (fieldAt b 8 8) s1)
  let s3 := sendWaitingMirrors (fieldAt b 0x60 8) (peerStarts s2)
  let s4 := stepReclaims (if bitOf (fieldAt b 0x43 1) 2 then peerStepsAside s3 else s3)
  bothSole (tryReturn (if resyncDue s4 then beginResync s4 else s4))

/-- HEARTBEAT. -/
def execHeartbeat (sub : Nat) (frames : List Bytes) (s : State) : Host.Outcome State Fault Refusal := .next (peerRow 0x0001 sub (fun _ => 0x68) frames heartbeatFrom s)

/-! ## MIRROR at the peer (R64, R311, R312) -/

/-- The offset in the payload of a forwarded write, or of a forwarded fill, at which a range of a target begins; none where the forward is
not of that target, or begins after it. -/
def forwardOffset (f : Forward) (t : Target) (off : Nat) (s : State) : Option Nat :=
  let c := f.body.take 64
  match t with
  | .grain ns g =>
    let first := (sqeRange c).1 * 2 ^ ((nsAt ns s).map (·.lbaLog2)).getD 9
    if f.kind = 1 ∧ sqeOpcode c = 1 ∧ sqeNsid c = ns ∧ first ≤ 16384 * g + off then some (16384 * g + off - first) else none
  | .piece o _ _ =>
    let mine := s.sheaf.puts.any (fun p => p.number == o && p.remote == some (fieldAt c 8 4))
    if f.kind = 2 ∧ (shVerb c = 3 ∨ shVerb c = 4) ∧ mine = true ∧ fieldAt c 0x28 8 ≤ off then some (off - fieldAt c 0x28 8) else none

/-- The buffers in which this head's own copy of a forwarded payload becomes the mirror copy of the record that the owner places for it
without a payload (R61): the oldest forward with a piece of exactly that range gives it up. -/
def takeForwarded (t : Target) (off len : Nat) (s : State) : Option (List Nat × State) :=
  let piece := fun (f : Forward) => (forwardOffset f t off s).bind (fun o => f.room.find? (fun r => r.1 == o && r.2.1 == len))
  (s.headland.forwards.find? (fun f => (piece f).isSome)).bind (fun f => (piece f).map (fun r =>
    (r.2.2, setRoom f.id (f.room.filter (fun x => x.1 != r.1)) s)))

/-- Stores a mirrored BUFFERED record; the payload of its message from where it begins, where the message has one. None where the mirror
buffer has no room (R312). -/
def storeBuffered (q mseq jseq : Nat) (t : Target) (off len seq : Nat) (payload : Option Bytes) (s : State) : Option State :=
  let r : BufferedRec := { target := t, off := off, len := len, quadrant := targetQuadrant t s, seq := seq, handles := [], skip := 0, zero := false, inDump := none
                           mseq := mseq, jseq := jseq, done := [] }
  let keep := fun (x : BufferedRec) (st : State) => modifyIngest (fun i => { i with mirror := i.mirror.filter (fun y => y.jseq != jseq) ++ [x] }) st
  match payload, takeForwarded t off len s with
  | some d, _ => (landBytes (0x24 + q) 1 d s).map (fun x => keep { r with handles := x.1 } x.2)
  | none, some (hs, s1) => some (keep { r with handles := hs } s1)
  | none, none => some (keep { r with zero := true } s)

/-- A mirrored commit: the BUFFERED records of its target that the peer placed before it are committed by it. -/
def mirrorDone (t : Target) (entry jseq : Nat) (s : State) : State :=
  let (off, len) := targetRange t
  let c : Commit := { off := off, len := len, entry := entry, jseq := jseq, mseq := none, sub := 0 }
  modifyIngest (fun i => { i with mirror := mapIf (fun r => sameTarget t r && decide (r.jseq < jseq)) (fun r => { r with done := r.done ++ [c] }) i.mirror }) s

/-- What a mirrored record does besides its effect on the tables: commits, and what hosts and clients are told. -/
def mirrorEffects (jseq : Nat) (b : JBody) (s : State) : State :=
  match b with
  | .chunk t e _ _ => mirrorDone t e jseq (modifyIngest (fun i => { i with idGens := insertAt (entryChunk e) (entryGen e + 1) i.idGens }) s)
  | .reference t e => mirrorDone t e jseq s
  | .unmap (.grain ns g) n => (List.range n).foldl (fun st i => mirrorDone (.grain ns (g + i)) 0 jseq st) s
  | .table (.nspace n) => namespaceNotice n.hosts n.id s
  | .table (.objdomGone id) => objdomDropped id s
  | _ => s

/-- Hosts of a namespace before a change of its entry, who are told of it too. -/
def beforeMirror (b : JBody) (s : State) : State :=
  match b with
  | .table (.nspace n) => ((nsAt n.id s).map (fun o => namespaceNotice (o.hosts.filter (fun h => !n.hosts.contains h)) n.id s)).getD s
  | .table (.namespaceGone id) => ((nsAt id s).map (fun o => namespaceNotice o.hosts id s)).getD s
  | _ => s

/-- Stores the records of a message one by one, each BUFFERED one with its share of the payload. -/
def storeRecords (q mseq : Nat) : List (Nat × Nat × Bytes) → Option Bytes → State → Option State
  | [], _, s => some s
  | (jseq, jtype, bytes) :: rest, payload, s =>
    let held := fun (st : State) => modifyHeadland (fun h => { h with mirrored := h.mirrored ++ [(jseq, bytes)] }) st
    match parseBody jtype (bytes.drop 16) (arrayTime s) with
    | some (.buffered t off len seq) =>
      match storeBuffered q mseq jseq t off len seq (payload.map (·.take len)) s with
      | some s1 => storeRecords q mseq rest (payload.map (·.drop len)) (held s1)
      | none => none
    | some b => storeRecords q mseq rest payload (held (mirrorEffects jseq b (applyBody jseq b (beforeMirror b s))))
    | none => storeRecords q mseq rest payload (held s)

/-- MIRROR_ACK. -/
def sendMirrorAck (q mseq status : Nat) (s : State) : State := headSendOn q 0x0011 (packFields [(8, mseq), (2, status)]) s

/-- Once every message of a resynchronisation up to its last is stored, the head says so, and its hold-down begins (Table 13-9 steps 2
and 3). -/
def resyncCheck (s : State) : State :=
  let r := s.headland.ret
  match r.inboundEnd with
  | some m =>
    if r.inbound = true ∧ r.inboundLeft = 0 ∧ r.holdFrom.isNone = true then
      sendMirrorAck (subFor 0 s) m 3 (modifyReturn (fun x => { x with holdFrom := some s.time.ticks, holdEnded := false }) s)
    else s
  | none => s

/-- Answers the drain requests whose RELOCATE record has been applied: it has come mirrored, or it is older than every record that has, and was
replayed (Table 9-3 step 5). -/
def answerDrains (s : State) : State :=
  let old := fun (j : Nat) => !s.headland.mirrored.isEmpty && s.headland.mirrored.all (fun m => decide (j < m.1))
  let here := fun (x : Nat × Nat × Nat) => decide (x.2.2 = 0) || s.headland.mirrored.any (fun m => m.1 == x.2.2) || old x.2.2
  let go := s.headland.drains.filter here
  go.foldl (fun st x => headSendOn x.1 0x0053 (packFields [(4, x.2.1), (4, 0), (8, x.2.2)]) st)
    (modifyHeadland (fun h => { h with drains := h.drains.filter (fun x => !here x) }) s)

/-- MIRROR of the peer: stored, or known already, or refused for want of room (R312). -/
def mirrorFrom (q : Nat) (body : Bytes) (s : State) : State :=
  let mseq := fieldAt body 0 8
  if s.headland.held.contains mseq then
    sendMirrorAck q mseq 1 (countHead (fun c => { c with mirrorDuplicates := bump c.mirrorDuplicates }) s)
  else
    let rlen := fieldAt body 0x0C 4
    let recs := splitRecords (fieldAt body 0x0A 2) (slice body 0x20 rlen)
    let payload := if bitOf (fieldAt body 9 1) 0 then some (slice body (roundUp (0x20 + rlen) 64) (fieldAt body 0x10 4)) else none
    match storeRecords q mseq recs payload s with
    | none => sendMirrorAck q mseq 2 s
    | some s1 =>
      let s2 := modifyHeadland (fun h => { h with held := h.held ++ [mseq] }) (growFar s1)
      let s3 := if bitOf (fieldAt body 9 1) 1 then modifyReturn (fun r => { r with inboundLeft := r.inboundLeft - 1 }) s2 else s2
      resyncCheck (answerDrains (sendMirrorAck q mseq 0 s3))

/-- The least length of a MIRROR body: its records, and its payload from the next multiple of 64. -/
def mirrorLeast (body : Bytes) : Nat :=
  let front := 0x20 + fieldAt body 0x0C 4
  if fieldAt body 0x10 4 = 0 then front else roundUp front 64 + fieldAt body 0x10 4

/-- MIRROR (R64, R312, R576). -/
def execMirror (sub : Nat) (frames : List Bytes) (s : State) : Host.Outcome State Fault Refusal := .next (peerRoot 0x0010 sub mirrorLeast frames (mirrorFrom sub) s)

/-- RESYNC_BEGIN: a head in FALLOW expects the records announced (Table 13-9 step 1). -/
def resyncBegins (body : Bytes) (s : State) : State :=
  if s.boot.mode ≠ .fallow then s
  else modifyReturn (fun _ => { resetReturn with inbound := true, inboundLeft := fieldAt body 0 8 }) s

/-- RESYNC_BEGIN. -/
def execResyncBegin (sub : Nat) (frames : List Bytes) (s : State) : Host.Outcome State Fault Refusal :=
  .next (peerRow 0x0013 sub (fun _ => 16) frames resyncBegins s)

/-- RESYNC_END: the last MSEQ of the resynchronisation. -/
def execResyncEnd (sub : Nat) (frames : List Bytes) (s : State) : Host.Outcome State Fault Refusal :=
  .next (peerRow 0x0014 sub (fun _ => 8) frames (fun body st => resyncCheck (modifyReturn (fun r => if r.inbound then { r with inboundEnd := some (fieldAt body 0 8) } else r) st)) s)

/-- RELEASE: the mirror buffer gives up the BUFFERED records named (R314). -/
def releaseMirrored (body : Bytes) (s : State) : State :=
  let js := (List.range (fieldAt body 0 4)).map (fun i => fieldAt body (8 + 8 * i) 8)
  let gone := s.ingest.mirror.filter (fun r => js.contains r.jseq)
  let s1 := modifyIngest (fun i => { i with mirror := i.mirror.filter (fun r => !js.contains r.jseq) }) s
  gone.foldl (fun st r => r.handles.foldl (fun t h => releaseOwn h t) st) s1

/-- RELEASE. -/
def execRelease (sub : Nat) (frames : List Bytes) (s : State) : Host.Outcome State Fault Refusal :=
  .next (peerRoot 0x0012 sub (fun body => 8 + 8 * fieldAt body 0 4) frames releaseMirrored s)

/-! ## Acknowledgement at the sender (R43, R66, R312, R313) -/

/-- A MIRROR message is acknowledged: what waited for it goes on, and the RELEASE of what it committed goes on its sub-link (R314). -/
def mirrorAcknowledged (q mseq : Nat) (s : State) : State :=
  let sub := fun (c : Commit) => if c.mseq = some mseq then { c with sub := q } else c
  let s1 := modifyHeadland (fun h => { h with msgs := h.msgs.filter (fun m => m.mseq != mseq) }) s
  let s2 := modifyIngest (fun i => { i with ops := i.ops.map (fun op => { op with mseqs := op.mseqs.filter (fun m => m != mseq) })
                                            own := i.own.map (fun r => { r with done := r.done.map sub }) }) s1
  settle (endWaits (.mirrorAck mseq) none none s2)

/-- MIRROR_ACK of the peer. An acknowledgement of an attempt that the mirror timer has beaten is discarded and counted (R43, R313). -/
def mirrorAckFrom (q : Nat) (body : Bytes) (s : State) : State :=
  let mseq := fieldAt body 0 8
  let status := fieldAt body 8 2
  if status = 3 then
    (if s.headland.ret.resyncEnd = some mseq then modifyReturn (fun r => { r with resyncAcked := true }) s else s)
  else
    match s.headland.msgs.find? (fun m => m.mseq == mseq && m.sub == q) with
    | none => countIngest q (fun c => { c with mirrorLate := bump c.mirrorLate }) s
    | some m =>
      if status = 2 then
        countHead (fun c => { c with mirrorNoRoom := bump c.mirrorNoRoom })
          (modifyHeadland (fun h => { h with msgs := mapIf (fun x => x.mseq == m.mseq) (fun x => { x with noRoom := true }) h.msgs }) s)
      else mirrorAcknowledged q mseq s

/-- MIRROR_ACK. -/
def execMirrorAck (sub : Nat) (frames : List Bytes) (s : State) : Host.Outcome State Fault Refusal := .next (peerRow 0x0011 sub (fun _ => 10) frames (mirrorAckFrom sub) s)

/-- The next UP sub-link after one, in the order of R313. -/
def nextSub (q : Nat) (s : State) : Option Nat := ([1, 2, 3, 4].map (fun d => (q + d) % 4)).find? (fun x => subUp x s)

/-- MIRROR_TIMEOUT: the mirror timer wins over the latest attempt: Headland is degraded, and the message goes again on the next UP sub-link, at
most MIRROR_RETRIES times (R43, R66, R313). A message that waits for room has no timer (R312). -/
def execMirrorTimeout (mseq : Nat) (s : State) : Host.Outcome State Fault Refusal :=
  .next (match s.headland.msgs.find? (fun m => m.mseq == mseq) with
  | none => s
  | some m =>
    if m.noRoom = true ∨ 4 ≤ m.sub then s
    else
      let s1 := linkSync (modifyHeadland (fun h => { h with lastWin := some s.time.ticks }) s)
      let put := fun (f : MirrorMsg → MirrorMsg) (st : State) =>
        modifyHeadland (fun h => { h with msgs := mapIf (fun x => x.mseq == mseq) f h.msgs }) st
      match nextSub m.sub s1 with
      | some n =>
        if m.resends < paramNat 0x0D01 0 s then
          countHead (fun c => { c with mirrorResends := bump c.mirrorResends })
            (headSendOn n 0x0010 m.body (put (fun x => { x with sub := n, earlier := x.earlier ++ [m.sub], resends := x.resends + 1 }) s1))
        else put (fun x => { x with sub := 4, earlier := x.earlier ++ [m.sub] }) s1
      | none => put (fun x => { x with sub := 4, earlier := x.earlier ++ [m.sub] }) s1)

/-- MIRROR_GIVEUP: no attempt has been acknowledged within MIRROR_GIVEUP of the first while heartbeats still arrive: the heartbeats stop, and
the transmitters of all sub-links are off for 10 ms (R313). -/
def execMirrorGiveup (mseq : Nat) (s : State) : Host.Outcome State Fault Refusal :=
  .next (if s.headland.peerPresent = false ∨ s.headland.msgs.any (fun m => m.mseq == mseq) = false ∨ s.headland.txOff.isSome = true then s
  else
    let off := fun (e : LinkEnd) => if e.state = .up then (linkRetrain e, ([] : List Bytes)) else (e, [])
    let s1 := (List.range 4).foldl (fun st q => subLink q off st) s
    linkSync (modifyHeadland (fun h => { h with txOff := some s.time.ticks, lanes := [0, 0, 0, 0] }) s1))

/-- TX_DISABLE_END: the transmitters come on again, and the sub-links train (R313). -/
def execTxDisableEnd (s : State) : Host.Outcome State Fault Refusal := .next (modifyHeadland (fun h => { h with txOff := none }) s)

/-! ## HEADLAND_STATUS (R329, R330) -/

/-- The state of a link as R329 numbers it. -/
def linkCode : LinkState → Nat
  | .up => 0 | .training => 1 | .down => 2 | .unused => 2

/-- The output of HEADLAND_STATUS. -/
def headlandStatusBytes (s : State) : Bytes :=
  let h := s.headland
  let links := (List.range 4).map (fun q => h.links.getD q resetLinkEnd)
  let c := h.counters
  packFields ((List.range 4).flatMap (fun q =>
      let e := h.links.getD q resetLinkEnd
      [(4, linkCode e.state), (4, h.lanes.getD q 0), (4, e.credits)])
    ++ [(1, wholeCode h.linkState), (1, peerMode s), (1, h.peer.fit), (5, 0), (8, h.peer.lastBeat.getD 0)]
    ++ links.flatMap (fun e => [(8, e.crcErrors), (8, e.replayCount), (8, e.retrains)])
    ++ [(8, c.hbMissed), (8, c.mirrorMsgs), (8, c.mirrorResends), (8, c.mirrorDuplicates), (8, c.mirrorNoRoom), (8, c.badMessages), (8, c.yields),
        (8, c.takeovers), (8, c.partitions), (8, c.returns)])

/-- HEADLAND_STATUS (R329). -/
def execHeadlandStatus (p : McPacket) (s : State) : Host.Outcome State Fault Refusal :=
  .next (mciRun 0x040B p (fun st => answerRecords p [headlandStatusBytes st] [] st) s)

end Sys2Proof.Machine
end

