-- ==== Sys2Proof/Machine/Peers.lean ====
section
/-! DEFINITION. What the heads ask of each other: forwarded commands (R61, R397, R493), key loads (R185, R194), chunk-ID blocks (R310), erase and
drain exchanges (R210, R219), images (R547), the notice of YIELD, adoption (R319, R321) and RETURN (R325, Table 13-9). -/

namespace Sys2Proof.Machine

/-! ## Forwarded commands (R61, R493) -/

/-- The packet of a forwarded MCI command: 64 bytes and its data. -/
def packetOf (ring : Nat) (body : Bytes) : McPacket :=
  { fetchedFrom := ring, tag := BitVec.ofNat 16 (fieldAt body 2 2), flags := body.getD 4 0, function := body.getD 5 0, ring := body.getD 6 0
    dataPages := body.getD 7 0, dataPtr := BitVec.ofNat 64 (fieldAt body 8 8), params := slice body 16 48, authBlock := [], data := body.drop 64
    busError := false }

/-- The commands that one head passes to the other: those of the key owner (R194), of the ingest owner (R289, R407), array-scope parameters
(R493), and what FW_ACTIVATE asks (R543). -/
def forwardedBody (opcode : Nat) (p : McPacket) (s : State) : McEnd × State :=
  if opcode = 0x0101 then setParam p s
  else if opcode = 0x0203 then scopeParamSet p s
  else if opcode = 0x0200 then domainCreate p s
  else if opcode = 0x0233 then holdClear p s
  else if opcode = 0x0305 then keyRewrap p s
  else if opcode = 0x0306 then keyEpochAdvance p s
  else if opcode = 0x0307 then keyEpochDestroy p s
  else if opcode = 0x0500 then snapCreate p s
  else if opcode = 0x0702 then fwStatus p s
  else refuse stBadOpcode s

/-- FORWARD: the peer passes a command on. -/
def forwardFrom (q : Nat) (body : Bytes) (s : State) : State :=
  let id := fieldAt body 0 8
  let kind := fieldAt body 8 1
  let cmd := body.drop 16
  if kind = 1 then nvFromPeer id q cmd s
  else if kind = 2 then shFromPeer id (cmd.take 64) (cmd.drop 64) s
  else if kind = 3 then
    let p := packetOf (peerRing + id) cmd
    endCommand p (forwardedBody (fieldAt cmd 0 2) p s)
  else forwardDone id stBadParam [] s

/-- FORWARD. -/
def execForward (sub : Nat) (frames : List Bytes) (s : State) : Host.Outcome State Fault Refusal :=
  .next (peerRow 0x0020 sub (fun _ => 0x50) frames (fun body => forwardFrom (sub % 4) body) s)

/-- The owner has answered a forwarded NVMe command: with all its parts acknowledged it completes, and one failure ends it (R61). -/
def nvForwardDone (qp cid : Nat) (st : Status) (s : State) : State :=
  if statusOk st then
    if s.ingest.ops.any (fun op => op.forward.isNone && op.client == ⟨qp, cid⟩) then s else clientDone ⟨qp, cid⟩ [] s
  else
    let mine := fun (f : Forward) => f.client == some (qp, cid)
    let s1 := modifyHeadland (fun h => { h with forwards := h.forwards.filter (fun f => !mine f) }) (freeRoom (s.headland.forwards.filter mine) s)
    let s2 := modifyIngest (fun i => { i with ops := i.ops.filter (fun op => op.forward.isSome || op.client != ⟨qp, cid⟩) }) s1
    nvEnd qp cid 0 0 (nvOfStatus st) 0 s2

/-- The reply that an MCI command's end stands for. -/
def endResult (e : McEnd) : Status × Bytes :=
  match e with
  | .reply st r => (st, r)
  | .stands => (stOk, [])

/-- The peer has accepted a SCOPE_PARAM_SET: the record is placed, and the command waits for its acknowledgement (DESIGN CHOICE 27, R576). -/
def scopeParamPlaced (id : Nat) (p : McPacket) (s : State) : State :=
  let b : ScopeParam := { kind := parm p 2 1, id := parm p 4 2, param := parm p 0 2, value := parmBytes p 8 (parm p 6 2) }
  let (_, m, s1) := place 0 (.scopeParam b) s
  match m with
  | none => endWaits (.forward id) (some stOk) (some [1]) s1
  | some k =>
    { s1 with mci := { s1.mci with waits := mapIf (fun w => w.kind == .forward id) (fun w => { w with kind := .mirrorAck k, result := [1] }) s1.mci.waits } }

/-- The peer has answered a forwarded MCI command (R493). -/
def mciForwardDone (f : Forward) (st : Status) (result rest : Bytes) (bad : List Nat) (s : State) : State :=
  let opcode := fieldAt f.body 0 2
  let p := packetOf 0 f.body
  if opcode = 0x0702 then fwPeerSchemas st rest bad s
  else if opcode = 0x0101 ∧ statusOk st = true then
    let r := setAnswer (parm p 0 2) (parm p 2 2) ((packetValue p (parm p 4 2)).getD []) s
    endWaits (.forward f.id) (some (endResult r.1).1) (some (endResult r.1).2) r.2
  else if opcode = 0x0203 ∧ statusOk st = true then scopeParamPlaced f.id p s
  else exportAnswered f.id st result (endWaits (.forward f.id) (some st) (some result) s)

/-- FORWARD_DONE of the peer. `bad` names the sectors that an activation, which the answer lets begin, cannot write. -/
def forwardDoneFrom (body : Bytes) (bad : List Nat) (s : State) : State :=
  let id := fieldAt body 0 8
  let st : Status := BitVec.ofNat 16 (fieldAt body 8 2)
  let result := slice body 0x10 16
  match s.headland.forwards.find? (fun f => f.id == id) with
  | none => s
  | some f =>
    let s1 := modifyHeadland (fun h => { h with forwards := h.forwards.filter (fun x => x.id != id) }) (freeRoom [f] s)
    match f.kind, f.client with
    | 1, some (qp, cid) => nvForwardDone qp cid st s1
    | 2, some (qp, tag) => shForwardDone qp tag st result s1
    | 3, _ => mciForwardDone f st result (body.drop 0x20) bad s1
    | _, _ => s1

/-- FORWARD_DONE. -/
def execForwardDone (sub : Nat) (frames : List Bytes) (bad : List Nat) (s : State) : Host.Outcome State Fault Refusal :=
  .next (peerRow 0x0021 sub (fun _ => 0x20) frames (fun body => forwardDoneFrom body bad) s)

/-! ## Keys (R185, R194) -/

/-- The plaintext key that a key-load event stands for: unwrapped from its envelope, or derived from its label (R185, R200). -/
def eventKey (use domain : Nat) (data : Bytes) (s : State) : Option Bytes :=
  if use = 1 then (gauntletKey (fieldAt data 1 1) s).bind (fun k => keyUnwrap k (slice data 16 40))
  else if use = 2 ∨ use = 3 then (gauntletKey domain s).map (fun k => hmacSha256 k (data.take 32))
  else none

/-- The use that a code names (Table 8-5). -/
def useOfCode (n : Nat) : SlotUse := if n = 1 then .data else if n = 2 then .repl else if n = 3 then .hmac else .none

/-- KEY_LOAD of the peer: the same slot is loaded; one that is VALID with another key is evicted first (R185). -/
def keyLoadFrom (q : Nat) (body : Bytes) (s : State) : State :=
  let n := fieldAt body 0 2
  let use := fieldAt body 2 1
  let d := fieldAt body 3 1
  let ep := fieldAt body 4 4
  let data := body.drop 8
  let ack := fun (st : Status) (x : State) => headSendOn q 0x0031 (packFields [(2, n), (2, st.toNat)]) x
  if 4096 ≤ n then ack stBadParam s
  else
    match eventKey use d data s with
    | none => ack stAuthFailed s
    | some key =>
      let w := slotAt n s
      if w.state = .valid ∧ w.key = key then ack stOk s
      else
        let kek := if use = 1 then fieldAt data 1 1 else d
        let dom := if use = 1 then d else 0
        let l : SlotLoad := { slot := n, use := useOfCode use, kek := kek, domain := dom, epoch := ep, key := key, label := (if use = 1 then [] else data.take 32), ackTo := some q }
        let s1 := modifyCipher (fun c => { c with loads := c.loads.filter (fun x => x.slot != n) ++ [l] }) s
        let s2 := if w.state = .valid then evict n s1 else s1
        if (slotAt n s2).state = .empty then
          setSlot n { state := .loading, use := l.use, kek := kek, domain := dom, epoch := ep, key := [], label := [], used := 0 } s2
        else s2

/-- KEY_LOAD. -/
def execKeyLoad (sub : Nat) (frames : List Bytes) (s : State) : Host.Outcome State Fault Refusal :=
  .next (peerRow 0x0030 sub (fun _ => 40) frames (fun body => keyLoadFrom (sub % 4) body) s)

/-- KEY_LOAD_ACK: an epoch advance goes on, or the epoch is retired (Table 8-9, R194). -/
def keyLoadAckFrom (body : Bytes) (s : State) : State :=
  let n := fieldAt body 0 2
  let st : Status := BitVec.ofNat 16 (fieldAt body 2 2)
  match s.cipher.advances.find? (fun a => a.slot == n && a.step == 4) with
  | none => s
  | some a => if statusOk st then advanceDone a.domain a.epoch s else retireEpoch a.domain a.epoch st s

/-- KEY_LOAD_ACK. -/
def execKeyLoadAck (sub : Nat) (frames : List Bytes) (s : State) : Host.Outcome State Fault Refusal :=
  .next (peerRow 0x0031 sub (fun _ => 4) frames keyLoadAckFrom s)

/-! ## Chunk-ID blocks (R310) -/

/-- Splits ranges after their first `n` blocks. -/
def splitBlocks : Nat → List (Nat × Nat) → List (Nat × Nat) × List (Nat × Nat)
  | _, [] => ([], [])
  | n, (first, count) :: rest =>
    if count ≤ n then
      let r := splitBlocks (n - count) rest
      ((first, count) :: r.1, r.2)
    else ((if n = 0 then [] else [(first, n)]), (first + n, count - n) :: rest)

/-- The blocks of ranges, one by one. -/
def idBlockList (rs : List (Nat × Nat)) : List Nat := rs.flatMap (fun r => (List.range r.2).map (fun i => r.1 + i))

/-- Ranges of blocks listed one by one. -/
def rangesOf (bs : List Nat) : List (Nat × Nat) :=
  bs.foldr (fun b acc => match acc with
    | (f, c) :: rest => if f = b + 1 then (b, c + 1) :: rest else (b, 1) :: acc
    | [] => [(b, 1)]) []

/-- Journals a grant of blocks, where the head journals. -/
def noteGrant (head : Nat) (rs : List (Nat × Nat)) (s : State) : State :=
  if servingMode s.boot.mode ∧ rs ≠ [] then place' 0 (.table (.idGrant head rs)) s else s

/-- ID_BLOCK_REQ: half of the free blocks are granted. -/
def idRequested (s : State) : State :=
  let total := (s.headland.idBlocks.map (·.2)).sum
  let (kept, given) := splitBlocks (total - total / 2) s.headland.idBlocks
  let s1 := noteGrant (1 - s.boot.headId) given (modifyHeadland (fun h => { h with idBlocks := kept }) s)
  let bs := idBlockList given
  headSend 0 0x0041 (packFields [(4, bs.length), (4, 0)] ++ bs.flatMap (leBytes 4)) s1

/-- ID_BLOCK_REQ. -/
def execIdBlockReq (sub : Nat) (frames : List Bytes) (s : State) : Host.Outcome State Fault Refusal := .next (peerRow 0x0040 sub (fun _ => 4) frames (fun _ => idRequested) s)

/-- ID_BLOCK_GRANT: the blocks are the head's. -/
def idGranted (body : Bytes) (s : State) : State :=
  let rs := rangesOf ((List.range (fieldAt body 0 4)).map (fun i => fieldAt body (8 + 4 * i) 4))
  noteGrant s.boot.headId rs (modifyHeadland (fun h => { h with idBlocks := h.idBlocks ++ rs, idAsked := false }) s)

/-- ID_BLOCK_GRANT. -/
def execIdBlockGrant (sub : Nat) (frames : List Bytes) (s : State) : Host.Outcome State Fault Refusal :=
  .next (peerRow 0x0041 sub (fun body => 8 + 4 * fieldAt body 0 4) frames idGranted s)

/-! ## Erase and drain exchanges (R210, R219) -/

/-- ERASE_DONE. -/
def sendEraseDone (acre i : Nat) (st : Status) (s : State) : State := headSend 0 0x0051 (packFields [(4, acre), (1, i), (1, 0), (2, st.toNat)]) s

/-- ERASE_REQ: the block is erased on a bridge the head leases, and the result reported (R210). -/
def eraseAsked (body : Bytes) (s : State) : State :=
  let acre := fieldAt body 0 4
  let i := fieldAt body 4 1
  let b := fieldAt body 8 1
  let die := fieldAt body 9 1
  if leases b s then
    furrowIssue b 4 (leBytes 8 (cwAddr die (fieldAt body 12 4) 0)) [] (.peerErase acre i) (furrowIssue b 10 (leBytes 4 (2 ^ die) ++ [1]) [] .fence s)
  else sendEraseDone acre i stWrongMode s

/-- ERASE_REQ. -/
def execEraseReq (sub : Nat) (frames : List Bytes) (s : State) : Host.Outcome State Fault Refusal := .next (peerRow 0x0050 sub (fun _ => 16) frames eraseAsked s)

/-- ERASE_DONE (R210). -/
def execEraseDone (sub : Nat) (frames : List Bytes) (s : State) : Host.Outcome State Fault Refusal :=
  .next (peerRow 0x0051 sub (fun _ => 8) frames (fun body => victimBlock (fieldAt body 0 4) (fieldAt body 4 1) (statusOk (BitVec.ofNat 16 (fieldAt body 6 2)))) s)

/-- DRAIN_REQ: answered once the RELOCATE record it names has been applied; a step leaves no read in flight (Table 9-3 step 5). -/
def execDrainReq (sub : Nat) (frames : List Bytes) (s : State) : Host.Outcome State Fault Refusal :=
  .next (peerRow 0x0052 sub (fun _ => 16) frames (fun body st =>
    answerDrains (modifyHeadland (fun h => { h with drains := h.drains ++ [(sub % 4, fieldAt body 0 4, fieldAt body 8 8)] }) st)) s)

/-- DRAIN_REPLY: the victim is erased (Table 9-3 steps 5 and 6). -/
def execDrainReply (sub : Nat) (frames : List Bytes) (s : State) : Host.Outcome State Fault Refusal :=
  .next (peerRow 0x0053 sub (fun _ => 16) frames (fun body st =>
    let n := fieldAt body 0 4
    if st.media.reclaims.any (fun j => j.acre == n && j.step == 5) then eraseVictim n st else st) s)

/-! ## Images (R547) -/

/-- One IMAGE_DATA. -/
def sendImage (piece : Nat) (data : Option Bytes) (s : State) : State :=
  let d := data.getD []
  headSend 0 0x0071 (packFields [(4, piece), (4, d.length), (2, flagBit data.isNone), (6, 0)] ++ d) s

/-- IMAGE_REQ: answered from the image that Steward runs; with STATUS 1 in DUMP and where Steward does not run. -/
def imageAsked (body : Bytes) (s : State) : State :=
  let first := fieldAt body 0 4
  let m := s.boot.mode
  if m = .dump ∨ m = .boot ∨ m = .recovery then sendImage first none s
  else if first = 0xFFFFFFFF then sendImage first s.fw.running.manifest s
  else (List.range (min 64 (fieldAt body 4 4))).foldl (fun st i =>
    sendImage (first + i) (if first + i < ((s.fw.running.manifest.map fwCount).getD 0) then imagePiece s.fw.running (first + i) else none) st) s

/-- IMAGE_REQ. -/
def execImageReq (sub : Nat) (frames : List Bytes) (s : State) : Host.Outcome State Fault Refusal := .next (peerRow 0x0070 sub (fun _ => 8) frames imageAsked s)

/-- Asks for the pieces from one on, up to 64. -/
def askPieces (first count : Nat) (s : State) : State :=
  if first < count then headSend 0 0x0070 (packFields [(4, first), (4, min 64 (count - first))]) s else s

/-- IMAGE_DATA at the loader: the manifest, then piece after piece; the next pieces are asked for as a batch ends. -/
def imageCame (body : Bytes) (s : State) : State :=
  let piece := fieldAt body 0 4
  let data := slice body 0x10 (fieldAt body 4 4)
  match s.fw.loading with
  | none => s
  | some i =>
    if s.boot.mode ≠ .boot then s
    else if fieldAt body 8 2 ≠ 0 then { s with fw := { s.fw with loading := none } }
    else if piece = 0xFFFFFFFF then
      askPieces 0 (fwCount data) { s with fw := { s.fw with loading := some { manifest := some data, pieces := [], factory := false } } }
    else
      let s1 := { s with fw := { s.fw with loading := some { i with pieces := insertAt piece data i.pieces } } }
      if (piece + 1) % 64 = 0 then askPieces (piece + 1) ((i.manifest.map fwCount).getD 0) s1 else s1

/-- IMAGE_DATA. -/
def execImageData (sub : Nat) (frames : List Bytes) (s : State) : Host.Outcome State Fault Refusal :=
  .next (peerRow 0x0071 sub (fun body => 0x10 + fieldAt body 4 4) frames imageCame s)

/-! ## Adoption (R61, R292, R319) -/

/-- YIELD_NOTICE: the peer steps aside (Table 13-6 step 3). -/
def execYieldNotice (sub : Nat) (frames : List Bytes) (s : State) : Host.Outcome State Fault Refusal :=
  .next (peerRow 0x0060 sub (fun _ => 16) frames (fun body st =>
    peerStepsAside (modifyHeadland (fun h => { h with peer := { h.peer with lastMseq := fieldAt body 8 8 } }) st)) s)

/-- A head that becomes owner first steps its array time above every time the owners have issued (R292). -/
def stepPast (s : State) : State :=
  let top := (s.map.objects.map (·.commitTime) ++ s.map.snaps.map (·.createTime)).foldl max 0
  if 0 < top ∧ arrayTime s ≤ top then setClock (top + 1) false s else s

/-- The mirrored records, read. -/
def mirroredBodies (s : State) : List (Nat × JBody) :=
  s.headland.mirrored.filterMap (fun x => (parseBody (fieldAt x.2 0 1) (x.2.drop 16) (arrayTime s)).map (fun b => (x.1, b)))

/-- Whether a record is a BUFFERED one. -/
def isBuffered (b : JBody) : Bool :=
  match b with
  | .buffered _ _ _ _ => true
  | _ => false

/-- The peer's journal records that it persisted after its last mirrored one are applied: they stand on media, so they need no place in the
ring (Table 13-6 step 7). -/
def applyTail (tail : Bytes) (s : State) : State :=
  let last := (s.headland.mirrored.map (·.1)).foldl max 0
  (splitRecords (tail.length / 16 + 1) tail).foldl (fun st x =>
    if x.1 ≤ last then st
    else match parseBody x.2.1 (x.2.2.drop 16) (arrayTime st) with
      | some b =>
        if isBuffered b then st
        else raiseSequences 0 x.1 [] (mirrorEffects x.1 b (applyBody x.1 b (beforeMirror b st)))
      | none => st) s

/-- The mirrored journal records go to the own ring, to be persisted: they have been applied already. -/
def adoptJournal (s : State) : State :=
  let new := ((mirroredBodies s).filter (fun x => !isBuffered x.2 && !s.journal.ring.any (fun r => r.jseq == x.1))).map
    (fun x => ({ jseq := x.1, body := x.2, placed := s.time.ticks, written := false, persisted := false } : JRecord))
  let top := (s.headland.mirrored.map (·.1)).foldl max 0
  raiseSequences 0 top []
    { modifyHeadland (fun h => { h with mirrored := [], held := [] }) s with
      journal := { s.journal with ring := sortByKey (fun (r : JRecord) => [(r.jseq : Int)]) (s.journal.ring ++ new) } }

/-- Whether a mirrored record belongs to a PUT whose connection has gone with the peer: its object has no record, and no PUT of this head
is its. -/
def orphanPiece (r : BufferedRec) (s : State) : Bool :=
  match r.target with
  | .piece o _ _ => (objectAt o s).isNone && !s.sheaf.puts.any (fun p => p.qp != peerQp && p.number == o)
  | .grain _ _ => false

/-- What such a PUT has left is given up (R402). -/
def dropOrphan (r : BufferedRec) (s : State) : State :=
  let s1 := r.handles.foldl (fun t h => releaseOwn h t) s
  match r.target with
  | .piece o _ _ => if (s1.map.pieces.any (fun x => x.1 == o)) then place' r.quadrant (.unmap r.target 0) s1 else s1
  | .grain _ _ => s1

/-- The orphaned mirror content becomes the head's own write buffer; new writes are stamped above it (R319). -/
def adoptIngest (s : State) : State :=
  let gone := s.ingest.mirror.filter (fun r => orphanPiece r s)
  let mine := (s.ingest.mirror.filter (fun r => !orphanPiece r s)).map (fun r => { r with mseq := 0 })
  let top := fun (q n : Nat) => ((mine.filter (fun r => r.quadrant == q)).map (fun r => r.seq + 1)).foldl max n
  let s1 := modifyIngest (fun i => { i with own := i.own ++ mine, mirror := []
                                            nextSeq := (List.range 4).map (fun q => top q (i.nextSeq.getD q 1)) }) s
  gone.foldl (fun st r => dropOrphan r st) s1

/-- The blocks that are not the head's: those of the peer. -/
def peerBlocks (s : State) : List (Nat × Nat) :=
  let own := sortByKey (fun (r : Nat × Nat) => [(r.1 : Int)]) (s.headland.idBlocks ++ s.ingest.drawnBlocks.map (fun b => (b, 1)))
  let r := own.foldl (fun (acc : List (Nat × Nat) × Nat) x =>
    ((if acc.2 < x.1 then acc.1 ++ [(acc.2, x.1 - acc.2)] else acc.1), max acc.2 (x.1 + x.2))) ([], 0)
  if r.2 < 16777216 then r.1 ++ [(r.2, 16777216 - r.2)] else r.1

/-- The chunk IDs of the peer's blocks that are not assigned count as freed: their next assignment advances the generation (R199, R319). -/
def adoptIds (s : State) : State :=
  let bs := peerBlocks s
  let free := fun (id : Nat) => (lookup id s.map.locs).isNone && !s.ingest.freedIds.contains id
  let s1 := modifyHeadland (fun h => { h with idBlocks := h.idBlocks ++ bs }) s
  modifyIngest (fun i => { i with startGen := i.startGen + 1, idGens := i.idGens.map (fun x => if free x.1 then (x.1, x.2 + 1) else x) }) s1

/-- The acre table takes the peer's acres in (R223), and the peer's dump acres are erased once every adopted record is committed and persisted. -/
def adoptDump (s0 : State) : State :=
  let s := rebuildAcres s0
  let theirs := s.media.acres.filter (fun a => a.stream == 4 && a.opener != s.boot.headId)
  let stamps := s.ingest.own.map (fun r => (r.quadrant, r.seq))
  dumpRelease { s with media := { s.media with dumpErase := s.media.dumpErase ++ theirs.map (fun a => (a.num, stamps)) } }

/-- PUTs of this head's clients at the peer are this head's own from here on. -/
def adoptPuts (s : State) : State :=
  let away := s.sheaf.puts.filter (fun p => p.remote.isSome)
  let dom := fun (p : Put) => ((objdomAt p.objDomain s).map (·.domain)).getD 0
  let cut := fun (p : Put) => ((lookupD p.number s.map.pieces []).map (fun (x : Piece) => x.offset + x.len)).foldl max 0
  let os := away.map (fun p =>
    ({ number := p.number, objDomain := p.objDomain, domain := dom p, quadrant := leNat (p.key.take 1) % 4, landed := p.received
       size := some p.size, cut := cut p } : OpenObject))
  modifyIngest (fun i => { i with objects := i.objects ++ os })
    (modifySheaf (fun x => { x with puts := x.puts.map (fun p => { p with remote := none }) }) s)

/-! ## Forwarded commands without an answer (R61) -/

/-- Whether an adopted map record of a grain is known (R319). -/
def mapPlaced (ns grain : Nat) (known : List (Nat × JBody)) : Bool :=
  known.any (fun x => match x.2 with
    | .chunk t _ _ _ => t == .grain ns grain
    | .reference t _ => t == .grain ns grain
    | .unmap (.grain n g) k => n == ns && decide (g ≤ grain) && decide (grain < g + k)
    | _ => false)

/-- The stamps of the records that the owner placed for a part of a forwarded write or zero command: of the adopted BUFFERED record that
holds its data; none at all where a map record of its grain is adopted and the grain holds the data already. Nothing where the part has
neither (R61, DESIGN CHOICE 142). -/
def partPlaced (p : WritePart) (data : Bytes) (mir : List BufferedRec) (known : List (Nat × JBody)) (s : State) :
    Option (List (Nat × Nat)) :=
  match mir.find? (fun r => r.target == .grain p.ns p.grain && r.off == p.off && r.len == p.len && (recordData r s).1 == data) with
  | some r => some [(r.quadrant, r.seq)]
  | none =>
    match mapPlaced p.ns p.grain known, grainRead p.ns 0 p.grain p.off p.len .quiet s with
    | true, (.ok b, _, _) => if b = data then some [] else none
    | _, _ => none

/-- The stamps of what the owner placed for a forwarded write, where every part has something. -/
def placedStamps (ps : List WritePart) (first : Nat) (data : Bytes) (mir : List BufferedRec) (known : List (Nat × JBody)) (s : State) :
    Option (List (Nat × Nat)) :=
  let found := ps.map (fun p => partPlaced p (padTo p.len (slice data (16384 * p.grain + p.off - first) p.len)) mir known s)
  if found.all (·.isSome) then some (found.flatMap (fun r => r.getD [])) else none

/-- Adds stamps to what a Flush waits for. -/
def addWait (qp cid : Nat) (stamps : List (Nat × Nat)) (s : State) : State :=
  let mine := fun (op : WriteOp) => op.forward.isNone && op.client == ⟨qp, cid⟩
  if s.ingest.ops.any mine then
    modifyIngest (fun i => { i with ops := mapIf mine (fun op => { op with stamps := op.stamps ++ stamps }) i.ops }) s
  else awaitStamps qp cid stamps none s

/-- Settles a forwarded NVMe command: one whose records have been adopted completes by the SOLE rule, any other is run here as if it had
just arrived, from the payload it has (R61). -/
def settleNvme (f : Forward) (mir : List BufferedRec) (known : List (Nat × JBody)) (s : State) : State :=
  match f.client with
  | none => s
  | some (qp, cid) =>
    match nvCmd qp cid s with
    | none => s
    | some c0 =>
      let c := f.body.take 64
      let data := f.body.drop 64
      let lg := ((nsAt (sqeNsid c) s).map (·.lbaLog2)).getD 9
      let op := sqeOpcode c
      if op = 0 then addWait qp cid (waitStamps (sqeNsid c) none s) s
      else if op = 2 then nvRunIo qp cid c0.facts s
      else
        let ranges := if op = 1 then [((sqeRange c).1 * 2 ^ lg, data.length)] else zeroRanges c data lg
        let first := if op = 1 then (sqeRange c).1 * 2 ^ lg else 0
        let ps := ranges.flatMap (fun r => partsOf (sqeNsid c) r.1 r.2)
        match placedStamps ps first (if op = 1 then data else []) mir known s with
        | some stamps =>
          awaitOp (nvOp qp cid c0.capsule [] stamps none s) (modifyNvCmd qp cid (fun x => { x with stage := .acking }) s)
        | none =>
          let (parts, s1) := acceptParts c lg s
          nvDataHere qp cid data c0.facts (modifyNvCmd qp cid (fun x => { x with stage := .pulling, parts := parts }) s1)

/-- The OBJECT record that the owner placed for a forwarded PUT_COMMIT or DELETE, among those adopted. -/
def placedObject (verb number : Nat) (key : Bytes) (known : List (Nat × JBody)) : Option ObjRecord :=
  known.findSome? (fun x => match x.2 with
    | .object o => if (verb = 4 ∧ o.number = number) ∨ (verb = 8 ∧ o.state = 3 ∧ o.key = key) then some o else none
    | _ => none)

/-- Settles a forwarded Sheaf verb. -/
def settleSheaf (f : Forward) (mir : List BufferedRec) (known : List (Nat × JBody)) (s : State) : State :=
  match f.client with
  | none => s
  | some (qp, tag) =>
    match shReq qp tag s with
    | none => s
    | some r =>
      let v := shVerb r.bytes
      let put := putAt qp (fieldAt r.bytes 8 4) s
      let again := shRun qp tag r.facts (shStage qp tag .held s)
      match v, put with
      | 3, some p =>
        let x : Fill := { tag := tag, offset := fieldAt r.bytes 0x28 8, len := fieldAt r.bytes 0x30 4, seq := 0, pulled := [(0, f.body.drop 66)], zone := none }
        match mir.find? (fun b => b.target == .piece p.number x.offset x.len && (recordData b s).1 == f.body.drop 66) with
        | some b =>
          let s1 := if p.zoneWant ≠ 0 ∧ p.received < p.size then nextPutZone qp p.id s else s
          let (k, n) := putZoneKey qp p.id s1
          shAwait qp tag p.objDomain stOk (packFields [(8, x.offset + x.len), (4, k), (4, n)]) [] [(b.quadrant, b.seq)] s1
        | none =>
          let (n, s1) := takeStamp (leNat (p.key.take 1) % 4) s
          let back := fun (y : Put) => { y with received := y.received - x.len, fills := { x with seq := n } :: y.fills }
          landPut qp p.id (modifyPut qp p.id back (shStage qp tag .filling s1))
      | 4, some p =>
        match placedObject 4 p.number p.key known with
        | some o => shForwardDone qp tag stOk (packFields [(8, o.number), (8, o.commitTime)]) s
        | none => tryCommit qp p.id (queueCommit qp p.id (modifyPut qp p.id (fun y => { y with commit := some tag }) (shStage qp tag .filling s)))
      | 8, _ =>
        match placedObject 8 0 (shKey r.bytes) known with
        | some o => shForwardDone qp tag stOk (packFields [(8, o.number), (8, o.commitTime)]) s
        | none => again
      | _, _ => again

/-- Settles a forwarded MCI command: it is run here, an array-scope or scope parameter applied alone (R493). -/
def settleMci (f : Forward) (s : State) : State :=
  let opcode := fieldAt f.body 0 2
  match f.mci with
  | none => s
  | some (ring, tag) =>
    if opcode = 0x0101 ∨ opcode = 0x0203 then mciForwardDone f stOk [] [] [] s
    else if opcode = 0x0702 then
      match s.fw.manifest with
      | some m => fwBegin m [] s
      | none => s
    else
      let p := { packetOf ring f.body with tag := BitVec.ofNat 16 tag }
      let s1 := { s with mci := { s.mci with waits := s.mci.waits.filter (fun w => w.kind != .forward f.id) } }
      endCommand p (forwardedBody opcode p s1)

/-- A snapshot that an export asked of the peer is made here. -/
def settleExport (f : Forward) (s : State) : State :=
  match s.repl.exports.find? (fun e => e.asked.any (fun x => x.1 == f.id)) with
  | none => s
  | some e =>
    let kind := fieldAt f.body 16 1
    let id := fieldAt f.body 18 2
    let (b, s1) := stampBarrier (modifyRun e.num (fun y => { y with asked := removeAt f.id y.asked }) s)
    ((beginSnap kind id b (some e.num) none s1).map (·.2)).getD (exportOver e.num 2 s1)

/-- Settles every forwarded command that has no answer (R61). -/
def settleForwards (mir : List BufferedRec) (known : List (Nat × JBody)) (s : State) : State :=
  let fs := s.headland.forwards
  fs.foldl (fun st f =>
    if f.kind = 1 then settleNvme f mir known st
    else if f.kind = 2 then settleSheaf f mir known st
    else if f.mci.isSome then settleMci f st
    else settleExport f st) (modifyHeadland (fun h => { h with forwards := [] }) (freeRoom fs s))

/-- The survivor adopts the peer's state and owns everything (Table 13-6 steps 7 and 8, R319, R321 case 1). -/
def adoptAll (tail : Bytes) (s : State) : State :=
  let mir := s.ingest.mirror
  let known := mirroredBodies s
  let serving := servingMode s.boot.mode
  let s1 := adoptPuts (adoptDump (adoptIds (adoptIngest (adoptJournal (applyTail tail s)))))
  let s2 := modifyHeadland (fun h => { h with takeover := none, yieldOutLow := false }) s1
  let s3 := endMirrors (setBaseMode .sole 0 s2)
  let s4 := failoverRecord 2 0 (countHead (fun c => { c with takeovers := bump c.takeovers }) s3)
  let s5 := stepPast (endPeerPuts s4)
  let s6 := if serving then s5 else fwLand s5
  let s7 := advanceEpochs (powerSync (settleForwards mir known (releaseStrays true s6)))
  settle (resumeSheaf (resumeIo (reserveDump s7)))

/-- TAKEOVER_ADOPT: once every bridge asked for is granted; `tail` is what the peer persisted after its last mirrored record. A head that is
still starting up adopts in its recovery (R324). -/
def execTakeoverAdopt (tail : Bytes) (s : State) : Host.Outcome State Fault Refusal :=
  .next (match s.headland.takeover with
  | none => s
  | some t =>
    if t.wanted.any (fun b => !leases b s) then s
    else match baseMode s with
      | .sole | .active | .returning | .fallow => withAna (adoptAll tail) s
      | _ => modifyHeadland (fun h => { h with takeover := none }) s)

/-! ## RETURN (Table 13-9) -/

/-- HANDOFF. -/
def sendHandoff (bridge op : Nat) (s : State) : State := headSend 0 0x0061 (packFields [(2, bridge), (1, op)]) s

/-- Hands over the next 16 bridges at most: acres with a block there are sealed, the leases released; after the last one the returning head is
told that its return is complete (Table 13-9 steps 5 and 7). -/
def handNext (s : State) : State :=
  if s.headland.ret.handing ≠ [] then s
  else
    match s.headland.ret.toHand with
    | [] => sendHandoff 0xFFFF 3 (modifyReturn (fun r => { r with completing := true }) s)
    | bs =>
      let batch := bs.take 16
      let s1 := modifyReturn (fun r => { r with toHand := bs.drop 16, handing := batch }) s
      batch.foldl (fun st b => release b (sealOn b st)) s1

/-- RETURN_REQ at the sole head: granted once the resynchronisation is acknowledged; both heads then are in RETURN (Table 13-9 step 4). -/
def returnAsked (s : State) : State :=
  let grant := fun (st : Status) (x : State) => headSend 0 0x0063 (leBytes 2 st.toNat) x
  if baseMode s = .sole ∧ s.headland.ret.resyncAcked = true ∧ s.headland.takeover.isNone = true then
    withAna (fun s =>
      let bs := (leasedBridges s).filter (fun b => (headBridge b s).preferred == 1 - s.boot.headId)
      let s1 := powerSync (setBaseMode .returning 0 (grant stOk s))
      handNext (modifyReturn (fun r => { r with toHand := bs, handing := [] }) s1)) s
  else grant stWrongMode s

/-- RETURN_REQ. -/
def execReturnReq (sub : Nat) (frames : List Bytes) (s : State) : Host.Outcome State Fault Refusal := .next (peerRow 0x0062 sub (fun _ => 0) frames (fun _ => returnAsked) s)

/-- RETURN_GRANT at the returning head. -/
def returnGranted (body : Bytes) (s : State) : State :=
  if s.boot.mode = .fallow ∧ statusOk (BitVec.ofNat 16 (fieldAt body 0 2)) = true ∧ s.headland.ret.inbound = true then
    withAna (fun st => fwLand (powerSync (setMode .returning 0 st))) s
  else s

/-- RETURN_GRANT. -/
def execReturnGrant (sub : Nat) (frames : List Bytes) (s : State) : Host.Outcome State Fault Refusal :=
  .next (peerRow 0x0063 sub (fun _ => 2) frames returnGranted s)

/-- HANDOFF released: the bridge is acquired; YIELD_OUT_N is deasserted before the first acquire (R317, R510, Table 13-9 step 6). -/
def handoffReleased (b : Nat) (s : State) : State :=
  if s.boot.mode = .inventory ∨ (baseMode s = .returning ∧ s.headland.ret.inbound = true) then
    acquire b (modifyReturn (fun r => { r with handing := r.handing ++ [b] }) (modifyHeadland (fun h => { h with yieldOutLow := false }) s))
  else s

/-- HANDOFF acquired: the bridge is handed over. -/
def handoffAcquired (b : Nat) (s : State) : State :=
  if baseMode s = .returning ∧ s.headland.ret.inbound = false ∧ s.headland.ret.handing.contains b = true then
    handNext (modifyReturn (fun r => { r with handing := r.handing.filter (fun x => x != b) }) s)
  else s

/-- HANDOFF of a complete return: the returning head enters ACTIVE and owns its group again (Table 13-9 step 7, R292). -/
def returnComplete (s : State) : State :=
  if baseMode s = .returning ∧ s.headland.ret.inbound = true then
    withAna (fun st =>
      let s1 := modifyReturn (fun _ => resetReturn) (setBaseMode .active 0 st)
      let s2 := failoverRecord 4 0 (countHead (fun c => { c with returns := bump c.returns }) s1)
      settle (resumeSheaf (resumeIo (reserveDump (powerSync (idWatch (stepPast (rebuildAcres s2)))))))) s
  else s

/-- HANDOFF. -/
def execHandoff (sub : Nat) (frames : List Bytes) (s : State) : Host.Outcome State Fault Refusal :=
  .next (peerRow 0x0061 sub (fun _ => 3) frames (fun body st =>
    let b := fieldAt body 0 2
    let op := fieldAt body 2 1
    if op = 1 then handoffReleased b st else if op = 2 then handoffAcquired b st else if op = 3 then returnComplete st else st) s)

/-- HOLD_DOWN_EXPIRY: HOLD_DOWN of clean health has passed (Table 13-9 step 3). -/
def execHoldDownExpiry (s : State) : Host.Outcome State Fault Refusal :=
  .next (if s.boot.mode = .fallow ∧ s.headland.ret.holdFrom.isSome = true then tryReturn (modifyReturn (fun r => { r with holdEnded := true }) s) else s)

/-! ## RETURN_CONTROL (R329) -/

/-- RETURN_CONTROL with op 0x01: RETURN_AUTO is 1, the return disable cleared. -/
def returnAutoOn (s : State) : McEnd × State :=
  let s1 := applyParam 0x0D07 0 [1] (modifyHeadland (fun h => { h with returnDisable := false }) s)
  ok [] (tryReturn (modifyReturn (fun r => { r with asked := false }) s1))

/-- RETURN_CONTROL_AUTO_ON. -/
def execReturnControlAutoOn (p : McPacket) (s : State) : Host.Outcome State Fault Refusal := .next (mciRun 0x040C p returnAutoOn s)

/-- RETURN_CONTROL_AUTO_OFF: RETURN_AUTO is 0. -/
def execReturnControlAutoOff (p : McPacket) (s : State) : Host.Outcome State Fault Refusal :=
  .next (mciRun 0x040C p (fun st => ok [] (applyParam 0x0D07 0 [0] st)) s)

/-- RETURN_CONTROL with op 0x03: the hold-down ends at once. -/
def returnEndHold (s : State) : McEnd × State :=
  if s.boot.mode ≠ .fallow then refuse stWrongMode s
  else ok [] (tryReturn (modifyReturn (fun r => { r with holdEnded := true, asked := false }) s))

/-- RETURN_CONTROL_END_HOLD. -/
def execReturnControlEndHold (p : McPacket) (s : State) : Host.Outcome State Fault Refusal := .next (mciRun 0x040C p returnEndHold s)

/-- RETURN_CONTROL with op 0x04: the head yields. The reply is given first. -/
def returnYield (s : State) : McEnd × State := if s.boot.mode ≠ .active then refuse stWrongMode s else ok [] (enterYield 8 s)

/-- RETURN_CONTROL_YIELD. -/
def execReturnControlYield (p : McPacket) (s : State) : Host.Outcome State Fault Refusal := .next (mciRun 0x040C p returnYield s)

end Sys2Proof.Machine
end

