-- ==== Sys2Proof/Machine/Dump.lean ====
section
/-! DEFINITION. Power failure and DUMP (R233-R235, R284, R502, R513-R515): the dump records and their bales, entry to DUMP, the quiet stop. -/

namespace Sys2Proof.Machine

/-! ## Dump records (R234, R284) -/

/-- A dump record: the 64-byte header of R270, then its body. -/
def dumpRecord (rtype : Nat) (body : Bytes) : Bytes :=
  let h := packFields [(1, rtype), (3, 0), (4, 64 + body.length)] ++ zeros 52
  h ++ leBytes 4 (crc32c h) ++ body

/-- Whether a BUFFERED record is to be dumped: its chunks are not all in committed bales. -/
def toDump (r : BufferedRec) (s : State) : Bool := !(finished r && r.done.all (fun c => entryStored c.entry s))

/-- Records with their payloads, read from their buffers. -/
def withPayloads (rs : List BufferedRec) (s : State) : List (BufferedRec × Bytes) × State :=
  rs.foldl (fun acc r =>
    if r.zero then (acc.1 ++ [(r, [])], acc.2)
    else
      let (b, st) := recordData r acc.2
      (acc.1 ++ [(r, b)], st)) ([], s)

/-- What DUMP has to write: the unpersisted journal, the own BUFFERED records, and the mirror content that a yielded peer has orphaned. -/
def dumpImage (s : State) : DumpImage × State :=
  let orphans := if s.headland.takeover.isSome then s.ingest.mirror else []
  let (rs, s1) := withPayloads ((s.ingest.own ++ orphans).filter (fun r => toDump r s)) s
  ({ journal := s.journal.ring.filter (fun r => !r.persisted), records := rs, bales := [], ended := false, broken := false }, s1)

/-- The BUFFERED journal record of a buffered record. -/
def bufferedBytes (r : BufferedRec) : Bytes := journalBytes r.jseq (.buffered r.target r.off r.len r.seq)

/-- The dump records in the order of R234. -/
def dumpRecords (d : DumpImage) : List Bytes :=
  [dumpRecord 0x10 []] ++ d.journal.map (fun r => dumpRecord 0x11 (journalBytes r.jseq r.body))
    ++ d.records.map (fun x => dumpRecord 0x12 (bufferedBytes x.1 ++ x.2)) ++ [dumpRecord 0x1F []]

/-! ## Dump bales -/

/-- Packs records from the front into one bale of `k` plots, from a plot and offset on: what the bale takes, and what is left over. -/
def fillDump (k : Nat) : List Bytes → Nat → Nat → List BaleRecord × List Bytes
  | [], _, _ => ([], [])
  | r :: rest, plot, next =>
    let len := 64 * recUnits r.length
    if next + len ≤ 262144 then
      let x := fillDump k rest plot (next + len)
      ({ plot := plot, off := next, bytes := r, chunk := 0, gen := 0 } :: x.1, x.2)
    else if plot + 1 < k then
      let x := fillDump k rest (plot + 1) (0x200 + len)
      ({ plot := plot + 1, off := 0x200, bytes := r, chunk := 0, gen := 0 } :: x.1, x.2)
    else ([], r :: rest)

/-- Writes one dump bale (R204-R206, R284). -/
def writeDumpBale (a : Acre) (rs : List BaleRecord) (s : State) : State :=
  let (base, s1) := takeWriteSeq (a.k + a.m) s
  let n := ((acreAt a.num s1).map (·.started)).getD 0
  let s2 := modifyAcre a.num (fun x => { x with started := n + 1, openSeq := if n = 0 then base else x.openSeq }) s1
  let b : Bale := { acre := a.num, bale := n, stream := 4, quadrant := 0, plot := 0, next := 0, records := rs, oldest := s.time.ticks,
                    closed := true, baseSeq := base, waiting := [], victims := [] }
  let w : DumpBale := { acre := a.num, bale := n, records := rs.map (·.bytes), waiting := List.range (a.k + a.m) }
  let s3 := { s2 with media := { s2.media with dumped := s2.media.dumped.map (fun d => { d with bales := d.bales ++ [w] }) } }
  let plots := balePlots ((acreAt a.num s3).getD a) b (arrayTime s) s.media.arrayUid
  (List.range (a.k + a.m)).foldl (fun st p =>
    programBlock (plotHome a p n) (64 * n) (codewords 64 (plots.getD p [])) (.dumpPlot a.num n p) st) s3

/-- Writes records to the dump acres, bale after bale; with no room left the dump is broken, and its leases are released (R234). -/
def writeDump : Nat → List Bytes → State → State
  | 0, _, s => s
  | fuel + 1, rs, s =>
    if rs.isEmpty then s
    else
      let acres := s.media.acres.filter (fun a => s.media.dumpAcres.contains a.num && a.state == 1 && decide (a.started < a.nBales))
      match acres.head? with
      | none => releaseAllLeases { s with media := { s.media with dumped := s.media.dumped.map (fun d => { d with broken := true }) } }
      | some a =>
        let x := fillDump a.k rs 0 0x200
        writeDump fuel x.2 (writeDumpBale a x.1 s)

/-- A plot of a dump bale is programmed. -/
def dumpProgrammed (acre bale plot : Nat) (s : State) : State :=
  let step := fun (b : DumpBale) => if b.acre = acre ∧ b.bale = bale then { b with waiting := b.waiting.erase plot } else b
  { s with media := { s.media with dumped := s.media.dumped.map (fun d => { d with bales := (d.bales.map step).filter (fun b => !b.waiting.isEmpty) }) } }

/-- A dump acre fails: the head moves on to the next one with what was not complete there (R234). -/
def dumpAcreFailed (acre : Nat) (s : State) : State :=
  match s.media.dumped with
  | none => s
  | some d =>
    if s.boot.mode ≠ .dump ∨ d.broken = true then s
    else
      let again := (d.bales.filter (fun b => b.acre == acre)).flatMap (·.records)
      let s1 := { s with media := { s.media with dumpAcres := s.media.dumpAcres.filter (fun n => n != acre)
                                                 dumped := some { d with bales := d.bales.filter (fun b => b.acre != acre) } } }
      writeDump (again.length + 1) again s1

/-! ## Entry to DUMP and quiet stop (R514, Table 21-7) -/

/-- Whether the mode is one that a power failure turns into DUMP: YIELD as long as a lease is held (Table 21-2). -/
def mayDump (s : State) : Bool := servingMode s.boot.mode || (s.boot.mode == .yield && !(leasedBridges s).isEmpty)

/-- The queue pairs are lost with what hangs on them: contexts, controllers, connections, open PUTs, and the commands outstanding on them
(R346, R371, R402). -/
def loseContexts (s : State) : State :=
  let s1 := modifyPorts (fun p => { p with qps := [], cached := p.cached.map (fun _ => []), missed := p.missed.map (fun _ => [])
                                           nakOrders := p.nakOrders.map (fun _ => []), held := [] }) s
  let s2 := modifyNvme (fun n => { n with controllers := [], queues := [], commands := [] }) s1
  modifySheaf (fun x => { x with conns := [], requests := [], puts := [] }) (s2.sheaf.puts.foldl (fun st p => dropZone p st) s2)
/-- Enters DUMP: every Winnow entry invalid (R148), DMA channels disabled, the stop of R529, the dump records written. A head without leases writes none, and stops quietly. -/
def enterDump (byPin : Bool) (s : State) : State :=
  let s1 := setMode .dump 0 (modifyBoot (fun b => { b with dumpByPin := byPin, dumps := bump b.dumps }) s)
  let s2 := loseContexts (flushStop ((List.range 256).foldl (fun st c => dmaDisable c st) (modifyEntries (fun _ => []) s1)))
  if (leasedBridges s2).isEmpty then modifyBoot (fun b => { b with quietStop := true }) s2
  else
    let (d, s3) := dumpImage s2
    let rs := dumpRecords d
    writeDump (rs.length + 1) rs { s3 with media := { s3.media with dumped := some d } }

/-- A quiet stop: the mode stays, no program or erase is issued any more, every lease is released. -/
def quietStop (s : State) : State := releaseAllLeases (modifyBoot (fun b => { b with quietStop := true, quietStops := bump b.quietStops }) s)

/-- PWRFAIL_ACCEPT: fifty low samples accept a power failure (R513). -/
def execPwrfailAccept (s : State) : Host.Outcome State Fault Refusal :=
  .next (if s.boot.pwrFailAccepted then s
  else
    let s1 := modifyBoot (fun b => { b with pwrFailAccepted := true, pwrFailLow := true }) s
    if s.boot.mode = .dump then s1 else if mayDump s then enterDump true s1 else quietStop s1)

/-- PWRFAIL_N_RISE: a run too short to be accepted is a glitch; an accepted power failure is not withdrawn (R513). -/
def execPwrfailNRise (s : State) : Host.Outcome State Fault Refusal :=
  .next (modifyBoot (fun b =>
    { b with pwrFailLow := false, pwrFailGlitches := if b.pwrFailAccepted then b.pwrFailGlitches else bump b.pwrFailGlitches }) s)

/-- PWRFAIL_HIGH_TIMER: PWRFAIL_N has been high for 100 ms after a DUMP that it began, or after a quiet stop: a self reset (Table 21-2). -/
def execPwrfailHighTimer (s : State) : Host.Outcome State Fault Refusal :=
  .next (if s.boot.pwrFailAccepted = true ∧ s.boot.pwrFailLow = false
      ∧ (if s.boot.mode = .dump then s.boot.dumpByPin && (s.boot.dumpEnd || s.boot.quietStop) else s.boot.quietStop) = true then selfReset s
  else s)

/-- DUMP_END_COMMITTED: every record of the dump stands on media; the leases are released (R234, R322, Table 21-7 steps 6 and 7). -/
def execDumpEndCommitted (s : State) : Host.Outcome State Fault Refusal :=
  .next (match s.media.dumped with
  | none => s
  | some d =>
    if s.boot.mode ≠ .dump ∨ s.boot.dumpEnd = true ∨ d.broken = true ∨ d.bales ≠ [] then s
    else
      releaseAllLeases { modifyBoot (fun b => { b with dumpEnd := true }) s with
        media := { s.media with dumped := some { d with ended := true } } })

/-! ## SET_MODE (R502, R511, R512) -/

/-- The head enters SERVICE: leases released, YIELD_OUT_N low. -/
def enterService (s : State) : State :=
  setMode .service 0 (modifyHeadland (fun h => { h with yieldOutLow := true, takeover := none }) (releaseAllLeases s))

/-- SET_MODE by its target code. RECOVERY is left with a CLEAR entry and a self reset, SERVICE with a self reset; a DUMP entered here lasts
until a reset. A reply that a mode change would cut off is given first. -/
def setModeCommand (p : McPacket) (s : State) : McEnd × State :=
  let code := fieldAt p.params 0 1
  let m := s.boot.mode
  let was : Bytes := [BitVec.ofNat 8 (modeCode m)]
  let replied := complete (refOf p) stOk was s
  if code = 1 then
    (if m = .recovery then (.stands, selfReset (ledgerWrite 0xC0 0 1 0 stOk 0 replied))
    else if m = .service then (.stands, selfReset replied)
    else refuse stWrongMode s)
  else if code = 0xB then (if servingMode m then (.stands, enterDump false replied) else refuse stWrongMode s)
  else if code = 0xC then (if m = .fallow ∨ m = .inventory then ok was (enterService s) else refuse stWrongMode s)
  else refuse stBadParam s

/-- SET_MODE_BOOT. -/
def execSetModeBoot (p : McPacket) (s : State) : Host.Outcome State Fault Refusal := .next (mciRun 0x0003 p (setModeCommand p) s)

/-- SET_MODE_DUMP. -/
def execSetModeDump (p : McPacket) (s : State) : Host.Outcome State Fault Refusal := .next (mciRun 0x0003 p (setModeCommand p) s)

/-- SET_MODE_SERVICE. -/
def execSetModeService (p : McPacket) (s : State) : Host.Outcome State Fault Refusal := .next (mciRun 0x0003 p (setModeCommand p) s)

end Sys2Proof.Machine
end

