-- ==== Sys2Proof/Machine/Wires.lean ====
section
/-! DEFINITION. The Furrow links as the head drives them (R241-R247, R258-R262): training, frames, responses and timeouts, and what each
response brings to the bales, rows, blocks and leases it concerns. -/

namespace Sys2Proof.Machine

/-! ## A bale that does not commit (R215) -/

/-- Writes a record of a bale that never commits again, in the acre `only` where one is given, if it is still wanted: a reclaim's copy follows
it, or a chunk's location does. Whether it stands elsewhere now. -/
def rewriteRecord (b : Bale) (only : Option Nat) (s : State) (r : BaleRecord) : Bool × State :=
  let here := fun (l : Loc) => l.acre == b.acre && l.bale == b.bale && l.plot == r.plot && 64 * l.off == r.off
  let mine := fun (c : Nat × Nat × Loc) => c.1 == r.chunk && c.2.1 == r.gen && here c.2.2
  match s.media.reclaims.find? (fun j => j.copies.any mine) with
  | some j =>
    let l0 := ((j.copies.find? mine).map (·.2.2)).getD noLoc
    match appendRecord b.stream b.quadrant (some j.acre) only r.bytes r.chunk r.gen l0.domain l0.epoch s with
    | (some l, s1) => (true, modifyJob j.acre (fun y => { y with copies := y.copies.map (fun x => if mine x then (x.1, x.2.1, l) else x) }) s1)
    | (none, s1) => (false, s1)
  | none =>
    match lookup r.chunk s.map.locs with
    | none => (true, s)
    | some l0 =>
      if here l0 = false ∨ l0.gen ≠ r.gen then (true, s)
      else match appendRecord b.stream b.quadrant none only r.bytes r.chunk r.gen l0.domain l0.epoch s with
        | (some l, s1) => (true, place' b.quadrant (.relocate (mapEntry r.chunk r.gen) l) s1)
        | (none, s1) => (false, s1)

/-- Writes the records of a bale again; those for which no bale can be had stay with it, and it never commits. -/
def rewriteBale (only : Option Nat) (s : State) (b : Bale) : State :=
  let r := b.records.foldl (fun (acc : List BaleRecord × State) x =>
    let (done, st) := rewriteRecord b only acc.2 x
    (if done then acc.1 else acc.1 ++ [x], st)) ([], s)
  if r.1 = [] then r.2
  else { r.2 with media := { r.2.media with bales := r.2.media.bales ++ [{ b with records := r.1, closed := true, waiting := [0] }] } }

/-- Takes the bales of an acre that have not committed out of the table: they never commit. -/
def tearBales (acre : Nat) (s : State) : List Bale × State :=
  let mine := s.media.bales.filter (fun x => x.acre == acre)
  (mine, modifyAcre acre (fun a => { a with torn := a.torn ++ (mine.map (·.bale)).filter (fun n => !a.torn.contains n) })
    { s with media := { s.media with bales := s.media.bales.filter (fun x => x.acre != acre) } })

/-- A plot of a bale has failed: its acre is sealed, and the records of every bale of the acre that has not committed are written again in a
newly opened acre (R215). -/
def baleFailed (acre bale : Nat) (s : State) : State :=
  match baleAt acre bale s with
  | none => s
  | some b =>
    let (mine, s1) := tearBales acre s
    let (only, s2) := openDataAcre b.stream b.quadrant (sealAcre acre s1)
    mine.foldl (rewriteBale only) s2

/-- BALE_SEAL_TIMEOUT: the oldest record of an open bale reaches BALE_SEAL_TIME; of a bale that never commits, the records that found no other
bale are written again where that can be done now (R85, R215). -/
def execBaleSealTimeout (acre bale : Nat) (s : State) : Host.Outcome State Fault Refusal :=
  .next (if s.boot.mode ≠ .dump ∧ (acreAt acre s).any (fun a => a.torn.contains bale) then
    let (mine, s1) := tearBales acre s
    mine.foldl (rewriteBale none) s1
  else baleSealTimeout acre bale s)

/-! ## What a command was for -/

/-- The CW_ADDR of a program or an erase. -/
def cmdAddr (c : FurrowCmd) : Nat := fieldAt c.params 0 8

/-- A program has been done. -/
def programDone (b : Nat) (c : FurrowCmd) (s : State) : State :=
  match c.use with
  | .balePlot a n p => modifyBale a n (fun x => { x with waiting := x.waiting.erase p }) s
  | .metaSegment r p =>
    { s with journal := { s.journal with rows := mapIf (fun x => x.id == r) (fun x => { x with waiting := x.waiting.erase p }) s.journal.rows } }
  | .dumpPlot a n p => dumpProgrammed a n p s
  | .firmware k => fwProgrammed b k s
  | _ => s

/-- A program has failed: what it was for is written again elsewhere. The block of a label or firmware record is replaced (R215, R267); in
DUMP only the records of the dump are (R234). -/
def programFailed (b : Nat) (c : FurrowCmd) (s : State) : State :=
  match c.use with
  | .balePlot a n _ => if s.boot.mode = .dump then s else baleFailed a n s
  | .metaSegment r _ => if s.boot.mode = .dump then s else rowFailed r s
  | .dumpPlot a _ _ => dumpAcreFailed a s
  | .label k => labelFailed b k s
  | .firmware k => fwFailed b k s
  | _ => s

/-- A block of a victim is dealt with: it counts no more, and the acre is FREE with the last of them (Table 9-2). -/
def victimGone (n i : Nat) (s : State) : State :=
  match acreAt n s with
  | none => s
  | some a =>
    let s1 := modifyJob n (fun y => { y with blocks := y.blocks.erase (a.blocks.getD i (192, 0, 0)) }) s
    match s1.media.reclaims.find? (fun j => j.acre == n) with
    | some j => if j.blocks = [] then acreFree n s1 else s1
    | none => s1

/-- An erase has ended, well or not. -/
def eraseDone (b : Nat) (c : FurrowCmd) (good : Bool) (s : State) : State :=
  let d := cwDie (cmdAddr c)
  let k := cwBlock (cmdAddr c)
  let mark := fun (st : State) => if good then blockErased b d k st else blockFail b d k st
  match c.use with
  | .blockErase n i => victimBlock n i good s
  | .peerErase n i => sendEraseDone n i (if good then stOk else stMedia) (mark s)
  | .label l => if good then mark s else labelFailed b l s
  | .firmware l => if good then mark s else fwFailed b l s
  | _ => mark s

/-- A command as it goes out again: the erase of a block of an acre behind a FENCE of both ports (R257). -/
def reissued (c : FurrowCmd) : List FurrowCmd :=
  let behind := match c.use with
    | .blockErase .. => true | .peerErase .. => true | _ => false
  if behind then [{ tag := 0, opcode := 10, params := leBytes 4 (2 ^ cwDie (cmdAddr c)) ++ [1], data := [], use := .fence, issued := c.issued }, c]
  else [c]

/-- Puts a command back in its queue. -/
def requeue (b : Nat) (c : FurrowCmd) (s : State) : State := modifyFurrow b (fun f => { f with queued := f.queued ++ reissued c }) s

/-! ## Leases -/

/-- The head finds that it holds a lease no longer: it stops writing the bridge and acquires again (Table 10-12). -/
def leaseGone (b : Nat) (s : State) : State :=
  acquire b (leaseChanged b (modifyFurrow b (fun f => { f with leased := false, leaseLost := bump f.leaseLost }) s))

/-- The head's own window of a bridge ends: it holds the lease no longer, until it is granted again (R256). -/
def execLeaseWindowEnd (bridge : Nat) (s : State) : Host.Outcome State Fault Refusal :=
  .next (if inWindow bridge s ∨ leases bridge s = false then s
    else checkWarnings (leaseChanged bridge (modifyFurrow bridge (fun f => { f with leased := false }) s)))

/-- A lease has been granted or renewed by a command sent at a tick (R256). -/
def leaseHeld (b sent reg : Nat) (s : State) : State :=
  furrowFlush b (modifyFurrow b (fun f => { f with leased := true, leaseSent := sent, leaseReg := reg, acquireAt := none }) s)

/-- LEASE_ACQUIRE is granted: the label is read, as the other head may have written it; a bridge handed over is reported as acquired
(Table 13-9 step 6). -/
def acquired (b sent reg : Nat) (s : State) : State :=
  let s0 := leaseChanged b (readLabel b (leaseHeld b sent reg s))
  let s1 := checkWarnings (if servingMode s0.boot.mode then reserveDump s0 else s0)
  let r := s1.headland.ret
  if r.handing.contains b ∧ (r.inbound = true ∨ s1.boot.mode = .inventory) then
    sendHandoff b 2 (modifyReturn (fun x => { x with handing := x.handing.filter (fun y => y != b) }) s1)
  else s1

/-- LEASE_ACQUIRE ends with ST_BUSY: it is retried at the expiry that REMAIN reports; at or after an expiry reported earlier, the peer's lease
is live (R321). -/
def acquireBusy (b reg : Nat) (s : State) : State :=
  let live := (furrowAt b s).acquireAt.any (fun t => decide (t ≤ s.time.ticks))
  let s1 := modifyFurrow b (fun f => { f with leaseReg := reg, acquireAt := some (s.time.ticks + usTicks (bitsOf reg 18 0)) }) s
  if live then foundLive s1 else s1

/-- A lease has been released; a bridge that goes to the other head is reported as released (R510, Table 13-9 step 5). -/
def released (b reg : Nat) (s : State) : State :=
  let s1 := checkWarnings (leaseChanged b (modifyFurrow b (fun f => { f with leased := false, leaseReg := reg, acquireAt := none }) s))
  let r := s1.headland.ret
  if r.handing.contains b ∧ r.inbound = false then
    sendHandoff b 1 (if s1.boot.mode = .inventory then modifyReturn (fun x => { x with handing := x.handing.filter (fun y => y != b) }) s1 else s1)
  else s1

/-! ## What a bridge tells of itself -/

/-- A BRIDGE_IDENTIFY result (Table 10-7). -/
def parseIdent (r : Bytes) : BridgeIdent :=
  { uid := fieldAt r 0 8, maker := fieldAt r 8 2, version := fieldAt r 10 1, dies := fieldAt r 12 1, retryLevels := fieldAt r 13 1
    blockUnits := fieldAt r 14 2, blocksPerDie := fieldAt r 16 4, peRated := fieldAt r 20 2, corrLimit := fieldAt r 22 2
    progRate := fieldAt r 24 2, eraseMaxMs := fieldAt r 26 2, cmdSlots := fieldAt r 28 2 }

/-- A bridge has been identified: its dies are known. -/
def identified (b : Nat) (i : BridgeIdent) (s : State) : State :=
  furrowFlush b (modifyHeadBridge b (fun h =>
    { h with ident := some i, dies := if h.dies.length = i.dies then h.dies else List.replicate i.dies newDie }) s)

/-- A STATUS result: the lease register and the temperature (R232, Table 10-5). -/
def statusRead (b : Nat) (r : Bytes) (s : State) : State :=
  let t : Int := (BitVec.ofNat 8 (fieldAt r 12 1)).toInt
  modifyHeadBridge b (fun h =>
    { h with tempMin := min h.tempMin t, tempMax := max h.tempMax t, tempCount := h.tempCount + 1, tempSum := h.tempSum + t })
    (modifyFurrow b (fun f => { f with leaseReg := fieldAt r 0 8 }) s)

/-- A block that the bridge reports grown bad is retired; one of the reserved area is replaced (R225, R267). -/
def grownBadBlock (b : Nat) (s : State) (a : Nat) : State :=
  let d := cwDie a
  let k := cwBlock a
  let h := headBridge b s
  if d = reservedDie b s ∧ k < 16 ∧ h.retired.contains (nandKey d k) = false then
    if h.labelBlocks.contains k then labelFailed b k s
    else if h.firmwareBlocks.contains k then fwFailed b k s
    else retireBlock b d k (modifyHeadBridge b (fun x => { x with spares := x.spares.erase k }) s)
  else retireBlock b d k s

/-- The grown-bad list (R251): the entries of the DATA frame. -/
def grownBadRead (b : Nat) (r : Bytes) (data : List Bytes) (s : State) : State :=
  ((List.range (fieldAt r 0 2)).map (fun i => fieldAt data.flatten (8 * i) 8)).foldl (grownBadBlock b) s

/-! ## FURROW_RESPONSE (R248, R258, R262) -/

/-- What a response brings, by what its command was for. -/
def response (b : Nat) (c : FurrowCmd) (status : Nat) (result : Bytes) (data : List Bytes) (s0 : State) : State :=
  let reg := fieldAt result 0 8
  let d := cwDie (cmdAddr c)
  let s := if c.opcode = 3 ∨ c.opcode = 4 then dieAnswered b d s0 else s0
  let s1 := if status = 7 then bridgeBroken b s else s
  if status = 2 ∧ c.use ≠ .leaseAcquire then requeue b c s1
  else if c.opcode = 3 then
    (if status = 0 then programDone b c s1
    else if status = 5 then programFailed b c (leaseGone b s1)
    else if status = 7 then programFailed b c s1
    else programFailed b c (blockFail b d (cwBlock (cmdAddr c)) s1))
  else if c.opcode = 4 then
    (if status = 5 then requeue b c (leaseGone b s1) else eraseDone b c (status == 0) s1)
  else match c.use with
    | .identify => if status = 0 then identified b (parseIdent result) s1 else s1
    | .status => if status = 0 then statusRead b result s1 else s1
    | .telemetry => if status = 0 then grownBadRead b result data s1 else s1
    | .leaseAcquire => if status ≤ 1 then acquired b c.issued reg s1 else if status = 2 then acquireBusy b reg s1 else s1
    | .leaseRenew => if status = 0 then leaseHeld b c.issued reg s1 else if status = 5 then leaseGone b s1 else s1
    | .leaseRelease => if status = 0 ∨ status = 5 then released b reg s1 else s1
    | _ => s1

/-- A bridge has reset itself and answers before it has been identified again: that is counted, its lease is treated as ended and acquired
again, and BRIDGE_IDENTIFY is read (R262). -/
def bridgeWasReset (b : Nat) (c : FurrowCmd) (s : State) : State :=
  if (bridgeAt b s).resetSeen = false ∨ c.use = .identify then s
  else
    let s1 := modifyBridge b (fun x => { x with resetSeen := false })
      (modifyFurrow b (fun f => { f with link := { f.link with retrains := bump f.link.retrains } }) s)
    furrowIssue b 1 [] [] .identify
      (if leases b s then acquire b (checkWarnings (leaseChanged b (modifyFurrow b (fun f => { f with leased := false }) s1))) else s1)

/-- A complete response message: what its RESPONSE frame, the last one, brings to the command of its tag, with the payloads of its DATA frames.
One of an unknown tag is discarded and counted (R243, R258). -/
def responded (b : Nat) (message : List LinkFrame) (s : State) : State :=
  match message.getLast? with
  | none => s
  | some r =>
    if r.ftype ≠ 2 then s else
    match outstanding b r.tag s with
    | none => modifyFurrow b (fun f => { f with lateResponses := bump f.lateResponses }) s
    | some c =>
      settle (hswSync (response b c r.code r.payload ((message.dropLast).map (·.payload)) (bridgeWasReset b c (retireCmd b r.tag s))))

/-- FURROW_RESPONSE: the frames of a response message arrive, as their blocks, each one judged by itself (R242-R246). The message completes its
command with its last frame. -/
def execFurrowResponse (bridge : Nat) (frames : List Bytes) (s : State) : Host.Outcome State Fault Refusal :=
  let s1 := furrowLink bridge (linkFrames furrowKind false s.time.ticks frames) s
  let m := takeMessage (fun _ => true) (furrowAt bridge s1).link
  .next (match m.1 with
  | none => s1
  | some message => responded bridge message (furrowLink bridge (fun _ => (m.2, [])) s1))

/-- FURROW_RESPONSE_TIMEOUT: the response timer of a command other than DIE_READ wins: a program leaves its bale uncommitted and an erase its
block retired; leases are asked for again (R226, Table 10-12). -/
def execFurrowResponseTimeout (bridge tag : Nat) (s : State) : Host.Outcome State Fault Refusal :=
  .next (match outstanding bridge tag s with
  | none => s
  | some c =>
    let s1 := retireCmd bridge tag s
    let d := cwDie (cmdAddr c)
    let k := cwBlock (cmdAddr c)
    settle (hswSync (if c.opcode = 3 then programFailed bridge c (retireBlock bridge d k (dieSilent bridge d s1))
    else if c.opcode = 4 then
      let s2 := retireBlock bridge d k (dieSilent bridge d s1)
      match c.use with
      | .blockErase n i => victimGone n i s2
      | .peerErase n i => sendEraseDone n i stMedia s2
      | .label l => labelFailed bridge l s2
      | .firmware l => fwFailed bridge l s2
      | _ => s2
    else if c.use = .leaseAcquire then acquire bridge s1
    else s1)))

/-! ## The links -/

/-- A training attempt fails. A link that goes DOWN ends its outstanding commands as failed: programs by R215, erases and acquires are issued
again when it returns (R241, Table 10-12). -/
def trainFailed (b : Nat) (s : State) : State :=
  let s1 := furrowLink b (fun e => (linkTrainFail e, [])) s
  if (furrowAt b s).link.state = .training ∧ (furrowAt b s1).link.state = .down then
    let cmds := (furrowAt b s1).cmds
    let s2 := modifyFurrow b (fun f =>
      { f with cmds := [], queued := f.queued ++ (cmds.filter (fun c => c.opcode == 4 || c.use == .leaseAcquire)).flatMap reissued }) s1
    let s3 := almanac 0x0402 (packFields [(1, 1), (2, b), (1, 2)]) (mediaAttn s2)
    settle (hswSync ((cmds.filter (fun c => c.opcode == 3)).foldl (fun st c => programFailed b c st) s3))
  else s1

/-- FURROW_TRAIN_TIMEOUT: a training bound is missed (R241). -/
def execFurrowTrainTimeout (bridge : Nat) (s : State) : Host.Outcome State Fault Refusal := .next (trainFailed bridge s)

/-- FURROW_TRAINING_DONE: the link comes up with the credits of the far end's TS2, and the 32 that the head grants; Steward reads
BRIDGE_IDENTIFY, and commands that were held go. A VERSION other than 0x01 ends training as failed (R241, R577, Table 21-4 step 0x08). -/
def execFurrowTrainingDone (bridge preset version credits : Nat) (s : State) : Host.Outcome State Fault Refusal :=
  .next (if (furrowAt bridge s).link.state ≠ .training then s
  else if version ≠ 1 then trainFailed bridge s
  else
    let s1 := furrowLink bridge (linkTrained furrowKind preset credits) s
    let s2 := if s.boot.mode = .boot ∨ s.boot.mode = .recovery ∨ (headBridge bridge s).ident.isSome = true then s1
      else furrowIssue bridge 1 [] [] .identify s1
    furrowFlush bridge s2)

/-- FURROW_RETRAIN_RETRY: the 1 s retry of a DOWN link (R241). -/
def execFurrowRetrainRetry (bridge : Nat) (s : State) : Host.Outcome State Fault Refusal := .next (furrowLink bridge (fun e => (linkRetry e, [])) s)

/-- FURROW_LINK_FRAME: acknowledgement, credit and NAK (R245-R247). -/
def execFurrowLinkFrame (bridge : Nat) (nak : Bool) (ack : Option Nat) (credit : Nat) (s : State) : Host.Outcome State Fault Refusal :=
  .next (furrowLink bridge (linkOnLink nak ack credit) s)

/-- FURROW_REPLAY_TIMEOUT: the acknowledgement has not advanced (R247). -/
def execFurrowReplayTimeout (bridge : Nat) (s : State) : Host.Outcome State Fault Refusal := .next (furrowLink bridge linkReplayTimeout s)

/-- FURROW_BLOCK_LOCK_LOSS: the link trains again (R247, Table 10-12). -/
def execFurrowBlockLockLoss (bridge : Nat) (s : State) : Host.Outcome State Fault Refusal := .next (furrowLink bridge linkDrops s)

/-- BRIDGE_RESET: a bridge resets itself. Its lease register returns to its reset values, page 1 and its fault are gone, and its links train
again (R241, R251, R252). -/
def execBridgeReset (bridge : Nat) (s : State) : Host.Outcome State Fault Refusal :=
  .next (furrowLink bridge linkDrops (modifyBridge bridge (fun x => { resetBridge with nand := x.nand, resetSeen := true }) s))

/-- FURROW_FRAME_DISCARD: a frame is discarded (R242, R244-R246). -/
def execFurrowFrameDiscard (bridge : Nat) (cause : Discard) (s : State) : Host.Outcome State Fault Refusal :=
  .next (furrowLink bridge (linkDiscard furrowKind cause s.time.ticks) s)

end Sys2Proof.Machine
end

