-- ==== Sys2Proof/Machine/Recovery.lean ====
section
/-! DEFINITION. What start-up finds on the bridges' NAND (R214, R223, R235, R281, R283, R284): plots and units by their headers, the journal of both
heads, orphans, location entries that name no copy of their chunk, and the records of a dump. -/

namespace Sys2Proof.Machine

/-! ## Plots and units -/

/-- The written blocks of every bridge that can be reached, retired ones left out: place and codewords. -/
def mediaBlocks (s : State) : List ((Nat × Nat × Nat) × List Bytes) :=
  ((List.range 192).filter (fun b => bridgeReachable b s)).flatMap (fun b =>
    ((bridgeAt b s).nand.filter (fun x => !(headBridge b s).retired.contains x.1)).map (fun x =>
      ((b, x.1 / 2 ^ 23, x.1 % 2 ^ 23), x.2.cws)))

/-- The valid metadata units of some codewords. -/
def unitsIn (cws : List Bytes) : List Bytes :=
  ((List.range (cws.length / 4)).map (fun i => ((cws.drop (4 * i)).take 4).flatten)).filter isUnit

/-- The first codewords of the data plots in a block. -/
def plotHeadsIn (cws : List Bytes) : List Bytes := ((List.range (cws.length / 64)).map (fun i => cws.getD (64 * i) [])).filter isPlotHeader

/-- The highest WRITE_SEQ that headers on media show: of data plots, of the other plots of their bales, and of units (R214). -/
def highestWriteSeq (s : State) : Nat :=
  let plot := fun (h : Bytes) => fieldAt h 0x10 8 + 2 * (fieldAt h 0x106 1 + fieldAt h 0x107 1 - 1)
  ((mediaBlocks s).flatMap (fun x => (plotHeadsIn x.2).map plot ++ (unitsIn x.2).map (fun u => fieldAt u 0x10 8))).foldl max 0

/-- The highest WRITE_SEQ of a JOURNAL unit on media. -/
def journalWriteSeq (s : State) : Nat :=
  ((mediaBlocks s).flatMap (fun x => ((unitsIn x.2).filter (fun u => fieldAt u 4 1 == 2)).map (fun u => fieldAt u 0x10 8))).foldl max 0

/-- The records of the JOURNAL units on media: JSEQ and body; a record whose CRC fails ends its unit (R281). -/
def mediaJournal (s : State) : List (Nat × JBody) :=
  (mediaBlocks s).flatMap (fun x => ((unitsIn x.2).filter (fun u => fieldAt u 4 1 == 2)).flatMap (fun u =>
    (splitRecords 1020 (slice u 0x40 (fieldAt u 0x28 4))).filterMap (fun r =>
      (parseBody r.2.1 (r.2.2.drop 16) (arrayTime s)).map (fun b => (r.1, b)))))

/-- The bytes of a plot whose codewords are all written; none where it is not, or its bridge cannot be reached. -/
def plotOnMedia (a : Acre) (bale p : Nat) (s : State) : Option Bytes :=
  let home := plotHome a p bale
  let cws := ((nandBlock home.1 home.2.1 home.2.2 s).drop (64 * bale)).take 64
  if bridgeReachable home.1 s = true ∧ cws.length = 64 then some cws.flatten else none

/-- The records of a data plot from an offset on: offset and bytes (R270). -/
def recordsFrom : Nat → Nat → Bytes → List (Nat × Bytes)
  | 0, _, _ => []
  | fuel + 1, off, plot =>
    let len := fieldAt plot (off + 4) 4
    if 262144 < off + 64 ∨ fieldAt plot off 1 = 0 ∨ len < 64 ∨ 262144 < off + len then []
    else (off, slice plot off len) :: recordsFrom fuel (off + 64 * recUnits len) plot

/-- The records of a data plot, with the plot's WRITE_SEQ; nothing where the plot cannot be read or has no valid header. -/
def plotRecords (a : Acre) (bale p : Nat) (s : State) : List (Nat × Nat × Bytes) :=
  match plotOnMedia a bale p s with
  | none => []
  | some b => if isPlotHeader b then (recordsFrom 4096 0x200 b).map (fun r => (fieldAt b 8 8, r.1, r.2)) else []

/-- Whether every plot of a bale is written. -/
def baleComplete (a : Acre) (bale : Nat) (s : State) : Bool :=
  (List.range (a.k + a.m)).all (fun p => (plotOnMedia a bale p s).isSome)

/-! ## Copies of chunks (Table 9-4, R283) -/

/-- A copy of a chunk as a back-pointer shows it. -/
structure FoundCopy where
  chunk : Nat
  gen : Nat
  writeSeq : Nat
  acre : Nat
  bale : Nat
  plot : Nat
  off : Nat
  bytes : Bytes
  deriving DecidableEq, Repr

/-- The copies of chunks in an acre, bale after bale, plot after plot. -/
def copiesIn (a : Acre) (s : State) : List FoundCopy :=
  (List.range a.nBales).flatMap (fun bale => (List.range a.k).flatMap (fun p =>
    ((plotRecords a bale p s).filter (fun r => fieldAt r.2.2 0 1 == 1 && recordCrcOk r.2.2)).map (fun r =>
      ({ chunk := recChunk r.2.2, gen := recGen r.2.2, writeSeq := r.1, acre := a.num, bale := bale, plot := p, off := r.2.1, bytes := r.2.2 } : FoundCopy))))

/-- The header of the record that a location names, where its plot can be reached: none where the block is erased there. -/
def namedHeader (l : Loc) (a : Acre) (s : State) : Option Bytes :=
  let home := plotHome a l.plot l.bale
  let cw := 64 * l.bale + 64 * l.off / 4096
  ((nandBlock home.1 home.2.1 home.2.2 s)[cw]?).map (fun c => slice c (64 * l.off % 4096) 64)

/-- Whether a location entry names an erased block, or a back-pointer that disagrees with it (Table 9-4). A header whose CRC fails is an
unreadable plot (R272). -/
def strayLoc (chunk : Nat) (l : Loc) (s : State) : Bool :=
  match acreAt l.acre s with
  | none => decide (l.len ≠ 0)
  | some a =>
    if l.len = 0 ∨ bridgeReachable (plotHome a l.plot l.bale).1 s = false then false
    else match namedHeader l a s with
      | none => true
      | some h => recordCrcOk h && (recChunk h != chunk || recGen h != l.gen)

/-- The location entries that are not consistent, bales that never committed left out: their chunks are lost or reduced again (R235). -/
def strayLocs (s : State) : List (Nat × Loc) :=
  s.map.locs.filter (fun x => !s.media.torn.any (fun t => t.1 == x.2.acre && t.2 == x.2.bale) && strayLoc x.1 x.2 s)

/-- The acres with a block on a bridge that the inconsistent entries concern: those of the acres they name; every acre where they name none. -/
def affectedAcres (stray : List (Nat × Loc)) (s : State) : List Acre :=
  let named := s.media.acres.filter (fun a => stray.any (fun x => x.2.acre == a.num))
  let bridges := named.flatMap (fun a => a.blocks.map (·.1))
  let all := stray.any (fun x => (acreAt x.2.acre s).isNone)
  s.media.acres.filter (fun a => !isDump a && a.stream != 3 && (all || a.blocks.any (fun x => bridges.contains x.1)))

/-- The newest of some copies whose tag verifies: the highest WRITE_SEQ first. -/
def newestGood (entry : Nat) (f : MediaFacts) : List FoundCopy → State → Option FoundCopy × State
  | [], s => (none, s)
  | c :: rest, s =>
    match openRecord 0 entry c.bytes .background f s with
    | (.ok _, _, s1) => (some c, s1)
    | (.error _, _, s1) => newestGood entry f rest s1

/-- Settles the entry of one chunk by its copies: the newest good one, or lost where an inconsistent entry has none. The entry of a chunk
with no copy in reach stays (Table 9-4; DESIGN CHOICE 161). -/
def settleLoc (stray : Bool) (copies : List FoundCopy) (f : MediaFacts) (x : Nat × Loc) (s : State) : Nat × State :=
  let entry := mapEntry x.1 x.2.gen
  let mine := sortByKey (fun (c : FoundCopy) => [-(c.writeSeq : Int)]) (copies.filter (fun c => c.chunk == x.1 && c.gen == x.2.gen))
  match newestGood entry f mine s with
  | (some c, s1) =>
    if c.acre = x.2.acre ∧ c.bale = x.2.bale ∧ c.plot = x.2.plot ∧ c.off = 64 * x.2.off then (0, s1)
    else (1, place' 0 (.relocate entry { x.2 with acre := c.acre, bale := c.bale, plot := c.plot, off := c.off / 64,
                                                    len := recUnits c.bytes.length, epoch := recEpoch c.bytes }) s1)
  | (none, s1) =>
    if stray then
      (1, place' 0 (.relocate entry { x.2 with acre := 0xFFFFFFFF, bale := 0, plot := 0, off := 0, len := 0 }) (unrecovered 0 entry (some x.2) s1))
    else (0, s1)

/-- Where an entry is inconsistent, the map cannot be trusted: back-pointers of every plot of the affected bridges decide, entries are
rewritten, with a record and media attention (Table 9-4, last row). -/
def rewriteLocs (f : MediaFacts) (s : State) : State :=
  let stray := strayLocs s
  if stray = [] then s
  else
    let copies := (affectedAcres stray s).flatMap (fun a => copiesIn a s)
    let concerned := s.map.locs.filter (fun x => stray.contains x || copies.any (fun c => c.chunk == x.1 && c.gen == x.2.gen))
    let r := concerned.foldl (fun (acc : Nat × State) x =>
      let (n, st) := settleLoc (stray.contains x) copies f x acc.2
      (acc.1 + n, st)) (0, s)
    if r.1 = 0 then r.2 else mediaRecord 3 0xFFFF 0xFF r.1 (mediaAttn r.2)

/-- The orphans that a loss has left in the warm and cold acres that were open: complete copies newer than the one that their chunk's
entry names (Table 9-4, second row). -/
def lossOrphans (opened : List Acre) (s : State) : Nat :=
  let seqOf := fun (l : Loc) => match acreAt l.acre s with
    | some a => match plotOnMedia a l.bale l.plot s with
      | some b => fieldAt b 8 8
      | none => 0
    | none => 0
  let newer := fun (c : FoundCopy) => match lookup c.chunk s.map.locs with
    | some l => l.gen == c.gen && l.refcount != 0 && l.len != 0
        && !(l.acre == c.acre && l.bale == c.bale && l.plot == c.plot && 64 * l.off == c.off) && decide (seqOf l < c.writeSeq)
    | none => false
  ((opened.filter (fun a => a.stream == 1 || a.stream == 2)).flatMap (fun a =>
    (copiesIn a s).filter (fun c => baleComplete a c.bale s && newer c))).length

/-! ## The dump (R235, R284) -/

/-- The acres of the head's own dump that hold something newer than the journal. -/
def dumpStanding (s : State) : List Acre :=
  s.media.acres.filter (fun a => isDump a && a.opener == s.boot.headId % 2
    && (plotHeadsIn (nandBlock (plotHome a 0 0).1 (plotHome a 0 0).2.1 (plotHome a 0 0).2.2 s)).any (fun h =>
      decide (journalWriteSeq s < fieldAt h 8 8)))

/-- The dump records that complete bales hold: RTYPE and body, in the order in which they were written. -/
def dumpRead (as : List Acre) (s : State) : List (Nat × Bytes) :=
  let found := as.flatMap (fun a => ((List.range a.nBales).filter (fun j => baleComplete a j s)).flatMap (fun j =>
    (List.range a.k).flatMap (fun p => (plotRecords a j p s).map (fun r => (r.1, r.2.1, r.2.2)))))
  let order := sortByKey (fun (r : Nat × Nat × Bytes) => [(r.1 : Int), (r.2.1 : Int)]) found
  (order.filter (fun r => recordCrcOk r.2.2 && decide (16 ≤ fieldAt r.2.2 0 1))).map (fun r => (fieldAt r.2.2 0 1, r.2.2.drop 64))

/-- The journal records of a dump in JSEQ order, up to the first whose CRC fails. -/
def dumpJournalOf (rs : List (Nat × Bytes)) (now : Nat) : List JRecord :=
  let parsed := (rs.filter (fun r => r.1 == 0x11)).map (fun r => (splitRecords 1 r.2).head?)
  let good := (parsed.takeWhile (·.isSome)).filterMap id
  sortByKey (fun (r : JRecord) => [(r.jseq : Int)]) (good.filterMap (fun x =>
    (parseBody x.2.1 (x.2.2.drop 16) now).map (fun b =>
      ({ jseq := x.1, body := b, placed := 0, written := false, persisted := false } : JRecord))))

/-- A DUMP_BUFFERED record: the BUFFERED record and its payload. -/
def dumpBuffered (body : Bytes) (now : Nat) (s : State) : Option (BufferedRec × Bytes) :=
  match splitRecords 1 body with
  | (j, ty, whole) :: _ =>
    match parseBody ty (whole.drop 16) now with
    | some (.buffered t off len seq) =>
      let payload := body.drop whole.length
      some ({ target := t, off := off, len := len, quadrant := targetQuadrant t s, seq := seq, handles := [], skip := 0,
              zero := payload.isEmpty && decide (0 < len), inDump := none, mseq := 0, jseq := j, done := [] }, payload)
    | _ => none
  | [] => none

end Sys2Proof.Machine
end

