-- ==== Sys2Proof/Machine/Boot.lean ====
section
/-! DEFINITION. Start-up (R505-R511, R516, R523, R547): the work of each step of Table 21-4, INVENTORY and the creation of an array, recovery,
the replay of a dump, and the mode that a start-up ends in. -/

namespace Sys2Proof.Machine

/-! ## Images (R546, R547) -/

/-- Whether an image is complete and verifies: its manifest's signature and every piece digest. The maker's image, as long as nothing has
been written over it, does (PRESUMED 26). -/
def imageWhole (i : FwImage) : Bool :=
  match i.manifest with
  | none => false
  | some m => (i.factory && i.pieces.isEmpty)
      || (fwSigned m && (List.range (fwCount m)).all (fun n => (imagePiece i n).any (fun b => fwMatches m n b)))

/-- RELEASE of an image. -/
def imageRelease (i : FwImage) : Nat := fieldAt (i.manifest.getD []) 8 4

/-- Step 0x02: the boot ROM starts the verified loader slot with the higher RELEASE, and the other slot if that one fails. -/
def chooseLoader (s : State) : State :=
  let slot := fun (n : Nat) => s.fw.loaders.getD n ⟨none, [], false⟩
  let first := if imageRelease (slot 0) < imageRelease (slot 1) then 1 else 0
  modifyFw (fun f => { f with loader := if imageWhole (slot first) then first else 1 - first }) s

/-- Step 0x06: the source of the attempt's variant starts; a source other than IMAGE is written back there and recorded. None where the
source has no image that verifies: the attempt cannot end well (R547). -/
def startImage (s : State) : Option State :=
  let v := s.boot.variant
  if v = 0 then (if imageWhole s.fw.image then some (modifyFw (fun f => { f with running := f.image }) s) else none)
  else
    let source := if v = 1 then mediaCopy s else s.fw.loading
    (source.filter imageWhole).map (fun i =>
      let m := i.manifest.getD []
      almanac 0x0704 (packFields [(1, v + 1), (4, imageRelease i), (8, fwId m)])
        (modifyFw (fun f => { f with running := i, image := i, loading := none }) (flashWritten 1 s)))

/-! ## Self-test (step 0x07) -/

/-- Quarantines the units that fail their self-test, each with its record (R116, R165, R180). -/
def selfTest (r : StepReport) (s : State) : State :=
  let s1 := r.badTines.foldl (fun st t =>
    let st1 := modifyTine t (fun x => { x with quarantined := true }) st
    if 8 ≤ quarantinedTines (tineHarrow t) st1 then modifyHarrow (tineHarrow t) (fun x => { x with permanentlyParked := true, park := .parked }) st1
    else st1) s
  let s2 := r.badCompressors.foldl (fun st n => noteAllQuarantined (engineRecord 1 n 0 0
    (modifySlice (n / 3) (fun x => { x with compressors := modifyNth (fun y => { y with quarantined := true }) (n % 3) x.compressors }) st))) s1
  let s3 := r.badDecompressors.foldl (fun st n => engineRecord 2 n 0 0
    (modifySlice (n / 3) (fun x => { x with decompressors := modifyNth (fun y => (true, y.2)) (n % 3) x.decompressors }) st)) s2
  r.badCores.foldl (fun st c => engineRecord 3 c 0 0
    (modifyCipher (fun x => { x with cores := modifyNth (fun y => { y with quarantined := true }) c x.cores }) st)) s3

/-! ## Steps 0x08 to 0x0B: bridges, labels, leases (R509, R510, Table 13-8) -/

/-- BRIDGE_IDENTIFY on every link that is up and has not been read. -/
def identifyAll (s : State) : State :=
  (List.range 192).foldl (fun st b =>
    if (furrowAt b st).link.state = .up ∧ (headBridge b st).ident.isNone = true then furrowIssue b 1 [] [] .identify st else st) s

/-- Bridges that answer. -/
def answering (s : State) : List Nat :=
  (List.range 192).filter (fun b => (headBridge b s).ident.isSome && (headBridge b s).state != 5)

/-- Compares the identities read with those of the peer's INVENTORY (R17). -/
def compareIdents (s : State) : State :=
  match s.headland.peer.inventory with
  | none => s
  | some inv => inv.bridges.foldl (fun st e =>
      match (headBridge e.1 st).ident with
      | some i => if e.2.1 = 0 ∧ i.uid ≠ e.2.2 then miswired e.1 st else st
      | none => st) s

/-- The ARRAY_UIDs of the labelled bridges, each with how many carry it, the most first. -/
def uidVotes (s : State) : List (Bytes × Nat) :=
  let us := (answering s).filterMap (fun b => (headBridge b s).label.map (·.arrayUid))
  let votes := us.foldl (fun (acc : List (Bytes × Nat)) u =>
    if acc.any (fun x => x.1 == u) then mapIf (fun x => x.1 == u) (fun x => (x.1, x.2 + 1)) acc else acc ++ [(u, 1)]) []
  sortByKey (fun (x : Bytes × Nat) => [-(x.2 : Int)]) votes

/-- Reads the labels and classifies the bridges: the array's ARRAY_UID is that of the most, others are foreign. False where two values
tie: the head stays where it is, with media attention (R509). -/
def classify (s0 : State) : Bool × State :=
  let s := (answering s0).foldl (fun st b => readLabel b st) (compareIdents s0)
  match uidVotes s with
  | [] => (true, s)
  | (u, n) :: rest =>
    if rest.any (fun x => x.2 == n) then (false, mediaAttn s)
    else
      let s1 := { s with media := { s.media with arrayUid := u } }
      (true, (answering s1).foldl (fun st b =>
        if (headBridge b st).label.any (fun l => l.arrayUid != u) then miswired b st else st) s1)

/-- Whether the peer serves the array, so that the head only waits in FALLOW (Table 21-2). -/
def peerServes (s : State) : Bool :=
  s.headland.peerPresent && [5, 6, 8, 9, 10].contains (peerMode s) && !s.headland.peer.ready

/-- Step 0x0B begins: YIELD_OUT_N is deasserted and leases are asked for (Table 13-8 step 3, R324, R510). A head in conflict, a newcomer, and
a head whose peer serves ask for none; head 1 of a new array waits for HANDOFF. -/
def askLeases (s : State) : State :=
  let h := s.boot.headId
  if s.headland.conflict = true ∨ s.headland.newcomer = true ∨ peerServes s = true then s
  else if allBlank s = true ∧ h = 1 then (if s.headland.peerPresent then s else mediaAttn s)
  else
    let s1 := modifyHeadland (fun x => { x with yieldOutLow := false }) s
    if allBlank s then acquireAll (answering s1) s1
    else if s.headland.peerPresent = false then loneStart s1
    else acquireAll ((if takesNone h s1 then [] else preferring h s1) ++ (if takesNone (1 - h) s1 then preferring (1 - h) s1 else [])) s1

/-- Step 0x0B has ended: labels are read again, as head 0 may have written them meanwhile (R510). False while head 1 of a new array
still finds none. -/
def leasesHeld (s : State) : Bool × State :=
  if allBlank s = true ∧ s.boot.headId = 1 then
    let r := classify s
    (r.1 && !allBlank r.2, r.2)
  else (true, s)

/-! ## Step 0x0C: creation and labels (R509, R510) -/

/-- The label of a bridge that the head writes. -/
def newLabel (b createTime : Nat) (s : State) : BridgeLabel :=
  let h := headBridge b s
  { bridgeNo := b, faultDomain := h.faultDomain, preferred := h.preferred, seq := 0, arrayUid := s.media.arrayUid,
    bridgeUid := (h.ident.map (·.uid)).getD 0, createTime := createTime }

/-- Labels the blank bridges that the head leases. -/
def labelBlanks (s : State) : State :=
  let made := ((answering s).filterMap (fun b => (headBridge b s).label)).head?
  ((leasedBridges s).filter (fun b => (headBridge b s).label.isNone)).foldl (fun st b =>
    writeLabel b (newLabel b ((made.map (·.createTime)).getD 0) st) st) s

/-- Step 0x0C begins: head 0 of a new array draws ARRAY_UID, labels every bridge and writes a checkpoint; otherwise blank bridges of the
array are labelled. -/
def beginRecover (s : State) : State :=
  if s.boot.headId = 0 ∧ allBlank s = true ∧ answering s ≠ [] then
    let (u, s1) := draw 16 s
    advanceCheckpoint (beginCheckpoint (labelBlanks (modifyBoot (fun b => { b with creating := true })
      { s1 with media := { s1.media with arrayUid := u } })))
  else labelBlanks s

/-- Whether the labels and the checkpoint of a new array stand on media. -/
def creationDone (s : State) : Bool :=
  !s.boot.creating || decide (0 < s.journal.checkpointNumber) && s.journal.checkpointing.isNone && s.journal.checkpointDone.isNone && s.furrow.all (fun f => (f.cmds ++ f.queued).all (fun c => match c.use with
    | .label _ => false
    | _ => true))

/-- Head 0 of a new array releases the bridges that prefer head 1, each followed by HANDOFF (R510 step 5). -/
def shareArray (s : State) : State :=
  if s.headland.peerPresent = false ∨ peerServes s = true then s
  else
    let bs := if takesNone 1 s then [] else (preferring 1 s).filter (fun b => leases b s)
    bs.foldl (fun st b => release b st) (modifyReturn (fun r => { r with handing := bs }) s)

/-! ## Step 0x0C: recovery (R51, R199, R223, R281, R516, R523) -/

/-- The records of the other head: those of its newest checkpoint beyond this head's own, and those of the JOURNAL units on media; JSEQ and
body, each once. -/
def otherRecords (r : StepReport) (s : State) : List (Nat × JBody) :=
  let told := (splitRecords (r.records.length / 16 + 1) r.records).filterMap (fun x =>
    (parseBody x.2.1 (x.2.2.drop 16) (arrayTime s)).map (fun b => (x.1, b)))
  let found := (mediaJournal s).filter (fun x => decide (s.journal.replayFrom ≤ x.1) && !s.journal.ring.any (fun r => r.jseq == x.1))
  (told ++ found).foldl (fun acc x => if acc.any (fun y => y.1 == x.1) then acc else acc ++ [x]) []

/-- The highest ingest sequence per quadrant that BUFFERED records show (R60). -/
def highestIngest (rs : List (Nat × JBody)) (s : State) : List Nat :=
  (List.range 4).map (fun q => (rs.filterMap (fun x => match x.2 with
    | .buffered t _ _ n => if targetQuadrant t s = q then some n else none
    | _ => none)).foldl max 0)

/-- The tables as the newest checkpoint and the journals of both heads leave them: records in ascending JSEQ (R281). -/
def replay (others : List (Nat × JBody)) (s : State) : State :=
  let own := (s.journal.ring.filter (fun r => decide (s.journal.replayFrom ≤ r.jseq))).map (fun r => (r.jseq, r.body))
  let all := sortByKey (fun (x : Nat × JBody) => [(x.1 : Int)]) (own ++ others)
  let s1 := all.foldl (fun st x => applyBody x.1 x.2 st) { s with map := s.journal.checkpoint }
  raiseSequences 0 ((all.map (·.1)).foldl max 0) (highestIngest all s1) s1

/-- Acres after a loss: those on media join the table, and what was open or being reclaimed is SEALED; unwritten dump acres stay reserved
(R223, Tables 9-2 and 9-4). -/
def sealAcres (s0 : State) : State :=
  let s := rebuildAcres s0
  let s1 := countReclaim (fun c => { c with orphans := bump c.orphans (lossOrphans (s.media.acres.filter (fun a => a.state == 1)) s) }) s
  let keep := fun (a : Acre) => isDump a && decide (a.started = 0)
  let opened := s1.media.acres.filter (fun a => a.state == 1 && !isDump a && a.opener == s1.boot.headId)
  let s2 := { s1 with media := { s1.media with acres := s1.media.acres.map (fun a => if keep a ∨ a.state = 1 then a else { a with state := 2 }) } }
  opened.foldl (fun st a => sealAcre a.num st)
    { s2 with media := { s2.media with acres := s2.media.acres.map (fun a =>
        if a.state = 1 ∧ keep a = false ∧ a.opener ≠ s2.boot.headId then { a with state := 2 } else a) } }

/-- Every chunk ID that is free as the start-up begins counts as freed by reclaim: its next assignment advances its generation (R199). -/
def freeIds (s : State) : State :=
  let free := fun (id : Nat) => (lookup id s.map.locs).isNone
  modifyIngest (fun i =>
    { i with startGen := i.startGen + 1, freedIds := [], idGens := i.idGens.map (fun x => if free x.1 then (x.1, x.2 + 1) else x)
             idRanges := i.drawnBlocks.map (fun b => (b, if b = 0 then 1 else 0)) }) s

/-- An unsafe stop is counted, shown in Critical Warning and recorded (R516). -/
def tellStop (s : State) : State :=
  match s.boot.stopUnsafe with
  | none => s
  | some n =>
    almanac 0x0005 (leBytes 4 n) (offerHealth (modifyNvme (fun x => { x with unsafeShutdowns := bump x.unsafeShutdowns, uncleanStop := true })
      (modifyBoot (fun b => { b with stopUnsafe := none }) s)))


/-- Epochs whose envelope was persisted but which never became current are retired unused at recovery, and their envelopes destroyed; a head
whose peer serves leaves its peer's advance alone (R194). -/
def retireUnused (s : State) : State :=
  if peerServes s then s
  else s.map.domains.foldl (fun st x => (x.2.envelopes.filter (fun e => decide (x.2.epoch < e.epoch))).foldl (fun st2 e =>
    almanac 0x0303 (packFields [(1, x.1), (4, e.epoch), (1, 1)]) (place' 0 (.epochDestroy x.1 e.epoch) st2)) st) s

/-- Step 0x0C ends. -/
def recover (r : StepReport) (s : State) : State :=
  let created := s.boot.creating
  let s1 := resumeTime s.journal.checkpointTime s
  let s2 := takeStaging (almanacResume ((newestMark (sequencedRecords s.alm)).isNone) s1)
  let s3 := if created then s2 else sealAcres (replay (otherRecords r s2) s2)
  let s4 := rewriteLocs r.facts (raiseSequences (highestWriteSeq s3) 0 [] (freeIds s3))
  let s5 := fwRescan (tellStop (retireUnused s4))
  if created then shareArray (modifyBoot (fun b => { b with creating := false }) s5) else s5

/-! ## Step 0x0D: the dump (R235) -/

/-- A chunk whose location lies in a bale that never committed is lost until its write is reduced again: it leaves the index, and its
location names nothing (Table 9-4). -/
def dropTorn (s : State) : State :=
  let torn := s.media.torn
  let gone := s.map.locs.filter (fun x => x.2.len != 0 && torn.any (fun t => t.1 == x.2.acre && t.2 == x.2.bale))
  let s1 := gone.foldl (fun st x =>
    modifyMap (fun m => { m with index := m.index.filter (fun e => entryChunk e.entry != x.1) })
      (place' 0 (.relocate (mapEntry x.1 x.2.gen) { x.2 with acre := 0xFFFFFFFF, bale := 0, plot := 0, off := 0, len := 0 }) st)) s
  { s1 with media := { s1.media with torn := [] } }

/-- A BUFFERED record of which no payload is found: its grain or piece is mapped to a new chunk whose location is lost, with a record. -/
def loseTarget (r : BufferedRec) (s : State) : State :=
  match drawId s with
  | (none, s1) => s1
  | (some id, s1) =>
    let g := idGen id s1
    let d := targetDomain r.target s1
    let l : Loc := { noLoc with gen := g, refcount := 1, domain := d, epoch := ((domainAt d s1).map (·.epoch)).getD 0 }
    let s2 := modifyIngest (fun i => { i with idGens := insertAt id (g + 1) i.idGens }) s1
    readFail 9 (mapEntry id g) (some l) 0 [] (place' r.quadrant (.chunk r.target (mapEntry id g) l []) s2)

/-- Restores one BUFFERED record with its payload, and mirrors it to a present peer. Where no buffer is free, its payload stays in its dump
acre, which is not erased before the record is settled. -/
def restoreRecord (x : BufferedRec × Bytes) (s : State) : State :=
  let r := x.1
  if orphanPiece r s then dropOrphan { r with handles := [] } s
  else
    let (kept, hs, s1) : Option Bytes × List Nat × State :=
      if r.zero then (none, [], s)
      else match landBytes (0x20 + r.quadrant) 0 x.2 s with
        | some (hs, st) => (none, hs, st)
        | none => (some x.2, [], s)
    let (m, s2) : Nat × State := if s1.headland.peerPresent then mirrorSend r.quadrant (flagBit (!x.2.isEmpty)) [bufferedBytes r] x.2 [] s1 else (0, s1)
    modifyIngest (fun i =>
      { i with own := i.own ++ [{ r with handles := hs, skip := 0, inDump := kept, mseq := m, done := [] }]
               nextSeq := i.nextSeq.set r.quadrant (max (i.nextSeq.getD r.quadrant 1) (r.seq + 1)) }) s2

/-- Restores a BUFFERED record that a dump without DUMP_END does not hold: from the peer's mirror buffer, else its target is lost (R235). -/
def restoreMissing (r : StepReport) (x : BufferedRec) (s : State) : State :=
  if x.zero then restoreRecord (x, []) s
  else match lookup x.jseq r.mirrored with
    | some b => restoreRecord (x, b) s
    | none => loseTarget x s

/-- Whether a BUFFERED record is known to the journal, as it stands in the ring. -/
def journalKnows (x : BufferedRec) (s : State) : Bool :=
  s.journal.ring.any (fun j => j.jseq == x.jseq && (match j.body with
    | .buffered _ _ _ _ => true
    | _ => false))

/-- The BUFFERED records that were not settled when the head stopped: which they are the model takes from what DUMP had to write (DESIGN
CHOICE 162). -/
def unsettledAt (s : State) : List BufferedRec := (s.media.dumped.map (fun d => d.records.map (·.1))).getD []

/-- Replays a dump from the bales that stand on media: its journal, then its BUFFERED records; its acres are erased once every one of
them is settled. -/
def replayDump (r : StepReport) (as : List Acre) (s : State) : State :=
  let rs := dumpRead as s
  let ended := rs.any (fun x => x.1 == 0x1F)
  let js := (dumpJournalOf rs (arrayTime s)).filter (fun x => !s.journal.ring.any (fun y => y.jseq == x.jseq))
  let top := (js.map (·.jseq)).foldl max 0
  let s1 := js.foldl (fun st x => applyBody x.jseq x.body st) s
  let s2 := dropTorn (raiseSequences 0 top (highestIngest (js.map (fun x => (x.jseq, x.body))) s1)
    { s1 with journal := { s1.journal with ring := s1.journal.ring ++ js.map (fun x => { x with placed := s1.time.ticks }) } })
  let records := (rs.filter (fun x => x.1 == 0x12)).filterMap (fun x => dumpBuffered x.2 (arrayTime s2) s2)
  let s3 := records.foldl (fun st x => restoreRecord x st) s2
  let missing := if ended then [] else (unsettledAt s3).filter (fun x => !records.any (fun y => y.1.jseq == x.jseq) && journalKnows x s3)
  let s4 := missing.foldl (fun st x => restoreMissing r x st) s3
  let stamps := s4.ingest.own.map (fun y => (y.quadrant, y.seq))
  dumpRelease { s4 with media := { s4.media with dumpErase := s4.media.dumpErase ++ as.map (fun a => (a.num, stamps)) } }

/-- Step 0x0D ends: a dump that stands on media is replayed. Dump acres of it that the peer has adopted and erased, or that hold nothing newer
than the journal, are given up (R235, R319). -/
def dumpStep (r : StepReport) (s : State) : State :=
  let as := dumpStanding s
  let s1 := if as = [] then dropTorn s else replayDump r as s
  let used := s1.media.acres.filter (fun a => isDump a && a.opener == s1.boot.headId && decide (0 < a.started) && !as.any (fun x => x.num == a.num))
  used.foldl (fun st a =>
      if (List.range (a.k + a.m)).any (fun i =>
        let x := a.blocks.getD i (192, 0, 0)
        !(nandBlock x.1 x.2.1 x.2.2 st).isEmpty) then eraseDump a.num st else acreFree a.num st)
    { s1 with media := { s1.media with dumped := none, dumpAcres := s1.media.dumpAcres.filter (fun n => (used ++ as).all (fun a => a.num != n)) } }

/-! ## Steps 0x0E to 0x10 -/

/-- Step 0x0E ends: far store is rebuilt, the summary filter from the index. -/
def farStep (s : State) : State :=
  buildFar (modifyIngest (fun i => { i with filter := s.map.index.map (fun e => hotKey e.domain e.fp) }) s)

/-- Step 0x0F: the working slots of every current epoch are loaded; a domain whose key is not to be had is locked (R188). -/
def keysStep (s : State) : State :=
  s.map.domains.foldl (fun st x => if x.2.epoch = 0 then st else (needKey x.1 x.2.epoch true st).2) s

/-- Step 0x0F is skipped: domains whose keys are not resident are locked. -/
def keysSkipped (s : State) : State :=
  s.map.domains.foldl (fun st x => if x.2.epoch = 0 ∨ (dataSlot x.1 x.2.epoch st).isSome = true then st else noteLocked x.1 true st) s

/-! ## Step 0x11: the next mode (Table 21-2, R323, R324, R493) -/

/-- ACTIVE_READY, with the highest JSEQ replayed. -/
def sendReady (s : State) : State := headSend 0 0x0003 (leBytes 8 (s.journal.nextJseq - 2)) s

/-- The mode that the start-up ends in, once it can: ACTIVE with the peer's ACTIVE_READY, FALLOW under a serving head, SOLE with no peer and
no lease of one. -/
def readyMode (s : State) : Option Mode :=
  if s.headland.peerPresent then
    (if peerMode s = modeCode .sole ∨ ((peerMode s = modeCode .quiesce ∨ peerMode s = modeCode .readonly) ∧ s.headland.peer.ready = false)
      then some .fallow
    else if s.headland.peer.ready then some .active else none)
  else if s.headland.takeover.any (fun t => t.live || t.wanted.any (fun b => !leases b s)) then none
  else some .sole

/-- A head that goes into FALLOW takes the sole head's array-scope values and holds no chunk IDs of its own (R310, R493). -/
def intoFallow (r : StepReport) (s : State) : State :=
  let s1 := r.arrayParams.foldl (fun st v => if paramShape v.1 v.2.1 v.2.2 st then applyParam v.1 v.2.1 v.2.2 st else st) s
  setMode .fallow 0 (modifyHeadland (fun h => { h with idBlocks := [] })
    (modifyIngest (fun i => { i with idRanges := [], freedIds := [], drawnBlocks := [] }) s1))

/-- A head that begins to serve: array time steps past every time issued, dump acres are reserved, staging goes to media. -/
def intoService (m : Mode) (s : State) : State :=
  let s1 := stepPast (setMode m 0 (modifyHeadland (fun h => { h with takeover := none }) s))
  let s2 := releaseStrays (decide (m = .sole)) (if m = .sole then adoptIds s1 else s1)
  settle (resumeSheaf (resumeIo (idWatch (fwLand (checkWarnings (reserveDump (powerSync s2)))))))

/-- The start-up ends. -/
def startUpEnds (r : StepReport) (m : Mode) (s : State) : State :=
  withAna (fun st => if m = .fallow then powerSync (intoFallow r st) else intoService m st) s

/-! ## The sequence of steps (R505, R507, R508) -/

/-- What a step does as it begins. -/
def stepBegins (step : Nat) (s : State) : State :=
  if step = 0x06 ∧ s.boot.variant = 2 then (if s.headland.linkState = .down then s else linkCame s)
  else if step = 0x08 then identifyAll s
  else if step = 0x09 then (if s.headland.linkState = .down then s else sendInventory s)
  else if step = 0x0B then askLeases s
  else if step = 0x0C then beginRecover s
  else if step = 0x11 then sendReady s
  else s

/-- What the skipping of an optional step brings (Table 21-4). -/
def stepSkipped (step : Nat) (s : State) : State :=
  if step = 0x0F then keysSkipped s else if step = 0x10 then healthAttn 0 s else s

/-- Begins a step, or skips it and begins the next one, or gives up into RECOVERY (R508). Step 0x11 does not begin in a conflict of head
numbers, nor for a newcomer that waits for Headland (R15, R321). -/
def beginFrom : Nat → Nat → State → State
  | 0, _, s => s
  | fuel + 1, step, s =>
    if step = 0x11 ∧ (s.headland.conflict = true ∨ s.headland.newcomer = true) then s
    else match stepChoice step s with
      | .attempt n v g => stepBegins step (openStep step n v g s)
      | .skip => beginFrom fuel (step + 1) (stepSkipped step (skipStep step s))
      | .recovery => enterRecovery s

/-- The work of a step that ends well; none while it cannot end yet, with what it has found. -/
def stepWork (step : Nat) (r : StepReport) (s : State) : Bool × State :=
  let done := fun (x : State) => (true, x)
  match step with
  | 0x02 => done (chooseLoader s)
  | 0x03 => done (modifyBoot (fun b => { b with ready := true }) s)
  | 0x04 => done (if s.mem.mappedOut = 0 then s else healthAttn 0 s)
  | 0x05 =>
    let s1 := modifyMem (fun m => { m with farBytes := r.farBytes }) s
    let s2 := if r.uniform then s1 else healthRecord 0x000A (packFields [(1, 1), (8, 0), (8, r.farBytes)]) s1
    done (if s.boot.variant = 0 then s2 else healthAttn 0 s2)
  | 0x06 => match startImage s with
    | some s1 => (true, s1)
    | none => (false, s)
  | 0x07 => done (selfTest r s)
  | 0x08 => (decide (8 ≤ (answering s).length), s)
  | 0x0A => classify s
  | 0x0B => leasesHeld s
  | 0x0C => if creationDone s then done (recover r s) else (false, s)
  | 0x0D => done (dumpStep r s)
  | 0x0E => done (farStep s)
  | 0x0F => done (keysStep s)
  | 0x10 => done (applyConfig s)
  | 0x11 => ((readyMode s).isSome, s)
  | _ => done s

/-- What follows the DONE of a step: INVENTORY after step 0x07, the mode of service after step 0x11, the next step otherwise. -/
def stepFollows (step : Nat) (r : StepReport) (s : State) : State :=
  if step = 0x11 then
    match readyMode s with
    | some m => startUpEnds r m s
    | none => s
  else
    let s1 := if step = 0x07 then setMode .inventory 0 (modifyBoot (fun b => { b with loader := false }) s) else s
    beginFrom 18 (step + 1) s1

/-- A BOOT_STEP record of a failed attempt (R507). -/
def stepFailed (result : Status) (s : State) : State :=
  let b := s.boot
  almanac 0x0004 (packFields [(1, b.step), (1, b.attempt), (1, b.variant), (1, 0), (2, result.toNat)])
    (modifyBoot (fun x => { x with bootStepFailures := bump x.bootStepFailures }) s)

/-- BOOT_STEP_DONE: the step in progress ends with the report's RESULT. A step that fails is attempted again at once (R507). -/
def execBootStepDone (report : StepReport) (s : State) : Host.Outcome State Fault Refusal :=
  .next (if (s.boot.mode ≠ .boot ∧ s.boot.mode ≠ .inventory) ∨ s.boot.stepOpen = false ∨ s.boot.quietStop = true then s
  else if statusOk report.result = false then
    beginFrom 18 s.boot.step (stepFailed report.result (closeStep report.result s))
  else
    let (ended, s1) := stepWork s.boot.step report s
    if ended then hswSync (stepFollows s.boot.step report (closeStep report.result s1)) else hswSync s1)

/-- Whether the bound of the step in progress runs: head 1 of a new array holds in step 0x0B without one, and step 0x11 has none while the
peer is in INVENTORY (Table 21-4). -/
def bounded (s : State) : Bool :=
  !(s.boot.step == 0x0B && s.boot.headId == 1 && allBlank s)
    && !(s.boot.step == 0x11 && s.headland.peerPresent && peerMode s == modeCode .inventory)

/-- BOOT_WATCHDOG: the bound of the step passes without a DONE: a self reset; the next start-up counts the failure (R507). -/
def execBootWatchdog (s : State) : Host.Outcome State Fault Refusal :=
  .next (if (s.boot.mode = .boot ∨ s.boot.mode = .inventory) ∧ s.boot.stepOpen = true ∧ bounded s = true then bareReset s else s)

/-- PCIE_RETRY_TIMER: in RECOVERY, where step 0x03 has failed, the loader attempts the PCI Express link again every 10 s; `up` whether it
trains (R511). -/
def execPcieRetryTimer (up : Bool) (s : State) : Host.Outcome State Fault Refusal :=
  .next (if s.boot.mode = .recovery ∧ up = true then modifyBoot (fun b => { b with ready := true }) s else s)

/-! ## The Headland link comes up -/

/-- A newcomer whose Headland returns goes on with the joint start-up at the INVENTORY exchange (R321 case 3). -/
def newcomerResumes (s : State) : State :=
  if s.headland.newcomer = false then s
  else
    let s1 := modifyHeadland (fun h => { h with newcomer := false }) s
    if s1.boot.mode = .inventory ∧ s1.boot.stepOpen = false ∧ s1.boot.step = 0x10 then beginFrom 18 0x11 s1 else s1

/-- HEADLAND_TRAINING_DONE: all eight lanes are locked and deskewed; the peer's TS2 carries INIT_CREDITS 255 (R308). -/
def execHeadlandTrainingDone (sub preset : Nat) (s : State) : Host.Outcome State Fault Refusal :=
  .next (if s.headland.txOff.isSome ∨ 4 ≤ sub ∨ (s.headland.links.getD sub resetLinkEnd).state ≠ .training then s
  else
    let was := s.headland.linkState
    let s1 := subStep sub (linkTrained headlandKind preset 255) (modifyHeadland (fun h => { h with lanes := h.lanes.set sub 0xFF }) s)
    if was = .down then newcomerResumes (linkCame s1) else s1)

end Sys2Proof.Machine
end

