-- ==== Sys2Proof/Machine/Power.lean ====
section
/-! DEFINITION. Pace (R30-R35), thermal policy and lifetime (R567-R572), supplies and reference clocks (R560). -/

namespace Sys2Proof.Machine

/-! ## Pace (R30-R35) -/

/-- PACE of a count of handshakes in a window: units of 1/1024 of 4,000,000, truncated (R30, R31); above what the field holds the spec is
silent, and it reads 0xFFFF (DESIGN CHOICE 39). -/
def paceOf (count : Nat) : Nat := min 0xFFFF (count * 1024 / 4000000)

/-- The pace word of a quadrant after a window; a parked quadrant keeps its values (Table 2-2). -/
def paceStep (w : PaceWord) (count : Nat) : PaceWord :=
  if w.parked then w
  else
    let p := paceOf count
    { paceMin := min w.paceMin p, paceMax := max w.paceMax p, pace := p, stale := false, parked := false }

/-- The reported value at which a band begins (Table 2-3). -/
def bandFloor : Nat → Nat
  | 0 => 1024
  | 1 => 921
  | 2 => 798
  | _ => 0

/-- The band of a reported value (Table 2-3). -/
def bandOf (v : Nat) : Nat := if 1024 ≤ v then 0 else if 921 ≤ v then 1 else if 798 ≤ v then 2 else 3

/-- The band and its count of windows after a window of value `v`: down at once, up after 16 windows at least 8 units above the lower
bound of a higher band (R33). -/
def bandStep (band : Nat) (history : List Nat) (v : Nat) : Nat × List Nat :=
  if band < bandOf v then (bandOf v, [])
  else
    let h := (v :: history).take 16
    match (List.range band).find? (fun b => decide (h.length = 16) && h.all (fun x => decide (bandFloor b + 8 ≤ x))) with
    | some b => (b, [])
    | none => (band, h)

/-- The lowest PACE among the unparked quadrants, and its quadrant. -/
def lowestPace (words : List PaceWord) : Option (Nat × Nat) :=
  ((List.range words.length).filterMap (fun q => (words[q]?).bind (fun w => if w.parked then none else some (q, w.pace)))).foldl
    (fun best x => match best with
      | none => some x
      | some y => if x.2 < y.2 then some x else best) none

/-- DEV_THERMAL, with the pace band and the setpoint (Table 14-10). -/
def thermalEvent (s : State) : State := raiseEvent 0x0204 (s.time.band * 2 ^ 32 + vset s) 0 s

/-- Changes the time part. -/
def modifyTime (f : TimePart → TimePart) (s : State) : State := { s with time := f s.time }

/-- Notes the band after a window; a change is a change of the HSW and an event (R33, Table 14-10). -/
def noteBand (v : Nat) (s : State) : State :=
  let b := bandStep s.time.band s.time.bandHistory v
  let s1 := modifyTime (fun t => { t with band := b.1, bandHistory := b.2 }) s
  if b.1 = s.time.band then s1 else thermalEvent (hswSync s1)

/-- Band 0b11 at a setpoint of 0.70 V or above: when this begins, a PACE record and health attention (R35). -/
def noteLowPace (q v : Nat) (s : State) : State :=
  let low := decide (s.time.band = 3) && decide (4 ≤ vset s)
  let s1 := modifyTime (fun t => { t with lowPace := low }) s
  if low && !s.time.lowPace then healthRecord 0x0008 (packFields [(1, q), (2, v), (1, vset s)]) s1 else s1

/-- Ten windows in a row below 614 at a setpoint of 0.70 V or above are pace collapse (R35). -/
def noteCollapse (v : Nat) (s : State) : State :=
  let n := if v < 614 ∧ 4 ≤ vset s then s.time.collapse + 1 else 0
  let s1 := modifyTime (fun t => { t with collapse := n }) s
  if 10 ≤ n then enterYield 3 s1 else s1

/-- PACE_WINDOW: a window of 25,000 ticks ends with the counts of the four rings. -/
def execPaceWindow (counts : List Nat) (s : State) : Host.Outcome State Fault Refusal :=
  let s1 := modifyTime (fun t => { t with
    pace := (List.range t.pace.length).map (fun q => paceStep (t.pace.getD q resetPace) (counts.getD q 0)) }) s
  .next (match lowestPace s1.time.pace with
    | none => s1
    | some (q, v) => noteCollapse v (noteLowPace q v (noteBand v s1)))

/-! ## Thermal policy (R568) -/

/-- Changes the thermal part. -/
def modifyThermal (f : ThermalPart → ThermalPart) (s : State) : State := { s with thermal := f s.thermal }

/-- The mean over a window of a quadrant's hottest sensor, in 1/8 °C. -/
def quadrantMean (m : ThermalMeans) (q : Nat) : Int := m.tjQ.getD q 0

/-- The unparked harrows of a quadrant, highest-numbered first. -/
def unparkedIn (q : Nat) (s : State) : List Nat := ((List.range 8).map (fun i => 8 * q + 7 - i)).filter (fun h => !inParkedSet h s)

/-- The candidates of action 2: of Q1 to Q3, at or above THERMAL_THROTTLE_T, with an unparked harrow. -/
def parkCandidates (m : ThermalMeans) (s : State) : List Nat :=
  [1, 2, 3].filter (fun q => decide ((8 * paramNat 0x1900 0 s : Int) ≤ quadrantMean m q) && !(unparkedIn q s).isEmpty)

/-- The hottest of the candidates; between two equally hot the manual does not choose (DESIGN CHOICE 3). -/
def hottestCandidate (m : ThermalMeans) (s : State) : Option Nat × State :=
  let cs := parkCandidates m s
  let top := cs.filter (fun q => cs.all (fun r => decide (quadrantMean m r ≤ quadrantMean m q)))
  match top with
  | [] => (none, s)
  | [q] => (some q, s)
  | q :: _ =>
    let r := undefNat s
    (some (top.getD (r.1 % top.length) q), r.2)

/-- A step of the policy: counted, DEV_THERMAL, and THERMAL_ATTN for the first one after a window with no limit. -/
def thermalStep (hadLimit : Bool) (s : State) : State :=
  let s1 := modifyThermal (fun t => { t with thermalSteps := bump t.thermalSteps }) s
  thermalEvent (if hadLimit then s1 else raiseAttn bitThermal s1)

/-- Action 2: the highest-numbered unparked harrow of the hottest candidate is parked; none where there is no candidate. -/
def parkHottest (m : ThermalMeans) (hadLimit : Bool) (s : State) : State :=
  let r := hottestCandidate m s
  match r.1 with
  | none => r.2
  | some q =>
    match unparkedIn q r.2 with
    | [] => r.2
    | h :: _ => thermalStep hadLimit (applyParkedSet (modifyThermal (fun t => { t with parked := t.parked ++ [h] }) r.2))

/-- Action 3: the last harrow parked thermally is unparked, else the limit rises, and ends at the setpoint that the other requests
ask for. -/
def relax (s : State) : State :=
  let noted := fun (st : State) => modifyThermal (fun t => { t with lastRelax := some s.time.ticks }) st
  match s.thermal.parked.reverse with
  | _ :: rest => thermalStep s.thermal.limit.isSome (noted (applyParkedSet (modifyThermal (fun t => { t with parked := rest.reverse }) s)))
  | [] =>
    match s.thermal.limit with
    | none => s
    | some l =>
      thermalStep true (noted (modifyThermal (fun t => { t with limit := if otherRequests s ≤ l + 1 then none else some (l + 1) }) s))

/-- The action taken at the end of a window: the first that applies. -/
def thermalAction (m : ThermalMeans) (s : State) : State :=
  let limit := s.thermal.limit
  let throttle : Int := 8 * paramNat 0x1900 0 s
  let start := limit.getD (otherRequests s)
  if throttle ≤ m.tjMax ∧ 4 < start then
    thermalStep limit.isSome (modifyThermal (fun t => { t with limit := some (start - 1) }) s)
  else if throttle ≤ m.tjMax ∧ paramNat 0x1902 0 s = 1 then parkHottest m limit.isSome s
  else if m.tjMax < throttle - 8 * paramNat 0x1901 0 s ∧ s.thermal.lastRelax.all (fun l => decide (l + msTicks 100 ≤ s.time.ticks)) = true then relax s
  else s

/-- At 105 °C or above with the limit at 0x4 and no further harrow to park: health attention and a record, each window. -/
def thermalLimitReached (m : ThermalMeans) (s : State) : State :=
  if 840 ≤ m.tjMax ∧ s.thermal.limit = some 4 ∧ (paramNat 0x1902 0 s = 0 ∨ (parkCandidates m s).isEmpty = true) then
    healthRecord (Config.recordType (0x10000 + 568)) [] s
  else s

/-- THERMAL_WINDOW: a window of 10 ms ends with its means and the energy drawn in it. The policy acts from step 0x07 on (R568); the window
counts in THROTTLE_MS where a limit stood in it. -/
def execThermalWindow (means : ThermalMeans) (energyMj : Nat) (s : State) : Host.Outcome State Fault Refusal :=
  let s1 := modifyThermal (fun t => { t with
    energyMj := satAdd 64 t.energyMj energyMj
    throttleMs := if t.limit.isSome then satAdd 64 t.throttleMs 10 else t.throttleMs }) s
  .next (if stewardRuns s1 then thermalLimitReached means (thermalAction means s1) else s1)

/-- THERMTRIP: latched until power-on reset, THERMTRIP_N low, THERMAL_ATTN; counted at the start-up that follows (R567, R572). -/
def execThermtrip (s : State) : Host.Outcome State Fault Refusal :=
  .next (raiseAttn bitThermal (modifyThermal (fun t => { t with tripLatched := true, tripUncounted := true }) s))

/-! ## Rated life (R570) -/

/-- Rated life in tenths of a year by grade and temperature in 1/8 °C, at the rows of Table 25-8. -/
def lifeRow (gradeL : Bool) (tj : Int) : Option Nat :=
  if tj = 640 then some (if gradeL then 414 else 471)
  else if tj = 680 then some (if gradeL then 300 else 342)
  else if tj = 720 then some (if gradeL then 220 else 250)
  else if tj = 760 then some (if gradeL then 162 else 184)
  else if tj = 800 then some (if gradeL then 120 else 137)
  else none

/-- What an hour adds to LIFE_USED: 10^9 over the rated life in hours, a year being 8,766 hours (R26, R570). -/
def lifeShare (gradeL : Bool) (tj : Int) : Nat :=
  (match lifeRow gradeL tj with
    | some n => 10 ^ 10 / (n * 8766)
    | none => 10 ^ 9 / max 1 (Config.ratedLifeHours gradeL tj)) + flagBit (Config.lifeRoundsUp gradeL tj)

/-- LIFE_USED_HOUR: an hour ends with its mean TJ_MAX in 1/8 °C. -/
def execLifeUsedHour (mean : Int) (s : State) : Host.Outcome State Fault Refusal :=
  .next (modifyThermal (fun t => { t with lifeUsed := satAdd 64 t.lifeUsed (lifeShare Config.gradeL mean) }) s)

/-! ## Supplies and reference clocks (R560, Table 13-5) -/

/-- The nominal value of a supply and its recommended range, in mV; VCORE's by the setpoint (Table 25-1). -/
def supplyRange (x : Supply) (s : State) : Nat × Nat × Nat :=
  match x with
  | .vcore => let v := 600 + 25 * vset s; (v, v - 10, v + 10)
  | .vsram => (800, 776, 824)
  | .vddSd => (750, 728, 772)
  | .vddhSd => (1200, 1164, 1236)
  | .vddHbm => (1100, 1067, 1133)
  | .vddqHbm => (400, 388, 412)
  | .vddqDdr => (1100, 1067, 1133)
  | .vio => (1800, 1710, 1890)
  | .vaux => (3300, 3135, 3465)

/-- Whether a level lies outside the recommended range. -/
def outsideRange (x : Supply) (mv : Nat) (s : State) : Bool :=
  let r := supplyRange x s
  decide (mv < r.2.1) || decide (r.2.2 < mv)

/-- Whether a level is one of the supply cause: VCORE below 0.57 V or above 0.88 V, another supply more than 5 % off (Table 13-5). -/
def beyondRange (x : Supply) (mv : Nat) (s : State) : Bool :=
  match x with
  | .vcore => decide (mv < 570) || decide (880 < mv)
  | _ =>
    let n := (supplyRange x s).1
    decide (100 * mv < 95 * n) || decide (105 * n < 100 * mv)

/-- SUPPLY_EXCURSION: a supply has stood at a level for a time in ns. An excursion of 1 µs is counted; 100 µs beyond the limits of
Table 13-5 is the supply cause. -/
def execSupplyExcursion (supply : Supply) (mv ns : Nat) (s : State) : Host.Outcome State Fault Refusal :=
  let s1 := if outsideRange supply mv s ∧ 1000 ≤ ns then
      modifyThermal (fun t => { t with supplyExcursions := bump t.supplyExcursions }) s else s
  .next (if beyondRange supply mv s ∧ 100000 ≤ ns then enterYield 5 s1 else s1)

/-- CLOCK_LOSS: REFCLK_TB, or with `fw` REFCLK_FW, has been absent for 10 µs. The latter is a near-store fault as well, and the cause that
wins the mode arbiter is the one recorded. -/
def execClockLoss (fw nearStoreWins : Bool) (s : State) : Host.Outcome State Fault Refusal :=
  .next (enterYield (if fw && nearStoreWins then 4 else 5) s)

end Sys2Proof.Machine
end

