-- ==== Sys2Proof/Machine/Pins.lean ====
section
/-! DEFINITION. The SMBus target (R564), the JTAG port (R565, R566) and the retention refresh of the boot flash (R26). -/

namespace Sys2Proof.Machine

/-! ## SMBus (R564, Table 25-7) -/

/-- Changes the SMBus part. -/
def modifySmbus (f : SmbusPart → SmbusPart) (s : State) : State := { s with smbus := f s.smbus }

/-- SMBUS_REFRESH: the sensors and monitors are read, and every word takes its present value. -/
def execSmbusRefresh (readings : Readings) (s : State) : Host.Outcome State Fault Refusal :=
  let s1 := modifyThermal (fun t => { t with tjQ := readings.tjQ, tempHbm := readings.tempHbm, tempVault := readings.tempVault,
                                             powerMw := readings.powerMw, vcoreMv := readings.vcoreMv }) s
  .next (modifySmbus (fun b => { b with words := smbusWords s1 }) (offerHealth s1))

/-- The word of a command code; none for a code that Table 25-7 does not list. -/
def smbusWord (code : Nat) (s : State) : Option (BitVec 16) :=
  if code = 0xFE then some 0x9256
  else if code = 0xFF then some 0x00A1
  else if code < 16 then s.smbus.words[code]?
  else none

/-- SMBUS_SELECT: a command code is accepted and its word latched, or NACKed. -/
def execSmbusSelect (code : BitVec 8) (s : State) : Host.Outcome State Fault Refusal :=
  .next (match smbusWord code.toNat s with
    | some w => modifySmbus (fun b => { b with code := code.toNat, latched := some w }) s
    | none => emit (.smbus none none) s)

/-- One byte of SMBus PEC: CRC-8 with x^8 + x^2 + x + 1, most significant bit first (PRESUMED, log 19: SMBus 3.1). -/
def pecByte (crc b : Nat) : Nat :=
  (List.range 8).foldl (fun (c : Nat) _ => if 128 ≤ c then ((2 * c % 256) ^^^ 0x07) else 2 * c) (crc ^^^ b)

/-- PEC of a Read Word: over the address with the write bit, the code, the address with the read bit, and the two data bytes. -/
def readPec (address code : Nat) (w : BitVec 16) : BitVec 8 :=
  BitVec.ofNat 8 ([2 * address, code, 2 * address + 1, w.toNat % 256, w.toNat / 256].foldl pecByte 0)

/-- The 7-bit address: 0x4C + HEAD_ID. -/
def smbusAddress (s : State) : Nat := 0x4C + s.boot.headId

/-- READ_WORD: the latched word, with PEC when the host clocks the PEC byte; NACKed before a code has been accepted. -/
def execReadWord (pec : Bool) (s : State) : Host.Outcome State Fault Refusal :=
  .next (match s.smbus.latched with
    | some w => emit (.smbus (some w) (if pec then some (readPec (smbusAddress s) s.smbus.code w) else none)) s
    | none => emit (.smbus none none) s)

/-- SMBUS_DATA_WRITE: NACKed at the data byte; nothing changes. -/
def execSmbusDataWrite (_code : BitVec 8) (_data : Bytes) (s : State) : Host.Outcome State Fault Refusal := .next (emit (.smbus none none) s)

/-- ALERT_RESPONSE_ADDRESS: answered with the target's address while SMB_ALERT_N is low, which the answer does not release. -/
def execAlertResponseAddress (s : State) : Host.Outcome State Fault Refusal :=
  .next (if alertLow s then emit (.alertResponse (smbusAddress s)) s else s)

/-! ## JTAG (R565, R566) -/

/-- Selects an instruction, and the first word its register shifts out. -/
def selectJtag (i : JtagInstr) (value : Nat) (s : State) : State := emit (.jtag value) { s with jtag := i }

/-- An instruction that takes effect only while RESET_N is low, and else selects BYPASS, whose register captures 0. -/
def resetOnly (i : JtagInstr) (s : State) : State :=
  if s.boot.resetLow then { s with jtag := i } else selectJtag .bypass 0 s

/-- BYPASS. -/
def execBypass (s : State) : Host.Outcome State Fault Refusal := .next (selectJtag .bypass 0 s)

/-- IDCODE: version 0x1, part 0x9256, manufacturer 0x2B5, bit 0 set. -/
def execIdcode (s : State) : Host.Outcome State Fault Refusal := .next (selectJtag .idcode 0x1925656B s)

/-- SAMPLE/PRELOAD: the boundary register takes the levels of the lands, which the manual does not place in it (DESIGN CHOICE 3). -/
def execSamplePreload (s : State) : Host.Outcome State Fault Refusal :=
  let r := undefNat s
  .next (selectJtag .samplePreload r.1 r.2)

/-- EXTEST. -/
def execExtest (s : State) : Host.Outcome State Fault Refusal := .next (resetOnly .extest s)
/-- EXTEST_PULSE. -/
def execExtestPulse (s : State) : Host.Outcome State Fault Refusal := .next (resetOnly .extestPulse s)
/-- EXTEST_TRAIN. -/
def execExtestTrain (s : State) : Host.Outcome State Fault Refusal := .next (resetOnly .extestTrain s)
/-- CLAMP. -/
def execClamp (s : State) : Host.Outcome State Fault Refusal := .next (resetOnly .clamp s)
/-- HIGHZ. -/
def execHighz (s : State) : Host.Outcome State Fault Refusal := .next (resetOnly .highz s)

/-! ## Boot flash (R26) -/

/-- BOOT_FLASH_REFRESH: a region (0 LOADER, 1 IMAGE, 2 EARLY_RING, 3 LEDGER) whose last write is 1,826 days old, by operating hours
(DESIGN CHOICE 135), is rewritten in place, unchanged. -/
def execBootFlashRefresh (region : Nat) (s : State) : Host.Outcome State Fault Refusal :=
  .next (if s.flash.lastWrite.getD region 0 + 1826 * 24 * 4096 ≤ opTime s then
      flashWritten region { s with flash := { s.flash with refreshes := modifyNth bump region s.flash.refreshes } }
    else s)

end Sys2Proof.Machine
end

