-- ==== Sys2Proof/Machine/Patrol.lean ====
section
/-! DEFINITION. Patrol scrub of near store and far store (R415, R420, Tables 17-1 and 17-4), and the refill of Winnow table 0 (R148). -/

namespace Sys2Proof.Machine

/-! ## Near store (R415, Table 17-1) -/

/-- The region of Table 17-2 in which a near-store address lies. -/
def nearRegion (a : Nat) (s : State) : Nat := (firstIndex 5 (fun n => decide (a < regionBase (n + 1) s))).getD 4

/-- The tickets that are running or queued. -/
def allTickets (s : State) : List Ticket :=
  s.tines.running.map (·.ticket) ++ (List.range 32).flatMap (fun h => (harrowAt h s).queues.flatten)

/-- The pool, index and bytes of the work arena's buffer at an address: whether a handle names it. -/
def handleCovers (a : Nat) (s : State) (h : Nat) : Bool :=
  match handleAddr h s with
  | some b => decide (b ≤ a) && decide (a < b + handleSize h)
  | none => false

/-- An uncorrectable error in the working pools: the Steward images and handover blocks mend themselves; the ticket of a spill entry, or
the tickets that hold the buffer, end. -/
def poolError (e : NearError) (s : State) : State :=
  let off := e.addr - regionBase 4 s
  if off < 268435456 then s
  else if off < 402653184 then (((allTickets s).filter (fun t => t.spilled && t.ref == e.ticket))).foldl (fun st t => stopTicket t st) s
  else ((allTickets s).filter (fun t => t.handles.any (handleCovers e.addr s))).foldl (fun st t => stopTicket t st) s

/-- The stack of a near-store address: A[12:11] (R414). -/
def stackOf (a : Nat) : Nat := a / 2048 % 4

/-- A queue pair whose context is lost enters ERROR, and its service is told (R421, Table 14-6). -/
def loseContext (q : Nat) (s : State) : State := if qpConnected q s then takeDone (qpFail q s) (.lost q) else s

/-- The read-cache entries of a directory entry are gone: which they are is the head's own layout (Table 17-4). -/
def dropDirectory (slot : Nat) (s : State) : State :=
  { s with read := { s.read with cache := s.read.cache.filter (fun c => Config.directorySlot c.chunk c.gen % 8388608 != slot) } }

/-- A lost line of a region that is not rebuilt: the context it holds goes with its queue pair, directory entries go with their frames
(R429, Table 17-4). -/
def loseLine (line : Nat) (s : State) : State :=
  let s1 := modifyMem (fun m => { m with invalidLines := m.invalidLines.filter (fun l => l != line) }) s
  if 128 * line < 536870912 then loseContext (128 * line / 512) s1
  else (List.range 4).foldl (fun st i => dropDirectory ((128 * line - 536870912) / 32 + i) st) s1

/-- Every lost line of a region that is not rebuilt is given up. -/
def loseLines (s : State) : State := (s.mem.invalidLines.filter (fun l => decide (128 * l < 805306368))).foldl (fun st l => loseLine l st) s

/-- An uncorrectable error by the region it lies in (Table 17-1). -/
def nearFault (e : NearError) (s : State) : State :=
  match nearRegion e.addr s with
  | 0 => enterYield 4 s
  | 1 => enterYield 4 s
  | 2 => { s with read := { s.read with cache := s.read.cache.filter (fun c => !(c.chunk == e.chunk && c.gen == e.gen)) } }
  | 3 =>
    match victimHit e.line s with
    | none => s
    | some l => let s1 := dropVictim e.line s; if l.dirty then loseLines (dirtyLost e.line s1) else s1
  | _ => poolError e s

/-- One error of a near-store scrub: a corrected one is written back corrected and counted; an uncorrectable one is counted and handled. -/
def nearScrubError (s : State) (e : NearError) : State :=
  if nearBytes s ≤ e.addr then s
  else if e.corrected then modifyMem (fun m => { m with nsCe := modifyNth bump (stackOf e.addr) m.nsCe }) s
  else nearFault e (modifyMem (fun m => { m with nsUe := modifyNth bump (stackOf e.addr) m.nsUe }) s)

/-- NS_SCRUB_TIMER: a pass over near store with the errors it meets. -/
def execNsScrubTimer (errors : List NearError) (s : State) : Host.Outcome State Fault Refusal := .next (errors.foldl nearScrubError s)

/-! ## Far store (R420, Table 17-4) -/

/-- A far-store line is invalidated wherever it is cached; a locked way keeps a hole (R433). -/
def forgetLine (line : Nat) (s : State) : State :=
  let s1 := match cacheHit line s with
    | some l => invalidateLine l s
    | none => s
  dropVictim line (dropSide line s1)

/-- The channel of a far-store address: A[14:12] (R419). -/
def channelOf (a : Nat) : Nat := a / 4096 % 8

/-- An uncorrectable error by the region it lies in: the queue pair whose context is lost enters ERROR; directory entries are dropped and
their frames freed; any other range is rebuilt before an access uses it (Table 17-4, R429). -/
def farFault (e : FarError) (s : State) : State :=
  if e.addr < 536870912 then loseContext (e.addr / 512) (forgetLine (lineOf e.addr) s)
  else if e.addr < 805306368 then
    (List.range 4).foldl (fun st i => dropDirectory ((128 * lineOf e.addr - 536870912) / 32 + i) st) (forgetLine (lineOf e.addr) s)
  else modifyMem (fun m => { m with invalidLines := lineOf e.addr :: m.invalidLines }) (forgetLine (lineOf e.addr) s)

/-- A metadata access (R425). A dirty line that it loses is rebuilt, or given up with what its region holds (R429). -/
def execMcAccess (addr : Nat) (bytes : Bytes) (err : Nat) (s : State) : Host.Outcome State Fault Refusal :=
  .next (loseLines (mcAccess addr bytes err s))

/-- MC_FORCE_DISABLE (Table 17-9). -/
def execMcForceDisable (p : McPacket) (s : State) : Host.Outcome State Fault Refusal :=
  .next (loseLines (mciRun 0x0F10 p mcForceDisable s))

/-- MC_RANGE_OP with op 0x03 (R432). -/
def execPurge (p : McPacket) (s : State) : Host.Outcome State Fault Refusal := .next (loseLines (mciRun 0x0414 p (mcRangeOp p) s))

/-- One error of a far-store scrub. -/
def farScrubError (s : State) (e : FarError) : State :=
  if s.mem.farBytes ≤ e.addr then s
  else if e.corrected then modifyMem (fun m => { m with fsCe := modifyNth bump (channelOf e.addr) m.fsCe }) s
  else farFault e (modifyMem (fun m => { m with fsUe := modifyNth bump (channelOf e.addr) m.fsUe }) s)

/-- FS_SCRUB_TIMER: a pass over far store with the errors it meets. -/
def execFsScrubTimer (errors : List FarError) (s : State) : Host.Outcome State Fault Refusal := .next (errors.foldl farScrubError s)

/-! ## Winnow table 0 (R148) -/

/-- Entries a table has room for. -/
def winnowRoom (t : Nat) (s : State) : Nat := 8192 * wtUnits (wtDesc t s)

/-- Index entries with the newest page first, and in a page the newest entry. -/
def newestFirst (s : State) : List IndexEntry :=
  let pages := (s.map.index.map (·.page)).eraseDups
  (sortByKey (fun (p : Nat) => [-(p : Int)]) pages).flatMap (fun p => (s.map.index.filter (fun e => e.page == p)).reverse)

/-- Inserts hot tags until the percentage of valid entries is reached. -/
def refill (fill : Nat) : List IndexEntry → State → State
  | [], s => s
  | e :: rest, s =>
    if fill * winnowRoom 0 s ≤ 100 * validEntries 0 s then s
    else refill fill rest (winnowInsert 0 (hotKey e.domain e.fp) e.page s)

/-- WINNOW_REBUILD: after INVENTORY, P3 HOUSEKEEP tickets refill table 0 from the index pages up to WINNOW_REBUILD_FILL; 0 disables it. -/
def execWinnowRebuild (s : State) : Host.Outcome State Fault Refusal :=
  .next (match s.boot.mode with
    | .boot | .recovery | .inventory => s
    | _ => refill (paramNat 0x0600 0 s) (newestFirst s) s)

end Sys2Proof.Machine
end

