-- ==== Sys2Proof/Machine/Dispatch.lean ====
section
/-! DEFINITION. The dispatch: one arm per command, each one call of its meaning. -/

namespace Sys2Proof.Machine

/-- The effect of a command on everything but the queue. -/
def exec (i : Instr) (s : State) : Host.Outcome State Fault Refusal :=
  match i with
  | .powerOnReset held strap => Sys2Proof.Machine.execPowerOnReset held strap s
  | .pinReset held strap => Sys2Proof.Machine.execPinReset held strap s
  | .selfReset => Sys2Proof.Machine.execSelfReset s
  | .perstN low => Sys2Proof.Machine.execPerstN low s
  | .bootStepDone report => Sys2Proof.Machine.execBootStepDone report s
  | .bootWatchdog => Sys2Proof.Machine.execBootWatchdog s
  | .pwrfailAccept => Sys2Proof.Machine.execPwrfailAccept s
  | .pwrfailNRise => Sys2Proof.Machine.execPwrfailNRise s
  | .pwrfailHighTimer => Sys2Proof.Machine.execPwrfailHighTimer s
  | .dumpEndCommitted => Sys2Proof.Machine.execDumpEndCommitted s
  | .paceWindow counts => Sys2Proof.Machine.execPaceWindow counts s
  | .timeMarkTimer => Sys2Proof.Machine.execTimeMarkTimer s
  | .ticketDispatch tine run => Sys2Proof.Machine.execTicketDispatch tine run s
  | .glean tine run => Sys2Proof.Machine.execGlean tine run s
  | .ticketWatchdog tine => Sys2Proof.Machine.execTicketWatchdog tine s
  | .epochCommit epoch work => Sys2Proof.Machine.execEpochCommit epoch work s
  | .epochSquash epoch => Sys2Proof.Machine.execEpochSquash epoch s
  | .runAheadWindow => Sys2Proof.Machine.execRunAheadWindow s
  | .harrowDrained h => Sys2Proof.Machine.execHarrowDrained h s
  | .parkDrainTimeout h => Sys2Proof.Machine.execParkDrainTimeout h s
  | .parkRetryTimer h => Sys2Proof.Machine.execParkRetryTimer h s
  | .harrowWakeDone h => Sys2Proof.Machine.execHarrowWakeDone h s
  | .grainComposition ns grain harrow facts => Sys2Proof.Machine.execGrainComposition ns grain harrow facts s
  | .chunkCut object harrow => Sys2Proof.Machine.execChunkCut object harrow s
  | .fingerprint work => Sys2Proof.Machine.execFingerprint work s
  | .dedupLookup work falsePositive facts => Sys2Proof.Machine.execDedupLookup work falsePositive facts s
  | .baleSealTimeout acre bale => Sys2Proof.Machine.execBaleSealTimeout acre bale s
  | .baleCommit acre bale => Sys2Proof.Machine.execBaleCommit acre bale s
  | .journalPersistTimeout => Sys2Proof.Machine.execJournalPersistTimeout s
  | .metadataRowCommit row => Sys2Proof.Machine.execMetadataRowCommit row s
  | .checkpointTimer => Sys2Proof.Machine.execCheckpointTimer s
  | .admissionResume => Sys2Proof.Machine.execAdmissionResume s
  | .readTimeoutExpiry quadrant entry facts => Sys2Proof.Machine.execReadTimeoutExpiry quadrant entry facts s
  | .search table mask key nocount badParity => Sys2Proof.Machine.execSearch table mask key nocount badParity s
  | .insert table key data ticket => Sys2Proof.Machine.execInsert table key data ticket s
  | .winnowDelete table mask key ticket => Sys2Proof.Machine.execWinnowDelete table mask key ticket s
  | .age bank => Sys2Proof.Machine.execAge bank s
  | .clear bank => Sys2Proof.Machine.execClear bank s
  | .winnowAgeTimer => Sys2Proof.Machine.execWinnowAgeTimer s
  | .winnowRebuild => Sys2Proof.Machine.execWinnowRebuild s
  | .winnowTableGet p => Sys2Proof.Machine.execWinnowTableGet p s
  | .winnowTableSet p => Sys2Proof.Machine.execWinnowTableSet p s
  | .winnowMaskSet p => Sys2Proof.Machine.execWinnowMaskSet p s
  | .winnowSearch p => Sys2Proof.Machine.execWinnowSearch p s
  | .winnowRead p => Sys2Proof.Machine.execWinnowRead p s
  | .winnowClear p => Sys2Proof.Machine.execWinnowClear p s
  | .winnowStats p => Sys2Proof.Machine.execWinnowStats p s
  | .voxcaCompress harrow engine work fault => Sys2Proof.Machine.execVoxcaCompress harrow engine work fault s
  | .voxcaVerify work => Sys2Proof.Machine.execVoxcaVerify work s
  | .voxcaDecompress harrow engine stream stop fault => Sys2Proof.Machine.execVoxcaDecompress harrow engine stream stop fault s
  | .gcmEncrypt tine unit epoch req => Sys2Proof.Machine.execGcmEncrypt tine unit epoch req s
  | .gcmDecrypt tine unit epoch req => Sys2Proof.Machine.execGcmDecrypt tine unit epoch req s
  | .hmac tine unit epoch req => Sys2Proof.Machine.execHmac tine unit epoch req s
  | .cipherCompletion job agree => Sys2Proof.Machine.execCipherCompletion job agree s
  | .slotLoadDone slot => Sys2Proof.Machine.execSlotLoadDone slot s
  | .slotEvictDone slot => Sys2Proof.Machine.execSlotEvictDone slot s
  | .vaultAlarmSupply => Sys2Proof.Machine.execVaultAlarmSupply s
  | .vaultAlarmTemp => Sys2Proof.Machine.execVaultAlarmTemp s
  | .vaultAlarmMesh => Sys2Proof.Machine.execVaultAlarmMesh s
  | .vaultAlarmTamper => Sys2Proof.Machine.execVaultAlarmTamper s
  | .vaultAlarmCheck => Sys2Proof.Machine.execVaultAlarmCheck s
  | .vauxLoss => Sys2Proof.Machine.execVauxLoss s
  | .keyStatus p => Sys2Proof.Machine.execKeyStatus p s
  | .keyLoadGauntlet p alarmWins => Sys2Proof.Machine.execKeyLoadGauntlet p alarmWins s
  | .keyClearGauntlet p => Sys2Proof.Machine.execKeyClearGauntlet p s
  | .keyAlarmClear p => Sys2Proof.Machine.execKeyAlarmClear p s
  | .keyDomainBind p => Sys2Proof.Machine.execKeyDomainBind p s
  | .keyRewrap p => Sys2Proof.Machine.execKeyRewrap p s
  | .keyEpochAdvance p => Sys2Proof.Machine.execKeyEpochAdvance p s
  | .keyEpochDestroy p => Sys2Proof.Machine.execKeyEpochDestroy p s
  | .keyEpochStats p => Sys2Proof.Machine.execKeyEpochStats p s
  | .keySlotInfo p => Sys2Proof.Machine.execKeySlotInfo p s
  | .keyHmac p => Sys2Proof.Machine.execKeyHmac p s
  | .cipherStats p => Sys2Proof.Machine.execCipherStats p s
  | .keyLoadAckTimeout domain epoch => Sys2Proof.Machine.execKeyLoadAckTimeout domain epoch s
  | .reclaimVictim facts => Sys2Proof.Machine.execReclaimVictim facts s
  | .scrubTimer facts => Sys2Proof.Machine.execScrubTimer facts s
  | .bridgeLostTimer bridge => Sys2Proof.Machine.execBridgeLostTimer bridge s
  | .readonlyExit => Sys2Proof.Machine.execReadonlyExit s
  | .tempHistHour => Sys2Proof.Machine.execTempHistHour s
  | .mediaGeometryGet p => Sys2Proof.Machine.execMediaGeometryGet p s
  | .mediaGeometrySet p => Sys2Proof.Machine.execMediaGeometrySet p s
  | .mediaHealthArray p => Sys2Proof.Machine.execMediaHealthArray p s
  | .mediaHealthBridge p => Sys2Proof.Machine.execMediaHealthBridge p s
  | .mediaHealthDie p => Sys2Proof.Machine.execMediaHealthDie p s
  | .reclaimStatus p => Sys2Proof.Machine.execReclaimStatus p s
  | .scrubStart p facts => Sys2Proof.Machine.execScrubStart p facts s
  | .bridgeSet p => Sys2Proof.Machine.execBridgeSet p s
  | .dieRetire p => Sys2Proof.Machine.execDieRetire p s
  | .bridgeRetire p => Sys2Proof.Machine.execBridgeRetire p s
  | .furrowTrainTimeout bridge => Sys2Proof.Machine.execFurrowTrainTimeout bridge s
  | .furrowTrainingDone bridge preset version credits => Sys2Proof.Machine.execFurrowTrainingDone bridge preset version credits s
  | .furrowRetrainRetry bridge => Sys2Proof.Machine.execFurrowRetrainRetry bridge s
  | .furrowLinkFrame bridge nak ack credit => Sys2Proof.Machine.execFurrowLinkFrame bridge nak ack credit s
  | .furrowReplayTimeout bridge => Sys2Proof.Machine.execFurrowReplayTimeout bridge s
  | .bridgeIdentify bridge port tag load => Sys2Proof.Machine.execBridgeIdentify bridge port tag load s
  | .dieRead bridge port tag load addr count retryMax soft reports fault => Sys2Proof.Machine.execDieRead bridge port tag load addr count retryMax soft reports fault s
  | .dieProgram bridge port tag load now addr data done fault => Sys2Proof.Machine.execDieProgram bridge port tag load now addr data done fault s
  | .dieErase bridge port tag load now addr us ok fault => Sys2Proof.Machine.execDieErase bridge port tag load now addr us ok fault s
  | .status bridge port tag now dieBusy temp cmds0 cmds1 => Sys2Proof.Machine.execStatus bridge port tag now dieBusy temp cmds0 cmds1 s
  | .telemetry bridge port tag load page start dies => Sys2Proof.Machine.execTelemetry bridge port tag load page start dies s
  | .leaseAcquire bridge port tag load leaseMs now => Sys2Proof.Machine.execLeaseAcquire bridge port tag load leaseMs now s
  | .leaseRenew bridge port tag load leaseMs now => Sys2Proof.Machine.execLeaseRenew bridge port tag load leaseMs now s
  | .leaseRelease bridge port tag load now => Sys2Proof.Machine.execLeaseRelease bridge port tag load now s
  | .fence bridge port tag load dieMask bothPorts => Sys2Proof.Machine.execFence bridge port tag load dieMask bothPorts s
  | .leaseExpiry bridge now => Sys2Proof.Machine.execLeaseExpiry bridge now s
  | .furrowResponse bridge frames => Sys2Proof.Machine.execFurrowResponse bridge frames s
  | .furrowResponseTimeout bridge tag => Sys2Proof.Machine.execFurrowResponseTimeout bridge tag s
  | .leaseRenewTimer => Sys2Proof.Machine.execLeaseRenewTimer s
  | .leaseWindowEnd bridge => Sys2Proof.Machine.execLeaseWindowEnd bridge s
  | .leaseAcquireRetry bridge => Sys2Proof.Machine.execLeaseAcquireRetry bridge s
  | .furrowStatus p => Sys2Proof.Machine.execFurrowStatus p s
  | .snapCreate p => Sys2Proof.Machine.execSnapCreate p s
  | .snapBarrierDrained job => Sys2Proof.Machine.execSnapBarrierDrained job s
  | .snapDelete p => Sys2Proof.Machine.execSnapDelete p s
  | .snapDeletePage ns snapshot page => Sys2Proof.Machine.execSnapDeletePage ns snapshot page s
  | .snapList p => Sys2Proof.Machine.execSnapList p s
  | .snapExpose p => Sys2Proof.Machine.execSnapExpose p s
  | .snapWithdraw p => Sys2Proof.Machine.execSnapWithdraw p s
  | .replPair p => Sys2Proof.Machine.execReplPair p s
  | .replAccept p => Sys2Proof.Machine.execReplAccept p s
  | .replStart p => Sys2Proof.Machine.execReplStart p s
  | .replStatus p => Sys2Proof.Machine.execReplStatus p s
  | .replStop p => Sys2Proof.Machine.execReplStop p s
  | .replUnpair p => Sys2Proof.Machine.execReplUnpair p s
  | .hello qp frame => Sys2Proof.Machine.execHello qp frame s
  | .helloReply qp frame => Sys2Proof.Machine.execHelloReply qp frame s
  | .confirm qp frame => Sys2Proof.Machine.execConfirm qp frame s
  | .diffBegin qp frame => Sys2Proof.Machine.execDiffBegin qp frame s
  | .diffReady qp frame => Sys2Proof.Machine.execDiffReady qp frame s
  | .fpList qp frame => Sys2Proof.Machine.execFpList qp frame s
  | .fpWant qp frame facts => Sys2Proof.Machine.execFpWant qp frame facts s
  | .chunkData qp frame => Sys2Proof.Machine.execChunkData qp frame s
  | .batchEnd qp frame => Sys2Proof.Machine.execBatchEnd qp frame s
  | .batchDone qp frame facts => Sys2Proof.Machine.execBatchDone qp frame facts s
  | .objectBegin qp frame => Sys2Proof.Machine.execObjectBegin qp frame s
  | .diffEnd qp frame => Sys2Proof.Machine.execDiffEnd qp frame s
  | .diffDone qp frame => Sys2Proof.Machine.execDiffDone qp frame s
  | .keepalive qp frame => Sys2Proof.Machine.execKeepalive qp frame s
  | .replAbort qp frame => Sys2Proof.Machine.execReplAbort qp frame s
  | .replKeepaliveTimer qp => Sys2Proof.Machine.execReplKeepaliveTimer qp s
  | .replIdleTimeout qp => Sys2Proof.Machine.execReplIdleTimeout qp s
  | .migrateExport p => Sys2Proof.Machine.execMigrateExport p s
  | .migrateStatus p => Sys2Proof.Machine.execMigrateStatus p s
  | .migrateStop p => Sys2Proof.Machine.execMigrateStop p s
  | .exportStallTimeout number => Sys2Proof.Machine.execExportStallTimeout number s
  | .headlandTrainTimeout sub miswired => Sys2Proof.Machine.execHeadlandTrainTimeout sub miswired s
  | .headlandRetrainRetry sub => Sys2Proof.Machine.execHeadlandRetrainRetry sub s
  | .headlandLinkFrame sub nak ack credit => Sys2Proof.Machine.execHeadlandLinkFrame sub nak ack credit s
  | .headlandReplayTimeout sub => Sys2Proof.Machine.execHeadlandReplayTimeout sub s
  | .heartbeatTimer => Sys2Proof.Machine.execHeartbeatTimer s
  | .heartbeat sub frames => Sys2Proof.Machine.execHeartbeat sub frames s
  | .heartbeatLoss => Sys2Proof.Machine.execHeartbeatLoss s
  | .inventory sub frames => Sys2Proof.Machine.execInventory sub frames s
  | .activeReady sub frames => Sys2Proof.Machine.execActiveReady sub frames s
  | .mirror sub frames => Sys2Proof.Machine.execMirror sub frames s
  | .mirrorAck sub frames => Sys2Proof.Machine.execMirrorAck sub frames s
  | .mirrorTimeout mseq => Sys2Proof.Machine.execMirrorTimeout mseq s
  | .mirrorGiveup mseq => Sys2Proof.Machine.execMirrorGiveup mseq s
  | .txDisableEnd => Sys2Proof.Machine.execTxDisableEnd s
  | .headlandDegradeClear => Sys2Proof.Machine.execHeadlandDegradeClear s
  | .release sub frames => Sys2Proof.Machine.execRelease sub frames s
  | .resyncBegin sub frames => Sys2Proof.Machine.execResyncBegin sub frames s
  | .resyncEnd sub frames => Sys2Proof.Machine.execResyncEnd sub frames s
  | .forward sub frames => Sys2Proof.Machine.execForward sub frames s
  | .forwardDone sub frames bad => Sys2Proof.Machine.execForwardDone sub frames bad s
  | .keyLoad sub frames => Sys2Proof.Machine.execKeyLoad sub frames s
  | .keyLoadAck sub frames => Sys2Proof.Machine.execKeyLoadAck sub frames s
  | .idBlockReq sub frames => Sys2Proof.Machine.execIdBlockReq sub frames s
  | .idBlockGrant sub frames => Sys2Proof.Machine.execIdBlockGrant sub frames s
  | .eraseReq sub frames => Sys2Proof.Machine.execEraseReq sub frames s
  | .eraseDone sub frames => Sys2Proof.Machine.execEraseDone sub frames s
  | .drainReq sub frames => Sys2Proof.Machine.execDrainReq sub frames s
  | .drainReply sub frames => Sys2Proof.Machine.execDrainReply sub frames s
  | .yieldNotice sub frames => Sys2Proof.Machine.execYieldNotice sub frames s
  | .yieldInNAsserted low => Sys2Proof.Machine.execYieldInNAsserted low s
  | .yieldLeasesReleased => Sys2Proof.Machine.execYieldLeasesReleased s
  | .takeoverAdopt tail => Sys2Proof.Machine.execTakeoverAdopt tail s
  | .handoff sub frames => Sys2Proof.Machine.execHandoff sub frames s
  | .returnReq sub frames => Sys2Proof.Machine.execReturnReq sub frames s
  | .returnGrant sub frames => Sys2Proof.Machine.execReturnGrant sub frames s
  | .imageReq sub frames => Sys2Proof.Machine.execImageReq sub frames s
  | .imageData sub frames => Sys2Proof.Machine.execImageData sub frames s
  | .supervisorDeadline missed => Sys2Proof.Machine.execSupervisorDeadline missed s
  | .eccWindow near far => Sys2Proof.Machine.execEccWindow near far s
  | .headlandWaitExpiry => Sys2Proof.Machine.execHeadlandWaitExpiry s
  | .holdDownExpiry => Sys2Proof.Machine.execHoldDownExpiry s
  | .headlandStatus p => Sys2Proof.Machine.execHeadlandStatus p s
  | .returnControlAutoOn p => Sys2Proof.Machine.execReturnControlAutoOn p s
  | .returnControlAutoOff p => Sys2Proof.Machine.execReturnControlAutoOff p s
  | .returnControlEndHold p => Sys2Proof.Machine.execReturnControlEndHold p s
  | .returnControlYield p => Sys2Proof.Machine.execReturnControlYield p s
  | .subPortUp lport => Sys2Proof.Machine.execSubPortUp lport s
  | .subPortDown lport => Sys2Proof.Machine.execSubPortDown lport s
  | .portLinkDown lport => Sys2Proof.Machine.execPortLinkDown lport s
  | .arpRequest head sender target => Sys2Proof.Machine.execArpRequest head sender target s
  | .neighbourSolicitation head sender target => Sys2Proof.Machine.execNeighbourSolicitation head sender target s
  | .icmpEchoRequest head sender target payload => Sys2Proof.Machine.execIcmpEchoRequest head sender target payload s
  | .pfcFrame lport priority quanta => Sys2Proof.Machine.execPfcFrame lport priority quanta s
  | .pfcPauseEnd lport priority => Sys2Proof.Machine.execPfcPauseEnd lport priority s
  | .pfcRefresh lport priority occupancy => Sys2Proof.Machine.execPfcRefresh lport priority occupancy s
  | .pfcStormTimer lport priority sent => Sys2Proof.Machine.execPfcStormTimer lport priority sent s
  | .fecWindow lport corrected uncorrectable => Sys2Proof.Machine.execFecWindow lport corrected uncorrectable s
  | .ctxPressureWindow quadrant => Sys2Proof.Machine.execCtxPressureWindow quadrant s
  | .send head pos payload => Sys2Proof.Machine.execSend head pos payload s
  | .sendWithInvalidate head pos key payload => Sys2Proof.Machine.execSendWithInvalidate head pos key payload s
  | .rdmaWrite head pos header payload => Sys2Proof.Machine.execRdmaWrite head pos header payload s
  | .rdmaReadRequest head => Sys2Proof.Machine.execRdmaReadRequest head s
  | .rdmaReadResponse head pos payload => Sys2Proof.Machine.execRdmaReadResponse head pos payload s
  | .acknowledge head kind => Sys2Proof.Machine.execAcknowledge head kind s
  | .cnp head => Sys2Proof.Machine.execCnp head s
  | .rocePacketOther head opcode => Sys2Proof.Machine.execRocePacketOther head opcode s
  | .retransmitTimer qp => Sys2Proof.Machine.execRetransmitTimer qp s
  | .rnrDelayEnd qp => Sys2Proof.Machine.execRnrDelayEnd qp s
  | .ackCoalesceTimer qp => Sys2Proof.Machine.execAckCoalesceTimer qp s
  | .contextFetchDone qp => Sys2Proof.Machine.execContextFetchDone qp s
  | .stubFetchDone quadrant => Sys2Proof.Machine.execStubFetchDone quadrant s
  | .req request => Sys2Proof.Machine.execReq request s
  | .mra commId timeout => Sys2Proof.Machine.execMra commId timeout s
  | .rej commId reason => Sys2Proof.Machine.execRej commId reason s
  | .rep reply => Sys2Proof.Machine.execRep reply s
  | .rtu commId => Sys2Proof.Machine.execRtu commId s
  | .dreq commId remoteId => Sys2Proof.Machine.execDreq commId remoteId s
  | .drep commId => Sys2Proof.Machine.execDrep commId s
  | .repResendTimer qp => Sys2Proof.Machine.execRepResendTimer qp s
  | .dreqTimeout qp => Sys2Proof.Machine.execDreqTimeout qp s
  | .qpReuseDelay qp => Sys2Proof.Machine.execQpReuseDelay qp s
  | .lzMsgTimeout qp => Sys2Proof.Machine.execLzMsgTimeout qp s
  | .lzRevokeDone zone => Sys2Proof.Machine.execLzRevokeDone zone s
  | .portStatus p => Sys2Proof.Machine.execPortStatus p s
  | .qpInfo p => Sys2Proof.Machine.execQpInfo p s
  | .connect qp capsule => Sys2Proof.Machine.execConnect qp capsule s
  | .propertyGet qp capsule => Sys2Proof.Machine.execPropertyGet qp capsule s
  | .ccEn qp capsule => Sys2Proof.Machine.execCcEn qp capsule s
  | .ccShn qp capsule => Sys2Proof.Machine.execCcShn qp capsule s
  | .disconnect qp capsule => Sys2Proof.Machine.execDisconnect qp capsule s
  | .nvmeIdentify qp capsule => Sys2Proof.Machine.execNvmeIdentify qp capsule s
  | .getLogPage qp capsule => Sys2Proof.Machine.execGetLogPage qp capsule s
  | .namespaceCreate qp capsule => Sys2Proof.Machine.execNamespaceCreate qp capsule s
  | .namespaceDelete qp capsule => Sys2Proof.Machine.execNamespaceDelete qp capsule s
  | .namespaceAttach qp capsule => Sys2Proof.Machine.execNamespaceAttach qp capsule s
  | .namespaceDetach qp capsule => Sys2Proof.Machine.execNamespaceDetach qp capsule s
  | .abort qp capsule => Sys2Proof.Machine.execAbort qp capsule s
  | .setFeaturesPowerManagement qp capsule => Sys2Proof.Machine.execSetFeaturesPowerManagement qp capsule s
  | .setFeaturesNumberOfQueues qp capsule => Sys2Proof.Machine.execSetFeaturesNumberOfQueues qp capsule s
  | .setFeaturesAsyncEventConfig qp capsule => Sys2Proof.Machine.execSetFeaturesAsyncEventConfig qp capsule s
  | .setFeaturesApst qp capsule => Sys2Proof.Machine.execSetFeaturesApst qp capsule s
  | .setFeaturesKeepAliveTimer qp capsule => Sys2Proof.Machine.execSetFeaturesKeepAliveTimer qp capsule s
  | .getFeatures qp capsule => Sys2Proof.Machine.execGetFeatures qp capsule s
  | .asynchronousEventRequest qp capsule => Sys2Proof.Machine.execAsynchronousEventRequest qp capsule s
  | .keepAlive qp capsule => Sys2Proof.Machine.execKeepAlive qp capsule s
  | .katoExpiry controller => Sys2Proof.Machine.execKatoExpiry controller s
  | .apstIdleTimer controller entry => Sys2Proof.Machine.execApstIdleTimer controller entry s
  | .read qp capsule facts => Sys2Proof.Machine.execRead qp capsule facts s
  | .write qp capsule => Sys2Proof.Machine.execWrite qp capsule s
  | .flush qp capsule => Sys2Proof.Machine.execFlush qp capsule s
  | .writeZeroes qp capsule => Sys2Proof.Machine.execWriteZeroes qp capsule s
  | .datasetManagement qp capsule => Sys2Proof.Machine.execDatasetManagement qp capsule s
  | .compare qp capsule facts => Sys2Proof.Machine.execCompare qp capsule facts s
  | .version qp request => Sys2Proof.Machine.execVersion qp request s
  | .putBegin qp request => Sys2Proof.Machine.execPutBegin qp request s
  | .putData qp request => Sys2Proof.Machine.execPutData qp request s
  | .putCommit qp request => Sys2Proof.Machine.execPutCommit qp request s
  | .putAbort qp request => Sys2Proof.Machine.execPutAbort qp request s
  | .get qp request facts => Sys2Proof.Machine.execGet qp request facts s
  | .stat qp request => Sys2Proof.Machine.execStat qp request s
  | .delete qp request => Sys2Proof.Machine.execDelete qp request s
  | .list qp request => Sys2Proof.Machine.execList qp request s
  | .hold qp request => Sys2Proof.Machine.execHold qp request s
  | .releaseHold qp request => Sys2Proof.Machine.execReleaseHold qp request s
  | .sheafPutTimeout qp put => Sys2Proof.Machine.execSheafPutTimeout qp put s
  | .nsScrubTimer errors => Sys2Proof.Machine.execNsScrubTimer errors s
  | .fsScrubTimer errors => Sys2Proof.Machine.execFsScrubTimer errors s
  | .mcAccess addr bytes err => Sys2Proof.Machine.execMcAccess addr bytes err s
  | .mcPrefetch addr => Sys2Proof.Machine.execMcPrefetch addr s
  | .memStatus p => Sys2Proof.Machine.execMemStatus p s
  | .mcEnable p => Sys2Proof.Machine.execMcEnable p s
  | .mcDisable p => Sys2Proof.Machine.execMcDisable p s
  | .mcDisableDone => Sys2Proof.Machine.execMcDisableDone s
  | .mcForceDisable p => Sys2Proof.Machine.execMcForceDisable p s
  | .mcPreload p => Sys2Proof.Machine.execMcPreload p s
  | .mcUnlock p => Sys2Proof.Machine.execMcUnlock p s
  | .clean p => Sys2Proof.Machine.execClean p s
  | .cleanInvalidate p => Sys2Proof.Machine.execCleanInvalidate p s
  | .purge p => Sys2Proof.Machine.execPurge p s
  | .mcWayPowerDown p => Sys2Proof.Machine.execMcWayPowerDown p s
  | .mcWayDownDone way => Sys2Proof.Machine.execMcWayDownDone way s
  | .mcWayPowerUp p => Sys2Proof.Machine.execMcWayPowerUp p s
  | .mcTagRead p => Sys2Proof.Machine.execMcTagRead p s
  | .locationPagedDaily => Sys2Proof.Machine.execLocationPagedDaily s
  | .alloc unit epoch arena len badLink => Sys2Proof.Machine.execAlloc unit epoch arena len badLink s
  | .share unit handle receiver ticket => Sys2Proof.Machine.execShare unit handle receiver ticket s
  | .granaryRelease unit handle ticket => Sys2Proof.Machine.execGranaryRelease unit handle ticket s
  | .allocWaitLong arena pool => Sys2Proof.Machine.execAllocWaitLong arena pool s
  | .granaryStatus p => Sys2Proof.Machine.execGranaryStatus p s
  | .granaryHeaderRead p => Sys2Proof.Machine.execGranaryHeaderRead p s
  | .copy channel ctx => Sys2Proof.Machine.execCopy channel ctx s
  | .fill channel ctx => Sys2Proof.Machine.execFill channel ctx s
  | .dmaCompare channel ctx => Sys2Proof.Machine.execDmaCompare channel ctx s
  | .dmaDoorbell channel tail fetched => Sys2Proof.Machine.execDmaDoorbell channel tail fetched s
  | .dmaEnable channel fetched => Sys2Proof.Machine.execDmaEnable channel fetched s
  | .dmaDisable channel => Sys2Proof.Machine.execDmaDisable channel s
  | .dmaChannelIdle channel => Sys2Proof.Machine.execDmaChannelIdle channel s
  | .dmaResume channel fetched => Sys2Proof.Machine.execDmaResume channel fetched s
  | .dmaStatus p => Sys2Proof.Machine.execDmaStatus p s
  | .dmaBufferAlloc p => Sys2Proof.Machine.execDmaBufferAlloc p s
  | .dmaBufferFree p => Sys2Proof.Machine.execDmaBufferFree p s
  | .registerWrite offset width value => Sys2Proof.Machine.execRegisterWrite offset width value s
  | .mciDoorbell ring tail slots => Sys2Proof.Machine.execMciDoorbell ring tail slots s
  | .replyHeadWrite head => Sys2Proof.Machine.execReplyHeadWrite head s
  | .ringEnable ring => Sys2Proof.Machine.execRingEnable ring s
  | .ringDisable ring => Sys2Proof.Machine.execRingDisable ring s
  | .nop p => Sys2Proof.Machine.execNop p s
  | .identify p => Sys2Proof.Machine.execIdentify p s
  | .watch p => Sys2Proof.Machine.execWatch p s
  | .watchTimeout ring => Sys2Proof.Machine.execWatchTimeout ring s
  | .setModeBoot p => Sys2Proof.Machine.execSetModeBoot p s
  | .setModeDump p => Sys2Proof.Machine.execSetModeDump p s
  | .setModeService p => Sys2Proof.Machine.execSetModeService p s
  | .quiesce p => Sys2Proof.Machine.execQuiesce p s
  | .quiesceComplete function => Sys2Proof.Machine.execQuiesceComplete function s
  | .resume p fetches => Sys2Proof.Machine.execResume p fetches s
  | .authChallenge p => Sys2Proof.Machine.execAuthChallenge p s
  | .authNonceExpiry ring => Sys2Proof.Machine.execAuthNonceExpiry ring s
  | .timeSet p => Sys2Proof.Machine.execTimeSet p s
  | .cancel p fetches => Sys2Proof.Machine.execCancel p fetches s
  | .attnAck p => Sys2Proof.Machine.execAttnAck p s
  | .getParam p => Sys2Proof.Machine.execGetParam p s
  | .setParam p => Sys2Proof.Machine.execSetParam p s
  | .commitConfig p => Sys2Proof.Machine.execCommitConfig p s
  | .configRead p => Sys2Proof.Machine.execConfigRead p s
  | .domainCreate p => Sys2Proof.Machine.execDomainCreate p s
  | .domainDelete p => Sys2Proof.Machine.execDomainDelete p s
  | .domainGet p => Sys2Proof.Machine.execDomainGet p s
  | .scopeParamSet p => Sys2Proof.Machine.execScopeParamSet p s
  | .scopeParamGet p => Sys2Proof.Machine.execScopeParamGet p s
  | .nsCreate p => Sys2Proof.Machine.execNsCreate p s
  | .nsDelete p => Sys2Proof.Machine.execNsDelete p s
  | .nsList p => Sys2Proof.Machine.execNsList p s
  | .hostAdd p => Sys2Proof.Machine.execHostAdd p s
  | .hostRemove p => Sys2Proof.Machine.execHostRemove p s
  | .nsAttach p => Sys2Proof.Machine.execNsAttach p s
  | .nsDetach p => Sys2Proof.Machine.execNsDetach p s
  | .objdomCreate p => Sys2Proof.Machine.execObjdomCreate p s
  | .objdomDelete p => Sys2Proof.Machine.execObjdomDelete p s
  | .clientAdd p => Sys2Proof.Machine.execClientAdd p s
  | .clientRemove p => Sys2Proof.Machine.execClientRemove p s
  | .holdClear p => Sys2Proof.Machine.execHoldClear p s
  | .almanacStatus p => Sys2Proof.Machine.execAlmanacStatus p s
  | .almanacRead p => Sys2Proof.Machine.execAlmanacRead p s
  | .almanacClear p => Sys2Proof.Machine.execAlmanacClear p s
  | .fwManifestPut p => Sys2Proof.Machine.execFwManifestPut p s
  | .piecePut p => Sys2Proof.Machine.execPiecePut p s
  | .fwStatus p => Sys2Proof.Machine.execFwStatus p s
  | .fwActivate p bad => Sys2Proof.Machine.execFwActivate p bad s
  | .fwDiscard p => Sys2Proof.Machine.execFwDiscard p s
  | .telemetryGet p => Sys2Proof.Machine.execTelemetryGet p s
  | .telemetryClear p => Sys2Proof.Machine.execTelemetryClear p s
  | .eventRead p => Sys2Proof.Machine.execEventRead p s
  | .mciStats p => Sys2Proof.Machine.execMciStats p s
  | .ticketDump p => Sys2Proof.Machine.execTicketDump p s
  | .hostWatchdog fetches => Sys2Proof.Machine.execHostWatchdog fetches s
  | .almanacFlushTimer => Sys2Proof.Machine.execAlmanacFlushTimer s
  | .almanacUnitCommit row => Sys2Proof.Machine.execAlmanacUnitCommit row s
  | .handover harrow => Sys2Proof.Machine.execHandover harrow s
  | .fwImageOverwrite => Sys2Proof.Machine.execFwImageOverwrite s
  | .thermtrip => Sys2Proof.Machine.execThermtrip s
  | .thermalWindow means energyMj => Sys2Proof.Machine.execThermalWindow means energyMj s
  | .lifeUsedHour mean => Sys2Proof.Machine.execLifeUsedHour mean s
  | .supplyExcursion supply mv ns => Sys2Proof.Machine.execSupplyExcursion supply mv ns s
  | .clockLoss fw nearStoreWins => Sys2Proof.Machine.execClockLoss fw nearStoreWins s
  | .readWord pec => Sys2Proof.Machine.execReadWord pec s
  | .smbusSelect code => Sys2Proof.Machine.execSmbusSelect code s
  | .smbusDataWrite code data => Sys2Proof.Machine.execSmbusDataWrite code data s
  | .alertResponseAddress => Sys2Proof.Machine.execAlertResponseAddress s
  | .smbusRefresh readings => Sys2Proof.Machine.execSmbusRefresh readings s
  | .bypass => Sys2Proof.Machine.execBypass s
  | .idcode => Sys2Proof.Machine.execIdcode s
  | .samplePreload => Sys2Proof.Machine.execSamplePreload s
  | .extest => Sys2Proof.Machine.execExtest s
  | .extestPulse => Sys2Proof.Machine.execExtestPulse s
  | .extestTrain => Sys2Proof.Machine.execExtestTrain s
  | .clamp => Sys2Proof.Machine.execClamp s
  | .highz => Sys2Proof.Machine.execHighz s
  | .headlandTrainingDone sub preset => Sys2Proof.Machine.execHeadlandTrainingDone sub preset s
  | .furrowBlockLockLoss bridge => Sys2Proof.Machine.execFurrowBlockLockLoss bridge s
  | .headlandBlockLockLoss sub => Sys2Proof.Machine.execHeadlandBlockLockLoss sub s
  | .furrowFrameDiscard bridge cause => Sys2Proof.Machine.execFurrowFrameDiscard bridge cause s
  | .headlandFrameDiscard sub cause => Sys2Proof.Machine.execHeadlandFrameDiscard sub cause s
  | .headlandBadMessage sub frames => Sys2Proof.Machine.execHeadlandBadMessage sub frames s
  | .vauxRise => Sys2Proof.Machine.execVauxRise s
  | .bootFlashRefresh region => Sys2Proof.Machine.execBootFlashRefresh region s
  | .pcieRetryTimer up => Sys2Proof.Machine.execPcieRetryTimer up s
  | .arpReply head address mac => Sys2Proof.Machine.execArpReply head address mac s
  | .neighbourAdvertisement head address mac => Sys2Proof.Machine.execNeighbourAdvertisement head address mac s
  | .reqTimeout qp => Sys2Proof.Machine.execReqTimeout qp s
  | .listRebuildDone arena pool => Sys2Proof.Machine.execListRebuildDone arena pool s
  | .bridgeReset bridge => Sys2Proof.Machine.execBridgeReset bridge s

end Sys2Proof.Machine
end

