-- ==== Sys2Proof/Safety.lean ====
section
/-! DEFINITION. What the claims are stated in: the fields that only a few commands change, how a command completes, and the invariants. -/

namespace Sys2Proof.Machine

/-- The fields that only a few commands change stand as they were: the queue, the vault, the SMBus target, the TAP, the time base and the
power-cycle count, RESET_N and HEAD_ID, the THERMTRIP latch and LIFE_USED. -/
def Undisturbed (s t : State) : Prop :=
  t.pending = s.pending ∧ t.vault = s.vault ∧ t.smbus = s.smbus ∧ t.jtag = s.jtag ∧ t.time.ticks = s.time.ticks ∧
    t.time.powerCycles = s.time.powerCycles ∧ t.boot.resetLow = s.boot.resetLow ∧ t.boot.headId = s.boot.headId ∧
    t.thermal.tripLatched = s.thermal.tripLatched ∧ t.thermal.lifeUsed = s.thermal.lifeUsed

/-- The command completes: `exec` answers the next state `t`, and `t` differs from `s` in none of the fields of `Undisturbed`. -/
def Completes (c : Instr) (s t : State) : Prop := exec c s = .next t ∧ Undisturbed s t

/-- A doorbell has fetched this packet for this opcode, R479 lets it start, and `u` is the state without it. -/
def Starts (opcode : Nat) (p : McPacket) (s u : State) : Prop :=
  alreadyFetched opcode p s = true ∧ mayStart p s = true ∧ u = unfetch p s

/-- The MCI command of this opcode and packet completes by being answered with this status and RESULT from this state: its reply is given, and
it is outstanding no longer (R479). -/
def Answers (c : Instr) (p : McPacket) (status : Status) (result : Bytes) (s t : State) : Prop :=
  Completes c s (complete (refOf p) status result t)

/-- The MCI command reports from this state: the records go into its data buffer, and it is answered with this RESULT, ST_OK where they all
fit and ST_OK_INFO where they do not. -/
def Reports (c : Instr) (p : McPacket) (records : List Bytes) (result : Bytes) (s t : State) : Prop :=
  Completes c s (endCommand p (answerRecords p records result t))

/-- The MCI command has its effect in this state and waits there: its reply, with this RESULT, comes with what it waits for. -/
def Waits (c : Instr) (p : McPacket) (kind : WaitKind) (result : Bytes) (s t : State) : Prop :=
  Completes c s (waitOn p kind result t).2

/-- The MCI command has its effect in this state; its reply, with this RESULT, comes at once, or with the peer's acknowledgement of message `m`. -/
def AnswersMirrored (c : Instr) (p : McPacket) (m : Option Nat) (result : Bytes) (s t : State) : Prop :=
  Completes c s (endCommand p (endMirrored p m result t))

/-- A Headland message of this type arrives whole in frames that its sub-link takes, none of them with its credit held back, and the head's
mode hears it (R311, Table 13-3): `body` is what the frames carry, and `t` the state in which it is acted on. -/
def Heard (mtype sub : Nat) (frames : List Bytes) (least : Bytes → Nat) (body : Bytes) (s t : State) : Prop :=
  headReceive (fun x => x.code == mtype) sub frames s = (some (mtype, body), t) ∧ hears mtype t = true ∧ least body ≤ body.length

/-- The same for a message whose arrival is a root ticket of the sub-link's quadrant, with room for the ticket (R113): `t` is the state with the
credits returned and the ticket queued. -/
def HeardRoot (mtype sub : Nat) (frames : List Bytes) (least : Bytes → Nat) (body : Bytes) (s t : State) : Prop :=
  ∃ u, rootAdmits (queueAt (rootHarrow (8 * (sub % 4)) s) 0 s) = true ∧
    headReceive (fun x => x.code == mtype) sub frames s = (some (mtype, body), u) ∧
    t = (arrive 0x03 0 (8 * (sub % 4)) mtype sub (subLink sub (fun e => linkReturn (withheld e) e) u)).2 ∧ hears mtype t = true ∧
    least body ≤ body.length

/-- A replication frame of this type is taken by its connection's session `x`, with room for its root ticket (R113, R294): it opens to `body`,
`y` is the session with the frame counted and `t` the state that holds it. -/
def Opened (rtype qp : Nat) (frame body : Bytes) (x y : ReplSession) (s t : State) : Prop :=
  ∃ s0 s1, s.boot.mode ≠ .dump ∧ arrive 0x10 3 (qpHome qp s) qp rtype s = (true, s0) ∧ sesAt qp (takeFrame qp frame s0) = some x ∧
    openFrame x rtype (overlay frame 4 (leBytes 1 rtype)) (takeFrame qp frame s0) = (.ok body, s1) ∧
    y = { x with rxSeq := if bitOf (fieldAt (overlay frame 4 (leBytes 1 rtype)) 5 1) 0 then x.rxSeq + 1 else x.rxSeq, lastRx := s.time.ticks } ∧
    t = modifySes qp (fun z =>
      { z with rxSeq := if bitOf (fieldAt (overlay frame 4 (leBytes 1 rtype)) 5 1) 0 then z.rxSeq + 1 else z.rxSeq, lastRx := s.time.ticks }) s1

/-- A capsule of an admin queue is taken as command `cid` of state `t` and runs: nothing holds it, and its data is all here. The fields of `set`
spell the row (Table 15-2); `c` is the capsule with them. -/
def AdminTaken (set : List (Nat × Bytes)) (qp cid : Nat) (capsule c data : Bytes) (s t : State) : Prop :=
  c = set.foldl (fun b x => overlay b x.1 x.2) (padTo (max 64 capsule.length) capsule) ∧ cid = sqeCid c ∧ nvTake qp c s = (true, t) ∧
    (sqeOpcode c = 0x08 → abortsOut qp t ≤ 4) ∧ nvHolds false t = false ∧ (nvCmd qp cid t).map (·.capsule) = some c ∧
    (adminIn c = none ∧ data = [] ∨ ∃ n, adminIn c = some n ∧ nvData c n 4096 = .ok (.inCapsule data))

/-- The same for a command other than Connect, on the admin queue of controller `k`. -/
def AdminRuns (set : List (Nat × Bytes)) (qp cid : Nat) (capsule c data : Bytes) (k : Controller) (s t : State) : Prop :=
  AdminTaken set qp cid capsule c data s t ∧ qpCtrl qp t = some k ∧ k.adminQp = qp

/-- A capsule of an I/O queue of a live controller is taken as command `cid`, and nothing holds it: it runs in state `u`, counted among the
reads or the writes, with what media answer its reads, its controller woken. -/
def IoTaken (opcode qp cid : Nat) (capsule : Bytes) (f : MediaFacts) (s u : State) : Prop :=
  ∃ c q t v, c = overlay capsule 0 [BitVec.ofNat 8 opcode] ∧ cid = sqeCid c ∧ nvQueue qp s = some q ∧ q.qid ≠ 0 ∧ q.controller.isSome = true ∧
    nvTake qp c s = (true, t) ∧
    v = modifyNvCmd qp cid (fun x => { x with facts := f })
      (if opcode = 2 ∨ opcode = 5 then modifyNvme (fun n => { n with readCommands := n.readCommands + 1 }) t
        else if opcode = 0 then t else modifyNvme (fun n => { n with writeCommands := n.writeCommands + 1 }) t) ∧
    mustHold c v = false ∧ u = wakeController qp v ∧ (nvCmd qp cid u).map (·.capsule) = some c ∧ sqeOpcode c = opcode

/-- A Sheaf request of this verb, which stands in a receive buffer of its connection and whose root ticket finds room, is taken and runs
(R113, R392, R393, Table 16-8): `r` is the request with its verb, and in state `t` it is among the requests, nothing holds it, the head serves
clients and is not READONLY, and none of the checks of R393 refuses it for object domain `dom`. -/
def SheafRuns (verb qp tag : Nat) (request r : Bytes) (f : MediaFacts) (dom : ObjDomain) (s t : State) : Prop :=
  ∃ u v, r = overlay request 0 (leBytes 1 verb) ∧ tag = shTag r ∧ shVerb r = verb ∧ qp < 2 ^ 24 ∧ shTakes qp s = true ∧
    (qpAt qp s).map (fun c => c.received.contains r) = some true ∧ arriveRoot (qpHome qp s) qp tag s = (true, v) ∧
    u = countSheaf (fun k => { k with verbs := bump k.verbs }) (qpTake qp r v) ∧ shReq qp tag u = none ∧
    t = modifySheaf (fun x => { x with requests := x.requests ++ [{ qp := qp, tag := tag, bytes := r, stage := .held, facts := f }] }) u ∧
    (shReq qp tag t).map (·.bytes) = some r ∧ shDomain qp r t = some dom ∧ t.boot.mode ≠ .dump ∧ shMustHold qp tag dom.id r t = false ∧
    clientsServed t = true ∧ t.boot.mode ≠ .readonly ∧ shForm dom.id r t = none ∧ ownerPassing dom.owner t = false ∧
    isDesignated 2 dom.id t = false ∧ domainLocked dom.domain t = false ∧ ownsIngest dom.owner t = true

/-- A packet's frame is accepted by its logical port (R333, R335): the port is UP, the head not in DUMP, the port takes the address, the buffers
have room, and the ICRC holds. `t` is the state with its counters. -/
def PortTakes (h : RoceHead) (s t : State) : Prop :=
  portUp h.lport s = true ∧ s.boot.mode ≠ .dump ∧
    ∃ u, u = countPort h.lport (fun k => { k with rxBytes := bump k.rxBytes h.wire }) s ∧ portAccepts h u = true ∧
      (isLossless h.lport (rxPriority h u) u = true ∨ h.occupancy ≤ rxShare h.lport (rxPriority h u) u) ∧ h.intact = true ∧
      t = noteOccupancy h.lport (rxPriority h u) h.occupancy u

/-- Logical port `l` takes a frame other than RoCE's: the port is UP, the VLAN its own, and the destination its address or one of these groups
(R333, R334). -/
def FrameTaken (h : FrameHead) (groups : List Nat) (l : Nat) (s : State) : Prop :=
  l = h.lport % 32 ∧ portUp l s = true ∧ vlanMatches l h.vlan s = true ∧ (h.dest = portMac l ∨ groups.contains h.dest = true)

/-- An accepted packet reaches its CONNECTED context `c` (R347-R350): the QPN names it, its generation holds, and it is cached. `t` is the
state in which the context takes the packet. -/
def Arrives (h : RoceHead) (c : QpCtx) (s t : State) : Prop :=
  ∃ u v, PortTakes h s u ∧ ¬(h.qpn % 2 ^ 20 < 2 ∧ h.qpn / 2 ^ 20 = 0) ∧ qpAt (h.qpn % 2 ^ 20) u = some c ∧ c.gen = h.qpn / 2 ^ 20 ∧
    c.state = .connected ∧ h.ce = false ∧ v = (winnowSearch 1 0 (steeringKey c) false 0 u).2 ∧ isCached c v = true ∧
    (v.ports.missed.getD (qpQuadrant c) []).any (fun m => m.index == c.index) = false ∧
    t = (cacheContext c.index (countCtx (qpQuadrant c) (fun k => { k with hits := bump k.hits }) v)).2 ∧ qpAt c.index t = some c

/-- A bridge reports no internal fault, and takes a command that finds so many outstanding on its port (R248). -/
def BridgeTakes (b load : Nat) (s : State) : Prop := (bridgeAt b s).internalFault = false ∧ load < (bridgeIdent b).cmdSlots

/-- The TAP holds an instruction that drives or isolates pins only while RESET_N is low (R566). -/
def TapSafe (s : State) : Prop :=
  s.boot.resetLow = true ∨ s.jtag = .bypass ∨ s.jtag = .idcode ∨ s.jtag = .samplePreload

/-- The state after so many steps. -/
def stepsFrom : Nat → State → Option State
  | 0, s => some s
  | n + 1, s => match step s with
    | .next t => stepsFrom n t
    | _ => none

/-- Both stores list addresses strictly rising, each once. -/
def StoresCanonical (s : State) : Prop := s.mem.near.wf = true ∧ s.mem.far.wf = true

end Sys2Proof.Machine
end

