-- ==== Sys2Proof/Certificates/Slice0/Obligations.lean ====
section
/-! DEFINITION. The statements for the provers: that every command completes and with what, and the rules that hold of all of them. -/

open Sys2Proof Sys2Proof.Machine

/-- WINNOW_TABLE_GET, WINNOW_TABLE_SET, WINNOW_MASK_SET, WINNOW_SEARCH, WINNOW_READ, WINNOW_CLEAR and WINNOW_STATS on legal operands (R150, R151). -/
def Obligations.WinnowCommandsAnswer : Prop :=
  (∀ p s u, Starts 0x0900 p s u → parm p 0 1 < 8 →
    Answers (.winnowTableGet p) p stOk (leBytes 8 (wtDesc (parm p 0 1) u) ++ leBytes 8 (validEntries (parm p 0 1) u)) s u) ∧
  (∀ p s u, Starts 0x0901 p s u → parm p 0 1 < 8 → (parm p 0 1 < 3 ∨ parm p 8 8 = 0) → descLegal (parm p 8 8) = true →
    (∀ v, v < 8 → v ≠ parm p 0 1 → descsOverlap (parm p 8 8) ((futureDescs u).getD v 0) = false) → fullyQuiesced (0x10 + parm p 0 1) u = true →
    Answers (.winnowTableSet p) p stOk [] s { u with
      winnow := { u.winnow with pendingDesc := insertAt (parm p 0 1) (BitVec.ofNat 64 (parm p 8 8)) u.winnow.pendingDesc } }) ∧
  (∀ p s u, Starts 0x0902 p s u → parm p 0 1 < 8 → 0 < parm p 1 1 → parm p 1 1 < 16 →
    (wtWide ((futureDescs u).getD (parm p 0 1) 0) = true ∨ parm p 20 12 = 0) → fullyQuiesced (0x10 + parm p 0 1) u = true →
    Answers (.winnowMaskSet p) p stOk [] s { u with
      winnow := { u.winnow with
        pendingMasks := insertAt (16 * parm p 0 1 + parm p 1 1) (BitVec.ofNat 192 (parm p 8 24)) u.winnow.pendingMasks } }) ∧
  (∀ p s u, Starts 0x0903 p s u → parm p 0 1 < 8 → parm p 1 1 < 16 →
    Answers (.winnowSearch p) p stOk (leBytes 8 (winnowSearch (parm p 0 1) (parm p 1 1) (parm p 8 24) true 0 u).1) s
      (winnowSearch (parm p 0 1) (parm p 1 1) (parm p 8 24) true 0 u).2) ∧
  (∀ p s u x, Starts 0x0904 p s u → parm p 0 1 < 8 → parm p 2 1 < 64 → parm p 4 2 < 8192 →
    lookup (entryKey (parm p 2 1) (parm p 4 2)) u.winnow.entries = some x →
    Reports (.winnowRead p) p [leBytes 24 ((unitKey (wtWide (wtDesc (parm p 0 1) u) && parm p 2 1 % 2 == 0) (parm p 2 1) (parm p 4 2) u).getD x.key.toNat)
      ++ leBytes 4 x.data.toNat ++ leBytes 1 x.hits ++ leBytes 1 1] [] s u) ∧
  (∀ p s u, Starts 0x0904 p s u → parm p 0 1 < 8 → parm p 2 1 < 64 → parm p 4 2 < 8192 →
    lookup (entryKey (parm p 2 1) (parm p 4 2)) u.winnow.entries = none → Reports (.winnowRead p) p [zeros 30] [] s u) ∧
  (∀ p s u, Starts 0x0905 p s u → parm p 0 1 < 8 →
    Answers (.winnowClear p) p stOk [] s (winnowClearTable (wtDesc (parm p 0 1) u) u)) ∧
  (∀ p s u, Starts 0x0906 p s u → parm p 0 1 < 8 →
    Reports (.winnowStats p) p [(winnowWords (parm p 0 1) u).flatMap (leBytes 8)] [] s u)

/-- The key commands that load no gauntlet slot, and CIPHER_STATS, on operands they take (R188, R194, R197, R201, R202). -/
def Obligations.KeyCommandsAnswer : Prop :=
  (∀ p s u, Starts 0x0300 p s u →
    Answers (.keyStatus p) p stOk (leBytes 4 (vaultStatus u) ++ [0, 1, 2, 3].map (fun q => BitVec.ofNat 8 (inServiceCores q u))) s u) ∧
  (∀ p s u x m t, Starts 0x0304 p s u → domainAt (parm p 0 1) u = some x → kekSlot (parm p 1 1) = true → liveEpochs x = [] →
    journals u = true → changeTable (.bind (parm p 0 1) (parm p 1 1)) u = (m, t) → AnswersMirrored (.keyDomainBind p) p m [] s t) ∧
  (∀ p s u x nk, Starts 0x0305 p s u → domainAt (parm p 0 1) u = some x → isKeyOwner (parm p 0 1) u = true → kekSlot (parm p 1 1) = true →
    gauntletKey (parm p 1 1) u = some nk → x.envelopes = [] →
    Answers (.keyRewrap p) p stOk [] s (modifyDomain x.id (fun y => { y with kek := parm p 1 1 }) u)) ∧
  (∀ p s u x keys nk, Starts 0x0305 p s u → domainAt (parm p 0 1) u = some x → isKeyOwner (parm p 0 1) u = true → kekSlot (parm p 1 1) = true →
    gauntletKey (parm p 1 1) u = some nk →
    keys = x.envelopes.map (fun e => (gauntletKey e.kek u).bind (fun k => (keyUnwrap k e.wrapped).map (fun key => (e, key)))) →
    Completes (.keyRewrap p) s (if keys.any (fun k => k.isNone) then complete (refOf p) stAuthFailed [] u
      else complete (refOf p) stOk [] (modifyDomain x.id (fun y => { y with kek := parm p 1 1 }) ((keys.filterMap id).foldl (fun st k =>
        place' 0 (.envelope x.id k.1.epoch (parm p 1 1) (arrayTime st) (keyWrap nk k.2)) st) u)))) ∧
  (∀ p s u x k, Starts 0x0306 p s u → domainAt (parm p 0 1) u = some x → isKeyOwner (parm p 0 1) u = true → x.epoch < 0xFFFFFFFF →
    x.issued < 0xFFFFFFFF → (liveEpochs x).length < 64 → gauntletKey x.kek u = some k →
    Completes (.keyEpochAdvance p) s (endCommand p (beginEpoch p x.id x.kek (x.issued + 1) k (leBytes 4 (x.issued + 1)) u))) ∧
  (∀ p s u x, Starts 0x0307 p s u → domainAt (parm p 0 1) u = some x → isKeyOwner (parm p 0 1) u = true → parm p 4 4 ≠ x.epoch → 0 < parm p 4 4 →
    parm p 4 4 ≤ x.issued → lookupD (parm p 4 4) x.counts 0 = 0 →
    Answers (.keyEpochDestroy p) p stOk [] s (place' 0 (.epochDestroy x.id (parm p 4 4)) u)) ∧
  (∀ p s u x, Starts 0x0308 p s u → domainAt (parm p 0 1) u = some x → (liveEpochs x).any (fun c => c.1 == x.epoch) = true →
    Reports (.keyEpochStats p) p ((sortByKey (fun (c : Nat × Nat) => [(c.1 : Int)]) (liveEpochs x)).map (fun c => packFields [(4, c.1), (4, 0), (8, c.2)]))
      (leBytes 4 x.epoch ++ leBytes 4 (sortByKey (fun (c : Nat × Nat) => [(c.1 : Int)]) (liveEpochs x)).length) s u) ∧
  (∀ p s u, Starts 0x0309 p s u → parm p 0 2 < 4096 → Answers (.keySlotInfo p) p stOk (leBytes 8 (slotInfo (parm p 0 2) u)) s u) ∧
  (∀ p s u key, Starts 0x030A p s u → 12 ≤ parm p 0 1 → parm p 0 1 < 16 → 0 < parm p 7 1 → parm p 7 1 ≤ 32 →
    u.vault.gauntlet.getD (parm p 0 1) none = some key → p.dataPages = 0 →
    Answers (.keyHmac p) p stOk ((hmacSha256 key (parmBytes p 8 (parm p 7 1))).take 24) s u) ∧
  (∀ p s u, Starts 0x030B p s u → parm p 0 1 < 4 →
    Reports (.cipherStats p) p [(cipherWords (parm p 0 1) u).flatMap (leBytes 8)] [] s u)

/-- The media and Furrow commands on operands they take (R203, R205, R215, R221, R226, R241-R245, R260): what each answers and changes. -/
def Obligations.MediaCommandsAnswer : Prop :=
  (∀ p s u, Starts 0x0400 p s u →
    Reports (.mediaGeometryGet p) p [(acreCounts u).flatMap (leBytes 4)]
      (packFields [(1, u.media.baleK), (1, u.media.baleM), (1, u.media.metaK), (1, u.media.metaM), (4, 0), (8, headFree u)]) s u) ∧
  (∀ p s u, Starts 0x0401 p s u → geometryOk (parm p 0 1) (parm p 1 1) (parm p 2 1) (parm p 3 1) u = true → fullyQuiesced 4 u = true →
    fullyQuiesced 5 u = true →
    Answers (.mediaGeometrySet p) p stOk [] s (setPending 0x0903 0 (leBytes 8 (parm p 3 1)) (setPending 0x0902 0 (leBytes 8 (parm p 2 1))
      (setPending 0x0901 0 (leBytes 8 (parm p 1 1)) (setPending 0x0900 0 (leBytes 8 (parm p 0 1)) u))))) ∧
  (∀ p s u, Starts 0x0402 p s u → Reports (.mediaHealthArray p) p [arrayRecord u] [] s u) ∧
  (∀ p s u, Starts 0x0403 p s u → 0 < parm p 2 2 → parm p 0 2 + parm p 2 2 ≤ 192 →
    Reports (.mediaHealthBridge p) p ((List.range (parm p 2 2)).map (fun i => bridgeRecord (parm p 0 2 + i) u)) [] s u) ∧
  (∀ p s u, Starts 0x0404 p s u → parm p 0 2 < 192 → 0 < parm p 3 1 → parm p 2 1 + parm p 3 1 ≤ (headBridge (parm p 0 2) u).dies.length →
    Reports (.mediaHealthDie p) p ((List.range (parm p 3 1)).map (fun i => dieRecord (parm p 0 2) (parm p 2 1 + i) u)) [] s u) ∧
  (∀ p s u, Starts 0x0405 p s u → p.dataPages = 0 →
    Answers (.reclaimStatus p) p stOk (leBytes 4 (if headUsable u - headReserve u = 0 then 0 else 10000 * headFree u / (headUsable u - headReserve u))
      ++ leBytes 4 u.media.reclaims.length) s u) ∧
  (∀ p s u f, Starts 0x0406 p s u →
    Answers (.scrubStart p f) p stOk [] s (hswSync (scrubPass ((leasedBridges u).filter (fun b => bitOf (parm p 0 24) b)) f u))) ∧
  (∀ p s u, Starts 0x0407 p s u → parm p 0 2 < 192 → (parm p 2 1 = 0 ∨ parm p 2 1 = 1 ∨ parm p 2 1 = 0xFF) →
    Answers (.bridgeSet p) p stOk [] s (modifyHeadBridge (parm p 0 2) (fun h => { h with nextSet := some (parm p 2 1, parm p 3 1) }) u)) ∧
  (∀ p s u, Starts 0x0408 p s u → parm p 0 2 < 192 → parm p 2 1 < (headBridge (parm p 0 2) u).dies.length →
    dieState (parm p 0 2) (parm p 2 1) u < 2 →
    Answers (.dieRetire p) p stOk [] s (hswSync (leaveMedia (mediaRecord 4 (parm p 0 2) (parm p 2 1) 1
      (modifyHeadBridge (parm p 0 2) (fun h => { h with state := if h.state = 0 then 1 else h.state })
        (modifyDie (parm p 0 2) (parm p 2 1) (fun x => { x with state := 1 }) u)))))) ∧
  (∀ p s u, Starts 0x0409 p s u → parm p 0 2 < 192 → (headBridge (parm p 0 2) u).state < 3 →
    Answers (.bridgeRetire p) p stOk [] s (hswSync (leaveMedia (mediaRecord 4 (parm p 0 2) 0xFF 2
      (modifyHeadBridge (parm p 0 2) (fun h => { h with state := 2 }) u))))) ∧
  (∀ p s u, Starts 0x040A p s u → 0 < parm p 2 2 → parm p 0 2 + parm p 2 2 ≤ 192 →
    Reports (.furrowStatus p) p (((u.furrow.drop (parm p 0 2)).take (parm p 2 2)).map furrowRecord) [] s u)

/-- SNAP_CREATE, SNAP_DELETE, SNAP_LIST, and SNAP_EXPOSE to expose and to withdraw, on operands they take (R288-R290, Table 12-7). -/
def Obligations.SnapshotCommandsComplete : Prop :=
  (∀ p s u owner b s1 j s2, Starts 0x0500 p s u → snapMode u = true → scopeOwner (parm p 0 1) (parm p 2 2) u = some owner →
    ownsIngest owner u = true → stampBarrier u = (b, s1) → beginSnap (parm p 0 1) (parm p 2 2) b none none s1 = some (j, s2) →
    Waits (.snapCreate p) p (.barrier j.id) [] s s2) ∧
  (∀ p s u owner, Starts 0x0500 p s u → snapMode u = true → scopeOwner (parm p 0 1) (parm p 2 2) u = some owner → ownsIngest owner u = false →
    Completes (.snapCreate p) s (endCommand p (forwardMci 0x0500 p u))) ∧
  (∀ p s u x, Starts 0x0501 p s u → snapMode u = true → snapAt (parm p 0 1) (parm p 2 2) (parm p 4 2) u = some x → snapInUse x u = false →
    Answers (.snapDelete p) p stOk [] s (deleteTickets x (place' 0 (.snapshot x.kind 2 x.id x.num (arrayTime u)) u))) ∧
  (∀ p s u, Starts 0x0502 p s u → (scopeOwner (parm p 0 1) (parm p 2 2) u).isSome = true →
    Reports (.snapList p) p ((sortByKey (fun (x : Snapshot) => [(x.num : Int)]) (u.map.snaps.filter (fun x =>
      x.kind == parm p 0 1 && x.id == parm p 2 2 && decide (parm p 4 2 ≤ x.num) && !x.deleting))).map snapEntry) [] s u) ∧
  (∀ p s u n x nsid m s1, Starts 0x0503 p s u → journals u = true → parm p 0 1 = 1 → parm p 6 1 = 1 → nsAt (parm p 2 2) u = some n →
    snapAt 1 (parm p 2 2) (parm p 4 2) u = some x → u.map.namespaces.any (fun y => y.exposes == some (parm p 2 2, parm p 4 2)) = false →
    createNs n.domain n.size n.lbaLog2 (n.owner + 1) (some (parm p 2 2, parm p 4 2)) u = some (nsid, m, s1) →
    AnswersMirrored (.snapExpose p) p m (leBytes 2 nsid) s s1) ∧
  (∀ p s u n x y, Starts 0x0503 p s u → journals u = true → parm p 0 1 = 1 → parm p 6 1 = 2 → nsAt (parm p 2 2) u = some n →
    snapAt 1 (parm p 2 2) (parm p 4 2) u = some x → u.map.namespaces.find? (fun z => z.exposes == some (parm p 2 2, parm p 4 2)) = some y →
    Answers (.snapWithdraw p) p stOk (leBytes 2 y.id) s (deleteNs y u))

/-- The replication and migration commands on operands they take (R292-R305, Table 12-7): the pair record placed, the session or export begun. -/
def Obligations.ReplicationCommandsComplete : Prop :=
  (∀ p s u n, Starts 0x0510 p s u → journals u = true → (scopeOwner (parm p 0 1) (parm p 2 2) u).isSome = true → 8 ≤ parm p 6 1 → parm p 6 1 ≤ 11 →
    firstIndex 0xFFFF (fun n => !u.map.pairs.any (fun x => x.role == 1 && x.pair == n && x.state == 1)) = some n →
    AnswersMirrored (.replPair p) p (placePair ⟨n, 1, 1, parm p 0 1, parm p 6 1, parm p 2 2, parm p 4 2, 0, parmBytes p 8 16, 0⟩ u).2.1 (leBytes 2 n) s
      (placePair ⟨n, 1, 1, parm p 0 1, parm p 6 1, parm p 2 2, parm p 4 2, 0, parmBytes p 8 16, 0⟩ u).2.2) ∧
  (∀ p s u, Starts 0x0511 p s u → journals u = true → (scopeOwner (parm p 0 1) (parm p 2 2) u).isSome = true → 8 ≤ parm p 6 1 → parm p 6 1 ≤ 11 →
    AnswersMirrored (.replAccept p) p (placePair ⟨0xFFFF, 2, 1, parm p 0 1, parm p 6 1, 0, parm p 2 2, 0, parmBytes p 8 16, 0⟩ u).2.1 [] s
      (placePair ⟨0xFFFF, 2, 1, parm p 0 1, parm p 6 1, 0, parm p 2 2, 0, parmBytes p 8 16, 0⟩ u).2.2) ∧
  (∀ p s u r goal, Starts 0x0512 p s u → snapMode u = true → pairAt (parm p 0 2) u = some r → snapAt r.kind r.source (parm p 4 2) u = some goal →
    parm p 2 2 = 0 → u.repl.sessions.any (fun x => x.initiator && x.pair == r.pair) = false → r.sessionLast ≠ 0xFFFFFF → sessionsFull u = false →
    ∃ x, Answers (.replStart p) p stOk [] s (metaFlush (modifyRepl (fun y => { y with sessions := y.sessions ++ [x] })
        (placePair { r with sessionLast := r.sessionLast + 1 } u).2.2)) ∧
      x.pair = r.pair ∧ x.initiator = true ∧ x.session = r.sessionLast + 1 ∧ x.base = 0 ∧ x.goal = goal.createJseq ∧ x.stage = 1) ∧
  (∀ p s u x l, Starts 0x0513 p s u → u.map.pairs.any (fun x => x.role == 1 && x.pair == parm p 0 2) = true →
    u.repl.sessions.find? (fun y => y.initiator && y.pair == parm p 0 2) = some x → u.repl.last.find? (fun y => y.pair == parm p 0 2) = some l →
    Answers (.replStatus p) p stOk (packFields [(4, x.stage), (4, x.batch), (8, x.bytesSent), (2, l.reason), (2, l.snap)]) s u) ∧
  (∀ p s u, Starts 0x0514 p s u → (pairAt (parm p 0 2) u).isSome = true → Answers (.replStop p) p stOk [] s (stopPair (parm p 0 2) u)) ∧
  (∀ p s u r, Starts 0x0515 p s u → journals u = true → pairAt (parm p 0 2) u = some r →
    AnswersMirrored (.replUnpair p) p (placePair { r with state := 2 } (stopPair r.pair u)).2.1 [] s
      (placePair { r with state := 2 } (stopPair r.pair u)).2.2) ∧
  (∀ p s u, Starts 0x0520 p s u → parm p 0 1 = 1 → (scopeOwner 1 (parm p 2 2) u).isSome = true → 0 < parm p 4 2 →
    (snapAt 1 (parm p 2 2) (parm p 4 2) u).isSome = true → parm p 6 1 < 2 → 0 < parm p 7 1 → parm p 7 1 ≤ 16 → servingMode u.boot.mode = true →
    bitmapFits u = true → ∃ e, Answers (.migrateExport p) p stOk (leBytes 2 u.repl.nextExport) s (exportGo u.repl.nextExport
        (modifyRepl (fun r => { r with exports := r.exports ++ [e], nextExport := u.repl.nextExport + 1 }) u)) ∧
      e.num = u.repl.nextExport ∧ e.snaps = [(1, parm p 2 2, parm p 4 2)] ∧ e.wanted = parm p 7 1) ∧
  (∀ p s u e, Starts 0x0521 p s u → exportAt (parm p 0 2) u = some e → Answers (.migrateStatus p) p stOk (exportBytesOf e) s u) ∧
  (∀ p s u e, Starts 0x0522 p s u → exportAt (parm p 0 2) u = some e →
    Answers (.migrateStop p) p stOk (((exportAt (parm p 0 2) (exportOver (parm p 0 2) 2 u)).map exportBytesOf).getD []) s (exportOver (parm p 0 2) 2 u))

/-- HEADLAND_STATUS, the RETURN_CONTROL operations, PORT_STATUS and QP_INFO on operands they take (R329, R330, R365). -/
def Obligations.HeadlandAndPortCommandsAnswer : Prop :=
  (∀ p s u, Starts 0x040B p s u → Reports (.headlandStatus p) p [headlandStatusBytes u] [] s u) ∧
  (∀ p s u, Starts 0x040C p s u → Answers (.returnControlAutoOn p) p stOk [] s
    (tryReturn (modifyReturn (fun r => { r with asked := false })
      (applyParam 0x0D07 0 [1] (modifyHeadland (fun h => { h with returnDisable := false }) u))))) ∧
  (∀ p s u, Starts 0x040C p s u → Answers (.returnControlAutoOff p) p stOk [] s (applyParam 0x0D07 0 [0] u)) ∧
  (∀ p s u, Starts 0x040C p s u → u.boot.mode = .fallow → Answers (.returnControlEndHold p) p stOk [] s
    (tryReturn (modifyReturn (fun r => { r with holdEnded := true, asked := false }) u))) ∧
  (∀ p s u, Starts 0x040C p s u → u.boot.mode = .active → Answers (.returnControlYield p) p stOk [] s (enterYield 8 u)) ∧
  (∀ p s u, Starts 0x040D p s u → 0 < parm p 1 1 → parm p 0 1 + parm p 1 1 ≤ 32 →
    Reports (.portStatus p) p ((List.range (parm p 1 1)).map (fun i => lportRecord (parm p 0 1 + i) u)) [] s u) ∧
  (∀ p s u c, Starts 0x040E p s u → qpAt (parm p 0 3 % 2 ^ 20) u = some c → c.gen = parm p 0 3 / 2 ^ 20 → c.state ≠ .timewait →
    Reports (.qpInfo p) p [packFields [(1, ctxCode c.state), (1, c.lport), (2, 0), (4, c.remoteQpn)] ++ beBytes 16 c.remoteAddr
      ++ packFields [(8, c.rate), (8, c.srtt), (4, c.npsn), (4, c.epsn)]] [] s u)

/-- The memory and metadata-cache commands on operands they take (R416, R423, R429-R442): what each answers and changes. -/
def Obligations.MemoryCommandsAnswer : Prop :=
  (∀ p s u, Starts 0x0410 p s u → Reports (.memStatus p) p [([mcStatus u] ++ u.mem.partition ++ [mappedMask u, u.mem.farBytes] ++ farRegions u
    ++ [residentChunks u] ++ holesOf u ++ memCounters u).flatMap (leBytes 8)] (leBytes 8 (mcStatus u)) s u) ∧
  (∀ p s u, Starts 0x0411 p s u → parm p 0 1 = 1 → u.mem.mcState ≠ .disabling →
    Answers (.mcEnable p) p stOk [] s (modifyMem (fun m => { m with mcState := .enabled }) u)) ∧
  (∀ p s u, Starts 0x0411 p s u → parm p 0 1 = 2 → u.mem.mcState = .enabled →
    Answers (.mcDisable p) p stOk [] s (modifyMem (fun m => { m with mcState := .disabling }) u)) ∧
  (∀ p s u, Starts 0x0F10 p s u → u.mem.mcState ≠ .disabled → Completes (.mcForceDisable p) s
    (loseLines (complete (refOf p) stOk (leBytes 8 (dirtyLines u).length) (modifyMem (fun m => { m with invalidLines := (dirtyLines u).map (·.1) ++ m.invalidLines })
      (mcDisabled (almanac 0x000A (packFields [(1, 4), (8, 128 * ((dirtyLines u).map (·.1)).headD 0), (8, (dirtyLines u).length)])
        (((dirtyLines u).map (·.1)).foldl (fun st l => countSlice (sliceOf l) (fun c => { c with dirtyLost := bump c.dirtyLost }) st) u))))))) ∧
  (∀ p s u yes no s1, Starts 0x0412 p s u → u.mem.mcState = .enabled → mcQuiesced u = false →
    maskCount (BitVec.ofNat 16 (parm p 0 2) ||| u.mem.wayLocked) ≤ 12 → BitVec.ofNat 16 (parm p 0 2) &&& ~~~ u.mem.wayPowered = 0 →
    BitVec.ofNat 16 (parm p 0 2) &&& u.mem.wayGoing = 0 → farRangeOk (parm p 8 8) (parm p 0x10 8) u = true →
    preloadAll (BitVec.ofNat 16 (parm p 0 2)) (lineOf (parm p 8 8)) (parm p 0x10 8 / 128) 0 0
      (clearWays (BitVec.ofNat 16 (parm p 0 2)) (lineOf (parm p 8 8)) (parm p 0x10 8 / 128) u) = (yes, no, s1) →
    Answers (.mcPreload p) p (if no = 0 then stOk else stOkInfo) (leBytes 8 yes ++ leBytes 8 no) s
      (modifyMem (fun m => { m with wayLocked := m.wayLocked ||| BitVec.ofNat 16 (parm p 0 2) }) s1)) ∧
  (∀ p s u, Starts 0x0413 p s u → Answers (.mcUnlock p) p stOk [] s (modifyMem (fun m =>
    { m with wayLocked := m.wayLocked &&& ~~~ (BitVec.ofNat 16 (parm p 0 2)),
             holes := m.holes.filter (fun h => !(BitVec.ofNat 16 (parm p 0 2)).getLsbD (h % 16)) }) u)) ∧
  (∀ p s u c t, Starts 0x0414 p s u → farRangeOk (parm p 8 8) (parm p 0x10 8) u = true →
    (List.range (parm p 0x10 8 / 128)).foldl (fun cs i => rangeAt (parm p 0 1) (lineOf (parm p 8 8) + i) cs) (⟨0, 0, 0⟩, u) = (c, t) →
    (parm p 0 1 = 1 → Answers (.clean p) p stOk (packFields [(8, c.wrote), (8, c.gone), (8, c.made)]) s t) ∧
    (parm p 0 1 = 2 → Answers (.cleanInvalidate p) p stOk (packFields [(8, c.wrote), (8, c.gone), (8, c.made)]) s t) ∧
    (parm p 0 1 = 3 → u.boot.mode = .service →
      Completes (.purge p) s (loseLines (complete (refOf p) stOk (packFields [(8, c.wrote), (8, c.gone), (8, c.made)]) t)))) ∧
  (∀ p s u, Starts 0x0415 p s u → u.mem.mcState = .enabled → parm p 0 1 = 1 → BitVec.ofNat 16 (parm p 2 2) &&& u.mem.wayLocked = 0 →
    u.mem.wayPowered &&& ~~~ u.mem.wayGoing &&& ~~~ u.mem.wayLocked &&& ~~~ (BitVec.ofNat 16 (parm p 2 2)) ≠ 0 →
    Answers (.mcWayPowerDown p) p stOk [] s
      (modifyMem (fun m => { m with wayGoing := m.wayGoing ||| (BitVec.ofNat 16 (parm p 2 2) &&& m.wayPowered) }) u)) ∧
  (∀ p s u, Starts 0x0415 p s u → u.mem.mcState = .enabled → parm p 0 1 = 2 →
    Answers (.mcWayPowerUp p) p stOk [] s
      (modifyMem (fun m => { m with wayPowered := m.wayPowered ||| (BitVec.ofNat 16 (parm p 2 2) &&& ~~~ m.wayGoing) }) u)) ∧
  (∀ p s u l, Starts 0x0F11 p s u → parm p 0 1 < 4 → parm p 2 2 < 16384 → parm p 4 1 < 16 →
    u.mem.lines.find? (fun l => l.slice == parm p 0 1 && l.set == parm p 2 2 && l.way == parm p 4 1) = some l →
    Answers (.mcTagRead p) p stOk (leBytes 3 (tagEntry l)) s u)

/-- The Granary and DMA commands of the host on operands they take (R458, R467, R470, Table 19-10). -/
def Obligations.BufferCommandsAnswer : Prop :=
  (∀ p s u, Starts 0x0416 p s u → Reports (.granaryStatus p) p (u.granary.lists.map listRecord) [] s u) ∧
  (∀ p s u, Starts 0x0F12 p s u → (arenaOf (hPool (parm p 0 4)) (hIndex (parm p 0 4)) u).isSome = true →
    Answers (.granaryHeaderRead p) p stOk (leBytes 8 (headerWord (gHeader (hPool (parm p 0 4)) (hIndex (parm p 0 4)) u))) s u) ∧
  (∀ p s u, Starts 0x0800 p s u → 0 < parm p 1 1 → parm p 0 1 + parm p 1 1 ≤ 256 →
    Reports (.dmaStatus p) p ((List.range (parm p 1 1)).map (fun i => dmaRecord (parm p 0 1 + i) (dmaAt (parm p 0 1 + i) u))) [] s u) ∧
  (∀ p s u pool h s1, Starts 0x0801 p s u → poolFor (parm p 0 4) = some pool → listLow (granaryReserve u) (gList 2 pool u) = false →
    (gList 2 pool u).cut = false → 0 < freeNow (gList 2 pool u) → (gList 2 pool u).waiters = [] → hostBuffers u < paramNat 0x1301 0 u →
    takeBuffer 2 pool 0x2D none u = (some h, s1) → Answers (.dmaBufferAlloc p) p stOk (leBytes 4 h) s s1) ∧
  (∀ p s u t, Starts 0x0802 p s u → gRelease 0x2D (parm p 0 4) none u = (5, t) → Answers (.dmaBufferFree p) p stOk (leBytes 1 5) s t)

/-- NOP, IDENTIFY, WATCH, SET_MODE, QUIESCE, RESUME, AUTH_CHALLENGE, TIME_SET, CANCEL and ATTN_ACK on operands they take (R485-R492, Table 20-13). -/
def Obligations.ControlCommandsComplete : Prop :=
  (∀ p s u, Starts 0x0000 p s u → Answers (.nop p) p stOk [] s u) ∧
  (∀ p s u, Starts 0x0001 p s u → Reports (.identify p) p [identifyRecord u] ((identifyRecord u).take 24) s u) ∧
  (∀ p s u r, Starts 0x0002 p s u → u.mci.rings[p.fetchedFrom]? = some r → r.watch = none → parm p 4 4 ≤ 3600000 → parm p 0 2 = u.hsw.attnSeq.toNat →
    Completes (.watch p) s (modifyRing p.fetchedFrom (fun r =>
      { r with watch := some { tag := (refOf p).tag, attnSeen := parm p 0 2, timeout := parm p 4 4 } }) u)) ∧
  (∀ p s u r, Starts 0x0002 p s u → u.mci.rings[p.fetchedFrom]? = some r → r.watch = none → parm p 4 4 ≤ 3600000 → parm p 0 2 ≠ u.hsw.attnSeq.toNat →
    Answers (.watch p) p stOk [] s u) ∧
  (∀ p s u, Starts 0x0003 p s u → fieldAt p.params 0 1 = 1 → u.boot.mode = .service →
    Completes (.setModeBoot p) s (selfReset (complete (refOf p) stOk [12#8] u))) ∧
  (∀ p s u, Starts 0x0003 p s u → fieldAt p.params 0 1 = 1 → u.boot.mode = .recovery →
    Completes (.setModeBoot p) s (selfReset (ledgerWrite 0xC0 0 1 0 stOk 0 (complete (refOf p) stOk [2#8] u)))) ∧
  (∀ p s u, Starts 0x0003 p s u → fieldAt p.params 0 1 = 0xB → servingMode u.boot.mode = true →
    Completes (.setModeDump p) s (enterDump false (complete (refOf p) stOk [BitVec.ofNat 8 (modeCode u.boot.mode)] u))) ∧
  (∀ p s u, Starts 0x0003 p s u → fieldAt p.params 0 1 = 0xC → u.boot.mode = .fallow →
    Answers (.setModeService p) p stOk [4#8] s (enterService u)) ∧
  (∀ p s u, Starts 0x0003 p s u → fieldAt p.params 0 1 = 0xC → u.boot.mode = .inventory →
    Answers (.setModeService p) p stOk [3#8] s (enterService u)) ∧
  (∀ p s u v, Starts 0x0004 p s u → 0 < p.function.toNat → functionCodes.contains p.function.toNat = true → fullyQuiesced p.function.toNat u = false →
    u.mci.quiescing.contains p.function.toNat = false →
    v = cipherSchedule { u with mci := { u.mci with quiescing := u.mci.quiescing ++ [p.function.toNat] } } →
    (quiesceReached p.function.toNat v = true → Answers (.quiesce p) p stOk [] s (nowQuiesced p.function.toNat v)) ∧
    (quiesceReached p.function.toNat v = false → Waits (.quiesce p) p (.quiesce p.function.toNat) [] s v)) ∧
  (∀ p s u f n t, Starts 0x0005 p s u → 0 < p.function.toNat → functionCodes.contains p.function.toNat = true →
    u.mci.quiesced.contains p.function.toNat = true → resumeFunctions [p.function.toNat] f u = (n, t) →
    Answers (.resume p f) p stOk (leBytes 4 n) s t) ∧
  (∀ p s u, Starts 0x0006 p s u → Answers (.authChallenge p) p stOk ((List.range 16).map (fun i => Config.generator (u.genCount + i))) s
    (modifyRing p.fetchedFrom (fun r =>
      { r with nonce := some { value := (List.range 16).map (fun i => Config.generator (u.genCount + i)), issued := u.time.ticks } })
      { u with genCount := u.genCount + 16 })) ∧
  (∀ p s u, Starts 0x0007 p s u → u.time.resumed = true → u.time.arraySet = true → 0 < parm p 0 8 → parm p 0 8 < arrayTime u → hasAuth p = false →
    Answers (.timeSet p) p stOkInfo (leBytes 8 (arrayTime u) ++ leBytes 8 (arrayTime u)) s u) ∧
  (∀ p s u v t, Starts 0x0007 p s u → u.time.resumed = true → u.time.arraySet = true → 0 < parm p 0 8 → arrayTime u ≤ parm p 0 8 →
    parm p 0 8 ≤ arrayTime u + 86400000000 → hasAuth p = false → markRoom u = true →
    v = almanac 0x0002 (leBytes 8 (arrayTime u) ++ leBytes 8 (parm p 0 8))
      { u with time := { u.time with arraySet := true, arrayBase := parm p 0 8, arrayTick := u.time.ticks, slewing := false } } →
    t = almanac 0x0601 (timeMark v) (hswSync v) →
    (almEarly t = true → Answers (.timeSet p) p stOk (leBytes 8 (arrayTime u) ++ leBytes 8 (parm p 0 8)) s t) ∧
    (almEarly t = false → Completes (.timeSet p) s
      (almDrain (waitOn p (.almUnit t.alm.newestSeq) (leBytes 8 (arrayTime u) ++ leBytes 8 (parm p 0 8)) t).2))) ∧
  (∀ p s u f n, Starts 0x0008 p s u →
    firstIndex 16 (fun n => (((u.mci.rings[n]?).bind (·.watch)).map (fun w => w.tag == parm p 0 2 % 2 ^ 15)).getD false) = some n →
    Answers (.cancel p f) p stOk [1] s (complete { ring := n, tag := parm p 0 2 % 2 ^ 15 } stAborted []
      { u with mci := { u.mci with rings := modifyNth (fun r => { r with watch := none }) n u.mci.rings } })) ∧
  (∀ p s u, Starts 0x0009 p s u → BitVec.ofNat 16 (parm p 0 2) &&& ~~~ attnMask = 0 → bitOf (parm p 0 2) bitAlmanac = false →
    Answers (.attnAck p) p stOk [] s (hswSync { u with hsw := { u.hsw with attn := u.hsw.attn &&& ~~~ (BitVec.ofNat 16 (parm p 0 2)) } }))

/-- GET_PARAM, SET_PARAM, COMMIT_CONFIG, CONFIG_READ, SCOPE_PARAM_SET and SCOPE_PARAM_GET on operands they take (R494, R495, Table 20-14). -/
def Obligations.ConfigurationCommandsComplete : Prop :=
  (∀ p s u d, Starts 0x0100 p s u → paramDef (parm p 0 2) = some d → parm p 2 2 < scopeCount d.scope → parm p 4 1 = 0 →
    (paramNow (parm p 0 2) (parm p 2 2) u).length ≤ 16 →
    Answers (.getParam p) p stOk (leBytes 2 (paramNow (parm p 0 2) (parm p 2 2) u).length
      ++ [BitVec.ofNat 8 (flagBit (paramPending (parm p 0 2) (parm p 2 2) u).isSome)] ++ zeros 5 ++ paramNow (parm p 0 2) (parm p 2 2) u) s u) ∧
  (∀ p s u v, Starts 0x0101 p s u → p.busError = false → packetValue p (parm p 4 2) = some v → paramCheck (parm p 0 2) (parm p 2 2) v u = none →
    u.headland.peerPresent = false → quiesceFor (parm p 0 2) (parm p 2 2) v u = [] →
    Answers (.setParam p) p stOk [0] s (applyParam (parm p 0 2) (parm p 2 2) v u)) ∧
  (∀ p s u v, Starts 0x0101 p s u → p.busError = false → packetValue p (parm p 4 2) = some v → paramCheck (parm p 0 2) (parm p 2 2) v u = none →
    u.headland.peerPresent = false → quiesceFor (parm p 0 2) (parm p 2 2) v u ≠ [] →
    Answers (.setParam p) p stOk [1] s (pendParam (parm p 0 2) (parm p 2 2) v u)) ∧
  (∀ p s u no c, Starts 0x0102 p s u → u.mci.lastCommit = none → no = (u.mci.recordNo / 2 + 1) * 2 + u.boot.headId →
    c = { head := u.boot.headId, recordNo := no, commitTime := arrayTime u, entries := configEntries u } →
    Waits (.commitConfig p) p (.rowCommit no) (packFields [(8, no), (4, (configBytes c).length)]) s
      (metaFlush (addDue (configUnits c) { u with mci := { u.mci with recordNo := no, lastCommit := some u.time.ticks,
                                                                      configInFlight := u.mci.configInFlight ++ [c] } }))) ∧
  (∀ p s u c, Starts 0x0103 p s u → u.mci.committed = some c → Reports (.configRead p) p [configBytes c] [] s u) ∧
  (∀ p s u d, Starts 0x0203 p s u → paramDef (parm p 0 2) = some d → scopeTakes d.scope (parm p 2 1) = true →
    scopeExists (parm p 2 1) (parm p 4 2) u = true → parm p 6 2 ≤ 40 → kindAccepts d.kind (parmBytes p 8 (parm p 6 2)) = true →
    parm p 0 2 ≠ 0x1003 → d.quiesce = [] → p.fetchedFrom < peerRing → journals u = true →
    AnswersMirrored (.scopeParamSet p) p
      (place 0 (.scopeParam ⟨parm p 2 1, parm p 4 2, parm p 0 2, parmBytes p 8 (parm p 6 2)⟩) u).2.1 [0] s
      (place 0 (.scopeParam ⟨parm p 2 1, parm p 4 2, parm p 0 2, parmBytes p 8 (parm p 6 2)⟩) u).2.2) ∧
  (∀ p s u d, Starts 0x0204 p s u → paramDef (parm p 0 2) = some d → scopeTakes d.scope (parm p 2 1) = true →
    scopeExists (parm p 2 1) (parm p 4 2) u = true → (scopeNow (parm p 2 1) (parm p 4 2) (parm p 0 2) u).length ≤ 16 →
    Answers (.scopeParamGet p) p stOk (leBytes 2 (scopeNow (parm p 2 1) (parm p 4 2) (parm p 0 2) u).length
      ++ [BitVec.ofNat 8 (flagBit (paramPending (parm p 0 2) (2 ^ 16 * parm p 2 1 + parm p 4 2) u).isSome)] ++ zeros 5
      ++ scopeNow (parm p 2 1) (parm p 4 2) (parm p 0 2) u) s u)

/-- The commands on domains, namespaces, hosts, object domains, clients and holds, on operands they take (R193, R373-R379, R404, Table 20-14). -/
def Obligations.TableCommandsComplete : Prop :=
  (∀ p s u k, Starts 0x0200 p s u → journals u = true → domainAt (parm p 0 1) u = none → kekSlot (parm p 1 1) = true → parm p 2 1 ≤ 9 →
    parm p 3 1 ≤ 3 → bitOf (parm p 4 1) 0 = true → 32 ≤ p.data.length → p.busError = false → isKeyOwner (parm p 0 1) u = true →
    gauntletKey (parm p 1 1) u = some k →
    Completes (.domainCreate p) s (endCommand p (beginEpoch p (parm p 0 1) (parm p 1 1) 1 k []
      (changeTable (.domain (parm p 0 1) (parm p 1 1) (parm p 2 1) (parm p 3 1) (p.data.take 32)) u).2))) ∧
  (∀ p s u x, Starts 0x0201 p s u → domainAt (parm p 0 1) u = some x → journals u = true → u.map.namespaces.any (fun n => n.domain == parm p 0 1) = false →
    u.map.objdoms.any (fun o => o.domain == parm p 0 1) = false → liveEpochs x = [] →
    AnswersMirrored (.domainDelete p) p (changeTable (.domainGone (parm p 0 1)) u).1 [] s (changeTable (.domainGone (parm p 0 1)) u).2) ∧
  (∀ p s u x, Starts 0x0202 p s u → domainAt (parm p 0 1) u = some x → Reports (.domainGet p) p [domainEntry x true] [] s u) ∧
  (∀ p s u id m t, Starts 0x0210 p s u → journals u = true → (domainAt (parm p 0 1) u).isSome = true → nsShapeOk (parm p 8 8) (parm p 1 1) = true →
    parm p 2 1 ≤ 2 → createNs (parm p 0 1) (parm p 8 8) (parm p 1 1) (parm p 2 1) none u = some (id, m, t) →
    AnswersMirrored (.nsCreate p) p m (leBytes 2 id) s t) ∧
  (∀ p s u n, Starts 0x0211 p s u → journals u = true → nsAt (parm p 0 2) u = some n → nsPinned n.id u = false →
    Answers (.nsDelete p) p stOk [] s (deleteNs n u)) ∧
  (∀ p s u, Starts 0x0212 p s u → parm p 0 2 ≤ 1024 →
    Reports (.nsList p) p ((sortByKey (fun (n : Namespace) => [(n.id : Int)])
      (u.map.namespaces.filter (fun n => decide (parm p 0 2 ≤ n.id)))).map (fun n => nsEntry n u)) [] s u) ∧
  (∀ p s u i, Starts 0x0220 p s u → journals u = true → p.busError = false → 0 < parm p 0 2 → parm p 0 2 ≤ 223 → parm p 0 2 ≤ p.data.length →
    hostIndex (p.data.take (parm p 0 2)) u = none → firstIndex 1024 (fun i => (lookup i u.map.hosts).isNone) = some i →
    AnswersMirrored (.hostAdd p) p (changeTable (.host i (p.data.take (parm p 0 2))) u).1 (leBytes 2 i) s
      (changeTable (.host i (p.data.take (parm p 0 2))) u).2) ∧
  (∀ p s u, Starts 0x0221 p s u → journals u = true → (lookup (parm p 0 2) u.map.hosts).isSome = true →
    u.map.namespaces.any (fun n => n.hosts.contains (parm p 0 2)) = false →
    AnswersMirrored (.hostRemove p) p (changeTable (.hostGone (parm p 0 2)) u).1 [] s (changeTable (.hostGone (parm p 0 2)) u).2) ∧
  (∀ p s u n, Starts 0x0222 p s u → journals u = true → nsAt (parm p 0 2) u = some n → (lookup (parm p 2 2) u.map.hosts).isSome = true →
    (parm p 4 1 = 1 → n.hosts.contains (parm p 2 2) = false →
      AnswersMirrored (.nsAttach p) p (attachNs n [parm p 2 2] true u).1 [] s (attachNs n [parm p 2 2] true u).2) ∧
    (parm p 4 1 = 2 → n.hosts.contains (parm p 2 2) = true →
      AnswersMirrored (.nsDetach p) p (attachNs n [parm p 2 2] false u).1 [] s (attachNs n [parm p 2 2] false u).2)) ∧
  (∀ p s u, Starts 0x0230 p s u → journals u = true → objdomAt (parm p 0 1) u = none → (domainAt (parm p 1 1) u).isSome = true → parm p 2 1 ≤ 1 →
    AnswersMirrored (.objdomCreate p) p (changeTable (.objdom ⟨parm p 0 1, parm p 1 1, parm p 2 1, []⟩) u).1 [] s
      (changeTable (.objdom ⟨parm p 0 1, parm p 1 1, parm p 2 1, []⟩) u).2) ∧
  (∀ p s u, Starts 0x0231 p s u → journals u = true → (objdomAt (parm p 0 1) u).isSome = true →
    u.map.objects.any (fun o => o.objDomain == parm p 0 1 && holdStands o u) = false → (snapsOf 2 (parm p 0 1) u).any (fun x => snapInUse x u) = false →
    AnswersMirrored (.objdomDelete p) p (changeTable (.objdomGone (parm p 0 1)) (objdomDropped (parm p 0 1) u)).1 [] s
      (settle (changeTable (.objdomGone (parm p 0 1)) (objdomDropped (parm p 0 1) u)).2)) ∧
  (∀ p s u o, Starts 0x0232 p s u → journals u = true → objdomAt (parm p 0 1) u = some o →
    (parm p 1 1 = 1 → o.clients.contains (parm p 8 16) = false → o.clients.length < 256 →
      AnswersMirrored (.clientAdd p) p (changeTable (.objdom { o with clients := o.clients ++ [parm p 8 16] }) u).1 [] s
        (changeTable (.objdom { o with clients := o.clients ++ [parm p 8 16] }) u).2) ∧
    (parm p 1 1 = 2 → o.clients.contains (parm p 8 16) = true →
      AnswersMirrored (.clientRemove p) p (changeTable (.objdom { o with clients := o.clients.filter (· != parm p 8 16) }) u).1 [] s
        (changeTable (.objdom { o with clients := o.clients.filter (· != parm p 8 16) }) u).2)) ∧
  (∀ p s u d o j m t, Starts 0x0233 p s u → objdomAt (parm p 0 1) u = some d → objectAt (parm p 8 8) u = some o → o.objDomain = d.id →
    journals u = true → d.owner = u.boot.headId → place (leNat (o.key.take 1) % 4) (.object { o with holdFlags := 0, holdUntil := 0 }) u = (j, m, t) →
    AnswersMirrored (.holdClear p) p m [] s
      (almanac (Config.recordType 0x0233) (packFields [(1, d.id), (8, parm p 8 8)]) (sweepVersions d.id t)))

/-- The Almanac, firmware, telemetry, event and ticket-dump commands on operands they take (R528-R545, R547-R552, Table 20-14). -/
def Obligations.RecordCommandsComplete : Prop :=
  (∀ p s u, Starts 0x0600 p s u → Reports (.almanacStatus p) p [almStatusRecord u] ((almStatusRecord u).take 24) s u) ∧
  (∀ p s u asked fit, Starts 0x0601 p s u → u.boot.mode ≠ .boot → u.boot.mode ≠ .recovery → u.alm.oldestSeq ≤ parm p 0 8 →
    asked = (readable (parm p 0 8) u.alm).take (parm p 8 4) → fit = readFit (parm p 8 4) (4096 * p.dataPages.toNat) asked →
    Reports (.almanacRead p) p (asked.map (·.2)) (packFields [(4, fit.length), (8, (fit.getLast?.map (·.1.seq + 1)).getD (parm p 0 8)),
      (8, u.alm.oldestSeq)]) s (raiseReadMark p fit u)) ∧
  (∀ p s u n t, Starts 0x0602 p s u → almEarly u = false → u.alm.queueReady = true → stagedBytes u.alm + almLen 36 ≤ stagingSize →
    u.alm.newestSeq < almLastSeq →
    n = ((u.alm.ring.flatMap (·.2) ++ u.alm.staged).filter (fun r =>
      decide (u.alm.oldestSeq ≤ r.seq) && decide (r.seq ≤ min (parm p 0 8) u.alm.newestSeq))).length →
    t = almStage 0x0603 (packFields [(1, p.fetchedFrom), (1, 0), (2, (refOf p).tag)] ++ padTo 8 (p.authBlock.take 8)
      ++ packFields [(8, u.alm.oldestSeq), (8, min (parm p 0 8) u.alm.newestSeq), (8, n)]) u →
    Completes (.almanacClear p) s (almDrain (waitOn p (.almUnit t.alm.newestSeq) [] t).2)) ∧
  (∀ p s u t, Starts 0x0700 p s u → u.fw.state ≠ 3 → p.busError = false → u.boot.mode ≠ .boot → 0 < parm p 0 4 → parm p 0 4 ≤ 65536 →
    mediaOk (p.data.take (parm p 0 4)) = true → u.fw.manifest = none → fwTake (p.data.take (parm p 0 4)) u = some t →
    Completes (.fwManifestPut p) s (if fwSigned (p.data.take (parm p 0 4)) = true
      then complete (refOf p) stOk [] (fwSync (updateAttn (fwManifestRecord (p.data.take (parm p 0 4)) true t)))
      else complete (refOf p) stAuthFailed [] (fwManifestRecord (p.data.take (parm p 0 4)) false u))) ∧
  (∀ p s u m, Starts 0x0701 p s u → u.fw.state ≠ 3 → p.busError = false → u.fw.manifest = some m → parm p 0 4 < fwCount m →
    fwMatches m (parm p 0 4) (p.data.take (fwPieceLen m (parm p 0 4))) = true → lookup (parm p 0 4) u.fw.pieces = none →
    Completes (.piecePut p) s (endCommand p (fwStore p m (parm p 0 4) (p.data.take (fwPieceLen m (parm p 0 4))) u))) ∧
  (∀ p s u, Starts 0x0702 p s u → p.fetchedFrom < peerRing → Reports (.fwStatus p) p [fwReport u] (fwResult u) s u) ∧
  (∀ p s u m bad, Starts 0x0703 p s u → u.fw.manifest = some m → u.fw.state = 2 → u.mci.waits.any (fun w => w.kind == .activation) = false →
    fwMode u = .active → u.headland.peerPresent = false →
    Completes (.fwActivate p bad) s (fwBegin m bad (waitOn p .activation [] u).2)) ∧
  (∀ p s u m, Starts 0x0704 p s u → u.fw.manifest = some m → u.fw.state ≠ 3 →
    Answers (.fwDiscard p) p stOk [] s (fwForget (fwSupersede (fun r => r.imageId == fwId m && r.kind != 3 && !fwActivated r u)
      ((List.range (fwCount m)).foldl (fun st n => endWaits (.fwPiece n) (some stAborted) none st) u)))) ∧
  (∀ p s u n, Starts 0x0A00 p s u → groupSize (parm p 0 1) = some n → 0 < parm p 2 1 → parm p 1 1 + parm p 2 1 ≤ n →
    Reports (.telemetryGet p) p ((List.range (parm p 2 1)).map (fun k => telemetryRecord (parm p 0 1) (parm p 1 1 + k) u)) [] s u) ∧
  (∀ p s u, Starts 0x0A01 p s u → Answers (.telemetryClear p) p stOk [] s
    (almanac (Config.recordType 0x0A01) [] (clearHead (clearServices (clearPaths (clearMemories (clearEngines u))))))) ∧
  (∀ p s u, Starts 0x0A02 p s u → p.busError = false → parm p 0 2 ≤ u.mci.events.length → parm p 0 2 ≤ 128 * p.dataPages.toNat →
    Answers (.eventRead p) p stOk (leBytes 2 (parm p 0 2)
      ++ leBytes 2 (tellDropped { u with mci := { u.mci with events := u.mci.events.drop (parm p 0 2) } }).mci.events.length) s
      (hswSync (bufferWrite p ((u.mci.events.take (parm p 0 2)).flatMap eventBytes)
        (tellDropped { u with mci := { u.mci with events := u.mci.events.drop (parm p 0 2) } })))) ∧
  (∀ p s u, Starts 0x0A03 p s u → Reports (.mciStats p) p [[u.mci.mciCommands, u.mci.badPackets, u.mci.badDoorbells, u.mci.authFailures,
    u.mci.watchdogExpiries, u.mci.replyRingFull, u.mci.eventsLost].flatMap (leBytes 8)] [] s u) ∧
  (∀ p s u, Starts 0x0F01 p s u → parm p 0 1 < 32 → parm p 1 1 < 4 → parm p 4 4 < 2 ^ 19 →
    Reports (.ticketDump p) p ((sortByKey (fun (t : Ticket) => [(refSlot t.ref : Int)])
      ((queueAt (parm p 0 1) (parm p 1 1) u).filter (fun t => decide (parm p 4 4 ≤ refSlot t.ref)))).map ticketBytes) [] s u)

/-- The rows of the Tines (R81, R114-R128): dispatch, gleaning, the ticket watchdog, epochs, the run-ahead window, parking and hand-over. -/
def Obligations.TicketRowsComplete : Prop :=
  (∀ tine run s u q t, tineUsable tine s = true → freeTine tine s = (true, u) →
    chooseQueue (harrowAt (tineHarrow tine) u) (fun x => homeEligible (tineHarrow tine) x u && mayDispatch (harrowAt (tineHarrow tine) u).park x) = some q →
    (queueAt (tineHarrow tine) q u).find? (fun x => homeEligible (tineHarrow tine) x u && mayDispatch (harrowAt (tineHarrow tine) u).park x) = some t →
    Completes (.ticketDispatch tine run) s (runOn tine t run (modifyHarrow (tineHarrow tine) (fun x => { x with dispatches := (x.dispatches + 1) % 64 })
      (dequeue t (noteConflict (tineHarrow tine) (keyConflict (passedQueues (harrowAt (tineHarrow tine) u) q
        ++ (queueAt (tineHarrow tine) q u).takeWhile (fun x => x != t)) u) u))))) ∧
  (∀ tine run s u v t, tineUsable tine s = true → freeTine tine s = (true, u) → (harrowAt (tineHarrow tine) u).park = .running →
    ((harrowAt (tineHarrow tine) u).queues.flatten).any (fun x => homeEligible (tineHarrow tine) x u) = false →
    (rescueCompress (tineHarrow tine) u = some (v, t) → Completes (.glean tine run) s (takeGleaned tine v t run u)) ∧
    (rescueCompress (tineHarrow tine) u = none → (gleanOrder (tineHarrow tine) (paramNat 0x0500 (tineHarrow tine / 8) u)).find?
        (fun x => decide (paramNat 0x0501 0 u ≤ (gleanable (tineHarrow tine) x u).length)) = some v →
      (((harrowAt v u).queues.find? (fun q => q.any (fun x => thiefMay (tineHarrow tine) x u))).getD []).reverse.find?
        (fun x => thiefMay (tineHarrow tine) x u) = some t →
      Completes (.glean tine run) s (takeGleaned tine v t run
        (noteConflict (tineHarrow tine) (keyConflict (gleanPassed v t u) u) u)))) ∧
  (∀ tine s r u, s.tines.running.find? (fun r => r.tine == tine) = some r → waitsForBuffer r.ticket s = false →
    u = abortEngine r.ticket (abortJobs (fun j => j.tine == tine) (tineExpiry tine (leaveTine tine s))) →
    (r.ticket.expiries = 0 → Completes (.ticketWatchdog tine) s (parkedYield (requeueTicket tine r u))) ∧
    (r.ticket.expiries ≠ 0 → Completes (.ticketWatchdog tine) s (parkedYield (endTicket r.ticket tine (!tineUsable tine u) u)))) ∧
  (∀ e s u x, s.boot.mode ≠ .dump → u = answerDecided e s → epochEntry e u = some x → x.state = .opened →
    Completes (.epochCommit (some e) none) s (settle (growFar (releaseEpoch e
      (mapWaiters (fun ws => mapIf (fun w => w.epoch == some e) (fun w => { w with epoch := none }) ws) (clearProv x.handles
        (modifyHarrow e.harrow (fun h => { h with commits := bump h.commits, windowDecided := h.windowDecided + 1 })
          (modifyEpoch e (fun y => { y with state := .committed }) u)))))))) ∧
  (∀ e w x s, s.boot.mode ≠ .dump → workAt w s = some x → x.decision = .miss → x.epoch = e →
    Completes (.epochCommit e (some w)) s (settle (growFar (commitMiss x s)))) ∧
  (∀ e s x, epochEntry e (answerDecided e s) = some x → x.state = .opened → Completes (.epochSquash e) s (squashEpoch e (answerDecided e s))) ∧
  (∀ s, Completes .runAheadWindow s ((List.range 32).foldl (fun st h => modifyHarrow h (fun x =>
    { x with budget := nextBudget (paramNat 0x0305 h s) x, windowSquashes := 0, windowDecided := 0 }) st) s)) ∧
  (∀ h s, (harrowAt h s).park = .draining → harrowDrained h s = true → handingOver h s = false →
    Completes (.harrowDrained h) s (notePaceParked (modifyHarrow h (fun x => { x with park := .parked }) s))) ∧
  (∀ h s, (harrowAt h s).park = .draining → handingOver h s = false → Completes (.parkDrainTimeout h) s
    (modifyHarrow h (fun x => { x with park := .running, parkRetry := true, parkAbandoned := bump x.parkAbandoned }) s)) ∧
  (∀ h s t, (harrowAt h s).parkRetry = true → t = modifyHarrow h (fun x => { x with parkRetry := false }) s →
    Completes (.parkRetryTimer h) s (modifyHarrow h (parkStep (inParkedSet h t)) t)) ∧
  (∀ h s, (harrowAt h s).park = .waking → Completes (.harrowWakeDone h) s (notePaceParked (modifyHarrow h (fun x =>
    { x with park := if x.parkAgain then .draining else .running, parkAgain := false }) s))) ∧
  (∀ h s, handingOver h s = true → (harrowAt h s).park = .parked → h < 31 → Completes (.handover h) s
    (applyParkedSet (modifyFw (fun f => { f with handed := h + 1, abandons := 0 }) (fwHandoverRecord h stOk (runHandover h s)))))

/-- The rows of the ingest path (R55, R63, R70-R79, R85-R87, R206): composition, cutting, fingerprints, decisions, sealing, commits, journal and
checkpoint timers, and the resumption of admission. -/
def Obligations.IngestRowsComplete : Prop :=
  (∀ ns g h f s rs, s.boot.mode ≠ .dump → rs = composable (.grain ns g) s → rs ≠ [] →
    s.ingest.works.any (fun w => w.target == .grain ns g) = false → pageReady (.grain ns g) s = true →
    (∀ plain s1, (rs.any (fun r => decide (r.off = 0) && decide (r.len = 16384)) = true ∨ entryChunk (liveEntry ns g s) = 0) →
      layOver rs (zeros 16384) s = (plain, s1) → Completes (.grainComposition ns g h f) s
        (settle (startChunk (h % 32) (.grain ns g) plain (rs.map (fun r => (r.quadrant, r.seq))) s1))) ∧
    (∀ b facts s1 plain s2, rs.any (fun r => decide (r.off = 0) && decide (r.len = 16384)) = false → entryChunk (liveEntry ns g s) ≠ 0 →
      chunkRead ((g + ns) % 4) (liveEntry ns g s) f s = (.ok b, facts, s1) → layOver rs (padTo 16384 b) s1 = (plain, s2) →
      Completes (.grainComposition ns g h f) s
        (settle (startChunk (h % 32) (.grain ns g) plain (rs.map (fun r => (r.quadrant, r.seq))) s2)))) ∧
  (∀ o h s x bytes s1 n rest, s.boot.mode ≠ .dump → s.ingest.objects.find? (fun x => x.number == o) = some x →
    objectBuffered o x.cut (min 131072 (x.landed - x.cut)) s = (bytes, s1) →
    cutLength bytes (x.size == some x.landed && decide (x.landed - x.cut ≤ 131072)) = some n →
    rest = (if x.size == some x.landed && decide (x.cut + n = x.landed) && (objectAt o s).isSome then s.ingest.objects.erase x
        else mapIf (fun y => y.number == o) (fun y => { y with cut := x.cut + n }) s.ingest.objects) →
    Completes (.chunkCut o h) s (settle (startChunk (h % 32) (.piece o x.cut n) (bytes.take n) []
      (modifyIngest (fun i => { i with objects := rest }) s1)))) ∧
  (∀ w s x, workAt w s = some x → x.fp = none → ∃ s1, s1 = countIngest (harrowQuadrant x.harrow) (fun c => { c with chunksIn := bump c.chunksIn })
      (modifyWork w (fun y => { y with fp := some (fingerprint x.domain x.plain s), level := (domainNow x.domain s).1, keyEpoch := (domainNow x.domain s).2 }) s) ∧
    (openEpoch x.harrow w s1 = none → Completes (.fingerprint w) s s1) ∧
    (∀ e s2, openEpoch x.harrow w s1 = some (e, s2) →
      Completes (.fingerprint w) s (workReserve { x with epoch := some e } (modifyWork w (fun y => { y with epoch := some e }) s2)))) ∧
  (∀ w fpos f s x fp hot s1, s.boot.mode ≠ .dump → workAt w s = some x → x.fp = some fp → x.decision = .undecided → decisionWaits x s = false →
    winnowHot (hotKey x.domain fp) s = (hot, s1) →
    (hot = none → s.ingest.filter.contains (hotKey x.domain fp) = false → fpos = false →
      Completes (.dedupLookup w fpos f) s (settle (decideMiss x false s1))) ∧
    (∀ e s2, hot = some e.page → indexFind x.domain fp s = some e →
      confirmHit x e.entry f (countIngest (harrowQuadrant x.harrow) (fun c => { c with hitsWinnow := bump c.hitsWinnow }) s1) = (true, s2) →
      Completes (.dedupLookup w fpos f) s (settle (applyHit x e.entry s2)))) ∧
  (∀ a n s b, baleAt a n s = some b → b.closed = false → s.boot.mode ≠ .dump → (acreAt a s).any (fun x => x.torn.contains n) = false →
    Completes (.baleSealTimeout a n) s
      (sealBale a n (countIngest b.quadrant (fun c => { c with balesSealedTimeout := bump c.balesSealedTimeout }) s))) ∧
  (∀ a n s b x, baleAt a n s = some b → acreAt a s = some x → b.closed = true → b.waiting = [] → b.victims = [] → s.boot.mode ≠ .dump →
    x.committed + 1 ≠ x.nBales → Completes (.baleCommit a n) s (dumpRelease (settle (hswSync (modifyAcre a (fun y => { y with committed := y.committed + 1 })
      { s with media := { s.media with bales := s.media.bales.filter (fun y => !(y.acre == a && y.bale == n)) } }))))) ∧
  (∀ s, s.boot.mode ≠ .dump → journalUnits s ≠ [] → Completes .journalPersistTimeout s (metaFlush s)) ∧
  (∀ n r s, s.journal.rows.find? (fun r => r.id == n) = some r → (rowCommit n s).journal.rows.any (fun x => x.id == n) = false →
    Completes (.metadataRowCommit n) s (hswSync (afterRows (almUnits r.units (configCommitted r.units (rowCommit n s)))))) ∧
  (∀ s, s.boot.mode ≠ .dump → Completes .checkpointTimer s
    (advanceCheckpoint (beginCheckpoint { s with journal := { s.journal with lastCheckpoint := s.time.ticks } }))) ∧
  (∀ s, s.ingest.stopped = true → wbBytes s + 5 * wbCapacity s / 100 ≤ wbLimit s →
    Completes .admissionResume s (resumeSheaf (resumeIo (postOwed (modifyIngest (fun i => { i with stopped := false }) s))))) ∧
  (∀ q e f s l a home r data facts t, entryLoc e s = some l → acreHome l.acre s = some a → l.len ≠ 0 → home = plotHome a l.plot l.bale →
    rebuildRead (q % 4) e l a [] 131072 f
      (countReads (q % 4) (fun c => { c with readLate := bump c.readLate }) (dieSilent home.1 home.2.1 s)) = (some (.good data r), facts, t) →
    Completes (.readTimeoutExpiry q e f) s (hswSync (cacheFill e data true t)))

/-- The Winnow rows (R132-R149): a search with its result word, an insertion, a deletion with its count, ageing and clearing of a bank, the hourly
ageing and the rebuild. -/
def Obligations.WinnowRowsComplete : Prop :=
  (∀ t m key nc bad s n u, winnowSearch (t % 8) (m % 16) (BitVec.toNat key) nc bad s = (n, u) →
    Completes (.search t m key nc bad) s (emit (.winnowResult (BitVec.ofNat 64 n)) u)) ∧
  (∀ t key d k s, winnowGuarded (t % 8) k s = false → Completes (.insert t key d k) s (winnowInsert (t % 8) (BitVec.toNat key) d s)) ∧
  (∀ t m key k s n u, winnowGuarded (t % 8) k s = false → winnowDelete (t % 8) (m % 16) (BitVec.toNat key) s = (n, u) →
    Completes (.winnowDelete t m key k) s (emit (.winnowDeleted n) u)) ∧
  (∀ b s, Completes (.age b) s (modifyEntries (fun es => es.map (fun x => if x.1 / 8192 = b then (x.1, setHits (x.2.hits / 2) x.2) else x)) s)) ∧
  (∀ b s, Completes (.clear b) s (modifyEntries (fun es => es.filter (fun x => x.1 / 8192 != b)) s)) ∧
  (∀ s, Completes .winnowAgeTimer s ((tableBanks (wtDesc 0 s)).foldl (fun st b => winnowAge b st) s)) ∧
  (∀ s, s.boot.mode ≠ .boot → s.boot.mode ≠ .recovery → s.boot.mode ≠ .inventory →
    Completes .winnowRebuild s (refill (paramNat 0x0600 0 s) (newestFirst s) s))

/-- The Voxca and cipher rows (R152-R184, R194): compression, verification, decompression, cipher requests, completions and key slots. -/
def Obligations.EngineRowsComplete : Prop :=
  (∀ h e w s x, workAt w s = some x → x.stored = none → x.stream = none → (x.epoch.isSome = true ∨ x.decision = .miss) → x.level = 0 → Completes (.voxcaCompress h e w none) s (storeRaw x s)) ∧
  (∀ h e w s x, workAt w s = some x → x.stored = none → x.stream = none → (x.epoch.isSome = true ∨ x.decision = .miss) → 0 < x.level → allQuarantined s = false → compressorUsable h e s = true →
    (vxEncode x.level x.plain).length ≤ vxLimit x.plain.length →
    Completes (.voxcaCompress h e w none) s (modifyWork w (fun y => { y with stream := some (vxEncode x.level x.plain, h, e) })
      (modifySlice h (fun y => { y with compInBytes := bump y.compInBytes x.plain.length }) s))) ∧
  (∀ w s x b h e, workAt w s = some x → x.stream = some (b, h, e) → vxCode (verifyStatus b x.plain) = vxOk →
    Completes (.voxcaVerify w) s (modifyWork w (fun y => { y with stored := some (1, b), stream := none })
      (modifySlice h (fun y => { y with compOutBytes := bump y.compOutBytes b.length }) (compressorStatus h e (verifyStatus b x.plain) s)))) ∧
  (∀ h e b stop f s st out t, decompressorUsable h e s = true → 8 ≤ b.length → b.length ≤ 262144 → decodeTwice h e b stop f s = (st, out, t) →
    Completes (.voxcaDecompress h e b stop f) s (if out.isEmpty then t else emit (.plaintext out) t)) ∧
  (∀ op c tine unit e r s, (op, c) ∈ [(CipherOp.gcmEncrypt, Instr.gcmEncrypt tine unit e r), (.gcmDecrypt, .gcmDecrypt tine unit e r),
      (.hmac, .hmac tine unit e r)] →
    (∀ u t, cipherBad op r s = true → undefNat s = (u, t) → Completes c s (emit
      (.cipherDone s.cipher.nextJob (cipherWord stBadParam (u % 64) (u / 64) 0)) (modifyCipher (fun x => { x with nextJob := s.cipher.nextJob + 1 }) t))) ∧
    (∀ q k, cipherBad op r s = false → q = tine / 128 % 4 → (if op = .hmac then some q else routeFrom q s) = some k →
      Completes c s (cipherSchedule (touchSlot r.keySlot (countComplex (k % 4) (fun x => { x with requests := bump x.requests })
        (countPassed q ((k + 4 - q) % 4) (modifyCipher (fun x => { x with nextJob := s.cipher.nextJob + 1, jobs := x.jobs ++
          [{ id := s.cipher.nextJob, op := op, req := r, harrow := unit, tine := tine, epoch := e, complex := k, pair := none,
             repeats := none }] }) s))))))) ∧
  (∀ n s j, s.cipher.jobs.find? (fun j => j.id == n) = some j → j.pair.isSome = true ∨ j.op = .hmac → (slotAt j.req.keySlot s).state ≠ .empty →
    Completes (.cipherCompletion n false) s (cipherYield (cipherSchedule (cipherFault j s))) ∧
    (∀ t, cipherResult j s = (none, t) → Completes (.cipherCompletion n true) s (cipherYield (cipherSchedule (finishJob j stAuthFailed 0
      (withholdDst j (countComplex (j.complex % 4) (fun x => { x with tagFails := bump x.tagFails }) t)))))) ∧
    (∀ b t, cipherResult j s = (some b, t) → Completes (.cipherCompletion n true) s (cipherYield (cipherSchedule (finishJob j stOk b.length
      (bufferPut j.req.dst 0 b (countComplex (j.complex % 4) (fun x => { x with bytes := bump x.bytes j.req.len }) t))))))) ∧
  (∀ n s l, s.cipher.loads.find? (fun l => l.slot == n) = some l → (slotAt n s).state = .loading → Completes (.slotLoadDone n) s (slotLoadDone n s)) ∧
  (∀ n s t, (slotAt n s).state = .evicting → slotRefs n s = 0 →
    t = countComplexes (fun c => { c with slotEvictions := bump c.slotEvictions }) (setSlot n emptySlot s) →
    t.cipher.loads.find? (fun l => l.slot == n) = none → Completes (.slotEvictDone n) s t) ∧
  (∀ d e s, s.headland.peerPresent = true → s.cipher.advances.any (fun a => a.domain == d && a.epoch == e && a.step == 4) = true →
    Completes (.keyLoadAckTimeout d e) s (retireEpoch d e stInternal s))

/-- The vault rows (R186-R192): what an alarm, the loss and the rise of VAUX and the three gauntlet commands leave of the vault. -/
def Obligations.VaultRowsComplete : Prop :=
  (∀ c bit working s s1 s2, (c, bit, working) ∈ [(Instr.vaultAlarmSupply, 1, false), (.vaultAlarmTemp, 2, false), (.vaultAlarmMesh, 3, true),
      (.vaultAlarmTamper, 4, true), (.vaultAlarmCheck, 5, false)] →
    s1 = { s with vault := { s.vault with gauntlet := List.replicate 16 none, status := s.vault.status ||| (1#32 <<< bit) } } →
    s2 = (if working then eraseWorking s1 else s1) →
    ∃ t, exec c s = .next t ∧ t = securityEvent detailNone (almanac 0x0301 (packFields [(4, vaultStatus s2), (2, vaultStatus s / 2 ^ 16)]) s2) ∧
      t.vault = s1.vault ∧ t.pending = s.pending) ∧
  (∀ s, exec .vauxLoss s = .next { s with vault := { s.vault with gauntlet := List.replicate 16 none, vaux := false } }) ∧
  (∀ s, s.vault.vaux = false → exec .vauxRise s = .next (hswSync { s with vault := { gauntlet := List.replicate 16 none, status := 1, vaux := true } })) ∧
  (∀ p alarm s u, Starts 0x0301 p s u → parm p 0 1 < 16 →
    exec (.keyLoadGauntlet p alarm) s = .next (match keyUnwrap transportKey (parmBytes p 8 40) with
      | none => complete (refOf p) stAuthFailed [] u
      | some key => complete (refOf p) (if alarm then stAborted else stOk) []
          { u with vault := { u.vault with gauntlet := u.vault.gauntlet.set (parm p 0 1) (if alarm then none else some key) } })) ∧
  (∀ p s u, Starts 0x0302 p s u → exec (.keyClearGauntlet p) s = .next (complete (refOf p) stOk []
    { u with vault := { u.vault with gauntlet := (List.range 16).map (fun i =>
      if (BitVec.ofNat 16 (parm p 0 2)).getLsbD i then none else u.vault.gauntlet.getD i none) } })) ∧
  (∀ p s u t, Starts 0x0303 p s u →
    t = hswSync { u with vault := { u.vault with status := u.vault.status &&& ~~~ (BitVec.ofNat 32 (parm p 0 1 % 64)) } } →
    exec (.keyAlarmClear p) s = .next (complete (refOf p) stOk (leBytes 4 (vaultStatus t)) t))

/-- The media, patrol and far-store rows (R216-R240, R419-R428): reclaim, scrub, a lost bridge, leaving READONLY, temperature polling and the
patrols of both stores. -/
def Obligations.MediaRowsComplete : Prop :=
  (∀ f s c a, reclaimRuns s = true → s.media.reclaims.find? (fun j => j.step == 3 && j.copies.isEmpty && !movedOut j s) = none →
    chooseVictim s = some (c, a) → Completes (.reclaimVictim f) s (stepReclaim a.num (copyVictim a.num f (workTicket 0x0F (reclaimPrio c s) a.quadrant
      (packFields [(4, a.num), (4, c)]) (acreTo a.num 3 { s with media := { s.media with reclaims := s.media.reclaims ++
        [⟨a.num, if c = 2 then some a.marked else none, 3, [], 0, []⟩] } }))))) ∧
  (∀ f s, servingMode s.boot.mode = true → Completes (.scrubTimer f) s (hswSync (scrubPass (leasedBridges s) f s))) ∧
  (∀ b s, (furrowAt b s).link.state ≠ .up → (headBridge b s).state ≠ 4 → Completes (.bridgeLostTimer b) s
    (hswSync (sealOn b (leaveMedia (mediaRecord 4 b 0xFF 4 (mediaAttn (modifyHeadBridge b (fun h => { h with state := 4 }) s))))))) ∧
  (∀ s t, s.media.readonly = true → readonlyLasts s = false →
    t = readonlyEvent false { s with media := { s.media with readonly := false, spaceShort := false, idsShort := false } } →
    (t.boot.mode = .readonly → Completes .readonlyExit s (setMode t.boot.underReadonly 0 t)) ∧
    (t.boot.mode = .quiesce → Completes .readonlyExit s { t with boot := { t.boot with underQuiesce := t.boot.underReadonly } })) ∧
  (∀ s, Completes .tempHistHour s (pollBridges (modifyMedia (fun m => { m with bridges := m.bridges.map tempHour }) s))) ∧
  (∀ es s, Completes (.nsScrubTimer es) s (es.foldl nearScrubError s)) ∧
  (∀ es s, Completes (.fsScrubTimer es) s (es.foldl farScrubError s)) ∧
  (∀ s, s.mem.locationPagedOn = true → Completes .locationPagedDaily s (healthRecord 0x000A
    (packFields [(1, 2), (8, 0), (8, bump s.mem.locationPaged)]) (modifyMem (fun m => { m with locationPaged := bump m.locationPaged }) s)))

/-- The rows of a Furrow link and its lease (R246-R267): training, LINK frames, replay, discards, responses, timeouts and lease timers. -/
def Obligations.FurrowRowsComplete : Prop :=
  (∀ b s, (furrowAt b s).link.state = .training → (furrowAt b s).link.attempts < 2 →
    Completes (.furrowTrainTimeout b) s (furrowLink b (fun e => (linkTrainFail e, [])) s)) ∧
  (∀ b p c s, (furrowAt b s).link.state = .training → s.boot.mode ≠ .boot → s.boot.mode ≠ .recovery → (headBridge b s).ident = none →
    Completes (.furrowTrainingDone b p 1 c) s (furrowFlush b (furrowIssue b 1 [] [] .identify (furrowLink b (linkTrained furrowKind p c) s)))) ∧
  (∀ b p c s, (furrowAt b s).link.state = .training → (headBridge b s).ident.isSome = true →
    Completes (.furrowTrainingDone b p 1 c) s (furrowFlush b (furrowLink b (linkTrained furrowKind p c) s))) ∧
  (∀ b p v c s, (furrowAt b s).link.state = .training → v ≠ 1 → Completes (.furrowTrainingDone b p v c) s (trainFailed b s)) ∧
  (∀ b s, Completes (.furrowRetrainRetry b) s (furrowLink b (fun e => (linkRetry e, [])) s)) ∧
  (∀ b nak ack credit s, Completes (.furrowLinkFrame b nak ack credit) s (furrowLink b (linkOnLink nak ack credit) s)) ∧
  (∀ b s, Completes (.furrowReplayTimeout b) s (furrowLink b linkReplayTimeout s)) ∧
  (∀ b s, Completes (.furrowBlockLockLoss b) s (furrowLink b linkDrops s)) ∧
  (∀ b d s, Completes (.furrowFrameDiscard b d) s (furrowLink b (linkDiscard furrowKind d s.time.ticks) s)) ∧
  (∀ b frames s u t ms e r, u = furrowLink b (linkFrames furrowKind false s.time.ticks frames) s →
    takeMessage (fun _ => true) (furrowAt b u).link = (some ms, e) → t = furrowLink b (fun _ => (e, [])) u → ms.getLast? = some r → r.ftype = 2 →
    (∀ c, outstanding b r.tag t = some c → Completes (.furrowResponse b frames) s
      (settle (hswSync (response b c r.code r.payload ((ms.dropLast).map (·.payload)) (bridgeWasReset b c (retireCmd b r.tag t)))))) ∧
    (outstanding b r.tag t = none → Completes (.furrowResponse b frames) s
      (modifyFurrow b (fun f => { f with lateResponses := bump f.lateResponses }) t))) ∧
  (∀ b tag s c, outstanding b tag s = some c → c.opcode = 3 → Completes (.furrowResponseTimeout b tag) s
    (settle (hswSync (programFailed b c (retireBlock b (cwDie (cmdAddr c)) (cwBlock (cmdAddr c)) (dieSilent b (cwDie (cmdAddr c)) (retireCmd b tag s))))))) ∧
  (∀ b tag s c, outstanding b tag s = some c → c.opcode ≠ 3 → c.opcode ≠ 4 → c.use = .leaseAcquire →
    Completes (.furrowResponseTimeout b tag) s (settle (hswSync (acquire b (retireCmd b tag s))))) ∧
  (∀ s, Completes .leaseRenewTimer s
    ((leasedBridges s).foldl (fun st b => furrowIssue b 8 (leBytes 2 (leasePeriod s)) [] .leaseRenew st) s)) ∧
  (∀ b s, inWindow b s = false → leases b s = true → Completes (.leaseWindowEnd b) s
    (checkWarnings (leaseChanged b (modifyFurrow b (fun f => { f with leased := false }) s)))) ∧
  (∀ b s, (furrowAt b s).acquireAt.isSome = true → s.boot.mode ≠ .yield → Completes (.leaseAcquireRetry b) s (acquire b s))

/-- The commands of a bridge, its lease's end and its reset (R241-R257, R265): on a bridge that reports no internal fault. -/
def Obligations.BridgeRowsComplete : Prop :=
  (∀ b p tag load s, load < (bridgeIdent b).cmdSlots → Completes (.bridgeIdentify b p tag load) s
    (respond b p tag 0 (identBytes (bridgeIdent b) p) [] (modifyBridge b (fun x => { x with resetSeen := false }) s))) ∧
  (∀ b p tag load a n r soft reps s cws rs, BridgeTakes b load s → cws = (nandBlock b (cwDie a) (cwBlock a) s).drop (cwIndex a) →
    rs = (List.range n).map (fun k => readReport r soft (reps.getD k 0)) →
    (0 < n → n ≤ 64 → addrOk (bridgeIdent b) a n = true → r ≤ (bridgeIdent b).retryLevels → n ≤ cws.length →
      Completes (.dieRead b p tag load a n r soft reps false) s (respond b p tag (if (rs.filter (fun x => bitOf x 15)).length = 0 then 0 else 6)
        (packFields [(1, n - (rs.filter (fun x => bitOf x 15)).length), (1, (rs.filter (fun x => bitOf x 15)).length),
          (2, (rs.filter (fun x => !bitOf x 15)).foldl (fun m x => max m (bitsOf x 10 0)) 0)])
        ((List.range n).map (fun k => (rs.getD k 0, if bitOf (rs.getD k 0) 15 then [] else cws.getD k []))) s)) ∧
    (n = 0 ∨ 64 < n ∨ addrOk (bridgeIdent b) a n = false ∨ (bridgeIdent b).retryLevels < r ∨ cws.length < n →
      Completes (.dieRead b p tag load a n r soft reps false) s (respond b p tag 4 [] [] s))) ∧
  (∀ b p tag load now a d done s old, BridgeTakes b load s → holdsLease b p now s = true → 4 ≤ d.length → d.length ≤ 64 → d.length % 4 = 0 →
    d.any (fun x => x.length != 4096) = false → addrOk (bridgeIdent b) a d.length = true → old = nandBlock b (cwDie a) (cwBlock a) s →
    old.length = cwIndex a → d.length ≤ 4 * done → Completes (.dieProgram b p tag load now a d done false) s
      (respond b p tag 0 (leBytes 1 d.length) [] (modifyBridge b (fun x =>
        { x with nand := insertAt (nandKey (cwDie a) (cwBlock a)) { cws := old ++ d } x.nand }) s))) ∧
  (∀ b p tag load now a d done s, BridgeTakes b load s → holdsLease b p now s = false →
    Completes (.dieProgram b p tag load now a d done false) s (respond b p tag 5 [] [] s)) ∧
  (∀ b p tag load now a us s, BridgeTakes b load s → holdsLease b p now s = true → addrOk (bridgeIdent b) a 1 = true → cwIndex a = 0 →
    Completes (.dieErase b p tag load now a us true false) s (respond b p tag 0 (leBytes 4 us) []
      (modifyBridge b (fun x => { x with nand := removeAt (nandKey (cwDie a) (cwBlock a)) x.nand }) s))) ∧
  (∀ b p tag load now a us ok s, BridgeTakes b load s → holdsLease b p now s = false →
    Completes (.dieErase b p tag load now a us ok false) s (respond b p tag 5 [] [] s)) ∧
  (∀ b p tag now busy temp c0 c1 s, (if p = 0 then c0 else c1) < (bridgeIdent b).cmdSlots → Completes (.status b p tag now busy temp c0 c1) s
    (respond b p tag 0 (packFields [(8, leaseWord (leaseTick now (bridgeAt b s)) now), (4, busy), (1, BitVec.toNat temp), (2, c0), (2, c1)]) []
      (modifyBridge b (fun _ => leaseTick now (bridgeAt b s)) s))) ∧
  (∀ b p tag load page start dies s n total bytes, BridgeTakes b load s → telemetryPage b page start dies s = some (n, total, bytes) →
    Completes (.telemetry b p tag load page start dies) s (respond b p tag 0 (packFields [(2, n), (2, total)]) [(0, bytes)] s)) ∧
  (∀ b p tag load ms now s, BridgeTakes b load s → leaseMsOk ms = true → (leaseTick now (bridgeAt b s)).owner = 3 →
    Completes (.leaseAcquire b p tag load ms now) s (respond b p tag 0 (leBytes 8 (leaseWord (leaseGrant p ms now (leaseTick now (bridgeAt b s))) now)) []
      (modifyBridge b (fun _ => leaseGrant p ms now (leaseTick now (bridgeAt b s))) s))) ∧
  (∀ b p tag load ms now s, BridgeTakes b load s → leaseMsOk ms = true → (leaseTick now (bridgeAt b s)).owner = p →
    Completes (.leaseRenew b p tag load ms now) s (respond b p tag 0 (leBytes 8 (leaseWord (leaseRestart ms now (leaseTick now (bridgeAt b s))) now)) []
      (modifyBridge b (fun _ => leaseRestart ms now (leaseTick now (bridgeAt b s))) s))) ∧
  (∀ b p tag load now s x, BridgeTakes b load s → (leaseTick now (bridgeAt b s)).owner = p →
    x = { leaseTick now (bridgeAt b s) with owner := 3 } →
    Completes (.leaseRelease b p tag load now) s (respond b p tag 0 (leBytes 8 (leaseWord x now)) [] (modifyBridge b (fun _ => x) s))) ∧
  (∀ b p tag load mask both s, BridgeTakes b load s → Completes (.fence b p tag load mask both) s (respond b p tag 0 [] [] s)) ∧
  (∀ b p tag load ms now s, (bridgeAt b s).internalFault = false → (bridgeIdent b).cmdSlots ≤ load →
    Completes (.leaseAcquire b p tag load ms now) s (respond b p tag 2 [] [] s)) ∧
  (∀ b now s, Completes (.leaseExpiry b now) s (modifyBridge b (leaseTick now) s)) ∧
  (∀ b s, Completes (.bridgeReset b) s (furrowLink b linkDrops (modifyBridge b (fun x => { resetBridge with nand := x.nand, resetSeen := true }) s)))

/-- The snapshot rows and the replication frames and timers (R292-R305): barriers drained, snapshot pages settled, and a difference's frames in
the stage that takes them. -/
def Obligations.ReplicationRowsComplete : Prop :=
  (∀ job s j, s.repl.jobs.find? (fun j => j.id == job) = some j → barrierDrained j s = true → j.forDiff = none → j.forExport = none →
    Completes (.snapBarrierDrained job) s (resumeRepl (resumeSheaf (snapReply j (placeSnap j s).1 (placeSnap j s).2.1 (placeSnap j s).2.2)))) ∧
  (∀ ns num page s x c, s.map.snaps.find? (fun x => x.kind == 1 && x.id == ns && x.num == num && x.deleting) = some x →
    snapCopy ns num page s = some c → (pageVersions ns page s).takeWhile (fun x => x.num != num) = [] →
    Completes (.snapDeletePage ns num page) s (dropCopy c ((distinct (c.entries.map (·.1))).foldl (fun st g =>
      settleGrain (copyEntry c g) (match (((pageVersions ns page s).dropWhile (fun x => x.num != num)).drop 1).head? with
        | some n => resolveGrain ns n.num g st
        | none => liveEntry ns g st) none st) s))) ∧
  (∀ qp f s s0 u, s.boot.mode ≠ .dump → arrive 0x10 3 (qpHome qp s) qp 1 s = (true, s0) → u = takeFrame qp f s0 →
    ((sesAt qp u).isSome = true → Completes (.hello qp f) s (abortQp qp 6 u)) ∧
    (∀ b body nonce v x w y t, (sesAt qp u).isSome = false → qpConnected qp u = true → qpAt qp u = some y → y.service = .replication → y.active = false →
      b = overlay f 4 (leBytes 1 1) → body = b.drop 32 → draw 8 u = (nonce, v) → x = newSession qp (fieldAt b 0x10 3) body nonce u →
      w = modifyRepl (fun r => { r with sessions := r.sessions ++ [x] }) v →
      ((openFrame x 1 b w).1 = .ok body → body.length = 32 → fieldAt body 0x19 1 = 1 → sessionsFull v = false → snapMode w = true →
        acceptsFrom x w = true → deriveKey qp w = (true, t) → Completes (.hello qp f) s (sendFrame qp 2 (helloBody nonce x.slot 0 t) t)) ∧
      ((openFrame x 1 b w).1 = .ok body → body.length = 32 → fieldAt body 0x19 1 ≠ 1 → Completes (.hello qp f) s (refuseHello qp 9 x w)))) ∧
  (∀ qp f b x y s t u, Opened 2 qp f b x y s t → y.stage = 1 → y.initiator = true → b.length = 32 → fieldAt b 0x1A 2 = 0 → fieldAt b 0x19 1 = 1 →
    deriveKey qp (modifySes qp (fun z => { z with nonceR := slice b 0x10 8, stage := 2 }) t) = (true, u) → (sesAt qp u).isSome = true →
    ∃ z, sesAt qp u = some z ∧ Completes (.helloReply qp f) s (sendFrame qp 3 (confirmBody z) u)) ∧
  (∀ qp f b x y s t, Opened 3 qp f b x y s t → y.stage = 2 → b = confirmBody y → y.initiator = false →
    Completes (.confirm qp f) s (sendFrame qp 3 b (modifySes qp (fun z => { z with stage := 3 }) t))) ∧
  (∀ qp f b x y s t u, Opened 3 qp f b x y s t → y.stage = 2 → b = confirmBody y → y.initiator = true →
    u = modifySes qp (fun z => { z with stage := 3 }) t → Completes (.confirm qp f) s (sendFrame qp 0x10 (diffBegin y u) u)) ∧
  (∀ qp f b x y s t, Opened 0x10 qp f b x y s t → y.stage = 3 → y.initiator = false →
    Completes (.diffBegin qp f) s (diffBeginRow qp y b t)) ∧
  (∀ qp f b x y s t r bs last, Opened 0x11 qp f b x y s t → y.stage = 3 → y.initiator = true → fieldAt b 0 2 = 0 → pairAt y.pair t = some r →
    y.kind = 1 → bs = grainBatches r.source y.baseNum y.goalNum t → last = [] →
    Completes (.diffReady qp f) s (startBatch qp true (modifySes qp (fun z =>
      { z with batches := bs, batch := min (fieldAt b 4 4) bs.length, lastBegins := last, stage := 4 }) t))) ∧
  (∀ qp f b x y s t n es, Opened 0x12 qp f b x y s t → y.stage = 4 → y.initiator = false → y.kind = 1 → n = fieldAt b 4 2 → 0 < n → n ≤ 1024 →
    b.length = 8 + 48 * n → es = parseEntries n (b.drop 8) → Completes (.fpList qp f) s (sendFrame qp 0x13
      (packFields [(4, fieldAt b 0 4), (4, 0)] ++ bitmapOf n (fun i => ((es[i]?).map (fun e => entryMissing (scopeDomain 1 y.target t) e t)).getD false))
      (modifySes qp (fun z => { z with inbound := es, batch := fieldAt b 0 4 })
        (es.foldl (fun st e => if e.zero then st else (winnowHot (hotKey (scopeDomain 1 y.target t) e.fp) st).2) t)))) ∧
  (∀ qp f b facts x y s t, Opened 0x13 qp f b x y s t → y.stage = 4 → y.initiator = true → fieldAt b 0 4 = y.batch →
    Completes (.fpWant qp f facts) s (sendChunks qp y (slice b 8 128) facts t)) ∧
  (∀ qp f b x y s t e plain, Opened 0x14 qp f b x y s t → y.stage = 4 → y.initiator = false → y.inbound[fieldAt b 4 2]? = some e →
    fieldAt b 0 4 = y.batch → b.length = 16 + fieldAt b 12 4 → fieldAt b 6 1 ≠ 1 → plain = slice b 16 (fieldAt b 12 4) →
    plain.length = fieldAt b 8 4 → plain.length = e.len → fingerprint (scopeDomain y.kind y.target t) plain t = e.fp →
    Completes (.chunkData qp f) s (modifySes qp (fun z =>
      { z with inbound := modifyNth (fun (y : ReplEntry) => { y with data := some plain }) (fieldAt b 4 2) z.inbound }) t)) ∧
  (∀ qp f b x y s t, Opened 0x15 qp f b x y s t → y.stage = 4 → y.initiator = false → fieldAt b 0 4 = y.batch → y.inbound ≠ [] →
    Completes (.batchEnd qp f) s (settle (applyBatch qp t))) ∧
  (∀ qp f b facts x y s t, Opened 0x16 qp f b x y s t → y.stage = 4 → y.initiator = true → fieldAt b 0 4 = y.batch → fieldAt b 4 2 = 0 →
    Completes (.batchDone qp f facts) s (startBatch qp false (modifySes qp (fun z => { z with batch := y.batch + 1 }) t))) ∧
  (∀ qp f b x y s t, Opened 0x17 qp f b x y s t → y.stage = 4 → y.initiator = false → y.kind = 2 → b.length = 128 → y.object = none →
    (parseObject b).state = 3 → currentVersion y.target (parseObject b).key t = none →
    Completes (.objectBegin qp f) s (modifySes qp (fun z => { z with object := none }) t)) ∧
  (∀ qp f b x y s t r n, Opened 0x17 qp f b x y s t → y.stage = 4 → y.initiator = false → y.kind = 2 → b.length = 128 → y.object = none →
    r = parseObject b → r.state ≠ 3 → currentVersion y.target r.key t = none → n = freeNumber t →
    Completes (.objectBegin qp f) s (settle (closeObject qp (modifySes qp (fun z => { z with object := some (n, r) }) (modifyIngest (fun i =>
      { i with objects := i.objects ++ [{ number := n, objDomain := y.target, domain := scopeDomain 2 y.target t,
                                          quadrant := leNat (r.key.take 1) % 4, landed := 0, size := none, cut := 0 }] }) t))))) ∧
  (∀ qp f b x y s t, Opened 0x1F qp f b x y s t → y.stage = 4 → y.initiator = false → Completes (.diffEnd qp f) s (diffEnd qp y b t)) ∧
  (∀ qp f b x y s t r, Opened 0x20 qp f b x y s t → y.stage = 5 → y.initiator = true → fieldAt b 0 2 = 0 → pairAt y.pair t = some r →
    Completes (.diffDone qp f) s (dropSession ((sesAt qp (placePair { r with lastTargetJseq := y.goal } t).2.2).getD y) 0 (some (fieldAt b 2 2))
      (placePair { r with lastTargetJseq := y.goal } t).2.2)) ∧
  (∀ qp f b x y s t, Opened 0x30 qp f b x y s t → Completes (.keepalive qp f) s t) ∧
  (∀ qp f b x y s t, Opened 0x3F qp f b x y s t → Completes (.replAbort qp f) s
    (dropSession y (fieldAt b 0 2) none (countRepl (fun k => { k with aborts := bump k.aborts }) t))) ∧
  (∀ qp s x, sesAt qp s = some x → x.wslot.isSome = true → Completes (.replKeepaliveTimer qp) s (sendFrame qp 0x30 [] s)) ∧
  (∀ qp s x, sesAt qp s = some x → Completes (.replIdleTimeout qp) s (abortSession x 7 s)) ∧
  (∀ n s, Completes (.exportStallTimeout n) s (exportOver n 2 s))

/-- The Headland's link layer (R241-R247, R308-R315): training, acknowledgement and credit, replay, discards and the messages it cannot take. -/
def Obligations.HeadlandLinkRowsComplete : Prop :=
  (∀ q s, Completes (.headlandTrainTimeout q false) s (subStep q (fun e => (linkTrainFail e, [])) s)) ∧
  (∀ q s e, s.headland.links[q]? = some e → e.state = .training → Completes (.headlandTrainTimeout q true) s
    (almanac 0x0402 (packFields [(1, 2), (2, q), (1, 2)]) (subStep q (fun e =>
      if e.state = .training then ({ linkTrainFail { e with attempts := 2 } with linkDowns := bump e.linkDowns }, []) else (e, [])) s))) ∧
  (∀ q s, Completes (.headlandRetrainRetry q) s (subStep q (fun e => (linkRetry e, [])) s)) ∧
  (∀ q nak ack credit s, Completes (.headlandLinkFrame q nak ack credit) s (handoffDelivered (subStep q (linkOnLink nak ack credit) s))) ∧
  (∀ q s, Completes (.headlandReplayTimeout q) s (resendHandoff (subStep q linkReplayTimeout s))) ∧
  (∀ q preset s e, s.headland.txOff = none → s.headland.links[q]? = some e → q < 4 → e.state = .training → s.headland.linkState ≠ .down →
    Completes (.headlandTrainingDone q preset) s
      (subStep q (linkTrained headlandKind preset 255) (modifyHeadland (fun h => { h with lanes := h.lanes.set q 0xFF }) s))) ∧
  (∀ q preset s e, s.headland.txOff = none → s.headland.links[q]? = some e → q < 4 → e.state = .training → s.headland.linkState = .down →
    Completes (.headlandTrainingDone q preset) s
      (newcomerResumes (linkCame (subStep q (linkTrained headlandKind preset 255) (modifyHeadland (fun h => { h with lanes := h.lanes.set q 0xFF }) s))))) ∧
  (∀ q s, subUp q s = true → Completes (.headlandBlockLockLoss q) s (resendHandoff (modifyHeadland (fun h => { h with lanes := h.lanes.set q 0 })
    (subStep q linkDrops s)))) ∧
  (∀ q d s, Completes (.headlandFrameDiscard q d) s (resendHandoff (subStep q (linkDiscard headlandKind d s.time.ticks) s))) ∧
  (∀ q fs s m u, headReceive (fun x => !(decide (withheld (s.headland.links.getD q resetLinkEnd) ≠ 0) && (x.code == 0x10 || x.code == 0x12))) q fs s
      = (some m, u) → Completes (.headlandBadMessage q fs) s
    (almanac 0x0502 (packFields [(2, m.1), (1, q), (4, m.2.length)]) (countHead (fun c => { c with badMessages := bump c.badMessages }) u)))

/-- The Headland's messages (Table 13-3), each heard by this head: heartbeats, mirroring, forwards, keys, IDs, erases, yield, return, images. -/
def Obligations.HeadlandMessagesComplete : Prop :=
  (∀ q fs b s t, Heard 0x0001 q fs (fun _ => 0x68) b s t → Completes (.heartbeat q fs) s (heartbeatFrom b t)) ∧
  (∀ q fs b s t, Heard 0x0002 q fs (fun b => 0x20 + 16 * fieldAt b 0x1C 2) b s t → Completes (.inventory q fs) s (inventoryFrom b t)) ∧
  (∀ q fs b s t, Heard 0x0003 q fs (fun _ => 8) b s t → Completes (.activeReady q fs) s (modifyHeadland (fun h => { h with peer := { h.peer with ready := true } }) t)) ∧
  (∀ q fs b s t, HeardRoot 0x0010 q fs mirrorLeast b s t → t.headland.held.contains (fieldAt b 0 8) = true → Completes (.mirror q fs) s
    (sendMirrorAck q (fieldAt b 0 8) 1 (countHead (fun c => { c with mirrorDuplicates := bump c.mirrorDuplicates }) t))) ∧
  (∀ q fs b s t u, HeardRoot 0x0010 q fs mirrorLeast b s t → t.headland.held.contains (fieldAt b 0 8) = false → bitOf (fieldAt b 9 1) 0 = false →
    bitOf (fieldAt b 9 1) 1 = false →
    storeRecords q (fieldAt b 0 8) (splitRecords (fieldAt b 0x0A 2) (slice b 0x20 (fieldAt b 0x0C 4))) none t = some u → Completes (.mirror q fs) s
      (resyncCheck (answerDrains (sendMirrorAck q (fieldAt b 0 8) 0
        (modifyHeadland (fun h => { h with held := h.held ++ [fieldAt b 0 8] }) (growFar u)))))) ∧
  (∀ q fs b s t m, Heard 0x0011 q fs (fun _ => 10) b s t → fieldAt b 8 2 ≠ 3 → fieldAt b 8 2 ≠ 2 →
    t.headland.msgs.find? (fun m => m.mseq == fieldAt b 0 8 && m.sub == q) = some m →
    Completes (.mirrorAck q fs) s (mirrorAcknowledged q (fieldAt b 0 8) t)) ∧
  (∀ q fs b s t, Heard 0x0011 q fs (fun _ => 10) b s t → fieldAt b 8 2 ≠ 3 → t.headland.msgs.find? (fun m => m.mseq == fieldAt b 0 8 && m.sub == q) = none →
    Completes (.mirrorAck q fs) s (countIngest q (fun c => { c with mirrorLate := bump c.mirrorLate }) t)) ∧
  (∀ q fs b s t, HeardRoot 0x0012 q fs (fun b => 8 + 8 * fieldAt b 0 4) b s t → Completes (.release q fs) s (releaseMirrored b t)) ∧
  (∀ q fs b s t, Heard 0x0013 q fs (fun _ => 16) b s t → Completes (.resyncBegin q fs) s (resyncBegins b t)) ∧
  (∀ q fs b s t, Heard 0x0014 q fs (fun _ => 8) b s t → t.headland.ret.inbound = true →
    Completes (.resyncEnd q fs) s (resyncCheck (modifyReturn (fun r => if r.inbound then { r with inboundEnd := some (fieldAt b 0 8) } else r) t))) ∧
  (∀ q fs b s t, Heard 0x0020 q fs (fun _ => 0x50) b s t → Completes (.forward q fs) s (forwardFrom (q % 4) b t)) ∧
  (∀ q fs b bad s t, Heard 0x0021 q fs (fun _ => 0x20) b s t → Completes (.forwardDone q fs bad) s (forwardDoneFrom b bad t)) ∧
  (∀ q fs b s t, Heard 0x0030 q fs (fun _ => 40) b s t → Completes (.keyLoad q fs) s (keyLoadFrom (q % 4) b t)) ∧
  (∀ q fs b s t, Heard 0x0031 q fs (fun _ => 4) b s t → Completes (.keyLoadAck q fs) s (keyLoadAckFrom b t)) ∧
  (∀ q fs b s t total kept given, Heard 0x0040 q fs (fun _ => 4) b s t → total = (t.headland.idBlocks.map (·.2)).sum →
    splitBlocks (total - total / 2) t.headland.idBlocks = (kept, given) → Completes (.idBlockReq q fs) s
      (headSend 0 0x0041 (packFields [(4, (idBlockList given).length), (4, 0)] ++ (idBlockList given).flatMap (leBytes 4))
        (noteGrant (1 - t.boot.headId) given (modifyHeadland (fun h => { h with idBlocks := kept }) t)))) ∧
  (∀ q fs b s t, Heard 0x0041 q fs (fun b => 8 + 4 * fieldAt b 0 4) b s t → Completes (.idBlockGrant q fs) s (idGranted b t)) ∧
  (∀ q fs b s t, Heard 0x0050 q fs (fun _ => 16) b s t → leases (fieldAt b 8 1) t = true → Completes (.eraseReq q fs) s
    (furrowIssue (fieldAt b 8 1) 4 (leBytes 8 (cwAddr (fieldAt b 9 1) (fieldAt b 12 4) 0)) [] (.peerErase (fieldAt b 0 4) (fieldAt b 4 1))
      (furrowIssue (fieldAt b 8 1) 10 (leBytes 4 (2 ^ fieldAt b 9 1) ++ [1]) [] .fence t))) ∧
  (∀ q fs b s t, Heard 0x0051 q fs (fun _ => 8) b s t →
    Completes (.eraseDone q fs) s (victimBlock (fieldAt b 0 4) (fieldAt b 4 1) (statusOk (BitVec.ofNat 16 (fieldAt b 6 2))) t)) ∧
  (∀ q fs b s t, Heard 0x0052 q fs (fun _ => 16) b s t → Completes (.drainReq q fs) s
    (answerDrains (modifyHeadland (fun h => { h with drains := h.drains ++ [(q % 4, fieldAt b 0 4, fieldAt b 8 8)] }) t))) ∧
  (∀ q fs b s t, Heard 0x0053 q fs (fun _ => 16) b s t → t.media.reclaims.any (fun j => j.acre == fieldAt b 0 4 && j.step == 5) = true →
    Completes (.drainReply q fs) s (eraseVictim (fieldAt b 0 4) t)) ∧
  (∀ q fs b s t, Heard 0x0060 q fs (fun _ => 16) b s t → Completes (.yieldNotice q fs) s
    (peerStepsAside (modifyHeadland (fun h => { h with peer := { h.peer with lastMseq := fieldAt b 8 8 } }) t))) ∧
  (∀ q fs b s t, Heard 0x0061 q fs (fun _ => 3) b s t → fieldAt b 2 1 = 1 → Completes (.handoff q fs) s (handoffReleased (fieldAt b 0 2) t)) ∧
  (∀ q fs b s t, Heard 0x0061 q fs (fun _ => 3) b s t → fieldAt b 2 1 = 2 → Completes (.handoff q fs) s (handoffAcquired (fieldAt b 0 2) t)) ∧
  (∀ q fs b s t, Heard 0x0061 q fs (fun _ => 3) b s t → fieldAt b 2 1 = 3 → Completes (.handoff q fs) s (returnComplete t)) ∧
  (∀ q fs b s t, Heard 0x0062 q fs (fun _ => 0) b s t → baseMode t = .sole → t.headland.ret.resyncAcked = true → t.headland.takeover = none →
    Completes (.returnReq q fs) s (returnAsked t)) ∧
  (∀ q fs b s t, Heard 0x0063 q fs (fun _ => 2) b s t → Completes (.returnGrant q fs) s (returnGranted b t)) ∧
  (∀ q fs b s t, Heard 0x0070 q fs (fun _ => 8) b s t → servingMode t.boot.mode = true → fieldAt b 0 4 = 0xFFFFFFFF →
    Completes (.imageReq q fs) s (sendImage 0xFFFFFFFF t.fw.running.manifest t)) ∧
  (∀ q fs b s t, Heard 0x0071 q fs (fun b => 0x10 + fieldAt b 4 4) b s t → Completes (.imageData q fs) s (imageCame b t))

/-- The Headland's timers and pins (R308, R313-R344, R357-R360): heartbeats, mirror resends and give-up, yield, take-over, waits. -/
def Obligations.HeadlandTimerRowsComplete : Prop :=
  (∀ s u, s.headland.peer.beatSeen = false → s.headland.peerPresent = true → s.boot.mode ≠ .boot → s.boot.mode ≠ .recovery →
    s.headland.txOff = none → u = modifyHeadland (fun h => { h with hbSeq := h.hbSeq + 1 })
      (modifyHeadland (fun h => { h with peer := { h.peer with beatSeen := false } }) (countHead (fun c => { c with hbMissed := bump c.hbMissed }) s)) →
    Completes .heartbeatTimer s (headSendAll 0x0001 (heartbeatBody u) u)) ∧
  (∀ s, Completes .heartbeatLoss s (peerGone s)) ∧
  (∀ n s m q u, s.headland.msgs.find? (fun m => m.mseq == n) = some m → m.noRoom = false → m.sub < 4 →
    u = linkSync (modifyHeadland (fun h => { h with lastWin := some s.time.ticks }) s) → nextSub m.sub u = some q → m.resends < paramNat 0x0D01 0 s →
    Completes (.mirrorTimeout n) s (countHead (fun c => { c with mirrorResends := bump c.mirrorResends }) (headSendOn q 0x0010 m.body
      (modifyHeadland (fun h =>
        { h with msgs := mapIf (fun x => x.mseq == n) (fun x => { x with sub := q, earlier := x.earlier ++ [m.sub], resends := x.resends + 1 }) h.msgs })
        u)))) ∧
  (∀ n s m u, s.headland.msgs.find? (fun m => m.mseq == n) = some m → m.noRoom = false → m.sub < 4 →
    u = linkSync (modifyHeadland (fun h => { h with lastWin := some s.time.ticks }) s) → nextSub m.sub u = none →
    Completes (.mirrorTimeout n) s (modifyHeadland (fun h =>
      { h with msgs := mapIf (fun x => x.mseq == n) (fun x => { x with sub := 4, earlier := x.earlier ++ [m.sub] }) h.msgs }) u)) ∧
  (∀ n s, s.headland.peerPresent = true → s.headland.msgs.any (fun m => m.mseq == n) = true → s.headland.txOff = none →
    Completes (.mirrorGiveup n) s (linkSync (modifyHeadland (fun h => { h with txOff := some s.time.ticks, lanes := [0, 0, 0, 0] })
      ((List.range 4).foldl (fun st q => subLink q (fun e => if e.state = .up then (linkRetrain e, []) else (e, [])) st) s)))) ∧
  (∀ s, Completes .txDisableEnd s (modifyHeadland (fun h => { h with txOff := none }) s)) ∧
  (∀ s, Completes .headlandDegradeClear s (linkSync (modifyHeadland (fun h => { h with lastWin := none }) s))) ∧
  (∀ s, s.headland.yieldInLow = false →
    Completes (.yieldInNAsserted true) s (peerStepsAside (modifyHeadland (fun h => { h with yieldInLow := true }) s))) ∧
  (∀ s, Completes (.yieldInNAsserted false) s (modifyHeadland (fun h => { h with yieldInLow := false }) s)) ∧
  (∀ s, s.boot.mode = .yield → leasedBridges s = [] →
    Completes .yieldLeasesReleased s (selfReset (closeAll (fun _ => true) (modifyHeadland (fun h => { h with yieldOutLow := true }) s)))) ∧
  (∀ tail s x, s.headland.takeover = some x → x.wanted.any (fun b => !leases b s) = false → baseMode s = .sole →
    Completes (.takeoverAdopt tail) s (withAna (adoptAll tail) s)) ∧
  (∀ s, Completes (.supervisorDeadline false) s (cipherYield (parkedYield (modifyHeadland (fun h => { h with supervisorMisses := 0 }) s)))) ∧
  (∀ s, 1 ≤ s.headland.supervisorMisses → Completes (.supervisorDeadline true) s
    (enterYield 1 (modifyHeadland (fun h => { h with supervisorMisses := s.headland.supervisorMisses + 1 }) s))) ∧
  (∀ near far s, near ≤ 1000 → far ≤ 1000 → Completes (.eccWindow near far) s (modifyHeadland (fun h => { h with eccWindows := 0 }) s)) ∧
  (∀ near far s, 1000 < max near far → 9 ≤ s.headland.eccWindows → Completes (.eccWindow near far) s
    (enterYield 2 (modifyHeadland (fun h => { h with eccWindows := s.headland.eccWindows + 1 }) s))) ∧
  (∀ s, s.boot.mode = .inventory → s.headland.peerPresent = false → s.headland.conflict = false → s.headland.newcomer = false →
    0x0B ≤ s.boot.step → Completes .headlandWaitExpiry s (loneStart s)) ∧
  (∀ s, s.boot.mode = .fallow → s.headland.ret.holdFrom.isSome = true →
    Completes .holdDownExpiry s (tryReturn (modifyReturn (fun r => { r with holdEnded := true }) s)))

/-- The front ports' links, address resolution, flow control and windows (R330-R337, Table 14-10). -/
def Obligations.PortRowsComplete : Prop :=
  (∀ l s, lportUsed (l % 32) s = true → Completes (.subPortUp l) s (pumpAll ((ownAddresses (l % 32)
    (raiseEvent 0x0101 (l % 32) 0 (modifyLport (l % 32) (fun p => { p with link := 2, downTold := false, conflicts := [] }) s))).foldl
    (fun st a => transmit (l % 32) (paramNat 0x0E0F 0 st) none (.probe a.2.1) st)
    (raiseEvent 0x0101 (l % 32) 0 (modifyLport (l % 32) (fun p => { p with link := 2, downTold := false, conflicts := [] }) s))))) ∧
  (∀ l s, (lportAt (l % 32) s).link = 2 → Completes (.subPortDown l) s (modifyLport (l % 32) (fun p =>
    { p with link := 0, paused := [], xoff := [], counters := { p.counters with linkDowns := bump p.counters.linkDowns } }) s)) ∧
  (∀ l s, lportUsed (l % 32) s = true → (lportAt (l % 32) s).link ≠ 2 → (lportAt (l % 32) s).downTold = false →
    Completes (.portLinkDown l) s (raiseEvent 0x0102 (l % 32) 0 (modifyLport (l % 32) (fun p => { p with downTold := true }) s))) ∧
  (∀ h l sender target s, FrameTaken h [macBroadcast] l s → isOwnAddress l target s = true → Completes (.arpRequest h sender target) s
    (transmit l (paramNat 0x0E0F 0 s) none (.resolution true target sender h.source) s)) ∧
  (∀ h l sender target s, FrameTaken h (groupMacs (h.lport % 32) s) l s → isOwnAddress l target s = true →
    Completes (.neighbourSolicitation h sender target) s (transmit l (paramNat 0x0E0F 0 s) none (.resolution true target sender h.source) s)) ∧
  (∀ h l a mac s, FrameTaken h [macBroadcast] l s → (ownAddresses l s).find? (fun x => x.2.1 == a) = none →
    Completes (.arpReply h a mac) s (pumpAll (learnNeighbour l a mac s))) ∧
  (∀ h l a mac s x, FrameTaken h [macBroadcast] l s → (ownAddresses l s).find? (fun x => x.2.1 == a) = some x →
    Completes (.arpReply h a mac) s (raiseEvent 0x0106 (detail2 l x.1) 0
      (modifyLport l (fun p => { p with conflicts := p.conflicts ++ [x.1] }) s))) ∧
  (∀ h l a mac s, FrameTaken h (groupMacs (h.lport % 32) s) l s → (ownAddresses l s).find? (fun x => x.2.1 == a) = none →
    Completes (.neighbourAdvertisement h a mac) s (pumpAll (learnNeighbour l a mac s))) ∧
  (∀ h l sender target b s, FrameTaken h [] l s → isOwnAddress l target s = true → b.length ≤ 1500 →
    Completes (.icmpEchoRequest h sender target b) s (transmit l (paramNat 0x0E0F 0 s) (some (target, sender)) (.echo sender b) s)) ∧
  (∀ l prio s, portUp (l % 32) s = true → Completes (.pfcFrame l prio 0) s
    (pauseOver (l % 32) (prio % 8) (countPort (l % 32) (fun c => { c with pfcRx := bumpAt c.pfcRx (prio % 8) }) s))) ∧
  (∀ l prio n s u, portUp (l % 32) s = true → 0 < n → u = countPort (l % 32) (fun c => { c with pfcRx := bumpAt c.pfcRx (prio % 8) }) s →
    (lportAt (l % 32) s).paused = [] → Completes (.pfcFrame l prio n) s (modifyLport (l % 32) (fun p =>
      { p with paused := p.paused.filter (fun x => x.1 != prio % 8) ++ [(prio % 8, s.time.ticks, s.time.ticks + quantaTicks n (portRate (l % 32) s))] }) u)) ∧
  (∀ l prio s, Completes (.pfcPauseEnd l prio) s
    (pumpAll (modifyLport (l % 32) (fun p => { p with paused := p.paused.filter (fun x => x.1 != prio) }) s))) ∧
  (∀ l prio n s, (lportAt (l % 32) s).xoff.any (fun x => x.1 == prio) = true →
    Completes (.pfcRefresh l prio n) s
      (if pfcXon (l % 32) prio s ≤ n then sendPfc (l % 32) prio 0xFFFF s else noteOccupancy (l % 32) prio n s)) ∧
  (∀ l prio s, (lportAt (l % 32) s).xoff.any (fun x => x.1 == prio) = true →
    Completes (.pfcStormTimer l prio true) s (raiseEvent 0x0105 (detail2 (l % 32) prio) 0 s)) ∧
  (∀ l prio s, (lportAt (l % 32) s).paused.any (fun x => x.1 == prio) = true →
    Completes (.pfcStormTimer l prio false) s (raiseEvent 0x0104 (detail2 (l % 32) prio) 0 s)) ∧
  (∀ l c u s, u ≤ paramNat 0x0E13 0 s → Completes (.fecWindow l c u) s (countPort (l % 32) (fun k =>
    { k with fecCorrected := bump k.fecCorrected c, fecUncorrected := bump k.fecUncorrected u }) s)) ∧
  (∀ l c u s, paramNat 0x0E13 0 s < u → Completes (.fecWindow l c u) s (raiseEvent 0x0103 (detail2 (l % 32) u) 0 (countPort (l % 32) (fun k =>
    { k with fecCorrected := bump k.fecCorrected c, fecUncorrected := bump k.fecUncorrected u }) s))) ∧
  (∀ q s k, s.ports.counters[q]? = some k → k.window ≤ 10000 →
    Completes (.ctxPressureWindow q) s (modifyPorts (fun p => { p with counters := modifyNth (fun k => { k with window := 0 }) q p.counters }) s)) ∧
  (∀ q s k, s.ports.counters[q]? = some k → 10000 < k.window → Completes (.ctxPressureWindow q) s (raiseEvent 0x0107 (detail2 q k.window) 0
    (modifyPorts (fun p => { p with counters := modifyNth (fun k => { k with window := 0 }) q p.counters }) s)))

/-- RoCE packets and their timers (R333-R360, Table 14-4): what an accepted packet does in its context, resends, acknowledgements, fetches. -/
def Obligations.RdmaRowsComplete : Prop :=
  (∀ h pos b s c t u, Arrives h c s t → psnSub h.psn c.epsn = 0 → u = takeSend c.index h pos b t →
    ((qpAt (h.qpn % 2 ^ 20) u).map (·.msn)).getD 0 = ((qpAt (h.qpn % 2 ^ 20) s).map (·.msn)).getD 0 → Completes (.send h pos b) s u) ∧
  (∀ h pos b s c t u, Arrives h c s t → psnSub h.psn c.epsn = 0 → u = takeSend c.index h pos b t →
    ((qpAt (h.qpn % 2 ^ 20) u).map (·.msn)).getD 0 ≠ ((qpAt (h.qpn % 2 ^ 20) s).map (·.msn)).getD 0 →
    Completes (.send h pos b) s (endStray (h.qpn % 2 ^ 20) u)) ∧
  (∀ h pos k b s c t u, Arrives h c s t → psnSub h.psn c.epsn = 0 → c.service = .sheaf → u = takeSendInvalidate c.index h pos k b t →
    ((qpAt (h.qpn % 2 ^ 20) u).map (·.msn)).getD 0 = ((qpAt (h.qpn % 2 ^ 20) s).map (·.msn)).getD 0 →
    Completes (.sendWithInvalidate h pos k b) s u) ∧
  (∀ h pos w b s c t, Arrives h c s t → psnSub h.psn c.epsn = 0 → Completes (.rdmaWrite h pos w b) s (takeWrite c.index h pos w b t)) ∧
  (∀ h s c t, Arrives h c s t → psnSub h.psn c.epsn = 0 → Completes (.rdmaReadRequest h) s (nakInvalid c.index t)) ∧
  (∀ h pos b s c t, Arrives h c s t → Completes (.rdmaReadResponse h pos b) s (takeDones (takeReadResponse c.index h pos b t))) ∧
  (∀ h k s c t, Arrives h c s t → Completes (.acknowledge h k) s (takeDones (takeAck c.index h k t))) ∧
  (∀ h s c t, Arrives h c s t → Completes (.cnp h) s (onCnp c.index t)) ∧
  (∀ h s t, PortTakes h s t →
    Completes (.rocePacketOther h 0x1F) s (countPort h.lport (fun k => { k with badOpcodes := bump k.badOpcodes }) t)) ∧
  (∀ h op s c t, Arrives h c s t → psnSub h.psn c.epsn = 0 → op = 0x03 ∨ op = 0x13 → Completes (.rocePacketOther h op) s (nakInvalid c.index t)) ∧
  (∀ q s c, qpAt q s = some c → c.state = .connected → c.sent ≠ [] → c.retries < paramNat 0x0E19 0 s → Completes (.retransmitTimer q) s
    (resendAll q (modifyQp q (fun x => { x with retries := x.retries + 1 }) s))) ∧
  (∀ q s c, qpAt q s = some c → c.rnrWait = true → Completes (.rnrDelayEnd q) s (resendAll q s)) ∧
  (∀ q s c, qpAt q s = some c → 0 < c.unacked → Completes (.ackCoalesceTimer q) s
    (sendResponse c 0x11 ((c.epsn + 2 ^ 24 - 1) % 2 ^ 24) (beBytes 1 0x1F ++ beBytes 3 c.msn) (modifyQp q (fun x => { x with unacked := 0 }) s))) ∧
  (∀ q s, Completes (.contextFetchDone q) s (endStray q (takeDones (contextFetched q s)))) ∧
  (∀ d s m rest u c, s.ports.nakOrders[d]? = some (m :: rest) → u = modifyPorts (fun p => { p with nakOrders := p.nakOrders.set d rest }) s →
    qpAt m.index u = some c → beginsMessage m.body = true → m.head.psn = c.epsn →
    Completes (.stubFetchDone d) s (sendNak m.index 0x21 u))

/-- Connection management and landing-zone rows (R344-R346, R354-R356, Table 14-6): each message and timer in the context state that heeds it. -/
def Obligations.ConnectionRowsComplete : Prop :=
  (∀ r s, portUp r.lport s = true → (∃ a, (ownAddresses r.lport s).find? (fun a => a.2.1 == r.toAddr) = some a) →
    s.ports.qps.find? (fun c => c.state == .connecting && !c.active && c.remoteId == r.commId && c.remoteAddr == r.fromAddr) = none →
    (nextQp s).isSome = true → serviceOf r.service s = none → Completes (.req r) s (reject r 8 [] s)) ∧
  (∀ r s a, portUp r.lport s = true → (ownAddresses r.lport s).find? (fun a => a.2.1 == r.toAddr) = some a →
    s.ports.qps.find? (fun c => c.state == .connecting && !c.active && c.remoteId == r.commId && c.remoteAddr == r.fromAddr) = none →
    (nextQp s).isSome = true → serviceOf r.service s = some .replication → r.transport = 0 → acceptsConnections s = true →
    Completes (.req r) s (acceptReq .replication r a.1 replBuffers [] (fun _ st => st) s)) ∧
  (∀ id n s c, ctxOf id s = some c → c.state = .connecting → Completes (.mra id n) s (modifyQp c.index (fun x => { x with cmTimeout := n }) s)) ∧
  (∀ id r s c, ctxOf id s = some c → c.state = .connecting →
    Completes (.rej id r) s (serviceGone c.service c.index (qpStop c.index .timewait s))) ∧
  (∀ r s c u, ctxOf r.commId s = some c → c.active = true → c.state = .connecting → u = qpConnect c.index (modifyQp c.index (fun x =>
      { x with remoteQpn := r.qpn, remoteId := r.remoteId, epsn := r.psn, pmtu := pathMtu c.lport r.mtu (isIpv4 c.remoteAddr) s }) s) →
    Completes (.rep r) s (serviceUp c.service c.index (transmit c.lport (paramNat 0x0E0F 0 u) (qpPath c u) (.cmRtu (qpnOf c) r.remoteId) u))) ∧
  (∀ id s c, ctxOf id s = some c → c.state = .connecting → c.active = false → Completes (.rtu id) s (qpConnect c.index s)) ∧
  (∀ id remote s c, ctxOf id s = some c → c.state = .connected → Completes (.dreq id remote) s
    (serviceGone c.service c.index (dropSteering c (qpStop c.index .timewait
      (transmit c.lport (paramNat 0x0E0F 0 s) (qpPath c s) (.cmDrep (qpnOf c) remote) s))))) ∧
  (∀ id s c, ctxOf id s = some c → c.state = .error → Completes (.drep id) s (dropSteering c (modifyQp c.index (fun x => { x with state := .timewait })
    (modifyQp c.index (fun x => { x with closing := false }) s)))) ∧
  (∀ q s c, qpAt q s = some c → c.state = .connecting → c.active = false → c.resends < 3 →
    Completes (.repResendTimer q) s (sendRep c (modifyQp q (fun x => { x with resends := x.resends + 1 }) s))) ∧
  (∀ q s c, qpAt q s = some c → c.state = .connecting → c.active = false → 3 ≤ c.resends →
    Completes (.repResendTimer q) s (serviceGone c.service c.index (qpStop c.index .timewait s))) ∧
  (∀ q s c, qpAt q s = some c → c.closing = true → c.state = .error → Completes (.dreqTimeout q) s
    (dropSteering c (modifyQp c.index (fun x => { x with state := .timewait }) (modifyQp c.index (fun x => { x with closing := false }) s)))) ∧
  (∀ q s c, qpAt q s = some c → c.active = true → c.state = .connecting →
    Completes (.reqTimeout q) s (serviceGone c.service c.index (qpStop c.index .timewait s))) ∧
  (∀ q s, Completes (.qpReuseDelay q) s (qpFree q s)) ∧
  (∀ q s c z first next left x, qpAt q s = some c → c.bound = some (z, first, next, left) →
    zoneAt z (modifyQp q (fun c => { c with bound := none, abandoned := true }) s) = some x → Completes (.lzMsgTimeout q) s
      (modifyPorts (fun p => { p with lzAbandoned := bump p.lzAbandoned }) (modifyZone z (fun x => { x with inFlight := x.inFlight - 1 })
        (zoneForget x first (next - first + left) (modifyQp q (fun c => { c with bound := none, abandoned := true }) s))))) ∧
  (∀ n s z u, zoneDone n s = some (z, u) → Completes (.lzRevokeDone n) s (zoneTaken z u))

/-- NVMe admin and I/O commands taken from their queues, and the controller's timers (R368-R388, Tables 15-2 to 15-5). -/
def Obligations.NvmeRowsComplete : Prop :=
  (∀ qp id b c d s t, AdminTaken [(0, [0x7F]), (4, [1])] qp id b c d s t → sqeOpcode c = 0x7F → fieldAt c 4 1 = 1 →
    Completes (.connect qp b) s (connect qp id c d t)) ∧
  (∀ qp id b c d k s t, AdminRuns [(0, [0x7F]), (4, [4])] qp id b c d k s t → sqeOpcode c = 0x7F → fieldAt c 4 1 = 4 →
    Completes (.propertyGet qp b) s (propertyGet qp id c k t)) ∧
  (∀ qp id b c d k s t, AdminRuns [(0, [0x7F]), (4, [0])] qp id b c d k s t → sqeOpcode c = 0x7F → fieldAt c 4 1 = 0 →
    Completes (.ccEn qp b) s (propertySet qp id c k t)) ∧
  (∀ qp id b c d k s t, AdminRuns [(0, [0x7F]), (4, [0])] qp id b c d k s t → sqeOpcode c = 0x7F → fieldAt c 4 1 = 0 →
    Completes (.ccShn qp b) s (propertySet qp id c k t)) ∧
  (∀ qp id b c d k s t, AdminRuns [(0, [0x7F]), (4, [8])] qp id b c d k s t → sqeOpcode c = 0x7F → fieldAt c 4 1 = 8 → fieldAt c 40 2 = 0 →
    Completes (.disconnect qp b) s (disconnect qp id t)) ∧
  (∀ qp id b c d k s t, AdminRuns [(0, [0x06])] qp id b c d k s t → sqeOpcode c = 0x06 → Completes (.nvmeIdentify qp b) s (identify qp id c k t)) ∧
  (∀ qp id b c d k s t, AdminRuns [(0, [0x02])] qp id b c d k s t → sqeOpcode c = 0x02 → Completes (.getLogPage qp b) s (getLog qp id c k t)) ∧
  (∀ qp id b c d k s t, AdminRuns [(0, [0x0D]), dwByte 10 0] qp id b c d k s t → sqeOpcode c = 0x0D → sqeDw 10 c % 16 = 0 →
    Completes (.namespaceCreate qp b) s (namespaceCreate qp id d t)) ∧
  (∀ qp id b c d k s t, AdminRuns [(0, [0x0D]), dwByte 10 1] qp id b c d k s t → sqeOpcode c = 0x0D → sqeDw 10 c % 16 = 1 →
    Completes (.namespaceDelete qp b) s (namespaceDelete qp id (sqeNsid c) t)) ∧
  (∀ qp id b c d k s t, AdminRuns [(0, [0x15]), dwByte 10 0] qp id b c d k s t → sqeOpcode c = 0x15 → sqeDw 10 c % 16 = 0 →
    Completes (.namespaceAttach qp b) s (namespaceAttach qp id (sqeNsid c) true d t)) ∧
  (∀ qp id b c d k s t, AdminRuns [(0, [0x15]), dwByte 10 1] qp id b c d k s t → sqeOpcode c = 0x15 → sqeDw 10 c % 16 = 1 →
    Completes (.namespaceDetach qp b) s (namespaceAttach qp id (sqeNsid c) false d t)) ∧
  (∀ qp id b c d k s t, AdminRuns [(0, [0x08])] qp id b c d k s t → sqeOpcode c = 0x08 → Completes (.abort qp b) s (abortCmd qp id c k t)) ∧
  (∀ qp id b c d k s t, AdminRuns [(0, [0x09]), dwByte 10 0x02] qp id b c d k s t → sqeOpcode c = 0x09 → sqeDw 10 c % 256 = 0x02 →
    bitOf (sqeDw 10 c) 31 = false → sqeDw 11 c % 32 ≤ 3 →
    Completes (.setFeaturesPowerManagement qp b) s (nvDone qp id 0 0 (setPower k.id (sqeDw 11 c % 32) t))) ∧
  (∀ qp id b c d k s t n m, AdminRuns [(0, [0x09]), dwByte 10 0x07] qp id b c d k s t → sqeOpcode c = 0x09 → sqeDw 10 c % 256 = 0x07 →
    bitOf (sqeDw 10 c) 31 = false → k.granted = none → k.ioSeen = false → sqeDw 11 c % 65536 ≠ 65535 → sqeDw 11 c / 65536 ≠ 65535 →
    n = min (sqeDw 11 c % 65536 + 1) (paramNat 0x0F02 0 t) → m = min (sqeDw 11 c / 65536 + 1) (paramNat 0x0F02 0 t) →
    Completes (.setFeaturesNumberOfQueues qp b) s
      (nvDone qp id (n - 1 + 65536 * (m - 1)) 0 (modifyCtrl k.id (fun x => { x with granted := some (min n m) }) t))) ∧
  (∀ qp id b c d k s t v, AdminRuns [(0, [0x09]), dwByte 10 0x0B] qp id b c d k s t → sqeOpcode c = 0x09 → sqeDw 10 c % 256 = 0x0B →
    bitOf (sqeDw 10 c) 31 = false → v = sqeDw 11 c → v % 256 + 256 * flagBit (bitOf v 8) + 2048 * flagBit (bitOf v 11) = v →
    Completes (.setFeaturesAsyncEventConfig qp b) s (nvDone qp id 0 0 (modifyCtrl k.id (fun x => { x with aec := v }) t))) ∧
  (∀ qp id b c d k s t es, AdminRuns [(0, [0x09]), dwByte 10 0x0C] qp id b c d k s t → sqeOpcode c = 0x09 → sqeDw 10 c % 256 = 0x0C →
    bitOf (sqeDw 10 c) 31 = false → es = (List.range 32).map (fun i => fieldAt d (8 * i) 8) → apstOk es = true →
    Completes (.setFeaturesApst qp b) s (nvDone qp id 0 0 (modifyCtrl k.id (fun x => { x with apste := bitOf (sqeDw 11 c) 0, apst := es }) t))) ∧
  (∀ qp id b c d k s t, AdminRuns [(0, [0x09]), dwByte 10 0x0F] qp id b c d k s t → sqeOpcode c = 0x09 → sqeDw 10 c % 256 = 0x0F →
    bitOf (sqeDw 10 c) 31 = false → sqeDw 11 c ≠ 0 → Completes (.setFeaturesKeepAliveTimer qp b) s
      (nvDone qp id 0 0 (modifyCtrl k.id (fun x => { x with kato := (sqeDw 11 c + 999) / 1000, katoFrom := t.time.ticks }) t))) ∧
  (∀ qp id b c d k s t, AdminRuns [(0, [0x0A])] qp id b c d k s t → sqeOpcode c = 0x0A → sqeDw 10 c % 256 = 0x02 → bitsOf (sqeDw 10 c) 10 8 = 0 →
    Completes (.getFeatures qp b) s (nvDone qp id k.ps 0 t)) ∧
  (∀ qp id b c d k s t, AdminRuns [(0, [0x0C])] qp id b c d k s t → sqeOpcode c = 0x0C →
    (t.nvme.commands.filter (fun x => x.qp == qp && x.stage == .event)).length < 16 → k.events = [] →
    Completes (.asynchronousEventRequest qp b) s (modifyNvCmd qp id (fun x => { x with stage := .event }) t)) ∧
  (∀ qp id b c d k s t, AdminRuns [(0, [0x18])] qp id b c d k s t → sqeOpcode c = 0x18 → Completes (.keepAlive qp b) s (nvDone qp id 0 0 t)) ∧
  (∀ id s, (ctrlAt id s).isSome = true → nvHolds false s = false →
    Completes (.katoExpiry id) s (endController id (countNvme (fun k => { k with katoExpired := bump k.katoExpired }) s))) ∧
  (∀ id n s k, ctrlAt id s = some k → k.apste = true → k.apst.getD n 0 ≠ 0 → ioIdle id s = true →
    Completes (.apstIdleTimer id n) s (setPower id (bitsOf (k.apst.getD n 0) 7 3) s)) ∧
  (∀ qp id b f s u, IoTaken 2 qp id b f s u → Completes (.read qp b f) s (nvRead qp id f u)) ∧
  (∀ qp id b s u, IoTaken 0 qp id b .quiet s u → Completes (.flush qp b) s (nvFlush qp id u)) ∧
  (∀ qp id b s u, (IoTaken 1 qp id b .quiet s u → Completes (.write qp b) s (nvAdmit qp id .quiet u)) ∧
    (IoTaken 8 qp id b .quiet s u → Completes (.writeZeroes qp b) s (nvAdmit qp id .quiet u)) ∧
    (IoTaken 9 qp id b .quiet s u → Completes (.datasetManagement qp b) s (nvAdmit qp id .quiet u))) ∧
  (∀ qp id b f s u, IoTaken 5 qp id b f s u → Completes (.compare qp b f) s (nvAdmit qp id f u))

/-- Sheaf's verbs, each taken at its object domain's owner with nothing that refuses or holds it, and the PUT timer (R392-R409). -/
def Obligations.SheafRowsComplete : Prop :=
  (∀ qp tag b r d s t, SheafRuns 1 qp tag b r .quiet d s t → bitOf (fieldAt r 8 1) 0 = true → Completes (.version qp b) s
    (shOk qp tag (packFields [(1, 1), (1, t.boot.headId), (1, t.boot.headId), (1, 0), (4, paramNat 0x1001 0 t * 1024),
      (8, if t.time.arraySet then arrayTime t else 0), (2, paramNat 0x1000 0 t)]) t)) ∧
  (∀ qp tag b r d s t, SheafRuns 2 qp tag b r .quiet d s t → Completes (.putBegin qp b) s (putBegin qp tag d r t)) ∧
  (∀ qp tag b r d s t, SheafRuns 3 qp tag b r .quiet d s t → Completes (.putData qp b) s (putData qp tag r t)) ∧
  (∀ qp tag b r d s t, SheafRuns 4 qp tag b r .quiet d s t → Completes (.putCommit qp b) s (putCommit qp tag r t)) ∧
  (∀ qp tag b r d s t, SheafRuns 5 qp tag b r .quiet d s t → Completes (.putAbort qp b) s (putAbort qp tag r t)) ∧
  (∀ qp tag b r d f s t, SheafRuns 6 qp tag b r f d s t → Completes (.get qp b f) s (shGet qp tag d.id r f t)) ∧
  (∀ qp tag b r d s t, SheafRuns 7 qp tag b r .quiet d s t → Completes (.stat qp b) s (shStat qp tag d.id r t)) ∧
  (∀ qp tag b r d s t, SheafRuns 8 qp tag b r .quiet d s t → Completes (.delete qp b) s (shDelete qp tag d r t)) ∧
  (∀ qp tag b r d s t, SheafRuns 9 qp tag b r .quiet d s t → Completes (.list qp b) s (shList qp tag d.id r t)) ∧
  (∀ qp tag b r d s t o m u q, SheafRuns 10 qp tag b r .quiet d s t → versionOf d.id r t = some o →
    holdCheck d.id (fieldAt r 0x28 8) o.holdUntil t = .ok true → place (leNat (o.key.take 1) % 4)
      (.object { o with holdFlags := o.holdFlags ||| 1, holdUntil := fieldAt r 0x28 8 })
      (takeStamp (leNat (o.key.take 1) % 4) (countSheaf (fun k => { k with holds := bump k.holds }) t)).2 = (q, m, u) →
    Completes (.hold qp b) s (shAwait qp tag d.id stOk (leBytes 8 (fieldAt r 0x28 8)) m.toList [] u)) ∧
  (∀ qp tag b r d s t o m u q, SheafRuns 11 qp tag b r .quiet d s t → versionOf d.id r t = some o → o.holdUntil ≤ arrayTime t →
    place (leNat (o.key.take 1) % 4) (.object { o with holdFlags := 0, holdUntil := 0 })
      (takeStamp (leNat (o.key.take 1) % 4) t).2 = (q, m, u) →
    Completes (.releaseHold qp b) s (shAwait qp tag d.id stOk (leBytes 8 0) m.toList [] u)) ∧
  (∀ qp put s p, putAt qp put s = some p → shQuiesced 3 s = false → Completes (.sheafPutTimeout qp put) s (tryCommits (endPut p (some 0x0E)
    (countSheaf (fun k => { k with expired := bump k.expired }) (modifyConn qp (fun c => { c with expired := c.expired ++ [put] }) s)))))

/-- The metadata cache, the Granary and the shared DMA (R417-R470): accesses that hit and miss, buffers, shares, releases, descriptors, channels. -/
def Obligations.StoreRowsComplete : Prop :=
  (∀ a b e s l, cacheHit (lineOf a) s = some l → e < 2 → Completes (.mcAccess a b e) s
    (loseLines (hitLine l (a % 128) (b.take (128 - a % 128)) (countSlice l.slice (fun c => { c with hits := bump c.hits }) s)))) ∧
  (∀ a b e s, cacheHit (lineOf a) s = none → Completes (.mcAccess a b e) s
    (loseLines (lookBelow (lineOf a) (a % 128) (b.take (128 - a % 128)) s))) ∧
  (∀ a s u, prefetchOn s = true → cacheHit (lineOf a) s = none → sideHit (lineOf a) s = none → victimHit (lineOf a) s = none →
    u = rebuildLine (lineOf a) (countSlice (sliceOf (lineOf a)) (fun c => { c with prefetches := bump c.prefetches }) s) →
    Completes (.mcPrefetch a) s (modifyMem (fun m => { m with side := modifyNth (fun b => (if 512 ≤ b.length then b.drop 1 else b) ++
      [{ line := lineOf a, dirty := false, reused := false, data := farLine (lineOf a) u }]) (sliceOf (lineOf a)) m.side }) u)) ∧
  (∀ s, s.mem.mcState = .disabling → Completes .mcDisableDone s (mcDisabled ((dirtyLines s).foldl (fun st l => writeBack l.1 l.2 st) s))) ∧
  (∀ w s, s.mem.wayGoing.getLsbD w = true → Completes (.mcWayDownDone w) s (modifyMem (fun m =>
      { m with wayGoing := m.wayGoing &&& ~~~ (1#16 <<< w), wayPowered := m.wayPowered &&& ~~~ (1#16 <<< w) })
    ((s.mem.lines.filter (fun l => l.way == w)).foldl (fun st l => dropLine l.line (if l.dirty then writeBack l.line l.data st else st)) s))) ∧
  (∀ unit e arena len s pool h u, poolFor len = some pool → epochDead e s = false →
    ((provisionalFor e s).isSome = true → listLow (granaryReserve s) (gList arena pool s) = false) →
    (gList arena pool s).cut = false → freeNow (gList arena pool s) ≠ 0 → (gList arena pool s).waiters = [] →
    takeBuffer arena pool unit (provisionalFor e s) s = (some h, u) → Completes (.alloc unit e arena len false) s (emit (.granaryHandle unit h) u)) ∧
  (∀ unit h r e s, isStale h s = true → Completes (.share unit h r e) s (emit (.granaryOutcome unit 1) s)) ∧
  (∀ unit h r e s hd, hd = gHeader (hPool h) (hIndex h) s → isStale h s = false → hd.refcount ≠ 0 → isForeign unit h s = false → hd.prov = none →
    hd.refcount ≠ 0xFFFF → unitClass r = some 0 → Completes (.share unit h r e) s (emit (.granaryOutcome unit 5)
      (setGHeader (hPool h) (hIndex h) { hd with refcount := hd.refcount + 1, share := hd.share ||| 1#6 } s))) ∧
  (∀ unit h e s hd, hd = gHeader (hPool h) (hIndex h) s → isStale h s = false → isForeign unit h s = false → 1 < hd.refcount →
    Completes (.granaryRelease unit h e) s (emit (.granaryOutcome unit 5) (setGHeader (hPool h) (hIndex h) { hd with refcount := hd.refcount - 1 } s))) ∧
  (∀ unit h e s hd, hd = gHeader (hPool h) (hIndex h) s → isStale h s = false → isForeign unit h s = false → hd.refcount = 1 →
    Completes (.granaryRelease unit h e) s (emit (.granaryOutcome unit 5) (freeBuffer (hPool h) (hIndex h)
      (modifyList (counterList h s) (hPool h) (fun l => { l with frees := bump l.frees })
        (setGHeader (hPool h) (hIndex h) { hd with refcount := 0 } s))))) ∧
  (∀ arena pool s w, (gList arena pool s).waiters.find? (fun w => !w.long) = some w → Completes (.allocWaitLong arena pool) s
    (healthRecord 0x0107 (packFields [(1, 7), (4, nullHandle), (1, w.unit), (8, 0)])
      (modifyList arena pool (fun l => { l with waiters := mapIf (fun x => x == w) (fun x => { x with long := true }) l.waiters }) s))) ∧
  (∀ arena pool s l fr u, l = gList arena pool s → l.cut = true →
    fr = ((List.range l.fresh).map (fun i => l.base + i)).filter (fun i => (gHeader pool i s).refcount == 0) →
    u = (List.range fr.length).foldl (fun st k => nearWrite (bufferAddr arena pool (fr.getD k 0) st)
      (listWords pool (fr.getD k 0) (fr.getD (k + 1) (listHead { l with stack := [] }))) st) s →
    Completes (.listRebuildDone arena pool) s (serveWaiters arena pool l.waiters.length
      (modifyList arena pool (fun x => noteLevel (granaryReserve s) { x with cut := false, stack := fr }) u))) ∧
  (∀ c ctx s f, (dmaAt c s).running = some f → dmaOp f.desc = 1 → dmaCheck c f s = none → Completes (.copy c ctx) s (dmaMove c f.desc
    (spaceRead (dmaSrcSpace f.desc) f.desc.src.toNat f.desc.len ctx.hostSrc s).1 ctx
    (spaceRead (dmaSrcSpace f.desc) f.desc.src.toNat f.desc.len ctx.hostSrc s).2)) ∧
  (∀ c ctx s f, (dmaAt c s).running = some f → dmaOp f.desc = 2 → dmaCheck c f s = none → ctx.error = none → Completes (.fill c ctx) s
    (dmaEnd c f.desc stOk 0 false f.desc.len ctx.next (spaceWrite (dmaDstSpace f.desc) f.desc.dst.toNat (fillBytes f.desc.src f.desc.len) s))) ∧
  (∀ c ctx s f a b u v, (dmaAt c s).running = some f → dmaOp f.desc = 3 → dmaCheck c f s = none → ctx.error = none →
    spaceRead (dmaSrcSpace f.desc) f.desc.src.toNat f.desc.len ctx.hostSrc s = (a, u) →
    spaceRead (dmaDstSpace f.desc) f.desc.dst.toNat f.desc.len ctx.hostDst u = (b, v) → Completes (.dmaCompare c ctx) s (match firstDiff a b with
      | none => dmaEnd c f.desc stOk 0 true f.desc.len ctx.next v
      | some i => dmaEnd c f.desc stOk 0 false i ctx.next v)) ∧
  (∀ c n f s, (hostChannel c && s.mci.perstLow) = false → (dmaAt c s).size ≤ n →
    Completes (.dmaDoorbell c n f) s (modifyDma c (fun x => { x with badDoorbells := bump x.badDoorbells }) s)) ∧
  (∀ c n f s, (hostChannel c && s.mci.perstLow) = false → n < (dmaAt c s).size → isQuiesced (dmaGroup c) s = true →
    Completes (.dmaDoorbell c n f) s (modifyDma c (fun x => { x with heldTail := some n }) s)) ∧
  (∀ c n f s, (hostChannel c && s.mci.perstLow) = false → n < (dmaAt c s).size → isQuiesced (dmaGroup c) s = false →
    Completes (.dmaDoorbell c n f) s (dmaFetchNext c f (modifyDma c (fun x => { x with tail := n, waiting := false }) s))) ∧
  (∀ c f s, (hostChannel c && s.mci.perstLow) = false → (dmaAt c s).idle = true →
    Completes (.dmaEnable c f) s (dmaFetchNext c f (modifyDma c (fun x => { x with enable := true }) s))) ∧
  (∀ c s, (hostChannel c && s.mci.perstLow) = false → (dmaAt c s).running = none → Completes (.dmaDisable c) s
    (modifyDma c (fun x => { x with enable := false, waiting := false, disables := bump x.disables }) s)) ∧
  (∀ c s, (dmaAt c s).enable = false → Completes (.dmaChannelIdle c) s (modifyDma c (fun x => { x with idle := true }) s)) ∧
  (∀ c f s, (hostChannel c && s.mci.perstLow) = false →
    Completes (.dmaResume c f) s (dmaFetchNext c f (modifyDma c (fun x => { x with halted := false }) s)))

/-- The MCI's rings and registers and the rows its commands wait for (R475-R499, R503, R507, R536-R540, R556). -/
def Obligations.RingRowsComplete : Prop :=
  (∀ off v s, s.mci.perstLow = false → off % 4 = 0 → Completes (.registerWrite off 4 v) s (barLane off (v % 2 ^ 32) s)) ∧
  (∀ off v s, s.mci.perstLow = false → off % 8 = 0 → Completes (.registerWrite off 8 v) s
    (barLane (off + 4) (v / 2 ^ 32 % 2 ^ 32) (barLane off (v % 2 ^ 32) s))) ∧
  (∀ s, registerRead 0x0000 4 s = 0x3149434D ∧ registerRead 0x0008 4 s = mciStatus s ∧
    registerRead 0x000C 4 s = s.hsw.attnSeq.toNat * 2 ^ 16 + s.hsw.word.toNat) ∧
  (∀ n s r, s.mci.rings[n]? = some r → n < 16 → registerRead (0x1008 + 32 * n) 4 s = r.size ∧ registerRead (0x100C + 32 * n) 4 s = r.tail ∧
    registerRead (0x1010 + 32 * n) 4 s = r.head ∧ registerRead (0x1014 + 32 * n) 4 s = flagBit r.enable) ∧
  (∀ n c s, n < 16 → c = dmaAt (240 + n) s → registerRead (0x2010 + 32 * n) 4 s = c.head ∧
    registerRead (0x2018 + 32 * n) 4 s = 8 * flagBit c.lost + 4 * flagBit c.halted + 2 * flagBit c.waiting + flagBit c.idle) ∧
  (∀ n tail xs s r, s.mci.rings[n]? = some r → s.mci.perstLow = false → r.size ≤ tail →
    Completes (.mciDoorbell n tail xs) s { s with mci := { s.mci with badDoorbells := bump s.mci.badDoorbells } }) ∧
  (∀ n tail xs s r, s.mci.rings[n]? = some r → s.mci.perstLow = false → tail < r.size → s.boot.mode ≠ .dump →
    Completes (.mciDoorbell n tail xs) s (fetchSlots n xs (modifyRing n (fun x => { x with tail := tail }) s))) ∧
  (∀ head s, s.mci.perstLow = false → Completes (.replyHeadWrite head) s (drainHeld (modifyReply (fun r => { r with head := head }) s))) ∧
  (∀ n s, s.boot.ready = true → s.mci.perstLow = false → n < 16 →
    Completes (.ringEnable n) s (modifyRing n (fun r => { r with enable := true, head := 0, tail := 0 }) s)) ∧
  (∀ s, s.boot.ready = true → s.mci.perstLow = false → Completes (.ringEnable 16) s
    (drainHeld (modifyReply (fun r => { r with enable := true, head := 0, tail := 0, phase := true }) s))) ∧
  (∀ n s, s.mci.perstLow = false → n < 16 → Completes (.ringDisable n) s (modifyRing n (fun r => { r with enable := false }) s)) ∧
  (∀ s, s.mci.perstLow = false → Completes (.ringDisable 16) s (modifyReply (fun r => { r with enable := false }) s)) ∧
  (∀ n s r w, s.mci.rings[n]? = some r → r.watch = some w → w.timeout ≠ 0 →
    Completes (.watchTimeout n) s (complete { ring := n, tag := w.tag } stOkInfo [] (modifyRing n (fun r => { r with watch := none }) s))) ∧
  (∀ f s, s.mci.quiescing.contains f = true → quiesceReached f s = true → Completes (.quiesceComplete f) s (nowQuiesced f s)) ∧
  (∀ n s, Completes (.authNonceExpiry n) s (modifyRing n (fun r => { r with nonce := none }) s)) ∧
  (∀ fs s, Completes (.hostWatchdog fs) s (hostWatchdog fs s)) ∧
  (∀ s, Completes .almanacFlushTimer s (almDrain s)) ∧
  (∀ row s r u, s.journal.rows.find? (fun x => x.id == row) = some r → r.units.any (fun u => u.utype == 11) = true → u = rowCommit row s →
    u.journal.rows.any (fun x => x.id == row) = false →
    Completes (.almanacUnitCommit row) s (hswSync (afterRows (almUnits r.units (configCommitted r.units u))))) ∧
  (∀ s m, s.fw.manifest = some m → s.fw.state = 3 → s.fw.step = 3 → s.fw.sectors = 0 → Completes .fwImageOverwrite s
    (fwTargetSet (fwKind m) (fun i => { i with manifest := none }) (modifyFw (fun f => { f with sectors := 1 }) s)))

/-- Resets, the boot sequence's rows, the DUMP rows (R14-R43, R502-R532): what each does; a power-on or pin reset touches only the fields they reset. -/
def Obligations.ResetAndBootRowsComplete : Prop :=
  (∀ strap s u, u = inReset .powerOn s → exec (.powerOnReset false strap) s = .next (resetReleased strap
    { u with time := { u.time with powerCycles := satAdd 32 u.time.powerCycles 1 } })) ∧
  (∀ strap s, exec (.powerOnReset true strap) s = .next (modifyBoot (fun b => { b with resetLow := true }) (inReset .powerOn s))) ∧
  (∀ strap s, exec (.pinReset false strap) s = .next (resetReleased strap (inReset .pin s))) ∧
  (∀ strap s, exec (.pinReset true strap) s = .next (modifyBoot (fun b => { b with resetLow := true }) (inReset .pin s))) ∧
  (∀ s, Completes .selfReset s (startUp (inReset .self (modifyBoot (fun b => { b with selfResets := bump b.selfResets }) (flushStop s))))) ∧
  (∀ low s rs, rs = s.mci.rings.map (fun r => { resetRing with fetched := r.fetched, nonce := r.nonce, watch := r.watch }) →
    Completes (.perstN low) s ((List.range 16).foldl (fun st n => dmaDisable (240 + n) st)
      { s with mci := { s.mci with perstLow := low, rings := rs, reply := resetReplyRing } })) ∧
  (∀ r s u, s.boot.mode = .boot ∨ s.boot.mode = .inventory → s.boot.stepOpen = true → s.boot.quietStop = false → statusOk r.result = true →
    stepWork s.boot.step r s = (true, u) → Completes (.bootStepDone r) s (hswSync (stepFollows s.boot.step r (closeStep r.result u)))) ∧
  (∀ r s, s.boot.mode = .boot ∨ s.boot.mode = .inventory → s.boot.stepOpen = true → s.boot.quietStop = false → statusOk r.result = false →
    Completes (.bootStepDone r) s (beginFrom 18 s.boot.step (stepFailed r.result (closeStep r.result s)))) ∧
  (∀ s, s.boot.mode = .boot ∨ s.boot.mode = .inventory → s.boot.stepOpen = true → bounded s = true → Completes .bootWatchdog s
    (startUp (inReset .self (modifyBoot (fun b => { b with selfResets := bump b.selfResets }) s)))) ∧
  (∀ s, s.boot.mode = .recovery → Completes (.pcieRetryTimer true) s (modifyBoot (fun b => { b with ready := true }) s)) ∧
  (∀ s u, s.boot.pwrFailAccepted = false → s.boot.mode ≠ .dump → mayDump s = true →
    u = modifyBoot (fun b => { b with pwrFailAccepted := true, pwrFailLow := true }) s → Completes .pwrfailAccept s (enterDump true u)) ∧
  (∀ s u, s.boot.pwrFailAccepted = false → s.boot.mode ≠ .dump → mayDump s = false →
    u = modifyBoot (fun b => { b with pwrFailAccepted := true, pwrFailLow := true }) s → Completes .pwrfailAccept s
      (releaseAllLeases (modifyBoot (fun b => { b with quietStop := true, quietStops := bump b.quietStops }) u))) ∧
  (∀ s, s.boot.pwrFailAccepted = false → Completes .pwrfailNRise s
    (modifyBoot (fun b => { b with pwrFailLow := false, pwrFailGlitches := bump b.pwrFailGlitches }) s)) ∧
  (∀ s, s.boot.pwrFailAccepted = true → s.boot.pwrFailLow = false → s.boot.mode ≠ .dump → s.boot.quietStop = true →
    Completes .pwrfailHighTimer s (selfReset s)) ∧
  (∀ s d, s.media.dumped = some d → s.boot.mode = .dump → s.boot.dumpEnd = false → d.broken = false → d.bales = [] →
    Completes .dumpEndCommitted s (releaseAllLeases { modifyBoot (fun b => { b with dumpEnd := true }) s with
      media := { s.media with dumped := some { d with ended := true } } }))

/-- Power, temperature, time and boot flash rows (R26-R58, R533-R535, R563-R572): PACE, thermal windows, THERMTRIP, life, supplies, clocks. -/
def Obligations.PowerRowsComplete : Prop :=
  (∀ ns s u, u = modifyTime (fun t => { t with pace := (List.range t.pace.length).map (fun q => paceStep (t.pace.getD q resetPace) (ns.getD q 0)) }) s →
    lowestPace u.time.pace = none → Completes (.paceWindow ns) s u) ∧
  (∀ ns s u q v, u = modifyTime (fun t => { t with pace := (List.range t.pace.length).map (fun q => paceStep (t.pace.getD q resetPace) (ns.getD q 0)) }) s →
    lowestPace u.time.pace = some (q, v) → Completes (.paceWindow ns) s (noteCollapse v (noteLowPace q v (noteBand v u)))) ∧
  (∀ s, s.time.resumed = true → Completes .timeMarkTimer s (almanac 0x0601 (timeMark s) s)) ∧
  (∀ s, exec .thermtrip s = .next (raiseAttn bitThermal (modifyThermal (fun t => { t with tripLatched := true, tripUncounted := true }) s))) ∧
  (∀ means n s u, s.thermal.limit = none → u = modifyThermal (fun t => { t with energyMj := satAdd 64 t.energyMj n }) s → stewardRuns u = true →
    Completes (.thermalWindow means n) s (thermalLimitReached means (thermalAction means u))) ∧
  (∀ means n s u, s.thermal.limit.isSome = true → stewardRuns s = false →
    u = modifyThermal (fun t => { t with energyMj := satAdd 64 t.energyMj n, throttleMs := satAdd 64 t.throttleMs 10 }) s →
    Completes (.thermalWindow means n) s u) ∧
  (∀ mean s n, lifeRow Config.gradeL mean = some n → exec (.lifeUsedHour mean) s = .next (modifyThermal (fun t =>
    { t with lifeUsed := satAdd 64 t.lifeUsed (10 ^ 10 / (n * 8766) + flagBit (Config.lifeRoundsUp Config.gradeL mean)) }) s)) ∧
  (∀ mean s, exec (.lifeUsedHour mean) s =
    .next (modifyThermal (fun t => { t with lifeUsed := satAdd 64 t.lifeUsed (lifeShare Config.gradeL mean) }) s)) ∧
  (∀ v mv ns s, outsideRange v mv s = true → 1000 ≤ ns → ns < 100000 → Completes (.supplyExcursion v mv ns) s
    (modifyThermal (fun t => { t with supplyExcursions := bump t.supplyExcursions }) s)) ∧
  (∀ v mv ns s u, outsideRange v mv s = true → u = modifyThermal (fun t => { t with supplyExcursions := bump t.supplyExcursions }) s →
    beyondRange v mv s = true → 100000 ≤ ns → Completes (.supplyExcursion v mv ns) s (enterYield 5 u)) ∧
  (∀ s, Completes (.clockLoss true true) s (enterYield 4 s)) ∧
  (∀ b s, Completes (.clockLoss false b) s (enterYield 5 s)) ∧
  (∀ n s, s.flash.lastWrite.getD n 0 + 1826 * 24 * 4096 ≤ opTime s → Completes (.bootFlashRefresh n) s
    (flashWritten n { s with flash := { s.flash with refreshes := modifyNth bump n s.flash.refreshes } }))

/-- The SMBus target and the TAP (R564-R566, Table 22-13): words served from the last refresh, NACKs, the alert response, each TAP instruction. -/
def Obligations.PinRowsComplete : Prop :=
  (∀ s w, s.smbus.latched = some w → exec (.readWord false) s = .next (emit (.smbus (some w) none) s)) ∧
  (∀ s w, s.smbus.latched = some w →
    exec (.readWord true) s = .next (emit (.smbus (some w) (some (readPec (0x4C + s.boot.headId) s.smbus.code w))) s)) ∧
  (∀ c s w, smbusWord c.toNat s = some w → exec (.smbusSelect c) s = .next (modifySmbus (fun b => { b with code := c.toNat, latched := some w }) s)) ∧
  (∀ c s, smbusWord c.toNat s = none → exec (.smbusSelect c) s = .next (emit (.smbus none none) s)) ∧
  (∀ c b s, Completes (.smbusDataWrite c b) s (emit (.smbus none none) s)) ∧
  (∀ s, alertLow s = true → Completes .alertResponseAddress s (emit (.alertResponse (0x4C + s.boot.headId)) s)) ∧
  (∀ s, alertLow s = false → Completes .alertResponseAddress s s) ∧
  (∀ r s u, u = modifyThermal (fun t =>
      { t with tjQ := r.tjQ, tempHbm := r.tempHbm, tempVault := r.tempVault, powerMw := r.powerMw, vcoreMv := r.vcoreMv }) s →
    exec (.smbusRefresh r) s = .next (modifySmbus (fun b => { b with words := smbusWords u }) (offerHealth u))) ∧
  (∀ s, exec .bypass s = .next (emit (.jtag 0) { s with jtag := .bypass })) ∧
  (∀ s, exec .idcode s = .next (emit (.jtag 0x1925656B) { s with jtag := .idcode })) ∧
  (∀ s, ∃ n k, exec .samplePreload s = .next (emit (.jtag n) { s with jtag := .samplePreload, freeCount := k })) ∧
  (∀ s c i, (c, i) = (.extest, .extest) ∨ (c, i) = (.extestPulse, .extestPulse) ∨ (c, i) = (.extestTrain, .extestTrain) ∨
      (c, i) = (.clamp, .clamp) ∨ (c, i) = (.highz, .highz) →
    exec c s = .next (if s.boot.resetLow then { s with jtag := i } else emit (.jtag 0) { s with jtag := .bypass }))

/-- A step takes the command at the front of the queue and runs it with the rest of the queue. -/
def Obligations.FrontCommandRuns : Prop := ∀ c rest s, s.pending = c :: rest → step s = exec c { s with pending := rest }

/-- The model's choice (DESIGN CHOICE 34): with an empty queue a step lets one tick of the time base pass and changes nothing else. -/
def Obligations.IdleStepIsOneTick : Prop :=
  ∀ s, s.pending = [] → step s = .next { s with time := { s.time with ticks := s.time.ticks + 1 } }

/-- Every command completes in every state, and leaves the queue as it is: no command faults and none is refused. -/
def Obligations.EveryCommandCompletes : Prop := ∀ c s, ∃ t, exec c s = .next t ∧ t.pending = s.pending

/-- Steps run the queued commands in order, first in, first out, and never stop: after as many steps as there are commands to run, exactly those
are gone from the front of the queue. -/
def Obligations.QueueRunsInOrder : Prop :=
  ∀ n s, n ≤ s.pending.length → ∃ t, stepsFrom n s = some t ∧ t.pending = s.pending.drop n

/-- After reset the TAP is safe and both stores are canonical (Table 21-3, R566). -/
def Obligations.InvariantsAtReset : Prop := TapSafe State.reset ∧ StoresCanonical State.reset

/-- R566 as an invariant: from every state in which it holds, every step keeps the TAP on BYPASS, IDCODE or SAMPLE/PRELOAD while RESET_N is
high. -/
def Obligations.TapSafeKept : Prop := ∀ s t, TapSafe s → step s = .next t → TapSafe t

/-- R566: the TAP instructions that drive pins take effect only while RESET_N is low and select BYPASS otherwise; RESET_N rising returns the TAP
to BYPASS; and no TAP instruction reaches the vault, the working slots or near store. -/
def Obligations.TapInstructionsAreBounded : Prop :=
  (∀ c i s, (c, i) ∈ [(Instr.extest, JtagInstr.extest), (.extestPulse, .extestPulse), (.extestTrain, .extestTrain), (.clamp, .clamp), (.highz, .highz)] →
    ∃ t, exec c s = .next t ∧ (s.boot.resetLow = true → t.jtag = i) ∧ (s.boot.resetLow = false → t.jtag = .bypass)) ∧
  (∀ c i s, (c, i) ∈ [(Instr.bypass, JtagInstr.bypass), (.idcode, .idcode), (.samplePreload, .samplePreload)] → ∃ t, exec c s = .next t ∧ t.jtag = i) ∧
  (∀ c strap s, c = .powerOnReset false strap ∨ c = .pinReset false strap → ∃ t, exec c s = .next t ∧ t.boot.resetLow = false ∧
    t.jtag = (if s.jtag = .idcode ∨ s.jtag = .samplePreload then s.jtag else .bypass)) ∧
  (∀ c s, c ∈ [Instr.bypass, .idcode, .samplePreload, .extest, .extestPulse, .extestTrain, .clamp, .highz] →
    ∃ t, exec c s = .next t ∧ t.vault = s.vault ∧ t.cipher.slots = s.cipher.slots ∧ t.mem.near = s.mem.near)

/-- The time base (R45, Table 21-3): power-on reset clears it, every other command and every other reset leaves it, and only an idle step advances
it, which is the model's choice (DESIGN CHOICE 34). -/
def Obligations.TimeBaseRunsOn : Prop :=
  (∀ held strap s t, exec (.powerOnReset held strap) s = .next t → t.time.ticks = 0) ∧
  (∀ c s t, (∀ held strap, c ≠ .powerOnReset held strap) → exec c s = .next t → t.time.ticks = s.time.ticks) ∧
  (∀ s t, s.pending = [] → step s = .next t → t.time.ticks = s.time.ticks + 1)

/-- The power-cycle count (R50, Table 21-3): one more, saturating at 32 bits, at each power-on reset that ends; every other command leaves it. -/
def Obligations.PowerCyclesCounted : Prop :=
  (∀ strap s t, exec (.powerOnReset false strap) s = .next t → t.time.powerCycles = min (s.time.powerCycles + 1) 0xFFFFFFFF) ∧
  (∀ c s t, (∀ strap, c ≠ .powerOnReset false strap) → exec c s = .next t → t.time.powerCycles = s.time.powerCycles)

/-- HEAD_ID (R14, Table 21-3): sampled as RESET_N rises at a power-on or pin reset, high for head 1, and changed by nothing else. -/
def Obligations.HeadIdSampledAtReset : Prop :=
  (∀ c strap s t, c = .powerOnReset false strap ∨ c = .pinReset false strap → exec c s = .next t →
    t.boot.headId = (if strap then 1 else 0) ∧ t.boot.resetLow = false) ∧
  (∀ c s t, (∀ strap, c ≠ .powerOnReset false strap ∧ c ≠ .pinReset false strap) → exec c s = .next t → t.boot.headId = s.boot.headId)

/-- The vault (R186-R192, Table 21-3): only its five alarms, the loss and the rise of VAUX and the three commands that write it change it. -/
def Obligations.VaultChangesOnlyByItsRows : Prop :=
  ∀ c s t, exec c s = .next t → t.vault = s.vault ∨ c = .vaultAlarmSupply ∨ c = .vaultAlarmTemp ∨ c = .vaultAlarmMesh ∨ c = .vaultAlarmTamper ∨
    c = .vaultAlarmCheck ∨ c = .vauxLoss ∨ c = .vauxRise ∨ (∃ p w, c = .keyLoadGauntlet p w) ∨ (∃ p, c = .keyClearGauntlet p) ∨ (∃ p, c = .keyAlarmClear p)

/-- R189: VAUX falling below 2.0 V loses every gauntlet slot, and VAULT_LOST (bit 0 of VAULT_STATUS, Table 8-7) reports it from the rise on. -/
def Obligations.VauxLossLosesTheGauntlet : Prop :=
  (∀ s i, ∃ t, exec .vauxLoss s = .next t ∧ t.vault.vaux = false ∧ t.vault.gauntlet.getD i none = none) ∧
  (∀ s i, s.vault.vaux = false → ∃ t, exec .vauxRise s = .next t ∧ t.vault.vaux = true ∧ t.vault.gauntlet.getD i none = none ∧
    t.vault.status.getLsbD 0 = true ∧ vaultStatus t % 2 = 1)

/-- THERMTRIP (R567, R564): the latch, once set, stands until power-on reset, whatever commands run, and SMB_ALERT_N stays low with it. -/
def Obligations.ThermtripLatchStands : Prop :=
  (∀ s, ∃ t, exec .thermtrip s = .next t ∧ t.thermal.tripLatched = true ∧ alertLow t = true) ∧
  (∀ c s t, s.thermal.tripLatched = true → exec c s = .next t → (∀ held strap, c ≠ .powerOnReset held strap) →
    t.thermal.tripLatched = true ∧ alertLow t = true) ∧
  (∀ strap s t, exec (.powerOnReset false strap) s = .next t → t.thermal.tripLatched = false)

/-- LIFE_USED (R570): only its hourly row changes it, never downward while it holds 64 bits, and resets keep it. -/
def Obligations.LifeUsedNeverFalls : Prop :=
  ∀ c s t, s.thermal.lifeUsed < 2 ^ 64 → exec c s = .next t →
    s.thermal.lifeUsed ≤ t.thermal.lifeUsed ∧ t.thermal.lifeUsed < 2 ^ 64 ∧ (t.thermal.lifeUsed ≠ s.thermal.lifeUsed → ∃ m, c = .lifeUsedHour m)

/-- What every reset kind loses (Table 21-3, R148, R445, R471), seen while RESET_N is low: near and far store, the metadata cache, Winnow, Granary,
the DMA channels, the working slots, Sheaf's state, the mapping tables, the reads under way and the FURROW links
are as at reset; what the bridges hold and the vault stand. -/
def Obligations.ResetsLoseTheStores : Prop :=
  ∀ c s t, (∃ strap, c = .powerOnReset true strap ∨ c = .pinReset true strap) → exec c s = .next t →
    t.boot.resetLow = true ∧ t.mem = resetMem ∧ t.winnow = resetWinnow ∧ t.granary = resetGranary ∧ t.dma = List.replicate 256 resetChannel ∧
      t.cipher.slots = resetCipher.slots ∧ t.sheaf = resetSheaf ∧ t.map = resetTables ∧ t.read = resetRead ∧
      t.furrow = List.replicate 192 resetFurrow ∧ t.bridges = s.bridges ∧ t.vault = s.vault ∧ t.pending = s.pending

/-- R448: RELEASE's checks in the order of Table 18-5, ending at the first failure; a failed RELEASE leaves header and buffer untouched. -/
def Obligations.ReleaseEndsAtItsFirstFailure : Prop :=
  ∀ unit h e s hd a n, hd = gHeader (hPool h) (hIndex h) s → a = counterList h s → n = hPool h →
    (isStale h s = true → Completes (.granaryRelease unit h e) s (emit (.granaryOutcome unit 1)
      (granaryRecord 1 h unit hd (modifyList a n (fun l => { l with staleReleases := bump l.staleReleases }) s)))) ∧
    (isStale h s = false → isForeign unit h s = true → Completes (.granaryRelease unit h e) s (emit (.granaryOutcome unit 2)
      (granaryRecord 2 h unit hd (modifyList a n (fun l => { l with foreignReleases := bump l.foreignReleases }) s)))) ∧
    (isStale h s = false → isForeign unit h s = false → hd.refcount = 0 → namesEpoch hd e s = true →
      Completes (.granaryRelease unit h e) s (emit (.granaryOutcome unit 3) (modifyList a n (fun l => { l with squashLate := bump l.squashLate }) s))) ∧
    (isStale h s = false → isForeign unit h s = false → hd.refcount = 0 → namesEpoch hd e s = false →
      Completes (.granaryRelease unit h e) s (emit (.granaryOutcome unit 4)
        (granaryRecord 4 h unit hd (modifyList a n (fun l => { l with doubleReleases := bump l.doubleReleases }) s)))) ∧
    (isStale h s = false → isForeign unit h s = false → hd.refcount = 1 → Completes (.granaryRelease unit h e) s (emit (.granaryOutcome unit 5)
      (freeBuffer n (hIndex h) (modifyList a n (fun l => { l with frees := bump l.frees })
        (setGHeader n (hIndex h) { hd with refcount := 0 } s))))) ∧
    (isStale h s = false → isForeign unit h s = false → 1 < hd.refcount → Completes (.granaryRelease unit h e) s (emit (.granaryOutcome unit 5)
      (setGHeader n (hIndex h) { hd with refcount := hd.refcount - 1 } s))) ∧
    (∀ t, isStale h s = true ∨ isForeign unit h s = true ∨ hd.refcount = 0 → exec (.granaryRelease unit h e) s = .next t →
      t.granary.headers = s.granary.headers ∧ t.mem = s.mem)

/-- R407: RELEASE_HOLD clears the hold of a version and replies with 0 where the hold has run out or the domain is governed (HOLD_MODE 1), and ends
with ST_AUTH_FAILED and reason HOLD_MODE for a standing hold of a compliance domain. -/
def Obligations.ReleaseHoldObeysHoldMode : Prop :=
  ∀ qp tag b r d s t o, SheafRuns 11 qp tag b r .quiet d s t → versionOf d.id r t = some o →
    (o.holdUntil ≤ arrayTime t ∨ scopeParam 2 d.id 0x1003 t = 1 → ∃ q m u,
      place (leNat (o.key.take 1) % 4) (.object { o with holdFlags := 0, holdUntil := 0 })
        (takeStamp (leNat (o.key.take 1) % 4) t).2 = (q, m, u) ∧
        Completes (.releaseHold qp b) s (shAwait qp tag d.id stOk (leBytes 8 0) m.toList [] u)) ∧
    (arrayTime t < o.holdUntil → scopeParam 2 d.id 0x1003 t = 0 →
      Completes (.releaseHold qp b) s (shFail qp tag stAuthFailed 7 (countSheaf (fun k => { k with refusals := bump k.refusals }) t)))

/-- R518 and Table 22-1: the bytes of an Almanac record whose payload fits, field by field, with the CRC-32C of all before it at its end. -/
def Obligations.AlmanacRecordLayout : Prop :=
  ∀ staged r b, r.payload.length ≤ 996 → b = almBytes staged r →
    b.length = fieldAt b 0 2 ∧ b.length % 8 = 0 ∧ 32 ≤ b.length ∧ b.length ≤ 1024 ∧ fieldAt b 2 2 = r.type % 2 ^ 16 ∧ fieldAt b 4 6 = r.seq % 2 ^ 48 ∧
      fieldAt b 0x0A 1 = r.head % 2 ^ 8 ∧ bitOf (fieldAt b 0x0B 1) 0 = r.early ∧ bitOf (fieldAt b 0x0B 1) 1 = staged ∧
      bitOf (fieldAt b 0x0B 1) 2 = r.flush ∧ fieldAt b 0x0B 1 < 8 ∧ fieldAt b 0x0C 4 = r.powerCycles % 2 ^ 32 ∧ fieldAt b 0x10 8 = r.opTime % 2 ^ 64 ∧
      slice b 0x18 r.payload.length = r.payload ∧ (∀ i, 0x18 + r.payload.length ≤ i → i < b.length - 4 → b.getD i 1 = 0) ∧
      fieldAt b (b.length - 4) 4 = crc32c (b.take (b.length - 4)) % 2 ^ 32

/-- Tables 18-2 and 1-3 (R6, R7, R444): the fields of a handle read back, and little-endian fields read back as they were written. -/
def Obligations.FieldsReadBack : Prop :=
  (∀ p i g, p < 8 → i < 2 ^ 21 → g < 256 → hPool (mkHandle p i g) = p ∧ hIndex (mkHandle p i g) = i ∧ hGen (mkHandle p i g) = g ∧ mkHandle p i g < 2 ^ 32) ∧
  (hPool nullHandle = 7 ∧ hIndex nullHandle = 2 ^ 21 - 1) ∧
  (∀ n v, leNat (leBytes n v) = v % 256 ^ n) ∧
  (∀ front n v back, fieldAt (packFields front ++ leBytes n v ++ back) (front.map (·.1)).sum n = v % 256 ^ n)

/-- The stores as lists of bytes (chapter 17): in canonical form a written byte reads back and every other address reads as before; a forgotten range
reads as never written. -/
def Obligations.StoredBytesReadBack : Prop :=
  ∀ m a, Memory.wf m = true →
    (∀ bs x, memRead x (memWriteBytes a bs m) = if a ≤ x ∧ x < a + bs.length then bs[x - a]? else memRead x m) ∧
    (∀ n x, memRead x (memErase a n m) = if a ≤ x ∧ x < a + n then none else memRead x m) ∧
    (∀ bs x, memRead x (putLineBytes a bs m) = if a ≤ x ∧ x < a + bs.length then bs.getD (x - a) none else memRead x m)

/-- AES-256-GCM (R173): what a core encrypts it decrypts, whatever 32-byte key, IV, associated data and plaintext. -/
def Obligations.GcmRoundTrip : Prop :=
  ∀ key iv aad pt, key.length = 32 → (gcmEncrypt key iv aad pt).1.length = pt.length ∧
    gcmDecrypt key iv aad (gcmEncrypt key iv aad pt).1 (gcmEncrypt key iv aad pt).2 = some pt

/-- Replication frames (R294-R297): the partner that holds the same session key and expects the frame opens a protected frame to its body. -/
def Obligations.ProtectedFrameOpens : Prop :=
  ∀ rtype fseq session n key body x s, 2 < rtype → rtype < 256 → fseq < 2 ^ 64 → session < 2 ^ 24 → body.length ≤ 262144 → key.length = 32 →
    sesKey x s = some (n, key) → x.rxSeq = fseq → x.session = session → openFrame x rtype (sealedFrame rtype fseq session x.initiator key body) s =
      (.ok body, frameCipher (x.qp.getD 0) .gcmDecrypt n (some body.length) s)
end

