-- ==== Sys2Proof/Laws/Steady.lean ====
section
/-! SUPPORT. The steady fields: what only a few commands change. One lemma per function of the model says that it leaves them as they are; these
are the tools for it. -/

namespace Sys2Proof.Machine

/-- The part of the state that only a few commands change: the queue, the vault, the SMBus target, the TAP, the time base and the power-cycle
count, RESET_N and HEAD_ID, the THERMTRIP latch and LIFE_USED. -/
structure Steady where
  pending : List Instr
  vault : VaultPart
  smbus : SmbusPart
  jtag : JtagInstr
  ticks : Nat
  powerCycles : Nat
  resetLow : Bool
  headId : Nat
  tripLatched : Bool
  lifeUsed : Nat

/-- The steady fields of a state. -/
def State.steady (s : State) : Steady :=
  { pending := s.pending, vault := s.vault, smbus := s.smbus, jtag := s.jtag, ticks := s.time.ticks, powerCycles := s.time.powerCycles,
    resetLow := s.boot.resetLow, headId := s.boot.headId, tripLatched := s.thermal.tripLatched, lifeUsed := s.thermal.lifeUsed }

/-- Each steady field, read through `State.steady`. -/
theorem steady_fields (s : State) : s.pending = s.steady.pending ∧ s.vault = s.steady.vault ∧ s.smbus = s.steady.smbus ∧ s.jtag = s.steady.jtag ∧
    s.time.ticks = s.steady.ticks ∧ s.time.powerCycles = s.steady.powerCycles ∧ s.boot.resetLow = s.steady.resetLow ∧
    s.boot.headId = s.steady.headId ∧ s.thermal.tripLatched = s.steady.tripLatched ∧ s.thermal.lifeUsed = s.steady.lifeUsed :=
  ⟨rfl, rfl, rfl, rfl, rfl, rfl, rfl, rfl, rfl, rfl⟩

/-- The steady fields of a state given field by field. -/
@[simp] theorem steady_mk (time hsw boot alm mci vault thermal smbus jtag flash fw tines winnow voxca cipher mem granary dma map journal ingest media read
    furrow bridges headland repl ports nvme sheaf out genCount freeCount pending) :
    (State.mk time hsw boot alm mci vault thermal smbus jtag flash fw tines winnow voxca cipher mem granary dma map journal ingest media read furrow
      bridges headland repl ports nvme sheaf out genCount freeCount pending).steady =
      ⟨pending, vault, smbus, jtag, time.ticks, time.powerCycles, boot.resetLow, boot.headId, thermal.tripLatched, thermal.lifeUsed⟩ := rfl

@[simp] theorem ite_steady (c : Prop) [Decidable c] (a b : State) :
    (if c then a else b).steady = if c then a.steady else b.steady := by split <;> rfl

@[simp] theorem snd_ite {α β : Type} (c : Prop) [Decidable c] (a b : α × β) : (if c then a else b).2 = if c then a.2 else b.2 := by split <;> rfl

/-- A fold keeps the steady fields when each of its steps does. -/
@[simp] theorem foldl_steady {α : Type} (g : State → α → State) (h : ∀ st x, (g st x).steady = st.steady) (l : List α) (s : State) :
    (l.foldl g s).steady = s.steady := by
  induction l generalizing s with
  | nil => rfl
  | cons x xs ih => simp [List.foldl, ih, h]

/-- The same for a fold that carries a value beside the state. -/
@[simp] theorem foldl_steady2 {α β : Type} (g : β × State → α → β × State) (h : ∀ st x, (g st x).2.steady = st.2.steady) (l : List α) (p : β × State) :
    (l.foldl g p).2.steady = p.2.steady := by
  induction l generalizing p with
  | nil => rfl
  | cons x xs ih => simp [List.foldl, ih, h]

/-- The same for a fold that carries two values beside the state. -/
@[simp] theorem foldl_steady3 {α β γ : Type} (g : β × γ × State → α → β × γ × State) (h : ∀ st x, (g st x).2.2.steady = st.2.2.steady) (l : List α)
    (p : β × γ × State) : (l.foldl g p).2.2.steady = p.2.2.steady := by
  induction l generalizing p with
  | nil => rfl
  | cons x xs ih => simp [List.foldl, ih, h]

/-- The same for a fold whose state may be lost. -/
theorem foldl_steady_option {α : Type} (g : Option State → α → Option State)
    (h : ∀ a x r, g a x = some r → ∃ st, a = some st ∧ r.steady = st.steady) (l : List α) (a : Option State) (r : State)
    (eq : l.foldl g a = some r) : ∃ st, a = some st ∧ r.steady = st.steady := by
  induction l generalizing a with
  | nil => exact ⟨r, eq, rfl⟩
  | cons x xs ih =>
    obtain ⟨m, hm, hr⟩ := ih _ eq
    obtain ⟨st, hs, hk⟩ := h _ _ _ hm
    exact ⟨st, hs, hr.trans hk⟩

/-- A choice whose every answer keeps the steady fields keeps them. -/
theorem getD_steady (o : Option State) (d : State) (e : Steady) (h : ∀ r, o = some r → r.steady = e) (k : d.steady = e) : (o.getD d).steady = e := by
  cases o with
  | none => exact k
  | some r => exact h r rfl

end Sys2Proof.Machine
end

