-- ==== Sys2Proof/Laws/Frames.lean ====
section
/-! SUPPORT. How the steady fields answer the claims. -/

namespace Sys2Proof.Machine

/-- A state whose steady fields are the same is undisturbed. -/
theorem undisturbed_of_steady {s t : State} (h : t.steady = s.steady) : Undisturbed s t := by
  have k := steady_fields s
  have l := steady_fields t
  rw [h] at l
  simp only [Undisturbed]
  grind

/-- A command completes in the state its meaning gives, where that keeps the steady fields. -/
theorem completes_of_steady {c : Instr} {s t : State} (e : exec c s = .next t) (h : t.steady = s.steady) : Completes c s t :=
  ⟨e, undisturbed_of_steady h⟩

/-- The same, with what `exec`'s own steady lemma says. -/
theorem completes_of_exec {c : Instr} {s t : State} (e : exec c s = .next t) (h : ∃ r, exec c s = .next r ∧ r.steady = s.steady) :
    Completes c s t := by
  obtain ⟨r, hr, hs⟩ := h
  rw [e] at hr
  cases hr
  exact ⟨e, undisturbed_of_steady hs⟩

end Sys2Proof.Machine
end

