-- ==== Sys2Proof/Laws/Commands.lean ====
section
/-! SUPPORT. How an MCI command that a doorbell has fetched runs. -/

namespace Sys2Proof.Machine

/-- A fetched packet that may start runs its body and ends as that says (R479). -/
theorem mciRun_of_starts {o : Nat} {p : McPacket} {s u : State} (h : Starts o p s u) (body : State → McEnd × State) :
    mciRun o p body s = endCommand p (body u) := by
  simp [mciRun, h.1, h.2.1, h.2.2]

/-- So does the command, where its meaning is `mciRun` and keeps the steady fields. -/
theorem completes_of_starts {o : Nat} {p : McPacket} {s u : State} {c : Instr} {body : State → McEnd × State} (h : Starts o p s u)
    (e : exec c s = .next (mciRun o p body s)) (k : ∃ r, exec c s = .next r ∧ r.steady = s.steady) {t : State}
    (r : endCommand p (body u) = t) : Completes c s t :=
  completes_of_exec (by rw [e, mciRun_of_starts h, r]) k

end Sys2Proof.Machine
end

