-- ==== Sys2Proof/Laws/Steady/Links.lean ====
section
/-! SUPPORT. What `Machine/Links.lean` changes leaves the steady fields as they are. -/

namespace Sys2Proof.Machine

@[simp] theorem emit_steady (o : Out) (s : State) : (emit o s).steady = s.steady := by
  unfold emit; simp [steady_fields]

@[simp] theorem subLink_steady (q : Nat) (f : LinkEnd → LinkEnd × List Bytes) (s : State) : (subLink q f s).steady = s.steady := by
  unfold subLink; simp [steady_fields]

@[simp] theorem headSendOn_steady (q mtype : Nat) (body : Bytes) (s : State) : (headSendOn q mtype body s).steady = s.steady := by
  unfold headSendOn; simp [steady_fields]

@[simp] theorem headSend_steady (q mtype : Nat) (body : Bytes) (s : State) : (headSend q mtype body s).steady = s.steady := by
  unfold headSend; simp

@[simp] theorem forwardDone_steady (id : Nat) (status : Status) (result : Bytes) (s : State) : (forwardDone id status result s).steady = s.steady := by
  unfold forwardDone; simp

end Sys2Proof.Machine
end

