-- ==== Sys2Proof/Laws/Steady/Basics.lean ====
section
/-! SUPPORT. What `Machine/Basics.lean` changes leaves the steady fields as they are. -/

namespace Sys2Proof.Machine

@[simp] theorem flashWritten_steady (region : Nat) (s : State) : (flashWritten region s).steady = s.steady := by
  unfold flashWritten; simp [steady_fields]

@[simp] theorem draw_steady (n : Nat) (s : State) : (draw n s).2.steady = s.steady := by
  unfold draw; simp [steady_fields]

theorem draw_pair {n : Nat} {s : State} {r0 : _} {last : State} (eq : draw n s = (r0, last)) : last.steady = s.steady := by
  have k := draw_steady n s; rwa [eq] at k

@[simp] theorem undefBytes_steady (n : Nat) (s : State) : (undefBytes n s).2.steady = s.steady := by
  unfold undefBytes; simp [steady_fields]

theorem undefBytes_pair {n : Nat} {s : State} {r0 : _} {last : State} (eq : undefBytes n s = (r0, last)) : last.steady = s.steady := by
  have k := undefBytes_steady n s; rwa [eq] at k

@[simp] theorem undefNat_steady (s : State) : (undefNat s).2.steady = s.steady := by
  unfold undefNat; simp [steady_fields]

theorem undefNat_pair {s : State} {r0 : _} {last : State} (eq : undefNat s = (r0, last)) : last.steady = s.steady := by
  have k := undefNat_steady s; rwa [eq] at k

end Sys2Proof.Machine
end

