-- ==== Sys2Proof/Laws/Steady/Send.lean ====
section
/-! SUPPORT. What `Machine/Send.lean` changes leaves the steady fields as they are. -/

namespace Sys2Proof.Machine

@[simp] theorem modifyPorts_steady (f : PortsPart → PortsPart) (s : State) : (modifyPorts f s).steady = s.steady := by
  unfold modifyPorts; simp [steady_fields]

@[simp] theorem modifyLport_steady (l : Nat) (f : LogicalPort → LogicalPort) (s : State) : (modifyLport l f s).steady = s.steady := by
  unfold modifyLport; simp

@[simp] theorem countPort_steady (l : Nat) (f : PortCounters → PortCounters) (s : State) : (countPort l f s).steady = s.steady := by
  unfold countPort; simp

@[simp] theorem putFrame_steady (l prio mac src dst : Nat) (f : PortFrame) (s : State) : (putFrame l prio mac src dst f s).steady = s.steady := by
  unfold putFrame; simp

@[simp] theorem sendPfc_steady (l prio quanta : Nat) (s : State) : (sendPfc l prio quanta s).steady = s.steady := by
  unfold sendPfc; simp

@[simp] theorem noteOccupancy_steady (l prio occupancy : Nat) (s : State) : (noteOccupancy l prio occupancy s).steady = s.steady := by
  unfold noteOccupancy; simp

@[simp] theorem putHeld_steady (h : HeldFrame) (s : State) : (putHeld h s).steady = s.steady := by
  unfold putHeld; simp

@[simp] theorem pumpHeld_steady  : ∀ (x0 : Nat) (x1 : List HeldFrame) (x2 : State), (pumpHeld x0 x1 x2).steady = x2.steady := by
  intro x0; induction x0 with
  | zero => intros; simp [pumpHeld]
  | succ n ih => intros; unfold pumpHeld; first | (simp [steady_fields, ih]; done) | (simp [ih]; (repeat' split) <;> simp_all [steady_fields]; done)

@[simp] theorem pumpAll_steady (s : State) : (pumpAll s).steady = s.steady := by
  unfold pumpAll; simp

@[simp] theorem transmit_steady (l prio : Nat) (path : Option (Nat × Nat)) (f : PortFrame) (s : State) : (transmit l prio path f s).steady = s.steady := by
  unfold transmit; simp

@[simp] theorem modifyQp_steady (q : Nat) (f : QpCtx → QpCtx) (s : State) : (modifyQp q f s).steady = s.steady := by
  unfold modifyQp; simp

@[simp] theorem countCtx_steady (q : Nat) (f : CtxCounters → CtxCounters) (s : State) : (countCtx q f s).steady = s.steady := by
  unfold countCtx; simp

@[simp] theorem cacheContext_steady (q : Nat) (s : State) : (cacheContext q s).2.steady = s.steady := by
  unfold cacheContext; first | (simp [steady_fields]; done) | ((try simp); (repeat' split) <;> simp_all [steady_fields]; done)

theorem cacheContext_pair {q : Nat} {s : State} {r0 : _} {last : State} (eq : cacheContext q s = (r0, last)) : last.steady = s.steady := by
  have k := cacheContext_steady q s; rwa [eq] at k

@[simp] theorem sendPacket_steady (c : QpCtx) (p : OutPacket) (s : State) : (sendPacket c p s).steady = s.steady := by
  unfold sendPacket; simp

@[simp] theorem sendResponse_steady (c : QpCtx) (opcode psn : Nat) (ext : Bytes) (s : State) : (sendResponse c opcode psn ext s).steady = s.steady := by
  unfold sendResponse; simp

@[simp] theorem qpPump_steady (q : Nat) : ∀ (x0 : Nat) (x1 : State), (qpPump q x0 x1).steady = x1.steady := by
  intro x0; induction x0 with
  | zero => intros; simp [qpPump]
  | succ n ih => intros; unfold qpPump; first | (simp [steady_fields, ih]; done) | (simp [ih]; (repeat' split) <;> simp_all [steady_fields]; done)

@[simp] theorem qpSend_steady (q : Nat) (ms : List OutMsg) (s : State) : (qpSend q ms s).steady = s.steady := by
  unfold qpSend; simp

@[simp] theorem qpSendBytes_steady (q : Nat) (bytes : Bytes) (s : State) : (qpSendBytes q bytes s).steady = s.steady := by
  unfold qpSendBytes; simp

@[simp] theorem qpPost_steady (q n : Nat) (s : State) : (qpPost q n s).steady = s.steady := by
  unfold qpPost; simp

@[simp] theorem qpRepost_steady (q : Nat) (s : State) : (qpRepost q s).steady = s.steady := by
  unfold qpRepost; simp

@[simp] theorem postOwed_steady (s : State) : (postOwed s).steady = s.steady := by
  unfold postOwed; simp

@[simp] theorem qpTake_steady (q : Nat) (bytes : Bytes) (s : State) : (qpTake q bytes s).steady = s.steady := by
  unfold qpTake; simp

end Sys2Proof.Machine
end

