-- ==== Sys2Proof/Laws/Steady/NvmeCore.lean ====
section
/-! SUPPORT. What `Machine/NvmeCore.lean` changes leaves the steady fields as they are. -/

namespace Sys2Proof.Machine

@[simp] theorem modifyNvme_steady (f : NvmePart → NvmePart) (s : State) : (modifyNvme f s).steady = s.steady := by
  unfold modifyNvme; simp [steady_fields]

@[simp] theorem modifyNvQueue_steady (qp : Nat) (f : NvmeQueue → NvmeQueue) (s : State) : (modifyNvQueue qp f s).steady = s.steady := by
  unfold modifyNvQueue; simp

@[simp] theorem modifyCtrl_steady (id : Nat) (f : Controller → Controller) (s : State) : (modifyCtrl id f s).steady = s.steady := by
  unfold modifyCtrl; simp

@[simp] theorem countNvme_steady (f : NvmeCounters → NvmeCounters) (s : State) : (countNvme f s).steady = s.steady := by
  unfold countNvme; simp

@[simp] theorem modifyNvCmd_steady (qp cid : Nat) (f : NvmeCmd → NvmeCmd) (s : State) : (modifyNvCmd qp cid f s).steady = s.steady := by
  unfold modifyNvCmd; simp

@[simp] theorem dropNvCmd_steady (qp cid : Nat) (s : State) : (dropNvCmd qp cid s).steady = s.steady := by
  unfold dropNvCmd; simp

@[simp] theorem noteError_steady (qp : Nat) (capsule : Bytes) (status location almSeq : Nat) (s : State) : (noteError qp capsule status location almSeq s).steady = s.steady := by
  unfold noteError; simp

@[simp] theorem katoRestart_steady (qp : Nat) (s : State) : (katoRestart qp s).steady = s.steady := by
  unfold katoRestart; first | (simp [steady_fields]; done) | ((try simp); (repeat' split) <;> simp_all [steady_fields]; done)

@[simp] theorem shutdownCheck_steady (qp : Nat) (s : State) : (shutdownCheck qp s).steady = s.steady := by
  unfold shutdownCheck; first | (simp [steady_fields]; done) | ((try simp); (repeat' split) <;> simp_all [steady_fields]; done)

@[simp] theorem nvRespond_steady (qp : Nat) (capsule : Bytes) (dw0 dw1 status almSeq : Nat) (s : State) : (nvRespond qp capsule dw0 dw1 status almSeq s).steady = s.steady := by
  unfold nvRespond; simp

@[simp] theorem nvEnd_steady (qp cid dw0 dw1 status almSeq : Nat) (s : State) : (nvEnd qp cid dw0 dw1 status almSeq s).steady = s.steady := by
  unfold nvEnd; first | (simp [steady_fields]; done) | ((try simp); (repeat' split) <;> simp_all [steady_fields]; done)

@[simp] theorem ctrlEvent_steady (id log dword : Nat) (s : State) : (ctrlEvent id log dword s).steady = s.steady := by
  unfold ctrlEvent; first | (simp [steady_fields]; done) | ((try simp); (repeat' split) <;> simp_all [steady_fields]; done)

@[simp] theorem offerHealth_steady (s : State) : (offerHealth s).steady = s.steady := by
  unfold offerHealth; simp

@[simp] theorem notice_steady (sel : Controller → Bool) (bit info log : Nat) (s : State) : (notice sel bit info log s).steady = s.steady := by
  unfold notice; simp

@[simp] theorem offerNvme_steady (code : Nat) (s : State) : (offerNvme code s).steady = s.steady := by
  unfold offerNvme; simp

@[simp] theorem namespaceNotice_steady (hosts : List Nat) (nsid : Nat) (s : State) : (namespaceNotice hosts nsid s).steady = s.steady := by
  unfold namespaceNotice; simp

end Sys2Proof.Machine
end

