-- ==== Sys2Proof/Laws/Steady/Ops.lean ====
section
/-! SUPPORT. What `Machine/Ops.lean` changes leaves the steady fields as they are. -/

namespace Sys2Proof.Machine

@[simp] theorem writeReply_steady (h : HeldReply) (s : State) : (writeReply h s).steady = s.steady := by
  unfold writeReply; simp [steady_fields]

@[simp] theorem drainReplies_steady  : ∀ (x0 : Nat) (x1 : State), (drainReplies x0 x1).steady = x1.steady := by
  intro x0; induction x0 with
  | zero => intros; simp [drainReplies]
  | succ n ih => intros; unfold drainReplies; first | (simp [steady_fields, ih]; done) | (simp [ih]; (repeat' split) <;> simp_all [steady_fields]; done)

@[simp] theorem postReply_steady (tag : Nat) (status : Status) (result : Bytes) (s : State) : (postReply tag status result s).steady = s.steady := by
  unfold postReply; simp [steady_fields]

@[simp] theorem complete_steady (ref : McRef) (status : Status) (result : Bytes) (s : State) : (complete ref status result s).steady = s.steady := by
  unfold complete; simp [steady_fields]

@[simp] theorem fireWatch_steady (ring : Nat) (s : State) : (fireWatch ring s).steady = s.steady := by
  unfold fireWatch; first | (simp [steady_fields]; done) | ((try simp); (repeat' split) <;> simp_all [steady_fields]; done)

@[simp] theorem hswSync_steady (s : State) : (hswSync s).steady = s.steady := by
  unfold hswSync; simp [steady_fields]

@[simp] theorem raiseAttn_steady (bit : Nat) (s : State) : (raiseAttn bit s).steady = s.steady := by
  unfold raiseAttn; simp [steady_fields]

@[simp] theorem almEarlyAdd_steady (type : Nat) (payload : Bytes) (s : State) : (almEarlyAdd type payload s).steady = s.steady := by
  unfold almEarlyAdd; simp [steady_fields]

@[simp] theorem almStage_steady (type : Nat) (payload : Bytes) (s : State) : (almStage type payload s).steady = s.steady := by
  unfold almStage; simp [steady_fields]

@[simp] theorem almanac_steady (type : Nat) (payload : Bytes) (s : State) : (almanac type payload s).steady = s.steady := by
  unfold almanac; simp

@[simp] theorem queueEvent_steady (code detail almSeq : Nat) (s : State) : (queueEvent code detail almSeq s).steady = s.steady := by
  unfold queueEvent; simp [steady_fields]

@[simp] theorem raiseEvent_steady (code detail almSeq : Nat) (s : State) : (raiseEvent code detail almSeq s).steady = s.steady := by
  unfold raiseEvent; first | (simp [steady_fields]; done) | ((try simp); (repeat' split) <;> simp_all [steady_fields]; done)

@[simp] theorem healthAttn_steady (almSeq : Nat) (s : State) : (healthAttn almSeq s).steady = s.steady := by
  unfold healthAttn; simp

@[simp] theorem healthRecord_steady (type : Nat) (payload : Bytes) (s : State) : (healthRecord type payload s).steady = s.steady := by
  unfold healthRecord; simp

@[simp] theorem mediaAttn_steady (s : State) : (mediaAttn s).steady = s.steady := by
  unfold mediaAttn; simp

@[simp] theorem securityEvent_steady (domain : Nat) (s : State) : (securityEvent domain s).steady = s.steady := by
  unfold securityEvent; simp

@[simp] theorem setMode_steady (m : Mode) (cause : Nat) (s : State) : (setMode m cause s).steady = s.steady := by
  unfold setMode; simp [steady_fields]

@[simp] theorem setBaseMode_steady (m : Mode) (cause : Nat) (s : State) : (setBaseMode m cause s).steady = s.steady := by
  unfold setBaseMode; first | (simp [steady_fields]; done) | ((try simp); (repeat' split) <;> simp_all [steady_fields]; done)

end Sys2Proof.Machine
end

