-- ==== Sys2Proof/Laws/Steady/Bridges.lean ====
section
/-! SUPPORT. What `Machine/Bridges.lean` changes leaves the steady fields as they are. -/

namespace Sys2Proof.Machine

@[simp] theorem modifyBridge_steady (b : Nat) (f : Bridge → Bridge) (s : State) : (modifyBridge b f s).steady = s.steady := by
  unfold modifyBridge; simp [steady_fields]

@[simp] theorem respond_steady (b port tag status : Nat) (result : Bytes) (data : List (Nat × Bytes)) (s : State) : (respond b port tag status result data s).steady = s.steady := by
  unfold respond; simp

@[simp] theorem withSlot_steady (b port tag load : Nat) (f : State → State) (s : State) (hf : ∀ (x0 : State), (f x0).steady = (x0).steady) : (withSlot b port tag load f s).steady = s.steady := by
  unfold withSlot; simp [steady_fields, hf]

@[simp] theorem withFault_steady (b port tag load : Nat) (f : State → State) (s : State) (hf : ∀ (x0 : State), (f x0).steady = (x0).steady) : (withFault b port tag load f s).steady = s.steady := by
  unfold withFault; simp [steady_fields, hf]

@[simp] theorem leaseAcquire_steady (b port tag ms now : Nat) (s : State) : (leaseAcquire b port tag ms now s).steady = s.steady := by
  unfold leaseAcquire; simp

theorem execLeaseAcquire_steady (bridge port tag load leaseMs now : Nat) (s : State) : ∃ t, execLeaseAcquire bridge port tag load leaseMs now s = .next t ∧ t.steady = s.steady := by
  exact ⟨_, rfl, by simp⟩

@[simp] theorem leaseRenew_steady (b port tag ms now : Nat) (s : State) : (leaseRenew b port tag ms now s).steady = s.steady := by
  unfold leaseRenew; simp

theorem execLeaseRenew_steady (bridge port tag load leaseMs now : Nat) (s : State) : ∃ t, execLeaseRenew bridge port tag load leaseMs now s = .next t ∧ t.steady = s.steady := by
  exact ⟨_, rfl, by simp⟩

@[simp] theorem leaseRelease_steady (b port tag now : Nat) (s : State) : (leaseRelease b port tag now s).steady = s.steady := by
  unfold leaseRelease; simp

theorem execLeaseRelease_steady (bridge port tag load now : Nat) (s : State) : ∃ t, execLeaseRelease bridge port tag load now s = .next t ∧ t.steady = s.steady := by
  exact ⟨_, rfl, by simp⟩

theorem execLeaseExpiry_steady (bridge now : Nat) (s : State) : ∃ t, execLeaseExpiry bridge now s = .next t ∧ t.steady = s.steady := by
  exact ⟨_, rfl, by simp⟩

theorem execBridgeIdentify_steady (bridge port tag load : Nat) (s : State) : ∃ t, execBridgeIdentify bridge port tag load s = .next t ∧ t.steady = s.steady := by
  exact ⟨_, rfl, by simp⟩

theorem execStatus_steady (bridge port tag now dieBusy : Nat) (temp : BitVec 8) (cmds0 cmds1 : Nat) (s : State) : ∃ t, execStatus bridge port tag now dieBusy temp cmds0 cmds1 s = .next t ∧ t.steady = s.steady := by
  exact ⟨_, rfl, by simp⟩

theorem execTelemetry_steady (bridge port tag load page start : Nat) (dies : List (BitVec 8 × Bool)) (s : State) : ∃ t, execTelemetry bridge port tag load page start dies s = .next t ∧ t.steady = s.steady := by
  exact ⟨_, rfl, withFault_steady _ _ _ _ _ _ (fun st => by split <;> simp)⟩

@[simp] theorem dieRead_steady (b port tag a count retryMax : Nat) (soft : Bool) (reports : List Nat) (s : State) : (dieRead b port tag a count retryMax soft reports s).steady = s.steady := by
  unfold dieRead; simp

@[simp] theorem beginFault_steady (b : Nat) (fault : Bool) (s : State) : (beginFault b fault s).steady = s.steady := by
  unfold beginFault; simp

theorem execDieRead_steady (bridge port tag load addr count retryMax : Nat) (soft : Bool) (reports : List Nat) (fault : Bool) (s : State) : ∃ t, execDieRead bridge port tag load addr count retryMax soft reports fault s = .next t ∧ t.steady = s.steady := by
  exact ⟨_, rfl, by simp⟩

@[simp] theorem dieProgram_steady (b port tag now a : Nat) (data : List Bytes) (done : Nat) (s : State) : (dieProgram b port tag now a data done s).steady = s.steady := by
  unfold dieProgram; simp

theorem execDieProgram_steady (bridge port tag load now addr : Nat) (data : List Bytes) (done : Nat) (fault : Bool) (s : State) : ∃ t, execDieProgram bridge port tag load now addr data done fault s = .next t ∧ t.steady = s.steady := by
  exact ⟨_, rfl, by simp⟩

@[simp] theorem dieErase_steady (b port tag now a us : Nat) (ok : Bool) (s : State) : (dieErase b port tag now a us ok s).steady = s.steady := by
  unfold dieErase; simp

theorem execDieErase_steady (bridge port tag load now addr us : Nat) (ok fault : Bool) (s : State) : ∃ t, execDieErase bridge port tag load now addr us ok fault s = .next t ∧ t.steady = s.steady := by
  exact ⟨_, rfl, by simp⟩

theorem execFence_steady (bridge port tag load _dieMask : Nat) (_bothPorts : Bool) (s : State) : ∃ t, execFence bridge port tag load _dieMask _bothPorts s = .next t ∧ t.steady = s.steady := by
  exact ⟨_, rfl, by simp⟩

end Sys2Proof.Machine
end

