-- ==== Sys2Proof/Laws/Steady/Buffers.lean ====
section
/-! SUPPORT. What `Machine/Buffers.lean` changes leaves the steady fields as they are. -/

namespace Sys2Proof.Machine

@[simp] theorem nearRead_steady (a len : Nat) (s : State) : (nearRead a len s).2.steady = s.steady := by
  unfold nearRead; simp [steady_fields]

theorem nearRead_pair {a len : Nat} {s : State} {r0 : _} {last : State} (eq : nearRead a len s = (r0, last)) : last.steady = s.steady := by
  have k := nearRead_steady a len s; rwa [eq] at k

@[simp] theorem nearWrite_steady (a : Nat) (bs : Bytes) (s : State) : (nearWrite a bs s).steady = s.steady := by
  unfold nearWrite; simp [steady_fields]

@[simp] theorem setGHeader_steady (pool index : Nat) (h : GHeader) (s : State) : (setGHeader pool index h s).steady = s.steady := by
  unfold setGHeader; simp [steady_fields]

@[simp] theorem modifyList_steady (arena pool : Nat) (f : GList → GList) (s : State) : (modifyList arena pool f s).steady = s.steady := by
  unfold modifyList; simp [steady_fields]

@[simp] theorem addEpochHandle_steady (e : EpochRef) (h : Nat) (s : State) : (addEpochHandle e h s).steady = s.steady := by
  unfold addEpochHandle; simp [steady_fields]

@[simp] theorem takeBuffer_steady (arena pool unit : Nat) (epoch : Option EpochRef) (s : State) : (takeBuffer arena pool unit epoch s).2.steady = s.steady := by
  unfold takeBuffer; first | (simp [steady_fields]; done) | ((try simp); (repeat' split) <;> simp_all [steady_fields]; done)

theorem takeBuffer_pair {arena pool unit : Nat} {epoch : Option EpochRef} {s : State} {r0 : _} {last : State} (eq : takeBuffer arena pool unit epoch s = (r0, last)) : last.steady = s.steady := by
  have k := takeBuffer_steady arena pool unit epoch s; rwa [eq] at k

@[simp] theorem serveWaiters_steady (arena pool : Nat) : ∀ (x0 : Nat) (x1 : State), (serveWaiters arena pool x0 x1).steady = x1.steady := by
  intro n; induction n with
  | zero => intros; rfl
  | succ n ih =>
    intro s; unfold serveWaiters; dsimp only; split
    · rfl
    · split
      · rfl
      · split <;> rename_i eq <;> have k := takeBuffer_pair eq <;> simp [ih, k]

@[simp] theorem waitFor_steady (arena pool unit len : Nat) (epoch : Option EpochRef) (s : State) : (waitFor arena pool unit len epoch s).steady = s.steady := by
  unfold waitFor; simp

@[simp] theorem granaryRecord_steady (outcome handle unit : Nat) (hd : GHeader) (s : State) : (granaryRecord outcome handle unit hd s).steady = s.steady := by
  unfold granaryRecord; simp

@[simp] theorem cutList_steady (arena pool unit : Nat) (s : State) : (cutList arena pool unit s).steady = s.steady := by
  unfold cutList; simp

@[simp] theorem gAlloc_steady (unit : Nat) (work : Option EpochRef) (arena len : Nat) (badLink : Bool) (s : State) : (gAlloc unit work arena len badLink s).2.steady = s.steady := by
  unfold gAlloc; (try dsimp only) <;> (repeat' split) <;> first | (simp [steady_fields]; done) | ((try simp); grind [emit_steady, takeBuffer_steady, waitFor_steady, cutList_steady, takeBuffer_pair]) | (simp_all [steady_fields]; done)

theorem gAlloc_pair {unit : Nat} {work : Option EpochRef} {arena len : Nat} {badLink : Bool} {s : State} {r0 : _} {last : State} (eq : gAlloc unit work arena len badLink s = (r0, last)) : last.steady = s.steady := by
  have k := gAlloc_steady unit work arena len badLink s; rwa [eq] at k

@[simp] theorem freeBuffer_steady (pool index : Nat) (s : State) : (freeBuffer pool index s).steady = s.steady := by
  unfold freeBuffer; first | (simp [steady_fields]; done) | ((try simp); (repeat' split) <;> simp_all [steady_fields]; done)

@[simp] theorem gRelease_steady (unit h : Nat) (ticket : Option EpochRef) (s : State) : (gRelease unit h ticket s).2.steady = s.steady := by
  unfold gRelease; first | (simp [steady_fields]; done) | ((try simp); (repeat' split) <;> simp_all [steady_fields]; done)

theorem gRelease_pair {unit h : Nat} {ticket : Option EpochRef} {s : State} {r0 : _} {last : State} (eq : gRelease unit h ticket s = (r0, last)) : last.steady = s.steady := by
  have k := gRelease_steady unit h ticket s; rwa [eq] at k

@[simp] theorem releaseAll_steady (unit : Nat) (ticket : Option EpochRef) (hs : List Nat) (s : State) : (releaseAll unit ticket hs s).steady = s.steady := by
  unfold releaseAll; simp

@[simp] theorem squashFree_steady (h : Nat) (s : State) : (squashFree h s).steady = s.steady := by
  unfold squashFree; simp

@[simp] theorem clearProv_steady (hs : List Nat) (s : State) : (clearProv hs s).steady = s.steady := by
  unfold clearProv; simp

@[simp] theorem bufferRead_steady (h off len : Nat) (s : State) : (bufferRead h off len s).2.steady = s.steady := by
  unfold bufferRead; first | (simp [steady_fields]; done) | ((try simp); (repeat' split) <;> simp_all [steady_fields]; done)

theorem bufferRead_pair {h off len : Nat} {s : State} {r0 : _} {last : State} (eq : bufferRead h off len s = (r0, last)) : last.steady = s.steady := by
  have k := bufferRead_steady h off len s; rwa [eq] at k

@[simp] theorem bufferPut_steady (h off : Nat) (bs : Bytes) (s : State) : (bufferPut h off bs s).steady = s.steady := by
  unfold bufferPut; first | (simp [steady_fields]; done) | ((try simp); (repeat' split) <;> simp_all [steady_fields]; done)

end Sys2Proof.Machine
end

