-- ==== Sys2Proof/Laws/Steady/Complexes.lean ====
section
/-! SUPPORT. What `Machine/Complexes.lean` changes leaves the steady fields as they are. -/

namespace Sys2Proof.Machine

@[simp] theorem modifyCipher_steady (f : CipherPart → CipherPart) (s : State) : (modifyCipher f s).steady = s.steady := by
  unfold modifyCipher; simp [steady_fields]

@[simp] theorem countComplex_steady (q : Nat) (f : CipherComplex → CipherComplex) (s : State) : (countComplex q f s).steady = s.steady := by
  unfold countComplex; simp

@[simp] theorem notePairGrant_steady (q : Nat) (last : Nat) (latency : Bool) (s : State) : (notePairGrant q last latency s).steady = s.steady := by
  unfold notePairGrant; simp

@[simp] theorem grantOne_steady (q : Nat) (s : State) : (grantOne q s).steady = s.steady := by
  unfold grantOne; first | (simp [steady_fields]; done) | ((try simp); (repeat' split) <;> simp_all [steady_fields]; done)

@[simp] theorem countPassed_steady (q n : Nat) (s : State) : (countPassed q n s).steady = s.steady := by
  unfold countPassed; simp

@[simp] theorem rerouteJob_steady (s : State) (j : CipherJob) : (rerouteJob s j).steady = s.steady := by
  unfold rerouteJob; (try dsimp only) <;> (repeat' split) <;> first | (simp [steady_fields]; done) | ((try simp); grind [modifyCipher_steady, countPassed_steady]) | (simp_all [steady_fields]; done)

@[simp] theorem cipherSchedule_steady (s : State) : (cipherSchedule s).steady = s.steady := by
  unfold cipherSchedule; simp

@[simp] theorem withholdDst_steady (j : CipherJob) (s : State) : (withholdDst j s).steady = s.steady := by
  unfold withholdDst; first | (simp [steady_fields]; done) | ((try simp); (repeat' split) <;> simp_all [steady_fields]; done)

@[simp] theorem dropJob_steady (j : CipherJob) (s : State) : (dropJob j s).steady = s.steady := by
  unfold dropJob; simp

@[simp] theorem finishJob_steady (j : CipherJob) (status : Status) (len : Nat) (s : State) : (finishJob j status len s).steady = s.steady := by
  unfold finishJob; (try dsimp only) <;> (repeat' split) <;> first | (simp [steady_fields]; done) | ((try simp); grind [emit_steady, undefNat_steady, dropJob_steady, undefNat_pair]) | (simp_all [steady_fields]; done)

@[simp] theorem abortJobs_steady (which : CipherJob → Bool) (s : State) : (abortJobs which s).steady = s.steady := by
  unfold abortJobs; simp

@[simp] theorem coreMismatch_steady (c : Nat) (s : State) : (coreMismatch c s).steady = s.steady := by
  unfold coreMismatch; simp

@[simp] theorem noteFault_steady (q : Nat) (pair : Option (Nat × Nat)) (s : State) : (noteFault q pair s).steady = s.steady := by
  unfold noteFault; (try dsimp only) <;> (repeat' split) <;> first | (simp [steady_fields]; done) | ((try simp); grind [modifyCipher_steady, countComplex_steady, coreMismatch_steady]) | (simp_all [steady_fields]; done)

@[simp] theorem cipherAttempt_steady (q : Nat) (latency : Bool) (avoid : List Nat) (fault : Bool) (s : State) : (cipherAttempt q latency avoid fault s).2.steady = s.steady := by
  unfold cipherAttempt; (try dsimp only) <;> (repeat' split) <;> first | (simp [steady_fields]; done) | ((try simp); grind [countComplex_steady, notePairGrant_steady, noteFault_steady]) | (simp_all [steady_fields]; done)

theorem cipherAttempt_pair {q : Nat} {latency : Bool} {avoid : List Nat} {fault : Bool} {s : State} {r0 : _} {last : State} (eq : cipherAttempt q latency avoid fault s = (r0, last)) : last.steady = s.steady := by
  have k := cipherAttempt_steady q latency avoid fault s; rwa [eq] at k

@[simp] theorem cipherRun_steady (q : Nat) (latency : Bool) (op : CipherOp) (slot faults : Nat) (s : State) : (cipherRun q latency op slot faults s).2.steady = s.steady := by
  unfold cipherRun; (try dsimp only) <;> (repeat' split) <;> first | (simp [steady_fields]; done) | ((try simp); grind [almanac_steady, countPassed_steady, cipherAttempt_steady, cipherAttempt_pair]) | (simp_all [steady_fields]; done)

theorem cipherRun_pair {q : Nat} {latency : Bool} {op : CipherOp} {slot faults : Nat} {s : State} {r0 : _} {last : State} (eq : cipherRun q latency op slot faults s = (r0, last)) : last.steady = s.steady := by
  have k := cipherRun_steady q latency op slot faults s; rwa [eq] at k

@[simp] theorem countReleased_steady (q len : Nat) (s : State) : (countReleased q len s).steady = s.steady := by
  unfold countReleased; simp

end Sys2Proof.Machine
end

