-- ==== Sys2Proof/Laws/Steady/TicketOps.lean ====
section
/-! SUPPORT. What `Machine/TicketOps.lean` changes leaves the steady fields as they are. -/

namespace Sys2Proof.Machine

@[simp] theorem modifyHarrow_steady (h : Nat) (f : Harrow → Harrow) (s : State) : (modifyHarrow h f s).steady = s.steady := by
  unfold modifyHarrow; simp [steady_fields]

@[simp] theorem modifyEpoch_steady (e : EpochRef) (f : EpochEntry → EpochEntry) (s : State) : (modifyEpoch e f s).steady = s.steady := by
  unfold modifyEpoch; simp

@[simp] theorem modifyQueue_steady (h q : Nat) (f : List Ticket → List Ticket) (s : State) : (modifyQueue h q f s).steady = s.steady := by
  unfold modifyQueue; simp

theorem enqueue_steady (t : Ticket) (s : State) : ∀ r, enqueue t s = some r → r.steady = s.steady := by
  intro r h; revert h; unfold enqueue; (try dsimp only) <;> (repeat' split) <;> intro h <;> first | (simp at h; done) | (simp at h; subst h; simp [steady_fields]; done) | ((try simp at h); grind [steady_fields, modifyHarrow_steady, modifyQueue_steady])

theorem enqueue_some {t : Ticket} {s : State} {last : State} (eq : enqueue t s = some last) : last.steady = s.steady :=
  enqueue_steady t s _ eq

@[simp] theorem unspill_steady (h q : Nat) (s : State) : (unspill h q s).steady = s.steady := by
  unfold unspill; first | (simp [steady_fields]; done) | ((try simp); (repeat' split) <;> simp_all [steady_fields]; done)

@[simp] theorem dequeue_steady (t : Ticket) (s : State) : (dequeue t s).steady = s.steady := by
  unfold dequeue; simp

@[simp] theorem addRoot_steady (h type prio : Nat) (args : Bytes) (s : State) : (addRoot h type prio args s).steady = s.steady := by
  unfold addRoot; split
  · exact getD_steady _ _ _ (fun r h => enqueue_steady _ _ _ h) rfl
  · simp

@[simp] theorem arrive_steady (type prio home a b : Nat) (s : State) : (arrive type prio home a b s).2.steady = s.steady := by
  unfold arrive; simp

theorem arrive_pair {type prio home a b : Nat} {s : State} {r0 : _} {last : State} (eq : arrive type prio home a b s = (r0, last)) : last.steady = s.steady := by
  have k := arrive_steady type prio home a b s; rwa [eq] at k

@[simp] theorem arriveRoot_steady (home qp id : Nat) (s : State) : (arriveRoot home qp id s).2.steady = s.steady := by
  unfold arriveRoot; simp

theorem arriveRoot_pair {home qp id : Nat} {s : State} {r0 : _} {last : State} (eq : arriveRoot home qp id s = (r0, last)) : last.steady = s.steady := by
  have k := arriveRoot_steady home qp id s; rwa [eq] at k

@[simp] theorem countLive_steady (e : EpochRef) (s : State) : (countLive e s).steady = s.steady := by
  unfold countLive; simp

@[simp] theorem epochLive_steady (epoch : Option EpochRef) (s : State) : (epochLive epoch s).steady = s.steady := by
  unfold epochLive; first | (simp [steady_fields]; done) | ((try simp); (repeat' split) <;> simp_all [steady_fields]; done)

theorem openEpoch_steady (h work : Nat) (s : State) : ∀ r, openEpoch h work s = some r → r.2.steady = s.steady := by
  intro r h; revert h; unfold openEpoch; (try dsimp only) <;> (repeat' split) <;> intro h <;> first | (simp at h; done) | (simp at h; subst h; simp [steady_fields]; done) | ((try simp at h); grind [steady_fields, modifyHarrow_steady, enqueue_steady, epochLive_steady, enqueue_some])

theorem openEpoch_some {h work : Nat} {s : State} {r0 : _} {last : State} (eq : openEpoch h work s = some (r0, last)) : last.steady = s.steady :=
  openEpoch_steady h work s _ eq

@[simp] theorem releaseEpoch_steady (e : EpochRef) (s : State) : (releaseEpoch e s).steady = s.steady := by
  unfold releaseEpoch; first | (simp [steady_fields]; done) | ((try simp); (repeat' split) <;> simp_all [steady_fields]; done)

@[simp] theorem epochDone_steady (epoch : Option EpochRef) (s : State) : (epochDone epoch s).steady = s.steady := by
  unfold epochDone; first | (simp [steady_fields]; done) | ((try simp); (repeat' split) <;> simp_all [steady_fields]; done)

@[simp] theorem buryTomb_steady (t : Ticket) (s : State) : (buryTomb t s).steady = s.steady := by
  unfold buryTomb; (try dsimp only) <;> (repeat' split) <;> first | (simp [steady_fields]; done) | ((try simp); grind [releaseAll_steady, modifyHarrow_steady, countLive_steady]) | (simp_all [steady_fields]; done)

@[simp] theorem retireTomb_steady (t : Ticket) (s : State) : (retireTomb t s).steady = s.steady := by
  unfold retireTomb; simp

@[simp] theorem leaveTine_steady (tine : Nat) (s : State) : (leaveTine tine s).steady = s.steady := by
  unfold leaveTine; simp [steady_fields]

@[simp] theorem stopRunning_steady (e : EpochRef) (s : State) : (stopRunning e s).steady = s.steady := by
  unfold stopRunning; simp [steady_fields]

@[simp] theorem sweepQueues_steady (e : EpochRef) (s : State) : (sweepQueues e s).steady = s.steady := by
  unfold sweepQueues; simp

@[simp] theorem dropJobs_steady (e : EpochRef) (s : State) : (dropJobs e s).steady = s.steady := by
  unfold dropJobs; simp [steady_fields]

@[simp] theorem mapWaiters_steady (f : List GWaiter → List GWaiter) (s : State) : (mapWaiters f s).steady = s.steady := by
  unfold mapWaiters; (try dsimp only) <;> (repeat' split) <;> first | (simp [steady_fields]; done) | ((try simp); grind []) | (simp_all [steady_fields]; done)

@[simp] theorem resetWorks_steady (e : EpochRef) (s : State) : (resetWorks e s).steady = s.steady := by
  unfold resetWorks; (try dsimp only) <;> (repeat' split) <;> first | (simp [steady_fields]; done) | ((try simp); grind []) | (simp_all [steady_fields]; done)

@[simp] theorem dropDma_steady (e : EpochRef) (s : State) : (dropDma e s).steady = s.steady := by
  unfold dropDma; simp [steady_fields]

@[simp] theorem squashEpoch_steady (e : EpochRef) (s : State) : (squashEpoch e s).steady = s.steady := by
  unfold squashEpoch; first | (simp [steady_fields]; done) | ((try simp); (repeat' split) <;> simp_all [steady_fields]; done)

@[simp] theorem answerDecided_steady (e : EpochRef) (s : State) : (answerDecided e s).steady = s.steady := by
  unfold answerDecided; (try dsimp only) <;> (repeat' split) <;> first | (simp [steady_fields]; done) | ((try simp); grind [emit_steady]) | (simp_all [steady_fields]; done)

@[simp] theorem refuseGuarded_steady (e : EpochRef) (unit : Nat) (s : State) : (refuseGuarded e unit s).steady = s.steady := by
  unfold refuseGuarded; simp

@[simp] theorem issueAll_steady (issuer : Ticket) : ∀ (x0 : List TicketForm) (x1 : State), (issueAll issuer x0 x1).2.steady = x1.steady := by
  intro l; induction l with
  | nil => intros; rfl
  | cons f rest ih =>
    intro s; unfold issueAll; split
    · rfl
    · rename_i eq; simp [ih, enqueue_some eq]

theorem issueAll_pair {issuer : Ticket} {x0 : List TicketForm} {x1 : State} {r0 : _} {last : State} (eq : issueAll issuer x0 x1 = (r0, last)) : last.steady = x1.steady := by
  have k := issueAll_steady issuer x0 x1; rwa [eq] at k

@[simp] theorem retireOn_steady (tine : Nat) (t : Ticket) (s : State) : (retireOn tine t s).steady = s.steady := by
  unfold retireOn; simp

@[simp] theorem setLeft_steady (tine : Nat) (left : List TicketForm) (s : State) : (setLeft tine left s).steady = s.steady := by
  unfold setLeft; (try dsimp only) <;> (repeat' split) <;> first | (simp [steady_fields]; done) | ((try simp); grind []) | (simp_all [steady_fields]; done)

@[simp] theorem runRest_steady (tine : Nat) (t : Ticket) (forms : List TicketForm) (retires : Bool) (s : State) : (runRest tine t forms retires s).steady = s.steady := by
  unfold runRest; simp

@[simp] theorem runOn_steady (tine : Nat) (t : Ticket) (run : TicketRun) (s : State) : (runOn tine t run s).steady = s.steady := by
  unfold runOn; first | (simp [steady_fields]; done) | ((try simp); (repeat' split) <;> simp_all [steady_fields]; done)

@[simp] theorem freeTine_steady (tine : Nat) (s : State) : (freeTine tine s).2.steady = s.steady := by
  unfold freeTine; first | (simp [steady_fields]; done) | ((try simp); (repeat' split) <;> simp_all [steady_fields]; done)

theorem freeTine_pair {tine : Nat} {s : State} {r0 : _} {last : State} (eq : freeTine tine s = (r0, last)) : last.steady = s.steady := by
  have k := freeTine_steady tine s; rwa [eq] at k

@[simp] theorem notePaceParked_steady (s : State) : (notePaceParked s).steady = s.steady := by
  unfold notePaceParked; simp [steady_fields]

@[simp] theorem applyParkedSet_steady (s : State) : (applyParkedSet s).steady = s.steady := by
  unfold applyParkedSet; simp

end Sys2Proof.Machine
end

