-- ==== Sys2Proof/Laws/Steady/Voxca.lean ====
section
/-! SUPPORT. What `Machine/Voxca.lean` changes leaves the steady fields as they are. -/

namespace Sys2Proof.Machine

@[simp] theorem modifySlice_steady (h : Nat) (f : VoxcaSlice → VoxcaSlice) (s : State) : (modifySlice h f s).steady = s.steady := by
  unfold modifySlice; simp [steady_fields]

@[simp] theorem modifyIngest_steady (f : IngestPart → IngestPart) (s : State) : (modifyIngest f s).steady = s.steady := by
  unfold modifyIngest; simp [steady_fields]

@[simp] theorem modifyWork_steady (w : Nat) (f : ChunkWork → ChunkWork) (s : State) : (modifyWork w f s).steady = s.steady := by
  unfold modifyWork; simp

@[simp] theorem dropWork_steady (w : Nat) (s : State) : (dropWork w s).steady = s.steady := by
  unfold dropWork; simp

@[simp] theorem countIngest_steady (q : Nat) (f : IngestCounters → IngestCounters) (s : State) : (countIngest q f s).steady = s.steady := by
  unfold countIngest; simp

@[simp] theorem storeRaw_steady (w : ChunkWork) (s : State) : (storeRaw w s).steady = s.steady := by
  unfold storeRaw; simp

@[simp] theorem compressorStatus_steady (h e status : Nat) (s : State) : (compressorStatus h e status s).steady = s.steady := by
  unfold compressorStatus; simp

@[simp] theorem voxcaCompress_steady (h e work : Nat) (fault : Option Bytes) (s : State) : (voxcaCompress h e work fault s).steady = s.steady := by
  unfold voxcaCompress; first | (simp [steady_fields]; done) | ((try simp); (repeat' split) <;> simp_all [steady_fields]; done)

@[simp] theorem abortEngine_steady (t : Ticket) (s : State) : (abortEngine t s).steady = s.steady := by
  unfold abortEngine; simp

theorem execVoxcaCompress_steady (harrow engine work : Nat) (fault : Option Bytes) (s : State) : ∃ t, execVoxcaCompress harrow engine work fault s = .next t ∧ t.steady = s.steady := by
  exact ⟨_, rfl, by simp⟩

@[simp] theorem engineRecord_steady (kind number word1 word2 : Nat) (s : State) : (engineRecord kind number word1 word2 s).steady = s.steady := by
  unfold engineRecord; simp

@[simp] theorem noteAllQuarantined_steady (s : State) : (noteAllQuarantined s).steady = s.steady := by
  unfold noteAllQuarantined; simp

@[simp] theorem compressorFail_steady (h e status : Nat) (s : State) : (compressorFail h e status s).steady = s.steady := by
  unfold compressorFail; simp

@[simp] theorem voxcaVerify_steady (work : Nat) (s : State) : (voxcaVerify work s).steady = s.steady := by
  unfold voxcaVerify; first | (simp [steady_fields]; done) | ((try simp); (repeat' split) <;> simp_all [steady_fields]; done)

theorem execVoxcaVerify_steady (work : Nat) (s : State) : ∃ t, execVoxcaVerify work s = .next t ∧ t.steady = s.steady := by
  exact ⟨_, rfl, by simp⟩

@[simp] theorem decompressRun_steady (h e : Nat) (stream : Bytes) (stop : Option Nat) (fault : Option Nat) (s : State) : (decompressRun h e stream stop fault s).2.2.steady = s.steady := by
  unfold decompressRun; simp

theorem decompressRun_pair {h e : Nat} {stream : Bytes} {stop : Option Nat} {fault : Option Nat} {s : State} {r0 r1 : _} {last : State} (eq : decompressRun h e stream stop fault s = (r0, r1, last)) : last.steady = s.steady := by
  have k := decompressRun_steady h e stream stop fault s; rwa [eq] at k

@[simp] theorem decompressorFail_steady (h e st1 st2 : Nat) (s : State) : (decompressorFail h e st1 st2 s).steady = s.steady := by
  unfold decompressorFail; simp [steady_fields]

@[simp] theorem decodeTwice_steady (h e : Nat) (stream : Bytes) (stop : Option Nat) (fault : Option Nat) (s : State) : (decodeTwice h e stream stop fault s).2.2.steady = s.steady := by
  unfold decodeTwice; first | (simp [steady_fields]; done) | ((try simp); (repeat' split) <;> simp_all [steady_fields]; done)

theorem decodeTwice_pair {h e : Nat} {stream : Bytes} {stop : Option Nat} {fault : Option Nat} {s : State} {r0 r1 : _} {last : State} (eq : decodeTwice h e stream stop fault s = (r0, r1, last)) : last.steady = s.steady := by
  have k := decodeTwice_steady h e stream stop fault s; rwa [eq] at k

theorem execVoxcaDecompress_steady (harrow engine : Nat) (stream : Bytes) (stop : Option Nat) (fault : Option Nat) (s : State) : ∃ t, execVoxcaDecompress harrow engine stream stop fault s = .next t ∧ t.steady = s.steady := by
  unfold execVoxcaDecompress; (repeat' split) <;> refine ⟨_, rfl, ?_⟩ <;> (try dsimp only) <;> (repeat' split) <;> first | (simp [steady_fields]; done) | ((try simp); grind [emit_steady, decodeTwice_steady, decodeTwice_pair]) | (simp_all [steady_fields]; done)

end Sys2Proof.Machine
end

