-- ==== Sys2Proof/Laws/Steady/McRun.lean ====
section
/-! SUPPORT. What `Machine/McRun.lean` changes leaves the steady fields as they are. -/

namespace Sys2Proof.Machine

@[simp] theorem consumeNonce_steady (ring : Nat) (s : State) : (consumeNonce ring s).steady = s.steady := by
  unfold consumeNonce; simp [steady_fields]

@[simp] theorem authFailed_steady (opcode : Nat) (p : McPacket) (s : State) : (authFailed opcode p s).steady = s.steady := by
  unfold authFailed; simp [steady_fields]

@[simp] theorem authCheck_steady (opcode : Nat) (p : McPacket) (s : State) : (authCheck opcode p s).2.steady = s.steady := by
  unfold authCheck; simp

theorem authCheck_pair {opcode : Nat} {p : McPacket} {s : State} {r0 : _} {last : State} (eq : authCheck opcode p s = (r0, last)) : last.steady = s.steady := by
  have k := authCheck_steady opcode p s; rwa [eq] at k

@[simp] theorem packetCheck_steady (opcode : Nat) (p : McPacket) (s : State) : (packetCheck opcode p s).2.steady = s.steady := by
  unfold packetCheck; first | (simp [steady_fields]; done) | ((try simp); (repeat' split) <;> simp_all [steady_fields]; done)

theorem packetCheck_pair {opcode : Nat} {p : McPacket} {s : State} {r0 : _} {last : State} (eq : packetCheck opcode p s = (r0, last)) : last.steady = s.steady := by
  have k := packetCheck_steady opcode p s; rwa [eq] at k

@[simp] theorem noteFetch_steady (s : State) : (noteFetch s).steady = s.steady := by
  unfold noteFetch; simp [steady_fields]

@[simp] theorem acceptPacket_steady (opcode : Nat) (p : McPacket) (s : State) : (acceptPacket opcode p s).2.steady = s.steady := by
  unfold acceptPacket; first | (simp [steady_fields]; done) | ((try simp); (repeat' split) <;> simp_all [steady_fields]; done)

theorem acceptPacket_pair {opcode : Nat} {p : McPacket} {s : State} {r0 : _} {last : State} (eq : acceptPacket opcode p s = (r0, last)) : last.steady = s.steady := by
  have k := acceptPacket_steady opcode p s; rwa [eq] at k

@[simp] theorem unfetch_steady (p : McPacket) (s : State) : (unfetch p s).steady = s.steady := by
  unfold unfetch; simp [steady_fields]

@[simp] theorem endCommand_steady (p : McPacket) (r : McEnd × State) : (endCommand p r).steady = r.2.steady := by
  unfold endCommand; first | (simp [steady_fields]; done) | ((try simp); (repeat' split) <;> simp_all [steady_fields]; done)

@[simp] theorem takeSlots_steady (p : McPacket) (s : State) : (takeSlots p s).steady = s.steady := by
  unfold takeSlots; (try dsimp only) <;> (repeat' split) <;> first | (simp [steady_fields]; done) | ((try simp); grind []) | (simp_all [steady_fields]; done)

@[simp] theorem mciRun_steady (opcode : Nat) (p : McPacket) (body : State → McEnd × State) (s : State) (hbody : ∀ (x0 : State), (body x0).2.steady = (x0).steady) : (mciRun opcode p body s).steady = s.steady := by
  unfold mciRun
  have k := acceptPacket_steady opcode p s
  split
  · split <;> simp [hbody]
  · split
    · rfl
    · dsimp only; split <;> simp [hbody, k]

@[simp] theorem bufferWrite_steady (p : McPacket) (bytes : Bytes) (s : State) : (bufferWrite p bytes s).steady = s.steady := by
  unfold bufferWrite; simp

@[simp] theorem busFail_steady (p : McPacket) (s : State) : (busFail p s).2.steady = s.steady := by
  unfold busFail; simp [steady_fields]

theorem busFail_pair {p : McPacket} {s : State} {r0 : _} {last : State} (eq : busFail p s = (r0, last)) : last.steady = s.steady := by
  have k := busFail_steady p s; rwa [eq] at k

@[simp] theorem answerRecords_steady (p : McPacket) (records : List Bytes) (result : Bytes) (s : State) : (answerRecords p records result s).2.steady = s.steady := by
  unfold answerRecords; simp

theorem answerRecords_pair {p : McPacket} {records : List Bytes} {result : Bytes} {s : State} {r0 : _} {last : State} (eq : answerRecords p records result s = (r0, last)) : last.steady = s.steady := by
  have k := answerRecords_steady p records result s; rwa [eq] at k

@[simp] theorem refuse_steady (status : Status) (s : State) : (refuse status s).2.steady = s.steady := by
  unfold refuse; simp

theorem refuse_pair {status : Status} {s : State} {r0 : _} {last : State} (eq : refuse status s = (r0, last)) : last.steady = s.steady := by
  have k := refuse_steady status s; rwa [eq] at k

@[simp] theorem ok_steady (result : Bytes) (s : State) : (ok result s).2.steady = s.steady := by
  unfold ok; simp

theorem ok_pair {result : Bytes} {s : State} {r0 : _} {last : State} (eq : ok result s = (r0, last)) : last.steady = s.steady := by
  have k := ok_steady result s; rwa [eq] at k

end Sys2Proof.Machine
end

