-- ==== Sys2Proof/Laws/Steady/Winnow.lean ====
section
/-! SUPPORT. What `Machine/Winnow.lean` changes leaves the steady fields as they are. -/

namespace Sys2Proof.Machine

@[simp] theorem countTable_steady (t : Nat) (f : WinnowCounters → WinnowCounters) (s : State) : (countTable t f s).steady = s.steady := by
  unfold countTable; simp [steady_fields]

@[simp] theorem modifyEntries_steady (f : List (Nat × WinnowEntry) → List (Nat × WinnowEntry)) (s : State) : (modifyEntries f s).steady = s.steady := by
  unfold modifyEntries; simp [steady_fields]

@[simp] theorem dropEntry_steady (wide : Bool) (bank e : Nat) (s : State) : (dropEntry wide bank e s).steady = s.steady := by
  unfold dropEntry; simp

@[simp] theorem searchOnce_steady (t m key : Nat) (upset : Bool) (s : State) : (searchOnce t m key upset s).2.2.steady = s.steady := by
  unfold searchOnce; (try dsimp only) <;> (repeat' split) <;> first | (simp [steady_fields]; done) | ((try simp); grind [countTable_steady, dropEntry_steady]) | (simp_all [steady_fields]; done)

theorem searchOnce_pair {t m key : Nat} {upset : Bool} {s : State} {r0 r1 : _} {last : State} (eq : searchOnce t m key upset s = (r0, r1, last)) : last.steady = s.steady := by
  have k := searchOnce_steady t m key upset s; rwa [eq] at k

@[simp] theorem searchRead_steady (t m key upsets : Nat) (s : State) : (searchRead t m key upsets s).2.steady = s.steady := by
  unfold searchRead; (try dsimp only) <;> (repeat' split) <;> first | (simp [steady_fields]; done) | ((try simp); grind [searchOnce_steady, searchOnce_pair]) | (simp_all [steady_fields]; done)

theorem searchRead_pair {t m key upsets : Nat} {s : State} {r0 : _} {last : State} (eq : searchRead t m key upsets s = (r0, last)) : last.steady = s.steady := by
  have k := searchRead_steady t m key upsets s; rwa [eq] at k

@[simp] theorem winnowSearch_steady (t m key : Nat) (nocount : Bool) (badParity : Nat) (s : State) : (winnowSearch t m key nocount badParity s).2.steady = s.steady := by
  unfold winnowSearch; first | (simp [steady_fields]; done) | ((try simp); (repeat' split) <;> simp_all [steady_fields]; done)

theorem winnowSearch_pair {t m key : Nat} {nocount : Bool} {badParity : Nat} {s : State} {r0 : _} {last : State} (eq : winnowSearch t m key nocount badParity s = (r0, last)) : last.steady = s.steady := by
  have k := winnowSearch_steady t m key nocount badParity s; rwa [eq] at k

theorem execSearch_steady (table mask : Nat) (key : BitVec 192) (nocount : Bool) (badParity : Nat) (s : State) : ∃ t, execSearch table mask key nocount badParity s = .next t ∧ t.steady = s.steady := by
  exact ⟨_, rfl, by simp⟩

@[simp] theorem writeEntry_steady (wide : Bool) (bank e key data hits : Nat) (s : State) : (writeEntry wide bank e key data hits s).steady = s.steady := by
  unfold writeEntry; simp

@[simp] theorem replaceData_steady (bank e data : Nat) (s : State) : (replaceData bank e data s).steady = s.steady := by
  unfold replaceData; simp

@[simp] theorem insertUnit_steady (t : Nat) (wide : Bool) (bank key data : Nat) (s : State) : (insertUnit t wide bank key data s).steady = s.steady := by
  unfold insertUnit; first | (simp [steady_fields]; done) | ((try simp); (repeat' split) <;> simp_all [steady_fields]; done)

@[simp] theorem winnowInsert_steady (t key data : Nat) (s : State) : (winnowInsert t key data s).steady = s.steady := by
  unfold winnowInsert; first | (simp [steady_fields]; done) | ((try simp); (repeat' split) <;> simp_all [steady_fields]; done)

@[simp] theorem winnowRefuse_steady (ticket : Option EpochRef) (s : State) : (winnowRefuse ticket s).steady = s.steady := by
  unfold winnowRefuse; first | (simp [steady_fields]; done) | ((try simp); (repeat' split) <;> simp_all [steady_fields]; done)

theorem execInsert_steady (table : Nat) (key : BitVec 192) (data : Nat) (ticket : Option EpochRef) (s : State) : ∃ t, execInsert table key data ticket s = .next t ∧ t.steady = s.steady := by
  exact ⟨_, rfl, by simp⟩

@[simp] theorem winnowDelete_steady (t m key : Nat) (s : State) : (winnowDelete t m key s).2.steady = s.steady := by
  unfold winnowDelete; simp

theorem winnowDelete_pair {t m key : Nat} {s : State} {r0 : _} {last : State} (eq : winnowDelete t m key s = (r0, last)) : last.steady = s.steady := by
  have k := winnowDelete_steady t m key s; rwa [eq] at k

theorem execWinnowDelete_steady (table mask : Nat) (key : BitVec 192) (ticket : Option EpochRef) (s : State) : ∃ t, execWinnowDelete table mask key ticket s = .next t ∧ t.steady = s.steady := by
  unfold execWinnowDelete; (repeat' split) <;> refine ⟨_, rfl, ?_⟩ <;> (try dsimp only) <;> (repeat' split) <;> first | (simp [steady_fields]; done) | ((try simp); grind [emit_steady, winnowRefuse_steady, winnowDelete_steady, winnowDelete_pair]) | (simp_all [steady_fields]; done)

@[simp] theorem winnowAge_steady (bank : Nat) (s : State) : (winnowAge bank s).steady = s.steady := by
  unfold winnowAge; simp

theorem execAge_steady (bank : Nat) (s : State) : ∃ t, execAge bank s = .next t ∧ t.steady = s.steady := by
  exact ⟨_, rfl, by simp⟩

@[simp] theorem winnowClearBank_steady (bank : Nat) (s : State) : (winnowClearBank bank s).steady = s.steady := by
  unfold winnowClearBank; simp

theorem execClear_steady (bank : Nat) (s : State) : ∃ t, execClear bank s = .next t ∧ t.steady = s.steady := by
  exact ⟨_, rfl, by simp⟩

theorem execWinnowAgeTimer_steady (s : State) : ∃ t, execWinnowAgeTimer s = .next t ∧ t.steady = s.steady := by
  exact ⟨_, rfl, by simp⟩

@[simp] theorem winnowClearTable_steady (d : Nat) (s : State) : (winnowClearTable d s).steady = s.steady := by
  unfold winnowClearTable; simp

@[simp] theorem winnowResume_steady (t : Nat) (s : State) : (winnowResume t s).steady = s.steady := by
  unfold winnowResume; first | (simp [steady_fields]; done) | ((try simp); (repeat' split) <;> simp_all [steady_fields]; done)

@[simp] theorem winnowTableGet_steady (p : McPacket) (s : State) : (winnowTableGet p s).2.steady = s.steady := by
  unfold winnowTableGet; simp

theorem winnowTableGet_pair {p : McPacket} {s : State} {r0 : _} {last : State} (eq : winnowTableGet p s = (r0, last)) : last.steady = s.steady := by
  have k := winnowTableGet_steady p s; rwa [eq] at k

theorem execWinnowTableGet_steady (p : McPacket) (s : State) : ∃ t, execWinnowTableGet p s = .next t ∧ t.steady = s.steady := by
  exact ⟨_, rfl, by simp⟩

@[simp] theorem winnowTableSet_steady (p : McPacket) (s : State) : (winnowTableSet p s).2.steady = s.steady := by
  unfold winnowTableSet; simp [steady_fields]

theorem winnowTableSet_pair {p : McPacket} {s : State} {r0 : _} {last : State} (eq : winnowTableSet p s = (r0, last)) : last.steady = s.steady := by
  have k := winnowTableSet_steady p s; rwa [eq] at k

theorem execWinnowTableSet_steady (p : McPacket) (s : State) : ∃ t, execWinnowTableSet p s = .next t ∧ t.steady = s.steady := by
  exact ⟨_, rfl, by simp⟩

@[simp] theorem winnowMaskSet_steady (p : McPacket) (s : State) : (winnowMaskSet p s).2.steady = s.steady := by
  unfold winnowMaskSet; simp [steady_fields]

theorem winnowMaskSet_pair {p : McPacket} {s : State} {r0 : _} {last : State} (eq : winnowMaskSet p s = (r0, last)) : last.steady = s.steady := by
  have k := winnowMaskSet_steady p s; rwa [eq] at k

theorem execWinnowMaskSet_steady (p : McPacket) (s : State) : ∃ t, execWinnowMaskSet p s = .next t ∧ t.steady = s.steady := by
  exact ⟨_, rfl, by simp⟩

@[simp] theorem winnowSearchCmd_steady (p : McPacket) (s : State) : (winnowSearchCmd p s).2.steady = s.steady := by
  unfold winnowSearchCmd; simp

theorem winnowSearchCmd_pair {p : McPacket} {s : State} {r0 : _} {last : State} (eq : winnowSearchCmd p s = (r0, last)) : last.steady = s.steady := by
  have k := winnowSearchCmd_steady p s; rwa [eq] at k

theorem execWinnowSearch_steady (p : McPacket) (s : State) : ∃ t, execWinnowSearch p s = .next t ∧ t.steady = s.steady := by
  exact ⟨_, rfl, by simp⟩

@[simp] theorem winnowRead_steady (p : McPacket) (s : State) : (winnowRead p s).2.steady = s.steady := by
  unfold winnowRead; simp

theorem winnowRead_pair {p : McPacket} {s : State} {r0 : _} {last : State} (eq : winnowRead p s = (r0, last)) : last.steady = s.steady := by
  have k := winnowRead_steady p s; rwa [eq] at k

theorem execWinnowRead_steady (p : McPacket) (s : State) : ∃ t, execWinnowRead p s = .next t ∧ t.steady = s.steady := by
  exact ⟨_, rfl, by simp⟩

@[simp] theorem winnowClearCmd_steady (p : McPacket) (s : State) : (winnowClearCmd p s).2.steady = s.steady := by
  unfold winnowClearCmd; simp

theorem winnowClearCmd_pair {p : McPacket} {s : State} {r0 : _} {last : State} (eq : winnowClearCmd p s = (r0, last)) : last.steady = s.steady := by
  have k := winnowClearCmd_steady p s; rwa [eq] at k

theorem execWinnowClear_steady (p : McPacket) (s : State) : ∃ t, execWinnowClear p s = .next t ∧ t.steady = s.steady := by
  exact ⟨_, rfl, by simp⟩

@[simp] theorem winnowStats_steady (p : McPacket) (s : State) : (winnowStats p s).2.steady = s.steady := by
  unfold winnowStats; simp

theorem winnowStats_pair {p : McPacket} {s : State} {r0 : _} {last : State} (eq : winnowStats p s = (r0, last)) : last.steady = s.steady := by
  have k := winnowStats_steady p s; rwa [eq] at k

theorem execWinnowStats_steady (p : McPacket) (s : State) : ∃ t, execWinnowStats p s = .next t ∧ t.steady = s.steady := by
  exact ⟨_, rfl, by simp⟩

end Sys2Proof.Machine
end

