-- ==== Sys2Proof/Laws/Steady/MapOps.lean ====
section
/-! SUPPORT. What `Machine/MapOps.lean` changes leaves the steady fields as they are. -/

namespace Sys2Proof.Machine

@[simp] theorem modifyMap_steady (f : MapTables → MapTables) (s : State) : (modifyMap f s).steady = s.steady := by
  unfold modifyMap; simp [steady_fields]

@[simp] theorem indexEnter_steady (domain : Nat) (fp : Bytes) (entry : Nat) (s : State) : (indexEnter domain fp entry s).steady = s.steady := by
  unfold indexEnter; simp

@[simp] theorem indexDrop_steady (entry : Nat) (s : State) : (indexDrop entry s).steady = s.steady := by
  unfold indexDrop; simp

@[simp] theorem epochCount_steady (domain epoch : Nat) (up : Bool) (s : State) : (epochCount domain epoch up s).steady = s.steady := by
  unfold epochCount; simp

@[simp] theorem chunkDeath_steady (entry : Nat) (s : State) : (chunkDeath entry s).steady = s.steady := by
  unfold chunkDeath; first | (simp [steady_fields]; done) | ((try simp); (repeat' split) <;> simp_all [steady_fields]; done)

@[simp] theorem modifyLoc_steady (chunk : Nat) (f : Loc → Loc) (s : State) : (modifyLoc chunk f s).steady = s.steady := by
  unfold modifyLoc; simp

@[simp] theorem refGain_steady (q entry : Nat) (s : State) : (refGain q entry s).steady = s.steady := by
  unfold refGain; first | (simp [steady_fields]; done) | ((try simp); (repeat' split) <;> simp_all [steady_fields]; done)

@[simp] theorem refLose_steady (entry : Nat) (s : State) : (refLose entry s).steady = s.steady := by
  unfold refLose; first | (simp [steady_fields]; done) | ((try simp); (repeat' split) <;> simp_all [steady_fields]; done)

@[simp] theorem takeCopy_steady (ns snap page : Nat) (s : State) : (takeCopy ns snap page s).steady = s.steady := by
  unfold takeCopy; simp [steady_fields]

@[simp] theorem putLive_steady (ns grain entry : Nat) (s : State) : (putLive ns grain entry s).steady = s.steady := by
  unfold putLive; simp

@[simp] theorem changeLive_steady (q ns grain new : Nat) (counted : Bool) (s : State) : (changeLive q ns grain new counted s).steady = s.steady := by
  unfold changeLive; simp

@[simp] theorem changePiece_steady (q object offset len new : Nat) (counted : Bool) (s : State) : (changePiece q object offset len new counted s).steady = s.steady := by
  unfold changePiece; simp

@[simp] theorem dropPieces_steady (object : Nat) (s : State) : (dropPieces object s).steady = s.steady := by
  unfold dropPieces; simp

@[simp] theorem freeVersion_steady (o : ObjRecord) (s : State) : (freeVersion o s).steady = s.steady := by
  unfold freeVersion; simp

@[simp] theorem sweepVersions_steady (objDomain : Nat) (s : State) : (sweepVersions objDomain s).steady = s.steady := by
  unfold sweepVersions; simp

@[simp] theorem putObject_steady (o : ObjRecord) (s : State) : (putObject o s).steady = s.steady := by
  unfold putObject; first | (simp [steady_fields]; done) | ((try simp); (repeat' split) <;> simp_all [steady_fields]; done)

@[simp] theorem issueTime_steady (d : Nat) (s : State) : (issueTime d s).2.steady = s.steady := by
  unfold issueTime; simp [steady_fields]

theorem issueTime_pair {d : Nat} {s : State} {r0 : _} {last : State} (eq : issueTime d s = (r0, last)) : last.steady = s.steady := by
  have k := issueTime_steady d s; rwa [eq] at k

end Sys2Proof.Machine
end

