-- ==== Sys2Proof/Laws/Steady/Journal.lean ====
section
/-! SUPPORT. What `Machine/Journal.lean` changes leaves the steady fields as they are. -/

namespace Sys2Proof.Machine

@[simp] theorem rebuildAcres_steady (s : State) : (rebuildAcres s).steady = s.steady := by
  unfold rebuildAcres; simp [steady_fields]

@[simp] theorem mapTarget_steady (t : Target) (entry : Nat) (counted : Bool) (s : State) : (mapTarget t entry counted s).steady = s.steady := by
  unfold mapTarget; first | (simp [steady_fields]; done) | ((try simp); (repeat' split) <;> simp_all [steady_fields]; done)

@[simp] theorem modifyDomain_steady (d : Nat) (f : Domain → Domain) (s : State) : (modifyDomain d f s).steady = s.steady := by
  unfold modifyDomain; simp

@[simp] theorem applyChunk_steady (t : Target) (entry : Nat) (l : Loc) (fp : Bytes) (s : State) : (applyChunk t entry l fp s).steady = s.steady := by
  unfold applyChunk; simp

@[simp] theorem applyRelocate_steady (entry : Nat) (l : Loc) (s : State) : (applyRelocate entry l s).steady = s.steady := by
  unfold applyRelocate; first | (simp [steady_fields]; done) | ((try simp); (repeat' split) <;> simp_all [steady_fields]; done)

@[simp] theorem applyUnmap_steady (t : Target) (count : Nat) (s : State) : (applyUnmap t count s).steady = s.steady := by
  unfold applyUnmap; first | (simp [steady_fields]; done) | ((try simp); (repeat' split) <;> simp_all [steady_fields]; done)

@[simp] theorem applySnapshot_steady (kind op id num time jseq : Nat) (s : State) : (applySnapshot kind op id num time jseq s).steady = s.steady := by
  unfold applySnapshot; simp [steady_fields]

@[simp] theorem applyEnvelope_steady (d epoch kek time : Nat) (wrapped : Bytes) (s : State) : (applyEnvelope d epoch kek time wrapped s).steady = s.steady := by
  unfold applyEnvelope; simp

@[simp] theorem applyDestroy_steady (d epoch : Nat) (s : State) : (applyDestroy d epoch s).steady = s.steady := by
  unfold applyDestroy; simp [steady_fields]

@[simp] theorem applyScopeParam_steady (p : ScopeParam) (s : State) : (applyScopeParam p s).steady = s.steady := by
  unfold applyScopeParam; simp [steady_fields]

@[simp] theorem modifyAcre_steady (n : Nat) (f : Acre → Acre) (s : State) : (modifyAcre n f s).steady = s.steady := by
  unfold modifyAcre; simp [steady_fields]

@[simp] theorem applyTable_steady (c : TableChange) (s : State) : (applyTable c s).steady = s.steady := by
  unfold applyTable; first | (simp [steady_fields]; done) | ((try simp); (repeat' split) <;> simp_all [steady_fields]; done)

@[simp] theorem applyBody_steady (jseq : Nat) (b : JBody) (s : State) : (applyBody jseq b s).steady = s.steady := by
  unfold applyBody; first | (simp [steady_fields]; done) | ((try simp); (repeat' split) <;> simp_all [steady_fields]; done)

@[simp] theorem mirrorSend_steady (q flags : Nat) (records : List Bytes) (payload : Bytes) (releases : List Nat) (s : State) : (mirrorSend q flags records payload releases s).2.steady = s.steady := by
  unfold mirrorSend; simp [steady_fields]

theorem mirrorSend_pair {q flags : Nat} {records : List Bytes} {payload : Bytes} {releases : List Nat} {s : State} {r0 : _} {last : State} (eq : mirrorSend q flags records payload releases s = (r0, last)) : last.steady = s.steady := by
  have k := mirrorSend_steady q flags records payload releases s; rwa [eq] at k

@[simp] theorem beginCheckpoint_steady (s : State) : (beginCheckpoint s).steady = s.steady := by
  unfold beginCheckpoint; simp [steady_fields]

@[simp] theorem ringPlace_steady (b : JBody) (s : State) : (ringPlace b s).2.steady = s.steady := by
  unfold ringPlace; simp [steady_fields]

theorem ringPlace_pair {b : JBody} {s : State} {r0 : _} {last : State} (eq : ringPlace b s = (r0, last)) : last.steady = s.steady := by
  have k := ringPlace_steady b s; rwa [eq] at k

@[simp] theorem placeWith_steady (q : Nat) (b : JBody) (payload : Bytes) (releases : List Nat) (s : State) : (placeWith q b payload releases s).2.2.steady = s.steady := by
  unfold placeWith; simp

theorem placeWith_pair {q : Nat} {b : JBody} {payload : Bytes} {releases : List Nat} {s : State} {r0 r1 : _} {last : State} (eq : placeWith q b payload releases s = (r0, r1, last)) : last.steady = s.steady := by
  have k := placeWith_steady q b payload releases s; rwa [eq] at k

@[simp] theorem place_steady (q : Nat) (b : JBody) (s : State) : (place q b s).2.2.steady = s.steady := by
  unfold place; simp

theorem place_pair {q : Nat} {b : JBody} {s : State} {r0 r1 : _} {last : State} (eq : place q b s = (r0, r1, last)) : last.steady = s.steady := by
  have k := place_steady q b s; rwa [eq] at k

@[simp] theorem place'_steady (q : Nat) (b : JBody) (s : State) : (place' q b s).steady = s.steady := by
  unfold place'; simp

end Sys2Proof.Machine
end

