-- ==== Sys2Proof/Laws/Steady/Furrow.lean ====
section
/-! SUPPORT. What `Machine/Furrow.lean` changes leaves the steady fields as they are. -/

namespace Sys2Proof.Machine

@[simp] theorem modifyFurrow_steady (b : Nat) (f : FurrowLink → FurrowLink) (s : State) : (modifyFurrow b f s).steady = s.steady := by
  unfold modifyFurrow; simp [steady_fields]

@[simp] theorem modifyMedia_steady (f : MediaPart → MediaPart) (s : State) : (modifyMedia f s).steady = s.steady := by
  unfold modifyMedia; simp [steady_fields]

@[simp] theorem modifyHeadBridge_steady (b : Nat) (f : HeadBridge → HeadBridge) (s : State) : (modifyHeadBridge b f s).steady = s.steady := by
  unfold modifyHeadBridge; simp

@[simp] theorem furrowLink_steady (b : Nat) (f : LinkEnd → LinkEnd × List Bytes) (s : State) : (furrowLink b f s).steady = s.steady := by
  unfold furrowLink; simp [steady_fields]

@[simp] theorem sendCommand_steady (b : Nat) (c : FurrowCmd) (s : State) : (sendCommand b c s).steady = s.steady := by
  unfold sendCommand; simp

@[simp] theorem furrowIssue_steady (b opcode : Nat) (params : Bytes) (data : List Bytes) (use : FurrowUse) (s : State) : (furrowIssue b opcode params data use s).steady = s.steady := by
  unfold furrowIssue; simp

@[simp] theorem furrowPump_steady  : ∀ (x0 : Nat) (x1 : Nat) (x2 : State), (furrowPump x0 x1 x2).steady = x2.steady := by
  intro x0; induction x0 with
  | zero => intros; simp [furrowPump]
  | succ n ih => intros; unfold furrowPump; (try dsimp only) <;> (repeat' split) <;> first | (simp [steady_fields, ih]; done) | ((try simp [ih]); grind [ih, modifyFurrow_steady, sendCommand_steady]) | (simp_all [steady_fields]; done)

@[simp] theorem furrowFlush_steady (b : Nat) (s : State) : (furrowFlush b s).steady = s.steady := by
  unfold furrowFlush; simp

@[simp] theorem retireCmd_steady (b tag : Nat) (s : State) : (retireCmd b tag s).steady = s.steady := by
  unfold retireCmd; simp

@[simp] theorem sendRead_steady (b die block cw count : Nat) (s : State) : (sendRead b die block cw count s).steady = s.steady := by
  unfold sendRead; simp

@[simp] theorem readExchange_steady (b die block cw count : Nat) (s : State) : (readExchange b die block cw count s).steady = s.steady := by
  unfold readExchange; simp

@[simp] theorem acquire_steady (b : Nat) (s : State) : (acquire b s).steady = s.steady := by
  unfold acquire; simp

@[simp] theorem acquireAll_steady (bs : List Nat) (s : State) : (acquireAll bs s).steady = s.steady := by
  unfold acquireAll; simp

@[simp] theorem release_steady (b : Nat) (s : State) : (release b s).steady = s.steady := by
  unfold release; simp

theorem execLeaseRenewTimer_steady (s : State) : ∃ t, execLeaseRenewTimer s = .next t ∧ t.steady = s.steady := by
  exact ⟨_, rfl, by simp⟩

theorem execLeaseAcquireRetry_steady (bridge : Nat) (s : State) : ∃ t, execLeaseAcquireRetry bridge s = .next t ∧ t.steady = s.steady := by
  exact ⟨_, rfl, by simp⟩

@[simp] theorem furrowStatus_steady (p : McPacket) (s : State) : (furrowStatus p s).2.steady = s.steady := by
  unfold furrowStatus; simp

theorem furrowStatus_pair {p : McPacket} {s : State} {r0 : _} {last : State} (eq : furrowStatus p s = (r0, last)) : last.steady = s.steady := by
  have k := furrowStatus_steady p s; rwa [eq] at k

theorem execFurrowStatus_steady (p : McPacket) (s : State) : ∃ t, execFurrowStatus p s = .next t ∧ t.steady = s.steady := by
  exact ⟨_, rfl, by simp⟩

end Sys2Proof.Machine
end

