-- ==== Sys2Proof/Laws/Steady/Acres.lean ====
section
/-! SUPPORT. What `Machine/Acres.lean` changes leaves the steady fields as they are. -/

namespace Sys2Proof.Machine

@[simp] theorem mediaRecord_steady (kind bridge die value : Nat) (s : State) : (mediaRecord kind bridge die value s).steady = s.steady := by
  unfold mediaRecord; simp

@[simp] theorem readonlyEvent_steady (entered : Bool) (s : State) : (readonlyEvent entered s).steady = s.steady := by
  unfold readonlyEvent; simp

@[simp] theorem domainShort_steady (acre : Nat) (broken : Bool) (s : State) : (domainShort acre broken s).steady = s.steady := by
  unfold domainShort; simp [steady_fields]

@[simp] theorem checkWarnings_steady (s : State) : (checkWarnings s).steady = s.steady := by
  unfold checkWarnings; simp [steady_fields]

@[simp] theorem takeAcreNumber_steady (s : State) : (takeAcreNumber s).2.steady = s.steady := by
  unfold takeAcreNumber; first | (simp [steady_fields]; done) | ((try simp); (repeat' split) <;> simp_all [steady_fields]; done)

theorem takeAcreNumber_pair {s : State} {r0 : _} {last : State} (eq : takeAcreNumber s = (r0, last)) : last.steady = s.steady := by
  have k := takeAcreNumber_steady s; rwa [eq] at k

@[simp] theorem openAcre_steady (stream quadrant : Nat) (useReserve : Bool) (s : State) : (openAcre stream quadrant useReserve s).2.steady = s.steady := by
  unfold openAcre; first | (simp [steady_fields]; done) | ((try simp); (repeat' split) <;> simp_all [steady_fields]; done)

theorem openAcre_pair {stream quadrant : Nat} {useReserve : Bool} {s : State} {r0 : _} {last : State} (eq : openAcre stream quadrant useReserve s = (r0, last)) : last.steady = s.steady := by
  have k := openAcre_steady stream quadrant useReserve s; rwa [eq] at k

@[simp] theorem acreTo_steady (n st : Nat) (s : State) : (acreTo n st s).steady = s.steady := by
  unfold acreTo; simp

@[simp] theorem sealAcre_steady (n : Nat) (s : State) : (sealAcre n s).steady = s.steady := by
  unfold sealAcre; first | (simp [steady_fields]; done) | ((try simp); (repeat' split) <;> simp_all [steady_fields]; done)

@[simp] theorem readonlyFor_steady (ids : Bool) (s : State) : (readonlyFor ids s).steady = s.steady := by
  unfold readonlyFor; (try dsimp only) <;> (repeat' split) <;> first | (simp [steady_fields]; done) | ((try simp); grind [setMode_steady, mediaRecord_steady, readonlyEvent_steady]) | (simp_all [steady_fields]; done)

@[simp] theorem enterReadonly_steady (s : State) : (enterReadonly s).steady = s.steady := by
  unfold enterReadonly; first | (simp [steady_fields]; done) | ((try simp); (repeat' split) <;> simp_all [steady_fields]; done)

@[simp] theorem idsWatch_steady (s : State) : (idsWatch s).steady = s.steady := by
  unfold idsWatch; simp

theorem execReadonlyExit_steady (s : State) : ∃ t, execReadonlyExit s = .next t ∧ t.steady = s.steady := by
  unfold execReadonlyExit; (repeat' split) <;> refine ⟨_, rfl, ?_⟩ <;> (try dsimp only) <;> (repeat' split) <;> first | (simp [steady_fields]; done) | ((try simp); grind [setMode_steady, readonlyEvent_steady]) | (simp_all [steady_fields]; done)

end Sys2Proof.Machine
end

