-- ==== Sys2Proof/Laws/Steady/MetaCache.lean ====
section
/-! SUPPORT. What `Machine/MetaCache.lean` changes leaves the steady fields as they are. -/

namespace Sys2Proof.Machine

@[simp] theorem modifyMem_steady (f : MemPart → MemPart) (s : State) : (modifyMem f s).steady = s.steady := by
  unfold modifyMem; simp [steady_fields]

@[simp] theorem countSlice_steady (slice : Nat) (f : McCounters → McCounters) (s : State) : (countSlice slice f s).steady = s.steady := by
  unfold countSlice; simp

@[simp] theorem writeBack_steady (line : Nat) (data : List (Option Byte)) (s : State) : (writeBack line data s).steady = s.steady := by
  unfold writeBack; simp

@[simp] theorem dropSide_steady (line : Nat) (s : State) : (dropSide line s).steady = s.steady := by
  unfold dropSide; simp

@[simp] theorem dropVictim_steady (line : Nat) (s : State) : (dropVictim line s).steady = s.steady := by
  unfold dropVictim; simp

@[simp] theorem dropLine_steady (line : Nat) (s : State) : (dropLine line s).steady = s.steady := by
  unfold dropLine; simp

@[simp] theorem dirtyLost_steady (line : Nat) (s : State) : (dirtyLost line s).steady = s.steady := by
  unfold dirtyLost; simp

@[simp] theorem rebuildLine_steady (line : Nat) (s : State) : (rebuildLine line s).steady = s.steady := by
  unfold rebuildLine; simp

@[simp] theorem victimRoom_steady (s : State) : (victimRoom s).steady = s.steady := by
  unfold victimRoom; first | (simp [steady_fields]; done) | ((try simp); (repeat' split) <;> simp_all [steady_fields]; done)

@[simp] theorem offerVictim_steady (l : McLine) (s : State) : (offerVictim l s).steady = s.steady := by
  unfold offerVictim; simp

@[simp] theorem placeLine_steady (l : McLine) (s : State) : (placeLine l s).steady = s.steady := by
  unfold placeLine; simp

@[simp] theorem allocLine_steady (line : Nat) (dirty reused : Bool) (data : List (Option Byte)) (s : State) : (allocLine line dirty reused data s).steady = s.steady := by
  unfold allocLine; first | (simp [steady_fields]; done) | ((try simp); (repeat' split) <;> simp_all [steady_fields]; done)

@[simp] theorem hitLine_steady (l : McLine) (off : Nat) (bytes : Bytes) (s : State) : (hitLine l off bytes s).steady = s.steady := by
  unfold hitLine; simp

@[simp] theorem missLine_steady (line off : Nat) (bytes : Bytes) (s : State) : (missLine line off bytes s).steady = s.steady := by
  unfold missLine; simp

@[simp] theorem lookBelow_steady (line off : Nat) (bytes : Bytes) (s : State) : (lookBelow line off bytes s).steady = s.steady := by
  unfold lookBelow; first | (simp [steady_fields]; done) | ((try simp); (repeat' split) <;> simp_all [steady_fields]; done)

@[simp] theorem invalidateLine_steady (l : McLine) (s : State) : (invalidateLine l s).steady = s.steady := by
  unfold invalidateLine; simp

@[simp] theorem accessError_steady (err : Nat) (l : McLine) (s : State) : (accessError err l s).steady = s.steady := by
  unfold accessError; simp

@[simp] theorem mcAccess_steady (a : Nat) (bytes : Bytes) (err : Nat) (s : State) : (mcAccess a bytes err s).steady = s.steady := by
  unfold mcAccess; first | (simp [steady_fields]; done) | ((try simp); (repeat' split) <;> simp_all [steady_fields]; done)

@[simp] theorem mcPrefetch_steady (a : Nat) (s : State) : (mcPrefetch a s).steady = s.steady := by
  unfold mcPrefetch; simp

theorem execMcPrefetch_steady (addr : Nat) (s : State) : ∃ t, execMcPrefetch addr s = .next t ∧ t.steady = s.steady := by
  exact ⟨_, rfl, by simp⟩

@[simp] theorem farPut_steady (a : Nat) (bytes : Bytes) (s : State) : (farPut a bytes s).steady = s.steady := by
  unfold farPut; simp

@[simp] theorem farForget_steady (a len : Nat) (s : State) : (farForget a len s).steady = s.steady := by
  unfold farForget; simp

@[simp] theorem mcDisabled_steady (s : State) : (mcDisabled s).steady = s.steady := by
  unfold mcDisabled; simp

@[simp] theorem mcControl_steady (p : McPacket) (s : State) : (mcControl p s).2.steady = s.steady := by
  unfold mcControl; first | (simp [steady_fields]; done) | ((try simp); (repeat' split) <;> simp_all [steady_fields]; done)

theorem mcControl_pair {p : McPacket} {s : State} {r0 : _} {last : State} (eq : mcControl p s = (r0, last)) : last.steady = s.steady := by
  have k := mcControl_steady p s; rwa [eq] at k

theorem execMcEnable_steady (p : McPacket) (s : State) : ∃ t, execMcEnable p s = .next t ∧ t.steady = s.steady := by
  exact ⟨_, rfl, by simp⟩

theorem execMcDisable_steady (p : McPacket) (s : State) : ∃ t, execMcDisable p s = .next t ∧ t.steady = s.steady := by
  exact ⟨_, rfl, by simp⟩

theorem execMcDisableDone_steady (s : State) : ∃ t, execMcDisableDone s = .next t ∧ t.steady = s.steady := by
  unfold execMcDisableDone; (repeat' split) <;> refine ⟨_, rfl, ?_⟩ <;> (try dsimp only) <;> (repeat' split) <;> first | (simp [steady_fields]; done) | ((try simp); grind [writeBack_steady, mcDisabled_steady]) | (simp_all [steady_fields]; done)

@[simp] theorem mcForceDisable_steady (s : State) : (mcForceDisable s).2.steady = s.steady := by
  unfold mcForceDisable; first | (simp [steady_fields]; done) | ((try simp); (repeat' split) <;> simp_all [steady_fields]; done)

theorem mcForceDisable_pair {s : State} {r0 : _} {last : State} (eq : mcForceDisable s = (r0, last)) : last.steady = s.steady := by
  have k := mcForceDisable_steady s; rwa [eq] at k

@[simp] theorem preloadLine_steady (mask : BitVec 16) (line : Nat) (s : State) : (preloadLine mask line s).2.steady = s.steady := by
  unfold preloadLine; first | (simp [steady_fields]; done) | ((try simp); (repeat' split) <;> simp_all [steady_fields]; done)

theorem preloadLine_pair {mask : BitVec 16} {line : Nat} {s : State} {r0 : _} {last : State} (eq : preloadLine mask line s = (r0, last)) : last.steady = s.steady := by
  have k := preloadLine_steady mask line s; rwa [eq] at k

@[simp] theorem preloadAll_steady (mask : BitVec 16) (first : Nat) : ∀ (x0 : Nat) (x1 : Nat) (x2 : Nat) (x3 : State), (preloadAll mask first x0 x1 x2 x3).2.2.steady = x3.steady := by
  intro n; induction n generalizing first with
  | zero => intros; rfl
  | succ n ih => intros; unfold preloadAll; simp [ih]

theorem preloadAll_pair {mask : BitVec 16} {first : Nat} {x0 : Nat} {x1 : Nat} {x2 : Nat} {x3 : State} {r0 r1 : _} {last : State} (eq : preloadAll mask first x0 x1 x2 x3 = (r0, r1, last)) : last.steady = x3.steady := by
  have k := preloadAll_steady mask first x0 x1 x2 x3; rwa [eq] at k

@[simp] theorem clearWays_steady (mask : BitVec 16) (first count : Nat) (s : State) : (clearWays mask first count s).steady = s.steady := by
  unfold clearWays; simp

@[simp] theorem mcPreload_steady (p : McPacket) (s : State) : (mcPreload p s).2.steady = s.steady := by
  unfold mcPreload; simp

theorem mcPreload_pair {p : McPacket} {s : State} {r0 : _} {last : State} (eq : mcPreload p s = (r0, last)) : last.steady = s.steady := by
  have k := mcPreload_steady p s; rwa [eq] at k

theorem execMcPreload_steady (p : McPacket) (s : State) : ∃ t, execMcPreload p s = .next t ∧ t.steady = s.steady := by
  exact ⟨_, rfl, by simp⟩

@[simp] theorem mcUnlock_steady (p : McPacket) (s : State) : (mcUnlock p s).2.steady = s.steady := by
  unfold mcUnlock; simp

theorem mcUnlock_pair {p : McPacket} {s : State} {r0 : _} {last : State} (eq : mcUnlock p s = (r0, last)) : last.steady = s.steady := by
  have k := mcUnlock_steady p s; rwa [eq] at k

theorem execMcUnlock_steady (p : McPacket) (s : State) : ∃ t, execMcUnlock p s = .next t ∧ t.steady = s.steady := by
  exact ⟨_, rfl, by simp⟩

@[simp] theorem rangeLine_steady (op : Nat) (l : McLine) (c : RangeCount) (s : State) : (rangeLine op l c s).2.steady = s.steady := by
  unfold rangeLine; simp

theorem rangeLine_pair {op : Nat} {l : McLine} {c : RangeCount} {s : State} {r0 : _} {last : State} (eq : rangeLine op l c s = (r0, last)) : last.steady = s.steady := by
  have k := rangeLine_steady op l c s; rwa [eq] at k

@[simp] theorem rangeBuffer_steady (op : Nat) (l : BufferLine) (side : Bool) (c : RangeCount) (s : State) : (rangeBuffer op l side c s).2.steady = s.steady := by
  unfold rangeBuffer; simp

theorem rangeBuffer_pair {op : Nat} {l : BufferLine} {side : Bool} {c : RangeCount} {s : State} {r0 : _} {last : State} (eq : rangeBuffer op l side c s = (r0, last)) : last.steady = s.steady := by
  have k := rangeBuffer_steady op l side c s; rwa [eq] at k

@[simp] theorem rangeAt_steady (op line : Nat) (cs : RangeCount × State) : (rangeAt op line cs).2.steady = cs.2.steady := by
  unfold rangeAt; first | (simp [steady_fields]; done) | ((try simp); (repeat' split) <;> simp_all [steady_fields]; done)

theorem rangeAt_pair {op line : Nat} {cs : RangeCount × State} {r0 : _} {last : State} (eq : rangeAt op line cs = (r0, last)) : last.steady = cs.2.steady := by
  have k := rangeAt_steady op line cs; rwa [eq] at k

@[simp] theorem mcRangeOp_steady (p : McPacket) (s : State) : (mcRangeOp p s).2.steady = s.steady := by
  unfold mcRangeOp; dsimp only; repeat' split
  all_goals simp

theorem mcRangeOp_pair {p : McPacket} {s : State} {r0 : _} {last : State} (eq : mcRangeOp p s = (r0, last)) : last.steady = s.steady := by
  have k := mcRangeOp_steady p s; rwa [eq] at k

theorem execClean_steady (p : McPacket) (s : State) : ∃ t, execClean p s = .next t ∧ t.steady = s.steady := by
  exact ⟨_, rfl, by simp⟩

theorem execCleanInvalidate_steady (p : McPacket) (s : State) : ∃ t, execCleanInvalidate p s = .next t ∧ t.steady = s.steady := by
  exact ⟨_, rfl, by simp⟩

@[simp] theorem mcWayPower_steady (p : McPacket) (s : State) : (mcWayPower p s).2.steady = s.steady := by
  unfold mcWayPower; first | (simp [steady_fields]; done) | ((try simp); (repeat' split) <;> simp_all [steady_fields]; done)

theorem mcWayPower_pair {p : McPacket} {s : State} {r0 : _} {last : State} (eq : mcWayPower p s = (r0, last)) : last.steady = s.steady := by
  have k := mcWayPower_steady p s; rwa [eq] at k

theorem execMcWayPowerDown_steady (p : McPacket) (s : State) : ∃ t, execMcWayPowerDown p s = .next t ∧ t.steady = s.steady := by
  exact ⟨_, rfl, by simp⟩

theorem execMcWayPowerUp_steady (p : McPacket) (s : State) : ∃ t, execMcWayPowerUp p s = .next t ∧ t.steady = s.steady := by
  exact ⟨_, rfl, by simp⟩

theorem execMcWayDownDone_steady (way : Nat) (s : State) : ∃ t, execMcWayDownDone way s = .next t ∧ t.steady = s.steady := by
  unfold execMcWayDownDone; (repeat' split) <;> refine ⟨_, rfl, ?_⟩ <;> (try dsimp only) <;> (repeat' split) <;> first | (simp [steady_fields]; done) | ((try simp); grind [modifyMem_steady, writeBack_steady, dropLine_steady]) | (simp_all [steady_fields]; done)

@[simp] theorem mcTagRead_steady (p : McPacket) (s : State) : (mcTagRead p s).2.steady = s.steady := by
  unfold mcTagRead; first | (simp [steady_fields]; done) | ((try simp); (repeat' split) <;> simp_all [steady_fields]; done)

theorem mcTagRead_pair {p : McPacket} {s : State} {r0 : _} {last : State} (eq : mcTagRead p s = (r0, last)) : last.steady = s.steady := by
  have k := mcTagRead_steady p s; rwa [eq] at k

theorem execMcTagRead_steady (p : McPacket) (s : State) : ∃ t, execMcTagRead p s = .next t ∧ t.steady = s.steady := by
  exact ⟨_, rfl, by simp⟩

@[simp] theorem growFilter_steady (s : State) : (growFilter s).steady = s.steady := by
  unfold growFilter; simp

@[simp] theorem growLocation_steady (s : State) : (growLocation s).steady = s.steady := by
  unfold growLocation; simp

@[simp] theorem pagedSync_steady (s : State) : (pagedSync s).steady = s.steady := by
  unfold pagedSync; simp

@[simp] theorem growFar_steady (s : State) : (growFar s).steady = s.steady := by
  unfold growFar; simp

@[simp] theorem buildFar_steady (s : State) : (buildFar s).steady = s.steady := by
  unfold buildFar; exact (pagedSync_steady _).trans (modifyMem_steady ..)

@[simp] theorem memStatus_steady (p : McPacket) (s : State) : (memStatus p s).2.steady = s.steady := by
  unfold memStatus; simp

theorem memStatus_pair {p : McPacket} {s : State} {r0 : _} {last : State} (eq : memStatus p s = (r0, last)) : last.steady = s.steady := by
  have k := memStatus_steady p s; rwa [eq] at k

theorem execMemStatus_steady (p : McPacket) (s : State) : ∃ t, execMemStatus p s = .next t ∧ t.steady = s.steady := by
  exact ⟨_, rfl, by simp⟩

theorem execLocationPagedDaily_steady (s : State) : ∃ t, execLocationPagedDaily s = .next t ∧ t.steady = s.steady := by
  unfold execLocationPagedDaily; (repeat' split) <;> refine ⟨_, rfl, ?_⟩ <;> (try dsimp only) <;> (repeat' split) <;> first | (simp [steady_fields]; done) | ((try simp); grind [healthRecord_steady, modifyMem_steady]) | (simp_all [steady_fields]; done)

end Sys2Proof.Machine
end

