-- ==== Sys2Proof/Laws/Steady/Bales.lean ====
section
/-! SUPPORT. What `Machine/Bales.lean` changes leaves the steady fields as they are. -/

namespace Sys2Proof.Machine

@[simp] theorem modifyBale_steady (acre bale : Nat) (f : Bale → Bale) (s : State) : (modifyBale acre bale f s).steady = s.steady := by
  unfold modifyBale; simp [steady_fields]

@[simp] theorem takeWriteSeq_steady (n : Nat) (s : State) : (takeWriteSeq n s).2.steady = s.steady := by
  unfold takeWriteSeq; simp [steady_fields]

theorem takeWriteSeq_pair {n : Nat} {s : State} {r0 : _} {last : State} (eq : takeWriteSeq n s = (r0, last)) : last.steady = s.steady := by
  have k := takeWriteSeq_steady n s; rwa [eq] at k

@[simp] theorem programBlock_steady (home : Nat × Nat × Nat) (cw : Nat) (data : List Bytes) (use : FurrowUse) (s : State) : (programBlock home cw data use s).steady = s.steady := by
  unfold programBlock; simp

@[simp] theorem sealBale_steady (acre bale : Nat) (s : State) : (sealBale acre bale s).steady = s.steady := by
  unfold sealBale; first | (simp [steady_fields]; done) | ((try simp); (repeat' split) <;> simp_all [steady_fields]; done)

@[simp] theorem openHot_steady (quadrant : Nat) (s : State) : (openHot quadrant s).2.steady = s.steady := by
  unfold openHot; split
  · rfl
  · split <;> rename_i eq <;> simp [← openAcre_pair eq, steady_fields]

theorem openHot_pair {quadrant : Nat} {s : State} {r0 : _} {last : State} (eq : openHot quadrant s = (r0, last)) : last.steady = s.steady := by
  have k := openHot_steady quadrant s; rwa [eq] at k

@[simp] theorem openDataAcre_steady (stream quadrant : Nat) (s : State) : (openDataAcre stream quadrant s).2.steady = s.steady := by
  unfold openDataAcre; split
  · simp
  · split
    · rename_i eq; exact openHot_pair eq
    · rename_i eq; split
      · simp [openHot_pair eq]
      · exact openHot_pair eq

theorem openDataAcre_pair {stream quadrant : Nat} {s : State} {r0 : _} {last : State} (eq : openDataAcre stream quadrant s = (r0, last)) : last.steady = s.steady := by
  have k := openDataAcre_steady stream quadrant s; rwa [eq] at k

@[simp] theorem startBaleIn_steady (stream quadrant a : Nat) (s : State) : (startBaleIn stream quadrant a s).2.steady = s.steady := by
  unfold startBaleIn; (try dsimp only) <;> (repeat' split) <;> first | (simp [steady_fields]; done) | ((try simp); grind [modifyAcre_steady]) | (simp_all [steady_fields]; done)

theorem startBaleIn_pair {stream quadrant a : Nat} {s : State} {r0 : _} {last : State} (eq : startBaleIn stream quadrant a s = (r0, last)) : last.steady = s.steady := by
  have k := startBaleIn_steady stream quadrant a s; rwa [eq] at k

@[simp] theorem keepHot_steady (stream quadrant : Nat) (s : State) : (keepHot stream quadrant s).steady = s.steady := by
  unfold keepHot; simp

@[simp] theorem startBale_steady (stream quadrant : Nat) (only : Option Nat) (s : State) : (startBale stream quadrant only s).2.steady = s.steady := by
  unfold startBale; dsimp only; split
  · simp [steady_fields]
  · split <;> rename_i eq <;> simp [← openDataAcre_pair eq, steady_fields]

theorem startBale_pair {stream quadrant : Nat} {only : Option Nat} {s : State} {r0 : _} {last : State} (eq : startBale stream quadrant only s = (r0, last)) : last.steady = s.steady := by
  have k := startBale_steady stream quadrant only s; rwa [eq] at k

@[simp] theorem fillBale_steady (stream quadrant : Nat) (only : Option Nat) (s : State) : (fillBale stream quadrant only s).2.steady = s.steady := by
  unfold fillBale; simp

theorem fillBale_pair {stream quadrant : Nat} {only : Option Nat} {s : State} {r0 : _} {last : State} (eq : fillBale stream quadrant only s = (r0, last)) : last.steady = s.steady := by
  have k := fillBale_steady stream quadrant only s; rwa [eq] at k

@[simp] theorem putRecord_steady (b : Bale) (plot off : Nat) (victim : Option Nat) (bytes : Bytes) (chunk gen : Nat) (s : State) : (putRecord b plot off victim bytes chunk gen s).steady = s.steady := by
  unfold putRecord; simp

theorem tryPut_steady (b : Bale) (victim : Option Nat) (bytes : Bytes) (chunk gen domain epoch : Nat) (s : State) : ∀ r, tryPut b victim bytes chunk gen domain epoch s = some r → r.2.steady = s.steady := by
  intro r h; unfold tryPut at h; split at h <;> simp at h; subst h; simp

theorem tryPut_some {b : Bale} {victim : Option Nat} {bytes : Bytes} {chunk gen domain epoch : Nat} {s : State} {r0 : _} {last : State} (eq : tryPut b victim bytes chunk gen domain epoch s = some (r0, last)) : last.steady = s.steady :=
  tryPut_steady b victim bytes chunk gen domain epoch s _ eq

@[simp] theorem appendRecord_steady (stream quadrant : Nat) (victim only : Option Nat) (bytes : Bytes) (chunk gen domain epoch : Nat) (s : State) : (appendRecord stream quadrant victim only bytes chunk gen domain epoch s).2.steady = s.steady := by
  unfold appendRecord; dsimp only
  have fresh : ∀ (st : State), (match startBale stream quadrant only st with
    | (some (a, n), s1) =>
      match (baleAt a n s1).bind (fun b => tryPut b victim bytes chunk gen domain epoch s1) with
      | some (l, s2) => (some l, s2)
      | none => (none, s1)
    | (none, s1) => ((none : Option Loc), s1)).2.steady = st.steady := by
    intro st; split
    · rename_i e1; split
      · rename_i e2
        obtain ⟨b, -, e3⟩ := Option.bind_eq_some_iff.mp e2
        simp [tryPut_some e3, startBale_pair e1]
      · simp [startBale_pair e1]
    · rename_i e1; simp [startBale_pair e1]
  split
  · rename_i e1; exact (fresh _).trans (fillBale_pair e1)
  · rename_i e1; split
    · rename_i e2; simp [tryPut_some e2, fillBale_pair e1]
    · exact (fresh _).trans (by simp [fillBale_pair e1])

theorem appendRecord_pair {stream quadrant : Nat} {victim only : Option Nat} {bytes : Bytes} {chunk gen domain epoch : Nat} {s : State} {r0 : _} {last : State} (eq : appendRecord stream quadrant victim only bytes chunk gen domain epoch s = (r0, last)) : last.steady = s.steady := by
  have k := appendRecord_steady stream quadrant victim only bytes chunk gen domain epoch s; rwa [eq] at k

@[simp] theorem addDue_steady (us : List MetaUnit) (s : State) : (addDue us s).steady = s.steady := by
  unfold addDue; simp [steady_fields]

@[simp] theorem keepMeta_steady (s : State) : (keepMeta s).steady = s.steady := by
  unfold keepMeta; simp

@[simp] theorem startMetaBale_steady (a : Acre) (s : State) : (startMetaBale a s).2.steady = s.steady := by
  unfold startMetaBale; (try dsimp only) <;> (repeat' split) <;> first | (simp [steady_fields]; done) | ((try simp); grind [modifyAcre_steady, takeWriteSeq_steady, takeWriteSeq_pair]) | (simp_all [steady_fields]; done)

theorem startMetaBale_pair {a : Acre} {s : State} {r0 : _} {last : State} (eq : startMetaBale a s = (r0, last)) : last.steady = s.steady := by
  have k := startMetaBale_steady a s; rwa [eq] at k

@[simp] theorem currentMetaBale_steady (avoid : List Nat) (s : State) : (currentMetaBale avoid s).2.steady = s.steady := by
  unfold currentMetaBale; dsimp only; split
  · rfl
  · split <;> simp

theorem currentMetaBale_pair {avoid : List Nat} {s : State} {r0 : _} {last : State} (eq : currentMetaBale avoid s = (r0, last)) : last.steady = s.steady := by
  have k := currentMetaBale_steady avoid s; rwa [eq] at k

@[simp] theorem writeRow_steady (units : List MetaUnit) (s : State) : (writeRow units s).2.steady = s.steady := by
  unfold writeRow
  split
  · rename_i eq; exact currentMetaBale_pair eq
  · rename_i eq; split
    · exact currentMetaBale_pair eq
    · simp [steady_fields, currentMetaBale_pair eq]

theorem writeRow_pair {units : List MetaUnit} {s : State} {r0 : _} {last : State} (eq : writeRow units s = (r0, last)) : last.steady = s.steady := by
  have k := writeRow_steady units s; rwa [eq] at k

@[simp] theorem writeRows_steady  : ∀ (x0 : Nat) (x1 : List MetaUnit) (x2 : State), (writeRows x0 x1 x2).steady = x2.steady := by
  intro x0; induction x0 with
  | zero => intros; simp [writeRows]
  | succ n ih => intros; unfold writeRows; simp [ih]

@[simp] theorem metaFlush_steady (s : State) : (metaFlush s).steady = s.steady := by
  unfold metaFlush; simp [steady_fields]

theorem execJournalPersistTimeout_steady (s : State) : ∃ t, execJournalPersistTimeout s = .next t ∧ t.steady = s.steady := by
  exact ⟨_, rfl, by simp⟩

@[simp] theorem baleSealTimeout_steady (acre bale : Nat) (s : State) : (baleSealTimeout acre bale s).steady = s.steady := by
  unfold baleSealTimeout; first | (simp [steady_fields]; done) | ((try simp); (repeat' split) <;> simp_all [steady_fields]; done)

@[simp] theorem advanceCheckpoint_steady (s : State) : (advanceCheckpoint s).steady = s.steady := by
  unfold advanceCheckpoint; first | (simp [steady_fields]; done) | ((try simp); (repeat' split) <;> simp_all [steady_fields]; done)

theorem execCheckpointTimer_steady (s : State) : ∃ t, execCheckpointTimer s = .next t ∧ t.steady = s.steady := by
  refine ⟨_, rfl, ?_⟩; first | (simp [steady_fields]; done) | ((try simp); (repeat' split) <;> simp_all [steady_fields]; done)

@[simp] theorem noteUnit_steady (r : MetaRow) (u : MetaUnit) (s : State) : (noteUnit r u s).steady = s.steady := by
  unfold noteUnit; first | (simp [steady_fields]; done) | ((try simp); (repeat' split) <;> simp_all [steady_fields]; done)

@[simp] theorem secondEnvelopes_steady (first upTo : Nat) (s : State) : (secondEnvelopes first upTo s).steady = s.steady := by
  unfold secondEnvelopes; simp

@[simp] theorem unitCommit_steady (r : MetaRow) (plot : Nat) (u : MetaUnit) (s : State) : (unitCommit r plot u s).steady = s.steady := by
  unfold unitCommit; first | (simp [steady_fields]; done) | ((try simp); (repeat' split) <;> simp_all [steady_fields]; done)

@[simp] theorem releaseJournal_steady (s : State) : (releaseJournal s).steady = s.steady := by
  unfold releaseJournal; first | (simp [steady_fields]; done) | ((try simp); (repeat' split) <;> simp_all [steady_fields]; done)

@[simp] theorem rowBale_steady (r : MetaRow) (s : State) : (rowBale r s).steady = s.steady := by
  unfold rowBale; first | (simp [steady_fields]; done) | ((try simp); (repeat' split) <;> simp_all [steady_fields]; done)

@[simp] theorem rowCommit_steady (id : Nat) (s : State) : (rowCommit id s).steady = s.steady := by
  unfold rowCommit; first | (simp [steady_fields]; done) | ((try simp); (repeat' split) <;> simp_all [steady_fields]; done)

@[simp] theorem rowFailed_steady (id : Nat) (s : State) : (rowFailed id s).steady = s.steady := by
  unfold rowFailed; first | (simp [steady_fields]; done) | ((try simp); (repeat' split) <;> simp_all [steady_fields]; done)

end Sys2Proof.Machine
end

