-- ==== Sys2Proof/Laws/Steady/Cipher.lean ====
section
/-! SUPPORT. What `Machine/Cipher.lean` changes leaves the steady fields as they are. -/

namespace Sys2Proof.Machine

@[simp] theorem setSlot_steady (n : Nat) (w : WorkingSlot) (s : State) : (setSlot n w s).steady = s.steady := by
  unfold setSlot; simp

@[simp] theorem touchSlot_steady (n : Nat) (s : State) : (touchSlot n s).steady = s.steady := by
  unfold touchSlot; simp

@[simp] theorem cipherRequest_steady (op : CipherOp) (tine unit : Nat) (epoch : Option EpochRef) (r : CipherRequest) (s : State) : (cipherRequest op tine unit epoch r s).steady = s.steady := by
  unfold cipherRequest; simp

theorem execGcmEncrypt_steady (tine unit : Nat) (epoch : Option EpochRef) (req : CipherRequest) (s : State) : ∃ t, execGcmEncrypt tine unit epoch req s = .next t ∧ t.steady = s.steady := by
  exact ⟨_, rfl, by simp⟩

theorem execGcmDecrypt_steady (tine unit : Nat) (epoch : Option EpochRef) (req : CipherRequest) (s : State) : ∃ t, execGcmDecrypt tine unit epoch req s = .next t ∧ t.steady = s.steady := by
  exact ⟨_, rfl, by simp⟩

theorem execHmac_steady (tine unit : Nat) (epoch : Option EpochRef) (req : CipherRequest) (s : State) : ∃ t, execHmac tine unit epoch req s = .next t ∧ t.steady = s.steady := by
  exact ⟨_, rfl, by simp⟩

@[simp] theorem requeueEncrypt_steady (j : CipherJob) (s : State) : (requeueEncrypt j s).steady = s.steady := by
  unfold requeueEncrypt; (try dsimp only) <;> (repeat' split) <;> first | (simp [steady_fields]; done) | ((try simp); grind [enqueue_steady, epochLive_steady, enqueue_some]) | (simp_all [steady_fields]; done)

@[simp] theorem cipherFault_steady (j : CipherJob) (s : State) : (cipherFault j s).steady = s.steady := by
  unfold cipherFault; first | (simp [steady_fields]; done) | ((try simp); (repeat' split) <;> simp_all [steady_fields]; done)

@[simp] theorem cipherResult_steady (j : CipherJob) (s : State) : (cipherResult j s).2.steady = s.steady := by
  unfold cipherResult; first | (simp [steady_fields]; done) | ((try simp); (repeat' split) <;> simp_all [steady_fields]; done)

theorem cipherResult_pair {j : CipherJob} {s : State} {r0 : _} {last : State} (eq : cipherResult j s = (r0, last)) : last.steady = s.steady := by
  have k := cipherResult_steady j s; rwa [eq] at k

@[simp] theorem cipherComplete_steady (id : Nat) (agree : Bool) (s : State) : (cipherComplete id agree s).steady = s.steady := by
  unfold cipherComplete; first | (simp [steady_fields]; done) | ((try simp); (repeat' split) <;> simp_all [steady_fields]; done)

@[simp] theorem abortErased_steady (s : State) : (abortErased s).steady = s.steady := by
  unfold abortErased; simp

@[simp] theorem eraseWorking_steady (s : State) : (eraseWorking s).steady = s.steady := by
  unfold eraseWorking; simp

@[simp] theorem keyStatus_steady (s : State) : (keyStatus s).2.steady = s.steady := by
  unfold keyStatus; simp

theorem keyStatus_pair {s : State} {r0 : _} {last : State} (eq : keyStatus s = (r0, last)) : last.steady = s.steady := by
  have k := keyStatus_steady s; rwa [eq] at k

theorem execKeyStatus_steady (p : McPacket) (s : State) : ∃ t, execKeyStatus p s = .next t ∧ t.steady = s.steady := by
  exact ⟨_, rfl, by simp⟩

@[simp] theorem keyHmac_steady (p : McPacket) (s : State) : (keyHmac p s).2.steady = s.steady := by
  unfold keyHmac; first | (simp [steady_fields]; done) | ((try simp); (repeat' split) <;> simp_all [steady_fields]; done)

theorem keyHmac_pair {p : McPacket} {s : State} {r0 : _} {last : State} (eq : keyHmac p s = (r0, last)) : last.steady = s.steady := by
  have k := keyHmac_steady p s; rwa [eq] at k

theorem execKeyHmac_steady (p : McPacket) (s : State) : ∃ t, execKeyHmac p s = .next t ∧ t.steady = s.steady := by
  exact ⟨_, rfl, by simp⟩

@[simp] theorem keySlotInfo_steady (p : McPacket) (s : State) : (keySlotInfo p s).2.steady = s.steady := by
  unfold keySlotInfo; simp

theorem keySlotInfo_pair {p : McPacket} {s : State} {r0 : _} {last : State} (eq : keySlotInfo p s = (r0, last)) : last.steady = s.steady := by
  have k := keySlotInfo_steady p s; rwa [eq] at k

theorem execKeySlotInfo_steady (p : McPacket) (s : State) : ∃ t, execKeySlotInfo p s = .next t ∧ t.steady = s.steady := by
  exact ⟨_, rfl, by simp⟩

@[simp] theorem cipherStats_steady (p : McPacket) (s : State) : (cipherStats p s).2.steady = s.steady := by
  unfold cipherStats; simp

theorem cipherStats_pair {p : McPacket} {s : State} {r0 : _} {last : State} (eq : cipherStats p s = (r0, last)) : last.steady = s.steady := by
  have k := cipherStats_steady p s; rwa [eq] at k

theorem execCipherStats_steady (p : McPacket) (s : State) : ∃ t, execCipherStats p s = .next t ∧ t.steady = s.steady := by
  exact ⟨_, rfl, by simp⟩

end Sys2Proof.Machine
end

