-- ==== Sys2Proof/Laws/Steady/Keys.lean ====
section
/-! SUPPORT. What `Machine/Keys.lean` changes leaves the steady fields as they are. -/

namespace Sys2Proof.Machine

@[simp] theorem forwardSend_steady (kind : Nat) (header payload : Bytes) (client : Option (Nat × Nat)) (mci : Option (Nat × Nat)) (s : State) : (forwardSend kind header payload client mci s).2.steady = s.steady := by
  unfold forwardSend; simp [steady_fields]

theorem forwardSend_pair {kind : Nat} {header payload : Bytes} {client : Option (Nat × Nat)} {mci : Option (Nat × Nat)} {s : State} {r0 : _} {last : State} (eq : forwardSend kind header payload client mci s = (r0, last)) : last.steady = s.steady := by
  have k := forwardSend_steady kind header payload client mci s; rwa [eq] at k

@[simp] theorem waitOn_steady (p : McPacket) (kind : WaitKind) (result : Bytes) (s : State) : (waitOn p kind result s).2.steady = s.steady := by
  unfold waitOn; simp [steady_fields]

theorem waitOn_pair {p : McPacket} {kind : WaitKind} {result : Bytes} {s : State} {r0 : _} {last : State} (eq : waitOn p kind result s = (r0, last)) : last.steady = s.steady := by
  have k := waitOn_steady p kind result s; rwa [eq] at k

@[simp] theorem forwardMci_steady (opcode : Nat) (p : McPacket) (s : State) : (forwardMci opcode p s).2.steady = s.steady := by
  unfold forwardMci; simp

theorem forwardMci_pair {opcode : Nat} {p : McPacket} {s : State} {r0 : _} {last : State} (eq : forwardMci opcode p s = (r0, last)) : last.steady = s.steady := by
  have k := forwardMci_steady opcode p s; rwa [eq] at k

@[simp] theorem endWaits_steady (kind : WaitKind) (status : Option Status) (result : Option Bytes) (s : State) : (endWaits kind status result s).steady = s.steady := by
  unfold endWaits; simp [steady_fields]

@[simp] theorem noteLocked_steady (d : Nat) (record : Bool) (s : State) : (noteLocked d record s).steady = s.steady := by
  unfold noteLocked; first | (simp [steady_fields]; done) | ((try simp); (repeat' split) <;> simp_all [steady_fields]; done)

@[simp] theorem countComplexes_steady (f : CipherComplex → CipherComplex) (s : State) : (countComplexes f s).steady = s.steady := by
  unfold countComplexes; simp

@[simp] theorem slotEmptied_steady (n : Nat) (s : State) : (slotEmptied n s).steady = s.steady := by
  unfold slotEmptied; simp

@[simp] theorem evict_steady (n : Nat) (s : State) : (evict n s).steady = s.steady := by
  unfold evict; simp

@[simp] theorem allotSlot_steady (s : State) : (allotSlot s).2.steady = s.steady := by
  unfold allotSlot; first | (simp [steady_fields]; done) | ((try simp); (repeat' split) <;> simp_all [steady_fields]; done)

theorem allotSlot_pair {s : State} {r0 : _} {last : State} (eq : allotSlot s = (r0, last)) : last.steady = s.steady := by
  have k := allotSlot_steady s; rwa [eq] at k

@[simp] theorem slotValid_steady (n : Nat) (use : SlotUse) (kek domain epoch : Nat) (key label : Bytes) (s : State) : (slotValid n use kek domain epoch key label s).steady = s.steady := by
  unfold slotValid; simp

@[simp] theorem sendKeyLoad_steady (n : Nat) (use : SlotUse) (domain epoch : Nat) (body : Bytes) (s : State) : (sendKeyLoad n use domain epoch body s).steady = s.steady := by
  unfold sendKeyLoad; simp

@[simp] theorem slotEvent_steady (n : Nat) (w : WorkingSlot) (s : State) : (slotEvent n w s).steady = s.steady := by
  unfold slotEvent; simp

@[simp] theorem needKey_steady (d epoch : Nat) (record : Bool) (s : State) : (needKey d epoch record s).2.steady = s.steady := by
  unfold needKey; (try dsimp only) <;> (repeat' split) <;> first | (simp [steady_fields]; done) | ((try simp); grind [modifyDomain_steady, touchSlot_steady, noteLocked_steady, allotSlot_steady, slotValid_steady, sendKeyLoad_steady, allotSlot_pair]) | (simp_all [steady_fields]; done)

theorem needKey_pair {d epoch : Nat} {record : Bool} {s : State} {r0 : _} {last : State} (eq : needKey d epoch record s = (r0, last)) : last.steady = s.steady := by
  have k := needKey_steady d epoch record s; rwa [eq] at k

@[simp] theorem modifyAdvance_steady (d epoch : Nat) (f : EpochAdvance → EpochAdvance) (s : State) : (modifyAdvance d epoch f s).steady = s.steady := by
  unfold modifyAdvance; simp

@[simp] theorem dropAdvance_steady (d epoch : Nat) (s : State) : (dropAdvance d epoch s).steady = s.steady := by
  unfold dropAdvance; simp

@[simp] theorem advanceDone_steady (d epoch : Nat) (s : State) : (advanceDone d epoch s).steady = s.steady := by
  unfold advanceDone; simp

@[simp] theorem retireEpoch_steady (d epoch : Nat) (status : Status) (s : State) : (retireEpoch d epoch status s).steady = s.steady := by
  unfold retireEpoch; simp

@[simp] theorem advanceLoad_steady (a : EpochAdvance) (s : State) : (advanceLoad a s).steady = s.steady := by
  unfold advanceLoad; (try dsimp only) <;> (repeat' split) <;> first | (simp [steady_fields]; done) | ((try simp); grind [modifyCipher_steady, setSlot_steady, allotSlot_steady, modifyAdvance_steady, retireEpoch_steady, allotSlot_pair]) | (simp_all [steady_fields]; done)

@[simp] theorem advanceEpochs_steady (s : State) : (advanceEpochs s).steady = s.steady := by
  unfold advanceEpochs; simp

@[simp] theorem slotLoadDone_steady (n : Nat) (s : State) : (slotLoadDone n s).steady = s.steady := by
  unfold slotLoadDone; first | (simp [steady_fields]; done) | ((try simp); (repeat' split) <;> simp_all [steady_fields]; done)

theorem execSlotLoadDone_steady (slot : Nat) (s : State) : ∃ t, execSlotLoadDone slot s = .next t ∧ t.steady = s.steady := by
  exact ⟨_, rfl, by simp⟩

theorem execSlotEvictDone_steady (slot : Nat) (s : State) : ∃ t, execSlotEvictDone slot s = .next t ∧ t.steady = s.steady := by
  refine ⟨_, rfl, ?_⟩; first | (simp [steady_fields]; done) | ((try simp); (repeat' split) <;> simp_all [steady_fields]; done)

@[simp] theorem beginEpoch_steady (p : McPacket) (d kek epoch : Nat) (kekKey result : Bytes) (s : State) : (beginEpoch p d kek epoch kekKey result s).2.steady = s.steady := by
  unfold beginEpoch; simp

theorem beginEpoch_pair {p : McPacket} {d kek epoch : Nat} {kekKey result : Bytes} {s : State} {r0 : _} {last : State} (eq : beginEpoch p d kek epoch kekKey result s = (r0, last)) : last.steady = s.steady := by
  have k := beginEpoch_steady p d kek epoch kekKey result s; rwa [eq] at k

@[simp] theorem onKeyOwner_steady (opcode d : Nat) (p : McPacket) (body : Domain → State → McEnd × State) (s : State) (hbody : ∀ (x0 : Domain) (x1 : State), (body x0 x1).2.steady = (x1).steady) : (onKeyOwner opcode d p body s).2.steady = s.steady := by
  unfold onKeyOwner; first | (simp [steady_fields, hbody]; done) | ((try simp [hbody]); (repeat' split) <;> simp_all [steady_fields]; done)

@[simp] theorem keyEpochAdvance_steady (p : McPacket) (s : State) : (keyEpochAdvance p s).2.steady = s.steady := by
  unfold keyEpochAdvance; refine onKeyOwner_steady _ _ _ _ _ (fun x st => ?_)
  split
  · simp
  · split
    · simp
    · split
      · split <;> simp
      · simp

theorem keyEpochAdvance_pair {p : McPacket} {s : State} {r0 : _} {last : State} (eq : keyEpochAdvance p s = (r0, last)) : last.steady = s.steady := by
  have k := keyEpochAdvance_steady p s; rwa [eq] at k

theorem execKeyEpochAdvance_steady (p : McPacket) (s : State) : ∃ t, execKeyEpochAdvance p s = .next t ∧ t.steady = s.steady := by
  exact ⟨_, rfl, by simp⟩

@[simp] theorem keyEpochDestroy_steady (p : McPacket) (s : State) : (keyEpochDestroy p s).2.steady = s.steady := by
  unfold keyEpochDestroy; simp

theorem keyEpochDestroy_pair {p : McPacket} {s : State} {r0 : _} {last : State} (eq : keyEpochDestroy p s = (r0, last)) : last.steady = s.steady := by
  have k := keyEpochDestroy_steady p s; rwa [eq] at k

theorem execKeyEpochDestroy_steady (p : McPacket) (s : State) : ∃ t, execKeyEpochDestroy p s = .next t ∧ t.steady = s.steady := by
  exact ⟨_, rfl, by simp⟩

@[simp] theorem keyRewrap_steady (p : McPacket) (s : State) : (keyRewrap p s).2.steady = s.steady := by
  unfold keyRewrap; refine onKeyOwner_steady _ _ _ _ _ (fun x st => ?_)
  dsimp only; split
  · simp
  · split
    · simp
    · split <;> simp

theorem keyRewrap_pair {p : McPacket} {s : State} {r0 : _} {last : State} (eq : keyRewrap p s = (r0, last)) : last.steady = s.steady := by
  have k := keyRewrap_steady p s; rwa [eq] at k

theorem execKeyRewrap_steady (p : McPacket) (s : State) : ∃ t, execKeyRewrap p s = .next t ∧ t.steady = s.steady := by
  exact ⟨_, rfl, by simp⟩

@[simp] theorem keyEpochStats_steady (p : McPacket) (s : State) : (keyEpochStats p s).2.steady = s.steady := by
  unfold keyEpochStats; first | (simp [steady_fields]; done) | ((try simp); (repeat' split) <;> simp_all [steady_fields]; done)

theorem keyEpochStats_pair {p : McPacket} {s : State} {r0 : _} {last : State} (eq : keyEpochStats p s = (r0, last)) : last.steady = s.steady := by
  have k := keyEpochStats_steady p s; rwa [eq] at k

theorem execKeyEpochStats_steady (p : McPacket) (s : State) : ∃ t, execKeyEpochStats p s = .next t ∧ t.steady = s.steady := by
  exact ⟨_, rfl, by simp⟩

theorem execKeyLoadAckTimeout_steady (domain epoch : Nat) (s : State) : ∃ t, execKeyLoadAckTimeout domain epoch s = .next t ∧ t.steady = s.steady := by
  exact ⟨_, rfl, by simp⟩

end Sys2Proof.Machine
end

