-- ==== Sys2Proof/Laws/Steady/Media.lean ====
section
/-! SUPPORT. What `Machine/Media.lean` changes leaves the steady fields as they are. -/

namespace Sys2Proof.Machine

@[simp] theorem modifyDie_steady (b d : Nat) (f : DieState → DieState) (s : State) : (modifyDie b d f s).steady = s.steady := by
  unfold modifyDie; simp

@[simp] theorem openDumpAcres_steady  : ∀ (x0 : Nat) (x1 : State), (openDumpAcres x0 x1).steady = x1.steady := by
  intro n; induction n with
  | zero => intros; rfl
  | succ n ih =>
    intro s; unfold openDumpAcres; split
    · rfl
    · split <;> rename_i eq <;> simp [ih, ← openAcre_pair eq, steady_fields]

@[simp] theorem dropLeavingDump_steady (s : State) : (dropLeavingDump s).steady = s.steady := by
  unfold dropLeavingDump; (try dsimp only) <;> (repeat' split) <;> first | (simp [steady_fields]; done) | ((try simp); grind []) | (simp_all [steady_fields]; done)

@[simp] theorem reserveDump_steady (s0 : State) : (reserveDump s0).steady = s0.steady := by
  unfold reserveDump; simp [steady_fields]

@[simp] theorem sealOn_steady (b : Nat) (s : State) : (sealOn b s).steady = s.steady := by
  unfold sealOn; simp

@[simp] theorem evacuated_steady (s : State) : (evacuated s).steady = s.steady := by
  unfold evacuated; simp

@[simp] theorem leaveMedia_steady (s : State) : (leaveMedia s).steady = s.steady := by
  unfold leaveMedia; simp

@[simp] theorem bridgeLost_steady (b : Nat) (s : State) : (bridgeLost b s).steady = s.steady := by
  unfold bridgeLost; simp

@[simp] theorem bridgeBroken_steady (b : Nat) (s : State) : (bridgeBroken b s).steady = s.steady := by
  unfold bridgeBroken; simp

@[simp] theorem readLabel_steady (b : Nat) (s : State) : (readLabel b s).steady = s.steady := by
  unfold readLabel; simp

@[simp] theorem writeLabel_steady (b : Nat) (l : BridgeLabel) (s : State) : (writeLabel b l s).steady = s.steady := by
  unfold writeLabel; first | (simp [steady_fields]; done) | ((try simp); (repeat' split) <;> simp_all [steady_fields]; done)

@[simp] theorem leaseChanged_steady (b : Nat) (s : State) : (leaseChanged b s).steady = s.steady := by
  unfold leaseChanged; (try dsimp only) <;> (repeat' split) <;> first | (simp [steady_fields]; done) | ((try simp); grind [modifyHeadBridge_steady, writeLabel_steady]) | (simp_all [steady_fields]; done)

@[simp] theorem standbyArea_steady (b : Nat) (s : State) : (standbyArea b s).steady = s.steady := by
  unfold standbyArea; first | (simp [steady_fields]; done) | ((try simp); (repeat' split) <;> simp_all [steady_fields]; done)

@[simp] theorem dieFailed_steady (b d : Nat) (s : State) : (dieFailed b d s).steady = s.steady := by
  unfold dieFailed; simp

@[simp] theorem retireBlock_steady (b d k : Nat) (s : State) : (retireBlock b d k s).steady = s.steady := by
  unfold retireBlock; simp [steady_fields]

@[simp] theorem blockFail_steady (b d k : Nat) (s : State) : (blockFail b d k s).steady = s.steady := by
  unfold blockFail; simp

@[simp] theorem blockErased_steady (b d k : Nat) (s : State) : (blockErased b d k s).steady = s.steady := by
  unfold blockErased; simp

@[simp] theorem dieSilent_steady (b d : Nat) (s : State) : (dieSilent b d s).steady = s.steady := by
  unfold dieSilent; simp

@[simp] theorem dieAnswered_steady (b d : Nat) (s : State) : (dieAnswered b d s).steady = s.steady := by
  unfold dieAnswered; simp

@[simp] theorem countRead_steady (b d : Nat) (reports : List Nat) (s : State) : (countRead b d reports s).steady = s.steady := by
  unfold countRead; simp

@[simp] theorem replaceReserved_steady (b block : Nat) (s : State) : (replaceReserved b block s).steady = s.steady := by
  unfold replaceReserved; simp

@[simp] theorem labelFailed_steady (b block : Nat) (s : State) : (labelFailed b block s).steady = s.steady := by
  unfold labelFailed; first | (simp [steady_fields]; done) | ((try simp); (repeat' split) <;> simp_all [steady_fields]; done)

@[simp] theorem markBale_steady (acre bale : Nat) (s : State) : (markBale acre bale s).steady = s.steady := by
  unfold markBale; simp

theorem execBridgeLostTimer_steady (bridge : Nat) (s : State) : ∃ t, execBridgeLostTimer bridge s = .next t ∧ t.steady = s.steady := by
  exact ⟨_, rfl, by simp⟩

@[simp] theorem pollBridges_steady (s : State) : (pollBridges s).steady = s.steady := by
  unfold pollBridges; simp

theorem execTempHistHour_steady (s : State) : ∃ t, execTempHistHour s = .next t ∧ t.steady = s.steady := by
  exact ⟨_, rfl, by simp⟩

@[simp] theorem mediaGeometryGet_steady (p : McPacket) (s : State) : (mediaGeometryGet p s).2.steady = s.steady := by
  unfold mediaGeometryGet; simp

theorem mediaGeometryGet_pair {p : McPacket} {s : State} {r0 : _} {last : State} (eq : mediaGeometryGet p s = (r0, last)) : last.steady = s.steady := by
  have k := mediaGeometryGet_steady p s; rwa [eq] at k

theorem execMediaGeometryGet_steady (p : McPacket) (s : State) : ∃ t, execMediaGeometryGet p s = .next t ∧ t.steady = s.steady := by
  exact ⟨_, rfl, by simp⟩

@[simp] theorem setPending_steady (id index : Nat) (v : Bytes) (s : State) : (setPending id index v s).steady = s.steady := by
  unfold setPending; simp [steady_fields]

@[simp] theorem mediaGeometrySet_steady (p : McPacket) (s : State) : (mediaGeometrySet p s).2.steady = s.steady := by
  unfold mediaGeometrySet; simp

theorem mediaGeometrySet_pair {p : McPacket} {s : State} {r0 : _} {last : State} (eq : mediaGeometrySet p s = (r0, last)) : last.steady = s.steady := by
  have k := mediaGeometrySet_steady p s; rwa [eq] at k

theorem execMediaGeometrySet_steady (p : McPacket) (s : State) : ∃ t, execMediaGeometrySet p s = .next t ∧ t.steady = s.steady := by
  exact ⟨_, rfl, by simp⟩

theorem execMediaHealthArray_steady (p : McPacket) (s : State) : ∃ t, execMediaHealthArray p s = .next t ∧ t.steady = s.steady := by
  exact ⟨_, rfl, by simp⟩

@[simp] theorem mediaHealthBridge_steady (p : McPacket) (s : State) : (mediaHealthBridge p s).2.steady = s.steady := by
  unfold mediaHealthBridge; simp

theorem mediaHealthBridge_pair {p : McPacket} {s : State} {r0 : _} {last : State} (eq : mediaHealthBridge p s = (r0, last)) : last.steady = s.steady := by
  have k := mediaHealthBridge_steady p s; rwa [eq] at k

theorem execMediaHealthBridge_steady (p : McPacket) (s : State) : ∃ t, execMediaHealthBridge p s = .next t ∧ t.steady = s.steady := by
  exact ⟨_, rfl, by simp⟩

@[simp] theorem mediaHealthDie_steady (p : McPacket) (s : State) : (mediaHealthDie p s).2.steady = s.steady := by
  unfold mediaHealthDie; simp

theorem mediaHealthDie_pair {p : McPacket} {s : State} {r0 : _} {last : State} (eq : mediaHealthDie p s = (r0, last)) : last.steady = s.steady := by
  have k := mediaHealthDie_steady p s; rwa [eq] at k

theorem execMediaHealthDie_steady (p : McPacket) (s : State) : ∃ t, execMediaHealthDie p s = .next t ∧ t.steady = s.steady := by
  exact ⟨_, rfl, by simp⟩

@[simp] theorem bridgeSet_steady (p : McPacket) (s : State) : (bridgeSet p s).2.steady = s.steady := by
  unfold bridgeSet; first | (simp [steady_fields]; done) | ((try simp); (repeat' split) <;> simp_all [steady_fields]; done)

theorem bridgeSet_pair {p : McPacket} {s : State} {r0 : _} {last : State} (eq : bridgeSet p s = (r0, last)) : last.steady = s.steady := by
  have k := bridgeSet_steady p s; rwa [eq] at k

theorem execBridgeSet_steady (p : McPacket) (s : State) : ∃ t, execBridgeSet p s = .next t ∧ t.steady = s.steady := by
  exact ⟨_, rfl, by simp⟩

@[simp] theorem dieRetire_steady (p : McPacket) (s : State) : (dieRetire p s).2.steady = s.steady := by
  unfold dieRetire; simp

theorem dieRetire_pair {p : McPacket} {s : State} {r0 : _} {last : State} (eq : dieRetire p s = (r0, last)) : last.steady = s.steady := by
  have k := dieRetire_steady p s; rwa [eq] at k

theorem execDieRetire_steady (p : McPacket) (s : State) : ∃ t, execDieRetire p s = .next t ∧ t.steady = s.steady := by
  exact ⟨_, rfl, by simp⟩

@[simp] theorem bridgeRetire_steady (p : McPacket) (s : State) : (bridgeRetire p s).2.steady = s.steady := by
  unfold bridgeRetire; simp

theorem bridgeRetire_pair {p : McPacket} {s : State} {r0 : _} {last : State} (eq : bridgeRetire p s = (r0, last)) : last.steady = s.steady := by
  have k := bridgeRetire_steady p s; rwa [eq] at k

theorem execBridgeRetire_steady (p : McPacket) (s : State) : ∃ t, execBridgeRetire p s = .next t ∧ t.steady = s.steady := by
  exact ⟨_, rfl, by simp⟩

end Sys2Proof.Machine
end

