-- ==== Sys2Proof/Laws/Steady/Read.lean ====
section
/-! SUPPORT. What `Machine/Read.lean` changes leaves the steady fields as they are. -/

namespace Sys2Proof.Machine

@[simp] theorem countReads_steady (q : Nat) (f : ReadCounters → ReadCounters) (s : State) : (countReads q f s).steady = s.steady := by
  unfold countReads; simp [steady_fields]

@[simp] theorem cacheFill_steady (entry : Nat) (data : Bytes) (demand : Bool) (s : State) : (cacheFill entry data demand s).steady = s.steady := by
  unfold cacheFill; simp [steady_fields]

@[simp] theorem cacheUse_steady (q : Nat) (e : CacheEntry) (s : State) : (cacheUse q e s).steady = s.steady := by
  unfold cacheUse; simp [steady_fields]

@[simp] theorem readLate_steady (q : Nat) (s : State) : (readLate q s).steady = s.steady := by
  unfold readLate; simp

@[simp] theorem plotRead_steady (q : Nat) (a : Acre) (bale p off len : Nat) (why : ReadFor) (f : MediaFacts) (s : State) : (plotRead q a bale p off len why f s).2.steady = s.steady := by
  unfold plotRead; first | (simp [steady_fields]; done) | ((try simp); (repeat' split) <;> simp_all [steady_fields]; done)

theorem plotRead_pair {q : Nat} {a : Acre} {bale p off len : Nat} {why : ReadFor} {f : MediaFacts} {s : State} {r0 : _} {last : State} (eq : plotRead q a bale p off len why f s = (r0, last)) : last.steady = s.steady := by
  have k := plotRead_steady q a bale p off len why f s; rwa [eq] at k

@[simp] theorem readPlots_steady (q : Nat) (a : Acre) (bale off len need : Nat) (f : MediaFacts) : ∀ (x0 : List Nat) (x1 : List (Nat × Bytes)) (x2 : State), (readPlots q a bale off len need f x0 x1 x2).2.steady = x2.steady := by
  intro l; induction l with
  | nil => intros; rfl
  | cons i rest ih =>
    intro got s; unfold readPlots; split
    · rfl
    · split <;> rename_i eq <;> simp [ih, plotRead_pair eq]

theorem readPlots_pair {q : Nat} {a : Acre} {bale off len need : Nat} {f : MediaFacts} {x0 : List Nat} {x1 : List (Nat × Bytes)} {x2 : State} {r0 : _} {last : State} (eq : readPlots q a bale off len need f x0 x1 x2 = (r0, last)) : last.steady = x2.steady := by
  have k := readPlots_steady q a bale off len need f x0 x1 x2; rwa [eq] at k

@[simp] theorem rebuild_steady (q : Nat) (a : Acre) (bale p off len : Nat) (f : MediaFacts) (s : State) : (rebuild q a bale p off len f s).2.steady = s.steady := by
  unfold rebuild; simp

theorem rebuild_pair {q : Nat} {a : Acre} {bale p off len : Nat} {f : MediaFacts} {s : State} {r0 : _} {last : State} (eq : rebuild q a bale p off len f s = (r0, last)) : last.steady = s.steady := by
  have k := rebuild_steady q a bale p off len f s; rwa [eq] at k

@[simp] theorem recordKey_steady (r : Bytes) (why : ReadFor) (s : State) : (recordKey r why s).2.steady = s.steady := by
  unfold recordKey; (try dsimp only) <;> (repeat' split) <;> first | (simp [steady_fields]; done) | ((try simp); grind [needKey_steady, needKey_pair]) | (simp_all [steady_fields]; done)

theorem recordKey_pair {r : Bytes} {why : ReadFor} {s : State} {r0 : _} {last : State} (eq : recordKey r why s = (r0, last)) : last.steady = s.steady := by
  have k := recordKey_steady r why s; rwa [eq] at k

@[simp] theorem recordKeyAgain_steady (q : Nat) (r : Bytes) (why : ReadFor) (f : MediaFacts) (s : State) : (recordKeyAgain q r why f s).2.2.steady = s.steady := by
  unfold recordKeyAgain; (try dsimp only) <;> (repeat' split) <;> first | (simp [steady_fields]; done) | ((try simp); grind [countComplex_steady, recordKey_steady, recordKey_pair]) | (simp_all [steady_fields]; done)

theorem recordKeyAgain_pair {q : Nat} {r : Bytes} {why : ReadFor} {f : MediaFacts} {s : State} {r0 r1 : _} {last : State} (eq : recordKeyAgain q r why f s = (r0, r1, last)) : last.steady = s.steady := by
  have k := recordKeyAgain_steady q r why f s; rwa [eq] at k

@[simp] theorem openRecord_steady (q entry : Nat) (r : Bytes) (why : ReadFor) (f : MediaFacts) (s : State) : (openRecord q entry r why f s).2.2.steady = s.steady := by
  unfold openRecord; (try dsimp only) <;> (repeat' split) <;> first | (simp [steady_fields]; done) | ((try simp); grind [countComplex_steady, cipherRun_steady, countReleased_steady, recordKeyAgain_steady, cipherRun_pair, recordKeyAgain_pair]) | (simp_all [steady_fields]; done)

theorem openRecord_pair {q entry : Nat} {r : Bytes} {why : ReadFor} {f : MediaFacts} {s : State} {r0 r1 : _} {last : State} (eq : openRecord q entry r why f s = (r0, r1, last)) : last.steady = s.steady := by
  have k := openRecord_steady q entry r why f s; rwa [eq] at k

@[simp] theorem readDecode_steady (q : Nat) (payload : Bytes) (stop : Option Nat) (f : MediaFacts) (s : State) : (readDecode q payload stop f s).2.2.2.steady = s.steady := by
  unfold readDecode; simp

theorem readDecode_pair {q : Nat} {payload : Bytes} {stop : Option Nat} {f : MediaFacts} {s : State} {r0 r1 r2 : _} {last : State} (eq : readDecode q payload stop f s = (r0, r1, r2, last)) : last.steady = s.steady := by
  have k := readDecode_steady q payload stop f s; rwa [eq] at k

@[simp] theorem verifyRecord_steady (q entry : Nat) (r : Bytes) (upTo : Nat) (why : ReadFor) (f : MediaFacts) (s : State) : (verifyRecord q entry r upTo why f s).2.2.steady = s.steady := by
  unfold verifyRecord; (try dsimp only) <;> (repeat' split) <;> first | (simp [steady_fields]; done) | ((try simp); grind [openRecord_steady, readDecode_steady, openRecord_pair, readDecode_pair]) | (simp_all [steady_fields]; done)

theorem verifyRecord_pair {q entry : Nat} {r : Bytes} {upTo : Nat} {why : ReadFor} {f : MediaFacts} {s : State} {r0 r1 : _} {last : State} (eq : verifyRecord q entry r upTo why f s = (r0, r1, last)) : last.steady = s.steady := by
  have k := verifyRecord_steady q entry r upTo why f s; rwa [eq] at k

@[simp] theorem readFail_steady (row entry : Nat) (l : Option Loc) (vx : Nat) (fps : Bytes) (s : State) : (readFail row entry l vx fps s).steady = s.steady := by
  unfold readFail; simp

@[simp] theorem unrecovered_steady (q entry : Nat) (l : Option Loc) (s : State) : (unrecovered q entry l s).steady = s.steady := by
  unfold unrecovered; simp

@[simp] theorem verdictFail_steady (q entry : Nat) (l : Loc) (v : Verdict) (s : State) : (verdictFail q entry l v s).2.steady = s.steady := by
  unfold verdictFail; first | (simp [steady_fields]; done) | ((try simp); (repeat' split) <;> simp_all [steady_fields]; done)

theorem verdictFail_pair {q entry : Nat} {l : Loc} {v : Verdict} {s : State} {r0 : _} {last : State} (eq : verdictFail q entry l v s = (r0, last)) : last.steady = s.steady := by
  have k := verdictFail_steady q entry l v s; rwa [eq] at k

@[simp] theorem rebuildRead_steady (q entry : Nat) (l : Loc) (a : Acre) (fp1 : Bytes) (upTo : Nat) (f : MediaFacts) (s : State) : (rebuildRead q entry l a fp1 upTo f s).2.2.steady = s.steady := by
  unfold rebuildRead; (try dsimp only) <;> (repeat' split) <;> first | (simp [steady_fields]; done) | ((try simp); grind [rebuild_steady, verifyRecord_steady, rebuild_pair, verifyRecord_pair]) | (simp_all [steady_fields]; done)

theorem rebuildRead_pair {q entry : Nat} {l : Loc} {a : Acre} {fp1 : Bytes} {upTo : Nat} {f : MediaFacts} {s : State} {r0 r1 : _} {last : State} (eq : rebuildRead q entry l a fp1 upTo f s = (r0, r1, last)) : last.steady = s.steady := by
  have k := rebuildRead_steady q entry l a fp1 upTo f s; rwa [eq] at k

@[simp] theorem mediaTry_steady (q entry : Nat) (l : Loc) (upTo : Nat) (f : MediaFacts) (s : State) : (mediaTry q entry l upTo f s).2.2.steady = s.steady := by
  unfold mediaTry; (try dsimp only) <;> (repeat' split) <;> first | (simp [steady_fields]; done) | ((try simp); grind [plotRead_steady, verifyRecord_steady, rebuildRead_steady, plotRead_pair, verifyRecord_pair, rebuildRead_pair]) | (simp_all [steady_fields]; done)

theorem mediaTry_pair {q entry : Nat} {l : Loc} {upTo : Nat} {f : MediaFacts} {s : State} {r0 r1 : _} {last : State} (eq : mediaTry q entry l upTo f s = (r0, r1, last)) : last.steady = s.steady := by
  have k := mediaTry_steady q entry l upTo f s; rwa [eq] at k

@[simp] theorem triedEnd_steady (q entry : Nat) (l : Loc) (t : Tried) (s : State) : (triedEnd q entry l t s).2.steady = s.steady := by
  unfold triedEnd; (try dsimp only) <;> (repeat' split) <;> first | (simp [steady_fields]; done) | ((try simp); grind [unrecovered_steady, verdictFail_steady, verdictFail_pair]) | (simp_all [steady_fields]; done)

theorem triedEnd_pair {q entry : Nat} {l : Loc} {t : Tried} {s : State} {r0 : _} {last : State} (eq : triedEnd q entry l t s = (r0, last)) : last.steady = s.steady := by
  have k := triedEnd_steady q entry l t s; rwa [eq] at k

@[simp] theorem mediaRead_steady (q entry upTo : Nat) (f : MediaFacts) (s : State) : (mediaRead q entry upTo f s).2.2.steady = s.steady := by
  unfold mediaRead; (try dsimp only) <;> (repeat' split) <;> first | (simp [steady_fields]; done) | ((try simp); grind [unrecovered_steady, mediaTry_steady, triedEnd_steady, mediaTry_pair, triedEnd_pair]) | (simp_all [steady_fields]; done)

theorem mediaRead_pair {q entry upTo : Nat} {f : MediaFacts} {s : State} {r0 r1 : _} {last : State} (eq : mediaRead q entry upTo f s = (r0, r1, last)) : last.steady = s.steady := by
  have k := mediaRead_steady q entry upTo f s; rwa [eq] at k

@[simp] theorem chunkReadTo_steady (q entry upTo : Nat) (f : MediaFacts) (s : State) : (chunkReadTo q entry upTo f s).2.2.steady = s.steady := by
  unfold chunkReadTo; (try dsimp only) <;> (repeat' split) <;> first | (simp [steady_fields]; done) | ((try simp); grind [countReads_steady, cacheFill_steady, cacheUse_steady, mediaRead_steady, mediaRead_pair]) | (simp_all [steady_fields]; done)

theorem chunkReadTo_pair {q entry upTo : Nat} {f : MediaFacts} {s : State} {r0 r1 : _} {last : State} (eq : chunkReadTo q entry upTo f s = (r0, r1, last)) : last.steady = s.steady := by
  have k := chunkReadTo_steady q entry upTo f s; rwa [eq] at k

@[simp] theorem chunkRead_steady (q entry : Nat) (f : MediaFacts) (s : State) : (chunkRead q entry f s).2.2.steady = s.steady := by
  unfold chunkRead; first | (simp [steady_fields]; done) | ((try simp); (repeat' split) <;> simp_all [steady_fields]; done)

theorem chunkRead_pair {q entry : Nat} {f : MediaFacts} {s : State} {r0 r1 : _} {last : State} (eq : chunkRead q entry f s = (r0, r1, last)) : last.steady = s.steady := by
  have k := chunkRead_steady q entry f s; rwa [eq] at k

@[simp] theorem handlesRead_steady  : ∀ (x0 : List Nat) (x1 : Nat) (x2 : State), (handlesRead x0 x1 x2).2.steady = x2.steady := by
  intro x0; induction x0 with
  | nil => intros; simp [handlesRead]
  | cons x xs ih => intros; unfold handlesRead; simp [ih]

theorem handlesRead_pair  {x0 : List Nat} {x1 : Nat} {x2 : State} {r0 : _} {last : State} (eq : handlesRead x0 x1 x2 = (r0, last)) : last.steady = x2.steady := by
  have k := handlesRead_steady x0 x1 x2; rwa [eq] at k

@[simp] theorem recordData_steady (r : BufferedRec) (s : State) : (recordData r s).2.steady = s.steady := by
  unfold recordData; (try dsimp only) <;> (repeat' split) <;> first | (simp [steady_fields]; done) | ((try simp); grind [handlesRead_steady, handlesRead_pair]) | (simp_all [steady_fields]; done)

theorem recordData_pair {r : BufferedRec} {s : State} {r0 : _} {last : State} (eq : recordData r s = (r0, last)) : last.steady = s.steady := by
  have k := recordData_steady r s; rwa [eq] at k

@[simp] theorem layOver_steady  : ∀ (x0 : List BufferedRec) (x1 : Bytes) (x2 : State), (layOver x0 x1 x2).2.steady = x2.steady := by
  intro x0; induction x0 with
  | nil => intros; simp [layOver]
  | cons x xs ih => intros; unfold layOver; simp [ih]

theorem layOver_pair  {x0 : List BufferedRec} {x1 : Bytes} {x2 : State} {r0 : _} {last : State} (eq : layOver x0 x1 x2 = (r0, last)) : last.steady = x2.steady := by
  have k := layOver_steady x0 x1 x2; rwa [eq] at k

@[simp] theorem grainRead_steady (ns snap grain off len : Nat) (f : MediaFacts) (s : State) : (grainRead ns snap grain off len f s).2.2.steady = s.steady := by
  unfold grainRead; (try dsimp only) <;> (repeat' split) <;> first | (simp [steady_fields]; done) | ((try simp); grind [unrecovered_steady, chunkReadTo_steady, layOver_steady, chunkReadTo_pair, layOver_pair]) | (simp_all [steady_fields]; done)

theorem grainRead_pair {ns snap grain off len : Nat} {f : MediaFacts} {s : State} {r0 r1 : _} {last : State} (eq : grainRead ns snap grain off len f s = (r0, r1, last)) : last.steady = s.steady := by
  have k := grainRead_steady ns snap grain off len f s; rwa [eq] at k

@[simp] theorem rangeRead_steady (ns snap : Nat) : ∀ (x0 : Nat) (x1 : Nat) (x2 : Nat) (x3 : MediaFacts) (x4 : State), (rangeRead ns snap x0 x1 x2 x3 x4).2.2.steady = x4.steady := by
  intro n; induction n with
  | zero => intros; rfl
  | succ n ih =>
    intro off len f s; unfold rangeRead; split
    · rfl
    · dsimp only; split
      · rename_i eq; exact grainRead_pair eq
      · rename_i f1 s1 eq; have k := grainRead_pair eq
        have k2 := ih (off + min len (16384 - off % 16384)) (len - min len (16384 - off % 16384)) f1 s1
        split <;> rename_i e2 <;> (rw [e2] at k2; exact k2.trans k)

theorem rangeRead_pair {ns snap : Nat} {x0 : Nat} {x1 : Nat} {x2 : Nat} {x3 : MediaFacts} {x4 : State} {r0 r1 : _} {last : State} (eq : rangeRead ns snap x0 x1 x2 x3 x4 = (r0, r1, last)) : last.steady = x4.steady := by
  have k := rangeRead_steady ns snap x0 x1 x2 x3 x4; rwa [eq] at k

@[simp] theorem nsRead_steady (ns snap off len : Nat) (f : MediaFacts) (s : State) : (nsRead ns snap off len f s).2.2.steady = s.steady := by
  unfold nsRead; simp

theorem nsRead_pair {ns snap off len : Nat} {f : MediaFacts} {s : State} {r0 r1 : _} {last : State} (eq : nsRead ns snap off len f s = (r0, r1, last)) : last.steady = s.steady := by
  have k := nsRead_steady ns snap off len f s; rwa [eq] at k

@[simp] theorem aheadRecord_steady (q : Nat) (l : Loc) (f : MediaFacts) (s : State) : (aheadRecord q l f s).2.steady = s.steady := by
  unfold aheadRecord; (try dsimp only) <;> (repeat' split) <;> first | (simp [steady_fields]; done) | ((try simp); grind [plotRead_steady, plotRead_pair]) | (simp_all [steady_fields]; done)

theorem aheadRecord_pair {q : Nat} {l : Loc} {f : MediaFacts} {s : State} {r0 : _} {last : State} (eq : aheadRecord q l f s = (r0, last)) : last.steady = s.steady := by
  have k := aheadRecord_steady q l f s; rwa [eq] at k

@[simp] theorem prefetchOne_steady (q entry : Nat) (f : MediaFacts) (s : State) : (prefetchOne q entry f s).steady = s.steady := by
  unfold prefetchOne; split
  · rfl
  · dsimp only; split
    · simp [steady_fields]
    · split
      · rename_i e1; have k := aheadRecord_pair e1; simp [steady_fields] at k ⊢; simp [k]
      · rename_i e1; have k := aheadRecord_pair e1; split <;> rename_i e2 <;> have k2 := verifyRecord_pair e2 <;> simp [steady_fields] at k k2 ⊢ <;> simp [k, k2]

@[simp] theorem prefetch_steady (q : Nat) (entries : List Nat) (f : MediaFacts) (s : State) : (prefetch q entries f s).steady = s.steady := by
  unfold prefetch; exact foldl_steady _ (fun st e => by simp) _ _

@[simp] theorem grainAhead_steady (ns snap first n : Nat) (f : MediaFacts) (s : State) : (grainAhead ns snap first n f s).steady = s.steady := by
  unfold grainAhead; simp [steady_fields]

@[simp] theorem readTimeout_steady (q entry : Nat) (f : MediaFacts) (s : State) : (readTimeout q entry f s).steady = s.steady := by
  unfold readTimeout; (try dsimp only) <;> (repeat' split) <;> first | (simp [steady_fields]; done) | ((try simp); grind [dieSilent_steady, countReads_steady, cacheFill_steady, readLate_steady, rebuildRead_steady, triedEnd_steady, rebuildRead_pair, triedEnd_pair]) | (simp_all [steady_fields]; done)

theorem execReadTimeoutExpiry_steady (quadrant entry : Nat) (facts : MediaFacts) (s : State) : ∃ t, execReadTimeoutExpiry quadrant entry facts s = .next t ∧ t.steady = s.steady := by
  exact ⟨_, rfl, by simp⟩

end Sys2Proof.Machine
end

