-- ==== Sys2Proof/Laws/Steady/Ingest.lean ====
section
/-! SUPPORT. What `Machine/Ingest.lean` changes leaves the steady fields as they are. -/

namespace Sys2Proof.Machine

@[simp] theorem idWatch_steady (s : State) : (idWatch s).steady = s.steady := by
  unfold idWatch; simp [steady_fields]

@[simp] theorem takeIdBlock_steady (s : State) : (takeIdBlock s).2.steady = s.steady := by
  unfold takeIdBlock; first | (simp [steady_fields]; done) | ((try simp); (repeat' split) <;> simp_all [steady_fields]; done)

theorem takeIdBlock_pair {s : State} {r0 : _} {last : State} (eq : takeIdBlock s = (r0, last)) : last.steady = s.steady := by
  have k := takeIdBlock_steady s; rwa [eq] at k

@[simp] theorem drawFrom_steady (b n : Nat) (rest : List (Nat × Nat)) (s : State) : (drawFrom b n rest s).2.steady = s.steady := by
  unfold drawFrom; first | (simp [steady_fields]; done) | ((try simp); (repeat' split) <;> simp_all [steady_fields]; done)

theorem drawFrom_pair {b n : Nat} {rest : List (Nat × Nat)} {s : State} {r0 : _} {last : State} (eq : drawFrom b n rest s = (r0, last)) : last.steady = s.steady := by
  have k := drawFrom_steady b n rest s; rwa [eq] at k

@[simp] theorem drawNew_steady (s : State) : (drawNew s).2.steady = s.steady := by
  unfold drawNew; (try dsimp only) <;> (repeat' split) <;> first | (simp [steady_fields]; done) | ((try simp); grind [takeIdBlock_steady, drawFrom_steady, takeIdBlock_pair, drawFrom_pair]) | (simp_all [steady_fields]; done)

theorem drawNew_pair {s : State} {r0 : _} {last : State} (eq : drawNew s = (r0, last)) : last.steady = s.steady := by
  have k := drawNew_steady s; rwa [eq] at k

@[simp] theorem drawRanges_steady  : ∀ (x0 : List (Nat × Nat)) (x1 : State), (drawRanges x0 x1).2.steady = x1.steady := by
  intro x0; induction x0 with
  | nil => intro s; simp [drawRanges]
  | cons x xs ih =>
    intro s; obtain ⟨b, n⟩ := x; unfold drawRanges; split
    · rename_i eq; exact drawFrom_pair eq
    · rename_i eq; rw [ih]; exact drawFrom_pair eq

theorem drawRanges_pair  {x0 : List (Nat × Nat)} {x1 : State} {r0 : _} {last : State} (eq : drawRanges x0 x1 = (r0, last)) : last.steady = x1.steady := by
  have k := drawRanges_steady x0 x1; rwa [eq] at k

@[simp] theorem drawId_steady (s : State) : (drawId s).2.steady = s.steady := by
  unfold drawId; (try dsimp only) <;> (repeat' split) <;> first | (simp [steady_fields]; done) | ((try simp); grind [modifyIngest_steady, drawRanges_steady, drawRanges_pair]) | (simp_all [steady_fields]; done)

theorem drawId_pair {s : State} {r0 : _} {last : State} (eq : drawId s = (r0, last)) : last.steady = s.steady := by
  have k := drawId_steady s; rwa [eq] at k

@[simp] theorem reserveId_steady (h : Nat) (s : State) : (reserveId h s).2.steady = s.steady := by
  unfold reserveId; first | (simp [steady_fields]; done) | ((try simp); (repeat' split) <;> simp_all [steady_fields]; done)

theorem reserveId_pair {h : Nat} {s : State} {r0 : _} {last : State} (eq : reserveId h s = (r0, last)) : last.steady = s.steady := by
  have k := reserveId_steady h s; rwa [eq] at k

@[simp] theorem freeId_steady (id gen : Nat) (s : State) : (freeId id gen s).steady = s.steady := by
  unfold freeId; simp

@[simp] theorem takeStamp_steady (q : Nat) (s : State) : (takeStamp q s).2.steady = s.steady := by
  unfold takeStamp; simp

theorem takeStamp_pair {q : Nat} {s : State} {r0 : _} {last : State} (eq : takeStamp q s = (r0, last)) : last.steady = s.steady := by
  have k := takeStamp_steady q s; rwa [eq] at k

@[simp] theorem landRecord_steady (t : Target) (off len q seq : Nat) (handles : List Nat) (payload : Bytes) (zero : Bool) (s : State) : (landRecord t off len q seq handles payload zero s).2.steady = s.steady := by
  unfold landRecord; simp

theorem landRecord_pair {t : Target} {off len q seq : Nat} {handles : List Nat} {payload : Bytes} {zero : Bool} {s : State} {r0 : _} {last : State} (eq : landRecord t off len q seq handles payload zero s = (r0, last)) : last.steady = s.steady := by
  have k := landRecord_steady t off len q seq handles payload zero s; rwa [eq] at k

@[simp] theorem squashWork_steady (w : ChunkWork) (s : State) : (squashWork w s).steady = s.steady := by
  unfold squashWork; first | (simp [steady_fields]; done) | ((try simp); (repeat' split) <;> simp_all [steady_fields]; done)

@[simp] theorem squashTarget_steady (t : Target) (s : State) : (squashTarget t s).steady = s.steady := by
  unfold squashTarget; simp

@[simp] theorem noteOverlaid_steady (ns grain off len q seq : Nat) (s : State) : (noteOverlaid ns grain off len q seq s).steady = s.steady := by
  unfold noteOverlaid; simp

@[simp] theorem noteComposed_steady (t : Target) (seqs : List (Nat × Nat)) (s : State) : (noteComposed t seqs s).steady = s.steady := by
  unfold noteComposed; (try dsimp only) <;> (repeat' split) <;> first | (simp [steady_fields]; done) | ((try simp); grind [noteOverlaid_steady]) | (simp_all [steady_fields]; done)

@[simp] theorem markDone_steady (t : Target) (seqs : List (Nat × Nat)) (entry jseq : Nat) (mseq : Option Nat) (s : State) : (markDone t seqs entry jseq mseq s).steady = s.steady := by
  unfold markDone; simp

@[simp] theorem endHold_steady (t : Target) (s : State) : (endHold t s).steady = s.steady := by
  unfold endHold; first | (simp [steady_fields]; done) | ((try simp); (repeat' split) <;> simp_all [steady_fields]; done)

@[simp] theorem commitReference_steady (t : Target) (seqs : List (Nat × Nat)) (entry : Nat) (s : State) : (commitReference t seqs entry s).steady = s.steady := by
  unfold commitReference; simp

@[simp] theorem commitZero_steady (ns grain : Nat) (unmap : Bool) (seq : Nat) (s : State) : (commitZero ns grain unmap seq s).2.steady = s.steady := by
  unfold commitZero; simp

theorem commitZero_pair {ns grain : Nat} {unmap : Bool} {seq : Nat} {s : State} {r0 : _} {last : State} (eq : commitZero ns grain unmap seq s = (r0, last)) : last.steady = s.steady := by
  have k := commitZero_steady ns grain unmap seq s; rwa [eq] at k

@[simp] theorem writeCopy_steady (c : SnapPage) (s : State) : (writeCopy c s).steady = s.steady := by
  unfold writeCopy; simp

@[simp] theorem startCopy_steady (t : Target) (s : State) : (startCopy t s).steady = s.steady := by
  unfold startCopy; first | (simp [steady_fields]; done) | ((try simp); (repeat' split) <;> simp_all [steady_fields]; done)

@[simp] theorem noteHeld_steady (ns grain base : Nat) (s : State) : (noteHeld ns grain base s).steady = s.steady := by
  unfold noteHeld; simp

@[simp] theorem startChunk_steady (harrow : Nat) (t : Target) (plain : Bytes) (seqs : List (Nat × Nat)) (s : State) : (startChunk harrow t plain seqs s).steady = s.steady := by
  unfold startChunk; simp

@[simp] theorem composeGrain_steady (ns grain harrow : Nat) (f : MediaFacts) (s : State) : (composeGrain ns grain harrow f s).steady = s.steady := by
  unfold composeGrain; (try dsimp only) <;> (repeat' split) <;> first | (simp [steady_fields]; done) | ((try simp); grind [chunkRead_steady, layOver_steady, startCopy_steady, noteHeld_steady, startChunk_steady, chunkRead_pair, layOver_pair]) | (simp_all [steady_fields]; done)

@[simp] theorem objectBuffered_steady (o off len : Nat) (s : State) : (objectBuffered o off len s).2.steady = s.steady := by
  unfold objectBuffered; dsimp only; exact foldl_steady2 _ (fun st r => by simp) _ _

theorem objectBuffered_pair {o off len : Nat} {s : State} {r0 : _} {last : State} (eq : objectBuffered o off len s = (r0, last)) : last.steady = s.steady := by
  have k := objectBuffered_steady o off len s; rwa [eq] at k

@[simp] theorem chunkCut_steady (o harrow : Nat) (s : State) : (chunkCut o harrow s).steady = s.steady := by
  unfold chunkCut; first | (simp [steady_fields]; done) | ((try simp); (repeat' split) <;> simp_all [steady_fields]; done)

@[simp] theorem workReserve_steady (w : ChunkWork) (s : State) : (workReserve w s).steady = s.steady := by
  unfold workReserve; (try dsimp only) <;> (repeat' split) <;> first | (simp [steady_fields]; done) | ((try simp); grind [modifyEpoch_steady, modifyWork_steady, idsWatch_steady, reserveId_steady, reserveId_pair]) | (simp_all [steady_fields]; done)

@[simp] theorem fingerprintWork_steady (work : Nat) (s : State) : (fingerprintWork work s).steady = s.steady := by
  unfold fingerprintWork; (try dsimp only) <;> (repeat' split) <;> first | (simp [steady_fields]; done) | ((try simp); grind [openEpoch_steady, modifyWork_steady, countIngest_steady, workReserve_steady, openEpoch_some]) | (simp_all [steady_fields]; done)

theorem execFingerprint_steady (work : Nat) (s : State) : ∃ t, execFingerprint work s = .next t ∧ t.steady = s.steady := by
  exact ⟨_, rfl, by simp⟩

@[simp] theorem confirmHit_steady (w : ChunkWork) (entry : Nat) (f : MediaFacts) (s : State) : (confirmHit w entry f s).2.steady = s.steady := by
  unfold confirmHit; (try dsimp only) <;> (repeat' split) <;> first | (simp [steady_fields]; done) | ((try simp); grind [almanac_steady, countIngest_steady, chunkRead_steady, workReserve_steady, chunkRead_pair]) | (simp_all [steady_fields]; done)

theorem confirmHit_pair {w : ChunkWork} {entry : Nat} {f : MediaFacts} {s : State} {r0 : _} {last : State} (eq : confirmHit w entry f s = (r0, last)) : last.steady = s.steady := by
  have k := confirmHit_steady w entry f s; rwa [eq] at k

@[simp] theorem applyHit_steady (w : ChunkWork) (entry : Nat) (s : State) : (applyHit w entry s).steady = s.steady := by
  unfold applyHit; simp

@[simp] theorem decideMiss_steady (w : ChunkWork) (noIndex : Bool) (s : State) : (decideMiss w noIndex s).steady = s.steady := by
  unfold decideMiss; simp

@[simp] theorem winnowHot_steady (key : Nat) (s : State) : (winnowHot key s).2.steady = s.steady := by
  unfold winnowHot; simp

theorem winnowHot_pair {key : Nat} {s : State} {r0 : _} {last : State} (eq : winnowHot key s = (r0, last)) : last.steady = s.steady := by
  have k := winnowHot_steady key s; rwa [eq] at k

@[simp] theorem dedupLookup_steady (work : Nat) (falsePositive : Bool) (f : MediaFacts) (s : State) : (dedupLookup work falsePositive f s).steady = s.steady := by
  unfold dedupLookup; first | (simp [steady_fields]; done) | ((try simp); (repeat' split) <;> simp_all [steady_fields]; done)

@[simp] theorem finishWork_steady (w : ChunkWork) (s : State) : (finishWork w s).steady = s.steady := by
  unfold finishWork; first | (simp [steady_fields]; done) | ((try simp); (repeat' split) <;> simp_all [steady_fields]; done)

@[simp] theorem commitEpoch_steady (e : EpochRef) (s : State) : (commitEpoch e s).steady = s.steady := by
  unfold commitEpoch; first | (simp [steady_fields]; done) | ((try simp); (repeat' split) <;> simp_all [steady_fields]; done)

@[simp] theorem stopWork_steady (w : ChunkWork) (s : State) : (stopWork w s).steady = s.steady := by
  unfold stopWork; (try dsimp only) <;> (repeat' split) <;> first | (simp [steady_fields]; done) | ((try simp); grind [modifyHarrow_steady, squashEpoch_steady, modifyWork_steady, countIngest_steady]) | (simp_all [steady_fields]; done)

@[simp] theorem encryptChunk_steady (w : ChunkWork) (s : State) : (encryptChunk w s).2.steady = s.steady := by
  unfold encryptChunk; (try dsimp only) <;> (repeat' split) <;> first | (simp [steady_fields]; done) | ((try simp); grind [cipherRun_steady, countReleased_steady, needKey_steady, stopWork_steady, cipherRun_pair, needKey_pair]) | (simp_all [steady_fields]; done)

theorem encryptChunk_pair {w : ChunkWork} {s : State} {r0 : _} {last : State} (eq : encryptChunk w s = (r0, last)) : last.steady = s.steady := by
  have k := encryptChunk_steady w s; rwa [eq] at k

@[simp] theorem countCommit_steady (w : ChunkWork) (s : State) : (countCommit w s).steady = s.steady := by
  unfold countCommit; (try dsimp only) <;> (repeat' split) <;> first | (simp [steady_fields]; done) | ((try simp); grind [countIngest_steady, commitEpoch_steady]) | (simp_all [steady_fields]; done)

@[simp] theorem storeChunk_steady (w : ChunkWork) (bytes : Bytes) (s : State) : (storeChunk w bytes s).steady = s.steady := by
  unfold storeChunk; (try dsimp only) <;> (repeat' split) <;> first | (simp [steady_fields]; done) | ((try simp); grind [dropWork_steady, place_steady, appendRecord_steady, markDone_steady, endHold_steady, countCommit_steady, place_pair, appendRecord_pair]) | (simp_all [steady_fields]; done)

@[simp] theorem commitMiss_steady (w0 : ChunkWork) (s : State) : (commitMiss w0 s).steady = s.steady := by
  unfold commitMiss; (try dsimp only) <;> (repeat' split) <;> first | (simp [steady_fields]; done) | ((try simp); grind [squashWork_steady, workReserve_steady, finishWork_steady, encryptChunk_steady, storeChunk_steady, encryptChunk_pair]) | (simp_all [steady_fields]; done)

end Sys2Proof.Machine
end

