-- ==== Sys2Proof/Laws/Steady/Ports.lean ====
section
/-! SUPPORT. What `Machine/Ports.lean` changes leaves the steady fields as they are. -/

namespace Sys2Proof.Machine

@[simp] theorem learnNeighbour_steady (l addr mac : Nat) (s : State) : (learnNeighbour l addr mac s).steady = s.steady := by
  unfold learnNeighbour; simp

theorem allocQp_steady (v : Service) (active : Bool) (l remoteAddr gid peerMtu : Nat) (s : State) : ∀ r, allocQp v active l remoteAddr gid peerMtu s = some r → r.2.steady = s.steady := by
  intro r h; revert h; unfold allocQp; (try dsimp only) <;> (repeat' split) <;> intro h <;> first | (simp at h; done) | (simp at h; subst h; simp [steady_fields]; done) | ((try simp at h); grind [steady_fields, draw_steady, modifyPorts_steady, draw_pair])

theorem allocQp_some {v : Service} {active : Bool} {l remoteAddr gid peerMtu : Nat} {s : State} {r0 : _} {last : State} (eq : allocQp v active l remoteAddr gid peerMtu s = some (r0, last)) : last.steady = s.steady :=
  allocQp_steady v active l remoteAddr gid peerMtu s _ eq

@[simp] theorem qpConnect_steady (q : Nat) (s : State) : (qpConnect q s).steady = s.steady := by
  unfold qpConnect; first | (simp [steady_fields]; done) | ((try simp); (repeat' split) <;> simp_all [steady_fields]; done)

@[simp] theorem modifyZone_steady (z : Nat) (f : Zone → Zone) (s : State) : (modifyZone z f s).steady = s.steady := by
  unfold modifyZone; simp

theorem grantZone_steady (q len : Nat) (handles : List Nat) (s : State) : ∀ r, grantZone q len handles s = some r → r.2.steady = s.steady := by
  intro r h; unfold grantZone at h; split at h <;> simp at h; subst h; simp

theorem grantZone_some {q len : Nat} {handles : List Nat} {s : State} {r0 : _} {last : State} (eq : grantZone q len handles s = some (r0, last)) : last.steady = s.steady :=
  grantZone_steady q len handles s _ eq

@[simp] theorem revokeZone_steady (z : Nat) (s : State) : (revokeZone z s).steady = s.steady := by
  unfold revokeZone; first | (simp [steady_fields]; done) | ((try simp); (repeat' split) <;> simp_all [steady_fields]; done)

@[simp] theorem revokeZones_steady (q : Nat) (s : State) : (revokeZones q s).steady = s.steady := by
  unfold revokeZones; simp

theorem zoneDone_steady (z : Nat) (s : State) : ∀ r, zoneDone z s = some r → r.2.steady = s.steady := by
  intro r h; revert h; unfold zoneDone; (try dsimp only) <;> (repeat' split) <;> intro h <;> first | (simp at h; done) | (simp at h; subst h; simp [steady_fields]; done) | ((try simp at h); grind [steady_fields, modifyPorts_steady, raiseAttn_steady, raiseEvent_steady, modifyZone_steady])

theorem zoneDone_some {z : Nat} {s : State} {r0 : _} {last : State} (eq : zoneDone z s = some (r0, last)) : last.steady = s.steady :=
  zoneDone_steady z s _ eq

@[simp] theorem onSample_steady (q sample : Nat) (s : State) : (onSample q sample s).steady = s.steady := by
  unfold onSample; first | (simp [steady_fields]; done) | ((try simp); (repeat' split) <;> simp_all [steady_fields]; done)

@[simp] theorem onCnp_steady (q : Nat) (s : State) : (onCnp q s).steady = s.steady := by
  unfold onCnp; first | (simp [steady_fields]; done) | ((try simp); (repeat' split) <;> simp_all [steady_fields]; done)

@[simp] theorem answerMark_steady (q : Nat) (s : State) : (answerMark q s).steady = s.steady := by
  unfold answerMark; first | (simp [steady_fields]; done) | ((try simp); (repeat' split) <;> simp_all [steady_fields]; done)

@[simp] theorem sendDreq_steady (c : QpCtx) (s : State) : (sendDreq c s).steady = s.steady := by
  unfold sendDreq; simp

@[simp] theorem qpStop_steady (q : Nat) (st : CtxState) (s : State) : (qpStop q st s).steady = s.steady := by
  unfold qpStop; simp

@[simp] theorem dropSteering_steady (c : QpCtx) (s : State) : (dropSteering c s).steady = s.steady := by
  unfold dropSteering; simp

@[simp] theorem qpClose_steady (q : Nat) (s : State) : (qpClose q s).steady = s.steady := by
  unfold qpClose; first | (simp [steady_fields]; done) | ((try simp); (repeat' split) <;> simp_all [steady_fields]; done)

@[simp] theorem qpFail_steady (q : Nat) (s : State) : (qpFail q s).steady = s.steady := by
  unfold qpFail; first | (simp [steady_fields]; done) | ((try simp); (repeat' split) <;> simp_all [steady_fields]; done)

@[simp] theorem qpFree_steady (q : Nat) (s : State) : (qpFree q s).steady = s.steady := by
  unfold qpFree; first | (simp [steady_fields]; done) | ((try simp); (repeat' split) <;> simp_all [steady_fields]; done)

end Sys2Proof.Machine
end

