-- ==== Sys2Proof/Laws/Steady/Packets.lean ====
section
/-! SUPPORT. What `Machine/Packets.lean` changes leaves the steady fields as they are. -/

namespace Sys2Proof.Machine

@[simp] theorem sendAck_steady (q : Nat) (s : State) : (sendAck q s).steady = s.steady := by
  unfold sendAck; split; · rfl
  · exact (sendResponse_steady ..).trans (modifyQp_steady ..)

@[simp] theorem sendNak_steady (q syndrome : Nat) (s : State) : (sendNak q syndrome s).steady = s.steady := by
  unfold sendNak; first | (simp [steady_fields]; done) | ((try simp); (repeat' split) <;> simp_all [steady_fields]; done)

@[simp] theorem nakInvalid_steady (q : Nat) (s : State) : (nakInvalid q s).steady = s.steady := by
  unfold nakInvalid; simp

@[simp] theorem nakAccess_steady (q : Nat) (s : State) : (nakAccess q s).steady = s.steady := by
  unfold nakAccess; simp

@[simp] theorem takePacket_steady (q : Nat) (ackReq last : Bool) (s : State) : (takePacket q ackReq last s).steady = s.steady := by
  unfold takePacket; simp

@[simp] theorem takeSend_steady (q : Nat) (h : RoceHead) (pos : MsgPos) (payload : Bytes) (s : State) : (takeSend q h pos payload s).steady = s.steady := by
  unfold takeSend; first | (simp [steady_fields]; done) | ((try simp); (repeat' split) <;> simp_all [steady_fields]; done)

@[simp] theorem takeSendInvalidate_steady (q : Nat) (h : RoceHead) (pos : MsgPos) (key : Nat) (payload : Bytes) (s : State) : (takeSendInvalidate q h pos key payload s).steady = s.steady := by
  unfold takeSendInvalidate; first | (simp [steady_fields]; done) | ((try simp); (repeat' split) <;> simp_all [steady_fields]; done)

@[simp] theorem zoneWrite_steady (z : Zone) (off : Nat) (bs : Bytes) (s : State) : (zoneWrite z off bs s).steady = s.steady := by
  unfold zoneWrite; simp

@[simp] theorem zoneRead_steady (z : Zone) (off len : Nat) (s : State) : (zoneRead z off len s).2.steady = s.steady := by
  unfold zoneRead; exact foldl_steady2 _ (fun st i => by dsimp only; split <;> simp) _ _

theorem zoneRead_pair {z : Zone} {off len : Nat} {s : State} {r0 : _} {last : State} (eq : zoneRead z off len s = (r0, last)) : last.steady = s.steady := by
  have k := zoneRead_steady z off len s; rwa [eq] at k

@[simp] theorem landWrite_steady (q : Nat) (h : RoceHead) (z : Zone) (first off left : Nat) (last : Bool) (payload : Bytes) (s : State) : (landWrite q h z first off left last payload s).steady = s.steady := by
  unfold landWrite; simp

@[simp] theorem takeWrite_steady (q : Nat) (h : RoceHead) (pos : MsgPos) (w : Option WriteHeader) (payload : Bytes) (s : State) : (takeWrite q h pos w payload s).steady = s.steady := by
  unfold takeWrite; first | (simp [steady_fields]; done) | ((try simp); (repeat' split) <;> simp_all [steady_fields]; done)

@[simp] theorem takeRequest_steady (q : Nat) (h : RoceHead) (b : RoceBody) (s : State) : (takeRequest q h b s).steady = s.steady := by
  unfold takeRequest; first | (simp [steady_fields]; done) | ((try simp); (repeat' split) <;> simp_all [steady_fields]; done)

@[simp] theorem retire_steady (q psn : Nat) (s : State) : (retire q psn s).2.steady = s.steady := by
  unfold retire; first | (simp [steady_fields]; done) | ((try simp); (repeat' split) <;> simp_all [steady_fields]; done)

theorem retire_pair {q psn : Nat} {s : State} {r0 : _} {last : State} (eq : retire q psn s = (r0, last)) : last.steady = s.steady := by
  have k := retire_steady q psn s; rwa [eq] at k

@[simp] theorem resendAll_steady (q : Nat) (s : State) : (resendAll q s).steady = s.steady := by
  unfold resendAll; first | (simp [steady_fields]; done) | ((try simp); (repeat' split) <;> simp_all [steady_fields]; done)

@[simp] theorem retryOrFail_steady (q : Nat) (s : State) : (retryOrFail q s).2.steady = s.steady := by
  unfold retryOrFail; first | (simp [steady_fields]; done) | ((try simp); (repeat' split) <;> simp_all [steady_fields]; done)

theorem retryOrFail_pair {q : Nat} {s : State} {r0 : _} {last : State} (eq : retryOrFail q s = (r0, last)) : last.steady = s.steady := by
  have k := retryOrFail_steady q s; rwa [eq] at k

@[simp] theorem takeAck_steady (q : Nat) (h : RoceHead) (k : AckKind) (s : State) : (takeAck q h k s).2.steady = s.steady := by
  unfold takeAck
  generalize (h.psn + 2 ^ 24 - 1) % 2 ^ 24 = z
  have kr := retire_steady q
  cases k with
  | ack => exact (qpPump_steady ..).trans (kr _ _)
  | sequenceError => exact (retryOrFail_steady ..).trans (kr _ _)
  | _ =>
    dsimp only
    repeat' split
    all_goals simp only [kr, qpFail_steady, modifyQp_steady]

theorem takeAck_pair {q : Nat} {h : RoceHead} {k : AckKind} {s : State} {r0 : _} {last : State} (eq : takeAck q h k s = (r0, last)) : last.steady = s.steady := by
  have k := takeAck_steady q h k s; rwa [eq] at k

@[simp] theorem takeReadResponse_steady (q : Nat) (h : RoceHead) (pos : MsgPos) (payload : Bytes) (s : State) : (takeReadResponse q h pos payload s).2.steady = s.steady := by
  unfold takeReadResponse
  generalize (h.psn + 2 ^ 24 - 1) % 2 ^ 24 = z
  have k := retire_steady q
  dsimp only
  repeat' split
  all_goals simp only [k, qpPump_steady, modifyQp_steady, onSample_steady]

theorem takeReadResponse_pair {q : Nat} {h : RoceHead} {pos : MsgPos} {payload : Bytes} {s : State} {r0 : _} {last : State} (eq : takeReadResponse q h pos payload s = (r0, last)) : last.steady = s.steady := by
  have k := takeReadResponse_steady q h pos payload s; rwa [eq] at k

@[simp] theorem inContext_steady (q : Nat) (h : RoceHead) (b : RoceBody) (s : State) : (inContext q h b s).2.steady = s.steady := by
  unfold inContext; first | (simp [steady_fields]; done) | ((try simp); (repeat' split) <;> simp_all [steady_fields]; done)

theorem inContext_pair {q : Nat} {h : RoceHead} {b : RoceBody} {s : State} {r0 : _} {last : State} (eq : inContext q h b s = (r0, last)) : last.steady = s.steady := by
  have k := inContext_steady q h b s; rwa [eq] at k

@[simp] theorem mhbFull_steady (d : Nat) (s : State) : (mhbFull d s).steady = s.steady := by
  unfold mhbFull; simp

@[simp] theorem missPacket_steady (c : QpCtx) (h : RoceHead) (b : RoceBody) (s : State) : (missPacket c h b s).steady = s.steady := by
  unfold missPacket; simp

@[simp] theorem steer_steady (h : RoceHead) (b : RoceBody) (s : State) : (steer h b s).2.steady = s.steady := by
  unfold steer; first | (simp [steady_fields]; done) | ((try simp); (repeat' split) <;> simp_all [steady_fields]; done)

theorem steer_pair {h : RoceHead} {b : RoceBody} {s : State} {r0 : _} {last : State} (eq : steer h b s = (r0, last)) : last.steady = s.steady := by
  have k := steer_steady h b s; rwa [eq] at k

@[simp] theorem receivePacket_steady (h : RoceHead) (b : RoceBody) (s : State) : (receivePacket h b s).2.steady = s.steady := by
  unfold receivePacket; first | (simp [steady_fields]; done) | ((try simp); (repeat' split) <;> simp_all [steady_fields]; done)

theorem receivePacket_pair {h : RoceHead} {b : RoceBody} {s : State} {r0 : _} {last : State} (eq : receivePacket h b s = (r0, last)) : last.steady = s.steady := by
  have k := receivePacket_steady h b s; rwa [eq] at k

@[simp] theorem drainMissed_steady (q : Nat) : ∀ (x0 : List MissedPacket) (x1 : State), (drainMissed q x0 x1).2.steady = x1.steady := by
  intro x0; induction x0 with
  | nil => intros; simp [drainMissed]
  | cons x xs ih => intros; unfold drainMissed; simp [ih]

theorem drainMissed_pair {q : Nat} {x0 : List MissedPacket} {x1 : State} {r0 : _} {last : State} (eq : drainMissed q x0 x1 = (r0, last)) : last.steady = x1.steady := by
  have k := drainMissed_steady q x0 x1; rwa [eq] at k

@[simp] theorem contextFetched_steady (q : Nat) (s : State) : (contextFetched q s).2.steady = s.steady := by
  unfold contextFetched; first | (simp [steady_fields]; done) | ((try simp); (repeat' split) <;> simp_all [steady_fields]; done)

theorem contextFetched_pair {q : Nat} {s : State} {r0 : _} {last : State} (eq : contextFetched q s = (r0, last)) : last.steady = s.steady := by
  have k := contextFetched_steady q s; rwa [eq] at k

@[simp] theorem stubFetched_steady (d : Nat) (s : State) : (stubFetched d s).steady = s.steady := by
  unfold stubFetched; first | (simp [steady_fields]; done) | ((try simp); (repeat' split) <;> simp_all [steady_fields]; done)

end Sys2Proof.Machine
end

