-- ==== Sys2Proof/Laws/Steady/ClientCore.lean ====
section
/-! SUPPORT. What `Machine/ClientCore.lean` changes leaves the steady fields as they are. -/

namespace Sys2Proof.Machine

@[simp] theorem nsData_steady (n : Namespace) (off len : Nat) (f : MediaFacts) (s : State) : (nsData n off len f s).2.steady = s.steady := by
  unfold nsData; simp

theorem nsData_pair {n : Namespace} {off len : Nat} {f : MediaFacts} {s : State} {r0 : _} {last : State} (eq : nsData n off len f s = (r0, last)) : last.steady = s.steady := by
  have k := nsData_steady n off len f s; rwa [eq] at k

@[simp] theorem readFailed_steady (qp cid : Nat) (st : Status) (before s : State) : (readFailed qp cid st before s).steady = s.steady := by
  unfold readFailed; simp

@[simp] theorem nvReadNow_steady (qp cid : Nat) (f : MediaFacts) (s : State) : (nvReadNow qp cid f s).steady = s.steady := by
  unfold nvReadNow; (try dsimp only) <;> (repeat' split) <;> first | (simp [steady_fields]; done) | ((try simp); grind [qpSend_steady, modifyNvme_steady, nvEnd_steady, grainAhead_steady, nsData_steady, readFailed_steady, nsData_pair]) | (simp_all [steady_fields]; done)

@[simp] theorem nvCompareNow_steady (qp cid : Nat) (host : Bytes) (f : MediaFacts) (s : State) : (nvCompareNow qp cid host f s).steady = s.steady := by
  unfold nvCompareNow; (try dsimp only) <;> (repeat' split) <;> first | (simp [steady_fields]; done) | ((try simp); grind [nvEnd_steady, nsData_steady, readFailed_steady, nsData_pair]) | (simp_all [steady_fields]; done)

@[simp] theorem modifySheaf_steady (f : SheafPart → SheafPart) (s : State) : (modifySheaf f s).steady = s.steady := by
  unfold modifySheaf; simp [steady_fields]

@[simp] theorem countSheaf_steady (f : SheafCounters → SheafCounters) (s : State) : (countSheaf f s).steady = s.steady := by
  unfold countSheaf; simp

@[simp] theorem shSend_steady (qp : Nat) (request reply : Bytes) (s : State) : (shSend qp request reply s).steady = s.steady := by
  unfold shSend; simp

@[simp] theorem shEnd_steady (qp tag : Nat) (reply : Bytes) (s : State) : (shEnd qp tag reply s).steady = s.steady := by
  unfold shEnd; first | (simp [steady_fields]; done) | ((try simp); (repeat' split) <;> simp_all [steady_fields]; done)

@[simp] theorem clientDone_steady (ref : ClientRef) (reply : Bytes) (s : State) : (clientDone ref reply s).steady = s.steady := by
  unfold clientDone; first | (simp [steady_fields]; done) | ((try simp); (repeat' split) <;> simp_all [steady_fields]; done)

end Sys2Proof.Machine
end

