-- ==== Sys2Proof/Laws/Steady/Reclaim.lean ====
section
/-! SUPPORT. What `Machine/Reclaim.lean` changes leaves the steady fields as they are. -/

namespace Sys2Proof.Machine

@[simp] theorem workTicket_steady (type prio quadrant : Nat) (args : Bytes) (s : State) : (workTicket type prio quadrant args s).steady = s.steady := by
  unfold workTicket; exact getD_steady _ _ _ (fun r h => (enqueue_steady _ _ _ h).trans rfl) rfl

@[simp] theorem modifyJob_steady (a : Nat) (f : ReclaimJob → ReclaimJob) (s : State) : (modifyJob a f s).steady = s.steady := by
  unfold modifyJob; simp [steady_fields]

@[simp] theorem countReclaim_steady (f : ReclaimCounters → ReclaimCounters) (s : State) : (countReclaim f s).steady = s.steady := by
  unfold countReclaim; simp [steady_fields]

@[simp] theorem copyBytes_steady (q entry : Nat) (l : Loc) (a : Acre) (f : MediaFacts) (s : State) : (copyBytes q entry l a f s).2.2.steady = s.steady := by
  unfold copyBytes; (try dsimp only) <;> (repeat' split) <;> first | (simp [steady_fields]; done) | ((try simp); grind [plotRead_steady, rebuild_steady, openRecord_steady, plotRead_pair, rebuild_pair, openRecord_pair]) | (simp_all [steady_fields]; done)

theorem copyBytes_pair {q entry : Nat} {l : Loc} {a : Acre} {f : MediaFacts} {s : State} {r0 r1 : _} {last : State} (eq : copyBytes q entry l a f s = (r0, r1, last)) : last.steady = s.steady := by
  have k := copyBytes_steady q entry l a f s; rwa [eq] at k

@[simp] theorem rekeyed_steady (q : Nat) (r payload : Bytes) (s : State) : (rekeyed q r payload s).2.steady = s.steady := by
  unfold rekeyed; (try dsimp only) <;> (repeat' split) <;> first | (simp [steady_fields]; done) | ((try simp); grind [cipherRun_steady, countReleased_steady, needKey_steady, cipherRun_pair, needKey_pair]) | (simp_all [steady_fields]; done)

theorem rekeyed_pair {q : Nat} {r payload : Bytes} {s : State} {r0 : _} {last : State} (eq : rekeyed q r payload s = (r0, last)) : last.steady = s.steady := by
  have k := rekeyed_steady q r payload s; rwa [eq] at k

@[simp] theorem noteRelocate_steady (victim j : Nat) (s : State) : (noteRelocate victim j s).steady = s.steady := by
  unfold noteRelocate; simp

@[simp] theorem markLost_steady (victim q entry : Nat) (l : Loc) (s : State) : (markLost victim q entry l s).steady = s.steady := by
  unfold markLost; simp

@[simp] theorem copyOne_steady (j : ReclaimJob) (a : Acre) (x : Nat × Loc) (f : MediaFacts) (s : State) : (copyOne j a x f s).2.2.steady = s.steady := by
  unfold copyOne; (try dsimp only) <;> (repeat' split) <;> first | (simp [steady_fields]; done) | ((try simp); grind [appendRecord_steady, modifyJob_steady, countReclaim_steady, copyBytes_steady, rekeyed_steady, markLost_steady, appendRecord_pair, copyBytes_pair, rekeyed_pair]) | (simp_all [steady_fields]; done)

theorem copyOne_pair {j : ReclaimJob} {a : Acre} {x : Nat × Loc} {f : MediaFacts} {s : State} {r0 r1 : _} {last : State} (eq : copyOne j a x f s = (r0, r1, last)) : last.steady = s.steady := by
  have k := copyOne_steady j a x f s; rwa [eq] at k

@[simp] theorem copyAll_steady (j : ReclaimJob) (a : Acre) : ∀ (x0 : List (Nat × Loc)) (x1 : MediaFacts) (x2 : State), (copyAll j a x0 x1 x2).steady = x2.steady := by
  intro x0; induction x0 with
  | nil => intros; simp [copyAll]
  | cons x xs ih => intros; unfold copyAll; simp [ih]

@[simp] theorem copyPages_steady (j : ReclaimJob) (a : Acre) (f : MediaFacts) (s : State) : (copyPages j a f s).steady = s.steady := by
  unfold copyPages; refine foldl_steady _ (fun st e => ?_) _ _
  dsimp only
  have k : ∀ (m : Option Bytes × State), m = (match plotRead 0 a e.2.2.1 e.2.2.2.1 (16384 * e.2.2.2.2) 16384 .background f st with
      | (some (b, _), s1) => (some b, s1)
      | (none, s1) => rebuild 0 a e.2.2.1 e.2.2.2.1 (16384 * e.2.2.2.2) 16384 f s1) → m.2.steady = st.steady := by
    intro m h; subst h; split <;> rename_i eq <;> simp [plotRead_pair eq]
  split <;> rename_i eq <;> simp [k _ eq.symm]

@[simp] theorem copyVictim_steady (n : Nat) (f : MediaFacts) (s : State) : (copyVictim n f s).steady = s.steady := by
  unfold copyVictim; first | (simp [steady_fields]; done) | ((try simp); (repeat' split) <;> simp_all [steady_fields]; done)

@[simp] theorem destroyedDone_steady (s : State) : (destroyedDone s).steady = s.steady := by
  unfold destroyedDone; simp

@[simp] theorem acreFree_steady (n : Nat) (s : State) : (acreFree n s).steady = s.steady := by
  unfold acreFree; simp [steady_fields]

@[simp] theorem victimBlock_steady (n i : Nat) (good : Bool) (s : State) : (victimBlock n i good s).steady = s.steady := by
  unfold victimBlock; first | (simp [steady_fields]; done) | ((try simp); (repeat' split) <;> simp_all [steady_fields]; done)

@[simp] theorem eraseBlock_steady (n i : Nat) (x : Nat × Nat × Nat) (s : State) : (eraseBlock n i x s).steady = s.steady := by
  unfold eraseBlock; simp

@[simp] theorem eraseVictim_steady (n : Nat) (s : State) : (eraseVictim n s).steady = s.steady := by
  unfold eraseVictim; first | (simp [steady_fields]; done) | ((try simp); (repeat' split) <;> simp_all [steady_fields]; done)

@[simp] theorem endMarked_steady (j : ReclaimJob) (s : State) : (endMarked j s).steady = s.steady := by
  unfold endMarked; simp [steady_fields]

@[simp] theorem stepReclaim_steady (n : Nat) (s : State) : (stepReclaim n s).steady = s.steady := by
  unfold stepReclaim; first | (simp [steady_fields]; done) | ((try simp); (repeat' split) <;> simp_all [steady_fields]; done)

@[simp] theorem stepReclaims_steady (s : State) : (stepReclaims s).steady = s.steady := by
  unfold stepReclaims; simp

@[simp] theorem relocateCopy_steady (n : Nat) (c : Nat × Nat × Loc) (s : State) : (relocateCopy n c s).steady = s.steady := by
  unfold relocateCopy; first | (simp [steady_fields]; done) | ((try simp); (repeat' split) <;> simp_all [steady_fields]; done)

@[simp] theorem relocateBale_steady (victim acre bale : Nat) (s : State) : (relocateBale victim acre bale s).steady = s.steady := by
  unfold relocateBale; first | (simp [steady_fields]; done) | ((try simp); (repeat' split) <;> simp_all [steady_fields]; done)

@[simp] theorem reclaimVictim_steady (f : MediaFacts) (s : State) : (reclaimVictim f s).steady = s.steady := by
  unfold reclaimVictim; first | (simp [steady_fields]; done) | ((try simp); (repeat' split) <;> simp_all [steady_fields]; done)

theorem execReclaimVictim_steady (facts : MediaFacts) (s : State) : ∃ t, execReclaimVictim facts s = .next t ∧ t.steady = s.steady := by
  exact ⟨_, rfl, by simp⟩

@[simp] theorem reclaimStatus_steady (p : McPacket) (s : State) : (reclaimStatus p s).2.steady = s.steady := by
  unfold reclaimStatus; simp

theorem reclaimStatus_pair {p : McPacket} {s : State} {r0 : _} {last : State} (eq : reclaimStatus p s = (r0, last)) : last.steady = s.steady := by
  have k := reclaimStatus_steady p s; rwa [eq] at k

theorem execReclaimStatus_steady (p : McPacket) (s : State) : ∃ t, execReclaimStatus p s = .next t ∧ t.steady = s.steady := by
  exact ⟨_, rfl, by simp⟩

@[simp] theorem scrubPlot_steady (a : Acre) (bale p : Nat) (f : MediaFacts) (s : State) : (scrubPlot a bale p f s).steady = s.steady := by
  unfold scrubPlot; simp

@[simp] theorem scrubPass_steady (bridges : List Nat) (f : MediaFacts) (s : State) : (scrubPass bridges f s).steady = s.steady := by
  unfold scrubPass; simp

theorem execScrubTimer_steady (facts : MediaFacts) (s : State) : ∃ t, execScrubTimer facts s = .next t ∧ t.steady = s.steady := by
  exact ⟨_, rfl, by simp⟩

@[simp] theorem scrubStart_steady (p : McPacket) (f : MediaFacts) (s : State) : (scrubStart p f s).2.steady = s.steady := by
  unfold scrubStart; simp

theorem scrubStart_pair {p : McPacket} {f : MediaFacts} {s : State} {r0 : _} {last : State} (eq : scrubStart p f s = (r0, last)) : last.steady = s.steady := by
  have k := scrubStart_steady p f s; rwa [eq] at k

theorem execScrubStart_steady (p : McPacket) (facts : MediaFacts) (s : State) : ∃ t, execScrubStart p facts s = .next t ∧ t.steady = s.steady := by
  exact ⟨_, rfl, by simp⟩

end Sys2Proof.Machine
end

