-- ==== Sys2Proof/Laws/Steady/Commit.lean ====
section
/-! SUPPORT. What `Machine/Commit.lean` changes leaves the steady fields as they are. -/

namespace Sys2Proof.Machine

@[simp] theorem releaseOwn_steady (h : Nat) (s : State) : (releaseOwn h s).steady = s.steady := by
  unfold releaseOwn; simp

@[simp] theorem sendRelease_steady (r : BufferedRec) (s : State) : (sendRelease r s).steady = s.steady := by
  unfold sendRelease; simp

@[simp] theorem settleOwn_steady (s : State) : (settleOwn s).steady = s.steady := by
  unfold settleOwn; simp

@[simp] theorem opDone_steady (op : WriteOp) (s : State) : (opDone op s).steady = s.steady := by
  unfold opDone; first | (simp [steady_fields]; done) | ((try simp); (repeat' split) <;> simp_all [steady_fields]; done)

@[simp] theorem settleOps_steady (s : State) : (settleOps s).steady = s.steady := by
  unfold settleOps; simp

@[simp] theorem pushCommits_steady (s : State) : (pushCommits s).steady = s.steady := by
  unfold pushCommits; simp

@[simp] theorem settle_steady (s : State) : (settle s).steady = s.steady := by
  unfold settle; simp

@[simp] theorem eraseDump_steady (n : Nat) (s : State) : (eraseDump n s).steady = s.steady := by
  unfold eraseDump; first | (simp [steady_fields]; done) | ((try simp); (repeat' split) <;> simp_all [steady_fields]; done)

@[simp] theorem dumpRelease_steady (s : State) : (dumpRelease s).steady = s.steady := by
  unfold dumpRelease; simp [steady_fields]

@[simp] theorem admissionCheck_steady (exhausted : Bool) (s : State) : (admissionCheck exhausted s).steady = s.steady := by
  unfold admissionCheck; simp

theorem takeRun_steady (unit arena : Nat) (lens : List Nat) (s : State) : ∀ r, takeRun unit arena lens s = some r → r.2.steady = s.steady := by
  intro r h; unfold takeRun at h; split at h
  · cases h
  · cases h
    exact foldl_steady2 _ (fun st n => by split <;> rename_i eq <;> exact gAlloc_pair eq) _ _

theorem takeRun_some {unit arena : Nat} {lens : List Nat} {s : State} {r0 : _} {last : State} (eq : takeRun unit arena lens s = some (r0, last)) : last.steady = s.steady :=
  takeRun_steady unit arena lens s _ eq

theorem landBytes_steady (unit arena : Nat) (data : Bytes) (s : State) : ∀ r, landBytes unit arena data s = some r → r.2.steady = s.steady := by
  intro r h; unfold landBytes at h
  cases eq : takeRun unit arena (runLengths data.length) s with
  | none => rw [eq] at h; cases h
  | some r0 =>
    rw [eq] at h; cases h
    simpa using takeRun_steady _ _ _ _ _ eq

theorem landBytes_some {unit arena : Nat} {data : Bytes} {s : State} {r0 : _} {last : State} (eq : landBytes unit arena data s = some (r0, last)) : last.steady = s.steady :=
  landBytes_steady unit arena data s _ eq

theorem execGrainComposition_steady (ns grain harrow : Nat) (facts : MediaFacts) (s : State) : ∃ t, execGrainComposition ns grain harrow facts s = .next t ∧ t.steady = s.steady := by
  exact ⟨_, rfl, by simp⟩

theorem execChunkCut_steady (object harrow : Nat) (s : State) : ∃ t, execChunkCut object harrow s = .next t ∧ t.steady = s.steady := by
  exact ⟨_, rfl, by simp⟩

theorem execDedupLookup_steady (work : Nat) (falsePositive : Bool) (facts : MediaFacts) (s : State) : ∃ t, execDedupLookup work falsePositive facts s = .next t ∧ t.steady = s.steady := by
  exact ⟨_, rfl, by simp⟩

@[simp] theorem answerFor_steady (epoch : Option EpochRef) (s : State) : (answerFor epoch s).steady = s.steady := by
  unfold answerFor; (try dsimp only) <;> (repeat' split) <;> first | (simp [steady_fields]; done) | ((try simp); grind [answerDecided_steady]) | (simp_all [steady_fields]; done)

theorem execEpochCommit_steady (epoch : Option EpochRef) (work : Option Nat) (s : State) : ∃ t, execEpochCommit epoch work s = .next t ∧ t.steady = s.steady := by
  refine ⟨_, rfl, ?_⟩; first | (simp [steady_fields]; done) | ((try simp); (repeat' split) <;> simp_all [steady_fields]; done)

@[simp] theorem baleCommit_steady (acre bale : Nat) (s : State) : (baleCommit acre bale s).steady = s.steady := by
  unfold baleCommit; first | (simp [steady_fields]; done) | ((try simp); (repeat' split) <;> simp_all [steady_fields]; done)

theorem execBaleCommit_steady (acre bale : Nat) (s : State) : ∃ t, execBaleCommit acre bale s = .next t ∧ t.steady = s.steady := by
  exact ⟨_, rfl, by simp⟩

end Sys2Proof.Machine
end

