-- ==== Sys2Proof/Laws/Steady/NvmeIo.lean ====
section
/-! SUPPORT. What `Machine/NvmeIo.lean` changes leaves the steady fields as they are. -/

namespace Sys2Proof.Machine

@[simp] theorem powerSync_steady (s : State) : (powerSync s).steady = s.steady := by
  unfold powerSync; simp

@[simp] theorem setPower_steady (id ps : Nat) (s : State) : (setPower id ps s).steady = s.steady := by
  unfold setPower; first | (simp [steady_fields]; done) | ((try simp); (repeat' split) <;> simp_all [steady_fields]; done)

@[simp] theorem wakeController_steady (qp : Nat) (s : State) : (wakeController qp s).steady = s.steady := by
  unfold wakeController; first | (simp [steady_fields]; done) | ((try simp); (repeat' split) <;> simp_all [steady_fields]; done)

@[simp] theorem noteBusy_steady (s : State) : (noteBusy s).steady = s.steady := by
  unfold noteBusy; simp

@[simp] theorem nvTake_steady (qp : Nat) (capsule : Bytes) (s : State) : (nvTake qp capsule s).2.steady = s.steady := by
  unfold nvTake; (try dsimp only) <;> (repeat' split) <;> first | (simp [steady_fields]; done) | ((try simp); grind [qpPost_steady, qpRepost_steady, qpTake_steady, modifyNvme_steady, modifyNvQueue_steady, countNvme_steady, nvRespond_steady, arriveRoot_steady, noteBusy_steady, arriveRoot_pair]) | (simp_all [steady_fields]; done)

theorem nvTake_pair {qp : Nat} {capsule : Bytes} {s : State} {r0 : _} {last : State} (eq : nvTake qp capsule s = (r0, last)) : last.steady = s.steady := by
  have k := nvTake_steady qp capsule s; rwa [eq] at k

@[simp] theorem nvFail_steady (qp cid status : Nat) (s : State) : (nvFail qp cid status s).steady = s.steady := by
  unfold nvFail; simp

@[simp] theorem stampParts_steady  : ∀ (x0 : List WritePart) (x1 : State), (stampParts x0 x1).2.steady = x1.steady := by
  intro x0; induction x0 with
  | nil => intros; simp [stampParts]
  | cons x xs ih => intros; unfold stampParts; simp [ih]

theorem stampParts_pair  {x0 : List WritePart} {x1 : State} {r0 : _} {last : State} (eq : stampParts x0 x1 = (r0, last)) : last.steady = x1.steady := by
  have k := stampParts_steady x0 x1; rwa [eq] at k

@[simp] theorem awaitOp_steady (op : WriteOp) (s : State) : (awaitOp op s).steady = s.steady := by
  unfold awaitOp; simp

@[simp] theorem landParts_steady (away : Bool) : ∀ (x0 : List (WritePart × Bytes)) (x1 : List Nat) (x2 : State), (landParts away x0 x1 x2).2.steady = x2.steady := by
  intro x0; induction x0 with
  | nil => intros; simp [landParts]
  | cons x xs ih => intros; unfold landParts; simp [ih]

theorem landParts_pair {away : Bool} {x0 : List (WritePart × Bytes)} {x1 : List Nat} {x2 : State} {r0 : _} {last : State} (eq : landParts away x0 x1 x2 = (r0, last)) : last.steady = x2.steady := by
  have k := landParts_steady away x0 x1 x2; rwa [eq] at k

theorem landWriteData_steady (unit : Nat) (parts : List WritePart) (data : Bytes) (away : Bool) (s : State) : ∀ r, landWriteData unit parts data away s = some r → r.2.steady = s.steady := by
  intro r h; revert h; unfold landWriteData; (try dsimp only) <;> (repeat' split) <;> intro h <;> first | (simp at h; done) | (simp at h; subst h; simp [steady_fields]; done) | ((try simp at h); grind [steady_fields, takeRun_steady, landParts_steady, landParts_pair, takeRun_some])

theorem landWriteData_some {unit : Nat} {parts : List WritePart} {data : Bytes} {away : Bool} {s : State} {r0 : _} {last : State} (eq : landWriteData unit parts data away s = some (r0, last)) : last.steady = s.steady :=
  landWriteData_steady unit parts data away s _ eq

@[simp] theorem zeroParts_steady (unmap strict : Bool) : ∀ (x0 : List WritePart) (x1 : State), (zeroParts unmap strict x0 x1).2.steady = x1.steady := by
  intro x0; induction x0 with
  | nil => intros; simp [zeroParts]
  | cons x xs ih => intros; unfold zeroParts; simp [ih]

theorem zeroParts_pair {unmap strict : Bool} {x0 : List WritePart} {x1 : State} {r0 : _} {last : State} (eq : zeroParts unmap strict x0 x1 = (r0, last)) : last.steady = x1.steady := by
  have k := zeroParts_steady unmap strict x0 x1; rwa [eq] at k

theorem ownerWrite_steady (unit : Nat) (c data : Bytes) (parts : List WritePart) (lbaLog2 : Nat) (away : Bool) (s : State) : ∀ r, ownerWrite unit c data parts lbaLog2 away s = some r → r.2.2.steady = s.steady := by
  intro r h; revert h; unfold ownerWrite; (try dsimp only) <;> (repeat' split) <;> intro h <;> first | (simp at h; done) | (simp at h; subst h; simp [steady_fields]; done) | ((try simp at h); grind [steady_fields, landWriteData_steady, zeroParts_steady, zeroParts_pair, landWriteData_some])

theorem ownerWrite_some {unit : Nat} {c data : Bytes} {parts : List WritePart} {lbaLog2 : Nat} {away : Bool} {s : State} {r0 r1 : _} {last : State} (eq : ownerWrite unit c data parts lbaLog2 away s = some (r0, r1, last)) : last.steady = s.steady :=
  ownerWrite_steady unit c data parts lbaLog2 away s _ eq

@[simp] theorem acceptParts_steady (c : Bytes) (lbaLog2 : Nat) (s : State) : (acceptParts c lbaLog2 s).2.steady = s.steady := by
  unfold acceptParts; simp

theorem acceptParts_pair {c : Bytes} {lbaLog2 : Nat} {s : State} {r0 : _} {last : State} (eq : acceptParts c lbaLog2 s = (r0, last)) : last.steady = s.steady := by
  have k := acceptParts_steady c lbaLog2 s; rwa [eq] at k

@[simp] theorem noteWritten_steady (c data : Bytes) (s : State) : (noteWritten c data s).steady = s.steady := by
  unfold noteWritten; simp

theorem landAway_steady (unit : Nat) : ∀ (x0 : Nat) (x1 : List Nat) (x2 : Bytes) (x3 : State), ∀ r, landAway unit x0 x1 x2 x3 = some r → r.2.steady = x3.steady := by
  intro x0 x1 x2 x3
  induction x1 generalizing x0 x2 x3 with
  | nil => intro r h; simp [landAway] at h; subst h; rfl
  | cons x xs ih =>
    intro r h; unfold landAway at h; split at h
    · cases h
    · rename_i eq
      obtain ⟨r1, h1, h2⟩ := Option.map_eq_some_iff.mp h
      subst h2; exact (ih _ _ _ _ h1).trans (landBytes_some eq)

@[simp] theorem setRoom_steady (id : Nat) (room : List (Nat × Nat × List Nat)) (s : State) : (setRoom id room s).steady = s.steady := by
  unfold setRoom; (try dsimp only) <;> (repeat' split) <;> first | (simp [steady_fields]; done) | ((try simp); grind []) | (simp_all [steady_fields]; done)

@[simp] theorem freeRoom_steady (fs : List Forward) (s : State) : (freeRoom fs s).steady = s.steady := by
  unfold freeRoom; simp

@[simp] theorem nvDataHere_steady (qp cid : Nat) (data : Bytes) (f : MediaFacts) (s : State) : (nvDataHere qp cid data f s).steady = s.steady := by
  unfold nvDataHere; split
  · rfl
  · split
    · simp
    · split
      · simp
      · dsimp only; split
        · simp
        · split
          · split
            · simp
            · rename_i eq; simp [ownerWrite_some eq]
          · split
            · simp
            · rename_i eq; simp [landAway_steady _ _ _ _ _ _ eq]

@[simp] theorem pullData_steady (qp cid addr key : Nat) (lens : List Nat) (s : State) : (pullData qp cid addr key lens s).steady = s.steady := by
  unfold pullData; simp

@[simp] theorem nvAdmit_steady (qp cid : Nat) (f : MediaFacts) (s : State) : (nvAdmit qp cid f s).steady = s.steady := by
  unfold nvAdmit; first | (simp [steady_fields]; done) | ((try simp); (repeat' split) <;> simp_all [steady_fields]; done)

@[simp] theorem nvPulled_steady (qp cid off : Nat) (data : Bytes) (s : State) : (nvPulled qp cid off data s).steady = s.steady := by
  unfold nvPulled; first | (simp [steady_fields]; done) | ((try simp); (repeat' split) <;> simp_all [steady_fields]; done)

@[simp] theorem awaitStamps_steady (qp cid : Nat) (stamps : List (Nat × Nat)) (forward : Option Nat) (s : State) : (awaitStamps qp cid stamps forward s).steady = s.steady := by
  unfold awaitStamps; simp

@[simp] theorem nvRead_steady (qp cid : Nat) (f : MediaFacts) (s : State) : (nvRead qp cid f s).steady = s.steady := by
  unfold nvRead; first | (simp [steady_fields]; done) | ((try simp); (repeat' split) <;> simp_all [steady_fields]; done)

@[simp] theorem nvFlush_steady (qp cid : Nat) (s : State) : (nvFlush qp cid s).steady = s.steady := by
  unfold nvFlush; first | (simp [steady_fields]; done) | ((try simp); (repeat' split) <;> simp_all [steady_fields]; done)

@[simp] theorem nvRunIo_steady (qp cid : Nat) (f : MediaFacts) (s : State) : (nvRunIo qp cid f s).steady = s.steady := by
  unfold nvRunIo; first | (simp [steady_fields]; done) | ((try simp); (repeat' split) <;> simp_all [steady_fields]; done)

theorem forwardedRun_steady (id q : Nat) (c data : Bytes) (s : State) : ∀ r, forwardedRun id q c data s = some r → r.steady = s.steady := by
  intro r h; revert h; unfold forwardedRun; (try dsimp only) <;> (repeat' split) <;> intro h <;> first | (simp at h; done) | (simp at h; subst h; simp [steady_fields]; done) | ((try simp at h); grind [steady_fields, admissionCheck_steady, awaitOp_steady, ownerWrite_steady, acceptParts_steady, awaitStamps_steady, acceptParts_pair, ownerWrite_some])

theorem forwardedRun_some {id q : Nat} {c data : Bytes} {s : State} {last : State} (eq : forwardedRun id q c data s = some last) : last.steady = s.steady :=
  forwardedRun_steady id q c data s _ eq

@[simp] theorem nvFromPeer_steady (id q : Nat) (body : Bytes) (s : State) : (nvFromPeer id q body s).steady = s.steady := by
  unfold nvFromPeer; (try dsimp only) <;> (repeat' split) <;> first | (simp [steady_fields]; done) | ((try simp); grind [forwardDone_steady, admissionCheck_steady, forwardedRun_steady, forwardedRun_some]) | (simp_all [steady_fields]; done)

@[simp] theorem resumeForwarded_steady (s : State) : (resumeForwarded s).steady = s.steady := by
  unfold resumeForwarded; simp [steady_fields]

@[simp] theorem resumeIo_steady (s : State) : (resumeIo s).steady = s.steady := by
  unfold resumeIo; simp only [resumeForwarded_steady]
  refine foldl_steady _ (fun st c => ?_) _ _
  split
  · rfl
  · split
    · rfl
    · split
      · simp
      · split
        · split
          · split <;> simp
          · rfl
        · rfl

@[simp] theorem ioRow_steady (opcode : Nat) (qp : Nat) (capsule : Bytes) (f : MediaFacts) (s : State) : (ioRow opcode qp capsule f s).steady = s.steady := by
  unfold ioRow; simp

theorem execRead_steady (qp : Nat) (capsule : Bytes) (facts : MediaFacts) (s : State) : ∃ t, execRead qp capsule facts s = .next t ∧ t.steady = s.steady := by
  exact ⟨_, rfl, by simp⟩

theorem execWrite_steady (qp : Nat) (capsule : Bytes) (s : State) : ∃ t, execWrite qp capsule s = .next t ∧ t.steady = s.steady := by
  exact ⟨_, rfl, by simp⟩

theorem execFlush_steady (qp : Nat) (capsule : Bytes) (s : State) : ∃ t, execFlush qp capsule s = .next t ∧ t.steady = s.steady := by
  exact ⟨_, rfl, by simp⟩

theorem execWriteZeroes_steady (qp : Nat) (capsule : Bytes) (s : State) : ∃ t, execWriteZeroes qp capsule s = .next t ∧ t.steady = s.steady := by
  exact ⟨_, rfl, by simp⟩

theorem execDatasetManagement_steady (qp : Nat) (capsule : Bytes) (s : State) : ∃ t, execDatasetManagement qp capsule s = .next t ∧ t.steady = s.steady := by
  exact ⟨_, rfl, by simp⟩

theorem execCompare_steady (qp : Nat) (capsule : Bytes) (facts : MediaFacts) (s : State) : ∃ t, execCompare qp capsule facts s = .next t ∧ t.steady = s.steady := by
  exact ⟨_, rfl, by simp⟩

end Sys2Proof.Machine
end

