-- ==== Sys2Proof/Laws/Steady/Spaces.lean ====
section
/-! SUPPORT. What `Machine/Spaces.lean` changes leaves the steady fields as they are. -/

namespace Sys2Proof.Machine

@[simp] theorem endMirrored_steady (p : McPacket) (m : Option Nat) (result : Bytes) (s : State) : (endMirrored p m result s).2.steady = s.steady := by
  unfold endMirrored; first | (simp [steady_fields]; done) | ((try simp); (repeat' split) <;> simp_all [steady_fields]; done)

theorem endMirrored_pair {p : McPacket} {m : Option Nat} {result : Bytes} {s : State} {r0 : _} {last : State} (eq : endMirrored p m result s = (r0, last)) : last.steady = s.steady := by
  have k := endMirrored_steady p m result s; rwa [eq] at k

@[simp] theorem changeTable_steady (c : TableChange) (s : State) : (changeTable c s).2.steady = s.steady := by
  unfold changeTable; simp

theorem changeTable_pair {c : TableChange} {s : State} {r0 : _} {last : State} (eq : changeTable c s = (r0, last)) : last.steady = s.steady := by
  have k := changeTable_steady c s; rwa [eq] at k

theorem createNs_steady (domain size lbaLog2 group : Nat) (exposes : Option (Nat × Nat)) (s : State) : ∀ r, createNs domain size lbaLog2 group exposes s = some r → r.2.2.steady = s.steady := by
  intro r h; revert h; unfold createNs; (try dsimp only) <;> (repeat' split) <;> intro h <;> first | (simp at h; done) | (simp at h; subst h; simp [steady_fields]; done) | ((try simp at h); grind [steady_fields, undefBytes_steady, changeTable_steady, undefBytes_pair, changeTable_pair])

theorem createNs_some {domain size lbaLog2 group : Nat} {exposes : Option (Nat × Nat)} {s : State} {r0 r1 : _} {last : State} (eq : createNs domain size lbaLog2 group exposes s = some (r0, r1, last)) : last.steady = s.steady :=
  createNs_steady domain size lbaLog2 group exposes s _ eq

@[simp] theorem dropNsIngest_steady (id jseq : Nat) (m : Option Nat) (s : State) : (dropNsIngest id jseq m s).steady = s.steady := by
  unfold dropNsIngest; simp

@[simp] theorem deleteNs_steady (n : Namespace) (s : State) : (deleteNs n s).steady = s.steady := by
  unfold deleteNs; simp

@[simp] theorem attachNs_steady (n : Namespace) (hosts : List Nat) (attach : Bool) (s : State) : (attachNs n hosts attach s).2.steady = s.steady := by
  unfold attachNs; simp

theorem attachNs_pair {n : Namespace} {hosts : List Nat} {attach : Bool} {s : State} {r0 : _} {last : State} (eq : attachNs n hosts attach s = (r0, last)) : last.steady = s.steady := by
  have k := attachNs_steady n hosts attach s; rwa [eq] at k

@[simp] theorem nsCreate_steady (p : McPacket) (s : State) : (nsCreate p s).2.steady = s.steady := by
  unfold nsCreate; (try dsimp only) <;> (repeat' split) <;> first | (simp [steady_fields]; done) | ((try simp); grind [refuse_steady, endMirrored_steady, createNs_steady, refuse_pair, endMirrored_pair, createNs_some]) | (simp_all [steady_fields]; done)

theorem nsCreate_pair {p : McPacket} {s : State} {r0 : _} {last : State} (eq : nsCreate p s = (r0, last)) : last.steady = s.steady := by
  have k := nsCreate_steady p s; rwa [eq] at k

theorem execNsCreate_steady (p : McPacket) (s : State) : ∃ t, execNsCreate p s = .next t ∧ t.steady = s.steady := by
  exact ⟨_, rfl, by simp⟩

@[simp] theorem nsDelete_steady (p : McPacket) (s : State) : (nsDelete p s).2.steady = s.steady := by
  unfold nsDelete; first | (simp [steady_fields]; done) | ((try simp); (repeat' split) <;> simp_all [steady_fields]; done)

theorem nsDelete_pair {p : McPacket} {s : State} {r0 : _} {last : State} (eq : nsDelete p s = (r0, last)) : last.steady = s.steady := by
  have k := nsDelete_steady p s; rwa [eq] at k

theorem execNsDelete_steady (p : McPacket) (s : State) : ∃ t, execNsDelete p s = .next t ∧ t.steady = s.steady := by
  exact ⟨_, rfl, by simp⟩

@[simp] theorem nsList_steady (p : McPacket) (s : State) : (nsList p s).2.steady = s.steady := by
  unfold nsList; simp

theorem nsList_pair {p : McPacket} {s : State} {r0 : _} {last : State} (eq : nsList p s = (r0, last)) : last.steady = s.steady := by
  have k := nsList_steady p s; rwa [eq] at k

theorem execNsList_steady (p : McPacket) (s : State) : ∃ t, execNsList p s = .next t ∧ t.steady = s.steady := by
  exact ⟨_, rfl, by simp⟩

@[simp] theorem hostAdd_steady (p : McPacket) (s : State) : (hostAdd p s).2.steady = s.steady := by
  unfold hostAdd; first | (simp [steady_fields]; done) | ((try simp); (repeat' split) <;> simp_all [steady_fields]; done)

theorem hostAdd_pair {p : McPacket} {s : State} {r0 : _} {last : State} (eq : hostAdd p s = (r0, last)) : last.steady = s.steady := by
  have k := hostAdd_steady p s; rwa [eq] at k

theorem execHostAdd_steady (p : McPacket) (s : State) : ∃ t, execHostAdd p s = .next t ∧ t.steady = s.steady := by
  exact ⟨_, rfl, by simp⟩

@[simp] theorem hostRemove_steady (p : McPacket) (s : State) : (hostRemove p s).2.steady = s.steady := by
  unfold hostRemove; simp

theorem hostRemove_pair {p : McPacket} {s : State} {r0 : _} {last : State} (eq : hostRemove p s = (r0, last)) : last.steady = s.steady := by
  have k := hostRemove_steady p s; rwa [eq] at k

theorem execHostRemove_steady (p : McPacket) (s : State) : ∃ t, execHostRemove p s = .next t ∧ t.steady = s.steady := by
  exact ⟨_, rfl, by simp⟩

@[simp] theorem nsAttach_steady (p : McPacket) (s : State) : (nsAttach p s).2.steady = s.steady := by
  unfold nsAttach; first | (simp [steady_fields]; done) | ((try simp); (repeat' split) <;> simp_all [steady_fields]; done)

theorem nsAttach_pair {p : McPacket} {s : State} {r0 : _} {last : State} (eq : nsAttach p s = (r0, last)) : last.steady = s.steady := by
  have k := nsAttach_steady p s; rwa [eq] at k

theorem execNsAttach_steady (p : McPacket) (s : State) : ∃ t, execNsAttach p s = .next t ∧ t.steady = s.steady := by
  exact ⟨_, rfl, by simp⟩

theorem execNsDetach_steady (p : McPacket) (s : State) : ∃ t, execNsDetach p s = .next t ∧ t.steady = s.steady := by
  exact ⟨_, rfl, by simp⟩

@[simp] theorem modifyRepl_steady (f : ReplPart → ReplPart) (s : State) : (modifyRepl f s).steady = s.steady := by
  unfold modifyRepl; simp [steady_fields]

@[simp] theorem countRepl_steady (f : ReplCounters → ReplCounters) (s : State) : (countRepl f s).steady = s.steady := by
  unfold countRepl; simp

@[simp] theorem stampBarrier_steady (s : State) : (stampBarrier s).2.steady = s.steady := by
  unfold stampBarrier; exact foldl_steady2 _ (fun st q => by simp) _ _

theorem stampBarrier_pair {s : State} {r0 : _} {last : State} (eq : stampBarrier s = (r0, last)) : last.steady = s.steady := by
  have k := stampBarrier_steady s; rwa [eq] at k

theorem beginSnap_steady (kind id : Nat) (barrier : List Nat) (forExport forDiff : Option Nat) (s : State) : ∀ r, beginSnap kind id barrier forExport forDiff s = some r → r.2.steady = s.steady := by
  intro r h; unfold beginSnap at h; split at h <;> simp at h; subst h; simp

theorem beginSnap_some {kind id : Nat} {barrier : List Nat} {forExport forDiff : Option Nat} {s : State} {r0 : _} {last : State} (eq : beginSnap kind id barrier forExport forDiff s = some (r0, last)) : last.steady = s.steady :=
  beginSnap_steady kind id barrier forExport forDiff s _ eq

@[simp] theorem snapCreate_steady (p : McPacket) (s : State) : (snapCreate p s).2.steady = s.steady := by
  unfold snapCreate; (try dsimp only) <;> (repeat' split) <;> first | (simp [steady_fields]; done) | ((try simp); grind [refuse_steady, waitOn_steady, forwardMci_steady, stampBarrier_steady, beginSnap_steady, refuse_pair, waitOn_pair, forwardMci_pair, stampBarrier_pair, beginSnap_some]) | (simp_all [steady_fields]; done)

theorem snapCreate_pair {p : McPacket} {s : State} {r0 : _} {last : State} (eq : snapCreate p s = (r0, last)) : last.steady = s.steady := by
  have k := snapCreate_steady p s; rwa [eq] at k

theorem execSnapCreate_steady (p : McPacket) (s : State) : ∃ t, execSnapCreate p s = .next t ∧ t.steady = s.steady := by
  exact ⟨_, rfl, by simp⟩

@[simp] theorem placeSnap_steady (j : SnapJob) (s : State) : (placeSnap j s).2.2.steady = s.steady := by
  unfold placeSnap; simp

theorem placeSnap_pair {j : SnapJob} {s : State} {r0 r1 : _} {last : State} (eq : placeSnap j s = (r0, r1, last)) : last.steady = s.steady := by
  have k := placeSnap_steady j s; rwa [eq] at k

@[simp] theorem snapReply_steady (j : SnapJob) (jseq : Nat) (m : Option Nat) (s : State) : (snapReply j jseq m s).steady = s.steady := by
  unfold snapReply; first | (simp [steady_fields]; done) | ((try simp); (repeat' split) <;> simp_all [steady_fields]; done)

@[simp] theorem placeSnapDelete_steady (x : Snapshot) (s : State) : (placeSnapDelete x s).steady = s.steady := by
  unfold placeSnapDelete; simp

@[simp] theorem deleteTickets_steady (x : Snapshot) (s : State) : (deleteTickets x s).steady = s.steady := by
  unfold deleteTickets; simp

@[simp] theorem snapDelete_steady (p : McPacket) (s : State) : (snapDelete p s).2.steady = s.steady := by
  unfold snapDelete; first | (simp [steady_fields]; done) | ((try simp); (repeat' split) <;> simp_all [steady_fields]; done)

theorem snapDelete_pair {p : McPacket} {s : State} {r0 : _} {last : State} (eq : snapDelete p s = (r0, last)) : last.steady = s.steady := by
  have k := snapDelete_steady p s; rwa [eq] at k

theorem execSnapDelete_steady (p : McPacket) (s : State) : ∃ t, execSnapDelete p s = .next t ∧ t.steady = s.steady := by
  exact ⟨_, rfl, by simp⟩

@[simp] theorem settleGrain_steady (vs vn : Nat) (vo : Option Nat) (s : State) : (settleGrain vs vn vo s).steady = s.steady := by
  unfold settleGrain; first | (simp [steady_fields]; done) | ((try simp); (repeat' split) <;> simp_all [steady_fields]; done)

@[simp] theorem dropCopy_steady (c : SnapPage) (s : State) : (dropCopy c s).steady = s.steady := by
  unfold dropCopy; simp

@[simp] theorem settlePage_steady (ns num page : Nat) (s : State) : (settlePage ns num page s).steady = s.steady := by
  unfold settlePage; first | (simp [steady_fields]; done) | ((try simp); (repeat' split) <;> simp_all [steady_fields]; done)

theorem execSnapDeletePage_steady (ns snapshot page : Nat) (s : State) : ∃ t, execSnapDeletePage ns snapshot page s = .next t ∧ t.steady = s.steady := by
  exact ⟨_, rfl, by simp⟩

@[simp] theorem snapList_steady (p : McPacket) (s : State) : (snapList p s).2.steady = s.steady := by
  unfold snapList; simp

theorem snapList_pair {p : McPacket} {s : State} {r0 : _} {last : State} (eq : snapList p s = (r0, last)) : last.steady = s.steady := by
  have k := snapList_steady p s; rwa [eq] at k

theorem execSnapList_steady (p : McPacket) (s : State) : ∃ t, execSnapList p s = .next t ∧ t.steady = s.steady := by
  exact ⟨_, rfl, by simp⟩

@[simp] theorem snapExpose_steady (p : McPacket) (s : State) : (snapExpose p s).2.steady = s.steady := by
  unfold snapExpose; (try dsimp only) <;> (repeat' split) <;> first | (simp [steady_fields]; done) | ((try simp); grind [refuse_steady, ok_steady, endMirrored_steady, createNs_steady, deleteNs_steady, refuse_pair, ok_pair, endMirrored_pair, createNs_some]) | (simp_all [steady_fields]; done)

theorem snapExpose_pair {p : McPacket} {s : State} {r0 : _} {last : State} (eq : snapExpose p s = (r0, last)) : last.steady = s.steady := by
  have k := snapExpose_steady p s; rwa [eq] at k

theorem execSnapExpose_steady (p : McPacket) (s : State) : ∃ t, execSnapExpose p s = .next t ∧ t.steady = s.steady := by
  exact ⟨_, rfl, by simp⟩

theorem execSnapWithdraw_steady (p : McPacket) (s : State) : ∃ t, execSnapWithdraw p s = .next t ∧ t.steady = s.steady := by
  exact ⟨_, rfl, by simp⟩

end Sys2Proof.Machine
end

