-- ==== Sys2Proof/Laws/Steady/NvmeAdmin.lean ====
section
/-! SUPPORT. What `Machine/NvmeAdmin.lean` changes leaves the steady fields as they are. -/

namespace Sys2Proof.Machine

@[simp] theorem dropQueueCommands_steady (qp : Nat) (s : State) : (dropQueueCommands qp s).steady = s.steady := by
  unfold dropQueueCommands; simp [steady_fields]

@[simp] theorem closeQueue_steady (qp : Nat) (s : State) : (closeQueue qp s).steady = s.steady := by
  unfold closeQueue; simp

@[simp] theorem endController_steady (id : Nat) (s : State) : (endController id s).steady = s.steady := by
  unfold endController; first | (simp [steady_fields]; done) | ((try simp); (repeat' split) <;> simp_all [steady_fields]; done)

@[simp] theorem nvQueueGone_steady (qp : Nat) (s : State) : (nvQueueGone qp s).steady = s.steady := by
  unfold nvQueueGone; first | (simp [steady_fields]; done) | ((try simp); (repeat' split) <;> simp_all [steady_fields]; done)

@[simp] theorem endControllers_steady (s : State) : (endControllers s).steady = s.steady := by
  unfold endControllers; simp

@[simp] theorem nvDone_steady (qp cid dw0 dw1 : Nat) (s : State) : (nvDone qp cid dw0 dw1 s).steady = s.steady := by
  unfold nvDone; simp

@[simp] theorem nvReturn_steady (qp cid dw0 : Nat) (data : Bytes) (s : State) : (nvReturn qp cid dw0 data s).steady = s.steady := by
  unfold nvReturn; first | (simp [steady_fields]; done) | ((try simp); (repeat' split) <;> simp_all [steady_fields]; done)

@[simp] theorem connectRefused_steady (qp cid dw0 status : Nat) (s : State) : (connectRefused qp cid dw0 status s).steady = s.steady := by
  unfold connectRefused; simp

@[simp] theorem joinQueue_steady (qp id : Nat) (c : Bytes) (s : State) : (joinQueue qp id c s).steady = s.steady := by
  unfold joinQueue; simp

@[simp] theorem connectAdmin_steady (qp cid : Nat) (c data : Bytes) (s : State) : (connectAdmin qp cid c data s).steady = s.steady := by
  unfold connectAdmin; first | (simp [steady_fields]; done) | ((try simp); (repeat' split) <;> simp_all [steady_fields]; done)

@[simp] theorem connectIo_steady (qp cid : Nat) (c data : Bytes) (s : State) : (connectIo qp cid c data s).steady = s.steady := by
  unfold connectIo; first | (simp [steady_fields]; done) | ((try simp); (repeat' split) <;> simp_all [steady_fields]; done)

@[simp] theorem connect_steady (qp cid : Nat) (c data : Bytes) (s : State) : (connect qp cid c data s).steady = s.steady := by
  unfold connect; first | (simp [steady_fields]; done) | ((try simp); (repeat' split) <;> simp_all [steady_fields]; done)

@[simp] theorem propertyGet_steady (qp cid : Nat) (c : Bytes) (k : Controller) (s : State) : (propertyGet qp cid c k s).steady = s.steady := by
  unfold propertyGet; first | (simp [steady_fields]; done) | ((try simp); (repeat' split) <;> simp_all [steady_fields]; done)

@[simp] theorem resetController_steady (id cid : Nat) (s : State) : (resetController id cid s).steady = s.steady := by
  unfold resetController; first | (simp [steady_fields]; done) | ((try simp); (repeat' split) <;> simp_all [steady_fields]; done)

@[simp] theorem propertySet_steady (qp cid : Nat) (c : Bytes) (k : Controller) (s : State) : (propertySet qp cid c k s).steady = s.steady := by
  unfold propertySet; simp

@[simp] theorem identify_steady (qp cid : Nat) (c : Bytes) (k : Controller) (s : State) : (identify qp cid c k s).steady = s.steady := by
  unfold identify; first | (simp [steady_fields]; done) | ((try simp); (repeat' split) <;> simp_all [steady_fields]; done)

@[simp] theorem logRead_steady (k : Controller) (lid : Nat) (rae : Bool) (s : State) : (logRead k lid rae s).steady = s.steady := by
  unfold logRead; simp

@[simp] theorem getLog_steady (qp cid : Nat) (c : Bytes) (k : Controller) (s : State) : (getLog qp cid c k s).steady = s.steady := by
  unfold getLog; first | (simp [steady_fields]; done) | ((try simp); (repeat' split) <;> simp_all [steady_fields]; done)

@[simp] theorem nvAfter_steady (qp cid dw0 : Nat) (m : Option Nat) (s : State) : (nvAfter qp cid dw0 m s).steady = s.steady := by
  unfold nvAfter; simp

@[simp] theorem namespaceCreate_steady (qp cid : Nat) (data : Bytes) (s : State) : (namespaceCreate qp cid data s).steady = s.steady := by
  unfold namespaceCreate; (try dsimp only) <;> (repeat' split) <;> first | (simp [steady_fields]; done) | ((try simp); grind [nvFail_steady, createNs_steady, nvAfter_steady, createNs_some]) | (simp_all [steady_fields]; done)

@[simp] theorem namespaceDelete_steady (qp cid nsid : Nat) (s : State) : (namespaceDelete qp cid nsid s).steady = s.steady := by
  unfold namespaceDelete; first | (simp [steady_fields]; done) | ((try simp); (repeat' split) <;> simp_all [steady_fields]; done)

@[simp] theorem namespaceAttach_steady (qp cid nsid : Nat) (attach : Bool) (data : Bytes) (s : State) : (namespaceAttach qp cid nsid attach data s).steady = s.steady := by
  unfold namespaceAttach; first | (simp [steady_fields]; done) | ((try simp); (repeat' split) <;> simp_all [steady_fields]; done)

@[simp] theorem discardReads_steady (qp cid : Nat) (s : State) : (discardReads qp cid s).steady = s.steady := by
  unfold discardReads; simp

@[simp] theorem catchCmd_steady (c : NvmeCmd) (s : State) : (catchCmd c s).steady = s.steady := by
  unfold catchCmd; simp

@[simp] theorem abortCmd_steady (qp cid : Nat) (c : Bytes) (k : Controller) (s : State) : (abortCmd qp cid c k s).steady = s.steady := by
  unfold abortCmd; first | (simp [steady_fields]; done) | ((try simp); (repeat' split) <;> simp_all [steady_fields]; done)

@[simp] theorem setFeatures_steady (qp cid : Nat) (c data : Bytes) (k : Controller) (s : State) : (setFeatures qp cid c data k s).steady = s.steady := by
  unfold setFeatures; first | (simp [steady_fields]; done) | ((try simp); (repeat' split) <;> simp_all [steady_fields]; done)

@[simp] theorem getFeatures_steady (qp cid : Nat) (c : Bytes) (k : Controller) (s : State) : (getFeatures qp cid c k s).steady = s.steady := by
  unfold getFeatures; first | (simp [steady_fields]; done) | ((try simp); (repeat' split) <;> simp_all [steady_fields]; done)

@[simp] theorem eventRequest_steady (qp cid : Nat) (k : Controller) (s : State) : (eventRequest qp cid k s).steady = s.steady := by
  unfold eventRequest; first | (simp [steady_fields]; done) | ((try simp); (repeat' split) <;> simp_all [steady_fields]; done)

@[simp] theorem disconnect_steady (qp cid : Nat) (s : State) : (disconnect qp cid s).steady = s.steady := by
  unfold disconnect; first | (simp [steady_fields]; done) | ((try simp); (repeat' split) <;> simp_all [steady_fields]; done)

@[simp] theorem fabricsRun_steady (qp cid : Nat) (c data : Bytes) (s : State) : (fabricsRun qp cid c data s).steady = s.steady := by
  unfold fabricsRun; first | (simp [steady_fields]; done) | ((try simp); (repeat' split) <;> simp_all [steady_fields]; done)

@[simp] theorem adminRun_steady (qp cid : Nat) (data : Bytes) (s : State) : (adminRun qp cid data s).steady = s.steady := by
  unfold adminRun; first | (simp [steady_fields]; done) | ((try simp); (repeat' split) <;> simp_all [steady_fields]; done)

@[simp] theorem adminGo_steady (qp cid : Nat) (s : State) : (adminGo qp cid s).steady = s.steady := by
  unfold adminGo; first | (simp [steady_fields]; done) | ((try simp); (repeat' split) <;> simp_all [steady_fields]; done)

@[simp] theorem nvReadDone_steady (qp cid off : Nat) (data : Bytes) (s : State) : (nvReadDone qp cid off data s).steady = s.steady := by
  unfold nvReadDone; simp

@[simp] theorem resumeAdmin_steady (s : State) : (resumeAdmin s).steady = s.steady := by
  unfold resumeAdmin; simp

@[simp] theorem adminRow_steady (set : List (Nat × Bytes)) (qp : Nat) (capsule : Bytes) (s : State) : (adminRow set qp capsule s).steady = s.steady := by
  unfold adminRow; simp

theorem execConnect_steady (qp : Nat) (capsule : Bytes) (s : State) : ∃ t, execConnect qp capsule s = .next t ∧ t.steady = s.steady := by
  exact ⟨_, rfl, by simp⟩

theorem execPropertyGet_steady (qp : Nat) (capsule : Bytes) (s : State) : ∃ t, execPropertyGet qp capsule s = .next t ∧ t.steady = s.steady := by
  exact ⟨_, rfl, by simp⟩

theorem execCcEn_steady (qp : Nat) (capsule : Bytes) (s : State) : ∃ t, execCcEn qp capsule s = .next t ∧ t.steady = s.steady := by
  exact ⟨_, rfl, by simp⟩

theorem execCcShn_steady (qp : Nat) (capsule : Bytes) (s : State) : ∃ t, execCcShn qp capsule s = .next t ∧ t.steady = s.steady := by
  exact ⟨_, rfl, by simp⟩

theorem execDisconnect_steady (qp : Nat) (capsule : Bytes) (s : State) : ∃ t, execDisconnect qp capsule s = .next t ∧ t.steady = s.steady := by
  exact ⟨_, rfl, by simp⟩

theorem execNvmeIdentify_steady (qp : Nat) (capsule : Bytes) (s : State) : ∃ t, execNvmeIdentify qp capsule s = .next t ∧ t.steady = s.steady := by
  exact ⟨_, rfl, by simp⟩

theorem execGetLogPage_steady (qp : Nat) (capsule : Bytes) (s : State) : ∃ t, execGetLogPage qp capsule s = .next t ∧ t.steady = s.steady := by
  exact ⟨_, rfl, by simp⟩

theorem execNamespaceCreate_steady (qp : Nat) (capsule : Bytes) (s : State) : ∃ t, execNamespaceCreate qp capsule s = .next t ∧ t.steady = s.steady := by
  exact ⟨_, rfl, by simp⟩

theorem execNamespaceDelete_steady (qp : Nat) (capsule : Bytes) (s : State) : ∃ t, execNamespaceDelete qp capsule s = .next t ∧ t.steady = s.steady := by
  exact ⟨_, rfl, by simp⟩

theorem execNamespaceAttach_steady (qp : Nat) (capsule : Bytes) (s : State) : ∃ t, execNamespaceAttach qp capsule s = .next t ∧ t.steady = s.steady := by
  exact ⟨_, rfl, by simp⟩

theorem execNamespaceDetach_steady (qp : Nat) (capsule : Bytes) (s : State) : ∃ t, execNamespaceDetach qp capsule s = .next t ∧ t.steady = s.steady := by
  exact ⟨_, rfl, by simp⟩

theorem execAbort_steady (qp : Nat) (capsule : Bytes) (s : State) : ∃ t, execAbort qp capsule s = .next t ∧ t.steady = s.steady := by
  exact ⟨_, rfl, by simp⟩

theorem execSetFeaturesPowerManagement_steady (qp : Nat) (capsule : Bytes) (s : State) : ∃ t, execSetFeaturesPowerManagement qp capsule s = .next t ∧ t.steady = s.steady := by
  exact ⟨_, rfl, by simp⟩

theorem execSetFeaturesNumberOfQueues_steady (qp : Nat) (capsule : Bytes) (s : State) : ∃ t, execSetFeaturesNumberOfQueues qp capsule s = .next t ∧ t.steady = s.steady := by
  exact ⟨_, rfl, by simp⟩

theorem execSetFeaturesAsyncEventConfig_steady (qp : Nat) (capsule : Bytes) (s : State) : ∃ t, execSetFeaturesAsyncEventConfig qp capsule s = .next t ∧ t.steady = s.steady := by
  exact ⟨_, rfl, by simp⟩

theorem execSetFeaturesApst_steady (qp : Nat) (capsule : Bytes) (s : State) : ∃ t, execSetFeaturesApst qp capsule s = .next t ∧ t.steady = s.steady := by
  exact ⟨_, rfl, by simp⟩

theorem execSetFeaturesKeepAliveTimer_steady (qp : Nat) (capsule : Bytes) (s : State) : ∃ t, execSetFeaturesKeepAliveTimer qp capsule s = .next t ∧ t.steady = s.steady := by
  exact ⟨_, rfl, by simp⟩

theorem execGetFeatures_steady (qp : Nat) (capsule : Bytes) (s : State) : ∃ t, execGetFeatures qp capsule s = .next t ∧ t.steady = s.steady := by
  exact ⟨_, rfl, by simp⟩

theorem execAsynchronousEventRequest_steady (qp : Nat) (capsule : Bytes) (s : State) : ∃ t, execAsynchronousEventRequest qp capsule s = .next t ∧ t.steady = s.steady := by
  exact ⟨_, rfl, by simp⟩

theorem execKeepAlive_steady (qp : Nat) (capsule : Bytes) (s : State) : ∃ t, execKeepAlive qp capsule s = .next t ∧ t.steady = s.steady := by
  exact ⟨_, rfl, by simp⟩

theorem execKatoExpiry_steady (controller : Nat) (s : State) : ∃ t, execKatoExpiry controller s = .next t ∧ t.steady = s.steady := by
  exact ⟨_, rfl, by simp⟩

@[simp] theorem apstIdle_steady (id entry : Nat) (s : State) : (apstIdle id entry s).steady = s.steady := by
  unfold apstIdle; first | (simp [steady_fields]; done) | ((try simp); (repeat' split) <;> simp_all [steady_fields]; done)

theorem execApstIdleTimer_steady (controller entry : Nat) (s : State) : ∃ t, execApstIdleTimer controller entry s = .next t ∧ t.steady = s.steady := by
  exact ⟨_, rfl, by simp⟩

end Sys2Proof.Machine
end

