-- ==== Sys2Proof/Laws/Steady/Sheaf.lean ====
section
/-! SUPPORT. What `Machine/Sheaf.lean` changes leaves the steady fields as they are. -/

namespace Sys2Proof.Machine

@[simp] theorem modifyConn_steady (qp : Nat) (f : SheafConn → SheafConn) (s : State) : (modifyConn qp f s).steady = s.steady := by
  unfold modifyConn; simp

@[simp] theorem shStage_steady (qp tag : Nat) (st : SheafStage) (s : State) : (shStage qp tag st s).steady = s.steady := by
  unfold shStage; simp

@[simp] theorem shAnswer_steady (qp tag : Nat) (st : Status) (reason : Nat) (away : Bool) (result : Bytes) (s : State) : (shAnswer qp tag st reason away result s).steady = s.steady := by
  unfold shAnswer; first | (simp [steady_fields]; done) | ((try simp); (repeat' split) <;> simp_all [steady_fields]; done)

@[simp] theorem shFail_steady (qp tag : Nat) (st : Status) (reason : Nat) (s : State) : (shFail qp tag st reason s).steady = s.steady := by
  unfold shFail; simp

@[simp] theorem shOk_steady (qp tag : Nat) (result : Bytes) (s : State) : (shOk qp tag result s).steady = s.steady := by
  unfold shOk; simp

@[simp] theorem shAwait_steady (qp tag domain : Nat) (st : Status) (result : Bytes) (mseqs : List Nat) (stamps : List (Nat × Nat)) (s : State) : (shAwait qp tag domain st result mseqs stamps s).steady = s.steady := by
  unfold shAwait; first | (simp [steady_fields]; done) | ((try simp); (repeat' split) <;> simp_all [steady_fields]; done)

@[simp] theorem shForward_steady (qp tag domain : Nat) (remote : Option Nat) (payload : Bytes) (s : State) : (shForward qp tag domain remote payload s).steady = s.steady := by
  unfold shForward; first | (simp [steady_fields]; done) | ((try simp); (repeat' split) <;> simp_all [steady_fields]; done)

@[simp] theorem objectRead_steady (o : ObjRecord) (off len : Nat) (f : MediaFacts) (s : State) : (objectRead o off len f s).2.2.steady = s.steady := by
  unfold objectRead; dsimp only
  split
  · simp
  have k : ∀ (g : ChunkResult × MediaFacts × State → Piece → ChunkResult × MediaFacts × State) (ps : List Piece) (a : ChunkResult × MediaFacts × State),
      (∀ st x, (g st x).2.2.steady = st.2.2.steady) → (ps.foldl g a).2.2.steady = a.2.2.steady := fun g ps a h => foldl_steady3 g h ps a
  split
  · rename_i st f1 s1 eq
    have h := congrArg (fun x => x.2.2.steady) eq
    dsimp only at h; rw [← h, k _ _ _ (fun acc p => ?_)]
    split
    · rfl
    · split
      · rfl
      · split <;> rename_i e2 <;> exact chunkReadTo_pair e2
  · rename_i b f1 s1 eq
    have h := congrArg (fun x => x.2.2.steady) eq
    dsimp only at h; rw [foldl_steady2 _ (fun acc r => by simp), ← h, k _ _ _ (fun acc p => ?_)]
    split
    · rfl
    · split
      · rfl
      · split <;> rename_i e2 <;> exact chunkReadTo_pair e2

theorem objectRead_pair {o : ObjRecord} {off len : Nat} {f : MediaFacts} {s : State} {r0 r1 : _} {last : State} (eq : objectRead o off len f s = (r0, r1, last)) : last.steady = s.steady := by
  have k := objectRead_steady o off len f s; rwa [eq] at k

@[simp] theorem objectAhead_steady (o : ObjRecord) (off len : Nat) (f : MediaFacts) (s : State) : (objectAhead o off len f s).steady = s.steady := by
  unfold objectAhead; simp [steady_fields]

@[simp] theorem modifyPut_steady (qp id : Nat) (f : Put → Put) (s : State) : (modifyPut qp id f s).steady = s.steady := by
  unfold modifyPut; simp

@[simp] theorem nextPutZone_steady (qp id : Nat) (s : State) : (nextPutZone qp id s).steady = s.steady := by
  unfold nextPutZone; split
  · rfl
  · split
    · rfl
    · dsimp only; split
      · simp
      · split
        · simp
        · rename_i eq; split
          · simp
          · rename_i e2; simp [grantZone_some e2, takeRun_some eq]

@[simp] theorem openPut_steady (qp tag : Nat) (dom : ObjDomain) (r : Bytes) (number : Nat) (remote : Option Nat) (s : State) : (openPut qp tag dom r number remote s).steady = s.steady := by
  unfold openPut; simp

@[simp] theorem putBegin_steady (qp tag : Nat) (dom : ObjDomain) (r : Bytes) (s : State) : (putBegin qp tag dom r s).steady = s.steady := by
  unfold putBegin; simp

@[simp] theorem pullFill_steady (qp tag addr key len : Nat) (s : State) : (pullFill qp tag addr key len s).steady = s.steady := by
  unfold pullFill; simp

@[simp] theorem takeFill_steady (p : Put) (tag : Nat) (r : Bytes) (s : State) : (takeFill p tag r s).steady = s.steady := by
  unfold takeFill; first | (simp [steady_fields]; done) | ((try simp); (repeat' split) <;> simp_all [steady_fields]; done)

@[simp] theorem dropObjectIngest_steady (o jseq : Nat) (m : Option Nat) (s : State) : (dropObjectIngest o jseq m s).steady = s.steady := by
  unfold dropObjectIngest; simp

@[simp] theorem endPut_steady (p : Put) (reason : Option Nat) (s : State) : (endPut p reason s).steady = s.steady := by
  unfold endPut; dsimp only
  refine (foldl_steady _ (fun st t => by split <;> simp) _ _).trans ?_
  cases p.zone with
  | none => dsimp only; split; · simp
            · split <;> simp
  | some z => dsimp only; split; · simp
              · split <;> simp

@[simp] theorem totalPieces_steady (number size : Nat) (s : State) : (totalPieces number size s).2.steady = s.steady := by
  unfold totalPieces; first | (simp [steady_fields]; done) | ((try simp); (repeat' split) <;> simp_all [steady_fields]; done)

theorem totalPieces_pair {number size : Nat} {s : State} {r0 : _} {last : State} (eq : totalPieces number size s = (r0, last)) : last.steady = s.steady := by
  have k := totalPieces_steady number size s; rwa [eq] at k

@[simp] theorem hotObject_steady (o : ObjRecord) (s : State) : (hotObject o s).steady = s.steady := by
  unfold hotObject; simp

@[simp] theorem coldObject_steady (o : ObjRecord) (s : State) : (coldObject o s).steady = s.steady := by
  unfold coldObject; simp

@[simp] theorem holdRefused_steady (qp tag : Nat) (st : Status) (reason : Nat) (s : State) : (holdRefused qp tag st reason s).steady = s.steady := by
  unfold holdRefused; simp

@[simp] theorem dropZone_steady (p : Put) (s : State) : (dropZone p s).steady = s.steady := by
  unfold dropZone; (try dsimp only) <;> (repeat' split) <;> first | (simp [steady_fields]; done) | ((try simp); grind [revokeZone_steady]) | (simp_all [steady_fields]; done)

@[simp] theorem commitPut_steady (p : Put) (tag : Nat) (s : State) : (commitPut p tag s).steady = s.steady := by
  unfold commitPut; first | (simp [steady_fields]; done) | ((try simp); (repeat' split) <;> simp_all [steady_fields]; done)

@[simp] theorem tryOne_steady (qp id : Nat) (s : State) : (tryOne qp id s).steady = s.steady := by
  unfold tryOne; (try dsimp only) <;> (repeat' split) <;> first | (simp [steady_fields]; done) | ((try simp); grind [shForward_steady, modifyPut_steady, commitPut_steady]) | (simp_all [steady_fields]; done)

@[simp] theorem tryCommits_steady (s : State) : (tryCommits s).steady = s.steady := by
  unfold tryCommits; simp

@[simp] theorem tryCommit_steady (qp id : Nat) (s : State) : (tryCommit qp id s).steady = s.steady := by
  unfold tryCommit; first | (simp [steady_fields]; done) | ((try simp); (repeat' split) <;> simp_all [steady_fields]; done)

@[simp] theorem fillLanded_steady (p : Put) (x : Fill) (mseqs : List Nat) (stamps : List (Nat × Nat)) (s : State) : (fillLanded p x mseqs stamps s).steady = s.steady := by
  unfold fillLanded; simp

@[simp] theorem fillForward_steady (p : Put) (x : Fill) (data : Bytes) (hs : List Nat) (s : State) : (fillForward p x data hs s).steady = s.steady := by
  unfold fillForward; simp

@[simp] theorem noteLanded_steady (number upTo : Nat) (s : State) : (noteLanded number upTo s).steady = s.steady := by
  unfold noteLanded; simp

@[simp] theorem landFills_steady (qp id : Nat) : ∀ (x0 : Nat) (x1 : State), (landFills qp id x0 x1).steady = x1.steady := by
  intro n; induction n with
  | zero => intros; rfl
  | succ n ih =>
    intro s; unfold landFills; split
    · rfl
    · split
      · simp
      · dsimp only; split
        · rfl
        · split
          · split
            · simp
            · rename_i eq; simp [ih, landBytes_some eq]
          · split
            · simp [ih]
            · split
              · simp
              · rename_i eq; simp [ih, landBytes_some eq]

@[simp] theorem landPut_steady (qp id : Nat) (s : State) : (landPut qp id s).steady = s.steady := by
  unfold landPut; simp

@[simp] theorem shReadDone_steady (qp tag off : Nat) (data : Bytes) (s : State) : (shReadDone qp tag off data s).steady = s.steady := by
  unfold shReadDone; first | (simp [steady_fields]; done) | ((try simp); (repeat' split) <;> simp_all [steady_fields]; done)

@[simp] theorem zoneTaken_steady (z : Zone) (s : State) : (zoneTaken z s).steady = s.steady := by
  unfold zoneTaken; first | (simp [steady_fields]; done) | ((try simp); (repeat' split) <;> simp_all [steady_fields]; done)

@[simp] theorem namedPut_steady (qp tag : Nat) (r : Bytes) (s : State) : (namedPut qp tag r s).2.steady = s.steady := by
  unfold namedPut; first | (simp [steady_fields]; done) | ((try simp); (repeat' split) <;> simp_all [steady_fields]; done)

theorem namedPut_pair {qp tag : Nat} {r : Bytes} {s : State} {r0 : _} {last : State} (eq : namedPut qp tag r s = (r0, last)) : last.steady = s.steady := by
  have k := namedPut_steady qp tag r s; rwa [eq] at k

@[simp] theorem putData_steady (qp tag : Nat) (r : Bytes) (s : State) : (putData qp tag r s).steady = s.steady := by
  unfold putData; (try dsimp only) <;> (repeat' split) <;> first | (simp [steady_fields]; done) | ((try simp); grind [shFail_steady, takeFill_steady, landPut_steady, namedPut_steady, namedPut_pair]) | (simp_all [steady_fields]; done)

@[simp] theorem queueCommit_steady (qp id : Nat) (s : State) : (queueCommit qp id s).steady = s.steady := by
  unfold queueCommit; simp

@[simp] theorem putCommit_steady (qp tag : Nat) (r : Bytes) (s : State) : (putCommit qp tag r s).steady = s.steady := by
  unfold putCommit; (try dsimp only) <;> (repeat' split) <;> first | (simp [steady_fields]; done) | ((try simp); grind [shStage_steady, shFail_steady, modifyPut_steady, takeFill_steady, landPut_steady, namedPut_steady, queueCommit_steady, namedPut_pair]) | (simp_all [steady_fields]; done)

@[simp] theorem putAbort_steady (qp tag : Nat) (r : Bytes) (s : State) : (putAbort qp tag r s).steady = s.steady := by
  unfold putAbort; (try dsimp only) <;> (repeat' split) <;> first | (simp [steady_fields]; done) | ((try simp); grind [countSheaf_steady, shOk_steady, endPut_steady, tryCommits_steady, namedPut_steady, namedPut_pair]) | (simp_all [steady_fields]; done)

@[simp] theorem shGet_steady (qp tag dom : Nat) (r : Bytes) (f : MediaFacts) (s : State) : (shGet qp tag dom r f s).steady = s.steady := by
  unfold shGet; (try dsimp only) <;> (repeat' split) <;> first | (simp [steady_fields]; done) | ((try simp); grind [qpSend_steady, winnowSearch_steady, countSheaf_steady, shFail_steady, shOk_steady, objectRead_steady, objectAhead_steady, hotObject_steady, winnowSearch_pair, objectRead_pair]) | (simp_all [steady_fields]; done)

@[simp] theorem shStat_steady (qp tag dom : Nat) (r : Bytes) (s : State) : (shStat qp tag dom r s).steady = s.steady := by
  unfold shStat; first | (simp [steady_fields]; done) | ((try simp); (repeat' split) <;> simp_all [steady_fields]; done)

@[simp] theorem shList_steady (qp tag dom : Nat) (r : Bytes) (s : State) : (shList qp tag dom r s).steady = s.steady := by
  unfold shList; simp

@[simp] theorem shVersion_steady (qp tag : Nat) (dom : ObjDomain) (r : Bytes) (s : State) : (shVersion qp tag dom r s).steady = s.steady := by
  unfold shVersion; simp

@[simp] theorem shDelete_steady (qp tag : Nat) (dom : ObjDomain) (r : Bytes) (s : State) : (shDelete qp tag dom r s).steady = s.steady := by
  unfold shDelete; first | (simp [steady_fields]; done) | ((try simp); (repeat' split) <;> simp_all [steady_fields]; done)

@[simp] theorem writeHold_steady (qp tag dom : Nat) (o : ObjRecord) (flags until' : Nat) (s : State) : (writeHold qp tag dom o flags until' s).steady = s.steady := by
  unfold writeHold; simp

@[simp] theorem shHold_steady (qp tag : Nat) (dom : ObjDomain) (r : Bytes) (s : State) : (shHold qp tag dom r s).steady = s.steady := by
  unfold shHold; first | (simp [steady_fields]; done) | ((try simp); (repeat' split) <;> simp_all [steady_fields]; done)

@[simp] theorem shReleaseHold_steady (qp tag : Nat) (dom : ObjDomain) (r : Bytes) (s : State) : (shReleaseHold qp tag dom r s).steady = s.steady := by
  unfold shReleaseHold; first | (simp [steady_fields]; done) | ((try simp); (repeat' split) <;> simp_all [steady_fields]; done)

@[simp] theorem shServe_steady (qp tag : Nat) (dom : ObjDomain) (r : Bytes) (f : MediaFacts) (s : State) : (shServe qp tag dom r f s).steady = s.steady := by
  unfold shServe; first | (simp [steady_fields]; done) | ((try simp); (repeat' split) <;> simp_all [steady_fields]; done)

@[simp] theorem shRun_steady (qp tag : Nat) (f : MediaFacts) (s : State) : (shRun qp tag f s).steady = s.steady := by
  unfold shRun; first | (simp [steady_fields]; done) | ((try simp); (repeat' split) <;> simp_all [steady_fields]; done)

@[simp] theorem shRequest_steady (qp : Nat) (r : Bytes) (f : MediaFacts) (s : State) : (shRequest qp r f s).steady = s.steady := by
  unfold shRequest; (try dsimp only) <;> (repeat' split) <;> first | (simp [steady_fields]; done) | ((try simp); grind [modifyQp_steady, qpTake_steady, arriveRoot_steady, sendNak_steady, modifySheaf_steady, countSheaf_steady, shSend_steady, shRun_steady, arriveRoot_pair]) | (simp_all [steady_fields]; done)

@[simp] theorem shFromPeer_steady (fwd : Nat) (header payload : Bytes) (s : State) : (shFromPeer fwd header payload s).steady = s.steady := by
  unfold shFromPeer; simp

@[simp] theorem shForwardDone_steady (qp tag : Nat) (st : Status) (result : Bytes) (s : State) : (shForwardDone qp tag st result s).steady = s.steady := by
  unfold shForwardDone; split
  · rfl
  · dsimp only
    have forget : ∀ (p : Option Put) (f : SheafPart → SheafPart) (st : State), ((p.map (fun y => dropZone y)).getD id (modifySheaf f st)).steady = st.steady := by
      intro p f st; cases p <;> simp
    split
    · split
      · simp
      · simp only [shOk_steady]; split <;> simp
      · simp [forget]
      · simp
      · simp
    · simp only [shFail_steady]; split
      · simp [forget]
      · split <;> simp

@[simp] theorem sheafGone_steady (qp : Nat) (s : State) : (sheafGone qp s).steady = s.steady := by
  unfold sheafGone; simp

@[simp] theorem endPuts_steady (s : State) : (endPuts s).steady = s.steady := by
  unfold endPuts; simp

@[simp] theorem releaseStrays_steady (both : Bool) (s : State) : (releaseStrays both s).steady = s.steady := by
  unfold releaseStrays; simp

@[simp] theorem endPeerPuts_steady (s : State) : (endPeerPuts s).steady = s.steady := by
  unfold endPeerPuts; simp

@[simp] theorem resumeSheaf_steady (s : State) : (resumeSheaf s).steady = s.steady := by
  unfold resumeSheaf; dsimp only
  refine (foldl_steady _ (fun st r => by split; · split <;> simp
                                         · rfl) _ _).trans (foldl_steady _ (fun st r => by split <;> simp) _ _)

@[simp] theorem sheafRow_steady (verb qp : Nat) (request : Bytes) (f : MediaFacts) (s : State) : (sheafRow verb qp request f s).steady = s.steady := by
  unfold sheafRow; simp

theorem execVersion_steady (qp : Nat) (request : Bytes) (s : State) : ∃ t, execVersion qp request s = .next t ∧ t.steady = s.steady := by
  exact ⟨_, rfl, by simp⟩

theorem execPutBegin_steady (qp : Nat) (request : Bytes) (s : State) : ∃ t, execPutBegin qp request s = .next t ∧ t.steady = s.steady := by
  exact ⟨_, rfl, by simp⟩

theorem execPutData_steady (qp : Nat) (request : Bytes) (s : State) : ∃ t, execPutData qp request s = .next t ∧ t.steady = s.steady := by
  exact ⟨_, rfl, by simp⟩

theorem execPutCommit_steady (qp : Nat) (request : Bytes) (s : State) : ∃ t, execPutCommit qp request s = .next t ∧ t.steady = s.steady := by
  exact ⟨_, rfl, by simp⟩

theorem execPutAbort_steady (qp : Nat) (request : Bytes) (s : State) : ∃ t, execPutAbort qp request s = .next t ∧ t.steady = s.steady := by
  exact ⟨_, rfl, by simp⟩

theorem execGet_steady (qp : Nat) (request : Bytes) (facts : MediaFacts) (s : State) : ∃ t, execGet qp request facts s = .next t ∧ t.steady = s.steady := by
  exact ⟨_, rfl, by simp⟩

theorem execStat_steady (qp : Nat) (request : Bytes) (s : State) : ∃ t, execStat qp request s = .next t ∧ t.steady = s.steady := by
  exact ⟨_, rfl, by simp⟩

theorem execDelete_steady (qp : Nat) (request : Bytes) (s : State) : ∃ t, execDelete qp request s = .next t ∧ t.steady = s.steady := by
  exact ⟨_, rfl, by simp⟩

theorem execList_steady (qp : Nat) (request : Bytes) (s : State) : ∃ t, execList qp request s = .next t ∧ t.steady = s.steady := by
  exact ⟨_, rfl, by simp⟩

theorem execHold_steady (qp : Nat) (request : Bytes) (s : State) : ∃ t, execHold qp request s = .next t ∧ t.steady = s.steady := by
  exact ⟨_, rfl, by simp⟩

theorem execReleaseHold_steady (qp : Nat) (request : Bytes) (s : State) : ∃ t, execReleaseHold qp request s = .next t ∧ t.steady = s.steady := by
  exact ⟨_, rfl, by simp⟩

@[simp] theorem sheafPutTimeout_steady (qp put : Nat) (s : State) : (sheafPutTimeout qp put s).steady = s.steady := by
  unfold sheafPutTimeout; first | (simp [steady_fields]; done) | ((try simp); (repeat' split) <;> simp_all [steady_fields]; done)

theorem execSheafPutTimeout_steady (qp put : Nat) (s : State) : ∃ t, execSheafPutTimeout qp put s = .next t ∧ t.steady = s.steady := by
  exact ⟨_, rfl, by simp⟩

end Sys2Proof.Machine
end

