-- ==== Sys2Proof/Laws/Steady/Repl.lean ====
section
/-! SUPPORT. What `Machine/Repl.lean` changes leaves the steady fields as they are. -/

namespace Sys2Proof.Machine

theorem connectOut_steady (v : Service) (addr port : Nat) (s : State) : ∀ r, connectOut v addr port s = some r → r.2.steady = s.steady := by
  intro r h; revert h; unfold connectOut; (try dsimp only) <;> (repeat' split) <;> intro h <;> first | (simp at h; done) | (simp at h; subst h; simp [steady_fields]; done) | ((try simp at h); grind [steady_fields, transmit_steady, allocQp_steady, allocQp_some])

theorem connectOut_some {v : Service} {addr port : Nat} {s : State} {r0 : _} {last : State} (eq : connectOut v addr port s = some (r0, last)) : last.steady = s.steady :=
  connectOut_steady v addr port s _ eq

@[simp] theorem modifySes_steady (qp : Nat) (f : ReplSession → ReplSession) (s : State) : (modifySes qp f s).steady = s.steady := by
  unfold modifySes; simp

@[simp] theorem frameCipher_steady (qp : Nat) (op : CipherOp) (slot : Nat) (len : Option Nat) (s : State) : (frameCipher qp op slot len s).steady = s.steady := by
  unfold frameCipher; (try dsimp only) <;> (repeat' split) <;> first | (simp [steady_fields]; done) | ((try simp); grind [countComplex_steady, cipherRun_steady, countReleased_steady, cipherRun_pair]) | (simp_all [steady_fields]; done)

@[simp] theorem sendFrame_steady (qp rtype : Nat) (body : Bytes) (s : State) : (sendFrame qp rtype body s).steady = s.steady := by
  unfold sendFrame; first | (simp [steady_fields]; done) | ((try simp); (repeat' split) <;> simp_all [steady_fields]; done)

@[simp] theorem noteLast_steady (pair reason : Nat) (snap : Option Nat) (bytes : Nat) (s : State) : (noteLast pair reason snap bytes s).steady = s.steady := by
  unfold noteLast; simp

@[simp] theorem dropSession_steady (x : ReplSession) (reason : Nat) (snap : Option Nat) (s : State) : (dropSession x reason snap s).steady = s.steady := by
  unfold dropSession; first | (simp [steady_fields]; done) | ((try simp); (repeat' split) <;> simp_all [steady_fields]; done)

@[simp] theorem abortSession_steady (x : ReplSession) (reason : Nat) (s : State) : (abortSession x reason s).steady = s.steady := by
  unfold abortSession; first | (simp [steady_fields]; done) | ((try simp); (repeat' split) <;> simp_all [steady_fields]; done)

@[simp] theorem abortQp_steady (qp reason : Nat) (s : State) : (abortQp qp reason s).steady = s.steady := by
  unfold abortQp; first | (simp [steady_fields]; done) | ((try simp); (repeat' split) <;> simp_all [steady_fields]; done)

@[simp] theorem endSessions_steady (s : State) : (endSessions s).steady = s.steady := by
  unfold endSessions; simp

@[simp] theorem openSealed_steady (x : ReplSession) (b : Bytes) (s : State) : (openSealed x b s).2.steady = s.steady := by
  unfold openSealed; (try dsimp only) <;> (repeat' split) <;> first | (simp [steady_fields]; done) | ((try simp); grind [frameCipher_steady]) | (simp_all [steady_fields]; done)

theorem openSealed_pair {x : ReplSession} {b : Bytes} {s : State} {r0 : _} {last : State} (eq : openSealed x b s = (r0, last)) : last.steady = s.steady := by
  have k := openSealed_steady x b s; rwa [eq] at k

@[simp] theorem openFrame_steady (x : ReplSession) (rtype : Nat) (b : Bytes) (s : State) : (openFrame x rtype b s).2.steady = s.steady := by
  unfold openFrame; simp

theorem openFrame_pair {x : ReplSession} {rtype : Nat} {b : Bytes} {s : State} {r0 : _} {last : State} (eq : openFrame x rtype b s = (r0, last)) : last.steady = s.steady := by
  have k := openFrame_steady x rtype b s; rwa [eq] at k

@[simp] theorem deriveKey_steady (qp : Nat) (s : State) : (deriveKey qp s).2.steady = s.steady := by
  unfold deriveKey; (try dsimp only) <;> (repeat' split) <;> first | (simp [steady_fields]; done) | ((try simp); grind [allotSlot_steady, slotValid_steady, slotEvent_steady, modifySes_steady, allotSlot_pair]) | (simp_all [steady_fields]; done)

theorem deriveKey_pair {qp : Nat} {s : State} {r0 : _} {last : State} (eq : deriveKey qp s = (r0, last)) : last.steady = s.steady := by
  have k := deriveKey_steady qp s; rwa [eq] at k

@[simp] theorem placePair_steady (p : PairRecord) (s : State) : (placePair p s).2.2.steady = s.steady := by
  unfold placePair; simp

theorem placePair_pair {p : PairRecord} {s : State} {r0 r1 : _} {last : State} (eq : placePair p s = (r0, r1, last)) : last.steady = s.steady := by
  have k := placePair_steady p s; rwa [eq] at k

@[simp] theorem replPair_steady (p : McPacket) (s : State) : (replPair p s).2.steady = s.steady := by
  unfold replPair; first | (simp [steady_fields]; done) | ((try simp); (repeat' split) <;> simp_all [steady_fields]; done)

theorem replPair_pair {p : McPacket} {s : State} {r0 : _} {last : State} (eq : replPair p s = (r0, last)) : last.steady = s.steady := by
  have k := replPair_steady p s; rwa [eq] at k

theorem execReplPair_steady (p : McPacket) (s : State) : ∃ t, execReplPair p s = .next t ∧ t.steady = s.steady := by
  exact ⟨_, rfl, by simp⟩

@[simp] theorem replAccept_steady (p : McPacket) (s : State) : (replAccept p s).2.steady = s.steady := by
  unfold replAccept; simp

theorem replAccept_pair {p : McPacket} {s : State} {r0 : _} {last : State} (eq : replAccept p s = (r0, last)) : last.steady = s.steady := by
  have k := replAccept_steady p s; rwa [eq] at k

theorem execReplAccept_steady (p : McPacket) (s : State) : ∃ t, execReplAccept p s = .next t ∧ t.steady = s.steady := by
  exact ⟨_, rfl, by simp⟩

@[simp] theorem replStart_steady (p : McPacket) (s : State) : (replStart p s).2.steady = s.steady := by
  unfold replStart; first | (simp [steady_fields]; done) | ((try simp); (repeat' split) <;> simp_all [steady_fields]; done)

theorem replStart_pair {p : McPacket} {s : State} {r0 : _} {last : State} (eq : replStart p s = (r0, last)) : last.steady = s.steady := by
  have k := replStart_steady p s; rwa [eq] at k

theorem execReplStart_steady (p : McPacket) (s : State) : ∃ t, execReplStart p s = .next t ∧ t.steady = s.steady := by
  exact ⟨_, rfl, by simp⟩

@[simp] theorem replPersisted_steady (s : State) : (replPersisted s).steady = s.steady := by
  unfold replPersisted; refine foldl_steady _ (fun st x => ?_) _ _
  split
  · rfl
  · split
    · simp
    · rename_i eq; simp [connectOut_some eq]

@[simp] theorem replConnected_steady (qp : Nat) (s : State) : (replConnected qp s).steady = s.steady := by
  unfold replConnected; first | (simp [steady_fields]; done) | ((try simp); (repeat' split) <;> simp_all [steady_fields]; done)

@[simp] theorem replGone_steady (qp : Nat) (s : State) : (replGone qp s).steady = s.steady := by
  unfold replGone; first | (simp [steady_fields]; done) | ((try simp); (repeat' split) <;> simp_all [steady_fields]; done)

@[simp] theorem replStatus_steady (p : McPacket) (s : State) : (replStatus p s).2.steady = s.steady := by
  unfold replStatus; simp

theorem replStatus_pair {p : McPacket} {s : State} {r0 : _} {last : State} (eq : replStatus p s = (r0, last)) : last.steady = s.steady := by
  have k := replStatus_steady p s; rwa [eq] at k

theorem execReplStatus_steady (p : McPacket) (s : State) : ∃ t, execReplStatus p s = .next t ∧ t.steady = s.steady := by
  exact ⟨_, rfl, by simp⟩

@[simp] theorem stopPair_steady (n : Nat) (s : State) : (stopPair n s).steady = s.steady := by
  unfold stopPair; first | (simp [steady_fields]; done) | ((try simp); (repeat' split) <;> simp_all [steady_fields]; done)

@[simp] theorem replStop_steady (p : McPacket) (s : State) : (replStop p s).2.steady = s.steady := by
  unfold replStop; simp

theorem replStop_pair {p : McPacket} {s : State} {r0 : _} {last : State} (eq : replStop p s = (r0, last)) : last.steady = s.steady := by
  have k := replStop_steady p s; rwa [eq] at k

theorem execReplStop_steady (p : McPacket) (s : State) : ∃ t, execReplStop p s = .next t ∧ t.steady = s.steady := by
  exact ⟨_, rfl, by simp⟩

@[simp] theorem replUnpair_steady (p : McPacket) (s : State) : (replUnpair p s).2.steady = s.steady := by
  unfold replUnpair; first | (simp [steady_fields]; done) | ((try simp); (repeat' split) <;> simp_all [steady_fields]; done)

theorem replUnpair_pair {p : McPacket} {s : State} {r0 : _} {last : State} (eq : replUnpair p s = (r0, last)) : last.steady = s.steady := by
  have k := replUnpair_steady p s; rwa [eq] at k

theorem execReplUnpair_steady (p : McPacket) (s : State) : ∃ t, execReplUnpair p s = .next t ∧ t.steady = s.steady := by
  exact ⟨_, rfl, by simp⟩

@[simp] theorem takeFrame_steady (qp : Nat) (b : Bytes) (s : State) : (takeFrame qp b s).steady = s.steady := by
  unfold takeFrame; simp

@[simp] theorem replRow_steady (rtype qp : Nat) (frame : Bytes) (run : ReplSession → Bytes → State → State) (s : State) (hrun : ∀ (x0 : ReplSession) (x1 : Bytes) (x2 : State), (run x0 x1 x2).steady = (x2).steady) : (replRow rtype qp frame run s).steady = s.steady := by
  unfold replRow; (try dsimp only) <;> (repeat' split) <;> first | (simp [steady_fields, hrun]; done) | ((try simp [hrun]); grind [arrive_steady, countRepl_steady, modifySes_steady, abortQp_steady, openFrame_steady, takeFrame_steady, arrive_pair, openFrame_pair]) | (simp_all [steady_fields]; done)

@[simp] theorem expectStage_steady (stage : Nat) (initiator : Bool) (run : ReplSession → Bytes → State → State) (x : ReplSession) (body : Bytes) (s : State) (hrun : ∀ (x0 : ReplSession) (x1 : Bytes) (x2 : State), (run x0 x1 x2).steady = (x2).steady) : (expectStage stage initiator run x body s).steady = s.steady := by
  unfold expectStage; simp [steady_fields, hrun]

@[simp] theorem refuseHello_steady (qp r : Nat) (x : ReplSession) (s : State) : (refuseHello qp r x s).steady = s.steady := by
  unfold refuseHello; simp

@[simp] theorem helloTaken_steady (qp : Nat) (b : Bytes) (s : State) : (helloTaken qp b s).steady = s.steady := by
  unfold helloTaken
  dsimp only
  split
  · simp
  · split
    · simp
    · split
      · rename_i e; simp [deriveKey_pair e]
      · rename_i e; simp [deriveKey_pair e]

@[simp] theorem hello_steady (qp : Nat) (frame : Bytes) (s : State) : (hello qp frame s).steady = s.steady := by
  unfold hello; (try dsimp only) <;> (repeat' split) <;> first | (simp [steady_fields]; done) | ((try simp); grind [arrive_steady, countRepl_steady, abortQp_steady, takeFrame_steady, arrive_pair]) | (simp_all [steady_fields]; done)

theorem execHello_steady (qp : Nat) (frame : Bytes) (s : State) : ∃ t, execHello qp frame s = .next t ∧ t.steady = s.steady := by
  exact ⟨_, rfl, by simp⟩

@[simp] theorem helloReply_steady (qp : Nat) (x : ReplSession) (body : Bytes) (s : State) : (helloReply qp x body s).steady = s.steady := by
  unfold helloReply; (try dsimp only) <;> (repeat' split) <;> first | (simp [steady_fields]; done) | ((try simp); grind [countRepl_steady, modifySes_steady, sendFrame_steady, dropSession_steady, abortSession_steady, abortQp_steady, deriveKey_steady, deriveKey_pair]) | (simp_all [steady_fields]; done)

theorem execHelloReply_steady (qp : Nat) (frame : Bytes) (s : State) : ∃ t, execHelloReply qp frame s = .next t ∧ t.steady = s.steady := by
  exact ⟨_, rfl, by simp⟩

@[simp] theorem confirm_steady (qp : Nat) (x : ReplSession) (body : Bytes) (s : State) : (confirm qp x body s).steady = s.steady := by
  unfold confirm; simp

theorem execConfirm_steady (qp : Nat) (frame : Bytes) (s : State) : ∃ t, execConfirm qp frame s = .next t ∧ t.steady = s.steady := by
  exact ⟨_, rfl, by simp⟩

@[simp] theorem storedChunk_steady (q entry : Nat) (f : MediaFacts) (s : State) : (storedChunk q entry f s).2.2.steady = s.steady := by
  unfold storedChunk; (try dsimp only) <;> (repeat' split) <;> first | (simp [steady_fields]; done) | ((try simp); grind [openRecord_steady, copyBytes_steady, openRecord_pair, copyBytes_pair]) | (simp_all [steady_fields]; done)

theorem storedChunk_pair {q entry : Nat} {f : MediaFacts} {s : State} {r0 r1 : _} {last : State} (eq : storedChunk q entry f s = (r0, r1, last)) : last.steady = s.steady := by
  have k := storedChunk_steady q entry f s; rwa [eq] at k

@[simp] theorem entryFp_steady (entry : Nat) (s : State) : (entryFp entry s).2.steady = s.steady := by
  unfold entryFp; (try dsimp only) <;> (repeat' split) <;> first | (simp [steady_fields]; done) | ((try simp); grind [storedChunk_steady, storedChunk_pair]) | (simp_all [steady_fields]; done)

theorem entryFp_pair {entry : Nat} {s : State} {r0 : _} {last : State} (eq : entryFp entry s = (r0, last)) : last.steady = s.steady := by
  have k := entryFp_steady entry s; rwa [eq] at k

@[simp] theorem fillFps_steady  : ∀ (x0 : List ReplEntry) (x1 : State), (fillFps x0 x1).2.steady = x1.steady := by
  intro x0; induction x0 with
  | nil => intros; simp [fillFps]
  | cons x xs ih => intros; unfold fillFps; simp [ih]

theorem fillFps_pair  {x0 : List ReplEntry} {x1 : State} {r0 : _} {last : State} (eq : fillFps x0 x1 = (r0, last)) : last.steady = x1.steady := by
  have k := fillFps_steady x0 x1; rwa [eq] at k

@[simp] theorem startBatch_steady (qp : Nat) (again : Bool) (s : State) : (startBatch qp again s).steady = s.steady := by
  unfold startBatch; (try dsimp only) <;> (repeat' split) <;> first | (simp [steady_fields]; done) | ((try simp); grind [modifySes_steady, sendFrame_steady, abortQp_steady, fillFps_steady, fillFps_pair]) | (simp_all [steady_fields]; done)

@[simp] theorem diffReady_steady (qp : Nat) (x : ReplSession) (body : Bytes) (s : State) : (diffReady qp x body s).steady = s.steady := by
  unfold diffReady; simp

theorem execDiffReady_steady (qp : Nat) (frame : Bytes) (s : State) : ∃ t, execDiffReady qp frame s = .next t ∧ t.steady = s.steady := by
  exact ⟨_, rfl, by simp⟩

@[simp] theorem sendChunks_steady (qp : Nat) (x : ReplSession) (bitmap : Bytes) (f : MediaFacts) (s : State) : (sendChunks qp x bitmap f s).steady = s.steady := by
  unfold sendChunks; split
  · simp
  · rename_i b hb; dsimp only
    have k : ∀ (g : Bool × MediaFacts × State → Nat → Bool × MediaFacts × State) (l : List Nat) (a r : Bool × MediaFacts × State),
      l.foldl g a = r → (∀ st x, (g st x).2.2.steady = st.2.2.steady) → r.2.2.steady = a.2.2.steady := fun g l a r e h => e ▸ foldl_steady3 g h l a
    split <;> rename_i eq <;> simp
    all_goals
      refine k _ _ _ _ eq (fun acc i => ?_)
      split
      · rfl
      · split <;> rename_i e2 <;> simp [storedChunk_pair e2]

@[simp] theorem fpWant_steady (qp : Nat) (f : MediaFacts) (x : ReplSession) (body : Bytes) (s : State) : (fpWant qp f x body s).steady = s.steady := by
  unfold fpWant; simp

theorem execFpWant_steady (qp : Nat) (frame : Bytes) (facts : MediaFacts) (s : State) : ∃ t, execFpWant qp frame facts s = .next t ∧ t.steady = s.steady := by
  exact ⟨_, rfl, by simp⟩

@[simp] theorem batchDone_steady (qp : Nat) (f : MediaFacts) (x : ReplSession) (body : Bytes) (s : State) : (batchDone qp f x body s).steady = s.steady := by
  unfold batchDone; simp

theorem execBatchDone_steady (qp : Nat) (frame : Bytes) (facts : MediaFacts) (s : State) : ∃ t, execBatchDone qp frame facts s = .next t ∧ t.steady = s.steady := by
  exact ⟨_, rfl, by simp⟩

@[simp] theorem diffDone_steady (qp : Nat) (x : ReplSession) (body : Bytes) (s : State) : (diffDone qp x body s).steady = s.steady := by
  unfold diffDone; first | (simp [steady_fields]; done) | ((try simp); (repeat' split) <;> simp_all [steady_fields]; done)

theorem execDiffDone_steady (qp : Nat) (frame : Bytes) (s : State) : ∃ t, execDiffDone qp frame s = .next t ∧ t.steady = s.steady := by
  exact ⟨_, rfl, by simp⟩

@[simp] theorem dropPartial_steady (o : Nat × ObjRecord) (s : State) : (dropPartial o s).steady = s.steady := by
  unfold dropPartial; simp

@[simp] theorem diffBeginRow_steady (qp : Nat) (x : ReplSession) (b : Bytes) (s : State) : (diffBeginRow qp x b s).steady = s.steady := by
  unfold diffBeginRow; dsimp only
  rw [ite_steady]
  refine (ite_congr rfl (fun _ => ?_) (fun _ => ?_)).trans (ite_self s.steady)
  · exact (abortQp_steady ..).trans (sendFrame_steady ..)
  · refine (sendFrame_steady ..).trans ((modifySes_steady ..).trans ((foldl_steady _ ?_ _ _).trans ((modifyRepl_steady ..).trans ?_)))
    · intro st r; split <;> simp
    · split
      · split
        · rfl
        · exact changeTable_steady ..
      · rfl

theorem execDiffBegin_steady (qp : Nat) (frame : Bytes) (s : State) : ∃ t, execDiffBegin qp frame s = .next t ∧ t.steady = s.steady := by
  exact ⟨_, rfl, by simp⟩

@[simp] theorem fpListRow_steady (qp : Nat) (x : ReplSession) (b : Bytes) (s : State) : (fpListRow qp x b s).steady = s.steady := by
  unfold fpListRow; simp

theorem execFpList_steady (qp : Nat) (frame : Bytes) (s : State) : ∃ t, execFpList qp frame s = .next t ∧ t.steady = s.steady := by
  exact ⟨_, rfl, by simp⟩

@[simp] theorem chunkData_steady (qp : Nat) (x : ReplSession) (b : Bytes) (s : State) : (chunkData qp x b s).steady = s.steady := by
  unfold chunkData; first | (simp [steady_fields]; done) | ((try simp); (repeat' split) <;> simp_all [steady_fields]; done)

theorem execChunkData_steady (qp : Nat) (frame : Bytes) (s : State) : ∃ t, execChunkData qp frame s = .next t ∧ t.steady = s.steady := by
  exact ⟨_, rfl, by simp⟩

@[simp] theorem ingestEntry_steady (t : Target) (dom : Nat) (e : ReplEntry) (plain : Bytes) (s : State) : (ingestEntry t dom e plain s).2.steady = s.steady := by
  unfold ingestEntry; first | (simp [steady_fields]; done) | ((try simp); (repeat' split) <;> simp_all [steady_fields]; done)

theorem ingestEntry_pair {t : Target} {dom : Nat} {e : ReplEntry} {plain : Bytes} {s : State} {r0 : _} {last : State} (eq : ingestEntry t dom e plain s = (r0, last)) : last.steady = s.steady := by
  have k := ingestEntry_steady t dom e plain s; rwa [eq] at k

@[simp] theorem mapEntries_steady (x : ReplSession) (dom : Nat) : ∀ (x0 : List ReplEntry) (x1 : State), (mapEntries x dom x0 x1).2.steady = x1.steady := by
  intro l; induction l with
  | nil => intros; rfl
  | cons e rest ih =>
    intro s; unfold mapEntries; dsimp only; split
    · simp [ih]
    · split
      · simp [ih]
      · split <;> rename_i eq <;> simp [ih, ingestEntry_pair eq]
      · rfl

theorem mapEntries_pair {x : ReplSession} {dom : Nat} {x0 : List ReplEntry} {x1 : State} {r0 : _} {last : State} (eq : mapEntries x dom x0 x1 = (r0, last)) : last.steady = x1.steady := by
  have k := mapEntries_steady x dom x0 x1; rwa [eq] at k

@[simp] theorem closeObject_steady (qp : Nat) (s : State) : (closeObject qp s).steady = s.steady := by
  unfold closeObject; first | (simp [steady_fields]; done) | ((try simp); (repeat' split) <;> simp_all [steady_fields]; done)

@[simp] theorem applyBatch_steady (qp : Nat) (s : State) : (applyBatch qp s).steady = s.steady := by
  unfold applyBatch; (try dsimp only) <;> (repeat' split) <;> first | (simp [steady_fields]; done) | ((try simp); grind [startCopy_steady, modifyRepl_steady, modifySes_steady, sendFrame_steady, abortQp_steady, mapEntries_steady, closeObject_steady, mapEntries_pair]) | (simp_all [steady_fields]; done)

@[simp] theorem batchEnd_steady (qp : Nat) (x : ReplSession) (b : Bytes) (s : State) : (batchEnd qp x b s).steady = s.steady := by
  unfold batchEnd; simp

theorem execBatchEnd_steady (qp : Nat) (frame : Bytes) (s : State) : ∃ t, execBatchEnd qp frame s = .next t ∧ t.steady = s.steady := by
  exact ⟨_, rfl, by simp⟩

@[simp] theorem objectBegin_steady (qp : Nat) (x : ReplSession) (b : Bytes) (s : State) : (objectBegin qp x b s).steady = s.steady := by
  unfold objectBegin; first | (simp [steady_fields]; done) | ((try simp); (repeat' split) <;> simp_all [steady_fields]; done)

theorem execObjectBegin_steady (qp : Nat) (frame : Bytes) (s : State) : ∃ t, execObjectBegin qp frame s = .next t ∧ t.steady = s.steady := by
  exact ⟨_, rfl, by simp⟩

@[simp] theorem diffEnd_steady (qp : Nat) (x : ReplSession) (_b : Bytes) (s : State) : (diffEnd qp x _b s).steady = s.steady := by
  unfold diffEnd; (try dsimp only) <;> (repeat' split) <;> first | (simp [steady_fields]; done) | ((try simp); grind [stampBarrier_steady, beginSnap_steady, modifySes_steady, sendFrame_steady, abortQp_steady, stampBarrier_pair, beginSnap_some]) | (simp_all [steady_fields]; done)

theorem execDiffEnd_steady (qp : Nat) (frame : Bytes) (s : State) : ∃ t, execDiffEnd qp frame s = .next t ∧ t.steady = s.steady := by
  exact ⟨_, rfl, by simp⟩

@[simp] theorem diffSnapped_steady (qp num : Nat) (s : State) : (diffSnapped qp num s).steady = s.steady := by
  unfold diffSnapped; first | (simp [steady_fields]; done) | ((try simp); (repeat' split) <;> simp_all [steady_fields]; done)

theorem execKeepalive_steady (qp : Nat) (frame : Bytes) (s : State) : ∃ t, execKeepalive qp frame s = .next t ∧ t.steady = s.steady := by
  exact ⟨_, rfl, by simp⟩

@[simp] theorem replAbortRow_steady (x : ReplSession) (b : Bytes) (s : State) : (replAbortRow x b s).steady = s.steady := by
  unfold replAbortRow; simp

theorem execReplAbort_steady (qp : Nat) (frame : Bytes) (s : State) : ∃ t, execReplAbort qp frame s = .next t ∧ t.steady = s.steady := by
  exact ⟨_, rfl, by simp⟩

theorem execReplKeepaliveTimer_steady (qp : Nat) (s : State) : ∃ t, execReplKeepaliveTimer qp s = .next t ∧ t.steady = s.steady := by
  refine ⟨_, rfl, ?_⟩; first | (simp [steady_fields]; done) | ((try simp); (repeat' split) <;> simp_all [steady_fields]; done)

theorem execReplIdleTimeout_steady (qp : Nat) (s : State) : ∃ t, execReplIdleTimeout qp s = .next t ∧ t.steady = s.steady := by
  exact ⟨_, rfl, by simp⟩

@[simp] theorem resumeRepl_steady (s : State) : (resumeRepl s).steady = s.steady := by
  unfold resumeRepl; refine foldl_steady _ (fun st x => ?_) _ _
  split
  · split
    · rfl
    · split <;> simp
  · rfl

end Sys2Proof.Machine
end

