-- ==== Sys2Proof/Laws/Steady/Export.lean ====
section
/-! SUPPORT. What `Machine/Export.lean` changes leaves the steady fields as they are. -/

namespace Sys2Proof.Machine

@[simp] theorem modifyRun_steady (n : Nat) (f : ExportRun → ExportRun) (s : State) : (modifyRun n f s).steady = s.steady := by
  unfold modifyRun; simp

@[simp] theorem addChunk_steady (sealed' entry : Nat) (x : StreamAcc × State) : (addChunk sealed' entry x).2.steady = x.2.steady := by
  unfold addChunk; dsimp only; split
  · rfl
  · split <;> rename_i eq <;> exact storedChunk_pair eq

theorem addChunk_pair {sealed' entry : Nat} {x : StreamAcc × State} {r0 : _} {last : State} (eq : addChunk sealed' entry x = (r0, last)) : last.steady = x.2.steady := by
  have k := addChunk_steady sealed' entry x; rwa [eq] at k

@[simp] theorem addNamespace_steady (sealed' ns snap : Nat) (x : StreamAcc × State) : (addNamespace sealed' ns snap x).2.steady = x.2.steady := by
  unfold addNamespace; simp

theorem addNamespace_pair {sealed' ns snap : Nat} {x : StreamAcc × State} {r0 : _} {last : State} (eq : addNamespace sealed' ns snap x = (r0, last)) : last.steady = x.2.steady := by
  have k := addNamespace_steady sealed' ns snap x; rwa [eq] at k

@[simp] theorem addObject_steady (sealed' : Nat) (o : ObjRecord) (x : StreamAcc × State) : (addObject sealed' o x).2.steady = x.2.steady := by
  unfold addObject; simp

theorem addObject_pair {sealed' : Nat} {o : ObjRecord} {x : StreamAcc × State} {r0 : _} {last : State} (eq : addObject sealed' o x = (r0, last)) : last.steady = x.2.steady := by
  have k := addObject_steady sealed' o x; rwa [eq] at k

@[simp] theorem streamFrames_steady (e : ExportRun) (s : State) : (streamFrames e s).2.steady = s.steady := by
  unfold streamFrames; dsimp only
  rw [apply_ite Prod.snd, ite_self]
  have k : ∀ (g : StreamAcc × State → Nat × Nat × Nat → StreamAcc × State) (l : List (Nat × Nat × Nat)) (a : StreamAcc × State),
    (∀ st x, (g st x).2.steady = st.2.steady) → (l.foldl g a).2.steady = a.2.steady := fun g l a h => foldl_steady2 g h l a
  exact k _ _ _ (fun st x => by split <;> simp)

theorem streamFrames_pair {e : ExportRun} {s : State} {r0 : _} {last : State} (eq : streamFrames e s = (r0, last)) : last.steady = s.steady := by
  have k := streamFrames_steady e s; rwa [eq] at k

@[simp] theorem exportOver_steady (n state : Nat) (s : State) : (exportOver n state s).steady = s.steady := by
  unfold exportOver; split
  · rfl
  · split
    · rfl
    · dsimp only; split
      · refine (foldl_steady _ (fun st x => by split <;> simp) _ _).trans ?_
        simp
      · simp

@[simp] theorem endExports_steady (s : State) : (endExports s).steady = s.steady := by
  unfold endExports; simp

@[simp] theorem openLanes_steady (n : Nat) (s : State) : (openLanes n s).steady = s.steady := by
  unfold openLanes; split
  · rfl
  · refine foldl_steady _ (fun st x => ?_) _ _
    split
    · simp
    · rename_i eq; simp [connectOut_some eq]

@[simp] theorem exportGo_steady (n : Nat) (s : State) : (exportGo n s).steady = s.steady := by
  unfold exportGo; (try dsimp only) <;> (repeat' split) <;> first | (simp [steady_fields]; done) | ((try simp); grind [modifyRun_steady, streamFrames_steady, exportOver_steady, openLanes_steady, streamFrames_pair]) | (simp_all [steady_fields]; done)

@[simp] theorem exportSnapped_steady (n kind id num : Nat) (s : State) : (exportSnapped n kind id num s).steady = s.steady := by
  unfold exportSnapped; simp

@[simp] theorem exportAnswered_steady (fwd : Nat) (st : Status) (result : Bytes) (s : State) : (exportAnswered fwd st result s).steady = s.steady := by
  unfold exportAnswered; first | (simp [steady_fields]; done) | ((try simp); (repeat' split) <;> simp_all [steady_fields]; done)

@[simp] theorem laneConnected_steady (q : Nat) (s : State) : (laneConnected q s).steady = s.steady := by
  unfold laneConnected; first | (simp [steady_fields]; done) | ((try simp); (repeat' split) <;> simp_all [steady_fields]; done)

@[simp] theorem laneAcked_steady (q tag : Nat) (s : State) : (laneAcked q tag s).steady = s.steady := by
  unfold laneAcked; first | (simp [steady_fields]; done) | ((try simp); (repeat' split) <;> simp_all [steady_fields]; done)

@[simp] theorem laneGone_steady (q : Nat) (s : State) : (laneGone q s).steady = s.steady := by
  unfold laneGone; first | (simp [steady_fields]; done) | ((try simp); (repeat' split) <;> simp_all [steady_fields]; done)

theorem beginSnaps_steady (n : Nat) (p : McPacket) (scopes : List (Nat × Nat)) (s : State) : ∀ r, beginSnaps n p scopes s = some r → r.steady = s.steady := by
  intro r h; unfold beginSnaps at h; dsimp only at h
  refine Exists.elim (foldl_steady_option _ ?_ _ _ _ h) ?_
  · intro a x r h
    cases a with
    | none => cases h
    | some st =>
      refine ⟨st, rfl, ?_⟩
      dsimp only [Option.bind] at h
      split at h
      · cases h
      · split at h
        · cases eq : beginSnap x.1 x.2 (stampBarrier s).1 (some n) none st with
          | none => rw [eq] at h; cases h
          | some r0 => rw [eq] at h; cases h; exact beginSnap_steady _ _ _ _ _ _ _ eq
        · cases h; simp
  · rintro st ⟨hs, hk⟩
    cases hs; simpa using hk

theorem beginSnaps_some {n : Nat} {p : McPacket} {scopes : List (Nat × Nat)} {s : State} {last : State} (eq : beginSnaps n p scopes s = some last) : last.steady = s.steady :=
  beginSnaps_steady n p scopes s _ eq

@[simp] theorem migrateExport_steady (p : McPacket) (s : State) : (migrateExport p s).2.steady = s.steady := by
  unfold migrateExport; (try dsimp only) <;> (repeat' split) <;> first | (simp [steady_fields]; done) | ((try simp); grind [refuse_steady, ok_steady, modifyRepl_steady, exportGo_steady, beginSnaps_steady, refuse_pair, ok_pair, beginSnaps_some]) | (simp_all [steady_fields]; done)

theorem migrateExport_pair {p : McPacket} {s : State} {r0 : _} {last : State} (eq : migrateExport p s = (r0, last)) : last.steady = s.steady := by
  have k := migrateExport_steady p s; rwa [eq] at k

theorem execMigrateExport_steady (p : McPacket) (s : State) : ∃ t, execMigrateExport p s = .next t ∧ t.steady = s.steady := by
  exact ⟨_, rfl, by simp⟩

@[simp] theorem migrateStatus_steady (p : McPacket) (s : State) : (migrateStatus p s).2.steady = s.steady := by
  unfold migrateStatus; first | (simp [steady_fields]; done) | ((try simp); (repeat' split) <;> simp_all [steady_fields]; done)

theorem migrateStatus_pair {p : McPacket} {s : State} {r0 : _} {last : State} (eq : migrateStatus p s = (r0, last)) : last.steady = s.steady := by
  have k := migrateStatus_steady p s; rwa [eq] at k

theorem execMigrateStatus_steady (p : McPacket) (s : State) : ∃ t, execMigrateStatus p s = .next t ∧ t.steady = s.steady := by
  exact ⟨_, rfl, by simp⟩

@[simp] theorem migrateStop_steady (p : McPacket) (s : State) : (migrateStop p s).2.steady = s.steady := by
  unfold migrateStop; first | (simp [steady_fields]; done) | ((try simp); (repeat' split) <;> simp_all [steady_fields]; done)

theorem migrateStop_pair {p : McPacket} {s : State} {r0 : _} {last : State} (eq : migrateStop p s = (r0, last)) : last.steady = s.steady := by
  have k := migrateStop_steady p s; rwa [eq] at k

theorem execMigrateStop_steady (p : McPacket) (s : State) : ∃ t, execMigrateStop p s = .next t ∧ t.steady = s.steady := by
  exact ⟨_, rfl, by simp⟩

theorem execExportStallTimeout_steady (number : Nat) (s : State) : ∃ t, execExportStallTimeout number s = .next t ∧ t.steady = s.steady := by
  exact ⟨_, rfl, by simp⟩

@[simp] theorem snapDrained_steady (job : Nat) (s : State) : (snapDrained job s).steady = s.steady := by
  unfold snapDrained; first | (simp [steady_fields]; done) | ((try simp); (repeat' split) <;> simp_all [steady_fields]; done)

theorem execSnapBarrierDrained_steady (job : Nat) (s : State) : ∃ t, execSnapBarrierDrained job s = .next t ∧ t.steady = s.steady := by
  exact ⟨_, rfl, by simp⟩

end Sys2Proof.Machine
end

