-- ==== Sys2Proof/Laws/Steady/Transport.lean ====
section
/-! SUPPORT. What `Machine/Transport.lean` changes leaves the steady fields as they are. -/

namespace Sys2Proof.Machine

@[simp] theorem serviceGone_steady (v : Service) (q : Nat) (s : State) : (serviceGone v q s).steady = s.steady := by
  unfold serviceGone; first | (simp [steady_fields]; done) | ((try simp); (repeat' split) <;> simp_all [steady_fields]; done)

@[simp] theorem serviceUp_steady (v : Service) (q : Nat) (s : State) : (serviceUp v q s).steady = s.steady := by
  unfold serviceUp; first | (simp [steady_fields]; done) | ((try simp); (repeat' split) <;> simp_all [steady_fields]; done)

@[simp] theorem takeDone_steady (s : State) (d : QpDone) : (takeDone s d).steady = s.steady := by
  unfold takeDone; first | (simp [steady_fields]; done) | ((try simp); (repeat' split) <;> simp_all [steady_fields]; done)

@[simp] theorem takeDones_steady (r : List QpDone × State) : (takeDones r).steady = r.2.steady := by
  unfold takeDones; simp

@[simp] theorem endStray_steady (q : Nat) (s : State) : (endStray q s).steady = s.steady := by
  unfold endStray; first | (simp [steady_fields]; done) | ((try simp); (repeat' split) <;> simp_all [steady_fields]; done)

@[simp] theorem packetRow_steady (h : RoceHead) (b : RoceBody) (s : State) : (packetRow h b s).steady = s.steady := by
  unfold packetRow; dsimp only; split <;> simp

theorem execSend_steady (head : RoceHead) (pos : MsgPos) (payload : Bytes) (s : State) : ∃ t, execSend head pos payload s = .next t ∧ t.steady = s.steady := by
  exact ⟨_, rfl, by simp⟩

theorem execSendWithInvalidate_steady (head : RoceHead) (pos : MsgPos) (key : Nat) (payload : Bytes) (s : State) : ∃ t, execSendWithInvalidate head pos key payload s = .next t ∧ t.steady = s.steady := by
  exact ⟨_, rfl, by simp⟩

theorem execRdmaWrite_steady (head : RoceHead) (pos : MsgPos) (header : Option WriteHeader) (payload : Bytes) (s : State) : ∃ t, execRdmaWrite head pos header payload s = .next t ∧ t.steady = s.steady := by
  exact ⟨_, rfl, by simp⟩

theorem execRdmaReadRequest_steady (head : RoceHead) (s : State) : ∃ t, execRdmaReadRequest head s = .next t ∧ t.steady = s.steady := by
  exact ⟨_, rfl, by simp⟩

theorem execRdmaReadResponse_steady (head : RoceHead) (pos : MsgPos) (payload : Bytes) (s : State) : ∃ t, execRdmaReadResponse head pos payload s = .next t ∧ t.steady = s.steady := by
  exact ⟨_, rfl, by simp⟩

theorem execAcknowledge_steady (head : RoceHead) (kind : AckKind) (s : State) : ∃ t, execAcknowledge head kind s = .next t ∧ t.steady = s.steady := by
  exact ⟨_, rfl, by simp⟩

theorem execCnp_steady (head : RoceHead) (s : State) : ∃ t, execCnp head s = .next t ∧ t.steady = s.steady := by
  exact ⟨_, rfl, by simp⟩

theorem execRocePacketOther_steady (head : RoceHead) (opcode : Nat) (s : State) : ∃ t, execRocePacketOther head opcode s = .next t ∧ t.steady = s.steady := by
  exact ⟨_, rfl, by simp⟩

theorem execRetransmitTimer_steady (qp : Nat) (s : State) : ∃ t, execRetransmitTimer qp s = .next t ∧ t.steady = s.steady := by
  exact ⟨_, rfl, by simp⟩

theorem execRnrDelayEnd_steady (qp : Nat) (s : State) : ∃ t, execRnrDelayEnd qp s = .next t ∧ t.steady = s.steady := by
  exact ⟨_, rfl, by simp⟩

theorem execAckCoalesceTimer_steady (qp : Nat) (s : State) : ∃ t, execAckCoalesceTimer qp s = .next t ∧ t.steady = s.steady := by
  exact ⟨_, rfl, by simp⟩

theorem execContextFetchDone_steady (qp : Nat) (s : State) : ∃ t, execContextFetchDone qp s = .next t ∧ t.steady = s.steady := by
  exact ⟨_, rfl, by simp⟩

theorem execStubFetchDone_steady (quadrant : Nat) (s : State) : ∃ t, execStubFetchDone quadrant s = .next t ∧ t.steady = s.steady := by
  exact ⟨_, rfl, by simp⟩

@[simp] theorem subPortUp_steady (l : Nat) (s : State) : (subPortUp l s).steady = s.steady := by
  unfold subPortUp; simp

theorem execSubPortUp_steady (lport : Nat) (s : State) : ∃ t, execSubPortUp lport s = .next t ∧ t.steady = s.steady := by
  exact ⟨_, rfl, by simp⟩

theorem execSubPortDown_steady (lport : Nat) (s : State) : ∃ t, execSubPortDown lport s = .next t ∧ t.steady = s.steady := by
  exact ⟨_, rfl, by simp⟩

theorem execPortLinkDown_steady (lport : Nat) (s : State) : ∃ t, execPortLinkDown lport s = .next t ∧ t.steady = s.steady := by
  exact ⟨_, rfl, by simp⟩

@[simp] theorem frameRow_steady (h : FrameHead) (groups : List Nat) (f : Nat → State → State) (s : State) (hf : ∀ (x0 : Nat) (x1 : State), (f x0 x1).steady = (x1).steady) : (frameRow h groups f s).steady = s.steady := by
  unfold frameRow; simp [steady_fields, hf]

@[simp] theorem answerResolution_steady (sender target mac l : Nat) (s : State) : (answerResolution sender target mac l s).steady = s.steady := by
  unfold answerResolution; simp

@[simp] theorem resolutionAnswer_steady (addr mac l : Nat) (s : State) : (resolutionAnswer addr mac l s).steady = s.steady := by
  unfold resolutionAnswer; first | (simp [steady_fields]; done) | ((try simp); (repeat' split) <;> simp_all [steady_fields]; done)

theorem execArpRequest_steady (head : FrameHead) (sender target : Nat) (s : State) : ∃ t, execArpRequest head sender target s = .next t ∧ t.steady = s.steady := by
  exact ⟨_, rfl, by simp⟩

theorem execArpReply_steady (head : FrameHead) (address mac : Nat) (s : State) : ∃ t, execArpReply head address mac s = .next t ∧ t.steady = s.steady := by
  exact ⟨_, rfl, by simp⟩

theorem execNeighbourSolicitation_steady (head : FrameHead) (sender target : Nat) (s : State) : ∃ t, execNeighbourSolicitation head sender target s = .next t ∧ t.steady = s.steady := by
  exact ⟨_, rfl, by simp⟩

theorem execNeighbourAdvertisement_steady (head : FrameHead) (address mac : Nat) (s : State) : ∃ t, execNeighbourAdvertisement head address mac s = .next t ∧ t.steady = s.steady := by
  exact ⟨_, rfl, by simp⟩

@[simp] theorem answerEcho_steady (sender target : Nat) (payload : Bytes) (l : Nat) (s : State) : (answerEcho sender target payload l s).steady = s.steady := by
  unfold answerEcho; simp

theorem execIcmpEchoRequest_steady (head : FrameHead) (sender target : Nat) (payload : Bytes) (s : State) : ∃ t, execIcmpEchoRequest head sender target payload s = .next t ∧ t.steady = s.steady := by
  exact ⟨_, rfl, by simp⟩

@[simp] theorem pauseOver_steady (l prio : Nat) (s : State) : (pauseOver l prio s).steady = s.steady := by
  unfold pauseOver; simp

@[simp] theorem pfcFrame_steady (l prio quanta : Nat) (s : State) : (pfcFrame l prio quanta s).steady = s.steady := by
  unfold pfcFrame; simp

theorem execPfcFrame_steady (lport priority quanta : Nat) (s : State) : ∃ t, execPfcFrame lport priority quanta s = .next t ∧ t.steady = s.steady := by
  exact ⟨_, rfl, by simp⟩

theorem execPfcPauseEnd_steady (lport priority : Nat) (s : State) : ∃ t, execPfcPauseEnd lport priority s = .next t ∧ t.steady = s.steady := by
  exact ⟨_, rfl, by simp⟩

theorem execPfcRefresh_steady (lport priority occupancy : Nat) (s : State) : ∃ t, execPfcRefresh lport priority occupancy s = .next t ∧ t.steady = s.steady := by
  exact ⟨_, rfl, by simp⟩

theorem execPfcStormTimer_steady (lport priority : Nat) (sent : Bool) (s : State) : ∃ t, execPfcStormTimer lport priority sent s = .next t ∧ t.steady = s.steady := by
  exact ⟨_, rfl, by simp⟩

theorem execFecWindow_steady (lport corrected uncorrectable : Nat) (s : State) : ∃ t, execFecWindow lport corrected uncorrectable s = .next t ∧ t.steady = s.steady := by
  exact ⟨_, rfl, by simp⟩

theorem execCtxPressureWindow_steady (quadrant : Nat) (s : State) : ∃ t, execCtxPressureWindow quadrant s = .next t ∧ t.steady = s.steady := by
  exact ⟨_, rfl, by simp⟩

@[simp] theorem reject_steady (r : CmRequest) (reason : Nat) (priv : Bytes) (s : State) : (reject r reason priv s).steady = s.steady := by
  unfold reject; simp

@[simp] theorem sendRep_steady (c : QpCtx) (s : State) : (sendRep c s).steady = s.steady := by
  unfold sendRep; simp

@[simp] theorem acceptReq_steady (v : Service) (r : CmRequest) (gid buffers : Nat) (priv : Bytes) (enter : Nat → State → State) (s : State) (henter : ∀ (x0 : Nat) (x1 : State), (enter x0 x1).steady = (x1).steady) : (acceptReq v r gid buffers priv enter s).steady = s.steady := by
  unfold acceptReq; (try dsimp only) <;> (repeat' split) <;> first | (simp [steady_fields, henter]; done) | ((try simp [henter]); grind [modifyQp_steady, qpPost_steady, allocQp_steady, reject_steady, sendRep_steady, allocQp_some]) | (simp_all [steady_fields]; done)

@[simp] theorem takeReq_steady (r : CmRequest) (s : State) : (takeReq r s).steady = s.steady := by
  unfold takeReq; first | (simp [steady_fields]; done) | ((try simp); (repeat' split) <;> simp_all [steady_fields]; done)

theorem execReq_steady (request : CmRequest) (s : State) : ∃ t, execReq request s = .next t ∧ t.steady = s.steady := by
  exact ⟨_, rfl, by simp⟩

theorem execMra_steady (commId timeout : Nat) (s : State) : ∃ t, execMra commId timeout s = .next t ∧ t.steady = s.steady := by
  refine ⟨_, rfl, ?_⟩; first | (simp [steady_fields]; done) | ((try simp); (repeat' split) <;> simp_all [steady_fields]; done)

@[simp] theorem neverConnected_steady (c : QpCtx) (s : State) : (neverConnected c s).steady = s.steady := by
  unfold neverConnected; simp

theorem execRej_steady (commId _reason : Nat) (s : State) : ∃ t, execRej commId _reason s = .next t ∧ t.steady = s.steady := by
  refine ⟨_, rfl, ?_⟩; first | (simp [steady_fields]; done) | ((try simp); (repeat' split) <;> simp_all [steady_fields]; done)

@[simp] theorem takeRep_steady (r : CmReply) (s : State) : (takeRep r s).steady = s.steady := by
  unfold takeRep; first | (simp [steady_fields]; done) | ((try simp); (repeat' split) <;> simp_all [steady_fields]; done)

theorem execRep_steady (reply : CmReply) (s : State) : ∃ t, execRep reply s = .next t ∧ t.steady = s.steady := by
  exact ⟨_, rfl, by simp⟩

theorem execRtu_steady (commId : Nat) (s : State) : ∃ t, execRtu commId s = .next t ∧ t.steady = s.steady := by
  refine ⟨_, rfl, ?_⟩; first | (simp [steady_fields]; done) | ((try simp); (repeat' split) <;> simp_all [steady_fields]; done)

@[simp] theorem takeDreq_steady (commId remoteId : Nat) (s : State) : (takeDreq commId remoteId s).steady = s.steady := by
  unfold takeDreq; first | (simp [steady_fields]; done) | ((try simp); (repeat' split) <;> simp_all [steady_fields]; done)

theorem execDreq_steady (commId remoteId : Nat) (s : State) : ∃ t, execDreq commId remoteId s = .next t ∧ t.steady = s.steady := by
  exact ⟨_, rfl, by simp⟩

@[simp] theorem closingDone_steady (c : QpCtx) (s : State) : (closingDone c s).steady = s.steady := by
  unfold closingDone; simp

theorem execDrep_steady (commId : Nat) (s : State) : ∃ t, execDrep commId s = .next t ∧ t.steady = s.steady := by
  refine ⟨_, rfl, ?_⟩; first | (simp [steady_fields]; done) | ((try simp); (repeat' split) <;> simp_all [steady_fields]; done)

theorem execRepResendTimer_steady (qp : Nat) (s : State) : ∃ t, execRepResendTimer qp s = .next t ∧ t.steady = s.steady := by
  refine ⟨_, rfl, ?_⟩; first | (simp [steady_fields]; done) | ((try simp); (repeat' split) <;> simp_all [steady_fields]; done)

theorem execDreqTimeout_steady (qp : Nat) (s : State) : ∃ t, execDreqTimeout qp s = .next t ∧ t.steady = s.steady := by
  refine ⟨_, rfl, ?_⟩; first | (simp [steady_fields]; done) | ((try simp); (repeat' split) <;> simp_all [steady_fields]; done)

theorem execReqTimeout_steady (qp : Nat) (s : State) : ∃ t, execReqTimeout qp s = .next t ∧ t.steady = s.steady := by
  refine ⟨_, rfl, ?_⟩; first | (simp [steady_fields]; done) | ((try simp); (repeat' split) <;> simp_all [steady_fields]; done)

theorem execQpReuseDelay_steady (qp : Nat) (s : State) : ∃ t, execQpReuseDelay qp s = .next t ∧ t.steady = s.steady := by
  exact ⟨_, rfl, by simp⟩

@[simp] theorem closeAll_steady (p : QpCtx → Bool) (s : State) : (closeAll p s).steady = s.steady := by
  unfold closeAll; simp

@[simp] theorem zoneForget_steady (z : Zone) (off len : Nat) (s : State) : (zoneForget z off len s).steady = s.steady := by
  unfold zoneForget; refine foldl_steady _ (fun st i => ?_) _ _
  dsimp only; split
  · split <;> simp
  · rfl

@[simp] theorem abandonWrite_steady (q : Nat) (s : State) : (abandonWrite q s).steady = s.steady := by
  unfold abandonWrite; first | (simp [steady_fields]; done) | ((try simp); (repeat' split) <;> simp_all [steady_fields]; done)

theorem execLzMsgTimeout_steady (qp : Nat) (s : State) : ∃ t, execLzMsgTimeout qp s = .next t ∧ t.steady = s.steady := by
  exact ⟨_, rfl, by simp⟩

theorem execLzRevokeDone_steady (zone : Nat) (s : State) : ∃ t, execLzRevokeDone zone s = .next t ∧ t.steady = s.steady := by
  unfold execLzRevokeDone; (repeat' split) <;> refine ⟨_, rfl, ?_⟩ <;> (try dsimp only) <;> (repeat' split) <;> first | (simp [steady_fields]; done) | ((try simp); grind [zoneDone_steady, zoneTaken_steady, zoneDone_some]) | (simp_all [steady_fields]; done)

@[simp] theorem portStatus_steady (p : McPacket) (s : State) : (portStatus p s).2.steady = s.steady := by
  unfold portStatus; simp

theorem portStatus_pair {p : McPacket} {s : State} {r0 : _} {last : State} (eq : portStatus p s = (r0, last)) : last.steady = s.steady := by
  have k := portStatus_steady p s; rwa [eq] at k

theorem execPortStatus_steady (p : McPacket) (s : State) : ∃ t, execPortStatus p s = .next t ∧ t.steady = s.steady := by
  exact ⟨_, rfl, by simp⟩

@[simp] theorem qpInfo_steady (p : McPacket) (s : State) : (qpInfo p s).2.steady = s.steady := by
  unfold qpInfo; first | (simp [steady_fields]; done) | ((try simp); (repeat' split) <;> simp_all [steady_fields]; done)

theorem qpInfo_pair {p : McPacket} {s : State} {r0 : _} {last : State} (eq : qpInfo p s = (r0, last)) : last.steady = s.steady := by
  have k := qpInfo_steady p s; rwa [eq] at k

theorem execQpInfo_steady (p : McPacket) (s : State) : ∃ t, execQpInfo p s = .next t ∧ t.steady = s.steady := by
  exact ⟨_, rfl, by simp⟩

end Sys2Proof.Machine
end

