-- ==== Sys2Proof/Laws/Steady/Almanac.lean ====
section
/-! SUPPORT. What `Machine/Almanac.lean` changes leaves the steady fields as they are. -/

namespace Sys2Proof.Machine

@[simp] theorem modifyAlm_steady (f : AlmPart → AlmPart) (s : State) : (modifyAlm f s).steady = s.steady := by
  unfold modifyAlm; simp [steady_fields]

@[simp] theorem takeSlot_steady (slot : Nat) (s : State) : (takeSlot slot s).steady = s.steady := by
  unfold takeSlot; simp

@[simp] theorem almDrain_steady (s : State) : (almDrain s).steady = s.steady := by
  unfold almDrain; simp

theorem execAlmanacFlushTimer_steady (s : State) : ∃ t, execAlmanacFlushTimer s = .next t ∧ t.steady = s.steady := by
  exact ⟨_, rfl, by simp⟩

@[simp] theorem almRemove_steady (upTo : Nat) (s : State) : (almRemove upTo s).steady = s.steady := by
  unfold almRemove; simp

@[simp] theorem recordPersisted_steady (s : State) (r : AlmRecord) : (recordPersisted s r).steady = s.steady := by
  unfold recordPersisted; simp

@[simp] theorem tellLoss_steady (s : State) : (tellLoss s).steady = s.steady := by
  unfold tellLoss; simp

@[simp] theorem copiesPersisted_steady (s : State) : (copiesPersisted s).steady = s.steady := by
  unfold copiesPersisted; first | (simp [steady_fields]; done) | ((try simp); (repeat' split) <;> simp_all [steady_fields]; done)

@[simp] theorem almUnitDone_steady (slot : Nat) (s : State) : (almUnitDone slot s).steady = s.steady := by
  unfold almUnitDone; first | (simp [steady_fields]; done) | ((try simp); (repeat' split) <;> simp_all [steady_fields]; done)

@[simp] theorem almUnits_steady (units : List MetaUnit) (s : State) : (almUnits units s).steady = s.steady := by
  unfold almUnits; exact foldl_steady _ (fun st u => by split <;> simp) _ _

theorem execTimeMarkTimer_steady (s : State) : ∃ t, execTimeMarkTimer s = .next t ∧ t.steady = s.steady := by
  exact ⟨_, rfl, by simp⟩

@[simp] theorem reserveWrite_steady (r : AlmRecord) (s : State) : (reserveWrite r s).steady = s.steady := by
  unfold reserveWrite; simp

@[simp] theorem stopRecord_steady (type : Nat) (payload : Bytes) (s : State) : (stopRecord type payload s).2.steady = s.steady := by
  unfold stopRecord; simp

theorem stopRecord_pair {type : Nat} {payload : Bytes} {s : State} {r0 : _} {last : State} (eq : stopRecord type payload s = (r0, last)) : last.steady = s.steady := by
  have k := stopRecord_steady type payload s; rwa [eq] at k

@[simp] theorem reserveForm_steady (type : Nat) (payload : Bytes) (s : State) : (reserveForm type payload s).steady = s.steady := by
  unfold reserveForm; simp

@[simp] theorem flushStop_steady (s : State) : (flushStop s).steady = s.steady := by
  unfold flushStop; first | (simp [steady_fields]; done) | ((try simp); (repeat' split) <;> simp_all [steady_fields]; done)

@[simp] theorem resumeTime_steady (checkpointTime : Nat) (s : State) : (resumeTime checkpointTime s).steady = s.steady := by
  unfold resumeTime; simp [steady_fields]

@[simp] theorem copyEarly_steady (rs : List (Nat × AlmRecord)) (s : State) : (copyEarly rs s).steady = s.steady := by
  unfold copyEarly; simp

@[simp] theorem almanacResume_steady (fresh : Bool) (s : State) : (almanacResume fresh s).steady = s.steady := by
  unfold almanacResume; dsimp only; split
  · split <;> simp [steady_fields]
  · simp only [almStage_steady]; split <;> simp [steady_fields]

@[simp] theorem almanacStatus_steady (p : McPacket) (s : State) : (almanacStatus p s).2.steady = s.steady := by
  unfold almanacStatus; simp

theorem almanacStatus_pair {p : McPacket} {s : State} {r0 : _} {last : State} (eq : almanacStatus p s = (r0, last)) : last.steady = s.steady := by
  have k := almanacStatus_steady p s; rwa [eq] at k

theorem execAlmanacStatus_steady (p : McPacket) (s : State) : ∃ t, execAlmanacStatus p s = .next t ∧ t.steady = s.steady := by
  exact ⟨_, rfl, by simp⟩

@[simp] theorem raiseReadMark_steady (p : McPacket) (fit : List (AlmRecord × Bytes)) (s : State) : (raiseReadMark p fit s).steady = s.steady := by
  unfold raiseReadMark; simp

@[simp] theorem almanacRead_steady (p : McPacket) (s : State) : (almanacRead p s).2.steady = s.steady := by
  unfold almanacRead; simp

theorem almanacRead_pair {p : McPacket} {s : State} {r0 : _} {last : State} (eq : almanacRead p s = (r0, last)) : last.steady = s.steady := by
  have k := almanacRead_steady p s; rwa [eq] at k

theorem execAlmanacRead_steady (p : McPacket) (s : State) : ∃ t, execAlmanacRead p s = .next t ∧ t.steady = s.steady := by
  exact ⟨_, rfl, by simp⟩

@[simp] theorem almanacClear_steady (p : McPacket) (s : State) : (almanacClear p s).2.steady = s.steady := by
  unfold almanacClear; simp

theorem almanacClear_pair {p : McPacket} {s : State} {r0 : _} {last : State} (eq : almanacClear p s = (r0, last)) : last.steady = s.steady := by
  have k := almanacClear_steady p s; rwa [eq] at k

theorem execAlmanacClear_steady (p : McPacket) (s : State) : ∃ t, execAlmanacClear p s = .next t ∧ t.steady = s.steady := by
  exact ⟨_, rfl, by simp⟩

end Sys2Proof.Machine
end

