-- ==== Sys2Proof/Laws/Steady/Granary.lean ====
section
/-! SUPPORT. What `Machine/Granary.lean` changes leaves the steady fields as they are. -/

namespace Sys2Proof.Machine

theorem execAlloc_steady (unit : Nat) (epoch : Option EpochRef) (arena len : Nat) (badLink : Bool) (s : State) : ∃ t, execAlloc unit epoch arena len badLink s = .next t ∧ t.steady = s.steady := by
  exact ⟨_, rfl, by simp⟩

@[simp] theorem gShare_steady (unit h receiver : Nat) (ticket : Option EpochRef) (s : State) : (gShare unit h receiver ticket s).steady = s.steady := by
  unfold gShare; first | (simp [steady_fields]; done) | ((try simp); (repeat' split) <;> simp_all [steady_fields]; done)

theorem execShare_steady (unit handle receiver : Nat) (ticket : Option EpochRef) (s : State) : ∃ t, execShare unit handle receiver ticket s = .next t ∧ t.steady = s.steady := by
  exact ⟨_, rfl, by simp⟩

theorem execGranaryRelease_steady (unit handle : Nat) (ticket : Option EpochRef) (s : State) : ∃ t, execGranaryRelease unit handle ticket s = .next t ∧ t.steady = s.steady := by
  exact ⟨_, rfl, by simp⟩

@[simp] theorem allocWaitLong_steady (arena pool : Nat) (s : State) : (allocWaitLong arena pool s).steady = s.steady := by
  unfold allocWaitLong; first | (simp [steady_fields]; done) | ((try simp); (repeat' split) <;> simp_all [steady_fields]; done)

theorem execAllocWaitLong_steady (arena pool : Nat) (s : State) : ∃ t, execAllocWaitLong arena pool s = .next t ∧ t.steady = s.steady := by
  exact ⟨_, rfl, by simp⟩

@[simp] theorem listRebuild_steady (arena pool : Nat) (s : State) : (listRebuild arena pool s).steady = s.steady := by
  unfold listRebuild; simp

theorem execListRebuildDone_steady (arena pool : Nat) (s : State) : ∃ t, execListRebuildDone arena pool s = .next t ∧ t.steady = s.steady := by
  exact ⟨_, rfl, by simp⟩

theorem execGranaryStatus_steady (p : McPacket) (s : State) : ∃ t, execGranaryStatus p s = .next t ∧ t.steady = s.steady := by
  exact ⟨_, rfl, by simp⟩

@[simp] theorem granaryHeaderRead_steady (p : McPacket) (s : State) : (granaryHeaderRead p s).2.steady = s.steady := by
  unfold granaryHeaderRead; simp

theorem granaryHeaderRead_pair {p : McPacket} {s : State} {r0 : _} {last : State} (eq : granaryHeaderRead p s = (r0, last)) : last.steady = s.steady := by
  have k := granaryHeaderRead_steady p s; rwa [eq] at k

theorem execGranaryHeaderRead_steady (p : McPacket) (s : State) : ∃ t, execGranaryHeaderRead p s = .next t ∧ t.steady = s.steady := by
  exact ⟨_, rfl, by simp⟩

end Sys2Proof.Machine
end

