-- ==== Sys2Proof/Laws/Steady/Dma.lean ====
section
/-! SUPPORT. What `Machine/Dma.lean` changes leaves the steady fields as they are. -/

namespace Sys2Proof.Machine

@[simp] theorem modifyDma_steady (c : Nat) (f : DmaChannel → DmaChannel) (s : State) : (modifyDma c f s).steady = s.steady := by
  unfold modifyDma; simp [steady_fields]

@[simp] theorem dmaFetchNext_steady (c : Nat) (f : Option DmaFetch) (s : State) : (dmaFetchNext c f s).steady = s.steady := by
  unfold dmaFetchNext; first | (simp [steady_fields]; done) | ((try simp); (repeat' split) <;> simp_all [steady_fields]; done)

@[simp] theorem spaceRead_steady (space addr len : Nat) (host : Bytes) (s : State) : (spaceRead space addr len host s).2.steady = s.steady := by
  unfold spaceRead; first | (simp [steady_fields]; done) | ((try simp); (repeat' split) <;> simp_all [steady_fields]; done)

theorem spaceRead_pair {space addr len : Nat} {host : Bytes} {s : State} {r0 : _} {last : State} (eq : spaceRead space addr len host s = (r0, last)) : last.steady = s.steady := by
  have k := spaceRead_steady space addr len host s; rwa [eq] at k

@[simp] theorem spaceWrite_steady (space addr : Nat) (bytes : Bytes) (s : State) : (spaceWrite space addr bytes s).steady = s.steady := by
  unfold spaceWrite; first | (simp [steady_fields]; done) | ((try simp); (repeat' split) <;> simp_all [steady_fields]; done)

@[simp] theorem spaceForget_steady (space addr len : Nat) (s : State) : (spaceForget space addr len s).steady = s.steady := by
  unfold spaceForget; first | (simp [steady_fields]; done) | ((try simp); (repeat' split) <;> simp_all [steady_fields]; done)

@[simp] theorem dmaEnd_steady (c : Nat) (d : DmaDescriptor) (code : Status) (detail : Nat) (equal : Bool) (count : Nat) (next : Option DmaFetch) (s : State) : (dmaEnd c d code detail equal count next s).steady = s.steady := by
  unfold dmaEnd; simp

@[simp] theorem dmaMove_steady (c : Nat) (d : DmaDescriptor) (data : Bytes) (ctx : DmaContext) (s : State) : (dmaMove c d data ctx s).steady = s.steady := by
  unfold dmaMove; first | (simp [steady_fields]; done) | ((try simp); (repeat' split) <;> simp_all [steady_fields]; done)

@[simp] theorem dmaCompare_steady (c : Nat) (d : DmaDescriptor) (a b : Bytes) (ctx : DmaContext) (s : State) : (dmaCompare c d a b ctx s).steady = s.steady := by
  unfold dmaCompare; first | (simp [steady_fields]; done) | ((try simp); (repeat' split) <;> simp_all [steady_fields]; done)

@[simp] theorem dmaRun_steady (op c : Nat) (ctx : DmaContext) (s : State) : (dmaRun op c ctx s).steady = s.steady := by
  unfold dmaRun; first | (simp [steady_fields]; done) | ((try simp); (repeat' split) <;> simp_all [steady_fields]; done)

theorem execCopy_steady (channel : Nat) (ctx : DmaContext) (s : State) : ∃ t, execCopy channel ctx s = .next t ∧ t.steady = s.steady := by
  exact ⟨_, rfl, by simp⟩

theorem execFill_steady (channel : Nat) (ctx : DmaContext) (s : State) : ∃ t, execFill channel ctx s = .next t ∧ t.steady = s.steady := by
  exact ⟨_, rfl, by simp⟩

theorem execDmaCompare_steady (channel : Nat) (ctx : DmaContext) (s : State) : ∃ t, execDmaCompare channel ctx s = .next t ∧ t.steady = s.steady := by
  exact ⟨_, rfl, by simp⟩

@[simp] theorem dmaTail_steady (c tail : Nat) (f : Option DmaFetch) (s : State) : (dmaTail c tail f s).steady = s.steady := by
  unfold dmaTail; simp

@[simp] theorem toChannel_steady (c : Nat) (f : State → State) (s : State) (hf : ∀ (x0 : State), (f x0).steady = (x0).steady) : (toChannel c f s).steady = s.steady := by
  unfold toChannel; simp [steady_fields, hf]

theorem execDmaDoorbell_steady (channel tail : Nat) (fetched : Option DmaFetch) (s : State) : ∃ t, execDmaDoorbell channel tail fetched s = .next t ∧ t.steady = s.steady := by
  exact ⟨_, rfl, by simp⟩

@[simp] theorem dmaEnable_steady (c : Nat) (f : Option DmaFetch) (s : State) : (dmaEnable c f s).steady = s.steady := by
  unfold dmaEnable; simp

theorem execDmaEnable_steady (channel : Nat) (fetched : Option DmaFetch) (s : State) : ∃ t, execDmaEnable channel fetched s = .next t ∧ t.steady = s.steady := by
  exact ⟨_, rfl, by simp⟩

@[simp] theorem dmaDisable_steady (c : Nat) (s : State) : (dmaDisable c s).steady = s.steady := by
  unfold dmaDisable; first | (simp [steady_fields]; done) | ((try simp); (repeat' split) <;> simp_all [steady_fields]; done)

theorem execDmaDisable_steady (channel : Nat) (s : State) : ∃ t, execDmaDisable channel s = .next t ∧ t.steady = s.steady := by
  exact ⟨_, rfl, by simp⟩

theorem execDmaChannelIdle_steady (channel : Nat) (s : State) : ∃ t, execDmaChannelIdle channel s = .next t ∧ t.steady = s.steady := by
  exact ⟨_, rfl, by simp⟩

theorem execDmaResume_steady (channel : Nat) (fetched : Option DmaFetch) (s : State) : ∃ t, execDmaResume channel fetched s = .next t ∧ t.steady = s.steady := by
  exact ⟨_, rfl, by simp⟩

@[simp] theorem dmaStatusCmd_steady (p : McPacket) (s : State) : (dmaStatusCmd p s).2.steady = s.steady := by
  unfold dmaStatusCmd; simp

theorem dmaStatusCmd_pair {p : McPacket} {s : State} {r0 : _} {last : State} (eq : dmaStatusCmd p s = (r0, last)) : last.steady = s.steady := by
  have k := dmaStatusCmd_steady p s; rwa [eq] at k

theorem execDmaStatus_steady (p : McPacket) (s : State) : ∃ t, execDmaStatus p s = .next t ∧ t.steady = s.steady := by
  exact ⟨_, rfl, by simp⟩

@[simp] theorem dmaBufferAlloc_steady (p : McPacket) (s : State) : (dmaBufferAlloc p s).2.steady = s.steady := by
  unfold dmaBufferAlloc; (try dsimp only) <;> (repeat' split) <;> first | (simp [steady_fields]; done) | ((try simp); grind [refuse_steady, ok_steady, takeBuffer_steady, refuse_pair, ok_pair, takeBuffer_pair]) | (simp_all [steady_fields]; done)

theorem dmaBufferAlloc_pair {p : McPacket} {s : State} {r0 : _} {last : State} (eq : dmaBufferAlloc p s = (r0, last)) : last.steady = s.steady := by
  have k := dmaBufferAlloc_steady p s; rwa [eq] at k

theorem execDmaBufferAlloc_steady (p : McPacket) (s : State) : ∃ t, execDmaBufferAlloc p s = .next t ∧ t.steady = s.steady := by
  exact ⟨_, rfl, by simp⟩

@[simp] theorem dmaBufferFree_steady (p : McPacket) (s : State) : (dmaBufferFree p s).2.steady = s.steady := by
  unfold dmaBufferFree; simp

theorem dmaBufferFree_pair {p : McPacket} {s : State} {r0 : _} {last : State} (eq : dmaBufferFree p s = (r0, last)) : last.steady = s.steady := by
  have k := dmaBufferFree_steady p s; rwa [eq] at k

theorem execDmaBufferFree_steady (p : McPacket) (s : State) : ∃ t, execDmaBufferFree p s = .next t ∧ t.steady = s.steady := by
  exact ⟨_, rfl, by simp⟩

end Sys2Proof.Machine
end

