-- ==== Sys2Proof/Laws/Steady/Rows.lean ====
section
/-! SUPPORT. What `Machine/Rows.lean` changes leaves the steady fields as they are. -/

namespace Sys2Proof.Machine

@[simp] theorem configCommitted_steady (units : List MetaUnit) (s : State) : (configCommitted units s).steady = s.steady := by
  unfold configCommitted; simp [steady_fields]

@[simp] theorem afterRows_steady (s : State) : (afterRows s).steady = s.steady := by
  unfold afterRows; simp

@[simp] theorem metadataRowCommit_steady (row : Nat) (s : State) : (metadataRowCommit row s).steady = s.steady := by
  unfold metadataRowCommit; first | (simp [steady_fields]; done) | ((try simp); (repeat' split) <;> simp_all [steady_fields]; done)

theorem execMetadataRowCommit_steady (row : Nat) (s : State) : ∃ t, execMetadataRowCommit row s = .next t ∧ t.steady = s.steady := by
  exact ⟨_, rfl, by simp⟩

theorem execAlmanacUnitCommit_steady (row : Nat) (s : State) : ∃ t, execAlmanacUnitCommit row s = .next t ∧ t.steady = s.steady := by
  exact ⟨_, rfl, by simp⟩

@[simp] theorem admissionResume_steady (s : State) : (admissionResume s).steady = s.steady := by
  unfold admissionResume; simp

theorem execAdmissionResume_steady (s : State) : ∃ t, execAdmissionResume s = .next t ∧ t.steady = s.steady := by
  exact ⟨_, rfl, by simp⟩

end Sys2Proof.Machine
end

