-- ==== Sys2Proof/Laws/Steady/Resets.lean ====
section
/-! SUPPORT. What `Machine/Resets.lean` changes leaves the steady fields as they are. -/

namespace Sys2Proof.Machine

@[simp] theorem modifyBoot_steady (f : BootPart → BootPart) (s : State) (h1 : (f s.boot).resetLow = s.boot.resetLow)
    (h2 : (f s.boot).headId = s.boot.headId) : (modifyBoot f s).steady = s.steady := by
  simp only [modifyBoot, steady_mk, h1, h2]; rfl

@[simp] theorem modifyHeadland_steady (f : HeadlandPart → HeadlandPart) (s : State) : (modifyHeadland f s).steady = s.steady := by
  unfold modifyHeadland; simp [steady_fields]

@[simp] theorem ledgerWrite_steady (kind step attempt variant : Nat) (result : Status) (detail : Nat) (s : State) : (ledgerWrite kind step attempt variant result detail s).steady = s.steady := by
  unfold ledgerWrite; simp

@[simp] theorem openStep_steady (step number variant : Nat) (grace : Bool) (s : State) : (openStep step number variant grace s).steady = s.steady := by
  unfold openStep; simp [steady_fields]

@[simp] theorem closeStep_steady (result : Status) (s : State) : (closeStep result s).steady = s.steady := by
  unfold closeStep; simp

@[simp] theorem skipStep_steady (step : Nat) (s : State) : (skipStep step s).steady = s.steady := by
  unfold skipStep; simp

@[simp] theorem releaseAllLeases_steady (s : State) : (releaseAllLeases s).steady = s.steady := by
  unfold releaseAllLeases; simp

@[simp] theorem enterRecovery_steady (s : State) : (enterRecovery s).steady = s.steady := by
  unfold enterRecovery; simp

@[simp] theorem inReset_self_steady (s : State) : (inReset .self s).steady = s.steady := by
  unfold inReset
  rw [steady_mk]
  simp [keptTime, keptBoot, keptThermal, State.steady]

@[simp] theorem countUnfinished_steady (s : State) : (countUnfinished s).steady = s.steady := by
  unfold countUnfinished; first | (simp [steady_fields]; done) | ((try simp); (repeat' split) <;> simp_all [steady_fields]; done)

@[simp] theorem startUp_steady (s : State) : (startUp s).steady = s.steady := by
  unfold startUp; first | (simp [steady_fields]; done) | ((try simp); (repeat' split) <;> simp_all [steady_fields]; done)

@[simp] theorem bareReset_steady (s : State) : (bareReset s).steady = s.steady := by
  unfold bareReset; simp

@[simp] theorem selfReset_steady (s : State) : (selfReset s).steady = s.steady := by
  unfold selfReset; simp

theorem execSelfReset_steady (s : State) : ∃ t, execSelfReset s = .next t ∧ t.steady = s.steady := by
  exact ⟨_, rfl, by simp⟩

theorem execPerstN_steady (low : Bool) (s : State) : ∃ t, execPerstN low s = .next t ∧ t.steady = s.steady := by
  refine ⟨_, rfl, ?_⟩; first | (simp [steady_fields]; done) | ((try simp); (repeat' split) <;> simp_all [steady_fields]; done)

end Sys2Proof.Machine
end

