-- ==== Sys2Proof/Laws/Steady/Settings.lean ====
section
/-! SUPPORT. What `Machine/Settings.lean` changes leaves the steady fields as they are. -/

namespace Sys2Proof.Machine

@[simp] theorem storeParam_steady (id index : Nat) (v : Bytes) (s : State) : (storeParam id index v s).steady = s.steady := by
  unfold storeParam; simp [steady_fields]

@[simp] theorem pendParam_steady (id index : Nat) (v : Bytes) (s : State) : (pendParam id index v s).steady = s.steady := by
  unfold pendParam; simp [steady_fields]

@[simp] theorem takeStaging_steady (s : State) : (takeStaging s).steady = s.steady := by
  unfold takeStaging
  refine (foldl_steady _ (fun st i => by split <;> rename_i eq <;> simp [gAlloc_pair eq]) _ _).trans (by simp)

@[simp] theorem setCarve_steady (c : List Nat) (s : State) : (setCarve c s).steady = s.steady := by
  unfold setCarve; simp [steady_fields]

@[simp] theorem setPartition_steady (new : List Nat) (s : State) : (setPartition new s).steady = s.steady := by
  unfold setPartition; simp [steady_fields]

@[simp] theorem paramEffect_steady (id index : Nat) (v : Bytes) (s : State) : (paramEffect id index v s).steady = s.steady := by
  unfold paramEffect; (try dsimp only) <;> (repeat' split) <;> first | (simp [steady_fields]; done) | ((try simp); grind [modifyHarrow_steady, applyParkedSet_steady, modifyMedia_steady, checkWarnings_steady, setCarve_steady, setPartition_steady]) | (simp_all [steady_fields]; done)

@[simp] theorem applyParam_steady (id index : Nat) (v : Bytes) (s : State) : (applyParam id index v s).steady = s.steady := by
  unfold applyParam; simp

@[simp] theorem answerValue_steady (p : McPacket) (pending : Bool) (v : Bytes) (s : State) : (answerValue p pending v s).2.steady = s.steady := by
  unfold answerValue; simp

theorem answerValue_pair {p : McPacket} {pending : Bool} {v : Bytes} {s : State} {r0 : _} {last : State} (eq : answerValue p pending v s = (r0, last)) : last.steady = s.steady := by
  have k := answerValue_steady p pending v s; rwa [eq] at k

@[simp] theorem answerNone_steady (pending : Bool) (s : State) : (answerNone pending s).2.steady = s.steady := by
  unfold answerNone; simp

theorem answerNone_pair {pending : Bool} {s : State} {r0 : _} {last : State} (eq : answerNone pending s = (r0, last)) : last.steady = s.steady := by
  have k := answerNone_steady pending s; rwa [eq] at k

@[simp] theorem getParam_steady (p : McPacket) (s : State) : (getParam p s).2.steady = s.steady := by
  unfold getParam; first | (simp [steady_fields]; done) | ((try simp); (repeat' split) <;> simp_all [steady_fields]; done)

theorem getParam_pair {p : McPacket} {s : State} {r0 : _} {last : State} (eq : getParam p s = (r0, last)) : last.steady = s.steady := by
  have k := getParam_steady p s; rwa [eq] at k

theorem execGetParam_steady (p : McPacket) (s : State) : ∃ t, execGetParam p s = .next t ∧ t.steady = s.steady := by
  exact ⟨_, rfl, by simp⟩

@[simp] theorem setChecked_steady (id index : Nat) (v : Bytes) (s : State) : (setChecked id index v s).2.steady = s.steady := by
  unfold setChecked; simp

theorem setChecked_pair {id index : Nat} {v : Bytes} {s : State} {r0 : _} {last : State} (eq : setChecked id index v s = (r0, last)) : last.steady = s.steady := by
  have k := setChecked_steady id index v s; rwa [eq] at k

@[simp] theorem setAnswer_steady (id index : Nat) (v : Bytes) (s : State) : (setAnswer id index v s).2.steady = s.steady := by
  unfold setAnswer; simp

theorem setAnswer_pair {id index : Nat} {v : Bytes} {s : State} {r0 : _} {last : State} (eq : setAnswer id index v s = (r0, last)) : last.steady = s.steady := by
  have k := setAnswer_steady id index v s; rwa [eq] at k

@[simp] theorem setParam_steady (p : McPacket) (s : State) : (setParam p s).2.steady = s.steady := by
  unfold setParam; first | (simp [steady_fields]; done) | ((try simp); (repeat' split) <;> simp_all [steady_fields]; done)

theorem setParam_pair {p : McPacket} {s : State} {r0 : _} {last : State} (eq : setParam p s = (r0, last)) : last.steady = s.steady := by
  have k := setParam_steady p s; rwa [eq] at k

theorem execSetParam_steady (p : McPacket) (s : State) : ∃ t, execSetParam p s = .next t ∧ t.steady = s.steady := by
  exact ⟨_, rfl, by simp⟩

@[simp] theorem scopeParamSet_steady (p : McPacket) (s : State) : (scopeParamSet p s).2.steady = s.steady := by
  unfold scopeParamSet; first | (simp [steady_fields]; done) | ((try simp); (repeat' split) <;> simp_all [steady_fields]; done)

theorem scopeParamSet_pair {p : McPacket} {s : State} {r0 : _} {last : State} (eq : scopeParamSet p s = (r0, last)) : last.steady = s.steady := by
  have k := scopeParamSet_steady p s; rwa [eq] at k

theorem execScopeParamSet_steady (p : McPacket) (s : State) : ∃ t, execScopeParamSet p s = .next t ∧ t.steady = s.steady := by
  exact ⟨_, rfl, by simp⟩

@[simp] theorem scopeParamGet_steady (p : McPacket) (s : State) : (scopeParamGet p s).2.steady = s.steady := by
  unfold scopeParamGet; first | (simp [steady_fields]; done) | ((try simp); (repeat' split) <;> simp_all [steady_fields]; done)

theorem scopeParamGet_pair {p : McPacket} {s : State} {r0 : _} {last : State} (eq : scopeParamGet p s = (r0, last)) : last.steady = s.steady := by
  have k := scopeParamGet_steady p s; rwa [eq] at k

theorem execScopeParamGet_steady (p : McPacket) (s : State) : ∃ t, execScopeParamGet p s = .next t ∧ t.steady = s.steady := by
  exact ⟨_, rfl, by simp⟩

@[simp] theorem nowQuiesced_steady (f : Nat) (s : State) : (nowQuiesced f s).steady = s.steady := by
  unfold nowQuiesced; simp [steady_fields]

@[simp] theorem quiesceCmd_steady (p : McPacket) (s : State) : (quiesceCmd p s).2.steady = s.steady := by
  unfold quiesceCmd; simp [steady_fields]

theorem quiesceCmd_pair {p : McPacket} {s : State} {r0 : _} {last : State} (eq : quiesceCmd p s = (r0, last)) : last.steady = s.steady := by
  have k := quiesceCmd_steady p s; rwa [eq] at k

theorem execQuiesce_steady (p : McPacket) (s : State) : ∃ t, execQuiesce p s = .next t ∧ t.steady = s.steady := by
  exact ⟨_, rfl, by simp⟩

theorem execQuiesceComplete_steady (function : Nat) (s : State) : ∃ t, execQuiesceComplete function s = .next t ∧ t.steady = s.steady := by
  exact ⟨_, rfl, by simp⟩

@[simp] theorem portsResume_steady (old s : State) : (portsResume old s).steady = s.steady := by
  unfold portsResume; simp

@[simp] theorem applyPending_steady (v : ParamVal) (s : State) : (applyPending v s).steady = s.steady := by
  unfold applyPending; simp

@[simp] theorem applyPendings_steady (s : State) : (applyPendings s).2.steady = s.steady := by
  unfold applyPendings; simp [steady_fields]

theorem applyPendings_pair {s : State} {r0 : _} {last : State} (eq : applyPendings s = (r0, last)) : last.steady = s.steady := by
  have k := applyPendings_steady s; rwa [eq] at k

@[simp] theorem dmaResumeGroup_steady (g : Nat) (fetches : List (Nat × DmaFetch)) (s : State) : (dmaResumeGroup g fetches s).steady = s.steady := by
  unfold dmaResumeGroup; refine foldl_steady _ (fun st c => ?_) _ _
  split
  · rfl
  · split <;> simp

@[simp] theorem functionRuns_steady (f : Nat) (fetches : List (Nat × DmaFetch)) (s : State) : (functionRuns f fetches s).steady = s.steady := by
  unfold functionRuns; simp

@[simp] theorem resumeFunctions_steady (fs : List Nat) (fetches : List (Nat × DmaFetch)) (s : State) : (resumeFunctions fs fetches s).2.steady = s.steady := by
  unfold resumeFunctions; simp [steady_fields]

theorem resumeFunctions_pair {fs : List Nat} {fetches : List (Nat × DmaFetch)} {s : State} {r0 : _} {last : State} (eq : resumeFunctions fs fetches s = (r0, last)) : last.steady = s.steady := by
  have k := resumeFunctions_steady fs fetches s; rwa [eq] at k

@[simp] theorem resumeHead_steady (fetches : List (Nat × DmaFetch)) (s : State) : (resumeHead fetches s).2.steady = s.steady := by
  unfold resumeHead; simp

theorem resumeHead_pair {fetches : List (Nat × DmaFetch)} {s : State} {r0 : _} {last : State} (eq : resumeHead fetches s = (r0, last)) : last.steady = s.steady := by
  have k := resumeHead_steady fetches s; rwa [eq] at k

@[simp] theorem resumeCmd_steady (p : McPacket) (fetches : List (Nat × DmaFetch)) (s : State) : (resumeCmd p fetches s).2.steady = s.steady := by
  unfold resumeCmd; simp

theorem resumeCmd_pair {p : McPacket} {fetches : List (Nat × DmaFetch)} {s : State} {r0 : _} {last : State} (eq : resumeCmd p fetches s = (r0, last)) : last.steady = s.steady := by
  have k := resumeCmd_steady p fetches s; rwa [eq] at k

theorem execResume_steady (p : McPacket) (fetches : List (Nat × DmaFetch)) (s : State) : ∃ t, execResume p fetches s = .next t ∧ t.steady = s.steady := by
  exact ⟨_, rfl, by simp⟩

@[simp] theorem abandonQuiesce_steady (f : Nat) (fetches : List (Nat × DmaFetch)) (s : State) : (abandonQuiesce f fetches s).steady = s.steady := by
  unfold abandonQuiesce; simp [steady_fields]

@[simp] theorem cancelCmd_steady (p : McPacket) (fetches : List (Nat × DmaFetch)) (s : State) : (cancelCmd p fetches s).2.steady = s.steady := by
  unfold cancelCmd; first | (simp [steady_fields]; done) | ((try simp); (repeat' split) <;> simp_all [steady_fields]; done)

theorem cancelCmd_pair {p : McPacket} {fetches : List (Nat × DmaFetch)} {s : State} {r0 : _} {last : State} (eq : cancelCmd p fetches s = (r0, last)) : last.steady = s.steady := by
  have k := cancelCmd_steady p fetches s; rwa [eq] at k

theorem execCancel_steady (p : McPacket) (fetches : List (Nat × DmaFetch)) (s : State) : ∃ t, execCancel p fetches s = .next t ∧ t.steady = s.steady := by
  exact ⟨_, rfl, by simp⟩

@[simp] theorem commitConfig_steady (p : McPacket) (s : State) : (commitConfig p s).2.steady = s.steady := by
  unfold commitConfig; simp [steady_fields]

theorem commitConfig_pair {p : McPacket} {s : State} {r0 : _} {last : State} (eq : commitConfig p s = (r0, last)) : last.steady = s.steady := by
  have k := commitConfig_steady p s; rwa [eq] at k

theorem execCommitConfig_steady (p : McPacket) (s : State) : ∃ t, execCommitConfig p s = .next t ∧ t.steady = s.steady := by
  exact ⟨_, rfl, by simp⟩

@[simp] theorem configRead_steady (p : McPacket) (s : State) : (configRead p s).2.steady = s.steady := by
  unfold configRead; first | (simp [steady_fields]; done) | ((try simp); (repeat' split) <;> simp_all [steady_fields]; done)

theorem configRead_pair {p : McPacket} {s : State} {r0 : _} {last : State} (eq : configRead p s = (r0, last)) : last.steady = s.steady := by
  have k := configRead_steady p s; rwa [eq] at k

theorem execConfigRead_steady (p : McPacket) (s : State) : ∃ t, execConfigRead p s = .next t ∧ t.steady = s.steady := by
  exact ⟨_, rfl, by simp⟩

@[simp] theorem applyConfig_steady (s : State) : (applyConfig s).steady = s.steady := by
  unfold applyConfig; first | (simp [steady_fields]; done) | ((try simp); (repeat' split) <;> simp_all [steady_fields]; done)

@[simp] theorem restoreParam_steady (old : State) (x : Nat × Nat) (s : State) : (restoreParam old x s).steady = s.steady := by
  unfold restoreParam; simp

@[simp] theorem hostWatchdog_steady (fetches : List (Nat × DmaFetch)) (s : State) : (hostWatchdog fetches s).steady = s.steady := by
  unfold hostWatchdog; simp [steady_fields]

theorem execHostWatchdog_steady (fetches : List (Nat × DmaFetch)) (s : State) : ∃ t, execHostWatchdog fetches s = .next t ∧ t.steady = s.steady := by
  exact ⟨_, rfl, by simp⟩

end Sys2Proof.Machine
end

