-- ==== Sys2Proof/Laws/Steady/Mci.lean ====
section
/-! SUPPORT. What `Machine/Mci.lean` changes leaves the steady fields as they are. -/

namespace Sys2Proof.Machine

@[simp] theorem modifyRing_steady (n : Nat) (f : CmdRing → CmdRing) (s : State) : (modifyRing n f s).steady = s.steady := by
  unfold modifyRing; simp [steady_fields]

@[simp] theorem modifyReply_steady (f : ReplyRing → ReplyRing) (s : State) : (modifyReply f s).steady = s.steady := by
  unfold modifyReply; simp [steady_fields]

@[simp] theorem drainHeld_steady (s : State) : (drainHeld s).steady = s.steady := by
  unfold drainHeld; simp

@[simp] theorem fetchSlots_steady (n : Nat) : ∀ (x0 : List McSlot) (x1 : State), (fetchSlots n x0 x1).steady = x1.steady := by
  intro x0; induction x0 with
  | nil => intros; simp [fetchSlots]
  | cons x xs ih => intros; unfold fetchSlots; first | (simp [steady_fields, ih]; done) | (simp [ih]; (repeat' split) <;> simp_all [steady_fields]; done)

@[simp] theorem doorbell_steady (ring tail : Nat) (slots : List McSlot) (s : State) : (doorbell ring tail slots s).steady = s.steady := by
  unfold doorbell; first | (simp [steady_fields]; done) | ((try simp); (repeat' split) <;> simp_all [steady_fields]; done)

@[simp] theorem ringControl_steady (n : Nat) (on : Bool) (s : State) : (ringControl n on s).steady = s.steady := by
  unfold ringControl; simp

@[simp] theorem replyControl_steady (on : Bool) (s : State) : (replyControl on s).steady = s.steady := by
  unfold replyControl; simp

@[simp] theorem replyHead_steady (head : Nat) (s : State) : (replyHead head s).steady = s.steady := by
  unfold replyHead; simp

@[simp] theorem ringLane_steady (n off v : Nat) (s : State) : (ringLane n off v s).steady = s.steady := by
  unfold ringLane; simp

@[simp] theorem replyLane_steady (off v : Nat) (s : State) : (replyLane off v s).steady = s.steady := by
  unfold replyLane; simp

@[simp] theorem channelControl_steady (c v : Nat) (s : State) : (channelControl c v s).steady = s.steady := by
  unfold channelControl; simp

@[simp] theorem channelClear_steady (c v : Nat) (s : State) : (channelClear c v s).steady = s.steady := by
  unfold channelClear; simp

@[simp] theorem channelLane_steady (c off v : Nat) (s : State) : (channelLane c off v s).steady = s.steady := by
  unfold channelLane; simp

@[simp] theorem barLane_steady (off v : Nat) (s : State) : (barLane off v s).steady = s.steady := by
  unfold barLane; simp

@[simp] theorem registerWrite_steady (offset width value : Nat) (s : State) : (registerWrite offset width value s).steady = s.steady := by
  unfold registerWrite; simp

@[simp] theorem fromHost_steady (f : State → State) (s : State) (hf : ∀ (x0 : State), (f x0).steady = (x0).steady) : (fromHost f s).steady = s.steady := by
  unfold fromHost; simp [steady_fields, hf]

theorem execRegisterWrite_steady (offset width value : Nat) (s : State) : ∃ t, execRegisterWrite offset width value s = .next t ∧ t.steady = s.steady := by
  exact ⟨_, rfl, by simp⟩

theorem execRingEnable_steady (ring : Nat) (s : State) : ∃ t, execRingEnable ring s = .next t ∧ t.steady = s.steady := by
  unfold execRingEnable; (repeat' split) <;> refine ⟨_, rfl, ?_⟩ <;> (try dsimp only) <;> (repeat' split) <;> first | (simp [steady_fields]; done) | ((try simp); grind [ringControl_steady, replyControl_steady]) | (simp_all [steady_fields]; done)

theorem execRingDisable_steady (ring : Nat) (s : State) : ∃ t, execRingDisable ring s = .next t ∧ t.steady = s.steady := by
  unfold execRingDisable; (repeat' split) <;> refine ⟨_, rfl, ?_⟩ <;> (try dsimp only) <;> (repeat' split) <;> first | (simp [steady_fields]; done) | ((try simp); grind [ringControl_steady, replyControl_steady]) | (simp_all [steady_fields]; done)

theorem execReplyHeadWrite_steady (head : Nat) (s : State) : ∃ t, execReplyHeadWrite head s = .next t ∧ t.steady = s.steady := by
  exact ⟨_, rfl, by simp⟩

theorem execMciDoorbell_steady (ring tail : Nat) (slots : List McSlot) (s : State) : ∃ t, execMciDoorbell ring tail slots s = .next t ∧ t.steady = s.steady := by
  exact ⟨_, rfl, by simp⟩

theorem execNop_steady (p : McPacket) (s : State) : ∃ t, execNop p s = .next t ∧ t.steady = s.steady := by
  exact ⟨_, rfl, by simp⟩

@[simp] theorem identifyCmd_steady (p : McPacket) (s : State) : (identifyCmd p s).2.steady = s.steady := by
  unfold identifyCmd; simp

theorem identifyCmd_pair {p : McPacket} {s : State} {r0 : _} {last : State} (eq : identifyCmd p s = (r0, last)) : last.steady = s.steady := by
  have k := identifyCmd_steady p s; rwa [eq] at k

theorem execIdentify_steady (p : McPacket) (s : State) : ∃ t, execIdentify p s = .next t ∧ t.steady = s.steady := by
  exact ⟨_, rfl, by simp⟩

@[simp] theorem watchCmd_steady (p : McPacket) (s : State) : (watchCmd p s).2.steady = s.steady := by
  unfold watchCmd; simp

theorem watchCmd_pair {p : McPacket} {s : State} {r0 : _} {last : State} (eq : watchCmd p s = (r0, last)) : last.steady = s.steady := by
  have k := watchCmd_steady p s; rwa [eq] at k

theorem execWatch_steady (p : McPacket) (s : State) : ∃ t, execWatch p s = .next t ∧ t.steady = s.steady := by
  exact ⟨_, rfl, by simp⟩

theorem execWatchTimeout_steady (ring : Nat) (s : State) : ∃ t, execWatchTimeout ring s = .next t ∧ t.steady = s.steady := by
  refine ⟨_, rfl, ?_⟩; first | (simp [steady_fields]; done) | ((try simp); (repeat' split) <;> simp_all [steady_fields]; done)

@[simp] theorem authChallenge_steady (p : McPacket) (s : State) : (authChallenge p s).2.steady = s.steady := by
  unfold authChallenge; simp

theorem authChallenge_pair {p : McPacket} {s : State} {r0 : _} {last : State} (eq : authChallenge p s = (r0, last)) : last.steady = s.steady := by
  have k := authChallenge_steady p s; rwa [eq] at k

theorem execAuthChallenge_steady (p : McPacket) (s : State) : ∃ t, execAuthChallenge p s = .next t ∧ t.steady = s.steady := by
  exact ⟨_, rfl, by simp⟩

theorem execAuthNonceExpiry_steady (ring : Nat) (s : State) : ∃ t, execAuthNonceExpiry ring s = .next t ∧ t.steady = s.steady := by
  exact ⟨_, rfl, by simp⟩

@[simp] theorem timeSet_steady (p : McPacket) (s : State) : (timeSet p s).2.steady = s.steady := by
  unfold timeSet; simp [steady_fields]

theorem timeSet_pair {p : McPacket} {s : State} {r0 : _} {last : State} (eq : timeSet p s = (r0, last)) : last.steady = s.steady := by
  have k := timeSet_steady p s; rwa [eq] at k

theorem execTimeSet_steady (p : McPacket) (s : State) : ∃ t, execTimeSet p s = .next t ∧ t.steady = s.steady := by
  exact ⟨_, rfl, by simp⟩

@[simp] theorem attnAck_steady (p : McPacket) (s : State) : (attnAck p s).2.steady = s.steady := by
  unfold attnAck; simp [steady_fields]

theorem attnAck_pair {p : McPacket} {s : State} {r0 : _} {last : State} (eq : attnAck p s = (r0, last)) : last.steady = s.steady := by
  have k := attnAck_steady p s; rwa [eq] at k

theorem execAttnAck_steady (p : McPacket) (s : State) : ∃ t, execAttnAck p s = .next t ∧ t.steady = s.steady := by
  exact ⟨_, rfl, by simp⟩

@[simp] theorem tellDropped_steady (s : State) : (tellDropped s).steady = s.steady := by
  unfold tellDropped; simp [steady_fields]

@[simp] theorem eventRead_steady (p : McPacket) (s : State) : (eventRead p s).2.steady = s.steady := by
  unfold eventRead; simp [steady_fields]

theorem eventRead_pair {p : McPacket} {s : State} {r0 : _} {last : State} (eq : eventRead p s = (r0, last)) : last.steady = s.steady := by
  have k := eventRead_steady p s; rwa [eq] at k

theorem execEventRead_steady (p : McPacket) (s : State) : ∃ t, execEventRead p s = .next t ∧ t.steady = s.steady := by
  exact ⟨_, rfl, by simp⟩

@[simp] theorem mciStats_steady (p : McPacket) (s : State) : (mciStats p s).2.steady = s.steady := by
  unfold mciStats; simp

theorem mciStats_pair {p : McPacket} {s : State} {r0 : _} {last : State} (eq : mciStats p s = (r0, last)) : last.steady = s.steady := by
  have k := mciStats_steady p s; rwa [eq] at k

theorem execMciStats_steady (p : McPacket) (s : State) : ∃ t, execMciStats p s = .next t ∧ t.steady = s.steady := by
  exact ⟨_, rfl, by simp⟩

@[simp] theorem telemetryGet_steady (p : McPacket) (s : State) : (telemetryGet p s).2.steady = s.steady := by
  unfold telemetryGet; first | (simp [steady_fields]; done) | ((try simp); (repeat' split) <;> simp_all [steady_fields]; done)

theorem telemetryGet_pair {p : McPacket} {s : State} {r0 : _} {last : State} (eq : telemetryGet p s = (r0, last)) : last.steady = s.steady := by
  have k := telemetryGet_steady p s; rwa [eq] at k

theorem execTelemetryGet_steady (p : McPacket) (s : State) : ∃ t, execTelemetryGet p s = .next t ∧ t.steady = s.steady := by
  exact ⟨_, rfl, by simp⟩

@[simp] theorem clearEngines_steady (s : State) : (clearEngines s).steady = s.steady := by
  unfold clearEngines; simp [steady_fields]

@[simp] theorem clearMemories_steady (s : State) : (clearMemories s).steady = s.steady := by
  unfold clearMemories; simp [steady_fields]

@[simp] theorem clearPaths_steady (s : State) : (clearPaths s).steady = s.steady := by
  unfold clearPaths; simp [steady_fields]

@[simp] theorem clearServices_steady (s : State) : (clearServices s).steady = s.steady := by
  unfold clearServices; simp [steady_fields]

@[simp] theorem clearHead_steady (s : State) : (clearHead s).steady = s.steady := by
  unfold clearHead; simp [steady_fields]

@[simp] theorem telemetryClear_steady (s : State) : (telemetryClear s).2.steady = s.steady := by
  unfold telemetryClear; simp

theorem telemetryClear_pair {s : State} {r0 : _} {last : State} (eq : telemetryClear s = (r0, last)) : last.steady = s.steady := by
  have k := telemetryClear_steady s; rwa [eq] at k

theorem execTelemetryClear_steady (p : McPacket) (s : State) : ∃ t, execTelemetryClear p s = .next t ∧ t.steady = s.steady := by
  exact ⟨_, rfl, by simp⟩

@[simp] theorem ticketDump_steady (p : McPacket) (s : State) : (ticketDump p s).2.steady = s.steady := by
  unfold ticketDump; simp

theorem ticketDump_pair {p : McPacket} {s : State} {r0 : _} {last : State} (eq : ticketDump p s = (r0, last)) : last.steady = s.steady := by
  have k := ticketDump_steady p s; rwa [eq] at k

theorem execTicketDump_steady (p : McPacket) (s : State) : ∃ t, execTicketDump p s = .next t ∧ t.steady = s.steady := by
  exact ⟨_, rfl, by simp⟩

@[simp] theorem domainCreate_steady (p : McPacket) (s : State) : (domainCreate p s).2.steady = s.steady := by
  unfold domainCreate; first | (simp [steady_fields]; done) | ((try simp); (repeat' split) <;> simp_all [steady_fields]; done)

theorem domainCreate_pair {p : McPacket} {s : State} {r0 : _} {last : State} (eq : domainCreate p s = (r0, last)) : last.steady = s.steady := by
  have k := domainCreate_steady p s; rwa [eq] at k

theorem execDomainCreate_steady (p : McPacket) (s : State) : ∃ t, execDomainCreate p s = .next t ∧ t.steady = s.steady := by
  exact ⟨_, rfl, by simp⟩

@[simp] theorem keyDomainBind_steady (p : McPacket) (s : State) : (keyDomainBind p s).2.steady = s.steady := by
  unfold keyDomainBind; first | (simp [steady_fields]; done) | ((try simp); (repeat' split) <;> simp_all [steady_fields]; done)

theorem keyDomainBind_pair {p : McPacket} {s : State} {r0 : _} {last : State} (eq : keyDomainBind p s = (r0, last)) : last.steady = s.steady := by
  have k := keyDomainBind_steady p s; rwa [eq] at k

theorem execKeyDomainBind_steady (p : McPacket) (s : State) : ∃ t, execKeyDomainBind p s = .next t ∧ t.steady = s.steady := by
  exact ⟨_, rfl, by simp⟩

@[simp] theorem domainDelete_steady (p : McPacket) (s : State) : (domainDelete p s).2.steady = s.steady := by
  unfold domainDelete; first | (simp [steady_fields]; done) | ((try simp); (repeat' split) <;> simp_all [steady_fields]; done)

theorem domainDelete_pair {p : McPacket} {s : State} {r0 : _} {last : State} (eq : domainDelete p s = (r0, last)) : last.steady = s.steady := by
  have k := domainDelete_steady p s; rwa [eq] at k

theorem execDomainDelete_steady (p : McPacket) (s : State) : ∃ t, execDomainDelete p s = .next t ∧ t.steady = s.steady := by
  exact ⟨_, rfl, by simp⟩

@[simp] theorem domainGet_steady (p : McPacket) (s : State) : (domainGet p s).2.steady = s.steady := by
  unfold domainGet; first | (simp [steady_fields]; done) | ((try simp); (repeat' split) <;> simp_all [steady_fields]; done)

theorem domainGet_pair {p : McPacket} {s : State} {r0 : _} {last : State} (eq : domainGet p s = (r0, last)) : last.steady = s.steady := by
  have k := domainGet_steady p s; rwa [eq] at k

theorem execDomainGet_steady (p : McPacket) (s : State) : ∃ t, execDomainGet p s = .next t ∧ t.steady = s.steady := by
  exact ⟨_, rfl, by simp⟩

@[simp] theorem objdomCreate_steady (p : McPacket) (s : State) : (objdomCreate p s).2.steady = s.steady := by
  unfold objdomCreate; simp

theorem objdomCreate_pair {p : McPacket} {s : State} {r0 : _} {last : State} (eq : objdomCreate p s = (r0, last)) : last.steady = s.steady := by
  have k := objdomCreate_steady p s; rwa [eq] at k

theorem execObjdomCreate_steady (p : McPacket) (s : State) : ∃ t, execObjdomCreate p s = .next t ∧ t.steady = s.steady := by
  exact ⟨_, rfl, by simp⟩

@[simp] theorem objdomDropped_steady (id : Nat) (s : State) : (objdomDropped id s).steady = s.steady := by
  unfold objdomDropped; simp

@[simp] theorem objdomDelete_steady (p : McPacket) (s : State) : (objdomDelete p s).2.steady = s.steady := by
  unfold objdomDelete; simp

theorem objdomDelete_pair {p : McPacket} {s : State} {r0 : _} {last : State} (eq : objdomDelete p s = (r0, last)) : last.steady = s.steady := by
  have k := objdomDelete_steady p s; rwa [eq] at k

theorem execObjdomDelete_steady (p : McPacket) (s : State) : ∃ t, execObjdomDelete p s = .next t ∧ t.steady = s.steady := by
  exact ⟨_, rfl, by simp⟩

@[simp] theorem clientSet_steady (p : McPacket) (s : State) : (clientSet p s).2.steady = s.steady := by
  unfold clientSet; first | (simp [steady_fields]; done) | ((try simp); (repeat' split) <;> simp_all [steady_fields]; done)

theorem clientSet_pair {p : McPacket} {s : State} {r0 : _} {last : State} (eq : clientSet p s = (r0, last)) : last.steady = s.steady := by
  have k := clientSet_steady p s; rwa [eq] at k

theorem execClientAdd_steady (p : McPacket) (s : State) : ∃ t, execClientAdd p s = .next t ∧ t.steady = s.steady := by
  exact ⟨_, rfl, by simp⟩

theorem execClientRemove_steady (p : McPacket) (s : State) : ∃ t, execClientRemove p s = .next t ∧ t.steady = s.steady := by
  exact ⟨_, rfl, by simp⟩

@[simp] theorem holdClear_steady (p : McPacket) (s : State) : (holdClear p s).2.steady = s.steady := by
  unfold holdClear; first | (simp [steady_fields]; done) | ((try simp); (repeat' split) <;> simp_all [steady_fields]; done)

theorem holdClear_pair {p : McPacket} {s : State} {r0 : _} {last : State} (eq : holdClear p s = (r0, last)) : last.steady = s.steady := by
  have k := holdClear_steady p s; rwa [eq] at k

theorem execHoldClear_steady (p : McPacket) (s : State) : ∃ t, execHoldClear p s = .next t ∧ t.steady = s.steady := by
  exact ⟨_, rfl, by simp⟩

end Sys2Proof.Machine
end

