-- ==== Sys2Proof/Laws/Steady/Tines.lean ====
section
/-! SUPPORT. What `Machine/Tines.lean` changes leaves the steady fields as they are. -/

namespace Sys2Proof.Machine

@[simp] theorem modifyTine_steady (t : Nat) (f : Tine → Tine) (s : State) : (modifyTine t f s).steady = s.steady := by
  unfold modifyTine; simp [steady_fields]

@[simp] theorem noteConflict_steady (h : Nat) (met : Bool) (s : State) : (noteConflict h met s).steady = s.steady := by
  unfold noteConflict; simp

@[simp] theorem ticketDispatch_steady (tine : Nat) (run : TicketRun) (s0 : State) : (ticketDispatch tine run s0).steady = s0.steady := by
  unfold ticketDispatch; first | (simp [steady_fields]; done) | ((try simp); (repeat' split) <;> simp_all [steady_fields]; done)

theorem execTicketDispatch_steady (tine : Nat) (run : TicketRun) (s : State) : ∃ t, execTicketDispatch tine run s = .next t ∧ t.steady = s.steady := by
  exact ⟨_, rfl, by simp⟩

@[simp] theorem takeGleaned_steady (tine v : Nat) (t : Ticket) (run : TicketRun) (s : State) : (takeGleaned tine v t run s).steady = s.steady := by
  unfold takeGleaned; simp

@[simp] theorem glean_steady (tine : Nat) (run : TicketRun) (s0 : State) : (glean tine run s0).steady = s0.steady := by
  unfold glean; first | (simp [steady_fields]; done) | ((try simp); (repeat' split) <;> simp_all [steady_fields]; done)

theorem execGlean_steady (tine : Nat) (run : TicketRun) (s : State) : ∃ t, execGlean tine run s = .next t ∧ t.steady = s.steady := by
  exact ⟨_, rfl, by simp⟩

@[simp] theorem tineExpiry_steady (tine : Nat) (s : State) : (tineExpiry tine s).steady = s.steady := by
  unfold tineExpiry; simp

@[simp] theorem failCapsule_steady (t : Ticket) (s : State) : (failCapsule t s).steady = s.steady := by
  unfold failCapsule; (try dsimp only) <;> (repeat' split) <;> first | (simp [steady_fields]; done) | ((try simp); grind [nvEnd_steady, shEnd_steady]) | (simp_all [steady_fields]; done)

@[simp] theorem endTicket_steady (t : Ticket) (tine : Nat) (quarantined : Bool) (s : State) : (endTicket t tine quarantined s).steady = s.steady := by
  unfold endTicket; (try dsimp only) <;> (repeat' split) <;> first | (simp [steady_fields]; done) | ((try simp); grind [emit_steady, almanac_steady, epochDone_steady, squashEpoch_steady, failCapsule_steady]) | (simp_all [steady_fields]; done)

@[simp] theorem requeueTicket_steady (tine : Nat) (r : RunningTicket) (s : State) : (requeueTicket tine r s).steady = s.steady := by
  unfold requeueTicket; (try dsimp only) <;> (repeat' split) <;> first | (simp [steady_fields]; done) | ((try simp); grind [enqueue_steady, enqueue_some]) | (simp_all [steady_fields]; done)

@[simp] theorem ticketWatchdog_steady (tine : Nat) (s : State) : (ticketWatchdog tine s).steady = s.steady := by
  unfold ticketWatchdog; split
  · rfl
  · split
    · rfl
    · dsimp only; split <;> simp

@[simp] theorem stopTicket_steady (t : Ticket) (s : State) : (stopTicket t s).steady = s.steady := by
  unfold stopTicket; first | (simp [steady_fields]; done) | ((try simp); (repeat' split) <;> simp_all [steady_fields]; done)

theorem execEpochSquash_steady (epoch : EpochRef) (s : State) : ∃ t, execEpochSquash epoch s = .next t ∧ t.steady = s.steady := by
  exact ⟨_, rfl, by simp⟩

@[simp] theorem runAheadWindow_steady (s : State) : (runAheadWindow s).steady = s.steady := by
  unfold runAheadWindow; simp

theorem execRunAheadWindow_steady (s : State) : ∃ t, execRunAheadWindow s = .next t ∧ t.steady = s.steady := by
  exact ⟨_, rfl, by simp⟩

theorem execHarrowDrained_steady (h : Nat) (s : State) : ∃ t, execHarrowDrained h s = .next t ∧ t.steady = s.steady := by
  unfold execHarrowDrained; (repeat' split) <;> refine ⟨_, rfl, ?_⟩ <;> (try dsimp only) <;> (repeat' split) <;> first | (simp [steady_fields]; done) | ((try simp); grind [modifyHarrow_steady, notePaceParked_steady]) | (simp_all [steady_fields]; done)

theorem execParkRetryTimer_steady (h : Nat) (s : State) : ∃ t, execParkRetryTimer h s = .next t ∧ t.steady = s.steady := by
  unfold execParkRetryTimer; (repeat' split) <;> refine ⟨_, rfl, ?_⟩ <;> (try dsimp only) <;> (repeat' split) <;> first | (simp [steady_fields]; done) | ((try simp); grind [modifyHarrow_steady]) | (simp_all [steady_fields]; done)

theorem execHarrowWakeDone_steady (h : Nat) (s : State) : ∃ t, execHarrowWakeDone h s = .next t ∧ t.steady = s.steady := by
  unfold execHarrowWakeDone; (repeat' split) <;> refine ⟨_, rfl, ?_⟩ <;> (try dsimp only) <;> (repeat' split) <;> first | (simp [steady_fields]; done) | ((try simp); grind [modifyHarrow_steady, notePaceParked_steady]) | (simp_all [steady_fields]; done)

end Sys2Proof.Machine
end

