-- ==== Sys2Proof/Laws/Steady/Failover.lean ====
section
/-! SUPPORT. What `Machine/Failover.lean` changes leaves the steady fields as they are. -/

namespace Sys2Proof.Machine

@[simp] theorem countHead_steady (f : HeadCounters → HeadCounters) (s : State) : (countHead f s).steady = s.steady := by
  unfold countHead; simp

@[simp] theorem modifyReturn_steady (f : ReturnPart → ReturnPart) (s : State) : (modifyReturn f s).steady = s.steady := by
  unfold modifyReturn; simp

@[simp] theorem failoverRecord_steady (event cause : Nat) (s : State) : (failoverRecord event cause s).steady = s.steady := by
  unfold failoverRecord; simp

@[simp] theorem anaSync_steady (old s : State) : (anaSync old s).steady = s.steady := by
  unfold anaSync; simp

@[simp] theorem withAna_steady (f : State → State) (s : State) (hf : ∀ (x0 : State), (f x0).steady = (x0).steady) : (withAna f s).steady = s.steady := by
  unfold withAna; simp [steady_fields, hf]

@[simp] theorem restartHold_steady (s : State) : (restartHold s).steady = s.steady := by
  unfold restartHold; simp

@[simp] theorem linkSync_steady (s : State) : (linkSync s).steady = s.steady := by
  unfold linkSync; simp

@[simp] theorem dropClients_steady (s : State) : (dropClients s).steady = s.steady := by
  unfold dropClients; simp

@[simp] theorem dropForwards_steady (s : State) : (dropForwards s).steady = s.steady := by
  unfold dropForwards; simp

@[simp] theorem noteYield_steady (s : State) : (noteYield s).steady = s.steady := by
  unfold noteYield; simp

@[simp] theorem sendYieldNotice_steady (cause : Nat) (s : State) : (sendYieldNotice cause s).steady = s.steady := by
  unfold sendYieldNotice; simp

@[simp] theorem dropQueued_steady (s : State) : (dropQueued s).steady = s.steady := by
  unfold dropQueued; simp [steady_fields]

@[simp] theorem enterYield_steady (cause : Nat) (s : State) : (enterYield cause s).steady = s.steady := by
  unfold enterYield; simp

theorem execYieldLeasesReleased_steady (s : State) : ∃ t, execYieldLeasesReleased s = .next t ∧ t.steady = s.steady := by
  exact ⟨_, rfl, by simp⟩

@[simp] theorem endMirrors_steady (s : State) : (endMirrors s).steady = s.steady := by
  unfold endMirrors; simp

@[simp] theorem beginTakeover_steady (announced : Bool) (s : State) : (beginTakeover announced s).steady = s.steady := by
  unfold beginTakeover; simp

@[simp] theorem peerStepsAside_steady (s : State) : (peerStepsAside s).steady = s.steady := by
  unfold peerStepsAside; first | (simp [steady_fields]; done) | ((try simp); (repeat' split) <;> simp_all [steady_fields]; done)

theorem execYieldInNAsserted_steady (low : Bool) (s : State) : ∃ t, execYieldInNAsserted low s = .next t ∧ t.steady = s.steady := by
  exact ⟨_, rfl, by simp⟩

@[simp] theorem peerGone_steady (s : State) : (peerGone s).steady = s.steady := by
  unfold peerGone; first | (simp [steady_fields]; done) | ((try simp); (repeat' split) <;> simp_all [steady_fields]; done)

theorem execHeartbeatLoss_steady (s : State) : ∃ t, execHeartbeatLoss s = .next t ∧ t.steady = s.steady := by
  exact ⟨_, rfl, by simp⟩

@[simp] theorem foundLive_steady (s : State) : (foundLive s).steady = s.steady := by
  unfold foundLive; first | (simp [steady_fields]; done) | ((try simp); (repeat' split) <;> simp_all [steady_fields]; done)

@[simp] theorem loneStart_steady (s : State) : (loneStart s).steady = s.steady := by
  unfold loneStart; simp

theorem execHeadlandWaitExpiry_steady (s : State) : ∃ t, execHeadlandWaitExpiry s = .next t ∧ t.steady = s.steady := by
  exact ⟨_, rfl, by simp⟩

@[simp] theorem bothSole_steady (s : State) : (bothSole s).steady = s.steady := by
  unfold bothSole; simp

@[simp] theorem parkedYield_steady (s : State) : (parkedYield s).steady = s.steady := by
  unfold parkedYield; simp

theorem execTicketWatchdog_steady (tine : Nat) (s : State) : ∃ t, execTicketWatchdog tine s = .next t ∧ t.steady = s.steady := by
  exact ⟨_, rfl, by simp⟩

@[simp] theorem cipherYield_steady (s : State) : (cipherYield s).steady = s.steady := by
  unfold cipherYield; simp

theorem execCipherCompletion_steady (job : Nat) (agree : Bool) (s : State) : ∃ t, execCipherCompletion job agree s = .next t ∧ t.steady = s.steady := by
  exact ⟨_, rfl, by simp⟩

theorem execSupervisorDeadline_steady (missed : Bool) (s : State) : ∃ t, execSupervisorDeadline missed s = .next t ∧ t.steady = s.steady := by
  exact ⟨_, rfl, by simp⟩

theorem execEccWindow_steady (near far : Nat) (s : State) : ∃ t, execEccWindow near far s = .next t ∧ t.steady = s.steady := by
  exact ⟨_, rfl, by simp⟩

end Sys2Proof.Machine
end

