-- ==== Sys2Proof/Laws/Steady/Firmware.lean ====
section
/-! SUPPORT. What `Machine/Firmware.lean` changes leaves the steady fields as they are. -/

namespace Sys2Proof.Machine

@[simp] theorem modifyFw_steady (f : FwPart → FwPart) (s : State) : (modifyFw f s).steady = s.steady := by
  unfold modifyFw; simp [steady_fields]

@[simp] theorem fwPut_steady (b : Nat) (r : FwRecord) (s : State) : (fwPut b r s).steady = s.steady := by
  unfold fwPut; first | (simp [steady_fields]; done) | ((try simp); (repeat' split) <;> simp_all [steady_fields]; done)

theorem fwWrite_steady (kind imageId piece : Nat) (data : Bytes) (actSeq : Nat) (s : State) : ∀ r, fwWrite kind imageId piece data actSeq s = some r → r.steady = s.steady := by
  intro r h; revert h; unfold fwWrite; (try dsimp only) <;> (repeat' split) <;> intro h <;> first | (simp at h; done) | (simp at h; subst h; simp [steady_fields]; done) | ((try simp at h); grind [steady_fields, place_steady, takeWriteSeq_steady, fwPut_steady, place_pair, takeWriteSeq_pair])

theorem fwWrite_some {kind imageId piece : Nat} {data : Bytes} {actSeq : Nat} {s : State} {last : State} (eq : fwWrite kind imageId piece data actSeq s = some last) : last.steady = s.steady :=
  fwWrite_steady kind imageId piece data actSeq s _ eq

@[simp] theorem fwSupersede_steady (p : FwRecord → Bool) (s : State) : (fwSupersede p s).steady = s.steady := by
  unfold fwSupersede; simp

@[simp] theorem updateAttn_steady (s : State) : (updateAttn s).steady = s.steady := by
  unfold updateAttn; simp

@[simp] theorem fwSync_steady (s : State) : (fwSync s).steady = s.steady := by
  unfold fwSync; first | (simp [steady_fields]; done) | ((try simp); (repeat' split) <;> simp_all [steady_fields]; done)

@[simp] theorem fwStored_steady (n : Nat) (data : Bytes) (s : State) : (fwStored n data s).steady = s.steady := by
  unfold fwStored; simp

@[simp] theorem fwTargetSet_steady (kind : Nat) (f : FwImage → FwImage) (s : State) : (fwTargetSet kind f s).steady = s.steady := by
  unfold fwTargetSet; simp

@[simp] theorem fwForget_steady (s : State) : (fwForget s).steady = s.steady := by
  unfold fwForget; simp

@[simp] theorem fwManifestRecord_steady (m : Bytes) (accepted : Bool) (s : State) : (fwManifestRecord m accepted s).steady = s.steady := by
  unfold fwManifestRecord; simp

theorem fwTake_steady (m : Bytes) (s : State) : ∀ r, fwTake m s = some r → r.steady = s.steady := by
  intro r h; revert h; unfold fwTake; (try dsimp only) <;> (repeat' split) <;> intro h <;> first | (simp at h; done) | (simp at h; subst h; simp [steady_fields]; done) | ((try simp at h); grind [steady_fields, landBytes_steady, modifyFw_steady, fwWrite_steady, landBytes_some, fwWrite_some])

theorem fwTake_some {m : Bytes} {s : State} {last : State} (eq : fwTake m s = some last) : last.steady = s.steady :=
  fwTake_steady m s _ eq

@[simp] theorem fwManifestPut_steady (p : McPacket) (s : State) : (fwManifestPut p s).2.steady = s.steady := by
  unfold fwManifestPut; (try dsimp only) <;> (repeat' split) <;> first | (simp [steady_fields]; done) | ((try simp); grind [busFail_steady, refuse_steady, ok_steady, updateAttn_steady, fwSync_steady, fwManifestRecord_steady, fwTake_steady, busFail_pair, refuse_pair, ok_pair, fwTake_some]) | (simp_all [steady_fields]; done)

theorem fwManifestPut_pair {p : McPacket} {s : State} {r0 : _} {last : State} (eq : fwManifestPut p s = (r0, last)) : last.steady = s.steady := by
  have k := fwManifestPut_steady p s; rwa [eq] at k

theorem execFwManifestPut_steady (p : McPacket) (s : State) : ∃ t, execFwManifestPut p s = .next t ∧ t.steady = s.steady := by
  exact ⟨_, rfl, by simp⟩

@[simp] theorem fwStore_steady (p : McPacket) (m : Bytes) (n : Nat) (data : Bytes) (s : State) : (fwStore p m n data s).2.steady = s.steady := by
  unfold fwStore; (try dsimp only) <;> (repeat' split) <;> first | (simp [steady_fields]; done) | ((try simp); grind [refuse_steady, ok_steady, waitOn_steady, landBytes_steady, modifyFw_steady, fwWrite_steady, fwStored_steady, fwTargetSet_steady, refuse_pair, ok_pair, waitOn_pair, landBytes_some, fwWrite_some]) | (simp_all [steady_fields]; done)

theorem fwStore_pair {p : McPacket} {m : Bytes} {n : Nat} {data : Bytes} {s : State} {r0 : _} {last : State} (eq : fwStore p m n data s = (r0, last)) : last.steady = s.steady := by
  have k := fwStore_steady p m n data s; rwa [eq] at k

@[simp] theorem piecePut_steady (p : McPacket) (s : State) : (piecePut p s).2.steady = s.steady := by
  unfold piecePut; first | (simp [steady_fields]; done) | ((try simp); (repeat' split) <;> simp_all [steady_fields]; done)

theorem piecePut_pair {p : McPacket} {s : State} {r0 : _} {last : State} (eq : piecePut p s = (r0, last)) : last.steady = s.steady := by
  have k := piecePut_steady p s; rwa [eq] at k

theorem execPiecePut_steady (p : McPacket) (s : State) : ∃ t, execPiecePut p s = .next t ∧ t.steady = s.steady := by
  exact ⟨_, rfl, by simp⟩

@[simp] theorem fwDiscard_steady (s : State) : (fwDiscard s).2.steady = s.steady := by
  unfold fwDiscard; first | (simp [steady_fields]; done) | ((try simp); (repeat' split) <;> simp_all [steady_fields]; done)

theorem fwDiscard_pair {s : State} {r0 : _} {last : State} (eq : fwDiscard s = (r0, last)) : last.steady = s.steady := by
  have k := fwDiscard_steady s; rwa [eq] at k

theorem execFwDiscard_steady (p : McPacket) (s : State) : ∃ t, execFwDiscard p s = .next t ∧ t.steady = s.steady := by
  exact ⟨_, rfl, by simp⟩

@[simp] theorem fwStatus_steady (p : McPacket) (s : State) : (fwStatus p s).2.steady = s.steady := by
  unfold fwStatus; simp

theorem fwStatus_pair {p : McPacket} {s : State} {r0 : _} {last : State} (eq : fwStatus p s = (r0, last)) : last.steady = s.steady := by
  have k := fwStatus_steady p s; rwa [eq] at k

theorem execFwStatus_steady (p : McPacket) (s : State) : ∃ t, execFwStatus p s = .next t ∧ t.steady = s.steady := by
  exact ⟨_, rfl, by simp⟩

@[simp] theorem fwActivateRecord_steady (m : Bytes) (path : Nat) (status : Status) (s : State) : (fwActivateRecord m path status s).steady = s.steady := by
  unfold fwActivateRecord; simp

@[simp] theorem fwFinish_steady (m : Bytes) (path : Nat) (status : Status) (s : State) : (fwFinish m path status s).steady = s.steady := by
  unfold fwFinish; simp

@[simp] theorem fwHandovers_steady (s : State) : (fwHandovers s).steady = s.steady := by
  unfold fwHandovers; simp

@[simp] theorem fwRestart_steady (m : Bytes) (s : State) : (fwRestart m s).steady = s.steady := by
  unfold fwRestart; simp

@[simp] theorem fwBegin_steady (m : Bytes) (bad : List Nat) (s : State) : (fwBegin m bad s).steady = s.steady := by
  unfold fwBegin; (try dsimp only) <;> (repeat' split) <;> first | (simp [steady_fields]; done) | ((try simp); grind [endWaits_steady, modifyFw_steady, fwWrite_steady, fwSupersede_steady, fwHandovers_steady, fwWrite_some]) | (simp_all [steady_fields]; done)

@[simp] theorem fwActivate_steady (p : McPacket) (bad : List Nat) (s : State) : (fwActivate p bad s).2.steady = s.steady := by
  unfold fwActivate; first | (simp [steady_fields]; done) | ((try simp); (repeat' split) <;> simp_all [steady_fields]; done)

theorem fwActivate_pair {p : McPacket} {bad : List Nat} {s : State} {r0 : _} {last : State} (eq : fwActivate p bad s = (r0, last)) : last.steady = s.steady := by
  have k := fwActivate_steady p bad s; rwa [eq] at k

theorem execFwActivate_steady (p : McPacket) (bad : List Nat) (s : State) : ∃ t, execFwActivate p bad s = .next t ∧ t.steady = s.steady := by
  exact ⟨_, rfl, by simp⟩

@[simp] theorem fwPeerSchemas_steady (status : Status) (body : Bytes) (bad : List Nat) (s : State) : (fwPeerSchemas status body bad s).steady = s.steady := by
  unfold fwPeerSchemas; first | (simp [steady_fields]; done) | ((try simp); (repeat' split) <;> simp_all [steady_fields]; done)

@[simp] theorem fwOverwritten_steady (m : Bytes) (s : State) : (fwOverwritten m s).steady = s.steady := by
  unfold fwOverwritten; simp

@[simp] theorem fwOverwrite_steady (s : State) : (fwOverwrite s).steady = s.steady := by
  unfold fwOverwrite; first | (simp [steady_fields]; done) | ((try simp); (repeat' split) <;> simp_all [steady_fields]; done)

theorem execFwImageOverwrite_steady (s : State) : ∃ t, execFwImageOverwrite s = .next t ∧ t.steady = s.steady := by
  exact ⟨_, rfl, by simp⟩

@[simp] theorem fwHandoverRecord_steady (h : Nat) (status : Status) (s : State) : (fwHandoverRecord h status s).steady = s.steady := by
  unfold fwHandoverRecord; simp

@[simp] theorem runHandover_steady (h : Nat) (s : State) : (runHandover h s).steady = s.steady := by
  unfold runHandover; simp

@[simp] theorem handover_steady (h : Nat) (s : State) : (handover h s).steady = s.steady := by
  unfold handover; first | (simp [steady_fields]; done) | ((try simp); (repeat' split) <;> simp_all [steady_fields]; done)

theorem execHandover_steady (harrow : Nat) (s : State) : ∃ t, execHandover harrow s = .next t ∧ t.steady = s.steady := by
  exact ⟨_, rfl, by simp⟩

@[simp] theorem handoverAbandoned_steady (h : Nat) (s : State) : (handoverAbandoned h s).steady = s.steady := by
  unfold handoverAbandoned; simp

theorem execParkDrainTimeout_steady (h : Nat) (s : State) : ∃ t, execParkDrainTimeout h s = .next t ∧ t.steady = s.steady := by
  unfold execParkDrainTimeout; (repeat' split) <;> refine ⟨_, rfl, ?_⟩ <;> (try dsimp only) <;> (repeat' split) <;> first | (simp [steady_fields]; done) | ((try simp); grind [modifyHarrow_steady, handoverAbandoned_steady]) | (simp_all [steady_fields]; done)

@[simp] theorem fwGoOn_steady (r : FwRecord) (s : State) : (fwGoOn r s).steady = s.steady := by
  unfold fwGoOn; simp

@[simp] theorem fwProgrammed_steady (b block : Nat) (s : State) : (fwProgrammed b block s).steady = s.steady := by
  unfold fwProgrammed; first | (simp [steady_fields]; done) | ((try simp); (repeat' split) <;> simp_all [steady_fields]; done)

@[simp] theorem fwFailed_steady (b block : Nat) (s : State) : (fwFailed b block s).steady = s.steady := by
  unfold fwFailed; dsimp only
  refine (foldl_steady _ (fun st r => ?_) _ _).trans (by simp)
  split
  · simp
  · split <;> simp

@[simp] theorem fwLand_steady (s : State) : (fwLand s).steady = s.steady := by
  unfold fwLand; split
  · rfl
  · split
    · rfl
    · split
      · rfl
      · rename_i m _ _ s1 e1
        have k1 : s1.steady = s.steady := by
          split at e1
          · cases e1; rfl
          · exact fwWrite_some e1
        dsimp only; split
        · rfl
        · rename_i s2 e2
          refine Exists.elim (foldl_steady_option _ ?_ _ _ _ e2) ?_
          · intro a x r h
            cases a with
            | none => cases h
            | some st => exact ⟨st, rfl, fwWrite_steady _ _ _ _ _ _ _ h⟩
          · rintro st ⟨hs, hk⟩
            cases hs; simp [hk, k1]

@[simp] theorem fwRescan_steady (s : State) : (fwRescan s).steady = s.steady := by
  unfold fwRescan; dsimp only; split
  · rfl
  · split
    · rfl
    · refine (foldl_steady _ (fun st x => ?_) _ _).trans (by simp)
      split
      · rfl
      · split <;> simp

end Sys2Proof.Machine
end

