-- ==== Sys2Proof/Laws/Steady/Headland.lean ====
section
/-! SUPPORT. What `Machine/Headland.lean` changes leaves the steady fields as they are. -/

namespace Sys2Proof.Machine

@[simp] theorem badMessage_steady (mtype q len : Nat) (s : State) : (badMessage mtype q len s).steady = s.steady := by
  unfold badMessage; simp

@[simp] theorem headReceive_steady (may : LinkFrame → Bool) (q : Nat) (frames : List Bytes) (s : State) : (headReceive may q frames s).2.steady = s.steady := by
  unfold headReceive; (try dsimp only) <;> (repeat' split) <;> first | (simp [steady_fields]; done) | ((try simp); grind [subLink_steady]) | (simp_all [steady_fields]; done)

theorem headReceive_pair {may : LinkFrame → Bool} {q : Nat} {frames : List Bytes} {s : State} {r0 : _} {last : State} (eq : headReceive may q frames s = (r0, last)) : last.steady = s.steady := by
  have k := headReceive_steady may q frames s; rwa [eq] at k

@[simp] theorem peerMessage_steady (q : Nat) (least : Bytes → Nat) (f : Bytes → State → State) (m : Nat × Bytes) (s : State) (hf : ∀ (x0 : Bytes) (x1 : State), (f x0 x1).steady = (x1).steady) : (peerMessage q least f m s).steady = s.steady := by
  unfold peerMessage; simp [steady_fields, hf]

@[simp] theorem peerRow_steady (mtype q : Nat) (least : Bytes → Nat) (frames : List Bytes) (f : Bytes → State → State) (s : State) (hf : ∀ (x0 : Bytes) (x1 : State), (f x0 x1).steady = (x1).steady) : (peerRow mtype q least frames f s).steady = s.steady := by
  unfold peerRow; (try dsimp only) <;> (repeat' split) <;> first | (simp [steady_fields, hf]; done) | ((try simp [hf]); grind [headReceive_steady, headReceive_pair]) | (simp_all [steady_fields]; done)

@[simp] theorem peerRoot_steady (mtype q : Nat) (least : Bytes → Nat) (frames : List Bytes) (f : Bytes → State → State) (s : State) (hf : ∀ (x0 : Bytes) (x1 : State), (f x0 x1).steady = (x1).steady) : (peerRoot mtype q least frames f s).steady = s.steady := by
  unfold peerRoot; (try dsimp only) <;> (repeat' split) <;> first | (simp [steady_fields, hf]; done) | ((try simp [hf]); grind [subLink_steady, modifyHarrow_steady, arrive_steady, headReceive_steady, arrive_pair, headReceive_pair]) | (simp_all [steady_fields]; done)

theorem execHeadlandBadMessage_steady (sub : Nat) (frames : List Bytes) (s : State) : ∃ t, execHeadlandBadMessage sub frames s = .next t ∧ t.steady = s.steady := by
  unfold execHeadlandBadMessage; (repeat' split) <;> refine ⟨_, rfl, ?_⟩ <;> (try dsimp only) <;> (repeat' split) <;> first | (simp [steady_fields]; done) | ((try simp); grind [badMessage_steady, headReceive_steady, headReceive_pair]) | (simp_all [steady_fields]; done)

@[simp] theorem headSendAll_steady (mtype : Nat) (body : Bytes) (s : State) : (headSendAll mtype body s).steady = s.steady := by
  unfold headSendAll; simp

@[simp] theorem sendInventory_steady (s : State) : (sendInventory s).steady = s.steady := by
  unfold sendInventory; simp

@[simp] theorem miswired_steady (b : Nat) (s : State) : (miswired b s).steady = s.steady := by
  unfold miswired; simp

@[simp] theorem inventoryFrom_steady (body : Bytes) (s : State) : (inventoryFrom body s).steady = s.steady := by
  unfold inventoryFrom; dsimp only
  have k : ∀ (g : State → Nat × Nat × Nat → State) (l : List (Nat × Nat × Nat)) (a : State),
    (∀ st x, (g st x).steady = st.steady) → (l.foldl g a).steady = a.steady := fun g l a h => foldl_steady g h l a
  split
  · refine (k _ _ _ (fun st e => ?_)).trans ?_
    · split
      · split <;> simp
      · rfl
    · split
      · simp
      · split <;> simp
  · refine (sendInventory_steady ..).trans ((k _ _ _ (fun st e => ?_)).trans ?_)
    · split
      · split <;> simp
      · rfl
    · split
      · simp
      · split <;> simp

theorem execInventory_steady (sub : Nat) (frames : List Bytes) (s : State) : ∃ t, execInventory sub frames s = .next t ∧ t.steady = s.steady := by
  exact ⟨_, rfl, by simp⟩

theorem execActiveReady_steady (sub : Nat) (frames : List Bytes) (s : State) : ∃ t, execActiveReady sub frames s = .next t ∧ t.steady = s.steady := by
  exact ⟨_, rfl, by simp⟩

@[simp] theorem handoffDelivered_steady (s : State) : (handoffDelivered s).steady = s.steady := by
  unfold handoffDelivered; simp

@[simp] theorem resendHandoff_steady (s : State) : (resendHandoff s).steady = s.steady := by
  unfold resendHandoff; simp

@[simp] theorem subStep_steady (q : Nat) (f : LinkEnd → LinkEnd × List Bytes) (s : State) : (subStep q f s).steady = s.steady := by
  unfold subStep; simp

theorem execHeadlandTrainTimeout_steady (sub : Nat) (miswired : Bool) (s : State) : ∃ t, execHeadlandTrainTimeout sub miswired s = .next t ∧ t.steady = s.steady := by
  exact ⟨_, rfl, by simp⟩

@[simp] theorem linkCame_steady (s : State) : (linkCame s).steady = s.steady := by
  unfold linkCame; simp [steady_fields]

theorem execHeadlandRetrainRetry_steady (sub : Nat) (s : State) : ∃ t, execHeadlandRetrainRetry sub s = .next t ∧ t.steady = s.steady := by
  exact ⟨_, rfl, by simp⟩

theorem execHeadlandLinkFrame_steady (sub : Nat) (nak : Bool) (ack : Option Nat) (credit : Nat) (s : State) : ∃ t, execHeadlandLinkFrame sub nak ack credit s = .next t ∧ t.steady = s.steady := by
  exact ⟨_, rfl, by simp⟩

theorem execHeadlandReplayTimeout_steady (sub : Nat) (s : State) : ∃ t, execHeadlandReplayTimeout sub s = .next t ∧ t.steady = s.steady := by
  exact ⟨_, rfl, by simp⟩

theorem execHeadlandBlockLockLoss_steady (sub : Nat) (s : State) : ∃ t, execHeadlandBlockLockLoss sub s = .next t ∧ t.steady = s.steady := by
  exact ⟨_, rfl, by simp⟩

theorem execHeadlandFrameDiscard_steady (sub : Nat) (cause : Discard) (s : State) : ∃ t, execHeadlandFrameDiscard sub cause s = .next t ∧ t.steady = s.steady := by
  exact ⟨_, rfl, by simp⟩

theorem execHeadlandDegradeClear_steady (s : State) : ∃ t, execHeadlandDegradeClear s = .next t ∧ t.steady = s.steady := by
  exact ⟨_, rfl, by simp⟩

theorem execHeartbeatTimer_steady (s : State) : ∃ t, execHeartbeatTimer s = .next t ∧ t.steady = s.steady := by
  exact ⟨_, rfl, by simp⟩

@[simp] theorem setClock_steady (t : Nat) (fast : Bool) (s : State) : (setClock t fast s).steady = s.steady := by
  unfold setClock; simp [steady_fields]

@[simp] theorem heedTime_steady (peer : Nat) (s : State) : (heedTime peer s).steady = s.steady := by
  unfold heedTime; simp

@[simp] theorem raiseSequences_steady (write jseq : Nat) (ingest : List Nat) (s : State) : (raiseSequences write jseq ingest s).steady = s.steady := by
  unfold raiseSequences; simp [steady_fields]

@[simp] theorem sendWaitingMirrors_steady (free : Nat) (s : State) : (sendWaitingMirrors free s).steady = s.steady := by
  unfold sendWaitingMirrors
  exact foldl_steady2 _ (fun acc m => by split <;> simp) _ _

@[simp] theorem resyncItems_steady (s : State) : (resyncItems s).2.steady = s.steady := by
  unfold resyncItems; dsimp only
  exact foldl_steady2 _ (fun acc r => by dsimp only; split <;> simp) _ _

theorem resyncItems_pair {s : State} {r0 : _} {last : State} (eq : resyncItems s = (r0, last)) : last.steady = s.steady := by
  have k := resyncItems_steady s; rwa [eq] at k

@[simp] theorem resyncSend_steady (s : State) (x : ResyncItem) : (resyncSend s x).steady = s.steady := by
  unfold resyncSend; first | (simp [steady_fields]; done) | ((try simp); (repeat' split) <;> simp_all [steady_fields]; done)

@[simp] theorem sendKeys_steady (s : State) : (sendKeys s).steady = s.steady := by
  unfold sendKeys; refine foldl_steady _ (fun st x => ?_) _ _
  split <;> simp

@[simp] theorem beginResync_steady (s : State) : (beginResync s).steady = s.steady := by
  unfold beginResync; simp

@[simp] theorem peerStarts_steady (s : State) : (peerStarts s).steady = s.steady := by
  unfold peerStarts; simp

@[simp] theorem tryReturn_steady (s : State) : (tryReturn s).steady = s.steady := by
  unfold tryReturn; simp

@[simp] theorem heartbeatFrom_steady (b : Bytes) (s : State) : (heartbeatFrom b s).steady = s.steady := by
  unfold heartbeatFrom; simp

theorem execHeartbeat_steady (sub : Nat) (frames : List Bytes) (s : State) : ∃ t, execHeartbeat sub frames s = .next t ∧ t.steady = s.steady := by
  exact ⟨_, rfl, by simp⟩

theorem takeForwarded_steady (t : Target) (off len : Nat) (s : State) : ∀ r, takeForwarded t off len s = some r → r.2.steady = s.steady := by
  intro r h; unfold takeForwarded at h
  obtain ⟨f, -, h1⟩ := Option.bind_eq_some_iff.mp h
  obtain ⟨x, -, h2⟩ := Option.map_eq_some_iff.mp h1
  subst h2; simp

theorem takeForwarded_some {t : Target} {off len : Nat} {s : State} {r0 : _} {last : State} (eq : takeForwarded t off len s = some (r0, last)) : last.steady = s.steady :=
  takeForwarded_steady t off len s _ eq

theorem storeBuffered_steady (q mseq jseq : Nat) (t : Target) (off len seq : Nat) (payload : Option Bytes) (s : State) : ∀ r, storeBuffered q mseq jseq t off len seq payload s = some r → r.steady = s.steady := by
  intro r h; revert h; unfold storeBuffered; (try dsimp only) <;> (repeat' split) <;> intro h <;> first | (simp at h; done) | (simp at h; subst h; simp [steady_fields]; done) | ((try simp at h); grind [steady_fields, modifyIngest_steady, landBytes_steady, takeForwarded_steady, landBytes_some, takeForwarded_some])

theorem storeBuffered_some {q mseq jseq : Nat} {t : Target} {off len seq : Nat} {payload : Option Bytes} {s : State} {last : State} (eq : storeBuffered q mseq jseq t off len seq payload s = some last) : last.steady = s.steady :=
  storeBuffered_steady q mseq jseq t off len seq payload s _ eq

@[simp] theorem mirrorDone_steady (t : Target) (entry jseq : Nat) (s : State) : (mirrorDone t entry jseq s).steady = s.steady := by
  unfold mirrorDone; simp

@[simp] theorem mirrorEffects_steady (jseq : Nat) (b : JBody) (s : State) : (mirrorEffects jseq b s).steady = s.steady := by
  unfold mirrorEffects; first | (simp [steady_fields]; done) | ((try simp); (repeat' split) <;> simp_all [steady_fields]; done)

@[simp] theorem beforeMirror_steady (b : JBody) (s : State) : (beforeMirror b s).steady = s.steady := by
  unfold beforeMirror; split
  · cases nsAt _ s <;> simp
  · cases nsAt _ s <;> simp
  · rfl

theorem storeRecords_steady (q mseq : Nat) : ∀ (x0 : List (Nat × Nat × Bytes)) (x1 : Option Bytes) (x2 : State), ∀ r, storeRecords q mseq x0 x1 x2 = some r → r.steady = x2.steady := by
  intro l; induction l with
  | nil => intro p s r h; cases h; rfl
  | cons x rest ih =>
    obtain ⟨jseq, jtype, bytes⟩ := x
    intro p s r h; unfold storeRecords at h; dsimp only at h; split at h
    · split at h
      · rename_i e2; have k := ih _ _ _ h; simpa [storeBuffered_some e2] using k
      · cases h
    · simpa using ih _ _ _ h
    · simpa using ih _ _ _ h

@[simp] theorem sendMirrorAck_steady (q mseq status : Nat) (s : State) : (sendMirrorAck q mseq status s).steady = s.steady := by
  unfold sendMirrorAck; simp

@[simp] theorem resyncCheck_steady (s : State) : (resyncCheck s).steady = s.steady := by
  unfold resyncCheck; first | (simp [steady_fields]; done) | ((try simp); (repeat' split) <;> simp_all [steady_fields]; done)

@[simp] theorem answerDrains_steady (s : State) : (answerDrains s).steady = s.steady := by
  unfold answerDrains; simp

@[simp] theorem mirrorFrom_steady (q : Nat) (body : Bytes) (s : State) : (mirrorFrom q body s).steady = s.steady := by
  unfold mirrorFrom; (try dsimp only) <;> (repeat' split) <;> first | (simp [steady_fields]; done) | ((try simp); grind [growFar_steady, modifyHeadland_steady, countHead_steady, modifyReturn_steady, storeRecords_steady, sendMirrorAck_steady, resyncCheck_steady, answerDrains_steady]) | (simp_all [steady_fields]; done)

theorem execMirror_steady (sub : Nat) (frames : List Bytes) (s : State) : ∃ t, execMirror sub frames s = .next t ∧ t.steady = s.steady := by
  exact ⟨_, rfl, by simp⟩

@[simp] theorem resyncBegins_steady (body : Bytes) (s : State) : (resyncBegins body s).steady = s.steady := by
  unfold resyncBegins; simp

theorem execResyncBegin_steady (sub : Nat) (frames : List Bytes) (s : State) : ∃ t, execResyncBegin sub frames s = .next t ∧ t.steady = s.steady := by
  exact ⟨_, rfl, by simp⟩

theorem execResyncEnd_steady (sub : Nat) (frames : List Bytes) (s : State) : ∃ t, execResyncEnd sub frames s = .next t ∧ t.steady = s.steady := by
  exact ⟨_, rfl, by simp⟩

@[simp] theorem releaseMirrored_steady (body : Bytes) (s : State) : (releaseMirrored body s).steady = s.steady := by
  unfold releaseMirrored; simp

theorem execRelease_steady (sub : Nat) (frames : List Bytes) (s : State) : ∃ t, execRelease sub frames s = .next t ∧ t.steady = s.steady := by
  exact ⟨_, rfl, by simp⟩

@[simp] theorem mirrorAcknowledged_steady (q mseq : Nat) (s : State) : (mirrorAcknowledged q mseq s).steady = s.steady := by
  unfold mirrorAcknowledged; simp

@[simp] theorem mirrorAckFrom_steady (q : Nat) (body : Bytes) (s : State) : (mirrorAckFrom q body s).steady = s.steady := by
  unfold mirrorAckFrom; first | (simp [steady_fields]; done) | ((try simp); (repeat' split) <;> simp_all [steady_fields]; done)

theorem execMirrorAck_steady (sub : Nat) (frames : List Bytes) (s : State) : ∃ t, execMirrorAck sub frames s = .next t ∧ t.steady = s.steady := by
  exact ⟨_, rfl, by simp⟩

theorem execMirrorTimeout_steady (mseq : Nat) (s : State) : ∃ t, execMirrorTimeout mseq s = .next t ∧ t.steady = s.steady := by
  refine ⟨_, rfl, ?_⟩; first | (simp [steady_fields]; done) | ((try simp); (repeat' split) <;> simp_all [steady_fields]; done)

theorem execMirrorGiveup_steady (mseq : Nat) (s : State) : ∃ t, execMirrorGiveup mseq s = .next t ∧ t.steady = s.steady := by
  exact ⟨_, rfl, by simp⟩

theorem execTxDisableEnd_steady (s : State) : ∃ t, execTxDisableEnd s = .next t ∧ t.steady = s.steady := by
  exact ⟨_, rfl, by simp⟩

theorem execHeadlandStatus_steady (p : McPacket) (s : State) : ∃ t, execHeadlandStatus p s = .next t ∧ t.steady = s.steady := by
  exact ⟨_, rfl, by simp⟩

end Sys2Proof.Machine
end

