-- ==== Sys2Proof/Laws/Steady/Peers.lean ====
section
/-! SUPPORT. What `Machine/Peers.lean` changes leaves the steady fields as they are. -/

namespace Sys2Proof.Machine

@[simp] theorem forwardedBody_steady (opcode : Nat) (p : McPacket) (s : State) : (forwardedBody opcode p s).2.steady = s.steady := by
  unfold forwardedBody; simp

theorem forwardedBody_pair {opcode : Nat} {p : McPacket} {s : State} {r0 : _} {last : State} (eq : forwardedBody opcode p s = (r0, last)) : last.steady = s.steady := by
  have k := forwardedBody_steady opcode p s; rwa [eq] at k

@[simp] theorem forwardFrom_steady (q : Nat) (body : Bytes) (s : State) : (forwardFrom q body s).steady = s.steady := by
  unfold forwardFrom; dsimp only; repeat' split
  all_goals simp

theorem execForward_steady (sub : Nat) (frames : List Bytes) (s : State) : ∃ t, execForward sub frames s = .next t ∧ t.steady = s.steady := by
  exact ⟨_, rfl, by simp⟩

@[simp] theorem nvForwardDone_steady (qp cid : Nat) (st : Status) (s : State) : (nvForwardDone qp cid st s).steady = s.steady := by
  unfold nvForwardDone; simp

@[simp] theorem scopeParamPlaced_steady (id : Nat) (p : McPacket) (s : State) : (scopeParamPlaced id p s).steady = s.steady := by
  unfold scopeParamPlaced; first | (simp [steady_fields]; done) | ((try simp); (repeat' split) <;> simp_all [steady_fields]; done)

@[simp] theorem mciForwardDone_steady (f : Forward) (st : Status) (result rest : Bytes) (bad : List Nat) (s : State) : (mciForwardDone f st result rest bad s).steady = s.steady := by
  unfold mciForwardDone; simp

@[simp] theorem forwardDoneFrom_steady (body : Bytes) (bad : List Nat) (s : State) : (forwardDoneFrom body bad s).steady = s.steady := by
  unfold forwardDoneFrom; first | (simp [steady_fields]; done) | ((try simp); (repeat' split) <;> simp_all [steady_fields]; done)

theorem execForwardDone_steady (sub : Nat) (frames : List Bytes) (bad : List Nat) (s : State) : ∃ t, execForwardDone sub frames bad s = .next t ∧ t.steady = s.steady := by
  exact ⟨_, rfl, by simp⟩

@[simp] theorem keyLoadFrom_steady (q : Nat) (body : Bytes) (s : State) : (keyLoadFrom q body s).steady = s.steady := by
  unfold keyLoadFrom; first | (simp [steady_fields]; done) | ((try simp); (repeat' split) <;> simp_all [steady_fields]; done)

theorem execKeyLoad_steady (sub : Nat) (frames : List Bytes) (s : State) : ∃ t, execKeyLoad sub frames s = .next t ∧ t.steady = s.steady := by
  exact ⟨_, rfl, by simp⟩

@[simp] theorem keyLoadAckFrom_steady (body : Bytes) (s : State) : (keyLoadAckFrom body s).steady = s.steady := by
  unfold keyLoadAckFrom; first | (simp [steady_fields]; done) | ((try simp); (repeat' split) <;> simp_all [steady_fields]; done)

theorem execKeyLoadAck_steady (sub : Nat) (frames : List Bytes) (s : State) : ∃ t, execKeyLoadAck sub frames s = .next t ∧ t.steady = s.steady := by
  exact ⟨_, rfl, by simp⟩

@[simp] theorem noteGrant_steady (head : Nat) (rs : List (Nat × Nat)) (s : State) : (noteGrant head rs s).steady = s.steady := by
  unfold noteGrant; simp

@[simp] theorem idRequested_steady (s : State) : (idRequested s).steady = s.steady := by
  unfold idRequested; simp

theorem execIdBlockReq_steady (sub : Nat) (frames : List Bytes) (s : State) : ∃ t, execIdBlockReq sub frames s = .next t ∧ t.steady = s.steady := by
  exact ⟨_, rfl, by simp⟩

@[simp] theorem idGranted_steady (body : Bytes) (s : State) : (idGranted body s).steady = s.steady := by
  unfold idGranted; simp

theorem execIdBlockGrant_steady (sub : Nat) (frames : List Bytes) (s : State) : ∃ t, execIdBlockGrant sub frames s = .next t ∧ t.steady = s.steady := by
  exact ⟨_, rfl, by simp⟩

@[simp] theorem sendEraseDone_steady (acre i : Nat) (st : Status) (s : State) : (sendEraseDone acre i st s).steady = s.steady := by
  unfold sendEraseDone; simp

@[simp] theorem eraseAsked_steady (body : Bytes) (s : State) : (eraseAsked body s).steady = s.steady := by
  unfold eraseAsked; simp

theorem execEraseReq_steady (sub : Nat) (frames : List Bytes) (s : State) : ∃ t, execEraseReq sub frames s = .next t ∧ t.steady = s.steady := by
  exact ⟨_, rfl, by simp⟩

theorem execEraseDone_steady (sub : Nat) (frames : List Bytes) (s : State) : ∃ t, execEraseDone sub frames s = .next t ∧ t.steady = s.steady := by
  exact ⟨_, rfl, by simp⟩

theorem execDrainReq_steady (sub : Nat) (frames : List Bytes) (s : State) : ∃ t, execDrainReq sub frames s = .next t ∧ t.steady = s.steady := by
  exact ⟨_, rfl, by simp⟩

theorem execDrainReply_steady (sub : Nat) (frames : List Bytes) (s : State) : ∃ t, execDrainReply sub frames s = .next t ∧ t.steady = s.steady := by
  exact ⟨_, rfl, by simp⟩

@[simp] theorem sendImage_steady (piece : Nat) (data : Option Bytes) (s : State) : (sendImage piece data s).steady = s.steady := by
  unfold sendImage; simp

@[simp] theorem imageAsked_steady (body : Bytes) (s : State) : (imageAsked body s).steady = s.steady := by
  unfold imageAsked; simp

theorem execImageReq_steady (sub : Nat) (frames : List Bytes) (s : State) : ∃ t, execImageReq sub frames s = .next t ∧ t.steady = s.steady := by
  exact ⟨_, rfl, by simp⟩

@[simp] theorem askPieces_steady (first count : Nat) (s : State) : (askPieces first count s).steady = s.steady := by
  unfold askPieces; simp

@[simp] theorem imageCame_steady (body : Bytes) (s : State) : (imageCame body s).steady = s.steady := by
  unfold imageCame; first | (simp [steady_fields]; done) | ((try simp); (repeat' split) <;> simp_all [steady_fields]; done)

theorem execImageData_steady (sub : Nat) (frames : List Bytes) (s : State) : ∃ t, execImageData sub frames s = .next t ∧ t.steady = s.steady := by
  exact ⟨_, rfl, by simp⟩

theorem execYieldNotice_steady (sub : Nat) (frames : List Bytes) (s : State) : ∃ t, execYieldNotice sub frames s = .next t ∧ t.steady = s.steady := by
  exact ⟨_, rfl, by simp⟩

@[simp] theorem stepPast_steady (s : State) : (stepPast s).steady = s.steady := by
  unfold stepPast; simp

@[simp] theorem applyTail_steady (tail : Bytes) (s : State) : (applyTail tail s).steady = s.steady := by
  unfold applyTail; dsimp only; refine foldl_steady _ (fun st x => ?_) _ _
  split
  · rfl
  · split
    · split <;> simp
    · rfl

@[simp] theorem adoptJournal_steady (s : State) : (adoptJournal s).steady = s.steady := by
  unfold adoptJournal; simp [steady_fields]

@[simp] theorem dropOrphan_steady (r : BufferedRec) (s : State) : (dropOrphan r s).steady = s.steady := by
  unfold dropOrphan; first | (simp [steady_fields]; done) | ((try simp); (repeat' split) <;> simp_all [steady_fields]; done)

@[simp] theorem adoptIngest_steady (s : State) : (adoptIngest s).steady = s.steady := by
  unfold adoptIngest; simp

@[simp] theorem adoptIds_steady (s : State) : (adoptIds s).steady = s.steady := by
  unfold adoptIds; simp

@[simp] theorem adoptDump_steady (s0 : State) : (adoptDump s0).steady = s0.steady := by
  unfold adoptDump; simp [steady_fields]

@[simp] theorem adoptPuts_steady (s : State) : (adoptPuts s).steady = s.steady := by
  unfold adoptPuts; simp

@[simp] theorem addWait_steady (qp cid : Nat) (stamps : List (Nat × Nat)) (s : State) : (addWait qp cid stamps s).steady = s.steady := by
  unfold addWait; simp

@[simp] theorem settleNvme_steady (f : Forward) (mir : List BufferedRec) (known : List (Nat × JBody)) (s : State) : (settleNvme f mir known s).steady = s.steady := by
  unfold settleNvme; first | (simp [steady_fields]; done) | ((try simp); (repeat' split) <;> simp_all [steady_fields]; done)

@[simp] theorem settleSheaf_steady (f : Forward) (mir : List BufferedRec) (known : List (Nat × JBody)) (s : State) : (settleSheaf f mir known s).steady = s.steady := by
  unfold settleSheaf; first | (simp [steady_fields]; done) | ((try simp); (repeat' split) <;> simp_all [steady_fields]; done)

@[simp] theorem settleMci_steady (f : Forward) (s : State) : (settleMci f s).steady = s.steady := by
  unfold settleMci; dsimp only; repeat' split
  all_goals simp [steady_fields]

@[simp] theorem settleExport_steady (f : Forward) (s : State) : (settleExport f s).steady = s.steady := by
  unfold settleExport; split
  · rfl
  · dsimp only
    refine getD_steady _ _ _ (fun r h => ?_) (by simp)
    rename_i e _
    cases eq : beginSnap (fieldAt f.body 16 1) (fieldAt f.body 18 2)
      (stampBarrier (modifyRun e.num (fun y => { y with asked := removeAt f.id y.asked }) s)).1 (some e.num) none
      (stampBarrier (modifyRun e.num (fun y => { y with asked := removeAt f.id y.asked }) s)).2 with
    | none => rw [eq] at h; cases h
    | some r0 => rw [eq] at h; cases h; simpa using beginSnap_steady _ _ _ _ _ _ _ eq

@[simp] theorem settleForwards_steady (mir : List BufferedRec) (known : List (Nat × JBody)) (s : State) : (settleForwards mir known s).steady = s.steady := by
  unfold settleForwards; simp

@[simp] theorem adoptAll_steady (tail : Bytes) (s : State) : (adoptAll tail s).steady = s.steady := by
  unfold adoptAll; simp

theorem execTakeoverAdopt_steady (tail : Bytes) (s : State) : ∃ t, execTakeoverAdopt tail s = .next t ∧ t.steady = s.steady := by
  refine ⟨_, rfl, ?_⟩; first | (simp [steady_fields]; done) | ((try simp); (repeat' split) <;> simp_all [steady_fields]; done)

@[simp] theorem sendHandoff_steady (bridge op : Nat) (s : State) : (sendHandoff bridge op s).steady = s.steady := by
  unfold sendHandoff; simp

@[simp] theorem handNext_steady (s : State) : (handNext s).steady = s.steady := by
  unfold handNext; first | (simp [steady_fields]; done) | ((try simp); (repeat' split) <;> simp_all [steady_fields]; done)

@[simp] theorem returnAsked_steady (s : State) : (returnAsked s).steady = s.steady := by
  unfold returnAsked; simp

theorem execReturnReq_steady (sub : Nat) (frames : List Bytes) (s : State) : ∃ t, execReturnReq sub frames s = .next t ∧ t.steady = s.steady := by
  exact ⟨_, rfl, by simp⟩

@[simp] theorem returnGranted_steady (body : Bytes) (s : State) : (returnGranted body s).steady = s.steady := by
  unfold returnGranted; simp

theorem execReturnGrant_steady (sub : Nat) (frames : List Bytes) (s : State) : ∃ t, execReturnGrant sub frames s = .next t ∧ t.steady = s.steady := by
  exact ⟨_, rfl, by simp⟩

@[simp] theorem handoffReleased_steady (b : Nat) (s : State) : (handoffReleased b s).steady = s.steady := by
  unfold handoffReleased; simp

@[simp] theorem handoffAcquired_steady (b : Nat) (s : State) : (handoffAcquired b s).steady = s.steady := by
  unfold handoffAcquired; simp

@[simp] theorem returnComplete_steady (s : State) : (returnComplete s).steady = s.steady := by
  unfold returnComplete; simp

theorem execHandoff_steady (sub : Nat) (frames : List Bytes) (s : State) : ∃ t, execHandoff sub frames s = .next t ∧ t.steady = s.steady := by
  exact ⟨_, rfl, by simp⟩

theorem execHoldDownExpiry_steady (s : State) : ∃ t, execHoldDownExpiry s = .next t ∧ t.steady = s.steady := by
  exact ⟨_, rfl, by simp⟩

@[simp] theorem returnAutoOn_steady (s : State) : (returnAutoOn s).2.steady = s.steady := by
  unfold returnAutoOn; simp

theorem returnAutoOn_pair {s : State} {r0 : _} {last : State} (eq : returnAutoOn s = (r0, last)) : last.steady = s.steady := by
  have k := returnAutoOn_steady s; rwa [eq] at k

theorem execReturnControlAutoOn_steady (p : McPacket) (s : State) : ∃ t, execReturnControlAutoOn p s = .next t ∧ t.steady = s.steady := by
  exact ⟨_, rfl, by simp⟩

theorem execReturnControlAutoOff_steady (p : McPacket) (s : State) : ∃ t, execReturnControlAutoOff p s = .next t ∧ t.steady = s.steady := by
  exact ⟨_, rfl, by simp⟩

@[simp] theorem returnEndHold_steady (s : State) : (returnEndHold s).2.steady = s.steady := by
  unfold returnEndHold; simp

theorem returnEndHold_pair {s : State} {r0 : _} {last : State} (eq : returnEndHold s = (r0, last)) : last.steady = s.steady := by
  have k := returnEndHold_steady s; rwa [eq] at k

theorem execReturnControlEndHold_steady (p : McPacket) (s : State) : ∃ t, execReturnControlEndHold p s = .next t ∧ t.steady = s.steady := by
  exact ⟨_, rfl, by simp⟩

@[simp] theorem returnYield_steady (s : State) : (returnYield s).2.steady = s.steady := by
  unfold returnYield; simp

theorem returnYield_pair {s : State} {r0 : _} {last : State} (eq : returnYield s = (r0, last)) : last.steady = s.steady := by
  have k := returnYield_steady s; rwa [eq] at k

theorem execReturnControlYield_steady (p : McPacket) (s : State) : ∃ t, execReturnControlYield p s = .next t ∧ t.steady = s.steady := by
  exact ⟨_, rfl, by simp⟩

end Sys2Proof.Machine
end

