-- ==== Sys2Proof/Laws/Steady/Dump.lean ====
section
/-! SUPPORT. What `Machine/Dump.lean` changes leaves the steady fields as they are. -/

namespace Sys2Proof.Machine

@[simp] theorem withPayloads_steady (rs : List BufferedRec) (s : State) : (withPayloads rs s).2.steady = s.steady := by
  unfold withPayloads; exact foldl_steady2 _ (fun acc r => by split <;> simp) _ _

theorem withPayloads_pair {rs : List BufferedRec} {s : State} {r0 : _} {last : State} (eq : withPayloads rs s = (r0, last)) : last.steady = s.steady := by
  have k := withPayloads_steady rs s; rwa [eq] at k

@[simp] theorem dumpImage_steady (s : State) : (dumpImage s).2.steady = s.steady := by
  unfold dumpImage; simp

theorem dumpImage_pair {s : State} {r0 : _} {last : State} (eq : dumpImage s = (r0, last)) : last.steady = s.steady := by
  have k := dumpImage_steady s; rwa [eq] at k

@[simp] theorem writeDumpBale_steady (a : Acre) (rs : List BaleRecord) (s : State) : (writeDumpBale a rs s).steady = s.steady := by
  unfold writeDumpBale; simp [steady_fields]

@[simp] theorem writeDump_steady  : ∀ (x0 : Nat) (x1 : List Bytes) (x2 : State), (writeDump x0 x1 x2).steady = x2.steady := by
  intro x0; induction x0 with
  | zero => intros; simp [writeDump]
  | succ n ih => intros; unfold writeDump; first | (simp [steady_fields, ih]; done) | (simp [ih]; (repeat' split) <;> simp_all [steady_fields]; done)

@[simp] theorem dumpProgrammed_steady (acre bale plot : Nat) (s : State) : (dumpProgrammed acre bale plot s).steady = s.steady := by
  unfold dumpProgrammed; simp [steady_fields]

@[simp] theorem dumpAcreFailed_steady (acre : Nat) (s : State) : (dumpAcreFailed acre s).steady = s.steady := by
  unfold dumpAcreFailed; first | (simp [steady_fields]; done) | ((try simp); (repeat' split) <;> simp_all [steady_fields]; done)

@[simp] theorem loseContexts_steady (s : State) : (loseContexts s).steady = s.steady := by
  unfold loseContexts; simp

@[simp] theorem enterDump_steady (byPin : Bool) (s : State) : (enterDump byPin s).steady = s.steady := by
  unfold enterDump; simp [steady_fields]

@[simp] theorem quietStop_steady (s : State) : (quietStop s).steady = s.steady := by
  unfold quietStop; simp

theorem execPwrfailAccept_steady (s : State) : ∃ t, execPwrfailAccept s = .next t ∧ t.steady = s.steady := by
  exact ⟨_, rfl, by simp⟩

theorem execPwrfailNRise_steady (s : State) : ∃ t, execPwrfailNRise s = .next t ∧ t.steady = s.steady := by
  exact ⟨_, rfl, by simp⟩

theorem execPwrfailHighTimer_steady (s : State) : ∃ t, execPwrfailHighTimer s = .next t ∧ t.steady = s.steady := by
  exact ⟨_, rfl, by simp⟩

theorem execDumpEndCommitted_steady (s : State) : ∃ t, execDumpEndCommitted s = .next t ∧ t.steady = s.steady := by
  refine ⟨_, rfl, ?_⟩; first | (simp [steady_fields]; done) | ((try simp); (repeat' split) <;> simp_all [steady_fields]; done)

@[simp] theorem enterService_steady (s : State) : (enterService s).steady = s.steady := by
  unfold enterService; simp

@[simp] theorem setModeCommand_steady (p : McPacket) (s : State) : (setModeCommand p s).2.steady = s.steady := by
  unfold setModeCommand; simp

theorem setModeCommand_pair {p : McPacket} {s : State} {r0 : _} {last : State} (eq : setModeCommand p s = (r0, last)) : last.steady = s.steady := by
  have k := setModeCommand_steady p s; rwa [eq] at k

theorem execSetModeBoot_steady (p : McPacket) (s : State) : ∃ t, execSetModeBoot p s = .next t ∧ t.steady = s.steady := by
  exact ⟨_, rfl, by simp⟩

theorem execSetModeDump_steady (p : McPacket) (s : State) : ∃ t, execSetModeDump p s = .next t ∧ t.steady = s.steady := by
  exact ⟨_, rfl, by simp⟩

theorem execSetModeService_steady (p : McPacket) (s : State) : ∃ t, execSetModeService p s = .next t ∧ t.steady = s.steady := by
  exact ⟨_, rfl, by simp⟩

end Sys2Proof.Machine
end

