-- ==== Sys2Proof/Laws/Steady/Wires.lean ====
section
/-! SUPPORT. What `Machine/Wires.lean` changes leaves the steady fields as they are. -/

namespace Sys2Proof.Machine

@[simp] theorem rewriteRecord_steady (b : Bale) (only : Option Nat) (s : State) (r : BaleRecord) : (rewriteRecord b only s r).2.steady = s.steady := by
  unfold rewriteRecord; (try dsimp only) <;> (repeat' split) <;> first | (simp [steady_fields]; done) | ((try simp); grind [place'_steady, appendRecord_steady, modifyJob_steady, appendRecord_pair]) | (simp_all [steady_fields]; done)

theorem rewriteRecord_pair {b : Bale} {only : Option Nat} {s : State} {r : BaleRecord} {r0 : _} {last : State} (eq : rewriteRecord b only s r = (r0, last)) : last.steady = s.steady := by
  have k := rewriteRecord_steady b only s r; rwa [eq] at k

@[simp] theorem rewriteBale_steady (only : Option Nat) (s : State) (b : Bale) : (rewriteBale only s b).steady = s.steady := by
  unfold rewriteBale; (try dsimp only) <;> (repeat' split) <;> first | (simp [steady_fields]; done) | ((try simp); grind [rewriteRecord_steady, rewriteRecord_pair]) | (simp_all [steady_fields]; done)

@[simp] theorem tearBales_steady (acre : Nat) (s : State) : (tearBales acre s).2.steady = s.steady := by
  unfold tearBales; (try dsimp only) <;> (repeat' split) <;> first | (simp [steady_fields]; done) | ((try simp); grind [modifyAcre_steady]) | (simp_all [steady_fields]; done)

theorem tearBales_pair {acre : Nat} {s : State} {r0 : _} {last : State} (eq : tearBales acre s = (r0, last)) : last.steady = s.steady := by
  have k := tearBales_steady acre s; rwa [eq] at k

@[simp] theorem baleFailed_steady (acre bale : Nat) (s : State) : (baleFailed acre bale s).steady = s.steady := by
  unfold baleFailed; split
  · rfl
  · dsimp only; refine (foldl_steady _ (fun st x => by simp) _ _).trans (by simp)

theorem execBaleSealTimeout_steady (acre bale : Nat) (s : State) : ∃ t, execBaleSealTimeout acre bale s = .next t ∧ t.steady = s.steady := by
  exact ⟨_, rfl, by simp⟩

@[simp] theorem programDone_steady (b : Nat) (c : FurrowCmd) (s : State) : (programDone b c s).steady = s.steady := by
  unfold programDone; first | (simp [steady_fields]; done) | ((try simp); (repeat' split) <;> simp_all [steady_fields]; done)

@[simp] theorem programFailed_steady (b : Nat) (c : FurrowCmd) (s : State) : (programFailed b c s).steady = s.steady := by
  unfold programFailed; first | (simp [steady_fields]; done) | ((try simp); (repeat' split) <;> simp_all [steady_fields]; done)

@[simp] theorem victimGone_steady (n i : Nat) (s : State) : (victimGone n i s).steady = s.steady := by
  unfold victimGone; first | (simp [steady_fields]; done) | ((try simp); (repeat' split) <;> simp_all [steady_fields]; done)

@[simp] theorem eraseDone_steady (b : Nat) (c : FurrowCmd) (good : Bool) (s : State) : (eraseDone b c good s).steady = s.steady := by
  unfold eraseDone; first | (simp [steady_fields]; done) | ((try simp); (repeat' split) <;> simp_all [steady_fields]; done)

@[simp] theorem requeue_steady (b : Nat) (c : FurrowCmd) (s : State) : (requeue b c s).steady = s.steady := by
  unfold requeue; simp

@[simp] theorem leaseGone_steady (b : Nat) (s : State) : (leaseGone b s).steady = s.steady := by
  unfold leaseGone; simp

theorem execLeaseWindowEnd_steady (bridge : Nat) (s : State) : ∃ t, execLeaseWindowEnd bridge s = .next t ∧ t.steady = s.steady := by
  exact ⟨_, rfl, by simp⟩

@[simp] theorem leaseHeld_steady (b sent reg : Nat) (s : State) : (leaseHeld b sent reg s).steady = s.steady := by
  unfold leaseHeld; simp

@[simp] theorem acquired_steady (b sent reg : Nat) (s : State) : (acquired b sent reg s).steady = s.steady := by
  unfold acquired; simp

@[simp] theorem acquireBusy_steady (b reg : Nat) (s : State) : (acquireBusy b reg s).steady = s.steady := by
  unfold acquireBusy; simp

@[simp] theorem released_steady (b reg : Nat) (s : State) : (released b reg s).steady = s.steady := by
  unfold released; simp

@[simp] theorem identified_steady (b : Nat) (i : BridgeIdent) (s : State) : (identified b i s).steady = s.steady := by
  unfold identified; simp

@[simp] theorem statusRead_steady (b : Nat) (r : Bytes) (s : State) : (statusRead b r s).steady = s.steady := by
  unfold statusRead; simp

@[simp] theorem grownBadBlock_steady (b : Nat) (s : State) (a : Nat) : (grownBadBlock b s a).steady = s.steady := by
  unfold grownBadBlock; simp

@[simp] theorem grownBadRead_steady (b : Nat) (r : Bytes) (data : List Bytes) (s : State) : (grownBadRead b r data s).steady = s.steady := by
  unfold grownBadRead; simp

@[simp] theorem response_steady (b : Nat) (c : FurrowCmd) (status : Nat) (result : Bytes) (data : List Bytes) (s0 : State) : (response b c status result data s0).steady = s0.steady := by
  unfold response; first | (simp [steady_fields]; done) | ((try simp); (repeat' split) <;> simp_all [steady_fields]; done)

@[simp] theorem bridgeWasReset_steady (b : Nat) (c : FurrowCmd) (s : State) : (bridgeWasReset b c s).steady = s.steady := by
  unfold bridgeWasReset; simp

@[simp] theorem responded_steady (b : Nat) (message : List LinkFrame) (s : State) : (responded b message s).steady = s.steady := by
  unfold responded; (try dsimp only) <;> (repeat' split) <;> first | (simp [steady_fields]; done) | ((try simp); grind [hswSync_steady, modifyFurrow_steady, retireCmd_steady, settle_steady, response_steady, bridgeWasReset_steady]) | (simp_all [steady_fields]; done)

theorem execFurrowResponse_steady (bridge : Nat) (frames : List Bytes) (s : State) : ∃ t, execFurrowResponse bridge frames s = .next t ∧ t.steady = s.steady := by
  refine ⟨_, rfl, ?_⟩; first | (simp [steady_fields]; done) | ((try simp); (repeat' split) <;> simp_all [steady_fields]; done)

theorem execFurrowResponseTimeout_steady (bridge tag : Nat) (s : State) : ∃ t, execFurrowResponseTimeout bridge tag s = .next t ∧ t.steady = s.steady := by
  refine ⟨_, rfl, ?_⟩; first | (simp [steady_fields]; done) | ((try simp); (repeat' split) <;> simp_all [steady_fields]; done)

@[simp] theorem trainFailed_steady (b : Nat) (s : State) : (trainFailed b s).steady = s.steady := by
  unfold trainFailed; simp

theorem execFurrowTrainTimeout_steady (bridge : Nat) (s : State) : ∃ t, execFurrowTrainTimeout bridge s = .next t ∧ t.steady = s.steady := by
  exact ⟨_, rfl, by simp⟩

theorem execFurrowTrainingDone_steady (bridge preset version credits : Nat) (s : State) : ∃ t, execFurrowTrainingDone bridge preset version credits s = .next t ∧ t.steady = s.steady := by
  exact ⟨_, rfl, by simp⟩

theorem execFurrowRetrainRetry_steady (bridge : Nat) (s : State) : ∃ t, execFurrowRetrainRetry bridge s = .next t ∧ t.steady = s.steady := by
  exact ⟨_, rfl, by simp⟩

theorem execFurrowLinkFrame_steady (bridge : Nat) (nak : Bool) (ack : Option Nat) (credit : Nat) (s : State) : ∃ t, execFurrowLinkFrame bridge nak ack credit s = .next t ∧ t.steady = s.steady := by
  exact ⟨_, rfl, by simp⟩

theorem execFurrowReplayTimeout_steady (bridge : Nat) (s : State) : ∃ t, execFurrowReplayTimeout bridge s = .next t ∧ t.steady = s.steady := by
  exact ⟨_, rfl, by simp⟩

theorem execFurrowBlockLockLoss_steady (bridge : Nat) (s : State) : ∃ t, execFurrowBlockLockLoss bridge s = .next t ∧ t.steady = s.steady := by
  exact ⟨_, rfl, by simp⟩

theorem execBridgeReset_steady (bridge : Nat) (s : State) : ∃ t, execBridgeReset bridge s = .next t ∧ t.steady = s.steady := by
  exact ⟨_, rfl, by simp⟩

theorem execFurrowFrameDiscard_steady (bridge : Nat) (cause : Discard) (s : State) : ∃ t, execFurrowFrameDiscard bridge cause s = .next t ∧ t.steady = s.steady := by
  exact ⟨_, rfl, by simp⟩

end Sys2Proof.Machine
end

