-- ==== Sys2Proof/Laws/Steady/Recovery.lean ====
section
/-! SUPPORT. What `Machine/Recovery.lean` changes leaves the steady fields as they are. -/

namespace Sys2Proof.Machine

@[simp] theorem newestGood_steady (entry : Nat) (f : MediaFacts) : ∀ (x0 : List FoundCopy) (x1 : State), (newestGood entry f x0 x1).2.steady = x1.steady := by
  intro l; induction l with
  | nil => intros; rfl
  | cons c rest ih =>
    intro s; unfold newestGood; split
    · rename_i eq; simp [openRecord_pair eq]
    · rename_i eq; simp [ih, openRecord_pair eq]

theorem newestGood_pair {entry : Nat} {f : MediaFacts} {x0 : List FoundCopy} {x1 : State} {r0 : _} {last : State} (eq : newestGood entry f x0 x1 = (r0, last)) : last.steady = x1.steady := by
  have k := newestGood_steady entry f x0 x1; rwa [eq] at k

@[simp] theorem settleLoc_steady (stray : Bool) (copies : List FoundCopy) (f : MediaFacts) (x : Nat × Loc) (s : State) : (settleLoc stray copies f x s).2.steady = s.steady := by
  unfold settleLoc; (try dsimp only) <;> (repeat' split) <;> first | (simp [steady_fields]; done) | ((try simp); grind [place'_steady, unrecovered_steady, newestGood_steady, newestGood_pair]) | (simp_all [steady_fields]; done)

theorem settleLoc_pair {stray : Bool} {copies : List FoundCopy} {f : MediaFacts} {x : Nat × Loc} {s : State} {r0 : _} {last : State} (eq : settleLoc stray copies f x s = (r0, last)) : last.steady = s.steady := by
  have k := settleLoc_steady stray copies f x s; rwa [eq] at k

@[simp] theorem rewriteLocs_steady (f : MediaFacts) (s : State) : (rewriteLocs f s).steady = s.steady := by
  unfold rewriteLocs; simp

end Sys2Proof.Machine
end

