-- ==== Sys2Proof/Laws/Steady/Boot.lean ====
section
/-! SUPPORT. What `Machine/Boot.lean` changes leaves the steady fields as they are. -/

namespace Sys2Proof.Machine

@[simp] theorem chooseLoader_steady (s : State) : (chooseLoader s).steady = s.steady := by
  unfold chooseLoader; simp

theorem startImage_steady (s : State) : ∀ r, startImage s = some r → r.steady = s.steady := by
  intro r h; revert h; unfold startImage; (try dsimp only) <;> (repeat' split) <;> intro h <;> first | (simp at h; done) | (simp at h; subst h; simp [steady_fields]; done) | ((try simp at h); grind [steady_fields, flashWritten_steady, almanac_steady, modifyFw_steady])

theorem startImage_some {s : State} {last : State} (eq : startImage s = some last) : last.steady = s.steady :=
  startImage_steady s _ eq

@[simp] theorem selfTest_steady (r : StepReport) (s : State) : (selfTest r s).steady = s.steady := by
  unfold selfTest; simp

@[simp] theorem identifyAll_steady (s : State) : (identifyAll s).steady = s.steady := by
  unfold identifyAll; simp

@[simp] theorem compareIdents_steady (s : State) : (compareIdents s).steady = s.steady := by
  unfold compareIdents; split
  · rfl
  · refine foldl_steady _ (fun st e => ?_) _ _
    split
    · split <;> simp
    · rfl

@[simp] theorem classify_steady (s0 : State) : (classify s0).2.steady = s0.steady := by
  unfold classify; first | (simp [steady_fields]; done) | ((try simp); (repeat' split) <;> simp_all [steady_fields]; done)

theorem classify_pair {s0 : State} {r0 : _} {last : State} (eq : classify s0 = (r0, last)) : last.steady = s0.steady := by
  have k := classify_steady s0; rwa [eq] at k

@[simp] theorem askLeases_steady (s : State) : (askLeases s).steady = s.steady := by
  unfold askLeases; simp

@[simp] theorem leasesHeld_steady (s : State) : (leasesHeld s).2.steady = s.steady := by
  unfold leasesHeld; simp

theorem leasesHeld_pair {s : State} {r0 : _} {last : State} (eq : leasesHeld s = (r0, last)) : last.steady = s.steady := by
  have k := leasesHeld_steady s; rwa [eq] at k

@[simp] theorem labelBlanks_steady (s : State) : (labelBlanks s).steady = s.steady := by
  unfold labelBlanks; simp

@[simp] theorem beginRecover_steady (s : State) : (beginRecover s).steady = s.steady := by
  unfold beginRecover; simp [steady_fields]

@[simp] theorem shareArray_steady (s : State) : (shareArray s).steady = s.steady := by
  unfold shareArray; simp

@[simp] theorem replay_steady (others : List (Nat × JBody)) (s : State) : (replay others s).steady = s.steady := by
  unfold replay; simp [steady_fields]

@[simp] theorem sealAcres_steady (s0 : State) : (sealAcres s0).steady = s0.steady := by
  unfold sealAcres; simp [steady_fields]

@[simp] theorem freeIds_steady (s : State) : (freeIds s).steady = s.steady := by
  unfold freeIds; simp

@[simp] theorem tellStop_steady (s : State) : (tellStop s).steady = s.steady := by
  unfold tellStop; first | (simp [steady_fields]; done) | ((try simp); (repeat' split) <;> simp_all [steady_fields]; done)

@[simp] theorem retireUnused_steady (s : State) : (retireUnused s).steady = s.steady := by
  unfold retireUnused; simp

@[simp] theorem recover_steady (r : StepReport) (s : State) : (recover r s).steady = s.steady := by
  unfold recover; simp

@[simp] theorem dropTorn_steady (s : State) : (dropTorn s).steady = s.steady := by
  unfold dropTorn; simp [steady_fields]

@[simp] theorem loseTarget_steady (r : BufferedRec) (s : State) : (loseTarget r s).steady = s.steady := by
  unfold loseTarget; (try dsimp only) <;> (repeat' split) <;> first | (simp [steady_fields]; done) | ((try simp); grind [modifyIngest_steady, place'_steady, readFail_steady, drawId_steady, drawId_pair]) | (simp_all [steady_fields]; done)

@[simp] theorem restoreRecord_steady (x : BufferedRec × Bytes) (s : State) : (restoreRecord x s).steady = s.steady := by
  unfold restoreRecord; (try dsimp only) <;> (repeat' split) <;> first | (simp [steady_fields]; done) | ((try simp); grind [modifyIngest_steady, mirrorSend_steady, landBytes_steady, dropOrphan_steady, mirrorSend_pair, landBytes_some]) | (simp_all [steady_fields]; done)

@[simp] theorem restoreMissing_steady (r : StepReport) (x : BufferedRec) (s : State) : (restoreMissing r x s).steady = s.steady := by
  unfold restoreMissing; (try dsimp only) <;> (repeat' split) <;> first | (simp [steady_fields]; done) | ((try simp); grind [loseTarget_steady, restoreRecord_steady]) | (simp_all [steady_fields]; done)

@[simp] theorem replayDump_steady (r : StepReport) (as : List Acre) (s : State) : (replayDump r as s).steady = s.steady := by
  unfold replayDump; simp [steady_fields]

@[simp] theorem dumpStep_steady (r : StepReport) (s : State) : (dumpStep r s).steady = s.steady := by
  unfold dumpStep; first | (simp [steady_fields]; done) | ((try simp); (repeat' split) <;> simp_all [steady_fields]; done)

@[simp] theorem farStep_steady (s : State) : (farStep s).steady = s.steady := by
  unfold farStep; simp

@[simp] theorem keysStep_steady (s : State) : (keysStep s).steady = s.steady := by
  unfold keysStep; simp

@[simp] theorem keysSkipped_steady (s : State) : (keysSkipped s).steady = s.steady := by
  unfold keysSkipped; simp

@[simp] theorem sendReady_steady (s : State) : (sendReady s).steady = s.steady := by
  unfold sendReady; simp

@[simp] theorem intoFallow_steady (r : StepReport) (s : State) : (intoFallow r s).steady = s.steady := by
  unfold intoFallow; simp

@[simp] theorem intoService_steady (m : Mode) (s : State) : (intoService m s).steady = s.steady := by
  unfold intoService; simp

@[simp] theorem startUpEnds_steady (r : StepReport) (m : Mode) (s : State) : (startUpEnds r m s).steady = s.steady := by
  unfold startUpEnds; simp

@[simp] theorem stepBegins_steady (step : Nat) (s : State) : (stepBegins step s).steady = s.steady := by
  unfold stepBegins; simp

@[simp] theorem stepSkipped_steady (step : Nat) (s : State) : (stepSkipped step s).steady = s.steady := by
  unfold stepSkipped; simp

@[simp] theorem beginFrom_steady  : ∀ (x0 : Nat) (x1 : Nat) (x2 : State), (beginFrom x0 x1 x2).steady = x2.steady := by
  intro x0; induction x0 with
  | zero => intros; simp [beginFrom]
  | succ n ih => intros; unfold beginFrom; first | (simp [steady_fields, ih]; done) | (simp [ih]; (repeat' split) <;> simp_all [steady_fields]; done)

@[simp] theorem stepWork_steady (step : Nat) (r : StepReport) (s : State) : (stepWork step r s).2.steady = s.steady := by
  unfold stepWork; (repeat' split) <;> first | (simp [steady_fields]; done) | (simp_all [steady_fields]; done) | grind [steady_fields, startImage_steady]

theorem stepWork_pair {step : Nat} {r : StepReport} {s : State} {r0 : _} {last : State} (eq : stepWork step r s = (r0, last)) : last.steady = s.steady := by
  have k := stepWork_steady step r s; rwa [eq] at k

@[simp] theorem stepFollows_steady (step : Nat) (r : StepReport) (s : State) : (stepFollows step r s).steady = s.steady := by
  unfold stepFollows; first | (simp [steady_fields]; done) | ((try simp); (repeat' split) <;> simp_all [steady_fields]; done)

@[simp] theorem stepFailed_steady (result : Status) (s : State) : (stepFailed result s).steady = s.steady := by
  unfold stepFailed; simp

theorem execBootStepDone_steady (report : StepReport) (s : State) : ∃ t, execBootStepDone report s = .next t ∧ t.steady = s.steady := by
  exact ⟨_, rfl, by simp⟩

theorem execBootWatchdog_steady (s : State) : ∃ t, execBootWatchdog s = .next t ∧ t.steady = s.steady := by
  exact ⟨_, rfl, by simp⟩

theorem execPcieRetryTimer_steady (up : Bool) (s : State) : ∃ t, execPcieRetryTimer up s = .next t ∧ t.steady = s.steady := by
  exact ⟨_, rfl, by simp⟩

@[simp] theorem newcomerResumes_steady (s : State) : (newcomerResumes s).steady = s.steady := by
  unfold newcomerResumes; simp

theorem execHeadlandTrainingDone_steady (sub preset : Nat) (s : State) : ∃ t, execHeadlandTrainingDone sub preset s = .next t ∧ t.steady = s.steady := by
  exact ⟨_, rfl, by simp⟩

end Sys2Proof.Machine
end

