-- ==== Sys2Proof/Laws/Steady/Power.lean ====
section
/-! SUPPORT. What `Machine/Power.lean` changes leaves the steady fields as they are. -/

namespace Sys2Proof.Machine

@[simp] theorem thermalEvent_steady (s : State) : (thermalEvent s).steady = s.steady := by
  unfold thermalEvent; simp

@[simp] theorem modifyTime_steady (f : TimePart → TimePart) (s : State) (h1 : (f s.time).ticks = s.time.ticks)
    (h2 : (f s.time).powerCycles = s.time.powerCycles) : (modifyTime f s).steady = s.steady := by
  simp only [modifyTime, steady_mk, h1, h2]; rfl

@[simp] theorem noteBand_steady (v : Nat) (s : State) : (noteBand v s).steady = s.steady := by
  unfold noteBand; simp

@[simp] theorem noteLowPace_steady (q v : Nat) (s : State) : (noteLowPace q v s).steady = s.steady := by
  unfold noteLowPace; simp

@[simp] theorem noteCollapse_steady (v : Nat) (s : State) : (noteCollapse v s).steady = s.steady := by
  unfold noteCollapse; simp

theorem execPaceWindow_steady (counts : List Nat) (s : State) : ∃ t, execPaceWindow counts s = .next t ∧ t.steady = s.steady := by
  refine ⟨_, rfl, ?_⟩; first | (simp [steady_fields]; done) | ((try simp); (repeat' split) <;> simp_all [steady_fields]; done)

@[simp] theorem modifyThermal_steady (f : ThermalPart → ThermalPart) (s : State)
    (h1 : (f s.thermal).tripLatched = s.thermal.tripLatched) (h2 : (f s.thermal).lifeUsed = s.thermal.lifeUsed) :
    (modifyThermal f s).steady = s.steady := by
  simp only [modifyThermal, steady_mk, h1, h2]; rfl

@[simp] theorem hottestCandidate_steady (m : ThermalMeans) (s : State) : (hottestCandidate m s).2.steady = s.steady := by
  unfold hottestCandidate; first | (simp [steady_fields]; done) | ((try simp); (repeat' split) <;> simp_all [steady_fields]; done)

theorem hottestCandidate_pair {m : ThermalMeans} {s : State} {r0 : _} {last : State} (eq : hottestCandidate m s = (r0, last)) : last.steady = s.steady := by
  have k := hottestCandidate_steady m s; rwa [eq] at k

@[simp] theorem thermalStep_steady (hadLimit : Bool) (s : State) : (thermalStep hadLimit s).steady = s.steady := by
  unfold thermalStep; simp

@[simp] theorem parkHottest_steady (m : ThermalMeans) (hadLimit : Bool) (s : State) : (parkHottest m hadLimit s).steady = s.steady := by
  unfold parkHottest; first | (simp [steady_fields]; done) | ((try simp); (repeat' split) <;> simp_all [steady_fields]; done)

@[simp] theorem relax_steady (s : State) : (relax s).steady = s.steady := by
  unfold relax; first | (simp [steady_fields]; done) | ((try simp); (repeat' split) <;> simp_all [steady_fields]; done)

@[simp] theorem thermalAction_steady (m : ThermalMeans) (s : State) : (thermalAction m s).steady = s.steady := by
  unfold thermalAction; simp

@[simp] theorem thermalLimitReached_steady (m : ThermalMeans) (s : State) : (thermalLimitReached m s).steady = s.steady := by
  unfold thermalLimitReached; simp

theorem execThermalWindow_steady (means : ThermalMeans) (energyMj : Nat) (s : State) : ∃ t, execThermalWindow means energyMj s = .next t ∧ t.steady = s.steady := by
  exact ⟨_, rfl, by simp⟩

theorem execSupplyExcursion_steady (supply : Supply) (mv ns : Nat) (s : State) : ∃ t, execSupplyExcursion supply mv ns s = .next t ∧ t.steady = s.steady := by
  exact ⟨_, rfl, by simp⟩

theorem execClockLoss_steady (fw nearStoreWins : Bool) (s : State) : ∃ t, execClockLoss fw nearStoreWins s = .next t ∧ t.steady = s.steady := by
  exact ⟨_, rfl, by simp⟩

end Sys2Proof.Machine
end

