-- ==== Sys2Proof/Laws/Steady/Pins.lean ====
section
/-! SUPPORT. What `Machine/Pins.lean` changes leaves the steady fields as they are. -/

namespace Sys2Proof.Machine

theorem execReadWord_steady (pec : Bool) (s : State) : ∃ t, execReadWord pec s = .next t ∧ t.steady = s.steady := by
  refine ⟨_, rfl, ?_⟩; first | (simp [steady_fields]; done) | ((try simp); (repeat' split) <;> simp_all [steady_fields]; done)

theorem execSmbusDataWrite_steady (_code : BitVec 8) (_data : Bytes) (s : State) : ∃ t, execSmbusDataWrite _code _data s = .next t ∧ t.steady = s.steady := by
  exact ⟨_, rfl, by simp⟩

theorem execAlertResponseAddress_steady (s : State) : ∃ t, execAlertResponseAddress s = .next t ∧ t.steady = s.steady := by
  exact ⟨_, rfl, by simp⟩

theorem execBootFlashRefresh_steady (region : Nat) (s : State) : ∃ t, execBootFlashRefresh region s = .next t ∧ t.steady = s.steady := by
  refine ⟨_, rfl, ?_⟩; first | (simp [steady_fields]; done) | ((try simp); (repeat' split) <;> simp_all [steady_fields]; done)

end Sys2Proof.Machine
end

