-- ==== Sys2Proof/Laws/Steady/Patrol.lean ====
section
/-! SUPPORT. What `Machine/Patrol.lean` changes leaves the steady fields as they are. -/

namespace Sys2Proof.Machine

@[simp] theorem poolError_steady (e : NearError) (s : State) : (poolError e s).steady = s.steady := by
  unfold poolError; simp

@[simp] theorem loseContext_steady (q : Nat) (s : State) : (loseContext q s).steady = s.steady := by
  unfold loseContext; simp

@[simp] theorem dropDirectory_steady (slot : Nat) (s : State) : (dropDirectory slot s).steady = s.steady := by
  unfold dropDirectory; (try dsimp only) <;> (repeat' split) <;> first | (simp [steady_fields]; done) | ((try simp); grind []) | (simp_all [steady_fields]; done)

@[simp] theorem loseLine_steady (line : Nat) (s : State) : (loseLine line s).steady = s.steady := by
  unfold loseLine; simp

@[simp] theorem loseLines_steady (s : State) : (loseLines s).steady = s.steady := by
  unfold loseLines; simp

@[simp] theorem nearFault_steady (e : NearError) (s : State) : (nearFault e s).steady = s.steady := by
  unfold nearFault; split
  · simp
  · simp
  · simp [steady_fields]
  · split
    · rfl
    · dsimp only; split <;> simp
  · simp

@[simp] theorem nearScrubError_steady (s : State) (e : NearError) : (nearScrubError s e).steady = s.steady := by
  unfold nearScrubError; simp

theorem execNsScrubTimer_steady (errors : List NearError) (s : State) : ∃ t, execNsScrubTimer errors s = .next t ∧ t.steady = s.steady := by
  exact ⟨_, rfl, by simp⟩

@[simp] theorem forgetLine_steady (line : Nat) (s : State) : (forgetLine line s).steady = s.steady := by
  unfold forgetLine; first | (simp [steady_fields]; done) | ((try simp); (repeat' split) <;> simp_all [steady_fields]; done)

@[simp] theorem farFault_steady (e : FarError) (s : State) : (farFault e s).steady = s.steady := by
  unfold farFault; simp [steady_fields]

theorem execMcAccess_steady (addr : Nat) (bytes : Bytes) (err : Nat) (s : State) : ∃ t, execMcAccess addr bytes err s = .next t ∧ t.steady = s.steady := by
  exact ⟨_, rfl, by simp⟩

theorem execMcForceDisable_steady (p : McPacket) (s : State) : ∃ t, execMcForceDisable p s = .next t ∧ t.steady = s.steady := by
  exact ⟨_, rfl, by simp⟩

theorem execPurge_steady (p : McPacket) (s : State) : ∃ t, execPurge p s = .next t ∧ t.steady = s.steady := by
  exact ⟨_, rfl, by simp⟩

@[simp] theorem farScrubError_steady (s : State) (e : FarError) : (farScrubError s e).steady = s.steady := by
  unfold farScrubError; simp

theorem execFsScrubTimer_steady (errors : List FarError) (s : State) : ∃ t, execFsScrubTimer errors s = .next t ∧ t.steady = s.steady := by
  exact ⟨_, rfl, by simp⟩

@[simp] theorem refill_steady (fill : Nat) : ∀ (x0 : List IndexEntry) (x1 : State), (refill fill x0 x1).steady = x1.steady := by
  intro x0; induction x0 with
  | nil => intros; simp [refill]
  | cons x xs ih => intros; unfold refill; simp [ih]

theorem execWinnowRebuild_steady (s : State) : ∃ t, execWinnowRebuild s = .next t ∧ t.steady = s.steady := by
  refine ⟨_, rfl, ?_⟩; first | (simp [steady_fields]; done) | ((try simp); (repeat' split) <;> simp_all [steady_fields]; done)

end Sys2Proof.Machine
end

