-- ==== Sys2Proof/Laws/Exec.lean ====
section
/-! SUPPORT. Every ordinary command answers a next state whose steady fields stand. -/

namespace Sys2Proof.Machine

/-- The commands that change none of the steady fields. -/
def ordinary : Instr → Bool
  | .powerOnReset _ _ => false
  | .pinReset _ _ => false
  | .vaultAlarmSupply => false
  | .vaultAlarmTemp => false
  | .vaultAlarmMesh => false
  | .vaultAlarmTamper => false
  | .vaultAlarmCheck => false
  | .vauxLoss => false
  | .keyLoadGauntlet _ _ => false
  | .keyClearGauntlet _ => false
  | .keyAlarmClear _ => false
  | .thermtrip => false
  | .lifeUsedHour _ => false
  | .smbusSelect _ => false
  | .smbusRefresh _ => false
  | .bypass => false
  | .idcode => false
  | .samplePreload => false
  | .extest => false
  | .extestPulse => false
  | .extestTrain => false
  | .clamp => false
  | .highz => false
  | .vauxRise => false
  | _ => true

/-- An ordinary command answers a next state whose steady fields stand. -/
theorem exec_steady (c : Instr) (s : State) (plain : ordinary c = true) : ∃ t, exec c s = .next t ∧ t.steady = s.steady := by
  cases c with
  | powerOnReset => cases plain
  | pinReset => cases plain
  | selfReset => exact execSelfReset_steady s
  | perstN low => exact execPerstN_steady low s
  | bootStepDone report => exact execBootStepDone_steady report s
  | bootWatchdog => exact execBootWatchdog_steady s
  | pwrfailAccept => exact execPwrfailAccept_steady s
  | pwrfailNRise => exact execPwrfailNRise_steady s
  | pwrfailHighTimer => exact execPwrfailHighTimer_steady s
  | dumpEndCommitted => exact execDumpEndCommitted_steady s
  | paceWindow counts => exact execPaceWindow_steady counts s
  | timeMarkTimer => exact execTimeMarkTimer_steady s
  | ticketDispatch tine run => exact execTicketDispatch_steady tine run s
  | glean tine run => exact execGlean_steady tine run s
  | ticketWatchdog tine => exact execTicketWatchdog_steady tine s
  | epochCommit epoch work => exact execEpochCommit_steady epoch work s
  | epochSquash epoch => exact execEpochSquash_steady epoch s
  | runAheadWindow => exact execRunAheadWindow_steady s
  | harrowDrained h => exact execHarrowDrained_steady h s
  | parkDrainTimeout h => exact execParkDrainTimeout_steady h s
  | parkRetryTimer h => exact execParkRetryTimer_steady h s
  | harrowWakeDone h => exact execHarrowWakeDone_steady h s
  | grainComposition ns grain harrow facts => exact execGrainComposition_steady ns grain harrow facts s
  | chunkCut object harrow => exact execChunkCut_steady object harrow s
  | fingerprint work => exact execFingerprint_steady work s
  | dedupLookup work falsePositive facts => exact execDedupLookup_steady work falsePositive facts s
  | baleSealTimeout acre bale => exact execBaleSealTimeout_steady acre bale s
  | baleCommit acre bale => exact execBaleCommit_steady acre bale s
  | journalPersistTimeout => exact execJournalPersistTimeout_steady s
  | metadataRowCommit row => exact execMetadataRowCommit_steady row s
  | checkpointTimer => exact execCheckpointTimer_steady s
  | admissionResume => exact execAdmissionResume_steady s
  | readTimeoutExpiry quadrant entry facts => exact execReadTimeoutExpiry_steady quadrant entry facts s
  | search table mask key nocount badParity => exact execSearch_steady table mask key nocount badParity s
  | insert table key data ticket => exact execInsert_steady table key data ticket s
  | winnowDelete table mask key ticket => exact execWinnowDelete_steady table mask key ticket s
  | age bank => exact execAge_steady bank s
  | clear bank => exact execClear_steady bank s
  | winnowAgeTimer => exact execWinnowAgeTimer_steady s
  | winnowRebuild => exact execWinnowRebuild_steady s
  | winnowTableGet p => exact execWinnowTableGet_steady p s
  | winnowTableSet p => exact execWinnowTableSet_steady p s
  | winnowMaskSet p => exact execWinnowMaskSet_steady p s
  | winnowSearch p => exact execWinnowSearch_steady p s
  | winnowRead p => exact execWinnowRead_steady p s
  | winnowClear p => exact execWinnowClear_steady p s
  | winnowStats p => exact execWinnowStats_steady p s
  | voxcaCompress harrow engine work fault => exact execVoxcaCompress_steady harrow engine work fault s
  | voxcaVerify work => exact execVoxcaVerify_steady work s
  | voxcaDecompress harrow engine stream stop fault => exact execVoxcaDecompress_steady harrow engine stream stop fault s
  | gcmEncrypt tine unit epoch req => exact execGcmEncrypt_steady tine unit epoch req s
  | gcmDecrypt tine unit epoch req => exact execGcmDecrypt_steady tine unit epoch req s
  | hmac tine unit epoch req => exact execHmac_steady tine unit epoch req s
  | cipherCompletion job agree => exact execCipherCompletion_steady job agree s
  | slotLoadDone slot => exact execSlotLoadDone_steady slot s
  | slotEvictDone slot => exact execSlotEvictDone_steady slot s
  | vaultAlarmSupply => cases plain
  | vaultAlarmTemp => cases plain
  | vaultAlarmMesh => cases plain
  | vaultAlarmTamper => cases plain
  | vaultAlarmCheck => cases plain
  | vauxLoss => cases plain
  | keyStatus p => exact execKeyStatus_steady p s
  | keyLoadGauntlet => cases plain
  | keyClearGauntlet => cases plain
  | keyAlarmClear => cases plain
  | keyDomainBind p => exact execKeyDomainBind_steady p s
  | keyRewrap p => exact execKeyRewrap_steady p s
  | keyEpochAdvance p => exact execKeyEpochAdvance_steady p s
  | keyEpochDestroy p => exact execKeyEpochDestroy_steady p s
  | keyEpochStats p => exact execKeyEpochStats_steady p s
  | keySlotInfo p => exact execKeySlotInfo_steady p s
  | keyHmac p => exact execKeyHmac_steady p s
  | cipherStats p => exact execCipherStats_steady p s
  | keyLoadAckTimeout domain epoch => exact execKeyLoadAckTimeout_steady domain epoch s
  | reclaimVictim facts => exact execReclaimVictim_steady facts s
  | scrubTimer facts => exact execScrubTimer_steady facts s
  | bridgeLostTimer bridge => exact execBridgeLostTimer_steady bridge s
  | readonlyExit => exact execReadonlyExit_steady s
  | tempHistHour => exact execTempHistHour_steady s
  | mediaGeometryGet p => exact execMediaGeometryGet_steady p s
  | mediaGeometrySet p => exact execMediaGeometrySet_steady p s
  | mediaHealthArray p => exact execMediaHealthArray_steady p s
  | mediaHealthBridge p => exact execMediaHealthBridge_steady p s
  | mediaHealthDie p => exact execMediaHealthDie_steady p s
  | reclaimStatus p => exact execReclaimStatus_steady p s
  | scrubStart p facts => exact execScrubStart_steady p facts s
  | bridgeSet p => exact execBridgeSet_steady p s
  | dieRetire p => exact execDieRetire_steady p s
  | bridgeRetire p => exact execBridgeRetire_steady p s
  | furrowTrainTimeout bridge => exact execFurrowTrainTimeout_steady bridge s
  | furrowTrainingDone bridge preset version credits => exact execFurrowTrainingDone_steady bridge preset version credits s
  | furrowRetrainRetry bridge => exact execFurrowRetrainRetry_steady bridge s
  | furrowLinkFrame bridge nak ack credit => exact execFurrowLinkFrame_steady bridge nak ack credit s
  | furrowReplayTimeout bridge => exact execFurrowReplayTimeout_steady bridge s
  | bridgeIdentify bridge port tag load => exact execBridgeIdentify_steady bridge port tag load s
  | dieRead bridge port tag load addr count retryMax soft reports fault => exact execDieRead_steady bridge port tag load addr count retryMax soft reports fault s
  | dieProgram bridge port tag load now addr data done fault => exact execDieProgram_steady bridge port tag load now addr data done fault s
  | dieErase bridge port tag load now addr us ok fault => exact execDieErase_steady bridge port tag load now addr us ok fault s
  | status bridge port tag now dieBusy temp cmds0 cmds1 => exact execStatus_steady bridge port tag now dieBusy temp cmds0 cmds1 s
  | telemetry bridge port tag load page start dies => exact execTelemetry_steady bridge port tag load page start dies s
  | leaseAcquire bridge port tag load leaseMs now => exact execLeaseAcquire_steady bridge port tag load leaseMs now s
  | leaseRenew bridge port tag load leaseMs now => exact execLeaseRenew_steady bridge port tag load leaseMs now s
  | leaseRelease bridge port tag load now => exact execLeaseRelease_steady bridge port tag load now s
  | fence bridge port tag load dieMask bothPorts => exact execFence_steady bridge port tag load dieMask bothPorts s
  | leaseExpiry bridge now => exact execLeaseExpiry_steady bridge now s
  | furrowResponse bridge frames => exact execFurrowResponse_steady bridge frames s
  | furrowResponseTimeout bridge tag => exact execFurrowResponseTimeout_steady bridge tag s
  | leaseRenewTimer => exact execLeaseRenewTimer_steady s
  | leaseWindowEnd bridge => exact execLeaseWindowEnd_steady bridge s
  | leaseAcquireRetry bridge => exact execLeaseAcquireRetry_steady bridge s
  | furrowStatus p => exact execFurrowStatus_steady p s
  | snapCreate p => exact execSnapCreate_steady p s
  | snapBarrierDrained job => exact execSnapBarrierDrained_steady job s
  | snapDelete p => exact execSnapDelete_steady p s
  | snapDeletePage ns snapshot page => exact execSnapDeletePage_steady ns snapshot page s
  | snapList p => exact execSnapList_steady p s
  | snapExpose p => exact execSnapExpose_steady p s
  | snapWithdraw p => exact execSnapWithdraw_steady p s
  | replPair p => exact execReplPair_steady p s
  | replAccept p => exact execReplAccept_steady p s
  | replStart p => exact execReplStart_steady p s
  | replStatus p => exact execReplStatus_steady p s
  | replStop p => exact execReplStop_steady p s
  | replUnpair p => exact execReplUnpair_steady p s
  | hello qp frame => exact execHello_steady qp frame s
  | helloReply qp frame => exact execHelloReply_steady qp frame s
  | confirm qp frame => exact execConfirm_steady qp frame s
  | diffBegin qp frame => exact execDiffBegin_steady qp frame s
  | diffReady qp frame => exact execDiffReady_steady qp frame s
  | fpList qp frame => exact execFpList_steady qp frame s
  | fpWant qp frame facts => exact execFpWant_steady qp frame facts s
  | chunkData qp frame => exact execChunkData_steady qp frame s
  | batchEnd qp frame => exact execBatchEnd_steady qp frame s
  | batchDone qp frame facts => exact execBatchDone_steady qp frame facts s
  | objectBegin qp frame => exact execObjectBegin_steady qp frame s
  | diffEnd qp frame => exact execDiffEnd_steady qp frame s
  | diffDone qp frame => exact execDiffDone_steady qp frame s
  | keepalive qp frame => exact execKeepalive_steady qp frame s
  | replAbort qp frame => exact execReplAbort_steady qp frame s
  | replKeepaliveTimer qp => exact execReplKeepaliveTimer_steady qp s
  | replIdleTimeout qp => exact execReplIdleTimeout_steady qp s
  | migrateExport p => exact execMigrateExport_steady p s
  | migrateStatus p => exact execMigrateStatus_steady p s
  | migrateStop p => exact execMigrateStop_steady p s
  | exportStallTimeout number => exact execExportStallTimeout_steady number s
  | headlandTrainTimeout sub miswired => exact execHeadlandTrainTimeout_steady sub miswired s
  | headlandRetrainRetry sub => exact execHeadlandRetrainRetry_steady sub s
  | headlandLinkFrame sub nak ack credit => exact execHeadlandLinkFrame_steady sub nak ack credit s
  | headlandReplayTimeout sub => exact execHeadlandReplayTimeout_steady sub s
  | heartbeatTimer => exact execHeartbeatTimer_steady s
  | heartbeat sub frames => exact execHeartbeat_steady sub frames s
  | heartbeatLoss => exact execHeartbeatLoss_steady s
  | inventory sub frames => exact execInventory_steady sub frames s
  | activeReady sub frames => exact execActiveReady_steady sub frames s
  | mirror sub frames => exact execMirror_steady sub frames s
  | mirrorAck sub frames => exact execMirrorAck_steady sub frames s
  | mirrorTimeout mseq => exact execMirrorTimeout_steady mseq s
  | mirrorGiveup mseq => exact execMirrorGiveup_steady mseq s
  | txDisableEnd => exact execTxDisableEnd_steady s
  | headlandDegradeClear => exact execHeadlandDegradeClear_steady s
  | release sub frames => exact execRelease_steady sub frames s
  | resyncBegin sub frames => exact execResyncBegin_steady sub frames s
  | resyncEnd sub frames => exact execResyncEnd_steady sub frames s
  | forward sub frames => exact execForward_steady sub frames s
  | forwardDone sub frames bad => exact execForwardDone_steady sub frames bad s
  | keyLoad sub frames => exact execKeyLoad_steady sub frames s
  | keyLoadAck sub frames => exact execKeyLoadAck_steady sub frames s
  | idBlockReq sub frames => exact execIdBlockReq_steady sub frames s
  | idBlockGrant sub frames => exact execIdBlockGrant_steady sub frames s
  | eraseReq sub frames => exact execEraseReq_steady sub frames s
  | eraseDone sub frames => exact execEraseDone_steady sub frames s
  | drainReq sub frames => exact execDrainReq_steady sub frames s
  | drainReply sub frames => exact execDrainReply_steady sub frames s
  | yieldNotice sub frames => exact execYieldNotice_steady sub frames s
  | yieldInNAsserted low => exact execYieldInNAsserted_steady low s
  | yieldLeasesReleased => exact execYieldLeasesReleased_steady s
  | takeoverAdopt tail => exact execTakeoverAdopt_steady tail s
  | handoff sub frames => exact execHandoff_steady sub frames s
  | returnReq sub frames => exact execReturnReq_steady sub frames s
  | returnGrant sub frames => exact execReturnGrant_steady sub frames s
  | imageReq sub frames => exact execImageReq_steady sub frames s
  | imageData sub frames => exact execImageData_steady sub frames s
  | supervisorDeadline missed => exact execSupervisorDeadline_steady missed s
  | eccWindow near far => exact execEccWindow_steady near far s
  | headlandWaitExpiry => exact execHeadlandWaitExpiry_steady s
  | holdDownExpiry => exact execHoldDownExpiry_steady s
  | headlandStatus p => exact execHeadlandStatus_steady p s
  | returnControlAutoOn p => exact execReturnControlAutoOn_steady p s
  | returnControlAutoOff p => exact execReturnControlAutoOff_steady p s
  | returnControlEndHold p => exact execReturnControlEndHold_steady p s
  | returnControlYield p => exact execReturnControlYield_steady p s
  | subPortUp lport => exact execSubPortUp_steady lport s
  | subPortDown lport => exact execSubPortDown_steady lport s
  | portLinkDown lport => exact execPortLinkDown_steady lport s
  | arpRequest head sender target => exact execArpRequest_steady head sender target s
  | neighbourSolicitation head sender target => exact execNeighbourSolicitation_steady head sender target s
  | icmpEchoRequest head sender target payload => exact execIcmpEchoRequest_steady head sender target payload s
  | pfcFrame lport priority quanta => exact execPfcFrame_steady lport priority quanta s
  | pfcPauseEnd lport priority => exact execPfcPauseEnd_steady lport priority s
  | pfcRefresh lport priority occupancy => exact execPfcRefresh_steady lport priority occupancy s
  | pfcStormTimer lport priority sent => exact execPfcStormTimer_steady lport priority sent s
  | fecWindow lport corrected uncorrectable => exact execFecWindow_steady lport corrected uncorrectable s
  | ctxPressureWindow quadrant => exact execCtxPressureWindow_steady quadrant s
  | send head pos payload => exact execSend_steady head pos payload s
  | sendWithInvalidate head pos key payload => exact execSendWithInvalidate_steady head pos key payload s
  | rdmaWrite head pos header payload => exact execRdmaWrite_steady head pos header payload s
  | rdmaReadRequest head => exact execRdmaReadRequest_steady head s
  | rdmaReadResponse head pos payload => exact execRdmaReadResponse_steady head pos payload s
  | acknowledge head kind => exact execAcknowledge_steady head kind s
  | cnp head => exact execCnp_steady head s
  | rocePacketOther head opcode => exact execRocePacketOther_steady head opcode s
  | retransmitTimer qp => exact execRetransmitTimer_steady qp s
  | rnrDelayEnd qp => exact execRnrDelayEnd_steady qp s
  | ackCoalesceTimer qp => exact execAckCoalesceTimer_steady qp s
  | contextFetchDone qp => exact execContextFetchDone_steady qp s
  | stubFetchDone quadrant => exact execStubFetchDone_steady quadrant s
  | req request => exact execReq_steady request s
  | mra commId timeout => exact execMra_steady commId timeout s
  | rej commId reason => exact execRej_steady commId reason s
  | rep reply => exact execRep_steady reply s
  | rtu commId => exact execRtu_steady commId s
  | dreq commId remoteId => exact execDreq_steady commId remoteId s
  | drep commId => exact execDrep_steady commId s
  | repResendTimer qp => exact execRepResendTimer_steady qp s
  | dreqTimeout qp => exact execDreqTimeout_steady qp s
  | qpReuseDelay qp => exact execQpReuseDelay_steady qp s
  | lzMsgTimeout qp => exact execLzMsgTimeout_steady qp s
  | lzRevokeDone zone => exact execLzRevokeDone_steady zone s
  | portStatus p => exact execPortStatus_steady p s
  | qpInfo p => exact execQpInfo_steady p s
  | connect qp capsule => exact execConnect_steady qp capsule s
  | propertyGet qp capsule => exact execPropertyGet_steady qp capsule s
  | ccEn qp capsule => exact execCcEn_steady qp capsule s
  | ccShn qp capsule => exact execCcShn_steady qp capsule s
  | disconnect qp capsule => exact execDisconnect_steady qp capsule s
  | nvmeIdentify qp capsule => exact execNvmeIdentify_steady qp capsule s
  | getLogPage qp capsule => exact execGetLogPage_steady qp capsule s
  | namespaceCreate qp capsule => exact execNamespaceCreate_steady qp capsule s
  | namespaceDelete qp capsule => exact execNamespaceDelete_steady qp capsule s
  | namespaceAttach qp capsule => exact execNamespaceAttach_steady qp capsule s
  | namespaceDetach qp capsule => exact execNamespaceDetach_steady qp capsule s
  | abort qp capsule => exact execAbort_steady qp capsule s
  | setFeaturesPowerManagement qp capsule => exact execSetFeaturesPowerManagement_steady qp capsule s
  | setFeaturesNumberOfQueues qp capsule => exact execSetFeaturesNumberOfQueues_steady qp capsule s
  | setFeaturesAsyncEventConfig qp capsule => exact execSetFeaturesAsyncEventConfig_steady qp capsule s
  | setFeaturesApst qp capsule => exact execSetFeaturesApst_steady qp capsule s
  | setFeaturesKeepAliveTimer qp capsule => exact execSetFeaturesKeepAliveTimer_steady qp capsule s
  | getFeatures qp capsule => exact execGetFeatures_steady qp capsule s
  | asynchronousEventRequest qp capsule => exact execAsynchronousEventRequest_steady qp capsule s
  | keepAlive qp capsule => exact execKeepAlive_steady qp capsule s
  | katoExpiry controller => exact execKatoExpiry_steady controller s
  | apstIdleTimer controller entry => exact execApstIdleTimer_steady controller entry s
  | read qp capsule facts => exact execRead_steady qp capsule facts s
  | write qp capsule => exact execWrite_steady qp capsule s
  | flush qp capsule => exact execFlush_steady qp capsule s
  | writeZeroes qp capsule => exact execWriteZeroes_steady qp capsule s
  | datasetManagement qp capsule => exact execDatasetManagement_steady qp capsule s
  | compare qp capsule facts => exact execCompare_steady qp capsule facts s
  | version qp request => exact execVersion_steady qp request s
  | putBegin qp request => exact execPutBegin_steady qp request s
  | putData qp request => exact execPutData_steady qp request s
  | putCommit qp request => exact execPutCommit_steady qp request s
  | putAbort qp request => exact execPutAbort_steady qp request s
  | get qp request facts => exact execGet_steady qp request facts s
  | stat qp request => exact execStat_steady qp request s
  | delete qp request => exact execDelete_steady qp request s
  | list qp request => exact execList_steady qp request s
  | hold qp request => exact execHold_steady qp request s
  | releaseHold qp request => exact execReleaseHold_steady qp request s
  | sheafPutTimeout qp put => exact execSheafPutTimeout_steady qp put s
  | nsScrubTimer errors => exact execNsScrubTimer_steady errors s
  | fsScrubTimer errors => exact execFsScrubTimer_steady errors s
  | mcAccess addr bytes err => exact execMcAccess_steady addr bytes err s
  | mcPrefetch addr => exact execMcPrefetch_steady addr s
  | memStatus p => exact execMemStatus_steady p s
  | mcEnable p => exact execMcEnable_steady p s
  | mcDisable p => exact execMcDisable_steady p s
  | mcDisableDone => exact execMcDisableDone_steady s
  | mcForceDisable p => exact execMcForceDisable_steady p s
  | mcPreload p => exact execMcPreload_steady p s
  | mcUnlock p => exact execMcUnlock_steady p s
  | clean p => exact execClean_steady p s
  | cleanInvalidate p => exact execCleanInvalidate_steady p s
  | purge p => exact execPurge_steady p s
  | mcWayPowerDown p => exact execMcWayPowerDown_steady p s
  | mcWayDownDone way => exact execMcWayDownDone_steady way s
  | mcWayPowerUp p => exact execMcWayPowerUp_steady p s
  | mcTagRead p => exact execMcTagRead_steady p s
  | locationPagedDaily => exact execLocationPagedDaily_steady s
  | alloc unit epoch arena len badLink => exact execAlloc_steady unit epoch arena len badLink s
  | share unit handle receiver ticket => exact execShare_steady unit handle receiver ticket s
  | granaryRelease unit handle ticket => exact execGranaryRelease_steady unit handle ticket s
  | allocWaitLong arena pool => exact execAllocWaitLong_steady arena pool s
  | granaryStatus p => exact execGranaryStatus_steady p s
  | granaryHeaderRead p => exact execGranaryHeaderRead_steady p s
  | copy channel ctx => exact execCopy_steady channel ctx s
  | fill channel ctx => exact execFill_steady channel ctx s
  | dmaCompare channel ctx => exact execDmaCompare_steady channel ctx s
  | dmaDoorbell channel tail fetched => exact execDmaDoorbell_steady channel tail fetched s
  | dmaEnable channel fetched => exact execDmaEnable_steady channel fetched s
  | dmaDisable channel => exact execDmaDisable_steady channel s
  | dmaChannelIdle channel => exact execDmaChannelIdle_steady channel s
  | dmaResume channel fetched => exact execDmaResume_steady channel fetched s
  | dmaStatus p => exact execDmaStatus_steady p s
  | dmaBufferAlloc p => exact execDmaBufferAlloc_steady p s
  | dmaBufferFree p => exact execDmaBufferFree_steady p s
  | registerWrite offset width value => exact execRegisterWrite_steady offset width value s
  | mciDoorbell ring tail slots => exact execMciDoorbell_steady ring tail slots s
  | replyHeadWrite head => exact execReplyHeadWrite_steady head s
  | ringEnable ring => exact execRingEnable_steady ring s
  | ringDisable ring => exact execRingDisable_steady ring s
  | nop p => exact execNop_steady p s
  | identify p => exact execIdentify_steady p s
  | watch p => exact execWatch_steady p s
  | watchTimeout ring => exact execWatchTimeout_steady ring s
  | setModeBoot p => exact execSetModeBoot_steady p s
  | setModeDump p => exact execSetModeDump_steady p s
  | setModeService p => exact execSetModeService_steady p s
  | quiesce p => exact execQuiesce_steady p s
  | quiesceComplete function => exact execQuiesceComplete_steady function s
  | resume p fetches => exact execResume_steady p fetches s
  | authChallenge p => exact execAuthChallenge_steady p s
  | authNonceExpiry ring => exact execAuthNonceExpiry_steady ring s
  | timeSet p => exact execTimeSet_steady p s
  | cancel p fetches => exact execCancel_steady p fetches s
  | attnAck p => exact execAttnAck_steady p s
  | getParam p => exact execGetParam_steady p s
  | setParam p => exact execSetParam_steady p s
  | commitConfig p => exact execCommitConfig_steady p s
  | configRead p => exact execConfigRead_steady p s
  | domainCreate p => exact execDomainCreate_steady p s
  | domainDelete p => exact execDomainDelete_steady p s
  | domainGet p => exact execDomainGet_steady p s
  | scopeParamSet p => exact execScopeParamSet_steady p s
  | scopeParamGet p => exact execScopeParamGet_steady p s
  | nsCreate p => exact execNsCreate_steady p s
  | nsDelete p => exact execNsDelete_steady p s
  | nsList p => exact execNsList_steady p s
  | hostAdd p => exact execHostAdd_steady p s
  | hostRemove p => exact execHostRemove_steady p s
  | nsAttach p => exact execNsAttach_steady p s
  | nsDetach p => exact execNsDetach_steady p s
  | objdomCreate p => exact execObjdomCreate_steady p s
  | objdomDelete p => exact execObjdomDelete_steady p s
  | clientAdd p => exact execClientAdd_steady p s
  | clientRemove p => exact execClientRemove_steady p s
  | holdClear p => exact execHoldClear_steady p s
  | almanacStatus p => exact execAlmanacStatus_steady p s
  | almanacRead p => exact execAlmanacRead_steady p s
  | almanacClear p => exact execAlmanacClear_steady p s
  | fwManifestPut p => exact execFwManifestPut_steady p s
  | piecePut p => exact execPiecePut_steady p s
  | fwStatus p => exact execFwStatus_steady p s
  | fwActivate p bad => exact execFwActivate_steady p bad s
  | fwDiscard p => exact execFwDiscard_steady p s
  | telemetryGet p => exact execTelemetryGet_steady p s
  | telemetryClear p => exact execTelemetryClear_steady p s
  | eventRead p => exact execEventRead_steady p s
  | mciStats p => exact execMciStats_steady p s
  | ticketDump p => exact execTicketDump_steady p s
  | hostWatchdog fetches => exact execHostWatchdog_steady fetches s
  | almanacFlushTimer => exact execAlmanacFlushTimer_steady s
  | almanacUnitCommit row => exact execAlmanacUnitCommit_steady row s
  | handover harrow => exact execHandover_steady harrow s
  | fwImageOverwrite => exact execFwImageOverwrite_steady s
  | thermtrip => cases plain
  | thermalWindow means energyMj => exact execThermalWindow_steady means energyMj s
  | lifeUsedHour => cases plain
  | supplyExcursion supply mv ns => exact execSupplyExcursion_steady supply mv ns s
  | clockLoss fw nearStoreWins => exact execClockLoss_steady fw nearStoreWins s
  | readWord pec => exact execReadWord_steady pec s
  | smbusSelect => cases plain
  | smbusDataWrite code data => exact execSmbusDataWrite_steady code data s
  | alertResponseAddress => exact execAlertResponseAddress_steady s
  | smbusRefresh => cases plain
  | bypass => cases plain
  | idcode => cases plain
  | samplePreload => cases plain
  | extest => cases plain
  | extestPulse => cases plain
  | extestTrain => cases plain
  | clamp => cases plain
  | highz => cases plain
  | headlandTrainingDone sub preset => exact execHeadlandTrainingDone_steady sub preset s
  | furrowBlockLockLoss bridge => exact execFurrowBlockLockLoss_steady bridge s
  | headlandBlockLockLoss sub => exact execHeadlandBlockLockLoss_steady sub s
  | furrowFrameDiscard bridge cause => exact execFurrowFrameDiscard_steady bridge cause s
  | headlandFrameDiscard sub cause => exact execHeadlandFrameDiscard_steady sub cause s
  | headlandBadMessage sub frames => exact execHeadlandBadMessage_steady sub frames s
  | vauxRise => cases plain
  | bootFlashRefresh region => exact execBootFlashRefresh_steady region s
  | pcieRetryTimer up => exact execPcieRetryTimer_steady up s
  | arpReply head address mac => exact execArpReply_steady head address mac s
  | neighbourAdvertisement head address mac => exact execNeighbourAdvertisement_steady head address mac s
  | reqTimeout qp => exact execReqTimeout_steady qp s
  | listRebuildDone arena pool => exact execListRebuildDone_steady arena pool s
  | bridgeReset bridge => exact execBridgeReset_steady bridge s

end Sys2Proof.Machine
end

