-- ==== Sys2Proof/Laws/Exceptions.lean ====
section
/-! SUPPORT. What each of the exceptional commands leaves of the steady fields. -/

namespace Sys2Proof.Machine

/-- The TAP as RESET_N rises (R566). -/
def tapReleased (j : JtagInstr) : JtagInstr :=
  match j with
  | .bypass => .bypass | .idcode => .idcode | .samplePreload => .samplePreload | _ => .bypass

theorem inReset_powerOn_steady (s : State) : (inReset .powerOn s).steady = { s.steady with ticks := 0, tripLatched := false } := by
  unfold inReset; rw [steady_mk]; simp [keptTime, keptBoot, keptThermal, State.steady]

theorem inReset_pin_steady (s : State) : (inReset .pin s).steady = s.steady := by
  unfold inReset; rw [steady_mk]; simp [keptTime, keptBoot, keptThermal, State.steady]

theorem resetReleased_steady (strap : Bool) (s : State) :
    (resetReleased strap s).steady = { s.steady with headId := flagBit strap, resetLow := false, jtag := tapReleased s.jtag } := by
  unfold resetReleased; rw [startUp_steady]; rfl

theorem powerOnReset_held (strap : Bool) (s : State) : ∃ t, exec (.powerOnReset true strap) s = .next t ∧
    t.steady = { s.steady with ticks := 0, tripLatched := false, resetLow := true } := by
  refine ⟨_, by simp only [exec, execPowerOnReset, if_true]; rfl, ?_⟩
  have h := inReset_powerOn_steady s
  simp only [modifyBoot, State.steady, Steady.mk.injEq] at h ⊢
  simp only [h, and_self]

theorem powerOnReset_released (strap : Bool) (s : State) : ∃ t, exec (.powerOnReset false strap) s = .next t ∧
    t.steady = { s.steady with ticks := 0, powerCycles := satAdd 32 s.time.powerCycles 1, tripLatched := false, headId := flagBit strap
                               resetLow := false, jtag := tapReleased s.jtag } := by
  refine ⟨_, by simp only [exec, execPowerOnReset]; rw [if_neg (by simp)], ?_⟩
  rw [resetReleased_steady]
  have h := inReset_powerOn_steady s
  simp only [State.steady, Steady.mk.injEq] at h ⊢
  simp only [h, and_self, true_and]

theorem pinReset_held (strap : Bool) (s : State) : ∃ t, exec (.pinReset true strap) s = .next t ∧ t.steady = { s.steady with resetLow := true } := by
  refine ⟨_, by simp only [exec, execPinReset, if_true]; rfl, ?_⟩
  have h := inReset_pin_steady s
  simp only [modifyBoot, State.steady, Steady.mk.injEq] at h ⊢
  simp only [h, and_self]

theorem pinReset_released (strap : Bool) (s : State) : ∃ t, exec (.pinReset false strap) s = .next t ∧
    t.steady = { s.steady with headId := flagBit strap, resetLow := false, jtag := tapReleased s.jtag } := by
  refine ⟨_, by simp only [exec, execPinReset]; rw [if_neg (by simp)], ?_⟩
  rw [resetReleased_steady]
  have h := inReset_pin_steady s
  simp only [State.steady, Steady.mk.injEq] at h ⊢
  simp only [h, and_self, true_and]

/-- An MCI body that changes at most the vault makes a command that changes at most the vault. -/
theorem mciRun_vault (opcode : Nat) (p : McPacket) (body : State → McEnd × State) (s : State)
    (h : ∀ x, ∃ v, (body x).2.steady = { x.steady with vault := v }) : ∃ v, (mciRun opcode p body s).steady = { s.steady with vault := v } := by
  unfold mciRun
  have k : (acceptPacket opcode p (takeSlots p s)).2.steady = s.steady := by simp
  obtain ⟨v, hv⟩ := h (unfetch p s)
  obtain ⟨w, hw⟩ := h (acceptPacket opcode p (takeSlots p s)).2
  split
  · split
    · exact ⟨v, by simp [hv]⟩
    · exact ⟨s.vault, rfl⟩
  · split
    · exact ⟨s.vault, rfl⟩
    · dsimp only
      split
      · exact ⟨w, by simp only [endCommand_steady, hw, k]⟩
      · exact ⟨s.vault, by rw [k]; rfl⟩

theorem vaultAlarm_vault (bit : Nat) (working : Bool) (s : State) : ∃ v, (vaultAlarm bit working s).steady = { s.steady with vault := v } := by
  refine ⟨{ s.vault with gauntlet := List.replicate 16 none, status := s.vault.status ||| (1#32 <<< bit) }, ?_⟩
  unfold vaultAlarm
  dsimp only
  rw [securityEvent_steady, almanac_steady]
  cases working
  · rfl
  · exact (eraseWorking_steady _).trans rfl

theorem vauxRise_vault (s : State) : ∃ t, exec .vauxRise s = .next t ∧ ∃ v, t.steady = { s.steady with vault := v } := by
  simp only [exec, execVauxRise]
  split
  · exact ⟨s, rfl, s.vault, rfl⟩
  · exact ⟨_, rfl, ⟨List.replicate 16 none, 1, true⟩, by rw [hswSync_steady]; rfl⟩

theorem keyLoadGauntlet_vault (p : McPacket) (w : Bool) (s : State) : ∃ v, (keyLoadGauntlet p w s).2.steady = { s.steady with vault := v } := by
  unfold keyLoadGauntlet
  dsimp only
  split
  · exact ⟨s.vault, rfl⟩
  · split
    · exact ⟨s.vault, rfl⟩
    · split <;> exact ⟨_, rfl⟩

theorem keyClearGauntlet_vault (p : McPacket) (s : State) : ∃ v, (keyClearGauntlet p s).2.steady = { s.steady with vault := v } := ⟨_, rfl⟩

theorem keyAlarmClear_vault (p : McPacket) (s : State) : ∃ v, (keyAlarmClear p s).2.steady = { s.steady with vault := v } :=
  ⟨_, by unfold keyAlarmClear; simp only [ok, hswSync_steady]; rfl⟩

/-- The commands that change the vault. -/
def changesVault : Instr → Bool
  | .vaultAlarmSupply => true
  | .vaultAlarmTemp => true
  | .vaultAlarmMesh => true
  | .vaultAlarmTamper => true
  | .vaultAlarmCheck => true
  | .vauxLoss => true
  | .vauxRise => true
  | .keyLoadGauntlet _ _ => true
  | .keyClearGauntlet _ => true
  | .keyAlarmClear _ => true
  | _ => false

/-- They change none of the other steady fields. -/
theorem vault_rows (c : Instr) (s : State) (h : changesVault c = true) : ∃ t, exec c s = .next t ∧ ∃ v, t.steady = { s.steady with vault := v } := by
  cases c with
  | vaultAlarmSupply => exact ⟨_, rfl, vaultAlarm_vault _ _ s⟩
  | vaultAlarmTemp => exact ⟨_, rfl, vaultAlarm_vault _ _ s⟩
  | vaultAlarmMesh => exact ⟨_, rfl, vaultAlarm_vault _ _ s⟩
  | vaultAlarmTamper => exact ⟨_, rfl, vaultAlarm_vault _ _ s⟩
  | vaultAlarmCheck => exact ⟨_, rfl, vaultAlarm_vault _ _ s⟩
  | vauxLoss => exact ⟨_, rfl, _, rfl⟩
  | vauxRise => exact vauxRise_vault s
  | keyLoadGauntlet p w => exact ⟨_, rfl, mciRun_vault _ p _ s (keyLoadGauntlet_vault p w)⟩
  | keyClearGauntlet p => exact ⟨_, rfl, mciRun_vault _ p _ s (keyClearGauntlet_vault p)⟩
  | keyAlarmClear p => exact ⟨_, rfl, mciRun_vault _ p _ s (keyAlarmClear_vault p)⟩
  | _ => cases h

theorem thermtrip_row (s : State) : ∃ t, exec .thermtrip s = .next t ∧ t.steady = { s.steady with tripLatched := true } :=
  ⟨_, rfl, by rw [raiseAttn_steady]; rfl⟩

theorem lifeUsedHour_row (m : Int) (s : State) : ∃ t, exec (.lifeUsedHour m) s = .next t ∧
    t.steady = { s.steady with lifeUsed := satAdd 64 s.thermal.lifeUsed (lifeShare Config.gradeL m) } := ⟨_, rfl, rfl⟩

theorem smbusSelect_row (code : BitVec 8) (s : State) : ∃ t, exec (.smbusSelect code) s = .next t ∧ ∃ b, t.steady = { s.steady with smbus := b } := by
  refine ⟨_, rfl, ?_⟩
  split
  · exact ⟨_, rfl⟩
  · exact ⟨s.smbus, rfl⟩

theorem smbusRefresh_row (r : Readings) (s : State) : ∃ t, exec (.smbusRefresh r) s = .next t ∧ ∃ b, t.steady = { s.steady with smbus := b } := by
  refine ⟨_, rfl, ?_⟩
  generalize hx : offerHealth _ = x
  have k : x.steady = s.steady := by rw [← hx, offerHealth_steady]; rfl
  rw [← k]
  exact ⟨_, rfl⟩

/-- The eight TAP instructions, and what each puts into effect (R566). -/
def tapRow : Instr → Option JtagInstr
  | .bypass => some .bypass
  | .idcode => some .idcode
  | .samplePreload => some .samplePreload
  | .extest => some .extest
  | .extestPulse => some .extestPulse
  | .extestTrain => some .extestTrain
  | .clamp => some .clamp
  | .highz => some .highz
  | _ => none

/-- A TAP instruction changes the TAP alone: to itself, or to BYPASS where R566 has it so. -/
theorem tap_rows (c : Instr) (i : JtagInstr) (s : State) (h : tapRow c = some i) : ∃ t, exec c s = .next t ∧
    t.steady = { s.steady with jtag := if s.boot.resetLow = true ∨ tapReleased i = i then i else .bypass } := by
  cases c <;> simp only [tapRow, reduceCtorEq, Option.some.injEq] at h <;> subst h <;> refine ⟨_, rfl, ?_⟩
  all_goals first
    | rfl
    | (simp only [tapReleased, or_true, if_true]; rfl)
    | (simp only [resetOnly, tapReleased, reduceCtorEq, or_false]; split <;> rfl)

end Sys2Proof.Machine
end

