-- ==== Sys2Proof/Laws/Lists.lean ====
section
/-! SUPPORT. Lists changed at one place. -/

namespace Sys2Proof.Machine

/-- Changing one place keeps the length. -/
@[simp] theorem modifyNth_length {α : Type} (f : α → α) (n : Nat) (xs : List α) : (modifyNth f n xs).length = xs.length := by
  induction xs generalizing n with
  | nil => cases n <;> rfl
  | cons x xs ih => cases n with
    | zero => rfl
    | succ n => simp [modifyNth, ih]

/-- What a list holds after one place is changed. -/
theorem modifyNth_getElem? {α : Type} (f : α → α) (n m : Nat) (xs : List α) :
    (modifyNth f n xs)[m]? = if m = n then xs[m]?.map f else xs[m]? := by
  induction xs generalizing n m with
  | nil => cases n <;> simp [modifyNth]
  | cons x xs ih =>
    cases n with
    | zero => cases m <;> simp [modifyNth]
    | succ n => cases m with
      | zero => simp [modifyNth]
      | succ m => simp [modifyNth, ih]

/-- The same, read with a default. -/
theorem modifyNth_getD {α : Type} (f : α → α) (n m : Nat) (xs : List α) (d : α) :
    (modifyNth f n xs).getD m d = if m = n ∧ m < xs.length then f (xs.getD m d) else xs.getD m d := by
  rw [List.getD_eq_getElem?_getD, List.getD_eq_getElem?_getD, modifyNth_getElem?]
  by_cases h : m = n
  · by_cases k : m < xs.length
    · simp [h, h ▸ k]
    · have : ¬ n < xs.length := h ▸ k
      simp [h, this]
  · simp [h]

end Sys2Proof.Machine
end

