-- ==== Sys2Proof/Laws/Memory.lean ====
section
/-! SUPPORT. Every memory operation keeps the canonical form: addresses strictly rising, each once. -/

namespace Sys2Proof.Machine

/-- The canonical form, as a statement about all pairs of entries. -/
theorem wf_iff_pairwise (m : Memory) : Memory.wf m = true ↔ m.Pairwise (fun a b => a.1 < b.1) := by
  induction m with
  | nil => simp [Memory.wf]
  | cons a rest ih =>
    cases rest with
    | nil => simp [Memory.wf]
    | cons b rest =>
      simp only [Memory.wf, Bool.and_eq_true, decide_eq_true_eq, ih]
      constructor
      · rintro ⟨h, k⟩
        refine List.pairwise_cons.mpr ⟨?_, k⟩
        intro c hc
        rcases List.mem_cons.mp hc with rfl | hc
        · exact h
        · exact Nat.lt_trans h ((List.pairwise_cons.mp k).1 c hc)
      · intro h
        exact ⟨(List.pairwise_cons.mp h).1 b (by simp), (List.pairwise_cons.mp h).2⟩

/-- An address that a write leaves in the list was there, or is the one written. -/
theorem memWrite_mem {a : Nat} {b : Byte} {m : Memory} {c : Host.Cell} (h : c ∈ memWrite a b m) : c = (a, b) ∨ c ∈ m := by
  induction m with
  | nil => simp [memWrite] at h; exact .inl h
  | cons x rest ih =>
    obtain ⟨k, v⟩ := x
    unfold memWrite at h
    split at h
    · simpa using h
    · split at h
      · rcases List.mem_cons.mp h with h | h
        · exact .inl h
        · exact .inr (List.mem_cons_of_mem _ h)
      · rcases List.mem_cons.mp h with h | h
        · exact .inr (by simp [h])
        · rcases ih h with h | h
          · exact .inl h
          · exact .inr (List.mem_cons_of_mem _ h)

/-- A write of a byte keeps the form. -/
theorem memWrite_wf (a : Nat) (b : Byte) (m : Memory) (h : Memory.wf m = true) : Memory.wf (memWrite a b m) = true := by
  rw [wf_iff_pairwise] at h ⊢
  induction m with
  | nil => simp [memWrite]
  | cons x rest ih =>
    obtain ⟨k, v⟩ := x
    have ⟨h1, h2⟩ := List.pairwise_cons.mp h
    unfold memWrite
    split
    · rename_i lt
      refine List.pairwise_cons.mpr ⟨?_, h⟩
      intro c hc
      rcases List.mem_cons.mp hc with rfl | hc
      · exact lt
      · exact Nat.lt_trans lt (h1 c hc)
    · split
      · rename_i e
        subst e
        exact List.pairwise_cons.mpr ⟨h1, h2⟩
      · refine List.pairwise_cons.mpr ⟨?_, ih h2⟩
        intro c hc
        rcases memWrite_mem hc with rfl | hc
        · change k < a
          omega
        · exact h1 c hc

/-- A write of bytes keeps the form. -/
theorem memWriteBytes_wf (a : Nat) (bs : Bytes) (m : Memory) (h : Memory.wf m = true) : Memory.wf (memWriteBytes a bs m) = true := by
  induction bs generalizing a m with
  | nil => exact h
  | cons b bs ih => exact ih _ _ (memWrite_wf _ _ _ h)

/-- Forgetting a range keeps the form. -/
theorem memErase_wf (a len : Nat) (m : Memory) (h : Memory.wf m = true) : Memory.wf (memErase a len m) = true := by
  rw [wf_iff_pairwise] at h ⊢
  exact h.filter _

/-- Writing a cache line back keeps the form. -/
theorem putLineBytes_wf (a : Nat) (bs : List (Option Byte)) (m : Memory) (h : Memory.wf m = true) : Memory.wf (putLineBytes a bs m) = true := by
  induction bs generalizing a m with
  | nil => exact h
  | cons b bs ih =>
    cases b with
    | none => exact ih _ _ (memErase_wf _ _ _ h)
    | some b => exact ih _ _ (memWrite_wf _ _ _ h)

/-- Both stores have the form after reset. -/
theorem reset_mem_wf : Memory.wf State.reset.mem.near = true ∧ Memory.wf State.reset.mem.far = true := by
  constructor <;> rfl

end Sys2Proof.Machine
end

