-- ==== Sys2Proof/Laws/State.lean ====
section
/-! SUPPORT. The updates of one part of the state, field by field: the part changed becomes what the update says, and every other part stays. -/

namespace Sys2Proof.Machine

/-! ## `modifyBoot` -/

@[simp] theorem modifyBoot_time (f : BootPart → BootPart) (s : State) : (modifyBoot f s).time = s.time := rfl
@[simp] theorem modifyBoot_hsw (f : BootPart → BootPart) (s : State) : (modifyBoot f s).hsw = s.hsw := rfl
@[simp] theorem modifyBoot_boot (f : BootPart → BootPart) (s : State) : (modifyBoot f s).boot = f s.boot := rfl
@[simp] theorem modifyBoot_alm (f : BootPart → BootPart) (s : State) : (modifyBoot f s).alm = s.alm := rfl
@[simp] theorem modifyBoot_mci (f : BootPart → BootPart) (s : State) : (modifyBoot f s).mci = s.mci := rfl
@[simp] theorem modifyBoot_vault (f : BootPart → BootPart) (s : State) : (modifyBoot f s).vault = s.vault := rfl
@[simp] theorem modifyBoot_thermal (f : BootPart → BootPart) (s : State) : (modifyBoot f s).thermal = s.thermal := rfl
@[simp] theorem modifyBoot_smbus (f : BootPart → BootPart) (s : State) : (modifyBoot f s).smbus = s.smbus := rfl
@[simp] theorem modifyBoot_jtag (f : BootPart → BootPart) (s : State) : (modifyBoot f s).jtag = s.jtag := rfl
@[simp] theorem modifyBoot_flash (f : BootPart → BootPart) (s : State) : (modifyBoot f s).flash = s.flash := rfl
@[simp] theorem modifyBoot_fw (f : BootPart → BootPart) (s : State) : (modifyBoot f s).fw = s.fw := rfl
@[simp] theorem modifyBoot_tines (f : BootPart → BootPart) (s : State) : (modifyBoot f s).tines = s.tines := rfl
@[simp] theorem modifyBoot_winnow (f : BootPart → BootPart) (s : State) : (modifyBoot f s).winnow = s.winnow := rfl
@[simp] theorem modifyBoot_voxca (f : BootPart → BootPart) (s : State) : (modifyBoot f s).voxca = s.voxca := rfl
@[simp] theorem modifyBoot_cipher (f : BootPart → BootPart) (s : State) : (modifyBoot f s).cipher = s.cipher := rfl
@[simp] theorem modifyBoot_mem (f : BootPart → BootPart) (s : State) : (modifyBoot f s).mem = s.mem := rfl
@[simp] theorem modifyBoot_granary (f : BootPart → BootPart) (s : State) : (modifyBoot f s).granary = s.granary := rfl
@[simp] theorem modifyBoot_dma (f : BootPart → BootPart) (s : State) : (modifyBoot f s).dma = s.dma := rfl
@[simp] theorem modifyBoot_map (f : BootPart → BootPart) (s : State) : (modifyBoot f s).map = s.map := rfl
@[simp] theorem modifyBoot_journal (f : BootPart → BootPart) (s : State) : (modifyBoot f s).journal = s.journal := rfl
@[simp] theorem modifyBoot_ingest (f : BootPart → BootPart) (s : State) : (modifyBoot f s).ingest = s.ingest := rfl
@[simp] theorem modifyBoot_media (f : BootPart → BootPart) (s : State) : (modifyBoot f s).media = s.media := rfl
@[simp] theorem modifyBoot_read (f : BootPart → BootPart) (s : State) : (modifyBoot f s).read = s.read := rfl
@[simp] theorem modifyBoot_furrow (f : BootPart → BootPart) (s : State) : (modifyBoot f s).furrow = s.furrow := rfl
@[simp] theorem modifyBoot_bridges (f : BootPart → BootPart) (s : State) : (modifyBoot f s).bridges = s.bridges := rfl
@[simp] theorem modifyBoot_headland (f : BootPart → BootPart) (s : State) : (modifyBoot f s).headland = s.headland := rfl
@[simp] theorem modifyBoot_repl (f : BootPart → BootPart) (s : State) : (modifyBoot f s).repl = s.repl := rfl
@[simp] theorem modifyBoot_ports (f : BootPart → BootPart) (s : State) : (modifyBoot f s).ports = s.ports := rfl
@[simp] theorem modifyBoot_nvme (f : BootPart → BootPart) (s : State) : (modifyBoot f s).nvme = s.nvme := rfl
@[simp] theorem modifyBoot_sheaf (f : BootPart → BootPart) (s : State) : (modifyBoot f s).sheaf = s.sheaf := rfl
@[simp] theorem modifyBoot_out (f : BootPart → BootPart) (s : State) : (modifyBoot f s).out = s.out := rfl
@[simp] theorem modifyBoot_genCount (f : BootPart → BootPart) (s : State) : (modifyBoot f s).genCount = s.genCount := rfl
@[simp] theorem modifyBoot_freeCount (f : BootPart → BootPart) (s : State) : (modifyBoot f s).freeCount = s.freeCount := rfl
@[simp] theorem modifyBoot_pending (f : BootPart → BootPart) (s : State) : (modifyBoot f s).pending = s.pending := rfl

/-! ## `modifyHeadland` -/

@[simp] theorem modifyHeadland_time (f : HeadlandPart → HeadlandPart) (s : State) : (modifyHeadland f s).time = s.time := rfl
@[simp] theorem modifyHeadland_hsw (f : HeadlandPart → HeadlandPart) (s : State) : (modifyHeadland f s).hsw = s.hsw := rfl
@[simp] theorem modifyHeadland_boot (f : HeadlandPart → HeadlandPart) (s : State) : (modifyHeadland f s).boot = s.boot := rfl
@[simp] theorem modifyHeadland_alm (f : HeadlandPart → HeadlandPart) (s : State) : (modifyHeadland f s).alm = s.alm := rfl
@[simp] theorem modifyHeadland_mci (f : HeadlandPart → HeadlandPart) (s : State) : (modifyHeadland f s).mci = s.mci := rfl
@[simp] theorem modifyHeadland_vault (f : HeadlandPart → HeadlandPart) (s : State) : (modifyHeadland f s).vault = s.vault := rfl
@[simp] theorem modifyHeadland_thermal (f : HeadlandPart → HeadlandPart) (s : State) : (modifyHeadland f s).thermal = s.thermal := rfl
@[simp] theorem modifyHeadland_smbus (f : HeadlandPart → HeadlandPart) (s : State) : (modifyHeadland f s).smbus = s.smbus := rfl
@[simp] theorem modifyHeadland_jtag (f : HeadlandPart → HeadlandPart) (s : State) : (modifyHeadland f s).jtag = s.jtag := rfl
@[simp] theorem modifyHeadland_flash (f : HeadlandPart → HeadlandPart) (s : State) : (modifyHeadland f s).flash = s.flash := rfl
@[simp] theorem modifyHeadland_fw (f : HeadlandPart → HeadlandPart) (s : State) : (modifyHeadland f s).fw = s.fw := rfl
@[simp] theorem modifyHeadland_tines (f : HeadlandPart → HeadlandPart) (s : State) : (modifyHeadland f s).tines = s.tines := rfl
@[simp] theorem modifyHeadland_winnow (f : HeadlandPart → HeadlandPart) (s : State) : (modifyHeadland f s).winnow = s.winnow := rfl
@[simp] theorem modifyHeadland_voxca (f : HeadlandPart → HeadlandPart) (s : State) : (modifyHeadland f s).voxca = s.voxca := rfl
@[simp] theorem modifyHeadland_cipher (f : HeadlandPart → HeadlandPart) (s : State) : (modifyHeadland f s).cipher = s.cipher := rfl
@[simp] theorem modifyHeadland_mem (f : HeadlandPart → HeadlandPart) (s : State) : (modifyHeadland f s).mem = s.mem := rfl
@[simp] theorem modifyHeadland_granary (f : HeadlandPart → HeadlandPart) (s : State) : (modifyHeadland f s).granary = s.granary := rfl
@[simp] theorem modifyHeadland_dma (f : HeadlandPart → HeadlandPart) (s : State) : (modifyHeadland f s).dma = s.dma := rfl
@[simp] theorem modifyHeadland_map (f : HeadlandPart → HeadlandPart) (s : State) : (modifyHeadland f s).map = s.map := rfl
@[simp] theorem modifyHeadland_journal (f : HeadlandPart → HeadlandPart) (s : State) : (modifyHeadland f s).journal = s.journal := rfl
@[simp] theorem modifyHeadland_ingest (f : HeadlandPart → HeadlandPart) (s : State) : (modifyHeadland f s).ingest = s.ingest := rfl
@[simp] theorem modifyHeadland_media (f : HeadlandPart → HeadlandPart) (s : State) : (modifyHeadland f s).media = s.media := rfl
@[simp] theorem modifyHeadland_read (f : HeadlandPart → HeadlandPart) (s : State) : (modifyHeadland f s).read = s.read := rfl
@[simp] theorem modifyHeadland_furrow (f : HeadlandPart → HeadlandPart) (s : State) : (modifyHeadland f s).furrow = s.furrow := rfl
@[simp] theorem modifyHeadland_bridges (f : HeadlandPart → HeadlandPart) (s : State) : (modifyHeadland f s).bridges = s.bridges := rfl
@[simp] theorem modifyHeadland_headland (f : HeadlandPart → HeadlandPart) (s : State) : (modifyHeadland f s).headland = f s.headland := rfl
@[simp] theorem modifyHeadland_repl (f : HeadlandPart → HeadlandPart) (s : State) : (modifyHeadland f s).repl = s.repl := rfl
@[simp] theorem modifyHeadland_ports (f : HeadlandPart → HeadlandPart) (s : State) : (modifyHeadland f s).ports = s.ports := rfl
@[simp] theorem modifyHeadland_nvme (f : HeadlandPart → HeadlandPart) (s : State) : (modifyHeadland f s).nvme = s.nvme := rfl
@[simp] theorem modifyHeadland_sheaf (f : HeadlandPart → HeadlandPart) (s : State) : (modifyHeadland f s).sheaf = s.sheaf := rfl
@[simp] theorem modifyHeadland_out (f : HeadlandPart → HeadlandPart) (s : State) : (modifyHeadland f s).out = s.out := rfl
@[simp] theorem modifyHeadland_genCount (f : HeadlandPart → HeadlandPart) (s : State) : (modifyHeadland f s).genCount = s.genCount := rfl
@[simp] theorem modifyHeadland_freeCount (f : HeadlandPart → HeadlandPart) (s : State) : (modifyHeadland f s).freeCount = s.freeCount := rfl
@[simp] theorem modifyHeadland_pending (f : HeadlandPart → HeadlandPart) (s : State) : (modifyHeadland f s).pending = s.pending := rfl

/-! ## `modifyAlm` -/

@[simp] theorem modifyAlm_time (f : AlmPart → AlmPart) (s : State) : (modifyAlm f s).time = s.time := rfl
@[simp] theorem modifyAlm_hsw (f : AlmPart → AlmPart) (s : State) : (modifyAlm f s).hsw = s.hsw := rfl
@[simp] theorem modifyAlm_boot (f : AlmPart → AlmPart) (s : State) : (modifyAlm f s).boot = s.boot := rfl
@[simp] theorem modifyAlm_alm (f : AlmPart → AlmPart) (s : State) : (modifyAlm f s).alm = f s.alm := rfl
@[simp] theorem modifyAlm_mci (f : AlmPart → AlmPart) (s : State) : (modifyAlm f s).mci = s.mci := rfl
@[simp] theorem modifyAlm_vault (f : AlmPart → AlmPart) (s : State) : (modifyAlm f s).vault = s.vault := rfl
@[simp] theorem modifyAlm_thermal (f : AlmPart → AlmPart) (s : State) : (modifyAlm f s).thermal = s.thermal := rfl
@[simp] theorem modifyAlm_smbus (f : AlmPart → AlmPart) (s : State) : (modifyAlm f s).smbus = s.smbus := rfl
@[simp] theorem modifyAlm_jtag (f : AlmPart → AlmPart) (s : State) : (modifyAlm f s).jtag = s.jtag := rfl
@[simp] theorem modifyAlm_flash (f : AlmPart → AlmPart) (s : State) : (modifyAlm f s).flash = s.flash := rfl
@[simp] theorem modifyAlm_fw (f : AlmPart → AlmPart) (s : State) : (modifyAlm f s).fw = s.fw := rfl
@[simp] theorem modifyAlm_tines (f : AlmPart → AlmPart) (s : State) : (modifyAlm f s).tines = s.tines := rfl
@[simp] theorem modifyAlm_winnow (f : AlmPart → AlmPart) (s : State) : (modifyAlm f s).winnow = s.winnow := rfl
@[simp] theorem modifyAlm_voxca (f : AlmPart → AlmPart) (s : State) : (modifyAlm f s).voxca = s.voxca := rfl
@[simp] theorem modifyAlm_cipher (f : AlmPart → AlmPart) (s : State) : (modifyAlm f s).cipher = s.cipher := rfl
@[simp] theorem modifyAlm_mem (f : AlmPart → AlmPart) (s : State) : (modifyAlm f s).mem = s.mem := rfl
@[simp] theorem modifyAlm_granary (f : AlmPart → AlmPart) (s : State) : (modifyAlm f s).granary = s.granary := rfl
@[simp] theorem modifyAlm_dma (f : AlmPart → AlmPart) (s : State) : (modifyAlm f s).dma = s.dma := rfl
@[simp] theorem modifyAlm_map (f : AlmPart → AlmPart) (s : State) : (modifyAlm f s).map = s.map := rfl
@[simp] theorem modifyAlm_journal (f : AlmPart → AlmPart) (s : State) : (modifyAlm f s).journal = s.journal := rfl
@[simp] theorem modifyAlm_ingest (f : AlmPart → AlmPart) (s : State) : (modifyAlm f s).ingest = s.ingest := rfl
@[simp] theorem modifyAlm_media (f : AlmPart → AlmPart) (s : State) : (modifyAlm f s).media = s.media := rfl
@[simp] theorem modifyAlm_read (f : AlmPart → AlmPart) (s : State) : (modifyAlm f s).read = s.read := rfl
@[simp] theorem modifyAlm_furrow (f : AlmPart → AlmPart) (s : State) : (modifyAlm f s).furrow = s.furrow := rfl
@[simp] theorem modifyAlm_bridges (f : AlmPart → AlmPart) (s : State) : (modifyAlm f s).bridges = s.bridges := rfl
@[simp] theorem modifyAlm_headland (f : AlmPart → AlmPart) (s : State) : (modifyAlm f s).headland = s.headland := rfl
@[simp] theorem modifyAlm_repl (f : AlmPart → AlmPart) (s : State) : (modifyAlm f s).repl = s.repl := rfl
@[simp] theorem modifyAlm_ports (f : AlmPart → AlmPart) (s : State) : (modifyAlm f s).ports = s.ports := rfl
@[simp] theorem modifyAlm_nvme (f : AlmPart → AlmPart) (s : State) : (modifyAlm f s).nvme = s.nvme := rfl
@[simp] theorem modifyAlm_sheaf (f : AlmPart → AlmPart) (s : State) : (modifyAlm f s).sheaf = s.sheaf := rfl
@[simp] theorem modifyAlm_out (f : AlmPart → AlmPart) (s : State) : (modifyAlm f s).out = s.out := rfl
@[simp] theorem modifyAlm_genCount (f : AlmPart → AlmPart) (s : State) : (modifyAlm f s).genCount = s.genCount := rfl
@[simp] theorem modifyAlm_freeCount (f : AlmPart → AlmPart) (s : State) : (modifyAlm f s).freeCount = s.freeCount := rfl
@[simp] theorem modifyAlm_pending (f : AlmPart → AlmPart) (s : State) : (modifyAlm f s).pending = s.pending := rfl

/-! ## `modifyTime` -/

@[simp] theorem modifyTime_time (f : TimePart → TimePart) (s : State) : (modifyTime f s).time = f s.time := rfl
@[simp] theorem modifyTime_hsw (f : TimePart → TimePart) (s : State) : (modifyTime f s).hsw = s.hsw := rfl
@[simp] theorem modifyTime_boot (f : TimePart → TimePart) (s : State) : (modifyTime f s).boot = s.boot := rfl
@[simp] theorem modifyTime_alm (f : TimePart → TimePart) (s : State) : (modifyTime f s).alm = s.alm := rfl
@[simp] theorem modifyTime_mci (f : TimePart → TimePart) (s : State) : (modifyTime f s).mci = s.mci := rfl
@[simp] theorem modifyTime_vault (f : TimePart → TimePart) (s : State) : (modifyTime f s).vault = s.vault := rfl
@[simp] theorem modifyTime_thermal (f : TimePart → TimePart) (s : State) : (modifyTime f s).thermal = s.thermal := rfl
@[simp] theorem modifyTime_smbus (f : TimePart → TimePart) (s : State) : (modifyTime f s).smbus = s.smbus := rfl
@[simp] theorem modifyTime_jtag (f : TimePart → TimePart) (s : State) : (modifyTime f s).jtag = s.jtag := rfl
@[simp] theorem modifyTime_flash (f : TimePart → TimePart) (s : State) : (modifyTime f s).flash = s.flash := rfl
@[simp] theorem modifyTime_fw (f : TimePart → TimePart) (s : State) : (modifyTime f s).fw = s.fw := rfl
@[simp] theorem modifyTime_tines (f : TimePart → TimePart) (s : State) : (modifyTime f s).tines = s.tines := rfl
@[simp] theorem modifyTime_winnow (f : TimePart → TimePart) (s : State) : (modifyTime f s).winnow = s.winnow := rfl
@[simp] theorem modifyTime_voxca (f : TimePart → TimePart) (s : State) : (modifyTime f s).voxca = s.voxca := rfl
@[simp] theorem modifyTime_cipher (f : TimePart → TimePart) (s : State) : (modifyTime f s).cipher = s.cipher := rfl
@[simp] theorem modifyTime_mem (f : TimePart → TimePart) (s : State) : (modifyTime f s).mem = s.mem := rfl
@[simp] theorem modifyTime_granary (f : TimePart → TimePart) (s : State) : (modifyTime f s).granary = s.granary := rfl
@[simp] theorem modifyTime_dma (f : TimePart → TimePart) (s : State) : (modifyTime f s).dma = s.dma := rfl
@[simp] theorem modifyTime_map (f : TimePart → TimePart) (s : State) : (modifyTime f s).map = s.map := rfl
@[simp] theorem modifyTime_journal (f : TimePart → TimePart) (s : State) : (modifyTime f s).journal = s.journal := rfl
@[simp] theorem modifyTime_ingest (f : TimePart → TimePart) (s : State) : (modifyTime f s).ingest = s.ingest := rfl
@[simp] theorem modifyTime_media (f : TimePart → TimePart) (s : State) : (modifyTime f s).media = s.media := rfl
@[simp] theorem modifyTime_read (f : TimePart → TimePart) (s : State) : (modifyTime f s).read = s.read := rfl
@[simp] theorem modifyTime_furrow (f : TimePart → TimePart) (s : State) : (modifyTime f s).furrow = s.furrow := rfl
@[simp] theorem modifyTime_bridges (f : TimePart → TimePart) (s : State) : (modifyTime f s).bridges = s.bridges := rfl
@[simp] theorem modifyTime_headland (f : TimePart → TimePart) (s : State) : (modifyTime f s).headland = s.headland := rfl
@[simp] theorem modifyTime_repl (f : TimePart → TimePart) (s : State) : (modifyTime f s).repl = s.repl := rfl
@[simp] theorem modifyTime_ports (f : TimePart → TimePart) (s : State) : (modifyTime f s).ports = s.ports := rfl
@[simp] theorem modifyTime_nvme (f : TimePart → TimePart) (s : State) : (modifyTime f s).nvme = s.nvme := rfl
@[simp] theorem modifyTime_sheaf (f : TimePart → TimePart) (s : State) : (modifyTime f s).sheaf = s.sheaf := rfl
@[simp] theorem modifyTime_out (f : TimePart → TimePart) (s : State) : (modifyTime f s).out = s.out := rfl
@[simp] theorem modifyTime_genCount (f : TimePart → TimePart) (s : State) : (modifyTime f s).genCount = s.genCount := rfl
@[simp] theorem modifyTime_freeCount (f : TimePart → TimePart) (s : State) : (modifyTime f s).freeCount = s.freeCount := rfl
@[simp] theorem modifyTime_pending (f : TimePart → TimePart) (s : State) : (modifyTime f s).pending = s.pending := rfl

/-! ## `modifyThermal` -/

@[simp] theorem modifyThermal_time (f : ThermalPart → ThermalPart) (s : State) : (modifyThermal f s).time = s.time := rfl
@[simp] theorem modifyThermal_hsw (f : ThermalPart → ThermalPart) (s : State) : (modifyThermal f s).hsw = s.hsw := rfl
@[simp] theorem modifyThermal_boot (f : ThermalPart → ThermalPart) (s : State) : (modifyThermal f s).boot = s.boot := rfl
@[simp] theorem modifyThermal_alm (f : ThermalPart → ThermalPart) (s : State) : (modifyThermal f s).alm = s.alm := rfl
@[simp] theorem modifyThermal_mci (f : ThermalPart → ThermalPart) (s : State) : (modifyThermal f s).mci = s.mci := rfl
@[simp] theorem modifyThermal_vault (f : ThermalPart → ThermalPart) (s : State) : (modifyThermal f s).vault = s.vault := rfl
@[simp] theorem modifyThermal_thermal (f : ThermalPart → ThermalPart) (s : State) : (modifyThermal f s).thermal = f s.thermal := rfl
@[simp] theorem modifyThermal_smbus (f : ThermalPart → ThermalPart) (s : State) : (modifyThermal f s).smbus = s.smbus := rfl
@[simp] theorem modifyThermal_jtag (f : ThermalPart → ThermalPart) (s : State) : (modifyThermal f s).jtag = s.jtag := rfl
@[simp] theorem modifyThermal_flash (f : ThermalPart → ThermalPart) (s : State) : (modifyThermal f s).flash = s.flash := rfl
@[simp] theorem modifyThermal_fw (f : ThermalPart → ThermalPart) (s : State) : (modifyThermal f s).fw = s.fw := rfl
@[simp] theorem modifyThermal_tines (f : ThermalPart → ThermalPart) (s : State) : (modifyThermal f s).tines = s.tines := rfl
@[simp] theorem modifyThermal_winnow (f : ThermalPart → ThermalPart) (s : State) : (modifyThermal f s).winnow = s.winnow := rfl
@[simp] theorem modifyThermal_voxca (f : ThermalPart → ThermalPart) (s : State) : (modifyThermal f s).voxca = s.voxca := rfl
@[simp] theorem modifyThermal_cipher (f : ThermalPart → ThermalPart) (s : State) : (modifyThermal f s).cipher = s.cipher := rfl
@[simp] theorem modifyThermal_mem (f : ThermalPart → ThermalPart) (s : State) : (modifyThermal f s).mem = s.mem := rfl
@[simp] theorem modifyThermal_granary (f : ThermalPart → ThermalPart) (s : State) : (modifyThermal f s).granary = s.granary := rfl
@[simp] theorem modifyThermal_dma (f : ThermalPart → ThermalPart) (s : State) : (modifyThermal f s).dma = s.dma := rfl
@[simp] theorem modifyThermal_map (f : ThermalPart → ThermalPart) (s : State) : (modifyThermal f s).map = s.map := rfl
@[simp] theorem modifyThermal_journal (f : ThermalPart → ThermalPart) (s : State) : (modifyThermal f s).journal = s.journal := rfl
@[simp] theorem modifyThermal_ingest (f : ThermalPart → ThermalPart) (s : State) : (modifyThermal f s).ingest = s.ingest := rfl
@[simp] theorem modifyThermal_media (f : ThermalPart → ThermalPart) (s : State) : (modifyThermal f s).media = s.media := rfl
@[simp] theorem modifyThermal_read (f : ThermalPart → ThermalPart) (s : State) : (modifyThermal f s).read = s.read := rfl
@[simp] theorem modifyThermal_furrow (f : ThermalPart → ThermalPart) (s : State) : (modifyThermal f s).furrow = s.furrow := rfl
@[simp] theorem modifyThermal_bridges (f : ThermalPart → ThermalPart) (s : State) : (modifyThermal f s).bridges = s.bridges := rfl
@[simp] theorem modifyThermal_headland (f : ThermalPart → ThermalPart) (s : State) : (modifyThermal f s).headland = s.headland := rfl
@[simp] theorem modifyThermal_repl (f : ThermalPart → ThermalPart) (s : State) : (modifyThermal f s).repl = s.repl := rfl
@[simp] theorem modifyThermal_ports (f : ThermalPart → ThermalPart) (s : State) : (modifyThermal f s).ports = s.ports := rfl
@[simp] theorem modifyThermal_nvme (f : ThermalPart → ThermalPart) (s : State) : (modifyThermal f s).nvme = s.nvme := rfl
@[simp] theorem modifyThermal_sheaf (f : ThermalPart → ThermalPart) (s : State) : (modifyThermal f s).sheaf = s.sheaf := rfl
@[simp] theorem modifyThermal_out (f : ThermalPart → ThermalPart) (s : State) : (modifyThermal f s).out = s.out := rfl
@[simp] theorem modifyThermal_genCount (f : ThermalPart → ThermalPart) (s : State) : (modifyThermal f s).genCount = s.genCount := rfl
@[simp] theorem modifyThermal_freeCount (f : ThermalPart → ThermalPart) (s : State) : (modifyThermal f s).freeCount = s.freeCount := rfl
@[simp] theorem modifyThermal_pending (f : ThermalPart → ThermalPart) (s : State) : (modifyThermal f s).pending = s.pending := rfl

/-! ## `modifySmbus` -/

@[simp] theorem modifySmbus_time (f : SmbusPart → SmbusPart) (s : State) : (modifySmbus f s).time = s.time := rfl
@[simp] theorem modifySmbus_hsw (f : SmbusPart → SmbusPart) (s : State) : (modifySmbus f s).hsw = s.hsw := rfl
@[simp] theorem modifySmbus_boot (f : SmbusPart → SmbusPart) (s : State) : (modifySmbus f s).boot = s.boot := rfl
@[simp] theorem modifySmbus_alm (f : SmbusPart → SmbusPart) (s : State) : (modifySmbus f s).alm = s.alm := rfl
@[simp] theorem modifySmbus_mci (f : SmbusPart → SmbusPart) (s : State) : (modifySmbus f s).mci = s.mci := rfl
@[simp] theorem modifySmbus_vault (f : SmbusPart → SmbusPart) (s : State) : (modifySmbus f s).vault = s.vault := rfl
@[simp] theorem modifySmbus_thermal (f : SmbusPart → SmbusPart) (s : State) : (modifySmbus f s).thermal = s.thermal := rfl
@[simp] theorem modifySmbus_smbus (f : SmbusPart → SmbusPart) (s : State) : (modifySmbus f s).smbus = f s.smbus := rfl
@[simp] theorem modifySmbus_jtag (f : SmbusPart → SmbusPart) (s : State) : (modifySmbus f s).jtag = s.jtag := rfl
@[simp] theorem modifySmbus_flash (f : SmbusPart → SmbusPart) (s : State) : (modifySmbus f s).flash = s.flash := rfl
@[simp] theorem modifySmbus_fw (f : SmbusPart → SmbusPart) (s : State) : (modifySmbus f s).fw = s.fw := rfl
@[simp] theorem modifySmbus_tines (f : SmbusPart → SmbusPart) (s : State) : (modifySmbus f s).tines = s.tines := rfl
@[simp] theorem modifySmbus_winnow (f : SmbusPart → SmbusPart) (s : State) : (modifySmbus f s).winnow = s.winnow := rfl
@[simp] theorem modifySmbus_voxca (f : SmbusPart → SmbusPart) (s : State) : (modifySmbus f s).voxca = s.voxca := rfl
@[simp] theorem modifySmbus_cipher (f : SmbusPart → SmbusPart) (s : State) : (modifySmbus f s).cipher = s.cipher := rfl
@[simp] theorem modifySmbus_mem (f : SmbusPart → SmbusPart) (s : State) : (modifySmbus f s).mem = s.mem := rfl
@[simp] theorem modifySmbus_granary (f : SmbusPart → SmbusPart) (s : State) : (modifySmbus f s).granary = s.granary := rfl
@[simp] theorem modifySmbus_dma (f : SmbusPart → SmbusPart) (s : State) : (modifySmbus f s).dma = s.dma := rfl
@[simp] theorem modifySmbus_map (f : SmbusPart → SmbusPart) (s : State) : (modifySmbus f s).map = s.map := rfl
@[simp] theorem modifySmbus_journal (f : SmbusPart → SmbusPart) (s : State) : (modifySmbus f s).journal = s.journal := rfl
@[simp] theorem modifySmbus_ingest (f : SmbusPart → SmbusPart) (s : State) : (modifySmbus f s).ingest = s.ingest := rfl
@[simp] theorem modifySmbus_media (f : SmbusPart → SmbusPart) (s : State) : (modifySmbus f s).media = s.media := rfl
@[simp] theorem modifySmbus_read (f : SmbusPart → SmbusPart) (s : State) : (modifySmbus f s).read = s.read := rfl
@[simp] theorem modifySmbus_furrow (f : SmbusPart → SmbusPart) (s : State) : (modifySmbus f s).furrow = s.furrow := rfl
@[simp] theorem modifySmbus_bridges (f : SmbusPart → SmbusPart) (s : State) : (modifySmbus f s).bridges = s.bridges := rfl
@[simp] theorem modifySmbus_headland (f : SmbusPart → SmbusPart) (s : State) : (modifySmbus f s).headland = s.headland := rfl
@[simp] theorem modifySmbus_repl (f : SmbusPart → SmbusPart) (s : State) : (modifySmbus f s).repl = s.repl := rfl
@[simp] theorem modifySmbus_ports (f : SmbusPart → SmbusPart) (s : State) : (modifySmbus f s).ports = s.ports := rfl
@[simp] theorem modifySmbus_nvme (f : SmbusPart → SmbusPart) (s : State) : (modifySmbus f s).nvme = s.nvme := rfl
@[simp] theorem modifySmbus_sheaf (f : SmbusPart → SmbusPart) (s : State) : (modifySmbus f s).sheaf = s.sheaf := rfl
@[simp] theorem modifySmbus_out (f : SmbusPart → SmbusPart) (s : State) : (modifySmbus f s).out = s.out := rfl
@[simp] theorem modifySmbus_genCount (f : SmbusPart → SmbusPart) (s : State) : (modifySmbus f s).genCount = s.genCount := rfl
@[simp] theorem modifySmbus_freeCount (f : SmbusPart → SmbusPart) (s : State) : (modifySmbus f s).freeCount = s.freeCount := rfl
@[simp] theorem modifySmbus_pending (f : SmbusPart → SmbusPart) (s : State) : (modifySmbus f s).pending = s.pending := rfl

/-! ## `modifyFw` -/

@[simp] theorem modifyFw_time (f : FwPart → FwPart) (s : State) : (modifyFw f s).time = s.time := rfl
@[simp] theorem modifyFw_hsw (f : FwPart → FwPart) (s : State) : (modifyFw f s).hsw = s.hsw := rfl
@[simp] theorem modifyFw_boot (f : FwPart → FwPart) (s : State) : (modifyFw f s).boot = s.boot := rfl
@[simp] theorem modifyFw_alm (f : FwPart → FwPart) (s : State) : (modifyFw f s).alm = s.alm := rfl
@[simp] theorem modifyFw_mci (f : FwPart → FwPart) (s : State) : (modifyFw f s).mci = s.mci := rfl
@[simp] theorem modifyFw_vault (f : FwPart → FwPart) (s : State) : (modifyFw f s).vault = s.vault := rfl
@[simp] theorem modifyFw_thermal (f : FwPart → FwPart) (s : State) : (modifyFw f s).thermal = s.thermal := rfl
@[simp] theorem modifyFw_smbus (f : FwPart → FwPart) (s : State) : (modifyFw f s).smbus = s.smbus := rfl
@[simp] theorem modifyFw_jtag (f : FwPart → FwPart) (s : State) : (modifyFw f s).jtag = s.jtag := rfl
@[simp] theorem modifyFw_flash (f : FwPart → FwPart) (s : State) : (modifyFw f s).flash = s.flash := rfl
@[simp] theorem modifyFw_fw (f : FwPart → FwPart) (s : State) : (modifyFw f s).fw = f s.fw := rfl
@[simp] theorem modifyFw_tines (f : FwPart → FwPart) (s : State) : (modifyFw f s).tines = s.tines := rfl
@[simp] theorem modifyFw_winnow (f : FwPart → FwPart) (s : State) : (modifyFw f s).winnow = s.winnow := rfl
@[simp] theorem modifyFw_voxca (f : FwPart → FwPart) (s : State) : (modifyFw f s).voxca = s.voxca := rfl
@[simp] theorem modifyFw_cipher (f : FwPart → FwPart) (s : State) : (modifyFw f s).cipher = s.cipher := rfl
@[simp] theorem modifyFw_mem (f : FwPart → FwPart) (s : State) : (modifyFw f s).mem = s.mem := rfl
@[simp] theorem modifyFw_granary (f : FwPart → FwPart) (s : State) : (modifyFw f s).granary = s.granary := rfl
@[simp] theorem modifyFw_dma (f : FwPart → FwPart) (s : State) : (modifyFw f s).dma = s.dma := rfl
@[simp] theorem modifyFw_map (f : FwPart → FwPart) (s : State) : (modifyFw f s).map = s.map := rfl
@[simp] theorem modifyFw_journal (f : FwPart → FwPart) (s : State) : (modifyFw f s).journal = s.journal := rfl
@[simp] theorem modifyFw_ingest (f : FwPart → FwPart) (s : State) : (modifyFw f s).ingest = s.ingest := rfl
@[simp] theorem modifyFw_media (f : FwPart → FwPart) (s : State) : (modifyFw f s).media = s.media := rfl
@[simp] theorem modifyFw_read (f : FwPart → FwPart) (s : State) : (modifyFw f s).read = s.read := rfl
@[simp] theorem modifyFw_furrow (f : FwPart → FwPart) (s : State) : (modifyFw f s).furrow = s.furrow := rfl
@[simp] theorem modifyFw_bridges (f : FwPart → FwPart) (s : State) : (modifyFw f s).bridges = s.bridges := rfl
@[simp] theorem modifyFw_headland (f : FwPart → FwPart) (s : State) : (modifyFw f s).headland = s.headland := rfl
@[simp] theorem modifyFw_repl (f : FwPart → FwPart) (s : State) : (modifyFw f s).repl = s.repl := rfl
@[simp] theorem modifyFw_ports (f : FwPart → FwPart) (s : State) : (modifyFw f s).ports = s.ports := rfl
@[simp] theorem modifyFw_nvme (f : FwPart → FwPart) (s : State) : (modifyFw f s).nvme = s.nvme := rfl
@[simp] theorem modifyFw_sheaf (f : FwPart → FwPart) (s : State) : (modifyFw f s).sheaf = s.sheaf := rfl
@[simp] theorem modifyFw_out (f : FwPart → FwPart) (s : State) : (modifyFw f s).out = s.out := rfl
@[simp] theorem modifyFw_genCount (f : FwPart → FwPart) (s : State) : (modifyFw f s).genCount = s.genCount := rfl
@[simp] theorem modifyFw_freeCount (f : FwPart → FwPart) (s : State) : (modifyFw f s).freeCount = s.freeCount := rfl
@[simp] theorem modifyFw_pending (f : FwPart → FwPart) (s : State) : (modifyFw f s).pending = s.pending := rfl

/-! ## `modifyIngest` -/

@[simp] theorem modifyIngest_time (f : IngestPart → IngestPart) (s : State) : (modifyIngest f s).time = s.time := rfl
@[simp] theorem modifyIngest_hsw (f : IngestPart → IngestPart) (s : State) : (modifyIngest f s).hsw = s.hsw := rfl
@[simp] theorem modifyIngest_boot (f : IngestPart → IngestPart) (s : State) : (modifyIngest f s).boot = s.boot := rfl
@[simp] theorem modifyIngest_alm (f : IngestPart → IngestPart) (s : State) : (modifyIngest f s).alm = s.alm := rfl
@[simp] theorem modifyIngest_mci (f : IngestPart → IngestPart) (s : State) : (modifyIngest f s).mci = s.mci := rfl
@[simp] theorem modifyIngest_vault (f : IngestPart → IngestPart) (s : State) : (modifyIngest f s).vault = s.vault := rfl
@[simp] theorem modifyIngest_thermal (f : IngestPart → IngestPart) (s : State) : (modifyIngest f s).thermal = s.thermal := rfl
@[simp] theorem modifyIngest_smbus (f : IngestPart → IngestPart) (s : State) : (modifyIngest f s).smbus = s.smbus := rfl
@[simp] theorem modifyIngest_jtag (f : IngestPart → IngestPart) (s : State) : (modifyIngest f s).jtag = s.jtag := rfl
@[simp] theorem modifyIngest_flash (f : IngestPart → IngestPart) (s : State) : (modifyIngest f s).flash = s.flash := rfl
@[simp] theorem modifyIngest_fw (f : IngestPart → IngestPart) (s : State) : (modifyIngest f s).fw = s.fw := rfl
@[simp] theorem modifyIngest_tines (f : IngestPart → IngestPart) (s : State) : (modifyIngest f s).tines = s.tines := rfl
@[simp] theorem modifyIngest_winnow (f : IngestPart → IngestPart) (s : State) : (modifyIngest f s).winnow = s.winnow := rfl
@[simp] theorem modifyIngest_voxca (f : IngestPart → IngestPart) (s : State) : (modifyIngest f s).voxca = s.voxca := rfl
@[simp] theorem modifyIngest_cipher (f : IngestPart → IngestPart) (s : State) : (modifyIngest f s).cipher = s.cipher := rfl
@[simp] theorem modifyIngest_mem (f : IngestPart → IngestPart) (s : State) : (modifyIngest f s).mem = s.mem := rfl
@[simp] theorem modifyIngest_granary (f : IngestPart → IngestPart) (s : State) : (modifyIngest f s).granary = s.granary := rfl
@[simp] theorem modifyIngest_dma (f : IngestPart → IngestPart) (s : State) : (modifyIngest f s).dma = s.dma := rfl
@[simp] theorem modifyIngest_map (f : IngestPart → IngestPart) (s : State) : (modifyIngest f s).map = s.map := rfl
@[simp] theorem modifyIngest_journal (f : IngestPart → IngestPart) (s : State) : (modifyIngest f s).journal = s.journal := rfl
@[simp] theorem modifyIngest_ingest (f : IngestPart → IngestPart) (s : State) : (modifyIngest f s).ingest = f s.ingest := rfl
@[simp] theorem modifyIngest_media (f : IngestPart → IngestPart) (s : State) : (modifyIngest f s).media = s.media := rfl
@[simp] theorem modifyIngest_read (f : IngestPart → IngestPart) (s : State) : (modifyIngest f s).read = s.read := rfl
@[simp] theorem modifyIngest_furrow (f : IngestPart → IngestPart) (s : State) : (modifyIngest f s).furrow = s.furrow := rfl
@[simp] theorem modifyIngest_bridges (f : IngestPart → IngestPart) (s : State) : (modifyIngest f s).bridges = s.bridges := rfl
@[simp] theorem modifyIngest_headland (f : IngestPart → IngestPart) (s : State) : (modifyIngest f s).headland = s.headland := rfl
@[simp] theorem modifyIngest_repl (f : IngestPart → IngestPart) (s : State) : (modifyIngest f s).repl = s.repl := rfl
@[simp] theorem modifyIngest_ports (f : IngestPart → IngestPart) (s : State) : (modifyIngest f s).ports = s.ports := rfl
@[simp] theorem modifyIngest_nvme (f : IngestPart → IngestPart) (s : State) : (modifyIngest f s).nvme = s.nvme := rfl
@[simp] theorem modifyIngest_sheaf (f : IngestPart → IngestPart) (s : State) : (modifyIngest f s).sheaf = s.sheaf := rfl
@[simp] theorem modifyIngest_out (f : IngestPart → IngestPart) (s : State) : (modifyIngest f s).out = s.out := rfl
@[simp] theorem modifyIngest_genCount (f : IngestPart → IngestPart) (s : State) : (modifyIngest f s).genCount = s.genCount := rfl
@[simp] theorem modifyIngest_freeCount (f : IngestPart → IngestPart) (s : State) : (modifyIngest f s).freeCount = s.freeCount := rfl
@[simp] theorem modifyIngest_pending (f : IngestPart → IngestPart) (s : State) : (modifyIngest f s).pending = s.pending := rfl

/-! ## `modifySlice` -/

@[simp] theorem modifySlice_time (h : Nat) (f : VoxcaSlice → VoxcaSlice) (s : State) : (modifySlice h f s).time = s.time := rfl
@[simp] theorem modifySlice_hsw (h : Nat) (f : VoxcaSlice → VoxcaSlice) (s : State) : (modifySlice h f s).hsw = s.hsw := rfl
@[simp] theorem modifySlice_boot (h : Nat) (f : VoxcaSlice → VoxcaSlice) (s : State) : (modifySlice h f s).boot = s.boot := rfl
@[simp] theorem modifySlice_alm (h : Nat) (f : VoxcaSlice → VoxcaSlice) (s : State) : (modifySlice h f s).alm = s.alm := rfl
@[simp] theorem modifySlice_mci (h : Nat) (f : VoxcaSlice → VoxcaSlice) (s : State) : (modifySlice h f s).mci = s.mci := rfl
@[simp] theorem modifySlice_vault (h : Nat) (f : VoxcaSlice → VoxcaSlice) (s : State) : (modifySlice h f s).vault = s.vault := rfl
@[simp] theorem modifySlice_thermal (h : Nat) (f : VoxcaSlice → VoxcaSlice) (s : State) : (modifySlice h f s).thermal = s.thermal := rfl
@[simp] theorem modifySlice_smbus (h : Nat) (f : VoxcaSlice → VoxcaSlice) (s : State) : (modifySlice h f s).smbus = s.smbus := rfl
@[simp] theorem modifySlice_jtag (h : Nat) (f : VoxcaSlice → VoxcaSlice) (s : State) : (modifySlice h f s).jtag = s.jtag := rfl
@[simp] theorem modifySlice_flash (h : Nat) (f : VoxcaSlice → VoxcaSlice) (s : State) : (modifySlice h f s).flash = s.flash := rfl
@[simp] theorem modifySlice_fw (h : Nat) (f : VoxcaSlice → VoxcaSlice) (s : State) : (modifySlice h f s).fw = s.fw := rfl
@[simp] theorem modifySlice_tines (h : Nat) (f : VoxcaSlice → VoxcaSlice) (s : State) : (modifySlice h f s).tines = s.tines := rfl
@[simp] theorem modifySlice_winnow (h : Nat) (f : VoxcaSlice → VoxcaSlice) (s : State) : (modifySlice h f s).winnow = s.winnow := rfl
@[simp] theorem modifySlice_voxca (h : Nat) (f : VoxcaSlice → VoxcaSlice) (s : State) : (modifySlice h f s).voxca = modifyNth f h s.voxca := rfl
@[simp] theorem modifySlice_cipher (h : Nat) (f : VoxcaSlice → VoxcaSlice) (s : State) : (modifySlice h f s).cipher = s.cipher := rfl
@[simp] theorem modifySlice_mem (h : Nat) (f : VoxcaSlice → VoxcaSlice) (s : State) : (modifySlice h f s).mem = s.mem := rfl
@[simp] theorem modifySlice_granary (h : Nat) (f : VoxcaSlice → VoxcaSlice) (s : State) : (modifySlice h f s).granary = s.granary := rfl
@[simp] theorem modifySlice_dma (h : Nat) (f : VoxcaSlice → VoxcaSlice) (s : State) : (modifySlice h f s).dma = s.dma := rfl
@[simp] theorem modifySlice_map (h : Nat) (f : VoxcaSlice → VoxcaSlice) (s : State) : (modifySlice h f s).map = s.map := rfl
@[simp] theorem modifySlice_journal (h : Nat) (f : VoxcaSlice → VoxcaSlice) (s : State) : (modifySlice h f s).journal = s.journal := rfl
@[simp] theorem modifySlice_ingest (h : Nat) (f : VoxcaSlice → VoxcaSlice) (s : State) : (modifySlice h f s).ingest = s.ingest := rfl
@[simp] theorem modifySlice_media (h : Nat) (f : VoxcaSlice → VoxcaSlice) (s : State) : (modifySlice h f s).media = s.media := rfl
@[simp] theorem modifySlice_read (h : Nat) (f : VoxcaSlice → VoxcaSlice) (s : State) : (modifySlice h f s).read = s.read := rfl
@[simp] theorem modifySlice_furrow (h : Nat) (f : VoxcaSlice → VoxcaSlice) (s : State) : (modifySlice h f s).furrow = s.furrow := rfl
@[simp] theorem modifySlice_bridges (h : Nat) (f : VoxcaSlice → VoxcaSlice) (s : State) : (modifySlice h f s).bridges = s.bridges := rfl
@[simp] theorem modifySlice_headland (h : Nat) (f : VoxcaSlice → VoxcaSlice) (s : State) : (modifySlice h f s).headland = s.headland := rfl
@[simp] theorem modifySlice_repl (h : Nat) (f : VoxcaSlice → VoxcaSlice) (s : State) : (modifySlice h f s).repl = s.repl := rfl
@[simp] theorem modifySlice_ports (h : Nat) (f : VoxcaSlice → VoxcaSlice) (s : State) : (modifySlice h f s).ports = s.ports := rfl
@[simp] theorem modifySlice_nvme (h : Nat) (f : VoxcaSlice → VoxcaSlice) (s : State) : (modifySlice h f s).nvme = s.nvme := rfl
@[simp] theorem modifySlice_sheaf (h : Nat) (f : VoxcaSlice → VoxcaSlice) (s : State) : (modifySlice h f s).sheaf = s.sheaf := rfl
@[simp] theorem modifySlice_out (h : Nat) (f : VoxcaSlice → VoxcaSlice) (s : State) : (modifySlice h f s).out = s.out := rfl
@[simp] theorem modifySlice_genCount (h : Nat) (f : VoxcaSlice → VoxcaSlice) (s : State) : (modifySlice h f s).genCount = s.genCount := rfl
@[simp] theorem modifySlice_freeCount (h : Nat) (f : VoxcaSlice → VoxcaSlice) (s : State) : (modifySlice h f s).freeCount = s.freeCount := rfl
@[simp] theorem modifySlice_pending (h : Nat) (f : VoxcaSlice → VoxcaSlice) (s : State) : (modifySlice h f s).pending = s.pending := rfl

/-! ## `modifyCipher` -/

@[simp] theorem modifyCipher_time (f : CipherPart → CipherPart) (s : State) : (modifyCipher f s).time = s.time := rfl
@[simp] theorem modifyCipher_hsw (f : CipherPart → CipherPart) (s : State) : (modifyCipher f s).hsw = s.hsw := rfl
@[simp] theorem modifyCipher_boot (f : CipherPart → CipherPart) (s : State) : (modifyCipher f s).boot = s.boot := rfl
@[simp] theorem modifyCipher_alm (f : CipherPart → CipherPart) (s : State) : (modifyCipher f s).alm = s.alm := rfl
@[simp] theorem modifyCipher_mci (f : CipherPart → CipherPart) (s : State) : (modifyCipher f s).mci = s.mci := rfl
@[simp] theorem modifyCipher_vault (f : CipherPart → CipherPart) (s : State) : (modifyCipher f s).vault = s.vault := rfl
@[simp] theorem modifyCipher_thermal (f : CipherPart → CipherPart) (s : State) : (modifyCipher f s).thermal = s.thermal := rfl
@[simp] theorem modifyCipher_smbus (f : CipherPart → CipherPart) (s : State) : (modifyCipher f s).smbus = s.smbus := rfl
@[simp] theorem modifyCipher_jtag (f : CipherPart → CipherPart) (s : State) : (modifyCipher f s).jtag = s.jtag := rfl
@[simp] theorem modifyCipher_flash (f : CipherPart → CipherPart) (s : State) : (modifyCipher f s).flash = s.flash := rfl
@[simp] theorem modifyCipher_fw (f : CipherPart → CipherPart) (s : State) : (modifyCipher f s).fw = s.fw := rfl
@[simp] theorem modifyCipher_tines (f : CipherPart → CipherPart) (s : State) : (modifyCipher f s).tines = s.tines := rfl
@[simp] theorem modifyCipher_winnow (f : CipherPart → CipherPart) (s : State) : (modifyCipher f s).winnow = s.winnow := rfl
@[simp] theorem modifyCipher_voxca (f : CipherPart → CipherPart) (s : State) : (modifyCipher f s).voxca = s.voxca := rfl
@[simp] theorem modifyCipher_cipher (f : CipherPart → CipherPart) (s : State) : (modifyCipher f s).cipher = f s.cipher := rfl
@[simp] theorem modifyCipher_mem (f : CipherPart → CipherPart) (s : State) : (modifyCipher f s).mem = s.mem := rfl
@[simp] theorem modifyCipher_granary (f : CipherPart → CipherPart) (s : State) : (modifyCipher f s).granary = s.granary := rfl
@[simp] theorem modifyCipher_dma (f : CipherPart → CipherPart) (s : State) : (modifyCipher f s).dma = s.dma := rfl
@[simp] theorem modifyCipher_map (f : CipherPart → CipherPart) (s : State) : (modifyCipher f s).map = s.map := rfl
@[simp] theorem modifyCipher_journal (f : CipherPart → CipherPart) (s : State) : (modifyCipher f s).journal = s.journal := rfl
@[simp] theorem modifyCipher_ingest (f : CipherPart → CipherPart) (s : State) : (modifyCipher f s).ingest = s.ingest := rfl
@[simp] theorem modifyCipher_media (f : CipherPart → CipherPart) (s : State) : (modifyCipher f s).media = s.media := rfl
@[simp] theorem modifyCipher_read (f : CipherPart → CipherPart) (s : State) : (modifyCipher f s).read = s.read := rfl
@[simp] theorem modifyCipher_furrow (f : CipherPart → CipherPart) (s : State) : (modifyCipher f s).furrow = s.furrow := rfl
@[simp] theorem modifyCipher_bridges (f : CipherPart → CipherPart) (s : State) : (modifyCipher f s).bridges = s.bridges := rfl
@[simp] theorem modifyCipher_headland (f : CipherPart → CipherPart) (s : State) : (modifyCipher f s).headland = s.headland := rfl
@[simp] theorem modifyCipher_repl (f : CipherPart → CipherPart) (s : State) : (modifyCipher f s).repl = s.repl := rfl
@[simp] theorem modifyCipher_ports (f : CipherPart → CipherPart) (s : State) : (modifyCipher f s).ports = s.ports := rfl
@[simp] theorem modifyCipher_nvme (f : CipherPart → CipherPart) (s : State) : (modifyCipher f s).nvme = s.nvme := rfl
@[simp] theorem modifyCipher_sheaf (f : CipherPart → CipherPart) (s : State) : (modifyCipher f s).sheaf = s.sheaf := rfl
@[simp] theorem modifyCipher_out (f : CipherPart → CipherPart) (s : State) : (modifyCipher f s).out = s.out := rfl
@[simp] theorem modifyCipher_genCount (f : CipherPart → CipherPart) (s : State) : (modifyCipher f s).genCount = s.genCount := rfl
@[simp] theorem modifyCipher_freeCount (f : CipherPart → CipherPart) (s : State) : (modifyCipher f s).freeCount = s.freeCount := rfl
@[simp] theorem modifyCipher_pending (f : CipherPart → CipherPart) (s : State) : (modifyCipher f s).pending = s.pending := rfl

/-! ## `modifyMem` -/

@[simp] theorem modifyMem_time (f : MemPart → MemPart) (s : State) : (modifyMem f s).time = s.time := rfl
@[simp] theorem modifyMem_hsw (f : MemPart → MemPart) (s : State) : (modifyMem f s).hsw = s.hsw := rfl
@[simp] theorem modifyMem_boot (f : MemPart → MemPart) (s : State) : (modifyMem f s).boot = s.boot := rfl
@[simp] theorem modifyMem_alm (f : MemPart → MemPart) (s : State) : (modifyMem f s).alm = s.alm := rfl
@[simp] theorem modifyMem_mci (f : MemPart → MemPart) (s : State) : (modifyMem f s).mci = s.mci := rfl
@[simp] theorem modifyMem_vault (f : MemPart → MemPart) (s : State) : (modifyMem f s).vault = s.vault := rfl
@[simp] theorem modifyMem_thermal (f : MemPart → MemPart) (s : State) : (modifyMem f s).thermal = s.thermal := rfl
@[simp] theorem modifyMem_smbus (f : MemPart → MemPart) (s : State) : (modifyMem f s).smbus = s.smbus := rfl
@[simp] theorem modifyMem_jtag (f : MemPart → MemPart) (s : State) : (modifyMem f s).jtag = s.jtag := rfl
@[simp] theorem modifyMem_flash (f : MemPart → MemPart) (s : State) : (modifyMem f s).flash = s.flash := rfl
@[simp] theorem modifyMem_fw (f : MemPart → MemPart) (s : State) : (modifyMem f s).fw = s.fw := rfl
@[simp] theorem modifyMem_tines (f : MemPart → MemPart) (s : State) : (modifyMem f s).tines = s.tines := rfl
@[simp] theorem modifyMem_winnow (f : MemPart → MemPart) (s : State) : (modifyMem f s).winnow = s.winnow := rfl
@[simp] theorem modifyMem_voxca (f : MemPart → MemPart) (s : State) : (modifyMem f s).voxca = s.voxca := rfl
@[simp] theorem modifyMem_cipher (f : MemPart → MemPart) (s : State) : (modifyMem f s).cipher = s.cipher := rfl
@[simp] theorem modifyMem_mem (f : MemPart → MemPart) (s : State) : (modifyMem f s).mem = f s.mem := rfl
@[simp] theorem modifyMem_granary (f : MemPart → MemPart) (s : State) : (modifyMem f s).granary = s.granary := rfl
@[simp] theorem modifyMem_dma (f : MemPart → MemPart) (s : State) : (modifyMem f s).dma = s.dma := rfl
@[simp] theorem modifyMem_map (f : MemPart → MemPart) (s : State) : (modifyMem f s).map = s.map := rfl
@[simp] theorem modifyMem_journal (f : MemPart → MemPart) (s : State) : (modifyMem f s).journal = s.journal := rfl
@[simp] theorem modifyMem_ingest (f : MemPart → MemPart) (s : State) : (modifyMem f s).ingest = s.ingest := rfl
@[simp] theorem modifyMem_media (f : MemPart → MemPart) (s : State) : (modifyMem f s).media = s.media := rfl
@[simp] theorem modifyMem_read (f : MemPart → MemPart) (s : State) : (modifyMem f s).read = s.read := rfl
@[simp] theorem modifyMem_furrow (f : MemPart → MemPart) (s : State) : (modifyMem f s).furrow = s.furrow := rfl
@[simp] theorem modifyMem_bridges (f : MemPart → MemPart) (s : State) : (modifyMem f s).bridges = s.bridges := rfl
@[simp] theorem modifyMem_headland (f : MemPart → MemPart) (s : State) : (modifyMem f s).headland = s.headland := rfl
@[simp] theorem modifyMem_repl (f : MemPart → MemPart) (s : State) : (modifyMem f s).repl = s.repl := rfl
@[simp] theorem modifyMem_ports (f : MemPart → MemPart) (s : State) : (modifyMem f s).ports = s.ports := rfl
@[simp] theorem modifyMem_nvme (f : MemPart → MemPart) (s : State) : (modifyMem f s).nvme = s.nvme := rfl
@[simp] theorem modifyMem_sheaf (f : MemPart → MemPart) (s : State) : (modifyMem f s).sheaf = s.sheaf := rfl
@[simp] theorem modifyMem_out (f : MemPart → MemPart) (s : State) : (modifyMem f s).out = s.out := rfl
@[simp] theorem modifyMem_genCount (f : MemPart → MemPart) (s : State) : (modifyMem f s).genCount = s.genCount := rfl
@[simp] theorem modifyMem_freeCount (f : MemPart → MemPart) (s : State) : (modifyMem f s).freeCount = s.freeCount := rfl
@[simp] theorem modifyMem_pending (f : MemPart → MemPart) (s : State) : (modifyMem f s).pending = s.pending := rfl

/-! ## `modifyDma` -/

@[simp] theorem modifyDma_time (c : Nat) (f : DmaChannel → DmaChannel) (s : State) : (modifyDma c f s).time = s.time := rfl
@[simp] theorem modifyDma_hsw (c : Nat) (f : DmaChannel → DmaChannel) (s : State) : (modifyDma c f s).hsw = s.hsw := rfl
@[simp] theorem modifyDma_boot (c : Nat) (f : DmaChannel → DmaChannel) (s : State) : (modifyDma c f s).boot = s.boot := rfl
@[simp] theorem modifyDma_alm (c : Nat) (f : DmaChannel → DmaChannel) (s : State) : (modifyDma c f s).alm = s.alm := rfl
@[simp] theorem modifyDma_mci (c : Nat) (f : DmaChannel → DmaChannel) (s : State) : (modifyDma c f s).mci = s.mci := rfl
@[simp] theorem modifyDma_vault (c : Nat) (f : DmaChannel → DmaChannel) (s : State) : (modifyDma c f s).vault = s.vault := rfl
@[simp] theorem modifyDma_thermal (c : Nat) (f : DmaChannel → DmaChannel) (s : State) : (modifyDma c f s).thermal = s.thermal := rfl
@[simp] theorem modifyDma_smbus (c : Nat) (f : DmaChannel → DmaChannel) (s : State) : (modifyDma c f s).smbus = s.smbus := rfl
@[simp] theorem modifyDma_jtag (c : Nat) (f : DmaChannel → DmaChannel) (s : State) : (modifyDma c f s).jtag = s.jtag := rfl
@[simp] theorem modifyDma_flash (c : Nat) (f : DmaChannel → DmaChannel) (s : State) : (modifyDma c f s).flash = s.flash := rfl
@[simp] theorem modifyDma_fw (c : Nat) (f : DmaChannel → DmaChannel) (s : State) : (modifyDma c f s).fw = s.fw := rfl
@[simp] theorem modifyDma_tines (c : Nat) (f : DmaChannel → DmaChannel) (s : State) : (modifyDma c f s).tines = s.tines := rfl
@[simp] theorem modifyDma_winnow (c : Nat) (f : DmaChannel → DmaChannel) (s : State) : (modifyDma c f s).winnow = s.winnow := rfl
@[simp] theorem modifyDma_voxca (c : Nat) (f : DmaChannel → DmaChannel) (s : State) : (modifyDma c f s).voxca = s.voxca := rfl
@[simp] theorem modifyDma_cipher (c : Nat) (f : DmaChannel → DmaChannel) (s : State) : (modifyDma c f s).cipher = s.cipher := rfl
@[simp] theorem modifyDma_mem (c : Nat) (f : DmaChannel → DmaChannel) (s : State) : (modifyDma c f s).mem = s.mem := rfl
@[simp] theorem modifyDma_granary (c : Nat) (f : DmaChannel → DmaChannel) (s : State) : (modifyDma c f s).granary = s.granary := rfl
@[simp] theorem modifyDma_dma (c : Nat) (f : DmaChannel → DmaChannel) (s : State) : (modifyDma c f s).dma = modifyNth f c s.dma := rfl
@[simp] theorem modifyDma_map (c : Nat) (f : DmaChannel → DmaChannel) (s : State) : (modifyDma c f s).map = s.map := rfl
@[simp] theorem modifyDma_journal (c : Nat) (f : DmaChannel → DmaChannel) (s : State) : (modifyDma c f s).journal = s.journal := rfl
@[simp] theorem modifyDma_ingest (c : Nat) (f : DmaChannel → DmaChannel) (s : State) : (modifyDma c f s).ingest = s.ingest := rfl
@[simp] theorem modifyDma_media (c : Nat) (f : DmaChannel → DmaChannel) (s : State) : (modifyDma c f s).media = s.media := rfl
@[simp] theorem modifyDma_read (c : Nat) (f : DmaChannel → DmaChannel) (s : State) : (modifyDma c f s).read = s.read := rfl
@[simp] theorem modifyDma_furrow (c : Nat) (f : DmaChannel → DmaChannel) (s : State) : (modifyDma c f s).furrow = s.furrow := rfl
@[simp] theorem modifyDma_bridges (c : Nat) (f : DmaChannel → DmaChannel) (s : State) : (modifyDma c f s).bridges = s.bridges := rfl
@[simp] theorem modifyDma_headland (c : Nat) (f : DmaChannel → DmaChannel) (s : State) : (modifyDma c f s).headland = s.headland := rfl
@[simp] theorem modifyDma_repl (c : Nat) (f : DmaChannel → DmaChannel) (s : State) : (modifyDma c f s).repl = s.repl := rfl
@[simp] theorem modifyDma_ports (c : Nat) (f : DmaChannel → DmaChannel) (s : State) : (modifyDma c f s).ports = s.ports := rfl
@[simp] theorem modifyDma_nvme (c : Nat) (f : DmaChannel → DmaChannel) (s : State) : (modifyDma c f s).nvme = s.nvme := rfl
@[simp] theorem modifyDma_sheaf (c : Nat) (f : DmaChannel → DmaChannel) (s : State) : (modifyDma c f s).sheaf = s.sheaf := rfl
@[simp] theorem modifyDma_out (c : Nat) (f : DmaChannel → DmaChannel) (s : State) : (modifyDma c f s).out = s.out := rfl
@[simp] theorem modifyDma_genCount (c : Nat) (f : DmaChannel → DmaChannel) (s : State) : (modifyDma c f s).genCount = s.genCount := rfl
@[simp] theorem modifyDma_freeCount (c : Nat) (f : DmaChannel → DmaChannel) (s : State) : (modifyDma c f s).freeCount = s.freeCount := rfl
@[simp] theorem modifyDma_pending (c : Nat) (f : DmaChannel → DmaChannel) (s : State) : (modifyDma c f s).pending = s.pending := rfl

/-! ## `modifyMap` -/

@[simp] theorem modifyMap_time (f : MapTables → MapTables) (s : State) : (modifyMap f s).time = s.time := rfl
@[simp] theorem modifyMap_hsw (f : MapTables → MapTables) (s : State) : (modifyMap f s).hsw = s.hsw := rfl
@[simp] theorem modifyMap_boot (f : MapTables → MapTables) (s : State) : (modifyMap f s).boot = s.boot := rfl
@[simp] theorem modifyMap_alm (f : MapTables → MapTables) (s : State) : (modifyMap f s).alm = s.alm := rfl
@[simp] theorem modifyMap_mci (f : MapTables → MapTables) (s : State) : (modifyMap f s).mci = s.mci := rfl
@[simp] theorem modifyMap_vault (f : MapTables → MapTables) (s : State) : (modifyMap f s).vault = s.vault := rfl
@[simp] theorem modifyMap_thermal (f : MapTables → MapTables) (s : State) : (modifyMap f s).thermal = s.thermal := rfl
@[simp] theorem modifyMap_smbus (f : MapTables → MapTables) (s : State) : (modifyMap f s).smbus = s.smbus := rfl
@[simp] theorem modifyMap_jtag (f : MapTables → MapTables) (s : State) : (modifyMap f s).jtag = s.jtag := rfl
@[simp] theorem modifyMap_flash (f : MapTables → MapTables) (s : State) : (modifyMap f s).flash = s.flash := rfl
@[simp] theorem modifyMap_fw (f : MapTables → MapTables) (s : State) : (modifyMap f s).fw = s.fw := rfl
@[simp] theorem modifyMap_tines (f : MapTables → MapTables) (s : State) : (modifyMap f s).tines = s.tines := rfl
@[simp] theorem modifyMap_winnow (f : MapTables → MapTables) (s : State) : (modifyMap f s).winnow = s.winnow := rfl
@[simp] theorem modifyMap_voxca (f : MapTables → MapTables) (s : State) : (modifyMap f s).voxca = s.voxca := rfl
@[simp] theorem modifyMap_cipher (f : MapTables → MapTables) (s : State) : (modifyMap f s).cipher = s.cipher := rfl
@[simp] theorem modifyMap_mem (f : MapTables → MapTables) (s : State) : (modifyMap f s).mem = s.mem := rfl
@[simp] theorem modifyMap_granary (f : MapTables → MapTables) (s : State) : (modifyMap f s).granary = s.granary := rfl
@[simp] theorem modifyMap_dma (f : MapTables → MapTables) (s : State) : (modifyMap f s).dma = s.dma := rfl
@[simp] theorem modifyMap_map (f : MapTables → MapTables) (s : State) : (modifyMap f s).map = f s.map := rfl
@[simp] theorem modifyMap_journal (f : MapTables → MapTables) (s : State) : (modifyMap f s).journal = s.journal := rfl
@[simp] theorem modifyMap_ingest (f : MapTables → MapTables) (s : State) : (modifyMap f s).ingest = s.ingest := rfl
@[simp] theorem modifyMap_media (f : MapTables → MapTables) (s : State) : (modifyMap f s).media = s.media := rfl
@[simp] theorem modifyMap_read (f : MapTables → MapTables) (s : State) : (modifyMap f s).read = s.read := rfl
@[simp] theorem modifyMap_furrow (f : MapTables → MapTables) (s : State) : (modifyMap f s).furrow = s.furrow := rfl
@[simp] theorem modifyMap_bridges (f : MapTables → MapTables) (s : State) : (modifyMap f s).bridges = s.bridges := rfl
@[simp] theorem modifyMap_headland (f : MapTables → MapTables) (s : State) : (modifyMap f s).headland = s.headland := rfl
@[simp] theorem modifyMap_repl (f : MapTables → MapTables) (s : State) : (modifyMap f s).repl = s.repl := rfl
@[simp] theorem modifyMap_ports (f : MapTables → MapTables) (s : State) : (modifyMap f s).ports = s.ports := rfl
@[simp] theorem modifyMap_nvme (f : MapTables → MapTables) (s : State) : (modifyMap f s).nvme = s.nvme := rfl
@[simp] theorem modifyMap_sheaf (f : MapTables → MapTables) (s : State) : (modifyMap f s).sheaf = s.sheaf := rfl
@[simp] theorem modifyMap_out (f : MapTables → MapTables) (s : State) : (modifyMap f s).out = s.out := rfl
@[simp] theorem modifyMap_genCount (f : MapTables → MapTables) (s : State) : (modifyMap f s).genCount = s.genCount := rfl
@[simp] theorem modifyMap_freeCount (f : MapTables → MapTables) (s : State) : (modifyMap f s).freeCount = s.freeCount := rfl
@[simp] theorem modifyMap_pending (f : MapTables → MapTables) (s : State) : (modifyMap f s).pending = s.pending := rfl

/-! ## `modifyMedia` -/

@[simp] theorem modifyMedia_time (f : MediaPart → MediaPart) (s : State) : (modifyMedia f s).time = s.time := rfl
@[simp] theorem modifyMedia_hsw (f : MediaPart → MediaPart) (s : State) : (modifyMedia f s).hsw = s.hsw := rfl
@[simp] theorem modifyMedia_boot (f : MediaPart → MediaPart) (s : State) : (modifyMedia f s).boot = s.boot := rfl
@[simp] theorem modifyMedia_alm (f : MediaPart → MediaPart) (s : State) : (modifyMedia f s).alm = s.alm := rfl
@[simp] theorem modifyMedia_mci (f : MediaPart → MediaPart) (s : State) : (modifyMedia f s).mci = s.mci := rfl
@[simp] theorem modifyMedia_vault (f : MediaPart → MediaPart) (s : State) : (modifyMedia f s).vault = s.vault := rfl
@[simp] theorem modifyMedia_thermal (f : MediaPart → MediaPart) (s : State) : (modifyMedia f s).thermal = s.thermal := rfl
@[simp] theorem modifyMedia_smbus (f : MediaPart → MediaPart) (s : State) : (modifyMedia f s).smbus = s.smbus := rfl
@[simp] theorem modifyMedia_jtag (f : MediaPart → MediaPart) (s : State) : (modifyMedia f s).jtag = s.jtag := rfl
@[simp] theorem modifyMedia_flash (f : MediaPart → MediaPart) (s : State) : (modifyMedia f s).flash = s.flash := rfl
@[simp] theorem modifyMedia_fw (f : MediaPart → MediaPart) (s : State) : (modifyMedia f s).fw = s.fw := rfl
@[simp] theorem modifyMedia_tines (f : MediaPart → MediaPart) (s : State) : (modifyMedia f s).tines = s.tines := rfl
@[simp] theorem modifyMedia_winnow (f : MediaPart → MediaPart) (s : State) : (modifyMedia f s).winnow = s.winnow := rfl
@[simp] theorem modifyMedia_voxca (f : MediaPart → MediaPart) (s : State) : (modifyMedia f s).voxca = s.voxca := rfl
@[simp] theorem modifyMedia_cipher (f : MediaPart → MediaPart) (s : State) : (modifyMedia f s).cipher = s.cipher := rfl
@[simp] theorem modifyMedia_mem (f : MediaPart → MediaPart) (s : State) : (modifyMedia f s).mem = s.mem := rfl
@[simp] theorem modifyMedia_granary (f : MediaPart → MediaPart) (s : State) : (modifyMedia f s).granary = s.granary := rfl
@[simp] theorem modifyMedia_dma (f : MediaPart → MediaPart) (s : State) : (modifyMedia f s).dma = s.dma := rfl
@[simp] theorem modifyMedia_map (f : MediaPart → MediaPart) (s : State) : (modifyMedia f s).map = s.map := rfl
@[simp] theorem modifyMedia_journal (f : MediaPart → MediaPart) (s : State) : (modifyMedia f s).journal = s.journal := rfl
@[simp] theorem modifyMedia_ingest (f : MediaPart → MediaPart) (s : State) : (modifyMedia f s).ingest = s.ingest := rfl
@[simp] theorem modifyMedia_media (f : MediaPart → MediaPart) (s : State) : (modifyMedia f s).media = f s.media := rfl
@[simp] theorem modifyMedia_read (f : MediaPart → MediaPart) (s : State) : (modifyMedia f s).read = s.read := rfl
@[simp] theorem modifyMedia_furrow (f : MediaPart → MediaPart) (s : State) : (modifyMedia f s).furrow = s.furrow := rfl
@[simp] theorem modifyMedia_bridges (f : MediaPart → MediaPart) (s : State) : (modifyMedia f s).bridges = s.bridges := rfl
@[simp] theorem modifyMedia_headland (f : MediaPart → MediaPart) (s : State) : (modifyMedia f s).headland = s.headland := rfl
@[simp] theorem modifyMedia_repl (f : MediaPart → MediaPart) (s : State) : (modifyMedia f s).repl = s.repl := rfl
@[simp] theorem modifyMedia_ports (f : MediaPart → MediaPart) (s : State) : (modifyMedia f s).ports = s.ports := rfl
@[simp] theorem modifyMedia_nvme (f : MediaPart → MediaPart) (s : State) : (modifyMedia f s).nvme = s.nvme := rfl
@[simp] theorem modifyMedia_sheaf (f : MediaPart → MediaPart) (s : State) : (modifyMedia f s).sheaf = s.sheaf := rfl
@[simp] theorem modifyMedia_out (f : MediaPart → MediaPart) (s : State) : (modifyMedia f s).out = s.out := rfl
@[simp] theorem modifyMedia_genCount (f : MediaPart → MediaPart) (s : State) : (modifyMedia f s).genCount = s.genCount := rfl
@[simp] theorem modifyMedia_freeCount (f : MediaPart → MediaPart) (s : State) : (modifyMedia f s).freeCount = s.freeCount := rfl
@[simp] theorem modifyMedia_pending (f : MediaPart → MediaPart) (s : State) : (modifyMedia f s).pending = s.pending := rfl

/-! ## `modifyFurrow` -/

@[simp] theorem modifyFurrow_time (b : Nat) (f : FurrowLink → FurrowLink) (s : State) : (modifyFurrow b f s).time = s.time := rfl
@[simp] theorem modifyFurrow_hsw (b : Nat) (f : FurrowLink → FurrowLink) (s : State) : (modifyFurrow b f s).hsw = s.hsw := rfl
@[simp] theorem modifyFurrow_boot (b : Nat) (f : FurrowLink → FurrowLink) (s : State) : (modifyFurrow b f s).boot = s.boot := rfl
@[simp] theorem modifyFurrow_alm (b : Nat) (f : FurrowLink → FurrowLink) (s : State) : (modifyFurrow b f s).alm = s.alm := rfl
@[simp] theorem modifyFurrow_mci (b : Nat) (f : FurrowLink → FurrowLink) (s : State) : (modifyFurrow b f s).mci = s.mci := rfl
@[simp] theorem modifyFurrow_vault (b : Nat) (f : FurrowLink → FurrowLink) (s : State) : (modifyFurrow b f s).vault = s.vault := rfl
@[simp] theorem modifyFurrow_thermal (b : Nat) (f : FurrowLink → FurrowLink) (s : State) : (modifyFurrow b f s).thermal = s.thermal := rfl
@[simp] theorem modifyFurrow_smbus (b : Nat) (f : FurrowLink → FurrowLink) (s : State) : (modifyFurrow b f s).smbus = s.smbus := rfl
@[simp] theorem modifyFurrow_jtag (b : Nat) (f : FurrowLink → FurrowLink) (s : State) : (modifyFurrow b f s).jtag = s.jtag := rfl
@[simp] theorem modifyFurrow_flash (b : Nat) (f : FurrowLink → FurrowLink) (s : State) : (modifyFurrow b f s).flash = s.flash := rfl
@[simp] theorem modifyFurrow_fw (b : Nat) (f : FurrowLink → FurrowLink) (s : State) : (modifyFurrow b f s).fw = s.fw := rfl
@[simp] theorem modifyFurrow_tines (b : Nat) (f : FurrowLink → FurrowLink) (s : State) : (modifyFurrow b f s).tines = s.tines := rfl
@[simp] theorem modifyFurrow_winnow (b : Nat) (f : FurrowLink → FurrowLink) (s : State) : (modifyFurrow b f s).winnow = s.winnow := rfl
@[simp] theorem modifyFurrow_voxca (b : Nat) (f : FurrowLink → FurrowLink) (s : State) : (modifyFurrow b f s).voxca = s.voxca := rfl
@[simp] theorem modifyFurrow_cipher (b : Nat) (f : FurrowLink → FurrowLink) (s : State) : (modifyFurrow b f s).cipher = s.cipher := rfl
@[simp] theorem modifyFurrow_mem (b : Nat) (f : FurrowLink → FurrowLink) (s : State) : (modifyFurrow b f s).mem = s.mem := rfl
@[simp] theorem modifyFurrow_granary (b : Nat) (f : FurrowLink → FurrowLink) (s : State) : (modifyFurrow b f s).granary = s.granary := rfl
@[simp] theorem modifyFurrow_dma (b : Nat) (f : FurrowLink → FurrowLink) (s : State) : (modifyFurrow b f s).dma = s.dma := rfl
@[simp] theorem modifyFurrow_map (b : Nat) (f : FurrowLink → FurrowLink) (s : State) : (modifyFurrow b f s).map = s.map := rfl
@[simp] theorem modifyFurrow_journal (b : Nat) (f : FurrowLink → FurrowLink) (s : State) : (modifyFurrow b f s).journal = s.journal := rfl
@[simp] theorem modifyFurrow_ingest (b : Nat) (f : FurrowLink → FurrowLink) (s : State) : (modifyFurrow b f s).ingest = s.ingest := rfl
@[simp] theorem modifyFurrow_media (b : Nat) (f : FurrowLink → FurrowLink) (s : State) : (modifyFurrow b f s).media = s.media := rfl
@[simp] theorem modifyFurrow_read (b : Nat) (f : FurrowLink → FurrowLink) (s : State) : (modifyFurrow b f s).read = s.read := rfl
@[simp] theorem modifyFurrow_furrow (b : Nat) (f : FurrowLink → FurrowLink) (s : State) : (modifyFurrow b f s).furrow = modifyNth f b s.furrow := rfl
@[simp] theorem modifyFurrow_bridges (b : Nat) (f : FurrowLink → FurrowLink) (s : State) : (modifyFurrow b f s).bridges = s.bridges := rfl
@[simp] theorem modifyFurrow_headland (b : Nat) (f : FurrowLink → FurrowLink) (s : State) : (modifyFurrow b f s).headland = s.headland := rfl
@[simp] theorem modifyFurrow_repl (b : Nat) (f : FurrowLink → FurrowLink) (s : State) : (modifyFurrow b f s).repl = s.repl := rfl
@[simp] theorem modifyFurrow_ports (b : Nat) (f : FurrowLink → FurrowLink) (s : State) : (modifyFurrow b f s).ports = s.ports := rfl
@[simp] theorem modifyFurrow_nvme (b : Nat) (f : FurrowLink → FurrowLink) (s : State) : (modifyFurrow b f s).nvme = s.nvme := rfl
@[simp] theorem modifyFurrow_sheaf (b : Nat) (f : FurrowLink → FurrowLink) (s : State) : (modifyFurrow b f s).sheaf = s.sheaf := rfl
@[simp] theorem modifyFurrow_out (b : Nat) (f : FurrowLink → FurrowLink) (s : State) : (modifyFurrow b f s).out = s.out := rfl
@[simp] theorem modifyFurrow_genCount (b : Nat) (f : FurrowLink → FurrowLink) (s : State) : (modifyFurrow b f s).genCount = s.genCount := rfl
@[simp] theorem modifyFurrow_freeCount (b : Nat) (f : FurrowLink → FurrowLink) (s : State) : (modifyFurrow b f s).freeCount = s.freeCount := rfl
@[simp] theorem modifyFurrow_pending (b : Nat) (f : FurrowLink → FurrowLink) (s : State) : (modifyFurrow b f s).pending = s.pending := rfl

/-! ## `modifyBridge` -/

@[simp] theorem modifyBridge_time (b : Nat) (f : Bridge → Bridge) (s : State) : (modifyBridge b f s).time = s.time := rfl
@[simp] theorem modifyBridge_hsw (b : Nat) (f : Bridge → Bridge) (s : State) : (modifyBridge b f s).hsw = s.hsw := rfl
@[simp] theorem modifyBridge_boot (b : Nat) (f : Bridge → Bridge) (s : State) : (modifyBridge b f s).boot = s.boot := rfl
@[simp] theorem modifyBridge_alm (b : Nat) (f : Bridge → Bridge) (s : State) : (modifyBridge b f s).alm = s.alm := rfl
@[simp] theorem modifyBridge_mci (b : Nat) (f : Bridge → Bridge) (s : State) : (modifyBridge b f s).mci = s.mci := rfl
@[simp] theorem modifyBridge_vault (b : Nat) (f : Bridge → Bridge) (s : State) : (modifyBridge b f s).vault = s.vault := rfl
@[simp] theorem modifyBridge_thermal (b : Nat) (f : Bridge → Bridge) (s : State) : (modifyBridge b f s).thermal = s.thermal := rfl
@[simp] theorem modifyBridge_smbus (b : Nat) (f : Bridge → Bridge) (s : State) : (modifyBridge b f s).smbus = s.smbus := rfl
@[simp] theorem modifyBridge_jtag (b : Nat) (f : Bridge → Bridge) (s : State) : (modifyBridge b f s).jtag = s.jtag := rfl
@[simp] theorem modifyBridge_flash (b : Nat) (f : Bridge → Bridge) (s : State) : (modifyBridge b f s).flash = s.flash := rfl
@[simp] theorem modifyBridge_fw (b : Nat) (f : Bridge → Bridge) (s : State) : (modifyBridge b f s).fw = s.fw := rfl
@[simp] theorem modifyBridge_tines (b : Nat) (f : Bridge → Bridge) (s : State) : (modifyBridge b f s).tines = s.tines := rfl
@[simp] theorem modifyBridge_winnow (b : Nat) (f : Bridge → Bridge) (s : State) : (modifyBridge b f s).winnow = s.winnow := rfl
@[simp] theorem modifyBridge_voxca (b : Nat) (f : Bridge → Bridge) (s : State) : (modifyBridge b f s).voxca = s.voxca := rfl
@[simp] theorem modifyBridge_cipher (b : Nat) (f : Bridge → Bridge) (s : State) : (modifyBridge b f s).cipher = s.cipher := rfl
@[simp] theorem modifyBridge_mem (b : Nat) (f : Bridge → Bridge) (s : State) : (modifyBridge b f s).mem = s.mem := rfl
@[simp] theorem modifyBridge_granary (b : Nat) (f : Bridge → Bridge) (s : State) : (modifyBridge b f s).granary = s.granary := rfl
@[simp] theorem modifyBridge_dma (b : Nat) (f : Bridge → Bridge) (s : State) : (modifyBridge b f s).dma = s.dma := rfl
@[simp] theorem modifyBridge_map (b : Nat) (f : Bridge → Bridge) (s : State) : (modifyBridge b f s).map = s.map := rfl
@[simp] theorem modifyBridge_journal (b : Nat) (f : Bridge → Bridge) (s : State) : (modifyBridge b f s).journal = s.journal := rfl
@[simp] theorem modifyBridge_ingest (b : Nat) (f : Bridge → Bridge) (s : State) : (modifyBridge b f s).ingest = s.ingest := rfl
@[simp] theorem modifyBridge_media (b : Nat) (f : Bridge → Bridge) (s : State) : (modifyBridge b f s).media = s.media := rfl
@[simp] theorem modifyBridge_read (b : Nat) (f : Bridge → Bridge) (s : State) : (modifyBridge b f s).read = s.read := rfl
@[simp] theorem modifyBridge_furrow (b : Nat) (f : Bridge → Bridge) (s : State) : (modifyBridge b f s).furrow = s.furrow := rfl
@[simp] theorem modifyBridge_bridges (b : Nat) (f : Bridge → Bridge) (s : State) : (modifyBridge b f s).bridges = modifyNth f b s.bridges := rfl
@[simp] theorem modifyBridge_headland (b : Nat) (f : Bridge → Bridge) (s : State) : (modifyBridge b f s).headland = s.headland := rfl
@[simp] theorem modifyBridge_repl (b : Nat) (f : Bridge → Bridge) (s : State) : (modifyBridge b f s).repl = s.repl := rfl
@[simp] theorem modifyBridge_ports (b : Nat) (f : Bridge → Bridge) (s : State) : (modifyBridge b f s).ports = s.ports := rfl
@[simp] theorem modifyBridge_nvme (b : Nat) (f : Bridge → Bridge) (s : State) : (modifyBridge b f s).nvme = s.nvme := rfl
@[simp] theorem modifyBridge_sheaf (b : Nat) (f : Bridge → Bridge) (s : State) : (modifyBridge b f s).sheaf = s.sheaf := rfl
@[simp] theorem modifyBridge_out (b : Nat) (f : Bridge → Bridge) (s : State) : (modifyBridge b f s).out = s.out := rfl
@[simp] theorem modifyBridge_genCount (b : Nat) (f : Bridge → Bridge) (s : State) : (modifyBridge b f s).genCount = s.genCount := rfl
@[simp] theorem modifyBridge_freeCount (b : Nat) (f : Bridge → Bridge) (s : State) : (modifyBridge b f s).freeCount = s.freeCount := rfl
@[simp] theorem modifyBridge_pending (b : Nat) (f : Bridge → Bridge) (s : State) : (modifyBridge b f s).pending = s.pending := rfl

/-! ## `modifyRepl` -/

@[simp] theorem modifyRepl_time (f : ReplPart → ReplPart) (s : State) : (modifyRepl f s).time = s.time := rfl
@[simp] theorem modifyRepl_hsw (f : ReplPart → ReplPart) (s : State) : (modifyRepl f s).hsw = s.hsw := rfl
@[simp] theorem modifyRepl_boot (f : ReplPart → ReplPart) (s : State) : (modifyRepl f s).boot = s.boot := rfl
@[simp] theorem modifyRepl_alm (f : ReplPart → ReplPart) (s : State) : (modifyRepl f s).alm = s.alm := rfl
@[simp] theorem modifyRepl_mci (f : ReplPart → ReplPart) (s : State) : (modifyRepl f s).mci = s.mci := rfl
@[simp] theorem modifyRepl_vault (f : ReplPart → ReplPart) (s : State) : (modifyRepl f s).vault = s.vault := rfl
@[simp] theorem modifyRepl_thermal (f : ReplPart → ReplPart) (s : State) : (modifyRepl f s).thermal = s.thermal := rfl
@[simp] theorem modifyRepl_smbus (f : ReplPart → ReplPart) (s : State) : (modifyRepl f s).smbus = s.smbus := rfl
@[simp] theorem modifyRepl_jtag (f : ReplPart → ReplPart) (s : State) : (modifyRepl f s).jtag = s.jtag := rfl
@[simp] theorem modifyRepl_flash (f : ReplPart → ReplPart) (s : State) : (modifyRepl f s).flash = s.flash := rfl
@[simp] theorem modifyRepl_fw (f : ReplPart → ReplPart) (s : State) : (modifyRepl f s).fw = s.fw := rfl
@[simp] theorem modifyRepl_tines (f : ReplPart → ReplPart) (s : State) : (modifyRepl f s).tines = s.tines := rfl
@[simp] theorem modifyRepl_winnow (f : ReplPart → ReplPart) (s : State) : (modifyRepl f s).winnow = s.winnow := rfl
@[simp] theorem modifyRepl_voxca (f : ReplPart → ReplPart) (s : State) : (modifyRepl f s).voxca = s.voxca := rfl
@[simp] theorem modifyRepl_cipher (f : ReplPart → ReplPart) (s : State) : (modifyRepl f s).cipher = s.cipher := rfl
@[simp] theorem modifyRepl_mem (f : ReplPart → ReplPart) (s : State) : (modifyRepl f s).mem = s.mem := rfl
@[simp] theorem modifyRepl_granary (f : ReplPart → ReplPart) (s : State) : (modifyRepl f s).granary = s.granary := rfl
@[simp] theorem modifyRepl_dma (f : ReplPart → ReplPart) (s : State) : (modifyRepl f s).dma = s.dma := rfl
@[simp] theorem modifyRepl_map (f : ReplPart → ReplPart) (s : State) : (modifyRepl f s).map = s.map := rfl
@[simp] theorem modifyRepl_journal (f : ReplPart → ReplPart) (s : State) : (modifyRepl f s).journal = s.journal := rfl
@[simp] theorem modifyRepl_ingest (f : ReplPart → ReplPart) (s : State) : (modifyRepl f s).ingest = s.ingest := rfl
@[simp] theorem modifyRepl_media (f : ReplPart → ReplPart) (s : State) : (modifyRepl f s).media = s.media := rfl
@[simp] theorem modifyRepl_read (f : ReplPart → ReplPart) (s : State) : (modifyRepl f s).read = s.read := rfl
@[simp] theorem modifyRepl_furrow (f : ReplPart → ReplPart) (s : State) : (modifyRepl f s).furrow = s.furrow := rfl
@[simp] theorem modifyRepl_bridges (f : ReplPart → ReplPart) (s : State) : (modifyRepl f s).bridges = s.bridges := rfl
@[simp] theorem modifyRepl_headland (f : ReplPart → ReplPart) (s : State) : (modifyRepl f s).headland = s.headland := rfl
@[simp] theorem modifyRepl_repl (f : ReplPart → ReplPart) (s : State) : (modifyRepl f s).repl = f s.repl := rfl
@[simp] theorem modifyRepl_ports (f : ReplPart → ReplPart) (s : State) : (modifyRepl f s).ports = s.ports := rfl
@[simp] theorem modifyRepl_nvme (f : ReplPart → ReplPart) (s : State) : (modifyRepl f s).nvme = s.nvme := rfl
@[simp] theorem modifyRepl_sheaf (f : ReplPart → ReplPart) (s : State) : (modifyRepl f s).sheaf = s.sheaf := rfl
@[simp] theorem modifyRepl_out (f : ReplPart → ReplPart) (s : State) : (modifyRepl f s).out = s.out := rfl
@[simp] theorem modifyRepl_genCount (f : ReplPart → ReplPart) (s : State) : (modifyRepl f s).genCount = s.genCount := rfl
@[simp] theorem modifyRepl_freeCount (f : ReplPart → ReplPart) (s : State) : (modifyRepl f s).freeCount = s.freeCount := rfl
@[simp] theorem modifyRepl_pending (f : ReplPart → ReplPart) (s : State) : (modifyRepl f s).pending = s.pending := rfl

/-! ## `modifyPorts` -/

@[simp] theorem modifyPorts_time (f : PortsPart → PortsPart) (s : State) : (modifyPorts f s).time = s.time := rfl
@[simp] theorem modifyPorts_hsw (f : PortsPart → PortsPart) (s : State) : (modifyPorts f s).hsw = s.hsw := rfl
@[simp] theorem modifyPorts_boot (f : PortsPart → PortsPart) (s : State) : (modifyPorts f s).boot = s.boot := rfl
@[simp] theorem modifyPorts_alm (f : PortsPart → PortsPart) (s : State) : (modifyPorts f s).alm = s.alm := rfl
@[simp] theorem modifyPorts_mci (f : PortsPart → PortsPart) (s : State) : (modifyPorts f s).mci = s.mci := rfl
@[simp] theorem modifyPorts_vault (f : PortsPart → PortsPart) (s : State) : (modifyPorts f s).vault = s.vault := rfl
@[simp] theorem modifyPorts_thermal (f : PortsPart → PortsPart) (s : State) : (modifyPorts f s).thermal = s.thermal := rfl
@[simp] theorem modifyPorts_smbus (f : PortsPart → PortsPart) (s : State) : (modifyPorts f s).smbus = s.smbus := rfl
@[simp] theorem modifyPorts_jtag (f : PortsPart → PortsPart) (s : State) : (modifyPorts f s).jtag = s.jtag := rfl
@[simp] theorem modifyPorts_flash (f : PortsPart → PortsPart) (s : State) : (modifyPorts f s).flash = s.flash := rfl
@[simp] theorem modifyPorts_fw (f : PortsPart → PortsPart) (s : State) : (modifyPorts f s).fw = s.fw := rfl
@[simp] theorem modifyPorts_tines (f : PortsPart → PortsPart) (s : State) : (modifyPorts f s).tines = s.tines := rfl
@[simp] theorem modifyPorts_winnow (f : PortsPart → PortsPart) (s : State) : (modifyPorts f s).winnow = s.winnow := rfl
@[simp] theorem modifyPorts_voxca (f : PortsPart → PortsPart) (s : State) : (modifyPorts f s).voxca = s.voxca := rfl
@[simp] theorem modifyPorts_cipher (f : PortsPart → PortsPart) (s : State) : (modifyPorts f s).cipher = s.cipher := rfl
@[simp] theorem modifyPorts_mem (f : PortsPart → PortsPart) (s : State) : (modifyPorts f s).mem = s.mem := rfl
@[simp] theorem modifyPorts_granary (f : PortsPart → PortsPart) (s : State) : (modifyPorts f s).granary = s.granary := rfl
@[simp] theorem modifyPorts_dma (f : PortsPart → PortsPart) (s : State) : (modifyPorts f s).dma = s.dma := rfl
@[simp] theorem modifyPorts_map (f : PortsPart → PortsPart) (s : State) : (modifyPorts f s).map = s.map := rfl
@[simp] theorem modifyPorts_journal (f : PortsPart → PortsPart) (s : State) : (modifyPorts f s).journal = s.journal := rfl
@[simp] theorem modifyPorts_ingest (f : PortsPart → PortsPart) (s : State) : (modifyPorts f s).ingest = s.ingest := rfl
@[simp] theorem modifyPorts_media (f : PortsPart → PortsPart) (s : State) : (modifyPorts f s).media = s.media := rfl
@[simp] theorem modifyPorts_read (f : PortsPart → PortsPart) (s : State) : (modifyPorts f s).read = s.read := rfl
@[simp] theorem modifyPorts_furrow (f : PortsPart → PortsPart) (s : State) : (modifyPorts f s).furrow = s.furrow := rfl
@[simp] theorem modifyPorts_bridges (f : PortsPart → PortsPart) (s : State) : (modifyPorts f s).bridges = s.bridges := rfl
@[simp] theorem modifyPorts_headland (f : PortsPart → PortsPart) (s : State) : (modifyPorts f s).headland = s.headland := rfl
@[simp] theorem modifyPorts_repl (f : PortsPart → PortsPart) (s : State) : (modifyPorts f s).repl = s.repl := rfl
@[simp] theorem modifyPorts_ports (f : PortsPart → PortsPart) (s : State) : (modifyPorts f s).ports = f s.ports := rfl
@[simp] theorem modifyPorts_nvme (f : PortsPart → PortsPart) (s : State) : (modifyPorts f s).nvme = s.nvme := rfl
@[simp] theorem modifyPorts_sheaf (f : PortsPart → PortsPart) (s : State) : (modifyPorts f s).sheaf = s.sheaf := rfl
@[simp] theorem modifyPorts_out (f : PortsPart → PortsPart) (s : State) : (modifyPorts f s).out = s.out := rfl
@[simp] theorem modifyPorts_genCount (f : PortsPart → PortsPart) (s : State) : (modifyPorts f s).genCount = s.genCount := rfl
@[simp] theorem modifyPorts_freeCount (f : PortsPart → PortsPart) (s : State) : (modifyPorts f s).freeCount = s.freeCount := rfl
@[simp] theorem modifyPorts_pending (f : PortsPart → PortsPart) (s : State) : (modifyPorts f s).pending = s.pending := rfl

/-! ## `modifyNvme` -/

@[simp] theorem modifyNvme_time (f : NvmePart → NvmePart) (s : State) : (modifyNvme f s).time = s.time := rfl
@[simp] theorem modifyNvme_hsw (f : NvmePart → NvmePart) (s : State) : (modifyNvme f s).hsw = s.hsw := rfl
@[simp] theorem modifyNvme_boot (f : NvmePart → NvmePart) (s : State) : (modifyNvme f s).boot = s.boot := rfl
@[simp] theorem modifyNvme_alm (f : NvmePart → NvmePart) (s : State) : (modifyNvme f s).alm = s.alm := rfl
@[simp] theorem modifyNvme_mci (f : NvmePart → NvmePart) (s : State) : (modifyNvme f s).mci = s.mci := rfl
@[simp] theorem modifyNvme_vault (f : NvmePart → NvmePart) (s : State) : (modifyNvme f s).vault = s.vault := rfl
@[simp] theorem modifyNvme_thermal (f : NvmePart → NvmePart) (s : State) : (modifyNvme f s).thermal = s.thermal := rfl
@[simp] theorem modifyNvme_smbus (f : NvmePart → NvmePart) (s : State) : (modifyNvme f s).smbus = s.smbus := rfl
@[simp] theorem modifyNvme_jtag (f : NvmePart → NvmePart) (s : State) : (modifyNvme f s).jtag = s.jtag := rfl
@[simp] theorem modifyNvme_flash (f : NvmePart → NvmePart) (s : State) : (modifyNvme f s).flash = s.flash := rfl
@[simp] theorem modifyNvme_fw (f : NvmePart → NvmePart) (s : State) : (modifyNvme f s).fw = s.fw := rfl
@[simp] theorem modifyNvme_tines (f : NvmePart → NvmePart) (s : State) : (modifyNvme f s).tines = s.tines := rfl
@[simp] theorem modifyNvme_winnow (f : NvmePart → NvmePart) (s : State) : (modifyNvme f s).winnow = s.winnow := rfl
@[simp] theorem modifyNvme_voxca (f : NvmePart → NvmePart) (s : State) : (modifyNvme f s).voxca = s.voxca := rfl
@[simp] theorem modifyNvme_cipher (f : NvmePart → NvmePart) (s : State) : (modifyNvme f s).cipher = s.cipher := rfl
@[simp] theorem modifyNvme_mem (f : NvmePart → NvmePart) (s : State) : (modifyNvme f s).mem = s.mem := rfl
@[simp] theorem modifyNvme_granary (f : NvmePart → NvmePart) (s : State) : (modifyNvme f s).granary = s.granary := rfl
@[simp] theorem modifyNvme_dma (f : NvmePart → NvmePart) (s : State) : (modifyNvme f s).dma = s.dma := rfl
@[simp] theorem modifyNvme_map (f : NvmePart → NvmePart) (s : State) : (modifyNvme f s).map = s.map := rfl
@[simp] theorem modifyNvme_journal (f : NvmePart → NvmePart) (s : State) : (modifyNvme f s).journal = s.journal := rfl
@[simp] theorem modifyNvme_ingest (f : NvmePart → NvmePart) (s : State) : (modifyNvme f s).ingest = s.ingest := rfl
@[simp] theorem modifyNvme_media (f : NvmePart → NvmePart) (s : State) : (modifyNvme f s).media = s.media := rfl
@[simp] theorem modifyNvme_read (f : NvmePart → NvmePart) (s : State) : (modifyNvme f s).read = s.read := rfl
@[simp] theorem modifyNvme_furrow (f : NvmePart → NvmePart) (s : State) : (modifyNvme f s).furrow = s.furrow := rfl
@[simp] theorem modifyNvme_bridges (f : NvmePart → NvmePart) (s : State) : (modifyNvme f s).bridges = s.bridges := rfl
@[simp] theorem modifyNvme_headland (f : NvmePart → NvmePart) (s : State) : (modifyNvme f s).headland = s.headland := rfl
@[simp] theorem modifyNvme_repl (f : NvmePart → NvmePart) (s : State) : (modifyNvme f s).repl = s.repl := rfl
@[simp] theorem modifyNvme_ports (f : NvmePart → NvmePart) (s : State) : (modifyNvme f s).ports = s.ports := rfl
@[simp] theorem modifyNvme_nvme (f : NvmePart → NvmePart) (s : State) : (modifyNvme f s).nvme = f s.nvme := rfl
@[simp] theorem modifyNvme_sheaf (f : NvmePart → NvmePart) (s : State) : (modifyNvme f s).sheaf = s.sheaf := rfl
@[simp] theorem modifyNvme_out (f : NvmePart → NvmePart) (s : State) : (modifyNvme f s).out = s.out := rfl
@[simp] theorem modifyNvme_genCount (f : NvmePart → NvmePart) (s : State) : (modifyNvme f s).genCount = s.genCount := rfl
@[simp] theorem modifyNvme_freeCount (f : NvmePart → NvmePart) (s : State) : (modifyNvme f s).freeCount = s.freeCount := rfl
@[simp] theorem modifyNvme_pending (f : NvmePart → NvmePart) (s : State) : (modifyNvme f s).pending = s.pending := rfl

/-! ## `modifySheaf` -/

@[simp] theorem modifySheaf_time (f : SheafPart → SheafPart) (s : State) : (modifySheaf f s).time = s.time := rfl
@[simp] theorem modifySheaf_hsw (f : SheafPart → SheafPart) (s : State) : (modifySheaf f s).hsw = s.hsw := rfl
@[simp] theorem modifySheaf_boot (f : SheafPart → SheafPart) (s : State) : (modifySheaf f s).boot = s.boot := rfl
@[simp] theorem modifySheaf_alm (f : SheafPart → SheafPart) (s : State) : (modifySheaf f s).alm = s.alm := rfl
@[simp] theorem modifySheaf_mci (f : SheafPart → SheafPart) (s : State) : (modifySheaf f s).mci = s.mci := rfl
@[simp] theorem modifySheaf_vault (f : SheafPart → SheafPart) (s : State) : (modifySheaf f s).vault = s.vault := rfl
@[simp] theorem modifySheaf_thermal (f : SheafPart → SheafPart) (s : State) : (modifySheaf f s).thermal = s.thermal := rfl
@[simp] theorem modifySheaf_smbus (f : SheafPart → SheafPart) (s : State) : (modifySheaf f s).smbus = s.smbus := rfl
@[simp] theorem modifySheaf_jtag (f : SheafPart → SheafPart) (s : State) : (modifySheaf f s).jtag = s.jtag := rfl
@[simp] theorem modifySheaf_flash (f : SheafPart → SheafPart) (s : State) : (modifySheaf f s).flash = s.flash := rfl
@[simp] theorem modifySheaf_fw (f : SheafPart → SheafPart) (s : State) : (modifySheaf f s).fw = s.fw := rfl
@[simp] theorem modifySheaf_tines (f : SheafPart → SheafPart) (s : State) : (modifySheaf f s).tines = s.tines := rfl
@[simp] theorem modifySheaf_winnow (f : SheafPart → SheafPart) (s : State) : (modifySheaf f s).winnow = s.winnow := rfl
@[simp] theorem modifySheaf_voxca (f : SheafPart → SheafPart) (s : State) : (modifySheaf f s).voxca = s.voxca := rfl
@[simp] theorem modifySheaf_cipher (f : SheafPart → SheafPart) (s : State) : (modifySheaf f s).cipher = s.cipher := rfl
@[simp] theorem modifySheaf_mem (f : SheafPart → SheafPart) (s : State) : (modifySheaf f s).mem = s.mem := rfl
@[simp] theorem modifySheaf_granary (f : SheafPart → SheafPart) (s : State) : (modifySheaf f s).granary = s.granary := rfl
@[simp] theorem modifySheaf_dma (f : SheafPart → SheafPart) (s : State) : (modifySheaf f s).dma = s.dma := rfl
@[simp] theorem modifySheaf_map (f : SheafPart → SheafPart) (s : State) : (modifySheaf f s).map = s.map := rfl
@[simp] theorem modifySheaf_journal (f : SheafPart → SheafPart) (s : State) : (modifySheaf f s).journal = s.journal := rfl
@[simp] theorem modifySheaf_ingest (f : SheafPart → SheafPart) (s : State) : (modifySheaf f s).ingest = s.ingest := rfl
@[simp] theorem modifySheaf_media (f : SheafPart → SheafPart) (s : State) : (modifySheaf f s).media = s.media := rfl
@[simp] theorem modifySheaf_read (f : SheafPart → SheafPart) (s : State) : (modifySheaf f s).read = s.read := rfl
@[simp] theorem modifySheaf_furrow (f : SheafPart → SheafPart) (s : State) : (modifySheaf f s).furrow = s.furrow := rfl
@[simp] theorem modifySheaf_bridges (f : SheafPart → SheafPart) (s : State) : (modifySheaf f s).bridges = s.bridges := rfl
@[simp] theorem modifySheaf_headland (f : SheafPart → SheafPart) (s : State) : (modifySheaf f s).headland = s.headland := rfl
@[simp] theorem modifySheaf_repl (f : SheafPart → SheafPart) (s : State) : (modifySheaf f s).repl = s.repl := rfl
@[simp] theorem modifySheaf_ports (f : SheafPart → SheafPart) (s : State) : (modifySheaf f s).ports = s.ports := rfl
@[simp] theorem modifySheaf_nvme (f : SheafPart → SheafPart) (s : State) : (modifySheaf f s).nvme = s.nvme := rfl
@[simp] theorem modifySheaf_sheaf (f : SheafPart → SheafPart) (s : State) : (modifySheaf f s).sheaf = f s.sheaf := rfl
@[simp] theorem modifySheaf_out (f : SheafPart → SheafPart) (s : State) : (modifySheaf f s).out = s.out := rfl
@[simp] theorem modifySheaf_genCount (f : SheafPart → SheafPart) (s : State) : (modifySheaf f s).genCount = s.genCount := rfl
@[simp] theorem modifySheaf_freeCount (f : SheafPart → SheafPart) (s : State) : (modifySheaf f s).freeCount = s.freeCount := rfl
@[simp] theorem modifySheaf_pending (f : SheafPart → SheafPart) (s : State) : (modifySheaf f s).pending = s.pending := rfl

/-! ## `modifyHarrow` -/

@[simp] theorem modifyHarrow_time (h : Nat) (f : Harrow → Harrow) (s : State) : (modifyHarrow h f s).time = s.time := rfl
@[simp] theorem modifyHarrow_hsw (h : Nat) (f : Harrow → Harrow) (s : State) : (modifyHarrow h f s).hsw = s.hsw := rfl
@[simp] theorem modifyHarrow_boot (h : Nat) (f : Harrow → Harrow) (s : State) : (modifyHarrow h f s).boot = s.boot := rfl
@[simp] theorem modifyHarrow_alm (h : Nat) (f : Harrow → Harrow) (s : State) : (modifyHarrow h f s).alm = s.alm := rfl
@[simp] theorem modifyHarrow_mci (h : Nat) (f : Harrow → Harrow) (s : State) : (modifyHarrow h f s).mci = s.mci := rfl
@[simp] theorem modifyHarrow_vault (h : Nat) (f : Harrow → Harrow) (s : State) : (modifyHarrow h f s).vault = s.vault := rfl
@[simp] theorem modifyHarrow_thermal (h : Nat) (f : Harrow → Harrow) (s : State) : (modifyHarrow h f s).thermal = s.thermal := rfl
@[simp] theorem modifyHarrow_smbus (h : Nat) (f : Harrow → Harrow) (s : State) : (modifyHarrow h f s).smbus = s.smbus := rfl
@[simp] theorem modifyHarrow_jtag (h : Nat) (f : Harrow → Harrow) (s : State) : (modifyHarrow h f s).jtag = s.jtag := rfl
@[simp] theorem modifyHarrow_flash (h : Nat) (f : Harrow → Harrow) (s : State) : (modifyHarrow h f s).flash = s.flash := rfl
@[simp] theorem modifyHarrow_fw (h : Nat) (f : Harrow → Harrow) (s : State) : (modifyHarrow h f s).fw = s.fw := rfl
@[simp] theorem modifyHarrow_tines (h : Nat) (f : Harrow → Harrow) (s : State) : (modifyHarrow h f s).tines = { s.tines with harrows := modifyNth f h s.tines.harrows } := rfl
@[simp] theorem modifyHarrow_winnow (h : Nat) (f : Harrow → Harrow) (s : State) : (modifyHarrow h f s).winnow = s.winnow := rfl
@[simp] theorem modifyHarrow_voxca (h : Nat) (f : Harrow → Harrow) (s : State) : (modifyHarrow h f s).voxca = s.voxca := rfl
@[simp] theorem modifyHarrow_cipher (h : Nat) (f : Harrow → Harrow) (s : State) : (modifyHarrow h f s).cipher = s.cipher := rfl
@[simp] theorem modifyHarrow_mem (h : Nat) (f : Harrow → Harrow) (s : State) : (modifyHarrow h f s).mem = s.mem := rfl
@[simp] theorem modifyHarrow_granary (h : Nat) (f : Harrow → Harrow) (s : State) : (modifyHarrow h f s).granary = s.granary := rfl
@[simp] theorem modifyHarrow_dma (h : Nat) (f : Harrow → Harrow) (s : State) : (modifyHarrow h f s).dma = s.dma := rfl
@[simp] theorem modifyHarrow_map (h : Nat) (f : Harrow → Harrow) (s : State) : (modifyHarrow h f s).map = s.map := rfl
@[simp] theorem modifyHarrow_journal (h : Nat) (f : Harrow → Harrow) (s : State) : (modifyHarrow h f s).journal = s.journal := rfl
@[simp] theorem modifyHarrow_ingest (h : Nat) (f : Harrow → Harrow) (s : State) : (modifyHarrow h f s).ingest = s.ingest := rfl
@[simp] theorem modifyHarrow_media (h : Nat) (f : Harrow → Harrow) (s : State) : (modifyHarrow h f s).media = s.media := rfl
@[simp] theorem modifyHarrow_read (h : Nat) (f : Harrow → Harrow) (s : State) : (modifyHarrow h f s).read = s.read := rfl
@[simp] theorem modifyHarrow_furrow (h : Nat) (f : Harrow → Harrow) (s : State) : (modifyHarrow h f s).furrow = s.furrow := rfl
@[simp] theorem modifyHarrow_bridges (h : Nat) (f : Harrow → Harrow) (s : State) : (modifyHarrow h f s).bridges = s.bridges := rfl
@[simp] theorem modifyHarrow_headland (h : Nat) (f : Harrow → Harrow) (s : State) : (modifyHarrow h f s).headland = s.headland := rfl
@[simp] theorem modifyHarrow_repl (h : Nat) (f : Harrow → Harrow) (s : State) : (modifyHarrow h f s).repl = s.repl := rfl
@[simp] theorem modifyHarrow_ports (h : Nat) (f : Harrow → Harrow) (s : State) : (modifyHarrow h f s).ports = s.ports := rfl
@[simp] theorem modifyHarrow_nvme (h : Nat) (f : Harrow → Harrow) (s : State) : (modifyHarrow h f s).nvme = s.nvme := rfl
@[simp] theorem modifyHarrow_sheaf (h : Nat) (f : Harrow → Harrow) (s : State) : (modifyHarrow h f s).sheaf = s.sheaf := rfl
@[simp] theorem modifyHarrow_out (h : Nat) (f : Harrow → Harrow) (s : State) : (modifyHarrow h f s).out = s.out := rfl
@[simp] theorem modifyHarrow_genCount (h : Nat) (f : Harrow → Harrow) (s : State) : (modifyHarrow h f s).genCount = s.genCount := rfl
@[simp] theorem modifyHarrow_freeCount (h : Nat) (f : Harrow → Harrow) (s : State) : (modifyHarrow h f s).freeCount = s.freeCount := rfl
@[simp] theorem modifyHarrow_pending (h : Nat) (f : Harrow → Harrow) (s : State) : (modifyHarrow h f s).pending = s.pending := rfl

/-! ## `modifyTine` -/

@[simp] theorem modifyTine_time (t : Nat) (f : Tine → Tine) (s : State) : (modifyTine t f s).time = s.time := rfl
@[simp] theorem modifyTine_hsw (t : Nat) (f : Tine → Tine) (s : State) : (modifyTine t f s).hsw = s.hsw := rfl
@[simp] theorem modifyTine_boot (t : Nat) (f : Tine → Tine) (s : State) : (modifyTine t f s).boot = s.boot := rfl
@[simp] theorem modifyTine_alm (t : Nat) (f : Tine → Tine) (s : State) : (modifyTine t f s).alm = s.alm := rfl
@[simp] theorem modifyTine_mci (t : Nat) (f : Tine → Tine) (s : State) : (modifyTine t f s).mci = s.mci := rfl
@[simp] theorem modifyTine_vault (t : Nat) (f : Tine → Tine) (s : State) : (modifyTine t f s).vault = s.vault := rfl
@[simp] theorem modifyTine_thermal (t : Nat) (f : Tine → Tine) (s : State) : (modifyTine t f s).thermal = s.thermal := rfl
@[simp] theorem modifyTine_smbus (t : Nat) (f : Tine → Tine) (s : State) : (modifyTine t f s).smbus = s.smbus := rfl
@[simp] theorem modifyTine_jtag (t : Nat) (f : Tine → Tine) (s : State) : (modifyTine t f s).jtag = s.jtag := rfl
@[simp] theorem modifyTine_flash (t : Nat) (f : Tine → Tine) (s : State) : (modifyTine t f s).flash = s.flash := rfl
@[simp] theorem modifyTine_fw (t : Nat) (f : Tine → Tine) (s : State) : (modifyTine t f s).fw = s.fw := rfl
@[simp] theorem modifyTine_tines (t : Nat) (f : Tine → Tine) (s : State) : (modifyTine t f s).tines = { s.tines with tines := modifyNth f t s.tines.tines } := rfl
@[simp] theorem modifyTine_winnow (t : Nat) (f : Tine → Tine) (s : State) : (modifyTine t f s).winnow = s.winnow := rfl
@[simp] theorem modifyTine_voxca (t : Nat) (f : Tine → Tine) (s : State) : (modifyTine t f s).voxca = s.voxca := rfl
@[simp] theorem modifyTine_cipher (t : Nat) (f : Tine → Tine) (s : State) : (modifyTine t f s).cipher = s.cipher := rfl
@[simp] theorem modifyTine_mem (t : Nat) (f : Tine → Tine) (s : State) : (modifyTine t f s).mem = s.mem := rfl
@[simp] theorem modifyTine_granary (t : Nat) (f : Tine → Tine) (s : State) : (modifyTine t f s).granary = s.granary := rfl
@[simp] theorem modifyTine_dma (t : Nat) (f : Tine → Tine) (s : State) : (modifyTine t f s).dma = s.dma := rfl
@[simp] theorem modifyTine_map (t : Nat) (f : Tine → Tine) (s : State) : (modifyTine t f s).map = s.map := rfl
@[simp] theorem modifyTine_journal (t : Nat) (f : Tine → Tine) (s : State) : (modifyTine t f s).journal = s.journal := rfl
@[simp] theorem modifyTine_ingest (t : Nat) (f : Tine → Tine) (s : State) : (modifyTine t f s).ingest = s.ingest := rfl
@[simp] theorem modifyTine_media (t : Nat) (f : Tine → Tine) (s : State) : (modifyTine t f s).media = s.media := rfl
@[simp] theorem modifyTine_read (t : Nat) (f : Tine → Tine) (s : State) : (modifyTine t f s).read = s.read := rfl
@[simp] theorem modifyTine_furrow (t : Nat) (f : Tine → Tine) (s : State) : (modifyTine t f s).furrow = s.furrow := rfl
@[simp] theorem modifyTine_bridges (t : Nat) (f : Tine → Tine) (s : State) : (modifyTine t f s).bridges = s.bridges := rfl
@[simp] theorem modifyTine_headland (t : Nat) (f : Tine → Tine) (s : State) : (modifyTine t f s).headland = s.headland := rfl
@[simp] theorem modifyTine_repl (t : Nat) (f : Tine → Tine) (s : State) : (modifyTine t f s).repl = s.repl := rfl
@[simp] theorem modifyTine_ports (t : Nat) (f : Tine → Tine) (s : State) : (modifyTine t f s).ports = s.ports := rfl
@[simp] theorem modifyTine_nvme (t : Nat) (f : Tine → Tine) (s : State) : (modifyTine t f s).nvme = s.nvme := rfl
@[simp] theorem modifyTine_sheaf (t : Nat) (f : Tine → Tine) (s : State) : (modifyTine t f s).sheaf = s.sheaf := rfl
@[simp] theorem modifyTine_out (t : Nat) (f : Tine → Tine) (s : State) : (modifyTine t f s).out = s.out := rfl
@[simp] theorem modifyTine_genCount (t : Nat) (f : Tine → Tine) (s : State) : (modifyTine t f s).genCount = s.genCount := rfl
@[simp] theorem modifyTine_freeCount (t : Nat) (f : Tine → Tine) (s : State) : (modifyTine t f s).freeCount = s.freeCount := rfl
@[simp] theorem modifyTine_pending (t : Nat) (f : Tine → Tine) (s : State) : (modifyTine t f s).pending = s.pending := rfl

/-! ## `modifyEntries` -/

@[simp] theorem modifyEntries_time (f : List (Nat × WinnowEntry) → List (Nat × WinnowEntry)) (s : State) : (modifyEntries f s).time = s.time := rfl
@[simp] theorem modifyEntries_hsw (f : List (Nat × WinnowEntry) → List (Nat × WinnowEntry)) (s : State) : (modifyEntries f s).hsw = s.hsw := rfl
@[simp] theorem modifyEntries_boot (f : List (Nat × WinnowEntry) → List (Nat × WinnowEntry)) (s : State) : (modifyEntries f s).boot = s.boot := rfl
@[simp] theorem modifyEntries_alm (f : List (Nat × WinnowEntry) → List (Nat × WinnowEntry)) (s : State) : (modifyEntries f s).alm = s.alm := rfl
@[simp] theorem modifyEntries_mci (f : List (Nat × WinnowEntry) → List (Nat × WinnowEntry)) (s : State) : (modifyEntries f s).mci = s.mci := rfl
@[simp] theorem modifyEntries_vault (f : List (Nat × WinnowEntry) → List (Nat × WinnowEntry)) (s : State) : (modifyEntries f s).vault = s.vault := rfl
@[simp] theorem modifyEntries_thermal (f : List (Nat × WinnowEntry) → List (Nat × WinnowEntry)) (s : State) : (modifyEntries f s).thermal = s.thermal := rfl
@[simp] theorem modifyEntries_smbus (f : List (Nat × WinnowEntry) → List (Nat × WinnowEntry)) (s : State) : (modifyEntries f s).smbus = s.smbus := rfl
@[simp] theorem modifyEntries_jtag (f : List (Nat × WinnowEntry) → List (Nat × WinnowEntry)) (s : State) : (modifyEntries f s).jtag = s.jtag := rfl
@[simp] theorem modifyEntries_flash (f : List (Nat × WinnowEntry) → List (Nat × WinnowEntry)) (s : State) : (modifyEntries f s).flash = s.flash := rfl
@[simp] theorem modifyEntries_fw (f : List (Nat × WinnowEntry) → List (Nat × WinnowEntry)) (s : State) : (modifyEntries f s).fw = s.fw := rfl
@[simp] theorem modifyEntries_tines (f : List (Nat × WinnowEntry) → List (Nat × WinnowEntry)) (s : State) : (modifyEntries f s).tines = s.tines := rfl
@[simp] theorem modifyEntries_winnow (f : List (Nat × WinnowEntry) → List (Nat × WinnowEntry)) (s : State) : (modifyEntries f s).winnow = { s.winnow with entries := f s.winnow.entries } := rfl
@[simp] theorem modifyEntries_voxca (f : List (Nat × WinnowEntry) → List (Nat × WinnowEntry)) (s : State) : (modifyEntries f s).voxca = s.voxca := rfl
@[simp] theorem modifyEntries_cipher (f : List (Nat × WinnowEntry) → List (Nat × WinnowEntry)) (s : State) : (modifyEntries f s).cipher = s.cipher := rfl
@[simp] theorem modifyEntries_mem (f : List (Nat × WinnowEntry) → List (Nat × WinnowEntry)) (s : State) : (modifyEntries f s).mem = s.mem := rfl
@[simp] theorem modifyEntries_granary (f : List (Nat × WinnowEntry) → List (Nat × WinnowEntry)) (s : State) : (modifyEntries f s).granary = s.granary := rfl
@[simp] theorem modifyEntries_dma (f : List (Nat × WinnowEntry) → List (Nat × WinnowEntry)) (s : State) : (modifyEntries f s).dma = s.dma := rfl
@[simp] theorem modifyEntries_map (f : List (Nat × WinnowEntry) → List (Nat × WinnowEntry)) (s : State) : (modifyEntries f s).map = s.map := rfl
@[simp] theorem modifyEntries_journal (f : List (Nat × WinnowEntry) → List (Nat × WinnowEntry)) (s : State) : (modifyEntries f s).journal = s.journal := rfl
@[simp] theorem modifyEntries_ingest (f : List (Nat × WinnowEntry) → List (Nat × WinnowEntry)) (s : State) : (modifyEntries f s).ingest = s.ingest := rfl
@[simp] theorem modifyEntries_media (f : List (Nat × WinnowEntry) → List (Nat × WinnowEntry)) (s : State) : (modifyEntries f s).media = s.media := rfl
@[simp] theorem modifyEntries_read (f : List (Nat × WinnowEntry) → List (Nat × WinnowEntry)) (s : State) : (modifyEntries f s).read = s.read := rfl
@[simp] theorem modifyEntries_furrow (f : List (Nat × WinnowEntry) → List (Nat × WinnowEntry)) (s : State) : (modifyEntries f s).furrow = s.furrow := rfl
@[simp] theorem modifyEntries_bridges (f : List (Nat × WinnowEntry) → List (Nat × WinnowEntry)) (s : State) : (modifyEntries f s).bridges = s.bridges := rfl
@[simp] theorem modifyEntries_headland (f : List (Nat × WinnowEntry) → List (Nat × WinnowEntry)) (s : State) : (modifyEntries f s).headland = s.headland := rfl
@[simp] theorem modifyEntries_repl (f : List (Nat × WinnowEntry) → List (Nat × WinnowEntry)) (s : State) : (modifyEntries f s).repl = s.repl := rfl
@[simp] theorem modifyEntries_ports (f : List (Nat × WinnowEntry) → List (Nat × WinnowEntry)) (s : State) : (modifyEntries f s).ports = s.ports := rfl
@[simp] theorem modifyEntries_nvme (f : List (Nat × WinnowEntry) → List (Nat × WinnowEntry)) (s : State) : (modifyEntries f s).nvme = s.nvme := rfl
@[simp] theorem modifyEntries_sheaf (f : List (Nat × WinnowEntry) → List (Nat × WinnowEntry)) (s : State) : (modifyEntries f s).sheaf = s.sheaf := rfl
@[simp] theorem modifyEntries_out (f : List (Nat × WinnowEntry) → List (Nat × WinnowEntry)) (s : State) : (modifyEntries f s).out = s.out := rfl
@[simp] theorem modifyEntries_genCount (f : List (Nat × WinnowEntry) → List (Nat × WinnowEntry)) (s : State) : (modifyEntries f s).genCount = s.genCount := rfl
@[simp] theorem modifyEntries_freeCount (f : List (Nat × WinnowEntry) → List (Nat × WinnowEntry)) (s : State) : (modifyEntries f s).freeCount = s.freeCount := rfl
@[simp] theorem modifyEntries_pending (f : List (Nat × WinnowEntry) → List (Nat × WinnowEntry)) (s : State) : (modifyEntries f s).pending = s.pending := rfl

/-! ## `setGHeader` -/

@[simp] theorem setGHeader_time (pool index : Nat) (h : GHeader) (s : State) : (setGHeader pool index h s).time = s.time := rfl
@[simp] theorem setGHeader_hsw (pool index : Nat) (h : GHeader) (s : State) : (setGHeader pool index h s).hsw = s.hsw := rfl
@[simp] theorem setGHeader_boot (pool index : Nat) (h : GHeader) (s : State) : (setGHeader pool index h s).boot = s.boot := rfl
@[simp] theorem setGHeader_alm (pool index : Nat) (h : GHeader) (s : State) : (setGHeader pool index h s).alm = s.alm := rfl
@[simp] theorem setGHeader_mci (pool index : Nat) (h : GHeader) (s : State) : (setGHeader pool index h s).mci = s.mci := rfl
@[simp] theorem setGHeader_vault (pool index : Nat) (h : GHeader) (s : State) : (setGHeader pool index h s).vault = s.vault := rfl
@[simp] theorem setGHeader_thermal (pool index : Nat) (h : GHeader) (s : State) : (setGHeader pool index h s).thermal = s.thermal := rfl
@[simp] theorem setGHeader_smbus (pool index : Nat) (h : GHeader) (s : State) : (setGHeader pool index h s).smbus = s.smbus := rfl
@[simp] theorem setGHeader_jtag (pool index : Nat) (h : GHeader) (s : State) : (setGHeader pool index h s).jtag = s.jtag := rfl
@[simp] theorem setGHeader_flash (pool index : Nat) (h : GHeader) (s : State) : (setGHeader pool index h s).flash = s.flash := rfl
@[simp] theorem setGHeader_fw (pool index : Nat) (h : GHeader) (s : State) : (setGHeader pool index h s).fw = s.fw := rfl
@[simp] theorem setGHeader_tines (pool index : Nat) (h : GHeader) (s : State) : (setGHeader pool index h s).tines = s.tines := rfl
@[simp] theorem setGHeader_winnow (pool index : Nat) (h : GHeader) (s : State) : (setGHeader pool index h s).winnow = s.winnow := rfl
@[simp] theorem setGHeader_voxca (pool index : Nat) (h : GHeader) (s : State) : (setGHeader pool index h s).voxca = s.voxca := rfl
@[simp] theorem setGHeader_cipher (pool index : Nat) (h : GHeader) (s : State) : (setGHeader pool index h s).cipher = s.cipher := rfl
@[simp] theorem setGHeader_mem (pool index : Nat) (h : GHeader) (s : State) : (setGHeader pool index h s).mem = s.mem := rfl
@[simp] theorem setGHeader_granary (pool index : Nat) (h : GHeader) (s : State) : (setGHeader pool index h s).granary = { s.granary with headers := insertAt (headerKey pool index) h s.granary.headers } := rfl
@[simp] theorem setGHeader_dma (pool index : Nat) (h : GHeader) (s : State) : (setGHeader pool index h s).dma = s.dma := rfl
@[simp] theorem setGHeader_map (pool index : Nat) (h : GHeader) (s : State) : (setGHeader pool index h s).map = s.map := rfl
@[simp] theorem setGHeader_journal (pool index : Nat) (h : GHeader) (s : State) : (setGHeader pool index h s).journal = s.journal := rfl
@[simp] theorem setGHeader_ingest (pool index : Nat) (h : GHeader) (s : State) : (setGHeader pool index h s).ingest = s.ingest := rfl
@[simp] theorem setGHeader_media (pool index : Nat) (h : GHeader) (s : State) : (setGHeader pool index h s).media = s.media := rfl
@[simp] theorem setGHeader_read (pool index : Nat) (h : GHeader) (s : State) : (setGHeader pool index h s).read = s.read := rfl
@[simp] theorem setGHeader_furrow (pool index : Nat) (h : GHeader) (s : State) : (setGHeader pool index h s).furrow = s.furrow := rfl
@[simp] theorem setGHeader_bridges (pool index : Nat) (h : GHeader) (s : State) : (setGHeader pool index h s).bridges = s.bridges := rfl
@[simp] theorem setGHeader_headland (pool index : Nat) (h : GHeader) (s : State) : (setGHeader pool index h s).headland = s.headland := rfl
@[simp] theorem setGHeader_repl (pool index : Nat) (h : GHeader) (s : State) : (setGHeader pool index h s).repl = s.repl := rfl
@[simp] theorem setGHeader_ports (pool index : Nat) (h : GHeader) (s : State) : (setGHeader pool index h s).ports = s.ports := rfl
@[simp] theorem setGHeader_nvme (pool index : Nat) (h : GHeader) (s : State) : (setGHeader pool index h s).nvme = s.nvme := rfl
@[simp] theorem setGHeader_sheaf (pool index : Nat) (h : GHeader) (s : State) : (setGHeader pool index h s).sheaf = s.sheaf := rfl
@[simp] theorem setGHeader_out (pool index : Nat) (h : GHeader) (s : State) : (setGHeader pool index h s).out = s.out := rfl
@[simp] theorem setGHeader_genCount (pool index : Nat) (h : GHeader) (s : State) : (setGHeader pool index h s).genCount = s.genCount := rfl
@[simp] theorem setGHeader_freeCount (pool index : Nat) (h : GHeader) (s : State) : (setGHeader pool index h s).freeCount = s.freeCount := rfl
@[simp] theorem setGHeader_pending (pool index : Nat) (h : GHeader) (s : State) : (setGHeader pool index h s).pending = s.pending := rfl

/-! ## `modifyList` -/

@[simp] theorem modifyList_time (arena pool : Nat) (f : GList → GList) (s : State) : (modifyList arena pool f s).time = s.time := rfl
@[simp] theorem modifyList_hsw (arena pool : Nat) (f : GList → GList) (s : State) : (modifyList arena pool f s).hsw = s.hsw := rfl
@[simp] theorem modifyList_boot (arena pool : Nat) (f : GList → GList) (s : State) : (modifyList arena pool f s).boot = s.boot := rfl
@[simp] theorem modifyList_alm (arena pool : Nat) (f : GList → GList) (s : State) : (modifyList arena pool f s).alm = s.alm := rfl
@[simp] theorem modifyList_mci (arena pool : Nat) (f : GList → GList) (s : State) : (modifyList arena pool f s).mci = s.mci := rfl
@[simp] theorem modifyList_vault (arena pool : Nat) (f : GList → GList) (s : State) : (modifyList arena pool f s).vault = s.vault := rfl
@[simp] theorem modifyList_thermal (arena pool : Nat) (f : GList → GList) (s : State) : (modifyList arena pool f s).thermal = s.thermal := rfl
@[simp] theorem modifyList_smbus (arena pool : Nat) (f : GList → GList) (s : State) : (modifyList arena pool f s).smbus = s.smbus := rfl
@[simp] theorem modifyList_jtag (arena pool : Nat) (f : GList → GList) (s : State) : (modifyList arena pool f s).jtag = s.jtag := rfl
@[simp] theorem modifyList_flash (arena pool : Nat) (f : GList → GList) (s : State) : (modifyList arena pool f s).flash = s.flash := rfl
@[simp] theorem modifyList_fw (arena pool : Nat) (f : GList → GList) (s : State) : (modifyList arena pool f s).fw = s.fw := rfl
@[simp] theorem modifyList_tines (arena pool : Nat) (f : GList → GList) (s : State) : (modifyList arena pool f s).tines = s.tines := rfl
@[simp] theorem modifyList_winnow (arena pool : Nat) (f : GList → GList) (s : State) : (modifyList arena pool f s).winnow = s.winnow := rfl
@[simp] theorem modifyList_voxca (arena pool : Nat) (f : GList → GList) (s : State) : (modifyList arena pool f s).voxca = s.voxca := rfl
@[simp] theorem modifyList_cipher (arena pool : Nat) (f : GList → GList) (s : State) : (modifyList arena pool f s).cipher = s.cipher := rfl
@[simp] theorem modifyList_mem (arena pool : Nat) (f : GList → GList) (s : State) : (modifyList arena pool f s).mem = s.mem := rfl
@[simp] theorem modifyList_granary (arena pool : Nat) (f : GList → GList) (s : State) : (modifyList arena pool f s).granary = { s.granary with lists := modifyNth f (8 * arena + pool) s.granary.lists } := rfl
@[simp] theorem modifyList_dma (arena pool : Nat) (f : GList → GList) (s : State) : (modifyList arena pool f s).dma = s.dma := rfl
@[simp] theorem modifyList_map (arena pool : Nat) (f : GList → GList) (s : State) : (modifyList arena pool f s).map = s.map := rfl
@[simp] theorem modifyList_journal (arena pool : Nat) (f : GList → GList) (s : State) : (modifyList arena pool f s).journal = s.journal := rfl
@[simp] theorem modifyList_ingest (arena pool : Nat) (f : GList → GList) (s : State) : (modifyList arena pool f s).ingest = s.ingest := rfl
@[simp] theorem modifyList_media (arena pool : Nat) (f : GList → GList) (s : State) : (modifyList arena pool f s).media = s.media := rfl
@[simp] theorem modifyList_read (arena pool : Nat) (f : GList → GList) (s : State) : (modifyList arena pool f s).read = s.read := rfl
@[simp] theorem modifyList_furrow (arena pool : Nat) (f : GList → GList) (s : State) : (modifyList arena pool f s).furrow = s.furrow := rfl
@[simp] theorem modifyList_bridges (arena pool : Nat) (f : GList → GList) (s : State) : (modifyList arena pool f s).bridges = s.bridges := rfl
@[simp] theorem modifyList_headland (arena pool : Nat) (f : GList → GList) (s : State) : (modifyList arena pool f s).headland = s.headland := rfl
@[simp] theorem modifyList_repl (arena pool : Nat) (f : GList → GList) (s : State) : (modifyList arena pool f s).repl = s.repl := rfl
@[simp] theorem modifyList_ports (arena pool : Nat) (f : GList → GList) (s : State) : (modifyList arena pool f s).ports = s.ports := rfl
@[simp] theorem modifyList_nvme (arena pool : Nat) (f : GList → GList) (s : State) : (modifyList arena pool f s).nvme = s.nvme := rfl
@[simp] theorem modifyList_sheaf (arena pool : Nat) (f : GList → GList) (s : State) : (modifyList arena pool f s).sheaf = s.sheaf := rfl
@[simp] theorem modifyList_out (arena pool : Nat) (f : GList → GList) (s : State) : (modifyList arena pool f s).out = s.out := rfl
@[simp] theorem modifyList_genCount (arena pool : Nat) (f : GList → GList) (s : State) : (modifyList arena pool f s).genCount = s.genCount := rfl
@[simp] theorem modifyList_freeCount (arena pool : Nat) (f : GList → GList) (s : State) : (modifyList arena pool f s).freeCount = s.freeCount := rfl
@[simp] theorem modifyList_pending (arena pool : Nat) (f : GList → GList) (s : State) : (modifyList arena pool f s).pending = s.pending := rfl

/-! ## `modifyRing` -/

@[simp] theorem modifyRing_time (n : Nat) (f : CmdRing → CmdRing) (s : State) : (modifyRing n f s).time = s.time := rfl
@[simp] theorem modifyRing_hsw (n : Nat) (f : CmdRing → CmdRing) (s : State) : (modifyRing n f s).hsw = s.hsw := rfl
@[simp] theorem modifyRing_boot (n : Nat) (f : CmdRing → CmdRing) (s : State) : (modifyRing n f s).boot = s.boot := rfl
@[simp] theorem modifyRing_alm (n : Nat) (f : CmdRing → CmdRing) (s : State) : (modifyRing n f s).alm = s.alm := rfl
@[simp] theorem modifyRing_mci (n : Nat) (f : CmdRing → CmdRing) (s : State) : (modifyRing n f s).mci = { s.mci with rings := modifyNth f n s.mci.rings } := rfl
@[simp] theorem modifyRing_vault (n : Nat) (f : CmdRing → CmdRing) (s : State) : (modifyRing n f s).vault = s.vault := rfl
@[simp] theorem modifyRing_thermal (n : Nat) (f : CmdRing → CmdRing) (s : State) : (modifyRing n f s).thermal = s.thermal := rfl
@[simp] theorem modifyRing_smbus (n : Nat) (f : CmdRing → CmdRing) (s : State) : (modifyRing n f s).smbus = s.smbus := rfl
@[simp] theorem modifyRing_jtag (n : Nat) (f : CmdRing → CmdRing) (s : State) : (modifyRing n f s).jtag = s.jtag := rfl
@[simp] theorem modifyRing_flash (n : Nat) (f : CmdRing → CmdRing) (s : State) : (modifyRing n f s).flash = s.flash := rfl
@[simp] theorem modifyRing_fw (n : Nat) (f : CmdRing → CmdRing) (s : State) : (modifyRing n f s).fw = s.fw := rfl
@[simp] theorem modifyRing_tines (n : Nat) (f : CmdRing → CmdRing) (s : State) : (modifyRing n f s).tines = s.tines := rfl
@[simp] theorem modifyRing_winnow (n : Nat) (f : CmdRing → CmdRing) (s : State) : (modifyRing n f s).winnow = s.winnow := rfl
@[simp] theorem modifyRing_voxca (n : Nat) (f : CmdRing → CmdRing) (s : State) : (modifyRing n f s).voxca = s.voxca := rfl
@[simp] theorem modifyRing_cipher (n : Nat) (f : CmdRing → CmdRing) (s : State) : (modifyRing n f s).cipher = s.cipher := rfl
@[simp] theorem modifyRing_mem (n : Nat) (f : CmdRing → CmdRing) (s : State) : (modifyRing n f s).mem = s.mem := rfl
@[simp] theorem modifyRing_granary (n : Nat) (f : CmdRing → CmdRing) (s : State) : (modifyRing n f s).granary = s.granary := rfl
@[simp] theorem modifyRing_dma (n : Nat) (f : CmdRing → CmdRing) (s : State) : (modifyRing n f s).dma = s.dma := rfl
@[simp] theorem modifyRing_map (n : Nat) (f : CmdRing → CmdRing) (s : State) : (modifyRing n f s).map = s.map := rfl
@[simp] theorem modifyRing_journal (n : Nat) (f : CmdRing → CmdRing) (s : State) : (modifyRing n f s).journal = s.journal := rfl
@[simp] theorem modifyRing_ingest (n : Nat) (f : CmdRing → CmdRing) (s : State) : (modifyRing n f s).ingest = s.ingest := rfl
@[simp] theorem modifyRing_media (n : Nat) (f : CmdRing → CmdRing) (s : State) : (modifyRing n f s).media = s.media := rfl
@[simp] theorem modifyRing_read (n : Nat) (f : CmdRing → CmdRing) (s : State) : (modifyRing n f s).read = s.read := rfl
@[simp] theorem modifyRing_furrow (n : Nat) (f : CmdRing → CmdRing) (s : State) : (modifyRing n f s).furrow = s.furrow := rfl
@[simp] theorem modifyRing_bridges (n : Nat) (f : CmdRing → CmdRing) (s : State) : (modifyRing n f s).bridges = s.bridges := rfl
@[simp] theorem modifyRing_headland (n : Nat) (f : CmdRing → CmdRing) (s : State) : (modifyRing n f s).headland = s.headland := rfl
@[simp] theorem modifyRing_repl (n : Nat) (f : CmdRing → CmdRing) (s : State) : (modifyRing n f s).repl = s.repl := rfl
@[simp] theorem modifyRing_ports (n : Nat) (f : CmdRing → CmdRing) (s : State) : (modifyRing n f s).ports = s.ports := rfl
@[simp] theorem modifyRing_nvme (n : Nat) (f : CmdRing → CmdRing) (s : State) : (modifyRing n f s).nvme = s.nvme := rfl
@[simp] theorem modifyRing_sheaf (n : Nat) (f : CmdRing → CmdRing) (s : State) : (modifyRing n f s).sheaf = s.sheaf := rfl
@[simp] theorem modifyRing_out (n : Nat) (f : CmdRing → CmdRing) (s : State) : (modifyRing n f s).out = s.out := rfl
@[simp] theorem modifyRing_genCount (n : Nat) (f : CmdRing → CmdRing) (s : State) : (modifyRing n f s).genCount = s.genCount := rfl
@[simp] theorem modifyRing_freeCount (n : Nat) (f : CmdRing → CmdRing) (s : State) : (modifyRing n f s).freeCount = s.freeCount := rfl
@[simp] theorem modifyRing_pending (n : Nat) (f : CmdRing → CmdRing) (s : State) : (modifyRing n f s).pending = s.pending := rfl

/-! ## `modifyReply` -/

@[simp] theorem modifyReply_time (f : ReplyRing → ReplyRing) (s : State) : (modifyReply f s).time = s.time := rfl
@[simp] theorem modifyReply_hsw (f : ReplyRing → ReplyRing) (s : State) : (modifyReply f s).hsw = s.hsw := rfl
@[simp] theorem modifyReply_boot (f : ReplyRing → ReplyRing) (s : State) : (modifyReply f s).boot = s.boot := rfl
@[simp] theorem modifyReply_alm (f : ReplyRing → ReplyRing) (s : State) : (modifyReply f s).alm = s.alm := rfl
@[simp] theorem modifyReply_mci (f : ReplyRing → ReplyRing) (s : State) : (modifyReply f s).mci = { s.mci with reply := f s.mci.reply } := rfl
@[simp] theorem modifyReply_vault (f : ReplyRing → ReplyRing) (s : State) : (modifyReply f s).vault = s.vault := rfl
@[simp] theorem modifyReply_thermal (f : ReplyRing → ReplyRing) (s : State) : (modifyReply f s).thermal = s.thermal := rfl
@[simp] theorem modifyReply_smbus (f : ReplyRing → ReplyRing) (s : State) : (modifyReply f s).smbus = s.smbus := rfl
@[simp] theorem modifyReply_jtag (f : ReplyRing → ReplyRing) (s : State) : (modifyReply f s).jtag = s.jtag := rfl
@[simp] theorem modifyReply_flash (f : ReplyRing → ReplyRing) (s : State) : (modifyReply f s).flash = s.flash := rfl
@[simp] theorem modifyReply_fw (f : ReplyRing → ReplyRing) (s : State) : (modifyReply f s).fw = s.fw := rfl
@[simp] theorem modifyReply_tines (f : ReplyRing → ReplyRing) (s : State) : (modifyReply f s).tines = s.tines := rfl
@[simp] theorem modifyReply_winnow (f : ReplyRing → ReplyRing) (s : State) : (modifyReply f s).winnow = s.winnow := rfl
@[simp] theorem modifyReply_voxca (f : ReplyRing → ReplyRing) (s : State) : (modifyReply f s).voxca = s.voxca := rfl
@[simp] theorem modifyReply_cipher (f : ReplyRing → ReplyRing) (s : State) : (modifyReply f s).cipher = s.cipher := rfl
@[simp] theorem modifyReply_mem (f : ReplyRing → ReplyRing) (s : State) : (modifyReply f s).mem = s.mem := rfl
@[simp] theorem modifyReply_granary (f : ReplyRing → ReplyRing) (s : State) : (modifyReply f s).granary = s.granary := rfl
@[simp] theorem modifyReply_dma (f : ReplyRing → ReplyRing) (s : State) : (modifyReply f s).dma = s.dma := rfl
@[simp] theorem modifyReply_map (f : ReplyRing → ReplyRing) (s : State) : (modifyReply f s).map = s.map := rfl
@[simp] theorem modifyReply_journal (f : ReplyRing → ReplyRing) (s : State) : (modifyReply f s).journal = s.journal := rfl
@[simp] theorem modifyReply_ingest (f : ReplyRing → ReplyRing) (s : State) : (modifyReply f s).ingest = s.ingest := rfl
@[simp] theorem modifyReply_media (f : ReplyRing → ReplyRing) (s : State) : (modifyReply f s).media = s.media := rfl
@[simp] theorem modifyReply_read (f : ReplyRing → ReplyRing) (s : State) : (modifyReply f s).read = s.read := rfl
@[simp] theorem modifyReply_furrow (f : ReplyRing → ReplyRing) (s : State) : (modifyReply f s).furrow = s.furrow := rfl
@[simp] theorem modifyReply_bridges (f : ReplyRing → ReplyRing) (s : State) : (modifyReply f s).bridges = s.bridges := rfl
@[simp] theorem modifyReply_headland (f : ReplyRing → ReplyRing) (s : State) : (modifyReply f s).headland = s.headland := rfl
@[simp] theorem modifyReply_repl (f : ReplyRing → ReplyRing) (s : State) : (modifyReply f s).repl = s.repl := rfl
@[simp] theorem modifyReply_ports (f : ReplyRing → ReplyRing) (s : State) : (modifyReply f s).ports = s.ports := rfl
@[simp] theorem modifyReply_nvme (f : ReplyRing → ReplyRing) (s : State) : (modifyReply f s).nvme = s.nvme := rfl
@[simp] theorem modifyReply_sheaf (f : ReplyRing → ReplyRing) (s : State) : (modifyReply f s).sheaf = s.sheaf := rfl
@[simp] theorem modifyReply_out (f : ReplyRing → ReplyRing) (s : State) : (modifyReply f s).out = s.out := rfl
@[simp] theorem modifyReply_genCount (f : ReplyRing → ReplyRing) (s : State) : (modifyReply f s).genCount = s.genCount := rfl
@[simp] theorem modifyReply_freeCount (f : ReplyRing → ReplyRing) (s : State) : (modifyReply f s).freeCount = s.freeCount := rfl
@[simp] theorem modifyReply_pending (f : ReplyRing → ReplyRing) (s : State) : (modifyReply f s).pending = s.pending := rfl

/-! ## `modifyBale` -/

@[simp] theorem modifyBale_time (acre bale : Nat) (f : Bale → Bale) (s : State) : (modifyBale acre bale f s).time = s.time := rfl
@[simp] theorem modifyBale_hsw (acre bale : Nat) (f : Bale → Bale) (s : State) : (modifyBale acre bale f s).hsw = s.hsw := rfl
@[simp] theorem modifyBale_boot (acre bale : Nat) (f : Bale → Bale) (s : State) : (modifyBale acre bale f s).boot = s.boot := rfl
@[simp] theorem modifyBale_alm (acre bale : Nat) (f : Bale → Bale) (s : State) : (modifyBale acre bale f s).alm = s.alm := rfl
@[simp] theorem modifyBale_mci (acre bale : Nat) (f : Bale → Bale) (s : State) : (modifyBale acre bale f s).mci = s.mci := rfl
@[simp] theorem modifyBale_vault (acre bale : Nat) (f : Bale → Bale) (s : State) : (modifyBale acre bale f s).vault = s.vault := rfl
@[simp] theorem modifyBale_thermal (acre bale : Nat) (f : Bale → Bale) (s : State) : (modifyBale acre bale f s).thermal = s.thermal := rfl
@[simp] theorem modifyBale_smbus (acre bale : Nat) (f : Bale → Bale) (s : State) : (modifyBale acre bale f s).smbus = s.smbus := rfl
@[simp] theorem modifyBale_jtag (acre bale : Nat) (f : Bale → Bale) (s : State) : (modifyBale acre bale f s).jtag = s.jtag := rfl
@[simp] theorem modifyBale_flash (acre bale : Nat) (f : Bale → Bale) (s : State) : (modifyBale acre bale f s).flash = s.flash := rfl
@[simp] theorem modifyBale_fw (acre bale : Nat) (f : Bale → Bale) (s : State) : (modifyBale acre bale f s).fw = s.fw := rfl
@[simp] theorem modifyBale_tines (acre bale : Nat) (f : Bale → Bale) (s : State) : (modifyBale acre bale f s).tines = s.tines := rfl
@[simp] theorem modifyBale_winnow (acre bale : Nat) (f : Bale → Bale) (s : State) : (modifyBale acre bale f s).winnow = s.winnow := rfl
@[simp] theorem modifyBale_voxca (acre bale : Nat) (f : Bale → Bale) (s : State) : (modifyBale acre bale f s).voxca = s.voxca := rfl
@[simp] theorem modifyBale_cipher (acre bale : Nat) (f : Bale → Bale) (s : State) : (modifyBale acre bale f s).cipher = s.cipher := rfl
@[simp] theorem modifyBale_mem (acre bale : Nat) (f : Bale → Bale) (s : State) : (modifyBale acre bale f s).mem = s.mem := rfl
@[simp] theorem modifyBale_granary (acre bale : Nat) (f : Bale → Bale) (s : State) : (modifyBale acre bale f s).granary = s.granary := rfl
@[simp] theorem modifyBale_dma (acre bale : Nat) (f : Bale → Bale) (s : State) : (modifyBale acre bale f s).dma = s.dma := rfl
@[simp] theorem modifyBale_map (acre bale : Nat) (f : Bale → Bale) (s : State) : (modifyBale acre bale f s).map = s.map := rfl
@[simp] theorem modifyBale_journal (acre bale : Nat) (f : Bale → Bale) (s : State) : (modifyBale acre bale f s).journal = s.journal := rfl
@[simp] theorem modifyBale_ingest (acre bale : Nat) (f : Bale → Bale) (s : State) : (modifyBale acre bale f s).ingest = s.ingest := rfl
@[simp] theorem modifyBale_media (acre bale : Nat) (f : Bale → Bale) (s : State) : (modifyBale acre bale f s).media = { s.media with bales := mapIf (fun b => b.acre == acre && b.bale == bale) f s.media.bales } := rfl
@[simp] theorem modifyBale_read (acre bale : Nat) (f : Bale → Bale) (s : State) : (modifyBale acre bale f s).read = s.read := rfl
@[simp] theorem modifyBale_furrow (acre bale : Nat) (f : Bale → Bale) (s : State) : (modifyBale acre bale f s).furrow = s.furrow := rfl
@[simp] theorem modifyBale_bridges (acre bale : Nat) (f : Bale → Bale) (s : State) : (modifyBale acre bale f s).bridges = s.bridges := rfl
@[simp] theorem modifyBale_headland (acre bale : Nat) (f : Bale → Bale) (s : State) : (modifyBale acre bale f s).headland = s.headland := rfl
@[simp] theorem modifyBale_repl (acre bale : Nat) (f : Bale → Bale) (s : State) : (modifyBale acre bale f s).repl = s.repl := rfl
@[simp] theorem modifyBale_ports (acre bale : Nat) (f : Bale → Bale) (s : State) : (modifyBale acre bale f s).ports = s.ports := rfl
@[simp] theorem modifyBale_nvme (acre bale : Nat) (f : Bale → Bale) (s : State) : (modifyBale acre bale f s).nvme = s.nvme := rfl
@[simp] theorem modifyBale_sheaf (acre bale : Nat) (f : Bale → Bale) (s : State) : (modifyBale acre bale f s).sheaf = s.sheaf := rfl
@[simp] theorem modifyBale_out (acre bale : Nat) (f : Bale → Bale) (s : State) : (modifyBale acre bale f s).out = s.out := rfl
@[simp] theorem modifyBale_genCount (acre bale : Nat) (f : Bale → Bale) (s : State) : (modifyBale acre bale f s).genCount = s.genCount := rfl
@[simp] theorem modifyBale_freeCount (acre bale : Nat) (f : Bale → Bale) (s : State) : (modifyBale acre bale f s).freeCount = s.freeCount := rfl
@[simp] theorem modifyBale_pending (acre bale : Nat) (f : Bale → Bale) (s : State) : (modifyBale acre bale f s).pending = s.pending := rfl

/-! ## `modifyAcre` -/

@[simp] theorem modifyAcre_time (n : Nat) (f : Acre → Acre) (s : State) : (modifyAcre n f s).time = s.time := rfl
@[simp] theorem modifyAcre_hsw (n : Nat) (f : Acre → Acre) (s : State) : (modifyAcre n f s).hsw = s.hsw := rfl
@[simp] theorem modifyAcre_boot (n : Nat) (f : Acre → Acre) (s : State) : (modifyAcre n f s).boot = s.boot := rfl
@[simp] theorem modifyAcre_alm (n : Nat) (f : Acre → Acre) (s : State) : (modifyAcre n f s).alm = s.alm := rfl
@[simp] theorem modifyAcre_mci (n : Nat) (f : Acre → Acre) (s : State) : (modifyAcre n f s).mci = s.mci := rfl
@[simp] theorem modifyAcre_vault (n : Nat) (f : Acre → Acre) (s : State) : (modifyAcre n f s).vault = s.vault := rfl
@[simp] theorem modifyAcre_thermal (n : Nat) (f : Acre → Acre) (s : State) : (modifyAcre n f s).thermal = s.thermal := rfl
@[simp] theorem modifyAcre_smbus (n : Nat) (f : Acre → Acre) (s : State) : (modifyAcre n f s).smbus = s.smbus := rfl
@[simp] theorem modifyAcre_jtag (n : Nat) (f : Acre → Acre) (s : State) : (modifyAcre n f s).jtag = s.jtag := rfl
@[simp] theorem modifyAcre_flash (n : Nat) (f : Acre → Acre) (s : State) : (modifyAcre n f s).flash = s.flash := rfl
@[simp] theorem modifyAcre_fw (n : Nat) (f : Acre → Acre) (s : State) : (modifyAcre n f s).fw = s.fw := rfl
@[simp] theorem modifyAcre_tines (n : Nat) (f : Acre → Acre) (s : State) : (modifyAcre n f s).tines = s.tines := rfl
@[simp] theorem modifyAcre_winnow (n : Nat) (f : Acre → Acre) (s : State) : (modifyAcre n f s).winnow = s.winnow := rfl
@[simp] theorem modifyAcre_voxca (n : Nat) (f : Acre → Acre) (s : State) : (modifyAcre n f s).voxca = s.voxca := rfl
@[simp] theorem modifyAcre_cipher (n : Nat) (f : Acre → Acre) (s : State) : (modifyAcre n f s).cipher = s.cipher := rfl
@[simp] theorem modifyAcre_mem (n : Nat) (f : Acre → Acre) (s : State) : (modifyAcre n f s).mem = s.mem := rfl
@[simp] theorem modifyAcre_granary (n : Nat) (f : Acre → Acre) (s : State) : (modifyAcre n f s).granary = s.granary := rfl
@[simp] theorem modifyAcre_dma (n : Nat) (f : Acre → Acre) (s : State) : (modifyAcre n f s).dma = s.dma := rfl
@[simp] theorem modifyAcre_map (n : Nat) (f : Acre → Acre) (s : State) : (modifyAcre n f s).map = s.map := rfl
@[simp] theorem modifyAcre_journal (n : Nat) (f : Acre → Acre) (s : State) : (modifyAcre n f s).journal = s.journal := rfl
@[simp] theorem modifyAcre_ingest (n : Nat) (f : Acre → Acre) (s : State) : (modifyAcre n f s).ingest = s.ingest := rfl
@[simp] theorem modifyAcre_media (n : Nat) (f : Acre → Acre) (s : State) : (modifyAcre n f s).media = { s.media with acres := mapIf (fun a => a.num == n) f s.media.acres } := rfl
@[simp] theorem modifyAcre_read (n : Nat) (f : Acre → Acre) (s : State) : (modifyAcre n f s).read = s.read := rfl
@[simp] theorem modifyAcre_furrow (n : Nat) (f : Acre → Acre) (s : State) : (modifyAcre n f s).furrow = s.furrow := rfl
@[simp] theorem modifyAcre_bridges (n : Nat) (f : Acre → Acre) (s : State) : (modifyAcre n f s).bridges = s.bridges := rfl
@[simp] theorem modifyAcre_headland (n : Nat) (f : Acre → Acre) (s : State) : (modifyAcre n f s).headland = s.headland := rfl
@[simp] theorem modifyAcre_repl (n : Nat) (f : Acre → Acre) (s : State) : (modifyAcre n f s).repl = s.repl := rfl
@[simp] theorem modifyAcre_ports (n : Nat) (f : Acre → Acre) (s : State) : (modifyAcre n f s).ports = s.ports := rfl
@[simp] theorem modifyAcre_nvme (n : Nat) (f : Acre → Acre) (s : State) : (modifyAcre n f s).nvme = s.nvme := rfl
@[simp] theorem modifyAcre_sheaf (n : Nat) (f : Acre → Acre) (s : State) : (modifyAcre n f s).sheaf = s.sheaf := rfl
@[simp] theorem modifyAcre_out (n : Nat) (f : Acre → Acre) (s : State) : (modifyAcre n f s).out = s.out := rfl
@[simp] theorem modifyAcre_genCount (n : Nat) (f : Acre → Acre) (s : State) : (modifyAcre n f s).genCount = s.genCount := rfl
@[simp] theorem modifyAcre_freeCount (n : Nat) (f : Acre → Acre) (s : State) : (modifyAcre n f s).freeCount = s.freeCount := rfl
@[simp] theorem modifyAcre_pending (n : Nat) (f : Acre → Acre) (s : State) : (modifyAcre n f s).pending = s.pending := rfl

/-! ## `modifyJob` -/

@[simp] theorem modifyJob_time (a : Nat) (f : ReclaimJob → ReclaimJob) (s : State) : (modifyJob a f s).time = s.time := rfl
@[simp] theorem modifyJob_hsw (a : Nat) (f : ReclaimJob → ReclaimJob) (s : State) : (modifyJob a f s).hsw = s.hsw := rfl
@[simp] theorem modifyJob_boot (a : Nat) (f : ReclaimJob → ReclaimJob) (s : State) : (modifyJob a f s).boot = s.boot := rfl
@[simp] theorem modifyJob_alm (a : Nat) (f : ReclaimJob → ReclaimJob) (s : State) : (modifyJob a f s).alm = s.alm := rfl
@[simp] theorem modifyJob_mci (a : Nat) (f : ReclaimJob → ReclaimJob) (s : State) : (modifyJob a f s).mci = s.mci := rfl
@[simp] theorem modifyJob_vault (a : Nat) (f : ReclaimJob → ReclaimJob) (s : State) : (modifyJob a f s).vault = s.vault := rfl
@[simp] theorem modifyJob_thermal (a : Nat) (f : ReclaimJob → ReclaimJob) (s : State) : (modifyJob a f s).thermal = s.thermal := rfl
@[simp] theorem modifyJob_smbus (a : Nat) (f : ReclaimJob → ReclaimJob) (s : State) : (modifyJob a f s).smbus = s.smbus := rfl
@[simp] theorem modifyJob_jtag (a : Nat) (f : ReclaimJob → ReclaimJob) (s : State) : (modifyJob a f s).jtag = s.jtag := rfl
@[simp] theorem modifyJob_flash (a : Nat) (f : ReclaimJob → ReclaimJob) (s : State) : (modifyJob a f s).flash = s.flash := rfl
@[simp] theorem modifyJob_fw (a : Nat) (f : ReclaimJob → ReclaimJob) (s : State) : (modifyJob a f s).fw = s.fw := rfl
@[simp] theorem modifyJob_tines (a : Nat) (f : ReclaimJob → ReclaimJob) (s : State) : (modifyJob a f s).tines = s.tines := rfl
@[simp] theorem modifyJob_winnow (a : Nat) (f : ReclaimJob → ReclaimJob) (s : State) : (modifyJob a f s).winnow = s.winnow := rfl
@[simp] theorem modifyJob_voxca (a : Nat) (f : ReclaimJob → ReclaimJob) (s : State) : (modifyJob a f s).voxca = s.voxca := rfl
@[simp] theorem modifyJob_cipher (a : Nat) (f : ReclaimJob → ReclaimJob) (s : State) : (modifyJob a f s).cipher = s.cipher := rfl
@[simp] theorem modifyJob_mem (a : Nat) (f : ReclaimJob → ReclaimJob) (s : State) : (modifyJob a f s).mem = s.mem := rfl
@[simp] theorem modifyJob_granary (a : Nat) (f : ReclaimJob → ReclaimJob) (s : State) : (modifyJob a f s).granary = s.granary := rfl
@[simp] theorem modifyJob_dma (a : Nat) (f : ReclaimJob → ReclaimJob) (s : State) : (modifyJob a f s).dma = s.dma := rfl
@[simp] theorem modifyJob_map (a : Nat) (f : ReclaimJob → ReclaimJob) (s : State) : (modifyJob a f s).map = s.map := rfl
@[simp] theorem modifyJob_journal (a : Nat) (f : ReclaimJob → ReclaimJob) (s : State) : (modifyJob a f s).journal = s.journal := rfl
@[simp] theorem modifyJob_ingest (a : Nat) (f : ReclaimJob → ReclaimJob) (s : State) : (modifyJob a f s).ingest = s.ingest := rfl
@[simp] theorem modifyJob_media (a : Nat) (f : ReclaimJob → ReclaimJob) (s : State) : (modifyJob a f s).media = { s.media with reclaims := mapIf (fun j => j.acre == a) f s.media.reclaims } := rfl
@[simp] theorem modifyJob_read (a : Nat) (f : ReclaimJob → ReclaimJob) (s : State) : (modifyJob a f s).read = s.read := rfl
@[simp] theorem modifyJob_furrow (a : Nat) (f : ReclaimJob → ReclaimJob) (s : State) : (modifyJob a f s).furrow = s.furrow := rfl
@[simp] theorem modifyJob_bridges (a : Nat) (f : ReclaimJob → ReclaimJob) (s : State) : (modifyJob a f s).bridges = s.bridges := rfl
@[simp] theorem modifyJob_headland (a : Nat) (f : ReclaimJob → ReclaimJob) (s : State) : (modifyJob a f s).headland = s.headland := rfl
@[simp] theorem modifyJob_repl (a : Nat) (f : ReclaimJob → ReclaimJob) (s : State) : (modifyJob a f s).repl = s.repl := rfl
@[simp] theorem modifyJob_ports (a : Nat) (f : ReclaimJob → ReclaimJob) (s : State) : (modifyJob a f s).ports = s.ports := rfl
@[simp] theorem modifyJob_nvme (a : Nat) (f : ReclaimJob → ReclaimJob) (s : State) : (modifyJob a f s).nvme = s.nvme := rfl
@[simp] theorem modifyJob_sheaf (a : Nat) (f : ReclaimJob → ReclaimJob) (s : State) : (modifyJob a f s).sheaf = s.sheaf := rfl
@[simp] theorem modifyJob_out (a : Nat) (f : ReclaimJob → ReclaimJob) (s : State) : (modifyJob a f s).out = s.out := rfl
@[simp] theorem modifyJob_genCount (a : Nat) (f : ReclaimJob → ReclaimJob) (s : State) : (modifyJob a f s).genCount = s.genCount := rfl
@[simp] theorem modifyJob_freeCount (a : Nat) (f : ReclaimJob → ReclaimJob) (s : State) : (modifyJob a f s).freeCount = s.freeCount := rfl
@[simp] theorem modifyJob_pending (a : Nat) (f : ReclaimJob → ReclaimJob) (s : State) : (modifyJob a f s).pending = s.pending := rfl

/-! ## `modifyQp` -/

@[simp] theorem modifyQp_time (q : Nat) (f : QpCtx → QpCtx) (s : State) : (modifyQp q f s).time = s.time := rfl
@[simp] theorem modifyQp_hsw (q : Nat) (f : QpCtx → QpCtx) (s : State) : (modifyQp q f s).hsw = s.hsw := rfl
@[simp] theorem modifyQp_boot (q : Nat) (f : QpCtx → QpCtx) (s : State) : (modifyQp q f s).boot = s.boot := rfl
@[simp] theorem modifyQp_alm (q : Nat) (f : QpCtx → QpCtx) (s : State) : (modifyQp q f s).alm = s.alm := rfl
@[simp] theorem modifyQp_mci (q : Nat) (f : QpCtx → QpCtx) (s : State) : (modifyQp q f s).mci = s.mci := rfl
@[simp] theorem modifyQp_vault (q : Nat) (f : QpCtx → QpCtx) (s : State) : (modifyQp q f s).vault = s.vault := rfl
@[simp] theorem modifyQp_thermal (q : Nat) (f : QpCtx → QpCtx) (s : State) : (modifyQp q f s).thermal = s.thermal := rfl
@[simp] theorem modifyQp_smbus (q : Nat) (f : QpCtx → QpCtx) (s : State) : (modifyQp q f s).smbus = s.smbus := rfl
@[simp] theorem modifyQp_jtag (q : Nat) (f : QpCtx → QpCtx) (s : State) : (modifyQp q f s).jtag = s.jtag := rfl
@[simp] theorem modifyQp_flash (q : Nat) (f : QpCtx → QpCtx) (s : State) : (modifyQp q f s).flash = s.flash := rfl
@[simp] theorem modifyQp_fw (q : Nat) (f : QpCtx → QpCtx) (s : State) : (modifyQp q f s).fw = s.fw := rfl
@[simp] theorem modifyQp_tines (q : Nat) (f : QpCtx → QpCtx) (s : State) : (modifyQp q f s).tines = s.tines := rfl
@[simp] theorem modifyQp_winnow (q : Nat) (f : QpCtx → QpCtx) (s : State) : (modifyQp q f s).winnow = s.winnow := rfl
@[simp] theorem modifyQp_voxca (q : Nat) (f : QpCtx → QpCtx) (s : State) : (modifyQp q f s).voxca = s.voxca := rfl
@[simp] theorem modifyQp_cipher (q : Nat) (f : QpCtx → QpCtx) (s : State) : (modifyQp q f s).cipher = s.cipher := rfl
@[simp] theorem modifyQp_mem (q : Nat) (f : QpCtx → QpCtx) (s : State) : (modifyQp q f s).mem = s.mem := rfl
@[simp] theorem modifyQp_granary (q : Nat) (f : QpCtx → QpCtx) (s : State) : (modifyQp q f s).granary = s.granary := rfl
@[simp] theorem modifyQp_dma (q : Nat) (f : QpCtx → QpCtx) (s : State) : (modifyQp q f s).dma = s.dma := rfl
@[simp] theorem modifyQp_map (q : Nat) (f : QpCtx → QpCtx) (s : State) : (modifyQp q f s).map = s.map := rfl
@[simp] theorem modifyQp_journal (q : Nat) (f : QpCtx → QpCtx) (s : State) : (modifyQp q f s).journal = s.journal := rfl
@[simp] theorem modifyQp_ingest (q : Nat) (f : QpCtx → QpCtx) (s : State) : (modifyQp q f s).ingest = s.ingest := rfl
@[simp] theorem modifyQp_media (q : Nat) (f : QpCtx → QpCtx) (s : State) : (modifyQp q f s).media = s.media := rfl
@[simp] theorem modifyQp_read (q : Nat) (f : QpCtx → QpCtx) (s : State) : (modifyQp q f s).read = s.read := rfl
@[simp] theorem modifyQp_furrow (q : Nat) (f : QpCtx → QpCtx) (s : State) : (modifyQp q f s).furrow = s.furrow := rfl
@[simp] theorem modifyQp_bridges (q : Nat) (f : QpCtx → QpCtx) (s : State) : (modifyQp q f s).bridges = s.bridges := rfl
@[simp] theorem modifyQp_headland (q : Nat) (f : QpCtx → QpCtx) (s : State) : (modifyQp q f s).headland = s.headland := rfl
@[simp] theorem modifyQp_repl (q : Nat) (f : QpCtx → QpCtx) (s : State) : (modifyQp q f s).repl = s.repl := rfl
@[simp] theorem modifyQp_nvme (q : Nat) (f : QpCtx → QpCtx) (s : State) : (modifyQp q f s).nvme = s.nvme := rfl
@[simp] theorem modifyQp_sheaf (q : Nat) (f : QpCtx → QpCtx) (s : State) : (modifyQp q f s).sheaf = s.sheaf := rfl
@[simp] theorem modifyQp_out (q : Nat) (f : QpCtx → QpCtx) (s : State) : (modifyQp q f s).out = s.out := rfl
@[simp] theorem modifyQp_genCount (q : Nat) (f : QpCtx → QpCtx) (s : State) : (modifyQp q f s).genCount = s.genCount := rfl
@[simp] theorem modifyQp_freeCount (q : Nat) (f : QpCtx → QpCtx) (s : State) : (modifyQp q f s).freeCount = s.freeCount := rfl
@[simp] theorem modifyQp_pending (q : Nat) (f : QpCtx → QpCtx) (s : State) : (modifyQp q f s).pending = s.pending := rfl

/-! ## `modifyLport` -/

@[simp] theorem modifyLport_time (l : Nat) (f : LogicalPort → LogicalPort) (s : State) : (modifyLport l f s).time = s.time := rfl
@[simp] theorem modifyLport_hsw (l : Nat) (f : LogicalPort → LogicalPort) (s : State) : (modifyLport l f s).hsw = s.hsw := rfl
@[simp] theorem modifyLport_boot (l : Nat) (f : LogicalPort → LogicalPort) (s : State) : (modifyLport l f s).boot = s.boot := rfl
@[simp] theorem modifyLport_alm (l : Nat) (f : LogicalPort → LogicalPort) (s : State) : (modifyLport l f s).alm = s.alm := rfl
@[simp] theorem modifyLport_mci (l : Nat) (f : LogicalPort → LogicalPort) (s : State) : (modifyLport l f s).mci = s.mci := rfl
@[simp] theorem modifyLport_vault (l : Nat) (f : LogicalPort → LogicalPort) (s : State) : (modifyLport l f s).vault = s.vault := rfl
@[simp] theorem modifyLport_thermal (l : Nat) (f : LogicalPort → LogicalPort) (s : State) : (modifyLport l f s).thermal = s.thermal := rfl
@[simp] theorem modifyLport_smbus (l : Nat) (f : LogicalPort → LogicalPort) (s : State) : (modifyLport l f s).smbus = s.smbus := rfl
@[simp] theorem modifyLport_jtag (l : Nat) (f : LogicalPort → LogicalPort) (s : State) : (modifyLport l f s).jtag = s.jtag := rfl
@[simp] theorem modifyLport_flash (l : Nat) (f : LogicalPort → LogicalPort) (s : State) : (modifyLport l f s).flash = s.flash := rfl
@[simp] theorem modifyLport_fw (l : Nat) (f : LogicalPort → LogicalPort) (s : State) : (modifyLport l f s).fw = s.fw := rfl
@[simp] theorem modifyLport_tines (l : Nat) (f : LogicalPort → LogicalPort) (s : State) : (modifyLport l f s).tines = s.tines := rfl
@[simp] theorem modifyLport_winnow (l : Nat) (f : LogicalPort → LogicalPort) (s : State) : (modifyLport l f s).winnow = s.winnow := rfl
@[simp] theorem modifyLport_voxca (l : Nat) (f : LogicalPort → LogicalPort) (s : State) : (modifyLport l f s).voxca = s.voxca := rfl
@[simp] theorem modifyLport_cipher (l : Nat) (f : LogicalPort → LogicalPort) (s : State) : (modifyLport l f s).cipher = s.cipher := rfl
@[simp] theorem modifyLport_mem (l : Nat) (f : LogicalPort → LogicalPort) (s : State) : (modifyLport l f s).mem = s.mem := rfl
@[simp] theorem modifyLport_granary (l : Nat) (f : LogicalPort → LogicalPort) (s : State) : (modifyLport l f s).granary = s.granary := rfl
@[simp] theorem modifyLport_dma (l : Nat) (f : LogicalPort → LogicalPort) (s : State) : (modifyLport l f s).dma = s.dma := rfl
@[simp] theorem modifyLport_map (l : Nat) (f : LogicalPort → LogicalPort) (s : State) : (modifyLport l f s).map = s.map := rfl
@[simp] theorem modifyLport_journal (l : Nat) (f : LogicalPort → LogicalPort) (s : State) : (modifyLport l f s).journal = s.journal := rfl
@[simp] theorem modifyLport_ingest (l : Nat) (f : LogicalPort → LogicalPort) (s : State) : (modifyLport l f s).ingest = s.ingest := rfl
@[simp] theorem modifyLport_media (l : Nat) (f : LogicalPort → LogicalPort) (s : State) : (modifyLport l f s).media = s.media := rfl
@[simp] theorem modifyLport_read (l : Nat) (f : LogicalPort → LogicalPort) (s : State) : (modifyLport l f s).read = s.read := rfl
@[simp] theorem modifyLport_furrow (l : Nat) (f : LogicalPort → LogicalPort) (s : State) : (modifyLport l f s).furrow = s.furrow := rfl
@[simp] theorem modifyLport_bridges (l : Nat) (f : LogicalPort → LogicalPort) (s : State) : (modifyLport l f s).bridges = s.bridges := rfl
@[simp] theorem modifyLport_headland (l : Nat) (f : LogicalPort → LogicalPort) (s : State) : (modifyLport l f s).headland = s.headland := rfl
@[simp] theorem modifyLport_repl (l : Nat) (f : LogicalPort → LogicalPort) (s : State) : (modifyLport l f s).repl = s.repl := rfl
@[simp] theorem modifyLport_nvme (l : Nat) (f : LogicalPort → LogicalPort) (s : State) : (modifyLport l f s).nvme = s.nvme := rfl
@[simp] theorem modifyLport_sheaf (l : Nat) (f : LogicalPort → LogicalPort) (s : State) : (modifyLport l f s).sheaf = s.sheaf := rfl
@[simp] theorem modifyLport_out (l : Nat) (f : LogicalPort → LogicalPort) (s : State) : (modifyLport l f s).out = s.out := rfl
@[simp] theorem modifyLport_genCount (l : Nat) (f : LogicalPort → LogicalPort) (s : State) : (modifyLport l f s).genCount = s.genCount := rfl
@[simp] theorem modifyLport_freeCount (l : Nat) (f : LogicalPort → LogicalPort) (s : State) : (modifyLport l f s).freeCount = s.freeCount := rfl
@[simp] theorem modifyLport_pending (l : Nat) (f : LogicalPort → LogicalPort) (s : State) : (modifyLport l f s).pending = s.pending := rfl

/-! ## `modifyZone` -/

@[simp] theorem modifyZone_time (z : Nat) (f : Zone → Zone) (s : State) : (modifyZone z f s).time = s.time := rfl
@[simp] theorem modifyZone_hsw (z : Nat) (f : Zone → Zone) (s : State) : (modifyZone z f s).hsw = s.hsw := rfl
@[simp] theorem modifyZone_boot (z : Nat) (f : Zone → Zone) (s : State) : (modifyZone z f s).boot = s.boot := rfl
@[simp] theorem modifyZone_alm (z : Nat) (f : Zone → Zone) (s : State) : (modifyZone z f s).alm = s.alm := rfl
@[simp] theorem modifyZone_mci (z : Nat) (f : Zone → Zone) (s : State) : (modifyZone z f s).mci = s.mci := rfl
@[simp] theorem modifyZone_vault (z : Nat) (f : Zone → Zone) (s : State) : (modifyZone z f s).vault = s.vault := rfl
@[simp] theorem modifyZone_thermal (z : Nat) (f : Zone → Zone) (s : State) : (modifyZone z f s).thermal = s.thermal := rfl
@[simp] theorem modifyZone_smbus (z : Nat) (f : Zone → Zone) (s : State) : (modifyZone z f s).smbus = s.smbus := rfl
@[simp] theorem modifyZone_jtag (z : Nat) (f : Zone → Zone) (s : State) : (modifyZone z f s).jtag = s.jtag := rfl
@[simp] theorem modifyZone_flash (z : Nat) (f : Zone → Zone) (s : State) : (modifyZone z f s).flash = s.flash := rfl
@[simp] theorem modifyZone_fw (z : Nat) (f : Zone → Zone) (s : State) : (modifyZone z f s).fw = s.fw := rfl
@[simp] theorem modifyZone_tines (z : Nat) (f : Zone → Zone) (s : State) : (modifyZone z f s).tines = s.tines := rfl
@[simp] theorem modifyZone_winnow (z : Nat) (f : Zone → Zone) (s : State) : (modifyZone z f s).winnow = s.winnow := rfl
@[simp] theorem modifyZone_voxca (z : Nat) (f : Zone → Zone) (s : State) : (modifyZone z f s).voxca = s.voxca := rfl
@[simp] theorem modifyZone_cipher (z : Nat) (f : Zone → Zone) (s : State) : (modifyZone z f s).cipher = s.cipher := rfl
@[simp] theorem modifyZone_mem (z : Nat) (f : Zone → Zone) (s : State) : (modifyZone z f s).mem = s.mem := rfl
@[simp] theorem modifyZone_granary (z : Nat) (f : Zone → Zone) (s : State) : (modifyZone z f s).granary = s.granary := rfl
@[simp] theorem modifyZone_dma (z : Nat) (f : Zone → Zone) (s : State) : (modifyZone z f s).dma = s.dma := rfl
@[simp] theorem modifyZone_map (z : Nat) (f : Zone → Zone) (s : State) : (modifyZone z f s).map = s.map := rfl
@[simp] theorem modifyZone_journal (z : Nat) (f : Zone → Zone) (s : State) : (modifyZone z f s).journal = s.journal := rfl
@[simp] theorem modifyZone_ingest (z : Nat) (f : Zone → Zone) (s : State) : (modifyZone z f s).ingest = s.ingest := rfl
@[simp] theorem modifyZone_media (z : Nat) (f : Zone → Zone) (s : State) : (modifyZone z f s).media = s.media := rfl
@[simp] theorem modifyZone_read (z : Nat) (f : Zone → Zone) (s : State) : (modifyZone z f s).read = s.read := rfl
@[simp] theorem modifyZone_furrow (z : Nat) (f : Zone → Zone) (s : State) : (modifyZone z f s).furrow = s.furrow := rfl
@[simp] theorem modifyZone_bridges (z : Nat) (f : Zone → Zone) (s : State) : (modifyZone z f s).bridges = s.bridges := rfl
@[simp] theorem modifyZone_headland (z : Nat) (f : Zone → Zone) (s : State) : (modifyZone z f s).headland = s.headland := rfl
@[simp] theorem modifyZone_repl (z : Nat) (f : Zone → Zone) (s : State) : (modifyZone z f s).repl = s.repl := rfl
@[simp] theorem modifyZone_nvme (z : Nat) (f : Zone → Zone) (s : State) : (modifyZone z f s).nvme = s.nvme := rfl
@[simp] theorem modifyZone_sheaf (z : Nat) (f : Zone → Zone) (s : State) : (modifyZone z f s).sheaf = s.sheaf := rfl
@[simp] theorem modifyZone_out (z : Nat) (f : Zone → Zone) (s : State) : (modifyZone z f s).out = s.out := rfl
@[simp] theorem modifyZone_genCount (z : Nat) (f : Zone → Zone) (s : State) : (modifyZone z f s).genCount = s.genCount := rfl
@[simp] theorem modifyZone_freeCount (z : Nat) (f : Zone → Zone) (s : State) : (modifyZone z f s).freeCount = s.freeCount := rfl
@[simp] theorem modifyZone_pending (z : Nat) (f : Zone → Zone) (s : State) : (modifyZone z f s).pending = s.pending := rfl

/-! ## `modifyNvQueue` -/

@[simp] theorem modifyNvQueue_time (qp : Nat) (f : NvmeQueue → NvmeQueue) (s : State) : (modifyNvQueue qp f s).time = s.time := rfl
@[simp] theorem modifyNvQueue_hsw (qp : Nat) (f : NvmeQueue → NvmeQueue) (s : State) : (modifyNvQueue qp f s).hsw = s.hsw := rfl
@[simp] theorem modifyNvQueue_boot (qp : Nat) (f : NvmeQueue → NvmeQueue) (s : State) : (modifyNvQueue qp f s).boot = s.boot := rfl
@[simp] theorem modifyNvQueue_alm (qp : Nat) (f : NvmeQueue → NvmeQueue) (s : State) : (modifyNvQueue qp f s).alm = s.alm := rfl
@[simp] theorem modifyNvQueue_mci (qp : Nat) (f : NvmeQueue → NvmeQueue) (s : State) : (modifyNvQueue qp f s).mci = s.mci := rfl
@[simp] theorem modifyNvQueue_vault (qp : Nat) (f : NvmeQueue → NvmeQueue) (s : State) : (modifyNvQueue qp f s).vault = s.vault := rfl
@[simp] theorem modifyNvQueue_thermal (qp : Nat) (f : NvmeQueue → NvmeQueue) (s : State) : (modifyNvQueue qp f s).thermal = s.thermal := rfl
@[simp] theorem modifyNvQueue_smbus (qp : Nat) (f : NvmeQueue → NvmeQueue) (s : State) : (modifyNvQueue qp f s).smbus = s.smbus := rfl
@[simp] theorem modifyNvQueue_jtag (qp : Nat) (f : NvmeQueue → NvmeQueue) (s : State) : (modifyNvQueue qp f s).jtag = s.jtag := rfl
@[simp] theorem modifyNvQueue_flash (qp : Nat) (f : NvmeQueue → NvmeQueue) (s : State) : (modifyNvQueue qp f s).flash = s.flash := rfl
@[simp] theorem modifyNvQueue_fw (qp : Nat) (f : NvmeQueue → NvmeQueue) (s : State) : (modifyNvQueue qp f s).fw = s.fw := rfl
@[simp] theorem modifyNvQueue_tines (qp : Nat) (f : NvmeQueue → NvmeQueue) (s : State) : (modifyNvQueue qp f s).tines = s.tines := rfl
@[simp] theorem modifyNvQueue_winnow (qp : Nat) (f : NvmeQueue → NvmeQueue) (s : State) : (modifyNvQueue qp f s).winnow = s.winnow := rfl
@[simp] theorem modifyNvQueue_voxca (qp : Nat) (f : NvmeQueue → NvmeQueue) (s : State) : (modifyNvQueue qp f s).voxca = s.voxca := rfl
@[simp] theorem modifyNvQueue_cipher (qp : Nat) (f : NvmeQueue → NvmeQueue) (s : State) : (modifyNvQueue qp f s).cipher = s.cipher := rfl
@[simp] theorem modifyNvQueue_mem (qp : Nat) (f : NvmeQueue → NvmeQueue) (s : State) : (modifyNvQueue qp f s).mem = s.mem := rfl
@[simp] theorem modifyNvQueue_granary (qp : Nat) (f : NvmeQueue → NvmeQueue) (s : State) : (modifyNvQueue qp f s).granary = s.granary := rfl
@[simp] theorem modifyNvQueue_dma (qp : Nat) (f : NvmeQueue → NvmeQueue) (s : State) : (modifyNvQueue qp f s).dma = s.dma := rfl
@[simp] theorem modifyNvQueue_map (qp : Nat) (f : NvmeQueue → NvmeQueue) (s : State) : (modifyNvQueue qp f s).map = s.map := rfl
@[simp] theorem modifyNvQueue_journal (qp : Nat) (f : NvmeQueue → NvmeQueue) (s : State) : (modifyNvQueue qp f s).journal = s.journal := rfl
@[simp] theorem modifyNvQueue_ingest (qp : Nat) (f : NvmeQueue → NvmeQueue) (s : State) : (modifyNvQueue qp f s).ingest = s.ingest := rfl
@[simp] theorem modifyNvQueue_media (qp : Nat) (f : NvmeQueue → NvmeQueue) (s : State) : (modifyNvQueue qp f s).media = s.media := rfl
@[simp] theorem modifyNvQueue_read (qp : Nat) (f : NvmeQueue → NvmeQueue) (s : State) : (modifyNvQueue qp f s).read = s.read := rfl
@[simp] theorem modifyNvQueue_furrow (qp : Nat) (f : NvmeQueue → NvmeQueue) (s : State) : (modifyNvQueue qp f s).furrow = s.furrow := rfl
@[simp] theorem modifyNvQueue_bridges (qp : Nat) (f : NvmeQueue → NvmeQueue) (s : State) : (modifyNvQueue qp f s).bridges = s.bridges := rfl
@[simp] theorem modifyNvQueue_headland (qp : Nat) (f : NvmeQueue → NvmeQueue) (s : State) : (modifyNvQueue qp f s).headland = s.headland := rfl
@[simp] theorem modifyNvQueue_repl (qp : Nat) (f : NvmeQueue → NvmeQueue) (s : State) : (modifyNvQueue qp f s).repl = s.repl := rfl
@[simp] theorem modifyNvQueue_ports (qp : Nat) (f : NvmeQueue → NvmeQueue) (s : State) : (modifyNvQueue qp f s).ports = s.ports := rfl
@[simp] theorem modifyNvQueue_sheaf (qp : Nat) (f : NvmeQueue → NvmeQueue) (s : State) : (modifyNvQueue qp f s).sheaf = s.sheaf := rfl
@[simp] theorem modifyNvQueue_out (qp : Nat) (f : NvmeQueue → NvmeQueue) (s : State) : (modifyNvQueue qp f s).out = s.out := rfl
@[simp] theorem modifyNvQueue_genCount (qp : Nat) (f : NvmeQueue → NvmeQueue) (s : State) : (modifyNvQueue qp f s).genCount = s.genCount := rfl
@[simp] theorem modifyNvQueue_freeCount (qp : Nat) (f : NvmeQueue → NvmeQueue) (s : State) : (modifyNvQueue qp f s).freeCount = s.freeCount := rfl
@[simp] theorem modifyNvQueue_pending (qp : Nat) (f : NvmeQueue → NvmeQueue) (s : State) : (modifyNvQueue qp f s).pending = s.pending := rfl

/-! ## `modifyCtrl` -/

@[simp] theorem modifyCtrl_time (id : Nat) (f : Controller → Controller) (s : State) : (modifyCtrl id f s).time = s.time := rfl
@[simp] theorem modifyCtrl_hsw (id : Nat) (f : Controller → Controller) (s : State) : (modifyCtrl id f s).hsw = s.hsw := rfl
@[simp] theorem modifyCtrl_boot (id : Nat) (f : Controller → Controller) (s : State) : (modifyCtrl id f s).boot = s.boot := rfl
@[simp] theorem modifyCtrl_alm (id : Nat) (f : Controller → Controller) (s : State) : (modifyCtrl id f s).alm = s.alm := rfl
@[simp] theorem modifyCtrl_mci (id : Nat) (f : Controller → Controller) (s : State) : (modifyCtrl id f s).mci = s.mci := rfl
@[simp] theorem modifyCtrl_vault (id : Nat) (f : Controller → Controller) (s : State) : (modifyCtrl id f s).vault = s.vault := rfl
@[simp] theorem modifyCtrl_thermal (id : Nat) (f : Controller → Controller) (s : State) : (modifyCtrl id f s).thermal = s.thermal := rfl
@[simp] theorem modifyCtrl_smbus (id : Nat) (f : Controller → Controller) (s : State) : (modifyCtrl id f s).smbus = s.smbus := rfl
@[simp] theorem modifyCtrl_jtag (id : Nat) (f : Controller → Controller) (s : State) : (modifyCtrl id f s).jtag = s.jtag := rfl
@[simp] theorem modifyCtrl_flash (id : Nat) (f : Controller → Controller) (s : State) : (modifyCtrl id f s).flash = s.flash := rfl
@[simp] theorem modifyCtrl_fw (id : Nat) (f : Controller → Controller) (s : State) : (modifyCtrl id f s).fw = s.fw := rfl
@[simp] theorem modifyCtrl_tines (id : Nat) (f : Controller → Controller) (s : State) : (modifyCtrl id f s).tines = s.tines := rfl
@[simp] theorem modifyCtrl_winnow (id : Nat) (f : Controller → Controller) (s : State) : (modifyCtrl id f s).winnow = s.winnow := rfl
@[simp] theorem modifyCtrl_voxca (id : Nat) (f : Controller → Controller) (s : State) : (modifyCtrl id f s).voxca = s.voxca := rfl
@[simp] theorem modifyCtrl_cipher (id : Nat) (f : Controller → Controller) (s : State) : (modifyCtrl id f s).cipher = s.cipher := rfl
@[simp] theorem modifyCtrl_mem (id : Nat) (f : Controller → Controller) (s : State) : (modifyCtrl id f s).mem = s.mem := rfl
@[simp] theorem modifyCtrl_granary (id : Nat) (f : Controller → Controller) (s : State) : (modifyCtrl id f s).granary = s.granary := rfl
@[simp] theorem modifyCtrl_dma (id : Nat) (f : Controller → Controller) (s : State) : (modifyCtrl id f s).dma = s.dma := rfl
@[simp] theorem modifyCtrl_map (id : Nat) (f : Controller → Controller) (s : State) : (modifyCtrl id f s).map = s.map := rfl
@[simp] theorem modifyCtrl_journal (id : Nat) (f : Controller → Controller) (s : State) : (modifyCtrl id f s).journal = s.journal := rfl
@[simp] theorem modifyCtrl_ingest (id : Nat) (f : Controller → Controller) (s : State) : (modifyCtrl id f s).ingest = s.ingest := rfl
@[simp] theorem modifyCtrl_media (id : Nat) (f : Controller → Controller) (s : State) : (modifyCtrl id f s).media = s.media := rfl
@[simp] theorem modifyCtrl_read (id : Nat) (f : Controller → Controller) (s : State) : (modifyCtrl id f s).read = s.read := rfl
@[simp] theorem modifyCtrl_furrow (id : Nat) (f : Controller → Controller) (s : State) : (modifyCtrl id f s).furrow = s.furrow := rfl
@[simp] theorem modifyCtrl_bridges (id : Nat) (f : Controller → Controller) (s : State) : (modifyCtrl id f s).bridges = s.bridges := rfl
@[simp] theorem modifyCtrl_headland (id : Nat) (f : Controller → Controller) (s : State) : (modifyCtrl id f s).headland = s.headland := rfl
@[simp] theorem modifyCtrl_repl (id : Nat) (f : Controller → Controller) (s : State) : (modifyCtrl id f s).repl = s.repl := rfl
@[simp] theorem modifyCtrl_ports (id : Nat) (f : Controller → Controller) (s : State) : (modifyCtrl id f s).ports = s.ports := rfl
@[simp] theorem modifyCtrl_sheaf (id : Nat) (f : Controller → Controller) (s : State) : (modifyCtrl id f s).sheaf = s.sheaf := rfl
@[simp] theorem modifyCtrl_out (id : Nat) (f : Controller → Controller) (s : State) : (modifyCtrl id f s).out = s.out := rfl
@[simp] theorem modifyCtrl_genCount (id : Nat) (f : Controller → Controller) (s : State) : (modifyCtrl id f s).genCount = s.genCount := rfl
@[simp] theorem modifyCtrl_freeCount (id : Nat) (f : Controller → Controller) (s : State) : (modifyCtrl id f s).freeCount = s.freeCount := rfl
@[simp] theorem modifyCtrl_pending (id : Nat) (f : Controller → Controller) (s : State) : (modifyCtrl id f s).pending = s.pending := rfl

/-! ## `modifyNvCmd` -/

@[simp] theorem modifyNvCmd_time (qp cid : Nat) (f : NvmeCmd → NvmeCmd) (s : State) : (modifyNvCmd qp cid f s).time = s.time := rfl
@[simp] theorem modifyNvCmd_hsw (qp cid : Nat) (f : NvmeCmd → NvmeCmd) (s : State) : (modifyNvCmd qp cid f s).hsw = s.hsw := rfl
@[simp] theorem modifyNvCmd_boot (qp cid : Nat) (f : NvmeCmd → NvmeCmd) (s : State) : (modifyNvCmd qp cid f s).boot = s.boot := rfl
@[simp] theorem modifyNvCmd_alm (qp cid : Nat) (f : NvmeCmd → NvmeCmd) (s : State) : (modifyNvCmd qp cid f s).alm = s.alm := rfl
@[simp] theorem modifyNvCmd_mci (qp cid : Nat) (f : NvmeCmd → NvmeCmd) (s : State) : (modifyNvCmd qp cid f s).mci = s.mci := rfl
@[simp] theorem modifyNvCmd_vault (qp cid : Nat) (f : NvmeCmd → NvmeCmd) (s : State) : (modifyNvCmd qp cid f s).vault = s.vault := rfl
@[simp] theorem modifyNvCmd_thermal (qp cid : Nat) (f : NvmeCmd → NvmeCmd) (s : State) : (modifyNvCmd qp cid f s).thermal = s.thermal := rfl
@[simp] theorem modifyNvCmd_smbus (qp cid : Nat) (f : NvmeCmd → NvmeCmd) (s : State) : (modifyNvCmd qp cid f s).smbus = s.smbus := rfl
@[simp] theorem modifyNvCmd_jtag (qp cid : Nat) (f : NvmeCmd → NvmeCmd) (s : State) : (modifyNvCmd qp cid f s).jtag = s.jtag := rfl
@[simp] theorem modifyNvCmd_flash (qp cid : Nat) (f : NvmeCmd → NvmeCmd) (s : State) : (modifyNvCmd qp cid f s).flash = s.flash := rfl
@[simp] theorem modifyNvCmd_fw (qp cid : Nat) (f : NvmeCmd → NvmeCmd) (s : State) : (modifyNvCmd qp cid f s).fw = s.fw := rfl
@[simp] theorem modifyNvCmd_tines (qp cid : Nat) (f : NvmeCmd → NvmeCmd) (s : State) : (modifyNvCmd qp cid f s).tines = s.tines := rfl
@[simp] theorem modifyNvCmd_winnow (qp cid : Nat) (f : NvmeCmd → NvmeCmd) (s : State) : (modifyNvCmd qp cid f s).winnow = s.winnow := rfl
@[simp] theorem modifyNvCmd_voxca (qp cid : Nat) (f : NvmeCmd → NvmeCmd) (s : State) : (modifyNvCmd qp cid f s).voxca = s.voxca := rfl
@[simp] theorem modifyNvCmd_cipher (qp cid : Nat) (f : NvmeCmd → NvmeCmd) (s : State) : (modifyNvCmd qp cid f s).cipher = s.cipher := rfl
@[simp] theorem modifyNvCmd_mem (qp cid : Nat) (f : NvmeCmd → NvmeCmd) (s : State) : (modifyNvCmd qp cid f s).mem = s.mem := rfl
@[simp] theorem modifyNvCmd_granary (qp cid : Nat) (f : NvmeCmd → NvmeCmd) (s : State) : (modifyNvCmd qp cid f s).granary = s.granary := rfl
@[simp] theorem modifyNvCmd_dma (qp cid : Nat) (f : NvmeCmd → NvmeCmd) (s : State) : (modifyNvCmd qp cid f s).dma = s.dma := rfl
@[simp] theorem modifyNvCmd_map (qp cid : Nat) (f : NvmeCmd → NvmeCmd) (s : State) : (modifyNvCmd qp cid f s).map = s.map := rfl
@[simp] theorem modifyNvCmd_journal (qp cid : Nat) (f : NvmeCmd → NvmeCmd) (s : State) : (modifyNvCmd qp cid f s).journal = s.journal := rfl
@[simp] theorem modifyNvCmd_ingest (qp cid : Nat) (f : NvmeCmd → NvmeCmd) (s : State) : (modifyNvCmd qp cid f s).ingest = s.ingest := rfl
@[simp] theorem modifyNvCmd_media (qp cid : Nat) (f : NvmeCmd → NvmeCmd) (s : State) : (modifyNvCmd qp cid f s).media = s.media := rfl
@[simp] theorem modifyNvCmd_read (qp cid : Nat) (f : NvmeCmd → NvmeCmd) (s : State) : (modifyNvCmd qp cid f s).read = s.read := rfl
@[simp] theorem modifyNvCmd_furrow (qp cid : Nat) (f : NvmeCmd → NvmeCmd) (s : State) : (modifyNvCmd qp cid f s).furrow = s.furrow := rfl
@[simp] theorem modifyNvCmd_bridges (qp cid : Nat) (f : NvmeCmd → NvmeCmd) (s : State) : (modifyNvCmd qp cid f s).bridges = s.bridges := rfl
@[simp] theorem modifyNvCmd_headland (qp cid : Nat) (f : NvmeCmd → NvmeCmd) (s : State) : (modifyNvCmd qp cid f s).headland = s.headland := rfl
@[simp] theorem modifyNvCmd_repl (qp cid : Nat) (f : NvmeCmd → NvmeCmd) (s : State) : (modifyNvCmd qp cid f s).repl = s.repl := rfl
@[simp] theorem modifyNvCmd_ports (qp cid : Nat) (f : NvmeCmd → NvmeCmd) (s : State) : (modifyNvCmd qp cid f s).ports = s.ports := rfl
@[simp] theorem modifyNvCmd_sheaf (qp cid : Nat) (f : NvmeCmd → NvmeCmd) (s : State) : (modifyNvCmd qp cid f s).sheaf = s.sheaf := rfl
@[simp] theorem modifyNvCmd_out (qp cid : Nat) (f : NvmeCmd → NvmeCmd) (s : State) : (modifyNvCmd qp cid f s).out = s.out := rfl
@[simp] theorem modifyNvCmd_genCount (qp cid : Nat) (f : NvmeCmd → NvmeCmd) (s : State) : (modifyNvCmd qp cid f s).genCount = s.genCount := rfl
@[simp] theorem modifyNvCmd_freeCount (qp cid : Nat) (f : NvmeCmd → NvmeCmd) (s : State) : (modifyNvCmd qp cid f s).freeCount = s.freeCount := rfl
@[simp] theorem modifyNvCmd_pending (qp cid : Nat) (f : NvmeCmd → NvmeCmd) (s : State) : (modifyNvCmd qp cid f s).pending = s.pending := rfl

/-! ## `modifyConn` -/

@[simp] theorem modifyConn_time (qp : Nat) (f : SheafConn → SheafConn) (s : State) : (modifyConn qp f s).time = s.time := rfl
@[simp] theorem modifyConn_hsw (qp : Nat) (f : SheafConn → SheafConn) (s : State) : (modifyConn qp f s).hsw = s.hsw := rfl
@[simp] theorem modifyConn_boot (qp : Nat) (f : SheafConn → SheafConn) (s : State) : (modifyConn qp f s).boot = s.boot := rfl
@[simp] theorem modifyConn_alm (qp : Nat) (f : SheafConn → SheafConn) (s : State) : (modifyConn qp f s).alm = s.alm := rfl
@[simp] theorem modifyConn_mci (qp : Nat) (f : SheafConn → SheafConn) (s : State) : (modifyConn qp f s).mci = s.mci := rfl
@[simp] theorem modifyConn_vault (qp : Nat) (f : SheafConn → SheafConn) (s : State) : (modifyConn qp f s).vault = s.vault := rfl
@[simp] theorem modifyConn_thermal (qp : Nat) (f : SheafConn → SheafConn) (s : State) : (modifyConn qp f s).thermal = s.thermal := rfl
@[simp] theorem modifyConn_smbus (qp : Nat) (f : SheafConn → SheafConn) (s : State) : (modifyConn qp f s).smbus = s.smbus := rfl
@[simp] theorem modifyConn_jtag (qp : Nat) (f : SheafConn → SheafConn) (s : State) : (modifyConn qp f s).jtag = s.jtag := rfl
@[simp] theorem modifyConn_flash (qp : Nat) (f : SheafConn → SheafConn) (s : State) : (modifyConn qp f s).flash = s.flash := rfl
@[simp] theorem modifyConn_fw (qp : Nat) (f : SheafConn → SheafConn) (s : State) : (modifyConn qp f s).fw = s.fw := rfl
@[simp] theorem modifyConn_tines (qp : Nat) (f : SheafConn → SheafConn) (s : State) : (modifyConn qp f s).tines = s.tines := rfl
@[simp] theorem modifyConn_winnow (qp : Nat) (f : SheafConn → SheafConn) (s : State) : (modifyConn qp f s).winnow = s.winnow := rfl
@[simp] theorem modifyConn_voxca (qp : Nat) (f : SheafConn → SheafConn) (s : State) : (modifyConn qp f s).voxca = s.voxca := rfl
@[simp] theorem modifyConn_cipher (qp : Nat) (f : SheafConn → SheafConn) (s : State) : (modifyConn qp f s).cipher = s.cipher := rfl
@[simp] theorem modifyConn_mem (qp : Nat) (f : SheafConn → SheafConn) (s : State) : (modifyConn qp f s).mem = s.mem := rfl
@[simp] theorem modifyConn_granary (qp : Nat) (f : SheafConn → SheafConn) (s : State) : (modifyConn qp f s).granary = s.granary := rfl
@[simp] theorem modifyConn_dma (qp : Nat) (f : SheafConn → SheafConn) (s : State) : (modifyConn qp f s).dma = s.dma := rfl
@[simp] theorem modifyConn_map (qp : Nat) (f : SheafConn → SheafConn) (s : State) : (modifyConn qp f s).map = s.map := rfl
@[simp] theorem modifyConn_journal (qp : Nat) (f : SheafConn → SheafConn) (s : State) : (modifyConn qp f s).journal = s.journal := rfl
@[simp] theorem modifyConn_ingest (qp : Nat) (f : SheafConn → SheafConn) (s : State) : (modifyConn qp f s).ingest = s.ingest := rfl
@[simp] theorem modifyConn_media (qp : Nat) (f : SheafConn → SheafConn) (s : State) : (modifyConn qp f s).media = s.media := rfl
@[simp] theorem modifyConn_read (qp : Nat) (f : SheafConn → SheafConn) (s : State) : (modifyConn qp f s).read = s.read := rfl
@[simp] theorem modifyConn_furrow (qp : Nat) (f : SheafConn → SheafConn) (s : State) : (modifyConn qp f s).furrow = s.furrow := rfl
@[simp] theorem modifyConn_bridges (qp : Nat) (f : SheafConn → SheafConn) (s : State) : (modifyConn qp f s).bridges = s.bridges := rfl
@[simp] theorem modifyConn_headland (qp : Nat) (f : SheafConn → SheafConn) (s : State) : (modifyConn qp f s).headland = s.headland := rfl
@[simp] theorem modifyConn_repl (qp : Nat) (f : SheafConn → SheafConn) (s : State) : (modifyConn qp f s).repl = s.repl := rfl
@[simp] theorem modifyConn_ports (qp : Nat) (f : SheafConn → SheafConn) (s : State) : (modifyConn qp f s).ports = s.ports := rfl
@[simp] theorem modifyConn_nvme (qp : Nat) (f : SheafConn → SheafConn) (s : State) : (modifyConn qp f s).nvme = s.nvme := rfl
@[simp] theorem modifyConn_out (qp : Nat) (f : SheafConn → SheafConn) (s : State) : (modifyConn qp f s).out = s.out := rfl
@[simp] theorem modifyConn_genCount (qp : Nat) (f : SheafConn → SheafConn) (s : State) : (modifyConn qp f s).genCount = s.genCount := rfl
@[simp] theorem modifyConn_freeCount (qp : Nat) (f : SheafConn → SheafConn) (s : State) : (modifyConn qp f s).freeCount = s.freeCount := rfl
@[simp] theorem modifyConn_pending (qp : Nat) (f : SheafConn → SheafConn) (s : State) : (modifyConn qp f s).pending = s.pending := rfl

/-! ## `modifyPut` -/

@[simp] theorem modifyPut_time (qp id : Nat) (f : Put → Put) (s : State) : (modifyPut qp id f s).time = s.time := rfl
@[simp] theorem modifyPut_hsw (qp id : Nat) (f : Put → Put) (s : State) : (modifyPut qp id f s).hsw = s.hsw := rfl
@[simp] theorem modifyPut_boot (qp id : Nat) (f : Put → Put) (s : State) : (modifyPut qp id f s).boot = s.boot := rfl
@[simp] theorem modifyPut_alm (qp id : Nat) (f : Put → Put) (s : State) : (modifyPut qp id f s).alm = s.alm := rfl
@[simp] theorem modifyPut_mci (qp id : Nat) (f : Put → Put) (s : State) : (modifyPut qp id f s).mci = s.mci := rfl
@[simp] theorem modifyPut_vault (qp id : Nat) (f : Put → Put) (s : State) : (modifyPut qp id f s).vault = s.vault := rfl
@[simp] theorem modifyPut_thermal (qp id : Nat) (f : Put → Put) (s : State) : (modifyPut qp id f s).thermal = s.thermal := rfl
@[simp] theorem modifyPut_smbus (qp id : Nat) (f : Put → Put) (s : State) : (modifyPut qp id f s).smbus = s.smbus := rfl
@[simp] theorem modifyPut_jtag (qp id : Nat) (f : Put → Put) (s : State) : (modifyPut qp id f s).jtag = s.jtag := rfl
@[simp] theorem modifyPut_flash (qp id : Nat) (f : Put → Put) (s : State) : (modifyPut qp id f s).flash = s.flash := rfl
@[simp] theorem modifyPut_fw (qp id : Nat) (f : Put → Put) (s : State) : (modifyPut qp id f s).fw = s.fw := rfl
@[simp] theorem modifyPut_tines (qp id : Nat) (f : Put → Put) (s : State) : (modifyPut qp id f s).tines = s.tines := rfl
@[simp] theorem modifyPut_winnow (qp id : Nat) (f : Put → Put) (s : State) : (modifyPut qp id f s).winnow = s.winnow := rfl
@[simp] theorem modifyPut_voxca (qp id : Nat) (f : Put → Put) (s : State) : (modifyPut qp id f s).voxca = s.voxca := rfl
@[simp] theorem modifyPut_cipher (qp id : Nat) (f : Put → Put) (s : State) : (modifyPut qp id f s).cipher = s.cipher := rfl
@[simp] theorem modifyPut_mem (qp id : Nat) (f : Put → Put) (s : State) : (modifyPut qp id f s).mem = s.mem := rfl
@[simp] theorem modifyPut_granary (qp id : Nat) (f : Put → Put) (s : State) : (modifyPut qp id f s).granary = s.granary := rfl
@[simp] theorem modifyPut_dma (qp id : Nat) (f : Put → Put) (s : State) : (modifyPut qp id f s).dma = s.dma := rfl
@[simp] theorem modifyPut_map (qp id : Nat) (f : Put → Put) (s : State) : (modifyPut qp id f s).map = s.map := rfl
@[simp] theorem modifyPut_journal (qp id : Nat) (f : Put → Put) (s : State) : (modifyPut qp id f s).journal = s.journal := rfl
@[simp] theorem modifyPut_ingest (qp id : Nat) (f : Put → Put) (s : State) : (modifyPut qp id f s).ingest = s.ingest := rfl
@[simp] theorem modifyPut_media (qp id : Nat) (f : Put → Put) (s : State) : (modifyPut qp id f s).media = s.media := rfl
@[simp] theorem modifyPut_read (qp id : Nat) (f : Put → Put) (s : State) : (modifyPut qp id f s).read = s.read := rfl
@[simp] theorem modifyPut_furrow (qp id : Nat) (f : Put → Put) (s : State) : (modifyPut qp id f s).furrow = s.furrow := rfl
@[simp] theorem modifyPut_bridges (qp id : Nat) (f : Put → Put) (s : State) : (modifyPut qp id f s).bridges = s.bridges := rfl
@[simp] theorem modifyPut_headland (qp id : Nat) (f : Put → Put) (s : State) : (modifyPut qp id f s).headland = s.headland := rfl
@[simp] theorem modifyPut_repl (qp id : Nat) (f : Put → Put) (s : State) : (modifyPut qp id f s).repl = s.repl := rfl
@[simp] theorem modifyPut_ports (qp id : Nat) (f : Put → Put) (s : State) : (modifyPut qp id f s).ports = s.ports := rfl
@[simp] theorem modifyPut_nvme (qp id : Nat) (f : Put → Put) (s : State) : (modifyPut qp id f s).nvme = s.nvme := rfl
@[simp] theorem modifyPut_out (qp id : Nat) (f : Put → Put) (s : State) : (modifyPut qp id f s).out = s.out := rfl
@[simp] theorem modifyPut_genCount (qp id : Nat) (f : Put → Put) (s : State) : (modifyPut qp id f s).genCount = s.genCount := rfl
@[simp] theorem modifyPut_freeCount (qp id : Nat) (f : Put → Put) (s : State) : (modifyPut qp id f s).freeCount = s.freeCount := rfl
@[simp] theorem modifyPut_pending (qp id : Nat) (f : Put → Put) (s : State) : (modifyPut qp id f s).pending = s.pending := rfl

/-! ## `modifySes` -/

@[simp] theorem modifySes_time (qp : Nat) (f : ReplSession → ReplSession) (s : State) : (modifySes qp f s).time = s.time := rfl
@[simp] theorem modifySes_hsw (qp : Nat) (f : ReplSession → ReplSession) (s : State) : (modifySes qp f s).hsw = s.hsw := rfl
@[simp] theorem modifySes_boot (qp : Nat) (f : ReplSession → ReplSession) (s : State) : (modifySes qp f s).boot = s.boot := rfl
@[simp] theorem modifySes_alm (qp : Nat) (f : ReplSession → ReplSession) (s : State) : (modifySes qp f s).alm = s.alm := rfl
@[simp] theorem modifySes_mci (qp : Nat) (f : ReplSession → ReplSession) (s : State) : (modifySes qp f s).mci = s.mci := rfl
@[simp] theorem modifySes_vault (qp : Nat) (f : ReplSession → ReplSession) (s : State) : (modifySes qp f s).vault = s.vault := rfl
@[simp] theorem modifySes_thermal (qp : Nat) (f : ReplSession → ReplSession) (s : State) : (modifySes qp f s).thermal = s.thermal := rfl
@[simp] theorem modifySes_smbus (qp : Nat) (f : ReplSession → ReplSession) (s : State) : (modifySes qp f s).smbus = s.smbus := rfl
@[simp] theorem modifySes_jtag (qp : Nat) (f : ReplSession → ReplSession) (s : State) : (modifySes qp f s).jtag = s.jtag := rfl
@[simp] theorem modifySes_flash (qp : Nat) (f : ReplSession → ReplSession) (s : State) : (modifySes qp f s).flash = s.flash := rfl
@[simp] theorem modifySes_fw (qp : Nat) (f : ReplSession → ReplSession) (s : State) : (modifySes qp f s).fw = s.fw := rfl
@[simp] theorem modifySes_tines (qp : Nat) (f : ReplSession → ReplSession) (s : State) : (modifySes qp f s).tines = s.tines := rfl
@[simp] theorem modifySes_winnow (qp : Nat) (f : ReplSession → ReplSession) (s : State) : (modifySes qp f s).winnow = s.winnow := rfl
@[simp] theorem modifySes_voxca (qp : Nat) (f : ReplSession → ReplSession) (s : State) : (modifySes qp f s).voxca = s.voxca := rfl
@[simp] theorem modifySes_cipher (qp : Nat) (f : ReplSession → ReplSession) (s : State) : (modifySes qp f s).cipher = s.cipher := rfl
@[simp] theorem modifySes_mem (qp : Nat) (f : ReplSession → ReplSession) (s : State) : (modifySes qp f s).mem = s.mem := rfl
@[simp] theorem modifySes_granary (qp : Nat) (f : ReplSession → ReplSession) (s : State) : (modifySes qp f s).granary = s.granary := rfl
@[simp] theorem modifySes_dma (qp : Nat) (f : ReplSession → ReplSession) (s : State) : (modifySes qp f s).dma = s.dma := rfl
@[simp] theorem modifySes_map (qp : Nat) (f : ReplSession → ReplSession) (s : State) : (modifySes qp f s).map = s.map := rfl
@[simp] theorem modifySes_journal (qp : Nat) (f : ReplSession → ReplSession) (s : State) : (modifySes qp f s).journal = s.journal := rfl
@[simp] theorem modifySes_ingest (qp : Nat) (f : ReplSession → ReplSession) (s : State) : (modifySes qp f s).ingest = s.ingest := rfl
@[simp] theorem modifySes_media (qp : Nat) (f : ReplSession → ReplSession) (s : State) : (modifySes qp f s).media = s.media := rfl
@[simp] theorem modifySes_read (qp : Nat) (f : ReplSession → ReplSession) (s : State) : (modifySes qp f s).read = s.read := rfl
@[simp] theorem modifySes_furrow (qp : Nat) (f : ReplSession → ReplSession) (s : State) : (modifySes qp f s).furrow = s.furrow := rfl
@[simp] theorem modifySes_bridges (qp : Nat) (f : ReplSession → ReplSession) (s : State) : (modifySes qp f s).bridges = s.bridges := rfl
@[simp] theorem modifySes_headland (qp : Nat) (f : ReplSession → ReplSession) (s : State) : (modifySes qp f s).headland = s.headland := rfl
@[simp] theorem modifySes_ports (qp : Nat) (f : ReplSession → ReplSession) (s : State) : (modifySes qp f s).ports = s.ports := rfl
@[simp] theorem modifySes_nvme (qp : Nat) (f : ReplSession → ReplSession) (s : State) : (modifySes qp f s).nvme = s.nvme := rfl
@[simp] theorem modifySes_sheaf (qp : Nat) (f : ReplSession → ReplSession) (s : State) : (modifySes qp f s).sheaf = s.sheaf := rfl
@[simp] theorem modifySes_out (qp : Nat) (f : ReplSession → ReplSession) (s : State) : (modifySes qp f s).out = s.out := rfl
@[simp] theorem modifySes_genCount (qp : Nat) (f : ReplSession → ReplSession) (s : State) : (modifySes qp f s).genCount = s.genCount := rfl
@[simp] theorem modifySes_freeCount (qp : Nat) (f : ReplSession → ReplSession) (s : State) : (modifySes qp f s).freeCount = s.freeCount := rfl
@[simp] theorem modifySes_pending (qp : Nat) (f : ReplSession → ReplSession) (s : State) : (modifySes qp f s).pending = s.pending := rfl

/-! ## `modifyRun` -/

@[simp] theorem modifyRun_time (n : Nat) (f : ExportRun → ExportRun) (s : State) : (modifyRun n f s).time = s.time := rfl
@[simp] theorem modifyRun_hsw (n : Nat) (f : ExportRun → ExportRun) (s : State) : (modifyRun n f s).hsw = s.hsw := rfl
@[simp] theorem modifyRun_boot (n : Nat) (f : ExportRun → ExportRun) (s : State) : (modifyRun n f s).boot = s.boot := rfl
@[simp] theorem modifyRun_alm (n : Nat) (f : ExportRun → ExportRun) (s : State) : (modifyRun n f s).alm = s.alm := rfl
@[simp] theorem modifyRun_mci (n : Nat) (f : ExportRun → ExportRun) (s : State) : (modifyRun n f s).mci = s.mci := rfl
@[simp] theorem modifyRun_vault (n : Nat) (f : ExportRun → ExportRun) (s : State) : (modifyRun n f s).vault = s.vault := rfl
@[simp] theorem modifyRun_thermal (n : Nat) (f : ExportRun → ExportRun) (s : State) : (modifyRun n f s).thermal = s.thermal := rfl
@[simp] theorem modifyRun_smbus (n : Nat) (f : ExportRun → ExportRun) (s : State) : (modifyRun n f s).smbus = s.smbus := rfl
@[simp] theorem modifyRun_jtag (n : Nat) (f : ExportRun → ExportRun) (s : State) : (modifyRun n f s).jtag = s.jtag := rfl
@[simp] theorem modifyRun_flash (n : Nat) (f : ExportRun → ExportRun) (s : State) : (modifyRun n f s).flash = s.flash := rfl
@[simp] theorem modifyRun_fw (n : Nat) (f : ExportRun → ExportRun) (s : State) : (modifyRun n f s).fw = s.fw := rfl
@[simp] theorem modifyRun_tines (n : Nat) (f : ExportRun → ExportRun) (s : State) : (modifyRun n f s).tines = s.tines := rfl
@[simp] theorem modifyRun_winnow (n : Nat) (f : ExportRun → ExportRun) (s : State) : (modifyRun n f s).winnow = s.winnow := rfl
@[simp] theorem modifyRun_voxca (n : Nat) (f : ExportRun → ExportRun) (s : State) : (modifyRun n f s).voxca = s.voxca := rfl
@[simp] theorem modifyRun_cipher (n : Nat) (f : ExportRun → ExportRun) (s : State) : (modifyRun n f s).cipher = s.cipher := rfl
@[simp] theorem modifyRun_mem (n : Nat) (f : ExportRun → ExportRun) (s : State) : (modifyRun n f s).mem = s.mem := rfl
@[simp] theorem modifyRun_granary (n : Nat) (f : ExportRun → ExportRun) (s : State) : (modifyRun n f s).granary = s.granary := rfl
@[simp] theorem modifyRun_dma (n : Nat) (f : ExportRun → ExportRun) (s : State) : (modifyRun n f s).dma = s.dma := rfl
@[simp] theorem modifyRun_map (n : Nat) (f : ExportRun → ExportRun) (s : State) : (modifyRun n f s).map = s.map := rfl
@[simp] theorem modifyRun_journal (n : Nat) (f : ExportRun → ExportRun) (s : State) : (modifyRun n f s).journal = s.journal := rfl
@[simp] theorem modifyRun_ingest (n : Nat) (f : ExportRun → ExportRun) (s : State) : (modifyRun n f s).ingest = s.ingest := rfl
@[simp] theorem modifyRun_media (n : Nat) (f : ExportRun → ExportRun) (s : State) : (modifyRun n f s).media = s.media := rfl
@[simp] theorem modifyRun_read (n : Nat) (f : ExportRun → ExportRun) (s : State) : (modifyRun n f s).read = s.read := rfl
@[simp] theorem modifyRun_furrow (n : Nat) (f : ExportRun → ExportRun) (s : State) : (modifyRun n f s).furrow = s.furrow := rfl
@[simp] theorem modifyRun_bridges (n : Nat) (f : ExportRun → ExportRun) (s : State) : (modifyRun n f s).bridges = s.bridges := rfl
@[simp] theorem modifyRun_headland (n : Nat) (f : ExportRun → ExportRun) (s : State) : (modifyRun n f s).headland = s.headland := rfl
@[simp] theorem modifyRun_ports (n : Nat) (f : ExportRun → ExportRun) (s : State) : (modifyRun n f s).ports = s.ports := rfl
@[simp] theorem modifyRun_nvme (n : Nat) (f : ExportRun → ExportRun) (s : State) : (modifyRun n f s).nvme = s.nvme := rfl
@[simp] theorem modifyRun_sheaf (n : Nat) (f : ExportRun → ExportRun) (s : State) : (modifyRun n f s).sheaf = s.sheaf := rfl
@[simp] theorem modifyRun_out (n : Nat) (f : ExportRun → ExportRun) (s : State) : (modifyRun n f s).out = s.out := rfl
@[simp] theorem modifyRun_genCount (n : Nat) (f : ExportRun → ExportRun) (s : State) : (modifyRun n f s).genCount = s.genCount := rfl
@[simp] theorem modifyRun_freeCount (n : Nat) (f : ExportRun → ExportRun) (s : State) : (modifyRun n f s).freeCount = s.freeCount := rfl
@[simp] theorem modifyRun_pending (n : Nat) (f : ExportRun → ExportRun) (s : State) : (modifyRun n f s).pending = s.pending := rfl

/-! ## `modifyReturn` -/

@[simp] theorem modifyReturn_time (f : ReturnPart → ReturnPart) (s : State) : (modifyReturn f s).time = s.time := rfl
@[simp] theorem modifyReturn_hsw (f : ReturnPart → ReturnPart) (s : State) : (modifyReturn f s).hsw = s.hsw := rfl
@[simp] theorem modifyReturn_boot (f : ReturnPart → ReturnPart) (s : State) : (modifyReturn f s).boot = s.boot := rfl
@[simp] theorem modifyReturn_alm (f : ReturnPart → ReturnPart) (s : State) : (modifyReturn f s).alm = s.alm := rfl
@[simp] theorem modifyReturn_mci (f : ReturnPart → ReturnPart) (s : State) : (modifyReturn f s).mci = s.mci := rfl
@[simp] theorem modifyReturn_vault (f : ReturnPart → ReturnPart) (s : State) : (modifyReturn f s).vault = s.vault := rfl
@[simp] theorem modifyReturn_thermal (f : ReturnPart → ReturnPart) (s : State) : (modifyReturn f s).thermal = s.thermal := rfl
@[simp] theorem modifyReturn_smbus (f : ReturnPart → ReturnPart) (s : State) : (modifyReturn f s).smbus = s.smbus := rfl
@[simp] theorem modifyReturn_jtag (f : ReturnPart → ReturnPart) (s : State) : (modifyReturn f s).jtag = s.jtag := rfl
@[simp] theorem modifyReturn_flash (f : ReturnPart → ReturnPart) (s : State) : (modifyReturn f s).flash = s.flash := rfl
@[simp] theorem modifyReturn_fw (f : ReturnPart → ReturnPart) (s : State) : (modifyReturn f s).fw = s.fw := rfl
@[simp] theorem modifyReturn_tines (f : ReturnPart → ReturnPart) (s : State) : (modifyReturn f s).tines = s.tines := rfl
@[simp] theorem modifyReturn_winnow (f : ReturnPart → ReturnPart) (s : State) : (modifyReturn f s).winnow = s.winnow := rfl
@[simp] theorem modifyReturn_voxca (f : ReturnPart → ReturnPart) (s : State) : (modifyReturn f s).voxca = s.voxca := rfl
@[simp] theorem modifyReturn_cipher (f : ReturnPart → ReturnPart) (s : State) : (modifyReturn f s).cipher = s.cipher := rfl
@[simp] theorem modifyReturn_mem (f : ReturnPart → ReturnPart) (s : State) : (modifyReturn f s).mem = s.mem := rfl
@[simp] theorem modifyReturn_granary (f : ReturnPart → ReturnPart) (s : State) : (modifyReturn f s).granary = s.granary := rfl
@[simp] theorem modifyReturn_dma (f : ReturnPart → ReturnPart) (s : State) : (modifyReturn f s).dma = s.dma := rfl
@[simp] theorem modifyReturn_map (f : ReturnPart → ReturnPart) (s : State) : (modifyReturn f s).map = s.map := rfl
@[simp] theorem modifyReturn_journal (f : ReturnPart → ReturnPart) (s : State) : (modifyReturn f s).journal = s.journal := rfl
@[simp] theorem modifyReturn_ingest (f : ReturnPart → ReturnPart) (s : State) : (modifyReturn f s).ingest = s.ingest := rfl
@[simp] theorem modifyReturn_media (f : ReturnPart → ReturnPart) (s : State) : (modifyReturn f s).media = s.media := rfl
@[simp] theorem modifyReturn_read (f : ReturnPart → ReturnPart) (s : State) : (modifyReturn f s).read = s.read := rfl
@[simp] theorem modifyReturn_furrow (f : ReturnPart → ReturnPart) (s : State) : (modifyReturn f s).furrow = s.furrow := rfl
@[simp] theorem modifyReturn_bridges (f : ReturnPart → ReturnPart) (s : State) : (modifyReturn f s).bridges = s.bridges := rfl
@[simp] theorem modifyReturn_repl (f : ReturnPart → ReturnPart) (s : State) : (modifyReturn f s).repl = s.repl := rfl
@[simp] theorem modifyReturn_ports (f : ReturnPart → ReturnPart) (s : State) : (modifyReturn f s).ports = s.ports := rfl
@[simp] theorem modifyReturn_nvme (f : ReturnPart → ReturnPart) (s : State) : (modifyReturn f s).nvme = s.nvme := rfl
@[simp] theorem modifyReturn_sheaf (f : ReturnPart → ReturnPart) (s : State) : (modifyReturn f s).sheaf = s.sheaf := rfl
@[simp] theorem modifyReturn_out (f : ReturnPart → ReturnPart) (s : State) : (modifyReturn f s).out = s.out := rfl
@[simp] theorem modifyReturn_genCount (f : ReturnPart → ReturnPart) (s : State) : (modifyReturn f s).genCount = s.genCount := rfl
@[simp] theorem modifyReturn_freeCount (f : ReturnPart → ReturnPart) (s : State) : (modifyReturn f s).freeCount = s.freeCount := rfl
@[simp] theorem modifyReturn_pending (f : ReturnPart → ReturnPart) (s : State) : (modifyReturn f s).pending = s.pending := rfl

/-! ## `modifyWork` -/

@[simp] theorem modifyWork_time (w : Nat) (f : ChunkWork → ChunkWork) (s : State) : (modifyWork w f s).time = s.time := rfl
@[simp] theorem modifyWork_hsw (w : Nat) (f : ChunkWork → ChunkWork) (s : State) : (modifyWork w f s).hsw = s.hsw := rfl
@[simp] theorem modifyWork_boot (w : Nat) (f : ChunkWork → ChunkWork) (s : State) : (modifyWork w f s).boot = s.boot := rfl
@[simp] theorem modifyWork_alm (w : Nat) (f : ChunkWork → ChunkWork) (s : State) : (modifyWork w f s).alm = s.alm := rfl
@[simp] theorem modifyWork_mci (w : Nat) (f : ChunkWork → ChunkWork) (s : State) : (modifyWork w f s).mci = s.mci := rfl
@[simp] theorem modifyWork_vault (w : Nat) (f : ChunkWork → ChunkWork) (s : State) : (modifyWork w f s).vault = s.vault := rfl
@[simp] theorem modifyWork_thermal (w : Nat) (f : ChunkWork → ChunkWork) (s : State) : (modifyWork w f s).thermal = s.thermal := rfl
@[simp] theorem modifyWork_smbus (w : Nat) (f : ChunkWork → ChunkWork) (s : State) : (modifyWork w f s).smbus = s.smbus := rfl
@[simp] theorem modifyWork_jtag (w : Nat) (f : ChunkWork → ChunkWork) (s : State) : (modifyWork w f s).jtag = s.jtag := rfl
@[simp] theorem modifyWork_flash (w : Nat) (f : ChunkWork → ChunkWork) (s : State) : (modifyWork w f s).flash = s.flash := rfl
@[simp] theorem modifyWork_fw (w : Nat) (f : ChunkWork → ChunkWork) (s : State) : (modifyWork w f s).fw = s.fw := rfl
@[simp] theorem modifyWork_tines (w : Nat) (f : ChunkWork → ChunkWork) (s : State) : (modifyWork w f s).tines = s.tines := rfl
@[simp] theorem modifyWork_winnow (w : Nat) (f : ChunkWork → ChunkWork) (s : State) : (modifyWork w f s).winnow = s.winnow := rfl
@[simp] theorem modifyWork_voxca (w : Nat) (f : ChunkWork → ChunkWork) (s : State) : (modifyWork w f s).voxca = s.voxca := rfl
@[simp] theorem modifyWork_cipher (w : Nat) (f : ChunkWork → ChunkWork) (s : State) : (modifyWork w f s).cipher = s.cipher := rfl
@[simp] theorem modifyWork_mem (w : Nat) (f : ChunkWork → ChunkWork) (s : State) : (modifyWork w f s).mem = s.mem := rfl
@[simp] theorem modifyWork_granary (w : Nat) (f : ChunkWork → ChunkWork) (s : State) : (modifyWork w f s).granary = s.granary := rfl
@[simp] theorem modifyWork_dma (w : Nat) (f : ChunkWork → ChunkWork) (s : State) : (modifyWork w f s).dma = s.dma := rfl
@[simp] theorem modifyWork_map (w : Nat) (f : ChunkWork → ChunkWork) (s : State) : (modifyWork w f s).map = s.map := rfl
@[simp] theorem modifyWork_journal (w : Nat) (f : ChunkWork → ChunkWork) (s : State) : (modifyWork w f s).journal = s.journal := rfl
@[simp] theorem modifyWork_media (w : Nat) (f : ChunkWork → ChunkWork) (s : State) : (modifyWork w f s).media = s.media := rfl
@[simp] theorem modifyWork_read (w : Nat) (f : ChunkWork → ChunkWork) (s : State) : (modifyWork w f s).read = s.read := rfl
@[simp] theorem modifyWork_furrow (w : Nat) (f : ChunkWork → ChunkWork) (s : State) : (modifyWork w f s).furrow = s.furrow := rfl
@[simp] theorem modifyWork_bridges (w : Nat) (f : ChunkWork → ChunkWork) (s : State) : (modifyWork w f s).bridges = s.bridges := rfl
@[simp] theorem modifyWork_headland (w : Nat) (f : ChunkWork → ChunkWork) (s : State) : (modifyWork w f s).headland = s.headland := rfl
@[simp] theorem modifyWork_repl (w : Nat) (f : ChunkWork → ChunkWork) (s : State) : (modifyWork w f s).repl = s.repl := rfl
@[simp] theorem modifyWork_ports (w : Nat) (f : ChunkWork → ChunkWork) (s : State) : (modifyWork w f s).ports = s.ports := rfl
@[simp] theorem modifyWork_nvme (w : Nat) (f : ChunkWork → ChunkWork) (s : State) : (modifyWork w f s).nvme = s.nvme := rfl
@[simp] theorem modifyWork_sheaf (w : Nat) (f : ChunkWork → ChunkWork) (s : State) : (modifyWork w f s).sheaf = s.sheaf := rfl
@[simp] theorem modifyWork_out (w : Nat) (f : ChunkWork → ChunkWork) (s : State) : (modifyWork w f s).out = s.out := rfl
@[simp] theorem modifyWork_genCount (w : Nat) (f : ChunkWork → ChunkWork) (s : State) : (modifyWork w f s).genCount = s.genCount := rfl
@[simp] theorem modifyWork_freeCount (w : Nat) (f : ChunkWork → ChunkWork) (s : State) : (modifyWork w f s).freeCount = s.freeCount := rfl
@[simp] theorem modifyWork_pending (w : Nat) (f : ChunkWork → ChunkWork) (s : State) : (modifyWork w f s).pending = s.pending := rfl

/-! ## `modifyAdvance` -/

@[simp] theorem modifyAdvance_time (d epoch : Nat) (f : EpochAdvance → EpochAdvance) (s : State) : (modifyAdvance d epoch f s).time = s.time := rfl
@[simp] theorem modifyAdvance_hsw (d epoch : Nat) (f : EpochAdvance → EpochAdvance) (s : State) : (modifyAdvance d epoch f s).hsw = s.hsw := rfl
@[simp] theorem modifyAdvance_boot (d epoch : Nat) (f : EpochAdvance → EpochAdvance) (s : State) : (modifyAdvance d epoch f s).boot = s.boot := rfl
@[simp] theorem modifyAdvance_alm (d epoch : Nat) (f : EpochAdvance → EpochAdvance) (s : State) : (modifyAdvance d epoch f s).alm = s.alm := rfl
@[simp] theorem modifyAdvance_mci (d epoch : Nat) (f : EpochAdvance → EpochAdvance) (s : State) : (modifyAdvance d epoch f s).mci = s.mci := rfl
@[simp] theorem modifyAdvance_vault (d epoch : Nat) (f : EpochAdvance → EpochAdvance) (s : State) : (modifyAdvance d epoch f s).vault = s.vault := rfl
@[simp] theorem modifyAdvance_thermal (d epoch : Nat) (f : EpochAdvance → EpochAdvance) (s : State) : (modifyAdvance d epoch f s).thermal = s.thermal := rfl
@[simp] theorem modifyAdvance_smbus (d epoch : Nat) (f : EpochAdvance → EpochAdvance) (s : State) : (modifyAdvance d epoch f s).smbus = s.smbus := rfl
@[simp] theorem modifyAdvance_jtag (d epoch : Nat) (f : EpochAdvance → EpochAdvance) (s : State) : (modifyAdvance d epoch f s).jtag = s.jtag := rfl
@[simp] theorem modifyAdvance_flash (d epoch : Nat) (f : EpochAdvance → EpochAdvance) (s : State) : (modifyAdvance d epoch f s).flash = s.flash := rfl
@[simp] theorem modifyAdvance_fw (d epoch : Nat) (f : EpochAdvance → EpochAdvance) (s : State) : (modifyAdvance d epoch f s).fw = s.fw := rfl
@[simp] theorem modifyAdvance_tines (d epoch : Nat) (f : EpochAdvance → EpochAdvance) (s : State) : (modifyAdvance d epoch f s).tines = s.tines := rfl
@[simp] theorem modifyAdvance_winnow (d epoch : Nat) (f : EpochAdvance → EpochAdvance) (s : State) : (modifyAdvance d epoch f s).winnow = s.winnow := rfl
@[simp] theorem modifyAdvance_voxca (d epoch : Nat) (f : EpochAdvance → EpochAdvance) (s : State) : (modifyAdvance d epoch f s).voxca = s.voxca := rfl
@[simp] theorem modifyAdvance_mem (d epoch : Nat) (f : EpochAdvance → EpochAdvance) (s : State) : (modifyAdvance d epoch f s).mem = s.mem := rfl
@[simp] theorem modifyAdvance_granary (d epoch : Nat) (f : EpochAdvance → EpochAdvance) (s : State) : (modifyAdvance d epoch f s).granary = s.granary := rfl
@[simp] theorem modifyAdvance_dma (d epoch : Nat) (f : EpochAdvance → EpochAdvance) (s : State) : (modifyAdvance d epoch f s).dma = s.dma := rfl
@[simp] theorem modifyAdvance_map (d epoch : Nat) (f : EpochAdvance → EpochAdvance) (s : State) : (modifyAdvance d epoch f s).map = s.map := rfl
@[simp] theorem modifyAdvance_journal (d epoch : Nat) (f : EpochAdvance → EpochAdvance) (s : State) : (modifyAdvance d epoch f s).journal = s.journal := rfl
@[simp] theorem modifyAdvance_ingest (d epoch : Nat) (f : EpochAdvance → EpochAdvance) (s : State) : (modifyAdvance d epoch f s).ingest = s.ingest := rfl
@[simp] theorem modifyAdvance_media (d epoch : Nat) (f : EpochAdvance → EpochAdvance) (s : State) : (modifyAdvance d epoch f s).media = s.media := rfl
@[simp] theorem modifyAdvance_read (d epoch : Nat) (f : EpochAdvance → EpochAdvance) (s : State) : (modifyAdvance d epoch f s).read = s.read := rfl
@[simp] theorem modifyAdvance_furrow (d epoch : Nat) (f : EpochAdvance → EpochAdvance) (s : State) : (modifyAdvance d epoch f s).furrow = s.furrow := rfl
@[simp] theorem modifyAdvance_bridges (d epoch : Nat) (f : EpochAdvance → EpochAdvance) (s : State) : (modifyAdvance d epoch f s).bridges = s.bridges := rfl
@[simp] theorem modifyAdvance_headland (d epoch : Nat) (f : EpochAdvance → EpochAdvance) (s : State) : (modifyAdvance d epoch f s).headland = s.headland := rfl
@[simp] theorem modifyAdvance_repl (d epoch : Nat) (f : EpochAdvance → EpochAdvance) (s : State) : (modifyAdvance d epoch f s).repl = s.repl := rfl
@[simp] theorem modifyAdvance_ports (d epoch : Nat) (f : EpochAdvance → EpochAdvance) (s : State) : (modifyAdvance d epoch f s).ports = s.ports := rfl
@[simp] theorem modifyAdvance_nvme (d epoch : Nat) (f : EpochAdvance → EpochAdvance) (s : State) : (modifyAdvance d epoch f s).nvme = s.nvme := rfl
@[simp] theorem modifyAdvance_sheaf (d epoch : Nat) (f : EpochAdvance → EpochAdvance) (s : State) : (modifyAdvance d epoch f s).sheaf = s.sheaf := rfl
@[simp] theorem modifyAdvance_out (d epoch : Nat) (f : EpochAdvance → EpochAdvance) (s : State) : (modifyAdvance d epoch f s).out = s.out := rfl
@[simp] theorem modifyAdvance_genCount (d epoch : Nat) (f : EpochAdvance → EpochAdvance) (s : State) : (modifyAdvance d epoch f s).genCount = s.genCount := rfl
@[simp] theorem modifyAdvance_freeCount (d epoch : Nat) (f : EpochAdvance → EpochAdvance) (s : State) : (modifyAdvance d epoch f s).freeCount = s.freeCount := rfl
@[simp] theorem modifyAdvance_pending (d epoch : Nat) (f : EpochAdvance → EpochAdvance) (s : State) : (modifyAdvance d epoch f s).pending = s.pending := rfl

/-! ## `setSlot` -/

@[simp] theorem setSlot_time (n : Nat) (w : WorkingSlot) (s : State) : (setSlot n w s).time = s.time := rfl
@[simp] theorem setSlot_hsw (n : Nat) (w : WorkingSlot) (s : State) : (setSlot n w s).hsw = s.hsw := rfl
@[simp] theorem setSlot_boot (n : Nat) (w : WorkingSlot) (s : State) : (setSlot n w s).boot = s.boot := rfl
@[simp] theorem setSlot_alm (n : Nat) (w : WorkingSlot) (s : State) : (setSlot n w s).alm = s.alm := rfl
@[simp] theorem setSlot_mci (n : Nat) (w : WorkingSlot) (s : State) : (setSlot n w s).mci = s.mci := rfl
@[simp] theorem setSlot_vault (n : Nat) (w : WorkingSlot) (s : State) : (setSlot n w s).vault = s.vault := rfl
@[simp] theorem setSlot_thermal (n : Nat) (w : WorkingSlot) (s : State) : (setSlot n w s).thermal = s.thermal := rfl
@[simp] theorem setSlot_smbus (n : Nat) (w : WorkingSlot) (s : State) : (setSlot n w s).smbus = s.smbus := rfl
@[simp] theorem setSlot_jtag (n : Nat) (w : WorkingSlot) (s : State) : (setSlot n w s).jtag = s.jtag := rfl
@[simp] theorem setSlot_flash (n : Nat) (w : WorkingSlot) (s : State) : (setSlot n w s).flash = s.flash := rfl
@[simp] theorem setSlot_fw (n : Nat) (w : WorkingSlot) (s : State) : (setSlot n w s).fw = s.fw := rfl
@[simp] theorem setSlot_tines (n : Nat) (w : WorkingSlot) (s : State) : (setSlot n w s).tines = s.tines := rfl
@[simp] theorem setSlot_winnow (n : Nat) (w : WorkingSlot) (s : State) : (setSlot n w s).winnow = s.winnow := rfl
@[simp] theorem setSlot_voxca (n : Nat) (w : WorkingSlot) (s : State) : (setSlot n w s).voxca = s.voxca := rfl
@[simp] theorem setSlot_mem (n : Nat) (w : WorkingSlot) (s : State) : (setSlot n w s).mem = s.mem := rfl
@[simp] theorem setSlot_granary (n : Nat) (w : WorkingSlot) (s : State) : (setSlot n w s).granary = s.granary := rfl
@[simp] theorem setSlot_dma (n : Nat) (w : WorkingSlot) (s : State) : (setSlot n w s).dma = s.dma := rfl
@[simp] theorem setSlot_map (n : Nat) (w : WorkingSlot) (s : State) : (setSlot n w s).map = s.map := rfl
@[simp] theorem setSlot_journal (n : Nat) (w : WorkingSlot) (s : State) : (setSlot n w s).journal = s.journal := rfl
@[simp] theorem setSlot_ingest (n : Nat) (w : WorkingSlot) (s : State) : (setSlot n w s).ingest = s.ingest := rfl
@[simp] theorem setSlot_media (n : Nat) (w : WorkingSlot) (s : State) : (setSlot n w s).media = s.media := rfl
@[simp] theorem setSlot_read (n : Nat) (w : WorkingSlot) (s : State) : (setSlot n w s).read = s.read := rfl
@[simp] theorem setSlot_furrow (n : Nat) (w : WorkingSlot) (s : State) : (setSlot n w s).furrow = s.furrow := rfl
@[simp] theorem setSlot_bridges (n : Nat) (w : WorkingSlot) (s : State) : (setSlot n w s).bridges = s.bridges := rfl
@[simp] theorem setSlot_headland (n : Nat) (w : WorkingSlot) (s : State) : (setSlot n w s).headland = s.headland := rfl
@[simp] theorem setSlot_repl (n : Nat) (w : WorkingSlot) (s : State) : (setSlot n w s).repl = s.repl := rfl
@[simp] theorem setSlot_ports (n : Nat) (w : WorkingSlot) (s : State) : (setSlot n w s).ports = s.ports := rfl
@[simp] theorem setSlot_nvme (n : Nat) (w : WorkingSlot) (s : State) : (setSlot n w s).nvme = s.nvme := rfl
@[simp] theorem setSlot_sheaf (n : Nat) (w : WorkingSlot) (s : State) : (setSlot n w s).sheaf = s.sheaf := rfl
@[simp] theorem setSlot_out (n : Nat) (w : WorkingSlot) (s : State) : (setSlot n w s).out = s.out := rfl
@[simp] theorem setSlot_genCount (n : Nat) (w : WorkingSlot) (s : State) : (setSlot n w s).genCount = s.genCount := rfl
@[simp] theorem setSlot_freeCount (n : Nat) (w : WorkingSlot) (s : State) : (setSlot n w s).freeCount = s.freeCount := rfl
@[simp] theorem setSlot_pending (n : Nat) (w : WorkingSlot) (s : State) : (setSlot n w s).pending = s.pending := rfl

/-! ## `modifyHeadBridge` -/

@[simp] theorem modifyHeadBridge_time (b : Nat) (f : HeadBridge → HeadBridge) (s : State) : (modifyHeadBridge b f s).time = s.time := rfl
@[simp] theorem modifyHeadBridge_hsw (b : Nat) (f : HeadBridge → HeadBridge) (s : State) : (modifyHeadBridge b f s).hsw = s.hsw := rfl
@[simp] theorem modifyHeadBridge_boot (b : Nat) (f : HeadBridge → HeadBridge) (s : State) : (modifyHeadBridge b f s).boot = s.boot := rfl
@[simp] theorem modifyHeadBridge_alm (b : Nat) (f : HeadBridge → HeadBridge) (s : State) : (modifyHeadBridge b f s).alm = s.alm := rfl
@[simp] theorem modifyHeadBridge_mci (b : Nat) (f : HeadBridge → HeadBridge) (s : State) : (modifyHeadBridge b f s).mci = s.mci := rfl
@[simp] theorem modifyHeadBridge_vault (b : Nat) (f : HeadBridge → HeadBridge) (s : State) : (modifyHeadBridge b f s).vault = s.vault := rfl
@[simp] theorem modifyHeadBridge_thermal (b : Nat) (f : HeadBridge → HeadBridge) (s : State) : (modifyHeadBridge b f s).thermal = s.thermal := rfl
@[simp] theorem modifyHeadBridge_smbus (b : Nat) (f : HeadBridge → HeadBridge) (s : State) : (modifyHeadBridge b f s).smbus = s.smbus := rfl
@[simp] theorem modifyHeadBridge_jtag (b : Nat) (f : HeadBridge → HeadBridge) (s : State) : (modifyHeadBridge b f s).jtag = s.jtag := rfl
@[simp] theorem modifyHeadBridge_flash (b : Nat) (f : HeadBridge → HeadBridge) (s : State) : (modifyHeadBridge b f s).flash = s.flash := rfl
@[simp] theorem modifyHeadBridge_fw (b : Nat) (f : HeadBridge → HeadBridge) (s : State) : (modifyHeadBridge b f s).fw = s.fw := rfl
@[simp] theorem modifyHeadBridge_tines (b : Nat) (f : HeadBridge → HeadBridge) (s : State) : (modifyHeadBridge b f s).tines = s.tines := rfl
@[simp] theorem modifyHeadBridge_winnow (b : Nat) (f : HeadBridge → HeadBridge) (s : State) : (modifyHeadBridge b f s).winnow = s.winnow := rfl
@[simp] theorem modifyHeadBridge_voxca (b : Nat) (f : HeadBridge → HeadBridge) (s : State) : (modifyHeadBridge b f s).voxca = s.voxca := rfl
@[simp] theorem modifyHeadBridge_cipher (b : Nat) (f : HeadBridge → HeadBridge) (s : State) : (modifyHeadBridge b f s).cipher = s.cipher := rfl
@[simp] theorem modifyHeadBridge_mem (b : Nat) (f : HeadBridge → HeadBridge) (s : State) : (modifyHeadBridge b f s).mem = s.mem := rfl
@[simp] theorem modifyHeadBridge_granary (b : Nat) (f : HeadBridge → HeadBridge) (s : State) : (modifyHeadBridge b f s).granary = s.granary := rfl
@[simp] theorem modifyHeadBridge_dma (b : Nat) (f : HeadBridge → HeadBridge) (s : State) : (modifyHeadBridge b f s).dma = s.dma := rfl
@[simp] theorem modifyHeadBridge_map (b : Nat) (f : HeadBridge → HeadBridge) (s : State) : (modifyHeadBridge b f s).map = s.map := rfl
@[simp] theorem modifyHeadBridge_journal (b : Nat) (f : HeadBridge → HeadBridge) (s : State) : (modifyHeadBridge b f s).journal = s.journal := rfl
@[simp] theorem modifyHeadBridge_ingest (b : Nat) (f : HeadBridge → HeadBridge) (s : State) : (modifyHeadBridge b f s).ingest = s.ingest := rfl
@[simp] theorem modifyHeadBridge_read (b : Nat) (f : HeadBridge → HeadBridge) (s : State) : (modifyHeadBridge b f s).read = s.read := rfl
@[simp] theorem modifyHeadBridge_furrow (b : Nat) (f : HeadBridge → HeadBridge) (s : State) : (modifyHeadBridge b f s).furrow = s.furrow := rfl
@[simp] theorem modifyHeadBridge_bridges (b : Nat) (f : HeadBridge → HeadBridge) (s : State) : (modifyHeadBridge b f s).bridges = s.bridges := rfl
@[simp] theorem modifyHeadBridge_headland (b : Nat) (f : HeadBridge → HeadBridge) (s : State) : (modifyHeadBridge b f s).headland = s.headland := rfl
@[simp] theorem modifyHeadBridge_repl (b : Nat) (f : HeadBridge → HeadBridge) (s : State) : (modifyHeadBridge b f s).repl = s.repl := rfl
@[simp] theorem modifyHeadBridge_ports (b : Nat) (f : HeadBridge → HeadBridge) (s : State) : (modifyHeadBridge b f s).ports = s.ports := rfl
@[simp] theorem modifyHeadBridge_nvme (b : Nat) (f : HeadBridge → HeadBridge) (s : State) : (modifyHeadBridge b f s).nvme = s.nvme := rfl
@[simp] theorem modifyHeadBridge_sheaf (b : Nat) (f : HeadBridge → HeadBridge) (s : State) : (modifyHeadBridge b f s).sheaf = s.sheaf := rfl
@[simp] theorem modifyHeadBridge_out (b : Nat) (f : HeadBridge → HeadBridge) (s : State) : (modifyHeadBridge b f s).out = s.out := rfl
@[simp] theorem modifyHeadBridge_genCount (b : Nat) (f : HeadBridge → HeadBridge) (s : State) : (modifyHeadBridge b f s).genCount = s.genCount := rfl
@[simp] theorem modifyHeadBridge_freeCount (b : Nat) (f : HeadBridge → HeadBridge) (s : State) : (modifyHeadBridge b f s).freeCount = s.freeCount := rfl
@[simp] theorem modifyHeadBridge_pending (b : Nat) (f : HeadBridge → HeadBridge) (s : State) : (modifyHeadBridge b f s).pending = s.pending := rfl

/-! ## `modifyDie` -/

@[simp] theorem modifyDie_time (b d : Nat) (f : DieState → DieState) (s : State) : (modifyDie b d f s).time = s.time := rfl
@[simp] theorem modifyDie_hsw (b d : Nat) (f : DieState → DieState) (s : State) : (modifyDie b d f s).hsw = s.hsw := rfl
@[simp] theorem modifyDie_boot (b d : Nat) (f : DieState → DieState) (s : State) : (modifyDie b d f s).boot = s.boot := rfl
@[simp] theorem modifyDie_alm (b d : Nat) (f : DieState → DieState) (s : State) : (modifyDie b d f s).alm = s.alm := rfl
@[simp] theorem modifyDie_mci (b d : Nat) (f : DieState → DieState) (s : State) : (modifyDie b d f s).mci = s.mci := rfl
@[simp] theorem modifyDie_vault (b d : Nat) (f : DieState → DieState) (s : State) : (modifyDie b d f s).vault = s.vault := rfl
@[simp] theorem modifyDie_thermal (b d : Nat) (f : DieState → DieState) (s : State) : (modifyDie b d f s).thermal = s.thermal := rfl
@[simp] theorem modifyDie_smbus (b d : Nat) (f : DieState → DieState) (s : State) : (modifyDie b d f s).smbus = s.smbus := rfl
@[simp] theorem modifyDie_jtag (b d : Nat) (f : DieState → DieState) (s : State) : (modifyDie b d f s).jtag = s.jtag := rfl
@[simp] theorem modifyDie_flash (b d : Nat) (f : DieState → DieState) (s : State) : (modifyDie b d f s).flash = s.flash := rfl
@[simp] theorem modifyDie_fw (b d : Nat) (f : DieState → DieState) (s : State) : (modifyDie b d f s).fw = s.fw := rfl
@[simp] theorem modifyDie_tines (b d : Nat) (f : DieState → DieState) (s : State) : (modifyDie b d f s).tines = s.tines := rfl
@[simp] theorem modifyDie_winnow (b d : Nat) (f : DieState → DieState) (s : State) : (modifyDie b d f s).winnow = s.winnow := rfl
@[simp] theorem modifyDie_voxca (b d : Nat) (f : DieState → DieState) (s : State) : (modifyDie b d f s).voxca = s.voxca := rfl
@[simp] theorem modifyDie_cipher (b d : Nat) (f : DieState → DieState) (s : State) : (modifyDie b d f s).cipher = s.cipher := rfl
@[simp] theorem modifyDie_mem (b d : Nat) (f : DieState → DieState) (s : State) : (modifyDie b d f s).mem = s.mem := rfl
@[simp] theorem modifyDie_granary (b d : Nat) (f : DieState → DieState) (s : State) : (modifyDie b d f s).granary = s.granary := rfl
@[simp] theorem modifyDie_dma (b d : Nat) (f : DieState → DieState) (s : State) : (modifyDie b d f s).dma = s.dma := rfl
@[simp] theorem modifyDie_map (b d : Nat) (f : DieState → DieState) (s : State) : (modifyDie b d f s).map = s.map := rfl
@[simp] theorem modifyDie_journal (b d : Nat) (f : DieState → DieState) (s : State) : (modifyDie b d f s).journal = s.journal := rfl
@[simp] theorem modifyDie_ingest (b d : Nat) (f : DieState → DieState) (s : State) : (modifyDie b d f s).ingest = s.ingest := rfl
@[simp] theorem modifyDie_read (b d : Nat) (f : DieState → DieState) (s : State) : (modifyDie b d f s).read = s.read := rfl
@[simp] theorem modifyDie_furrow (b d : Nat) (f : DieState → DieState) (s : State) : (modifyDie b d f s).furrow = s.furrow := rfl
@[simp] theorem modifyDie_bridges (b d : Nat) (f : DieState → DieState) (s : State) : (modifyDie b d f s).bridges = s.bridges := rfl
@[simp] theorem modifyDie_headland (b d : Nat) (f : DieState → DieState) (s : State) : (modifyDie b d f s).headland = s.headland := rfl
@[simp] theorem modifyDie_repl (b d : Nat) (f : DieState → DieState) (s : State) : (modifyDie b d f s).repl = s.repl := rfl
@[simp] theorem modifyDie_ports (b d : Nat) (f : DieState → DieState) (s : State) : (modifyDie b d f s).ports = s.ports := rfl
@[simp] theorem modifyDie_nvme (b d : Nat) (f : DieState → DieState) (s : State) : (modifyDie b d f s).nvme = s.nvme := rfl
@[simp] theorem modifyDie_sheaf (b d : Nat) (f : DieState → DieState) (s : State) : (modifyDie b d f s).sheaf = s.sheaf := rfl
@[simp] theorem modifyDie_out (b d : Nat) (f : DieState → DieState) (s : State) : (modifyDie b d f s).out = s.out := rfl
@[simp] theorem modifyDie_genCount (b d : Nat) (f : DieState → DieState) (s : State) : (modifyDie b d f s).genCount = s.genCount := rfl
@[simp] theorem modifyDie_freeCount (b d : Nat) (f : DieState → DieState) (s : State) : (modifyDie b d f s).freeCount = s.freeCount := rfl
@[simp] theorem modifyDie_pending (b d : Nat) (f : DieState → DieState) (s : State) : (modifyDie b d f s).pending = s.pending := rfl

/-! ## `modifyLoc` -/

@[simp] theorem modifyLoc_time (chunk : Nat) (f : Loc → Loc) (s : State) : (modifyLoc chunk f s).time = s.time := rfl
@[simp] theorem modifyLoc_hsw (chunk : Nat) (f : Loc → Loc) (s : State) : (modifyLoc chunk f s).hsw = s.hsw := rfl
@[simp] theorem modifyLoc_boot (chunk : Nat) (f : Loc → Loc) (s : State) : (modifyLoc chunk f s).boot = s.boot := rfl
@[simp] theorem modifyLoc_alm (chunk : Nat) (f : Loc → Loc) (s : State) : (modifyLoc chunk f s).alm = s.alm := rfl
@[simp] theorem modifyLoc_mci (chunk : Nat) (f : Loc → Loc) (s : State) : (modifyLoc chunk f s).mci = s.mci := rfl
@[simp] theorem modifyLoc_vault (chunk : Nat) (f : Loc → Loc) (s : State) : (modifyLoc chunk f s).vault = s.vault := rfl
@[simp] theorem modifyLoc_thermal (chunk : Nat) (f : Loc → Loc) (s : State) : (modifyLoc chunk f s).thermal = s.thermal := rfl
@[simp] theorem modifyLoc_smbus (chunk : Nat) (f : Loc → Loc) (s : State) : (modifyLoc chunk f s).smbus = s.smbus := rfl
@[simp] theorem modifyLoc_jtag (chunk : Nat) (f : Loc → Loc) (s : State) : (modifyLoc chunk f s).jtag = s.jtag := rfl
@[simp] theorem modifyLoc_flash (chunk : Nat) (f : Loc → Loc) (s : State) : (modifyLoc chunk f s).flash = s.flash := rfl
@[simp] theorem modifyLoc_fw (chunk : Nat) (f : Loc → Loc) (s : State) : (modifyLoc chunk f s).fw = s.fw := rfl
@[simp] theorem modifyLoc_tines (chunk : Nat) (f : Loc → Loc) (s : State) : (modifyLoc chunk f s).tines = s.tines := rfl
@[simp] theorem modifyLoc_winnow (chunk : Nat) (f : Loc → Loc) (s : State) : (modifyLoc chunk f s).winnow = s.winnow := rfl
@[simp] theorem modifyLoc_voxca (chunk : Nat) (f : Loc → Loc) (s : State) : (modifyLoc chunk f s).voxca = s.voxca := rfl
@[simp] theorem modifyLoc_cipher (chunk : Nat) (f : Loc → Loc) (s : State) : (modifyLoc chunk f s).cipher = s.cipher := rfl
@[simp] theorem modifyLoc_mem (chunk : Nat) (f : Loc → Loc) (s : State) : (modifyLoc chunk f s).mem = s.mem := rfl
@[simp] theorem modifyLoc_granary (chunk : Nat) (f : Loc → Loc) (s : State) : (modifyLoc chunk f s).granary = s.granary := rfl
@[simp] theorem modifyLoc_dma (chunk : Nat) (f : Loc → Loc) (s : State) : (modifyLoc chunk f s).dma = s.dma := rfl
@[simp] theorem modifyLoc_journal (chunk : Nat) (f : Loc → Loc) (s : State) : (modifyLoc chunk f s).journal = s.journal := rfl
@[simp] theorem modifyLoc_ingest (chunk : Nat) (f : Loc → Loc) (s : State) : (modifyLoc chunk f s).ingest = s.ingest := rfl
@[simp] theorem modifyLoc_media (chunk : Nat) (f : Loc → Loc) (s : State) : (modifyLoc chunk f s).media = s.media := rfl
@[simp] theorem modifyLoc_read (chunk : Nat) (f : Loc → Loc) (s : State) : (modifyLoc chunk f s).read = s.read := rfl
@[simp] theorem modifyLoc_furrow (chunk : Nat) (f : Loc → Loc) (s : State) : (modifyLoc chunk f s).furrow = s.furrow := rfl
@[simp] theorem modifyLoc_bridges (chunk : Nat) (f : Loc → Loc) (s : State) : (modifyLoc chunk f s).bridges = s.bridges := rfl
@[simp] theorem modifyLoc_headland (chunk : Nat) (f : Loc → Loc) (s : State) : (modifyLoc chunk f s).headland = s.headland := rfl
@[simp] theorem modifyLoc_repl (chunk : Nat) (f : Loc → Loc) (s : State) : (modifyLoc chunk f s).repl = s.repl := rfl
@[simp] theorem modifyLoc_ports (chunk : Nat) (f : Loc → Loc) (s : State) : (modifyLoc chunk f s).ports = s.ports := rfl
@[simp] theorem modifyLoc_nvme (chunk : Nat) (f : Loc → Loc) (s : State) : (modifyLoc chunk f s).nvme = s.nvme := rfl
@[simp] theorem modifyLoc_sheaf (chunk : Nat) (f : Loc → Loc) (s : State) : (modifyLoc chunk f s).sheaf = s.sheaf := rfl
@[simp] theorem modifyLoc_out (chunk : Nat) (f : Loc → Loc) (s : State) : (modifyLoc chunk f s).out = s.out := rfl
@[simp] theorem modifyLoc_genCount (chunk : Nat) (f : Loc → Loc) (s : State) : (modifyLoc chunk f s).genCount = s.genCount := rfl
@[simp] theorem modifyLoc_freeCount (chunk : Nat) (f : Loc → Loc) (s : State) : (modifyLoc chunk f s).freeCount = s.freeCount := rfl
@[simp] theorem modifyLoc_pending (chunk : Nat) (f : Loc → Loc) (s : State) : (modifyLoc chunk f s).pending = s.pending := rfl

/-! ## `modifyDomain` -/

@[simp] theorem modifyDomain_time (d : Nat) (f : Domain → Domain) (s : State) : (modifyDomain d f s).time = s.time := rfl
@[simp] theorem modifyDomain_hsw (d : Nat) (f : Domain → Domain) (s : State) : (modifyDomain d f s).hsw = s.hsw := rfl
@[simp] theorem modifyDomain_boot (d : Nat) (f : Domain → Domain) (s : State) : (modifyDomain d f s).boot = s.boot := rfl
@[simp] theorem modifyDomain_alm (d : Nat) (f : Domain → Domain) (s : State) : (modifyDomain d f s).alm = s.alm := rfl
@[simp] theorem modifyDomain_mci (d : Nat) (f : Domain → Domain) (s : State) : (modifyDomain d f s).mci = s.mci := rfl
@[simp] theorem modifyDomain_vault (d : Nat) (f : Domain → Domain) (s : State) : (modifyDomain d f s).vault = s.vault := rfl
@[simp] theorem modifyDomain_thermal (d : Nat) (f : Domain → Domain) (s : State) : (modifyDomain d f s).thermal = s.thermal := rfl
@[simp] theorem modifyDomain_smbus (d : Nat) (f : Domain → Domain) (s : State) : (modifyDomain d f s).smbus = s.smbus := rfl
@[simp] theorem modifyDomain_jtag (d : Nat) (f : Domain → Domain) (s : State) : (modifyDomain d f s).jtag = s.jtag := rfl
@[simp] theorem modifyDomain_flash (d : Nat) (f : Domain → Domain) (s : State) : (modifyDomain d f s).flash = s.flash := rfl
@[simp] theorem modifyDomain_fw (d : Nat) (f : Domain → Domain) (s : State) : (modifyDomain d f s).fw = s.fw := rfl
@[simp] theorem modifyDomain_tines (d : Nat) (f : Domain → Domain) (s : State) : (modifyDomain d f s).tines = s.tines := rfl
@[simp] theorem modifyDomain_winnow (d : Nat) (f : Domain → Domain) (s : State) : (modifyDomain d f s).winnow = s.winnow := rfl
@[simp] theorem modifyDomain_voxca (d : Nat) (f : Domain → Domain) (s : State) : (modifyDomain d f s).voxca = s.voxca := rfl
@[simp] theorem modifyDomain_cipher (d : Nat) (f : Domain → Domain) (s : State) : (modifyDomain d f s).cipher = s.cipher := rfl
@[simp] theorem modifyDomain_mem (d : Nat) (f : Domain → Domain) (s : State) : (modifyDomain d f s).mem = s.mem := rfl
@[simp] theorem modifyDomain_granary (d : Nat) (f : Domain → Domain) (s : State) : (modifyDomain d f s).granary = s.granary := rfl
@[simp] theorem modifyDomain_dma (d : Nat) (f : Domain → Domain) (s : State) : (modifyDomain d f s).dma = s.dma := rfl
@[simp] theorem modifyDomain_journal (d : Nat) (f : Domain → Domain) (s : State) : (modifyDomain d f s).journal = s.journal := rfl
@[simp] theorem modifyDomain_ingest (d : Nat) (f : Domain → Domain) (s : State) : (modifyDomain d f s).ingest = s.ingest := rfl
@[simp] theorem modifyDomain_media (d : Nat) (f : Domain → Domain) (s : State) : (modifyDomain d f s).media = s.media := rfl
@[simp] theorem modifyDomain_read (d : Nat) (f : Domain → Domain) (s : State) : (modifyDomain d f s).read = s.read := rfl
@[simp] theorem modifyDomain_furrow (d : Nat) (f : Domain → Domain) (s : State) : (modifyDomain d f s).furrow = s.furrow := rfl
@[simp] theorem modifyDomain_bridges (d : Nat) (f : Domain → Domain) (s : State) : (modifyDomain d f s).bridges = s.bridges := rfl
@[simp] theorem modifyDomain_headland (d : Nat) (f : Domain → Domain) (s : State) : (modifyDomain d f s).headland = s.headland := rfl
@[simp] theorem modifyDomain_repl (d : Nat) (f : Domain → Domain) (s : State) : (modifyDomain d f s).repl = s.repl := rfl
@[simp] theorem modifyDomain_ports (d : Nat) (f : Domain → Domain) (s : State) : (modifyDomain d f s).ports = s.ports := rfl
@[simp] theorem modifyDomain_nvme (d : Nat) (f : Domain → Domain) (s : State) : (modifyDomain d f s).nvme = s.nvme := rfl
@[simp] theorem modifyDomain_sheaf (d : Nat) (f : Domain → Domain) (s : State) : (modifyDomain d f s).sheaf = s.sheaf := rfl
@[simp] theorem modifyDomain_out (d : Nat) (f : Domain → Domain) (s : State) : (modifyDomain d f s).out = s.out := rfl
@[simp] theorem modifyDomain_genCount (d : Nat) (f : Domain → Domain) (s : State) : (modifyDomain d f s).genCount = s.genCount := rfl
@[simp] theorem modifyDomain_freeCount (d : Nat) (f : Domain → Domain) (s : State) : (modifyDomain d f s).freeCount = s.freeCount := rfl
@[simp] theorem modifyDomain_pending (d : Nat) (f : Domain → Domain) (s : State) : (modifyDomain d f s).pending = s.pending := rfl

/-! ## `modifyEpoch` -/

@[simp] theorem modifyEpoch_time (e : EpochRef) (f : EpochEntry → EpochEntry) (s : State) : (modifyEpoch e f s).time = s.time := rfl
@[simp] theorem modifyEpoch_hsw (e : EpochRef) (f : EpochEntry → EpochEntry) (s : State) : (modifyEpoch e f s).hsw = s.hsw := rfl
@[simp] theorem modifyEpoch_boot (e : EpochRef) (f : EpochEntry → EpochEntry) (s : State) : (modifyEpoch e f s).boot = s.boot := rfl
@[simp] theorem modifyEpoch_alm (e : EpochRef) (f : EpochEntry → EpochEntry) (s : State) : (modifyEpoch e f s).alm = s.alm := rfl
@[simp] theorem modifyEpoch_mci (e : EpochRef) (f : EpochEntry → EpochEntry) (s : State) : (modifyEpoch e f s).mci = s.mci := rfl
@[simp] theorem modifyEpoch_vault (e : EpochRef) (f : EpochEntry → EpochEntry) (s : State) : (modifyEpoch e f s).vault = s.vault := rfl
@[simp] theorem modifyEpoch_thermal (e : EpochRef) (f : EpochEntry → EpochEntry) (s : State) : (modifyEpoch e f s).thermal = s.thermal := rfl
@[simp] theorem modifyEpoch_smbus (e : EpochRef) (f : EpochEntry → EpochEntry) (s : State) : (modifyEpoch e f s).smbus = s.smbus := rfl
@[simp] theorem modifyEpoch_jtag (e : EpochRef) (f : EpochEntry → EpochEntry) (s : State) : (modifyEpoch e f s).jtag = s.jtag := rfl
@[simp] theorem modifyEpoch_flash (e : EpochRef) (f : EpochEntry → EpochEntry) (s : State) : (modifyEpoch e f s).flash = s.flash := rfl
@[simp] theorem modifyEpoch_fw (e : EpochRef) (f : EpochEntry → EpochEntry) (s : State) : (modifyEpoch e f s).fw = s.fw := rfl
@[simp] theorem modifyEpoch_winnow (e : EpochRef) (f : EpochEntry → EpochEntry) (s : State) : (modifyEpoch e f s).winnow = s.winnow := rfl
@[simp] theorem modifyEpoch_voxca (e : EpochRef) (f : EpochEntry → EpochEntry) (s : State) : (modifyEpoch e f s).voxca = s.voxca := rfl
@[simp] theorem modifyEpoch_cipher (e : EpochRef) (f : EpochEntry → EpochEntry) (s : State) : (modifyEpoch e f s).cipher = s.cipher := rfl
@[simp] theorem modifyEpoch_mem (e : EpochRef) (f : EpochEntry → EpochEntry) (s : State) : (modifyEpoch e f s).mem = s.mem := rfl
@[simp] theorem modifyEpoch_granary (e : EpochRef) (f : EpochEntry → EpochEntry) (s : State) : (modifyEpoch e f s).granary = s.granary := rfl
@[simp] theorem modifyEpoch_dma (e : EpochRef) (f : EpochEntry → EpochEntry) (s : State) : (modifyEpoch e f s).dma = s.dma := rfl
@[simp] theorem modifyEpoch_map (e : EpochRef) (f : EpochEntry → EpochEntry) (s : State) : (modifyEpoch e f s).map = s.map := rfl
@[simp] theorem modifyEpoch_journal (e : EpochRef) (f : EpochEntry → EpochEntry) (s : State) : (modifyEpoch e f s).journal = s.journal := rfl
@[simp] theorem modifyEpoch_ingest (e : EpochRef) (f : EpochEntry → EpochEntry) (s : State) : (modifyEpoch e f s).ingest = s.ingest := rfl
@[simp] theorem modifyEpoch_media (e : EpochRef) (f : EpochEntry → EpochEntry) (s : State) : (modifyEpoch e f s).media = s.media := rfl
@[simp] theorem modifyEpoch_read (e : EpochRef) (f : EpochEntry → EpochEntry) (s : State) : (modifyEpoch e f s).read = s.read := rfl
@[simp] theorem modifyEpoch_furrow (e : EpochRef) (f : EpochEntry → EpochEntry) (s : State) : (modifyEpoch e f s).furrow = s.furrow := rfl
@[simp] theorem modifyEpoch_bridges (e : EpochRef) (f : EpochEntry → EpochEntry) (s : State) : (modifyEpoch e f s).bridges = s.bridges := rfl
@[simp] theorem modifyEpoch_headland (e : EpochRef) (f : EpochEntry → EpochEntry) (s : State) : (modifyEpoch e f s).headland = s.headland := rfl
@[simp] theorem modifyEpoch_repl (e : EpochRef) (f : EpochEntry → EpochEntry) (s : State) : (modifyEpoch e f s).repl = s.repl := rfl
@[simp] theorem modifyEpoch_ports (e : EpochRef) (f : EpochEntry → EpochEntry) (s : State) : (modifyEpoch e f s).ports = s.ports := rfl
@[simp] theorem modifyEpoch_nvme (e : EpochRef) (f : EpochEntry → EpochEntry) (s : State) : (modifyEpoch e f s).nvme = s.nvme := rfl
@[simp] theorem modifyEpoch_sheaf (e : EpochRef) (f : EpochEntry → EpochEntry) (s : State) : (modifyEpoch e f s).sheaf = s.sheaf := rfl
@[simp] theorem modifyEpoch_out (e : EpochRef) (f : EpochEntry → EpochEntry) (s : State) : (modifyEpoch e f s).out = s.out := rfl
@[simp] theorem modifyEpoch_genCount (e : EpochRef) (f : EpochEntry → EpochEntry) (s : State) : (modifyEpoch e f s).genCount = s.genCount := rfl
@[simp] theorem modifyEpoch_freeCount (e : EpochRef) (f : EpochEntry → EpochEntry) (s : State) : (modifyEpoch e f s).freeCount = s.freeCount := rfl
@[simp] theorem modifyEpoch_pending (e : EpochRef) (f : EpochEntry → EpochEntry) (s : State) : (modifyEpoch e f s).pending = s.pending := rfl

/-! ## `modifyQueue` -/

@[simp] theorem modifyQueue_time (h q : Nat) (f : List Ticket → List Ticket) (s : State) : (modifyQueue h q f s).time = s.time := rfl
@[simp] theorem modifyQueue_hsw (h q : Nat) (f : List Ticket → List Ticket) (s : State) : (modifyQueue h q f s).hsw = s.hsw := rfl
@[simp] theorem modifyQueue_boot (h q : Nat) (f : List Ticket → List Ticket) (s : State) : (modifyQueue h q f s).boot = s.boot := rfl
@[simp] theorem modifyQueue_alm (h q : Nat) (f : List Ticket → List Ticket) (s : State) : (modifyQueue h q f s).alm = s.alm := rfl
@[simp] theorem modifyQueue_mci (h q : Nat) (f : List Ticket → List Ticket) (s : State) : (modifyQueue h q f s).mci = s.mci := rfl
@[simp] theorem modifyQueue_vault (h q : Nat) (f : List Ticket → List Ticket) (s : State) : (modifyQueue h q f s).vault = s.vault := rfl
@[simp] theorem modifyQueue_thermal (h q : Nat) (f : List Ticket → List Ticket) (s : State) : (modifyQueue h q f s).thermal = s.thermal := rfl
@[simp] theorem modifyQueue_smbus (h q : Nat) (f : List Ticket → List Ticket) (s : State) : (modifyQueue h q f s).smbus = s.smbus := rfl
@[simp] theorem modifyQueue_jtag (h q : Nat) (f : List Ticket → List Ticket) (s : State) : (modifyQueue h q f s).jtag = s.jtag := rfl
@[simp] theorem modifyQueue_flash (h q : Nat) (f : List Ticket → List Ticket) (s : State) : (modifyQueue h q f s).flash = s.flash := rfl
@[simp] theorem modifyQueue_fw (h q : Nat) (f : List Ticket → List Ticket) (s : State) : (modifyQueue h q f s).fw = s.fw := rfl
@[simp] theorem modifyQueue_winnow (h q : Nat) (f : List Ticket → List Ticket) (s : State) : (modifyQueue h q f s).winnow = s.winnow := rfl
@[simp] theorem modifyQueue_voxca (h q : Nat) (f : List Ticket → List Ticket) (s : State) : (modifyQueue h q f s).voxca = s.voxca := rfl
@[simp] theorem modifyQueue_cipher (h q : Nat) (f : List Ticket → List Ticket) (s : State) : (modifyQueue h q f s).cipher = s.cipher := rfl
@[simp] theorem modifyQueue_mem (h q : Nat) (f : List Ticket → List Ticket) (s : State) : (modifyQueue h q f s).mem = s.mem := rfl
@[simp] theorem modifyQueue_granary (h q : Nat) (f : List Ticket → List Ticket) (s : State) : (modifyQueue h q f s).granary = s.granary := rfl
@[simp] theorem modifyQueue_dma (h q : Nat) (f : List Ticket → List Ticket) (s : State) : (modifyQueue h q f s).dma = s.dma := rfl
@[simp] theorem modifyQueue_map (h q : Nat) (f : List Ticket → List Ticket) (s : State) : (modifyQueue h q f s).map = s.map := rfl
@[simp] theorem modifyQueue_journal (h q : Nat) (f : List Ticket → List Ticket) (s : State) : (modifyQueue h q f s).journal = s.journal := rfl
@[simp] theorem modifyQueue_ingest (h q : Nat) (f : List Ticket → List Ticket) (s : State) : (modifyQueue h q f s).ingest = s.ingest := rfl
@[simp] theorem modifyQueue_media (h q : Nat) (f : List Ticket → List Ticket) (s : State) : (modifyQueue h q f s).media = s.media := rfl
@[simp] theorem modifyQueue_read (h q : Nat) (f : List Ticket → List Ticket) (s : State) : (modifyQueue h q f s).read = s.read := rfl
@[simp] theorem modifyQueue_furrow (h q : Nat) (f : List Ticket → List Ticket) (s : State) : (modifyQueue h q f s).furrow = s.furrow := rfl
@[simp] theorem modifyQueue_bridges (h q : Nat) (f : List Ticket → List Ticket) (s : State) : (modifyQueue h q f s).bridges = s.bridges := rfl
@[simp] theorem modifyQueue_headland (h q : Nat) (f : List Ticket → List Ticket) (s : State) : (modifyQueue h q f s).headland = s.headland := rfl
@[simp] theorem modifyQueue_repl (h q : Nat) (f : List Ticket → List Ticket) (s : State) : (modifyQueue h q f s).repl = s.repl := rfl
@[simp] theorem modifyQueue_ports (h q : Nat) (f : List Ticket → List Ticket) (s : State) : (modifyQueue h q f s).ports = s.ports := rfl
@[simp] theorem modifyQueue_nvme (h q : Nat) (f : List Ticket → List Ticket) (s : State) : (modifyQueue h q f s).nvme = s.nvme := rfl
@[simp] theorem modifyQueue_sheaf (h q : Nat) (f : List Ticket → List Ticket) (s : State) : (modifyQueue h q f s).sheaf = s.sheaf := rfl
@[simp] theorem modifyQueue_out (h q : Nat) (f : List Ticket → List Ticket) (s : State) : (modifyQueue h q f s).out = s.out := rfl
@[simp] theorem modifyQueue_genCount (h q : Nat) (f : List Ticket → List Ticket) (s : State) : (modifyQueue h q f s).genCount = s.genCount := rfl
@[simp] theorem modifyQueue_freeCount (h q : Nat) (f : List Ticket → List Ticket) (s : State) : (modifyQueue h q f s).freeCount = s.freeCount := rfl
@[simp] theorem modifyQueue_pending (h q : Nat) (f : List Ticket → List Ticket) (s : State) : (modifyQueue h q f s).pending = s.pending := rfl

end Sys2Proof.Machine
end

