-- ==== Sys2Proof/WellFormed.lean ====
section
/-! DEFINITION. Which terms of `Instr` are commands that something outside can give: every number within the range that the manual gives it. The
meanings are total and ask nothing of this. -/

namespace Sys2Proof

/-- A number of so many bits. -/
def fits (bits n : Nat) : Bool := decide (n < 2 ^ bits)
/-- A Furrow position: 192 bridges (R16). -/
def okBridge (n : Nat) : Bool := decide (n < 192)
/-- A bridge's two ports (R16). -/
def okPort (n : Nat) : Bool := decide (n < 2)
/-- The four Headland sub-links (R307). -/
def okSub (n : Nat) : Bool := decide (n < 4)
/-- The 32 harrows (05). -/
def okHarrow (n : Nat) : Bool := decide (n < 32)
/-- The 512 tines (05). -/
def okTine (n : Nat) : Bool := decide (n < 512)
/-- Compressors or decompressors of an engine slice (07). -/
def okEngine (n : Nat) : Bool := decide (n < 3)
/-- Write, mirror and work arena (R441). -/
def okArena (n : Nat) : Bool := decide (n < 3)
/-- The eight pools (Table 18-2). -/
def okPool (n : Nat) : Bool := decide (n < 8)
/-- A unit of Table 18-4: six bits. -/
def okUnit (n : Nat) : Bool := decide (n < 64)
/-- The eight Winnow tables (R135). -/
def okTable (n : Nat) : Bool := decide (n < 8)
/-- The sixteen masks of a table (R139). -/
def okMask (n : Nat) : Bool := decide (n < 16)
/-- The 64 Winnow banks (06). -/
def okBank (n : Nat) : Bool := decide (n < 64)
/-- The 256 DMA channels (19). -/
def okChannel (n : Nat) : Bool := decide (n < 256)
/-- The four quadrants. -/
def okQuadrant (n : Nat) : Bool := decide (n < 4)
/-- The eight priorities (R335). -/
def okPriority (n : Nat) : Bool := decide (n < 8)
/-- The sixteen ways of the metadata cache (R424). -/
def okWay (n : Nat) : Bool := decide (n < 16)
/-- The four regions of the boot flash that hold content (Table 1-8). -/
def okRegion (n : Nat) : Bool := decide (n < 4)
/-- A dedup domain number: 8 bits (08). -/
def okDomain (n : Nat) : Bool := decide (n < 256)
/-- The 32 logical ports (R331). -/
def okLport (n : Nat) : Bool := decide (n < 32)
/-- A queue-pair index: 20 bits (Table 14-7). -/
def okQp (n : Nat) : Bool := decide (n < 2 ^ 20)
/-- The sixteen command rings (R476). -/
def okRing (n : Nat) : Bool := decide (n < 16)
/-- A write of BAR0: 4 or 8 bytes wide (R475). -/
def okWidth (n : Nat) : Bool := n == 4 || n == 8
/-- INIT_CREDITS of a bridge: 8 to 255 (Table 10-2). -/
def okCredits (n : Nat) : Bool := decide (8 ≤ n) && decide (n < 256)
/-- A far-store address: 42 bits (R419). -/
def okFar (n : Nat) : Bool := decide (n < 2 ^ 42)
/-- A near-store address: 96 GiB (R414). -/
def okNear (n : Nat) : Bool := decide (n < 96 * 2 ^ 30)

/-- A packet: 48 bytes of parameters and an authorisation block of 64 bytes or none (Tables 20-4, 20-8). -/
def McPacket.wf (p : McPacket) : Bool :=
  p.params.length == 48 && (p.authBlock.isEmpty || p.authBlock.length == 64) && okRing p.fetchedFrom

/-- An epoch reference (Table 5-3): harrow, entry of 1,024, generation of 16 bits. -/
def EpochRef.wf (e : EpochRef) : Bool := okHarrow e.harrow && decide (e.entry < 1024) && decide (e.gen < 2 ^ 16)

/-- An epoch reference that may be absent. -/
def okEpoch : Option EpochRef → Bool
  | none => true
  | some e => e.wf

/-- Where a received frame's numbers must lie. -/
def FrameHead.wf (h : FrameHead) : Bool :=
  okLport h.lport && h.vlan.all (fun v => decide (v.1 < 4096) && decide (v.2 < 8)) && fits 48 h.dest && fits 48 h.source

/-- A received frame's headers: 5-bit port, 12-bit VLAN identifier and 3-bit PCP, 6-bit DSCP, 24-bit QPN and PSN. -/
def RoceHead.wf (h : RoceHead) : Bool :=
  okLport h.lport && h.vlan.all (fun v => decide (v.1 < 4096) && decide (v.2 < 8)) && fits 48 h.dest && fits 6 h.dscp && fits 24 h.qpn && fits 24 h.psn

/-- A RETH: 64-bit offset, 32-bit key and length. -/
def okReth : Option WriteHeader → Bool
  | none => true
  | some w => fits 64 w.offset && fits 32 w.key && fits 32 w.length

/-- A connection request: 32-bit communication ID, 24-bit QPN and PSN, 5-bit timeout code. -/
def CmRequest.wf (r : CmRequest) : Bool :=
  okLport r.lport && fits 32 r.commId && fits 24 r.qpn && fits 24 r.psn && fits 5 r.timeout

/-- A connection reply: 32-bit communication IDs, 24-bit QPN and PSN. -/
def CmReply.wf (r : CmReply) : Bool := fits 32 r.commId && fits 32 r.remoteId && fits 24 r.qpn && fits 24 r.psn

/-- A cipher request: a working slot of 12 bits and an IV of 12 bytes (Table 8-1). -/
def CipherRequest.wf (r : CipherRequest) : Bool := fits 12 r.keySlot && r.iv.length == 12

/-- Readings: four quadrants and four HBM3 stacks (R567). -/
def Readings.wf (r : Readings) : Bool := r.tjQ.length == 4 && r.tempHbm.length == 4

/-- A well-formed command. -/
def Instr.wf : Instr → Bool
  | .powerOnReset _ _ => true
  | .pinReset _ _ => true
  | .selfReset => true
  | .perstN _ => true
  | .bootStepDone _ => true
  | .bootWatchdog => true
  | .pwrfailAccept => true
  | .pwrfailNRise => true
  | .pwrfailHighTimer => true
  | .dumpEndCommitted => true
  | .paceWindow counts => decide (counts.length = 4)
  | .timeMarkTimer => true
  | .ticketDispatch tine _ => okTine tine
  | .glean tine _ => okTine tine
  | .ticketWatchdog tine => okTine tine
  | .epochCommit epoch _ => okEpoch epoch
  | .epochSquash epoch => epoch.wf
  | .runAheadWindow => true
  | .harrowDrained h => okHarrow h
  | .parkDrainTimeout h => okHarrow h
  | .parkRetryTimer h => okHarrow h
  | .harrowWakeDone h => okHarrow h
  | .grainComposition _ _ harrow _ => okHarrow harrow
  | .chunkCut _ harrow => okHarrow harrow
  | .fingerprint _ => true
  | .dedupLookup _ _ _ => true
  | .baleSealTimeout _ _ => true
  | .baleCommit _ _ => true
  | .journalPersistTimeout => true
  | .metadataRowCommit _ => true
  | .checkpointTimer => true
  | .admissionResume => true
  | .readTimeoutExpiry quadrant entry _ => okQuadrant quadrant && fits 64 entry
  | .search table mask _ _ _ => okTable table && okMask mask
  | .insert table _ data ticket => okTable table && fits 32 data && okEpoch ticket
  | .winnowDelete table mask _ ticket => okTable table && okMask mask && okEpoch ticket
  | .age bank => okBank bank
  | .clear bank => okBank bank
  | .winnowAgeTimer => true
  | .winnowRebuild => true
  | .winnowTableGet p => p.wf
  | .winnowTableSet p => p.wf
  | .winnowMaskSet p => p.wf
  | .winnowSearch p => p.wf
  | .winnowRead p => p.wf
  | .winnowClear p => p.wf
  | .winnowStats p => p.wf
  | .voxcaCompress harrow engine _ _ => okHarrow harrow && okEngine engine
  | .voxcaVerify _ => true
  | .voxcaDecompress harrow engine _ _ _ => okHarrow harrow && okEngine engine
  | .gcmEncrypt tine unit epoch req1 => okTine tine && okUnit unit && okEpoch epoch && req1.wf
  | .gcmDecrypt tine unit epoch req1 => okTine tine && okUnit unit && okEpoch epoch && req1.wf
  | .hmac tine unit epoch req1 => okTine tine && okUnit unit && okEpoch epoch && req1.wf
  | .cipherCompletion _ _ => true
  | .slotLoadDone slot => fits 12 slot
  | .slotEvictDone slot => fits 12 slot
  | .vaultAlarmSupply => true
  | .vaultAlarmTemp => true
  | .vaultAlarmMesh => true
  | .vaultAlarmTamper => true
  | .vaultAlarmCheck => true
  | .vauxLoss => true
  | .keyStatus p => p.wf
  | .keyLoadGauntlet p _ => p.wf
  | .keyClearGauntlet p => p.wf
  | .keyAlarmClear p => p.wf
  | .keyDomainBind p => p.wf
  | .keyRewrap p => p.wf
  | .keyEpochAdvance p => p.wf
  | .keyEpochDestroy p => p.wf
  | .keyEpochStats p => p.wf
  | .keySlotInfo p => p.wf
  | .keyHmac p => p.wf
  | .cipherStats p => p.wf
  | .keyLoadAckTimeout domain epoch => okDomain domain && fits 32 epoch
  | .reclaimVictim _ => true
  | .scrubTimer _ => true
  | .bridgeLostTimer bridge => okBridge bridge
  | .readonlyExit => true
  | .tempHistHour => true
  | .mediaGeometryGet p => p.wf
  | .mediaGeometrySet p => p.wf
  | .mediaHealthArray p => p.wf
  | .mediaHealthBridge p => p.wf
  | .mediaHealthDie p => p.wf
  | .reclaimStatus p => p.wf
  | .scrubStart p _ => p.wf
  | .bridgeSet p => p.wf
  | .dieRetire p => p.wf
  | .bridgeRetire p => p.wf
  | .furrowTrainTimeout bridge => okBridge bridge
  | .furrowTrainingDone bridge _ version1 credits => okBridge bridge && fits 8 version1 && okCredits credits
  | .furrowRetrainRetry bridge => okBridge bridge
  | .furrowLinkFrame bridge _ _ credit => okBridge bridge && fits 8 credit
  | .furrowReplayTimeout bridge => okBridge bridge
  | .bridgeIdentify bridge port tag _ => okBridge bridge && okPort port && fits 16 tag
  | .dieRead bridge port tag _ addr _ _ _ _ _ => okBridge bridge && okPort port && fits 16 tag && fits 64 addr
  | .dieProgram bridge port tag _ _ addr _ _ _ => okBridge bridge && okPort port && fits 16 tag && fits 64 addr
  | .dieErase bridge port tag _ _ addr _ _ _ => okBridge bridge && okPort port && fits 16 tag && fits 64 addr
  | .status bridge port tag _ dieBusy _ _ _ => okBridge bridge && okPort port && fits 16 tag && fits 32 dieBusy
  | .telemetry bridge port tag _ page _ _ => okBridge bridge && okPort port && fits 16 tag && fits 8 page
  | .leaseAcquire bridge port tag _ leaseMs _ => okBridge bridge && okPort port && fits 16 tag && fits 16 leaseMs
  | .leaseRenew bridge port tag _ leaseMs _ => okBridge bridge && okPort port && fits 16 tag && fits 16 leaseMs
  | .leaseRelease bridge port tag _ _ => okBridge bridge && okPort port && fits 16 tag
  | .fence bridge port tag _ dieMask _ => okBridge bridge && okPort port && fits 16 tag && fits 32 dieMask
  | .leaseExpiry bridge _ => okBridge bridge
  | .furrowResponse bridge _ => okBridge bridge
  | .furrowResponseTimeout bridge tag => okBridge bridge && fits 16 tag
  | .leaseRenewTimer => true
  | .leaseWindowEnd bridge => okBridge bridge
  | .leaseAcquireRetry bridge => okBridge bridge
  | .furrowStatus p => p.wf
  | .snapCreate p => p.wf
  | .snapBarrierDrained _ => true
  | .snapDelete p => p.wf
  | .snapDeletePage _ _ _ => true
  | .snapList p => p.wf
  | .snapExpose p => p.wf
  | .snapWithdraw p => p.wf
  | .replPair p => p.wf
  | .replAccept p => p.wf
  | .replStart p => p.wf
  | .replStatus p => p.wf
  | .replStop p => p.wf
  | .replUnpair p => p.wf
  | .hello qp _ => okQp qp
  | .helloReply qp _ => okQp qp
  | .confirm qp _ => okQp qp
  | .diffBegin qp _ => okQp qp
  | .diffReady qp _ => okQp qp
  | .fpList qp _ => okQp qp
  | .fpWant qp _ _ => okQp qp
  | .chunkData qp _ => okQp qp
  | .batchEnd qp _ => okQp qp
  | .batchDone qp _ _ => okQp qp
  | .objectBegin qp _ => okQp qp
  | .diffEnd qp _ => okQp qp
  | .diffDone qp _ => okQp qp
  | .keepalive qp _ => okQp qp
  | .replAbort qp _ => okQp qp
  | .replKeepaliveTimer qp => okQp qp
  | .replIdleTimeout qp => okQp qp
  | .migrateExport p => p.wf
  | .migrateStatus p => p.wf
  | .migrateStop p => p.wf
  | .exportStallTimeout _ => true
  | .headlandTrainTimeout sub _ => okSub sub
  | .headlandRetrainRetry sub => okSub sub
  | .headlandLinkFrame sub _ _ credit => okSub sub && fits 8 credit
  | .headlandReplayTimeout sub => okSub sub
  | .heartbeatTimer => true
  | .heartbeat sub _ => okSub sub
  | .heartbeatLoss => true
  | .inventory sub _ => okSub sub
  | .activeReady sub _ => okSub sub
  | .mirror sub _ => okSub sub
  | .mirrorAck sub _ => okSub sub
  | .mirrorTimeout mseq => fits 64 mseq
  | .mirrorGiveup mseq => fits 64 mseq
  | .txDisableEnd => true
  | .headlandDegradeClear => true
  | .release sub _ => okSub sub
  | .resyncBegin sub _ => okSub sub
  | .resyncEnd sub _ => okSub sub
  | .forward sub _ => okSub sub
  | .forwardDone sub _ _ => okSub sub
  | .keyLoad sub _ => okSub sub
  | .keyLoadAck sub _ => okSub sub
  | .idBlockReq sub _ => okSub sub
  | .idBlockGrant sub _ => okSub sub
  | .eraseReq sub _ => okSub sub
  | .eraseDone sub _ => okSub sub
  | .drainReq sub _ => okSub sub
  | .drainReply sub _ => okSub sub
  | .yieldNotice sub _ => okSub sub
  | .yieldInNAsserted _ => true
  | .yieldLeasesReleased => true
  | .takeoverAdopt _ => true
  | .handoff sub _ => okSub sub
  | .returnReq sub _ => okSub sub
  | .returnGrant sub _ => okSub sub
  | .imageReq sub _ => okSub sub
  | .imageData sub _ => okSub sub
  | .supervisorDeadline _ => true
  | .eccWindow _ _ => true
  | .headlandWaitExpiry => true
  | .holdDownExpiry => true
  | .headlandStatus p => p.wf
  | .returnControlAutoOn p => p.wf
  | .returnControlAutoOff p => p.wf
  | .returnControlEndHold p => p.wf
  | .returnControlYield p => p.wf
  | .subPortUp lport => okLport lport
  | .subPortDown lport => okLport lport
  | .portLinkDown lport => okLport lport
  | .arpRequest head sender target => head.wf && fits 128 sender && fits 128 target
  | .neighbourSolicitation head sender target => head.wf && fits 128 sender && fits 128 target
  | .icmpEchoRequest head sender target _ => head.wf && fits 128 sender && fits 128 target
  | .pfcFrame lport priority quanta => okLport lport && okPriority priority && fits 16 quanta
  | .pfcPauseEnd lport priority => okLport lport && okPriority priority
  | .pfcRefresh lport priority _ => okLport lport && okPriority priority
  | .pfcStormTimer lport priority _ => okLport lport && okPriority priority
  | .fecWindow lport _ _ => okLport lport
  | .ctxPressureWindow quadrant => okQuadrant quadrant
  | .send head _ _ => head.wf
  | .sendWithInvalidate head _ key _ => head.wf && fits 32 key
  | .rdmaWrite head _ header _ => head.wf && okReth header
  | .rdmaReadRequest head => head.wf
  | .rdmaReadResponse head _ _ => head.wf
  | .acknowledge head _ => head.wf
  | .cnp head => head.wf
  | .rocePacketOther head opcode => head.wf && fits 8 opcode
  | .retransmitTimer qp => okQp qp
  | .rnrDelayEnd qp => okQp qp
  | .ackCoalesceTimer qp => okQp qp
  | .contextFetchDone qp => okQp qp
  | .stubFetchDone quadrant => okQuadrant quadrant
  | .req request => request.wf
  | .mra commId timeout => fits 32 commId && fits 5 timeout
  | .rej commId reason => fits 32 commId && fits 16 reason
  | .rep reply => reply.wf
  | .rtu commId => fits 32 commId
  | .dreq commId remoteId => fits 32 commId && fits 32 remoteId
  | .drep commId => fits 32 commId
  | .repResendTimer qp => okQp qp
  | .dreqTimeout qp => okQp qp
  | .qpReuseDelay qp => okQp qp
  | .lzMsgTimeout qp => okQp qp
  | .lzRevokeDone zone => fits 16 zone
  | .portStatus p => p.wf
  | .qpInfo p => p.wf
  | .connect qp _ => okQp qp
  | .propertyGet qp _ => okQp qp
  | .ccEn qp _ => okQp qp
  | .ccShn qp _ => okQp qp
  | .disconnect qp _ => okQp qp
  | .nvmeIdentify qp _ => okQp qp
  | .getLogPage qp _ => okQp qp
  | .namespaceCreate qp _ => okQp qp
  | .namespaceDelete qp _ => okQp qp
  | .namespaceAttach qp _ => okQp qp
  | .namespaceDetach qp _ => okQp qp
  | .abort qp _ => okQp qp
  | .setFeaturesPowerManagement qp _ => okQp qp
  | .setFeaturesNumberOfQueues qp _ => okQp qp
  | .setFeaturesAsyncEventConfig qp _ => okQp qp
  | .setFeaturesApst qp _ => okQp qp
  | .setFeaturesKeepAliveTimer qp _ => okQp qp
  | .getFeatures qp _ => okQp qp
  | .asynchronousEventRequest qp _ => okQp qp
  | .keepAlive qp _ => okQp qp
  | .katoExpiry controller => fits 16 controller
  | .apstIdleTimer controller entry => fits 16 controller && decide (entry < 32)
  | .read qp _ _ => okQp qp
  | .write qp _ => okQp qp
  | .flush qp _ => okQp qp
  | .writeZeroes qp _ => okQp qp
  | .datasetManagement qp _ => okQp qp
  | .compare qp _ _ => okQp qp
  | .version qp _ => okQp qp
  | .putBegin qp _ => okQp qp
  | .putData qp _ => okQp qp
  | .putCommit qp _ => okQp qp
  | .putAbort qp _ => okQp qp
  | .get qp _ _ => okQp qp
  | .stat qp _ => okQp qp
  | .delete qp _ => okQp qp
  | .list qp _ => okQp qp
  | .hold qp _ => okQp qp
  | .releaseHold qp _ => okQp qp
  | .sheafPutTimeout qp _ => okQp qp
  | .nsScrubTimer errors => errors.all (fun e => okNear e.addr)
  | .fsScrubTimer errors => errors.all (fun e => okFar e.addr)
  | .mcAccess addr _ err => okFar addr && decide (err < 4)
  | .mcPrefetch addr => okFar addr
  | .memStatus p => p.wf
  | .mcEnable p => p.wf
  | .mcDisable p => p.wf
  | .mcDisableDone => true
  | .mcForceDisable p => p.wf
  | .mcPreload p => p.wf
  | .mcUnlock p => p.wf
  | .clean p => p.wf
  | .cleanInvalidate p => p.wf
  | .purge p => p.wf
  | .mcWayPowerDown p => p.wf
  | .mcWayDownDone way => okWay way
  | .mcWayPowerUp p => p.wf
  | .mcTagRead p => p.wf
  | .locationPagedDaily => true
  | .alloc unit epoch arena _ _ => okUnit unit && okEpoch epoch && okArena arena
  | .share unit handle receiver ticket => okUnit unit && fits 32 handle && okUnit receiver && okEpoch ticket
  | .granaryRelease unit handle ticket => okUnit unit && fits 32 handle && okEpoch ticket
  | .allocWaitLong arena pool => okArena arena && okPool pool
  | .granaryStatus p => p.wf
  | .granaryHeaderRead p => p.wf
  | .copy channel _ => okChannel channel
  | .fill channel _ => okChannel channel
  | .dmaCompare channel _ => okChannel channel
  | .dmaDoorbell channel _ _ => okChannel channel
  | .dmaEnable channel _ => okChannel channel
  | .dmaDisable channel => okChannel channel
  | .dmaChannelIdle channel => okChannel channel
  | .dmaResume channel _ => okChannel channel
  | .dmaStatus p => p.wf
  | .dmaBufferAlloc p => p.wf
  | .dmaBufferFree p => p.wf
  | .registerWrite offset width value => fits 16 offset && okWidth width && fits 64 value
  | .mciDoorbell ring tail slots => okRing ring && fits 16 tail && slots.all (fun x => x.pkt.wf)
  | .replyHeadWrite head => fits 16 head
  | .ringEnable ring => decide (ring ≤ 16)
  | .ringDisable ring => decide (ring ≤ 16)
  | .nop p => p.wf
  | .identify p => p.wf
  | .watch p => p.wf
  | .watchTimeout ring => okRing ring
  | .setModeBoot p => p.wf
  | .setModeDump p => p.wf
  | .setModeService p => p.wf
  | .quiesce p => p.wf
  | .quiesceComplete function => fits 8 function
  | .resume p _ => p.wf
  | .authChallenge p => p.wf
  | .authNonceExpiry ring => okRing ring
  | .timeSet p => p.wf
  | .cancel p _ => p.wf
  | .attnAck p => p.wf
  | .getParam p => p.wf
  | .setParam p => p.wf
  | .commitConfig p => p.wf
  | .configRead p => p.wf
  | .domainCreate p => p.wf
  | .domainDelete p => p.wf
  | .domainGet p => p.wf
  | .scopeParamSet p => p.wf
  | .scopeParamGet p => p.wf
  | .nsCreate p => p.wf
  | .nsDelete p => p.wf
  | .nsList p => p.wf
  | .hostAdd p => p.wf
  | .hostRemove p => p.wf
  | .nsAttach p => p.wf
  | .nsDetach p => p.wf
  | .objdomCreate p => p.wf
  | .objdomDelete p => p.wf
  | .clientAdd p => p.wf
  | .clientRemove p => p.wf
  | .holdClear p => p.wf
  | .almanacStatus p => p.wf
  | .almanacRead p => p.wf
  | .almanacClear p => p.wf
  | .fwManifestPut p => p.wf
  | .piecePut p => p.wf
  | .fwStatus p => p.wf
  | .fwActivate p _ => p.wf
  | .fwDiscard p => p.wf
  | .telemetryGet p => p.wf
  | .telemetryClear p => p.wf
  | .eventRead p => p.wf
  | .mciStats p => p.wf
  | .ticketDump p => p.wf
  | .hostWatchdog _ => true
  | .almanacFlushTimer => true
  | .almanacUnitCommit _ => true
  | .handover harrow => okHarrow harrow
  | .fwImageOverwrite => true
  | .thermtrip => true
  | .thermalWindow means _ => decide (means.tjQ.length = 4)
  | .lifeUsedHour _ => true
  | .supplyExcursion _ _ _ => true
  | .clockLoss _ _ => true
  | .readWord _ => true
  | .smbusSelect _ => true
  | .smbusDataWrite _ _ => true
  | .alertResponseAddress => true
  | .smbusRefresh readings => readings.wf
  | .bypass => true
  | .idcode => true
  | .samplePreload => true
  | .extest => true
  | .extestPulse => true
  | .extestTrain => true
  | .clamp => true
  | .highz => true
  | .headlandTrainingDone sub _ => okSub sub
  | .furrowBlockLockLoss bridge => okBridge bridge
  | .headlandBlockLockLoss sub => okSub sub
  | .furrowFrameDiscard bridge _ => okBridge bridge
  | .headlandFrameDiscard sub _ => okSub sub
  | .headlandBadMessage sub _ => okSub sub
  | .vauxRise => true
  | .bootFlashRefresh region => okRegion region
  | .pcieRetryTimer _ => true
  | .arpReply head address mac => head.wf && fits 128 address && fits 48 mac
  | .neighbourAdvertisement head address mac => head.wf && fits 128 address && fits 48 mac
  | .reqTimeout qp => okQp qp
  | .listRebuildDone arena pool => okArena arena && okPool pool
  | .bridgeReset bridge => okBridge bridge

end Sys2Proof
end

