-- ==== Sys2Proof/Tests/Slice0.lean ====
section
/-! SUPPORT. Tests: ill-formed commands are refused, single steps on small states, and for each clause of a statement a state and operands that
meet all its hypotheses. -/

namespace Sys2Proof.Tests

open Sys2Proof.Machine

set_option maxRecDepth 100000
set_option Elab.async false

/-! ## States and operands for the witnesses -/

/-- What an option that is present holds: this and the like let a witness name a computed value. -/
theorem sg {α : Type} {o : Option α} (h : o.isSome = true) : o = some (o.get h) := (Option.some_get h).symm

theorem sg2 {α β : Type} {o : Option (α × β)} (h : o.isSome = true) : o = some ((o.get h).1, (o.get h).2) := (Option.some_get h).symm

theorem sg3 {α β γ : Type} {o : Option (α × β × γ)} (h : o.isSome = true) : o = some ((o.get h).1, (o.get h).2.1, (o.get h).2.2) :=
  (Option.some_get h).symm

theorem okg {ε α : Type} {e : Except ε α} (h : e.toOption.isSome = true) : e = .ok (e.toOption.get h) := by
  cases e with
  | error => simp [Except.toOption] at h
  | ok a => rfl

theorem sp {α β : Type} {x : Option α × β} (h : x.1.isSome = true) : x = (some (x.1.get h), x.2) := by
  rw [Option.some_get]

theorem sn {α β : Type} {x : α × β} {a : α} (h : x.1 = a) : x = (a, x.2) := by rw [← h]

/-- The state after reset, in a mode. -/
def inMode (m : Mode) (s : State) : State := { s with boot := { s.boot with mode := m } }

/-- A packet with these parameters. -/
def pkt (params : Bytes) : McPacket :=
  { fetchedFrom := 0, tag := 1, flags := 0, function := 0, ring := 0, dataPages := 0, dataPtr := 0, params := padTo 48 params, authBlock := [],
    data := [], busError := false }

/-- The state with a packet fetched from its ring. -/
def got (opcode : Nat) (p : McPacket) (s : State) : State :=
  modifyRing p.fetchedFrom (fun r => { r with fetched := [⟨BitVec.ofNat 16 opcode, p, false⟩] }) s

/-- A dedup domain with key epoch 1 and a KEK in slot 1. -/
def demoDomain : Domain :=
  { id := 2, salt := zeros 32, kek := 1, voxcaLevel := 3, verifyPolicy := 0, epoch := 1, issued := 2, counts := [(1, 5)], envelopes := [],
    destroying := [], locked := false, lockTold := false }

/-- A namespace of 1,024 blocks of 4 KiB, of head 0. -/
def demoNs : Namespace :=
  { id := 1, size := 1024, lbaLog2 := 12, domain := 2, nguid := zeros 16, hosts := [0], owner := 0, exposes := none }

def demoPair : PairRecord :=
  { pair := 1, role := 1, state := 1, kind := 1, slot := 8, source := 1, target := 5, sessionLast := 0, partner := zeros 16, lastTargetJseq := 0 }

/-- Tables with one of each. -/
def demoMap : MapTables :=
  { resetTables with
    domains := [(2, demoDomain)], namespaces := [demoNs], objdoms := [{ id := 1, domain := 2, owner := 0, clients := [] }]
    snaps := [⟨1, 1, 1, 10, 0, false⟩], pairs := [demoPair], hosts := [(0, [104]), (1, [105])] }

/-- A serving head without tables, and one with them and with keys in the vault. -/
def bare : State := inMode .active State.reset

def demo : State :=
  { bare with map := demoMap, vault := { resetVault with gauntlet := List.replicate 16 (some (zeros 32)) } }

/-- Functions that are quiesced. -/
def quiet (fs : List Nat) (s : State) : State := { s with mci := { s.mci with quiesced := fs } }

def inDomain (d : Domain) : State := modifyMap (fun m => { m with domains := [(2, d)] }) demo

def inNs (n : Namespace) : State := modifyMap (fun m => { m with namespaces := [n] }) demo

def inNs2 (n : Namespace) : State := modifyMap (fun m => { m with namespaces := [demoNs, n] }) demo

def inRepl (r : ReplPart) : State := { demo with repl := r }

def inPorts (p : PortsPart) : State := { demo with ports := p }

/-- The first bridges leased. -/
def lease (n : Nat) (s : State) : State :=
  { s with furrow := List.replicate n { resetFurrow with leased := true, link := { resetLinkEnd with state := .up, credits := 32 } } ++ s.furrow.drop n }

def demoDie : DieState :=
  { state := 0, reads := 0, retries := 0, softReads := 0, uncorrectable := 0, cbitsHist := [], silent := 0, retirements := [] }

def withDie : State := modifyHeadBridge 0 (fun h => { h with dies := [demoDie, demoDie] }) demo

def demoSes : ReplSession :=
  { qp := some 2, initiator := true, pair := 1, kind := 1, target := 5, session := 1, slot := 8, wslot := none, nonceI := zeros 16, nonceR := zeros 16,
    partner := zeros 16, persist := 0, stage := 1, txSeq := 0, rxSeq := 0, baseNum := 0, goalNum := 1, base := 0, goal := 10, batches := [],
    batch := 0, lastBegins := [], inbound := [], object := none, held := false, bytesSent := 0, lastRx := 0, lastTx := 0 }

def demoExport : ExportRun :=
  { num := 1, kind := 1, id := 1, snap := 1, eflags := 0, address := 0, wanted := 1, lanes := [], open' := [], resume := 0, asked := [], frames := [],
    acked := 0, bytes := 0, state := 0, snaps := [], temp := false, startTime := 0, lastAdvance := 0 }

/-- A connected context of logical port 0. -/
def demoQp : QpCtx :=
  { index := 2, gen := 0, state := .connected, service := .nvme, active := false, lport := 0, remoteQpn := 5, remoteAddr := 7, gid := 0, remoteId := 9,
    pmtu := 4096, cmTimeout := 14, resends := 0, sentPriv := [], home := 0, closing := false, epsn := 0, msn := 0, inbound := none, naked := false,
    unacked := 0, posted := 32, received := [], owed := 0, bound := none, abandoned := false, npsn := 0, sent := [], waiting := [], retries := 0,
    rnrs := 0, rnrWait := false, sinceAck := 0, rate := 100000, srtt := 0, lastCut := none, lastCnp := none, cnpSent := none }

def farReady : State := modifyMem (fun m => { m with farValid := true, filterExtents := 1, locationExtents := 1 }) demo

def demoIdent : BridgeIdent :=
  { uid := 1, maker := 1, version := 1, dies := 64, retryLevels := 4, blockUnits := 64, blocksPerDie := 64, peRated := 1000, corrLimit := 72,
    progRate := 1, eraseMaxMs := 10, cmdSlots := 64 }

/-- Every bridge identified. -/
def fitted : State :=
  modifyMedia (fun m => { m with bridges := m.bridges.map (fun h => { h with ident := some demoIdent, dies := List.replicate 2 demoDie }) }) demo

/-- A buffer of the work arena taken by the command interface, and its handle. -/
def withBuffer : State := (takeBuffer 2 0 0x2D none demo).2

def heldBuffer : Nat := ((takeBuffer 2 0 0x2D none demo).1).getD 0

/-- Array time set, at this many microseconds. -/
def atTime (us : Nat) (s : State) : State := { s with time := { s.time with resumed := true, arraySet := true, arrayBase := us } }

def demoWatch : Watch := { tag := 7, attnSeen := 0, timeout := 100 }

def demoObject : ObjRecord :=
  { key := [1, 2], objDomain := 1, dedupDomain := 2, state := 1, holdFlags := 1, number := 9, size := 0, pieceCount := 0, commitTime := 0,
    holdUntil := 5, prev := 0 }

def withObject : State := modifyMap (fun m => { m with objects := [demoObject] }) demo

/-- A manifest of one piece of three bytes, which the update state holds. -/
def demoManifest : Bytes :=
  leBytes 4 0x57465848 ++ [1, 1, 0, 0] ++ leBytes 4 1 ++ leBytes 4 1 ++ leBytes 8 3 ++ leBytes 4 160 ++ zeros 4 ++ sha256 [1, 2, 3] ++ zeros 96

def withManifest (st : Nat) : State := { demo with fw := { resetFw with state := st, manifest := some demoManifest } }

def demoTicket : Ticket :=
  { type := 1, prio := 1, wait := false, tomb := false, pinned := false, home := 0, orderKey := none, epoch := none, parent := 0xFFFFFFFF,
    handles := [], args := [], stamp := 0, ref := 0, expiries := 0, spilled := false }

/-- A ticket in the queue of class 1 of a harrow. -/
def queued (h : Nat) (t : Ticket) (s : State) : State := modifyHarrow h (fun x => { x with queues := [[], List.replicate 16 t, [], []] }) s

def runningOn (tine : Nat) (t : Ticket) (s : State) : State :=
  { s with tines := { s.tines with running := [{ tine := tine, ticket := t, started := 0, left := [] }] } }

/-- The last two harrows have their compressors quarantined. -/
def noCompressors (s : State) : State :=
  { s with voxca := s.voxca.take 30 ++ (s.voxca.drop 30).map (fun v => { v with compressors := List.replicate 3 ⟨[], true, 0⟩ }) }

def demoEpoch : EpochRef := ⟨0, 0, 1⟩

/-- An open epoch of harrow 0. -/
def openedEpoch (s : State) : State :=
  modifyHarrow 0 (fun x => { x with epochs := [(0, { state := .opened, gen := 1, live := 0, handles := [], chunkId := none })] }) s

def demoWork : ChunkWork :=
  { id := 0, harrow := 0, epoch := none, target := .grain 1 0, plain := [1, 2, 3], domain := 2, level := 3, keyEpoch := 1, fp := none, records := [],
    chunkId := 7, gen := 0, decision := .undecided, noIndex := false, stream := none, stored := none }

def withWork (w : ChunkWork) (s : State) : State := modifyIngest (fun i => { i with works := [w], nextWork := 1 }) s

def parkedAs (p : ParkState) (s : State) : State := modifyHarrow 0 (fun x => { x with park := p }) s

/-- A zero write of a whole grain, and one of its first block. -/
def zeroRec (n : Nat) : BufferedRec :=
  { target := .grain 1 0, off := 0, len := n, quadrant := 1, seq := 1, handles := [], skip := 0, zero := true, inDump := none, mseq := 0, jseq := 0, done := [] }

def withRec (r : BufferedRec) (s : State) : State := modifyIngest (fun i => { i with own := [r] }) s

def demoOpen : OpenObject := { number := 9, objDomain := 1, domain := 2, quadrant := 0, landed := 3, size := some 3, cut := 0 }

def demoBale : Bale :=
  { acre := 5, bale := 0, stream := 0, quadrant := 0, plot := 0, next := 0, records := [], oldest := 0, closed := false, baseSeq := 0, waiting := [],
    victims := [] }

def demoAcre : Acre :=
  { num := 5, stream := 0, k := 2, m := 1, nBales := 4, opener := 0, openSeq := 0, openTime := 0, blocks := [(0, 0, 5), (1, 0, 5), (2, 0, 5)], state := 1,
    quadrant := 0, started := 1, committed := 0, torn := [], sealedAt := 0, marked := [], envelopes := [], maxJseq := 0 }

def withBale (b : Bale) (s : State) : State := modifyMedia (fun m => { m with acres := [demoAcre], bales := [b] }) s

def journaled (s : State) : State :=
  { s with journal := { s.journal with ring := [⟨2, .acreState 5 1, 0, false, false⟩], rows := [⟨3, 5, 0, 0, [], [], false⟩] } }

def demoCache : CacheEntry := { chunk := 3, gen := 0, data := [1, 2, 3], ref := false, ahead := false }

/-- A fingerprint of the hot table, with its index entry. -/
def hotFp (s : State) : State :=
  winnowInsert 0 (hotKey 2 (zeros 32)) 4 (modifyMap (fun m => { m with index := [⟨2, zeros 32, 3, 4⟩] }) s)

def fingerprinted (s : State) : State :=
  countIngest 0 (fun c => { c with chunksIn := bump c.chunksIn })
    (modifyWork 0 (fun y => { y with fp := some (fingerprint 2 [1, 2, 3] s), level := (domainNow 2 s).1, keyEpoch := (domainNow 2 s).2 }) s)

def noFacts : MediaFacts := { plots := [], cipherFaults := 0, decoder := [], lostPages := [], aborted := 0 }

/-- Thirty-two leased bridges that can take a dump, and a peer with a free mirror. -/
def dumpable (s : State) : State :=
  let t := modifyMedia (fun m => { m with bridges := m.bridges.map (fun h => { h with ident := some { demoIdent with progRate := 10000 } }) }) (lease 24 s)
  { t with headland := { t.headland with peer := { t.headland.peer with mirrorFree := 2 ^ 34 } } }

def noSnaps (s : State) : State := modifyMap (fun m => { m with snaps := [] }) s

def demoSlot (st : SlotState) (u : SlotUse) : WorkingSlot :=
  { state := st, use := u, kek := 0, domain := 2, epoch := 1, key := zeros 32, label := [], used := 0 }

def demoJob : CipherJob :=
  { id := 4, op := .gcmEncrypt, harrow := 0, tine := 0, epoch := none, complex := 0, pair := some (0, 1), repeats := none
    req := { latency := true, aadUnits := 0, keySlot := 3, src := heldBuffer, dst := heldBuffer, aad := 0, len := 1, iv := zeros 12 } }

/-- A working slot, cipher jobs and slot loads, on a state. -/
def ciphering (w : WorkingSlot) (j : CipherJob) (s : State) : State :=
  modifyCipher (fun c => { c with slots := [(3, w)], jobs := [j] }) s

def furrowed (f : FurrowLink) (s : State) : State := { s with furrow := f :: s.furrow.drop 1 }

def trainingFurrow : State := furrowed { resetFurrow with link := { resetLinkEnd with state := .training } } demo

def demoCmd (op : Nat) (u : FurrowUse) : FurrowCmd := { tag := 6, opcode := op, params := [], data := [], use := u, issued := 0 }

def answeredOn (cmds : List FurrowCmd) : State :=
  furrowed { resetFurrow with cmds := cmds, link := { resetLinkEnd with state := .up, inbox := [⟨2, 1, 6, 0, 0, []⟩] } } demo

/-- An acre of this head's media that reclaim can take: marked for relocation. -/
def reclaimableState : State := modifyMedia (fun m => { m with acres := [{ demoAcre with state := 2, marked := [0] }] }) (lease 3 fitted)

/-! ## A protected frame of a demonstration session -/

theorem xorBytes_twice (a k : Bytes) (h : a.length ≤ k.length) : xorBytes (xorBytes a k) k = a := by
  unfold xorBytes
  induction a generalizing k with
  | nil => rfl
  | cons x xs ih =>
    cases k with
    | nil => simp at h
    | cons y ys => simp only [List.zipWith_cons_cons, ih ys (by simpa using h), BitVec.xor_assoc, BitVec.xor_self, BitVec.xor_zero]

theorem zeroKey_block (b : Bytes) : (aesEncrypt (zeros 32) b).length = 16 := by
  have h : ((aesRoundKeys (zeros 32)).getD 14 []).length = 16 := by decide +kernel
  have e : ∃ k ks, aesRoundKeys (zeros 32) = k :: ks := ⟨_, _, rfl⟩
  obtain ⟨k, ks, e⟩ := e
  rw [e] at h
  unfold aesEncrypt
  rw [e]
  simp only [List.getD_cons_succ] at h
  simp only [xorBytes, List.length_zipWith, aesShiftRows, List.length_map, List.length_range, h]
  rfl

theorem zeroKey_ctr (iv : Bytes) : ∀ n c bs, bs.length ≤ 16 * n → (gcmCtr (zeros 32) iv n c bs).length = bs.length ∧
    gcmCtr (zeros 32) iv n c (gcmCtr (zeros 32) iv n c bs) = bs := by
  intro n
  induction n with
  | zero => intro c bs h; rw [List.eq_nil_of_length_eq_zero (by omega : bs.length = 0)]; exact ⟨rfl, rfl⟩
  | succ n ih =>
    intro c bs h
    have e := zeroKey_block (iv ++ beBytes 4 c)
    obtain ⟨l, t⟩ := ih (c + 1) (bs.drop 16) (by simp; omega)
    have x : (xorBytes (bs.take 16) (aesEncrypt (zeros 32) (iv ++ beBytes 4 c))).length = min 16 bs.length := by simp [xorBytes, e]
    refine ⟨by simp only [gcmCtr, List.length_append, l, x, List.length_drop]; omega, ?_⟩
    simp only [gcmCtr]
    by_cases hs : bs.length ≤ 16
    · have d : bs.drop 16 = [] := List.drop_of_length_le hs
      rw [d] at l ⊢
      rw [List.eq_nil_of_length_eq_zero l, List.append_nil, List.take_of_length_le (by rw [x]; omega), xorBytes_twice _ _ (by rw [e]; simp <;> omega),
        List.drop_of_length_le (by rw [x]; omega), List.eq_nil_of_length_eq_zero l, List.append_nil, List.take_of_length_le hs]
    · rw [List.take_left' (by rw [x]; omega), List.drop_left' (by rw [x]; omega), t, xorBytes_twice _ _ (by rw [e]; simp <;> omega), List.take_append_drop]

theorem fieldAt_front (a b : Bytes) (off n : Nat) (h : off + n ≤ a.length) : fieldAt (a ++ b) off n = fieldAt a off n := by
  unfold fieldAt slice
  rw [List.drop_append_of_le_length (by omega), List.take_append_of_le_length (by simp; omega)]

/-- A session whose key, all zeros, is in working slot 3, and a state that holds it. -/
def keyedSes : ReplSession := { demoSes with wslot := some 3 }

def keyedState (x : ReplSession) : State :=
  modifyCipher (fun c => { c with slots := [(3, { demoSlot .valid .repl with domain := 0, epoch := 1 })] }) (inRepl { resetRepl with sessions := [x] })

/-- The frame that the partner sends, and the state after it. -/
def keyedFrame (r : Nat) (x : ReplSession) (body : Bytes) : Bytes := sealedFrame r 0 1 x.initiator (zeros 32) body

def keyedAfter (r : Nat) (x : ReplSession) (body : Bytes) : State :=
  modifySes 2 (fun z => { z with rxSeq := z.rxSeq + 1, lastRx := 0 })
    (frameCipher 2 .gcmDecrypt 3 (some body.length) (arrive 0x10 3 (qpHome 2 (keyedState x)) 2 r (keyedState x)).2)

theorem leBytes_size : ∀ n v, (leBytes n v).length = n
  | 0, _ => rfl
  | n + 1, v => by simp [leBytes, leBytes_size n]

/-- The state in which the frame's ticket is placed. -/
def keyedPlaced (r : Nat) (x : ReplSession) : State := (arrive 0x10 3 (qpHome 2 (keyedState x)) 2 r (keyedState x)).2

theorem keyed_opened (r : Nat) (body : Bytes) (x : ReplSession)
    (hx : x.qp = some 2 ∧ x.session = 1 ∧ x.rxSeq = 0 ∧ (keyedState x).boot.mode = .active ∧ (keyedState x).time.ticks = 0)
    (hs : (arrive 0x10 3 (qpHome 2 (keyedState x)) 2 r (keyedState x)).1 = true ∧ sesAt 2 (keyedPlaced r x) = some x ∧
      sesKey x (keyedPlaced r x) = some (3, zeros 32) ∧ qpAt 2 (keyedPlaced r x) = none)
    (hr : 2 < r) (hb : body.length ≤ 262144)
    (hh : ∀ h, h = frameHeader r 1 0 1 body.length 0 → h.length = 32 ∧ fieldAt h 0 4 = 0x50525848 ∧ fieldAt h 5 1 = 1 ∧ fieldAt h 8 8 = 0 ∧
      fieldAt h 0x14 4 = body.length ∧ fieldAt h 0x1C 4 = 0 ∧ overlay h 4 (leBytes 1 r) = h) :
    Opened r 2 (keyedFrame r x body) body x { x with rxSeq := 1, lastRx := 0 } (keyedState x) (keyedAfter r x body) := by
  obtain ⟨h1, h2, h3, hm, ht⟩ := hx
  obtain ⟨ha, hses, hk, hq⟩ := hs
  have hb2 : body.length ≤ 16 * blocksOf body.length := by unfold blocksOf; omega
  obtain ⟨cl, ct⟩ := zeroKey_ctr (frameIv 0 1 x.initiator) (blocksOf body.length) 2 body hb2
  obtain ⟨l, f0, f5, f8, f14, f1c, ov⟩ := hh _ rfl
  have tl : ∀ iv aad c, (gcmTag (zeros 32) iv aad c).length = 16 := by
    intro iv aad c
    simp [gcmTag, xorBytes, zeroKey_block, beBytes, leBytes_size]
  have fr : ∃ c tag, keyedFrame r x body = frameHeader r 1 0 1 body.length 0 ++ (c ++ tag) ∧ c.length = body.length ∧ tag.length = 16 ∧
      gcmDecrypt (zeros 32) (frameIv 0 1 x.initiator) (frameHeader r 1 0 1 body.length 0) c tag = some body := by
    refine ⟨gcmCtr (zeros 32) (frameIv 0 1 x.initiator) (blocksOf body.length) 2 body,
      gcmTag (zeros 32) (frameIv 0 1 x.initiator) (frameHeader r 1 0 1 body.length 0)
        (gcmCtr (zeros 32) (frameIv 0 1 x.initiator) (blocksOf body.length) 2 body), List.append_assoc _ _ _, cl, tl _ _ _, ?_⟩
    rw [gcmDecrypt, if_pos rfl, cl, ct]
  obtain ⟨c, tag, e, lc, lt, d⟩ := fr
  generalize frameHeader r 1 0 1 body.length 0 = h at *
  have en : (h ++ (c ++ tag)).length = 32 + body.length + 16 := by simp [l, lc, lt]; omega
  have eo : overlay (keyedFrame r x body) 4 (leBytes 1 r) = keyedFrame r x body := by
    rw [e]; unfold overlay at ov ⊢
    rw [leBytes_size] at ov ⊢
    rw [List.take_append_of_le_length (by omega), List.drop_append_of_le_length (by omega), ← List.append_assoc _ _ (c ++ tag), ov]
  have fa : ∀ o n, o + n ≤ 32 → fieldAt (keyedFrame r x body) o n = fieldAt h o n := fun o n g => by rw [e, fieldAt_front _ _ _ _ (by omega)]
  have tf : takeFrame 2 (keyedFrame r x body) (keyedPlaced r x) = keyedPlaced r x := by unfold takeFrame; rw [hq]; rfl
  have ln : (keyedFrame r x body).length = 32 + body.length + 16 := by rw [e, en]
  have tk : (keyedFrame r x body).take 32 = h := by rw [e, List.take_left' l]
  have s1 : slice (keyedFrame r x body) 32 body.length = c := by rw [e]; unfold slice; rw [List.drop_left' l, List.take_left' lc]
  have s2 : slice (keyedFrame r x body) (32 + body.length) 16 = tag := by
    rw [e, ← List.append_assoc]; unfold slice; rw [List.drop_left' (by simp [l, lc]), List.take_of_length_le (by omega)]
  refine ⟨keyedPlaced r x, frameCipher 2 .gcmDecrypt 3 (some body.length) (keyedPlaced r x), by rw [hm]; decide, ?_, ?_, ?_, ?_, ?_⟩
  · unfold keyedPlaced; rw [← ha]
  · rw [tf, hses]
  · rw [eo, tf]
    unfold openFrame openSealed
    dsimp only
    rw [fa 0x14 4 (by omega), fa 5 1 (by omega), fa 0 4 (by omega), fa 8 8 (by omega), fa 0x1C 4 (by omega), f14, f5, f0, f8, f1c, ln, h3, hk]
    dsimp only
    rw [tk, s1, s2, h2, d, h1]
    rw [if_neg (by simp [bitOf]; omega), if_pos (by decide), if_neg (by simp [bitOf]; omega)]
    rfl
  · rw [eo, fa 5 1 (by omega), f5, h3, ht]; rfl
  · rw [eo, fa 5 1 (by omega), f5, ht]; rfl

/-! ## A bridge and its plots -/

theorem bridgeSlots (b : Nat) : 0 < (bridgeIdent b).cmdSlots ∧ (bridgeIdent b).cmdSlots ≤ 1024 := by
  unfold bridgeIdent bridgeNat; dsimp only; omega

theorem bridgeTakes0 {b : Nat} {s : State} (h : (bridgeAt b s).internalFault = false) : BridgeTakes b 0 s := ⟨h, (bridgeSlots b).1⟩

theorem bridgeAddr0 (b n : Nat) (h : n ≤ 4096) : addrOk (bridgeIdent b) 0 n = true := by
  unfold addrOk blockCodewords bridgeIdent bridgeNat
  simp only [show cwDie 0 = 0 from rfl, show cwBlock 0 = 0 from rfl, show cwIndex 0 = 0 from rfl, Bool.and_eq_true, decide_eq_true_eq]
  omega

theorem okp {ε α β : Type} {e : Except ε α × β} {a : α} (h : e.1.toOption = some a) : e = (.ok a, e.2) := by
  obtain ⟨x, y⟩ := e
  cases x with
  | error => simp [Except.toOption] at h
  | ok a => simp_all [Except.toOption]

def bridged (x : Bridge) (s : State) : State := { s with bridges := x :: s.bridges.drop 1 }

def ownedBridge : Bridge := { resetBridge with owner := 0, expiry := 10, leaseMs := 20 }

def demoSnapJob : SnapJob := { id := 1, kind := 1, scope := 1, num := 2, barrier := [0, 0, 0, 0], forExport := none, forDiff := none }

/-- A reply to HELLO that accepts slot 8. -/
def replyFrame : Bytes := plainFrame 2 1 (zeros 25 ++ [1] ++ zeros 6)

theorem okf {ε α : Type} {e : Except ε α} {a : α} (h : e.toOption = some a) : e = .ok a := by
  cases e with
  | error => simp [Except.toOption] at h
  | ok a => simp_all [Except.toOption]

/-- A HELLO that names slot 8 and a protocol version. -/
def helloFrame (v : Byte) : Bytes := plainFrame 1 1 (zeros 24 ++ [8, v] ++ zeros 6)

def helloState : State :=
  modifyMap (fun m => { m with pairs := [{ demoPair with role := 2 }] }) (inPorts { resetPorts with qps := [{ demoQp with service := .replication }] })

/-! ## Headland -/

def inHeadland (f : HeadlandPart → HeadlandPart) : State := modifyHeadland f demo

/-- Sub-link 0 up, with a whole message of this type in its inbox. -/
def told (mtype : Nat) (body : Bytes) (s : State) : State :=
  modifyHeadland (fun h =>
    { h with links := { resetLinkEnd with state := .up, credits := 255, granted := 200, inbox := [⟨1, 5, 0, mtype, 0, body⟩] } :: h.links.drop 1 }) s

def demoMsg : MirrorMsg :=
  { mseq := 0, quadrant := 0, sub := 0, earlier := [], body := [], first := 0, resends := 0, noRoom := false, releases := [] }

/-! ## Ports -/

/-- Logical port 0 up with an IPv4 address, and connection contexts. -/
def ported (qps : List QpCtx) : State :=
  { inPorts { resetPorts with qps := qps, lports := { resetLogicalPort with link := 2 } :: resetPorts.lports.drop 1, cached := [[2], [], [], []], freshQp := 5 } with
    mci := { resetMci with params := [⟨0x0E04, 0, [10, 0, 0, 1, 24]⟩] } }

def onPort (f : LogicalPort → LogicalPort) (s : State) : State := modifyLport 0 f s

/-- The number of the port's address. -/
def ownIp : Nat := 0xFFFF0A000001

def frameTo (m : Nat) : FrameHead := { lport := 0, vlan := none, dest := m, source := 7 }

def demoHead : RoceHead :=
  { lport := 0, vlan := none, dest := portMac 0, dscp := 0, ce := false, intact := true, wire := 100, occupancy := 0, qpn := 2, psn := 0, ackReq := false }

/-- What the port has counted when the packet is taken. -/
def portCounted (s : State) : State := countPort 0 (fun k => { k with rxBytes := bump k.rxBytes 100 }) s

theorem demo_taken (s : State) (h : portUp 0 s = true ∧ s.boot.mode = .active ∧ vlanMatches 0 none (portCounted s) = true ∧
    isLossless 0 (rxPriority demoHead (portCounted s)) (portCounted s) = false) : PortTakes demoHead s (portCounted s) := by
  obtain ⟨h1, h2, h3, h4⟩ := h
  refine ⟨h1, by rw [h2]; decide, portCounted s, rfl, ?_, Or.inr (Nat.zero_le _), rfl, ?_⟩
  · unfold portAccepts; rw [show demoHead.dest = portMac demoHead.lport from rfl, beq_self_eq_true, Bool.true_and]; exact h3
  · unfold noteOccupancy; exact (if_pos h4).symm

def afterSteering (s : State) : State :=
  (cacheContext 2 (countCtx 0 (fun k => { k with hits := bump k.hits }) (winnowSearch 1 0 (steeringKey demoQp) false 0 (portCounted s)).2)).2

theorem demo_arrives (c : QpCtx) (s : State) (h : portUp 0 s = true ∧ s.boot.mode = .active ∧ vlanMatches 0 none (portCounted s) = true ∧
      isLossless 0 (rxPriority demoHead (portCounted s)) (portCounted s) = false) (hq : qpAt 2 (portCounted s) = some c)
    (hc : c.index = 2 ∧ c.gen = 0 ∧ c.state = .connected ∧ c.lport = 0 ∧ qpQuadrant c = 0)
    (hi : isCached c (winnowSearch 1 0 (steeringKey demoQp) false 0 (portCounted s)).2 = true ∧
      ((winnowSearch 1 0 (steeringKey demoQp) false 0 (portCounted s)).2.ports.missed.getD 0 []).any (fun m => m.index == 2) = false ∧
      qpAt 2 (afterSteering s) = some c) : Arrives demoHead c s (afterSteering s) := by
  obtain ⟨h1, h2, h3, h4, h5⟩ := hc
  have k : steeringKey c = steeringKey demoQp := by unfold steeringKey qpnOf; rw [h1, h2, h4]; rfl
  refine ⟨_, _, demo_taken s h, by decide, hq, h2, h3, rfl, rfl, ?_, ?_, ?_, ?_⟩
  · rw [k]; exact hi.1
  · rw [k, h5, h1]; exact hi.2.1
  · rw [k, h5, h1]; rfl
  · rw [h1]; exact hi.2.2

def demoOut : OutPacket :=
  { psn := 0, span := 1, opcode := 4, ext := [], payload := [], ackReq := true, sentAt := 0, resent := false, tag := 0, got := [], read := none }

def demoReq : CmRequest :=
  { lport := 0, fromAddr := 9, toAddr := ownIp, service := 1, commId := 3, qpn := 4, psn := 0, mtu := 4096, transport := 0, timeout := 14, privData := [] }

def demoZone : Zone := { index := 4, state := .granted, gen := 0, check := 0, qp := 2, len := 3, inFlight := 0, handles := [] }

theorem sg4 {α β γ δ : Type} {o : Option (α × β × γ × δ)} (h : o.isSome = true) :
    o = some ((o.get h).1, (o.get h).2.1, (o.get h).2.2.1, (o.get h).2.2.2) := (Option.some_get h).symm

/-! ## Clients -/

def demoController : Controller :=
  { id := 1, host := 0, adminQp := 2, kato := 0, katoFrom := 0, granted := none, ioSeen := false, cc := 1, ready := true, shst := 0, ps := 0,
    operational := 0, apste := true, apst := [0, 0, 3 * 8], aec := 0, masked := [], events := [], changed := [] }

/-- A controller with a queue on the connection of `ported`: queue 0 is its admin queue. -/
def nvState (qid : Nat) : State :=
  { ported [demoQp] with
    nvme := { resetNvme with
      controllers := [demoController]
      queues := [{ qp := 2, qid := qid, hsq := 31, controller := some 1, entries := 32, head := 0, noFlow := false, used := 0 }] }
    map := demoMap }

/-- A capsule whose data stand in it. -/
def capsuleWith (dw10 dw11 n : Nat) : Bytes :=
  zeros 32 ++ packFields [(4, n), (3, 0), (1, 1), (4, dw10), (4, dw11)] ++ zeros 16 ++ zeros n

theorem nv_taken {set : List (Nat × Bytes)} {qp : Nat} {b c d : Bytes} {s : State} (hc : c = set.foldl (fun b x => overlay b x.1 x.2) (padTo (max 64 b.length) b))
    (h : (nvTake qp c s).1 = true) (ha : sqeOpcode c = 0x08 → abortsOut qp (nvTake qp c s).2 ≤ 4) (hh : nvHolds false (nvTake qp c s).2 = false)
    (hk : (nvCmd qp (sqeCid c) (nvTake qp c s).2).map (·.capsule) = some c)
    (hd : adminIn c = none ∧ d = [] ∨ ∃ n, adminIn c = some n ∧ nvData c n 4096 = .ok (.inCapsule d)) : AdminTaken set qp (sqeCid c) b c d s (nvTake qp c s).2 :=
  ⟨hc, rfl, sn h, ha, hh, hk, hd⟩

def shState : State :=
  modifyCipher (fun c => { c with slots := [(3, demoSlot .valid .data)] }) { ported [{ demoQp with service := .sheaf }] with
    sheaf := { resetSheaf with conns := [{ qp := 2, objDomain := 1, qdepth := 8, nextPut := 1, expired := [] }] }
    map := demoMap }

def demoPut : Put :=
  { qp := 2, id := 5, objDomain := 1, key := zeros 32, number := 9, size := 3, accepted := 0, received := 0, zone := none, zoneWant := 0, fills := [],
    commit := none, commitSeq := 0, remote := none, lastVerb := 0 }

theorem okd {e : Except Nat NvData} {d : Bytes} (h : (match e with | .ok (.inCapsule x) => decide (x = d) | _ => false) = true) : e = .ok (.inCapsule d) := by
  cases e with
  | error => simp at h
  | ok x => cases x <;> simp_all

/-! ## Stores, rings, resets -/

def demoLine : McLine := { slice := 0, set := 0, way := 0, tag := 0, dirty := false, reused := false, data := List.replicate 128 none }

def inMem (f : MemPart → MemPart) : State := modifyMem f demo

def demoDesc (op : Nat) : DmaDescriptor := { ctrl := BitVec.ofNat 32 (op * 2 ^ 24), len := 4, src := 0, dst := 0 }

def running (op : Nat) : State :=
  { demo with dma := { resetChannel with running := some ⟨demoDesc op, 0, none, false⟩, size := 8, idle := false } :: demo.dma.drop 1 }

def demoCtx : DmaContext := { hostSrc := zeros 4, hostDst := zeros 4, error := none, moved := 0, next := none }

def inBoot (step : Nat) (f : BootPart → BootPart) (s : State) : State :=
  modifyBoot (fun b => f { b with mode := .boot, step := step, stepOpen := true }) s

def demoReport (st : BitVec 16) : StepReport :=
  { result := st, farBytes := 274877906944, uniform := true, badTines := [], badCompressors := [], badDecompressors := [], badCores := [], records := [],
    mirrored := [], facts := noFacts, arrayParams := [] }

def demoRecord : AlmRecord :=
  { type := 0x0601, seq := 5, head := 1, early := false, flush := true, powerCycles := 2, opTime := 7, payload := [1, 2, 3], elapsed := false }

def demoImage : DumpImage := { journal := [], records := [], bales := [], ended := false, broken := false }

/-! ## A chunk on media: one data plot and one parity plot, alike -/

/-- The record of chunk 7, its three bytes sealed under the all-zero key of domain 2, epoch 1. -/
def sealedRecord : Bytes := leBytes 128 3421780626939428314159170637934802530151596395039918580889349406631916040963556112751231371762157551708046692706280851066929821753494745251601160425680839017800986052133680011481688843435783823163393

def plotted (n : Nat) : Bridge := { resetBridge with nand := [(nandKey 0 n, ⟨[padTo 4096 sealedRecord]⟩)] }

/-- Chunk 7 in acre 5, whose plots stand on the first two bridges; its first is not read. -/
def mediaState : State :=
  let s := modifyMap (fun m => { m with locs := [(7, { acre := 5, bale := 0, plot := 0, off := 0, len := 2, gen := 0, refcount := 1, domain := 2, epoch := 1 })] })
    (modifyMedia (fun m => { m with acres := [{ demoAcre with k := 1, m := 1, blocks := [(0, 0, 5), (1, 0, 5)], committed := 1 }] })
      (lease 2 { fitted with bridges := plotted 5 :: plotted 5 :: fitted.bridges.drop 2 }))
  modifyCipher (fun c => { c with slots := [(3, demoSlot .valid .data)] }) s

theorem rebuilt_good {x : Tried × MediaFacts × State} {d : Bytes} {w : Option Bytes} (h : x.1 = some (.good d w)) :
    x = (some (.good d w), x.2.1, x.2.2) := by rw [← h]

/-! ## Ill-formed commands -/

/-- Packet headers whose numbers all fit. -/
def wfHead : RoceHead := { demoHead with dest := 0 }

/-- Every range that `Instr.wf` checks refuses the first number beyond it. -/
theorem wf_refuses_places :
    [Instr.leaseExpiry 192 0, .bridgeIdentify 0 2 0 0, .headlandReplayTimeout 4, .harrowDrained 32, .ticketWatchdog 512, .voxcaCompress 0 3 0 none,
      .readTimeoutExpiry 4 0 noFacts, .subPortUp 32, .pfcPauseEnd 0 8, .mcWayDownDone 16, .bootFlashRefresh 4, .dmaDisable 256, .age 64,
      .search 8 0 0 false 0, .search 0 16 0 false 0].all (fun c => !c.wf) = true := by decide +kernel

theorem wf_refuses_units :
    [Instr.alloc 64 none 0 3 false, .alloc 0 none 3 3 false, .allocWaitLong 0 8, .granaryRelease 0 (2 ^ 32) none, .epochSquash ⟨0, 1024, 0⟩,
      .epochSquash ⟨0, 0, 65536⟩, .epochSquash ⟨32, 0, 0⟩, .slotLoadDone 4096, .keyLoadAckTimeout 256 0,
      .gcmEncrypt 0 0 none { demoJob.req with iv := zeros 11 }].all (fun c => !c.wf) = true := by decide +kernel

theorem wf_refuses_clients :
    [Instr.replKeepaliveTimer (2 ^ 20), .read (2 ^ 20) [] noFacts, .list (2 ^ 20) [], .katoExpiry 65536, .apstIdleTimer 0 32, .lzRevokeDone 65536,
      .mra 0 32, .rej (2 ^ 32) 0, .cnp { wfHead with dscp := 64 }, .cnp { wfHead with qpn := 2 ^ 24 }, .cnp { wfHead with psn := 2 ^ 24 },
      .cnp { wfHead with vlan := some (4096, 0) }, .cnp { wfHead with vlan := some (1, 8) }, .req { demoReq with timeout := 32 },
      .sendWithInvalidate wfHead .only (2 ^ 32) []].all (fun c => !(c.wf)) = true := by decide +kernel

theorem wf_refuses_host :
    [Instr.registerWrite 0 2 0, .registerWrite 65536 4 0, .mciDoorbell 16 0 [], .replyHeadWrite 65536, .ringEnable 17, .watchTimeout 16,
      .quiesceComplete 256, .nop { pkt [] with params := [] }, .nop { pkt [] with authBlock := [1] }, .nop { pkt [] with fetchedFrom := 16 },
      .mcPrefetch (2 ^ 42), .mcAccess 0 [] 4, .paceWindow [1, 2, 3], .smbusRefresh ⟨[], [], 0, 0, 0⟩, .furrowTrainingDone 0 4 1 7,
      .furrowLinkFrame 0 false none 256].all (fun c => !c.wf) = true := by decide +kernel

/-- Their neighbours within the ranges are well-formed. -/
theorem wf_admits :
    [Instr.leaseExpiry 191 0, .headlandReplayTimeout 3, .harrowDrained 31, .ticketWatchdog 511, .age 63, .search 7 15 0 false 0, .alloc 63 none 2 3 false,
      .epochSquash ⟨31, 1023, 65535⟩, .cnp { wfHead with qpn := 2 ^ 24 - 1, vlan := some (4095, 7) }, .registerWrite 0 8 0, .ringEnable 16,
      .nop (pkt []), .furrowTrainingDone 191 4 1 8].all (fun c => c.wf) = true := by decide +kernel

/-! ## Values that the standards and the manual's worked cases give -/

/-- The 62-byte chunk of the worked case of 07_voxca.md. -/
def caseChunk : Bytes := asciiBytes "harrow-tine-sixteen;Aharrow-tine-sixteen;Bharrow-tine-sixteen;"

/-- Table 7-9. -/
def caseStream : Bytes :=
  [0x56, 0x58, 0x01, 0x03, 0x3E, 0x00, 0x00, 0x00, 0x14, 0x68, 0x61, 0x72, 0x72, 0x6F, 0x77, 0x2D, 0x74, 0x69, 0x6E, 0x65, 0x2D, 0x73, 0x69, 0x78, 0x74,
    0x65, 0x65, 0x6E, 0x3B, 0x41, 0x90, 0x14, 0x00, 0x00, 0x42, 0xC0, 0x00]

theorem test_voxca_encodes_case : vxEncode 3 caseChunk = caseStream := by decide +kernel

theorem test_voxca_decodes_case : (vxDecode caseStream).2 = caseChunk ∧ vxCode (vxDecode caseStream).1 = vxOk := by decide +kernel

/-- 02_pace_and_time.md: 3,280,000 handshakes are reported as 839. -/
theorem test_pace_case : paceOf 3280000 = 839 := by decide

/-- 18_granary.md: the handle of index 300,000 of pool 3 with GEN 0x2C. -/
theorem test_handle_case : mkHandle 3 300000 0x2C = 0x6493E02C := by decide

/-- 18_granary.md: the address of that buffer, the 37,856th of the work arena's pool 3. -/
theorem test_buffer_address : bufferAddr 2 3 300000 (modifyList 2 3 (fun l => { l with base := 300000 - 37856 }) demo) = 0x1484F80000 := by decide +kernel

/-- 06_winnow.md: the result of the search for one hot tag, and of the diagnostic search that two entries match. -/
def hotTag : State :=
  modifyEntries (fun _ => [(entryKey 40 1203, entryOf (7 * 2 ^ 64 + 0x3C7A91E40B2D5F68) 0x0012A4C0 0), (entryKey 40 5010, entryOf (12 * 2 ^ 64 + 0x3C7A91E40B2D5F68) 9 0)])
    { demo with winnow := { demo.winnow with masks := [(3, ~~~ (0xFF#192 <<< 64))] } }

theorem test_winnow_case : (winnowSearch 0 0 (7 * 2 ^ 64 + 0x3C7A91E40B2D5F68) false 0 hotTag).1 = 0xA09662800012A4C0 := by decide +kernel

theorem test_winnow_two_match : (winnowSearch 0 3 (7 * 2 ^ 64 + 0x3C7A91E40B2D5F68) true 0 hotTag).1 = 0xA09665800012A4C0 := by decide +kernel

/-- 11_on_media_formats.md: IV and AAD of the record header of Table 11-15. -/
theorem test_record_iv : chunkIv 0x3A0F127C45 3 17 = [0x45, 0x7C, 0x12, 0x0F, 0x3A, 0x03, 0x00, 0x00, 0x11, 0x00, 0x00, 0x00] := by decide +kernel

theorem test_record_aad : chunkAad 7 1 16384 (leBytes 8 0x3C7A91E40B2D5F68) =
    [0x07, 0x01, 0x00, 0x00, 0x00, 0x40, 0x00, 0x00, 0x68, 0x5F, 0x2D, 0x0B, 0xE4, 0x91, 0x7A, 0x3C] := by decide +kernel

/-- 22_almanac.md: a record with a payload of six bytes is padded to 40. -/
theorem test_almanac_length : almLen 6 = 40 := by decide

/-- FIPS 180-4: the digest of "abc". -/
theorem test_sha256_abc : (sha256 (asciiBytes "abc")).take 8 = [0xBA, 0x78, 0x16, 0xBF, 0x8F, 0x01, 0xCF, 0xEA] := by decide +kernel

/-- The check value of CRC-32C (R242) over "123456789". -/
theorem test_crc32c_check : crc32c (asciiBytes "123456789") = 0xE3069283 := by decide +kernel

/-- FIPS 197, appendix C.3. -/
theorem test_aes256_block :
    (aesEncrypt ((List.range 32).map (BitVec.ofNat 8)) ((List.range 16).map (fun i => BitVec.ofNat 8 (17 * i)))).take 4 = [0x8E, 0xA2, 0xB7, 0xCA] := by
  decide +kernel

/-- 14_front_ports_rdma.md, the worked case of congestion control: a sample of 14,000 ns cuts 100,000 to 85,715, one of 9,200 ns raises that to
86,715, and a CNP cuts 86,715 to 75,876. -/
def rated (r : Nat) : State := ported [{ demoQp with rate := r }]

theorem test_rate_cut : (qpAt 2 (onSample 2 14000 (rated 100000))).map (·.rate) = some 85715 := by decide +kernel

theorem test_rate_rise : (qpAt 2 (onSample 2 9200 (rated 85715))).map (·.rate) = some 86715 := by decide +kernel

theorem test_rate_cnp : (qpAt 2 (onCnp 2 (rated 86715))).map (·.rate) = some 75876 := by decide +kernel

/-! ## Single steps -/

/-- What a step answers, where it goes on. -/
def after (s : State) : Option State :=
  match step s with
  | .next t => some t
  | _ => none

/-- R565: the identification code is shifted out. -/
theorem test_idcode : (after { State.reset with pending := [.idcode] }).map (·.out.getLast?) = some (some (.jtag 0x1925656B)) := by decide +kernel

/-- A step with an empty queue moves the tick counter alone (DESIGN CHOICE, see the log). -/
theorem test_idle : (after State.reset).map (fun t => (t.time.ticks, t.pending)) = some (1, []) := by decide +kernel

/-- The first command in is the first that runs. -/
theorem test_first_in_first_out : (after { State.reset with pending := [.bypass, .idcode] }).map (·.jtag) = some .bypass := by decide +kernel

/-- R48, R253: the lease window ends at its end. -/
theorem test_lease_window :
    [9, 10].map (fun n => (after { bridged ownedBridge demo with pending := [.leaseExpiry 0 n] }).map (fun t => (bridgeAt 0 t).owner)) =
      [some 0, some 3] := by decide +kernel

/-! ## For each clause of a statement, a state and operands that meet its hypotheses -/

theorem witness_WinnowCommandsAnswer_1 : ∃ (p : _) (s : State) (u : _), Starts 0x0900 p s u ∧ parm p 0 1 < 8 :=
  ⟨(pkt ([])), got 0x0900 (pkt ([])) (demo), _, ⟨by decide +kernel, by decide +kernel, rfl⟩, by decide +kernel⟩

theorem witness_WinnowCommandsAnswer_2 : ∃ (p : _) (s : State) (u : _), Starts 0x0901 p s u ∧ parm p 0 1 < 8 ∧ (parm p 0 1 < 3 ∨ parm p 8 8 = 0) ∧
    descLegal (parm p 8 8) = true ∧ (∀ v, v < 8 → v ≠ parm p 0 1 → descsOverlap (parm p 8 8) ((futureDescs u).getD v 0) = false) ∧
    fullyQuiesced (0x10 + parm p 0 1) u = true :=
  ⟨(pkt ([0] ++ zeros 7 ++ leBytes 8 0x0000008200003000)), got 0x0901 (pkt ([0] ++ zeros 7 ++ leBytes 8 0x0000008200003000)) (quiet [0x10] demo), _,
    ⟨by decide +kernel, by decide +kernel, rfl⟩, by decide +kernel, by decide +kernel, by decide +kernel, by decide +kernel, by decide +kernel⟩

theorem witness_WinnowCommandsAnswer_3 : ∃ (p : _) (s : State) (u : _), Starts 0x0902 p s u ∧ parm p 0 1 < 8 ∧ 0 < parm p 1 1 ∧ parm p 1 1 < 16 ∧
    (wtWide ((futureDescs u).getD (parm p 0 1) 0) = true ∨ parm p 20 12 = 0) ∧ fullyQuiesced (0x10 + parm p 0 1) u = true :=
  ⟨(pkt ([0, 1])), got 0x0902 (pkt ([0, 1])) (quiet [0x10] demo), _, ⟨by decide +kernel, by decide +kernel, rfl⟩, by decide +kernel,
    by decide +kernel, by decide +kernel, by decide +kernel, by decide +kernel⟩

theorem witness_WinnowCommandsAnswer_4 : ∃ (p : _) (s : State) (u : _), Starts 0x0903 p s u ∧ parm p 0 1 < 8 ∧ parm p 1 1 < 16 :=
  ⟨(pkt ([])), got 0x0903 (pkt ([])) (demo), _, ⟨by decide +kernel, by decide +kernel, rfl⟩, by decide +kernel, by decide +kernel⟩

theorem witness_WinnowCommandsAnswer_5 : ∃ (p : _) (s : State) (u : _) (x : _), Starts 0x0904 p s u ∧ parm p 0 1 < 8 ∧ parm p 2 1 < 64 ∧
    parm p 4 2 < 8192 ∧ lookup (entryKey (parm p 2 1) (parm p 4 2)) u.winnow.entries = some x :=
  ⟨(pkt ([])), got 0x0904 (pkt ([])) (modifyEntries (fun _ => [(0, entryOf 5 7 1)]) demo), _, _, ⟨by decide +kernel, by decide +kernel, rfl⟩,
    by decide +kernel, by decide +kernel, by decide +kernel, sg (by decide +kernel)⟩

theorem witness_WinnowCommandsAnswer_6 : ∃ (p : _) (s : State) (u : _), Starts 0x0904 p s u ∧ parm p 0 1 < 8 ∧ parm p 2 1 < 64 ∧ parm p 4 2 < 8192 ∧
    lookup (entryKey (parm p 2 1) (parm p 4 2)) u.winnow.entries = none :=
  ⟨(pkt ([])), got 0x0904 (pkt ([])) (demo), _, ⟨by decide +kernel, by decide +kernel, rfl⟩, by decide +kernel, by decide +kernel, by decide +kernel,
    by decide +kernel⟩

theorem witness_WinnowCommandsAnswer_7 : ∃ (p : _) (s : State) (u : _), Starts 0x0905 p s u ∧ parm p 0 1 < 8 :=
  ⟨(pkt ([])), got 0x0905 (pkt ([])) (demo), _, ⟨by decide +kernel, by decide +kernel, rfl⟩, by decide +kernel⟩

theorem witness_WinnowCommandsAnswer_8 : ∃ (p : _) (s : State) (u : _), Starts 0x0906 p s u ∧ parm p 0 1 < 8 :=
  ⟨(pkt ([])), got 0x0906 (pkt ([])) (demo), _, ⟨by decide +kernel, by decide +kernel, rfl⟩, by decide +kernel⟩

theorem witness_KeyCommandsAnswer_1 : ∃ (p : _) (s : State) (u : _), Starts 0x0300 p s u :=
  ⟨(pkt ([])), got 0x0300 (pkt ([])) (demo), _, ⟨by decide +kernel, by decide +kernel, rfl⟩⟩

theorem witness_KeyCommandsAnswer_2 : ∃ (p : _) (s : State) (u : _) (x : _) (m : _) (t : _), Starts 0x0304 p s u ∧ domainAt (parm p 0 1) u = some x ∧
    kekSlot (parm p 1 1) = true ∧ liveEpochs x = [] ∧ journals u = true ∧ changeTable (.bind (parm p 0 1) (parm p 1 1)) u = (m, t) :=
  ⟨(pkt ([2, 1])), got 0x0304 (pkt ([2, 1])) (inDomain { demoDomain with counts := [] }), _, _, _, _, ⟨by decide +kernel, by decide +kernel, rfl⟩,
    sg (by decide +kernel), by decide +kernel, by decide +kernel, by decide +kernel, rfl⟩

theorem witness_KeyCommandsAnswer_3 : ∃ (p : _) (s : State) (u : _) (x : _) (nk : _), Starts 0x0305 p s u ∧ domainAt (parm p 0 1) u = some x ∧
    isKeyOwner (parm p 0 1) u = true ∧ kekSlot (parm p 1 1) = true ∧ gauntletKey (parm p 1 1) u = some nk ∧ x.envelopes = [] :=
  ⟨(pkt ([2, 1])), got 0x0305 (pkt ([2, 1])) (demo), _, _, _, ⟨by decide +kernel, by decide +kernel, rfl⟩, sg (by decide +kernel), by decide +kernel,
    by decide +kernel, sg (by decide +kernel), by decide +kernel⟩

theorem witness_KeyCommandsAnswer_4 : ∃ (p : _) (s : State) (u : _) (x : _) (keys : _) (nk : _), Starts 0x0305 p s u ∧
    domainAt (parm p 0 1) u = some x ∧ isKeyOwner (parm p 0 1) u = true ∧ kekSlot (parm p 1 1) = true ∧ gauntletKey (parm p 1 1) u = some nk ∧
    keys = x.envelopes.map (fun e => (gauntletKey e.kek u).bind (fun k => (keyUnwrap k e.wrapped).map (fun key => (e, key)))) :=
  ⟨(pkt ([2, 1])), got 0x0305 (pkt ([2, 1])) (demo), _, _, _, _, ⟨by decide +kernel, by decide +kernel, rfl⟩, sg (by decide +kernel),
    by decide +kernel, by decide +kernel, sg (by decide +kernel), rfl⟩

theorem witness_KeyCommandsAnswer_5 : ∃ (p : _) (s : State) (u : _) (x : _) (k : _), Starts 0x0306 p s u ∧ domainAt (parm p 0 1) u = some x ∧
    isKeyOwner (parm p 0 1) u = true ∧ x.epoch < 0xFFFFFFFF ∧ x.issued < 0xFFFFFFFF ∧ (liveEpochs x).length < 64 ∧ gauntletKey x.kek u = some k :=
  ⟨(pkt ([2])), got 0x0306 (pkt ([2])) (demo), _, _, _, ⟨by decide +kernel, by decide +kernel, rfl⟩, sg (by decide +kernel), by decide +kernel,
    by decide +kernel, by decide +kernel, by decide +kernel, sg (by decide +kernel)⟩

theorem witness_KeyCommandsAnswer_6 : ∃ (p : _) (s : State) (u : _) (x : _), Starts 0x0307 p s u ∧ domainAt (parm p 0 1) u = some x ∧
    isKeyOwner (parm p 0 1) u = true ∧ parm p 4 4 ≠ x.epoch ∧ 0 < parm p 4 4 ∧ parm p 4 4 ≤ x.issued ∧ lookupD (parm p 4 4) x.counts 0 = 0 :=
  ⟨(pkt ([2, 0, 0, 0, 2])), got 0x0307 (pkt ([2, 0, 0, 0, 2])) (demo), _, _, ⟨by decide +kernel, by decide +kernel, rfl⟩, sg (by decide +kernel),
    by decide +kernel, by decide +kernel, by decide +kernel, by decide +kernel, by decide +kernel⟩

theorem witness_KeyCommandsAnswer_7 : ∃ (p : _) (s : State) (u : _) (x : _), Starts 0x0308 p s u ∧ domainAt (parm p 0 1) u = some x ∧
    (liveEpochs x).any (fun c => c.1 == x.epoch) = true :=
  ⟨(pkt ([2])), got 0x0308 (pkt ([2])) (demo), _, _, ⟨by decide +kernel, by decide +kernel, rfl⟩, sg (by decide +kernel), by decide +kernel⟩

theorem witness_KeyCommandsAnswer_8 : ∃ (p : _) (s : State) (u : _), Starts 0x0309 p s u ∧ parm p 0 2 < 4096 :=
  ⟨(pkt ([])), got 0x0309 (pkt ([])) (demo), _, ⟨by decide +kernel, by decide +kernel, rfl⟩, by decide +kernel⟩

theorem witness_KeyCommandsAnswer_9 : ∃ (p : _) (s : State) (u : _) (key : _), Starts 0x030A p s u ∧ 12 ≤ parm p 0 1 ∧ parm p 0 1 < 16 ∧
    0 < parm p 7 1 ∧ parm p 7 1 ≤ 32 ∧ u.vault.gauntlet.getD (parm p 0 1) none = some key ∧ p.dataPages = 0 :=
  ⟨(pkt ([12, 0, 0, 0, 0, 0, 0, 4])), got 0x030A (pkt ([12, 0, 0, 0, 0, 0, 0, 4])) (demo), _, _, ⟨by decide +kernel, by decide +kernel, rfl⟩,
    by decide +kernel, by decide +kernel, by decide +kernel, by decide +kernel, sg (by decide +kernel), by decide +kernel⟩

theorem witness_KeyCommandsAnswer_10 : ∃ (p : _) (s : State) (u : _), Starts 0x030B p s u ∧ parm p 0 1 < 4 :=
  ⟨(pkt ([])), got 0x030B (pkt ([])) (demo), _, ⟨by decide +kernel, by decide +kernel, rfl⟩, by decide +kernel⟩

theorem witness_MediaCommandsAnswer_1 : ∃ (p : _) (s : State) (u : _), Starts 0x0400 p s u :=
  ⟨(pkt ([])), got 0x0400 (pkt ([])) (demo), _, ⟨by decide +kernel, by decide +kernel, rfl⟩⟩

theorem witness_MediaCommandsAnswer_2 : ∃ (p : _) (s : State) (u : _), Starts 0x0401 p s u ∧
    geometryOk (parm p 0 1) (parm p 1 1) (parm p 2 1) (parm p 3 1) u = true ∧ fullyQuiesced 4 u = true ∧ fullyQuiesced 5 u = true :=
  ⟨(pkt ([16, 3, 4, 3])), got 0x0401 (pkt ([16, 3, 4, 3])) (quiet [4, 5] (lease 24 demo)), _, ⟨by decide +kernel, by decide +kernel, rfl⟩,
    by decide +kernel, by decide +kernel, by decide +kernel⟩

theorem witness_MediaCommandsAnswer_3 : ∃ (p : _) (s : State) (u : _), Starts 0x0402 p s u :=
  ⟨(pkt ([])), got 0x0402 (pkt ([])) (demo), _, ⟨by decide +kernel, by decide +kernel, rfl⟩⟩

theorem witness_MediaCommandsAnswer_4 : ∃ (p : _) (s : State) (u : _), Starts 0x0403 p s u ∧ 0 < parm p 2 2 ∧ parm p 0 2 + parm p 2 2 ≤ 192 :=
  ⟨(pkt ([0, 0, 192])), got 0x0403 (pkt ([0, 0, 192])) (demo), _, ⟨by decide +kernel, by decide +kernel, rfl⟩, by decide +kernel, by decide +kernel⟩

theorem witness_MediaCommandsAnswer_5 : ∃ (p : _) (s : State) (u : _), Starts 0x0404 p s u ∧ parm p 0 2 < 192 ∧ 0 < parm p 3 1 ∧
    parm p 2 1 + parm p 3 1 ≤ (headBridge (parm p 0 2) u).dies.length :=
  ⟨(pkt ([0, 0, 0, 1])), got 0x0404 (pkt ([0, 0, 0, 1])) (withDie), _, ⟨by decide +kernel, by decide +kernel, rfl⟩, by decide +kernel,
    by decide +kernel, by decide +kernel⟩

theorem witness_MediaCommandsAnswer_6 : ∃ (p : _) (s : State) (u : _), Starts 0x0405 p s u ∧ p.dataPages = 0 :=
  ⟨(pkt ([])), got 0x0405 (pkt ([])) (demo), _, ⟨by decide +kernel, by decide +kernel, rfl⟩, by decide +kernel⟩

theorem witness_MediaCommandsAnswer_7 : ∃ (p : _) (s : State) (u : _), Starts 0x0406 p s u :=
  ⟨(pkt ([])), got 0x0406 (pkt ([])) (demo), _, ⟨by decide +kernel, by decide +kernel, rfl⟩⟩

theorem witness_MediaCommandsAnswer_8 : ∃ (p : _) (s : State) (u : _), Starts 0x0407 p s u ∧ parm p 0 2 < 192 ∧
    (parm p 2 1 = 0 ∨ parm p 2 1 = 1 ∨ parm p 2 1 = 0xFF) :=
  ⟨(pkt ([])), got 0x0407 (pkt ([])) (demo), _, ⟨by decide +kernel, by decide +kernel, rfl⟩, by decide +kernel, by decide +kernel⟩

theorem witness_MediaCommandsAnswer_9 : ∃ (p : _) (s : State) (u : _), Starts 0x0408 p s u ∧ parm p 0 2 < 192 ∧
    parm p 2 1 < (headBridge (parm p 0 2) u).dies.length ∧ dieState (parm p 0 2) (parm p 2 1) u < 2 :=
  ⟨(pkt ([])), got 0x0408 (pkt ([])) (withDie), _, ⟨by decide +kernel, by decide +kernel, rfl⟩, by decide +kernel, by decide +kernel,
    by decide +kernel⟩

theorem witness_MediaCommandsAnswer_10 : ∃ (p : _) (s : State) (u : _), Starts 0x0409 p s u ∧ parm p 0 2 < 192 ∧
    (headBridge (parm p 0 2) u).state < 3 :=
  ⟨(pkt ([])), got 0x0409 (pkt ([])) (demo), _, ⟨by decide +kernel, by decide +kernel, rfl⟩, by decide +kernel, by decide +kernel⟩

theorem witness_MediaCommandsAnswer_11 : ∃ (p : _) (s : State) (u : _), Starts 0x040A p s u ∧ 0 < parm p 2 2 ∧ parm p 0 2 + parm p 2 2 ≤ 192 :=
  ⟨(pkt ([0, 0, 192])), got 0x040A (pkt ([0, 0, 192])) (demo), _, ⟨by decide +kernel, by decide +kernel, rfl⟩, by decide +kernel, by decide +kernel⟩

theorem witness_SnapshotCommandsComplete_1 : ∃ (p : _) (s : State) (u : _) (owner : _) (b : _) (s1 : _) (j : _) (s2 : _), Starts 0x0500 p s u ∧
    snapMode u = true ∧ scopeOwner (parm p 0 1) (parm p 2 2) u = some owner ∧ ownsIngest owner u = true ∧ stampBarrier u = (b, s1) ∧
    beginSnap (parm p 0 1) (parm p 2 2) b none none s1 = some (j, s2) :=
  ⟨(pkt ([1, 0, 1])), got 0x0500 (pkt ([1, 0, 1])) (demo), _, _, _, _, _, _, ⟨by decide +kernel, by decide +kernel, rfl⟩, by decide +kernel,
    sg (by decide +kernel), by decide +kernel, rfl, sg2 (by decide +kernel)⟩

theorem witness_SnapshotCommandsComplete_2 : ∃ (p : _) (s : State) (u : _) (owner : _), Starts 0x0500 p s u ∧ snapMode u = true ∧
    scopeOwner (parm p 0 1) (parm p 2 2) u = some owner ∧ ownsIngest owner u = false :=
  ⟨(pkt ([1, 0, 1])), got 0x0500 (pkt ([1, 0, 1])) (modifyMap (fun m => { m with namespaces := [{ demoNs with owner := 1 }] }) fitted), _, _,
    ⟨by decide +kernel, by decide +kernel, rfl⟩, by decide +kernel, sg (by decide +kernel), by decide +kernel⟩

theorem witness_SnapshotCommandsComplete_3 : ∃ (p : _) (s : State) (u : _) (x : _), Starts 0x0501 p s u ∧ snapMode u = true ∧
    snapAt (parm p 0 1) (parm p 2 2) (parm p 4 2) u = some x ∧ snapInUse x u = false :=
  ⟨(pkt ([1, 0, 1, 0, 1])), got 0x0501 (pkt ([1, 0, 1, 0, 1])) (demo), _, _, ⟨by decide +kernel, by decide +kernel, rfl⟩, by decide +kernel,
    sg (by decide +kernel), by decide +kernel⟩

theorem witness_SnapshotCommandsComplete_4 : ∃ (p : _) (s : State) (u : _), Starts 0x0502 p s u ∧
    (scopeOwner (parm p 0 1) (parm p 2 2) u).isSome = true :=
  ⟨(pkt ([1, 0, 1])), got 0x0502 (pkt ([1, 0, 1])) (demo), _, ⟨by decide +kernel, by decide +kernel, rfl⟩, by decide +kernel⟩

theorem witness_SnapshotCommandsComplete_5 : ∃ (p : _) (s : State) (u : _) (n : _) (x : _) (nsid : _) (m : _) (s1 : _), Starts 0x0503 p s u ∧
    journals u = true ∧ parm p 0 1 = 1 ∧ parm p 6 1 = 1 ∧ nsAt (parm p 2 2) u = some n ∧ snapAt 1 (parm p 2 2) (parm p 4 2) u = some x ∧
    u.map.namespaces.any (fun y => y.exposes == some (parm p 2 2, parm p 4 2)) = false ∧
    createNs n.domain n.size n.lbaLog2 (n.owner + 1) (some (parm p 2 2, parm p 4 2)) u = some (nsid, m, s1) :=
  ⟨(pkt ([1, 0, 1, 0, 1, 0, 1])), got 0x0503 (pkt ([1, 0, 1, 0, 1, 0, 1])) (demo), _, _, _, _, _, _, ⟨by decide +kernel, by decide +kernel, rfl⟩,
    by decide +kernel, by decide +kernel, by decide +kernel, sg (by decide +kernel), sg (by decide +kernel), by decide +kernel,
    sg3 (by decide +kernel)⟩

theorem witness_SnapshotCommandsComplete_6 : ∃ (p : _) (s : State) (u : _) (n : _) (x : _) (y : _), Starts 0x0503 p s u ∧ journals u = true ∧
    parm p 0 1 = 1 ∧ parm p 6 1 = 2 ∧ nsAt (parm p 2 2) u = some n ∧ snapAt 1 (parm p 2 2) (parm p 4 2) u = some x ∧
    u.map.namespaces.find? (fun z => z.exposes == some (parm p 2 2, parm p 4 2)) = some y :=
  ⟨(pkt ([1, 0, 1, 0, 1, 0, 2])), got 0x0503 (pkt ([1, 0, 1, 0, 1, 0, 2])) (inNs2 { demoNs with id := 3, exposes := some (1, 1) }), _, _, _, _,
    ⟨by decide +kernel, by decide +kernel, rfl⟩, by decide +kernel, by decide +kernel, by decide +kernel, sg (by decide +kernel),
    sg (by decide +kernel), sg (by decide +kernel)⟩

theorem witness_ReplicationCommandsComplete_1 : ∃ (p : _) (s : State) (u : _) (n : _), Starts 0x0510 p s u ∧ journals u = true ∧
    (scopeOwner (parm p 0 1) (parm p 2 2) u).isSome = true ∧ 8 ≤ parm p 6 1 ∧ parm p 6 1 ≤ 11 ∧
    firstIndex 0xFFFF (fun n => !u.map.pairs.any (fun x => x.role == 1 && x.pair == n && x.state == 1)) = some n :=
  ⟨(pkt ([1, 0, 1, 0, 5, 0, 8])), got 0x0510 (pkt ([1, 0, 1, 0, 5, 0, 8])) (demo), _, _, ⟨by decide +kernel, by decide +kernel, rfl⟩,
    by decide +kernel, by decide +kernel, by decide +kernel, by decide +kernel, sg (by decide +kernel)⟩

theorem witness_ReplicationCommandsComplete_2 : ∃ (p : _) (s : State) (u : _), Starts 0x0511 p s u ∧ journals u = true ∧
    (scopeOwner (parm p 0 1) (parm p 2 2) u).isSome = true ∧ 8 ≤ parm p 6 1 ∧ parm p 6 1 ≤ 11 :=
  ⟨(pkt ([1, 0, 1, 0, 0, 0, 8])), got 0x0511 (pkt ([1, 0, 1, 0, 0, 0, 8])) (demo), _, ⟨by decide +kernel, by decide +kernel, rfl⟩, by decide +kernel,
    by decide +kernel, by decide +kernel, by decide +kernel⟩

theorem witness_ReplicationCommandsComplete_3 : ∃ (p : _) (s : State) (u : _) (r : _) (goal : _), Starts 0x0512 p s u ∧ snapMode u = true ∧
    pairAt (parm p 0 2) u = some r ∧ snapAt r.kind r.source (parm p 4 2) u = some goal ∧ parm p 2 2 = 0 ∧
    u.repl.sessions.any (fun x => x.initiator && x.pair == r.pair) = false ∧ r.sessionLast ≠ 0xFFFFFF ∧ sessionsFull u = false :=
  ⟨(pkt ([1, 0, 0, 0, 1])), got 0x0512 (pkt ([1, 0, 0, 0, 1])) (demo), _, _, _, ⟨by decide +kernel, by decide +kernel, rfl⟩, by decide +kernel,
    sg (by decide +kernel), sg (by decide +kernel), by decide +kernel, by decide +kernel, by decide +kernel, by decide +kernel⟩

theorem witness_ReplicationCommandsComplete_4 : ∃ (p : _) (s : State) (u : _) (x : _) (l : _), Starts 0x0513 p s u ∧
    u.map.pairs.any (fun x => x.role == 1 && x.pair == parm p 0 2) = true ∧
    u.repl.sessions.find? (fun y => y.initiator && y.pair == parm p 0 2) = some x ∧ u.repl.last.find? (fun y => y.pair == parm p 0 2) = some l :=
  ⟨(pkt ([1])), got 0x0513 (pkt ([1])) (inRepl { resetRepl with sessions := [demoSes], last := [⟨1, 0, 0, 0⟩] }), _, _, _,
    ⟨by decide +kernel, by decide +kernel, rfl⟩, by decide +kernel, sg (by decide +kernel), sg (by decide +kernel)⟩

theorem witness_ReplicationCommandsComplete_5 : ∃ (p : _) (s : State) (u : _), Starts 0x0514 p s u ∧ (pairAt (parm p 0 2) u).isSome = true :=
  ⟨(pkt ([1])), got 0x0514 (pkt ([1])) (demo), _, ⟨by decide +kernel, by decide +kernel, rfl⟩, by decide +kernel⟩

theorem witness_ReplicationCommandsComplete_6 : ∃ (p : _) (s : State) (u : _) (r : _), Starts 0x0515 p s u ∧ journals u = true ∧
    pairAt (parm p 0 2) u = some r :=
  ⟨(pkt ([1])), got 0x0515 (pkt ([1])) (demo), _, _, ⟨by decide +kernel, by decide +kernel, rfl⟩, by decide +kernel, sg (by decide +kernel)⟩

theorem witness_ReplicationCommandsComplete_7 : ∃ (p : _) (s : State) (u : _), Starts 0x0520 p s u ∧ parm p 0 1 = 1 ∧
    (scopeOwner 1 (parm p 2 2) u).isSome = true ∧ 0 < parm p 4 2 ∧ (snapAt 1 (parm p 2 2) (parm p 4 2) u).isSome = true ∧ parm p 6 1 < 2 ∧
    0 < parm p 7 1 ∧ parm p 7 1 ≤ 16 ∧ servingMode u.boot.mode = true ∧ bitmapFits u = true :=
  ⟨(pkt ([1, 0, 1, 0, 1, 0, 0, 1])), got 0x0520 (pkt ([1, 0, 1, 0, 1, 0, 0, 1])) (demo), _, ⟨by decide +kernel, by decide +kernel, rfl⟩,
    by decide +kernel, by decide +kernel, by decide +kernel, by decide +kernel, by decide +kernel, by decide +kernel, by decide +kernel,
    by decide +kernel, by decide +kernel⟩

theorem witness_ReplicationCommandsComplete_8 : ∃ (p : _) (s : State) (u : _) (e : _), Starts 0x0521 p s u ∧ exportAt (parm p 0 2) u = some e :=
  ⟨(pkt ([1])), got 0x0521 (pkt ([1])) (inRepl { resetRepl with exports := [demoExport] }), _, _, ⟨by decide +kernel, by decide +kernel, rfl⟩,
    sg (by decide +kernel)⟩

theorem witness_ReplicationCommandsComplete_9 : ∃ (p : _) (s : State) (u : _) (e : _), Starts 0x0522 p s u ∧ exportAt (parm p 0 2) u = some e :=
  ⟨(pkt ([1])), got 0x0522 (pkt ([1])) (inRepl { resetRepl with exports := [demoExport] }), _, _, ⟨by decide +kernel, by decide +kernel, rfl⟩,
    sg (by decide +kernel)⟩

theorem witness_HeadlandAndPortCommandsAnswer_1 : ∃ (p : _) (s : State) (u : _), Starts 0x040B p s u :=
  ⟨(pkt ([])), got 0x040B (pkt ([])) (demo), _, ⟨by decide +kernel, by decide +kernel, rfl⟩⟩

theorem witness_HeadlandAndPortCommandsAnswer_2 : ∃ (p : _) (s : State) (u : _), Starts 0x040C p s u :=
  ⟨(pkt ([])), got 0x040C (pkt ([])) (demo), _, ⟨by decide +kernel, by decide +kernel, rfl⟩⟩

theorem witness_HeadlandAndPortCommandsAnswer_4 : ∃ (p : _) (s : State) (u : _), Starts 0x040C p s u ∧ u.boot.mode = .fallow :=
  ⟨(pkt ([])), got 0x040C (pkt ([])) (inMode .fallow demo), _, ⟨by decide +kernel, by decide +kernel, rfl⟩, by decide +kernel⟩

theorem witness_HeadlandAndPortCommandsAnswer_5 : ∃ (p : _) (s : State) (u : _), Starts 0x040C p s u ∧ u.boot.mode = .active :=
  ⟨(pkt ([])), got 0x040C (pkt ([])) (demo), _, ⟨by decide +kernel, by decide +kernel, rfl⟩, by decide +kernel⟩

theorem witness_HeadlandAndPortCommandsAnswer_6 : ∃ (p : _) (s : State) (u : _), Starts 0x040D p s u ∧ 0 < parm p 1 1 ∧
    parm p 0 1 + parm p 1 1 ≤ 32 :=
  ⟨(pkt ([0, 32])), got 0x040D (pkt ([0, 32])) (demo), _, ⟨by decide +kernel, by decide +kernel, rfl⟩, by decide +kernel, by decide +kernel⟩

theorem witness_HeadlandAndPortCommandsAnswer_7 : ∃ (p : _) (s : State) (u : _) (c : _), Starts 0x040E p s u ∧ qpAt (parm p 0 3 % 2 ^ 20) u = some c ∧
    c.gen = parm p 0 3 / 2 ^ 20 ∧ c.state ≠ .timewait :=
  ⟨(pkt ([2])), got 0x040E (pkt ([2])) (inPorts { resetPorts with qps := [demoQp] }), _, _, ⟨by decide +kernel, by decide +kernel, rfl⟩,
    sg (by decide +kernel), by decide +kernel, by decide +kernel⟩

theorem witness_MemoryCommandsAnswer_1 : ∃ (p : _) (s : State) (u : _), Starts 0x0410 p s u :=
  ⟨(pkt ([])), got 0x0410 (pkt ([])) (demo), _, ⟨by decide +kernel, by decide +kernel, rfl⟩⟩

theorem witness_MemoryCommandsAnswer_2 : ∃ (p : _) (s : State) (u : _), Starts 0x0411 p s u ∧ parm p 0 1 = 1 ∧ u.mem.mcState ≠ .disabling :=
  ⟨(pkt ([1])), got 0x0411 (pkt ([1])) (demo), _, ⟨by decide +kernel, by decide +kernel, rfl⟩, by decide +kernel, by decide +kernel⟩

theorem witness_MemoryCommandsAnswer_3 : ∃ (p : _) (s : State) (u : _), Starts 0x0411 p s u ∧ parm p 0 1 = 2 ∧ u.mem.mcState = .enabled :=
  ⟨(pkt ([2])), got 0x0411 (pkt ([2])) (demo), _, ⟨by decide +kernel, by decide +kernel, rfl⟩, by decide +kernel, by decide +kernel⟩

theorem witness_MemoryCommandsAnswer_4 : ∃ (p : _) (s : State) (u : _), Starts 0x0F10 p s u ∧ u.mem.mcState ≠ .disabled :=
  ⟨(pkt ([])), got 0x0F10 (pkt ([])) (demo), _, ⟨by decide +kernel, by decide +kernel, rfl⟩, by decide +kernel⟩

theorem witness_MemoryCommandsAnswer_5 : ∃ (p : _) (s : State) (u : _) (yes : _) (no : _) (s1 : _), Starts 0x0412 p s u ∧ u.mem.mcState = .enabled ∧
    mcQuiesced u = false ∧ maskCount (BitVec.ofNat 16 (parm p 0 2) ||| u.mem.wayLocked) ≤ 12 ∧
    BitVec.ofNat 16 (parm p 0 2) &&& ~~~ u.mem.wayPowered = 0 ∧ BitVec.ofNat 16 (parm p 0 2) &&& u.mem.wayGoing = 0 ∧
    farRangeOk (parm p 8 8) (parm p 0x10 8) u = true ∧
    preloadAll (BitVec.ofNat 16 (parm p 0 2)) (lineOf (parm p 8 8)) (parm p 0x10 8 / 128) 0 0 (clearWays (BitVec.ofNat 16 (parm p 0 2)) (lineOf (parm p 8 8)) (parm p 0x10 8 / 128) u) = (yes, no, s1) :=
  ⟨(pkt ([3, 0, 0, 0, 0, 0, 0, 0] ++ leBytes 8 0 ++ leBytes 8 256)),
    got 0x0412 (pkt ([3, 0, 0, 0, 0, 0, 0, 0] ++ leBytes 8 0 ++ leBytes 8 256)) (farReady), _, _, _, _, ⟨by decide +kernel, by decide +kernel, rfl⟩,
    by decide +kernel, by decide +kernel, by decide +kernel, by decide +kernel, by decide +kernel, by decide +kernel, rfl⟩

theorem witness_MemoryCommandsAnswer_6 : ∃ (p : _) (s : State) (u : _), Starts 0x0413 p s u :=
  ⟨(pkt ([])), got 0x0413 (pkt ([])) (demo), _, ⟨by decide +kernel, by decide +kernel, rfl⟩⟩

theorem witness_MemoryCommandsAnswer_7 : ∃ (p : _) (s : State) (u : _) (c : _) (t : _), Starts 0x0414 p s u ∧
    farRangeOk (parm p 8 8) (parm p 0x10 8) u = true ∧
    (List.range (parm p 0x10 8 / 128)).foldl (fun cs i => rangeAt (parm p 0 1) (lineOf (parm p 8 8) + i) cs) (⟨0, 0, 0⟩, u) = (c, t) ∧
    parm p 0 1 = 1 :=
  ⟨(pkt ([1, 0, 0, 0, 0, 0, 0, 0] ++ leBytes 8 0 ++ leBytes 8 256)),
    got 0x0414 (pkt ([1, 0, 0, 0, 0, 0, 0, 0] ++ leBytes 8 0 ++ leBytes 8 256)) (farReady), _, _, _, ⟨by decide +kernel, by decide +kernel, rfl⟩,
    by decide +kernel, rfl, by decide +kernel⟩

theorem witness_MemoryCommandsAnswer_8 : ∃ (p : _) (s : State) (u : _) (c : _) (t : _), Starts 0x0414 p s u ∧
    farRangeOk (parm p 8 8) (parm p 0x10 8) u = true ∧
    (List.range (parm p 0x10 8 / 128)).foldl (fun cs i => rangeAt (parm p 0 1) (lineOf (parm p 8 8) + i) cs) (⟨0, 0, 0⟩, u) = (c, t) ∧
    parm p 0 1 = 2 :=
  ⟨(pkt ([2, 0, 0, 0, 0, 0, 0, 0] ++ leBytes 8 0 ++ leBytes 8 256)),
    got 0x0414 (pkt ([2, 0, 0, 0, 0, 0, 0, 0] ++ leBytes 8 0 ++ leBytes 8 256)) (farReady), _, _, _, ⟨by decide +kernel, by decide +kernel, rfl⟩,
    by decide +kernel, rfl, by decide +kernel⟩

theorem witness_MemoryCommandsAnswer_9 : ∃ (p : _) (s : State) (u : _) (c : _) (t : _), Starts 0x0414 p s u ∧
    farRangeOk (parm p 8 8) (parm p 0x10 8) u = true ∧
    (List.range (parm p 0x10 8 / 128)).foldl (fun cs i => rangeAt (parm p 0 1) (lineOf (parm p 8 8) + i) cs) (⟨0, 0, 0⟩, u) = (c, t) ∧
    parm p 0 1 = 3 ∧ u.boot.mode = .service :=
  ⟨(pkt ([3, 0, 0, 0, 0, 0, 0, 0] ++ leBytes 8 0 ++ leBytes 8 256)),
    got 0x0414 (pkt ([3, 0, 0, 0, 0, 0, 0, 0] ++ leBytes 8 0 ++ leBytes 8 256)) (inMode .service farReady), _, _, _,
    ⟨by decide +kernel, by decide +kernel, rfl⟩, by decide +kernel, rfl, by decide +kernel, by decide +kernel⟩

theorem witness_MemoryCommandsAnswer_10 : ∃ (p : _) (s : State) (u : _), Starts 0x0415 p s u ∧ u.mem.mcState = .enabled ∧ parm p 0 1 = 1 ∧
    BitVec.ofNat 16 (parm p 2 2) &&& u.mem.wayLocked = 0 ∧
    u.mem.wayPowered &&& ~~~ u.mem.wayGoing &&& ~~~ u.mem.wayLocked &&& ~~~ (BitVec.ofNat 16 (parm p 2 2)) ≠ 0 :=
  ⟨(pkt ([1, 0, 1])), got 0x0415 (pkt ([1, 0, 1])) (demo), _, ⟨by decide +kernel, by decide +kernel, rfl⟩, by decide +kernel, by decide +kernel,
    by decide +kernel, by decide +kernel⟩

theorem witness_MemoryCommandsAnswer_11 : ∃ (p : _) (s : State) (u : _), Starts 0x0415 p s u ∧ u.mem.mcState = .enabled ∧ parm p 0 1 = 2 :=
  ⟨(pkt ([2, 0, 1])), got 0x0415 (pkt ([2, 0, 1])) (demo), _, ⟨by decide +kernel, by decide +kernel, rfl⟩, by decide +kernel, by decide +kernel⟩

theorem witness_MemoryCommandsAnswer_12 : ∃ (p : _) (s : State) (u : _) (l : _), Starts 0x0F11 p s u ∧ parm p 0 1 < 4 ∧ parm p 2 2 < 16384 ∧
    parm p 4 1 < 16 ∧ u.mem.lines.find? (fun l => l.slice == parm p 0 1 && l.set == parm p 2 2 && l.way == parm p 4 1) = some l :=
  ⟨(pkt ([3, 0, 255, 63, 15])),
    got 0x0F11 (pkt ([3, 0, 255, 63, 15])) (modifyMem (fun m => { m with lines := [⟨3, 16383, 15, 0, false, false, []⟩] }) demo), _, _,
    ⟨by decide +kernel, by decide +kernel, rfl⟩, by decide +kernel, by decide +kernel, by decide +kernel, sg (by decide +kernel)⟩

theorem witness_BufferCommandsAnswer_1 : ∃ (p : _) (s : State) (u : _), Starts 0x0416 p s u :=
  ⟨(pkt ([])), got 0x0416 (pkt ([])) (demo), _, ⟨by decide +kernel, by decide +kernel, rfl⟩⟩

theorem witness_BufferCommandsAnswer_2 : ∃ (p : _) (s : State) (u : _), Starts 0x0F12 p s u ∧
    (arenaOf (hPool (parm p 0 4)) (hIndex (parm p 0 4)) u).isSome = true :=
  ⟨(pkt ([])), got 0x0F12 (pkt ([])) (demo), _, ⟨by decide +kernel, by decide +kernel, rfl⟩, by decide +kernel⟩

theorem witness_BufferCommandsAnswer_3 : ∃ (p : _) (s : State) (u : _), Starts 0x0800 p s u ∧ 0 < parm p 1 1 ∧ parm p 0 1 + parm p 1 1 ≤ 256 :=
  ⟨(pkt ([0, 1])), got 0x0800 (pkt ([0, 1])) (demo), _, ⟨by decide +kernel, by decide +kernel, rfl⟩, by decide +kernel, by decide +kernel⟩

theorem witness_BufferCommandsAnswer_4 : ∃ (p : _) (s : State) (u : _) (pool : _) (h : _) (s1 : _), Starts 0x0801 p s u ∧
    poolFor (parm p 0 4) = some pool ∧ listLow (granaryReserve u) (gList 2 pool u) = false ∧ (gList 2 pool u).cut = false ∧
    0 < freeNow (gList 2 pool u) ∧ (gList 2 pool u).waiters = [] ∧ hostBuffers u < paramNat 0x1301 0 u ∧
    takeBuffer 2 pool 0x2D none u = (some h, s1) :=
  ⟨(pkt ([0, 1])), got 0x0801 (pkt ([0, 1])) (demo), _, _, _, _, ⟨by decide +kernel, by decide +kernel, rfl⟩, sg (by decide +kernel),
    by decide +kernel, by decide +kernel, by decide +kernel, by decide +kernel, by decide +kernel, sp (by decide +kernel)⟩

theorem witness_BufferCommandsAnswer_5 : ∃ (p : _) (s : State) (u : _) (t : _), Starts 0x0802 p s u ∧ gRelease 0x2D (parm p 0 4) none u = (5, t) :=
  ⟨(pkt (leBytes 4 heldBuffer)), got 0x0802 (pkt (leBytes 4 heldBuffer)) (withBuffer), _, _, ⟨by decide +kernel, by decide +kernel, rfl⟩,
    sn (by decide +kernel)⟩

theorem witness_ControlCommandsComplete_1 : ∃ (p : _) (s : State) (u : _), Starts 0x0000 p s u :=
  ⟨(pkt ([])), got 0x0000 (pkt ([])) (demo), _, ⟨by decide +kernel, by decide +kernel, rfl⟩⟩

theorem witness_ControlCommandsComplete_2 : ∃ (p : _) (s : State) (u : _), Starts 0x0001 p s u :=
  ⟨(pkt ([])), got 0x0001 (pkt ([])) (demo), _, ⟨by decide +kernel, by decide +kernel, rfl⟩⟩

theorem witness_ControlCommandsComplete_3 : ∃ (p : _) (s : State) (u : _) (r : _), Starts 0x0002 p s u ∧ u.mci.rings[p.fetchedFrom]? = some r ∧
    r.watch = none ∧ parm p 4 4 ≤ 3600000 ∧ parm p 0 2 = u.hsw.attnSeq.toNat :=
  ⟨(pkt ([0])), got 0x0002 (pkt ([0])) (demo), _, _, ⟨by decide +kernel, by decide +kernel, rfl⟩, sg (by decide +kernel), by decide +kernel,
    by decide +kernel, by decide +kernel⟩

theorem witness_ControlCommandsComplete_4 : ∃ (p : _) (s : State) (u : _) (r : _), Starts 0x0002 p s u ∧ u.mci.rings[p.fetchedFrom]? = some r ∧
    r.watch = none ∧ parm p 4 4 ≤ 3600000 ∧ parm p 0 2 ≠ u.hsw.attnSeq.toNat :=
  ⟨(pkt ([1])), got 0x0002 (pkt ([1])) (demo), _, _, ⟨by decide +kernel, by decide +kernel, rfl⟩, sg (by decide +kernel), by decide +kernel,
    by decide +kernel, by decide +kernel⟩

theorem witness_ControlCommandsComplete_5 : ∃ (p : _) (s : State) (u : _), Starts 0x0003 p s u ∧ fieldAt p.params 0 1 = 1 ∧ u.boot.mode = .service :=
  ⟨(pkt ([1])), got 0x0003 (pkt ([1])) (inMode .service demo), _, ⟨by decide +kernel, by decide +kernel, rfl⟩, by decide +kernel, by decide +kernel⟩

theorem witness_ControlCommandsComplete_6 : ∃ (p : _) (s : State) (u : _), Starts 0x0003 p s u ∧ fieldAt p.params 0 1 = 1 ∧ u.boot.mode = .recovery :=
  ⟨(pkt ([1])), got 0x0003 (pkt ([1])) (inMode .recovery demo), _, ⟨by decide +kernel, by decide +kernel, rfl⟩, by decide +kernel, by decide +kernel⟩

theorem witness_ControlCommandsComplete_7 : ∃ (p : _) (s : State) (u : _), Starts 0x0003 p s u ∧ fieldAt p.params 0 1 = 0xB ∧
    servingMode u.boot.mode = true :=
  ⟨(pkt ([0xB])), got 0x0003 (pkt ([0xB])) (demo), _, ⟨by decide +kernel, by decide +kernel, rfl⟩, by decide +kernel, by decide +kernel⟩

theorem witness_ControlCommandsComplete_8 : ∃ (p : _) (s : State) (u : _), Starts 0x0003 p s u ∧ fieldAt p.params 0 1 = 0xC ∧ u.boot.mode = .fallow :=
  ⟨(pkt ([0xC])), got 0x0003 (pkt ([0xC])) (inMode .fallow demo), _, ⟨by decide +kernel, by decide +kernel, rfl⟩, by decide +kernel,
    by decide +kernel⟩

theorem witness_ControlCommandsComplete_9 : ∃ (p : _) (s : State) (u : _), Starts 0x0003 p s u ∧ fieldAt p.params 0 1 = 0xC ∧
    u.boot.mode = .inventory :=
  ⟨(pkt ([0xC])), got 0x0003 (pkt ([0xC])) (inMode .inventory demo), _, ⟨by decide +kernel, by decide +kernel, rfl⟩, by decide +kernel,
    by decide +kernel⟩

theorem witness_ControlCommandsComplete_10 : ∃ (p : _) (s : State) (u : _) (v : _), Starts 0x0004 p s u ∧ 0 < p.function.toNat ∧
    functionCodes.contains p.function.toNat = true ∧ fullyQuiesced p.function.toNat u = false ∧ u.mci.quiescing.contains p.function.toNat = false ∧
    v = cipherSchedule { u with mci := { u.mci with quiescing := u.mci.quiescing ++ [p.function.toNat] } } ∧
    quiesceReached p.function.toNat v = true :=
  ⟨({ pkt [] with function := 0x10 }), got 0x0004 ({ pkt [] with function := 0x10 }) (demo), _, _, ⟨by decide +kernel, by decide +kernel, rfl⟩,
    by decide +kernel, by decide +kernel, by decide +kernel, by decide +kernel, rfl, by decide +kernel⟩

theorem witness_ControlCommandsComplete_11 : ∃ (p : _) (s : State) (u : _) (v : _), Starts 0x0004 p s u ∧ 0 < p.function.toNat ∧
    functionCodes.contains p.function.toNat = true ∧ fullyQuiesced p.function.toNat u = false ∧ u.mci.quiescing.contains p.function.toNat = false ∧
    v = cipherSchedule { u with mci := { u.mci with quiescing := u.mci.quiescing ++ [p.function.toNat] } } ∧
    quiesceReached p.function.toNat v = false :=
  ⟨({ pkt [] with function := 0x44 }),
    got 0x0004 ({ pkt [] with function := 0x44 }) ({ demo with dma := List.replicate 256 { resetChannel with running := some ⟨⟨0, 0, 0, 0⟩, 0, none, false⟩, idle := false } }),
    _, _, ⟨by decide +kernel, by decide +kernel, rfl⟩, by decide +kernel, by decide +kernel, by decide +kernel, by decide +kernel, rfl,
    by decide +kernel⟩

theorem witness_ControlCommandsComplete_12 : ∃ (p : _) (s : State) (u : _) (f : _) (n : _) (t : _), Starts 0x0005 p s u ∧ 0 < p.function.toNat ∧
    functionCodes.contains p.function.toNat = true ∧ u.mci.quiesced.contains p.function.toNat = true ∧
    resumeFunctions [p.function.toNat] f u = (n, t) :=
  ⟨({ pkt [] with function := 0x10 }), got 0x0005 ({ pkt [] with function := 0x10 }) (quiet [0x10] demo), _, [], _, _,
    ⟨by decide +kernel, by decide +kernel, rfl⟩, by decide +kernel, by decide +kernel, by decide +kernel, rfl⟩

theorem witness_ControlCommandsComplete_13 : ∃ (p : _) (s : State) (u : _), Starts 0x0006 p s u :=
  ⟨(pkt ([])), got 0x0006 (pkt ([])) (demo), _, ⟨by decide +kernel, by decide +kernel, rfl⟩⟩

theorem witness_ControlCommandsComplete_14 : ∃ (p : _) (s : State) (u : _), Starts 0x0007 p s u ∧ u.time.resumed = true ∧ u.time.arraySet = true ∧
    0 < parm p 0 8 ∧ parm p 0 8 < arrayTime u ∧ hasAuth p = false :=
  ⟨(pkt (leBytes 8 5)), got 0x0007 (pkt (leBytes 8 5)) (atTime 1000 demo), _, ⟨by decide +kernel, by decide +kernel, rfl⟩, by decide +kernel,
    by decide +kernel, by decide +kernel, by decide +kernel, by decide +kernel⟩

theorem witness_ControlCommandsComplete_15 : ∃ (p : _) (s : State) (u : _) (v : _) (t : _), Starts 0x0007 p s u ∧ u.time.resumed = true ∧
    u.time.arraySet = true ∧ 0 < parm p 0 8 ∧ arrayTime u ≤ parm p 0 8 ∧ parm p 0 8 ≤ arrayTime u + 86400000000 ∧ hasAuth p = false ∧
    markRoom u = true ∧
    v = almanac 0x0002 (leBytes 8 (arrayTime u) ++ leBytes 8 (parm p 0 8)) { u with time := { u.time with arraySet := true, arrayBase := parm p 0 8, arrayTick := u.time.ticks, slewing := false } } ∧
    t = almanac 0x0601 (timeMark v) (hswSync v) ∧ almEarly t = true :=
  ⟨(pkt (leBytes 8 86400001000)), got 0x0007 (pkt (leBytes 8 86400001000)) (atTime 1000 (inMode .service demo)), _, _, _,
    ⟨by decide +kernel, by decide +kernel, rfl⟩, by decide +kernel, by decide +kernel, by decide +kernel, by decide +kernel, by decide +kernel,
    by decide +kernel, by decide +kernel, rfl, rfl, by decide +kernel⟩

theorem witness_ControlCommandsComplete_16 : ∃ (p : _) (s : State) (u : _) (v : _) (t : _), Starts 0x0007 p s u ∧ u.time.resumed = true ∧
    u.time.arraySet = true ∧ 0 < parm p 0 8 ∧ arrayTime u ≤ parm p 0 8 ∧ parm p 0 8 ≤ arrayTime u + 86400000000 ∧ hasAuth p = false ∧
    markRoom u = true ∧
    v = almanac 0x0002 (leBytes 8 (arrayTime u) ++ leBytes 8 (parm p 0 8)) { u with time := { u.time with arraySet := true, arrayBase := parm p 0 8, arrayTick := u.time.ticks, slewing := false } } ∧
    t = almanac 0x0601 (timeMark v) (hswSync v) ∧ almEarly t = false :=
  ⟨(pkt (leBytes 8 86400001000)), got 0x0007 (pkt (leBytes 8 86400001000)) (atTime 1000 demo), _, _, _, ⟨by decide +kernel, by decide +kernel, rfl⟩,
    by decide +kernel, by decide +kernel, by decide +kernel, by decide +kernel, by decide +kernel, by decide +kernel, by decide +kernel, rfl, rfl,
    by decide +kernel⟩

theorem witness_ControlCommandsComplete_17 : ∃ (p : _) (s : State) (u : _) (n : _), Starts 0x0008 p s u ∧
    firstIndex 16 (fun n => (((u.mci.rings[n]?).bind (·.watch)).map (fun w => w.tag == parm p 0 2 % 2 ^ 15)).getD false) = some n :=
  ⟨(pkt ([7])), got 0x0008 (pkt ([7])) (modifyRing 3 (fun r => { r with watch := some demoWatch }) demo), _, _,
    ⟨by decide +kernel, by decide +kernel, rfl⟩, sg (by decide +kernel)⟩

theorem witness_ControlCommandsComplete_18 : ∃ (p : _) (s : State) (u : _), Starts 0x0009 p s u ∧ BitVec.ofNat 16 (parm p 0 2) &&& ~~~ attnMask = 0 ∧
    bitOf (parm p 0 2) bitAlmanac = false :=
  ⟨(pkt (leBytes 2 0x0040)), got 0x0009 (pkt (leBytes 2 0x0040)) (demo), _, ⟨by decide +kernel, by decide +kernel, rfl⟩, by decide +kernel,
    by decide +kernel⟩

theorem witness_ConfigurationCommandsComplete_1 : ∃ (p : _) (s : State) (u : _) (d : _), Starts 0x0100 p s u ∧ paramDef (parm p 0 2) = some d ∧
    parm p 2 2 < scopeCount d.scope ∧ parm p 4 1 = 0 ∧ (paramNow (parm p 0 2) (parm p 2 2) u).length ≤ 16 :=
  ⟨(pkt (leBytes 2 0x0900)), got 0x0100 (pkt (leBytes 2 0x0900)) (demo), _, _, ⟨by decide +kernel, by decide +kernel, rfl⟩, sg (by decide +kernel),
    by decide +kernel, by decide +kernel, by decide +kernel⟩

theorem witness_ConfigurationCommandsComplete_2 : ∃ (p : _) (s : State) (u : _) (v : _), Starts 0x0101 p s u ∧ p.busError = false ∧
    packetValue p (parm p 4 2) = some v ∧ paramCheck (parm p 0 2) (parm p 2 2) v u = none ∧ u.headland.peerPresent = false ∧
    quiesceFor (parm p 0 2) (parm p 2 2) v u = [] :=
  ⟨(pkt (leBytes 2 0x0904 ++ [0, 0, 8, 0, 0, 0, 20])), got 0x0101 (pkt (leBytes 2 0x0904 ++ [0, 0, 8, 0, 0, 0, 20])) (demo), _, _,
    ⟨by decide +kernel, by decide +kernel, rfl⟩, by decide +kernel, sg (by decide +kernel), by decide +kernel, by decide +kernel, by decide +kernel⟩

theorem witness_ConfigurationCommandsComplete_3 : ∃ (p : _) (s : State) (u : _) (v : _), Starts 0x0101 p s u ∧ p.busError = false ∧
    packetValue p (parm p 4 2) = some v ∧ paramCheck (parm p 0 2) (parm p 2 2) v u = none ∧ u.headland.peerPresent = false ∧
    quiesceFor (parm p 0 2) (parm p 2 2) v u ≠ [] :=
  ⟨(pkt (leBytes 2 0x1000 ++ [0, 0, 8, 0, 0, 0, 20])), got 0x0101 (pkt (leBytes 2 0x1000 ++ [0, 0, 8, 0, 0, 0, 20])) (quiet [3] demo), _, _,
    ⟨by decide +kernel, by decide +kernel, rfl⟩, by decide +kernel, sg (by decide +kernel), by decide +kernel, by decide +kernel, by decide +kernel⟩

theorem witness_ConfigurationCommandsComplete_4 : ∃ (p : _) (s : State) (u : _) (no : _) (c : ConfigRecord), Starts 0x0102 p s u ∧
    u.mci.lastCommit = none ∧ no = (u.mci.recordNo / 2 + 1) * 2 + u.boot.headId ∧
    c = { head := u.boot.headId, recordNo := no, commitTime := arrayTime u, entries := configEntries u } :=
  ⟨(pkt ([])), got 0x0102 (pkt ([])) (demo), _, _, _, ⟨by decide +kernel, by decide +kernel, rfl⟩, by decide +kernel, rfl, rfl⟩

theorem witness_ConfigurationCommandsComplete_5 : ∃ (p : _) (s : State) (u : _) (c : _), Starts 0x0103 p s u ∧ u.mci.committed = some c :=
  ⟨(pkt ([])), got 0x0103 (pkt ([])) ({ demo with mci := { resetMci with committed := some ⟨0, 2, 0, []⟩ } }), _, _,
    ⟨by decide +kernel, by decide +kernel, rfl⟩, sg (by decide +kernel)⟩

theorem witness_ConfigurationCommandsComplete_6 : ∃ (p : _) (s : State) (u : _) (d : _), Starts 0x0203 p s u ∧ paramDef (parm p 0 2) = some d ∧
    scopeTakes d.scope (parm p 2 1) = true ∧ scopeExists (parm p 2 1) (parm p 4 2) u = true ∧ parm p 6 2 ≤ 40 ∧
    kindAccepts d.kind (parmBytes p 8 (parm p 6 2)) = true ∧ parm p 0 2 ≠ 0x1003 ∧ d.quiesce = [] ∧ p.fetchedFrom < peerRing ∧ journals u = true :=
  ⟨(pkt (leBytes 2 0x0304 ++ [1, 0, 1, 0, 8, 0, 1])), got 0x0203 (pkt (leBytes 2 0x0304 ++ [1, 0, 1, 0, 8, 0, 1])) (demo), _, _,
    ⟨by decide +kernel, by decide +kernel, rfl⟩, sg (by decide +kernel), by decide +kernel, by decide +kernel, by decide +kernel, by decide +kernel,
    by decide +kernel, by decide +kernel, by decide +kernel, by decide +kernel⟩

theorem witness_ConfigurationCommandsComplete_7 : ∃ (p : _) (s : State) (u : _) (d : _), Starts 0x0204 p s u ∧ paramDef (parm p 0 2) = some d ∧
    scopeTakes d.scope (parm p 2 1) = true ∧ scopeExists (parm p 2 1) (parm p 4 2) u = true ∧
    (scopeNow (parm p 2 1) (parm p 4 2) (parm p 0 2) u).length ≤ 16 :=
  ⟨(pkt (leBytes 2 0x0304 ++ [1, 0, 1])), got 0x0204 (pkt (leBytes 2 0x0304 ++ [1, 0, 1])) (demo), _, _, ⟨by decide +kernel, by decide +kernel, rfl⟩,
    sg (by decide +kernel), by decide +kernel, by decide +kernel, by decide +kernel⟩

theorem witness_TableCommandsComplete_1 : ∃ (p : _) (s : State) (u : _) (k : _), Starts 0x0200 p s u ∧ journals u = true ∧
    domainAt (parm p 0 1) u = none ∧ kekSlot (parm p 1 1) = true ∧ parm p 2 1 ≤ 9 ∧ parm p 3 1 ≤ 3 ∧ bitOf (parm p 4 1) 0 = true ∧
    32 ≤ p.data.length ∧ p.busError = false ∧ isKeyOwner (parm p 0 1) u = true ∧ gauntletKey (parm p 1 1) u = some k :=
  ⟨({ pkt [4, 1, 0, 0, 1] with data := zeros 32 }), got 0x0200 ({ pkt [4, 1, 0, 0, 1] with data := zeros 32 }) (demo), _, _,
    ⟨by decide +kernel, by decide +kernel, rfl⟩, by decide +kernel, by decide +kernel, by decide +kernel, by decide +kernel, by decide +kernel,
    by decide +kernel, by decide +kernel, by decide +kernel, by decide +kernel, sg (by decide +kernel)⟩

theorem witness_TableCommandsComplete_2 : ∃ (p : _) (s : State) (u : _) (x : _), Starts 0x0201 p s u ∧ domainAt (parm p 0 1) u = some x ∧
    journals u = true ∧ u.map.namespaces.any (fun n => n.domain == parm p 0 1) = false ∧ u.map.objdoms.any (fun o => o.domain == parm p 0 1) = false ∧
    liveEpochs x = [] :=
  ⟨(pkt ([2])),
    got 0x0201 (pkt ([2])) (modifyMap (fun m => { m with domains := [(2, { demoDomain with counts := [] })], namespaces := [], objdoms := [] }) demo),
    _, _, ⟨by decide +kernel, by decide +kernel, rfl⟩, sg (by decide +kernel), by decide +kernel, by decide +kernel, by decide +kernel,
    by decide +kernel⟩

theorem witness_TableCommandsComplete_3 : ∃ (p : _) (s : State) (u : _) (x : _), Starts 0x0202 p s u ∧ domainAt (parm p 0 1) u = some x :=
  ⟨(pkt ([2])), got 0x0202 (pkt ([2])) (demo), _, _, ⟨by decide +kernel, by decide +kernel, rfl⟩, sg (by decide +kernel)⟩

theorem witness_TableCommandsComplete_4 : ∃ (p : _) (s : State) (u : _) (id : _) (m : _) (t : _), Starts 0x0210 p s u ∧ journals u = true ∧
    (domainAt (parm p 0 1) u).isSome = true ∧ nsShapeOk (parm p 8 8) (parm p 1 1) = true ∧ parm p 2 1 ≤ 2 ∧
    createNs (parm p 0 1) (parm p 8 8) (parm p 1 1) (parm p 2 1) none u = some (id, m, t) :=
  ⟨(pkt ([2, 12, 1, 0, 0, 0, 0, 0, 0, 64])), got 0x0210 (pkt ([2, 12, 1, 0, 0, 0, 0, 0, 0, 64])) (demo), _, _, _, _,
    ⟨by decide +kernel, by decide +kernel, rfl⟩, by decide +kernel, by decide +kernel, by decide +kernel, by decide +kernel, sg3 (by decide +kernel)⟩

theorem witness_TableCommandsComplete_5 : ∃ (p : _) (s : State) (u : _) (n : _), Starts 0x0211 p s u ∧ journals u = true ∧
    nsAt (parm p 0 2) u = some n ∧ nsPinned n.id u = false :=
  ⟨(pkt ([1])), got 0x0211 (pkt ([1])) (demo), _, _, ⟨by decide +kernel, by decide +kernel, rfl⟩, by decide +kernel, sg (by decide +kernel),
    by decide +kernel⟩

theorem witness_TableCommandsComplete_6 : ∃ (p : _) (s : State) (u : _), Starts 0x0212 p s u ∧ parm p 0 2 ≤ 1024 :=
  ⟨(pkt ([0, 4])), got 0x0212 (pkt ([0, 4])) (demo), _, ⟨by decide +kernel, by decide +kernel, rfl⟩, by decide +kernel⟩

theorem witness_TableCommandsComplete_7 : ∃ (p : _) (s : State) (u : _) (i : _), Starts 0x0220 p s u ∧ journals u = true ∧ p.busError = false ∧
    0 < parm p 0 2 ∧ parm p 0 2 ≤ 223 ∧ parm p 0 2 ≤ p.data.length ∧ hostIndex (p.data.take (parm p 0 2)) u = none ∧
    firstIndex 1024 (fun i => (lookup i u.map.hosts).isNone) = some i :=
  ⟨({ pkt [3] with data := [1, 2, 3] }), got 0x0220 ({ pkt [3] with data := [1, 2, 3] }) (demo), _, _, ⟨by decide +kernel, by decide +kernel, rfl⟩,
    by decide +kernel, by decide +kernel, by decide +kernel, by decide +kernel, by decide +kernel, by decide +kernel, sg (by decide +kernel)⟩

theorem witness_TableCommandsComplete_8 : ∃ (p : _) (s : State) (u : _), Starts 0x0221 p s u ∧ journals u = true ∧
    (lookup (parm p 0 2) u.map.hosts).isSome = true ∧ u.map.namespaces.any (fun n => n.hosts.contains (parm p 0 2)) = false :=
  ⟨(pkt ([1])), got 0x0221 (pkt ([1])) (demo), _, ⟨by decide +kernel, by decide +kernel, rfl⟩, by decide +kernel, by decide +kernel,
    by decide +kernel⟩

theorem witness_TableCommandsComplete_9 : ∃ (p : _) (s : State) (u : _) (n : _), Starts 0x0222 p s u ∧ journals u = true ∧
    nsAt (parm p 0 2) u = some n ∧ (lookup (parm p 2 2) u.map.hosts).isSome = true ∧ parm p 4 1 = 1 ∧ n.hosts.contains (parm p 2 2) = false :=
  ⟨(pkt ([1, 0, 1, 0, 1])), got 0x0222 (pkt ([1, 0, 1, 0, 1])) (demo), _, _, ⟨by decide +kernel, by decide +kernel, rfl⟩, by decide +kernel,
    sg (by decide +kernel), by decide +kernel, by decide +kernel, by decide +kernel⟩

theorem witness_TableCommandsComplete_10 : ∃ (p : _) (s : State) (u : _) (n : _), Starts 0x0222 p s u ∧ journals u = true ∧
    nsAt (parm p 0 2) u = some n ∧ (lookup (parm p 2 2) u.map.hosts).isSome = true ∧ parm p 4 1 = 2 ∧ n.hosts.contains (parm p 2 2) = true :=
  ⟨(pkt ([1, 0, 0, 0, 2])), got 0x0222 (pkt ([1, 0, 0, 0, 2])) (demo), _, _, ⟨by decide +kernel, by decide +kernel, rfl⟩, by decide +kernel,
    sg (by decide +kernel), by decide +kernel, by decide +kernel, by decide +kernel⟩

theorem witness_TableCommandsComplete_11 : ∃ (p : _) (s : State) (u : _), Starts 0x0230 p s u ∧ journals u = true ∧ objdomAt (parm p 0 1) u = none ∧
    (domainAt (parm p 1 1) u).isSome = true ∧ parm p 2 1 ≤ 1 :=
  ⟨(pkt ([3, 2])), got 0x0230 (pkt ([3, 2])) (demo), _, ⟨by decide +kernel, by decide +kernel, rfl⟩, by decide +kernel, by decide +kernel,
    by decide +kernel, by decide +kernel⟩

theorem witness_TableCommandsComplete_12 : ∃ (p : _) (s : State) (u : _), Starts 0x0231 p s u ∧ journals u = true ∧
    (objdomAt (parm p 0 1) u).isSome = true ∧ u.map.objects.any (fun o => o.objDomain == parm p 0 1 && holdStands o u) = false ∧
    (snapsOf 2 (parm p 0 1) u).any (fun x => snapInUse x u) = false :=
  ⟨(pkt ([1])), got 0x0231 (pkt ([1])) (demo), _, ⟨by decide +kernel, by decide +kernel, rfl⟩, by decide +kernel, by decide +kernel,
    by decide +kernel, by decide +kernel⟩

theorem witness_TableCommandsComplete_13 : ∃ (p : _) (s : State) (u : _) (o : _), Starts 0x0232 p s u ∧ journals u = true ∧
    objdomAt (parm p 0 1) u = some o ∧ parm p 1 1 = 1 ∧ o.clients.contains (parm p 8 16) = false ∧ o.clients.length < 256 :=
  ⟨(pkt ([1, 1])), got 0x0232 (pkt ([1, 1])) (demo), _, _, ⟨by decide +kernel, by decide +kernel, rfl⟩, by decide +kernel, sg (by decide +kernel),
    by decide +kernel, by decide +kernel, by decide +kernel⟩

theorem witness_TableCommandsComplete_14 : ∃ (p : _) (s : State) (u : _) (o : _), Starts 0x0232 p s u ∧ journals u = true ∧
    objdomAt (parm p 0 1) u = some o ∧ parm p 1 1 = 2 ∧ o.clients.contains (parm p 8 16) = true :=
  ⟨(pkt ([1, 2])), got 0x0232 (pkt ([1, 2])) (modifyMap (fun m => { m with objdoms := [⟨1, 2, 0, [0]⟩] }) demo), _, _,
    ⟨by decide +kernel, by decide +kernel, rfl⟩, by decide +kernel, sg (by decide +kernel), by decide +kernel, by decide +kernel⟩

theorem witness_TableCommandsComplete_15 : ∃ (p : _) (s : State) (u : _) (d : _) (o : _) (j : _) (m : _) (t : _), Starts 0x0233 p s u ∧
    objdomAt (parm p 0 1) u = some d ∧ objectAt (parm p 8 8) u = some o ∧ o.objDomain = d.id ∧ journals u = true ∧ d.owner = u.boot.headId ∧
    place (leNat (o.key.take 1) % 4) (.object { o with holdFlags := 0, holdUntil := 0 }) u = (j, m, t) :=
  ⟨(pkt ([1, 0, 0, 0, 0, 0, 0, 0, 9])), got 0x0233 (pkt ([1, 0, 0, 0, 0, 0, 0, 0, 9])) (withObject), _, _, _, _, _, _,
    ⟨by decide +kernel, by decide +kernel, rfl⟩, sg (by decide +kernel), sg (by decide +kernel), by decide +kernel, by decide +kernel,
    by decide +kernel, rfl⟩

theorem witness_RecordCommandsComplete_1 : ∃ (p : _) (s : State) (u : _), Starts 0x0600 p s u :=
  ⟨(pkt ([])), got 0x0600 (pkt ([])) (demo), _, ⟨by decide +kernel, by decide +kernel, rfl⟩⟩

theorem witness_RecordCommandsComplete_2 : ∃ (p : _) (s : State) (u : _) (asked : _) (fit : _), Starts 0x0601 p s u ∧ u.boot.mode ≠ .boot ∧
    u.boot.mode ≠ .recovery ∧ u.alm.oldestSeq ≤ parm p 0 8 ∧ asked = (readable (parm p 0 8) u.alm).take (parm p 8 4) ∧
    fit = readFit (parm p 8 4) (4096 * p.dataPages.toNat) asked :=
  ⟨(pkt (leBytes 8 0 ++ [4])), got 0x0601 (pkt (leBytes 8 0 ++ [4])) (demo), _, _, _, ⟨by decide +kernel, by decide +kernel, rfl⟩, by decide +kernel,
    by decide +kernel, by decide +kernel, rfl, rfl⟩

theorem witness_RecordCommandsComplete_3 : ∃ (p : _) (s : State) (u : _) (n : _) (t : _), Starts 0x0602 p s u ∧ almEarly u = false ∧
    u.alm.queueReady = true ∧ stagedBytes u.alm + almLen 36 ≤ stagingSize ∧ u.alm.newestSeq < almLastSeq ∧
    n = ((u.alm.ring.flatMap (·.2) ++ u.alm.staged).filter (fun r => decide (u.alm.oldestSeq ≤ r.seq) && decide (r.seq ≤ min (parm p 0 8) u.alm.newestSeq))).length ∧
    t = almStage 0x0603 (packFields [(1, p.fetchedFrom), (1, 0), (2, (refOf p).tag)] ++ padTo 8 (p.authBlock.take 8) ++ packFields [(8, u.alm.oldestSeq), (8, min (parm p 0 8) u.alm.newestSeq), (8, n)]) u :=
  ⟨(pkt ([])), got 0x0602 (pkt ([])) ({ demo with alm := { resetAlm with queueReady := true } }), _, _, _,
    ⟨by decide +kernel, by decide +kernel, rfl⟩, by decide +kernel, by decide +kernel, by decide +kernel, by decide +kernel, rfl, rfl⟩

theorem witness_RecordCommandsComplete_4 : ∃ (p : _) (s : State) (u : _) (t : _), Starts 0x0700 p s u ∧ u.fw.state ≠ 3 ∧ p.busError = false ∧
    u.boot.mode ≠ .boot ∧ 0 < parm p 0 4 ∧ parm p 0 4 ≤ 65536 ∧ mediaOk (p.data.take (parm p 0 4)) = true ∧ u.fw.manifest = none ∧
    fwTake (p.data.take (parm p 0 4)) u = some t :=
  ⟨({ pkt [160] with data := demoManifest }), got 0x0700 ({ pkt [160] with data := demoManifest }) (demo), _, _,
    ⟨by decide +kernel, by decide +kernel, rfl⟩, by decide +kernel, by decide +kernel, by decide +kernel, by decide +kernel, by decide +kernel,
    by decide +kernel, by decide +kernel, sg (by decide +kernel)⟩

theorem witness_RecordCommandsComplete_5 : ∃ (p : _) (s : State) (u : _) (m : _), Starts 0x0701 p s u ∧ u.fw.state ≠ 3 ∧ p.busError = false ∧
    u.fw.manifest = some m ∧ parm p 0 4 < fwCount m ∧ fwMatches m (parm p 0 4) (p.data.take (fwPieceLen m (parm p 0 4))) = true ∧
    lookup (parm p 0 4) u.fw.pieces = none :=
  ⟨({ pkt [0] with data := [1, 2, 3] }), got 0x0701 ({ pkt [0] with data := [1, 2, 3] }) (withManifest 1), _, _,
    ⟨by decide +kernel, by decide +kernel, rfl⟩, by decide +kernel, by decide +kernel, sg (by decide +kernel), by decide +kernel, by decide +kernel,
    by decide +kernel⟩

theorem witness_RecordCommandsComplete_6 : ∃ (p : _) (s : State) (u : _), Starts 0x0702 p s u ∧ p.fetchedFrom < peerRing :=
  ⟨(pkt ([])), got 0x0702 (pkt ([])) (demo), _, ⟨by decide +kernel, by decide +kernel, rfl⟩, by decide +kernel⟩

theorem witness_RecordCommandsComplete_7 : ∃ (p : _) (s : State) (u : _) (m : _), Starts 0x0703 p s u ∧ u.fw.manifest = some m ∧ u.fw.state = 2 ∧
    u.mci.waits.any (fun w => w.kind == .activation) = false ∧ fwMode u = .active ∧ u.headland.peerPresent = false :=
  ⟨(pkt ([])), got 0x0703 (pkt ([])) (withManifest 2), _, _, ⟨by decide +kernel, by decide +kernel, rfl⟩, sg (by decide +kernel), by decide +kernel,
    by decide +kernel, by decide +kernel, by decide +kernel⟩

theorem witness_RecordCommandsComplete_8 : ∃ (p : _) (s : State) (u : _) (m : _), Starts 0x0704 p s u ∧ u.fw.manifest = some m ∧ u.fw.state ≠ 3 :=
  ⟨(pkt ([])), got 0x0704 (pkt ([])) (withManifest 1), _, _, ⟨by decide +kernel, by decide +kernel, rfl⟩, sg (by decide +kernel), by decide +kernel⟩

theorem witness_RecordCommandsComplete_9 : ∃ (p : _) (s : State) (u : _) (n : _), Starts 0x0A00 p s u ∧ groupSize (parm p 0 1) = some n ∧
    0 < parm p 2 1 ∧ parm p 1 1 + parm p 2 1 ≤ n :=
  ⟨(pkt ([1, 3, 1])), got 0x0A00 (pkt ([1, 3, 1])) (demo), _, _, ⟨by decide +kernel, by decide +kernel, rfl⟩, sg (by decide +kernel),
    by decide +kernel, by decide +kernel⟩

theorem witness_RecordCommandsComplete_10 : ∃ (p : _) (s : State) (u : _), Starts 0x0A01 p s u :=
  ⟨(pkt ([])), got 0x0A01 (pkt ([])) (demo), _, ⟨by decide +kernel, by decide +kernel, rfl⟩⟩

theorem witness_RecordCommandsComplete_11 : ∃ (p : _) (s : State) (u : _), Starts 0x0A02 p s u ∧ p.busError = false ∧
    parm p 0 2 ≤ u.mci.events.length ∧ parm p 0 2 ≤ 128 * p.dataPages.toNat :=
  ⟨({ pkt [0] with dataPages := 1 }), got 0x0A02 ({ pkt [0] with dataPages := 1 }) (demo), _, ⟨by decide +kernel, by decide +kernel, rfl⟩,
    by decide +kernel, by decide +kernel, by decide +kernel⟩

theorem witness_RecordCommandsComplete_12 : ∃ (p : _) (s : State) (u : _), Starts 0x0A03 p s u :=
  ⟨(pkt ([])), got 0x0A03 (pkt ([])) (demo), _, ⟨by decide +kernel, by decide +kernel, rfl⟩⟩

theorem witness_RecordCommandsComplete_13 : ∃ (p : _) (s : State) (u : _), Starts 0x0F01 p s u ∧ parm p 0 1 < 32 ∧ parm p 1 1 < 4 ∧
    parm p 4 4 < 2 ^ 19 :=
  ⟨(pkt ([31, 3])), got 0x0F01 (pkt ([31, 3])) (demo), _, ⟨by decide +kernel, by decide +kernel, rfl⟩, by decide +kernel, by decide +kernel,
    by decide +kernel⟩

theorem witness_TicketRowsComplete_1 : ∃ (tine : _) (s : State) (u : _) (q : _) (t : _), tineUsable tine s = true ∧ freeTine tine s = (true, u) ∧
    chooseQueue (harrowAt (tineHarrow tine) u) (fun x => homeEligible (tineHarrow tine) x u && mayDispatch (harrowAt (tineHarrow tine) u).park x) = some q ∧
    (queueAt (tineHarrow tine) q u).find? (fun x => homeEligible (tineHarrow tine) x u && mayDispatch (harrowAt (tineHarrow tine) u).park x) = some t :=
  ⟨0, queued 0 demoTicket demo, _, _, _, by decide +kernel, sn (by decide +kernel), sg (by decide +kernel), sg (by decide +kernel)⟩

theorem witness_TicketRowsComplete_2 : ∃ (tine : _) (s : State) (u : _) (v : _) (t : _), tineUsable tine s = true ∧ freeTine tine s = (true, u) ∧
    (harrowAt (tineHarrow tine) u).park = .running ∧
    ((harrowAt (tineHarrow tine) u).queues.flatten).any (fun x => homeEligible (tineHarrow tine) x u) = false ∧
    rescueCompress (tineHarrow tine) u = some (v, t) :=
  ⟨464, queued 31 { demoTicket with type := 7 } (noCompressors demo), _, _, _, by decide +kernel, sn (by decide +kernel), by decide +kernel,
    by decide +kernel, sg2 (by decide +kernel)⟩

theorem witness_TicketRowsComplete_3 : ∃ (tine : _) (s : State) (u : _) (v : _) (t : _), tineUsable tine s = true ∧ freeTine tine s = (true, u) ∧
    (harrowAt (tineHarrow tine) u).park = .running ∧
    ((harrowAt (tineHarrow tine) u).queues.flatten).any (fun x => homeEligible (tineHarrow tine) x u) = false ∧
    rescueCompress (tineHarrow tine) u = none ∧
    (gleanOrder (tineHarrow tine) (paramNat 0x0500 (tineHarrow tine / 8) u)).find? (fun x => decide (paramNat 0x0501 0 u ≤ (gleanable (tineHarrow tine) x u).length)) = some v ∧
    (((harrowAt v u).queues.find? (fun q => q.any (fun x => thiefMay (tineHarrow tine) x u))).getD []).reverse.find? (fun x => thiefMay (tineHarrow tine) x u) = some t :=
  ⟨0, queued 1 demoTicket demo, _, _, _, by decide +kernel, sn (by decide +kernel), by decide +kernel, by decide +kernel, by decide +kernel,
    sg (by decide +kernel), sg (by decide +kernel)⟩

theorem witness_TicketRowsComplete_4 : ∃ (tine : _) (s : State) (r : _) (u : _), s.tines.running.find? (fun r => r.tine == tine) = some r ∧
    waitsForBuffer r.ticket s = false ∧ u = abortEngine r.ticket (abortJobs (fun j => j.tine == tine) (tineExpiry tine (leaveTine tine s))) ∧
    r.ticket.expiries = 0 :=
  ⟨3, runningOn 3 demoTicket demo, _, _, sg (by decide +kernel), by decide +kernel, rfl, by decide +kernel⟩

theorem witness_TicketRowsComplete_5 : ∃ (tine : _) (s : State) (r : _) (u : _), s.tines.running.find? (fun r => r.tine == tine) = some r ∧
    waitsForBuffer r.ticket s = false ∧ u = abortEngine r.ticket (abortJobs (fun j => j.tine == tine) (tineExpiry tine (leaveTine tine s))) ∧
    r.ticket.expiries ≠ 0 :=
  ⟨3, runningOn 3 { demoTicket with expiries := 1 } demo, _, _, sg (by decide +kernel), by decide +kernel, rfl, by decide +kernel⟩

theorem witness_TicketRowsComplete_6 : ∃ (e : _) (s : State) (u : _) (x : _), s.boot.mode ≠ .dump ∧ u = answerDecided e s ∧ epochEntry e u = some x ∧
    x.state = .opened :=
  ⟨demoEpoch, openedEpoch demo, _, _, by decide +kernel, rfl, sg (by decide +kernel), by decide +kernel⟩

theorem witness_TicketRowsComplete_7 : ∃ (e : _) (w : _) (x : _) (s : State), s.boot.mode ≠ .dump ∧ workAt w s = some x ∧ x.decision = .miss ∧
    x.epoch = e :=
  ⟨none, 0, _, withWork { demoWork with decision := .miss } demo, by decide +kernel, sg (by decide +kernel), by decide +kernel, by decide +kernel⟩

theorem witness_TicketRowsComplete_8 : ∃ (e : _) (s : State) (x : _), epochEntry e (answerDecided e s) = some x ∧ x.state = .opened :=
  ⟨demoEpoch, openedEpoch demo, _, sg (by decide +kernel), by decide +kernel⟩

theorem witness_TicketRowsComplete_10 : ∃ (h : _) (s : State), (harrowAt h s).park = .draining ∧ harrowDrained h s = true ∧ handingOver h s = false :=
  ⟨0, parkedAs .draining demo, by decide +kernel, by decide +kernel, by decide +kernel⟩

theorem witness_TicketRowsComplete_11 : ∃ (h : _) (s : State), (harrowAt h s).park = .draining ∧ handingOver h s = false :=
  ⟨0, parkedAs .draining demo, by decide +kernel, by decide +kernel⟩

theorem witness_TicketRowsComplete_12 : ∃ (h : _) (s : State) (t : _), (harrowAt h s).parkRetry = true ∧
    t = modifyHarrow h (fun x => { x with parkRetry := false }) s :=
  ⟨0, modifyHarrow 0 (fun x => { x with parkRetry := true }) demo, _, by decide +kernel, rfl⟩

theorem witness_TicketRowsComplete_13 : ∃ (h : _) (s : State), (harrowAt h s).park = .waking :=
  ⟨0, parkedAs .waking demo, by decide +kernel⟩

theorem witness_TicketRowsComplete_14 : ∃ (h : _) (s : State), handingOver h s = true ∧ (harrowAt h s).park = .parked ∧ h < 31 :=
  ⟨0, { parkedAs .parked demo with fw := { resetFw with state := 3, step := 5 } }, by decide +kernel, by decide +kernel, by decide +kernel⟩

theorem witness_IngestRowsComplete_1 : ∃ (ns : _) (g : _) (s : State) (rs : _) (plain : _) (s1 : _), s.boot.mode ≠ .dump ∧
    rs = composable (.grain ns g) s ∧ rs ≠ [] ∧ s.ingest.works.any (fun w => w.target == .grain ns g) = false ∧ pageReady (.grain ns g) s = true ∧
    (rs.any (fun r => decide (r.off = 0) && decide (r.len = 16384)) = true ∨ entryChunk (liveEntry ns g s) = 0) ∧
    layOver rs (zeros 16384) s = (plain, s1) :=
  ⟨1, 0, withRec (zeroRec 16384) (noSnaps demo), _, _, _, by decide +kernel, rfl, by decide +kernel, by decide +kernel, by decide +kernel,
    by decide +kernel, rfl⟩

theorem witness_IngestRowsComplete_2 : ∃ (ns : _) (g : _) (f : _) (s : State) (rs : _) (b : _) (facts : _) (s1 : _) (plain : _) (s2 : _), s.boot.mode ≠ .dump ∧
    rs = composable (.grain ns g) s ∧ rs ≠ [] ∧ s.ingest.works.any (fun w => w.target == .grain ns g) = false ∧ pageReady (.grain ns g) s = true ∧
    rs.any (fun r => decide (r.off = 0) && decide (r.len = 16384)) = false ∧ entryChunk (liveEntry ns g s) ≠ 0 ∧
    chunkRead ((g + ns) % 4) (liveEntry ns g s) f s = (.ok b, facts, s1) ∧ layOver rs (padTo 16384 b) s1 = (plain, s2) :=
  ⟨1, 0, noFacts,
    withRec (zeroRec 4096) (noSnaps <| modifyMap (fun m => { m with live := [(liveKey 1 0, 3)] }) { demo with read := { demo.read with cache := [demoCache] } }),
    _, [1, 2, 3], _, _, _, _, by decide +kernel, rfl, by decide +kernel, by decide +kernel, by decide +kernel, by decide +kernel, by decide +kernel,
    rfl, rfl⟩

theorem witness_IngestRowsComplete_3 : ∃ (o : _) (s : State) (x : _) (bytes : _) (s1 : _) (n : _) (rest : _), s.boot.mode ≠ .dump ∧
    s.ingest.objects.find? (fun x => x.number == o) = some x ∧ objectBuffered o x.cut (min 131072 (x.landed - x.cut)) s = (bytes, s1) ∧
    cutLength bytes (x.size == some x.landed && decide (x.landed - x.cut ≤ 131072)) = some n ∧
    rest = (if x.size == some x.landed && decide (x.cut + n = x.landed) && (objectAt o s).isSome then s.ingest.objects.erase x else mapIf (fun y => y.number == o) (fun y => { y with cut := x.cut + n }) s.ingest.objects) :=
  ⟨9, modifyIngest (fun i => { i with objects := [demoOpen] }) demo, _, _, _, _, _, by decide +kernel, sg (by decide +kernel), rfl,
    sg (by decide +kernel), rfl⟩

theorem witness_IngestRowsComplete_4 : ∃ (w : _) (s : State) (x : _), workAt w s = some x ∧ x.fp = none :=
  ⟨0, withWork demoWork demo, _, sg (by decide +kernel), by decide +kernel⟩

theorem witness_IngestRowsComplete_5 : ∃ w s x s1, workAt w s = some x ∧ x.fp = none ∧
    s1 = countIngest (harrowQuadrant x.harrow) (fun c => { c with chunksIn := bump c.chunksIn }) (modifyWork w (fun y => { y with fp := some (fingerprint x.domain x.plain s), level := (domainNow x.domain s).1, keyEpoch := (domainNow x.domain s).2 }) s) ∧
    openEpoch x.harrow w s1 = none :=
  ⟨0, modifyHarrow 0 (fun h => { h with budget := 0 }) (withWork demoWork demo), _, _, sg (by decide +kernel), by decide +kernel, rfl,
    by decide +kernel⟩

theorem witness_IngestRowsComplete_6 : ∃ w s x s1 e s2, workAt w s = some x ∧ x.fp = none ∧
    s1 = countIngest (harrowQuadrant x.harrow) (fun c => { c with chunksIn := bump c.chunksIn }) (modifyWork w (fun y => { y with fp := some (fingerprint x.domain x.plain s), level := (domainNow x.domain s).1, keyEpoch := (domainNow x.domain s).2 }) s) ∧
    openEpoch x.harrow w s1 = some (e, s2) :=
  ⟨0, withWork demoWork demo, _, _, _, _, sg (by decide +kernel), by decide +kernel, rfl, sg2 (by decide +kernel)⟩

theorem witness_IngestRowsComplete_7 : ∃ (w : _) (fpos : _) (s : State) (x : _) (fp : _) (hot : _) (s1 : _), s.boot.mode ≠ .dump ∧
    workAt w s = some x ∧ x.fp = some fp ∧ x.decision = .undecided ∧ decisionWaits x s = false ∧ winnowHot (hotKey x.domain fp) s = (hot, s1) ∧
    hot = none ∧ s.ingest.filter.contains (hotKey x.domain fp) = false ∧ fpos = false :=
  ⟨0, false, withWork { demoWork with fp := some (zeros 32) } demo, _, _, _, _, by decide +kernel, sg (by decide +kernel), sg (by decide +kernel),
    by decide +kernel, by decide +kernel, rfl, by decide +kernel, by decide +kernel, by decide +kernel⟩

theorem witness_IngestRowsComplete_8 : ∃ (w : _) (f : _) (s : State) (x : _) (fp : _) (hot : _) (s1 : _) (e : _) (s2 : _), s.boot.mode ≠ .dump ∧
    workAt w s = some x ∧ x.fp = some fp ∧ x.decision = .undecided ∧ decisionWaits x s = false ∧ winnowHot (hotKey x.domain fp) s = (hot, s1) ∧
    hot = some e.page ∧ indexFind x.domain fp s = some e ∧
    confirmHit x e.entry f (countIngest (harrowQuadrant x.harrow) (fun c => { c with hitsWinnow := bump c.hitsWinnow }) s1) = (true, s2) :=
  ⟨0, noFacts, hotFp (withWork { demoWork with fp := some (zeros 32) } demo), _, zeros 32, some 4, _, ⟨2, zeros 32, 3, 4⟩, _, by decide +kernel,
    sg (by decide +kernel), by decide +kernel, by decide +kernel, by decide +kernel, sn (by decide +kernel), by decide +kernel, by decide +kernel,
    sn (by decide +kernel)⟩

theorem witness_IngestRowsComplete_9 : ∃ (a : _) (n : _) (s : State) (b : _), baleAt a n s = some b ∧ b.closed = false ∧ s.boot.mode ≠ .dump ∧
    (acreAt a s).any (fun x => x.torn.contains n) = false :=
  ⟨5, 0, withBale demoBale demo, _, sg (by decide +kernel), by decide +kernel, by decide +kernel, by decide +kernel⟩

theorem witness_IngestRowsComplete_10 : ∃ (a : _) (n : _) (s : State) (b : _) (x : _), baleAt a n s = some b ∧ acreAt a s = some x ∧ b.closed = true ∧
    b.waiting = [] ∧ b.victims = [] ∧ s.boot.mode ≠ .dump ∧ x.committed + 1 ≠ x.nBales :=
  ⟨5, 0, withBale { demoBale with closed := true } demo, _, _, sg (by decide +kernel), sg (by decide +kernel), by decide +kernel, by decide +kernel,
    by decide +kernel, by decide +kernel, by decide +kernel⟩

theorem witness_IngestRowsComplete_11 : ∃ (s : State), s.boot.mode ≠ .dump ∧ journalUnits s ≠ [] :=
  ⟨journaled demo, by decide +kernel, by decide +kernel⟩

theorem witness_IngestRowsComplete_12 : ∃ (n : _) (r : _) (s : State), s.journal.rows.find? (fun r => r.id == n) = some r ∧
    (rowCommit n s).journal.rows.any (fun x => x.id == n) = false :=
  ⟨3, _, journaled demo, sg (by decide +kernel), by decide +kernel⟩

theorem witness_IngestRowsComplete_13 : ∃ (s : State), s.boot.mode ≠ .dump :=
  ⟨demo, by decide +kernel⟩

theorem witness_IngestRowsComplete_14 : ∃ (s : State), s.ingest.stopped = true ∧ wbBytes s + 5 * wbCapacity s / 100 ≤ wbLimit s :=
  ⟨dumpable (modifyIngest (fun i => { i with stopped := true }) demo), by decide +kernel, by decide +kernel⟩

theorem witness_IngestRowsComplete_15 : ∃ (q : _) (e : _) (f : _) (s : State) (l : _) (a : _) (home : _) (r : _) (data : _) (facts : _) (t : _), entryLoc e s = some l ∧
    acreHome l.acre s = some a ∧ l.len ≠ 0 ∧ home = plotHome a l.plot l.bale ∧
    rebuildRead (q % 4) e l a [] 131072 f (countReads (q % 4) (fun c => { c with readLate := bump c.readLate }) (dieSilent home.1 home.2.1 s)) = (some (.good data r), facts, t) :=
  ⟨0, 7, noFacts, mediaState, _, _, _, some [1, 2, 3], [1, 2, 3], _, _, sg (by decide +kernel), sg (by decide +kernel), by decide +kernel, rfl,
    rebuilt_good (by decide +kernel)⟩

theorem witness_WinnowRowsComplete_1 : ∃ (t : _) (m : _) (key : BitVec 192) (nc : _) (bad : _) (s : State) (n : _) (u : _), winnowSearch (t % 8) (m % 16) (BitVec.toNat key) nc bad s = (n, u) :=
  ⟨0, 0, 0, false, 0, demo, _, _, rfl⟩

theorem witness_WinnowRowsComplete_2 : ∃ (t : _) (k : _) (s : State), winnowGuarded (t % 8) k s = false :=
  ⟨0, none, demo, by decide +kernel⟩

theorem witness_WinnowRowsComplete_3 : ∃ (t : _) (m : _) (key : BitVec 192) (k : _) (s : State) (n : _) (u : _), winnowGuarded (t % 8) k s = false ∧
    winnowDelete (t % 8) (m % 16) (BitVec.toNat key) s = (n, u) :=
  ⟨0, 0, 0, none, demo, _, _, by decide +kernel, rfl⟩

theorem witness_WinnowRowsComplete_7 : ∃ (s : State), s.boot.mode ≠ .boot ∧ s.boot.mode ≠ .recovery ∧ s.boot.mode ≠ .inventory :=
  ⟨demo, by decide +kernel, by decide +kernel, by decide +kernel⟩

theorem witness_EngineRowsComplete_1 : ∃ (w : _) (s : State) (x : _), workAt w s = some x ∧ x.stored = none ∧ x.stream = none ∧
    (x.epoch.isSome = true ∨ x.decision = .miss) ∧ x.level = 0 :=
  ⟨0, withWork { demoWork with decision := .miss, level := 0 } demo, _, sg (by decide +kernel), by decide +kernel, by decide +kernel,
    by decide +kernel, by decide +kernel⟩

theorem witness_EngineRowsComplete_2 : ∃ (h : _) (e : _) (w : _) (s : State) (x : _), workAt w s = some x ∧ x.stored = none ∧ x.stream = none ∧
    (x.epoch.isSome = true ∨ x.decision = .miss) ∧ 0 < x.level ∧ allQuarantined s = false ∧ compressorUsable h e s = true ∧
    (vxEncode x.level x.plain).length ≤ vxLimit x.plain.length :=
  ⟨0, 0, 0, withWork { demoWork with decision := .miss, level := 3, plain := zeros 48 } demo, _, sg (by decide +kernel), by decide +kernel,
    by decide +kernel, by decide +kernel, by decide +kernel, by decide +kernel, by decide +kernel, by decide +kernel⟩

theorem witness_EngineRowsComplete_3 : ∃ (w : _) (s : State) (x : _) (b : _) (h : _) (e : _), workAt w s = some x ∧ x.stream = some (b, h, e) ∧
    vxCode (verifyStatus b x.plain) = vxOk :=
  ⟨0, withWork { demoWork with decision := .miss, level := 3, plain := zeros 48, stream := some (vxEncode 3 (zeros 48), 0, 0) } demo, _,
    vxEncode 3 (zeros 48), 0, 0, sg (by decide +kernel), by decide +kernel, by decide +kernel⟩

theorem witness_EngineRowsComplete_4 : ∃ (h : _) (e : _) (b : _) (stop : _) (f : _) (s : State) (st : _) (out : _) (t : _), decompressorUsable h e s = true ∧
    8 ≤ b.length ∧ b.length ≤ 262144 ∧ decodeTwice h e b stop f s = (st, out, t) :=
  ⟨0, 0, vxEncode 3 (zeros 48), none, none, demo, _, _, _, by decide +kernel, by decide +kernel, by decide +kernel, rfl⟩

theorem witness_EngineRowsComplete_5 : ∃ (op : _) (c : _) (tine : _) (unit : _) (e : _) (r : _) (s : State) (u : Nat) (t : _), (op, c) ∈ [(CipherOp.gcmEncrypt, Instr.gcmEncrypt tine unit e r), (.gcmDecrypt, .gcmDecrypt tine unit e r), (.hmac, .hmac tine unit e r)] ∧
    cipherBad op r s = true ∧ undefNat s = (u, t) :=
  ⟨.gcmEncrypt, .gcmEncrypt 0 0 none demoJob.req, 0, 0, none, demoJob.req, demo, _, _, by decide +kernel, by decide +kernel, rfl⟩

theorem witness_EngineRowsComplete_6 : ∃ (op : _) (c : _) (tine : _) (unit : _) (e : _) (r : _) (s : State) (q : _) (k : _), (op, c) ∈ [(CipherOp.gcmEncrypt, Instr.gcmEncrypt tine unit e r), (.gcmDecrypt, .gcmDecrypt tine unit e r), (.hmac, .hmac tine unit e r)] ∧
    cipherBad op r s = false ∧ q = tine / 128 % 4 ∧ (if op = .hmac then some q else routeFrom q s) = some k :=
  ⟨.gcmEncrypt, .gcmEncrypt 0 0 none demoJob.req, 0, 0, none, demoJob.req, ciphering (demoSlot .valid .data) demoJob withBuffer, _, _,
    by decide +kernel, by decide +kernel, rfl, sg (by decide +kernel)⟩

theorem witness_EngineRowsComplete_7 : ∃ (n : _) (s : State) (j : _), s.cipher.jobs.find? (fun j => j.id == n) = some j ∧
    (j.pair.isSome = true ∨ j.op = .hmac) ∧ (slotAt j.req.keySlot s).state ≠ .empty :=
  ⟨4, ciphering (demoSlot .valid .data) demoJob withBuffer, _, sg (by decide +kernel), by decide +kernel, by decide +kernel⟩

theorem witness_EngineRowsComplete_8 : ∃ (n : _) (s : State) (j : _) (t : _), s.cipher.jobs.find? (fun j => j.id == n) = some j ∧
    (j.pair.isSome = true ∨ j.op = .hmac) ∧ (slotAt j.req.keySlot s).state ≠ .empty ∧ cipherResult j s = (none, t) :=
  ⟨4, ciphering (demoSlot .valid .data) { demoJob with op := .gcmDecrypt } (bufferPut heldBuffer 0 (zeros 17) withBuffer), _, _,
    sg (by decide +kernel), by decide +kernel, by decide +kernel, sn (by decide +kernel)⟩

theorem witness_EngineRowsComplete_9 : ∃ (n : _) (s : State) (j : _) (b : _) (t : _), s.cipher.jobs.find? (fun j => j.id == n) = some j ∧
    (j.pair.isSome = true ∨ j.op = .hmac) ∧ (slotAt j.req.keySlot s).state ≠ .empty ∧ cipherResult j s = (some b, t) :=
  ⟨4, ciphering (demoSlot .valid .data) demoJob withBuffer, _, _, _, sg (by decide +kernel), by decide +kernel, by decide +kernel,
    sp (by decide +kernel)⟩

theorem witness_EngineRowsComplete_10 : ∃ (n : _) (s : State) (l : _), s.cipher.loads.find? (fun l => l.slot == n) = some l ∧
    (slotAt n s).state = .loading :=
  ⟨3, modifyCipher (fun c => { c with slots := [(3, demoSlot .loading .data)], loads := [⟨3, .data, 1, 2, 1, [], [], none⟩] }) demo, _,
    sg (by decide +kernel), by decide +kernel⟩

theorem witness_EngineRowsComplete_11 : ∃ (n : _) (s : State) (t : _), (slotAt n s).state = .evicting ∧ slotRefs n s = 0 ∧
    t = countComplexes (fun c => { c with slotEvictions := bump c.slotEvictions }) (setSlot n emptySlot s) ∧
    t.cipher.loads.find? (fun l => l.slot == n) = none :=
  ⟨3, modifyCipher (fun c => { c with slots := [(3, demoSlot .evicting .data)] }) demo, _, by decide +kernel, by decide +kernel, rfl,
    by decide +kernel⟩

theorem witness_EngineRowsComplete_12 : ∃ (d : _) (e : _) (s : State), s.headland.peerPresent = true ∧
    s.cipher.advances.any (fun a => a.domain == d && a.epoch == e && a.step == 4) = true :=
  ⟨2, 1, { modifyCipher (fun c => { c with advances := [⟨2, 1, 3, 4, none⟩] }) demo with headland := { demo.headland with peerPresent := true } },
    by decide +kernel, by decide +kernel⟩

theorem witness_VaultRowsComplete_1 : ∃ (c : _) (bit : _) (working : _) (s : State) (s1 : _) (s2 : _), (c, bit, working) ∈ [(Instr.vaultAlarmSupply, 1, false), (.vaultAlarmTemp, 2, false), (.vaultAlarmMesh, 3, true), (.vaultAlarmTamper, 4, true), (.vaultAlarmCheck, 5, false)] ∧
    s1 = { s with vault := { s.vault with gauntlet := List.replicate 16 none, status := s.vault.status ||| (1#32 <<< bit) } } ∧
    s2 = (if working then eraseWorking s1 else s1) :=
  ⟨.vaultAlarmTemp, 2, false, demo, _, _, by decide +kernel, rfl, rfl⟩

theorem witness_VaultRowsComplete_3 : ∃ (s : State), s.vault.vaux = false :=
  ⟨{ demo with vault := { demo.vault with vaux := false } }, by decide +kernel⟩

theorem witness_VaultRowsComplete_4 : ∃ (p : _) (s : State) (u : _), Starts 0x0301 p s u ∧ parm p 0 1 < 16 :=
  ⟨(pkt ([])), got 0x0301 (pkt ([])) (demo), _, ⟨by decide +kernel, by decide +kernel, rfl⟩, by decide +kernel⟩

theorem witness_VaultRowsComplete_5 : ∃ (p : _) (s : State) (u : _), Starts 0x0302 p s u :=
  ⟨(pkt ([])), got 0x0302 (pkt ([])) (demo), _, ⟨by decide +kernel, by decide +kernel, rfl⟩⟩

theorem witness_VaultRowsComplete_6 : ∃ (p : _) (s : State) (u : _) (t : _), Starts 0x0303 p s u ∧
    t = hswSync { u with vault := { u.vault with status := u.vault.status &&& ~~~ (BitVec.ofNat 32 (parm p 0 1 % 64)) } } :=
  ⟨(pkt ([])), got 0x0303 (pkt ([])) (demo), _, _, ⟨by decide +kernel, by decide +kernel, rfl⟩, rfl⟩

theorem witness_MediaRowsComplete_1 : ∃ (s : State) (c : _) (a : _), reclaimRuns s = true ∧
    s.media.reclaims.find? (fun j => j.step == 3 && j.copies.isEmpty && !movedOut j s) = none ∧ chooseVictim s = some (c, a) :=
  ⟨reclaimableState, _, _, by decide +kernel, by decide +kernel, sg2 (by decide +kernel)⟩

theorem witness_MediaRowsComplete_2 : ∃ (s : State), servingMode s.boot.mode = true :=
  ⟨demo, by decide +kernel⟩

theorem witness_MediaRowsComplete_3 : ∃ (b : _) (s : State), (furrowAt b s).link.state ≠ .up ∧ (headBridge b s).state ≠ 4 :=
  ⟨0, fitted, by decide +kernel, by decide +kernel⟩

theorem witness_MediaRowsComplete_4 : ∃ (s : State) (t : _), s.media.readonly = true ∧ readonlyLasts s = false ∧
    t = readonlyEvent false { s with media := { s.media with readonly := false, spaceShort := false, idsShort := false } } ∧
    t.boot.mode = .readonly :=
  ⟨modifyMedia (fun m => { m with readonly := true }) (inMode .readonly demo), _, by decide +kernel, by decide +kernel, rfl, by decide +kernel⟩

theorem witness_MediaRowsComplete_5 : ∃ (s : State) (t : _), s.media.readonly = true ∧ readonlyLasts s = false ∧
    t = readonlyEvent false { s with media := { s.media with readonly := false, spaceShort := false, idsShort := false } } ∧ t.boot.mode = .quiesce :=
  ⟨modifyMedia (fun m => { m with readonly := true }) (inMode .quiesce demo), _, by decide +kernel, by decide +kernel, rfl, by decide +kernel⟩

theorem witness_MediaRowsComplete_9 : ∃ (s : State), s.mem.locationPagedOn = true :=
  ⟨modifyMem (fun m => { m with locationPagedOn := true }) demo, by decide +kernel⟩

theorem witness_FurrowRowsComplete_1 : ∃ (b : _) (s : State), (furrowAt b s).link.state = .training ∧ (furrowAt b s).link.attempts < 2 :=
  ⟨0, trainingFurrow, by decide +kernel, by decide +kernel⟩

theorem witness_FurrowRowsComplete_2 : ∃ (b : _) (s : State), (furrowAt b s).link.state = .training ∧ s.boot.mode ≠ .boot ∧ s.boot.mode ≠ .recovery ∧
    (headBridge b s).ident = none :=
  ⟨0, trainingFurrow, by decide +kernel, by decide +kernel, by decide +kernel, by decide +kernel⟩

theorem witness_FurrowRowsComplete_3 : ∃ (b : _) (s : State), (furrowAt b s).link.state = .training ∧ (headBridge b s).ident.isSome = true :=
  ⟨0, { trainingFurrow with media := fitted.media }, by decide +kernel, by decide +kernel⟩

theorem witness_FurrowRowsComplete_4 : ∃ (b : _) (v : _) (s : State), (furrowAt b s).link.state = .training ∧ v ≠ 1 :=
  ⟨0, 2, trainingFurrow, by decide +kernel, by decide +kernel⟩

theorem witness_FurrowRowsComplete_10 : ∃ (b : _) (frames : _) (s : State) (u : _) (t : _) (ms : _) (e : _) (r : _) (c : _), u = furrowLink b (linkFrames furrowKind false s.time.ticks frames) s ∧
    takeMessage (fun _ => true) (furrowAt b u).link = (some ms, e) ∧ t = furrowLink b (fun _ => (e, [])) u ∧ ms.getLast? = some r ∧ r.ftype = 2 ∧
    outstanding b r.tag t = some c :=
  ⟨0, [], answeredOn [demoCmd 6 .status], _, _, _, _, _, _, rfl, sp (by decide +kernel), rfl, sg (by decide +kernel), by decide +kernel,
    sg (by decide +kernel)⟩

theorem witness_FurrowRowsComplete_11 : ∃ (b : _) (frames : _) (s : State) (u : _) (t : _) (ms : _) (e : _) (r : _), u = furrowLink b (linkFrames furrowKind false s.time.ticks frames) s ∧
    takeMessage (fun _ => true) (furrowAt b u).link = (some ms, e) ∧ t = furrowLink b (fun _ => (e, [])) u ∧ ms.getLast? = some r ∧ r.ftype = 2 ∧
    outstanding b r.tag t = none :=
  ⟨0, [], answeredOn [], _, _, _, _, _, rfl, sp (by decide +kernel), rfl, sg (by decide +kernel), by decide +kernel, by decide +kernel⟩

theorem witness_FurrowRowsComplete_12 : ∃ (b : _) (tag : _) (s : State) (c : _), outstanding b tag s = some c ∧ c.opcode = 3 :=
  ⟨0, 6, answeredOn [demoCmd 3 (.label 1)], _, sg (by decide +kernel), by decide +kernel⟩

theorem witness_FurrowRowsComplete_13 : ∃ (b : _) (tag : _) (s : State) (c : _), outstanding b tag s = some c ∧ c.opcode ≠ 3 ∧ c.opcode ≠ 4 ∧
    c.use = .leaseAcquire :=
  ⟨0, 6, answeredOn [demoCmd 8 .leaseAcquire], _, sg (by decide +kernel), by decide +kernel, by decide +kernel, by decide +kernel⟩

theorem witness_FurrowRowsComplete_15 : ∃ (b : _) (s : State), inWindow b s = false ∧ leases b s = true :=
  ⟨0, furrowed { resetFurrow with leased := true } { demo with time := { demo.time with ticks := 2 ^ 40 } }, by decide +kernel, by decide +kernel⟩

theorem witness_FurrowRowsComplete_16 : ∃ (b : _) (s : State), (furrowAt b s).acquireAt.isSome = true ∧ s.boot.mode ≠ .yield :=
  ⟨0, furrowed { resetFurrow with acquireAt := some 5 } demo, by decide +kernel, by decide +kernel⟩

theorem witness_BridgeRowsComplete_1 : ∃ b load, load < (bridgeIdent b).cmdSlots :=
  ⟨0, 0, (bridgeSlots 0).1⟩

theorem witness_BridgeRowsComplete_2 : ∃ (b : _) (load : _) (a : _) (n : _) (r : _) (soft : _) (reps : List Nat) (s : State) (cws : _) (rs : _), BridgeTakes b load s ∧
    cws = (nandBlock b (cwDie a) (cwBlock a) s).drop (cwIndex a) ∧ rs = (List.range n).map (fun k => readReport r soft (reps.getD k 0)) ∧ 0 < n ∧
    n ≤ 64 ∧ addrOk (bridgeIdent b) a n = true ∧ r ≤ (bridgeIdent b).retryLevels ∧ n ≤ cws.length :=
  ⟨0, 0, 0, 1, 0, false, [], bridged { resetBridge with nand := [(nandKey 0 0, ⟨[zeros 4]⟩)] } demo, _, _, bridgeTakes0 rfl, rfl, rfl,
    by decide +kernel, by decide +kernel, bridgeAddr0 0 1 (by decide), Nat.zero_le _, by decide +kernel⟩

theorem witness_BridgeRowsComplete_3 : ∃ (b : _) (load : _) (a : _) (n : _) (r : _) (soft : _) (reps : List Nat) (s : State) (cws : _) (rs : _), BridgeTakes b load s ∧
    cws = (nandBlock b (cwDie a) (cwBlock a) s).drop (cwIndex a) ∧ rs = (List.range n).map (fun k => readReport r soft (reps.getD k 0)) ∧
    (n = 0 ∨ 64 < n ∨ addrOk (bridgeIdent b) a n = false ∨ (bridgeIdent b).retryLevels < r ∨ cws.length < n) :=
  ⟨0, 0, 0, 0, 0, false, [], demo, _, _, bridgeTakes0 rfl, rfl, rfl, Or.inl rfl⟩

theorem witness_BridgeRowsComplete_4 : ∃ (b : _) (p : _) (load : _) (now : _) (a : _) (d : List Bytes) (done : _) (s : State) (old : _), BridgeTakes b load s ∧
    holdsLease b p now s = true ∧ 4 ≤ d.length ∧ d.length ≤ 64 ∧ d.length % 4 = 0 ∧ d.any (fun x => x.length != 4096) = false ∧
    addrOk (bridgeIdent b) a d.length = true ∧ old = nandBlock b (cwDie a) (cwBlock a) s ∧ old.length = cwIndex a ∧ d.length ≤ 4 * done :=
  ⟨0, 0, 0, 0, 0, List.replicate 4 (zeros 4096), 1, bridged ownedBridge demo, _, bridgeTakes0 rfl, by decide +kernel, by decide +kernel,
    by decide +kernel, by decide +kernel, by decide +kernel, bridgeAddr0 0 4 (by decide), rfl, by decide +kernel, by decide +kernel⟩

theorem witness_BridgeRowsComplete_5 : ∃ (b : _) (p : _) (load : _) (now : _) (s : State), BridgeTakes b load s ∧ holdsLease b p now s = false :=
  ⟨0, 0, 0, 0, demo, bridgeTakes0 rfl, by decide +kernel⟩

theorem witness_BridgeRowsComplete_6 : ∃ (b : _) (p : _) (load : _) (now : _) (a : _) (s : State), BridgeTakes b load s ∧
    holdsLease b p now s = true ∧ addrOk (bridgeIdent b) a 1 = true ∧ cwIndex a = 0 :=
  ⟨0, 0, 0, 0, 0, bridged ownedBridge demo, bridgeTakes0 rfl, by decide +kernel, bridgeAddr0 0 1 (by decide), by decide +kernel⟩

theorem witness_BridgeRowsComplete_8 : ∃ b p c0 c1, (if p = 0 then c0 else c1) < (bridgeIdent b).cmdSlots :=
  ⟨0, 0, 0, 0, (bridgeSlots 0).1⟩

theorem witness_BridgeRowsComplete_9 : ∃ (b : _) (load : _) (page : _) (start : _) (dies : _) (s : State) (n : _) (total : _) (bytes : _), BridgeTakes b load s ∧
    telemetryPage b page start dies s = some (n, total, bytes) :=
  ⟨0, 0, 1, 0, [], demo, _, _, _, bridgeTakes0 rfl, sg3 (by decide +kernel)⟩

theorem witness_BridgeRowsComplete_10 : ∃ (b : _) (load : _) (ms : _) (now : _) (s : State), BridgeTakes b load s ∧ leaseMsOk ms = true ∧
    (leaseTick now (bridgeAt b s)).owner = 3 :=
  ⟨0, 0, 20, 0, demo, bridgeTakes0 rfl, by decide +kernel, by decide +kernel⟩

theorem witness_BridgeRowsComplete_11 : ∃ (b : _) (p : _) (load : _) (ms : _) (now : _) (s : State), BridgeTakes b load s ∧ leaseMsOk ms = true ∧
    (leaseTick now (bridgeAt b s)).owner = p :=
  ⟨0, 0, 0, 20, 0, bridged ownedBridge demo, bridgeTakes0 rfl, by decide +kernel, by decide +kernel⟩

theorem witness_BridgeRowsComplete_12 : ∃ (b : _) (p : _) (load : _) (now : _) (s : State) (x : _), BridgeTakes b load s ∧
    (leaseTick now (bridgeAt b s)).owner = p ∧ x = { leaseTick now (bridgeAt b s) with owner := 3 } :=
  ⟨0, 0, 0, 0, bridged ownedBridge demo, _, bridgeTakes0 rfl, by decide +kernel, rfl⟩

theorem witness_BridgeRowsComplete_13 : ∃ (b : _) (load : _) (s : State), BridgeTakes b load s :=
  ⟨0, 0, demo, bridgeTakes0 rfl⟩

theorem witness_BridgeRowsComplete_14 : ∃ (b : _) (load : _) (s : State), (bridgeAt b s).internalFault = false ∧ (bridgeIdent b).cmdSlots ≤ load :=
  ⟨0, 1024, demo, by decide +kernel, (bridgeSlots 0).2⟩

theorem witness_ReplicationRowsComplete_1 : ∃ (job : _) (s : State) (j : _), s.repl.jobs.find? (fun j => j.id == job) = some j ∧
    barrierDrained j s = true ∧ j.forDiff = none ∧ j.forExport = none :=
  ⟨1, inRepl { resetRepl with jobs := [demoSnapJob] }, _, sg (by decide +kernel), by decide +kernel, by decide +kernel, by decide +kernel⟩

theorem witness_ReplicationRowsComplete_2 : ∃ (ns : _) (num : _) (page : _) (s : State) (x : _) (c : _), s.map.snaps.find? (fun x => x.kind == 1 && x.id == ns && x.num == num && x.deleting) = some x ∧
    snapCopy ns num page s = some c ∧ (pageVersions ns page s).takeWhile (fun x => x.num != num) = [] :=
  ⟨1, 1, 0, modifyMap (fun m => { m with snaps := [⟨1, 1, 1, 10, 0, true⟩], pages := [⟨1, 1, 0, []⟩] }) demo, _, _, sg (by decide +kernel),
    sg (by decide +kernel), by decide +kernel⟩

theorem witness_ReplicationRowsComplete_3 : ∃ (qp : _) (f : _) (s : State) (s0 : _) (u : _), s.boot.mode ≠ .dump ∧
    arrive 0x10 3 (qpHome qp s) qp 1 s = (true, s0) ∧ u = takeFrame qp f s0 ∧ (sesAt qp u).isSome = true :=
  ⟨2, [], inRepl { resetRepl with sessions := [demoSes] }, _, _, by decide +kernel, sn (by decide +kernel), rfl, by decide +kernel⟩

theorem witness_ReplicationRowsComplete_4 : ∃ (qp : _) (f : _) (s : State) (s0 : _) (u : _) (b : _) (body : _) (nonce : _) (v : _) (x : _) (w : _) (y : _) (t : _), s.boot.mode ≠ .dump ∧
    arrive 0x10 3 (qpHome qp s) qp 1 s = (true, s0) ∧ u = takeFrame qp f s0 ∧ (sesAt qp u).isSome = false ∧ qpConnected qp u = true ∧
    qpAt qp u = some y ∧ y.service = .replication ∧ y.active = false ∧ b = overlay f 4 (leBytes 1 1) ∧ body = b.drop 32 ∧ draw 8 u = (nonce, v) ∧
    x = newSession qp (fieldAt b 0x10 3) body nonce u ∧ w = modifyRepl (fun r => { r with sessions := r.sessions ++ [x] }) v ∧
    (openFrame x 1 b w).1 = .ok body ∧ body.length = 32 ∧ fieldAt body 0x19 1 = 1 ∧ sessionsFull v = false ∧ snapMode w = true ∧
    acceptsFrom x w = true ∧ deriveKey qp w = (true, t) :=
  ⟨2, helloFrame 1, helloState, _, _, _, _, _, _, _, _, _, _, by decide +kernel, sn (by decide +kernel), rfl, by decide +kernel, by decide +kernel,
    sg (by decide +kernel), by decide +kernel, by decide +kernel, rfl, rfl, rfl, rfl, rfl, okf (by decide +kernel), by decide +kernel,
    by decide +kernel, by decide +kernel, by decide +kernel, by decide +kernel, sn (by decide +kernel)⟩

theorem witness_ReplicationRowsComplete_5 : ∃ (qp : _) (f : _) (s : State) (s0 : _) (u : _) (b : _) (body : _) (nonce : _) (v : _) (x : _) (w : _) (y : _), s.boot.mode ≠ .dump ∧
    arrive 0x10 3 (qpHome qp s) qp 1 s = (true, s0) ∧ u = takeFrame qp f s0 ∧ (sesAt qp u).isSome = false ∧ qpConnected qp u = true ∧
    qpAt qp u = some y ∧ y.service = .replication ∧ y.active = false ∧ b = overlay f 4 (leBytes 1 1) ∧ body = b.drop 32 ∧ draw 8 u = (nonce, v) ∧
    x = newSession qp (fieldAt b 0x10 3) body nonce u ∧ w = modifyRepl (fun r => { r with sessions := r.sessions ++ [x] }) v ∧
    (openFrame x 1 b w).1 = .ok body ∧ body.length = 32 ∧ fieldAt body 0x19 1 ≠ 1 :=
  ⟨2, helloFrame 2, helloState, _, _, _, _, _, _, _, _, _, by decide +kernel, sn (by decide +kernel), rfl, by decide +kernel, by decide +kernel,
    sg (by decide +kernel), by decide +kernel, by decide +kernel, rfl, rfl, rfl, rfl, rfl, okf (by decide +kernel), by decide +kernel,
    by decide +kernel⟩

theorem witness_ReplicationRowsComplete_6 : ∃ (qp : _) (f : _) (b : _) (x : _) (y : _) (s : State) (t : _) (u : _), Opened 2 qp f b x y s t ∧
    y.stage = 1 ∧ y.initiator = true ∧ b.length = 32 ∧ fieldAt b 0x1A 2 = 0 ∧ fieldAt b 0x19 1 = 1 ∧
    deriveKey qp (modifySes qp (fun z => { z with nonceR := slice b 0x10 8, stage := 2 }) t) = (true, u) ∧ (sesAt qp u).isSome = true :=
  ⟨2, replyFrame, zeros 25 ++ [1] ++ zeros 6, _, _, inRepl { resetRepl with sessions := [demoSes] }, _, _,
    ⟨_, _, by decide, sn (by decide +kernel), sg (by decide +kernel), okp (by decide +kernel), rfl, rfl⟩, by decide +kernel, by decide +kernel,
    by decide +kernel, by decide +kernel, by decide +kernel, sn (by decide +kernel), by decide +kernel⟩

theorem witness_ReplicationRowsComplete_7 : ∃ (qp : _) (f : _) (b : _) (x : _) (y : _) (s : State) (t : _), Opened 3 qp f b x y s t ∧ y.stage = 2 ∧
    b = confirmBody y ∧ y.initiator = false :=
  ⟨2, keyedFrame 3 ({ keyedSes with initiator := false, stage := 2 }) (confirmBody keyedSes), confirmBody keyedSes,
    { keyedSes with initiator := false, stage := 2 }, { keyedSes with initiator := false, stage := 2, rxSeq := 1, lastRx := 0 },
    keyedState ({ keyedSes with initiator := false, stage := 2 }),
    keyedAfter 3 ({ keyedSes with initiator := false, stage := 2 }) (confirmBody keyedSes),
    keyed_opened 3 (confirmBody keyedSes) ({ keyedSes with initiator := false, stage := 2 }) (by decide +kernel) (by decide +kernel) (by decide) (by decide +kernel) (by rintro _ rfl; decide +kernel),
    by decide +kernel, by decide +kernel, by decide +kernel⟩

theorem witness_ReplicationRowsComplete_8 : ∃ (qp : _) (f : _) (b : _) (x : _) (y : _) (s : State) (t : _) (u : _), Opened 3 qp f b x y s t ∧
    y.stage = 2 ∧ b = confirmBody y ∧ y.initiator = true ∧ u = modifySes qp (fun z => { z with stage := 3 }) t :=
  ⟨2, keyedFrame 3 ({ keyedSes with stage := 2 }) (confirmBody keyedSes), confirmBody keyedSes, { keyedSes with stage := 2 },
    { keyedSes with stage := 2, rxSeq := 1, lastRx := 0 }, keyedState ({ keyedSes with stage := 2 }),
    keyedAfter 3 ({ keyedSes with stage := 2 }) (confirmBody keyedSes), _,
    keyed_opened 3 (confirmBody keyedSes) ({ keyedSes with stage := 2 }) (by decide +kernel) (by decide +kernel) (by decide) (by decide +kernel) (by rintro _ rfl; decide +kernel),
    by decide +kernel, by decide +kernel, by decide +kernel, rfl⟩

theorem witness_ReplicationRowsComplete_9 : ∃ (qp : _) (f : _) (b : _) (x : _) (y : _) (s : State) (t : _), Opened 0x10 qp f b x y s t ∧ y.stage = 3 ∧
    y.initiator = false :=
  ⟨2, keyedFrame 16 ({ keyedSes with initiator := false, stage := 3 }) (zeros 32), zeros 32, { keyedSes with initiator := false, stage := 3 },
    { keyedSes with initiator := false, stage := 3, rxSeq := 1, lastRx := 0 }, keyedState ({ keyedSes with initiator := false, stage := 3 }),
    keyedAfter 16 ({ keyedSes with initiator := false, stage := 3 }) (zeros 32),
    keyed_opened 16 (zeros 32) ({ keyedSes with initiator := false, stage := 3 }) (by decide +kernel) (by decide +kernel) (by decide) (by decide +kernel) (by rintro _ rfl; decide +kernel),
    by decide +kernel, by decide +kernel⟩

theorem witness_ReplicationRowsComplete_10 : ∃ (qp : _) (f : _) (b : _) (x : _) (y : _) (s : State) (t : _) (r : _) (bs : _) (last : List ObjRecord), Opened 0x11 qp f b x y s t ∧
    y.stage = 3 ∧ y.initiator = true ∧ fieldAt b 0 2 = 0 ∧ pairAt y.pair t = some r ∧ y.kind = 1 ∧ bs = grainBatches r.source y.baseNum y.goalNum t ∧
    last = [] :=
  ⟨2, keyedFrame 17 ({ keyedSes with stage := 3 }) (zeros 8), zeros 8, { keyedSes with stage := 3 },
    { keyedSes with stage := 3, rxSeq := 1, lastRx := 0 }, keyedState ({ keyedSes with stage := 3 }),
    keyedAfter 17 ({ keyedSes with stage := 3 }) (zeros 8), _, _, _,
    keyed_opened 17 (zeros 8) ({ keyedSes with stage := 3 }) (by decide +kernel) (by decide +kernel) (by decide) (by decide +kernel) (by rintro _ rfl; decide +kernel),
    by decide +kernel, by decide +kernel, by decide +kernel, sg (by decide +kernel), by decide +kernel, rfl, rfl⟩

theorem witness_ReplicationRowsComplete_11 : ∃ (qp : _) (f : _) (b : _) (x : _) (y : _) (s : State) (t : _) (n : _) (es : _), Opened 0x12 qp f b x y s t ∧
    y.stage = 4 ∧ y.initiator = false ∧ y.kind = 1 ∧ n = fieldAt b 4 2 ∧ 0 < n ∧ n ≤ 1024 ∧ b.length = 8 + 48 * n ∧ es = parseEntries n (b.drop 8) :=
  ⟨2, keyedFrame 18 ({ keyedSes with initiator := false, stage := 4 }) (leBytes 8 (2 ^ 32) ++ zeros 48), leBytes 8 (2 ^ 32) ++ zeros 48,
    { keyedSes with initiator := false, stage := 4 }, { keyedSes with initiator := false, stage := 4, rxSeq := 1, lastRx := 0 },
    keyedState ({ keyedSes with initiator := false, stage := 4 }),
    keyedAfter 18 ({ keyedSes with initiator := false, stage := 4 }) (leBytes 8 (2 ^ 32) ++ zeros 48), _, _,
    keyed_opened 18 (leBytes 8 (2 ^ 32) ++ zeros 48) ({ keyedSes with initiator := false, stage := 4 }) (by decide +kernel) (by decide +kernel) (by decide) (by decide +kernel) (by rintro _ rfl; decide +kernel),
    by decide +kernel, by decide +kernel, by decide +kernel, rfl, by decide +kernel, by decide +kernel, by decide +kernel, rfl⟩

theorem witness_ReplicationRowsComplete_12 : ∃ (qp : _) (f : _) (b : _) (x : _) (y : _) (s : State) (t : _), Opened 0x13 qp f b x y s t ∧
    y.stage = 4 ∧ y.initiator = true ∧ fieldAt b 0 4 = y.batch :=
  ⟨2, keyedFrame 19 ({ keyedSes with stage := 4 }) (zeros 136), zeros 136, { keyedSes with stage := 4 },
    { keyedSes with stage := 4, rxSeq := 1, lastRx := 0 }, keyedState ({ keyedSes with stage := 4 }),
    keyedAfter 19 ({ keyedSes with stage := 4 }) (zeros 136),
    keyed_opened 19 (zeros 136) ({ keyedSes with stage := 4 }) (by decide +kernel) (by decide +kernel) (by decide) (by decide +kernel) (by rintro _ rfl; decide +kernel),
    by decide +kernel, by decide +kernel, by decide +kernel⟩

theorem witness_ReplicationRowsComplete_13 : ∃ (qp : _) (f : _) (b : _) (x : _) (y : _) (s : State) (t : _) (e : _) (plain : _), Opened 0x14 qp f b x y s t ∧
    y.stage = 4 ∧ y.initiator = false ∧ y.inbound[fieldAt b 4 2]? = some e ∧ fieldAt b 0 4 = y.batch ∧ b.length = 16 + fieldAt b 12 4 ∧
    fieldAt b 6 1 ≠ 1 ∧ plain = slice b 16 (fieldAt b 12 4) ∧ plain.length = fieldAt b 8 4 ∧ plain.length = e.len ∧
    fingerprint (scopeDomain y.kind y.target t) plain t = e.fp :=
  ⟨2,
    keyedFrame 20 ({ keyedSes with initiator := false, stage := 4, target := 1, inbound := [{ position := 0, entry := 0, zero := false, len := 3, fp := sha256 (zeros 32 ++ [1, 2, 3]), data := none }] }) (zeros 8 ++ [3, 0, 0, 0, 3, 0, 0, 0, 1, 2, 3]),
    zeros 8 ++ [3, 0, 0, 0, 3, 0, 0, 0, 1, 2, 3],
    { keyedSes with initiator := false, stage := 4, target := 1, inbound := [{ position := 0, entry := 0, zero := false, len := 3, fp := sha256 (zeros 32 ++ [1, 2, 3]), data := none }] },
    { keyedSes with initiator := false, stage := 4, target := 1, inbound := [{ position := 0, entry := 0, zero := false, len := 3, fp := sha256 (zeros 32 ++ [1, 2, 3]), data := none }], rxSeq := 1, lastRx := 0 },
    keyedState ({ keyedSes with initiator := false, stage := 4, target := 1, inbound := [{ position := 0, entry := 0, zero := false, len := 3, fp := sha256 (zeros 32 ++ [1, 2, 3]), data := none }] }),
    keyedAfter 20 ({ keyedSes with initiator := false, stage := 4, target := 1, inbound := [{ position := 0, entry := 0, zero := false, len := 3, fp := sha256 (zeros 32 ++ [1, 2, 3]), data := none }] }) (zeros 8 ++ [3, 0, 0, 0, 3, 0, 0, 0, 1, 2, 3]),
    _, _,
    keyed_opened 20 (zeros 8 ++ [3, 0, 0, 0, 3, 0, 0, 0, 1, 2, 3]) ({ keyedSes with initiator := false, stage := 4, target := 1, inbound := [{ position := 0, entry := 0, zero := false, len := 3, fp := sha256 (zeros 32 ++ [1, 2, 3]), data := none }] }) (by decide +kernel) (by decide +kernel) (by decide) (by decide +kernel) (by rintro _ rfl; decide +kernel),
    by decide +kernel, by decide +kernel, sg (by decide +kernel), by decide +kernel, by decide +kernel, by decide +kernel, rfl, by decide +kernel,
    by decide +kernel, by decide +kernel⟩

theorem witness_ReplicationRowsComplete_14 : ∃ (qp : _) (f : _) (b : _) (x : _) (y : _) (s : State) (t : _), Opened 0x15 qp f b x y s t ∧
    y.stage = 4 ∧ y.initiator = false ∧ fieldAt b 0 4 = y.batch ∧ y.inbound ≠ [] :=
  ⟨2, keyedFrame 21 ({ keyedSes with initiator := false, stage := 4, inbound := [⟨0, 0, false, 3, zeros 32, none⟩] }) (zeros 8), zeros 8,
    { keyedSes with initiator := false, stage := 4, inbound := [⟨0, 0, false, 3, zeros 32, none⟩] },
    { keyedSes with initiator := false, stage := 4, inbound := [⟨0, 0, false, 3, zeros 32, none⟩], rxSeq := 1, lastRx := 0 },
    keyedState ({ keyedSes with initiator := false, stage := 4, inbound := [⟨0, 0, false, 3, zeros 32, none⟩] }),
    keyedAfter 21 ({ keyedSes with initiator := false, stage := 4, inbound := [⟨0, 0, false, 3, zeros 32, none⟩] }) (zeros 8),
    keyed_opened 21 (zeros 8) ({ keyedSes with initiator := false, stage := 4, inbound := [⟨0, 0, false, 3, zeros 32, none⟩] }) (by decide +kernel) (by decide +kernel) (by decide) (by decide +kernel) (by rintro _ rfl; decide +kernel),
    by decide +kernel, by decide +kernel, by decide +kernel, by decide +kernel⟩

theorem witness_ReplicationRowsComplete_15 : ∃ (qp : _) (f : _) (b : _) (x : _) (y : _) (s : State) (t : _), Opened 0x16 qp f b x y s t ∧
    y.stage = 4 ∧ y.initiator = true ∧ fieldAt b 0 4 = y.batch ∧ fieldAt b 4 2 = 0 :=
  ⟨2, keyedFrame 22 ({ keyedSes with stage := 4 }) (zeros 136), zeros 136, { keyedSes with stage := 4 },
    { keyedSes with stage := 4, rxSeq := 1, lastRx := 0 }, keyedState ({ keyedSes with stage := 4 }),
    keyedAfter 22 ({ keyedSes with stage := 4 }) (zeros 136),
    keyed_opened 22 (zeros 136) ({ keyedSes with stage := 4 }) (by decide +kernel) (by decide +kernel) (by decide) (by decide +kernel) (by rintro _ rfl; decide +kernel),
    by decide +kernel, by decide +kernel, by decide +kernel, by decide +kernel⟩

theorem witness_ReplicationRowsComplete_16 : ∃ (qp : _) (f : _) (b : _) (x : _) (y : _) (s : State) (t : _), Opened 0x17 qp f b x y s t ∧
    y.stage = 4 ∧ y.initiator = false ∧ y.kind = 2 ∧ b.length = 128 ∧ y.object = none ∧ (parseObject b).state = 3 ∧
    currentVersion y.target (parseObject b).key t = none :=
  ⟨2, keyedFrame 23 ({ keyedSes with initiator := false, stage := 4, kind := 2 }) (zeros 34 ++ [3] ++ zeros 93), zeros 34 ++ [3] ++ zeros 93,
    { keyedSes with initiator := false, stage := 4, kind := 2 }, { keyedSes with initiator := false, stage := 4, kind := 2, rxSeq := 1, lastRx := 0 },
    keyedState ({ keyedSes with initiator := false, stage := 4, kind := 2 }),
    keyedAfter 23 ({ keyedSes with initiator := false, stage := 4, kind := 2 }) (zeros 34 ++ [3] ++ zeros 93),
    keyed_opened 23 (zeros 34 ++ [3] ++ zeros 93) ({ keyedSes with initiator := false, stage := 4, kind := 2 }) (by decide +kernel) (by decide +kernel) (by decide) (by decide +kernel) (by rintro _ rfl; decide +kernel),
    by decide +kernel, by decide +kernel, by decide +kernel, by decide +kernel, by decide +kernel, by decide +kernel, by decide +kernel⟩

theorem witness_ReplicationRowsComplete_17 : ∃ (qp : _) (f : _) (b : _) (x : _) (y : _) (s : State) (t : _) (r : _) (n : _), Opened 0x17 qp f b x y s t ∧
    y.stage = 4 ∧ y.initiator = false ∧ y.kind = 2 ∧ b.length = 128 ∧ y.object = none ∧ r = parseObject b ∧ r.state ≠ 3 ∧
    currentVersion y.target r.key t = none ∧ n = freeNumber t :=
  ⟨2, keyedFrame 23 ({ keyedSes with initiator := false, stage := 4, kind := 2 }) (zeros 128), zeros 128,
    { keyedSes with initiator := false, stage := 4, kind := 2 }, { keyedSes with initiator := false, stage := 4, kind := 2, rxSeq := 1, lastRx := 0 },
    keyedState ({ keyedSes with initiator := false, stage := 4, kind := 2 }),
    keyedAfter 23 ({ keyedSes with initiator := false, stage := 4, kind := 2 }) (zeros 128), _, _,
    keyed_opened 23 (zeros 128) ({ keyedSes with initiator := false, stage := 4, kind := 2 }) (by decide +kernel) (by decide +kernel) (by decide) (by decide +kernel) (by rintro _ rfl; decide +kernel),
    by decide +kernel, by decide +kernel, by decide +kernel, by decide +kernel, by decide +kernel, rfl, by decide +kernel, by decide +kernel, rfl⟩

theorem witness_ReplicationRowsComplete_18 : ∃ (qp : _) (f : _) (b : _) (x : _) (y : _) (s : State) (t : _), Opened 0x1F qp f b x y s t ∧
    y.stage = 4 ∧ y.initiator = false :=
  ⟨2, keyedFrame 31 ({ keyedSes with initiator := false, stage := 4 }) (zeros 8), zeros 8, { keyedSes with initiator := false, stage := 4 },
    { keyedSes with initiator := false, stage := 4, rxSeq := 1, lastRx := 0 }, keyedState ({ keyedSes with initiator := false, stage := 4 }),
    keyedAfter 31 ({ keyedSes with initiator := false, stage := 4 }) (zeros 8),
    keyed_opened 31 (zeros 8) ({ keyedSes with initiator := false, stage := 4 }) (by decide +kernel) (by decide +kernel) (by decide) (by decide +kernel) (by rintro _ rfl; decide +kernel),
    by decide +kernel, by decide +kernel⟩

theorem witness_ReplicationRowsComplete_19 : ∃ (qp : _) (f : _) (b : _) (x : _) (y : _) (s : State) (t : _) (r : _), Opened 0x20 qp f b x y s t ∧
    y.stage = 5 ∧ y.initiator = true ∧ fieldAt b 0 2 = 0 ∧ pairAt y.pair t = some r :=
  ⟨2, keyedFrame 32 ({ keyedSes with stage := 5 }) (zeros 4), zeros 4, { keyedSes with stage := 5 },
    { keyedSes with stage := 5, rxSeq := 1, lastRx := 0 }, keyedState ({ keyedSes with stage := 5 }),
    keyedAfter 32 ({ keyedSes with stage := 5 }) (zeros 4), _,
    keyed_opened 32 (zeros 4) ({ keyedSes with stage := 5 }) (by decide +kernel) (by decide +kernel) (by decide) (by decide +kernel) (by rintro _ rfl; decide +kernel),
    by decide +kernel, by decide +kernel, by decide +kernel, sg (by decide +kernel)⟩

theorem witness_ReplicationRowsComplete_20 : ∃ (qp : _) (f : _) (b : _) (x : _) (y : _) (s : State) (t : _), Opened 0x30 qp f b x y s t :=
  ⟨2, keyedFrame 48 (keyedSes) ([]), [], keyedSes, { keyedSes with rxSeq := 1, lastRx := 0 }, keyedState (keyedSes), keyedAfter 48 (keyedSes) ([]),
    keyed_opened 48 ([]) (keyedSes) (by decide +kernel) (by decide +kernel) (by decide) (by decide +kernel) (by rintro _ rfl; decide +kernel)⟩

theorem witness_ReplicationRowsComplete_21 : ∃ (qp : _) (f : _) (b : _) (x : _) (y : _) (s : State) (t : _), Opened 0x3F qp f b x y s t :=
  ⟨2, keyedFrame 63 (keyedSes) (zeros 4), zeros 4, keyedSes, { keyedSes with rxSeq := 1, lastRx := 0 }, keyedState (keyedSes),
    keyedAfter 63 (keyedSes) (zeros 4),
    keyed_opened 63 (zeros 4) (keyedSes) (by decide +kernel) (by decide +kernel) (by decide) (by decide +kernel) (by rintro _ rfl; decide +kernel)⟩

theorem witness_ReplicationRowsComplete_22 : ∃ (qp : _) (s : State) (x : _), sesAt qp s = some x ∧ x.wslot.isSome = true :=
  ⟨2, keyedState keyedSes, _, sg (by decide +kernel), by decide +kernel⟩

theorem witness_ReplicationRowsComplete_23 : ∃ (qp : _) (s : State) (x : _), sesAt qp s = some x :=
  ⟨2, keyedState keyedSes, _, sg (by decide +kernel)⟩

theorem witness_HeadlandLinkRowsComplete_2 : ∃ (q : Nat) (s : State) (e : LinkEnd), s.headland.links[q]? = some e ∧ e.state = .training :=
  ⟨0, demo, _, sg (by decide +kernel), by decide +kernel⟩

theorem witness_HeadlandLinkRowsComplete_6 : ∃ (q : Nat) (s : State) (e : LinkEnd), s.headland.txOff = none ∧ s.headland.links[q]? = some e ∧ q < 4 ∧
    e.state = .training ∧ s.headland.linkState ≠ .down :=
  ⟨0, inHeadland (fun h => { h with linkState := .up }), _, by decide +kernel, sg (by decide +kernel), by decide +kernel, by decide +kernel,
    by decide +kernel⟩

theorem witness_HeadlandLinkRowsComplete_7 : ∃ (q : Nat) (s : State) (e : LinkEnd), s.headland.txOff = none ∧ s.headland.links[q]? = some e ∧ q < 4 ∧
    e.state = .training ∧ s.headland.linkState = .down :=
  ⟨0, demo, _, by decide +kernel, sg (by decide +kernel), by decide +kernel, by decide +kernel, by decide +kernel⟩

theorem witness_HeadlandLinkRowsComplete_8 : ∃ (q : _) (s : State), subUp q s = true :=
  ⟨0, told 1 [] demo, by decide +kernel⟩

theorem witness_HeadlandLinkRowsComplete_10 : ∃ (q : _) (fs : _) (s : State) (m : _) (u : _), headReceive (fun x => !(decide (withheld (s.headland.links.getD q resetLinkEnd) ≠ 0) && (x.code == 0x10 || x.code == 0x12))) q fs s = (some m, u) :=
  ⟨0, [], told 1 [] demo, _, _, sp (by decide +kernel)⟩

theorem witness_HeadlandMessagesComplete_1 : ∃ (q : _) (fs : _) (b : _) (s : State) (t : _), Heard 0x0001 q fs (fun _ => 0x68) b s t :=
  ⟨0, [], zeros 0x68, told 1 (zeros 0x68) (demo), _, ⟨sn (by decide +kernel), by decide +kernel, by decide +kernel⟩⟩

theorem witness_HeadlandMessagesComplete_2 : ∃ (q : _) (fs : _) (b : _) (s : State) (t : _), Heard 0x0002 q fs (fun b => 0x20 + 16 * fieldAt b 0x1C 2) b s t :=
  ⟨0, [], zeros 0x20, told 2 (zeros 0x20) (demo), _, ⟨sn (by decide +kernel), by decide +kernel, by decide +kernel⟩⟩

theorem witness_HeadlandMessagesComplete_3 : ∃ (q : _) (fs : _) (b : _) (s : State) (t : _), Heard 0x0003 q fs (fun _ => 8) b s t :=
  ⟨0, [], zeros 8, told 3 (zeros 8) (demo), _, ⟨sn (by decide +kernel), by decide +kernel, by decide +kernel⟩⟩

theorem witness_HeadlandMessagesComplete_4 : ∃ (q : _) (fs : _) (b : _) (s : State) (t : _), HeardRoot 0x0010 q fs mirrorLeast b s t ∧
    t.headland.held.contains (fieldAt b 0 8) = true :=
  ⟨0, [], zeros 32, told 16 (zeros 32) (inHeadland (fun h => { h with held := [0] })), _,
    ⟨_, by decide +kernel, sn (by decide +kernel), rfl, by decide +kernel, by decide +kernel⟩, by decide +kernel⟩

theorem witness_HeadlandMessagesComplete_5 : ∃ (q : _) (fs : _) (b : _) (s : State) (t : _) (u : _), HeardRoot 0x0010 q fs mirrorLeast b s t ∧
    t.headland.held.contains (fieldAt b 0 8) = false ∧ bitOf (fieldAt b 9 1) 0 = false ∧ bitOf (fieldAt b 9 1) 1 = false ∧
    storeRecords q (fieldAt b 0 8) (splitRecords (fieldAt b 0x0A 2) (slice b 0x20 (fieldAt b 0x0C 4))) none t = some u :=
  ⟨0, [], zeros 32, told 16 (zeros 32) (demo), _, _, ⟨_, by decide +kernel, sn (by decide +kernel), rfl, by decide +kernel, by decide +kernel⟩,
    by decide +kernel, by decide +kernel, by decide +kernel, sg (by decide +kernel)⟩

theorem witness_HeadlandMessagesComplete_6 : ∃ (q : _) (fs : _) (b : _) (s : State) (t : _) (m : MirrorMsg), Heard 0x0011 q fs (fun _ => 10) b s t ∧
    fieldAt b 8 2 ≠ 3 ∧ fieldAt b 8 2 ≠ 2 ∧ t.headland.msgs.find? (fun m => m.mseq == fieldAt b 0 8 && m.sub == q) = some m :=
  ⟨0, [], zeros 10, told 17 (zeros 10) (inHeadland (fun h => { h with msgs := [demoMsg] })), _, _,
    ⟨sn (by decide +kernel), by decide +kernel, by decide +kernel⟩, by decide +kernel, by decide +kernel, sg (by decide +kernel)⟩

theorem witness_HeadlandMessagesComplete_7 : ∃ (q : _) (fs : _) (b : _) (s : State) (t : _), Heard 0x0011 q fs (fun _ => 10) b s t ∧
    fieldAt b 8 2 ≠ 3 ∧ t.headland.msgs.find? (fun m => m.mseq == fieldAt b 0 8 && m.sub == q) = none :=
  ⟨0, [], zeros 10, told 17 (zeros 10) (demo), _, ⟨sn (by decide +kernel), by decide +kernel, by decide +kernel⟩, by decide +kernel,
    by decide +kernel⟩

theorem witness_HeadlandMessagesComplete_8 : ∃ (q : _) (fs : _) (b : _) (s : State) (t : _), HeardRoot 0x0012 q fs (fun b => 8 + 8 * fieldAt b 0 4) b s t :=
  ⟨0, [], zeros 8, told 18 (zeros 8) (demo), _, ⟨_, by decide +kernel, sn (by decide +kernel), rfl, by decide +kernel, by decide +kernel⟩⟩

theorem witness_HeadlandMessagesComplete_9 : ∃ (q : _) (fs : _) (b : _) (s : State) (t : _), Heard 0x0013 q fs (fun _ => 16) b s t :=
  ⟨0, [], zeros 16, told 19 (zeros 16) (demo), _, ⟨sn (by decide +kernel), by decide +kernel, by decide +kernel⟩⟩

theorem witness_HeadlandMessagesComplete_10 : ∃ (q : _) (fs : _) (b : _) (s : State) (t : _), Heard 0x0014 q fs (fun _ => 8) b s t ∧
    t.headland.ret.inbound = true :=
  ⟨0, [], zeros 8, told 20 (zeros 8) (inHeadland (fun h => { h with ret := { h.ret with inbound := true } })), _,
    ⟨sn (by decide +kernel), by decide +kernel, by decide +kernel⟩, by decide +kernel⟩

theorem witness_HeadlandMessagesComplete_11 : ∃ (q : _) (fs : _) (b : _) (s : State) (t : _), Heard 0x0020 q fs (fun _ => 0x50) b s t :=
  ⟨0, [], zeros 0x50, told 32 (zeros 0x50) (demo), _, ⟨sn (by decide +kernel), by decide +kernel, by decide +kernel⟩⟩

theorem witness_HeadlandMessagesComplete_12 : ∃ (q : _) (fs : _) (b : _) (s : State) (t : _), Heard 0x0021 q fs (fun _ => 0x20) b s t :=
  ⟨0, [], zeros 0x20, told 33 (zeros 0x20) (demo), _, ⟨sn (by decide +kernel), by decide +kernel, by decide +kernel⟩⟩

theorem witness_HeadlandMessagesComplete_13 : ∃ (q : _) (fs : _) (b : _) (s : State) (t : _), Heard 0x0030 q fs (fun _ => 40) b s t :=
  ⟨0, [], zeros 40, told 48 (zeros 40) (demo), _, ⟨sn (by decide +kernel), by decide +kernel, by decide +kernel⟩⟩

theorem witness_HeadlandMessagesComplete_14 : ∃ (q : _) (fs : _) (b : _) (s : State) (t : _), Heard 0x0031 q fs (fun _ => 4) b s t :=
  ⟨0, [], zeros 4, told 49 (zeros 4) (demo), _, ⟨sn (by decide +kernel), by decide +kernel, by decide +kernel⟩⟩

theorem witness_HeadlandMessagesComplete_15 : ∃ (q : _) (fs : _) (b : _) (s : State) (t : _) (total : _) (kept : _) (given : _), Heard 0x0040 q fs (fun _ => 4) b s t ∧
    total = (t.headland.idBlocks.map (·.2)).sum ∧ splitBlocks (total - total / 2) t.headland.idBlocks = (kept, given) :=
  ⟨0, [], zeros 4, told 64 (zeros 4) (demo), _, _, _, _, ⟨sn (by decide +kernel), by decide +kernel, by decide +kernel⟩, rfl, rfl⟩

theorem witness_HeadlandMessagesComplete_16 : ∃ (q : _) (fs : _) (b : _) (s : State) (t : _), Heard 0x0041 q fs (fun b => 8 + 4 * fieldAt b 0 4) b s t :=
  ⟨0, [], zeros 8, told 65 (zeros 8) (demo), _, ⟨sn (by decide +kernel), by decide +kernel, by decide +kernel⟩⟩

theorem witness_HeadlandMessagesComplete_17 : ∃ (q : _) (fs : _) (b : _) (s : State) (t : _), Heard 0x0050 q fs (fun _ => 16) b s t ∧
    leases (fieldAt b 8 1) t = true :=
  ⟨0, [], zeros 16, told 80 (zeros 16) (lease 1 demo), _, ⟨sn (by decide +kernel), by decide +kernel, by decide +kernel⟩, by decide +kernel⟩

theorem witness_HeadlandMessagesComplete_18 : ∃ (q : _) (fs : _) (b : _) (s : State) (t : _), Heard 0x0051 q fs (fun _ => 8) b s t :=
  ⟨0, [], zeros 8, told 81 (zeros 8) (demo), _, ⟨sn (by decide +kernel), by decide +kernel, by decide +kernel⟩⟩

theorem witness_HeadlandMessagesComplete_19 : ∃ (q : _) (fs : _) (b : _) (s : State) (t : _), Heard 0x0052 q fs (fun _ => 16) b s t :=
  ⟨0, [], zeros 16, told 82 (zeros 16) (demo), _, ⟨sn (by decide +kernel), by decide +kernel, by decide +kernel⟩⟩

theorem witness_HeadlandMessagesComplete_20 : ∃ (q : _) (fs : _) (b : _) (s : State) (t : _), Heard 0x0053 q fs (fun _ => 16) b s t ∧
    t.media.reclaims.any (fun j => j.acre == fieldAt b 0 4 && j.step == 5) = true :=
  ⟨0, [], zeros 16, told 83 (zeros 16) (modifyMedia (fun m => { m with reclaims := [⟨0, none, 5, [], 0, []⟩] }) demo), _,
    ⟨sn (by decide +kernel), by decide +kernel, by decide +kernel⟩, by decide +kernel⟩

theorem witness_HeadlandMessagesComplete_21 : ∃ (q : _) (fs : _) (b : _) (s : State) (t : _), Heard 0x0060 q fs (fun _ => 16) b s t :=
  ⟨0, [], zeros 16, told 96 (zeros 16) (demo), _, ⟨sn (by decide +kernel), by decide +kernel, by decide +kernel⟩⟩

theorem witness_HeadlandMessagesComplete_22 : ∃ (q : _) (fs : _) (b : _) (s : State) (t : _), Heard 0x0061 q fs (fun _ => 3) b s t ∧
    fieldAt b 2 1 = 1 :=
  ⟨0, [], [0, 0, 1], told 97 ([0, 0, 1]) (demo), _, ⟨sn (by decide +kernel), by decide +kernel, by decide +kernel⟩, by decide +kernel⟩

theorem witness_HeadlandMessagesComplete_23 : ∃ (q : _) (fs : _) (b : _) (s : State) (t : _), Heard 0x0061 q fs (fun _ => 3) b s t ∧
    fieldAt b 2 1 = 2 :=
  ⟨0, [], [0, 0, 2], told 97 ([0, 0, 2]) (demo), _, ⟨sn (by decide +kernel), by decide +kernel, by decide +kernel⟩, by decide +kernel⟩

theorem witness_HeadlandMessagesComplete_24 : ∃ (q : _) (fs : _) (b : _) (s : State) (t : _), Heard 0x0061 q fs (fun _ => 3) b s t ∧
    fieldAt b 2 1 = 3 :=
  ⟨0, [], [0, 0, 3], told 97 ([0, 0, 3]) (demo), _, ⟨sn (by decide +kernel), by decide +kernel, by decide +kernel⟩, by decide +kernel⟩

theorem witness_HeadlandMessagesComplete_25 : ∃ (q : _) (fs : _) (b : _) (s : State) (t : _), Heard 0x0062 q fs (fun _ => 0) b s t ∧
    baseMode t = .sole ∧ t.headland.ret.resyncAcked = true ∧ t.headland.takeover = none :=
  ⟨0, [], [], told 98 ([]) (inMode .sole (inHeadland (fun h => { h with ret := { h.ret with resyncAcked := true } }))), _,
    ⟨sn (by decide +kernel), by decide +kernel, by decide +kernel⟩, by decide +kernel, by decide +kernel, by decide +kernel⟩

theorem witness_HeadlandMessagesComplete_26 : ∃ (q : _) (fs : _) (b : _) (s : State) (t : _), Heard 0x0063 q fs (fun _ => 2) b s t :=
  ⟨0, [], zeros 2, told 99 (zeros 2) (demo), _, ⟨sn (by decide +kernel), by decide +kernel, by decide +kernel⟩⟩

theorem witness_HeadlandMessagesComplete_27 : ∃ (q : _) (fs : _) (b : _) (s : State) (t : _), Heard 0x0070 q fs (fun _ => 8) b s t ∧
    servingMode t.boot.mode = true ∧ fieldAt b 0 4 = 0xFFFFFFFF :=
  ⟨0, [], leBytes 4 0xFFFFFFFF ++ zeros 4, told 112 (leBytes 4 0xFFFFFFFF ++ zeros 4) (demo), _,
    ⟨sn (by decide +kernel), by decide +kernel, by decide +kernel⟩, by decide +kernel, by decide +kernel⟩

theorem witness_HeadlandMessagesComplete_28 : ∃ (q : _) (fs : _) (b : _) (s : State) (t : _), Heard 0x0071 q fs (fun b => 0x10 + fieldAt b 4 4) b s t :=
  ⟨0, [], zeros 16, told 113 (zeros 16) (demo), _, ⟨sn (by decide +kernel), by decide +kernel, by decide +kernel⟩⟩

theorem witness_HeadlandTimerRowsComplete_1 : ∃ (s : State) (u : _), s.headland.peer.beatSeen = false ∧ s.headland.peerPresent = true ∧
    s.boot.mode ≠ .boot ∧ s.boot.mode ≠ .recovery ∧ s.headland.txOff = none ∧
    u = modifyHeadland (fun h => { h with hbSeq := h.hbSeq + 1 }) (modifyHeadland (fun h => { h with peer := { h.peer with beatSeen := false } }) (countHead (fun c => { c with hbMissed := bump c.hbMissed }) s)) :=
  ⟨inHeadland (fun h => { h with peerPresent := true }), _, by decide +kernel, by decide +kernel, by decide +kernel, by decide +kernel,
    by decide +kernel, rfl⟩

theorem witness_HeadlandTimerRowsComplete_3 : ∃ (n : _) (s : State) (m : MirrorMsg) (q : _) (u : _), s.headland.msgs.find? (fun m => m.mseq == n) = some m ∧
    m.noRoom = false ∧ m.sub < 4 ∧ u = linkSync (modifyHeadland (fun h => { h with lastWin := some s.time.ticks }) s) ∧ nextSub m.sub u = some q ∧
    m.resends < paramNat 0x0D01 0 s :=
  ⟨0, told 1 [] (inHeadland (fun h => { h with msgs := [demoMsg] })), _, _, _, sg (by decide +kernel), by decide +kernel, by decide +kernel, rfl,
    sg (by decide +kernel), by decide +kernel⟩

theorem witness_HeadlandTimerRowsComplete_4 : ∃ (n : _) (s : State) (m : MirrorMsg) (u : _), s.headland.msgs.find? (fun m => m.mseq == n) = some m ∧
    m.noRoom = false ∧ m.sub < 4 ∧ u = linkSync (modifyHeadland (fun h => { h with lastWin := some s.time.ticks }) s) ∧ nextSub m.sub u = none :=
  ⟨0, inHeadland (fun h => { h with msgs := [demoMsg] }), _, _, sg (by decide +kernel), by decide +kernel, by decide +kernel, rfl, by decide +kernel⟩

theorem witness_HeadlandTimerRowsComplete_5 : ∃ (n : _) (s : State), s.headland.peerPresent = true ∧
    s.headland.msgs.any (fun m => m.mseq == n) = true ∧ s.headland.txOff = none :=
  ⟨0, inHeadland (fun h => { h with msgs := [demoMsg], peerPresent := true }), by decide +kernel, by decide +kernel, by decide +kernel⟩

theorem witness_HeadlandTimerRowsComplete_8 : ∃ (s : State), s.headland.yieldInLow = false :=
  ⟨demo, by decide +kernel⟩

theorem witness_HeadlandTimerRowsComplete_10 : ∃ (s : State), s.boot.mode = .yield ∧ leasedBridges s = [] :=
  ⟨inMode .yield demo, by decide +kernel, by decide +kernel⟩

theorem witness_HeadlandTimerRowsComplete_11 : ∃ (s : State) (x : _), s.headland.takeover = some x ∧ x.wanted.any (fun b => !leases b s) = false ∧
    baseMode s = .sole :=
  ⟨lease 1 (inMode .sole (inHeadland (fun h => { h with takeover := some ⟨[0], false, true⟩ }))), _, sg (by decide +kernel), by decide +kernel,
    by decide +kernel⟩

theorem witness_HeadlandTimerRowsComplete_13 : ∃ (s : State), 1 ≤ s.headland.supervisorMisses :=
  ⟨inHeadland (fun h => { h with supervisorMisses := 1 }), by decide +kernel⟩

theorem witness_HeadlandTimerRowsComplete_14 : ∃ near far, near ≤ 1000 ∧ far ≤ 1000 :=
  ⟨1000, 1000, by decide +kernel, by decide +kernel⟩

theorem witness_HeadlandTimerRowsComplete_15 : ∃ (near : _) (far : _) (s : State), 1000 < max near far ∧ 9 ≤ s.headland.eccWindows :=
  ⟨1001, 0, inHeadland (fun h => { h with eccWindows := 9 }), by decide +kernel, by decide +kernel⟩

theorem witness_HeadlandTimerRowsComplete_16 : ∃ (s : State), s.boot.mode = .inventory ∧ s.headland.peerPresent = false ∧
    s.headland.conflict = false ∧ s.headland.newcomer = false ∧ 0x0B ≤ s.boot.step :=
  ⟨{ inMode .inventory demo with boot := { (inMode .inventory demo).boot with step := 0x0B } }, by decide +kernel, by decide +kernel,
    by decide +kernel, by decide +kernel, by decide +kernel⟩

theorem witness_HeadlandTimerRowsComplete_17 : ∃ (s : State), s.boot.mode = .fallow ∧ s.headland.ret.holdFrom.isSome = true :=
  ⟨inMode .fallow (inHeadland (fun h => { h with ret := { h.ret with holdFrom := some 0 } })), by decide +kernel, by decide +kernel⟩

theorem witness_PortRowsComplete_1 : ∃ (l : _) (s : State), lportUsed (l % 32) s = true :=
  ⟨0, ported [], by decide +kernel⟩

theorem witness_PortRowsComplete_2 : ∃ (l : _) (s : State), (lportAt (l % 32) s).link = 2 :=
  ⟨0, ported [], by decide +kernel⟩

theorem witness_PortRowsComplete_3 : ∃ (l : _) (s : State), lportUsed (l % 32) s = true ∧ (lportAt (l % 32) s).link ≠ 2 ∧
    (lportAt (l % 32) s).downTold = false :=
  ⟨0, onPort (fun p => { p with link := 0 }) (ported []), by decide +kernel, by decide +kernel, by decide +kernel⟩

theorem witness_PortRowsComplete_4 : ∃ (h : _) (l : _) (target : _) (s : State), FrameTaken h [macBroadcast] l s ∧ isOwnAddress l target s = true :=
  ⟨frameTo (portMac 0), 0, ownIp, ported [], ⟨rfl, by decide +kernel, by decide +kernel, Or.inl rfl⟩, by decide +kernel⟩

theorem witness_PortRowsComplete_5 : ∃ (h : _) (l : _) (target : _) (s : State), FrameTaken h (groupMacs (h.lport % 32) s) l s ∧
    isOwnAddress l target s = true :=
  ⟨frameTo (portMac 0), 0, ownIp, ported [], ⟨rfl, by decide +kernel, by decide +kernel, Or.inl rfl⟩, by decide +kernel⟩

theorem witness_PortRowsComplete_6 : ∃ (h : _) (l : _) (a : _) (s : State), FrameTaken h [macBroadcast] l s ∧
    (ownAddresses l s).find? (fun x => x.2.1 == a) = none :=
  ⟨frameTo (portMac 0), 0, 5, ported [], ⟨rfl, by decide +kernel, by decide +kernel, Or.inl rfl⟩, by decide +kernel⟩

theorem witness_PortRowsComplete_7 : ∃ (h : _) (l : _) (a : _) (s : State) (x : _), FrameTaken h [macBroadcast] l s ∧
    (ownAddresses l s).find? (fun x => x.2.1 == a) = some x :=
  ⟨frameTo (portMac 0), 0, ownIp, ported [], _, ⟨rfl, by decide +kernel, by decide +kernel, Or.inl rfl⟩, sg (by decide +kernel)⟩

theorem witness_PortRowsComplete_8 : ∃ (h : _) (l : _) (a : _) (s : State), FrameTaken h (groupMacs (h.lport % 32) s) l s ∧
    (ownAddresses l s).find? (fun x => x.2.1 == a) = none :=
  ⟨frameTo (portMac 0), 0, 5, ported [], ⟨rfl, by decide +kernel, by decide +kernel, Or.inl rfl⟩, by decide +kernel⟩

theorem witness_PortRowsComplete_9 : ∃ (h : _) (l : _) (target : _) (b : Bytes) (s : State), FrameTaken h [] l s ∧ isOwnAddress l target s = true ∧
    b.length ≤ 1500 :=
  ⟨frameTo (portMac 0), 0, ownIp, [1, 2], ported [], ⟨rfl, by decide +kernel, by decide +kernel, Or.inl rfl⟩, by decide +kernel, by decide +kernel⟩

theorem witness_PortRowsComplete_10 : ∃ (l : _) (s : State), portUp (l % 32) s = true :=
  ⟨0, ported [], by decide +kernel⟩

theorem witness_PortRowsComplete_11 : ∃ (l : _) (prio : _) (n : _) (s : State) (u : _), portUp (l % 32) s = true ∧ 0 < n ∧
    u = countPort (l % 32) (fun c => { c with pfcRx := bumpAt c.pfcRx (prio % 8) }) s ∧ (lportAt (l % 32) s).paused = [] :=
  ⟨0, 3, 5, ported [], _, by decide +kernel, by decide +kernel, rfl, by decide +kernel⟩

theorem witness_PortRowsComplete_13 : ∃ (l : _) (prio : _) (s : State), (lportAt (l % 32) s).xoff.any (fun x => x.1 == prio) = true :=
  ⟨0, 3, onPort (fun p => { p with xoff := [(3, 0)], paused := [(3, 0, 9)] }) (ported []), by decide +kernel⟩

theorem witness_PortRowsComplete_15 : ∃ (l : _) (prio : _) (s : State), (lportAt (l % 32) s).paused.any (fun x => x.1 == prio) = true :=
  ⟨0, 3, onPort (fun p => { p with xoff := [(3, 0)], paused := [(3, 0, 9)] }) (ported []), by decide +kernel⟩

theorem witness_PortRowsComplete_16 : ∃ (u : _) (s : State), u ≤ paramNat 0x0E13 0 s :=
  ⟨0, demo, by decide +kernel⟩

theorem witness_PortRowsComplete_17 : ∃ (u : _) (s : State), paramNat 0x0E13 0 s < u :=
  ⟨2 ^ 40, demo, by decide +kernel⟩

theorem witness_PortRowsComplete_18 : ∃ (q : Nat) (s : State) (k : CtxCounters), s.ports.counters[q]? = some k ∧ k.window ≤ 10000 :=
  ⟨0, demo, ⟨0, 0, 0, 0, 0⟩, by decide +kernel, by decide +kernel⟩

theorem witness_PortRowsComplete_19 : ∃ (q : Nat) (s : State) (k : CtxCounters), s.ports.counters[q]? = some k ∧ 10000 < k.window :=
  ⟨0, inPorts { resetPorts with counters := List.replicate 4 ⟨0, 0, 0, 0, 10001⟩ }, ⟨0, 0, 0, 0, 10001⟩, by decide +kernel, by decide +kernel⟩

theorem witness_RdmaRowsComplete_1 : ∃ (h : _) (pos : _) (b : _) (s : State) (c : _) (t : _) (u : _), Arrives h c s t ∧ psnSub h.psn c.epsn = 0 ∧
    u = takeSend c.index h pos b t ∧ ((qpAt (h.qpn % 2 ^ 20) u).map (·.msn)).getD 0 = ((qpAt (h.qpn % 2 ^ 20) s).map (·.msn)).getD 0 :=
  ⟨demoHead, .first, [1], ported [demoQp], demoQp, afterSteering (ported [demoQp]), _,
    demo_arrives (demoQp) (ported [demoQp]) (by decide +kernel) (by decide +kernel) (by decide +kernel) (by decide +kernel), by decide +kernel, rfl,
    by decide +kernel⟩

theorem witness_RdmaRowsComplete_2 : ∃ (h : _) (pos : _) (b : _) (s : State) (c : _) (t : _) (u : _), Arrives h c s t ∧ psnSub h.psn c.epsn = 0 ∧
    u = takeSend c.index h pos b t ∧ ((qpAt (h.qpn % 2 ^ 20) u).map (·.msn)).getD 0 ≠ ((qpAt (h.qpn % 2 ^ 20) s).map (·.msn)).getD 0 :=
  ⟨demoHead, .only, [1], ported [demoQp], demoQp, afterSteering (ported [demoQp]), _,
    demo_arrives (demoQp) (ported [demoQp]) (by decide +kernel) (by decide +kernel) (by decide +kernel) (by decide +kernel), by decide +kernel, rfl,
    by decide +kernel⟩

theorem witness_RdmaRowsComplete_3 : ∃ (h : _) (pos : _) (k : _) (b : _) (s : State) (c : _) (t : _) (u : _), Arrives h c s t ∧
    psnSub h.psn c.epsn = 0 ∧ c.service = .sheaf ∧ u = takeSendInvalidate c.index h pos k b t ∧
    ((qpAt (h.qpn % 2 ^ 20) u).map (·.msn)).getD 0 = ((qpAt (h.qpn % 2 ^ 20) s).map (·.msn)).getD 0 :=
  ⟨demoHead, .first, 0, [1], ported [{ demoQp with service := .sheaf }], { demoQp with service := .sheaf },
    afterSteering (ported [{ demoQp with service := .sheaf }]), _,
    demo_arrives ({ demoQp with service := .sheaf }) (ported [{ demoQp with service := .sheaf }]) (by decide +kernel) (by decide +kernel) (by decide +kernel) (by decide +kernel),
    by decide +kernel, by decide +kernel, rfl, by decide +kernel⟩

theorem witness_RdmaRowsComplete_4 : ∃ (h : _) (s : State) (c : _) (t : _), Arrives h c s t ∧ psnSub h.psn c.epsn = 0 :=
  ⟨demoHead, ported [demoQp], demoQp, afterSteering (ported [demoQp]),
    demo_arrives (demoQp) (ported [demoQp]) (by decide +kernel) (by decide +kernel) (by decide +kernel) (by decide +kernel), by decide +kernel⟩

theorem witness_RdmaRowsComplete_6 : ∃ (h : _) (s : State) (c : _) (t : _), Arrives h c s t :=
  ⟨demoHead, ported [demoQp], demoQp, afterSteering (ported [demoQp]),
    demo_arrives (demoQp) (ported [demoQp]) (by decide +kernel) (by decide +kernel) (by decide +kernel) (by decide +kernel)⟩

theorem witness_RdmaRowsComplete_9 : ∃ (h : _) (s : State) (t : _), PortTakes h s t :=
  ⟨demoHead, ported [], portCounted (ported []), demo_taken _ (by decide +kernel)⟩

theorem witness_RdmaRowsComplete_10 : ∃ (h : _) (op : _) (s : State) (c : _) (t : _), Arrives h c s t ∧ psnSub h.psn c.epsn = 0 ∧
    (op = 0x03 ∨ op = 0x13) :=
  ⟨demoHead, 0x03, ported [demoQp], demoQp, afterSteering (ported [demoQp]),
    demo_arrives (demoQp) (ported [demoQp]) (by decide +kernel) (by decide +kernel) (by decide +kernel) (by decide +kernel), by decide +kernel,
    by decide +kernel⟩

theorem witness_RdmaRowsComplete_11 : ∃ (q : _) (s : State) (c : _), qpAt q s = some c ∧ c.state = .connected ∧ c.sent ≠ [] ∧
    c.retries < paramNat 0x0E19 0 s :=
  ⟨2, ported [{ demoQp with sent := [demoOut] }], _, sg (by decide +kernel), by decide +kernel, by decide +kernel, by decide +kernel⟩

theorem witness_RdmaRowsComplete_12 : ∃ (q : _) (s : State) (c : _), qpAt q s = some c ∧ c.rnrWait = true :=
  ⟨2, ported [{ demoQp with rnrWait := true }], _, sg (by decide +kernel), by decide +kernel⟩

theorem witness_RdmaRowsComplete_13 : ∃ (q : _) (s : State) (c : _), qpAt q s = some c ∧ 0 < c.unacked :=
  ⟨2, ported [{ demoQp with unacked := 1 }], _, sg (by decide +kernel), by decide +kernel⟩

theorem witness_RdmaRowsComplete_15 : ∃ (d : Nat) (s : State) (m : MissedPacket) (rest : _) (u : _) (c : _), s.ports.nakOrders[d]? = some (m :: rest) ∧
    u = modifyPorts (fun p => { p with nakOrders := p.nakOrders.set d rest }) s ∧ qpAt m.index u = some c ∧ beginsMessage m.body = true ∧
    m.head.psn = c.epsn :=
  ⟨0, modifyPorts (fun p => { p with nakOrders := [[⟨2, demoHead, .send .only []⟩], [], [], []] }) (ported [demoQp]), ⟨2, demoHead, .send .only []⟩,
    [], _, _, rfl, rfl, sg (by decide +kernel), by decide +kernel, by decide +kernel⟩

theorem witness_ConnectionRowsComplete_1 : ∃ (r : CmRequest) (s : State), portUp r.lport s = true ∧
    (∃ a, (ownAddresses r.lport s).find? (fun a => a.2.1 == r.toAddr) = some a) ∧
    s.ports.qps.find? (fun c => c.state == .connecting && !c.active && c.remoteId == r.commId && c.remoteAddr == r.fromAddr) = none ∧
    (nextQp s).isSome = true ∧ serviceOf r.service s = none :=
  ⟨demoReq, ported [], by decide +kernel, ⟨_, sg (by decide +kernel)⟩, by decide +kernel, by decide +kernel, by decide +kernel⟩

theorem witness_ConnectionRowsComplete_2 : ∃ (r : CmRequest) (s : State) (a : _), portUp r.lport s = true ∧
    (ownAddresses r.lport s).find? (fun a => a.2.1 == r.toAddr) = some a ∧
    s.ports.qps.find? (fun c => c.state == .connecting && !c.active && c.remoteId == r.commId && c.remoteAddr == r.fromAddr) = none ∧
    (nextQp s).isSome = true ∧ serviceOf r.service s = some .replication ∧ r.transport = 0 ∧ acceptsConnections s = true :=
  ⟨{ demoReq with service := serviceId (paramNat 0x0E16 0 (ported [])) }, ported [], _, by decide +kernel, sg (by decide +kernel), by decide +kernel,
    by decide +kernel, by decide +kernel, by decide +kernel, by decide +kernel⟩

theorem witness_ConnectionRowsComplete_3 : ∃ (id : _) (s : State) (c : _), ctxOf id s = some c ∧ c.state = .connecting :=
  ⟨2, ported [{ demoQp with state := .connecting }], _, sg (by decide +kernel), by decide +kernel⟩

theorem witness_ConnectionRowsComplete_5 : ∃ (r : CmReply) (s : State) (c : _) (u : _), ctxOf r.commId s = some c ∧ c.active = true ∧
    c.state = .connecting ∧
    u = qpConnect c.index (modifyQp c.index (fun x => { x with remoteQpn := r.qpn, remoteId := r.remoteId, epsn := r.psn, pmtu := pathMtu c.lport r.mtu (isIpv4 c.remoteAddr) s }) s) :=
  ⟨{ commId := 2, remoteId := 9, qpn := 1, psn := 0, mtu := 4096, privData := [] }, ported [{ demoQp with state := .connecting, active := true }], _,
    _, sg (by decide +kernel), by decide +kernel, by decide +kernel, rfl⟩

theorem witness_ConnectionRowsComplete_6 : ∃ (id : _) (s : State) (c : _), ctxOf id s = some c ∧ c.state = .connecting ∧ c.active = false :=
  ⟨2, ported [{ demoQp with state := .connecting }], _, sg (by decide +kernel), by decide +kernel, by decide +kernel⟩

theorem witness_ConnectionRowsComplete_7 : ∃ (id : _) (s : State) (c : _), ctxOf id s = some c ∧ c.state = .connected :=
  ⟨2, ported [demoQp], _, sg (by decide +kernel), by decide +kernel⟩

theorem witness_ConnectionRowsComplete_8 : ∃ (id : _) (s : State) (c : _), ctxOf id s = some c ∧ c.state = .error :=
  ⟨2, ported [{ demoQp with state := .error }], _, sg (by decide +kernel), by decide +kernel⟩

theorem witness_ConnectionRowsComplete_9 : ∃ (q : _) (s : State) (c : _), qpAt q s = some c ∧ c.state = .connecting ∧ c.active = false ∧
    c.resends < 3 :=
  ⟨2, ported [{ demoQp with state := .connecting }], _, sg (by decide +kernel), by decide +kernel, by decide +kernel, by decide +kernel⟩

theorem witness_ConnectionRowsComplete_10 : ∃ (q : _) (s : State) (c : _), qpAt q s = some c ∧ c.state = .connecting ∧ c.active = false ∧
    3 ≤ c.resends :=
  ⟨2, ported [{ demoQp with state := .connecting, resends := 3 }], _, sg (by decide +kernel), by decide +kernel, by decide +kernel, by decide +kernel⟩

theorem witness_ConnectionRowsComplete_11 : ∃ (q : _) (s : State) (c : _), qpAt q s = some c ∧ c.closing = true ∧ c.state = .error :=
  ⟨2, ported [{ demoQp with state := .error, closing := true }], _, sg (by decide +kernel), by decide +kernel, by decide +kernel⟩

theorem witness_ConnectionRowsComplete_12 : ∃ (q : _) (s : State) (c : _), qpAt q s = some c ∧ c.active = true ∧ c.state = .connecting :=
  ⟨2, ported [{ demoQp with state := .connecting, active := true }], _, sg (by decide +kernel), by decide +kernel, by decide +kernel⟩

theorem witness_ConnectionRowsComplete_14 : ∃ (q : _) (s : State) (c : _) (z : _) (first : _) (next : _) (left : _) (x : _), qpAt q s = some c ∧
    c.bound = some (z, first, next, left) ∧ zoneAt z (modifyQp q (fun c => { c with bound := none, abandoned := true }) s) = some x :=
  ⟨2, modifyPorts (fun p => { p with zones := [demoZone] }) (ported [{ demoQp with bound := some (4, 0, 0, 3) }]), _, _, _, _, _, _,
    sg (by decide +kernel), sg4 (by decide +kernel), sg (by decide +kernel)⟩

theorem witness_ConnectionRowsComplete_15 : ∃ (n : _) (s : State) (z : _) (u : _), zoneDone n s = some (z, u) :=
  ⟨4, modifyPorts (fun p => { p with zones := [{ demoZone with state := .revoking }] }) demo, _, _, sg2 (by decide +kernel)⟩

theorem witness_NvmeRowsComplete_1 : ∃ (qp : _) (id : _) (b : _) (c : _) (d : _) (s : State) (t : _), AdminTaken [(0, [0x7F]), (4, [1])] qp id b c d s t ∧
    sqeOpcode c = 0x7F ∧ fieldAt c 4 1 = 1 :=
  ⟨2, _, capsuleWith 0 0 1024,
    ([(0, [0x7F]), (4, [1])].foldl (fun (b : Bytes) (x : Nat × Bytes) => overlay b x.1 x.2) (padTo (max 64 ((capsuleWith 0 0 1024) : Bytes).length) (capsuleWith 0 0 1024))),
    zeros 1024, nvState 0, _,
    nv_taken rfl (by decide +kernel) (by decide +kernel) (by decide +kernel) (by decide +kernel) (Or.inr ⟨1024, by decide +kernel, okd (by decide +kernel)⟩),
    by decide +kernel, by decide +kernel⟩

theorem witness_NvmeRowsComplete_2 : ∃ (qp : _) (id : _) (b : _) (c : _) (d : _) (k : _) (s : State) (t : _), AdminRuns [(0, [0x7F]), (4, [4])] qp id b c d k s t ∧
    sqeOpcode c = 0x7F ∧ fieldAt c 4 1 = 4 :=
  ⟨2, _, [], ([(0, [0x7F]), (4, [4])].foldl (fun (b : Bytes) (x : Nat × Bytes) => overlay b x.1 x.2) (padTo (max 64 (([]) : Bytes).length) ([]))), [],
    _, nvState 0, _,
    ⟨nv_taken rfl (by decide +kernel) (by decide +kernel) (by decide +kernel) (by decide +kernel) (Or.inl ⟨by decide +kernel, rfl⟩), sg (by decide +kernel), by decide +kernel⟩,
    by decide +kernel, by decide +kernel⟩

theorem witness_NvmeRowsComplete_3 : ∃ (qp : _) (id : _) (b : _) (c : _) (d : _) (k : _) (s : State) (t : _), AdminRuns [(0, [0x7F]), (4, [0])] qp id b c d k s t ∧
    sqeOpcode c = 0x7F ∧ fieldAt c 4 1 = 0 :=
  ⟨2, _, [], ([(0, [0x7F]), (4, [0])].foldl (fun (b : Bytes) (x : Nat × Bytes) => overlay b x.1 x.2) (padTo (max 64 (([]) : Bytes).length) ([]))), [],
    _, nvState 0, _,
    ⟨nv_taken rfl (by decide +kernel) (by decide +kernel) (by decide +kernel) (by decide +kernel) (Or.inl ⟨by decide +kernel, rfl⟩), sg (by decide +kernel), by decide +kernel⟩,
    by decide +kernel, by decide +kernel⟩

theorem witness_NvmeRowsComplete_5 : ∃ (qp : _) (id : _) (b : _) (c : _) (d : _) (k : _) (s : State) (t : _), AdminRuns [(0, [0x7F]), (4, [8])] qp id b c d k s t ∧
    sqeOpcode c = 0x7F ∧ fieldAt c 4 1 = 8 ∧ fieldAt c 40 2 = 0 :=
  ⟨2, _, [], ([(0, [0x7F]), (4, [8])].foldl (fun (b : Bytes) (x : Nat × Bytes) => overlay b x.1 x.2) (padTo (max 64 (([]) : Bytes).length) ([]))), [],
    _, nvState 0, _,
    ⟨nv_taken rfl (by decide +kernel) (by decide +kernel) (by decide +kernel) (by decide +kernel) (Or.inl ⟨by decide +kernel, rfl⟩), sg (by decide +kernel), by decide +kernel⟩,
    by decide +kernel, by decide +kernel, by decide +kernel⟩

theorem witness_NvmeRowsComplete_6 : ∃ (qp : _) (id : _) (b : _) (c : _) (d : _) (k : _) (s : State) (t : _), AdminRuns [(0, [0x06])] qp id b c d k s t ∧
    sqeOpcode c = 0x06 :=
  ⟨2, _, [], ([(0, [0x06])].foldl (fun (b : Bytes) (x : Nat × Bytes) => overlay b x.1 x.2) (padTo (max 64 (([]) : Bytes).length) ([]))), [], _,
    nvState 0, _,
    ⟨nv_taken rfl (by decide +kernel) (by decide +kernel) (by decide +kernel) (by decide +kernel) (Or.inl ⟨by decide +kernel, rfl⟩), sg (by decide +kernel), by decide +kernel⟩,
    by decide +kernel⟩

theorem witness_NvmeRowsComplete_7 : ∃ (qp : _) (id : _) (b : _) (c : _) (d : _) (k : _) (s : State) (t : _), AdminRuns [(0, [0x02])] qp id b c d k s t ∧
    sqeOpcode c = 0x02 :=
  ⟨2, _, [], ([(0, [0x02])].foldl (fun (b : Bytes) (x : Nat × Bytes) => overlay b x.1 x.2) (padTo (max 64 (([]) : Bytes).length) ([]))), [], _,
    nvState 0, _,
    ⟨nv_taken rfl (by decide +kernel) (by decide +kernel) (by decide +kernel) (by decide +kernel) (Or.inl ⟨by decide +kernel, rfl⟩), sg (by decide +kernel), by decide +kernel⟩,
    by decide +kernel⟩

theorem witness_NvmeRowsComplete_8 : ∃ (qp : _) (id : _) (b : _) (c : _) (d : _) (k : _) (s : State) (t : _), AdminRuns [(0, [0x0D]), dwByte 10 0] qp id b c d k s t ∧
    sqeOpcode c = 0x0D ∧ sqeDw 10 c % 16 = 0 :=
  ⟨2, _, capsuleWith 0 0 4096,
    ([(0, [0x0D]), dwByte 10 0].foldl (fun (b : Bytes) (x : Nat × Bytes) => overlay b x.1 x.2) (padTo (max 64 ((capsuleWith 0 0 4096) : Bytes).length) (capsuleWith 0 0 4096))),
    zeros 4096, _, nvState 0, _,
    ⟨nv_taken rfl (by decide +kernel) (by decide +kernel) (by decide +kernel) (by decide +kernel) (Or.inr ⟨4096, by decide +kernel, okd (by decide +kernel)⟩), sg (by decide +kernel), by decide +kernel⟩,
    by decide +kernel, by decide +kernel⟩

theorem witness_NvmeRowsComplete_9 : ∃ (qp : _) (id : _) (b : _) (c : _) (d : _) (k : _) (s : State) (t : _), AdminRuns [(0, [0x0D]), dwByte 10 1] qp id b c d k s t ∧
    sqeOpcode c = 0x0D ∧ sqeDw 10 c % 16 = 1 :=
  ⟨2, _, [], ([(0, [0x0D]), dwByte 10 1].foldl (fun (b : Bytes) (x : Nat × Bytes) => overlay b x.1 x.2) (padTo (max 64 (([]) : Bytes).length) ([]))),
    [], _, nvState 0, _,
    ⟨nv_taken rfl (by decide +kernel) (by decide +kernel) (by decide +kernel) (by decide +kernel) (Or.inl ⟨by decide +kernel, rfl⟩), sg (by decide +kernel), by decide +kernel⟩,
    by decide +kernel, by decide +kernel⟩

theorem witness_NvmeRowsComplete_10 : ∃ (qp : _) (id : _) (b : _) (c : _) (d : _) (k : _) (s : State) (t : _), AdminRuns [(0, [0x15]), dwByte 10 0] qp id b c d k s t ∧
    sqeOpcode c = 0x15 ∧ sqeDw 10 c % 16 = 0 :=
  ⟨2, _, capsuleWith 0 0 4096,
    ([(0, [0x15]), dwByte 10 0].foldl (fun (b : Bytes) (x : Nat × Bytes) => overlay b x.1 x.2) (padTo (max 64 ((capsuleWith 0 0 4096) : Bytes).length) (capsuleWith 0 0 4096))),
    zeros 4096, _, nvState 0, _,
    ⟨nv_taken rfl (by decide +kernel) (by decide +kernel) (by decide +kernel) (by decide +kernel) (Or.inr ⟨4096, by decide +kernel, okd (by decide +kernel)⟩), sg (by decide +kernel), by decide +kernel⟩,
    by decide +kernel, by decide +kernel⟩

theorem witness_NvmeRowsComplete_11 : ∃ (qp : _) (id : _) (b : _) (c : _) (d : _) (k : _) (s : State) (t : _), AdminRuns [(0, [0x15]), dwByte 10 1] qp id b c d k s t ∧
    sqeOpcode c = 0x15 ∧ sqeDw 10 c % 16 = 1 :=
  ⟨2, _, capsuleWith 0 0 4096,
    ([(0, [0x15]), dwByte 10 1].foldl (fun (b : Bytes) (x : Nat × Bytes) => overlay b x.1 x.2) (padTo (max 64 ((capsuleWith 0 0 4096) : Bytes).length) (capsuleWith 0 0 4096))),
    zeros 4096, _, nvState 0, _,
    ⟨nv_taken rfl (by decide +kernel) (by decide +kernel) (by decide +kernel) (by decide +kernel) (Or.inr ⟨4096, by decide +kernel, okd (by decide +kernel)⟩), sg (by decide +kernel), by decide +kernel⟩,
    by decide +kernel, by decide +kernel⟩

theorem witness_NvmeRowsComplete_12 : ∃ (qp : _) (id : _) (b : _) (c : _) (d : _) (k : _) (s : State) (t : _), AdminRuns [(0, [0x08])] qp id b c d k s t ∧
    sqeOpcode c = 0x08 :=
  ⟨2, _, [], ([(0, [0x08])].foldl (fun (b : Bytes) (x : Nat × Bytes) => overlay b x.1 x.2) (padTo (max 64 (([]) : Bytes).length) ([]))), [], _,
    nvState 0, _,
    ⟨nv_taken rfl (by decide +kernel) (by decide +kernel) (by decide +kernel) (by decide +kernel) (Or.inl ⟨by decide +kernel, rfl⟩), sg (by decide +kernel), by decide +kernel⟩,
    by decide +kernel⟩

theorem witness_NvmeRowsComplete_13 : ∃ (qp : _) (id : _) (b : _) (c : _) (d : _) (k : _) (s : State) (t : _), AdminRuns [(0, [0x09]), dwByte 10 0x02] qp id b c d k s t ∧
    sqeOpcode c = 0x09 ∧ sqeDw 10 c % 256 = 0x02 ∧ bitOf (sqeDw 10 c) 31 = false ∧ sqeDw 11 c % 32 ≤ 3 :=
  ⟨2, _, [],
    ([(0, [0x09]), dwByte 10 0x02].foldl (fun (b : Bytes) (x : Nat × Bytes) => overlay b x.1 x.2) (padTo (max 64 (([]) : Bytes).length) ([]))), [], _,
    nvState 0, _,
    ⟨nv_taken rfl (by decide +kernel) (by decide +kernel) (by decide +kernel) (by decide +kernel) (Or.inl ⟨by decide +kernel, rfl⟩), sg (by decide +kernel), by decide +kernel⟩,
    by decide +kernel, by decide +kernel, by decide +kernel, by decide +kernel⟩

theorem witness_NvmeRowsComplete_14 : ∃ (qp : _) (id : _) (b : _) (c : _) (d : _) (k : _) (s : State) (t : _) (n : _) (m : _), AdminRuns [(0, [0x09]), dwByte 10 0x07] qp id b c d k s t ∧
    sqeOpcode c = 0x09 ∧ sqeDw 10 c % 256 = 0x07 ∧ bitOf (sqeDw 10 c) 31 = false ∧ k.granted = none ∧ k.ioSeen = false ∧ sqeDw 11 c % 65536 ≠ 65535 ∧
    sqeDw 11 c / 65536 ≠ 65535 ∧ n = min (sqeDw 11 c % 65536 + 1) (paramNat 0x0F02 0 t) ∧ m = min (sqeDw 11 c / 65536 + 1) (paramNat 0x0F02 0 t) :=
  ⟨2, _, [],
    ([(0, [0x09]), dwByte 10 0x07].foldl (fun (b : Bytes) (x : Nat × Bytes) => overlay b x.1 x.2) (padTo (max 64 (([]) : Bytes).length) ([]))), [], _,
    nvState 0, _, _, _,
    ⟨nv_taken rfl (by decide +kernel) (by decide +kernel) (by decide +kernel) (by decide +kernel) (Or.inl ⟨by decide +kernel, rfl⟩), sg (by decide +kernel), by decide +kernel⟩,
    by decide +kernel, by decide +kernel, by decide +kernel, by decide +kernel, by decide +kernel, by decide +kernel, by decide +kernel, rfl, rfl⟩

theorem witness_NvmeRowsComplete_15 : ∃ (qp : _) (id : _) (b : _) (c : _) (d : _) (k : _) (s : State) (t : _) (v : _), AdminRuns [(0, [0x09]), dwByte 10 0x0B] qp id b c d k s t ∧
    sqeOpcode c = 0x09 ∧ sqeDw 10 c % 256 = 0x0B ∧ bitOf (sqeDw 10 c) 31 = false ∧ v = sqeDw 11 c ∧
    v % 256 + 256 * flagBit (bitOf v 8) + 2048 * flagBit (bitOf v 11) = v :=
  ⟨2, _, [],
    ([(0, [0x09]), dwByte 10 0x0B].foldl (fun (b : Bytes) (x : Nat × Bytes) => overlay b x.1 x.2) (padTo (max 64 (([]) : Bytes).length) ([]))), [], _,
    nvState 0, _, _,
    ⟨nv_taken rfl (by decide +kernel) (by decide +kernel) (by decide +kernel) (by decide +kernel) (Or.inl ⟨by decide +kernel, rfl⟩), sg (by decide +kernel), by decide +kernel⟩,
    by decide +kernel, by decide +kernel, by decide +kernel, rfl, by decide +kernel⟩

theorem witness_NvmeRowsComplete_16 : ∃ (qp : _) (id : _) (b : _) (c : _) (d : _) (k : _) (s : State) (t : _) (es : _), AdminRuns [(0, [0x09]), dwByte 10 0x0C] qp id b c d k s t ∧
    sqeOpcode c = 0x09 ∧ sqeDw 10 c % 256 = 0x0C ∧ bitOf (sqeDw 10 c) 31 = false ∧ es = (List.range 32).map (fun i => fieldAt d (8 * i) 8) ∧
    apstOk es = true :=
  ⟨2, _, capsuleWith 0 0 256,
    ([(0, [0x09]), dwByte 10 0x0C].foldl (fun (b : Bytes) (x : Nat × Bytes) => overlay b x.1 x.2) (padTo (max 64 ((capsuleWith 0 0 256) : Bytes).length) (capsuleWith 0 0 256))),
    zeros 256, _, nvState 0, _, _,
    ⟨nv_taken rfl (by decide +kernel) (by decide +kernel) (by decide +kernel) (by decide +kernel) (Or.inr ⟨256, by decide +kernel, okd (by decide +kernel)⟩), sg (by decide +kernel), by decide +kernel⟩,
    by decide +kernel, by decide +kernel, by decide +kernel, rfl, by decide +kernel⟩

theorem witness_NvmeRowsComplete_17 : ∃ (qp : _) (id : _) (b : _) (c : _) (d : _) (k : _) (s : State) (t : _), AdminRuns [(0, [0x09]), dwByte 10 0x0F] qp id b c d k s t ∧
    sqeOpcode c = 0x09 ∧ sqeDw 10 c % 256 = 0x0F ∧ bitOf (sqeDw 10 c) 31 = false ∧ sqeDw 11 c ≠ 0 :=
  ⟨2, _, capsuleWith 0 5 0,
    ([(0, [0x09]), dwByte 10 0x0F].foldl (fun (b : Bytes) (x : Nat × Bytes) => overlay b x.1 x.2) (padTo (max 64 ((capsuleWith 0 5 0) : Bytes).length) (capsuleWith 0 5 0))),
    [], _, nvState 0, _,
    ⟨nv_taken rfl (by decide +kernel) (by decide +kernel) (by decide +kernel) (by decide +kernel) (Or.inl ⟨by decide +kernel, rfl⟩), sg (by decide +kernel), by decide +kernel⟩,
    by decide +kernel, by decide +kernel, by decide +kernel, by decide +kernel⟩

theorem witness_NvmeRowsComplete_18 : ∃ (qp : _) (id : _) (b : _) (c : _) (d : _) (k : _) (s : State) (t : _), AdminRuns [(0, [0x0A])] qp id b c d k s t ∧
    sqeOpcode c = 0x0A ∧ sqeDw 10 c % 256 = 0x02 ∧ bitsOf (sqeDw 10 c) 10 8 = 0 :=
  ⟨2, _, capsuleWith 2 0 0,
    ([(0, [0x0A])].foldl (fun (b : Bytes) (x : Nat × Bytes) => overlay b x.1 x.2) (padTo (max 64 ((capsuleWith 2 0 0) : Bytes).length) (capsuleWith 2 0 0))),
    [], _, nvState 0, _,
    ⟨nv_taken rfl (by decide +kernel) (by decide +kernel) (by decide +kernel) (by decide +kernel) (Or.inl ⟨by decide +kernel, rfl⟩), sg (by decide +kernel), by decide +kernel⟩,
    by decide +kernel, by decide +kernel, by decide +kernel⟩

theorem witness_NvmeRowsComplete_19 : ∃ (qp : _) (id : _) (b : _) (c : _) (d : _) (k : _) (s : State) (t : _), AdminRuns [(0, [0x0C])] qp id b c d k s t ∧
    sqeOpcode c = 0x0C ∧ (t.nvme.commands.filter (fun x => x.qp == qp && x.stage == .event)).length < 16 ∧ k.events = [] :=
  ⟨2, _, [], ([(0, [0x0C])].foldl (fun (b : Bytes) (x : Nat × Bytes) => overlay b x.1 x.2) (padTo (max 64 (([]) : Bytes).length) ([]))), [], _,
    nvState 0, _,
    ⟨nv_taken rfl (by decide +kernel) (by decide +kernel) (by decide +kernel) (by decide +kernel) (Or.inl ⟨by decide +kernel, rfl⟩), sg (by decide +kernel), by decide +kernel⟩,
    by decide +kernel, by decide +kernel, by decide +kernel⟩

theorem witness_NvmeRowsComplete_20 : ∃ (qp : _) (id : _) (b : _) (c : _) (d : _) (k : _) (s : State) (t : _), AdminRuns [(0, [0x18])] qp id b c d k s t ∧
    sqeOpcode c = 0x18 :=
  ⟨2, _, [], ([(0, [0x18])].foldl (fun (b : Bytes) (x : Nat × Bytes) => overlay b x.1 x.2) (padTo (max 64 (([]) : Bytes).length) ([]))), [], _,
    nvState 0, _,
    ⟨nv_taken rfl (by decide +kernel) (by decide +kernel) (by decide +kernel) (by decide +kernel) (Or.inl ⟨by decide +kernel, rfl⟩), sg (by decide +kernel), by decide +kernel⟩,
    by decide +kernel⟩

theorem witness_NvmeRowsComplete_21 : ∃ (id : _) (s : State), (ctrlAt id s).isSome = true ∧ nvHolds false s = false :=
  ⟨1, nvState 0, by decide +kernel, by decide +kernel⟩

theorem witness_NvmeRowsComplete_22 : ∃ (id : _) (n : _) (s : State) (k : _), ctrlAt id s = some k ∧ k.apste = true ∧ k.apst.getD n 0 ≠ 0 ∧
    ioIdle id s = true :=
  ⟨1, 2, nvState 0, _, sg (by decide +kernel), by decide +kernel, by decide +kernel, by decide +kernel⟩

theorem witness_NvmeRowsComplete_23 : ∃ (qp : _) (id : _) (b : _) (f : _) (s : State) (u : _), IoTaken 2 qp id b f s u :=
  ⟨2, _, zeros 64, noFacts, nvState 1, _,
    ⟨_, _, _, _, rfl, rfl, sg (by decide +kernel), by decide +kernel, by decide +kernel, sn (by decide +kernel), rfl, by decide +kernel, rfl, by decide +kernel, by decide +kernel⟩⟩

theorem witness_NvmeRowsComplete_24 : ∃ (qp : _) (id : _) (b : _) (s : State) (u : _), IoTaken 0 qp id b .quiet s u :=
  ⟨2, _, zeros 64, nvState 1, _,
    ⟨_, _, _, _, rfl, rfl, sg (by decide +kernel), by decide +kernel, by decide +kernel, sn (by decide +kernel), rfl, by decide +kernel, rfl, by decide +kernel, by decide +kernel⟩⟩

theorem witness_NvmeRowsComplete_25 : ∃ (qp : _) (id : _) (b : _) (s : State) (u : _), IoTaken 1 qp id b .quiet s u :=
  ⟨2, _, zeros 64, nvState 1, _,
    ⟨_, _, _, _, rfl, rfl, sg (by decide +kernel), by decide +kernel, by decide +kernel, sn (by decide +kernel), rfl, by decide +kernel, rfl, by decide +kernel, by decide +kernel⟩⟩

theorem witness_NvmeRowsComplete_26 : ∃ (qp : _) (id : _) (b : _) (s : State) (u : _), IoTaken 8 qp id b .quiet s u :=
  ⟨2, _, zeros 64, nvState 1, _,
    ⟨_, _, _, _, rfl, rfl, sg (by decide +kernel), by decide +kernel, by decide +kernel, sn (by decide +kernel), rfl, by decide +kernel, rfl, by decide +kernel, by decide +kernel⟩⟩

theorem witness_NvmeRowsComplete_27 : ∃ (qp : _) (id : _) (b : _) (s : State) (u : _), IoTaken 9 qp id b .quiet s u :=
  ⟨2, _, zeros 64, nvState 1, _,
    ⟨_, _, _, _, rfl, rfl, sg (by decide +kernel), by decide +kernel, by decide +kernel, sn (by decide +kernel), rfl, by decide +kernel, rfl, by decide +kernel, by decide +kernel⟩⟩

theorem witness_NvmeRowsComplete_28 : ∃ (qp : _) (id : _) (b : _) (f : _) (s : State) (u : _), IoTaken 5 qp id b f s u :=
  ⟨2, _, zeros 64, noFacts, nvState 1, _,
    ⟨_, _, _, _, rfl, rfl, sg (by decide +kernel), by decide +kernel, by decide +kernel, sn (by decide +kernel), rfl, by decide +kernel, rfl, by decide +kernel, by decide +kernel⟩⟩

theorem witness_SheafRowsComplete_1 : ∃ (qp : _) (tag : _) (b : _) (r : _) (d : _) (s : State) (t : _), SheafRuns 1 qp tag b r .quiet d s t ∧
    bitOf (fieldAt r 8 1) 0 = true :=
  ⟨2, _, [0, 0, 0, 0, 0, 0, 0, 0, 1] ++ zeros 55, overlay ([0, 0, 0, 0, 0, 0, 0, 0, 1] ++ zeros 55) 0 (leBytes 1 1), _,
    modifyQp 2 (fun c => { c with received := [overlay ([0, 0, 0, 0, 0, 0, 0, 0, 1] ++ zeros 55) 0 (leBytes 1 1)] }) (shState), _,
    ⟨_, _, rfl, rfl, by decide +kernel, by decide, by decide +kernel, by decide +kernel, sn (by decide +kernel), rfl, by decide +kernel, rfl, by decide +kernel, sg (by decide +kernel), by decide +kernel, by decide +kernel, by decide +kernel, by decide +kernel, by decide +kernel, by decide +kernel, by decide +kernel, by decide +kernel, by decide +kernel⟩,
    by decide +kernel⟩

theorem witness_SheafRowsComplete_2 : ∃ (qp : _) (tag : _) (b : _) (r : _) (d : _) (s : State) (t : _), SheafRuns 2 qp tag b r .quiet d s t :=
  ⟨2, _, zeros 64, overlay (zeros 64) 0 (leBytes 1 2), _, modifyQp 2 (fun c => { c with received := [overlay (zeros 64) 0 (leBytes 1 2)] }) (shState),
    _,
    ⟨_, _, rfl, rfl, by decide +kernel, by decide, by decide +kernel, by decide +kernel, sn (by decide +kernel), rfl, by decide +kernel, rfl, by decide +kernel, sg (by decide +kernel), by decide +kernel, by decide +kernel, by decide +kernel, by decide +kernel, by decide +kernel, by decide +kernel, by decide +kernel, by decide +kernel, by decide +kernel⟩⟩

theorem witness_SheafRowsComplete_3 : ∃ (qp : _) (tag : _) (b : _) (r : _) (d : _) (s : State) (t : _), SheafRuns 3 qp tag b r .quiet d s t :=
  ⟨2, _, zeros 64, overlay (zeros 64) 0 (leBytes 1 3), _, modifyQp 2 (fun c => { c with received := [overlay (zeros 64) 0 (leBytes 1 3)] }) (shState),
    _,
    ⟨_, _, rfl, rfl, by decide +kernel, by decide, by decide +kernel, by decide +kernel, sn (by decide +kernel), rfl, by decide +kernel, rfl, by decide +kernel, sg (by decide +kernel), by decide +kernel, by decide +kernel, by decide +kernel, by decide +kernel, by decide +kernel, by decide +kernel, by decide +kernel, by decide +kernel, by decide +kernel⟩⟩

theorem witness_SheafRowsComplete_4 : ∃ (qp : _) (tag : _) (b : _) (r : _) (d : _) (s : State) (t : _), SheafRuns 4 qp tag b r .quiet d s t :=
  ⟨2, _, zeros 64, overlay (zeros 64) 0 (leBytes 1 4), _, modifyQp 2 (fun c => { c with received := [overlay (zeros 64) 0 (leBytes 1 4)] }) (shState),
    _,
    ⟨_, _, rfl, rfl, by decide +kernel, by decide, by decide +kernel, by decide +kernel, sn (by decide +kernel), rfl, by decide +kernel, rfl, by decide +kernel, sg (by decide +kernel), by decide +kernel, by decide +kernel, by decide +kernel, by decide +kernel, by decide +kernel, by decide +kernel, by decide +kernel, by decide +kernel, by decide +kernel⟩⟩

theorem witness_SheafRowsComplete_5 : ∃ (qp : _) (tag : _) (b : _) (r : _) (d : _) (s : State) (t : _), SheafRuns 5 qp tag b r .quiet d s t :=
  ⟨2, _, zeros 64, overlay (zeros 64) 0 (leBytes 1 5), _, modifyQp 2 (fun c => { c with received := [overlay (zeros 64) 0 (leBytes 1 5)] }) (shState),
    _,
    ⟨_, _, rfl, rfl, by decide +kernel, by decide, by decide +kernel, by decide +kernel, sn (by decide +kernel), rfl, by decide +kernel, rfl, by decide +kernel, sg (by decide +kernel), by decide +kernel, by decide +kernel, by decide +kernel, by decide +kernel, by decide +kernel, by decide +kernel, by decide +kernel, by decide +kernel, by decide +kernel⟩⟩

theorem witness_SheafRowsComplete_6 : ∃ (qp : _) (tag : _) (b : _) (r : _) (d : _) (f : _) (s : State) (t : _), SheafRuns 6 qp tag b r f d s t :=
  ⟨2, _, zeros 64, overlay (zeros 64) 0 (leBytes 1 6), _, noFacts,
    modifyQp 2 (fun c => { c with received := [overlay (zeros 64) 0 (leBytes 1 6)] }) (shState), _,
    ⟨_, _, rfl, rfl, by decide +kernel, by decide, by decide +kernel, by decide +kernel, sn (by decide +kernel), rfl, by decide +kernel, rfl, by decide +kernel, sg (by decide +kernel), by decide +kernel, by decide +kernel, by decide +kernel, by decide +kernel, by decide +kernel, by decide +kernel, by decide +kernel, by decide +kernel, by decide +kernel⟩⟩

theorem witness_SheafRowsComplete_7 : ∃ (qp : _) (tag : _) (b : _) (r : _) (d : _) (s : State) (t : _), SheafRuns 7 qp tag b r .quiet d s t :=
  ⟨2, _, zeros 64, overlay (zeros 64) 0 (leBytes 1 7), _, modifyQp 2 (fun c => { c with received := [overlay (zeros 64) 0 (leBytes 1 7)] }) (shState),
    _,
    ⟨_, _, rfl, rfl, by decide +kernel, by decide, by decide +kernel, by decide +kernel, sn (by decide +kernel), rfl, by decide +kernel, rfl, by decide +kernel, sg (by decide +kernel), by decide +kernel, by decide +kernel, by decide +kernel, by decide +kernel, by decide +kernel, by decide +kernel, by decide +kernel, by decide +kernel, by decide +kernel⟩⟩

theorem witness_SheafRowsComplete_8 : ∃ (qp : _) (tag : _) (b : _) (r : _) (d : _) (s : State) (t : _), SheafRuns 8 qp tag b r .quiet d s t :=
  ⟨2, _, zeros 64, overlay (zeros 64) 0 (leBytes 1 8), _, modifyQp 2 (fun c => { c with received := [overlay (zeros 64) 0 (leBytes 1 8)] }) (shState),
    _,
    ⟨_, _, rfl, rfl, by decide +kernel, by decide, by decide +kernel, by decide +kernel, sn (by decide +kernel), rfl, by decide +kernel, rfl, by decide +kernel, sg (by decide +kernel), by decide +kernel, by decide +kernel, by decide +kernel, by decide +kernel, by decide +kernel, by decide +kernel, by decide +kernel, by decide +kernel, by decide +kernel⟩⟩

theorem witness_SheafRowsComplete_9 : ∃ (qp : _) (tag : _) (b : _) (r : _) (d : _) (s : State) (t : _), SheafRuns 9 qp tag b r .quiet d s t :=
  ⟨2, _, zeros 64, overlay (zeros 64) 0 (leBytes 1 9), _, modifyQp 2 (fun c => { c with received := [overlay (zeros 64) 0 (leBytes 1 9)] }) (shState),
    _,
    ⟨_, _, rfl, rfl, by decide +kernel, by decide, by decide +kernel, by decide +kernel, sn (by decide +kernel), rfl, by decide +kernel, rfl, by decide +kernel, sg (by decide +kernel), by decide +kernel, by decide +kernel, by decide +kernel, by decide +kernel, by decide +kernel, by decide +kernel, by decide +kernel, by decide +kernel, by decide +kernel⟩⟩

theorem witness_SheafRowsComplete_10 : ∃ (qp : _) (tag : _) (b : _) (r : _) (d : _) (s : State) (t : _) (o : _) (m : _) (u : _) (q : _), SheafRuns 10 qp tag b r .quiet d s t ∧
    versionOf d.id r t = some o ∧ holdCheck d.id (fieldAt r 0x28 8) o.holdUntil t = .ok true ∧
    place (leNat (o.key.take 1) % 4) (.object { o with holdFlags := o.holdFlags ||| 1, holdUntil := fieldAt r 0x28 8 }) (takeStamp (leNat (o.key.take 1) % 4) (countSheaf (fun k => { k with holds := bump k.holds }) t)).2 = (q, m, u) :=
  ⟨2, _, [0, 1] ++ zeros 6 ++ leBytes 8 9 ++ zeros 24 ++ leBytes 8 5000 ++ zeros 16,
    overlay ([0, 1] ++ zeros 6 ++ leBytes 8 9 ++ zeros 24 ++ leBytes 8 5000 ++ zeros 16) 0 (leBytes 1 10), _,
    modifyQp 2 (fun c => { c with received := [overlay ([0, 1] ++ zeros 6 ++ leBytes 8 9 ++ zeros 24 ++ leBytes 8 5000 ++ zeros 16) 0 (leBytes 1 10)] }) (atTime 1000 (modifyMap (fun m => { m with objects := [demoObject] }) shState)),
    _, _, _, _, _,
    ⟨_, _, rfl, rfl, by decide +kernel, by decide, by decide +kernel, by decide +kernel, sn (by decide +kernel), rfl, by decide +kernel, rfl, by decide +kernel, sg (by decide +kernel), by decide +kernel, by decide +kernel, by decide +kernel, by decide +kernel, by decide +kernel, by decide +kernel, by decide +kernel, by decide +kernel, by decide +kernel⟩,
    sg (by decide +kernel), rfl, rfl⟩

theorem witness_SheafRowsComplete_11 : ∃ (qp : _) (tag : _) (b : _) (r : _) (d : _) (s : State) (t : _) (o : _) (m : _) (u : _) (q : _), SheafRuns 11 qp tag b r .quiet d s t ∧
    versionOf d.id r t = some o ∧ o.holdUntil ≤ arrayTime t ∧
    place (leNat (o.key.take 1) % 4) (.object { o with holdFlags := 0, holdUntil := 0 }) (takeStamp (leNat (o.key.take 1) % 4) t).2 = (q, m, u) :=
  ⟨2, _, [0, 1] ++ zeros 6 ++ leBytes 8 9 ++ zeros 48, overlay ([0, 1] ++ zeros 6 ++ leBytes 8 9 ++ zeros 48) 0 (leBytes 1 11), _,
    modifyQp 2 (fun c => { c with received := [overlay ([0, 1] ++ zeros 6 ++ leBytes 8 9 ++ zeros 48) 0 (leBytes 1 11)] }) (atTime 1000 (modifyMap (fun m => { m with objects := [demoObject] }) shState)),
    _, _, _, _, _,
    ⟨_, _, rfl, rfl, by decide +kernel, by decide, by decide +kernel, by decide +kernel, sn (by decide +kernel), rfl, by decide +kernel, rfl, by decide +kernel, sg (by decide +kernel), by decide +kernel, by decide +kernel, by decide +kernel, by decide +kernel, by decide +kernel, by decide +kernel, by decide +kernel, by decide +kernel, by decide +kernel⟩,
    sg (by decide +kernel), by decide +kernel, rfl⟩

theorem witness_SheafRowsComplete_12 : ∃ (qp : _) (put : _) (s : State) (p : _), putAt qp put s = some p ∧ shQuiesced 3 s = false :=
  ⟨2, 5, { shState with sheaf := { shState.sheaf with puts := [demoPut] } }, _, sg (by decide +kernel), by decide +kernel⟩

theorem witness_StoreRowsComplete_1 : ∃ (a : _) (e : _) (s : State) (l : _), cacheHit (lineOf a) s = some l ∧ e < 2 :=
  ⟨0, 0, inMem (fun m => { m with lines := [demoLine] }), _, sg (by decide +kernel), by decide +kernel⟩

theorem witness_StoreRowsComplete_2 : ∃ (a : _) (s : State), cacheHit (lineOf a) s = none :=
  ⟨0, demo, by decide +kernel⟩

theorem witness_StoreRowsComplete_3 : ∃ (a : _) (s : State) (u : _), prefetchOn s = true ∧ cacheHit (lineOf a) s = none ∧
    sideHit (lineOf a) s = none ∧ victimHit (lineOf a) s = none ∧
    u = rebuildLine (lineOf a) (countSlice (sliceOf (lineOf a)) (fun c => { c with prefetches := bump c.prefetches }) s) :=
  ⟨0, demo, _, by decide +kernel, by decide +kernel, by decide +kernel, by decide +kernel, rfl⟩

theorem witness_StoreRowsComplete_4 : ∃ (s : State), s.mem.mcState = .disabling :=
  ⟨inMem (fun m => { m with mcState := .disabling }), by decide +kernel⟩

theorem witness_StoreRowsComplete_5 : ∃ (w : _) (s : State), s.mem.wayGoing.getLsbD w = true :=
  ⟨0, inMem (fun m => { m with wayGoing := 1 }), by decide +kernel⟩

theorem witness_StoreRowsComplete_6 : ∃ (unit : _) (e : _) (arena : _) (len : _) (s : State) (pool : _) (h : _) (u : _), poolFor len = some pool ∧
    epochDead e s = false ∧ ((provisionalFor e s).isSome = true → listLow (granaryReserve s) (gList arena pool s) = false) ∧
    (gList arena pool s).cut = false ∧ freeNow (gList arena pool s) ≠ 0 ∧ (gList arena pool s).waiters = [] ∧
    takeBuffer arena pool unit (provisionalFor e s) s = (some h, u) :=
  ⟨0, none, 2, 3, demo, _, _, _, sg (by decide +kernel), by decide +kernel, by decide +kernel, by decide +kernel, by decide +kernel,
    by decide +kernel, sp (by decide +kernel)⟩

theorem witness_StoreRowsComplete_7 : ∃ (h : _) (s : State), isStale h s = true :=
  ⟨0xFFFFFFFF, demo, by decide +kernel⟩

theorem witness_StoreRowsComplete_8 : ∃ (unit : _) (h : _) (r : _) (s : State) (hd : _), hd = gHeader (hPool h) (hIndex h) s ∧ isStale h s = false ∧
    hd.refcount ≠ 0 ∧ isForeign unit h s = false ∧ hd.prov = none ∧ hd.refcount ≠ 0xFFFF ∧ unitClass r = some 0 :=
  ⟨0x2D, heldBuffer, 0, withBuffer, _, rfl, by decide +kernel, by decide +kernel, by decide +kernel, by decide +kernel, by decide +kernel,
    by decide +kernel⟩

theorem witness_StoreRowsComplete_9 : ∃ (unit : _) (h : _) (s : State) (hd : _), hd = gHeader (hPool h) (hIndex h) s ∧ isStale h s = false ∧
    isForeign unit h s = false ∧ 1 < hd.refcount :=
  ⟨0x2D, heldBuffer,
    setGHeader (hPool heldBuffer) (hIndex heldBuffer) { gHeader (hPool heldBuffer) (hIndex heldBuffer) withBuffer with refcount := 2 } withBuffer, _,
    rfl, by decide +kernel, by decide +kernel, by decide +kernel⟩

theorem witness_StoreRowsComplete_10 : ∃ (unit : _) (h : _) (s : State) (hd : _), hd = gHeader (hPool h) (hIndex h) s ∧ isStale h s = false ∧
    isForeign unit h s = false ∧ hd.refcount = 1 :=
  ⟨0x2D, heldBuffer, withBuffer, _, rfl, by decide +kernel, by decide +kernel, by decide +kernel⟩

theorem witness_StoreRowsComplete_11 : ∃ (arena : _) (pool : _) (s : State) (w : _), (gList arena pool s).waiters.find? (fun w => !w.long) = some w :=
  ⟨0, 0, modifyList 0 0 (fun l => { l with waiters := [⟨0, none, 3, 0, false⟩] }) demo, _, sg (by decide +kernel)⟩

theorem witness_StoreRowsComplete_12 : ∃ (arena : _) (pool : _) (s : State) (l : _) (fr : _) (u : _), l = gList arena pool s ∧ l.cut = true ∧
    fr = ((List.range l.fresh).map (fun i => l.base + i)).filter (fun i => (gHeader pool i s).refcount == 0) ∧
    u = (List.range fr.length).foldl (fun st k => nearWrite (bufferAddr arena pool (fr.getD k 0) st) (listWords pool (fr.getD k 0) (fr.getD (k + 1) (listHead { l with stack := [] }))) st) s :=
  ⟨0, 0, modifyList 0 0 (fun l => { l with cut := true, fresh := 1 }) demo, _, _, _, rfl, by decide +kernel, rfl, rfl⟩

theorem witness_StoreRowsComplete_13 : ∃ (c : _) (s : State) (f : _), (dmaAt c s).running = some f ∧ dmaOp f.desc = 1 ∧ dmaCheck c f s = none :=
  ⟨0, running 1, _, sg (by decide +kernel), by decide +kernel, by decide +kernel⟩

theorem witness_StoreRowsComplete_14 : ∃ (c : _) (ctx : DmaContext) (s : State) (f : _), (dmaAt c s).running = some f ∧ dmaOp f.desc = 2 ∧
    dmaCheck c f s = none ∧ ctx.error = none :=
  ⟨0, demoCtx, running 2, _, sg (by decide +kernel), by decide +kernel, by decide +kernel, by decide +kernel⟩

theorem witness_StoreRowsComplete_15 : ∃ (c : _) (ctx : DmaContext) (s : State) (f : _) (a : _) (b : _) (u : _) (v : _), (dmaAt c s).running = some f ∧
    dmaOp f.desc = 3 ∧ dmaCheck c f s = none ∧ ctx.error = none ∧ spaceRead (dmaSrcSpace f.desc) f.desc.src.toNat f.desc.len ctx.hostSrc s = (a, u) ∧
    spaceRead (dmaDstSpace f.desc) f.desc.dst.toNat f.desc.len ctx.hostDst u = (b, v) :=
  ⟨0, demoCtx, running 3, _, _, _, _, _, sg (by decide +kernel), by decide +kernel, by decide +kernel, by decide +kernel, rfl, rfl⟩

theorem witness_StoreRowsComplete_16 : ∃ (c : _) (n : _) (s : State), (hostChannel c && s.mci.perstLow) = false ∧ (dmaAt c s).size ≤ n :=
  ⟨0, 8, running 1, by decide +kernel, by decide +kernel⟩

theorem witness_StoreRowsComplete_17 : ∃ (c : _) (n : _) (s : State), (hostChannel c && s.mci.perstLow) = false ∧ n < (dmaAt c s).size ∧
    isQuiesced (dmaGroup c) s = true :=
  ⟨0, 3, quiet [0x40, 0x41, 0x42, 0x43, 0x44] (running 1), by decide +kernel, by decide +kernel, by decide +kernel⟩

theorem witness_StoreRowsComplete_18 : ∃ (c : _) (n : _) (s : State), (hostChannel c && s.mci.perstLow) = false ∧ n < (dmaAt c s).size ∧
    isQuiesced (dmaGroup c) s = false :=
  ⟨0, 3, running 1, by decide +kernel, by decide +kernel, by decide +kernel⟩

theorem witness_StoreRowsComplete_19 : ∃ (c : _) (s : State), (hostChannel c && s.mci.perstLow) = false ∧ (dmaAt c s).idle = true :=
  ⟨1, demo, by decide +kernel, by decide +kernel⟩

theorem witness_StoreRowsComplete_20 : ∃ (c : _) (s : State), (hostChannel c && s.mci.perstLow) = false ∧ (dmaAt c s).running = none :=
  ⟨1, demo, by decide +kernel, by decide +kernel⟩

theorem witness_StoreRowsComplete_21 : ∃ (c : _) (s : State), (dmaAt c s).enable = false :=
  ⟨1, demo, by decide +kernel⟩

theorem witness_StoreRowsComplete_22 : ∃ (c : _) (s : State), (hostChannel c && s.mci.perstLow) = false :=
  ⟨1, demo, by decide +kernel⟩

theorem witness_RingRowsComplete_1 : ∃ (off : _) (s : State), s.mci.perstLow = false ∧ off % 4 = 0 :=
  ⟨0x1008, demo, by decide +kernel, by decide +kernel⟩

theorem witness_RingRowsComplete_2 : ∃ (off : _) (s : State), s.mci.perstLow = false ∧ off % 8 = 0 :=
  ⟨0x1000, demo, by decide +kernel, by decide +kernel⟩

theorem witness_RingRowsComplete_4 : ∃ (n : Nat) (s : State) (r : CmdRing), s.mci.rings[n]? = some r ∧ n < 16 :=
  ⟨15, demo, _, sg (by decide +kernel), by decide +kernel⟩

theorem witness_RingRowsComplete_5 : ∃ (n : _) (c : _) (s : State), n < 16 ∧ c = dmaAt (240 + n) s :=
  ⟨15, _, demo, by decide +kernel, rfl⟩

theorem witness_RingRowsComplete_6 : ∃ (n : Nat) (tail : _) (s : State) (r : CmdRing), s.mci.rings[n]? = some r ∧ s.mci.perstLow = false ∧
    r.size ≤ tail :=
  ⟨0, 2 ^ 20, demo, _, sg (by decide +kernel), by decide +kernel, by decide +kernel⟩

theorem witness_RingRowsComplete_7 : ∃ (n : Nat) (tail : _) (s : State) (r : CmdRing), s.mci.rings[n]? = some r ∧ s.mci.perstLow = false ∧
    tail < r.size ∧ s.boot.mode ≠ .dump :=
  ⟨0, 3, modifyRing 0 (fun r => { r with size := 8 }) demo, _, sg (by decide +kernel), by decide +kernel, by decide +kernel, by decide +kernel⟩

theorem witness_RingRowsComplete_8 : ∃ (s : State), s.mci.perstLow = false :=
  ⟨demo, by decide +kernel⟩

theorem witness_RingRowsComplete_9 : ∃ (n : _) (s : State), s.boot.ready = true ∧ s.mci.perstLow = false ∧ n < 16 :=
  ⟨15, modifyBoot (fun b => { b with ready := true }) demo, by decide +kernel, by decide +kernel, by decide +kernel⟩

theorem witness_RingRowsComplete_10 : ∃ (s : State), s.boot.ready = true ∧ s.mci.perstLow = false :=
  ⟨modifyBoot (fun b => { b with ready := true }) demo, by decide +kernel, by decide +kernel⟩

theorem witness_RingRowsComplete_11 : ∃ (n : _) (s : State), s.mci.perstLow = false ∧ n < 16 :=
  ⟨15, demo, by decide +kernel, by decide +kernel⟩

theorem witness_RingRowsComplete_13 : ∃ (n : Nat) (s : State) (r : CmdRing) (w : _), s.mci.rings[n]? = some r ∧ r.watch = some w ∧ w.timeout ≠ 0 :=
  ⟨0, modifyRing 0 (fun r => { r with watch := some demoWatch }) demo, _, _, sg (by decide +kernel), sg (by decide +kernel), by decide +kernel⟩

theorem witness_RingRowsComplete_14 : ∃ (f : _) (s : State), s.mci.quiescing.contains f = true ∧ quiesceReached f s = true :=
  ⟨0x44, { demo with mci := { resetMci with quiescing := [0x44] } }, by decide +kernel, by decide +kernel⟩

theorem witness_RingRowsComplete_18 : ∃ (row : _) (s : State) (r : _) (u : _), s.journal.rows.find? (fun x => x.id == row) = some r ∧
    r.units.any (fun u => u.utype == 11) = true ∧ u = rowCommit row s ∧ u.journal.rows.any (fun x => x.id == row) = false :=
  ⟨3, { demo with journal := { demo.journal with rows := [⟨3, 5, 0, 0, [⟨11, 0, 0, 0, [], .almanac 0 0⟩], [], false⟩] } }, _, _,
    sg (by decide +kernel), by decide +kernel, rfl, by decide +kernel⟩

theorem witness_RingRowsComplete_19 : ∃ (s : State) (m : _), s.fw.manifest = some m ∧ s.fw.state = 3 ∧ s.fw.step = 3 ∧ s.fw.sectors = 0 :=
  ⟨{ demo with fw := { resetFw with state := 3, step := 3, sectors := 0, manifest := some demoManifest } }, _, sg (by decide +kernel),
    by decide +kernel, by decide +kernel, by decide +kernel⟩

theorem witness_ResetAndBootRowsComplete_1 : ∃ (s : State) (u : _), u = inReset .powerOn s :=
  ⟨demo, _, rfl⟩

theorem witness_ResetAndBootRowsComplete_6 : ∃ (s : State) (rs : _), rs = s.mci.rings.map (fun r => { resetRing with fetched := r.fetched, nonce := r.nonce, watch := r.watch }) :=
  ⟨demo, _, rfl⟩

theorem witness_ResetAndBootRowsComplete_7 : ∃ (r : StepReport) (s : State) (u : _), (s.boot.mode = .boot ∨ s.boot.mode = .inventory) ∧
    s.boot.stepOpen = true ∧ s.boot.quietStop = false ∧ statusOk r.result = true ∧ stepWork s.boot.step r s = (true, u) :=
  ⟨demoReport 0, inBoot 3 id demo, _, by decide +kernel, by decide +kernel, by decide +kernel, by decide +kernel, sn (by decide +kernel)⟩

theorem witness_ResetAndBootRowsComplete_8 : ∃ (r : StepReport) (s : State), (s.boot.mode = .boot ∨ s.boot.mode = .inventory) ∧
    s.boot.stepOpen = true ∧ s.boot.quietStop = false ∧ statusOk r.result = false :=
  ⟨demoReport stInternal, inBoot 3 id demo, by decide +kernel, by decide +kernel, by decide +kernel, by decide +kernel⟩

theorem witness_ResetAndBootRowsComplete_9 : ∃ (s : State), (s.boot.mode = .boot ∨ s.boot.mode = .inventory) ∧ s.boot.stepOpen = true ∧
    bounded s = true :=
  ⟨inBoot 3 id demo, by decide +kernel, by decide +kernel, by decide +kernel⟩

theorem witness_ResetAndBootRowsComplete_10 : ∃ (s : State), s.boot.mode = .recovery :=
  ⟨inMode .recovery demo, by decide +kernel⟩

theorem witness_ResetAndBootRowsComplete_11 : ∃ (s : State) (u : _), s.boot.pwrFailAccepted = false ∧ s.boot.mode ≠ .dump ∧ mayDump s = true ∧
    u = modifyBoot (fun b => { b with pwrFailAccepted := true, pwrFailLow := true }) s :=
  ⟨demo, _, by decide +kernel, by decide +kernel, by decide +kernel, rfl⟩

theorem witness_ResetAndBootRowsComplete_12 : ∃ (s : State) (u : _), s.boot.pwrFailAccepted = false ∧ s.boot.mode ≠ .dump ∧ mayDump s = false ∧
    u = modifyBoot (fun b => { b with pwrFailAccepted := true, pwrFailLow := true }) s :=
  ⟨inMode .fallow demo, _, by decide +kernel, by decide +kernel, by decide +kernel, rfl⟩

theorem witness_ResetAndBootRowsComplete_13 : ∃ (s : State), s.boot.pwrFailAccepted = false :=
  ⟨demo, by decide +kernel⟩

theorem witness_ResetAndBootRowsComplete_14 : ∃ (s : State), s.boot.pwrFailAccepted = true ∧ s.boot.pwrFailLow = false ∧ s.boot.mode ≠ .dump ∧
    s.boot.quietStop = true :=
  ⟨modifyBoot (fun b => { b with pwrFailAccepted := true, quietStop := true }) (inMode .fallow demo), by decide +kernel, by decide +kernel,
    by decide +kernel, by decide +kernel⟩

theorem witness_ResetAndBootRowsComplete_15 : ∃ (s : State) (d : _), s.media.dumped = some d ∧ s.boot.mode = .dump ∧ s.boot.dumpEnd = false ∧
    d.broken = false ∧ d.bales = [] :=
  ⟨modifyMedia (fun m => { m with dumped := some demoImage }) (inMode .dump demo), _, sg (by decide +kernel), by decide +kernel, by decide +kernel,
    by decide +kernel, by decide +kernel⟩

theorem witness_PowerRowsComplete_1 : ∃ (ns : List Nat) (s : State) (u : _), u = modifyTime (fun t => { t with pace := (List.range t.pace.length).map (fun q => paceStep (t.pace.getD q resetPace) (ns.getD q 0)) }) s ∧
    lowestPace u.time.pace = none :=
  ⟨[], modifyTime (fun t => { t with pace := List.replicate 4 { resetPace with parked := true } }) demo, _, rfl, by decide +kernel⟩

theorem witness_PowerRowsComplete_2 : ∃ (ns : List Nat) (s : State) (u : _) (q : _) (v : _), u = modifyTime (fun t => { t with pace := (List.range t.pace.length).map (fun q => paceStep (t.pace.getD q resetPace) (ns.getD q 0)) }) s ∧
    lowestPace u.time.pace = some (q, v) :=
  ⟨[], demo, _, _, _, rfl, sg2 (by decide +kernel)⟩

theorem witness_PowerRowsComplete_3 : ∃ (s : State), s.time.resumed = true :=
  ⟨atTime 5 demo, by decide +kernel⟩

theorem witness_PowerRowsComplete_5 : ∃ (n : Nat) (s : State) (u : _), s.thermal.limit = none ∧
    u = modifyThermal (fun t => { t with energyMj := satAdd 64 t.energyMj n }) s ∧ stewardRuns u = true :=
  ⟨0, modifyBoot (fun b => { b with loader := false }) demo, _, by decide +kernel, rfl, by decide +kernel⟩

theorem witness_PowerRowsComplete_6 : ∃ (n : _) (s : State) (u : _), s.thermal.limit.isSome = true ∧ stewardRuns s = false ∧
    u = modifyThermal (fun t => { t with energyMj := satAdd 64 t.energyMj n, throttleMs := satAdd 64 t.throttleMs 10 }) s :=
  ⟨0, modifyThermal (fun t => { t with limit := some 1 }) (inBoot 3 (fun b => { b with loader := true }) demo), _, by decide +kernel,
    by decide +kernel, rfl⟩

theorem witness_PowerRowsComplete_7 : ∃ (mean : Int) (n : _), lifeRow Config.gradeL mean = some n :=
  ⟨640, if Config.gradeL then 414 else 471, rfl⟩

theorem witness_PowerRowsComplete_9 : ∃ (v : _) (mv : _) (ns : _) (s : State), outsideRange v mv s = true ∧ 1000 ≤ ns ∧ ns < 100000 :=
  ⟨.vsram, 700, 1000, demo, by decide +kernel, by decide +kernel, by decide +kernel⟩

theorem witness_PowerRowsComplete_10 : ∃ (v : _) (mv : _) (ns : _) (s : State) (u : _), outsideRange v mv s = true ∧
    u = modifyThermal (fun t => { t with supplyExcursions := bump t.supplyExcursions }) s ∧ beyondRange v mv s = true ∧ 100000 ≤ ns :=
  ⟨.vsram, 700, 100000, demo, _, by decide +kernel, rfl, by decide +kernel, by decide +kernel⟩

theorem witness_PowerRowsComplete_13 : ∃ (n : _) (s : State), s.flash.lastWrite.getD n 0 + 1826 * 24 * 4096 ≤ opTime s :=
  ⟨0, { demo with time := { demo.time with ticks := 2 ^ 60 } }, by decide +kernel⟩

theorem witness_PinRowsComplete_1 : ∃ (s : State) (w : _), s.smbus.latched = some w :=
  ⟨{ demo with smbus := { demo.smbus with latched := some 5 } }, _, sg (by decide +kernel)⟩

theorem witness_PinRowsComplete_3 : ∃ (c : BitVec 8) (s : State) (w : _), smbusWord c.toNat s = some w :=
  ⟨0xFE, demo, _, sg (by decide +kernel)⟩

theorem witness_PinRowsComplete_4 : ∃ (c : BitVec 8) (s : State), smbusWord c.toNat s = none :=
  ⟨0x20, demo, by decide +kernel⟩

theorem witness_PinRowsComplete_6 : ∃ (s : State), alertLow s = true :=
  ⟨modifyThermal (fun t => { t with tripLatched := true }) demo, by decide +kernel⟩

theorem witness_PinRowsComplete_7 : ∃ (s : State), alertLow s = false :=
  ⟨demo, by decide +kernel⟩

theorem witness_PinRowsComplete_8 : ∃ (r : Readings) (s : State) (u : _), u = modifyThermal (fun t => { t with tjQ := r.tjQ, tempHbm := r.tempHbm, tempVault := r.tempVault, powerMw := r.powerMw, vcoreMv := r.vcoreMv }) s :=
  ⟨⟨[], [], 0, 0, 0⟩, demo, _, rfl⟩

theorem witness_PinRowsComplete_12 : ∃ (c : Instr) (i : JtagInstr), ((c, i) = (.extest, .extest) ∨ (c, i) = (.extestPulse, .extestPulse) ∨ (c, i) = (.extestTrain, .extestTrain) ∨ (c, i) = (.clamp, .clamp) ∨ (c, i) = (.highz, .highz)) :=
  ⟨.clamp, .clamp, by decide +kernel⟩

theorem witness_FrontCommandRuns_1 : ∃ (c : _) (rest : _) (s : State), s.pending = c :: rest :=
  ⟨.bypass, [.idcode], { demo with pending := [.bypass, .idcode] }, by decide +kernel⟩

theorem witness_IdleStepIsOneTick_1 : ∃ (s : State), s.pending = [] :=
  ⟨demo, by decide +kernel⟩

theorem witness_QueueRunsInOrder_1 : ∃ (n : _) (s : State), n ≤ s.pending.length :=
  ⟨2, { demo with pending := [.bypass, .idcode] }, by decide +kernel⟩

theorem witness_TapSafeKept_1 : ∃ (s : State) (t : _), TapSafe s ∧ step s = .next t :=
  ⟨{ demo with pending := [.clamp] }, _, Or.inr (Or.inl (by decide +kernel)), rfl⟩

theorem witness_TapInstructionsAreBounded_1 : ∃ (c : Instr) (i : JtagInstr), (c, i) ∈ [(Instr.extest, JtagInstr.extest), (.extestPulse, .extestPulse), (.extestTrain, .extestTrain), (.clamp, .clamp), (.highz, .highz)] :=
  ⟨.clamp, .clamp, by decide +kernel⟩

theorem witness_TapInstructionsAreBounded_2 : ∃ (c : Instr) (i : JtagInstr) (s : State), (c, i) ∈ [(Instr.extest, JtagInstr.extest), (.extestPulse, .extestPulse), (.extestTrain, .extestTrain), (.clamp, .clamp), (.highz, .highz)] ∧
    s.boot.resetLow = true :=
  ⟨.clamp, .clamp, modifyBoot (fun b => { b with resetLow := true }) demo, by decide +kernel, by decide +kernel⟩

theorem witness_TapInstructionsAreBounded_3 : ∃ (c : Instr) (i : JtagInstr) (s : State), (c, i) ∈ [(Instr.extest, JtagInstr.extest), (.extestPulse, .extestPulse), (.extestTrain, .extestTrain), (.clamp, .clamp), (.highz, .highz)] ∧
    s.boot.resetLow = false :=
  ⟨.clamp, .clamp, demo, by decide +kernel, by decide +kernel⟩

theorem witness_TapInstructionsAreBounded_4 : ∃ (c : Instr) (i : JtagInstr), (c, i) ∈ [(Instr.bypass, JtagInstr.bypass), (.idcode, .idcode), (.samplePreload, .samplePreload)] :=
  ⟨.idcode, .idcode, by decide +kernel⟩

theorem witness_TapInstructionsAreBounded_5 : ∃ (c : Instr) (strap : _), (c = .powerOnReset false strap ∨ c = .pinReset false strap) :=
  ⟨.pinReset false true, true, Or.inr rfl⟩

theorem witness_TapInstructionsAreBounded_6 : ∃ (c : Instr), c ∈ [Instr.bypass, .idcode, .samplePreload, .extest, .extestPulse, .extestTrain, .clamp, .highz] :=
  ⟨.bypass, by decide +kernel⟩

theorem witness_TimeBaseRunsOn_1 : ∃ (held : _) (strap : _) (s : State) (t : _), exec (.powerOnReset held strap) s = .next t :=
  ⟨false, true, demo, _, rfl⟩

theorem witness_TimeBaseRunsOn_2 : ∃ (c : _) (s : State) (t : _), (∀ held strap, c ≠ .powerOnReset held strap) ∧ exec c s = .next t :=
  ⟨.bypass, demo, _, by simp, rfl⟩

theorem witness_TimeBaseRunsOn_3 : ∃ (s : State) (t : _), s.pending = [] ∧ step s = .next t :=
  ⟨demo, _, by decide +kernel, rfl⟩

theorem witness_PowerCyclesCounted_1 : ∃ (strap : _) (s : State) (t : _), exec (.powerOnReset false strap) s = .next t :=
  ⟨true, demo, _, rfl⟩

theorem witness_PowerCyclesCounted_2 : ∃ (c : _) (s : State) (t : _), (∀ strap, c ≠ .powerOnReset false strap) ∧ exec c s = .next t :=
  ⟨.pinReset false true, demo, _, by simp, rfl⟩

theorem witness_HeadIdSampledAtReset_1 : ∃ (c : Instr) (strap : _) (s : State) (t : _), (c = .powerOnReset false strap ∨ c = .pinReset false strap) ∧
    exec c s = .next t :=
  ⟨.pinReset false true, true, demo, _, Or.inr rfl, rfl⟩

theorem witness_HeadIdSampledAtReset_2 : ∃ (c : _) (s : State) (t : _), (∀ strap, c ≠ .powerOnReset false strap ∧ c ≠ .pinReset false strap) ∧
    exec c s = .next t :=
  ⟨.bypass, demo, _, by simp, rfl⟩

theorem witness_VaultChangesOnlyByItsRows_1 : ∃ (c : _) (s : State) (t : _), exec c s = .next t :=
  ⟨.vauxLoss, demo, _, rfl⟩

theorem witness_VauxLossLosesTheGauntlet_2 : ∃ (s : State), s.vault.vaux = false :=
  ⟨{ demo with vault := { demo.vault with vaux := false } }, by decide +kernel⟩

theorem witness_ThermtripLatchStands_2 : ∃ (c : _) (s : State) (t : _), s.thermal.tripLatched = true ∧ exec c s = .next t ∧
    (∀ held strap, c ≠ .powerOnReset held strap) :=
  ⟨.pinReset false true, modifyThermal (fun t => { t with tripLatched := true }) demo, _, by decide +kernel, rfl, by simp⟩

theorem witness_ThermtripLatchStands_3 : ∃ (strap : _) (s : State) (t : _), exec (.powerOnReset false strap) s = .next t :=
  ⟨true, demo, _, rfl⟩

theorem witness_LifeUsedNeverFalls_1 : ∃ (c : _) (s : State) (t : _), s.thermal.lifeUsed < 2 ^ 64 ∧ exec c s = .next t :=
  ⟨.lifeUsedHour 640, demo, _, by decide +kernel, rfl⟩

theorem witness_LifeUsedNeverFalls_3 : ∃ (c : _) (s : State) (t : _), s.thermal.lifeUsed < 2 ^ 64 ∧ exec c s = .next t ∧
    t.thermal.lifeUsed ≠ s.thermal.lifeUsed :=
  ⟨.lifeUsedHour 640, demo, _, by decide +kernel, rfl,
    (by show satAdd 64 0 (lifeShare Config.gradeL 640) ≠ 0; unfold lifeShare; generalize Config.gradeL = g; cases g <;> simp [lifeRow, satAdd])⟩

theorem witness_ResetsLoseTheStores_1 : ∃ (c : Instr) (s : State) (t : _), (∃ strap, c = .powerOnReset true strap ∨ c = .pinReset true strap) ∧
    exec c s = .next t :=
  ⟨.pinReset true false, demo, _, ⟨false, Or.inr rfl⟩, rfl⟩

theorem witness_ReleaseEndsAtItsFirstFailure_1 : ∃ (h : _) (s : State) (hd : _) (a : _) (n : _), hd = gHeader (hPool h) (hIndex h) s ∧
    a = counterList h s ∧ n = hPool h ∧ isStale h s = true :=
  ⟨0xFFFFFFFF, demo, _, _, _, rfl, rfl, rfl, by decide +kernel⟩

theorem witness_ReleaseEndsAtItsFirstFailure_2 : ∃ (unit : _) (h : _) (s : State) (hd : _) (a : _) (n : _), hd = gHeader (hPool h) (hIndex h) s ∧
    a = counterList h s ∧ n = hPool h ∧ isStale h s = false ∧ isForeign unit h s = true :=
  ⟨0, heldBuffer, withBuffer, _, _, _, rfl, rfl, rfl, by decide +kernel, by decide +kernel⟩

theorem witness_ReleaseEndsAtItsFirstFailure_3 : ∃ (unit : _) (h : _) (e : _) (s : State) (hd : _) (a : _) (n : _), hd = gHeader (hPool h) (hIndex h) s ∧
    a = counterList h s ∧ n = hPool h ∧ isStale h s = false ∧ isForeign unit h s = false ∧ hd.refcount = 0 ∧ namesEpoch hd e s = true :=
  ⟨0x2D, heldBuffer, some demoEpoch,
    modifyHarrow 0 (fun x => { x with epochs := [(0, { state := .squashed, gen := 1, live := 0, handles := [], chunkId := none })] }) (setGHeader (hPool heldBuffer) (hIndex heldBuffer) { gHeader (hPool heldBuffer) (hIndex heldBuffer) withBuffer with refcount := 0, prov := some demoEpoch } withBuffer),
    _, _, _, rfl, rfl, rfl, by decide +kernel, by decide +kernel, by decide +kernel, by decide +kernel⟩

theorem witness_ReleaseEndsAtItsFirstFailure_4 : ∃ (unit : _) (h : _) (e : _) (s : State) (hd : _) (a : _) (n : _), hd = gHeader (hPool h) (hIndex h) s ∧
    a = counterList h s ∧ n = hPool h ∧ isStale h s = false ∧ isForeign unit h s = false ∧ hd.refcount = 0 ∧ namesEpoch hd e s = false :=
  ⟨0x2D, heldBuffer, none,
    setGHeader (hPool heldBuffer) (hIndex heldBuffer) { gHeader (hPool heldBuffer) (hIndex heldBuffer) withBuffer with refcount := 0 } withBuffer, _,
    _, _, rfl, rfl, rfl, by decide +kernel, by decide +kernel, by decide +kernel, by decide +kernel⟩

theorem witness_ReleaseEndsAtItsFirstFailure_5 : ∃ (unit : _) (h : _) (s : State) (hd : _) (a : _) (n : _), hd = gHeader (hPool h) (hIndex h) s ∧
    a = counterList h s ∧ n = hPool h ∧ isStale h s = false ∧ isForeign unit h s = false ∧ hd.refcount = 1 :=
  ⟨0x2D, heldBuffer, withBuffer, _, _, _, rfl, rfl, rfl, by decide +kernel, by decide +kernel, by decide +kernel⟩

theorem witness_ReleaseEndsAtItsFirstFailure_6 : ∃ (unit : _) (h : _) (s : State) (hd : _) (a : _) (n : _), hd = gHeader (hPool h) (hIndex h) s ∧
    a = counterList h s ∧ n = hPool h ∧ isStale h s = false ∧ isForeign unit h s = false ∧ 1 < hd.refcount :=
  ⟨0x2D, heldBuffer,
    setGHeader (hPool heldBuffer) (hIndex heldBuffer) { gHeader (hPool heldBuffer) (hIndex heldBuffer) withBuffer with refcount := 2 } withBuffer, _,
    _, _, rfl, rfl, rfl, by decide +kernel, by decide +kernel, by decide +kernel⟩

theorem witness_ReleaseEndsAtItsFirstFailure_7 : ∃ (unit : _) (h : _) (e : _) (s : State) (hd : _) (a : _) (n : _) (t : _), hd = gHeader (hPool h) (hIndex h) s ∧
    a = counterList h s ∧ n = hPool h ∧ (isStale h s = true ∨ isForeign unit h s = true ∨ hd.refcount = 0) ∧
    exec (.granaryRelease unit h e) s = .next t :=
  ⟨0x2D, 0xFFFFFFFF, none, demo, _, _, _, _, rfl, rfl, rfl, by decide +kernel, rfl⟩

theorem witness_ReleaseHoldObeysHoldMode_1 : ∃ (qp : _) (tag : _) (b : _) (r : _) (d : _) (s : State) (t : _) (o : _), SheafRuns 11 qp tag b r .quiet d s t ∧
    versionOf d.id r t = some o ∧ (o.holdUntil ≤ arrayTime t ∨ scopeParam 2 d.id 0x1003 t = 1) :=
  ⟨2, _, [0, 1] ++ zeros 6 ++ leBytes 8 9 ++ zeros 48, overlay ([0, 1] ++ zeros 6 ++ leBytes 8 9 ++ zeros 48) 0 (leBytes 1 11), _,
    modifyQp 2 (fun c => { c with received := [overlay ([0, 1] ++ zeros 6 ++ leBytes 8 9 ++ zeros 48) 0 (leBytes 1 11)] }) (atTime 1000 (modifyMap (fun m => { m with objects := [demoObject] }) shState)),
    _, _,
    ⟨_, _, rfl, rfl, by decide +kernel, by decide, by decide +kernel, by decide +kernel, sn (by decide +kernel), rfl, by decide +kernel, rfl, by decide +kernel, sg (by decide +kernel), by decide +kernel, by decide +kernel, by decide +kernel, by decide +kernel, by decide +kernel, by decide +kernel, by decide +kernel, by decide +kernel, by decide +kernel⟩,
    sg (by decide +kernel), by decide +kernel⟩

theorem witness_ReleaseHoldObeysHoldMode_2 : ∃ (qp : _) (tag : _) (b : _) (r : _) (d : _) (s : State) (t : _) (o : _), SheafRuns 11 qp tag b r .quiet d s t ∧
    versionOf d.id r t = some o ∧ arrayTime t < o.holdUntil ∧ scopeParam 2 d.id 0x1003 t = 0 :=
  ⟨2, _, [0, 1] ++ zeros 6 ++ leBytes 8 9 ++ zeros 48, overlay ([0, 1] ++ zeros 6 ++ leBytes 8 9 ++ zeros 48) 0 (leBytes 1 11), _,
    modifyQp 2 (fun c => { c with received := [overlay ([0, 1] ++ zeros 6 ++ leBytes 8 9 ++ zeros 48) 0 (leBytes 1 11)] }) (atTime 1000 (modifyMap (fun m => { m with objects := [{ demoObject with holdUntil := 5000 }] }) shState)),
    _, _,
    ⟨_, _, rfl, rfl, by decide +kernel, by decide, by decide +kernel, by decide +kernel, sn (by decide +kernel), rfl, by decide +kernel, rfl, by decide +kernel, sg (by decide +kernel), by decide +kernel, by decide +kernel, by decide +kernel, by decide +kernel, by decide +kernel, by decide +kernel, by decide +kernel, by decide +kernel, by decide +kernel⟩,
    sg (by decide +kernel), by decide +kernel, by decide +kernel⟩

theorem witness_AlmanacRecordLayout_1 : ∃ staged r b, r.payload.length ≤ 996 ∧ b = almBytes staged r :=
  ⟨false, demoRecord, _, by decide +kernel, rfl⟩

theorem witness_AlmanacRecordLayout_15 : ∃ staged r b i, r.payload.length ≤ 996 ∧ b = almBytes staged r ∧ 0x18 + r.payload.length ≤ i ∧
    i < b.length - 4 :=
  ⟨false, demoRecord, _, 27, by decide +kernel, rfl, by decide +kernel, by decide +kernel⟩

theorem witness_FieldsReadBack_1 : ∃ p i g, p < 8 ∧ i < 2 ^ 21 ∧ g < 256 :=
  ⟨7, 2 ^ 21 - 1, 255, by decide +kernel, by decide +kernel, by decide +kernel⟩

theorem witness_StoredBytesReadBack_1 : ∃ (m : Memory), Memory.wf m = true :=
  ⟨[(0, 5), (7, 1)], by decide +kernel⟩

theorem witness_GcmRoundTrip_1 : ∃ (key : Bytes), key.length = 32 :=
  ⟨zeros 32, by decide +kernel⟩

theorem witness_ProtectedFrameOpens_1 : ∃ (rtype : _) (fseq : _) (session : _) (n : _) (key : Bytes) (body : Bytes) (x : ReplSession) (s : State), 2 < rtype ∧
    rtype < 256 ∧ fseq < 2 ^ 64 ∧ session < 2 ^ 24 ∧ body.length ≤ 262144 ∧ key.length = 32 ∧ sesKey x s = some (n, key) ∧ x.rxSeq = fseq ∧
    x.session = session :=
  ⟨3, 0, 1, 3, zeros 32, [1, 2], keyedSes, keyedState keyedSes, by decide +kernel, by decide +kernel, by decide +kernel, by decide +kernel,
    by decide +kernel, by decide +kernel, by decide +kernel, by decide +kernel, by decide +kernel⟩

end Sys2Proof.Tests
end

section
/-! The fields of a handle and of a little-endian string, read back as they were written (R6, R7, R444). -/

namespace Sys2Proof.Machine

/-! ## Handles (Table 18-2) -/

/-- POOL is three bits wide. -/
@[simp] theorem hPool_mkHandle (p i g : Nat) : hPool (mkHandle p i g) = p % 8 := by
  simp only [hPool, bitsOf, mkHandle]
  omega

/-- INDEX is 21 bits wide. -/
@[simp] theorem hIndex_mkHandle (p i g : Nat) : hIndex (mkHandle p i g) = i % 2 ^ 21 := by
  simp only [hIndex, bitsOf, mkHandle]
  omega

/-- GEN is eight bits wide. -/
@[simp] theorem hGen_mkHandle (p i g : Nat) : hGen (mkHandle p i g) = g % 256 := by
  simp only [hGen, mkHandle]
  omega

/-- A handle of one of the eight pools is a 32-bit word. -/
theorem mkHandle_lt {p : Nat} (i g : Nat) (hp : p < 8) : mkHandle p i g < 2 ^ 32 := by
  simp only [mkHandle]
  omega

/-- The null handle as its fields spell it: pool 7 with the last index and the last generation. -/
theorem nullHandle_eq_mkHandle : nullHandle = mkHandle 7 (2 ^ 21 - 1) 255 := by decide

/-! ## Little-endian fields (R7) -/

@[simp] theorem leBytes_length (n v : Nat) : (leBytes n v).length = n := by
  induction n generalizing v with
  | zero => rfl
  | succ n ih => simp [leBytes, ih]

/-- A field of `n` bytes keeps its value modulo the field's width. -/
@[simp] theorem leNat_leBytes (n v : Nat) : leNat (leBytes n v) = v % 256 ^ n := by
  induction n generalizing v with
  | zero => simp [leBytes, leNat, Nat.mod_one]
  | succ n ih =>
    calc leNat (leBytes (n + 1) v)
        = v % 256 + 256 * (v / 256 % 256 ^ n) := by simp [leBytes, leNat, ih]
      _ = v % (256 * 256 ^ n) := (Nat.mod_mul).symm
      _ = v % 256 ^ (n + 1) := by rw [Nat.pow_succ']

/-- A packed payload is as long as its fields together, so the next field starts at their sum. -/
@[simp] theorem packFields_length (fields : List (Nat × Nat)) :
    (packFields fields).length = (fields.map (·.1)).sum := by
  induction fields with
  | nil => rfl
  | cons field rest ih => simp [packFields, ih]

/-- The field that fills the middle of a string, whatever stands before and after it. -/
theorem fieldAt_append_append (front mid back : Bytes) :
    fieldAt (front ++ mid ++ back) front.length mid.length = leNat mid := by
  simp [fieldAt, slice]

/-- A field that follows packed fields reads back at the sum of their sizes. -/
theorem fieldAt_packFields_leBytes (front : List (Nat × Nat)) (n v : Nat) (back : Bytes) :
    fieldAt (packFields front ++ leBytes n v ++ back) (front.map (·.1)).sum n = v % 256 ^ n := by
  have field := fieldAt_append_append (packFields front) (leBytes n v) back
  rwa [packFields_length, leBytes_length, leNat_leBytes] at field

/-- Settles O53: a handle's fields are disjoint bit ranges, and a little-endian field is found at the length of what stands before it. -/
theorem fieldsReadBack : Obligations.FieldsReadBack := by
  refine ⟨fun p i g hp hi hg => ⟨?pool, ?index, ?gen, mkHandle_lt i g hp⟩, ⟨?nullPool, ?nullIndex⟩, leNat_leBytes,
    fieldAt_packFields_leBytes⟩
  case pool => rw [hPool_mkHandle, Nat.mod_eq_of_lt hp]
  case index => rw [hIndex_mkHandle, Nat.mod_eq_of_lt hi]
  case gen => rw [hGen_mkHandle, Nat.mod_eq_of_lt hg]
  case nullPool => rw [nullHandle_eq_mkHandle, hPool_mkHandle]
  case nullIndex => rw [nullHandle_eq_mkHandle, hIndex_mkHandle, Nat.mod_eq_of_lt (by decide)]

end Sys2Proof.Machine
end

section
/-! What any command can do to the steady fields, and that HEAD_ID is sampled as RESET_N rises alone (R14, Table 21-3). -/

namespace Sys2Proof.Machine

/-- `SteadyStep s c e`: from state `s` the command `c` can leave the steady fields as `e`. An ordinary command leaves all as they are; each of
the others is listed with the fields it changes. -/
inductive SteadyStep (s : State) : Instr → Steady → Prop
  | ordinary {c : Instr} (plain : ordinary c = true) : SteadyStep s c s.steady
  | vault {c : Instr} (row : changesVault c = true) (v : VaultPart) : SteadyStep s c { s.steady with vault := v }
  | tap {c : Instr} {i : JtagInstr} (row : tapRow c = some i) :
      SteadyStep s c { s.steady with jtag := if s.boot.resetLow = true ∨ tapReleased i = i then i else .bypass }
  | thermtrip : SteadyStep s .thermtrip { s.steady with tripLatched := true }
  | lifeUsedHour (mean : Int) :
      SteadyStep s (.lifeUsedHour mean) { s.steady with lifeUsed := satAdd 64 s.thermal.lifeUsed (lifeShare Config.gradeL mean) }
  | smbusSelect (code : BitVec 8) (b : SmbusPart) : SteadyStep s (.smbusSelect code) { s.steady with smbus := b }
  | smbusRefresh (r : Readings) (b : SmbusPart) : SteadyStep s (.smbusRefresh r) { s.steady with smbus := b }
  | powerOnHeld (strap : Bool) :
      SteadyStep s (.powerOnReset true strap) { s.steady with ticks := 0, tripLatched := false, resetLow := true }
  | powerOnReleased (strap : Bool) :
      SteadyStep s (.powerOnReset false strap)
        { s.steady with ticks := 0, powerCycles := satAdd 32 s.time.powerCycles 1, tripLatched := false, headId := flagBit strap
                        resetLow := false, jtag := tapReleased s.jtag }
  | pinHeld (strap : Bool) : SteadyStep s (.pinReset true strap) { s.steady with resetLow := true }
  | pinReleased (strap : Bool) :
      SteadyStep s (.pinReset false strap) { s.steady with headId := flagBit strap, resetLow := false, jtag := tapReleased s.jtag }

/-- The vault's rows are `SteadyStep`s. -/
theorem steadyStep_vault {c : Instr} (s : State) (row : changesVault c = true) : ∃ t, exec c s = .next t ∧ SteadyStep s c t.steady := by
  obtain ⟨t, run, v, kept⟩ := vault_rows c s row
  exact ⟨t, run, kept ▸ .vault row v⟩

/-- The TAP's rows are `SteadyStep`s. -/
theorem steadyStep_tap {c : Instr} {i : JtagInstr} (s : State) (row : tapRow c = some i) :
    ∃ t, exec c s = .next t ∧ SteadyStep s c t.steady := by
  obtain ⟨t, run, kept⟩ := tap_rows c i s row
  exact ⟨t, run, kept ▸ .tap row⟩

/-- The ordinary rows are `SteadyStep`s. -/
theorem steadyStep_ordinary {c : Instr} (s : State) (plain : ordinary c = true) : ∃ t, exec c s = .next t ∧ SteadyStep s c t.steady := by
  obtain ⟨t, run, kept⟩ := exec_steady c s plain
  exact ⟨t, run, kept ▸ .ordinary plain⟩

/-- Every command answers a next state, and `SteadyStep` lists what that does to the steady fields. -/
theorem exec_steadyStep (c : Instr) (s : State) : ∃ t, exec c s = .next t ∧ SteadyStep s c t.steady := by
  cases c with
  | powerOnReset held strap =>
    cases held with
    | true => obtain ⟨t, run, kept⟩ := powerOnReset_held strap s; exact ⟨t, run, kept ▸ .powerOnHeld strap⟩
    | false => obtain ⟨t, run, kept⟩ := powerOnReset_released strap s; exact ⟨t, run, kept ▸ .powerOnReleased strap⟩
  | pinReset held strap =>
    cases held with
    | true => obtain ⟨t, run, kept⟩ := pinReset_held strap s; exact ⟨t, run, kept ▸ .pinHeld strap⟩
    | false => obtain ⟨t, run, kept⟩ := pinReset_released strap s; exact ⟨t, run, kept ▸ .pinReleased strap⟩
  | vaultAlarmSupply | vaultAlarmTemp | vaultAlarmMesh | vaultAlarmTamper | vaultAlarmCheck | vauxLoss | vauxRise | keyLoadGauntlet
  | keyClearGauntlet | keyAlarmClear => exact steadyStep_vault s rfl
  | bypass | idcode | samplePreload | extest | extestPulse | extestTrain | clamp | highz => exact steadyStep_tap s rfl
  | thermtrip => obtain ⟨t, run, kept⟩ := thermtrip_row s; exact ⟨t, run, kept ▸ .thermtrip⟩
  | lifeUsedHour mean => obtain ⟨t, run, kept⟩ := lifeUsedHour_row mean s; exact ⟨t, run, kept ▸ .lifeUsedHour mean⟩
  | smbusSelect code => obtain ⟨t, run, b, kept⟩ := smbusSelect_row code s; exact ⟨t, run, kept ▸ .smbusSelect code b⟩
  | smbusRefresh r => obtain ⟨t, run, b, kept⟩ := smbusRefresh_row r s; exact ⟨t, run, kept ▸ .smbusRefresh r b⟩
  | _ => exact steadyStep_ordinary s rfl

/-- The same, read from the state that the command has answered. -/
theorem steadyStep_of_exec {c : Instr} {s t : State} (run : exec c s = .next t) : SteadyStep s c t.steady := by
  obtain ⟨u, run', kept⟩ := exec_steadyStep c s
  rw [run] at run'
  cases run'
  exact kept

/-- A reset whose RESET_N has risen leaves HEAD_ID as the strap says. -/
theorem SteadyStep.headId_of_released {s : State} {c : Instr} {e : Steady} {strap : Bool} (h : SteadyStep s c e)
    (reset : c = .powerOnReset false strap ∨ c = .pinReset false strap) : e.headId = flagBit strap ∧ e.resetLow = false := by
  rcases reset with rfl | rfl
  · cases h with
    | powerOnReleased => exact ⟨rfl, rfl⟩
    | ordinary plain => cases plain
    | vault row => cases row
    | tap row => cases row
  · cases h with
    | pinReleased => exact ⟨rfl, rfl⟩
    | ordinary plain => cases plain
    | vault row => cases row
    | tap row => cases row

/-- Every other command leaves HEAD_ID as it is. -/
theorem SteadyStep.headId_kept {s : State} {c : Instr} {e : Steady} (h : SteadyStep s c e)
    (other : ∀ strap, c ≠ .powerOnReset false strap ∧ c ≠ .pinReset false strap) : e.headId = s.boot.headId := by
  cases h with
  | powerOnReleased strap => exact absurd rfl (other strap).1
  | pinReleased strap => exact absurd rfl (other strap).2
  | _ => rfl

/-- Settles O44: of the commands that can change a steady field, only the two resets whose RESET_N has risen touch HEAD_ID. -/
theorem headIdSampledAtReset : Obligations.HeadIdSampledAtReset := by
  refine ⟨fun c strap s t reset run => ?sampled, fun c s t other run => ?kept⟩
  case sampled => exact (steadyStep_of_exec run).headId_of_released reset
  case kept => exact (steadyStep_of_exec run).headId_kept other

end Sys2Proof.Machine
end

section
/-! Power, temperature, time and boot flash (R26-R58, R567-R572): what each row answers, case by case. -/

namespace Sys2Proof.Machine

/-- An ordinary command completes in the state that its meaning gives. -/
theorem completes_of_ordinary {c : Instr} {s t : State} (plain : ordinary c = true) (run : exec c s = .next t) : Completes c s t :=
  completes_of_exec run (exec_steady c s plain)

/-! ## Pace -/

/-- The pace words as a window with these counts leaves them. -/
def paceWords (counts : List Nat) (s : State) : State :=
  modifyTime (fun t => { t with pace := (List.range t.pace.length).map (fun q => paceStep (t.pace.getD q resetPace) (counts.getD q 0)) }) s

/-- With every quadrant parked, a window takes the pace words alone. -/
theorem execPaceWindow_of_none {counts : List Nat} {s : State} (parked : lowestPace (paceWords counts s).time.pace = none) :
    execPaceWindow counts s = .next (paceWords counts s) := by
  unfold execPaceWindow
  simp only [paceWords] at parked ⊢
  rw [parked]

/-- The lowest pace word of a window is noted for the band, the low pace and the collapse. -/
theorem execPaceWindow_of_some {counts : List Nat} {s : State} {q v : Nat} (lowest : lowestPace (paceWords counts s).time.pace = some (q, v)) :
    execPaceWindow counts s = .next (noteCollapse v (noteLowPace q v (noteBand v (paceWords counts s)))) := by
  unfold execPaceWindow
  simp only [paceWords] at lowest ⊢
  rw [lowest]

/-! ## Time marks -/

theorem execTimeMarkTimer_of_resumed {s : State} (resumed : s.time.resumed = true) :
    execTimeMarkTimer s = .next (almanac 0x0601 (timeMark s) s) := by
  rw [execTimeMarkTimer, if_pos resumed]

/-! ## Thermal windows -/

/-- The state in which the thermal policy acts: the energy is counted, and the window in THROTTLE_MS where a limit stood in it. -/
def thermalCounted (energyMj : Nat) (s : State) : State :=
  modifyThermal (fun t => { t with
    energyMj := satAdd 64 t.energyMj energyMj
    throttleMs := if t.limit.isSome then satAdd 64 t.throttleMs 10 else t.throttleMs }) s

theorem thermalCounted_of_none {energyMj : Nat} {s : State} (free : s.thermal.limit = none) :
    thermalCounted energyMj s = modifyThermal (fun t => { t with energyMj := satAdd 64 t.energyMj energyMj }) s := by
  simp [thermalCounted, modifyThermal, free]

theorem thermalCounted_of_isSome {energyMj : Nat} {s : State} (limited : s.thermal.limit.isSome = true) :
    thermalCounted energyMj s =
      modifyThermal (fun t => { t with energyMj := satAdd 64 t.energyMj energyMj, throttleMs := satAdd 64 t.throttleMs 10 }) s := by
  simp [thermalCounted, modifyThermal, limited]

/-- Whether Steward runs is no matter of the thermal part. -/
@[simp] theorem stewardRuns_modifyThermal (f : ThermalPart → ThermalPart) (s : State) : stewardRuns (modifyThermal f s) = stewardRuns s := rfl

theorem execThermalWindow_eq (means : ThermalMeans) (energyMj : Nat) (s : State) :
    execThermalWindow means energyMj s = .next (if stewardRuns s then
      thermalLimitReached means (thermalAction means (thermalCounted energyMj s)) else thermalCounted energyMj s) := rfl

/-! ## Rated life -/

/-- At a row of Table 25-8 an hour's share is 10^9 over the rated hours, a year being 8,766 hours (DESIGN CHOICE 44). -/
theorem lifeShare_of_lifeRow {gradeL : Bool} {mean : Int} {n : Nat} (row : lifeRow gradeL mean = some n) :
    lifeShare gradeL mean = 10 ^ 10 / (n * 8766) + flagBit (Config.lifeRoundsUp gradeL mean) := by
  simp only [lifeShare, row]

/-! ## Supplies -/

/-- What a supply's excursion counts: one outside the recommended range for 1 µs. -/
def excursionCounted (supply : Supply) (mv ns : Nat) (s : State) : State :=
  if outsideRange supply mv s ∧ 1000 ≤ ns then
    modifyThermal (fun t => { t with supplyExcursions := bump t.supplyExcursions }) s else s

theorem excursionCounted_of_outside {supply : Supply} {mv ns : Nat} {s : State} (outside : outsideRange supply mv s = true)
    (long : 1000 ≤ ns) :
    excursionCounted supply mv ns s = modifyThermal (fun t => { t with supplyExcursions := bump t.supplyExcursions }) s :=
  if_pos ⟨outside, long⟩

/-- An excursion shorter than 100 µs is only counted. -/
theorem execSupplyExcursion_of_short {supply : Supply} {mv ns : Nat} {s : State} (short : ns < 100000) :
    execSupplyExcursion supply mv ns s = .next (excursionCounted supply mv ns s) := by
  have brief : ¬(beyondRange supply mv s = true ∧ 100000 ≤ ns) := fun h => Nat.not_le_of_lt short h.2
  simp only [execSupplyExcursion, if_neg brief, excursionCounted]

/-- One of 100 µs beyond the limits of Table 13-5 is the supply cause. -/
theorem execSupplyExcursion_of_beyond {supply : Supply} {mv ns : Nat} {s : State} (beyond : beyondRange supply mv s = true)
    (long : 100000 ≤ ns) : execSupplyExcursion supply mv ns s = .next (enterYield 5 (excursionCounted supply mv ns s)) := by
  simp only [execSupplyExcursion, if_pos (And.intro beyond long), excursionCounted]

/-! ## Boot flash -/

theorem execBootFlashRefresh_of_due {region : Nat} {s : State}
    (due : s.flash.lastWrite.getD region 0 + 1826 * 24 * 4096 ≤ opTime s) :
    execBootFlashRefresh region s =
      .next (flashWritten region { s with flash := { s.flash with refreshes := modifyNth bump region s.flash.refreshes } }) := by
  rw [execBootFlashRefresh, if_pos due]

/-- Settles O33: each row by its own equation; all but THERMTRIP and LIFE_USED_HOUR are ordinary commands. -/
theorem powerRowsComplete : Obligations.PowerRowsComplete := by
  refine ⟨?paceParked, ?pace, ?timeMark, fun s => rfl, ?policy, ?throttled, ?lifeRow, fun mean s => rfl, ?counted, ?cause, ?clockNear,
    ?clock, ?refresh⟩
  case paceParked =>
    rintro counts s u rfl parked
    exact completes_of_ordinary rfl (execPaceWindow_of_none parked)
  case pace =>
    rintro counts s u q v rfl lowest
    exact completes_of_ordinary rfl (execPaceWindow_of_some lowest)
  case timeMark => exact fun s resumed => completes_of_ordinary rfl (execTimeMarkTimer_of_resumed resumed)
  case policy =>
    rintro means energy s u free rfl steward
    rw [stewardRuns_modifyThermal] at steward
    refine completes_of_ordinary rfl ((execThermalWindow_eq means energy s).trans ?_)
    rw [if_pos steward, thermalCounted_of_none free]
  case throttled =>
    rintro means energy s u limited idle rfl
    refine completes_of_ordinary rfl ((execThermalWindow_eq means energy s).trans ?_)
    rw [idle, if_neg Bool.false_ne_true, thermalCounted_of_isSome limited]
  case lifeRow =>
    intro mean s n row
    rw [← lifeShare_of_lifeRow row]
    rfl
  case counted =>
    intro supply mv ns s outside long short
    rw [← excursionCounted_of_outside outside long]
    exact completes_of_ordinary rfl (execSupplyExcursion_of_short short)
  case cause =>
    rintro supply mv ns s u outside rfl beyond long
    rw [← excursionCounted_of_outside outside (show 1000 ≤ ns by omega)]
    exact completes_of_ordinary rfl (execSupplyExcursion_of_beyond beyond long)
  case clockNear => exact fun s => completes_of_ordinary rfl rfl
  case clock => exact fun near s => completes_of_ordinary rfl rfl
  case refresh => exact fun region s due => completes_of_ordinary rfl (execBootFlashRefresh_of_due due)

end Sys2Proof.Machine
end

section
/-! Resets, start-up steps and DUMP (R14-R43, R502-R532): what each row answers, case by case. -/

namespace Sys2Proof.Machine

/-! ## Steps of the start-up -/

/-- A report finds a step of the start-up open (R507). -/
def StepAwaited (s : State) : Prop :=
  (s.boot.mode = .boot ∨ s.boot.mode = .inventory) ∧ s.boot.stepOpen = true ∧ s.boot.quietStop = false

/-- `execBootStepDone` passes a report over just where no step awaits it. -/
theorem not_passedOver_of_stepAwaited {s : State} (awaited : StepAwaited s) :
    ¬((s.boot.mode ≠ .boot ∧ s.boot.mode ≠ .inventory) ∨ s.boot.stepOpen = false ∨ s.boot.quietStop = true) := by
  obtain ⟨mode, opened, quiet⟩ := awaited
  rw [opened, quiet]
  rintro (⟨notBoot, notInventory⟩ | closed | stopped)
  · exact mode.elim notBoot notInventory
  · cases closed
  · cases stopped

/-- A step whose work is done is closed, and what follows it begins. -/
theorem execBootStepDone_of_ended {r : StepReport} {s u : State} (awaited : StepAwaited s) (good : statusOk r.result = true)
    (work : stepWork s.boot.step r s = (true, u)) :
    execBootStepDone r s = .next (hswSync (stepFollows s.boot.step r (closeStep r.result u))) := by
  simp only [execBootStepDone, if_neg (not_passedOver_of_stepAwaited awaited), good, work, Bool.true_eq_false, if_false, if_true]

/-- A step that fails is closed, counted and begun again (R507). -/
theorem execBootStepDone_of_failed {r : StepReport} {s : State} (awaited : StepAwaited s) (failed : statusOk r.result = false) :
    execBootStepDone r s = .next (beginFrom 18 s.boot.step (stepFailed r.result (closeStep r.result s))) := by
  rw [execBootStepDone, if_neg (not_passedOver_of_stepAwaited awaited), if_pos failed]

/-- The bound of an open step ends in a self reset without a stop of R529 before it. -/
theorem execBootWatchdog_of_bounded {s : State} (mode : s.boot.mode = .boot ∨ s.boot.mode = .inventory) (opened : s.boot.stepOpen = true)
    (bound : bounded s = true) : execBootWatchdog s = .next (bareReset s) := by
  rw [execBootWatchdog, if_pos ⟨mode, opened, bound⟩]

theorem execPcieRetryTimer_of_recovery {s : State} (recovery : s.boot.mode = .recovery) :
    execPcieRetryTimer true s = .next (modifyBoot (fun b => { b with ready := true }) s) := by
  rw [execPcieRetryTimer, if_pos ⟨recovery, rfl⟩]

/-! ## Power failure (R513, R514) -/

/-- The power failure stands accepted, and PWRFAIL_N is low. -/
def pwrFailNoted (s : State) : State := modifyBoot (fun b => { b with pwrFailAccepted := true, pwrFailLow := true }) s

/-- A power failure accepted for the first time and outside DUMP: DUMP where the mode turns into it, and else a quiet stop. -/
theorem execPwrfailAccept_of_first {s : State} (first : s.boot.pwrFailAccepted = false) (mode : s.boot.mode ≠ .dump) :
    execPwrfailAccept s = .next (if mayDump s then enterDump true (pwrFailNoted s) else quietStop (pwrFailNoted s)) := by
  simp only [execPwrfailAccept, first, Bool.false_eq_true, if_false, if_neg mode, pwrFailNoted]

/-- A run too short to be accepted is counted as a glitch. -/
theorem execPwrfailNRise_of_notAccepted {s : State} (short : s.boot.pwrFailAccepted = false) :
    execPwrfailNRise s = .next (modifyBoot (fun b => { b with pwrFailLow := false, pwrFailGlitches := bump b.pwrFailGlitches }) s) := by
  simp [execPwrfailNRise, modifyBoot, short]

/-- PWRFAIL_N high again for 100 ms ends a quiet stop outside DUMP in a self reset. -/
theorem execPwrfailHighTimer_of_quietStop {s : State} (accepted : s.boot.pwrFailAccepted = true) (high : s.boot.pwrFailLow = false)
    (mode : s.boot.mode ≠ .dump) (quiet : s.boot.quietStop = true) : execPwrfailHighTimer s = .next (selfReset s) := by
  rw [execPwrfailHighTimer, if_pos ⟨accepted, high, by rwa [if_neg mode]⟩]

/-- The last record of a whole dump on media ends it, and the leases are released. -/
theorem execDumpEndCommitted_of_whole {s : State} {d : DumpImage} (image : s.media.dumped = some d) (mode : s.boot.mode = .dump)
    (running : s.boot.dumpEnd = false) (whole : d.broken = false) (written : d.bales = []) :
    execDumpEndCommitted s = .next (releaseAllLeases { modifyBoot (fun b => { b with dumpEnd := true }) s with
      media := { s.media with dumped := some { d with ended := true } } }) := by
  simp [execDumpEndCommitted, image, mode, running, whole, written]

/-- Settles O32: each row by its own equation; all but the power-on and the pin reset are ordinary commands. -/
theorem resetAndBootRowsComplete : Obligations.ResetAndBootRowsComplete := by
  refine ⟨?powerOn, fun strap s => rfl, fun strap s => rfl, fun strap s => rfl, fun s => completes_of_ordinary rfl rfl, ?perst, ?stepEnds,
    ?stepFails, ?watchdog, ?pcie, ?dump, ?quietStop, ?glitch, ?highAgain, ?dumpEnds⟩
  case powerOn => rintro strap s u rfl; rfl
  case perst => rintro low s rs rfl; exact completes_of_ordinary rfl rfl
  case stepEnds =>
    exact fun r s u mode opened quiet good work =>
      completes_of_ordinary rfl (execBootStepDone_of_ended ⟨mode, opened, quiet⟩ good work)
  case stepFails =>
    exact fun r s mode opened quiet failed => completes_of_ordinary rfl (execBootStepDone_of_failed ⟨mode, opened, quiet⟩ failed)
  case watchdog => exact fun s mode opened bound => completes_of_ordinary rfl (execBootWatchdog_of_bounded mode opened bound)
  case pcie => exact fun s recovery => completes_of_ordinary rfl (execPcieRetryTimer_of_recovery recovery)
  case dump =>
    rintro s u first mode dumps rfl
    refine completes_of_ordinary rfl ((execPwrfailAccept_of_first first mode).trans ?_)
    rw [if_pos dumps]
    rfl
  case quietStop =>
    rintro s u first mode stays rfl
    refine completes_of_ordinary rfl ((execPwrfailAccept_of_first first mode).trans ?_)
    rw [stays]
    rfl
  case glitch => exact fun s short => completes_of_ordinary rfl (execPwrfailNRise_of_notAccepted short)
  case highAgain =>
    exact fun s accepted high mode quiet => completes_of_ordinary rfl (execPwrfailHighTimer_of_quietStop accepted high mode quiet)
  case dumpEnds =>
    exact fun s d image mode running whole written =>
      completes_of_ordinary rfl (execDumpEndCommitted_of_whole image mode running whole written)

end Sys2Proof.Machine
end

section
/-! The time base and the power-cycle count: what an idle step, a power-on reset and every other command make of them (R45, R50,
Table 21-3). -/

namespace Sys2Proof.Machine

/-! ## The idle step (DESIGN CHOICE 34) -/

/-- With nothing waiting, a step is the idle tick. -/
theorem step_of_pending_nil {s : State} (idle : s.pending = []) : step s = .next (idleTick s) := by
  unfold step
  rw [idle]

/-- Settles O36: a step on an empty queue is `idleTick`, which is the update that the statement writes out. -/
theorem idleStepIsOneTick : Obligations.IdleStepIsOneTick := fun _ idle => step_of_pending_nil idle

/-! ## The time base (R45) -/

/-- A power-on reset clears the time base, whether or not RESET_N has risen. -/
theorem SteadyStep.ticks_of_powerOn {s : State} {held strap : Bool} {e : Steady} (h : SteadyStep s (.powerOnReset held strap) e) :
    e.ticks = 0 := by
  cases h with
  | powerOnHeld => rfl
  | powerOnReleased => rfl
  | ordinary plain => cases plain
  | vault row => cases row
  | tap row => cases row

/-- Every other command leaves the time base as it is, a pin reset too. -/
theorem SteadyStep.ticks_kept {s : State} {c : Instr} {e : Steady} (h : SteadyStep s c e)
    (other : ∀ held strap, c ≠ .powerOnReset held strap) : e.ticks = s.time.ticks := by
  cases h with
  | powerOnHeld strap => exact absurd rfl (other true strap)
  | powerOnReleased strap => exact absurd rfl (other false strap)
  | _ => rfl

/-- Settles O42: of the commands that can change a steady field, only the power-on reset touches the time base; an idle step advances it. -/
theorem timeBaseRunsOn : Obligations.TimeBaseRunsOn := by
  refine ⟨fun held strap s t run => ?cleared, fun c s t other run => ?kept, fun s t idle run => ?advanced⟩
  case cleared => exact (steadyStep_of_exec run).ticks_of_powerOn
  case kept => exact (steadyStep_of_exec run).ticks_kept other
  case advanced =>
    rw [idleStepIsOneTick s idle] at run
    cases run
    rfl

/-! ## The power-cycle count (R50) -/

/-- A power-on reset that ends counts one more power cycle, up to the largest 32-bit value. -/
theorem SteadyStep.powerCycles_of_powerOnReleased {s : State} {strap : Bool} {e : Steady}
    (h : SteadyStep s (.powerOnReset false strap) e) : e.powerCycles = satAdd 32 s.time.powerCycles 1 := by
  cases h with
  | powerOnReleased => rfl
  | ordinary plain => cases plain
  | vault row => cases row
  | tap row => cases row

/-- Every other command leaves the count as it is, a power-on reset that is still held too. -/
theorem SteadyStep.powerCycles_kept {s : State} {c : Instr} {e : Steady} (h : SteadyStep s c e)
    (other : ∀ strap, c ≠ .powerOnReset false strap) : e.powerCycles = s.time.powerCycles := by
  cases h with
  | powerOnReleased strap => exact absurd rfl (other strap)
  | _ => rfl

/-- Settles O43: of the commands that can change a steady field, only a power-on reset whose RESET_N has risen counts a power cycle. -/
theorem powerCyclesCounted : Obligations.PowerCyclesCounted := by
  refine ⟨fun strap s t run => ?counted, fun c s t other run => ?kept⟩
  case counted => exact (steadyStep_of_exec run).powerCycles_of_powerOnReleased
  case kept => exact (steadyStep_of_exec run).powerCycles_kept other

end Sys2Proof.Machine
end

section
/-! The rows of the Tines (R81, R114-R128): what each row answers, case by case. -/

namespace Sys2Proof.Machine

/-! ## Dispatch (R114, R117, R120) -/

/-- The tickets that a tine may take of its home harrow. -/
def homeMay (tine : Nat) (u : State) : Ticket → Bool :=
  fun x => homeEligible (tineHarrow tine) x u && mayDispatch (harrowAt (tineHarrow tine) u).park x

/-- The test as the model writes it out. -/
theorem homeMay_eq (tine : Nat) (u : State) :
    homeMay tine u = fun x => homeEligible (tineHarrow tine) x u && mayDispatch (harrowAt (tineHarrow tine) u).park x := rfl

/-- A free tine counts the conflicts it passes over, takes the ticket off its queue and runs it. -/
def dispatched (tine : Nat) (run : TicketRun) (q : Nat) (t : Ticket) (u : State) : State :=
  runOn tine t run (modifyHarrow (tineHarrow tine) (fun x => { x with dispatches := (x.dispatches + 1) % 64 })
    (dequeue t (noteConflict (tineHarrow tine) (keyConflict (passedQueues (harrowAt (tineHarrow tine) u) q
      ++ (queueAt (tineHarrow tine) q u).takeWhile (fun x => x != t)) u) u)))

/-- A free tine runs the oldest ticket it may take of the queue that its harrow's dispatch slot serves (DESIGN CHOICE 11). -/
theorem execTicketDispatch_of_oldest {tine : Nat} {run : TicketRun} {s u : State} {q : Nat} {t : Ticket} (usable : tineUsable tine s = true)
    (free : freeTine tine s = (true, u)) (queue : chooseQueue (harrowAt (tineHarrow tine) u) (homeMay tine u) = some q)
    (oldest : (queueAt (tineHarrow tine) q u).find? (homeMay tine u) = some t) :
    execTicketDispatch tine run s = .next (dispatched tine run q t u) := by
  simp only [homeMay_eq, queueAt] at queue oldest
  simp only [execTicketDispatch, ticketDispatch, usable, free, queue, oldest, Bool.not_true, Bool.false_eq_true, if_false]
  rfl

/-! ## Gleaning (R119-R121, R165) -/

section Glean

variable {tine : Nat} {run : TicketRun} {s u : State} {v : Nat} {t : Ticket}

/-- The first harrow in reach that holds tickets enough to be gleaned from. -/
def gleanVictim (h : Nat) (u : State) : Option Nat :=
  (gleanOrder h (paramNat 0x0500 (h / 8) u)).find? (fun x => decide (paramNat 0x0501 0 u ≤ (gleanable h x u).length))

/-- The newest ticket that may be gleaned of the victim's highest-priority queue that holds one. -/
def gleanChoice (h v : Nat) (u : State) : Option Ticket :=
  (((harrowAt v u).queues.find? (fun q => q.any (fun x => thiefMay h x u))).getD []).reverse.find? (fun x => thiefMay h x u)

/-- An idle tine: free, of a RUNNING harrow whose own queues hold nothing for it. -/
structure TineIdle (tine : Nat) (s u : State) : Prop where
  usable : tineUsable tine s = true
  free : freeTine tine s = (true, u)
  running : (harrowAt (tineHarrow tine) u).park = .running
  nothingHome : ((harrowAt (tineHarrow tine) u).queues.flatten).any (fun x => homeEligible (tineHarrow tine) x u) = false

/-- An idle tine first rescues a COMPRESS ticket of a harrow without compressors. -/
theorem execGlean_of_rescue (idle : TineIdle tine s u) (rescue : rescueCompress (tineHarrow tine) u = some (v, t)) :
    execGlean tine run s = .next (takeGleaned tine v t run u) := by
  obtain ⟨usable, free, running, nothingHome⟩ := idle
  simp [execGlean, glean, usable, free, running, nothingHome, rescue]

/-- With none to rescue it takes its choice of the first victim in reach. -/
theorem execGlean_of_victim (idle : TineIdle tine s u) (noRescue : rescueCompress (tineHarrow tine) u = none)
    (victim : gleanVictim (tineHarrow tine) u = some v) (choice : gleanChoice (tineHarrow tine) v u = some t) :
    execGlean tine run s =
      .next (takeGleaned tine v t run (noteConflict (tineHarrow tine) (keyConflict (gleanPassed v t u) u) u)) := by
  obtain ⟨usable, free, running, nothingHome⟩ := idle
  unfold gleanVictim at victim
  unfold gleanChoice at choice
  simp only [execGlean, glean, usable, free, running, nothingHome, noRescue, victim, choice, Bool.not_true, Bool.false_eq_true, ne_eq,
    not_true_eq_false, or_self, if_false]

end Glean

/-! ## The watchdog (R116, R177) -/

/-- The watchdog takes the ticket off its tine with what it has at the engines, and notes the expiry. -/
def watchdogExpired (tine : Nat) (t : Ticket) (s : State) : State :=
  abortEngine t (abortJobs (fun j => j.tine == tine) (tineExpiry tine (leaveTine tine s)))

/-- The first expiry of a ticket queues it again, the second ends it. -/
theorem execTicketWatchdog_of_running {tine : Nat} {s : State} {r : RunningTicket}
    (runs : s.tines.running.find? (fun r => r.tine == tine) = some r) (counting : waitsForBuffer r.ticket s = false) :
    execTicketWatchdog tine s = .next (parkedYield (if r.ticket.expiries = 0 then requeueTicket tine r (watchdogExpired tine r.ticket s)
      else endTicket r.ticket tine (!tineUsable tine (watchdogExpired tine r.ticket s)) (watchdogExpired tine r.ticket s))) := by
  simp only [execTicketWatchdog, ticketWatchdog, runs, counting, Bool.false_eq_true, if_false, watchdogExpired]

/-! ## Epochs (R79, R124) -/

/-- The commit of an OPEN epoch makes its buffers and waiting allocations real, and frees its entry once nothing of it is live. -/
theorem commitEpoch_of_opened {e : EpochRef} {u : State} {x : EpochEntry} (entry : epochEntry e u = some x) (opened : x.state = .opened) :
    commitEpoch e u = releaseEpoch e (mapWaiters (fun ws => mapIf (fun w => w.epoch == some e) (fun w => { w with epoch := none }) ws)
      (clearProv x.handles (modifyHarrow e.harrow (fun h => { h with commits := bump h.commits, windowDecided := h.windowDecided + 1 })
        (modifyEpoch e (fun y => { y with state := .committed }) u)))) := by
  simp only [commitEpoch, entry, opened, ne_eq, not_true_eq_false, if_false]

/-- EPOCH_COMMIT of an epoch alone answers for one decided already, and commits one that is OPEN. -/
theorem execEpochCommit_of_epoch {e : EpochRef} {s : State} (mode : s.boot.mode ≠ .dump) :
    execEpochCommit (some e) none s = .next (settle (growFar (commitEpoch e (answerDecided e s)))) := by
  rw [execEpochCommit, if_neg mode]
  rfl

/-- EPOCH_COMMIT with a chunk decided a miss commits the chunk. -/
theorem execEpochCommit_of_miss {e : Option EpochRef} {w : Nat} {x : ChunkWork} {s : State} (mode : s.boot.mode ≠ .dump)
    (work : workAt w s = some x) (miss : x.decision = .miss) (epoch : x.epoch = e) :
    execEpochCommit e (some w) s = .next (settle (growFar (commitMiss x s))) := by
  simp only [execEpochCommit, if_neg mode, Option.bind_some, work, if_pos (And.intro miss epoch)]

/-! ## Parking and hand-over (Table 5-9, R544) -/

/-- A harrow that drains for its own sake, and has drained, is PARKED. -/
theorem execHarrowDrained_of_drained {h : Nat} {s : State} (draining : (harrowAt h s).park = .draining) (drained : harrowDrained h s = true)
    (own : handingOver h s = false) :
    execHarrowDrained h s = .next (notePaceParked (modifyHarrow h (fun x => { x with park := .parked }) s)) := by
  rw [execHarrowDrained, if_pos ⟨draining, drained, own⟩]

/-- A park that does not end in time is abandoned, to be tried again. -/
theorem execParkDrainTimeout_of_draining {h : Nat} {s : State} (draining : (harrowAt h s).park = .draining)
    (own : handingOver h s = false) : execParkDrainTimeout h s =
      .next (modifyHarrow h (fun x => { x with park := .running, parkRetry := true, parkAbandoned := bump x.parkAbandoned }) s) := by
  simp only [execParkDrainTimeout, if_pos draining, own, Bool.false_eq_true, if_false]

/-- An abandoned park is tried again as the parked set now says. -/
theorem execParkRetryTimer_of_retry {h : Nat} {s t : State} (retry : (harrowAt h s).parkRetry = true)
    (cleared : t = modifyHarrow h (fun x => { x with parkRetry := false }) s) :
    execParkRetryTimer h s = .next (modifyHarrow h (parkStep (inParkedSet h t)) t) := by
  rw [execParkRetryTimer, if_pos retry, cleared]

/-- A WAKING harrow runs, or drains where it has entered the parked set again. -/
theorem execHarrowWakeDone_of_waking {h : Nat} {s : State} (waking : (harrowAt h s).park = .waking) :
    execHarrowWakeDone h s = .next (notePaceParked (modifyHarrow h (fun x =>
      { x with park := if x.parkAgain then .draining else .running, parkAgain := false }) s)) := by
  rw [execHarrowWakeDone, if_pos waking]

/-- A parked harrow is handed over where it stands (DEDUCED, log 81); after any but the last the next one drains. -/
theorem execHandover_of_parked {h : Nat} {s : State} (handing : handingOver h s = true) (parked : (harrowAt h s).park = .parked) (next : h < 31) :
    execHandover h s =
      .next (applyParkedSet (modifyFw (fun f => { f with handed := h + 1, abandons := 0 }) (fwHandoverRecord h stOk (runHandover h s)))) := by
  have more : h + 1 < 32 := by omega
  simp [execHandover, handover, handing, parked, more]

/-- Settles O13: each row by its own equation; every command of the Tines is an ordinary one. -/
theorem ticketRowsComplete : Obligations.TicketRowsComplete := by
  refine ⟨?dispatch, ?glean, ?watchdog, ?epochCommit, ?chunkCommit, fun e s x _ _ => completes_of_ordinary rfl rfl,
    fun s => completes_of_ordinary rfl rfl, ?drained, ?drainTimeout, ?parkRetry, ?wakeDone, ?handover⟩
  case dispatch =>
    exact fun tine run s u q t usable free queue oldest =>
      completes_of_ordinary rfl (execTicketDispatch_of_oldest usable free queue oldest)
  case glean =>
    intro tine run s u v t usable free running nothingHome
    have idle : TineIdle tine s u := ⟨usable, free, running, nothingHome⟩
    refine ⟨fun rescue => ?rescue, fun noRescue victim choice => ?victim⟩
    case rescue => exact completes_of_ordinary rfl (execGlean_of_rescue idle rescue)
    case victim => exact completes_of_ordinary rfl (execGlean_of_victim idle noRescue victim choice)
  case watchdog =>
    rintro tine s r u runs counting rfl
    have expiry := execTicketWatchdog_of_running runs counting
    refine ⟨fun first => ?requeued, fun second => ?ended⟩
    case requeued => exact completes_of_ordinary rfl (by rwa [if_pos first] at expiry)
    case ended => exact completes_of_ordinary rfl (by rwa [if_neg second] at expiry)
  case epochCommit =>
    rintro e s u x mode rfl entry opened
    rw [← commitEpoch_of_opened entry opened]
    exact completes_of_ordinary rfl (execEpochCommit_of_epoch mode)
  case chunkCommit =>
    exact fun e w x s mode work miss epoch => completes_of_ordinary rfl (execEpochCommit_of_miss mode work miss epoch)
  case drained => exact fun h s draining drained own => completes_of_ordinary rfl (execHarrowDrained_of_drained draining drained own)
  case drainTimeout => exact fun h s draining own => completes_of_ordinary rfl (execParkDrainTimeout_of_draining draining own)
  case parkRetry => exact fun h s t retry cleared => completes_of_ordinary rfl (execParkRetryTimer_of_retry retry cleared)
  case wakeDone => exact fun h s waking => completes_of_ordinary rfl (execHarrowWakeDone_of_waking waking)
  case handover =>
    exact fun h s handing parked next => completes_of_ordinary rfl (execHandover_of_parked handing parked next)

end Sys2Proof.Machine
end

section
/-! The rows of the ingest path (R55, R63, R70-R79, R85-R87, R206): what each row answers, case by case. -/

namespace Sys2Proof.Machine

/-! ## Composition (R70, R71) -/

section Compose

variable {ns g h : Nat} {f : MediaFacts} {rs : List BufferedRec} {s s1 s2 : State} {b plain : Bytes} {facts : MediaFacts}

/-- One of the records covers the whole grain, so that nothing of the stored one shows through. -/
def coversGrain (rs : List BufferedRec) : Bool := rs.any (fun r => decide (r.off = 0) && decide (r.len = 16384))

/-- A grain that is composed of the records `rs`: they wait, no composition of it runs, and no snapshot's copy of its page comes first. -/
structure Composes (ns g : Nat) (rs : List BufferedRec) (s : State) : Prop where
  mode : s.boot.mode ≠ .dump
  records : rs = composable (.grain ns g) s
  waiting : rs ≠ []
  alone : s.ingest.works.any (fun w => w.target == .grain ns g) = false
  page : pageReady (.grain ns g) s = true

/-- Such a grain is not passed over. -/
theorem Composes.not_passedOver (can : Composes ns g rs s) :
    ¬(composable (.grain ns g) s = [] ∨ s.ingest.works.any (fun w => w.target == .grain ns g) = true ∨ s.boot.mode = .dump) := by
  obtain ⟨mode, rfl, waiting, alone, -⟩ := can
  rw [alone]
  rintro (empty | running | dump)
  · exact waiting empty
  · cases running
  · exact mode dump

/-- The records of a grain that is covered, or was never written, are laid on zeros. -/
theorem execGrainComposition_of_fresh (can : Composes ns g rs s) (fresh : coversGrain rs = true ∨ entryChunk (liveEntry ns g s) = 0)
    (lay : layOver rs (zeros 16384) s = (plain, s1)) : execGrainComposition ns g h f s =
      .next (settle (startChunk (h % 32) (.grain ns g) plain (rs.map (fun r => (r.quadrant, r.seq))) s1)) := by
  have passed := can.not_passedOver
  obtain ⟨mode, rfl, -, -, page⟩ := can
  unfold coversGrain at fresh
  simp only [execGrainComposition, if_neg mode, composeGrain, if_neg passed, page, if_pos fresh, lay, Bool.true_eq_false, if_false]

/-- Those that cover a part of a stored grain are laid on what is read of it. -/
theorem execGrainComposition_of_read (can : Composes ns g rs s) (part : coversGrain rs = false)
    (stored : entryChunk (liveEntry ns g s) ≠ 0) (read : chunkRead ((g + ns) % 4) (liveEntry ns g s) f s = (.ok b, facts, s1))
    (lay : layOver rs (padTo 16384 b) s1 = (plain, s2)) : execGrainComposition ns g h f s =
      .next (settle (startChunk (h % 32) (.grain ns g) plain (rs.map (fun r => (r.quadrant, r.seq))) s2)) := by
  have passed := can.not_passedOver
  obtain ⟨mode, rfl, -, -, page⟩ := can
  unfold coversGrain at part
  simp only [execGrainComposition, if_neg mode, composeGrain, if_neg passed, page, part, stored, read, lay, Bool.true_eq_false,
    Bool.false_eq_true, or_self, if_false]

end Compose

/-! ## Cutting (R55) -/

/-- All of an object has landed: its length is known and reached. -/
def wholeLanded (x : OpenObject) : Bool := x.size == some x.landed

/-- The open objects once `n` bytes of `x` have been cut: an object of the directory that is cut to its end is open no longer. -/
def objectsCut (o : Nat) (x : OpenObject) (n : Nat) (s : State) : List OpenObject :=
  if wholeLanded x && decide (x.cut + n = x.landed) && (objectAt o s).isSome then s.ingest.objects.erase x
  else mapIf (fun y => y.number == o) (fun y => { y with cut := x.cut + n }) s.ingest.objects

/-- The next chunk of an open object is cut as soon as its length can be known. -/
theorem execChunkCut_of_cut {o h n : Nat} {s s1 : State} {x : OpenObject} {bytes : Bytes} (mode : s.boot.mode ≠ .dump)
    (object : s.ingest.objects.find? (fun x => x.number == o) = some x)
    (landed : objectBuffered o x.cut (min 131072 (x.landed - x.cut)) s = (bytes, s1))
    (cut : cutLength bytes (wholeLanded x && decide (x.landed - x.cut ≤ 131072)) = some n) : execChunkCut o h s =
      .next (settle (startChunk (h % 32) (.piece o x.cut n) (bytes.take n) []
        (modifyIngest (fun i => { i with objects := objectsCut o x n s }) s1))) := by
  unfold wholeLanded at cut
  simp only [execChunkCut, if_neg mode, chunkCut, object, landed, cut]
  rfl

/-! ## Fingerprints and run-ahead (R58, R72, R77) -/

section Fingerprint

variable {w : Nat} {s s2 : State} {x : ChunkWork} {e : EpochRef}

/-- A chunk with its fingerprint, and with the level and key epoch that its domain now has (DESIGN CHOICE 136). -/
def fingerprinted (w : Nat) (x : ChunkWork) (s : State) : State :=
  countIngest (harrowQuadrant x.harrow) (fun c => { c with chunksIn := bump c.chunksIn }) (modifyWork w (fun y =>
    { y with fp := some (fingerprint x.domain x.plain s), level := (domainNow x.domain s).1, keyEpoch := (domainNow x.domain s).2 }) s)

/-- Where the harrow's budget or its entries allow no epoch, the chunk is only fingerprinted. -/
theorem execFingerprint_of_noEpoch (work : workAt w s = some x) (fresh : x.fp = none)
    (noEpoch : openEpoch x.harrow w (fingerprinted w x s) = none) :
    execFingerprint w s = .next (fingerprinted w x s) := by
  unfold fingerprinted at noEpoch
  simp [execFingerprint, fingerprintWork, work, fresh, noEpoch, fingerprinted]

/-- Where they do, its run-ahead begins in that epoch with a reserved chunk ID. -/
theorem execFingerprint_of_epoch (work : workAt w s = some x) (fresh : x.fp = none)
    (opened : openEpoch x.harrow w (fingerprinted w x s) = some (e, s2)) : execFingerprint w s =
      .next (workReserve { x with epoch := some e } (modifyWork w (fun y => { y with epoch := some e }) s2)) := by
  unfold fingerprinted at opened
  simp [execFingerprint, fingerprintWork, work, fresh, opened]

end Fingerprint

/-! ## The dedup decision (R73-R76, Table 3-5) -/

section Dedup

variable {w : Nat} {fpos : Bool} {f : MediaFacts} {s s1 s2 : State} {x : ChunkWork} {fp : Bytes} {e : IndexEntry}

/-- A fingerprinted chunk whose decision is open and waits for no other chunk. -/
structure Undecided (w : Nat) (x : ChunkWork) (fp : Bytes) (s : State) : Prop where
  mode : s.boot.mode ≠ .dump
  work : workAt w s = some x
  fingerprint : x.fp = some fp
  undecided : x.decision = .undecided
  ready : decisionWaits x s = false

/-- Neither Winnow nor the summary filter knows the fingerprint: a miss. -/
theorem execDedupLookup_of_unknown (chunk : Undecided w x fp s) (cold : winnowHot (hotKey x.domain fp) s = (none, s1))
    (unknown : s.ingest.filter.contains (hotKey x.domain fp) = false) :
    execDedupLookup w false f s = .next (settle (decideMiss x false s1)) := by
  obtain ⟨mode, work, fingerprint, undecided, ready⟩ := chunk
  simp only [execDedupLookup, if_neg mode, dedupLookup, work, fingerprint, undecided, ready, cold, unknown, ne_eq, not_true_eq_false,
    Bool.false_eq_true, or_self, if_false, Bool.or_self, Bool.not_false, if_true]

/-- Winnow names the index page that holds the entry, and the hit is confirmed: it is applied. -/
theorem execDedupLookup_of_hit (chunk : Undecided w x fp s) (hot : winnowHot (hotKey x.domain fp) s = (some e.page, s1))
    (entry : indexFind x.domain fp s = some e)
    (confirmed : confirmHit x e.entry f (countIngest (harrowQuadrant x.harrow) (fun c => { c with hitsWinnow := bump c.hitsWinnow }) s1) =
      (true, s2)) : execDedupLookup w fpos f s = .next (settle (applyHit x e.entry s2)) := by
  obtain ⟨mode, work, fingerprint, undecided, ready⟩ := chunk
  simp only [execDedupLookup, if_neg mode, dedupLookup, work, fingerprint, undecided, ready, hot, entry, confirmed, ne_eq,
    not_true_eq_false, Bool.false_eq_true, or_self, if_false, if_true]

end Dedup

/-! ## Bales (R85) -/

/-- The time of an open bale that is not torn is up: it is sealed. -/
theorem execBaleSealTimeout_of_open {a n : Nat} {s : State} {b : Bale} (bale : baleAt a n s = some b) (opened : b.closed = false)
    (mode : s.boot.mode ≠ .dump) (sound : (acreAt a s).any (fun x => x.torn.contains n) = false) : execBaleSealTimeout a n s =
      .next (sealBale a n (countIngest b.quadrant (fun c => { c with balesSealedTimeout := bump c.balesSealedTimeout }) s)) := by
  simp only [execBaleSealTimeout, baleSealTimeout, bale, opened, mode, sound, Bool.false_eq_true, and_false, or_self, if_false]

/-- A closed bale with all its plots programmed, without reclaim's copies and not the last of its acre, commits. -/
theorem execBaleCommit_of_programmed {a n : Nat} {s : State} {b : Bale} {x : Acre} (bale : baleAt a n s = some b) (acre : acreAt a s = some x)
    (closed : b.closed = true) (programmed : b.waiting = []) (noCopies : b.victims = []) (mode : s.boot.mode ≠ .dump)
    (more : x.committed + 1 ≠ x.nBales) : execBaleCommit a n s =
      .next (dumpRelease (settle (hswSync (modifyAcre a (fun y => { y with committed := y.committed + 1 })
        { s with media := { s.media with bales := s.media.bales.filter (fun y => !(y.acre == a && y.bale == n)) } })))) := by
  simp only [execBaleCommit, baleCommit, bale, acre, closed, programmed, noCopies, mode, if_neg more, ne_eq, not_true_eq_false,
    Bool.true_eq_false, or_self, if_false, List.foldl_nil]

/-! ## The journal, its rows and the checkpoint (R86, R87, R206) -/

/-- Records that have waited their time are written. -/
theorem execJournalPersistTimeout_of_waiting {s : State} (mode : s.boot.mode ≠ .dump) (waiting : journalUnits s ≠ []) :
    execJournalPersistTimeout s = .next (metaFlush s) := by
  rw [execJournalPersistTimeout, if_neg (not_or.mpr ⟨mode, waiting⟩)]

/-- A metadata row that has committed is in effect for all that waits for its units. -/
theorem execMetadataRowCommit_of_committed {n : Nat} {r : MetaRow} {s : State} (row : s.journal.rows.find? (fun r => r.id == n) = some r)
    (committed : (rowCommit n s).journal.rows.any (fun x => x.id == n) = false) : execMetadataRowCommit n s =
      .next (hswSync (afterRows (almUnits r.units (configCommitted r.units (rowCommit n s))))) := by
  simp only [execMetadataRowCommit, metadataRowCommit, row, committed, Bool.false_eq_true, if_false]

/-- Outside DUMP a checkpoint begins. -/
theorem execCheckpointTimer_of_serving {s : State} (mode : s.boot.mode ≠ .dump) : execCheckpointTimer s =
    .next (advanceCheckpoint (beginCheckpoint { s with journal := { s.journal with lastCheckpoint := s.time.ticks } })) := by
  rw [execCheckpointTimer, if_neg mode]

/-! ## Admission (R63) -/

/-- Admission that has stopped resumes once the buffer stands 5% of its size below its limit. -/
theorem execAdmissionResume_of_drained {s : State} (stopped : s.ingest.stopped = true)
    (room : wbBytes s + 5 * wbCapacity s / 100 ≤ wbLimit s) :
    execAdmissionResume s = .next (resumeSheaf (resumeIo (postOwed (modifyIngest (fun i => { i with stopped := false }) s)))) := by
  rw [execAdmissionResume, admissionResume, if_pos ⟨stopped, room⟩]

/-! ## Late reads (R101, R102) -/

/-- A read that is late and can be rebuilt from the other plots of its bale fills the cache. -/
theorem execReadTimeoutExpiry_of_rebuilt {q e : Nat} {f : MediaFacts} {s t : State} {l : Loc} {a : Acre} {home : Nat × Nat × Nat} {r : Option Bytes}
    {data : Bytes} {facts : MediaFacts} (loc : entryLoc e s = some l) (acre : acreHome l.acre s = some a) (stored : l.len ≠ 0)
    (plot : home = plotHome a l.plot l.bale)
    (rebuilt : rebuildRead (q % 4) e l a [] 131072 f
      (countReads (q % 4) (fun c => { c with readLate := bump c.readLate }) (dieSilent home.1 home.2.1 s)) = (some (.good data r), facts, t)) :
    execReadTimeoutExpiry q e f s = .next (hswSync (cacheFill e data true t)) := by
  subst plot
  simp only [execReadTimeoutExpiry, readTimeout, loc, acre, if_neg stored, rebuilt]

/-- Settles O14: each row by its own equation; every command of the ingest path is an ordinary one. -/
theorem ingestRowsComplete : Obligations.IngestRowsComplete := by
  refine ⟨?compose, ?cut, ?fingerprint, ?dedup, ?sealTimeout, ?baleCommit, ?journal, ?rowCommit, ?checkpoint, ?resume, ?readTimeout⟩
  case compose =>
    intro ns g h f s rs mode records waiting alone page
    have can : Composes ns g rs s := ⟨mode, records, waiting, alone, page⟩
    refine ⟨fun plain s1 fresh lay => ?fresh, fun b facts s1 plain s2 part stored read lay => ?read⟩
    case fresh => exact completes_of_ordinary rfl (execGrainComposition_of_fresh can fresh lay)
    case read => exact completes_of_ordinary rfl (execGrainComposition_of_read can part stored read lay)
  case cut =>
    rintro o h s x bytes s1 n rest mode object landed cut rfl
    exact completes_of_ordinary rfl (execChunkCut_of_cut mode object landed cut)
  case fingerprint =>
    refine fun w s x work fresh => ⟨fingerprinted w x s, rfl, fun noEpoch => ?noEpoch, fun e s2 opened => ?epoch⟩
    case noEpoch => exact completes_of_ordinary rfl (execFingerprint_of_noEpoch work fresh noEpoch)
    case epoch => exact completes_of_ordinary rfl (execFingerprint_of_epoch work fresh opened)
  case dedup =>
    intro w fpos f s x fp hot s1 mode work fingerprint undecided ready search
    have chunk : Undecided w x fp s := ⟨mode, work, fingerprint, undecided, ready⟩
    refine ⟨?unknown, ?hit⟩
    case unknown =>
      rintro rfl unknown rfl
      exact completes_of_ordinary rfl (execDedupLookup_of_unknown chunk search unknown)
    case hit =>
      rintro e s2 rfl entry confirmed
      exact completes_of_ordinary rfl (execDedupLookup_of_hit chunk search entry confirmed)
  case sealTimeout =>
    exact fun a n s b bale opened mode sound => completes_of_ordinary rfl (execBaleSealTimeout_of_open bale opened mode sound)
  case baleCommit =>
    exact fun a n s b x bale acre closed programmed noCopies mode more =>
      completes_of_ordinary rfl (execBaleCommit_of_programmed bale acre closed programmed noCopies mode more)
  case journal => exact fun s mode waiting => completes_of_ordinary rfl (execJournalPersistTimeout_of_waiting mode waiting)
  case rowCommit => exact fun n r s row committed => completes_of_ordinary rfl (execMetadataRowCommit_of_committed row committed)
  case checkpoint => exact fun s mode => completes_of_ordinary rfl (execCheckpointTimer_of_serving mode)
  case resume => exact fun s stopped room => completes_of_ordinary rfl (execAdmissionResume_of_drained stopped room)
  case readTimeout =>
    exact fun q e f s l a home r data facts t loc acre stored plot rebuilt =>
      completes_of_ordinary rfl (execReadTimeoutExpiry_of_rebuilt loc acre stored plot rebuilt)

end Sys2Proof.Machine
end

section
/-! Winnow (R132-R151): what its MCI commands answer on legal operands, and what its rows make of the entries. -/

namespace Sys2Proof.Machine

/-! ## Commands that are answered from their own body (R479, R480) -/

section Started

variable {o : Nat} {c : Instr} {p : McPacket} {body : State → McEnd × State} {s u t : State} {result : Bytes}

/-- A started command whose body ends well is answered with ST_OK in the body's state. -/
theorem answers_of_ok (plain : ordinary c = true) (start : Starts o p s u) (meaning : exec c s = .next (mciRun o p body s))
    (ended : body u = ok result t) : Answers c p stOk result s t :=
  completes_of_starts start meaning (exec_steady c s plain) (by rw [ended]; rfl)

/-- A started command whose body answers with records reports them. -/
theorem reports_of_answerRecords {records : List Bytes} (plain : ordinary c = true) (start : Starts o p s u)
    (meaning : exec c s = .next (mciRun o p body s)) (ended : body u = answerRecords p records result t) : Reports c p records result s t :=
  completes_of_starts start meaning (exec_steady c s plain) (by rw [ended])

end Started

/-! ## The commands' bodies on legal operands (Table 6-8) -/

section Bodies

variable {p : McPacket} {u : State}

theorem winnowTableGet_of_table (table : parm p 0 1 < 8) :
    winnowTableGet p u = ok (leBytes 8 (wtDesc (parm p 0 1) u) ++ leBytes 8 (validEntries (parm p 0 1) u)) u :=
  if_neg (Nat.not_le_of_lt table)

/-- `winnowTableSet`'s test for an overlap fails where the new descriptor overlaps none of the other tables' (R137). -/
theorem any_descsOverlap_eq_false {d t : Nat} (apart : ∀ v, v < 8 → v ≠ t → descsOverlap d ((futureDescs u).getD v 0) = false) :
    (List.range 8).any (fun v => v != t && descsOverlap d ((futureDescs u).getD v 0)) = false := by
  rw [List.any_eq_false]
  intro v hv both
  obtain ⟨other, overlap⟩ := (Bool.and_eq_true_iff ..).mp both
  rw [apart v (List.mem_range.mp hv) (bne_iff_ne.mp other)] at overlap
  exact Bool.false_ne_true overlap

/-- A legal descriptor of a quiesced table is pending (R135, R137, R147). -/
theorem winnowTableSet_of_legal (table : parm p 0 1 < 8) (reserved : parm p 0 1 < 3 ∨ parm p 8 8 = 0) (legal : descLegal (parm p 8 8) = true)
    (apart : ∀ v, v < 8 → v ≠ parm p 0 1 → descsOverlap (parm p 8 8) ((futureDescs u).getD v 0) = false)
    (quiesced : fullyQuiesced (0x10 + parm p 0 1) u = true) : winnowTableSet p u = ok [] { u with
      winnow := { u.winnow with pendingDesc := insertAt (parm p 0 1) (BitVec.ofNat 64 (parm p 8 8)) u.winnow.pendingDesc } } := by
  have zero : ¬(3 ≤ parm p 0 1 ∧ parm p 8 8 ≠ 0) := by omega
  simp only [winnowTableSet, if_neg (Nat.not_le_of_lt table), zero, legal, any_descsOverlap_eq_false apart, quiesced, Bool.true_eq_false,
    Bool.false_eq_true, or_self, if_false]

/-- A mask register other than MASK0 of a quiesced table is pending, its upper half zero where the table is not WIDE (R139, R147). -/
theorem winnowMaskSet_of_legal (table : parm p 0 1 < 8) (notMask0 : 0 < parm p 1 1) (mask : parm p 1 1 < 16)
    (upper : wtWide ((futureDescs u).getD (parm p 0 1) 0) = true ∨ parm p 20 12 = 0) (quiesced : fullyQuiesced (0x10 + parm p 0 1) u = true) :
    winnowMaskSet p u = ok [] { u with winnow := { u.winnow with
      pendingMasks := insertAt (16 * parm p 0 1 + parm p 1 1) (BitVec.ofNat 192 (parm p 8 24)) u.winnow.pendingMasks } } := by
  have register : ¬(8 ≤ parm p 0 1 ∨ parm p 1 1 = 0 ∨ 16 ≤ parm p 1 1) := by omega
  have fits : ¬(wtWide ((futureDescs u).getD (parm p 0 1) 0) = false ∧ parm p 20 12 ≠ 0) := fun ⟨narrow, nonzero⟩ =>
    upper.elim (fun wide => Bool.false_ne_true (narrow.symm.trans wide)) nonzero
  simp only [winnowMaskSet, if_neg register, if_neg fits, quiesced, Bool.true_eq_false, if_false]

/-- WINNOW_SEARCH searches with NOCOUNT, and no upset strikes it. -/
theorem winnowSearchCmd_of_register (table : parm p 0 1 < 8) (mask : parm p 1 1 < 16) :
    winnowSearchCmd p u = ok (leBytes 8 (winnowSearch (parm p 0 1) (parm p 1 1) (parm p 8 24) true 0 u).1)
      (winnowSearch (parm p 0 1) (parm p 1 1) (parm p 8 24) true 0 u).2 :=
  if_neg (by omega)

/-- WINNOW_READ of a valid entry. -/
theorem winnowRead_of_valid {x : WinnowEntry} (table : parm p 0 1 < 8) (bank : parm p 2 1 < 64) (entry : parm p 4 2 < 8192)
    (valid : lookup (entryKey (parm p 2 1) (parm p 4 2)) u.winnow.entries = some x) :
    winnowRead p u = answerRecords p
      [leBytes 24 ((unitKey (wtWide (wtDesc (parm p 0 1) u) && parm p 2 1 % 2 == 0) (parm p 2 1) (parm p 4 2) u).getD x.key.toNat)
        ++ leBytes 4 x.data.toNat ++ leBytes 1 x.hits ++ leBytes 1 1] [] u := by
  have inRange : ¬(8 ≤ parm p 0 1 ∨ 64 ≤ parm p 2 1 ∨ 8192 ≤ parm p 4 2) := by omega
  simp only [winnowRead, if_neg inRange, valid]

/-- WINNOW_READ of an invalid entry. -/
theorem winnowRead_of_invalid (table : parm p 0 1 < 8) (bank : parm p 2 1 < 64) (entry : parm p 4 2 < 8192)
    (invalid : lookup (entryKey (parm p 2 1) (parm p 4 2)) u.winnow.entries = none) :
    winnowRead p u = answerRecords p [zeros 30] [] u := by
  have inRange : ¬(8 ≤ parm p 0 1 ∨ 64 ≤ parm p 2 1 ∨ 8192 ≤ parm p 4 2) := by omega
  simp only [winnowRead, if_neg inRange, invalid]

theorem winnowClearCmd_of_table (table : parm p 0 1 < 8) : winnowClearCmd p u = ok [] (winnowClearTable (wtDesc (parm p 0 1) u) u) :=
  if_neg (Nat.not_le_of_lt table)

theorem winnowStats_of_table (table : parm p 0 1 < 8) :
    winnowStats p u = answerRecords p [(winnowWords (parm p 0 1) u).flatMap (leBytes 8)] [] u :=
  if_neg (Nat.not_le_of_lt table)

end Bodies

/-- Settles O1: each command by what its body makes of legal operands. -/
theorem winnowCommandsAnswer : Obligations.WinnowCommandsAnswer := by
  refine ⟨?tableGet, ?tableSet, ?maskSet, ?search, ?readValid, ?readInvalid, ?clear, ?stats⟩
  case tableGet => exact fun p s u start table => answers_of_ok rfl start rfl (winnowTableGet_of_table table)
  case tableSet =>
    exact fun p s u start table reserved legal apart quiesced =>
      answers_of_ok rfl start rfl (winnowTableSet_of_legal table reserved legal apart quiesced)
  case maskSet =>
    exact fun p s u start table notMask0 mask upper quiesced =>
      answers_of_ok rfl start rfl (winnowMaskSet_of_legal table notMask0 mask upper quiesced)
  case search => exact fun p s u start table mask => answers_of_ok rfl start rfl (winnowSearchCmd_of_register table mask)
  case readValid =>
    exact fun p s u x start table bank entry valid =>
      reports_of_answerRecords rfl start rfl (winnowRead_of_valid table bank entry valid)
  case readInvalid =>
    exact fun p s u start table bank entry invalid =>
      reports_of_answerRecords rfl start rfl (winnowRead_of_invalid table bank entry invalid)
  case clear => exact fun p s u start table => answers_of_ok rfl start rfl (winnowClearCmd_of_table table)
  case stats => exact fun p s u start table => reports_of_answerRecords rfl start rfl (winnowStats_of_table table)

/-! ## The rows (R134, R142-R144, R148) -/

/-- SEARCH sends the result word and leaves the table as the search does. -/
theorem execSearch_of_winnowSearch {table mask badParity n : Nat} {key : BitVec 192} {nocount : Bool} {s u : State}
    (found : winnowSearch (table % 8) (mask % 16) key.toNat nocount badParity s = (n, u)) :
    execSearch table mask key nocount badParity s = .next (emit (.winnowResult (BitVec.ofNat 64 n)) u) := by
  simp only [execSearch, found]

/-- An INSERT that is not a guarded request is made (R144). -/
theorem execInsert_of_unguarded {table data : Nat} {key : BitVec 192} {ticket : Option EpochRef} {s : State}
    (unguarded : winnowGuarded (table % 8) ticket s = false) :
    execInsert table key data ticket s = .next (winnowInsert (table % 8) key.toNat data s) := by
  simp only [execInsert, unguarded, Bool.false_eq_true, if_false]

/-- A DELETE that is not a guarded request is made, and its count sent (R143, R144). -/
theorem execWinnowDelete_of_unguarded {table mask n : Nat} {key : BitVec 192} {ticket : Option EpochRef} {s u : State}
    (unguarded : winnowGuarded (table % 8) ticket s = false)
    (deleted : winnowDelete (table % 8) (mask % 16) key.toNat s = (n, u)) :
    execWinnowDelete table mask key ticket s = .next (emit (.winnowDeleted n) u) := by
  simp only [execWinnowDelete, unguarded, deleted, Bool.false_eq_true, if_false]

/-- After INVENTORY table 0 is refilled, the newest index page first. -/
theorem execWinnowRebuild_of_afterInventory {s : State} (notBoot : s.boot.mode ≠ .boot) (notRecovery : s.boot.mode ≠ .recovery)
    (notInventory : s.boot.mode ≠ .inventory) :
    execWinnowRebuild s = .next (refill (paramNat 0x0600 0 s) (newestFirst s) s) := by
  unfold execWinnowRebuild
  split
  case h_1 boot => exact absurd boot notBoot
  case h_2 recovery => exact absurd recovery notRecovery
  case h_3 inventory => exact absurd inventory notInventory
  case h_4 => rfl

/-- Settles O15: each row by its own equation; every row of Winnow is an ordinary command. AGE, CLEAR and the ageing of table 0 are unconditional. -/
theorem winnowRowsComplete : Obligations.WinnowRowsComplete := by
  refine ⟨?search, ?insert, ?delete, fun b s => completes_of_ordinary rfl rfl, fun b s => completes_of_ordinary rfl rfl,
    fun s => completes_of_ordinary rfl rfl, ?rebuild⟩
  case search => exact fun t m key nc bad s n u found => completes_of_ordinary rfl (execSearch_of_winnowSearch found)
  case insert => exact fun t key d k s unguarded => completes_of_ordinary rfl (execInsert_of_unguarded unguarded)
  case delete =>
    exact fun t m key k s n u unguarded deleted => completes_of_ordinary rfl (execWinnowDelete_of_unguarded unguarded deleted)
  case rebuild =>
    exact fun s notBoot notRecovery notInventory =>
      completes_of_ordinary rfl (execWinnowRebuild_of_afterInventory notBoot notRecovery notInventory)

end Sys2Proof.Machine
end

section
/-! What a reset loses and what it leaves, seen while RESET_N is low (Table 21-3, R148, R445, R471). -/

namespace Sys2Proof.Machine

/-! ## The parts of the head in reset that no kind of reset keeps -/

section InReset

variable (kind : ResetKind) (s : State)

@[simp] theorem inReset_mem : (inReset kind s).mem = resetMem := rfl
@[simp] theorem inReset_winnow : (inReset kind s).winnow = resetWinnow := rfl
@[simp] theorem inReset_granary : (inReset kind s).granary = resetGranary := rfl
@[simp] theorem inReset_dma : (inReset kind s).dma = List.replicate 256 resetChannel := rfl
@[simp] theorem inReset_slots : (inReset kind s).cipher.slots = resetCipher.slots := rfl
@[simp] theorem inReset_sheaf : (inReset kind s).sheaf = resetSheaf := rfl
@[simp] theorem inReset_map : (inReset kind s).map = resetTables := rfl
@[simp] theorem inReset_read : (inReset kind s).read = resetRead := rfl
@[simp] theorem inReset_furrow : (inReset kind s).furrow = List.replicate 192 resetFurrow := rfl

/-! ## The parts that every reset leaves standing -/

@[simp] theorem inReset_bridges : (inReset kind s).bridges = s.bridges := rfl
@[simp] theorem inReset_vault : (inReset kind s).vault = s.vault := rfl
@[simp] theorem inReset_pending : (inReset kind s).pending = s.pending := rfl

end InReset

/-- A power-on or pin reset whose RESET_N is still low leaves the head in reset, with RESET_N low. -/
theorem exec_heldReset {c : Instr} {s t : State} (held : ∃ strap, c = .powerOnReset true strap ∨ c = .pinReset true strap)
    (run : exec c s = .next t) : ∃ kind, t = modifyBoot (fun b => { b with resetLow := true }) (inReset kind s) := by
  obtain ⟨strap, rfl | rfl⟩ := held
  · cases run
    exact ⟨.powerOn, rfl⟩
  · cases run
    exact ⟨.pin, rfl⟩

/-- Settles O49: whichever kind of reset is held, the head is `inReset`, whose parts the lemmas above give. -/
theorem resetsLoseTheStores : Obligations.ResetsLoseTheStores := by
  intro c s t held run
  obtain ⟨kind, rfl⟩ := exec_heldReset held run
  simp

end Sys2Proof.Machine
end

section
/-! The Voxca and cipher rows (R152-R184, R194): what each row answers, case by case. -/

namespace Sys2Proof.Machine

/-! ## Compression (R77, R78, R161-R163) -/

section Compress

variable {h e w : Nat} {s : State} {x : ChunkWork}

/-- A chunk that a compressor may take: neither stored nor waiting for the verifier, in run-ahead or decided a miss (R77). -/
structure Compressible (w : Nat) (x : ChunkWork) (s : State) : Prop where
  work : workAt w s = some x
  unstored : x.stored = none
  noStream : x.stream = none
  released : x.epoch.isSome = true ∨ x.decision = .miss

/-- Such a chunk is not passed over for want of run-ahead or of a decision. -/
theorem Compressible.not_held (can : Compressible w x s) : ¬(x.epoch.isNone = true ∧ x.decision ≠ .miss) :=
  fun ⟨noEpoch, notMiss⟩ => can.released.elim (Option.not_isSome_iff_eq_none.mpr (Option.isNone_iff_eq_none.mp noEpoch)) notMiss

/-- A chunk whose domain compresses at level 0 is stored raw. -/
theorem execVoxcaCompress_of_levelZero {fault : Option Bytes} (can : Compressible w x s) (raw : x.level = 0) :
    execVoxcaCompress h e w fault s = .next (storeRaw x s) := by
  have held := can.not_held
  obtain ⟨work, unstored, noStream, -⟩ := can
  simp only [execVoxcaCompress, voxcaCompress, work, unstored, noStream, if_neg held, raw, Option.isSome_none, Bool.false_eq_true, or_self,
    if_true, if_false]

/-- A stream within the limit waits for the verifier, and the engine has consumed the whole chunk. -/
theorem execVoxcaCompress_of_withinLimit (can : Compressible w x s) (level : 0 < x.level) (serving : allQuarantined s = false)
    (usable : compressorUsable h e s = true) (fits : (vxEncode x.level x.plain).length ≤ vxLimit x.plain.length) :
    execVoxcaCompress h e w none s = .next (modifyWork w (fun y => { y with stream := some (vxEncode x.level x.plain, h, e) })
      (modifySlice h (fun y => { y with compInBytes := bump y.compInBytes x.plain.length }) s)) := by
  have held := can.not_held
  obtain ⟨work, unstored, noStream, -⟩ := can
  simp only [execVoxcaCompress, voxcaCompress, work, unstored, noStream, if_neg held, if_neg (Nat.ne_of_gt level), serving, usable,
    Option.getD_none, if_neg (Nat.not_lt.mpr fits), Option.isSome_none, Bool.not_true, Bool.false_eq_true, or_self, if_false]

/-! ## Verification (R164) -/

/-- A stream that decodes to the chunk's plaintext is what will be stored. -/
theorem execVoxcaVerify_of_vxOk {b : Bytes} (work : workAt w s = some x) (stream : x.stream = some (b, h, e))
    (good : vxCode (verifyStatus b x.plain) = vxOk) :
    execVoxcaVerify w s = .next (modifyWork w (fun y => { y with stored := some (1, b), stream := none })
      (modifySlice h (fun y => { y with compOutBytes := bump y.compOutBytes b.length })
        (compressorStatus h e (verifyStatus b x.plain) s))) := by
  simp only [execVoxcaVerify, voxcaVerify, work, stream, if_pos good]

end Compress

/-! ## Decompression (R158, R167, R168) -/

/-- A decompressor in service takes a stream of 8 to 262,144 bytes, and sends on the plaintext it delivers, if any. -/
theorem execVoxcaDecompress_of_decodeTwice {h e st : Nat} {b out : Bytes} {stop fault : Option Nat} {s t : State}
    (usable : decompressorUsable h e s = true) (least : 8 ≤ b.length) (most : b.length ≤ 262144)
    (decoded : decodeTwice h e b stop fault s = (st, out, t)) :
    execVoxcaDecompress h e b stop fault s = .next (if out.isEmpty then t else emit (.plaintext out) t) := by
  simp only [execVoxcaDecompress, usable, decoded, Nat.not_lt.mpr least, Nat.not_lt.mpr most, Bool.not_true, Bool.false_eq_true, or_self,
    if_false]

/-! ## Cipher requests (R174-R178) -/

section Request

variable {op : CipherOp} {tine unit : Nat} {epoch : Option EpochRef} {r : CipherRequest} {s : State}

/-- The command that requests a cipher operation (Table 8-3). -/
def requestInstr (op : CipherOp) (tine unit : Nat) (epoch : Option EpochRef) (r : CipherRequest) : Instr :=
  match op with
  | .gcmEncrypt => .gcmEncrypt tine unit epoch r
  | .gcmDecrypt => .gcmDecrypt tine unit epoch r
  | .hmac => .hmac tine unit epoch r

/-- The three request rows, each the command of its operation. -/
theorem eq_requestInstr_of_mem {c : Instr} (row : (op, c) ∈ [(CipherOp.gcmEncrypt, Instr.gcmEncrypt tine unit epoch r),
    (.gcmDecrypt, .gcmDecrypt tine unit epoch r), (.hmac, .hmac tine unit epoch r)]) : c = requestInstr op tine unit epoch r := by
  simp only [List.mem_cons, Prod.mk.injEq, List.not_mem_nil, or_false] at row
  obtain ⟨rfl, rfl⟩ | ⟨rfl, rfl⟩ | ⟨rfl, rfl⟩ := row <;> rfl

/-- A request row completes in the state that the request leaves. -/
theorem completes_requestInstr {t : State} (request : cipherRequest op tine unit epoch r s = t) :
    Completes (requestInstr op tine unit epoch r) s t := by
  subst request
  cases op with
  | gcmEncrypt => exact completes_of_ordinary rfl rfl
  | gcmDecrypt => exact completes_of_ordinary rfl rfl
  | hmac => exact completes_of_ordinary rfl rfl

/-- A request that R177 refuses takes a number and ends at once with ST_BAD_PARAM, on cores that are undefined. -/
theorem cipherRequest_of_bad {u : Nat} {t : State} (bad : cipherBad op r s = true) (undef : undefNat s = (u, t)) :
    cipherRequest op tine unit epoch r s =
      emit (.cipherDone s.cipher.nextJob (cipherWord stBadParam (u % 64) (u / 64) 0))
        (modifyCipher (fun x => { x with nextJob := s.cipher.nextJob + 1 }) t) := by
  simp only [cipherRequest, bad, undef, if_true]

/-- Any other waits at the complex it is routed to; those passed over count it, and its slot is the most recently used. -/
theorem cipherRequest_of_routed {q k : Nat} (good : cipherBad op r s = false) (quadrant : q = tine / 128 % 4)
    (route : (if op = .hmac then some q else routeFrom q s) = some k) :
    cipherRequest op tine unit epoch r s =
      cipherSchedule (touchSlot r.keySlot (countComplex (k % 4) (fun x => { x with requests := bump x.requests })
        (countPassed q ((k + 4 - q) % 4) (modifyCipher (fun x => { x with nextJob := s.cipher.nextJob + 1, jobs := x.jobs ++
          [{ id := s.cipher.nextJob, op := op, req := r, harrow := unit, tine := tine, epoch := epoch, complex := k, pair := none,
             repeats := none }] }) s)))) := by
  subst quadrant
  simp only [cipherRequest, good, route, Bool.false_eq_true, if_false]

end Request

/-! ## Cipher completions (R176-R182) -/

section Completion

variable {n : Nat} {s t : State} {j : CipherJob}

/-- A job that its engines have finished: it was granted its cores, and its working slot still holds a key. -/
structure JobFinished (n : Nat) (j : CipherJob) (s : State) : Prop where
  job : s.cipher.jobs.find? (fun j => j.id == n) = some j
  granted : j.pair.isSome = true ∨ j.op = .hmac
  keyed : (slotAt j.req.keySlot s).state ≠ .empty

/-- Such a job does not still wait for its cores. -/
theorem JobFinished.not_waiting (done : JobFinished n j s) : ¬(j.pair.isNone = true ∧ j.op ≠ .hmac) :=
  fun ⟨noPair, notHmac⟩ => done.granted.elim (Option.not_isSome_iff_eq_none.mpr (Option.isNone_iff_eq_none.mp noPair)) notHmac

/-- Outputs that disagree are a cipher fault (R179). -/
theorem execCipherCompletion_of_disagree (done : JobFinished n j s) :
    execCipherCompletion n false s = .next (cipherYield (cipherSchedule (cipherFault j s))) := by
  have waiting := done.not_waiting
  obtain ⟨job, -, keyed⟩ := done
  simp only [execCipherCompletion, cipherComplete, job, if_neg waiting, if_neg keyed, if_true]

/-- A decrypt whose tag differs ends with ST_AUTH_FAILED, its output withheld. -/
theorem execCipherCompletion_of_tagFail (done : JobFinished n j s) (result : cipherResult j s = (none, t)) :
    execCipherCompletion n true s = .next (cipherYield (cipherSchedule (finishJob j stAuthFailed 0
      (withholdDst j (countComplex (j.complex % 4) (fun x => { x with tagFails := bump x.tagFails }) t))))) := by
  have waiting := done.not_waiting
  obtain ⟨job, -, keyed⟩ := done
  simp only [execCipherCompletion, cipherComplete, job, if_neg waiting, if_neg keyed, result, Bool.true_eq_false, if_false]

/-- Any other result goes into the destination buffer, and the job ends with ST_OK. -/
theorem execCipherCompletion_of_output {b : Bytes} (done : JobFinished n j s) (result : cipherResult j s = (some b, t)) :
    execCipherCompletion n true s = .next (cipherYield (cipherSchedule (finishJob j stOk b.length
      (bufferPut j.req.dst 0 b (countComplex (j.complex % 4) (fun x => { x with bytes := bump x.bytes j.req.len }) t))))) := by
  have waiting := done.not_waiting
  obtain ⟨job, -, keyed⟩ := done
  simp only [execCipherCompletion, cipherComplete, job, if_neg waiting, if_neg keyed, result, Bool.true_eq_false, if_false]

end Completion

/-! ## Working slots and epochs (R184, R194) -/

/-- An EVICTING slot without requests becomes EMPTY, and the eviction is counted. -/
theorem slotEmptied_of_evicting {n : Nat} {s : State} (evicting : (slotAt n s).state = .evicting) (unused : slotRefs n s = 0) :
    slotEmptied n s = countComplexes (fun c => { c with slotEvictions := bump c.slotEvictions }) (setSlot n emptySlot s) :=
  if_pos ⟨evicting, unused⟩

/-- Where no load waits for the emptied slot, that is all an eviction does. -/
theorem execSlotEvictDone_of_noLoad {n : Nat} {s t : State} (emptied : slotEmptied n s = t)
    (noLoad : t.cipher.loads.find? (fun l => l.slot == n) = none) : execSlotEvictDone n s = .next t := by
  simp only [execSlotEvictDone, emptied, noLoad]

/-- A peer that stays present without acknowledging the key of a new epoch has that epoch retired. -/
theorem execKeyLoadAckTimeout_of_awaited {d e : Nat} {s : State} (peer : s.headland.peerPresent = true)
    (awaited : s.cipher.advances.any (fun a => a.domain == d && a.epoch == e && a.step == 4) = true) :
    execKeyLoadAckTimeout d e s = .next (retireEpoch d e stInternal s) := by
  rw [execKeyLoadAckTimeout, if_pos ⟨peer, awaited⟩]

/-- Settles O16: each row by its own equation; every row of Voxca and of the cipher is an ordinary command. -/
theorem engineRowsComplete : Obligations.EngineRowsComplete := by
  refine ⟨?raw, ?compress, ?verify, ?decompress, ?request, ?completion, fun n s l _ _ => completes_of_ordinary rfl rfl, ?evicted,
    ?ackTimeout⟩
  case raw =>
    exact fun h e w s x work unstored noStream released raw =>
      completes_of_ordinary rfl (execVoxcaCompress_of_levelZero ⟨work, unstored, noStream, released⟩ raw)
  case compress =>
    exact fun h e w s x work unstored noStream released level serving usable fits =>
      completes_of_ordinary rfl (execVoxcaCompress_of_withinLimit ⟨work, unstored, noStream, released⟩ level serving usable fits)
  case verify => exact fun w s x b h e work stream good => completes_of_ordinary rfl (execVoxcaVerify_of_vxOk work stream good)
  case decompress =>
    exact fun h e b stop f s st out t usable least most decoded =>
      completes_of_ordinary rfl (execVoxcaDecompress_of_decodeTwice usable least most decoded)
  case request =>
    intro op c tine unit e r s row
    rw [eq_requestInstr_of_mem row]
    refine ⟨fun u t bad undef => ?bad, fun q k good quadrant route => ?routed⟩
    case bad => exact completes_requestInstr (cipherRequest_of_bad bad undef)
    case routed => exact completes_requestInstr (cipherRequest_of_routed good quadrant route)
  case completion =>
    intro n s j job granted keyed
    have done : JobFinished n j s := ⟨job, granted, keyed⟩
    refine ⟨?disagree, fun t result => ?tagFail, fun b t result => ?output⟩
    case disagree => exact completes_of_ordinary rfl (execCipherCompletion_of_disagree done)
    case tagFail => exact completes_of_ordinary rfl (execCipherCompletion_of_tagFail done result)
    case output => exact completes_of_ordinary rfl (execCipherCompletion_of_output done result)
  case evicted =>
    rintro n s t evicting unused rfl noLoad
    exact completes_of_ordinary rfl (execSlotEvictDone_of_noLoad (slotEmptied_of_evicting evicting unused) noLoad)
  case ackTimeout => exact fun d e s peer awaited => completes_of_ordinary rfl (execKeyLoadAckTimeout_of_awaited peer awaited)

end Sys2Proof.Machine
end

section
/-! The vault (R186-R192, Table 21-3): what its rows leave of it, and that no other row touches it. -/

namespace Sys2Proof.Machine

/-! ## The only rows that change it -/

/-- No command but the vault's own rows changes it, a reset neither. -/
theorem SteadyStep.vault_kept {s : State} {c : Instr} {e : Steady} (h : SteadyStep s c e) (other : changesVault c = false) :
    e.vault = s.vault := by
  cases h with
  | vault row => exact absurd (row.symm.trans other) (by decide)
  | _ => rfl

/-- Settles O45: of the commands that can change a steady field, only those of `changesVault` touch the vault. -/
theorem vaultChangesOnlyByItsRows : Obligations.VaultChangesOnlyByItsRows := by
  intro c s t run
  cases row : changesVault c with
  | false => exact .inl ((steadyStep_of_exec run).vault_kept row)
  | true =>
    right
    cases c with
    | vaultAlarmSupply | vaultAlarmTemp | vaultAlarmMesh | vaultAlarmTamper | vaultAlarmCheck | vauxLoss | vauxRise
    | keyLoadGauntlet | keyClearGauntlet | keyAlarmClear => simp
    | _ => cases row

/-! ## VAUX (R189, R191) -/

/-- What VAUX returning leaves of the vault: all slots empty, and of VAULT_STATUS only VAULT_LOST. -/
def risenVault : VaultPart := { gauntlet := List.replicate 16 none, status := 1, vaux := true }

theorem execVauxRise_of_vauxLow {s : State} (low : s.vault.vaux = false) : execVauxRise s = .next (hswSync { s with vault := risenVault }) := by
  simp only [execVauxRise, low, Bool.false_eq_true, if_false, risenVault]

@[simp] theorem hswSync_vault (s : State) : (hswSync s).vault = s.vault := congrArg Steady.vault (hswSync_steady s)

/-- A vault that has lost its slots holds no key in any of them. -/
theorem getD_replicate_none (n i : Nat) : (List.replicate n (none : Option Bytes)).getD i none = none := by
  rw [List.getD_eq_getElem?_getD, List.getElem?_replicate]
  split <;> rfl

/-- Settles O46: VAUX's fall empties the slots, and its rise leaves them empty with VAULT_LOST set. -/
theorem vauxLossLosesTheGauntlet : Obligations.VauxLossLosesTheGauntlet := by
  refine ⟨fun s i => ⟨_, rfl, rfl, getD_replicate_none 16 i⟩, fun s i low => ⟨_, execVauxRise_of_vauxLow low, ?_⟩⟩
  simp only [hswSync_vault, vaultStatus]
  exact ⟨rfl, getD_replicate_none 16 i, rfl, rfl⟩

/-! ## Alarms (R190, Table 8-7) -/

/-- The vault as an alarm leaves it: all slots zeroed, the alarm's bit latched. -/
def alarmedVault (bit : Nat) (v : VaultPart) : VaultPart :=
  { v with gauntlet := List.replicate 16 none, status := v.status ||| (1#32 <<< bit) }

/-- An alarm leaves the other steady fields, the record it writes and the erasure of the working slots too. -/
theorem vaultAlarm_steady (bit : Nat) (working : Bool) (s : State) :
    (vaultAlarm bit working s).steady = { s.steady with vault := alarmedVault bit s.vault } := by
  unfold vaultAlarm
  dsimp only
  rw [securityEvent_steady, almanac_steady]
  cases working with
  | false => rfl
  | true => exact eraseWorking_steady _

/-- The five alarms of Table 8-7 run `vaultAlarm` with their bit, and with whether they erase the working slots. -/
theorem exec_vaultAlarm {c : Instr} {bit : Nat} {working : Bool} (row : (c, bit, working) ∈ [(Instr.vaultAlarmSupply, 1, false),
    (.vaultAlarmTemp, 2, false), (.vaultAlarmMesh, 3, true), (.vaultAlarmTamper, 4, true), (.vaultAlarmCheck, 5, false)]) (s : State) :
    exec c s = .next (vaultAlarm bit working s) := by
  simp only [List.mem_cons, Prod.mk.injEq, List.not_mem_nil, or_false] at row
  obtain ⟨rfl, rfl, rfl⟩ | ⟨rfl, rfl, rfl⟩ | ⟨rfl, rfl, rfl⟩ | ⟨rfl, rfl, rfl⟩ | ⟨rfl, rfl, rfl⟩ := row <;> rfl

/-! ## The gauntlet commands (Table 8-12) -/

/-- A started command whose meaning is `mciRun` leaves the state that its body ends in. -/
theorem exec_of_starts {o : Nat} {c : Instr} {p : McPacket} {body : State → McEnd × State} {s u : State} (start : Starts o p s u)
    (meaning : exec c s = .next (mciRun o p body s)) : exec c s = .next (endCommand p (body u)) := by
  rw [meaning, mciRun_of_starts start]

/-- A load whose key does not unwrap under the transport key ends with ST_AUTH_FAILED. -/
theorem keyLoadGauntlet_of_badKey {p : McPacket} {alarm : Bool} {u : State} (slot : parm p 0 1 < 16)
    (unwrapped : keyUnwrap transportKey (parmBytes p 8 40) = none) : keyLoadGauntlet p alarm u = refuse stAuthFailed u := by
  simp only [keyLoadGauntlet, if_neg (Nat.not_le_of_lt slot), unwrapped]

/-- Any other load fills its slot, or leaves it empty where an alarm wins the race (R192). -/
theorem keyLoadGauntlet_of_key {p : McPacket} {alarm : Bool} {u : State} {key : Bytes} (slot : parm p 0 1 < 16)
    (unwrapped : keyUnwrap transportKey (parmBytes p 8 40) = some key) :
    keyLoadGauntlet p alarm u = (.reply (if alarm then stAborted else stOk) [],
      { u with vault := { u.vault with gauntlet := u.vault.gauntlet.set (parm p 0 1) (if alarm then none else some key) } }) := by
  simp only [keyLoadGauntlet, if_neg (Nat.not_le_of_lt slot), unwrapped]
  cases alarm with
  | false => rfl
  | true => rfl

/-- Settles O17: an alarm leaves the alarmed vault, VAUX its risen one, and the three commands end as their bodies do. -/
theorem vaultRowsComplete : Obligations.VaultRowsComplete := by
  refine ⟨?alarm, fun s => rfl, fun s low => execVauxRise_of_vauxLow low, ?load,
    fun p s u start => exec_of_starts (body := keyClearGauntlet p) start rfl, ?alarmClear⟩
  case alarm =>
    rintro c bit working s s1 s2 row rfl rfl
    have kept := vaultAlarm_steady bit working s
    exact ⟨_, exec_vaultAlarm row s, rfl, congrArg Steady.vault kept, congrArg Steady.pending kept⟩
  case load =>
    intro p alarm s u start slot
    rw [exec_of_starts (body := keyLoadGauntlet p alarm) start rfl]
    cases unwrapped : keyUnwrap transportKey (parmBytes p 8 40) with
    | none => rw [keyLoadGauntlet_of_badKey slot unwrapped]; rfl
    | some key => rw [keyLoadGauntlet_of_key slot unwrapped]; rfl
  case alarmClear =>
    rintro p s u t start rfl
    exact exec_of_starts (body := keyAlarmClear p) start rfl

end Sys2Proof.Machine
end

section
/-! AES-256-GCM (R173): a round key is a block long, so that the key stream covers every block and applying it twice gives back the text. -/

namespace Sys2Proof.Machine

/-! ## Strings combined byte by byte -/

@[simp] theorem length_xorBytes (a b : Bytes) : (xorBytes a b).length = min a.length b.length := List.length_zipWith

/-- A pad at least as long as the text, applied twice, gives back the text. -/
theorem xorBytes_xorBytes_cancel {a pad : Bytes} (covers : a.length ≤ pad.length) : xorBytes (xorBytes a pad) pad = a := by
  refine List.ext_getElem ?_ fun i _ _ => ?_
  · rw [length_xorBytes, length_xorBytes]
    omega
  · simp only [xorBytes, List.getElem_zipWith, BitVec.xor_assoc, BitVec.xor_self, BitVec.xor_zero]

/-! ## The key schedule (FIPS 197) -/

/-- A place within a list holds one of its members, whatever the default. -/
theorem getD_mem_of_lt {ws : List Bytes} {i : Nat} (inside : i < ws.length) (d : Bytes) : ws.getD i d ∈ ws := by
  rw [List.getD_eq_getElem?_getD, List.getElem?_eq_getElem inside, Option.getD_some]
  exact List.getElem_mem inside

/-- Words of four bytes, one after another. -/
theorem length_flatten_of_four {ws : List Bytes} (four : ∀ w ∈ ws, w.length = 4) : ws.flatten.length = 4 * ws.length := by
  induction ws with
  | nil => rfl
  | cons w ws ih =>
    obtain ⟨first, rest⟩ := List.forall_mem_cons.mp four
    rw [List.flatten_cons, List.length_append, List.length_cons, first, ih rest]
    omega

/-- A word of the schedule is four bytes, as are the two words it is made from. -/
theorem length_aesKeyWord (i : Nat) {prev old : Bytes} (hprev : prev.length = 4) (hold : old.length = 4) :
    (aesKeyWord i prev old).length = 4 := by
  unfold aesKeyWord
  dsimp only
  rw [length_xorBytes, hold]
  split
  · simp only [length_xorBytes, List.length_map, List.length_append, List.length_drop, List.length_take, List.length_cons, List.length_nil,
      hprev]
    omega
  · split
    · rw [List.length_map, hprev]
      rfl
    · rw [hprev]
      rfl

theorem length_aesExpand (n i : Nat) (ws : List Bytes) : (aesExpand n i ws).length = n + ws.length := by
  induction n generalizing i ws with
  | zero => exact (Nat.zero_add _).symm
  | succ n ih =>
    rw [aesExpand, ih, List.length_cons]
    omega

/-- Every word of the schedule is four bytes, where it starts from at least the eight words that the next one looks back on. -/
theorem length_of_mem_aesExpand (n i : Nat) {ws : List Bytes} (eight : 8 ≤ ws.length) (four : ∀ w ∈ ws, w.length = 4) :
    ∀ w ∈ aesExpand n i ws, w.length = 4 := by
  induction n generalizing i ws with
  | zero => exact four
  | succ n ih =>
    have old (k : Nat) (hk : k < 8) : (ws.getD k []).length = 4 := four _ (getD_mem_of_lt (Nat.lt_of_lt_of_le hk eight) [])
    refine ih (i + 1) (Nat.le_succ_of_le eight) (List.forall_mem_cons.mpr ⟨?_, four⟩)
    exact length_aesKeyWord i (old 0 (by omega)) (old 7 (by omega))

/-- The key itself is the schedule's first words, four bytes each. -/
theorem length_of_mem_aesKeyWords {key : Bytes} (hkey : key.length = 32) : ∀ w ∈ aesKeyWords key, w.length = 4 := by
  intro w hw
  obtain ⟨i, hi, rfl⟩ := List.mem_map.mp hw
  have := List.mem_range.mp hi
  simp only [slice, List.length_take, List.length_drop, hkey]
  omega

/-- Each of the fifteen round keys is 16 bytes: four words of the sixty. -/
theorem length_of_mem_aesRoundKeys {key : Bytes} (hkey : key.length = 32) : ∀ k ∈ aesRoundKeys key, k.length = 16 := by
  intro k hk
  obtain ⟨r, hr, rfl⟩ := List.mem_map.mp hk
  have := List.mem_range.mp hr
  have eight : (aesKeyWords key).reverse.length = 8 := by
    rw [List.length_reverse, aesKeyWords, List.length_map, List.length_range]
  have four : ∀ w ∈ aesExpand 52 8 (aesKeyWords key).reverse, w.length = 4 :=
    length_of_mem_aesExpand 52 8 (Nat.le_of_eq eight.symm) fun w hw => length_of_mem_aesKeyWords hkey w (List.mem_reverse.mp hw)
  rw [length_flatten_of_four fun w hw => four w (List.mem_reverse.mp (List.mem_of_mem_drop (List.mem_of_mem_take hw)))]
  simp only [List.length_take, List.length_drop, List.length_reverse, length_aesExpand, eight]
  omega

/-- A block is encrypted to 16 bytes, the last round key being that long. -/
theorem length_aesEncrypt {key : Bytes} (hkey : key.length = 32) (block : Bytes) : (aesEncrypt key block).length = 16 := by
  have keys := length_of_mem_aesRoundKeys hkey
  have fifteen : (aesRoundKeys key).length = 15 := by
    rw [aesRoundKeys, List.length_map, List.length_range]
  unfold aesEncrypt
  split
  next empty =>
    rw [empty] at fifteen
    cases fifteen
  next k0 ks cons =>
    have last : (ks.getD 13 []).length = 16 := by
      rw [cons, List.length_cons] at fifteen
      exact keys _ (cons ▸ List.mem_cons_of_mem k0 (getD_mem_of_lt (by omega) []))
    simp only [length_xorBytes, last, aesShiftRows, List.length_map, List.length_range, Nat.min_self]

/-! ## The key stream (SP 800-38D) -/

/-- What `blocksOf` counts holds all the bytes. -/
theorem le_mul_blocksOf (n : Nat) : n ≤ 16 * blocksOf n := by
  unfold blocksOf
  omega

/-- The key stream keeps the length of what its blocks hold. -/
theorem length_gcmCtr {key : Bytes} (hkey : key.length = 32) (iv : Bytes) (n c : Nat) {bs : Bytes} (fits : bs.length ≤ 16 * n) :
    (gcmCtr key iv n c bs).length = bs.length := by
  induction n generalizing c bs with
  | zero => exact (Nat.le_zero.mp fits).symm
  | succ n ih =>
    have rest := ih (c + 1) (bs := bs.drop 16) (by rw [List.length_drop]; omega)
    rw [gcmCtr, List.length_append, rest, length_xorBytes, length_aesEncrypt hkey, List.length_take, List.length_drop]
    omega

/-- A first block and what follows it come apart again, where anything follows a whole block only. -/
theorem take_drop_append_block {a b : Bytes} (block : a.length ≤ 16) (whole : a.length = 16 ∨ b = []) :
    (a ++ b).take 16 = a ∧ (a ++ b).drop 16 = b := by
  obtain whole | rfl := whole
  · exact ⟨List.take_left' whole, List.drop_left' whole⟩
  · rw [List.append_nil]
    exact ⟨List.take_of_length_le block, List.drop_of_length_le block⟩

/-- The key stream applied twice from the same counter gives back what its blocks hold. -/
theorem gcmCtr_gcmCtr {key : Bytes} (hkey : key.length = 32) (iv : Bytes) (n c : Nat) {bs : Bytes} (fits : bs.length ≤ 16 * n) :
    gcmCtr key iv n c (gcmCtr key iv n c bs) = bs := by
  induction n generalizing c bs with
  | zero => exact (List.eq_nil_of_length_eq_zero (by omega)).symm
  | succ n ih =>
    have fitsRest : (bs.drop 16).length ≤ 16 * n := by rw [List.length_drop]; omega
    have covers : (bs.take 16).length ≤ (aesEncrypt key (iv ++ beBytes 4 c)).length :=
      (length_aesEncrypt hkey _).symm ▸ List.length_take_le 16 bs
    have block : (xorBytes (bs.take 16) (aesEncrypt key (iv ++ beBytes 4 c))).length = min 16 bs.length := by
      rw [length_xorBytes, Nat.min_eq_left covers, List.length_take]
    have whole : min 16 bs.length = 16 ∨ gcmCtr key iv n (c + 1) (bs.drop 16) = [] := by
      rw [← List.length_eq_zero_iff, length_gcmCtr hkey iv n (c + 1) fitsRest, List.length_drop]
      omega
    obtain ⟨first, later⟩ := take_drop_append_block (block ▸ Nat.min_le_left 16 bs.length) (block.symm ▸ whole)
    calc gcmCtr key iv (n + 1) c (gcmCtr key iv (n + 1) c bs)
        = bs.take 16 ++ bs.drop 16 := by
          simp only [gcmCtr, first, later]
          rw [xorBytes_xorBytes_cancel covers, ih (c + 1) fitsRest]
      _ = bs := List.take_append_drop 16 bs

/-- The ciphertext is as long as the plaintext. -/
theorem length_gcmEncrypt {key : Bytes} (hkey : key.length = 32) (iv aad pt : Bytes) : (gcmEncrypt key iv aad pt).1.length = pt.length :=
  length_gcmCtr hkey iv _ 2 (le_mul_blocksOf _)

/-- The tag verifies, being computed from the same ciphertext, and the key stream gives back the plaintext. -/
theorem gcmDecrypt_gcmEncrypt {key : Bytes} (hkey : key.length = 32) (iv aad pt : Bytes) :
    gcmDecrypt key iv aad (gcmEncrypt key iv aad pt).1 (gcmEncrypt key iv aad pt).2 = some pt := by
  have length := length_gcmEncrypt hkey iv aad pt
  simp only [gcmEncrypt] at length ⊢
  rw [gcmDecrypt, if_pos rfl, length, gcmCtr_gcmCtr hkey iv _ 2 (le_mul_blocksOf _)]

/-- Settles O55: decryption runs the key stream a second time, over a ciphertext of the plaintext's length. -/
theorem gcmRoundTrip : Obligations.GcmRoundTrip := fun _ iv aad pt hkey =>
  ⟨length_gcmEncrypt hkey iv aad pt, gcmDecrypt_gcmEncrypt hkey iv aad pt⟩

end Sys2Proof.Machine
end

section
/-! The commands on domains, namespaces, hosts, object domains, clients and holds (R193, R368, R373-R381, R391, R407, R408,
Table 20-14): what the body of each makes of operands that it takes. -/

namespace Sys2Proof.Machine

/-- A started command whose effect the peer may have to mirror is answered at once or with the peer's acknowledgement. -/
theorem answersMirrored_of_endMirrored {o : Nat} {c : Instr} {p : McPacket} {body : State → McEnd × State} {s u t : State}
    {m : Option Nat} {result : Bytes} (plain : ordinary c = true) (start : Starts o p s u)
    (meaning : exec c s = .next (mciRun o p body s)) (ended : body u = endMirrored p m result t) : AnswersMirrored c p m result s t :=
  completes_of_starts start meaning (exec_steady c s plain) (by rw [ended])

section Bodies

variable {p : McPacket} {u : State}

/-! ## Domains (R193, R194) -/

/-- With a salt given, the domain's entry is placed and epoch 1 begun, under the slot's key-encryption key. -/
theorem domainCreate_of_saltGiven {k : Bytes} (serving : journals u = true) (free : domainAt (parm p 0 1) u = none)
    (kek : kekSlot (parm p 1 1) = true) (level : parm p 2 1 ≤ 9) (policy : parm p 3 1 ≤ 3) (given : bitOf (parm p 4 1) 0 = true)
    (salt : 32 ≤ p.data.length) (bus : p.busError = false) (owner : isKeyOwner (parm p 0 1) u = true)
    (key : gauntletKey (parm p 1 1) u = some k) :
    domainCreate p u = beginEpoch p (parm p 0 1) (parm p 1 1) 1 k []
      (changeTable (.domain (parm p 0 1) (parm p 1 1) (parm p 2 1) (parm p 3 1) (p.data.take 32)) u).2 := by
  simp only [domainCreate, serving, free, kek, given, bus, owner, key, Option.isSome_none, Nat.not_lt.mpr level, Nat.not_lt.mpr policy,
    Nat.not_lt.mpr salt, Bool.true_eq_false, Bool.false_eq_true, and_false, or_self, if_false, if_true]

theorem domainDelete_of_unused {x : Domain} (found : domainAt (parm p 0 1) u = some x) (serving : journals u = true)
    (noNs : u.map.namespaces.any (fun n => n.domain == parm p 0 1) = false)
    (noObjdom : u.map.objdoms.any (fun o => o.domain == parm p 0 1) = false) (noEpoch : liveEpochs x = []) :
    domainDelete p u = endMirrored p (changeTable (.domainGone (parm p 0 1)) u).1 [] (changeTable (.domainGone (parm p 0 1)) u).2 := by
  simp only [domainDelete, found, serving, noNs, noObjdom, noEpoch, ne_eq, not_true_eq_false, Bool.true_eq_false, Bool.false_eq_true,
    or_self, if_false]

theorem domainGet_of_found {x : Domain} (found : domainAt (parm p 0 1) u = some x) :
    domainGet p u = answerRecords p [domainEntry x true] [] u := by
  simp only [domainGet, found]

/-! ## Namespaces and hosts (R368, R378-R381) -/

theorem nsCreate_of_createNs {id : Nat} {m : Option Nat} {t : State} (serving : journals u = true)
    (domain : (domainAt (parm p 0 1) u).isSome = true) (shape : nsShapeOk (parm p 8 8) (parm p 1 1) = true) (group : parm p 2 1 ≤ 2)
    (created : createNs (parm p 0 1) (parm p 8 8) (parm p 1 1) (parm p 2 1) none u = some (id, m, t)) :
    nsCreate p u = endMirrored p m (leBytes 2 id) t := by
  simp only [nsCreate, serving, Option.isNone_eq_false_iff.mpr domain, shape, Nat.not_lt.mpr group, created, Bool.true_eq_false,
    Bool.false_eq_true, or_self, if_false]

theorem nsDelete_of_unpinned {n : Namespace} (serving : journals u = true) (found : nsAt (parm p 0 2) u = some n)
    (unpinned : nsPinned n.id u = false) : nsDelete p u = ok [] (deleteNs n u) := by
  simp only [nsDelete, serving, found, unpinned, Bool.true_eq_false, Bool.false_eq_true, if_false]

theorem nsList_of_le (inRange : parm p 0 2 ≤ 1024) :
    nsList p u = answerRecords p ((sortByKey (fun (n : Namespace) => [(n.id : Int)])
      (u.map.namespaces.filter (fun n => decide (parm p 0 2 ≤ n.id)))).map (fun n => nsEntry n u)) [] u :=
  if_neg (Nat.not_lt.mpr inRange)

/-- A new host takes the lowest free index. -/
theorem hostAdd_of_newHost {i : Nat} (serving : journals u = true) (bus : p.busError = false) (nonempty : 0 < parm p 0 2)
    (most : parm p 0 2 ≤ 223) (given : parm p 0 2 ≤ p.data.length) (new : hostIndex (p.data.take (parm p 0 2)) u = none)
    (free : firstIndex 1024 (fun i => (lookup i u.map.hosts).isNone) = some i) :
    hostAdd p u = endMirrored p (changeTable (.host i (p.data.take (parm p 0 2))) u).1 (leBytes 2 i)
      (changeTable (.host i (p.data.take (parm p 0 2))) u).2 := by
  have whole : ¬(p.data.take (parm p 0 2)).length < parm p 0 2 := by
    rw [List.length_take, Nat.min_eq_left given]
    exact Nat.lt_irrefl _
  simp only [hostAdd, serving, bus, Nat.ne_of_gt nonempty, Nat.not_lt.mpr most, whole, new, free, Option.isSome_none, Bool.true_eq_false,
    Bool.false_eq_true, or_self, if_false]

theorem hostRemove_of_unattached (serving : journals u = true) (found : (lookup (parm p 0 2) u.map.hosts).isSome = true)
    (unattached : u.map.namespaces.any (fun n => n.hosts.contains (parm p 0 2)) = false) :
    hostRemove p u = endMirrored p (changeTable (.hostGone (parm p 0 2)) u).1 [] (changeTable (.hostGone (parm p 0 2)) u).2 := by
  simp only [hostRemove, serving, Option.isNone_eq_false_iff.mpr found, unattached, Bool.true_eq_false, Bool.false_eq_true, if_false]

/-- NS_ATTACH attaches a host that is not attached, and detaches one that is. -/
theorem nsAttach_of_legal {n : Namespace} (attach : Bool) (serving : journals u = true) (found : nsAt (parm p 0 2) u = some n)
    (host : (lookup (parm p 2 2) u.map.hosts).isSome = true) (op : parm p 4 1 = if attach then 1 else 2)
    (state : n.hosts.contains (parm p 2 2) = !attach) :
    nsAttach p u = endMirrored p (attachNs n [parm p 2 2] attach u).1 [] (attachNs n [parm p 2 2] attach u).2 := by
  have known : parm p 4 1 = 1 ∨ parm p 4 1 = 2 := by
    cases attach with
    | true => exact .inl op
    | false => exact .inr op
  have which : (parm p 4 1 == 1) = attach := by
    rw [op]
    cases attach with
    | true => rfl
    | false => rfl
  simp only [nsAttach, serving, found, Option.isNone_eq_false_iff.mpr host, known, state, which, not_true_eq_false, Bool.not_eq_self,
    Bool.true_eq_false, Bool.false_eq_true, or_self, if_false]

/-! ## Object domains and clients (R391, R408) -/

theorem objdomCreate_of_free (serving : journals u = true) (free : objdomAt (parm p 0 1) u = none)
    (domain : (domainAt (parm p 1 1) u).isSome = true) (owner : parm p 2 1 ≤ 1) :
    objdomCreate p u = endMirrored p (changeTable (.objdom ⟨parm p 0 1, parm p 1 1, parm p 2 1, []⟩) u).1 []
      (changeTable (.objdom ⟨parm p 0 1, parm p 1 1, parm p 2 1, []⟩) u).2 := by
  simp only [objdomCreate, serving, free, Option.isNone_eq_false_iff.mpr domain, Nat.not_lt.mpr owner, Option.isSome_none,
    Bool.true_eq_false, Bool.false_eq_true, or_self, if_false]

theorem objdomDelete_of_unheld (serving : journals u = true) (found : (objdomAt (parm p 0 1) u).isSome = true)
    (unheld : u.map.objects.any (fun o => o.objDomain == parm p 0 1 && holdStands o u) = false)
    (unused : (snapsOf 2 (parm p 0 1) u).any (fun x => snapInUse x u) = false) :
    objdomDelete p u = endMirrored p (changeTable (.objdomGone (parm p 0 1)) (objdomDropped (parm p 0 1) u)).1 []
      (settle (changeTable (.objdomGone (parm p 0 1)) (objdomDropped (parm p 0 1) u)).2) := by
  simp only [objdomDelete, serving, Option.isNone_eq_false_iff.mpr found, unheld, unused, Bool.true_eq_false, Bool.false_eq_true,
    or_self, if_false]

theorem clientSet_of_add {o : ObjDomain} (serving : journals u = true) (found : objdomAt (parm p 0 1) u = some o) (op : parm p 1 1 = 1)
    (absent : o.clients.contains (parm p 8 16) = false) (room : o.clients.length < 256) :
    clientSet p u = endMirrored p (changeTable (.objdom { o with clients := o.clients ++ [parm p 8 16] }) u).1 []
      (changeTable (.objdom { o with clients := o.clients ++ [parm p 8 16] }) u).2 := by
  have legal : ¬(parm p 1 1 = 1 ∧ o.clients.contains (parm p 8 16) = true ∨ parm p 1 1 = 2 ∧ o.clients.contains (parm p 8 16) = false ∨
      parm p 1 1 = 0 ∨ 2 < parm p 1 1) := by
    rw [op, absent]
    decide
  have fits : ¬(parm p 1 1 = 1 ∧ 256 ≤ o.clients.length) := fun ⟨_, full⟩ => Nat.not_le_of_lt room full
  simp only [clientSet, serving, found, if_neg legal, if_neg fits, if_pos op, Bool.true_eq_false, if_false]

theorem clientSet_of_remove {o : ObjDomain} (serving : journals u = true) (found : objdomAt (parm p 0 1) u = some o)
    (op : parm p 1 1 = 2) (present : o.clients.contains (parm p 8 16) = true) :
    clientSet p u = endMirrored p (changeTable (.objdom { o with clients := o.clients.filter (· != parm p 8 16) }) u).1 []
      (changeTable (.objdom { o with clients := o.clients.filter (· != parm p 8 16) }) u).2 := by
  have legal : ¬(parm p 1 1 = 1 ∧ o.clients.contains (parm p 8 16) = true ∨ parm p 1 1 = 2 ∧ o.clients.contains (parm p 8 16) = false ∨
      parm p 1 1 = 0 ∨ 2 < parm p 1 1) := by
    rw [op, present]
    decide
  have notAdd : parm p 1 1 ≠ 1 := by
    rw [op]
    decide
  have fits : ¬(parm p 1 1 = 1 ∧ 256 ≤ o.clients.length) := fun ⟨add, _⟩ => notAdd add
  simp only [clientSet, serving, found, if_neg legal, if_neg fits, if_neg notAdd, Bool.true_eq_false, if_false]

/-! ## Holds (R407) -/

/-- On the domain's ingest owner the version is placed without its hold, and the record is written. -/
theorem holdClear_of_owner {d : ObjDomain} {o : ObjRecord} {j : Nat} {m : Option Nat} {t : State}
    (domain : objdomAt (parm p 0 1) u = some d) (object : objectAt (parm p 8 8) u = some o) (member : o.objDomain = d.id)
    (serving : journals u = true) (owner : d.owner = u.boot.headId)
    (placed : place (leNat (o.key.take 1) % 4) (.object { o with holdFlags := 0, holdUntil := 0 }) u = (j, m, t)) :
    holdClear p u = endMirrored p m []
      (almanac (Config.recordType 0x0233) (packFields [(1, d.id), (8, parm p 8 8)]) (sweepVersions d.id t)) := by
  have here : ¬(d.owner ≠ u.boot.headId ∧ u.headland.peerPresent = true ∧ p.fetchedFrom < peerRing ∧ baseMode u = .active) :=
    fun ⟨notOwner, _⟩ => notOwner owner
  simp only [holdClear, domain, object, if_neg (not_not_intro member), serving, if_neg here, placed, Bool.true_eq_false, if_false]

end Bodies

/-- Settles O11: each command by what its body makes of operands that it takes; all of them are ordinary commands. -/
theorem tableCommandsComplete : Obligations.TableCommandsComplete := by
  refine ⟨?domainCreate, ?domainDelete, ?domainGet, ?nsCreate, ?nsDelete, ?nsList, ?hostAdd, ?hostRemove, ?nsAttach, ?objdomCreate,
    ?objdomDelete, ?clientSet, ?holdClear⟩
  case domainCreate =>
    exact fun p s u k start serving free kek level policy given salt bus owner key =>
      completes_of_starts start rfl (exec_steady _ s rfl)
        (by rw [domainCreate_of_saltGiven serving free kek level policy given salt bus owner key])
  case domainDelete =>
    exact fun p s u x start found serving noNs noObjdom noEpoch =>
      answersMirrored_of_endMirrored rfl start rfl (domainDelete_of_unused found serving noNs noObjdom noEpoch)
  case domainGet => exact fun p s u x start found => reports_of_answerRecords rfl start rfl (domainGet_of_found found)
  case nsCreate =>
    exact fun p s u id m t start serving domain shape group created =>
      answersMirrored_of_endMirrored rfl start rfl (nsCreate_of_createNs serving domain shape group created)
  case nsDelete =>
    exact fun p s u n start serving found unpinned => answers_of_ok rfl start rfl (nsDelete_of_unpinned serving found unpinned)
  case nsList => exact fun p s u start inRange => reports_of_answerRecords rfl start rfl (nsList_of_le inRange)
  case hostAdd =>
    exact fun p s u i start serving bus nonempty most given new free =>
      answersMirrored_of_endMirrored rfl start rfl (hostAdd_of_newHost serving bus nonempty most given new free)
  case hostRemove =>
    exact fun p s u start serving found unattached =>
      answersMirrored_of_endMirrored rfl start rfl (hostRemove_of_unattached serving found unattached)
  case nsAttach =>
    intro p s u n start serving found host
    refine ⟨fun op detached => ?attach, fun op attached => ?detach⟩
    case attach => exact answersMirrored_of_endMirrored rfl start rfl (nsAttach_of_legal true serving found host op detached)
    case detach => exact answersMirrored_of_endMirrored rfl start rfl (nsAttach_of_legal false serving found host op attached)
  case objdomCreate =>
    exact fun p s u start serving free domain owner =>
      answersMirrored_of_endMirrored rfl start rfl (objdomCreate_of_free serving free domain owner)
  case objdomDelete =>
    exact fun p s u start serving found unheld unused =>
      answersMirrored_of_endMirrored rfl start rfl (objdomDelete_of_unheld serving found unheld unused)
  case clientSet =>
    intro p s u o start serving found
    refine ⟨fun op absent room => ?add, fun op present => ?remove⟩
    case add => exact answersMirrored_of_endMirrored rfl start rfl (clientSet_of_add serving found op absent room)
    case remove => exact answersMirrored_of_endMirrored rfl start rfl (clientSet_of_remove serving found op present)
  case holdClear =>
    exact fun p s u d o j m t start domain object member serving owner placed =>
      answersMirrored_of_endMirrored rfl start rfl (holdClear_of_owner domain object member serving owner placed)

end Sys2Proof.Machine
end

section
/-! The media, patrol and far-store rows (R216-R232, R415, R420, R421, R552): what each row answers, case by case. -/

namespace Sys2Proof.Machine

/-! ## Reclaim (R216-R220) -/

/-- The job that a victim of this class opens: of a relocation of marked bales its scope is those bales, else it is the whole acre. -/
def victimJob (c : Nat) (a : Acre) : ReclaimJob := ⟨a.num, if c = 2 then some a.marked else none, 3, [], 0, []⟩

/-- The chosen victim is RECLAIMING under its own job, and a ticket of its class carries it. -/
def victimTaken (c : Nat) (a : Acre) (s : State) : State :=
  workTicket 0x0F (reclaimPrio c s) a.quadrant (packFields [(4, a.num), (4, c)])
    (acreTo a.num 3 { s with media := { s.media with reclaims := s.media.reclaims ++ [victimJob c a] } })

/-- With no earlier victim left to move, the chosen one is taken, and its live records copied. -/
theorem execReclaimVictim_of_chosen {f : MediaFacts} {s : State} {c : Nat} {a : Acre} (runs : reclaimRuns s = true)
    (noEarlier : s.media.reclaims.find? (fun j => j.step == 3 && j.copies.isEmpty && !movedOut j s) = none)
    (chosen : chooseVictim s = some (c, a)) :
    execReclaimVictim f s = .next (stepReclaim a.num (copyVictim a.num f (victimTaken c a s))) := by
  simp only [execReclaimVictim, reclaimVictim, runs, noEarlier, chosen, Bool.true_eq_false, if_false, victimTaken, victimJob]

/-! ## Scrub (R224, DESIGN CHOICE 159) -/

/-- In a mode that serves, the timer scrubs every leased bridge. -/
theorem execScrubTimer_of_serving {f : MediaFacts} {s : State} (serving : servingMode s.boot.mode = true) :
    execScrubTimer f s = .next (hswSync (scrubPass (leasedBridges s) f s)) := by
  rw [execScrubTimer, if_pos serving]

/-! ## A lost bridge (R226) -/

/-- A bridge that is not yet LOST becomes so: record, media attention, its open acres sealed. -/
theorem bridgeLost_of_notLost {b : Nat} {s : State} (notLost : (headBridge b s).state ≠ 4) :
    bridgeLost b s =
      sealOn b (leaveMedia (mediaRecord 4 b 0xFF 4 (mediaAttn (modifyHeadBridge b (fun h => { h with state := 4 }) s)))) :=
  if_neg notLost

/-- A bridge whose link is still not up when the timer ends is lost. -/
theorem execBridgeLostTimer_of_notUp {b : Nat} {s : State} (notUp : (furrowAt b s).link.state ≠ .up) :
    execBridgeLostTimer b s = .next (hswSync (bridgeLost b s)) := by
  rw [execBridgeLostTimer, if_neg notUp]

/-! ## The end of READONLY (R231, R552) -/

/-- Nothing that READONLY was entered for stands any longer, and DEV_READONLY tells its end. -/
def readonlyEnded (s : State) : State :=
  readonlyEvent false { s with media := { s.media with readonly := false, spaceShort := false, idsShort := false } }

section ReadonlyExit

variable {s : State} (readonly : s.media.readonly = true) (passed : readonlyLasts s = false)
include readonly passed

/-- From READONLY itself the head goes back to the mode that it had under it. -/
theorem execReadonlyExit_of_readonly (mode : (readonlyEnded s).boot.mode = .readonly) :
    execReadonlyExit s = .next (setMode (readonlyEnded s).boot.underReadonly 0 (readonlyEnded s)) := by
  unfold readonlyEnded at mode ⊢
  simp only [execReadonlyExit, if_pos (And.intro readonly passed), mode]

/-- Under QUIESCE that mode is the one to which QUIESCE will return. -/
theorem execReadonlyExit_of_quiesce (mode : (readonlyEnded s).boot.mode = .quiesce) :
    execReadonlyExit s = .next { readonlyEnded s with
      boot := { (readonlyEnded s).boot with underQuiesce := (readonlyEnded s).boot.underReadonly } } := by
  unfold readonlyEnded at mode ⊢
  simp only [execReadonlyExit, if_pos (And.intro readonly passed), mode]

end ReadonlyExit

/-! ## LOCATION pages read from media (R421) -/

/-- While some are paged, each day is counted, recorded and sets health attention. -/
theorem execLocationPagedDaily_of_on {s : State} (on : s.mem.locationPagedOn = true) :
    execLocationPagedDaily s = .next (healthRecord 0x000A (packFields [(1, 2), (8, 0), (8, bump s.mem.locationPaged)])
      (modifyMem (fun m => { m with locationPaged := bump m.locationPaged }) s)) :=
  if_pos on

/-- Settles O18: each row by its own equation; every row of the media and the patrols is an ordinary command. The hourly polling and the patrols
of both stores are unconditional. -/
theorem mediaRowsComplete : Obligations.MediaRowsComplete := by
  refine ⟨?reclaim, ?scrub, ?bridgeLost, ?readonlyExit, fun s => completes_of_ordinary rfl rfl, fun es s => completes_of_ordinary rfl rfl,
    fun es s => completes_of_ordinary rfl rfl, ?locationPaged⟩
  case reclaim =>
    exact fun f s c a runs noEarlier chosen => completes_of_ordinary rfl (execReclaimVictim_of_chosen runs noEarlier chosen)
  case scrub => exact fun f s serving => completes_of_ordinary rfl (execScrubTimer_of_serving serving)
  case bridgeLost =>
    intro b s notUp notLost
    rw [← bridgeLost_of_notLost notLost]
    exact completes_of_ordinary rfl (execBridgeLostTimer_of_notUp notUp)
  case readonlyExit =>
    rintro s t readonly passed rfl
    refine ⟨fun mode => ?readonly, fun mode => ?quiesce⟩
    case readonly => exact completes_of_ordinary rfl (execReadonlyExit_of_readonly readonly passed mode)
    case quiesce => exact completes_of_ordinary rfl (execReadonlyExit_of_quiesce readonly passed mode)
  case locationPaged => exact fun s on => completes_of_ordinary rfl (execLocationPagedDaily_of_on on)

end Sys2Proof.Machine
end

section
/-! The rows of a Furrow link and its lease (R241-R258, R321, R577): what each row answers, case by case. -/

namespace Sys2Proof.Machine

/-! ## Training (R241, R577) -/

/-- A link that is training keeps its state over a failed attempt, as long as a further one is left to it. -/
theorem linkTrainFail_state_of_lt {e : LinkEnd} (training : e.state = .training) (left : e.attempts < 2) :
    (linkTrainFail e).state = .training := by
  simp only [linkTrainFail, training, Nat.not_le.mpr left, ne_eq, not_true_eq_false, if_false]

/-- What an event makes of a link's end stands there afterwards; a bridge beyond the last one has no end to change. -/
theorem furrowAt_furrowLink_link (b : Nat) (f : LinkEnd → LinkEnd × List Bytes) (s : State) :
    (furrowAt b (furrowLink b f s)).link = (f (furrowAt b s).link).1 ∨ (furrowAt b (furrowLink b f s)).link = (furrowAt b s).link := by
  simp only [furrowAt, furrowLink, modifyFurrow_furrow, modifyNth_getD]
  split
  · exact .inl rfl
  · exact .inr rfl

section Training

variable {b p c v : Nat} {s : State} (training : (furrowAt b s).link.state = .training)
include training

/-- With a further attempt left, a failed one changes the end of the link alone. -/
theorem trainFailed_of_attemptLeft (left : (furrowAt b s).link.attempts < 2) :
    trainFailed b s = furrowLink b (fun e => (linkTrainFail e, [])) s := by
  have still : (furrowAt b (furrowLink b (fun e => (linkTrainFail e, [])) s)).link.state = .training := by
    rcases furrowAt_furrowLink_link b (fun e => (linkTrainFail e, [])) s with changed | kept
    · rw [changed, linkTrainFail_state_of_lt training left]
    · rw [kept, training]
  have notDown : ¬((furrowAt b s).link.state = .training ∧
      (furrowAt b (furrowLink b (fun e => (linkTrainFail e, [])) s)).link.state = .down) := fun ⟨_, down⟩ => by
    rw [still] at down
    cases down
  exact if_neg notDown

/-- A far end of another version ends training as failed. -/
theorem execFurrowTrainingDone_of_version (other : v ≠ 1) : execFurrowTrainingDone b p v c s = .next (trainFailed b s) := by
  simp only [execFurrowTrainingDone, training, if_pos other, ne_eq, not_true_eq_false, if_false]

/-- Of a bridge not identified yet, outside BOOT and RECOVERY, BRIDGE_IDENTIFY is read first. -/
theorem execFurrowTrainingDone_of_unknown (boot : s.boot.mode ≠ .boot) (recovery : s.boot.mode ≠ .recovery)
    (unknown : (headBridge b s).ident = none) : execFurrowTrainingDone b p 1 c s =
      .next (furrowFlush b (furrowIssue b 1 [] [] .identify (furrowLink b (linkTrained furrowKind p c) s))) := by
  simp only [execFurrowTrainingDone, training, boot, recovery, unknown, Option.isSome_none, Bool.false_eq_true, ne_eq, not_true_eq_false,
    or_self, if_false]

/-- A bridge that is identified already is only given the commands that were held. -/
theorem execFurrowTrainingDone_of_identified (known : (headBridge b s).ident.isSome = true) :
    execFurrowTrainingDone b p 1 c s = .next (furrowFlush b (furrowLink b (linkTrained furrowKind p c) s)) := by
  simp only [execFurrowTrainingDone, training, known, ne_eq, not_true_eq_false, or_true, if_false, if_true]

end Training

/-! ## Responses (R243, R258, Table 10-12) -/

section Response

variable {b tag : Nat} {frames : List Bytes} {ms : List LinkFrame} {e : LinkEnd} {r : LinkFrame} {c : FurrowCmd} {s : State}

/-- The state in which the frames that arrive have been judged, each by itself. -/
def framesJudged (b : Nat) (frames : List Bytes) (s : State) : State := furrowLink b (linkFrames furrowKind false s.time.ticks frames) s

/-- A message that its last frame completes is taken from the inbox. -/
theorem execFurrowResponse_of_message (message : takeMessage (fun _ => true) (furrowAt b (framesJudged b frames s)).link = (some ms, e)) :
    execFurrowResponse b frames s = .next (responded b ms (furrowLink b (fun _ => (e, [])) (framesJudged b frames s))) := by
  unfold framesJudged at message ⊢
  simp only [execFurrowResponse, message]

/-- A message completes the outstanding command that bears the tag of its RESPONSE frame. -/
theorem responded_of_outstanding (last : ms.getLast? = some r) (ftype : r.ftype = 2) (found : outstanding b r.tag s = some c) :
    responded b ms s =
      settle (hswSync (response b c r.code r.payload ((ms.dropLast).map (·.payload)) (bridgeWasReset b c (retireCmd b r.tag s)))) := by
  simp only [responded, last, ftype, found, ne_eq, not_true_eq_false, if_false]

/-- A message of an unknown tag is only counted. -/
theorem responded_of_late (last : ms.getLast? = some r) (ftype : r.ftype = 2) (late : outstanding b r.tag s = none) :
    responded b ms s = modifyFurrow b (fun f => { f with lateResponses := bump f.lateResponses }) s := by
  simp only [responded, last, ftype, late, ne_eq, not_true_eq_false, if_false]

/-- A program without a response has failed: its block is retired and its die counted silent. -/
theorem execFurrowResponseTimeout_of_program (found : outstanding b tag s = some c) (opcode : c.opcode = 3) :
    execFurrowResponseTimeout b tag s = .next (settle (hswSync (programFailed b c
      (retireBlock b (cwDie (cmdAddr c)) (cwBlock (cmdAddr c)) (dieSilent b (cwDie (cmdAddr c)) (retireCmd b tag s)))))) := by
  simp only [execFurrowResponseTimeout, found, if_pos opcode]

/-- A lease that was asked for without a response is asked for again. -/
theorem execFurrowResponseTimeout_of_acquire (found : outstanding b tag s = some c) (notProgram : c.opcode ≠ 3) (notErase : c.opcode ≠ 4)
    (use : c.use = .leaseAcquire) :
    execFurrowResponseTimeout b tag s = .next (settle (hswSync (acquire b (retireCmd b tag s)))) := by
  simp only [execFurrowResponseTimeout, found, if_neg notProgram, if_neg notErase, if_pos use]

end Response

/-! ## The head's own lease (R256, R321) -/

/-- A lease whose window has ended without a renewal is held no longer. -/
theorem execLeaseWindowEnd_of_ended {b : Nat} {s : State} (ended : inWindow b s = false) (held : leases b s = true) :
    execLeaseWindowEnd b s =
      .next (checkWarnings (leaseChanged b (modifyFurrow b (fun f => { f with leased := false }) s))) := by
  simp only [execLeaseWindowEnd, ended, held, Bool.false_eq_true, Bool.true_eq_false, or_self, if_false]

/-- An acquire that waits for its retry is sent again, except in YIELD. -/
theorem execLeaseAcquireRetry_of_due {b : Nat} {s : State} (due : (furrowAt b s).acquireAt.isSome = true) (mode : s.boot.mode ≠ .yield) :
    execLeaseAcquireRetry b s = .next (acquire b s) := by
  rw [execLeaseAcquireRetry, if_pos ⟨due, mode⟩]

/-- Settles O19: each row by its own equation; every row of a link is an ordinary command. The events of a running link and the renewal timer
are unconditional. -/
theorem furrowRowsComplete : Obligations.FurrowRowsComplete := by
  refine ⟨?attemptLeft, ?unknown, ?identified, ?version, fun b s => completes_of_ordinary rfl rfl,
    fun b nak ack credit s => completes_of_ordinary rfl rfl, fun b s => completes_of_ordinary rfl rfl,
    fun b s => completes_of_ordinary rfl rfl, fun b d s => completes_of_ordinary rfl rfl, ?response, ?programTimeout, ?acquireTimeout,
    fun s => completes_of_ordinary rfl rfl, ?windowEnd, ?acquireRetry⟩
  case attemptLeft =>
    intro b s training left
    rw [← trainFailed_of_attemptLeft training left]
    exact completes_of_ordinary rfl rfl
  case unknown =>
    exact fun b p c s training boot recovery unknown =>
      completes_of_ordinary rfl (execFurrowTrainingDone_of_unknown training boot recovery unknown)
  case identified =>
    exact fun b p c s training known => completes_of_ordinary rfl (execFurrowTrainingDone_of_identified training known)
  case version =>
    exact fun b p v c s training other => completes_of_ordinary rfl (execFurrowTrainingDone_of_version training other)
  case response =>
    rintro b frames s u t ms e r rfl message rfl last ftype
    have run := execFurrowResponse_of_message message
    refine ⟨fun c found => ?found, fun late => ?late⟩
    case found => exact completes_of_ordinary rfl (run.trans (congrArg _ (responded_of_outstanding last ftype found)))
    case late => exact completes_of_ordinary rfl (run.trans (congrArg _ (responded_of_late last ftype late)))
  case programTimeout =>
    exact fun b tag s c found opcode => completes_of_ordinary rfl (execFurrowResponseTimeout_of_program found opcode)
  case acquireTimeout =>
    exact fun b tag s c found notProgram notErase use =>
      completes_of_ordinary rfl (execFurrowResponseTimeout_of_acquire found notProgram notErase use)
  case windowEnd => exact fun b s ended held => completes_of_ordinary rfl (execLeaseWindowEnd_of_ended ended held)
  case acquireRetry => exact fun b s due mode => completes_of_ordinary rfl (execLeaseAcquireRetry_of_due due mode)

end Sys2Proof.Machine
end

section
/-! The bridge's own side (R248-R257): what its commands answer, case by case. -/

namespace Sys2Proof.Machine

/-! ## Commands that a bridge takes (R248, Table 10-9) -/

section Taken

variable {b p tag load : Nat} {f : State → State} {s t : State}

/-- A command with a free command slot runs. -/
theorem withSlot_of_lt (free : load < (bridgeIdent b).cmdSlots) : withSlot b p tag load f s = f s :=
  if_neg (Nat.not_le.mpr free)

/-- One beyond the command slots ends with ST_BUSY. -/
theorem withFault_of_full (sound : (bridgeAt b s).internalFault = false) (full : (bridgeIdent b).cmdSlots ≤ load) :
    withFault b p tag load f s = respond b p tag 2 [] [] s := by
  simp only [withFault, sound, withSlot, if_pos full, Bool.false_eq_true, if_false]

/-- On a bridge without a fault and with a free slot the command runs. -/
theorem withFault_of_takes (takes : BridgeTakes b load s) : withFault b p tag load f s = f s := by
  obtain ⟨sound, free⟩ := takes
  simp only [withFault, sound, withSlot_of_lt free, Bool.false_eq_true, if_false]

/-- A bridge's command that it takes completes as its body does. -/
theorem completes_of_bridgeTakes {c : Instr} (plain : ordinary c = true) (run : exec c s = .next (withFault b p tag load f s))
    (takes : BridgeTakes b load s) (body : f s = t) : Completes c s t := by
  rw [withFault_of_takes takes, body] at run
  exact completes_of_ordinary plain run

end Taken

/-! ## NAND (R249, R250, R254) -/

section Nand

variable {b p tag now a n r us done : Nat} {soft ok : Bool} {reps : List Nat} {d : List Bytes} {s : State}

/-- What makes a DIE_READ illegal (R249, Table 10-9): its count, its address, its retry level, or codewords that were never programmed. -/
def ReadRefused (b a n r : Nat) (s : State) : Prop :=
  n = 0 ∨ 64 < n ∨ addrOk (bridgeIdent b) a n = false ∨ (bridgeIdent b).retryLevels < r ∨
    ((nandBlock b (cwDie a) (cwBlock a) s).drop (cwIndex a)).length < n

/-- A read within its ranges, of programmed codewords, is legal. -/
theorem not_readRefused (nonempty : 0 < n) (most : n ≤ 64) (addr : addrOk (bridgeIdent b) a n = true)
    (levels : r ≤ (bridgeIdent b).retryLevels) (stored : n ≤ ((nandBlock b (cwDie a) (cwBlock a) s).drop (cwIndex a)).length) :
    ¬ReadRefused b a n r s := by
  rintro (zero | tooMany | badAddr | badLevel | short)
  · exact Nat.ne_of_gt nonempty zero
  · exact Nat.not_lt.mpr most tooMany
  · exact Bool.false_ne_true (badAddr.symm.trans addr)
  · exact Nat.not_lt.mpr levels badLevel
  · exact Nat.not_lt.mpr stored short

/-- An illegal read ends with ST_BAD_PARAM. -/
theorem dieRead_of_refused (refused : ReadRefused b a n r s) : dieRead b p tag a n r soft reps s = respond b p tag 4 [] [] s :=
  if_pos refused

/-- The reports of a read's codewords, the way it allows them. -/
def readReports (n r : Nat) (soft : Bool) (reps : List Nat) : List Nat :=
  (List.range n).map (fun k => readReport r soft (reps.getD k 0))

/-- A legal read answers each codeword with its report, and without data where that is uncorrectable. -/
theorem dieRead_of_legal (legal : ¬ReadRefused b a n r s) : dieRead b p tag a n r soft reps s =
    respond b p tag (if ((readReports n r soft reps).filter (fun x => bitOf x 15)).length = 0 then 0 else 6)
      (packFields [(1, n - ((readReports n r soft reps).filter (fun x => bitOf x 15)).length),
        (1, ((readReports n r soft reps).filter (fun x => bitOf x 15)).length),
        (2, ((readReports n r soft reps).filter (fun x => !bitOf x 15)).foldl (fun m x => max m (bitsOf x 10 0)) 0)])
      ((List.range n).map (fun k => ((readReports n r soft reps).getD k 0,
        if bitOf ((readReports n r soft reps).getD k 0) 15 then []
        else ((nandBlock b (cwDie a) (cwBlock a) s).drop (cwIndex a)).getD k []))) s :=
  if_neg legal

/-- Without the lease of its port a program ends with ST_LEASE_LOST. -/
theorem dieProgram_of_notHeld (lost : holdsLease b p now s = false) :
    dieProgram b p tag now a d done s = respond b p tag 5 [] [] s := by
  simp only [dieProgram, lost, Bool.not_false, if_true]

/-- A legal program of which no unit fails leaves its codewords behind those that the block has. -/
theorem dieProgram_of_done (held : holdsLease b p now s = true) (least : 4 ≤ d.length) (most : d.length ≤ 64) (units : d.length % 4 = 0)
    (whole : d.any (fun x => x.length != 4096) = false) (addr : addrOk (bridgeIdent b) a d.length = true)
    (next : (nandBlock b (cwDie a) (cwBlock a) s).length = cwIndex a) (all : d.length ≤ 4 * done) :
    dieProgram b p tag now a d done s = respond b p tag 0 (leBytes 1 d.length) [] (modifyBridge b (fun x =>
      { x with nand := insertAt (nandKey (cwDie a) (cwBlock a)) { cws := nandBlock b (cwDie a) (cwBlock a) s ++ d } x.nand }) s) := by
  simp only [dieProgram, held, Nat.not_lt.mpr least, Nat.not_lt.mpr most, units, whole, addr, next, if_pos all, ne_eq, not_true_eq_false,
    Bool.not_true, Bool.false_eq_true, Bool.true_eq_false, or_self, if_false]

/-- Without the lease of its port an erase ends with ST_LEASE_LOST. -/
theorem dieErase_of_notHeld (lost : holdsLease b p now s = false) : dieErase b p tag now a us ok s = respond b p tag 5 [] [] s := by
  simp only [dieErase, lost, Bool.not_false, if_true]

/-- An erase of a block that succeeds leaves none of its codewords. -/
theorem dieErase_of_ok (held : holdsLease b p now s = true) (addr : addrOk (bridgeIdent b) a 1 = true) (start : cwIndex a = 0) :
    dieErase b p tag now a us true s = respond b p tag 0 (leBytes 4 us) []
      (modifyBridge b (fun x => { x with nand := removeAt (nandKey (cwDie a) (cwBlock a)) x.nand }) s) := by
  simp only [dieErase, held, addr, start, ne_eq, not_true_eq_false, Bool.not_true, Bool.false_eq_true, Bool.true_eq_false, or_self,
    if_false, if_true]

end Nand

/-! ## The lease register (R252-R255) -/

section Lease

variable {b p tag ms now : Nat} {s : State}

/-- The lease register stands as `x`, and is the answer. -/
def leaseAnswered (b p tag now : Nat) (x : Bridge) (s : State) : State :=
  respond b p tag 0 (leBytes 8 (leaseWord x now)) [] (modifyBridge b (fun _ => x) s)

/-- A lease that no port holds is granted. -/
theorem leaseAcquire_of_free (inRange : leaseMsOk ms = true) (free : (leaseTick now (bridgeAt b s)).owner = 3) :
    leaseAcquire b p tag ms now s = leaseAnswered b p tag now (leaseGrant p ms now (leaseTick now (bridgeAt b s))) s := by
  simp only [leaseAcquire, inRange, if_pos free, Bool.not_true, Bool.false_eq_true, if_false, leaseAnswered]

/-- The owner's window restarts. -/
theorem leaseRenew_of_owner (inRange : leaseMsOk ms = true) (owner : (leaseTick now (bridgeAt b s)).owner = p) :
    leaseRenew b p tag ms now s = leaseAnswered b p tag now (leaseRestart ms now (leaseTick now (bridgeAt b s))) s := by
  simp only [leaseRenew, inRange, if_pos owner, Bool.not_true, Bool.false_eq_true, if_false, leaseAnswered]

/-- The owner's lease ends. -/
theorem leaseRelease_of_owner (owner : (leaseTick now (bridgeAt b s)).owner = p) :
    leaseRelease b p tag now s = leaseAnswered b p tag now { leaseTick now (bridgeAt b s) with owner := 3 } s :=
  if_pos owner

end Lease

/-! ## Telemetry (R251) -/

/-- TELEMETRY as a bridge that takes it answers it: a page that does not exist ends with ST_BAD_PARAM. -/
def telemetry (b p tag page start : Nat) (dies : List (BitVec 8 × Bool)) (s : State) : State :=
  match telemetryPage b page start dies s with
  | none => respond b p tag 4 [] [] s
  | some (n, total, bytes) => respond b p tag 0 (packFields [(2, n), (2, total)]) [(0, bytes)] s

/-- That is the body of the command. -/
theorem execTelemetry_eq (b p tag load page start : Nat) (dies : List (BitVec 8 × Bool)) (s : State) :
    execTelemetry b p tag load page start dies s = .next (withFault b p tag load (telemetry b p tag page start dies) s) := rfl

/-- A page that exists is the data of the answer. -/
theorem telemetry_of_page {b p tag page start n total : Nat} {dies : List (BitVec 8 × Bool)} {bytes : Bytes} {s : State}
    (found : telemetryPage b page start dies s = some (n, total, bytes)) :
    telemetry b p tag page start dies s = respond b p tag 0 (packFields [(2, n), (2, total)]) [(0, bytes)] s := by
  simp only [telemetry, found]

/-- Settles O20: each command by what its body makes of operands that it takes; every command of a bridge is an ordinary one. Identification
and STATUS are answered in a fault too; the lease's end and the bridge's reset are unconditional. -/
theorem bridgeRowsComplete : Obligations.BridgeRowsComplete := by
  refine ⟨?identify, ?read, ?program, ?programLost, ?erase, ?eraseLost, ?status, ?telemetry, ?acquire, ?renew, ?release, ?fence, ?full,
    fun b now s => completes_of_ordinary rfl rfl, fun b s => completes_of_ordinary rfl rfl⟩
  case identify => exact fun b p tag load s free => completes_of_ordinary rfl (congrArg _ (withSlot_of_lt free))
  case read =>
    rintro b p tag load a n r soft reps s cws rs takes rfl rfl
    refine ⟨fun nonempty most addr levels stored => ?legal, fun refused => ?refused⟩
    case legal =>
      exact completes_of_bridgeTakes rfl rfl takes (dieRead_of_legal (not_readRefused nonempty most addr levels stored))
    case refused => exact completes_of_bridgeTakes rfl rfl takes (dieRead_of_refused refused)
  case program =>
    rintro b p tag load now a d done s old takes held least most units whole addr rfl next all
    exact completes_of_bridgeTakes rfl rfl takes (dieProgram_of_done held least most units whole addr next all)
  case programLost =>
    exact fun b p tag load now a d done s takes lost => completes_of_bridgeTakes rfl rfl takes (dieProgram_of_notHeld lost)
  case erase =>
    exact fun b p tag load now a us s takes held addr start => completes_of_bridgeTakes rfl rfl takes (dieErase_of_ok held addr start)
  case eraseLost =>
    exact fun b p tag load now a us ok s takes lost => completes_of_bridgeTakes rfl rfl takes (dieErase_of_notHeld lost)
  case status => exact fun b p tag now busy temp c0 c1 s free => completes_of_ordinary rfl (congrArg _ (withSlot_of_lt free))
  case telemetry =>
    exact fun b p tag load page start dies s n total bytes takes found =>
      completes_of_bridgeTakes rfl (execTelemetry_eq b p tag load page start dies s) takes (telemetry_of_page found)
  case acquire =>
    exact fun b p tag load ms now s takes inRange free => completes_of_bridgeTakes rfl rfl takes (leaseAcquire_of_free inRange free)
  case renew =>
    exact fun b p tag load ms now s takes inRange owner => completes_of_bridgeTakes rfl rfl takes (leaseRenew_of_owner inRange owner)
  case release =>
    rintro b p tag load now s x takes owner rfl
    exact completes_of_bridgeTakes rfl rfl takes (leaseRelease_of_owner owner)
  case fence => exact fun b p tag load mask both s takes => completes_of_bridgeTakes rfl rfl takes rfl
  case full =>
    exact fun b p tag load ms now s sound full => completes_of_ordinary rfl (congrArg _ (withFault_of_full sound full))

end Sys2Proof.Machine
end

section
/-! The Headland's link layer (R241-R247, R308-R315): what each event of a sub-link answers, case by case. -/

namespace Sys2Proof.Machine

/-! ## Training (R308, R315) -/

/-- A sub-link that has trained is up, with all its lanes. -/
def subTrained (q preset : Nat) (s : State) : State :=
  subStep q (linkTrained headlandKind preset 255) (modifyHeadland (fun h => { h with lanes := h.lanes.set q 0xFF }) s)

/-- A sub-link that trains while the head may transmit comes up; the first one after the link was DOWN brings about what waited for it. -/
theorem execHeadlandTrainingDone_of_training {q preset : Nat} {s : State} {e : LinkEnd} (transmits : s.headland.txOff = none)
    (link : s.headland.links[q]? = some e) (sub : q < 4) (training : e.state = .training) : execHeadlandTrainingDone q preset s =
      .next (if s.headland.linkState = .down then newcomerResumes (linkCame (subTrained q preset s)) else subTrained q preset s) := by
  have state : (s.headland.links.getD q resetLinkEnd).state = .training := by
    rw [List.getD_eq_getElem?_getD, link, Option.getD_some, training]
  simp only [execHeadlandTrainingDone, transmits, Nat.not_le.mpr sub, state, Option.isSome_none, Bool.false_eq_true, ne_eq,
    not_true_eq_false, or_self, if_false, subTrained]

/-- A sub-link that was up loses its lanes and trains again, and a HANDOFF lost with it is sent once more. -/
theorem execHeadlandBlockLockLoss_of_up {q : Nat} {s : State} (up : subUp q s = true) : execHeadlandBlockLockLoss q s =
    .next (resendHandoff (modifyHeadland (fun h => { h with lanes := h.lanes.set q 0 }) (subStep q linkDrops s))) := by
  simp only [execHeadlandBlockLockLoss, if_pos up]

/-! ## Messages that the head cannot take (R310) -/

/-- Whether a message on sub-link `q` is taken as it is complete: while the credits of the sub-link are withheld, MIRROR and RELEASE wait for
their root ticket (R29, R113). -/
def takenAtOnce (q : Nat) (s : State) (f : LinkFrame) : Bool :=
  !(decide (withheld (s.headland.links.getD q resetLinkEnd) ≠ 0) && (f.code == 0x10 || f.code == 0x12))

/-- A message of an unknown type, or one too short for its type, is recorded and counted. -/
theorem execHeadlandBadMessage_of_message {q : Nat} {fs : List Bytes} {s u : State} {m : Nat × Bytes}
    (message : headReceive (takenAtOnce q s) q fs s = (some m, u)) :
    execHeadlandBadMessage q fs s = .next (badMessage m.1 q m.2.length u) := by
  unfold takenAtOnce at message
  simp only [execHeadlandBadMessage, message]

/-- Settles O22: each row by its own equation; every row of the Headland's link layer is an ordinary command. All but the end of training, the
loss of block lock and the message that the head cannot take are unconditional. -/
theorem headlandLinkRowsComplete : Obligations.HeadlandLinkRowsComplete := by
  refine ⟨fun q s => completes_of_ordinary rfl rfl, fun q s e link training => completes_of_ordinary rfl rfl,
    fun q s => completes_of_ordinary rfl rfl, fun q nak ack credit s => completes_of_ordinary rfl rfl,
    fun q s => completes_of_ordinary rfl rfl, ?trained, ?trainedFirst, ?lockLoss, fun q d s => completes_of_ordinary rfl rfl, ?badMessage⟩
  case trained =>
    intro q preset s e transmits link sub training notDown
    refine completes_of_ordinary rfl ((execHeadlandTrainingDone_of_training transmits link sub training).trans ?_)
    rw [if_neg notDown]
    rfl
  case trainedFirst =>
    intro q preset s e transmits link sub training down
    refine completes_of_ordinary rfl ((execHeadlandTrainingDone_of_training transmits link sub training).trans ?_)
    rw [if_pos down]
    rfl
  case lockLoss => exact fun q s up => completes_of_ordinary rfl (execHeadlandBlockLockLoss_of_up up)
  case badMessage => exact fun q fs s m u message => completes_of_ordinary rfl (execHeadlandBadMessage_of_message message)

end Sys2Proof.Machine
end

section
/-! The frames of a replication session (R294-R297, Table 12-3): the fields of a frame's header, and that a protected frame opens to its body. -/

namespace Sys2Proof.Machine

/-! ## Packed fields -/

theorem packFields_append (front back : List (Nat × Nat)) : packFields (front ++ back) = packFields front ++ packFields back := by
  induction front with
  | nil => rfl
  | cons field rest ih => rw [List.cons_append, packFields, packFields, ih, List.append_assoc]

/-- A packed field reads back from the place that the fields before it fill, whatever follows. -/
theorem fieldAt_packFields (front : List (Nat × Nat)) (n v : Nat) (back : List (Nat × Nat)) (rest : Bytes) :
    fieldAt (packFields (front ++ (n, v) :: back) ++ rest) (front.map (·.1)).sum n = v % 256 ^ n := by
  have field := fieldAt_packFields_leBytes front n v (packFields back ++ rest)
  rwa [List.append_assoc, ← List.append_assoc (leBytes n v), ← packFields, ← List.append_assoc, ← packFields_append] at field

/-! ## The header (Table 12-3) -/

section Header

variable (rtype prot fseq session len crc : Nat) (rest : Bytes)

theorem length_frameHeader : (frameHeader rtype prot fseq session len crc).length = 32 := packFields_length _

theorem fieldAt_frameHeader_magic :
    fieldAt (frameHeader rtype prot fseq session len crc ++ rest) 0 4 = 0x50525848 :=
  fieldAt_packFields [] 4 0x50525848 _ rest

theorem fieldAt_frameHeader_prot :
    fieldAt (frameHeader rtype prot fseq session len crc ++ rest) 5 1 = prot % 256 :=
  fieldAt_packFields [(4, 0x50525848), (1, rtype)] 1 prot _ rest

theorem fieldAt_frameHeader_fseq :
    fieldAt (frameHeader rtype prot fseq session len crc ++ rest) 8 8 = fseq % 256 ^ 8 :=
  fieldAt_packFields [(4, 0x50525848), (1, rtype), (1, prot), (2, 0)] 8 fseq _ rest

theorem fieldAt_frameHeader_len :
    fieldAt (frameHeader rtype prot fseq session len crc ++ rest) 0x14 4 = len % 256 ^ 4 :=
  fieldAt_packFields [(4, 0x50525848), (1, rtype), (1, prot), (2, 0), (8, fseq), (4, session)] 4 len _ rest

theorem fieldAt_frameHeader_crc :
    fieldAt (frameHeader rtype prot fseq session len crc ++ rest) 0x1C 4 = crc % 256 ^ 4 :=
  fieldAt_packFields [(4, 0x50525848), (1, rtype), (1, prot), (2, 0), (8, fseq), (4, session), (4, len), (4, 0)] 4 crc [] rest

end Header

/-! ## A protected frame taken apart (R295) -/

theorem length_beBytes (n v : Nat) : (beBytes n v).length = n := by
  rw [beBytes, List.length_reverse, leBytes_length]

theorem length_gcmEncrypt_tag {key : Bytes} (hkey : key.length = 32) (iv aad pt : Bytes) : (gcmEncrypt key iv aad pt).2.length = 16 := by
  simp only [gcmEncrypt, gcmTag, length_xorBytes, length_beBytes, length_aesEncrypt hkey, Nat.min_self]

/-- Three strings on end come apart at the places where they meet. -/
theorem parts_of_append_append {a b c : Bytes} {i j k : Nat} (first : a.length = i) (second : b.length = j) (third : c.length = k) :
    (a ++ b ++ c).take i = a ∧ slice (a ++ b ++ c) i j = b ∧ slice (a ++ b ++ c) (i + j) k = c := by
  subst first second third
  refine ⟨?_, ?_, ?_⟩
  · rw [List.append_assoc, List.take_left]
  · rw [slice, List.append_assoc, List.drop_left, List.take_left]
  · rw [slice, ← List.length_append, List.drop_left, List.take_length]

section Sealed

variable {rtype fseq session : Nat} {responder : Bool} {key body : Bytes}

/-- A protected frame is its header, with the ciphertext's length and no checksum, the ciphertext, and the tag. -/
theorem sealedFrame_parts (hkey : key.length = 32) :
    (sealedFrame rtype fseq session responder key body).length = 32 + body.length + 16 ∧
    (sealedFrame rtype fseq session responder key body).take 32 = frameHeader rtype 1 fseq session body.length 0 ∧
    slice (sealedFrame rtype fseq session responder key body) 32 body.length =
      (gcmEncrypt key (frameIv fseq session responder) (frameHeader rtype 1 fseq session body.length 0) body).1 ∧
    slice (sealedFrame rtype fseq session responder key body) (32 + body.length) 16 =
      (gcmEncrypt key (frameIv fseq session responder) (frameHeader rtype 1 fseq session body.length 0) body).2 := by
  refine ⟨?length, parts_of_append_append (length_frameHeader ..) (length_gcmEncrypt hkey ..) (length_gcmEncrypt_tag hkey ..)⟩
  case length =>
    simp only [sealedFrame, List.length_append, length_frameHeader, length_gcmEncrypt hkey, length_gcmEncrypt_tag hkey]

/-- The header of a protected frame as its fields read: protected, its FSEQ and its length, and a checksum of 0. -/
theorem fieldAt_sealedFrame (hseq : fseq < 2 ^ 64) (hlen : body.length ≤ 262144) :
    fieldAt (sealedFrame rtype fseq session responder key body) 0 4 = 0x50525848 ∧
    fieldAt (sealedFrame rtype fseq session responder key body) 5 1 = 1 ∧
    fieldAt (sealedFrame rtype fseq session responder key body) 8 8 = fseq ∧
    fieldAt (sealedFrame rtype fseq session responder key body) 0x14 4 = body.length ∧
    fieldAt (sealedFrame rtype fseq session responder key body) 0x1C 4 = 0 := by
  rw [sealedFrame, List.append_assoc]
  refine ⟨fieldAt_frameHeader_magic .., fieldAt_frameHeader_prot .., ?seq, ?len, fieldAt_frameHeader_crc ..⟩
  case seq =>
    rw [fieldAt_frameHeader_fseq]
    omega
  case len =>
    rw [fieldAt_frameHeader_len]
    omega

end Sealed

/-! ## Opening it (R295) -/

section Opening

variable {rtype fseq session n : Nat} {key body b : Bytes} {x : ReplSession} {s : State}

/-- A protected frame whose header is as the session expects it is opened with the session key. -/
theorem openFrame_of_sealed (type : 2 < rtype) (long : b.length = 32 + fieldAt b 0x14 4 + 16) (bound : fieldAt b 0x14 4 ≤ 262144)
    (magic : fieldAt b 0 4 = 0x50525848) (prot : bitOf (fieldAt b 5 1) 0 = true) (expected : fieldAt b 8 8 = x.rxSeq)
    (crc : fieldAt b 0x1C 4 = 0) : openFrame x rtype b s = openSealed x b s := by
  have shape : ¬(b.length < 32 ∨ fieldAt b 0 4 ≠ 0x50525848 ∨ 262144 < fieldAt b 0x14 4 ∨
      b.length ≠ 32 + fieldAt b 0x14 4 + 16) := by omega
  have header : ¬(rtype ≤ 2 ∨ fieldAt b 8 8 ≠ x.rxSeq ∨ fieldAt b 0x1C 4 ≠ 0) := by omega
  simp only [openFrame, prot, if_true, if_neg shape, if_neg header]

/-- What decrypts under the session key at the expected place of the sequence is the frame's body. -/
theorem openSealed_of_decrypts (hsession : sesKey x s = some (n, key))
    (decrypts : gcmDecrypt key (frameIv x.rxSeq x.session x.initiator) (b.take 32) (slice b 32 (fieldAt b 0x14 4))
      (slice b (32 + fieldAt b 0x14 4) 16) = some body) :
    openSealed x b s = (.ok body, frameCipher (x.qp.getD 0) .gcmDecrypt n (some (fieldAt b 0x14 4)) s) := by
  simp only [openSealed, hsession, decrypts]

end Opening

/-- Settles O56: the header reads as the partner expects it, and its ciphertext decrypts under the same key, IV and associated data. -/
theorem protectedFrameOpens : Obligations.ProtectedFrameOpens := by
  rintro rtype _ _ n key body x s type _ hseq _ hlen hkey hsession rfl rfl
  obtain ⟨magic, prot, seq, len, crc⟩ :=
    fieldAt_sealedFrame (rtype := rtype) (session := x.session) (responder := x.initiator) (key := key) hseq hlen
  obtain ⟨long, header, cipher, tag⟩ :=
    sealedFrame_parts (rtype := rtype) (fseq := x.rxSeq) (session := x.session) (responder := x.initiator) (body := body) hkey
  rw [openFrame_of_sealed type (by rw [len, long]) (len.symm ▸ hlen) magic (prot.symm ▸ rfl) seq crc,
    openSealed_of_decrypts hsession ?decrypts, len]
  case decrypts =>
    rw [len, header, cipher, tag]
    exact gcmDecrypt_gcmEncrypt hkey ..

end Sys2Proof.Machine
end

section
/-! The snapshot commands (R287-R293, R305, Table 12-7): what the body of each makes of operands that it takes. -/

namespace Sys2Proof.Machine

/-- A started command that waits has its effect, and its reply comes with what it waits for. -/
theorem waits_of_waitOn {o : Nat} {c : Instr} {p : McPacket} {body : State → McEnd × State} {s u t : State} {kind : WaitKind} {result : Bytes}
    (plain : ordinary c = true) (start : Starts o p s u) (meaning : exec c s = .next (mciRun o p body s))
    (ended : body u = waitOn p kind result t) : Waits c p kind result s t :=
  completes_of_starts start meaning (exec_steady c s plain) (by rw [ended]; rfl)

section Bodies

variable {p : McPacket} {u : State}

/-! ## SNAP_CREATE (R288, R289) -/

/-- On the scope's ingest owner a barrier is stamped, and the command waits for the job begun under it. -/
theorem snapCreate_of_owner {owner : Nat} {b : List Nat} {t v : State} {j : SnapJob} (mode : snapMode u = true)
    (scope : scopeOwner (parm p 0 1) (parm p 2 2) u = some owner) (owns : ownsIngest owner u = true) (stamped : stampBarrier u = (b, t))
    (begun : beginSnap (parm p 0 1) (parm p 2 2) b none none t = some (j, v)) : snapCreate p u = waitOn p (.barrier j.id) [] v := by
  simp only [snapCreate, mode, scope, owns, stamped, begun, Bool.true_eq_false, if_false]

/-- On the other head the command is forwarded to the owner. -/
theorem snapCreate_of_notOwner {owner : Nat} (mode : snapMode u = true) (scope : scopeOwner (parm p 0 1) (parm p 2 2) u = some owner)
    (notOwner : ownsIngest owner u = false) : snapCreate p u = forwardMci 0x0500 p u := by
  simp only [snapCreate, mode, scope, notOwner, Bool.true_eq_false, if_false, if_true]

/-! ## SNAP_DELETE and SNAP_LIST (R289, R291, R305) -/

theorem snapDelete_of_unused {x : Snapshot} (mode : snapMode u = true)
    (found : snapAt (parm p 0 1) (parm p 2 2) (parm p 4 2) u = some x) (unused : snapInUse x u = false) :
    snapDelete p u = ok [] (deleteTickets x (place' 0 (.snapshot x.kind 2 x.id x.num (arrayTime u)) u)) := by
  simp only [snapDelete, placeSnapDelete, mode, found, unused, Bool.true_eq_false, Bool.false_eq_true, if_false]

theorem snapList_of_scope (scope : (scopeOwner (parm p 0 1) (parm p 2 2) u).isSome = true) :
    snapList p u = answerRecords p ((sortByKey (fun (x : Snapshot) => [(x.num : Int)]) (u.map.snaps.filter (fun x =>
      x.kind == parm p 0 1 && x.id == parm p 2 2 && decide (parm p 4 2 ≤ x.num) && !x.deleting))).map snapEntry) [] u := by
  simp only [snapList, Option.isNone_eq_false_iff.mpr scope, Bool.false_eq_true, if_false]

/-! ## SNAP_EXPOSE (R293) -/

section Expose

variable {n : Namespace} {x : Snapshot} (serving : journals u = true) (kind : parm p 0 1 = 1) (found : nsAt (parm p 2 2) u = some n)
  (snapshot : snapAt 1 (parm p 2 2) (parm p 4 2) u = some x)
include serving kind found snapshot

/-- A snapshot that is not exposed becomes a namespace of its own namespace's domain, shape and owner. -/
theorem snapExpose_of_expose {nsid : Nat} {m : Option Nat} {t : State} (op : parm p 6 1 = 1)
    (hidden : u.map.namespaces.any (fun y => y.exposes == some (parm p 2 2, parm p 4 2)) = false)
    (created : createNs n.domain n.size n.lbaLog2 (n.owner + 1) (some (parm p 2 2, parm p 4 2)) u = some (nsid, m, t)) :
    snapExpose p u = endMirrored p m (leBytes 2 nsid) t := by
  simp only [snapExpose, serving, kind, found, snapshot, op, hidden, created, ne_eq, not_true_eq_false, Bool.true_eq_false,
    Bool.false_eq_true, if_false]

/-- The namespace that exposes a snapshot is deleted as the snapshot is withdrawn. -/
theorem snapExpose_of_withdraw {y : Namespace} (op : parm p 6 1 = 2)
    (exposed : u.map.namespaces.find? (fun z => z.exposes == some (parm p 2 2, parm p 4 2)) = some y) :
    snapExpose p u = ok (leBytes 2 y.id) (deleteNs y u) := by
  simp only [snapExpose, serving, kind, found, snapshot, op, exposed, ne_eq, not_true_eq_false, Bool.true_eq_false, if_false]

end Expose

end Bodies

/-- Settles O4: each command by what its body makes of operands that it takes; all of them are ordinary commands. -/
theorem snapshotCommandsComplete : Obligations.SnapshotCommandsComplete := by
  refine ⟨?create, ?forward, ?delete, ?list, ?expose, ?withdraw⟩
  case create =>
    exact fun p s u owner b s1 j s2 start mode scope owns stamped begun =>
      waits_of_waitOn rfl start rfl (snapCreate_of_owner mode scope owns stamped begun)
  case forward =>
    exact fun p s u owner start mode scope notOwner =>
      completes_of_starts start rfl (exec_steady _ s rfl) (by rw [snapCreate_of_notOwner mode scope notOwner])
  case delete =>
    exact fun p s u x start mode found unused => answers_of_ok rfl start rfl (snapDelete_of_unused mode found unused)
  case list => exact fun p s u start scope => reports_of_answerRecords rfl start rfl (snapList_of_scope scope)
  case expose =>
    exact fun p s u n x nsid m s1 start serving kind op found snapshot hidden created =>
      answersMirrored_of_endMirrored rfl start rfl (snapExpose_of_expose serving kind found snapshot op hidden created)
  case withdraw =>
    exact fun p s u n x y start serving kind op found snapshot exposed =>
      answers_of_ok rfl start rfl (snapExpose_of_withdraw serving kind found snapshot op exposed)

end Sys2Proof.Machine
end

section
/-! The commands on pairs, sessions and exports (R292-R305, Table 12-7): what the body of each makes of operands that it takes. -/

namespace Sys2Proof.Machine

section Bodies

variable {p : McPacket} {u : State}

/-! ## Pair records (R294, R296) -/

/-- The sending array's record takes the lowest free pair number. -/
theorem replPair_of_free {n : Nat} (serving : journals u = true) (scope : (scopeOwner (parm p 0 1) (parm p 2 2) u).isSome = true)
    (least : 8 ≤ parm p 6 1) (most : parm p 6 1 ≤ 11)
    (free : firstIndex 0xFFFF (fun n => !u.map.pairs.any (fun x => x.role == 1 && x.pair == n && x.state == 1)) = some n) :
    replPair p u = endMirrored p (placePair ⟨n, 1, 1, parm p 0 1, parm p 6 1, parm p 2 2, parm p 4 2, 0, parmBytes p 8 16, 0⟩ u).2.1
      (leBytes 2 n) (placePair ⟨n, 1, 1, parm p 0 1, parm p 6 1, parm p 2 2, parm p 4 2, 0, parmBytes p 8 16, 0⟩ u).2.2 := by
  simp only [replPair, serving, Option.isNone_eq_false_iff.mpr scope, Nat.not_lt.mpr least, Nat.not_lt.mpr most, free, Bool.true_eq_false,
    Bool.false_eq_true, or_self, if_false]

/-- The receiving array's record designates its target. -/
theorem replAccept_of_scope (serving : journals u = true) (scope : (scopeOwner (parm p 0 1) (parm p 2 2) u).isSome = true)
    (least : 8 ≤ parm p 6 1) (most : parm p 6 1 ≤ 11) :
    replAccept p u = endMirrored p (placePair ⟨0xFFFF, 2, 1, parm p 0 1, parm p 6 1, 0, parm p 2 2, 0, parmBytes p 8 16, 0⟩ u).2.1 []
      (placePair ⟨0xFFFF, 2, 1, parm p 0 1, parm p 6 1, 0, parm p 2 2, 0, parmBytes p 8 16, 0⟩ u).2.2 := by
  simp only [replAccept, serving, Option.isNone_eq_false_iff.mpr scope, Nat.not_lt.mpr least, Nat.not_lt.mpr most, Bool.true_eq_false,
    Bool.false_eq_true, or_self, if_false]

/-- REPL_UNPAIR stops the pair's session before its record is ended. -/
theorem replUnpair_of_pair {r : PairRecord} (serving : journals u = true) (found : pairAt (parm p 0 2) u = some r) :
    replUnpair p u = endMirrored p (placePair { r with state := 2 } (stopPair r.pair u)).2.1 []
      (placePair { r with state := 2 } (stopPair r.pair u)).2.2 := by
  simp only [replUnpair, serving, found, Bool.true_eq_false, if_false]

/-! ## Sessions (R296, R300, R305) -/

/-- The session of a whole diff as REPL_START begins it: its number is one above the pair's last, and it waits for that to be persisted. -/
def wholeDiff (r : PairRecord) (goal : Snapshot) (s : State) : ReplSession :=
  { qp := none, initiator := true, pair := r.pair, kind := r.kind, target := r.target, session := r.sessionLast + 1, slot := r.slot
    wslot := none, nonceI := [], nonceR := [], partner := r.partner, persist := (placePair { r with sessionLast := r.sessionLast + 1 } s).1
    stage := 1, txSeq := 0, rxSeq := 0, baseNum := 0, goalNum := goal.num, base := 0, goal := goal.createJseq, batches := [], batch := 0
    lastBegins := [], inbound := [], object := none, held := false, bytesSent := 0, lastRx := s.time.ticks, lastTx := s.time.ticks }

theorem replStart_of_whole {r : PairRecord} {goal : Snapshot} (mode : snapMode u = true) (found : pairAt (parm p 0 2) u = some r)
    (snapshot : snapAt r.kind r.source (parm p 4 2) u = some goal) (whole : parm p 2 2 = 0)
    (idle : u.repl.sessions.any (fun x => x.initiator && x.pair == r.pair) = false) (numbers : r.sessionLast ≠ 0xFFFFFF)
    (room : sessionsFull u = false) :
    replStart p u = ok [] (metaFlush (modifyRepl (fun y => { y with sessions := y.sessions ++ [wholeDiff r goal u] })
      (placePair { r with sessionLast := r.sessionLast + 1 } u).2.2)) := by
  simp only [replStart, mode, found, snapshot, whole, idle, if_neg numbers, room, ne_eq, not_true_eq_false, false_and, Bool.true_eq_false,
    Bool.false_eq_true, if_false]
  rfl

theorem replStatus_of_session {x : ReplSession} {l : ReplLast} (pair : u.map.pairs.any (fun x => x.role == 1 && x.pair == parm p 0 2) = true)
    (session : u.repl.sessions.find? (fun y => y.initiator && y.pair == parm p 0 2) = some x)
    (last : u.repl.last.find? (fun y => y.pair == parm p 0 2) = some l) :
    replStatus p u = ok (packFields [(4, x.stage), (4, x.batch), (8, x.bytesSent), (2, l.reason), (2, l.snap)]) u := by
  simp only [replStatus, pair, session, last, Option.map_some, Option.getD_some, Bool.true_eq_false, if_false]

theorem replStop_of_pair (found : (pairAt (parm p 0 2) u).isSome = true) : replStop p u = ok [] (stopPair (parm p 0 2) u) := by
  simp only [replStop, Option.isNone_eq_false_iff.mpr found, Bool.false_eq_true, if_false]

/-! ## Exports (R301-R305) -/

/-- The stream of a namespace's snapshot as MIGRATE_EXPORT begins it (R301, R303). A resumed one takes the start time of the run that it resumes. -/
def namespaceExport (p : McPacket) (s : State) : ExportRun :=
  { num := s.repl.nextExport, kind := 1, id := parm p 2 2, snap := parm p 4 2, eflags := parm p 6 1, address := parm p 8 16
    wanted := parm p 7 1, lanes := [], open' := [], resume := parm p 0x18 8, asked := [], frames := [], acked := 0, bytes := 0, state := 0
    snaps := [(1, parm p 2 2, parm p 4 2)], temp := false
    startTime := if parm p 0x18 8 = 0 then arrayTime s
      else ((s.repl.exports.find? (fun e => e.kind == 1 && e.id == parm p 2 2 && e.snap == parm p 4 2 && e.eflags == parm p 6 1)).map
        (·.startTime)).getD (arrayTime s)
    lastAdvance := s.time.ticks }

theorem migrateExport_of_snapshot (kind : parm p 0 1 = 1) (scope : (scopeOwner 1 (parm p 2 2) u).isSome = true) (given : 0 < parm p 4 2)
    (snapshot : (snapAt 1 (parm p 2 2) (parm p 4 2) u).isSome = true) (flags : parm p 6 1 < 2) (least : 0 < parm p 7 1)
    (most : parm p 7 1 ≤ 16) (serving : servingMode u.boot.mode = true) (fits : bitmapFits u = true) :
    migrateExport p u = ok (leBytes 2 u.repl.nextExport) (exportGo u.repl.nextExport
      (modifyRepl (fun r => { r with exports := r.exports ++ [namespaceExport p u], nextExport := u.repl.nextExport + 1 }) u)) := by
  have named : parm p 4 2 ≠ 0 := Nat.pos_iff_ne_zero.mp given
  have lanes : parm p 7 1 ≠ 0 := Nat.pos_iff_ne_zero.mp least
  simp only [migrateExport, namespaceExport, kind, scope, snapshot, named, lanes, beq_false_of_ne named, Nat.not_le.mpr flags,
    Nat.not_lt.mpr most, serving, fits, beq_self_eq_true, Nat.reduceEqDiff, Nat.reduceBNe, Bool.true_or, Bool.false_or, Bool.and_self,
    Bool.true_eq_false, false_and, or_self, if_false]

theorem migrateStatus_of_export {e : ExportRun} (found : exportAt (parm p 0 2) u = some e) :
    migrateStatus p u = ok (exportBytesOf e) u := by
  simp only [migrateStatus, found]

theorem migrateStop_of_export {e : ExportRun} (found : exportAt (parm p 0 2) u = some e) :
    migrateStop p u = ok (((exportAt (parm p 0 2) (exportOver (parm p 0 2) 2 u)).map exportBytesOf).getD [])
      (exportOver (parm p 0 2) 2 u) := by
  simp only [migrateStop, found]

end Bodies

/-- Settles O5: each command by what its body makes of operands that it takes; all of them are ordinary commands. -/
theorem replicationCommandsComplete : Obligations.ReplicationCommandsComplete := by
  refine ⟨?pair, ?accept, ?start, ?status, ?stop, ?unpair, ?exportBegun, ?exportStatus, ?exportStop⟩
  case pair =>
    exact fun p s u n start serving scope least most free =>
      answersMirrored_of_endMirrored rfl start rfl (replPair_of_free serving scope least most free)
  case accept =>
    exact fun p s u start serving scope least most =>
      answersMirrored_of_endMirrored rfl start rfl (replAccept_of_scope serving scope least most)
  case start =>
    exact fun p s u r goal start mode found snapshot whole idle numbers room =>
      ⟨wholeDiff r goal u, answers_of_ok rfl start rfl (replStart_of_whole mode found snapshot whole idle numbers room),
        rfl, rfl, rfl, rfl, rfl, rfl⟩
  case status =>
    exact fun p s u x l start pair session last => answers_of_ok rfl start rfl (replStatus_of_session pair session last)
  case stop => exact fun p s u start found => answers_of_ok rfl start rfl (replStop_of_pair found)
  case unpair =>
    exact fun p s u r start serving found => answersMirrored_of_endMirrored rfl start rfl (replUnpair_of_pair serving found)
  case exportBegun =>
    exact fun p s u start kind scope given snapshot flags least most serving fits =>
      ⟨namespaceExport p u,
        answers_of_ok rfl start rfl (migrateExport_of_snapshot kind scope given snapshot flags least most serving fits), rfl, rfl, rfl⟩
  case exportStatus => exact fun p s u e start found => answers_of_ok rfl start rfl (migrateStatus_of_export found)
  case exportStop => exact fun p s u e start found => answers_of_ok rfl start rfl (migrateStop_of_export found)

end Sys2Proof.Machine
end

section
/-! The snapshot rows and the frames and timers of replication (R288, R291, R294-R302, Tables 12-1 to 12-6): what each row answers, case by
case. -/

namespace Sys2Proof.Machine

/-! ## Snapshots (R288, R291, Table 12-1) -/

/-- The record of a drained job that a command waits for is placed, and the command's reply given or left to the peer's acknowledgement. -/
theorem snapDrained_of_command {job : Nat} {s : State} {j : SnapJob} (found : s.repl.jobs.find? (fun j => j.id == job) = some j)
    (drained : barrierDrained j s = true) (noDiff : j.forDiff = none) (noExport : j.forExport = none) :
    snapDrained job s = resumeRepl (resumeSheaf (snapReply j (placeSnap j s).1 (placeSnap j s).2.1 (placeSnap j s).2.2)) := by
  simp only [snapDrained, found, drained, noDiff, noExport, Bool.true_eq_false, if_false]

/-- The entry of a grain in the version of its page that follows a snapshot's, the live one where none does. -/
def newerEntry (ns num page g : Nat) (s st : State) : Nat :=
  match (((pageVersions ns page s).dropWhile (fun x => x.num != num)).drop 1).head? with
  | some n => resolveGrain ns n.num g st
  | none => liveEntry ns g st

/-- A deleted snapshot that is the page's oldest version settles its own grains, and its copy goes. -/
theorem settlePage_of_oldest {ns num page : Nat} {s : State} {x : Snapshot} {c : SnapPage}
    (found : s.map.snaps.find? (fun x => x.kind == 1 && x.id == ns && x.num == num && x.deleting) = some x)
    (copy : snapCopy ns num page s = some c) (oldest : (pageVersions ns page s).takeWhile (fun x => x.num != num) = []) :
    settlePage ns num page s = dropCopy c ((distinct (c.entries.map (·.1))).foldl (fun st g =>
      settleGrain (copyEntry c g) (newerEntry ns num page g s st) none st) s) := by
  simp only [settlePage, found, copy, oldest, List.getLast?_nil, Option.filter_none, Option.bind_none, Option.map_none, Option.getD_none,
    List.map_nil, List.append_nil]
  rfl

/-! ## Frames of a session (R113, R294, R300) -/

section Frames

variable {rtype qp : Nat} {f b : Bytes} {x y : ReplSession} {s t u : State} {c : Instr} {run : ReplSession → Bytes → State → State}

/-- A frame that its session takes has the effect of its type. -/
theorem replRow_of_opened (opened : Opened rtype qp f b x y s t) : replRow rtype qp f run s = run y b t := by
  obtain ⟨s0, s1, awake, arrived, session, opens, rfl, rfl⟩ := opened
  simp only [replRow, if_neg awake, arrived, session, opens]

/-- A frame at the stage and on the side that expect its type has its effect. -/
theorem expectStage_of_stage {stage : Nat} {initiator : Bool} (hstage : y.stage = stage) (side : y.initiator = initiator) :
    expectStage stage initiator run y b t = run y b t := if_pos ⟨hstage, side⟩

/-- The row of a frame that its session takes completes as its type does. -/
theorem completes_of_opened (plain : ordinary c = true) (meaning : exec c s = .next (replRow rtype qp f run s))
    (opened : Opened rtype qp f b x y s t) (effect : run y b t = u) : Completes c s u :=
  completes_of_ordinary plain (by rw [meaning, replRow_of_opened opened, effect])

/-- So does the row of a frame that comes where its type is expected. -/
theorem completes_of_expected {stage : Nat} {initiator : Bool} (plain : ordinary c = true)
    (meaning : exec c s = .next (replRow rtype qp f (expectStage stage initiator run) s)) (opened : Opened rtype qp f b x y s t)
    (hstage : y.stage = stage) (side : y.initiator = initiator) (effect : run y b t = u) : Completes c s u :=
  completes_of_opened plain meaning opened ((expectStage_of_stage hstage side).trans effect)

end Frames

/-! ## Opening (R296, Tables 12-5 and 12-6) -/

section Hello

variable {qp : Nat} {f b nonce : Bytes} {x : ReplSession} {s u v w : State}

/-- A HELLO on a connection that has a session ends it. -/
theorem hello_of_session (awake : s.boot.mode ≠ .dump) (arrived : arrive 0x10 3 (qpHome qp s) qp 1 s = (true, u))
    (session : (sesAt qp (takeFrame qp f u)).isSome = true) : hello qp f s = abortQp qp 6 (takeFrame qp f u) := by
  simp only [hello, if_neg awake, arrived, if_pos session]

/-- A HELLO on a connection that a replication partner has made, and that has no session, is checked. -/
theorem hello_of_partner {c : QpCtx} (awake : s.boot.mode ≠ .dump) (arrived : arrive 0x10 3 (qpHome qp s) qp 1 s = (true, u))
    (fresh : (sesAt qp (takeFrame qp f u)).isSome = false) (connected : qpConnected qp (takeFrame qp f u) = true)
    (context : qpAt qp (takeFrame qp f u) = some c) (service : c.service = .replication) (passive : c.active = false) :
    hello qp f s = helloTaken qp (overlay f 4 (leBytes 1 1)) (takeFrame qp f u) := by
  have partner : (c.service == .replication && !c.active) = true := by
    rw [service, passive]
    rfl
  simp only [hello, if_neg awake, arrived, fresh, connected, context, partner, Option.map_some, Option.getD_some, Bool.true_eq_false,
    Bool.false_eq_true, or_self, if_false]

/-- Nothing is wrong with an intact HELLO of a known version from an accepted initiator, where there is room for a session. -/
theorem helloFault_eq_zero (opens : (openFrame x 1 b w).1 = .ok (b.drop 32)) (length : (b.drop 32).length = 32)
    (version : fieldAt (b.drop 32) 0x19 1 = 1) (mode : snapMode w = true) (accepted : acceptsFrom x w = true) :
    helloFault b x false w = 0 := by
  simp only [helloFault, opens, length, version, mode, accepted, beq_self_eq_true, Bool.and_self, ne_eq, not_true_eq_false,
    Bool.true_eq_false, Bool.false_eq_true, or_self, if_false]

/-- An intact HELLO of another version has that fault, whatever else is wrong. -/
theorem helloFault_eq_nine {full : Bool} (opens : (openFrame x 1 b w).1 = .ok (b.drop 32)) (length : (b.drop 32).length = 32)
    (version : fieldAt (b.drop 32) 0x19 1 ≠ 1) : helloFault b x full w = 9 := by
  simp only [helloFault, opens, length, if_pos version, beq_self_eq_true, Bool.and_self, Bool.true_eq_false, if_false]

/-- The responder's session as its HELLO opens it, with the nonce just drawn. -/
def helloOpens (qp : Nat) (b nonce : Bytes) (u v : State) : State :=
  modifyRepl (fun r => { r with sessions := r.sessions ++ [newSession qp (fieldAt b 0x10 3) (b.drop 32) nonce u] }) v

theorem helloTaken_of_accepted {t : State} (drawn : draw 8 u = (nonce, v))
    (sound : helloFault b (newSession qp (fieldAt b 0x10 3) (b.drop 32) nonce u) (sessionsFull v) (helloOpens qp b nonce u v) = 0)
    (derived : deriveKey qp (helloOpens qp b nonce u v) = (true, t)) :
    helloTaken qp b u = sendFrame qp 2 (helloBody nonce (newSession qp (fieldAt b 0x10 3) (b.drop 32) nonce u).slot 0 t) t := by
  unfold helloOpens at sound derived
  simp only [helloTaken, drawn, sound, derived, Nat.reduceEqDiff, ne_eq, not_true_eq_false, if_false]

theorem helloTaken_of_refused {fault : Nat} (drawn : draw 8 u = (nonce, v))
    (found : helloFault b (newSession qp (fieldAt b 0x10 3) (b.drop 32) nonce u) (sessionsFull v) (helloOpens qp b nonce u v) = fault)
    (faulty : fault ≠ 0) (intact : fault ≠ 6) :
    helloTaken qp b u = refuseHello qp fault (newSession qp (fieldAt b 0x10 3) (b.drop 32) nonce u) (helloOpens qp b nonce u v) := by
  unfold helloOpens at found ⊢
  simp only [helloTaken, drawn, found, if_neg intact, if_pos faulty]

end Hello

section Keys

variable {qp : Nat} {x z : ReplSession} {b : Bytes} {s u : State}

/-- The initiator that a HELLO_REPLY accepts derives the session key and confirms both nonces. -/
theorem helloReply_of_accepted (length : b.length = 32) (accepted : fieldAt b 0x1A 2 = 0) (version : fieldAt b 0x19 1 = 1)
    (derived : deriveKey qp (modifySes qp (fun z => { z with nonceR := slice b 0x10 8, stage := 2 }) s) = (true, u))
    (session : sesAt qp u = some z) : helloReply qp x b s = sendFrame qp 3 (confirmBody z) u := by
  simp only [helloReply, length, accepted, version, derived, session, ne_eq, not_true_eq_false, if_false]

/-- A CONFIRM of both nonces is answered by the responder with its own, by the initiator with DIFF_BEGIN. -/
theorem confirm_of_nonces (stage : x.stage = 2) (nonces : b = confirmBody x) :
    confirm qp x b s = if x.initiator then
        sendFrame qp 0x10 (diffBegin x (modifySes qp (fun z => { z with stage := 3 }) s)) (modifySes qp (fun z => { z with stage := 3 }) s)
      else sendFrame qp 3 b (modifySes qp (fun z => { z with stage := 3 }) s) := by
  subst nonces
  simp only [confirm, stage, ne_eq, not_true_eq_false, if_false]

end Keys

/-! ## The sender's diff (R297-R299) -/

section Sender

variable {qp : Nat} {x : ReplSession} {b : Bytes} {s : State} {r : PairRecord}

/-- A receiver that is ready lets the batches of a namespace's diff begin from its RESUME_BATCH on. -/
theorem diffReady_of_namespace (ready : fieldAt b 0 2 = 0) (found : pairAt x.pair s = some r) (kind : x.kind = 1) :
    diffReady qp x b s = startBatch qp true (modifySes qp (fun z =>
      { z with batches := grainBatches r.source x.baseNum x.goalNum s
               batch := min (fieldAt b 4 4) (grainBatches r.source x.baseNum x.goalNum s).length, lastBegins := [], stage := 4 }) s) := by
  simp only [diffReady, ready, found, kind, Option.map_some, Option.getD_some, ne_eq, not_true_eq_false, if_false, if_true]

theorem fpWant_of_batch {facts : MediaFacts} (batch : fieldAt b 0 4 = x.batch) :
    fpWant qp facts x b s = sendChunks qp x (slice b 8 128) facts s := if_neg (not_not_intro batch)

theorem batchDone_of_mapped {facts : MediaFacts} (batch : fieldAt b 0 4 = x.batch) (mapped : fieldAt b 4 2 = 0) :
    batchDone qp facts x b s = startBatch qp false (modifySes qp (fun z => { z with batch := x.batch + 1 }) s) := by
  simp only [batchDone, batch, mapped, ne_eq, not_true_eq_false, if_false, if_true]

/-- A completed diff is recorded with its pair, and the session is over. -/
theorem diffDone_of_pair (completed : fieldAt b 0 2 = 0) (found : pairAt x.pair s = some r) :
    diffDone qp x b s = dropSession ((sesAt qp (placePair { r with lastTargetJseq := x.goal } s).2.2).getD x) 0 (some (fieldAt b 2 2))
      (placePair { r with lastTargetJseq := x.goal } s).2.2 := by
  simp only [diffDone, completed, found, ne_eq, not_true_eq_false, if_false]

end Sender

/-! ## The receiver's diff (R297-R299) -/

section Receiver

variable {qp : Nat} {x : ReplSession} {b : Bytes} {s : State}

/-- A fingerprint list of a namespace's diff is looked up, and what is missing asked for. -/
theorem fpListRow_of_namespace (kind : x.kind = 1) (nonempty : 0 < fieldAt b 4 2) (most : fieldAt b 4 2 ≤ 1024)
    (length : b.length = 8 + 48 * fieldAt b 4 2) :
    fpListRow qp x b s = sendFrame qp 0x13 (packFields [(4, fieldAt b 0 4), (4, 0)] ++ bitmapOf (fieldAt b 4 2) (fun i =>
        (((parseEntries (fieldAt b 4 2) (b.drop 8))[i]?).map (fun e => entryMissing (scopeDomain 1 x.target s) e s)).getD false))
      (modifySes qp (fun z => { z with inbound := parseEntries (fieldAt b 4 2) (b.drop 8), batch := fieldAt b 0 4 })
        ((parseEntries (fieldAt b 4 2) (b.drop 8)).foldl (fun st e =>
          if e.zero then st else (winnowHot (hotKey (scopeDomain 1 x.target s) e.fp) st).2) s)) := by
  have legal : ¬(fieldAt b 4 2 = 0 ∨ 1024 < fieldAt b 4 2 ∨ b.length ≠ 8 + 48 * fieldAt b 4 2 ∨
      (x.kind = 2 ∧ x.object.isNone = true)) := by
    omega
  simp only [fpListRow, if_neg legal]
  rw [kind]

/-- A chunk that comes as it is, and has the length and the fingerprint of its entry, is kept for the batch. -/
theorem chunkData_of_plain {e : ReplEntry} {plain : Bytes} (entry : x.inbound[fieldAt b 4 2]? = some e) (batch : fieldAt b 0 4 = x.batch)
    (whole : b.length = 16 + fieldAt b 12 4) (stored : fieldAt b 6 1 ≠ 1) (payload : plain = slice b 16 (fieldAt b 12 4))
    (announced : plain.length = fieldAt b 8 4) (length : plain.length = e.len)
    (print : fingerprint (scopeDomain x.kind x.target s) plain s = e.fp) :
    chunkData qp x b s = modifySes qp (fun z =>
      { z with inbound := modifyNth (fun (y : ReplEntry) => { y with data := some plain }) (fieldAt b 4 2) z.inbound }) s := by
  subst payload
  have framed : ¬(fieldAt b 0 4 ≠ x.batch ∨ b.length ≠ 16 + fieldAt b 12 4) := by omega
  have sound : ¬((slice b 16 (fieldAt b 12 4)).length ≠ fieldAt b 8 4 ∨ (slice b 16 (fieldAt b 12 4)).length ≠ e.len ∨
      fingerprint (scopeDomain x.kind x.target s) (slice b 16 (fieldAt b 12 4)) s ≠ e.fp) := by
    simp only [announced.symm, length.symm, print, ne_eq, not_true_eq_false, or_self, not_false_eq_true]
  simp only [chunkData, entry, if_neg framed, if_neg stored, if_neg sound]

theorem batchEnd_of_batch (batch : fieldAt b 0 4 = x.batch) (listed : x.inbound ≠ []) : batchEnd qp x b s = settle (applyBatch qp s) := by
  simp only [batchEnd, batch, listed, ne_eq, not_true_eq_false, or_self, if_false]

section Objects

variable (kind : x.kind = 2) (length : b.length = 128) (idle : x.object = none)
  (unknown : currentVersion x.target (parseObject b).key s = none)
include kind length idle unknown

/-- The record of a deleted object that the receiver does not hold begins nothing. -/
theorem objectBegin_of_deleted (deleted : (parseObject b).state = 3) :
    objectBegin qp x b s = modifySes qp (fun z => { z with object := none }) s := by
  simp only [objectBegin, kind, length, idle, unknown, deleted, Option.map_none, Option.filter_none, Option.isNone_none, reduceCtorEq, ne_eq,
    not_true_eq_false, or_self, and_self, if_false, if_true]

/-- An object that the receiver does not hold is begun under a number of its own, and closed at once where it has no pieces. -/
theorem objectBegin_of_live (live : (parseObject b).state ≠ 3) :
    objectBegin qp x b s = settle (closeObject qp (modifySes qp (fun z => { z with object := some (freeNumber s, parseObject b) })
      (modifyIngest (fun i => { i with objects := i.objects ++
        [{ number := freeNumber s, objDomain := x.target, domain := scopeDomain 2 x.target s
           quadrant := leNat ((parseObject b).key.take 1) % 4, landed := 0, size := none, cut := 0 }] }) s))) := by
  simp only [objectBegin, kind, length, idle, unknown, live, Option.map_none, Option.getD_none, reduceCtorEq, Bool.false_eq_true, ne_eq,
    not_true_eq_false, or_self, false_and, if_false]

end Objects

end Receiver

/-! ## Timers (R300) -/

theorem execReplKeepaliveTimer_of_keyed {qp : Nat} {s : State} {x : ReplSession} (session : sesAt qp s = some x)
    (keyed : x.wslot.isSome = true) : execReplKeepaliveTimer qp s = .next (sendFrame qp 0x30 [] s) := by
  simp only [execReplKeepaliveTimer, session, keyed, if_true]

theorem abortQp_of_session {qp reason : Nat} {s : State} {x : ReplSession} (session : sesAt qp s = some x) :
    abortQp qp reason s = abortSession x reason s := by
  simp only [abortQp, session]

/-- Settles O21: each row by its own equation; all of them are ordinary commands, and a frame's row is that of its type where it is expected. -/
theorem replicationRowsComplete : Obligations.ReplicationRowsComplete := by
  refine ⟨?drained, ?deletePage, ?hello, ?helloReply, ?confirmed, ?confirmBegins, ?diffBegin, ?diffReady, ?fpList, ?fpWant, ?chunkData,
    ?batchEnd, ?batchDone, ?objectDeleted, ?objectLive, ?diffEnd, ?diffDone, ?keepalive, ?aborted, ?keepaliveTimer, ?idleTimeout,
    fun n s => completes_of_ordinary rfl rfl⟩
  case drained =>
    exact fun job s j found drained noDiff noExport =>
      completes_of_ordinary rfl (congrArg _ (snapDrained_of_command found drained noDiff noExport))
  case deletePage =>
    exact fun ns num page s x c found copy oldest => completes_of_ordinary rfl (congrArg _ (settlePage_of_oldest found copy oldest))
  case hello =>
    rintro qp f s s0 u awake arrived rfl
    refine ⟨fun session => completes_of_ordinary rfl (congrArg _ (hello_of_session awake arrived session)), ?_⟩
    rintro b body nonce v x w y t fresh connected context service passive rfl rfl drawn rfl rfl
    have taken := hello_of_partner awake arrived fresh connected context service passive
    refine ⟨fun opens length version room mode accepted derived => completes_of_ordinary rfl (congrArg _ (taken.trans ?accepted)),
      fun opens length version => completes_of_ordinary rfl (congrArg _ (taken.trans ?version))⟩
    case accepted => exact helloTaken_of_accepted drawn (by rw [room]; exact helloFault_eq_zero opens length version mode accepted) derived
    case version => exact helloTaken_of_refused drawn (helloFault_eq_nine opens length version) (by decide) (by decide)
  case helloReply =>
    intro qp f b x y s t u opened stage side length accepted version derived session
    obtain ⟨z, hz⟩ := Option.isSome_iff_exists.mp session
    exact ⟨z, hz, completes_of_expected rfl rfl opened stage side (helloReply_of_accepted length accepted version derived hz)⟩
  case confirmed =>
    exact fun qp f b x y s t opened stage nonces side =>
      completes_of_opened rfl rfl opened ((confirm_of_nonces stage nonces).trans (if_neg (Bool.eq_false_iff.mp side)))
  case confirmBegins =>
    rintro qp f b x y s t _ opened stage nonces side rfl
    exact completes_of_opened rfl rfl opened ((confirm_of_nonces stage nonces).trans (if_pos side))
  case diffBegin => exact fun qp f b x y s t opened stage side => completes_of_expected rfl rfl opened stage side rfl
  case diffReady =>
    rintro qp f b x y s t r _ _ opened stage side ready found kind rfl rfl
    exact completes_of_expected rfl rfl opened stage side (diffReady_of_namespace ready found kind)
  case fpList =>
    rintro qp f b x y s t _ _ opened stage side kind rfl nonempty most length rfl
    exact completes_of_expected rfl rfl opened stage side (fpListRow_of_namespace kind nonempty most length)
  case fpWant =>
    exact fun qp f b facts x y s t opened stage side batch => completes_of_expected rfl rfl opened stage side (fpWant_of_batch batch)
  case chunkData =>
    exact fun qp f b x y s t e plain opened stage side entry batch whole stored payload announced length print =>
      completes_of_expected rfl rfl opened stage side (chunkData_of_plain entry batch whole stored payload announced length print)
  case batchEnd =>
    exact fun qp f b x y s t opened stage side batch listed =>
      completes_of_expected rfl rfl opened stage side (batchEnd_of_batch batch listed)
  case batchDone =>
    exact fun qp f b facts x y s t opened stage side batch mapped =>
      completes_of_expected rfl rfl opened stage side (batchDone_of_mapped batch mapped)
  case objectDeleted =>
    exact fun qp f b x y s t opened stage side kind length idle deleted unknown =>
      completes_of_expected rfl rfl opened stage side (objectBegin_of_deleted kind length idle unknown deleted)
  case objectLive =>
    rintro qp f b x y s t _ _ opened stage side kind length idle rfl live unknown rfl
    exact completes_of_expected rfl rfl opened stage side (objectBegin_of_live kind length idle unknown live)
  case diffEnd => exact fun qp f b x y s t opened stage side => completes_of_expected rfl rfl opened stage side rfl
  case diffDone =>
    exact fun qp f b x y s t r opened stage side completed found =>
      completes_of_expected rfl rfl opened stage side (diffDone_of_pair completed found)
  case keepalive => exact fun qp f b x y s t opened => completes_of_opened rfl rfl opened rfl
  case aborted => exact fun qp f b x y s t opened => completes_of_opened rfl rfl opened rfl
  case keepaliveTimer => exact fun qp s x session keyed => completes_of_ordinary rfl (execReplKeepaliveTimer_of_keyed session keyed)
  case idleTimeout => exact fun qp s x session => completes_of_ordinary rfl (congrArg _ (abortQp_of_session session))

end Sys2Proof.Machine
end

section
/-! The Headland and port commands (R329, R330, R365): what the body of each makes of operands that it takes. -/

namespace Sys2Proof.Machine

section Bodies

variable {p : McPacket} {u : State}

/-! ## RETURN_CONTROL (R329) -/

/-- END_HOLD ends the hold-down of a head in FALLOW. -/
theorem returnEndHold_of_fallow (fallow : u.boot.mode = .fallow) :
    returnEndHold u = ok [] (tryReturn (modifyReturn (fun r => { r with holdEnded := true, asked := false }) u)) :=
  if_neg (not_not_intro fallow)

/-- YIELD makes a head in ACTIVE yield with its own cause. -/
theorem returnYield_of_active (active : u.boot.mode = .active) : returnYield u = ok [] (enterYield 8 u) := if_neg (not_not_intro active)

/-! ## PORT_STATUS (R330) -/

/-- A range of logical ports that exist is answered with their records. -/
theorem portStatus_of_range (nonempty : 0 < parm p 1 1) (exist : parm p 0 1 + parm p 1 1 ≤ 32) :
    portStatus p u = answerRecords p ((List.range (parm p 1 1)).map (fun i => lportRecord (parm p 0 1 + i) u)) [] u := by
  have legal : ¬(parm p 1 1 = 0 ∨ 32 < parm p 0 1 + parm p 1 1) := by omega
  exact if_neg legal

/-! ## QP_INFO (R365) -/

/-- A QPN of this generation that is not in TIMEWAIT is answered with the record of its context. -/
theorem qpInfo_of_context {c : QpCtx} (found : qpAt (parm p 0 3 % 2 ^ 20) u = some c) (generation : c.gen = parm p 0 3 / 2 ^ 20)
    (alive : c.state ≠ .timewait) :
    qpInfo p u = answerRecords p [packFields [(1, ctxCode c.state), (1, c.lport), (2, 0), (4, c.remoteQpn)] ++ beBytes 16 c.remoteAddr
      ++ packFields [(8, c.rate), (8, c.srtt), (4, c.npsn), (4, c.epsn)]] [] u := by
  have named : (c.gen == parm p 0 3 / 2 ^ 20 && c.state != .timewait) = true := by
    rw [generation, beq_self_eq_true, Bool.true_and, bne_iff_ne]
    exact alive
  simp only [qpInfo, found, Option.filter_some, if_pos named]

end Bodies

/-- Settles O6: each command by what its body makes of operands that it takes; all of them are ordinary commands. HEADLAND_STATUS, AUTO_ON and
AUTO_OFF take any operands in any mode. -/
theorem headlandAndPortCommandsAnswer : Obligations.HeadlandAndPortCommandsAnswer := by
  refine ⟨fun p s u start => reports_of_answerRecords rfl start rfl rfl, fun p s u start => answers_of_ok rfl start rfl rfl,
    fun p s u start => answers_of_ok rfl start rfl rfl, ?endHold, ?yield, ?ports, ?context⟩
  case endHold => exact fun p s u start fallow => answers_of_ok rfl start rfl (returnEndHold_of_fallow fallow)
  case yield => exact fun p s u start active => answers_of_ok rfl start rfl (returnYield_of_active active)
  case ports =>
    exact fun p s u start nonempty exist => reports_of_answerRecords rfl start rfl (portStatus_of_range nonempty exist)
  case context =>
    exact fun p s u c start found generation alive =>
      reports_of_answerRecords rfl start rfl (qpInfo_of_context found generation alive)

end Sys2Proof.Machine
end

section
/-! The Headland's timers and pins (R43, R312, R313, R316-R325): what each row answers, case by case. -/

namespace Sys2Proof.Machine

/-! ## Heartbeats (R316, R330) -/

/-- The peer's beat since the last one is counted as missed, and the next is awaited. -/
def beatMissed (s : State) : State :=
  modifyHeadland (fun h => { h with peer := { h.peer with beatSeen := false } }) (countHead (fun c => { c with hbMissed := bump c.hbMissed }) s)

/-- A head that runs with its transmitters on sends its heartbeat under the next number, and counts the one that a present peer has not sent. -/
theorem execHeartbeatTimer_of_missed {s u : State} (silent : s.headland.peer.beatSeen = false) (present : s.headland.peerPresent = true)
    (notBoot : s.boot.mode ≠ .boot) (notRecovery : s.boot.mode ≠ .recovery) (transmits : s.headland.txOff = none)
    (numbered : u = modifyHeadland (fun h => { h with hbSeq := h.hbSeq + 1 }) (beatMissed s)) :
    execHeartbeatTimer s = .next (headSendAll 0x0001 (heartbeatBody u) u) := by
  subst numbered
  have sends : ¬(s.boot.mode = .boot ∨ s.boot.mode = .recovery ∨ s.headland.txOff.isSome = true) := by
    simp only [notBoot, notRecovery, transmits, Option.isSome_none, Bool.false_eq_true, or_self, not_false_eq_true]
  simp only [execHeartbeatTimer, if_neg sends, silent, present, Bool.not_false, Bool.and_self, if_true, beatMissed]

/-! ## Mirror messages (R43, R312, R313) -/

section Mirror

variable {n : Nat} {s : State} {m : MirrorMsg}

/-- The state in which a mirror timer has won: Headland is degraded from now on. -/
def mirrorLate (s : State) : State := linkSync (modifyHeadland (fun h => { h with lastWin := some s.time.ticks }) s)

/-- The outstanding message `n`, changed by `f`. -/
def modifyMirror (n : Nat) (f : MirrorMsg → MirrorMsg) (s : State) : State :=
  modifyHeadland (fun h => { h with msgs := mapIf (fun x => x.mseq == n) f h.msgs }) s

section Sent

variable (found : s.headland.msgs.find? (fun m => m.mseq == n) = some m) (roomed : m.noRoom = false) (sent : m.sub < 4)
include found roomed sent

/-- With resends left the message goes again on the next sub-link that is up. -/
theorem execMirrorTimeout_of_resend {q : Nat} (next : nextSub m.sub (mirrorLate s) = some q) (left : m.resends < paramNat 0x0D01 0 s) :
    execMirrorTimeout n s = .next (countHead (fun c => { c with mirrorResends := bump c.mirrorResends }) (headSendOn q 0x0010 m.body
      (modifyMirror n (fun x => { x with sub := q, earlier := x.earlier ++ [m.sub], resends := x.resends + 1 }) (mirrorLate s)))) := by
  unfold mirrorLate at next ⊢
  simp only [execMirrorTimeout, found, roomed, Nat.not_le.mpr sent, next, if_pos left, Bool.false_eq_true, or_self, if_false, modifyMirror]

/-- While no sub-link is up the message is on none. -/
theorem execMirrorTimeout_of_noLink (noLink : nextSub m.sub (mirrorLate s) = none) :
    execMirrorTimeout n s = .next (modifyMirror n (fun x => { x with sub := 4, earlier := x.earlier ++ [m.sub] }) (mirrorLate s)) := by
  unfold mirrorLate at noLink ⊢
  simp only [execMirrorTimeout, found, roomed, Nat.not_le.mpr sent, noLink, Bool.false_eq_true, or_self, if_false, modifyMirror]

end Sent

/-- A message that a present peer has not acknowledged in time turns the transmitters of all sub-links off. -/
theorem execMirrorGiveup_of_outstanding (present : s.headland.peerPresent = true)
    (outstanding : s.headland.msgs.any (fun m => m.mseq == n) = true) (transmits : s.headland.txOff = none) :
    execMirrorGiveup n s = .next (linkSync (modifyHeadland (fun h => { h with txOff := some s.time.ticks, lanes := [0, 0, 0, 0] })
      ((List.range 4).foldl (fun st q => subLink q (fun e => if e.state = .up then (linkRetrain e, []) else (e, [])) st) s))) := by
  simp only [execMirrorGiveup, present, outstanding, transmits, Option.isSome_none, Bool.true_eq_false, Bool.false_eq_true, or_self, if_false]

end Mirror

/-! ## Yield and take-over (R319-R321, Table 13-6) -/

section Yield

variable {s : State}

/-- The peer steps aside as its yield pin falls. -/
theorem execYieldInNAsserted_of_falls (high : s.headland.yieldInLow = false) :
    execYieldInNAsserted true s = .next (peerStepsAside (modifyHeadland (fun h => { h with yieldInLow := true }) s)) :=
  congrArg _ (if_pos ⟨rfl, high⟩)

/-- Its rise is only noted. -/
theorem execYieldInNAsserted_of_high :
    execYieldInNAsserted false s = .next (modifyHeadland (fun h => { h with yieldInLow := false }) s) := by
  simp only [execYieldInNAsserted, Bool.false_eq_true, false_and, if_false]

/-- A yielding head without a lease restarts with its yield pin asserted and its queue pairs closed. -/
theorem execYieldLeasesReleased_of_yield (yields : s.boot.mode = .yield) (released : leasedBridges s = []) :
    execYieldLeasesReleased s =
      .next (selfReset (closeAll (fun _ => true) (modifyHeadland (fun h => { h with yieldOutLow := true }) s))) :=
  congrArg _ (if_pos ⟨yields, List.isEmpty_iff.mpr released⟩)

/-- A lone head that holds every lease it wants adopts the array. -/
theorem execTakeoverAdopt_of_sole {tail : Bytes} {x : Takeover} (begun : s.headland.takeover = some x)
    (held : x.wanted.any (fun b => !leases b s) = false) (sole : baseMode s = .sole) :
    execTakeoverAdopt tail s = .next (withAna (adoptAll tail) s) := by
  simp only [execTakeoverAdopt, begun, held, sole, Bool.false_eq_true, if_false]

end Yield

/-! ## What makes the head yield (Table 13-5) -/

section Causes

variable {near far : Nat} {s : State}

/-- A deadline that is met leaves no misses. -/
theorem execSupervisorDeadline_of_met :
    execSupervisorDeadline false s = .next (cipherYield (parkedYield (modifyHeadland (fun h => { h with supervisorMisses := 0 }) s))) := rfl

/-- A second deadline missed in a row makes the head yield. -/
theorem execSupervisorDeadline_of_missedAgain (before : 1 ≤ s.headland.supervisorMisses) : execSupervisorDeadline true s =
    .next (enterYield 1 (modifyHeadland (fun h => { h with supervisorMisses := s.headland.supervisorMisses + 1 }) s)) :=
  congrArg _ (if_pos (Nat.succ_le_succ before))

/-- A window within the limit in both memories ends the run of bad ones. -/
theorem execEccWindow_of_clean (nearClean : near ≤ 1000) (farClean : far ≤ 1000) :
    execEccWindow near far s = .next (modifyHeadland (fun h => { h with eccWindows := 0 }) s) := by
  simp only [execEccWindow, Nat.not_lt.mpr nearClean, Nat.not_lt.mpr farClean, or_self, Nat.reduceLeDiff, if_false]

/-- The tenth bad window in a row makes the head yield. -/
theorem execEccWindow_of_tenth (bad : 1000 < max near far) (before : 9 ≤ s.headland.eccWindows) : execEccWindow near far s =
    .next (enterYield 2 (modifyHeadland (fun h => { h with eccWindows := s.headland.eccWindows + 1 }) s)) := by
  have either : 1000 < near ∨ 1000 < far := by omega
  simp only [execEccWindow, if_pos either, if_pos (Nat.succ_le_succ before)]

end Causes

/-! ## Waits (R324, Table 13-9) -/

section Waits

variable {s : State}

/-- A head in INVENTORY that has met no peer starts alone. -/
theorem execHeadlandWaitExpiry_of_alone (inventory : s.boot.mode = .inventory) (absent : s.headland.peerPresent = false)
    (agreed : s.headland.conflict = false) (settled : s.headland.newcomer = false) (reached : 0x0B ≤ s.boot.step) :
    execHeadlandWaitExpiry s = .next (loneStart s) :=
  congrArg _ (if_pos ⟨inventory, absent, agreed, settled, reached⟩)

/-- In FALLOW the end of the hold-down lets the head ask for its return. -/
theorem execHoldDownExpiry_of_fallow (fallow : s.boot.mode = .fallow) (holding : s.headland.ret.holdFrom.isSome = true) :
    execHoldDownExpiry s = .next (tryReturn (modifyReturn (fun r => { r with holdEnded := true }) s)) :=
  congrArg _ (if_pos ⟨fallow, holding⟩)

end Waits

/-- Settles O24: each row by its own equation; every timer and pin of the Headland is an ordinary command. The loss of heartbeats, the end of
the transmitters' pause and the end of the degraded state are unconditional. -/
theorem headlandTimerRowsComplete : Obligations.HeadlandTimerRowsComplete := by
  refine ⟨?heartbeat, fun s => completes_of_ordinary rfl rfl, ?resend, ?noLink, ?giveup, fun s => completes_of_ordinary rfl rfl,
    fun s => completes_of_ordinary rfl rfl, ?yieldFalls, fun s => completes_of_ordinary rfl execYieldInNAsserted_of_high, ?leasesReleased,
    ?adopt, fun s => completes_of_ordinary rfl execSupervisorDeadline_of_met, ?missedAgain, ?eccClean, ?eccTenth, ?alone, ?holdDown⟩
  case heartbeat =>
    exact fun s u silent present notBoot notRecovery transmits numbered =>
      completes_of_ordinary rfl (execHeartbeatTimer_of_missed silent present notBoot notRecovery transmits numbered)
  case resend =>
    rintro n s m q _ found roomed sent rfl next left
    exact completes_of_ordinary rfl (execMirrorTimeout_of_resend found roomed sent next left)
  case noLink =>
    rintro n s m _ found roomed sent rfl noLink
    exact completes_of_ordinary rfl (execMirrorTimeout_of_noLink found roomed sent noLink)
  case giveup =>
    exact fun n s present outstanding transmits =>
      completes_of_ordinary rfl (execMirrorGiveup_of_outstanding present outstanding transmits)
  case yieldFalls => exact fun s high => completes_of_ordinary rfl (execYieldInNAsserted_of_falls high)
  case leasesReleased =>
    exact fun s yields released => completes_of_ordinary rfl (execYieldLeasesReleased_of_yield yields released)
  case adopt => exact fun tail s x begun held sole => completes_of_ordinary rfl (execTakeoverAdopt_of_sole begun held sole)
  case missedAgain => exact fun s before => completes_of_ordinary rfl (execSupervisorDeadline_of_missedAgain before)
  case eccClean => exact fun near far s nearClean farClean => completes_of_ordinary rfl (execEccWindow_of_clean nearClean farClean)
  case eccTenth => exact fun near far s bad before => completes_of_ordinary rfl (execEccWindow_of_tenth bad before)
  case alone =>
    exact fun s inventory absent agreed settled reached =>
      completes_of_ordinary rfl (execHeadlandWaitExpiry_of_alone inventory absent agreed settled reached)
  case holdDown => exact fun s fallow holding => completes_of_ordinary rfl (execHoldDownExpiry_of_fallow fallow holding)

end Sys2Proof.Machine
end

section
/-! The front ports (R331-R337, Table 14-10): what each row of their links, address resolution, flow control and windows answers, case by case. -/

namespace Sys2Proof.Machine

/-! ## Links (R331) -/

section Links

variable {l : Nat} {s : State}

/-- The state in which a logical port is up, and the control host has been told. -/
def portRaised (l : Nat) (s : State) : State :=
  raiseEvent 0x0101 l 0 (modifyLport l (fun p => { p with link := 2, downTold := false, conflicts := [] }) s)

/-- A port in use that comes up probes each of its addresses. -/
theorem subPortUp_of_used (used : lportUsed l s = true) : subPortUp l s =
    pumpAll ((ownAddresses l (portRaised l s)).foldl (fun st a => transmit l (paramNat 0x0E0F 0 st) none (.probe a.2.1) st)
      (portRaised l s)) := by
  simp only [subPortUp, used, Bool.true_eq_false, if_false, portRaised]

/-- A port that was up goes down: its pauses end both ways, and the loss is counted. -/
theorem execSubPortDown_of_up (up : (lportAt (l % 32) s).link = 2) : execSubPortDown l s = .next (modifyLport (l % 32) (fun p =>
    { p with link := 0, paused := [], xoff := [], counters := { p.counters with linkDowns := bump p.counters.linkDowns } }) s) :=
  congrArg _ (if_pos up)

/-- The control host is told once that a port in use stays down. -/
theorem execPortLinkDown_of_untold (used : lportUsed (l % 32) s = true) (notUp : (lportAt (l % 32) s).link ≠ 2)
    (untold : (lportAt (l % 32) s).downTold = false) :
    execPortLinkDown l s = .next (raiseEvent 0x0102 (l % 32) 0 (modifyLport (l % 32) (fun p => { p with downTold := true }) s)) :=
  congrArg _ (if_pos ⟨used, notUp, untold⟩)

end Links

/-! ## Frames other than RoCE's (R333, R334) -/

section Frames

variable {h : FrameHead} {groups : List Nat} {l : Nat} {c : Instr} {f : Nat → State → State} {s t : State}

/-- A frame that its port takes has the effect of its kind. -/
theorem frameRow_of_taken (taken : FrameTaken h groups l s) : frameRow h groups f s = f l s := by
  obtain ⟨rfl, up, vlan, dest⟩ := taken
  simp only [frameRow, up, Bool.true_eq_false, if_false, if_pos (And.intro vlan dest)]

/-- The row of a frame that its port takes completes as its kind does. -/
theorem completes_of_frameTaken (plain : ordinary c = true) (meaning : exec c s = .next (frameRow h groups f s))
    (taken : FrameTaken h groups l s) (effect : f l s = t) : Completes c s t :=
  completes_of_ordinary plain (by rw [meaning, frameRow_of_taken taken, effect])

end Frames

section Resolution

variable {l sender target addr mac : Nat} {s : State}

/-- A request for an address of the port is answered to the MAC address it came from. -/
theorem answerResolution_of_own (own : isOwnAddress l target s = true) :
    answerResolution sender target mac l s = transmit l (paramNat 0x0E0F 0 s) none (.resolution true target sender mac) s :=
  if_pos own

/-- An answer for another's address is learned, and what has waited for it goes out. -/
theorem resolutionAnswer_of_other (other : (ownAddresses l s).find? (fun x => x.2.1 == addr) = none) :
    resolutionAnswer addr mac l s = pumpAll (learnNeighbour l addr mac s) := by
  simp only [resolutionAnswer, other]

/-- An answer for an address of the port is a conflict, and the control host is told. -/
theorem resolutionAnswer_of_conflict {x : Nat × Nat × Nat} (own : (ownAddresses l s).find? (fun x => x.2.1 == addr) = some x) :
    resolutionAnswer addr mac l s =
      raiseEvent 0x0106 (detail2 l x.1) 0 (modifyLport l (fun p => { p with conflicts := p.conflicts ++ [x.1] }) s) := by
  simp only [resolutionAnswer, own]

/-- An echo request to an address of the port is answered with its payload, up to 1,500 bytes. -/
theorem answerEcho_of_own {b : Bytes} (own : isOwnAddress l target s = true) (short : b.length ≤ 1500) :
    answerEcho sender target b l s = transmit l (paramNat 0x0E0F 0 s) (some (target, sender)) (.echo sender b) s :=
  if_pos ⟨own, short⟩

end Resolution

/-! ## Flow control (R336, R337) -/

section FlowControl

variable {l prio n : Nat} {s : State}

/-- A PFC frame of a priority, counted on its port. -/
def pfcCounted (l prio : Nat) (s : State) : State := countPort l (fun c => { c with pfcRx := bumpAt c.pfcRx prio }) s

/-- Quanta of 0 end the pause. -/
theorem pfcFrame_of_zero (up : portUp l s = true) : pfcFrame l prio 0 s = pauseOver l prio (pfcCounted l prio s) := by
  simp only [pfcFrame, up, Bool.true_eq_false, if_false, if_true, pfcCounted]

/-- Quanta above 0 pause the priority from now on where nothing is paused yet. -/
theorem pfcFrame_of_unpaused (up : portUp l s = true) (quanta : 0 < n) (unpaused : (lportAt l s).paused = []) :
    pfcFrame l prio n s = modifyLport l (fun p =>
      { p with paused := p.paused.filter (fun x => x.1 != prio) ++ [(prio, s.time.ticks, s.time.ticks + quantaTicks n (portRate l s))] })
      (pfcCounted l prio s) := by
  simp only [pfcFrame, up, if_neg (Nat.ne_of_gt quanta), unpaused, List.find?_nil, Option.map_none, Option.getD_none, Bool.true_eq_false,
    if_false, pfcCounted]

/-- A pause that the port has asked for is renewed while its buffer stands above the mark, and ended below it. -/
theorem execPfcRefresh_of_xoff (asked : (lportAt (l % 32) s).xoff.any (fun x => x.1 == prio) = true) : execPfcRefresh l prio n s =
    .next (if pfcXon (l % 32) prio s ≤ n then sendPfc (l % 32) prio 0xFFFF s else noteOccupancy (l % 32) prio n s) := by
  simp only [execPfcRefresh, if_pos asked]

/-- Of a pause that the port has asked for too long the control host is told (PORT_XOFF_LONG). -/
theorem execPfcStormTimer_of_sent (asked : (lportAt (l % 32) s).xoff.any (fun x => x.1 == prio) = true) :
    execPfcStormTimer l prio true s = .next (raiseEvent 0x0105 (detail2 (l % 32) prio) 0 s) :=
  congrArg _ (if_pos ⟨rfl, asked⟩)

/-- Of one that it has obeyed too long it is told too (PORT_PFC_STORM). -/
theorem execPfcStormTimer_of_received (paused : (lportAt (l % 32) s).paused.any (fun x => x.1 == prio) = true) :
    execPfcStormTimer l prio false s = .next (raiseEvent 0x0104 (detail2 (l % 32) prio) 0 s) :=
  congrArg _ ((if_neg (fun sent => Bool.false_ne_true sent.1)).trans (if_pos ⟨rfl, paused⟩))

end FlowControl

/-! ## Windows (Table 14-10) -/

section Windows

variable {l corrected uncorrected q : Nat} {s : State}

/-- The corrected and uncorrected codewords of a window, counted on their port. -/
def fecCounted (l corrected uncorrected : Nat) (s : State) : State :=
  countPort l (fun k => { k with fecCorrected := bump k.fecCorrected corrected, fecUncorrected := bump k.fecUncorrected uncorrected }) s

/-- A window within the threshold is counted alone. -/
theorem execFecWindow_of_le (few : uncorrected ≤ paramNat 0x0E13 0 s) :
    execFecWindow l corrected uncorrected s = .next (fecCounted (l % 32) corrected uncorrected s) :=
  congrArg _ (if_neg (Nat.not_lt.mpr few))

/-- Beyond the threshold the control host is told. -/
theorem execFecWindow_of_lt (many : paramNat 0x0E13 0 s < uncorrected) : execFecWindow l corrected uncorrected s =
    .next (raiseEvent 0x0103 (detail2 (l % 32) uncorrected) 0 (fecCounted (l % 32) corrected uncorrected s)) :=
  congrArg _ (if_pos many)

/-- A quadrant's window of MHB_FULL begins anew. -/
def ctxWindowEnded (q : Nat) (s : State) : State :=
  modifyPorts (fun p => { p with counters := modifyNth (fun k => { k with window := 0 }) q p.counters }) s

/-- The control host is told of more than 10,000 of them as the window begins anew. -/
theorem execCtxPressureWindow_of_quadrant {k : CtxCounters} (quadrant : s.ports.counters[q]? = some k) : execCtxPressureWindow q s =
    .next (if 10000 < k.window then raiseEvent 0x0107 (detail2 q k.window) 0 (ctxWindowEnded q s) else ctxWindowEnded q s) := by
  simp only [execCtxPressureWindow, quadrant, Option.map_some, Option.getD_some, ctxWindowEnded]

end Windows

/-- Settles O25: each row by its own equation; every row of a port is an ordinary command, and a frame's row is that of its kind where the port
takes it. The end of a pause is unconditional. -/
theorem portRowsComplete : Obligations.PortRowsComplete := by
  refine ⟨?up, ?down, ?linkDown, ?arpRequest, ?solicitation, ?arpLearned, ?arpConflict, ?advertised, ?echo, ?pauseEnds, ?pauses,
    fun l prio s => completes_of_ordinary rfl rfl, ?refresh, ?stormSent, ?stormReceived, ?fecFew, ?fecMany, ?ctxFew, ?ctxMany⟩
  case up => exact fun l s used => completes_of_ordinary rfl (congrArg _ (subPortUp_of_used used))
  case down => exact fun l s up => completes_of_ordinary rfl (execSubPortDown_of_up up)
  case linkDown => exact fun l s used notUp untold => completes_of_ordinary rfl (execPortLinkDown_of_untold used notUp untold)
  case arpRequest =>
    exact fun h l sender target s taken own => completes_of_frameTaken rfl rfl taken (answerResolution_of_own own)
  case solicitation =>
    exact fun h l sender target s taken own => completes_of_frameTaken rfl rfl taken (answerResolution_of_own own)
  case arpLearned => exact fun h l a mac s taken other => completes_of_frameTaken rfl rfl taken (resolutionAnswer_of_other other)
  case arpConflict => exact fun h l a mac s x taken own => completes_of_frameTaken rfl rfl taken (resolutionAnswer_of_conflict own)
  case advertised => exact fun h l a mac s taken other => completes_of_frameTaken rfl rfl taken (resolutionAnswer_of_other other)
  case echo =>
    exact fun h l sender target b s taken own short => completes_of_frameTaken rfl rfl taken (answerEcho_of_own own short)
  case pauseEnds => exact fun l prio s up => completes_of_ordinary rfl (congrArg _ (pfcFrame_of_zero up))
  case pauses =>
    rintro l prio n s _ up quanta rfl unpaused
    exact completes_of_ordinary rfl (congrArg _ (pfcFrame_of_unpaused up quanta unpaused))
  case refresh => exact fun l prio n s asked => completes_of_ordinary rfl (execPfcRefresh_of_xoff asked)
  case stormSent => exact fun l prio s asked => completes_of_ordinary rfl (execPfcStormTimer_of_sent asked)
  case stormReceived => exact fun l prio s paused => completes_of_ordinary rfl (execPfcStormTimer_of_received paused)
  case fecFew => exact fun l c u s few => completes_of_ordinary rfl (execFecWindow_of_le few)
  case fecMany => exact fun l c u s many => completes_of_ordinary rfl (execFecWindow_of_lt many)
  case ctxFew =>
    exact fun q s k quadrant few =>
      completes_of_ordinary rfl ((execCtxPressureWindow_of_quadrant quadrant).trans (congrArg _ (if_neg (Nat.not_lt.mpr few))))
  case ctxMany =>
    exact fun q s k quadrant many =>
      completes_of_ordinary rfl ((execCtxPressureWindow_of_quadrant quadrant).trans (congrArg _ (if_pos many)))

end Sys2Proof.Machine
end

section
/-! How the queue runs: no command stops, and a step takes the front command alone (DESIGN CHOICE 34, DESIGN CHOICE 35). -/

namespace Sys2Proof.Machine

/-! ## Commands and steps leave the rest of the queue alone -/

/-- No command touches the queue. -/
theorem SteadyStep.pending_kept {s : State} {c : Instr} {e : Steady} (h : SteadyStep s c e) : e.pending = s.pending := by
  cases h with
  | _ => rfl

/-- Settles O37: every command answers a next state, and `SteadyStep` lists none that changes the queue. -/
theorem everyCommandCompletes : Obligations.EveryCommandCompletes := by
  intro c s
  obtain ⟨t, run, kept⟩ := exec_steadyStep c s
  exact ⟨t, run, kept.pending_kept⟩

/-- With a command waiting, a step is that command on the state with the rest of the queue. -/
theorem step_of_pending_cons {c : Instr} {rest : List Instr} {s : State} (front : s.pending = c :: rest) :
    step s = exec c { s with pending := rest } := by
  unfold step
  rw [front]

/-- Settles O35: `step` looks at the front of the queue alone. -/
theorem frontCommandRuns : Obligations.FrontCommandRuns := fun _ _ _ front => step_of_pending_cons front

/-- A step from a state with a command waiting answers a state that waits for the rest. -/
theorem exists_step_of_pending_cons {c : Instr} {rest : List Instr} {s : State} (front : s.pending = c :: rest) :
    ∃ t, step s = .next t ∧ t.pending = rest := by
  rw [step_of_pending_cons front]
  exact everyCommandCompletes c { s with pending := rest }

/-- Settles O38, by induction on the number of steps. -/
theorem queueRunsInOrder : Obligations.QueueRunsInOrder := by
  intro n
  induction n with
  | zero => exact fun s _ => ⟨s, rfl, rfl⟩
  | succ n ih =>
    intro s enough
    cases front : s.pending with
    | nil => simp [front] at enough
    | cons c rest =>
      obtain ⟨t, run, waiting⟩ := exists_step_of_pending_cons front
      have left : n ≤ t.pending.length := by
        rw [front, List.length_cons] at enough
        rw [waiting]
        exact Nat.le_of_succ_le_succ enough
      obtain ⟨u, runs, gone⟩ := ih t left
      refine ⟨u, ?_, by rw [gone, waiting, List.drop_succ_cons]⟩
      rw [stepsFrom, run]
      exact runs

end Sys2Proof.Machine
end

section
/-! The TAP, the SMBus target, the THERMTRIP latch and LIFE_USED (R564-R570): what each row makes of them, and that no other command does. -/

namespace Sys2Proof.Machine

/-! ## The TAP is safe (R566) -/

/-- Outside reset the TAP holds an instruction that drives and isolates no pin. -/
def tapSafeFields (resetLow : Bool) (j : JtagInstr) : Prop := resetLow = true ∨ tapReleased j = j

/-- `TapSafe` is that of the state's own fields: the instructions that RESET_N's rise leaves are the safe ones. -/
theorem tapSafe_iff (s : State) : TapSafe s ↔ tapSafeFields s.boot.resetLow s.jtag := by
  unfold TapSafe tapSafeFields tapReleased
  cases s.jtag <;> simp

/-- What RESET_N's rise leaves stands from then on. -/
theorem tapReleased_idem (j : JtagInstr) : tapReleased (tapReleased j) = tapReleased j := by
  cases j <;> rfl

/-- Every command keeps the TAP safe: a row of the TAP selects BYPASS where its own instruction is not safe, and a reset that ends releases it. -/
theorem SteadyStep.tapSafe_kept {s : State} {c : Instr} {e : Steady} (h : SteadyStep s c e) (safe : tapSafeFields s.boot.resetLow s.jtag) :
    tapSafeFields e.resetLow e.jtag := by
  cases h with
  | @tap _ i row =>
    by_cases free : s.boot.resetLow = true ∨ tapReleased i = i
    · rw [if_pos free]; exact free
    · rw [if_neg free]; exact .inr rfl
  | powerOnHeld | pinHeld => exact .inl rfl
  | powerOnReleased | pinReleased => exact .inr (tapReleased_idem _)
  | _ => exact safe

/-- Settles O40: a step is an idle tick, which leaves the TAP and RESET_N, or a command. -/
theorem tapSafeKept : Obligations.TapSafeKept := by
  intro s t safe run
  rw [tapSafe_iff] at safe ⊢
  cases front : s.pending with
  | nil =>
    rw [step_of_pending_nil front] at run
    cases run
    exact safe
  | cons c rest =>
    rw [step_of_pending_cons front] at run
    exact (steadyStep_of_exec run).tapSafe_kept safe

/-- Settles O39: the TAP is on BYPASS and both stores are empty. -/
theorem invariantsAtReset : Obligations.InvariantsAtReset := ⟨.inr (.inl rfl), reset_mem_wf⟩

/-! ## Each TAP instruction (R565, R566) -/

theorem resetOnly_of_low {s : State} (i : JtagInstr) (low : s.boot.resetLow = true) : resetOnly i s = { s with jtag := i } := if_pos low

theorem resetOnly_of_high {s : State} (i : JtagInstr) (high : s.boot.resetLow = false) : resetOnly i s = selectJtag .bypass 0 s :=
  if_neg (by rw [high]; exact Bool.false_ne_true)

/-- The instructions that drive pins are those that take effect only while RESET_N is low. -/
theorem exec_of_drivesPins {c : Instr} {i : JtagInstr} (s : State) (row : (c, i) ∈ [(Instr.extest, JtagInstr.extest),
    (.extestPulse, .extestPulse), (.extestTrain, .extestTrain), (.clamp, .clamp), (.highz, .highz)]) :
    exec c s = .next (resetOnly i s) := by
  simp only [List.mem_cons, Prod.mk.injEq, List.not_mem_nil, or_false] at row
  obtain ⟨rfl, rfl⟩ | ⟨rfl, rfl⟩ | ⟨rfl, rfl⟩ | ⟨rfl, rfl⟩ | ⟨rfl, rfl⟩ := row
  all_goals rfl

/-- A reset that ends leaves RESET_N high and the TAP released. -/
theorem exec_of_resetEnds {c : Instr} {strap : Bool} (s : State) (row : c = .powerOnReset false strap ∨ c = .pinReset false strap) :
    ∃ t, exec c s = .next t ∧ t.boot.resetLow = false ∧ t.jtag = tapReleased s.jtag := by
  obtain rfl | rfl := row
  · obtain ⟨t, run, kept⟩ := powerOnReset_released strap s
    exact ⟨t, run, congrArg Steady.resetLow kept, congrArg Steady.jtag kept⟩
  · obtain ⟨t, run, kept⟩ := pinReset_released strap s
    exact ⟨t, run, congrArg Steady.resetLow kept, congrArg Steady.jtag kept⟩

theorem tapReleased_eq_ite (j : JtagInstr) : tapReleased j = if j = .idcode ∨ j = .samplePreload then j else .bypass := by
  cases j <;> rfl

/-- The vault, the working slots and near store of one state are those of another. -/
def KeysKept (s t : State) : Prop := t.vault = s.vault ∧ t.cipher.slots = s.cipher.slots ∧ t.mem.near = s.mem.near

theorem resetOnly_keysKept (i : JtagInstr) (s : State) : KeysKept s (resetOnly i s) := by
  cases low : s.boot.resetLow with
  | true => rw [resetOnly_of_low i low]; exact ⟨rfl, rfl, rfl⟩
  | false => rw [resetOnly_of_high i low]; exact ⟨rfl, rfl, rfl⟩

/-- Settles O41: each instruction by its own row, and the ends of both resets by what they release. -/
theorem tapInstructionsAreBounded : Obligations.TapInstructionsAreBounded := by
  refine ⟨?drive, ?safe, ?released, ?reach⟩
  case drive =>
    intro c i s row
    refine ⟨_, exec_of_drivesPins s row, fun low => ?low, fun high => ?high⟩
    case low => rw [resetOnly_of_low i low]
    case high => rw [resetOnly_of_high i high]; rfl
  case safe =>
    intro c i s row
    simp only [List.mem_cons, Prod.mk.injEq, List.not_mem_nil, or_false] at row
    obtain ⟨rfl, rfl⟩ | ⟨rfl, rfl⟩ | ⟨rfl, rfl⟩ := row
    all_goals exact ⟨_, rfl, rfl⟩
  case released =>
    intro c strap s row
    rw [← tapReleased_eq_ite]
    exact exec_of_resetEnds s row
  case reach =>
    intro c s row
    simp only [List.mem_cons, List.not_mem_nil, or_false] at row
    obtain rfl | rfl | rfl | rfl | rfl | rfl | rfl | rfl := row
    · exact ⟨_, rfl, rfl, rfl, rfl⟩
    · exact ⟨_, rfl, rfl, rfl, rfl⟩
    · exact ⟨_, rfl, rfl, rfl, rfl⟩
    all_goals exact ⟨_, rfl, resetOnly_keysKept _ s⟩

/-! ## The SMBus target (R564, Table 25-7) -/

section Smbus

variable {c : BitVec 8} {w : BitVec 16} {s : State}

theorem execReadWord_of_latched (pec : Bool) (latched : s.smbus.latched = some w) : execReadWord pec s =
    .next (emit (.smbus (some w) (if pec then some (readPec (smbusAddress s) s.smbus.code w) else none)) s) := by
  simp only [execReadWord, latched]

/-- A command code of Table 25-7 is accepted, and its word latched. -/
theorem execSmbusSelect_of_listed (listed : smbusWord c.toNat s = some w) :
    execSmbusSelect c s = .next (modifySmbus (fun b => { b with code := c.toNat, latched := some w }) s) := by
  simp only [execSmbusSelect, listed]

/-- Any other is NACKed. -/
theorem execSmbusSelect_of_unlisted (unlisted : smbusWord c.toNat s = none) : execSmbusSelect c s = .next (emit (.smbus none none) s) := by
  simp only [execSmbusSelect, unlisted]

end Smbus

/-- Settles O34: each row by its own equation. The answers to the host are an ordinary command's; the rest change the SMBus target or the TAP. -/
theorem pinRowsComplete : Obligations.PinRowsComplete := by
  refine ⟨fun s w latched => execReadWord_of_latched false latched, fun s w latched => execReadWord_of_latched true latched,
    fun c s w listed => execSmbusSelect_of_listed listed, fun c s unlisted => execSmbusSelect_of_unlisted unlisted,
    fun c b s => completes_of_ordinary rfl rfl, ?alert, ?noAlert, ?refresh, fun s => rfl, fun s => rfl, fun s => ⟨_, _, rfl⟩, ?drive⟩
  case alert => exact fun s low => completes_of_ordinary rfl (congrArg _ (if_pos low))
  case noAlert => exact fun s high => completes_of_ordinary rfl (congrArg _ (if_neg (Bool.eq_false_iff.mp high)))
  case refresh => rintro r s u rfl; rfl
  case drive =>
    intro s c i row
    exact exec_of_drivesPins s (by simpa only [List.mem_cons, List.not_mem_nil, or_false] using row)

/-! ## The THERMTRIP latch (R564, R567) -/

/-- SMB_ALERT_N is low while the latch stands. -/
theorem alertLow_of_tripLatched {s : State} (latched : s.thermal.tripLatched = true) : alertLow s = true := by
  rw [alertLow, latched, Bool.true_or]

/-- Every command but a power-on reset leaves a latch that stands. -/
theorem SteadyStep.tripLatched_kept {s : State} {c : Instr} {e : Steady} (h : SteadyStep s c e)
    (other : ∀ held strap, c ≠ .powerOnReset held strap) (latched : s.thermal.tripLatched = true) : e.tripLatched = true := by
  cases h with
  | thermtrip => rfl
  | powerOnHeld strap => exact absurd rfl (other true strap)
  | powerOnReleased strap => exact absurd rfl (other false strap)
  | _ => exact latched

/-- Settles O47: THERMTRIP sets the latch, a power-on reset clears it, and no other command does. -/
theorem thermtripLatchStands : Obligations.ThermtripLatchStands := by
  refine ⟨?sets, ?stands, ?clears⟩
  case sets =>
    intro s
    obtain ⟨t, run, kept⟩ := thermtrip_row s
    have latched : t.thermal.tripLatched = true := congrArg Steady.tripLatched kept
    exact ⟨t, run, latched, alertLow_of_tripLatched latched⟩
  case stands =>
    intro c s t before run other
    have latched := (steadyStep_of_exec run).tripLatched_kept other before
    exact ⟨latched, alertLow_of_tripLatched latched⟩
  case clears =>
    intro strap s t run
    obtain ⟨u, run', kept⟩ := powerOnReset_released strap s
    rw [run] at run'
    cases run'
    exact congrArg Steady.tripLatched kept

/-! ## LIFE_USED (R570) -/

/-- Every command but the hourly row leaves LIFE_USED, resets too. -/
theorem SteadyStep.lifeUsed_kept {s : State} {c : Instr} {e : Steady} (h : SteadyStep s c e) (other : ∀ mean, c ≠ .lifeUsedHour mean) :
    e.lifeUsed = s.thermal.lifeUsed := by
  cases h with
  | lifeUsedHour mean => exact absurd rfl (other mean)
  | _ => rfl

/-- A saturating sum of a value in the counter's range is no less than it, and in the range. -/
theorem le_satAdd {w x : Nat} (n : Nat) (fits : x < 2 ^ w) : x ≤ satAdd w x n ∧ satAdd w x n < 2 ^ w := by
  unfold satAdd
  omega

/-- Settles O48: the hourly row adds to LIFE_USED, saturating, and every other command leaves it. -/
theorem lifeUsedNeverFalls : Obligations.LifeUsedNeverFalls := by
  intro c s t fits run
  by_cases hour : ∃ mean, c = .lifeUsedHour mean
  · obtain ⟨mean, rfl⟩ := hour
    cases run
    obtain ⟨grows, bounded⟩ := le_satAdd (lifeShare Config.gradeL mean) fits
    exact ⟨grows, bounded, fun _ => ⟨mean, rfl⟩⟩
  · have kept : t.thermal.lifeUsed = s.thermal.lifeUsed :=
      (steadyStep_of_exec run).lifeUsed_kept (fun mean row => hour ⟨mean, row⟩)
    exact ⟨Nat.le_of_eq kept.symm, kept ▸ fits, fun changed => absurd kept changed⟩

end Sys2Proof.Machine
end

section
/-! The stores as lists of bytes (chapter 17): what an address reads after a write, after a range is forgotten, and after a line is put back. -/

namespace Sys2Proof.Machine

section Stores

variable {m : Memory}

/-- A written byte reads back, and every other address reads as before. -/
theorem memRead_memWrite (x a : Nat) (b : Byte) (m : Memory) : memRead x (memWrite a b m) = if x = a then some b else memRead x m := by
  induction m with
  | nil => grind [memWrite, memRead]
  | cons c rest ih =>
    obtain ⟨k, v⟩ := c
    rcases Nat.lt_trichotomy a k with before | rfl | behind
    · rw [memWrite, if_pos before]
      grind [memRead]
    · rw [memWrite, if_neg (Nat.lt_irrefl a), if_pos rfl]
      grind [memRead]
    · rw [memWrite, if_neg (Nat.not_lt_of_lt behind), if_neg (Nat.ne_of_gt behind)]
      grind [memRead]

/-- Below every listed address nothing is written. -/
theorem memRead_eq_none_of_below {x : Nat} (below : ∀ c ∈ m, x < c.1) : memRead x m = none := by
  cases m with
  | nil => rfl
  | cons c rest =>
    have first := below c (List.mem_cons_self ..)
    rw [memRead, if_neg (Nat.ne_of_gt first), if_pos first]

/-- A forgotten range reads as never written, and every other address reads as before. -/
theorem memRead_memErase (x a n : Nat) (canonical : Memory.wf m = true) :
    memRead x (memErase a n m) = if a ≤ x ∧ x < a + n then none else memRead x m := by
  rw [wf_iff_pairwise] at canonical
  unfold memErase
  induction m with
  | nil => simp [memRead]
  | cons c rest ih =>
    obtain ⟨k, v⟩ := c
    obtain ⟨rises, canonical⟩ := List.pairwise_cons.mp canonical
    specialize ih canonical
    by_cases kept : k < a ∨ a + n ≤ k
    · rw [List.filter_cons_of_pos (by simpa using kept), memRead, memRead, ih]
      grind
    · rw [List.filter_cons_of_neg (by simpa using kept), ih, memRead]
      have none_below : x < k → memRead x rest = none := fun below =>
        memRead_eq_none_of_below (fun c hc => Nat.lt_trans below (rises c hc))
      grind

/-- So do the bytes written at consecutive addresses. -/
theorem memRead_memWriteBytes (x a : Nat) (bs : Bytes) :
    memRead x (memWriteBytes a bs m) = if a ≤ x ∧ x < a + bs.length then bs[x - a]? else memRead x m := by
  induction bs generalizing a m with
  | nil => exact (if_neg fun inside => Nat.not_lt_of_le inside.1 inside.2).symm
  | cons b bs ih =>
    rw [memWriteBytes, ih, memRead_memWrite]
    grind

/-- A line that is put back reads as its bytes, an undefined one as never written. -/
theorem memRead_putLineBytes (x a : Nat) (bs : List (Option Byte)) (canonical : Memory.wf m = true) :
    memRead x (putLineBytes a bs m) = if a ≤ x ∧ x < a + bs.length then bs.getD (x - a) none else memRead x m := by
  induction bs generalizing a m with
  | nil => exact (if_neg fun inside => Nat.not_lt_of_le inside.1 inside.2).symm
  | cons b bs ih =>
    cases b with
    | none =>
      rw [putLineBytes, ih _ (memErase_wf _ _ _ canonical), memRead_memErase _ _ _ canonical]
      grind
    | some b =>
      rw [putLineBytes, ih _ (memWrite_wf _ _ _ canonical), memRead_memWrite]
      grind

end Stores

/-- Settles O54: a canonical list reads an address at its only entry, so each operation changes what it names alone. -/
theorem storedBytesReadBack : Obligations.StoredBytesReadBack := fun _ a canonical =>
  ⟨fun bs x => memRead_memWriteBytes x a bs, fun n x => memRead_memErase x a n canonical,
    fun bs x => memRead_putLineBytes x a bs canonical⟩

end Sys2Proof.Machine
end

section
/-! RELEASE and what else the Granary and the DMA answer (chapters 18 and 19): the checks of Table 18-5 in their order, and the commands and
rows of buffers, lists and channels. -/

namespace Sys2Proof.Machine

/-! ## RELEASE (R447, R448, Table 18-5) -/

section Release

variable {unit h : Nat} {e : Option EpochRef} {s : State}

/-- The header that a handle names. -/
def headerOf (h : Nat) (s : State) : GHeader := gHeader (hPool h) (hIndex h) s

/-- Counts a release on the list of its handle. -/
def countRelease (h : Nat) (f : GList → GList) (s : State) : State := modifyList (counterList h s) (hPool h) f s

theorem gRelease_of_stale (stale : isStale h s = true) : gRelease unit h e s =
    (1, granaryRecord 1 h unit (headerOf h s) (countRelease h (fun l => { l with staleReleases := bump l.staleReleases }) s)) := by
  have outcome : releaseOutcome unit h e s = 1 := if_pos stale
  simp only [gRelease, outcome]
  rfl

section NotStale

variable (fresh : isStale h s = false)
include fresh

theorem gRelease_of_foreign (foreign : isForeign unit h s = true) : gRelease unit h e s =
    (2, granaryRecord 2 h unit (headerOf h s) (countRelease h (fun l => { l with foreignReleases := bump l.foreignReleases }) s)) := by
  have outcome : releaseOutcome unit h e s = 2 := by
    simp only [releaseOutcome, fresh, foreign, Bool.false_eq_true, if_false, if_true]
  simp only [gRelease, outcome]
  rfl

section Own

variable (own : isForeign unit h s = false)
include own

theorem gRelease_of_squashed (free : (headerOf h s).refcount = 0) (squashed : namesEpoch (headerOf h s) e s = true) :
    gRelease unit h e s = (3, countRelease h (fun l => { l with squashLate := bump l.squashLate }) s) := by
  have outcome : releaseOutcome unit h e s = 3 := by
    unfold headerOf at free squashed
    simp only [releaseOutcome, fresh, own, free, squashed, Bool.false_eq_true, and_self, if_false, if_true]
  simp only [gRelease, outcome]
  rfl

theorem gRelease_of_double (free : (headerOf h s).refcount = 0) (other : namesEpoch (headerOf h s) e s = false) :
    gRelease unit h e s =
      (4, granaryRecord 4 h unit (headerOf h s) (countRelease h (fun l => { l with doubleReleases := bump l.doubleReleases }) s)) := by
  have outcome : releaseOutcome unit h e s = 4 := by
    unfold headerOf at free other
    simp only [releaseOutcome, fresh, own, free, other, Bool.false_eq_true, and_false, if_false, if_true]
  simp only [gRelease, outcome]
  rfl

theorem releaseOutcome_of_held (held : (headerOf h s).refcount ≠ 0) : releaseOutcome unit h e s = 5 := by
  unfold headerOf at held
  simp only [releaseOutcome, fresh, own, held, Bool.false_eq_true, false_and, if_false]

/-- The last reference frees the buffer. -/
theorem gRelease_of_last (last : (headerOf h s).refcount = 1) :
    gRelease unit h e s = (5, freeBuffer (hPool h) (hIndex h) (modifyList (counterList h s) (hPool h) (fun l => { l with frees := bump l.frees })
      (setGHeader (hPool h) (hIndex h) { headerOf h s with refcount := 0 } s))) := by
  have outcome := releaseOutcome_of_held (e := e) fresh own (by rw [last]; exact Nat.one_ne_zero)
  unfold headerOf at last ⊢
  simp only [gRelease, outcome, last, if_true, Nat.sub_self]

/-- An earlier one is only taken back. -/
theorem gRelease_of_shared (shared : 1 < (headerOf h s).refcount) :
    gRelease unit h e s = (5, setGHeader (hPool h) (hIndex h) { headerOf h s with refcount := (headerOf h s).refcount - 1 } s) := by
  have outcome := releaseOutcome_of_held (e := e) fresh own (Nat.ne_of_gt (Nat.lt_trans Nat.zero_lt_one shared))
  unfold headerOf at shared ⊢
  simp only [gRelease, outcome, if_neg (Nat.ne_of_gt shared)]

end Own

end NotStale

/-! ### A failed one leaves header and buffer -/

/-- The headers and the memories of one state are those of another. -/
def BuffersKept (s t : State) : Prop := t.granary.headers = s.granary.headers ∧ t.mem = s.mem

theorem almEarlyAdd_buffersKept (type : Nat) (payload : Bytes) (s : State) : BuffersKept s (almEarlyAdd type payload s) := by
  unfold almEarlyAdd
  dsimp only
  split
  · exact ⟨rfl, rfl⟩
  · exact ⟨rfl, rfl⟩

theorem almStage_buffersKept (type : Nat) (payload : Bytes) (s : State) : BuffersKept s (almStage type payload s) := by
  unfold almStage
  dsimp only
  split
  · exact ⟨rfl, rfl⟩
  · exact ⟨rfl, rfl⟩

/-- An Almanac record touches neither, early or staged. -/
theorem almanac_buffersKept (type : Nat) (payload : Bytes) (s : State) : BuffersKept s (almanac type payload s) := by
  unfold almanac
  split
  · split
    · exact ⟨rfl, rfl⟩
    · exact almEarlyAdd_buffersKept type payload s
  · exact almStage_buffersKept type payload s

/-- Nor does the record of a release that its list has counted. -/
theorem granaryRecord_buffersKept (outcome : Nat) (hd : GHeader) (f : GList → GList) :
    BuffersKept s (granaryRecord outcome h unit hd (countRelease h f s)) :=
  almanac_buffersKept _ _ (countRelease h f s)

theorem gRelease_buffersKept (failed : isStale h s = true ∨ isForeign unit h s = true ∨ (headerOf h s).refcount = 0) :
    BuffersKept s (gRelease unit h e s).2 := by
  cases stale : isStale h s with
  | true =>
    rw [gRelease_of_stale stale]
    exact granaryRecord_buffersKept ..
  | false =>
    cases foreign : isForeign unit h s with
    | true =>
      rw [gRelease_of_foreign stale foreign]
      exact granaryRecord_buffersKept ..
    | false =>
      have free : (headerOf h s).refcount = 0 := by simpa [stale, foreign] using failed
      cases squashed : namesEpoch (headerOf h s) e s with
      | true =>
        rw [gRelease_of_squashed stale foreign free squashed]
        exact ⟨rfl, rfl⟩
      | false =>
        rw [gRelease_of_double stale foreign free squashed]
        exact granaryRecord_buffersKept ..

/-- RELEASE tells its unit the outcome. -/
theorem execGranaryRelease_of_gRelease {n : Nat} {t : State} (released : gRelease unit h e s = (n, t)) :
    execGranaryRelease unit h e s = .next (emit (.granaryOutcome unit n) t) := by
  rw [execGranaryRelease, released]

end Release

/-- Settles O50: the outcome of each check in the order of Table 18-5; a failed one is counted and recorded alone. -/
theorem releaseEndsAtItsFirstFailure : Obligations.ReleaseEndsAtItsFirstFailure := by
  rintro unit h e s _ _ _ rfl rfl rfl
  refine ⟨?stale, ?foreign, ?squashed, ?double, ?last, ?shared, ?untouched⟩
  case stale => exact fun stale => completes_of_ordinary rfl (execGranaryRelease_of_gRelease (gRelease_of_stale stale))
  case foreign =>
    exact fun fresh foreign => completes_of_ordinary rfl (execGranaryRelease_of_gRelease (gRelease_of_foreign fresh foreign))
  case squashed =>
    exact fun fresh own free squashed =>
      completes_of_ordinary rfl (execGranaryRelease_of_gRelease (gRelease_of_squashed fresh own free squashed))
  case double =>
    exact fun fresh own free other =>
      completes_of_ordinary rfl (execGranaryRelease_of_gRelease (gRelease_of_double fresh own free other))
  case last =>
    exact fun fresh own last => completes_of_ordinary rfl (execGranaryRelease_of_gRelease (gRelease_of_last fresh own last))
  case shared =>
    exact fun fresh own shared => completes_of_ordinary rfl (execGranaryRelease_of_gRelease (gRelease_of_shared fresh own shared))
  case untouched =>
    intro t failed run
    cases run
    exact gRelease_buffersKept failed

/-! ## The host's commands (R458, R474, Table 19-10) -/

section Bodies

variable {p : McPacket} {u t : State}

theorem granaryHeaderRead_of_valid (valid : (arenaOf (hPool (parm p 0 4)) (hIndex (parm p 0 4)) u).isSome = true) :
    granaryHeaderRead p u = ok (leBytes 8 (headerWord (headerOf (parm p 0 4) u))) u := by
  simp only [granaryHeaderRead, Option.isNone_eq_false_iff.mpr valid, Bool.false_eq_true, if_false, headerOf]

theorem dmaStatusCmd_of_range (nonempty : 0 < parm p 1 1) (exist : parm p 0 1 + parm p 1 1 ≤ 256) : dmaStatusCmd p u =
    answerRecords p ((List.range (parm p 1 1)).map (fun i => dmaRecord (parm p 0 1 + i) (dmaAt (parm p 0 1 + i) u))) [] u := by
  have legal : ¬(parm p 1 1 = 0 ∨ 256 < parm p 0 1 + parm p 1 1) := by omega
  exact if_neg legal

/-- A list in service with buffers to give, under the host's limit, gives one to the host. -/
theorem dmaBufferAlloc_of_taken {pool h : Nat} (fits : poolFor (parm p 0 4) = some pool)
    (high : listLow (granaryReserve u) (gList 2 pool u) = false) (whole : (gList 2 pool u).cut = false)
    (free : 0 < freeNow (gList 2 pool u)) (idle : (gList 2 pool u).waiters = []) (below : hostBuffers u < paramNat 0x1301 0 u)
    (taken : takeBuffer 2 pool 0x2D none u = (some h, t)) : dmaBufferAlloc p u = ok (leBytes 4 h) t := by
  simp only [dmaBufferAlloc, fits, high, whole, Nat.ne_of_gt free, idle, Nat.not_le.mpr below, taken, ne_eq, not_true_eq_false,
    Bool.false_eq_true, or_self, if_false]

theorem dmaBufferFree_of_released (released : gRelease 0x2D (parm p 0 4) none u = (5, t)) :
    dmaBufferFree p u = ok (leBytes 1 5) t := by
  simp only [dmaBufferFree, released, if_true]

end Bodies

/-- Settles O8: each command by what its body makes of operands that it takes; all of them are ordinary commands. GRANARY_STATUS takes any. -/
theorem bufferCommandsAnswer : Obligations.BufferCommandsAnswer := by
  refine ⟨fun p s u start => reports_of_answerRecords rfl start rfl rfl, ?header, ?status, ?alloc, ?free⟩
  case header => exact fun p s u start valid => answers_of_ok rfl start rfl (granaryHeaderRead_of_valid valid)
  case status =>
    exact fun p s u start nonempty exist => reports_of_answerRecords rfl start rfl (dmaStatusCmd_of_range nonempty exist)
  case alloc =>
    exact fun p s u pool h s1 start fits high whole free idle below taken =>
      answers_of_ok rfl start rfl (dmaBufferAlloc_of_taken fits high whole free idle below taken)
  case free => exact fun p s u t start released => answers_of_ok rfl start rfl (dmaBufferFree_of_released released)

/-! ## The metadata cache (R425-R435) -/

section Cache

variable {a e w : Nat} {b : Bytes} {s : State}

/-- A hit without an error that loses the line is counted and served. -/
theorem mcAccess_of_hit {l : McLine} (hit : cacheHit (lineOf a) s = some l) (sound : e < 2) : mcAccess a b e s =
    hitLine l (a % 128) (b.take (128 - a % 128)) (countSlice l.slice (fun c => { c with hits := bump c.hits }) s) := by
  simp only [mcAccess, hit, if_neg (Nat.not_le.mpr sound)]

/-- A miss looks below the cache. -/
theorem mcAccess_of_miss (miss : cacheHit (lineOf a) s = none) :
    mcAccess a b e s = lookBelow (lineOf a) (a % 128) (b.take (128 - a % 128)) s := by
  simp only [mcAccess, miss]

/-- A line that is held nowhere is read into its slice's side buffer, in place of the oldest of 512. -/
theorem mcPrefetch_of_unheld {u : State} (on : prefetchOn s = true) (noCache : cacheHit (lineOf a) s = none)
    (noSide : sideHit (lineOf a) s = none) (noVictim : victimHit (lineOf a) s = none)
    (rebuilt : u = rebuildLine (lineOf a) (countSlice (sliceOf (lineOf a)) (fun c => { c with prefetches := bump c.prefetches }) s)) :
    mcPrefetch a s = modifyMem (fun m => { m with side := modifyNth (fun b => (if 512 ≤ b.length then b.drop 1 else b) ++
      [{ line := lineOf a, dirty := false, reused := false, data := farLine (lineOf a) u }]) (sliceOf (lineOf a)) m.side }) u := by
  subst rebuilt
  simp only [mcPrefetch, on, noCache, noSide, noVictim, Option.isSome_none, Bool.or_self, Bool.not_true, Bool.false_eq_true, if_false]

/-- The dirty lines of a cache that is disabling are written back before it is disabled. -/
theorem execMcDisableDone_of_disabling (disabling : s.mem.mcState = .disabling) :
    execMcDisableDone s = .next (mcDisabled ((dirtyLines s).foldl (fun st l => writeBack l.1 l.2 st) s)) := by
  simp only [execMcDisableDone, disabling]

/-- The lines of a way that goes down are written back and dropped, and the way loses its power. -/
theorem execMcWayDownDone_of_going (going : s.mem.wayGoing.getLsbD w = true) : execMcWayDownDone w s = .next (modifyMem (fun m =>
      { m with wayGoing := m.wayGoing &&& ~~~ (1#16 <<< w), wayPowered := m.wayPowered &&& ~~~ (1#16 <<< w) })
    ((s.mem.lines.filter (fun l => l.way == w)).foldl
      (fun st l => dropLine l.line (if l.dirty then writeBack l.line l.data st else st)) s)) := if_pos going

end Cache

/-! ## Allocation and sharing (R447, R449, R451, R456, R457) -/

section Granary

variable {unit h arena pool len : Nat} {e : Option EpochRef} {s : State}

/-- Work whose epoch is alive is given a buffer of a list in service that has one, above the reserve where the work is provisional. -/
theorem gAlloc_of_taken {u : State} (fits : poolFor len = some pool) (alive : epochDead e s = false)
    (high : (provisionalFor e s).isSome = true → listLow (granaryReserve s) (gList arena pool s) = false)
    (whole : (gList arena pool s).cut = false) (free : freeNow (gList arena pool s) ≠ 0) (idle : (gList arena pool s).waiters = [])
    (taken : takeBuffer arena pool unit (provisionalFor e s) s = (some h, u)) :
    gAlloc unit e arena len false s = (some h, emit (.granaryHandle unit h) u) := by
  have allowed : ¬((provisionalFor e s).isSome = true ∧ listLow (granaryReserve s) (gList arena pool s) = true) :=
    fun ⟨provisional, low⟩ => Bool.false_ne_true ((high provisional).symm.trans low)
  simp only [gAlloc, fits, alive, if_neg allowed, whole, free, idle, taken, Bool.false_eq_true, ne_eq, not_true_eq_false, false_and, or_self,
    if_false]

theorem gShare_of_stale (r : Nat) (stale : isStale h s = true) : gShare unit h r e s = emit (.granaryOutcome unit 1) s := by
  simp only [gShare, stale, true_or, if_true]

/-- A buffer of real work is shared with a unit of class 0, below the largest count. -/
theorem gShare_of_real {r : Nat} (fresh : isStale h s = false) (held : (headerOf h s).refcount ≠ 0) (own : isForeign unit h s = false)
    (real : (headerOf h s).prov = none) (countable : (headerOf h s).refcount ≠ 0xFFFF) (class0 : unitClass r = some 0) :
    gShare unit h r e s = emit (.granaryOutcome unit 5) (setGHeader (hPool h) (hIndex h)
      { headerOf h s with refcount := (headerOf h s).refcount + 1, share := (headerOf h s).share ||| 1#6 } s) := by
  unfold headerOf at held real countable ⊢
  simp only [gShare, fresh, held, own, real, countable, class0, Bool.false_eq_true, false_and, or_self, if_false]
  rfl

/-- The oldest waiter that has not been reported is reported. -/
theorem allocWaitLong_of_waiter {w : GWaiter} (waiter : (gList arena pool s).waiters.find? (fun w => !w.long) = some w) :
    allocWaitLong arena pool s = healthRecord 0x0107 (packFields [(1, 7), (4, nullHandle), (1, w.unit), (8, 0)])
      (modifyList arena pool (fun l => { l with waiters := mapIf (fun x => x == w) (fun x => { x with long := true }) l.waiters }) s) := by
  simp only [allocWaitLong, waiter]

/-- The indices of a list that have been given at least once and are free, in ascending order. -/
def freedIndices (arena pool : Nat) (s : State) : List Nat :=
  ((List.range (gList arena pool s).fresh).map (fun i => (gList arena pool s).base + i)).filter (fun i => (gHeader pool i s).refcount == 0)

/-- A cut list is rebuilt of its free indices, each linked to the next, and serves those that wait. -/
theorem listRebuild_of_cut (cut : (gList arena pool s).cut = true) : listRebuild arena pool s =
    serveWaiters arena pool (gList arena pool s).waiters.length
      (modifyList arena pool (fun x => noteLevel (granaryReserve s) { x with cut := false, stack := freedIndices arena pool s })
        ((List.range (freedIndices arena pool s).length).foldl (fun st k =>
          nearWrite (bufferAddr arena pool ((freedIndices arena pool s).getD k 0) st)
            (listWords pool ((freedIndices arena pool s).getD k 0)
              ((freedIndices arena pool s).getD (k + 1) (listHead { gList arena pool s with stack := [] }))) st) s)) := by
  simp only [listRebuild, if_pos cut, freedIndices]

end Granary

/-! ## Descriptors and channels (R462-R472) -/

section Dma

variable {c : Nat} {ctx : DmaContext} {s : State} {f : DmaFetch}

section Runs

variable (running : (dmaAt c s).running = some f) (checked : dmaCheck c f s = none)
include running checked

theorem dmaRun_of_copy (op : dmaOp f.desc = 1) : dmaRun 1 c ctx s = dmaMove c f.desc
    (spaceRead (dmaSrcSpace f.desc) f.desc.src.toNat f.desc.len ctx.hostSrc s).1 ctx
    (spaceRead (dmaSrcSpace f.desc) f.desc.src.toNat f.desc.len ctx.hostSrc s).2 := by
  simp only [dmaRun, running, checked, op, ne_eq, not_true_eq_false, false_and, if_false]

section Unbroken

variable (unbroken : ctx.error = none)
include unbroken

theorem dmaRun_of_fill (op : dmaOp f.desc = 2) : dmaRun 2 c ctx s =
    dmaEnd c f.desc stOk 0 false f.desc.len ctx.next
      (spaceWrite (dmaDstSpace f.desc) f.desc.dst.toNat (fillBytes f.desc.src f.desc.len) s) := by
  simp only [dmaRun, dmaMove, running, checked, unbroken, op, ne_eq, not_true_eq_false, false_and, if_false]

theorem dmaRun_of_compare {a b : Bytes} {u v : State} (op : dmaOp f.desc = 3)
    (source : spaceRead (dmaSrcSpace f.desc) f.desc.src.toNat f.desc.len ctx.hostSrc s = (a, u))
    (other : spaceRead (dmaDstSpace f.desc) f.desc.dst.toNat f.desc.len ctx.hostDst u = (b, v)) :
    dmaRun 3 c ctx s = match firstDiff a b with
      | none => dmaEnd c f.desc stOk 0 true f.desc.len ctx.next v
      | some i => dmaEnd c f.desc stOk 0 false i ctx.next v := by
  simp only [dmaRun, dmaCompare, running, checked, unbroken, op, source, other, ne_eq, not_true_eq_false, false_and, if_false] <;> rfl

end Unbroken

end Runs

/-- What reaches the channel's registers has its effect. -/
theorem toChannel_of_reached {g : State → State} (reached : (hostChannel c && s.mci.perstLow) = false) : toChannel c g s = g s := by
  simp only [toChannel, reached, Bool.false_eq_true, if_false]

/-- The row of a register write that reaches its channel completes as the write does. -/
theorem completes_of_reached {i : Instr} {g : State → State} {t : State} (plain : ordinary i = true)
    (meaning : exec i s = .next (toChannel c g s)) (reached : (hostChannel c && s.mci.perstLow) = false) (effect : g s = t) :
    Completes i s t :=
  completes_of_ordinary plain (by rw [meaning, toChannel_of_reached reached, effect])

section Tail

variable {n : Nat} {next : Option DmaFetch}

theorem dmaTail_of_beyond (beyond : (dmaAt c s).size ≤ n) :
    dmaTail c n next s = modifyDma c (fun x => { x with badDoorbells := bump x.badDoorbells }) s := if_pos beyond

theorem dmaTail_of_quiesced (inRing : n < (dmaAt c s).size) (quiesced : isQuiesced (dmaGroup c) s = true) :
    dmaTail c n next s = modifyDma c (fun x => { x with heldTail := some n }) s := by
  simp only [dmaTail, if_neg (Nat.not_le.mpr inRing), if_pos quiesced]

theorem dmaTail_of_running (inRing : n < (dmaAt c s).size) (awake : isQuiesced (dmaGroup c) s = false) :
    dmaTail c n next s = dmaFetchNext c next (modifyDma c (fun x => { x with tail := n, waiting := false }) s) := by
  simp only [dmaTail, if_neg (Nat.not_le.mpr inRing), awake, Bool.false_eq_true, if_false]

end Tail

theorem dmaEnable_of_idle {next : Option DmaFetch} (idle : (dmaAt c s).idle = true) :
    dmaEnable c next s = dmaFetchNext c next (modifyDma c (fun x => { x with enable := true }) s) := if_pos idle

theorem dmaDisable_of_none (none : (dmaAt c s).running = none) :
    dmaDisable c s = modifyDma c (fun x => { x with enable := false, waiting := false, disables := bump x.disables }) s := by
  simp only [dmaDisable, none]

theorem execDmaChannelIdle_of_disabled (disabled : (dmaAt c s).enable = false) :
    execDmaChannelIdle c s = .next (modifyDma c (fun x => { x with idle := true }) s) :=
  congrArg _ (if_neg (Bool.eq_false_iff.mp disabled))

end Dma

/-- Settles O30: each row by its own equation; every row of the cache, the Granary and the DMA is an ordinary command. -/
theorem storeRowsComplete : Obligations.StoreRowsComplete := by
  refine ⟨?hit, ?miss, ?prefetch, ?disableDone, ?wayDown, ?alloc, ?shareStale, ?share, ?releaseShared, ?releaseLast, ?waitLong, ?rebuild, ?copy,
    ?fill, ?compare, ?tailBeyond, ?tailHeld, ?tail, ?enable, ?disable, ?idle, fun c f s reached => completes_of_reached rfl rfl reached rfl⟩
  case hit => exact fun a b e s l hit sound => completes_of_ordinary rfl (congrArg _ (congrArg _ (mcAccess_of_hit hit sound)))
  case miss => exact fun a b e s miss => completes_of_ordinary rfl (congrArg _ (congrArg _ (mcAccess_of_miss miss)))
  case prefetch =>
    exact fun a s u on noCache noSide noVictim rebuilt =>
      completes_of_ordinary rfl (congrArg _ (mcPrefetch_of_unheld on noCache noSide noVictim rebuilt))
  case disableDone => exact fun s disabling => completes_of_ordinary rfl (execMcDisableDone_of_disabling disabling)
  case wayDown => exact fun w s going => completes_of_ordinary rfl (execMcWayDownDone_of_going going)
  case alloc =>
    exact fun unit e arena len s pool h u fits alive high whole free idle taken =>
      completes_of_ordinary rfl (congrArg _ (congrArg Prod.snd (gAlloc_of_taken fits alive high whole free idle taken)))
  case shareStale => exact fun unit h r e s stale => completes_of_ordinary rfl (congrArg _ (gShare_of_stale r stale))
  case share =>
    rintro unit h r e s _ rfl fresh held own real countable class0
    exact completes_of_ordinary rfl (congrArg _ (gShare_of_real fresh held own real countable class0))
  case releaseShared =>
    rintro unit h e s _ rfl fresh own shared
    exact completes_of_ordinary rfl (execGranaryRelease_of_gRelease (gRelease_of_shared fresh own shared))
  case releaseLast =>
    rintro unit h e s _ rfl fresh own last
    exact completes_of_ordinary rfl (execGranaryRelease_of_gRelease (gRelease_of_last fresh own last))
  case waitLong => exact fun arena pool s w waiter => completes_of_ordinary rfl (congrArg _ (allocWaitLong_of_waiter waiter))
  case rebuild =>
    rintro arena pool s _ _ _ rfl cut rfl rfl
    exact completes_of_ordinary rfl (congrArg _ (listRebuild_of_cut cut))
  case copy => exact fun c ctx s f running op checked => completes_of_ordinary rfl (congrArg _ (dmaRun_of_copy running checked op))
  case fill =>
    exact fun c ctx s f running op checked unbroken =>
      completes_of_ordinary rfl (congrArg _ (dmaRun_of_fill running checked unbroken op))
  case compare =>
    exact fun c ctx s f a b u v running op checked unbroken source other =>
      completes_of_ordinary rfl (congrArg _ (dmaRun_of_compare running checked unbroken op source other))
  case tailBeyond => exact fun c n f s reached beyond => completes_of_reached rfl rfl reached (dmaTail_of_beyond beyond)
  case tailHeld =>
    exact fun c n f s reached inRing quiesced => completes_of_reached rfl rfl reached (dmaTail_of_quiesced inRing quiesced)
  case tail => exact fun c n f s reached inRing awake => completes_of_reached rfl rfl reached (dmaTail_of_running inRing awake)
  case enable => exact fun c f s reached idle => completes_of_reached rfl rfl reached (dmaEnable_of_idle idle)
  case disable => exact fun c s reached none => completes_of_reached rfl rfl reached (dmaDisable_of_none none)
  case idle => exact fun c s disabled => completes_of_ordinary rfl (execDmaChannelIdle_of_disabled disabled)

end Sys2Proof.Machine
end

section
/-! The bytes of an Almanac record (R518, Table 22-1): its length, its header, its payload with the padding, and its checksum. -/

namespace Sys2Proof.Machine

/-! ## The length -/

/-- LEN leaves room for the header of 0x18 bytes, the payload and the checksum, in whole words of 8 bytes. -/
theorem almLen_layout {n : Nat} (fits : n ≤ 996) : 0x18 + n + 4 ≤ almLen n ∧ almLen n % 8 = 0 ∧ 32 ≤ almLen n ∧ almLen n ≤ 1024 := by
  simp only [almLen, roundUp]
  omega

/-! ## The record, part by part -/

section Layout

variable (staged : Bool) (r : AlmRecord)

/-- FLAGS: early, staged copy, flush. -/
def almFlags : Nat := flagBit r.early + 2 * flagBit staged + 4 * flagBit r.flush

/-- The header's fields in their order, with their sizes. -/
def almHeader : List (Nat × Nat) :=
  [(2, almLen r.payload.length), (2, r.type), (6, r.seq), (1, r.head), (1, almFlags staged r), (4, r.powerCycles), (8, r.opTime)]

/-- The padding that fills the record up to its checksum. -/
def almPadding : Bytes := zeros (almLen r.payload.length - 0x1C - r.payload.length)

/-- What the checksum is over. -/
def almBody : Bytes := packFields (almHeader staged r) ++ r.payload ++ almPadding r

/-- Cut or zero-filled to a greater length, a string is zero-filled. -/
theorem padTo_of_le {n : Nat} {bs : Bytes} (long : bs.length ≤ n) : padTo n bs = bs ++ zeros (n - bs.length) := by
  refine List.take_of_length_le ?_
  rw [List.length_append, zeros, List.length_replicate]
  omega

theorem length_packFields_almHeader : (packFields (almHeader staged r)).length = 0x18 := packFields_length _

theorem length_almPadding : (almPadding r).length = almLen r.payload.length - 0x1C - r.payload.length := List.length_replicate

variable {r}

theorem length_almBody (fits : r.payload.length ≤ 996) : (almBody staged r).length = almLen r.payload.length - 4 := by
  have room := (almLen_layout fits).1
  rw [almBody, List.length_append, List.length_append, length_packFields_almHeader, length_almPadding]
  omega

/-- A record whose payload fits is its header, payload and padding, and the checksum of these. -/
theorem almBytes_eq (fits : r.payload.length ≤ 996) : almBytes staged r = almBody staged r ++ leBytes 4 (crc32c (almBody staged r)) := by
  have room := (almLen_layout fits).1
  have payload : padTo (almLen r.payload.length - 0x1C) r.payload = r.payload ++ almPadding r := padTo_of_le (by omega)
  have body : leBytes 2 (almLen r.payload.length) ++ leBytes 2 r.type ++ leBytes 6 r.seq ++ leBytes 1 r.head
      ++ leBytes 1 (flagBit r.early + 2 * flagBit staged + 4 * flagBit r.flush) ++ leBytes 4 r.powerCycles ++ leBytes 8 r.opTime
      ++ padTo (almLen r.payload.length - 0x1C) r.payload = almBody staged r := by
    rw [payload]
    simp only [almBody, almHeader, almFlags, packFields, List.append_assoc, List.append_nil]
  simp only [almBytes, body]

theorem length_almBytes (fits : r.payload.length ≤ 996) : (almBytes staged r).length = almLen r.payload.length := by
  have room := (almLen_layout fits).1
  rw [almBytes_eq staged fits, List.length_append, length_almBody staged fits, leBytes_length]
  omega

/-! ## What its readers find -/

/-- A header's field reads back modulo its width. -/
theorem fieldAt_almBytes (fits : r.payload.length ≤ 996) {front back : List (Nat × Nat)} {n v : Nat}
    (header : almHeader staged r = front ++ (n, v) :: back) : fieldAt (almBytes staged r) (front.map (·.1)).sum n = v % 256 ^ n := by
  rw [almBytes_eq staged fits, almBody, header, List.append_assoc, List.append_assoc, fieldAt_packFields]

/-- The payload stands behind the header. -/
theorem slice_almBytes_payload (fits : r.payload.length ≤ 996) : slice (almBytes staged r) 0x18 r.payload.length = r.payload := by
  rw [almBytes_eq staged fits, almBody, List.append_assoc]
  exact (parts_of_append_append (length_packFields_almHeader staged r) rfl rfl).2.1

/-- Between payload and checksum every byte is zero. -/
theorem getD_almBytes_padding (fits : r.payload.length ≤ 996) {i : Nat} (low : 0x18 + r.payload.length ≤ i)
    (high : i < almLen r.payload.length - 4) : (almBytes staged r).getD i 1 = 0 := by
  have before : (packFields (almHeader staged r) ++ r.payload).length ≤ i := by
    rwa [List.length_append, length_packFields_almHeader]
  rw [List.getD_eq_getElem?_getD, almBytes_eq staged fits, List.getElem?_append_left (by rwa [length_almBody staged fits]), almBody,
    List.getElem?_append_right before, List.length_append, length_packFields_almHeader, almPadding, zeros, List.getElem?_replicate,
    if_pos (by omega), Option.getD_some]

/-- At its end stands the checksum of all before it. -/
theorem fieldAt_almBytes_crc (fits : r.payload.length ≤ 996) : fieldAt (almBytes staged r) (almLen r.payload.length - 4) 4 =
    crc32c ((almBytes staged r).take (almLen r.payload.length - 4)) % 2 ^ 32 := by
  have field := fieldAt_append_append (almBody staged r) (leBytes 4 (crc32c (almBody staged r))) []
  rw [List.append_nil, leBytes_length, leNat_leBytes, ← almBytes_eq staged fits, length_almBody staged fits] at field
  have body : (almBytes staged r).take (almLen r.payload.length - 4) = almBody staged r := by
    rw [almBytes_eq staged fits, ← length_almBody staged fits, List.take_left]
  rw [body]
  exact field

/-- Three flags packed read back bit by bit. -/
theorem bitOf_threeFlags : ∀ a b c : Bool, flagBit a + 2 * flagBit b + 4 * flagBit c < 8 ∧
    bitOf (flagBit a + 2 * flagBit b + 4 * flagBit c) 0 = a ∧ bitOf (flagBit a + 2 * flagBit b + 4 * flagBit c) 1 = b ∧
    bitOf (flagBit a + 2 * flagBit b + 4 * flagBit c) 2 = c := by decide

theorem almFlags_bits : almFlags staged r < 8 ∧ bitOf (almFlags staged r) 0 = r.early ∧ bitOf (almFlags staged r) 1 = staged ∧
    bitOf (almFlags staged r) 2 = r.flush := bitOf_threeFlags r.early staged r.flush

end Layout

/-- Settles O52: the record is its header's fields packed, the payload, its padding and the checksum. -/
theorem almanacRecordLayout : Obligations.AlmanacRecordLayout := by
  rintro staged r _ fits rfl
  obtain ⟨_, words, least, most⟩ := almLen_layout fits
  obtain ⟨small, early, copy, flush⟩ := almFlags_bits staged (r := r)
  have length := length_almBytes staged fits
  have len : fieldAt (almBytes staged r) 0 2 = almLen r.payload.length % 256 ^ 2 := fieldAt_almBytes staged fits (front := []) rfl
  have flags : fieldAt (almBytes staged r) 0x0B 1 = almFlags staged r := by
    rw [show fieldAt (almBytes staged r) 0x0B 1 = almFlags staged r % 256 ^ 1 from fieldAt_almBytes staged fits
      (front := [(2, almLen r.payload.length), (2, r.type), (6, r.seq), (1, r.head)]) rfl]
    omega
  rw [length, flags]
  refine ⟨?len, words, least, most, ?type, ?seq, ?head, early, copy, flush, small, ?cycles, ?time, slice_almBytes_payload staged fits,
    fun i => getD_almBytes_padding staged fits, fieldAt_almBytes_crc staged fits⟩
  case len =>
    rw [len]
    omega
  case type => exact fieldAt_almBytes staged fits (front := [(2, almLen r.payload.length)]) rfl
  case seq => exact fieldAt_almBytes staged fits (front := [(2, almLen r.payload.length), (2, r.type)]) rfl
  case head => exact fieldAt_almBytes staged fits (front := [(2, almLen r.payload.length), (2, r.type), (6, r.seq)]) rfl
  case cycles =>
    exact fieldAt_almBytes staged fits
      (front := [(2, almLen r.payload.length), (2, r.type), (6, r.seq), (1, r.head), (1, almFlags staged r)]) rfl
  case time =>
    exact fieldAt_almBytes staged fits (front := [(2, almLen r.payload.length), (2, r.type), (6, r.seq), (1, r.head),
      (1, almFlags staged r), (4, r.powerCycles)]) rfl

end Sys2Proof.Machine
end

section
/-! RoCE packets and their timers (R333-R360, Table 14-4): the way of an accepted packet to its context, and what it does there. -/

namespace Sys2Proof.Machine

/-! ## From the port to the context (R333, R347-R351) -/

section Packets

variable {h : RoceHead} {b : RoceBody} {c : QpCtx} {s t u : State}

/-- The bytes of a packet, counted on its port. -/
def rxCounted (h : RoceHead) (s : State) : State := countPort h.lport (fun k => { k with rxBytes := bump k.rxBytes h.wire }) s

/-- What becomes of an intact packet that its port has room for: it is steered to its context, unless its opcode is none that RC defines
(Table 14-4). -/
def portEffect (h : RoceHead) (b : RoceBody) (u : State) : List QpDone × State :=
  match b with
  | .other op =>
    if op = 0x03 ∨ op = 0x05 ∨ op = 0x09 ∨ op = 0x0B ∨ (0x12 ≤ op ∧ op ≤ 0x14) then steer h b u
    else ([], countPort h.lport (fun k => { k with badOpcodes := bump k.badOpcodes }) u)
  | _ => steer h b u

theorem receivePacket_of_portTakes (takes : PortTakes h s u) : receivePacket h b s = portEffect h b u := by
  obtain ⟨up, mode, v, counted, accepts, room, intact, rfl⟩ := takes
  replace counted : rxCounted h s = v := counted.symm
  have port : ¬(portUp h.lport s = false ∨ s.boot.mode = .dump) := by simp [up, mode]
  have roomed : ¬(isLossless h.lport (rxPriority h v) v = false ∧ rxShare h.lport (rxPriority h v) v < h.occupancy) := by
    rintro ⟨lossy, full⟩
    rcases room with lossless | fits
    · exact Bool.false_ne_true (lossy.symm.trans lossless)
    · exact Nat.not_le_of_lt full fits
  unfold rxCounted at counted
  simp only [receivePacket, if_neg port, counted, accepts, if_neg roomed, intact, not_true_eq_false, Bool.true_eq_false, if_false]
  cases b with
  | _ => rfl

/-- A packet whose context is CONNECTED and cached is processed in it. -/
theorem steer_of_cached {q : Nat} {v : State} (real : ¬(h.qpn % 2 ^ 20 < 2 ∧ h.qpn / 2 ^ 20 = 0)) (found : qpAt (h.qpn % 2 ^ 20) u = some c)
    (generation : c.gen = h.qpn / 2 ^ 20) (connected : c.state = .connected) (searched : v = (winnowSearch 1 0 (steeringKey c) false 0 u).2)
    (cached : isCached c v = true) (first : (v.ports.missed.getD (qpQuadrant c) []).any (fun m => m.index == c.index) = false)
    (index : q = c.index) :
    steer h b u = inContext q h b (cacheContext c.index (countCtx (qpQuadrant c) (fun k => { k with hits := bump k.hits }) v)).2 := by
  subst searched index
  have alive : ¬(c.gen ≠ h.qpn / 2 ^ 20 ∨ c.state = .timewait) := by simp [generation, connected]
  simp only [steer, if_neg real, found, if_neg alive, cached, first, and_self, if_true]

/-- What a packet does in a CONNECTED context (R341, R342, R359, R360). -/
def contextEffect (q : Nat) (h : RoceHead) (b : RoceBody) (t : State) : List QpDone × State :=
  match b with
  | .ack k => takeAck q h k t
  | .readResponse pos payload => takeReadResponse q h pos payload t
  | .cnp => ([], onCnp q t)
  | _ => ([], takeRequest q h b t)

theorem inContext_of_connected {q : Nat} (found : qpAt q t = some c) (connected : c.state = .connected) (unmarked : h.ce = false) :
    inContext q h b t = contextEffect q h b t := by
  have joins : (c.state == .connecting && !c.active) = false := by rw [connected]; rfl
  have live : qpConnected q t = true := by simp [qpConnected, found, connected]
  simp only [inContext, found, joins, unmarked, live, not_true_eq_false, Bool.false_eq_true, if_false]
  cases b with
  | _ => rfl

/-- An accepted packet that reaches its context has its effect there, if its opcode is one of RC. -/
theorem receivePacket_of_arrives (arrives : Arrives h c s t) (routed : ∀ u, portEffect h b u = steer h b u) :
    receivePacket h b s = contextEffect c.index h b t := by
  obtain ⟨u, v, takes, real, found, generation, connected, unmarked, searched, cached, first, rfl, here⟩ := arrives
  rw [receivePacket_of_portTakes takes, routed, steer_of_cached real found generation connected searched cached first rfl,
    inContext_of_connected here connected unmarked]

/-- `Arrives` names the context as it stands when the packet is processed. -/
theorem qpAt_of_arrives (arrives : Arrives h c s t) : qpAt c.index t = some c := by
  obtain ⟨u, v, takes, real, found, generation, connected, unmarked, searched, cached, first, stands, here⟩ := arrives
  exact here

/-! ## Requests (R341, R343, R353, R358) -/

/-- What a request packet in order does in its context. -/
def requestEffect (c : QpCtx) (h : RoceHead) (b : RoceBody) (t : State) : State :=
  match b with
  | .send pos payload => takeSend c.index h pos payload t
  | .sendInvalidate pos key payload =>
    if c.service = .sheaf then takeSendInvalidate c.index h pos key payload t else nakInvalid c.index t
  | .write pos w payload => takeWrite c.index h pos w payload t
  | _ => nakInvalid c.index t

theorem takeRequest_of_expected (found : qpAt c.index t = some c) (expected : psnSub h.psn c.epsn = 0) :
    takeRequest c.index h b t = requestEffect c h b t := by
  simp only [takeRequest, found, expected, if_true]
  cases b with
  | _ => rfl

/-- A request packet in order has its effect and brings nothing to a service. -/
theorem receivePacket_of_request (arrives : Arrives h c s t) (expected : psnSub h.psn c.epsn = 0)
    (routed : ∀ u, portEffect h b u = steer h b u) (request : contextEffect c.index h b t = ([], takeRequest c.index h b t)) :
    receivePacket h b s = ([], requestEffect c h b t) := by
  rw [receivePacket_of_arrives arrives routed, request, takeRequest_of_expected (qpAt_of_arrives arrives) expected]

/-- The number of messages that a context has taken. -/
def messagesAt (q : Nat) (s : State) : Nat := ((qpAt q s).map (·.msn)).getD 0

/-- A packet that completes no message ends with its effect. -/
theorem packetRow_of_open (received : receivePacket h b s = ([], u)) (same : messagesAt (h.qpn % 2 ^ 20) u = messagesAt (h.qpn % 2 ^ 20) s) :
    packetRow h b s = u := by
  unfold messagesAt at same
  simp only [packetRow, received, takeDones, List.foldl_nil, if_pos same]

/-- After one that does, a message that no row takes is ended. -/
theorem packetRow_of_whole (received : receivePacket h b s = ([], u)) (more : messagesAt (h.qpn % 2 ^ 20) u ≠ messagesAt (h.qpn % 2 ^ 20) s) :
    packetRow h b s = endStray (h.qpn % 2 ^ 20) u := by
  unfold messagesAt at more
  simp only [packetRow, received, takeDones, List.foldl_nil, if_neg more]

/-- The row of a packet completes with what it brings to the services. -/
theorem completes_of_received {i : Instr} {r : List QpDone × State} (plain : ordinary i = true)
    (meaning : exec i s = .next (takeDones (receivePacket h b s))) (received : receivePacket h b s = r) (done : takeDones r = t) :
    Completes i s t :=
  completes_of_ordinary plain (by rw [meaning, received, done])

end Packets

/-! ## Timers and fetches (R341, R342, R351) -/

section Timers

variable {q : Nat} {c : QpCtx} {s u : State}

/-- With retries left everything unacknowledged is sent again. -/
theorem retryOrFail_of_left (found : qpAt q s = some c) (connected : c.state = .connected) (unanswered : c.sent ≠ [])
    (left : c.retries < paramNat 0x0E19 0 s) :
    retryOrFail q s = ([], resendAll q (modifyQp q (fun x => { x with retries := x.retries + 1 }) s)) := by
  simp only [retryOrFail, found, connected, unanswered, Nat.not_le.mpr left, ne_eq, not_true_eq_false, or_self, if_false]

theorem execRnrDelayEnd_of_waits (found : qpAt q s = some c) (waits : c.rnrWait = true) : execRnrDelayEnd q s = .next (resendAll q s) := by
  simp only [execRnrDelayEnd, found, Option.map_some, Option.getD_some, waits, if_true]

/-- What is unacknowledged is acknowledged, up to the last packet before the expected one. -/
theorem execAckCoalesceTimer_of_unacked (found : qpAt q s = some c) (unacked : 0 < c.unacked) : execAckCoalesceTimer q s =
    .next (sendResponse c 0x11 ((c.epsn + 2 ^ 24 - 1) % 2 ^ 24) (beBytes 1 0x1F ++ beBytes 3 c.msn)
      (modifyQp q (fun x => { x with unacked := 0 }) s)) := by
  simp only [execAckCoalesceTimer, sendAck, found, Option.map_some, Option.getD_some, decide_eq_true unacked, if_true]

/-- The packet of the oldest NAK order draws its RNR NAK where it is still the one expected. -/
theorem stubFetched_of_expected {d : Nat} {m : MissedPacket} {rest : List MissedPacket} (orders : s.ports.nakOrders[d]? = some (m :: rest))
    (taken : u = modifyPorts (fun p => { p with nakOrders := p.nakOrders.set d rest }) s) (found : qpAt m.index u = some c)
    (begins : beginsMessage m.body = true) (expected : m.head.psn = c.epsn) : stubFetched d s = sendNak m.index 0x21 u := by
  subst taken
  simp only [stubFetched, List.getD_eq_getElem?_getD, orders, Option.getD_some, found, begins, expected, and_self, if_true]

end Timers

/-- Settles O26: each packet by what it does in the context that it reaches, each timer by its own equation; all are ordinary commands. The end
of a context's fetch is unconditional. -/
theorem rdmaRowsComplete : Obligations.RdmaRowsComplete := by
  refine ⟨?sendOpen, ?sendWhole, ?sendInvalidate, ?write, ?readRequest, ?readResponse, ?acknowledge, ?cnp, ?badOpcode, ?other, ?retransmit,
    ?rnrDelay, ?ackCoalesce, fun q s => completes_of_ordinary rfl rfl, ?stub⟩
  case sendOpen =>
    rintro h pos b s c t _ arrives expected rfl same
    exact completes_of_ordinary rfl (congrArg _ (packetRow_of_open (b := .send pos b)
      (receivePacket_of_request arrives expected (fun _ => rfl) rfl) same))
  case sendWhole =>
    rintro h pos b s c t _ arrives expected rfl more
    exact completes_of_ordinary rfl (congrArg _ (packetRow_of_whole (b := .send pos b)
      (receivePacket_of_request arrives expected (fun _ => rfl) rfl) more))
  case sendInvalidate =>
    rintro h pos k b s c t _ arrives expected sheaf rfl same
    refine completes_of_ordinary rfl (congrArg _ (packetRow_of_open (b := .sendInvalidate pos k b) ?_ same))
    rw [receivePacket_of_request arrives expected (fun _ => rfl) rfl, requestEffect, if_pos sheaf]
  case write =>
    exact fun h pos w b s c t arrives expected =>
      completes_of_received rfl rfl (receivePacket_of_request arrives expected (fun _ => rfl) rfl) rfl
  case readRequest =>
    exact fun h s c t arrives expected =>
      completes_of_received rfl rfl (receivePacket_of_request arrives expected (fun _ => rfl) rfl) rfl
  case readResponse =>
    exact fun h pos b s c t arrives => completes_of_received rfl rfl (receivePacket_of_arrives arrives (fun _ => rfl)) rfl
  case acknowledge =>
    exact fun h k s c t arrives => completes_of_received rfl rfl (receivePacket_of_arrives arrives (fun _ => rfl)) rfl
  case cnp => exact fun h s c t arrives => completes_of_received rfl rfl (receivePacket_of_arrives arrives (fun _ => rfl)) rfl
  case badOpcode => exact fun h s t takes => completes_of_received rfl rfl (receivePacket_of_portTakes takes) rfl
  case other =>
    intro h op s c t arrives expected request
    have routed : ∀ u, portEffect h (.other op) u = steer h (.other op) u := fun u => if_pos (by omega)
    exact completes_of_received rfl rfl (receivePacket_of_request arrives expected routed rfl) rfl
  case retransmit =>
    exact fun q s c found connected unanswered left =>
      completes_of_ordinary rfl (congrArg _ (congrArg takeDones (retryOrFail_of_left found connected unanswered left)))
  case rnrDelay => exact fun q s c found waits => completes_of_ordinary rfl (execRnrDelayEnd_of_waits found waits)
  case ackCoalesce => exact fun q s c found unacked => completes_of_ordinary rfl (execAckCoalesceTimer_of_unacked found unacked)
  case stub =>
    exact fun d s m rest u c orders taken found begins expected =>
      completes_of_ordinary rfl (congrArg _ (stubFetched_of_expected orders taken found begins expected))

end Sys2Proof.Machine
end

section
/-! Connections and landing zones (R344-R346, R354-R356, Table 14-6): each message and timer in the state of the context that heeds it. -/

namespace Sys2Proof.Machine

/-! ## Requests (R344, R345) -/

section Requests

variable {r : CmRequest} {s : State} {a : Nat × Nat × Nat}
  (up : portUp r.lport s = true) (own : (ownAddresses r.lport s).find? (fun a => a.2.1 == r.toAddr) = some a)
  (new : s.ports.qps.find? (fun c => c.state == .connecting && !c.active && c.remoteId == r.commId && c.remoteAddr == r.fromAddr) = none)
  (room : (nextQp s).isSome = true)
include up own new room

/-- A new request for a service that the head does not have is rejected. -/
theorem takeReq_of_unknownService (unknown : serviceOf r.service s = none) : takeReq r s = reject r 8 [] s := by
  simp only [takeReq, up, own, new, Option.isNone_eq_false_iff.mpr room, unknown, Bool.true_eq_false, Bool.false_eq_true, if_false]

/-- A new one for replication is accepted where the head accepts connections. -/
theorem takeReq_of_replication (service : serviceOf r.service s = some .replication) (transport : r.transport = 0)
    (accepts : acceptsConnections s = true) : takeReq r s = acceptReq .replication r a.1 replBuffers [] (fun _ st => st) s := by
  simp only [takeReq, up, own, new, Option.isNone_eq_false_iff.mpr room, service, transport, accepts, ne_eq, not_true_eq_false,
    Bool.true_eq_false, Bool.false_eq_true, if_false]

end Requests

/-! ## Messages of a context (R344, R346, Table 14-6) -/

section Messages

variable {id : Nat} {s : State} {c : QpCtx}

/-- A context that is still CONNECTING goes to TIMEWAIT, and its service learns of it. -/
theorem neverConnected_of_connecting (connecting : c.state = .connecting) :
    neverConnected c s = serviceGone c.service c.index (qpStop c.index .timewait s) :=
  if_neg (not_not_intro connecting)

/-- A context in ERROR whose disconnection is over goes to TIMEWAIT. -/
theorem closingDone_of_error (error : c.state = .error) : closingDone c s = dropSteering c
    (modifyQp c.index (fun x => { x with state := .timewait }) (modifyQp c.index (fun x => { x with closing := false }) s)) :=
  if_pos error

section Named

variable (named : ctxOf id s = some c)
include named

theorem execMra_of_connecting (n : Nat) (connecting : c.state = .connecting) :
    execMra id n s = .next (modifyQp c.index (fun x => { x with cmTimeout := n }) s) := by
  simp only [execMra, named, connecting, if_true]

theorem execRej_of_connecting (reason : Nat) (connecting : c.state = .connecting) :
    execRej id reason s = .next (serviceGone c.service c.index (qpStop c.index .timewait s)) := by
  simp only [execRej, named, neverConnected_of_connecting connecting]

theorem execRtu_of_connecting (connecting : c.state = .connecting) (passive : c.active = false) :
    execRtu id s = .next (qpConnect c.index s) := by
  simp only [execRtu, named, connecting, passive, and_self, if_true]

/-- A disconnect request is answered before its context goes to TIMEWAIT. -/
theorem takeDreq_of_connected (remote : Nat) (connected : c.state = .connected) : takeDreq id remote s =
    serviceGone c.service c.index (dropSteering c (qpStop c.index .timewait
      (transmit c.lport (paramNat 0x0E0F 0 s) (qpPath c s) (.cmDrep (qpnOf c) remote) s))) := by
  simp only [takeDreq, named, connected]

theorem execDrep_of_error (error : c.state = .error) : execDrep id s = .next (dropSteering c
    (modifyQp c.index (fun x => { x with state := .timewait }) (modifyQp c.index (fun x => { x with closing := false }) s))) := by
  simp only [execDrep, named, closingDone_of_error error]

end Named

/-- The reply to a connection that the head initiated makes it CONNECTED; the head answers RTU, and its service learns of it. -/
theorem takeRep_of_connecting {r : CmReply} {u : State} (named : ctxOf r.commId s = some c) (active : c.active = true)
    (connecting : c.state = .connecting) (entered : u = qpConnect c.index (modifyQp c.index (fun x =>
      { x with remoteQpn := r.qpn, remoteId := r.remoteId, epsn := r.psn, pmtu := pathMtu c.lport r.mtu (isIpv4 c.remoteAddr) s }) s)) :
    takeRep r s =
      serviceUp c.service c.index (transmit c.lport (paramNat 0x0E0F 0 u) (qpPath c u) (.cmRtu (qpnOf c) r.remoteId) u) := by
  subst entered
  simp only [takeRep, named, active, connecting, reduceCtorEq, ne_eq, not_true_eq_false, Bool.true_eq_false, if_false]

end Messages

/-! ## Timers of a context (R344, R354, Table 14-6) -/

section Timers

variable {q : Nat} {s : State} {c : QpCtx} (found : qpAt q s = some c)
include found

section Rep

variable (connecting : c.state = .connecting) (passive : c.active = false)
include connecting passive

/-- A REP goes three times more. -/
theorem execRepResendTimer_of_left (left : c.resends < 3) :
    execRepResendTimer q s = .next (sendRep c (modifyQp q (fun x => { x with resends := x.resends + 1 }) s)) := by
  simp only [execRepResendTimer, found, connecting, passive, if_pos left, ne_eq, not_true_eq_false, Bool.false_eq_true, or_self, if_false]

/-- Then its context is given up. -/
theorem execRepResendTimer_of_spent (spent : 3 ≤ c.resends) :
    execRepResendTimer q s = .next (serviceGone c.service c.index (qpStop c.index .timewait s)) := by
  simp only [execRepResendTimer, found, connecting, passive, if_neg (Nat.not_lt.mpr spent), neverConnected_of_connecting connecting, ne_eq,
    not_true_eq_false, Bool.false_eq_true, or_self, if_false]

end Rep

theorem execDreqTimeout_of_error (closing : c.closing = true) (error : c.state = .error) : execDreqTimeout q s = .next (dropSteering c
    (modifyQp c.index (fun x => { x with state := .timewait }) (modifyQp c.index (fun x => { x with closing := false }) s))) := by
  simp only [execDreqTimeout, found, closing, closingDone_of_error error, if_true]

theorem execReqTimeout_of_connecting (active : c.active = true) (connecting : c.state = .connecting) :
    execReqTimeout q s = .next (serviceGone c.service c.index (qpStop c.index .timewait s)) := by
  simp only [execReqTimeout, found, active, neverConnected_of_connecting connecting, if_true]

/-- A bound write that takes too long is abandoned: what it has written of its zone is forgotten, and the zone has one write less. -/
theorem abandonWrite_of_bound {z first next left : Nat} {x : Zone} (bound : c.bound = some (z, first, next, left))
    (zone : zoneAt z (modifyQp q (fun c => { c with bound := none, abandoned := true }) s) = some x) : abandonWrite q s =
    modifyPorts (fun p => { p with lzAbandoned := bump p.lzAbandoned }) (modifyZone z (fun x => { x with inFlight := x.inFlight - 1 })
      (zoneForget x first (next - first + left) (modifyQp q (fun c => { c with bound := none, abandoned := true }) s))) := by
  simp only [abandonWrite, found, Option.bind_some, bound, zone]

end Timers

/-- A revoked zone whose writes are over is taken from its holder. -/
theorem execLzRevokeDone_of_done {n : Nat} {z : Zone} {s u : State} (done : zoneDone n s = some (z, u)) :
    execLzRevokeDone n s = .next (zoneTaken z u) := by
  simp only [execLzRevokeDone, done]

/-- Settles O27: each message and timer by its own equation; all of them are ordinary commands. The end of QP_REUSE_DELAY is unconditional. -/
theorem connectionRowsComplete : Obligations.ConnectionRowsComplete := by
  refine ⟨?unknownService, ?replication, ?mra, ?rej, ?rep, ?rtu, ?dreq, ?drep, ?repResend, ?repSpent, ?dreqTimeout, ?reqTimeout,
    fun q s => completes_of_ordinary rfl rfl, ?abandoned, ?revoked⟩
  case unknownService =>
    rintro r s up ⟨a, own⟩ new room unknown
    exact completes_of_ordinary rfl (congrArg _ (takeReq_of_unknownService up own new room unknown))
  case replication =>
    exact fun r s a up own new room service transport accepts =>
      completes_of_ordinary rfl (congrArg _ (takeReq_of_replication up own new room service transport accepts))
  case mra => exact fun id n s c named connecting => completes_of_ordinary rfl (execMra_of_connecting named n connecting)
  case rej => exact fun id r s c named connecting => completes_of_ordinary rfl (execRej_of_connecting named r connecting)
  case rep =>
    exact fun r s c u named active connecting entered =>
      completes_of_ordinary rfl (congrArg _ (takeRep_of_connecting named active connecting entered))
  case rtu => exact fun id s c named connecting passive => completes_of_ordinary rfl (execRtu_of_connecting named connecting passive)
  case dreq =>
    exact fun id remote s c named connected => completes_of_ordinary rfl (congrArg _ (takeDreq_of_connected named remote connected))
  case drep => exact fun id s c named error => completes_of_ordinary rfl (execDrep_of_error named error)
  case repResend =>
    exact fun q s c found connecting passive left =>
      completes_of_ordinary rfl (execRepResendTimer_of_left found connecting passive left)
  case repSpent =>
    exact fun q s c found connecting passive spent =>
      completes_of_ordinary rfl (execRepResendTimer_of_spent found connecting passive spent)
  case dreqTimeout =>
    exact fun q s c found closing error => completes_of_ordinary rfl (execDreqTimeout_of_error found closing error)
  case reqTimeout =>
    exact fun q s c found active connecting => completes_of_ordinary rfl (execReqTimeout_of_connecting found active connecting)
  case abandoned =>
    exact fun q s c z first next left x found bound zone =>
      completes_of_ordinary rfl (congrArg _ (abandonWrite_of_bound found bound zone))
  case revoked => exact fun n s z u done => completes_of_ordinary rfl (execLzRevokeDone_of_done done)

end Sys2Proof.Machine
end

section
/-! The Headland's messages (R310-R329, Table 13-3): a message that is heard has the effect of its type, and what that is in each case. -/

namespace Sys2Proof.Machine

/-! ## Heard messages (R309-R311, R113) -/

section Heard

variable {mtype q : Nat} {frames : List Bytes} {least : Bytes → Nat} {b : Bytes} {s t u : State} {f : Bytes → State → State} {c : Instr}

/-- A message that the head hears and that is long enough has its effect. -/
theorem peerMessage_of_heard (heard : hears mtype t = true) (long : least b ≤ b.length) : peerMessage q least f (mtype, b) t = f b t := by
  simp only [peerMessage, heard, if_neg (Nat.not_lt.mpr long), Bool.true_eq_false, if_false]

theorem peerRow_of_heard (heard : Heard mtype q frames least b s t) : peerRow mtype q least frames f s = f b t := by
  obtain ⟨received, hearing, long⟩ := heard
  simp only [peerRow, received, peerMessage_of_heard hearing long]

/-- So has one whose arrival is a root ticket, where there is room for the ticket. -/
theorem peerRoot_of_heard (heard : HeardRoot mtype q frames least b s t) : peerRoot mtype q least frames f s = f b t := by
  obtain ⟨v, room, received, rfl, hearing, long⟩ := heard
  simp only [peerRoot, if_pos room, received, peerMessage_of_heard hearing long]

/-- The row of a message that is heard completes as its type does. -/
theorem completes_of_heard (plain : ordinary c = true) (meaning : exec c s = .next (peerRow mtype q least frames f s))
    (heard : Heard mtype q frames least b s t) (effect : f b t = u) : Completes c s u :=
  completes_of_ordinary plain (by rw [meaning, peerRow_of_heard heard, effect])

theorem completes_of_heardRoot (plain : ordinary c = true) (meaning : exec c s = .next (peerRoot mtype q least frames f s))
    (heard : HeardRoot mtype q frames least b s t) (effect : f b t = u) : Completes c s u :=
  completes_of_ordinary plain (by rw [meaning, peerRoot_of_heard heard, effect])

end Heard

/-! ## Mirroring (R64, R312, R313) -/

section Mirror

variable {q : Nat} {b : Bytes} {t : State}

/-- A message that is known already is acknowledged as a duplicate. -/
theorem mirrorFrom_of_known (known : t.headland.held.contains (fieldAt b 0 8) = true) : mirrorFrom q b t =
    sendMirrorAck q (fieldAt b 0 8) 1 (countHead (fun c => { c with mirrorDuplicates := bump c.mirrorDuplicates }) t) := if_pos known

/-- One without a payload, and of no resynchronisation, is stored record by record and acknowledged. -/
theorem mirrorFrom_of_stored {u : State} (new : t.headland.held.contains (fieldAt b 0 8) = false) (noPayload : bitOf (fieldAt b 9 1) 0 = false)
    (noResync : bitOf (fieldAt b 9 1) 1 = false)
    (stored : storeRecords q (fieldAt b 0 8) (splitRecords (fieldAt b 0x0A 2) (slice b 0x20 (fieldAt b 0x0C 4))) none t = some u) :
    mirrorFrom q b t = resyncCheck (answerDrains (sendMirrorAck q (fieldAt b 0 8) 0
      (modifyHeadland (fun h => { h with held := h.held ++ [fieldAt b 0 8] }) (growFar u)))) := by
  simp only [mirrorFrom, new, noPayload, noResync, stored, Bool.false_eq_true, if_false]

section Ack

variable (notEnd : fieldAt b 8 2 ≠ 3)
include notEnd

/-- An acknowledgement of the latest attempt ends the message. -/
theorem mirrorAckFrom_of_sent {m : MirrorMsg} (room : fieldAt b 8 2 ≠ 2)
    (sent : t.headland.msgs.find? (fun m => m.mseq == fieldAt b 0 8 && m.sub == q) = some m) :
    mirrorAckFrom q b t = mirrorAcknowledged q (fieldAt b 0 8) t := by
  simp only [mirrorAckFrom, if_neg notEnd, sent, if_neg room]

/-- One of an attempt that its timer has beaten is counted. -/
theorem mirrorAckFrom_of_late (late : t.headland.msgs.find? (fun m => m.mseq == fieldAt b 0 8 && m.sub == q) = none) :
    mirrorAckFrom q b t = countIngest q (fun c => { c with mirrorLate := bump c.mirrorLate }) t := by
  simp only [mirrorAckFrom, if_neg notEnd, late]

end Ack

end Mirror

/-! ## IDs, erases, images (R210, R547) -/

section Others

variable {b : Bytes} {t : State}

/-- The later half of the free blocks is granted. -/
theorem idRequested_of_split {kept given : List (Nat × Nat)}
    (split : splitBlocks ((t.headland.idBlocks.map (·.2)).sum - (t.headland.idBlocks.map (·.2)).sum / 2) t.headland.idBlocks = (kept, given)) :
    idRequested t = headSend 0 0x0041 (packFields [(4, (idBlockList given).length), (4, 0)] ++ (idBlockList given).flatMap (leBytes 4))
      (noteGrant (1 - t.boot.headId) given (modifyHeadland (fun h => { h with idBlocks := kept }) t)) := by
  simp only [idRequested, split]

/-- A block of a bridge that the head leases is erased, behind a fence of its die. -/
theorem eraseAsked_of_leased (leased : leases (fieldAt b 8 1) t = true) : eraseAsked b t =
    furrowIssue (fieldAt b 8 1) 4 (leBytes 8 (cwAddr (fieldAt b 9 1) (fieldAt b 12 4) 0)) [] (.peerErase (fieldAt b 0 4) (fieldAt b 4 1))
      (furrowIssue (fieldAt b 8 1) 10 (leBytes 4 (2 ^ fieldAt b 9 1) ++ [1]) [] .fence t) := if_pos leased

/-- A head that serves sends its manifest. -/
theorem imageAsked_of_manifest (serving : servingMode t.boot.mode = true) (manifest : fieldAt b 0 4 = 0xFFFFFFFF) :
    imageAsked b t = sendImage 0xFFFFFFFF t.fw.running.manifest t := by
  have runs : ¬(t.boot.mode = .dump ∨ t.boot.mode = .boot ∨ t.boot.mode = .recovery) := by
    rintro (mode | mode | mode) <;> rw [mode] at serving <;> cases serving
  simp only [imageAsked, if_neg runs, manifest, if_true]

end Others

/-- Settles O23: each message by the effect of its type; all of them are ordinary commands. Those of heartbeats, inventories, forwards, keys,
grants and the return have theirs whatever they carry. -/
theorem headlandMessagesComplete : Obligations.HeadlandMessagesComplete := by
  refine ⟨fun q fs b s t heard => completes_of_heard rfl rfl heard rfl, fun q fs b s t heard => completes_of_heard rfl rfl heard rfl,
    fun q fs b s t heard => completes_of_heard rfl rfl heard rfl, ?duplicate, ?stored, ?acknowledged, ?late,
    fun q fs b s t heard => completes_of_heardRoot rfl rfl heard rfl, fun q fs b s t heard => completes_of_heard rfl rfl heard rfl,
    fun q fs b s t heard _ => completes_of_heard rfl rfl heard rfl, fun q fs b s t heard => completes_of_heard rfl rfl heard rfl,
    fun q fs b bad s t heard => completes_of_heard rfl rfl heard rfl, fun q fs b s t heard => completes_of_heard rfl rfl heard rfl,
    fun q fs b s t heard => completes_of_heard rfl rfl heard rfl, ?idRequest, fun q fs b s t heard => completes_of_heard rfl rfl heard rfl,
    ?erase, fun q fs b s t heard => completes_of_heard rfl rfl heard rfl, fun q fs b s t heard => completes_of_heard rfl rfl heard rfl,
    ?drained, fun q fs b s t heard => completes_of_heard rfl rfl heard rfl, ?released, ?acquired, ?returned,
    fun q fs b s t heard _ _ _ => completes_of_heard rfl rfl heard rfl, fun q fs b s t heard => completes_of_heard rfl rfl heard rfl,
    ?image, fun q fs b s t heard => completes_of_heard rfl rfl heard rfl⟩
  case duplicate => exact fun q fs b s t heard known => completes_of_heardRoot rfl rfl heard (mirrorFrom_of_known known)
  case stored =>
    exact fun q fs b s t u heard new noPayload noResync stored =>
      completes_of_heardRoot rfl rfl heard (mirrorFrom_of_stored new noPayload noResync stored)
  case acknowledged =>
    exact fun q fs b s t m heard notEnd room sent => completes_of_heard rfl rfl heard (mirrorAckFrom_of_sent notEnd room sent)
  case late => exact fun q fs b s t heard notEnd late => completes_of_heard rfl rfl heard (mirrorAckFrom_of_late notEnd late)
  case idRequest =>
    rintro q fs b s t _ kept given heard rfl split
    exact completes_of_heard rfl rfl heard (idRequested_of_split split)
  case erase => exact fun q fs b s t heard leased => completes_of_heard rfl rfl heard (eraseAsked_of_leased leased)
  case drained => exact fun q fs b s t heard awaited => completes_of_heard rfl rfl heard (if_pos awaited)
  case released => exact fun q fs b s t heard op => completes_of_heard rfl rfl heard (by simp only [op, if_true])
  case acquired => exact fun q fs b s t heard op => completes_of_heard rfl rfl heard (by simp only [op, if_true]; rfl)
  case returned => exact fun q fs b s t heard op => completes_of_heard rfl rfl heard (by simp only [op]; rfl)
  case image =>
    exact fun q fs b s t heard serving manifest => completes_of_heard rfl rfl heard (imageAsked_of_manifest serving manifest)

end Sys2Proof.Machine
end

section
/-! NVMe commands taken from their queues (R368-R388, Tables 15-2 to 15-5): the way of an admin capsule and of an I/O capsule to its command,
what each command's own clause says of it, and the timers of a controller. -/

namespace Sys2Proof.Machine

/-! ## The way of an admin capsule to its command -/

section Admin

variable {set : List (Nat × Bytes)} {qp cid : Nat} {capsule c data : Bytes} {k : Controller} {x : NvmeCmd} {s t u : State}

theorem capsule_of_nvCmd (found : (nvCmd qp cid t).map (·.capsule) = some c) : ∃ x, nvCmd qp cid t = some x ∧ x.capsule = c :=
  Option.map_eq_some_iff.mp found

/-- A command that brings no data, or whose data is in its capsule, runs at once (R374). -/
theorem adminGo_of_dataHere (found : nvCmd qp cid t = some x)
    (here : adminIn x.capsule = none ∧ data = [] ∨ ∃ n, adminIn x.capsule = some n ∧ nvData x.capsule n 4096 = .ok (.inCapsule data)) :
    adminGo qp cid t = adminRun qp cid data t := by
  rcases here with ⟨needs, rfl⟩ | ⟨n, needs, brought⟩
  · simp only [adminGo, found, needs]
  · simp only [adminGo, found, needs, brought]

theorem AdminTaken.stands (taken : AdminTaken set qp cid capsule c data s t) : (nvCmd qp cid t).map (·.capsule) = some c := by
  obtain ⟨_, _, _, _, _, stands, _⟩ := taken
  exact stands

/-- A capsule that is taken runs as its command. -/
theorem adminRow_of_taken (taken : AdminTaken set qp cid capsule c data s t) : adminRow set qp capsule s = adminRun qp cid data t := by
  obtain ⟨spelled, rfl, took, aborts, free, stands, here⟩ := taken
  obtain ⟨x, found, rfl⟩ := capsule_of_nvCmd stands
  have few : ¬(sqeOpcode x.capsule = 0x08 ∧ 4 < abortsOut qp t) := fun h => Nat.not_lt_of_le (aborts h.1) h.2
  simp only [adminRow, ← spelled, took, Bool.true_eq_false, if_false, if_neg few, free, Bool.false_eq_true, adminGo_of_dataHere found here]

/-- A row of the admin queue completes with what its command does. -/
theorem completes_of_adminTaken {i : Instr} (plain : ordinary i = true) (meaning : exec i s = .next (adminRow set qp capsule s))
    (taken : AdminTaken set qp cid capsule c data s t) (effect : adminRun qp cid data t = u) : Completes i s u :=
  completes_of_ordinary plain (by rw [meaning, adminRow_of_taken taken, effect])

theorem adminRun_of_fabrics (found : (nvCmd qp cid t).map (·.capsule) = some c) (opcode : sqeOpcode c = 0x7F) :
    adminRun qp cid data t = fabricsRun qp cid c data t := by
  obtain ⟨x, stands, rfl⟩ := capsule_of_nvCmd found
  simp only [adminRun, stands, if_pos opcode]

/-- What an admin command other than a fabrics command does on its controller's admin queue (Table 15-2). -/
def adminEffect (qp cid : Nat) (c data : Bytes) (k : Controller) (s : State) : State :=
  match sqeOpcode c with
  | 0x02 => getLog qp cid c k s
  | 0x06 => identify qp cid c k s
  | 0x08 => abortCmd qp cid c k s
  | 0x09 => setFeatures qp cid c data k s
  | 0x0A => getFeatures qp cid c k s
  | 0x0C => eventRequest qp cid k s
  | 0x0D =>
    match sqeDw 10 c % 16 with
    | 0 => namespaceCreate qp cid data s
    | 1 => namespaceDelete qp cid (sqeNsid c) s
    | _ => nvFail qp cid nvBadField s
  | 0x15 =>
    match sqeDw 10 c % 16 with
    | 0 => namespaceAttach qp cid (sqeNsid c) true data s
    | 1 => namespaceAttach qp cid (sqeNsid c) false data s
    | _ => nvFail qp cid nvBadField s
  | 0x18 => nvDone qp cid 0 0 s
  | _ => nvFail qp cid nvBadOpcode s

theorem adminRun_of_controller (found : (nvCmd qp cid t).map (·.capsule) = some c) (plain : sqeOpcode c ≠ 0x7F) (mine : qpCtrl qp t = some k)
    (queue : k.adminQp = qp) : adminRun qp cid data t = adminEffect qp cid c data k t := by
  obtain ⟨x, stands, rfl⟩ := capsule_of_nvCmd found
  simp only [adminRun, adminEffect, stands, if_neg plain, mine, queue, not_true_eq_false, ne_eq, if_false] <;> rfl

/-- A row of the admin queue of a controller completes with what its command does there. -/
theorem completes_of_adminRuns {i : Instr} (plain : ordinary i = true) (meaning : exec i s = .next (adminRow set qp capsule s))
    (runs : AdminRuns set qp cid capsule c data k s t) (command : sqeOpcode c ≠ 0x7F) (effect : adminEffect qp cid c data k t = u) :
    Completes i s u := by
  obtain ⟨taken, mine, queue⟩ := runs
  exact completes_of_adminTaken plain meaning taken ((adminRun_of_controller taken.stands command mine queue).trans effect)

/-- So does a fabrics command there. -/
theorem completes_of_fabricsRuns {i : Instr} (plain : ordinary i = true) (meaning : exec i s = .next (adminRow set qp capsule s))
    (runs : AdminRuns set qp cid capsule c data k s t) (opcode : sqeOpcode c = 0x7F)
    (effect : qpCtrl qp t = some k → k.adminQp = qp → fabricsRun qp cid c data t = u) : Completes i s u := by
  obtain ⟨taken, mine, queue⟩ := runs
  exact completes_of_adminTaken plain meaning taken ((adminRun_of_fabrics taken.stands opcode).trans (effect mine queue))

end Admin

/-! ## What each command does -/

section Commands

variable {qp cid : Nat} {c data : Bytes} {k : Controller} {s : State}

theorem fabricsRun_of_connect (ftype : fieldAt c 4 1 = 1) : fabricsRun qp cid c data s = connect qp cid c data s := by
  simp only [fabricsRun, ftype]

theorem fabricsRun_of_propertyGet (ftype : fieldAt c 4 1 = 4) (mine : qpCtrl qp s = some k) (queue : k.adminQp = qp) :
    fabricsRun qp cid c data s = propertyGet qp cid c k s := by
  simp only [fabricsRun, ftype, mine, if_pos queue]

theorem fabricsRun_of_propertySet (ftype : fieldAt c 4 1 = 0) (mine : qpCtrl qp s = some k) (queue : k.adminQp = qp) :
    fabricsRun qp cid c data s = propertySet qp cid c k s := by
  simp only [fabricsRun, ftype, mine, if_pos queue]

theorem fabricsRun_of_disconnect (ftype : fieldAt c 4 1 = 8) (mine : qpCtrl qp s = some k) (format : fieldAt c 40 2 = 0) :
    fabricsRun qp cid c data s = disconnect qp cid s := by
  simp only [fabricsRun, ftype, mine, if_pos format]

/-! Namespaces, by SEL (R379-R381). -/

theorem adminEffect_of_create (opcode : sqeOpcode c = 0x0D) (sel : sqeDw 10 c % 16 = 0) :
    adminEffect qp cid c data k s = namespaceCreate qp cid data s := by
  simp only [adminEffect, opcode, sel]

theorem adminEffect_of_delete (opcode : sqeOpcode c = 0x0D) (sel : sqeDw 10 c % 16 = 1) :
    adminEffect qp cid c data k s = namespaceDelete qp cid (sqeNsid c) s := by
  simp only [adminEffect, opcode, sel]

theorem adminEffect_of_attach (opcode : sqeOpcode c = 0x15) (sel : sqeDw 10 c % 16 = 0) :
    adminEffect qp cid c data k s = namespaceAttach qp cid (sqeNsid c) true data s := by
  simp only [adminEffect, opcode, sel]

theorem adminEffect_of_detach (opcode : sqeOpcode c = 0x15) (sel : sqeDw 10 c % 16 = 1) :
    adminEffect qp cid c data k s = namespaceAttach qp cid (sqeNsid c) false data s := by
  simp only [adminEffect, opcode, sel]

/-! Set Features without SV, by FID (Table 15-4). -/

theorem adminEffect_of_setFeatures (opcode : sqeOpcode c = 0x09) : adminEffect qp cid c data k s = setFeatures qp cid c data k s := by
  simp only [adminEffect, opcode]

theorem setFeatures_power (unsaved : bitOf (sqeDw 10 c) 31 = false) (fid : sqeDw 10 c % 256 = 0x02) (ps : sqeDw 11 c % 32 ≤ 3) :
    setFeatures qp cid c data k s = nvDone qp cid 0 0 (setPower k.id (sqeDw 11 c % 32) s) := by
  simp only [setFeatures, unsaved, fid, Bool.false_eq_true, if_false, if_neg (Nat.not_lt_of_le ps)]

theorem setFeatures_queues {n m : Nat} (unsaved : bitOf (sqeDw 10 c) 31 = false) (fid : sqeDw 10 c % 256 = 0x07) (first : k.granted = none)
    (unseen : k.ioSeen = false) (nsqr : sqeDw 11 c % 65536 ≠ 65535) (ncqr : sqeDw 11 c / 65536 ≠ 65535)
    (hn : n = min (sqeDw 11 c % 65536 + 1) (paramNat 0x0F02 0 s)) (hm : m = min (sqeDw 11 c / 65536 + 1) (paramNat 0x0F02 0 s)) :
    setFeatures qp cid c data k s =
      nvDone qp cid (n - 1 + 65536 * (m - 1)) 0 (modifyCtrl k.id (fun x => { x with granted := some (min n m) }) s) := by
  subst hn hm
  simp only [setFeatures, unsaved, fid, first, unseen, nsqr, ncqr, Option.isSome_none, Bool.false_eq_true, or_self, if_false]

theorem setFeatures_events {v : Nat} (unsaved : bitOf (sqeDw 10 c) 31 = false) (fid : sqeDw 10 c % 256 = 0x0B) (hv : v = sqeDw 11 c)
    (known : v % 256 + 256 * flagBit (bitOf v 8) + 2048 * flagBit (bitOf v 11) = v) :
    setFeatures qp cid c data k s = nvDone qp cid 0 0 (modifyCtrl k.id (fun x => { x with aec := v }) s) := by
  subst hv
  simp only [setFeatures, unsaved, fid, known, Bool.false_eq_true, ne_eq, not_true_eq_false, if_false]

theorem setFeatures_apst {es : List Nat} (unsaved : bitOf (sqeDw 10 c) 31 = false) (fid : sqeDw 10 c % 256 = 0x0C)
    (entries : es = (List.range 32).map (fun i => fieldAt data (8 * i) 8)) (legal : apstOk es = true) :
    setFeatures qp cid c data k s =
      nvDone qp cid 0 0 (modifyCtrl k.id (fun x => { x with apste := bitOf (sqeDw 11 c) 0, apst := es }) s) := by
  subst entries
  simp only [setFeatures, unsaved, fid, legal, Bool.false_eq_true, Bool.true_eq_false, if_false]

theorem setFeatures_keepAlive (unsaved : bitOf (sqeDw 10 c) 31 = false) (fid : sqeDw 10 c % 256 = 0x0F) (nonzero : sqeDw 11 c ≠ 0) :
    setFeatures qp cid c data k s =
      nvDone qp cid 0 0 (modifyCtrl k.id (fun x => { x with kato := (sqeDw 11 c + 999) / 1000, katoFrom := s.time.ticks }) s) := by
  simp only [setFeatures, unsaved, fid, Bool.false_eq_true, if_false, if_neg nonzero]

/-- Get Features of Power Management, current value. -/
theorem getFeatures_power (fid : sqeDw 10 c % 256 = 0x02) (sel : bitsOf (sqeDw 10 c) 10 8 = 0) :
    getFeatures qp cid c k s = nvDone qp cid k.ps 0 s := by
  have served : ¬(¬[0x02, 0x07, 0x0B, 0x0C, 0x0F].contains 0x02 ∨ 3 < 0) := by decide
  have notCapabilities : (0 : Nat) ≠ 3 := by decide
  simp only [getFeatures, fid, sel, if_neg served, if_neg notCapabilities, if_true]

/-- An event request with no event to report, and fewer than 16 before it, waits (R384). -/
theorem eventRequest_of_room (room : (s.nvme.commands.filter (fun x => x.qp == qp && x.stage == .event)).length < 16) (quiet : k.events = []) :
    eventRequest qp cid k s = modifyNvCmd qp cid (fun x => { x with stage := .event }) s := by
  simp only [eventRequest, if_neg (Nat.not_le_of_lt room), quiet]

end Commands

/-! ## A controller's timers (R372, R388) -/

section Timers

variable {id n : Nat} {k : Controller} {s : State}

theorem execKatoExpiry_of_live (live : (ctrlAt id s).isSome = true) (free : nvHolds false s = false) :
    execKatoExpiry id s = .next (endController id (countNvme (fun k => { k with katoExpired := bump k.katoExpired }) s)) := by
  have expires : ¬((ctrlAt id s).isNone = true ∨ nvHolds false s = true) := by
    rw [Option.isNone_iff_eq_none, free]
    simpa only [Bool.false_eq_true, or_false, ← Option.isSome_iff_ne_none] using live
  unfold execKatoExpiry
  rw [if_neg expires]

theorem apstIdle_of_idle (found : ctrlAt id s = some k) (enabled : k.apste = true) (entry : k.apst.getD n 0 ≠ 0) (idle : ioIdle id s = true) :
    apstIdle id n s = setPower id (bitsOf (k.apst.getD n 0) 7 3) s := by
  simp only [apstIdle, found, enabled, idle, entry, ne_eq, not_false_eq_true, and_self, if_true]

end Timers

/-! ## The way of an I/O capsule to its command (R370, R377) -/

section Io

variable {opcode qp cid : Nat} {capsule : Bytes} {f : MediaFacts} {s u : State}

/-- What an I/O command does. -/
def ioEffect (opcode qp cid : Nat) (f : MediaFacts) (s : State) : State :=
  match opcode with
  | 0 => nvFlush qp cid s
  | 2 => nvRead qp cid f s
  | _ => nvAdmit qp cid f s

theorem nvRunIo_of_command {c : Bytes} (found : (nvCmd qp cid u).map (·.capsule) = some c) (spelled : sqeOpcode c = opcode) :
    nvRunIo qp cid f u = ioEffect opcode qp cid f u := by
  obtain ⟨x, stands, rfl⟩ := capsule_of_nvCmd found
  subst spelled
  simp only [nvRunIo, stands, ioEffect] <;> rfl

/-- A capsule that is taken and not held runs as its command. -/
theorem ioRow_of_taken (taken : IoTaken opcode qp cid capsule f s u) : ioRow opcode qp capsule f s = ioEffect opcode qp cid f u := by
  obtain ⟨c, q, t, v, rfl, rfl, queue, io, owned, took, counted, free, rfl, found, spelled⟩ := taken
  rw [← nvRunIo_of_command found spelled]
  simp only [ioRow, queue, io, owned, took, ← counted, free, Option.map_some, Option.getD_some, ne_eq, not_false_eq_true, decide_true,
    Bool.and_self, Bool.true_eq_false, Bool.false_eq_true, if_false]

/-- A row of an I/O queue completes with what its command does. -/
theorem completes_of_ioTaken {i : Instr} {t : State} (plain : ordinary i = true) (meaning : exec i s = .next (ioRow opcode qp capsule f s))
    (taken : IoTaken opcode qp cid capsule f s u) (effect : ioEffect opcode qp cid f u = t) : Completes i s t :=
  completes_of_ordinary plain (by rw [meaning, ioRow_of_taken taken, effect])

end Io

/-- Settles O28: a capsule that is taken and not held runs as its command, in the branch that its opcode and operands select. -/
theorem nvmeRowsComplete : Obligations.NvmeRowsComplete := by
  refine ⟨?connect, ?propertyGet, ?ccEn, ?ccShn, ?disconnect, ?identify, ?getLogPage, ?create, ?delete, ?attach, ?detach, ?abort, ?power, ?queues,
    ?events, ?apst, ?keepAliveTimer, ?getFeatures, ?eventRequest, ?keepAlive, ?katoExpiry, ?apstIdle, ?read, ?flush, ?writes, ?compare⟩
  case connect =>
    exact fun qp id b c d s t taken opcode ftype =>
      completes_of_adminTaken rfl rfl taken ((adminRun_of_fabrics taken.stands opcode).trans (fabricsRun_of_connect ftype))
  case propertyGet =>
    exact fun qp id b c d k s t runs opcode ftype => completes_of_fabricsRuns rfl rfl runs opcode (fabricsRun_of_propertyGet ftype)
  case ccEn => exact fun qp id b c d k s t runs opcode ftype => completes_of_fabricsRuns rfl rfl runs opcode (fabricsRun_of_propertySet ftype)
  case ccShn => exact fun qp id b c d k s t runs opcode ftype => completes_of_fabricsRuns rfl rfl runs opcode (fabricsRun_of_propertySet ftype)
  case disconnect =>
    exact fun qp id b c d k s t runs opcode ftype format =>
      completes_of_fabricsRuns rfl rfl runs opcode (fun mine _ => fabricsRun_of_disconnect ftype mine format)
  case identify =>
    exact fun qp id b c d k s t runs opcode => completes_of_adminRuns rfl rfl runs (by simp [opcode]) (by simp only [adminEffect, opcode])
  case getLogPage =>
    exact fun qp id b c d k s t runs opcode => completes_of_adminRuns rfl rfl runs (by simp [opcode]) (by simp only [adminEffect, opcode])
  case create =>
    exact fun qp id b c d k s t runs opcode sel => completes_of_adminRuns rfl rfl runs (by simp [opcode]) (adminEffect_of_create opcode sel)
  case delete =>
    exact fun qp id b c d k s t runs opcode sel => completes_of_adminRuns rfl rfl runs (by simp [opcode]) (adminEffect_of_delete opcode sel)
  case attach =>
    exact fun qp id b c d k s t runs opcode sel => completes_of_adminRuns rfl rfl runs (by simp [opcode]) (adminEffect_of_attach opcode sel)
  case detach =>
    exact fun qp id b c d k s t runs opcode sel => completes_of_adminRuns rfl rfl runs (by simp [opcode]) (adminEffect_of_detach opcode sel)
  case abort =>
    exact fun qp id b c d k s t runs opcode => completes_of_adminRuns rfl rfl runs (by simp [opcode]) (by simp only [adminEffect, opcode])
  case power =>
    exact fun qp id b c d k s t runs opcode fid unsaved ps =>
      completes_of_adminRuns rfl rfl runs (by simp [opcode]) ((adminEffect_of_setFeatures opcode).trans (setFeatures_power unsaved fid ps))
  case queues =>
    exact fun qp id b c d k s t n m runs opcode fid unsaved first unseen nsqr ncqr hn hm => completes_of_adminRuns rfl rfl runs (by simp [opcode])
      ((adminEffect_of_setFeatures opcode).trans (setFeatures_queues unsaved fid first unseen nsqr ncqr hn hm))
  case events =>
    exact fun qp id b c d k s t v runs opcode fid unsaved hv known =>
      completes_of_adminRuns rfl rfl runs (by simp [opcode]) ((adminEffect_of_setFeatures opcode).trans (setFeatures_events unsaved fid hv known))
  case apst =>
    exact fun qp id b c d k s t es runs opcode fid unsaved entries legal => completes_of_adminRuns rfl rfl runs (by simp [opcode])
      ((adminEffect_of_setFeatures opcode).trans (setFeatures_apst unsaved fid entries legal))
  case keepAliveTimer =>
    exact fun qp id b c d k s t runs opcode fid unsaved nonzero => completes_of_adminRuns rfl rfl runs (by simp [opcode])
      ((adminEffect_of_setFeatures opcode).trans (setFeatures_keepAlive unsaved fid nonzero))
  case getFeatures =>
    intro qp id b c d k s t runs opcode fid sel
    exact completes_of_adminRuns rfl rfl runs (by simp [opcode]) (by simp only [adminEffect, opcode, getFeatures_power fid sel])
  case eventRequest =>
    intro qp id b c d k s t runs opcode room quiet
    exact completes_of_adminRuns rfl rfl runs (by simp [opcode]) (by simp only [adminEffect, opcode, eventRequest_of_room room quiet])
  case keepAlive =>
    exact fun qp id b c d k s t runs opcode => completes_of_adminRuns rfl rfl runs (by simp [opcode]) (by simp only [adminEffect, opcode])
  case katoExpiry => exact fun id s live free => completes_of_ordinary rfl (execKatoExpiry_of_live live free)
  case apstIdle =>
    exact fun id n s k found enabled entry idle =>
      completes_of_ordinary rfl (congrArg Host.Outcome.next (apstIdle_of_idle found enabled entry idle))
  case read => exact fun qp id b f s u taken => completes_of_ioTaken rfl rfl taken rfl
  case flush => exact fun qp id b s u taken => completes_of_ioTaken rfl rfl taken rfl
  case writes =>
    exact fun qp id b s u => ⟨fun taken => completes_of_ioTaken rfl rfl taken rfl, fun taken => completes_of_ioTaken rfl rfl taken rfl,
      fun taken => completes_of_ioTaken rfl rfl taken rfl⟩
  case compare => exact fun qp id b f s u taken => completes_of_ioTaken rfl rfl taken rfl

end Sys2Proof.Machine
end

section
/-! Sheaf's verbs at their object domain's owner (R392-R409): the way of a request to its verb, holds, and the PUT timer. -/

namespace Sys2Proof.Machine

/-! ## The way of a request to its verb (R113, R392, R393) -/

section Requests

variable {verb qp tag : Nat} {request r : Bytes} {f : MediaFacts} {dom : ObjDomain} {s t : State}

/-- What a verb does at its object domain's owner, once no check of R393 has refused it. -/
def verbEffect (verb qp tag : Nat) (dom : ObjDomain) (r : Bytes) (f : MediaFacts) (s : State) : State :=
  match verb with
  | 1 => shVersion qp tag dom r s
  | 2 => putBegin qp tag dom r s
  | 3 => putData qp tag r s
  | 4 => putCommit qp tag r s
  | 5 => putAbort qp tag r s
  | 6 => shGet qp tag dom.id r f s
  | 7 => shStat qp tag dom.id r s
  | 8 => shDelete qp tag dom r s
  | 9 => shList qp tag dom.id r s
  | 10 => shHold qp tag dom r s
  | _ => shReleaseHold qp tag dom r s

theorem shServe_of_owner (client : qp ≠ peerQp) (form : shForm dom.id r s = none) (passing : ownerPassing dom.owner s = false)
    (designated : isDesignated 2 dom.id s = false) (locked : domainLocked dom.domain s = false) (owns : ownsIngest dom.owner s = true) :
    shServe qp tag dom r f s = verbEffect (shVerb r) qp tag dom r f s := by
  simp only [shServe, verbEffect, if_neg client, form, passing, designated, locked, owns, Bool.false_eq_true, Bool.true_eq_false, and_false,
    if_false] <;> rfl

/-- A request that stands among the requests, that nothing holds and whose client the head serves, is served (Table 16-8). -/
theorem shRun_of_served (stands : (shReq qp tag s).map (·.bytes) = some r) (domain : shDomain qp r s = some dom) (alive : s.boot.mode ≠ .dump)
    (free : shMustHold qp tag dom.id r s = false) (serves : clientsServed s = true) (writable : s.boot.mode ≠ .readonly) (client : qp ≠ peerQp) :
    shRun qp tag f s = shServe qp tag dom r f s := by
  obtain ⟨x, found, rfl⟩ := Option.map_eq_some_iff.mp stands
  simp only [shRun, shBody, found, domain, if_neg alive, free, serves, writable, if_neg client, Bool.false_eq_true, Bool.true_eq_false,
    false_and, if_false]

/-- A request that is taken does what its verb does. -/
theorem sheafRow_of_runs (runs : SheafRuns verb qp tag request r f dom s t) : sheafRow verb qp request f s = verbEffect verb qp tag dom r f t := by
  obtain ⟨u, v, spelled, rfl, rfl, number, takes, landed, arrives, counted, fresh, queued, stands, domain, alive, free, serves, writable, form,
    passing, designated, locked, owns⟩ := runs
  have client : qp ≠ peerQp := by unfold peerQp; omega
  have runs := shRun_of_served (f := f) stands domain alive free serves writable client
  rw [shServe_of_owner client form passing designated locked owns, queued] at runs
  simp only [sheafRow, ← spelled, shRequest, takes, landed, arrives, ← counted, fresh, Option.getD_some, Option.isSome_none, Bool.true_eq_false,
    Bool.false_eq_true, false_and, if_true, if_false, runs, queued]

/-- A verb's row completes with what its verb does. -/
theorem completes_of_sheafRuns {i : Instr} {u : State} (plain : ordinary i = true) (meaning : exec i s = .next (sheafRow verb qp request f s))
    (runs : SheafRuns verb qp tag request r f dom s t) (effect : verbEffect verb qp tag dom r f t = u) : Completes i s u :=
  completes_of_ordinary plain (by rw [meaning, sheafRow_of_runs runs, effect])

theorem SheafRuns.owns (runs : SheafRuns verb qp tag request r f dom s t) : ownsIngest dom.owner t = true := by
  obtain ⟨_, _, _, _, _, _, _, _, _, _, _, _, _, _, _, _, _, _, _, _, _, _, owns⟩ := runs
  exact owns

end Requests

/-! ## VERSION, HOLD and RELEASE_HOLD (R394, R405, R407) -/

section Holds

variable {qp tag : Nat} {r : Bytes} {dom : ObjDomain} {o : ObjRecord} {m : Option Nat} {q : Nat} {s u : State}

theorem shVersion_of_owner (known : bitOf (fieldAt r 8 1) 0 = true) (owns : ownsIngest dom.owner s = true) :
    shVersion qp tag dom r s = shOk qp tag (packFields [(1, 1), (1, s.boot.headId), (1, s.boot.headId), (1, 0), (4, paramNat 0x1001 0 s * 1024),
      (8, if s.time.arraySet then arrayTime s else 0), (2, paramNat 0x1000 0 s)]) s := by
  simp only [shVersion, known, owns, Bool.true_eq_false, if_false, if_true]

theorem writeHold_of_place {flags until' : Nat} (placed : place (leNat (o.key.take 1) % 4) (.object { o with holdFlags := flags, holdUntil := until' })
    (takeStamp (leNat (o.key.take 1) % 4) s).2 = (q, m, u)) :
    writeHold qp tag dom.id o flags until' s = shAwait qp tag dom.id stOk (leBytes 8 until') m.toList [] u := by
  simp only [writeHold, placed]

theorem shHold_of_check (found : versionOf dom.id r s = some o) (check : holdCheck dom.id (fieldAt r 0x28 8) o.holdUntil s = .ok true) :
    shHold qp tag dom r s =
      writeHold qp tag dom.id o (o.holdFlags ||| 1) (fieldAt r 0x28 8) (countSheaf (fun k => { k with holds := bump k.holds }) s) := by
  simp only [shHold, found, check]

/-- A hold that has run out, or that of a governed domain, is cleared. -/
theorem shReleaseHold_of_clearable (found : versionOf dom.id r s = some o)
    (clearable : o.holdUntil ≤ arrayTime s ∨ scopeParam 2 dom.id 0x1003 s ≠ 0) :
    shReleaseHold qp tag dom r s = writeHold qp tag dom.id o 0 0 s := by
  have allowed : ¬(arrayTime s < o.holdUntil ∧ scopeParam 2 dom.id 0x1003 s = 0) := by
    rintro ⟨standing, compliance⟩
    rcases clearable with past | governed
    · exact Nat.not_lt_of_le past standing
    · exact governed compliance
  simp only [shReleaseHold, found, if_neg allowed]

/-- A standing hold of a compliance domain is not. -/
theorem shReleaseHold_of_compliance (found : versionOf dom.id r s = some o) (standing : arrayTime s < o.holdUntil)
    (compliance : scopeParam 2 dom.id 0x1003 s = 0) : shReleaseHold qp tag dom r s = holdRefused qp tag stAuthFailed 7 s := by
  simp only [shReleaseHold, found, standing, compliance, and_self, if_true]

end Holds

theorem sheafPutTimeout_of_open {qp put : Nat} {p : Put} {s : State} (found : putAt qp put s = some p) (free : shQuiesced 3 s = false) :
    sheafPutTimeout qp put s = tryCommits (endPut p (some 0x0E) (countSheaf (fun k => { k with expired := bump k.expired })
      (modifyConn qp (fun c => { c with expired := c.expired ++ [put] }) s))) := by
  simp only [sheafPutTimeout, found, free, Bool.false_eq_true, if_false]

/-- Settles O29: a request that is taken and not refused does what its verb does; HOLD and RELEASE_HOLD go on to write the hold. -/
theorem sheafRowsComplete : Obligations.SheafRowsComplete := by
  refine ⟨?version, ?putBegin, ?putData, ?putCommit, ?putAbort, ?get, ?stat, ?delete, ?list, ?hold, ?releaseHold, ?putTimeout⟩
  case version =>
    exact fun qp tag b r d s t runs known => completes_of_sheafRuns rfl rfl runs (shVersion_of_owner known runs.owns)
  case putBegin => exact fun qp tag b r d s t runs => completes_of_sheafRuns rfl rfl runs rfl
  case putData => exact fun qp tag b r d s t runs => completes_of_sheafRuns rfl rfl runs rfl
  case putCommit => exact fun qp tag b r d s t runs => completes_of_sheafRuns rfl rfl runs rfl
  case putAbort => exact fun qp tag b r d s t runs => completes_of_sheafRuns rfl rfl runs rfl
  case get => exact fun qp tag b r d f s t runs => completes_of_sheafRuns rfl rfl runs rfl
  case stat => exact fun qp tag b r d s t runs => completes_of_sheafRuns rfl rfl runs rfl
  case delete => exact fun qp tag b r d s t runs => completes_of_sheafRuns rfl rfl runs rfl
  case list => exact fun qp tag b r d s t runs => completes_of_sheafRuns rfl rfl runs rfl
  case hold =>
    exact fun qp tag b r d s t o m u q runs found check placed =>
      completes_of_sheafRuns rfl rfl runs ((shHold_of_check found check).trans (writeHold_of_place placed))
  case releaseHold =>
    exact fun qp tag b r d s t o m u q runs found past placed =>
      completes_of_sheafRuns rfl rfl runs ((shReleaseHold_of_clearable found (.inl past)).trans (writeHold_of_place placed))
  case putTimeout =>
    exact fun qp put s p found free => completes_of_ordinary rfl (congrArg Host.Outcome.next (sheafPutTimeout_of_open found free))

/-- Settles O51: the verb's one test, on the hold's end and the domain's HOLD_MODE. -/
theorem releaseHoldObeysHoldMode : Obligations.ReleaseHoldObeysHoldMode := by
  intro qp tag b r d s t o runs found
  constructor
  · intro allowed
    have clearable : o.holdUntil ≤ arrayTime t ∨ scopeParam 2 d.id 0x1003 t ≠ 0 :=
      allowed.imp_right fun governed => by rw [governed]; exact Nat.one_ne_zero
    exact ⟨_, _, _, rfl, completes_of_sheafRuns rfl rfl runs ((shReleaseHold_of_clearable found clearable).trans (writeHold_of_place rfl))⟩
  · exact fun standing compliance => completes_of_sheafRuns rfl rfl runs (shReleaseHold_of_compliance found standing compliance)

end Sys2Proof.Machine
end

section
/-! The control commands of the MCI (R485-R492, Table 20-13) on operands they take. -/

namespace Sys2Proof.Machine

section Bodies

variable {p : McPacket} {u : State}

/-! ## WATCH (R485) -/

theorem watchCmd_of_current {r : CmdRing} (ring : u.mci.rings[p.fetchedFrom]? = some r) (free : r.watch = none) (limit : parm p 4 4 ≤ 3600000)
    (seen : parm p 0 2 = u.hsw.attnSeq.toNat) :
    watchCmd p u = (.stands, modifyRing p.fetchedFrom (fun r =>
      { r with watch := some { tag := (refOf p).tag, attnSeen := parm p 0 2, timeout := parm p 4 4 } }) u) := by
  simp only [watchCmd, if_neg (Nat.not_lt_of_le limit), ring, Option.bind_some, free, Option.isSome_none, Bool.false_eq_true, seen, ne_eq,
    not_true_eq_false, if_false]

theorem watchCmd_of_behind {r : CmdRing} (ring : u.mci.rings[p.fetchedFrom]? = some r) (free : r.watch = none) (limit : parm p 4 4 ≤ 3600000)
    (seen : parm p 0 2 ≠ u.hsw.attnSeq.toNat) : watchCmd p u = ok [] u := by
  simp only [watchCmd, if_neg (Nat.not_lt_of_le limit), ring, Option.bind_some, free, Option.isSome_none, Bool.false_eq_true, if_false,
    if_pos seen]

/-! ## SET_MODE (R502, R511, R512) -/

theorem setMode_of_service (code : fieldAt p.params 0 1 = 1) (mode : u.boot.mode = .service) :
    setModeCommand p u = (.stands, selfReset (complete (refOf p) stOk [12#8] u)) := by
  simp only [setModeCommand, code, mode, modeCode, reduceCtorEq, if_true, if_false]

theorem setMode_of_recovery (code : fieldAt p.params 0 1 = 1) (mode : u.boot.mode = .recovery) :
    setModeCommand p u = (.stands, selfReset (ledgerWrite 0xC0 0 1 0 stOk 0 (complete (refOf p) stOk [2#8] u))) := by
  simp only [setModeCommand, code, mode, modeCode, if_true]

theorem setMode_of_dump (code : fieldAt p.params 0 1 = 0xB) (serving : servingMode u.boot.mode = true) :
    setModeCommand p u = (.stands, enterDump false (complete (refOf p) stOk [BitVec.ofNat 8 (modeCode u.boot.mode)] u)) := by
  have notBoot : (0xB : Nat) ≠ 1 := by decide
  simp only [setModeCommand, code, if_neg notBoot, serving, if_true]

theorem setMode_to_service (code : fieldAt p.params 0 1 = 0xC) (mode : u.boot.mode = .fallow ∨ u.boot.mode = .inventory) :
    setModeCommand p u = ok [BitVec.ofNat 8 (modeCode u.boot.mode)] (enterService u) := by
  have notBoot : (0xC : Nat) ≠ 1 := by decide
  have notDump : (0xC : Nat) ≠ 0xB := by decide
  simp only [setModeCommand, code, if_neg notBoot, if_neg notDump, if_true, if_pos mode]

/-! ## QUIESCE, RESUME and CANCEL (R485, R492) -/

/-- A function that QUIESCE begins to quiesce: the complexes take no further request of it. -/
def quiesceBegun (f : Nat) (s : State) : State := cipherSchedule { s with mci := { s.mci with quiescing := s.mci.quiescing ++ [f] } }

theorem quiesceCmd_of_running (nonzero : 0 < p.function.toNat) (known : functionCodes.contains p.function.toNat = true)
    (running : fullyQuiesced p.function.toNat u = false) (first : u.mci.quiescing.contains p.function.toNat = false) :
    quiesceCmd p u = if quiesceReached p.function.toNat (quiesceBegun p.function.toNat u) = true
      then ok [] (nowQuiesced p.function.toNat (quiesceBegun p.function.toNat u))
      else waitOn p (.quiesce p.function.toNat) [] (quiesceBegun p.function.toNat u) := by
  simp only [quiesceCmd, quiesceBegun, known, Nat.pos_iff_ne_zero.mp nonzero, running, first, Bool.or_true, Bool.true_eq_false, Bool.false_eq_true,
    false_and, if_false]
  rfl

theorem resumeCmd_of_quiesced {f : List (Nat × DmaFetch)} (nonzero : 0 < p.function.toNat) (known : functionCodes.contains p.function.toNat = true)
    (quiesced : u.mci.quiesced.contains p.function.toNat = true) :
    resumeCmd p f u = ok (leBytes 4 (resumeFunctions [p.function.toNat] f u).1) (resumeFunctions [p.function.toNat] f u).2 := by
  simp only [resumeCmd, known, quiesced, Nat.pos_iff_ne_zero.mp nonzero, Bool.or_true, Bool.true_eq_false, if_false]

theorem cancelCmd_of_watch {f : List (Nat × DmaFetch)} {n : Nat}
    (found : firstIndex 16 (fun n => (((u.mci.rings[n]?).bind (·.watch)).map (fun w => w.tag == parm p 0 2 % 2 ^ 15)).getD false) = some n) :
    cancelCmd p f u = ok [1] (complete { ring := n, tag := parm p 0 2 % 2 ^ 15 } stAborted []
      { u with mci := { u.mci with rings := modifyNth (fun r => { r with watch := none }) n u.mci.rings } }) := by
  simp only [cancelCmd, found]

/-! ## TIME_SET (R51, R52) -/

/-- The state in which TIME_SET has set the array time: its record and the time mark stand in the Almanac. -/
def timeTaken (t : Nat) (s : State) : State :=
  let v := almanac 0x0002 (leBytes 8 (arrayTime s) ++ leBytes 8 t)
    { s with time := { s.time with arraySet := true, arrayBase := t, arrayTick := s.time.ticks, slewing := false } }
  almanac 0x0601 (timeMark v) (hswSync v)

theorem timeSet_of_earlier (resumed : u.time.resumed = true) (set : u.time.arraySet = true) (nonzero : 0 < parm p 0 8)
    (earlier : parm p 0 8 < arrayTime u) (plain : hasAuth p = false) :
    timeSet p u = (.reply stOkInfo (leBytes 8 (arrayTime u) ++ leBytes 8 (arrayTime u)), u) := by
  have near : ¬arrayTime u + 86400000000 < parm p 0 8 := by omega
  simp only [timeSet, resumed, set, Nat.pos_iff_ne_zero.mp nonzero, plain, near, earlier, decide_false, Bool.not_true, Bool.or_self,
    Bool.true_eq_false, Bool.false_eq_true, false_and, if_false, if_true]

theorem timeSet_of_later (resumed : u.time.resumed = true) (set : u.time.arraySet = true) (nonzero : 0 < parm p 0 8)
    (later : arrayTime u ≤ parm p 0 8) (near : parm p 0 8 ≤ arrayTime u + 86400000000) (plain : hasAuth p = false) (room : markRoom u = true) :
    timeSet p u = if almEarly (timeTaken (parm p 0 8) u) = true
      then ok (leBytes 8 (arrayTime u) ++ leBytes 8 (parm p 0 8)) (timeTaken (parm p 0 8) u)
      else (.stands, almDrain (waitOn p (.almUnit (timeTaken (parm p 0 8) u).alm.newestSeq)
        (leBytes 8 (arrayTime u) ++ leBytes 8 (parm p 0 8)) (timeTaken (parm p 0 8) u)).2) := by
  simp only [timeSet, timeTaken, resumed, set, Nat.pos_iff_ne_zero.mp nonzero, plain, Nat.not_lt_of_le near, Nat.not_lt_of_le later, room,
    decide_false, Bool.not_true, Bool.or_self, Bool.true_eq_false, Bool.false_eq_true, false_and, if_false, waitOn]

/-! ## ATTN_ACK (R483) -/

theorem attnAck_of_mask (known : BitVec.ofNat 16 (parm p 0 2) &&& ~~~ attnMask = 0) (apart : bitOf (parm p 0 2) bitAlmanac = false) :
    attnAck p u = ok [] (hswSync { u with hsw := { u.hsw with attn := u.hsw.attn &&& ~~~ (BitVec.ofNat 16 (parm p 0 2)) } }) := by
  simp only [attnAck, known, apart, ne_eq, not_true_eq_false, Bool.false_eq_true, if_false]

end Bodies

/-- A started command whose body leaves it standing completes in the body's state. -/
theorem completes_of_stands {o : Nat} {c : Instr} {p : McPacket} {body : State → McEnd × State} {s u t : State} (plain : ordinary c = true)
    (start : Starts o p s u) (meaning : exec c s = .next (mciRun o p body s)) (ended : body u = (.stands, t)) : Completes c s t :=
  completes_of_starts start meaning (exec_steady c s plain) (by rw [ended]; rfl)

/-- One whose body replies is answered in the body's state. -/
theorem answers_of_reply {o : Nat} {c : Instr} {p : McPacket} {body : State → McEnd × State} {s u t : State} {status : Status} {result : Bytes}
    (plain : ordinary c = true) (start : Starts o p s u) (meaning : exec c s = .next (mciRun o p body s))
    (ended : body u = (.reply status result, t)) : Answers c p status result s t :=
  completes_of_starts start meaning (exec_steady c s plain) (by rw [ended]; rfl)

/-- Settles O9: each command's body, in the branch that the clause's operands and state select. -/
theorem controlCommandsComplete : Obligations.ControlCommandsComplete := by
  refine ⟨fun p s u start => answers_of_ok rfl start rfl rfl, fun p s u start => reports_of_answerRecords rfl start rfl rfl, ?watchCurrent,
    ?watchBehind, ?bootService, ?bootRecovery, ?dump, ?serviceFallow, ?serviceInventory, ?quiesce, ?resume,
    fun p s u start => answers_of_ok rfl start rfl rfl, ?timeEarlier, ?timeLater, ?cancel, ?attnAck⟩
  case watchCurrent =>
    exact fun p s u r start ring free limit seen => completes_of_stands rfl start rfl (watchCmd_of_current ring free limit seen)
  case watchBehind =>
    exact fun p s u r start ring free limit seen => answers_of_ok rfl start rfl (watchCmd_of_behind ring free limit seen)
  case bootService => exact fun p s u start code mode => completes_of_stands rfl start rfl (setMode_of_service code mode)
  case bootRecovery => exact fun p s u start code mode => completes_of_stands rfl start rfl (setMode_of_recovery code mode)
  case dump => exact fun p s u start code serving => completes_of_stands rfl start rfl (setMode_of_dump code serving)
  case serviceFallow =>
    exact fun p s u start code mode => answers_of_ok rfl start rfl (by rw [setMode_to_service code (.inl mode), mode]; rfl)
  case serviceInventory =>
    exact fun p s u start code mode => answers_of_ok rfl start rfl (by rw [setMode_to_service code (.inr mode), mode]; rfl)
  case quiesce =>
    intro p s u v start nonzero known running first begun
    replace begun : v = quiesceBegun p.function.toNat u := begun
    have body := quiesceCmd_of_running nonzero known running first
    rw [← begun] at body
    constructor
    · exact fun reached => answers_of_ok rfl start rfl (by rw [body, if_pos reached])
    · intro still
      exact waits_of_waitOn rfl start rfl (by rw [body, still, if_neg Bool.false_ne_true])
  case resume =>
    intro p s u f n t start nonzero known quiesced resumed
    exact answers_of_ok rfl start rfl (by rw [resumeCmd_of_quiesced nonzero known quiesced, resumed])
  case timeEarlier =>
    exact fun p s u start resumed set nonzero earlier plain =>
      answers_of_reply rfl start rfl (timeSet_of_earlier resumed set nonzero earlier plain)
  case timeLater =>
    rintro p s u v t start resumed set nonzero later near plain room rfl taken
    replace taken : t = timeTaken (parm p 0 8) u := taken
    have body := timeSet_of_later resumed set nonzero later near plain room
    rw [← taken] at body
    constructor
    · exact fun early => answers_of_ok rfl start rfl (by rw [body, if_pos early])
    · intro drained
      exact completes_of_stands rfl start rfl (by rw [body, drained, if_neg Bool.false_ne_true])
  case cancel => exact fun p s u f n start found => answers_of_ok rfl start rfl (cancelCmd_of_watch found)
  case attnAck => exact fun p s u start known apart => answers_of_ok rfl start rfl (attnAck_of_mask known apart)

end Sys2Proof.Machine
end

section
/-! The configuration commands of the MCI (R494, R495, Table 20-14) on operands they take. -/

namespace Sys2Proof.Machine

section Bodies

variable {p : McPacket} {u : State} {d : ParamDef} {v : Bytes}

/-! ## Values by ID and INDEX (R491, R495) -/

/-- A value of at most 16 bytes stands in the result. -/
theorem answerValue_of_short {pending : Bool} (short : v.length ≤ 16) :
    answerValue p pending v u = ok (leBytes 2 v.length ++ [BitVec.ofNat 8 (flagBit pending)] ++ zeros 5 ++ v) u := by
  simp only [answerValue, if_pos short]

theorem getParam_of_current (found : paramDef (parm p 0 2) = some d) (index : parm p 2 2 < scopeCount d.scope) (sel : parm p 4 1 = 0) :
    getParam p u =
      answerValue p (paramPending (parm p 0 2) (parm p 2 2) u).isSome (paramNow (parm p 0 2) (parm p 2 2) u) u := by
  simp only [getParam, found, if_neg (Nat.not_le_of_lt index), sel]

theorem setParam_of_checked (bus : p.busError = false) (value : packetValue p (parm p 4 2) = some v)
    (good : paramCheck (parm p 0 2) (parm p 2 2) v u = none) (alone : u.headland.peerPresent = false) :
    setParam p u = setAnswer (parm p 0 2) (parm p 2 2) v u := by
  simp only [setParam, bus, value, good, alone, Bool.false_eq_true, and_false, false_and, if_false]

theorem setAnswer_of_free {id index : Nat} (free : quiesceFor id index v u = []) : setAnswer id index v u = ok [0] (applyParam id index v u) := by
  simp only [setAnswer, setChecked, free]
  rfl

theorem setAnswer_of_quiesce {id index : Nat} (needs : quiesceFor id index v u ≠ []) :
    setAnswer id index v u = ok [1] (pendParam id index v u) := by
  simp only [setAnswer, setChecked, List.isEmpty_iff, if_neg needs]
  rfl

/-! ## The configuration record (R27, R494) -/

/-- The record that COMMIT_CONFIG takes down. -/
def configTaken (s : State) : ConfigRecord :=
  { head := s.boot.headId, recordNo := (s.mci.recordNo / 2 + 1) * 2 + s.boot.headId, commitTime := arrayTime s, entries := configEntries s }

theorem commitConfig_of_first (first : u.mci.lastCommit = none) :
    commitConfig p u = waitOn p (.rowCommit (configTaken u).recordNo)
      (packFields [(8, (configTaken u).recordNo), (4, (configBytes (configTaken u)).length)])
      (metaFlush (addDue (configUnits (configTaken u)) { u with mci := { u.mci with
        recordNo := (configTaken u).recordNo, lastCommit := some u.time.ticks, configInFlight := u.mci.configInFlight ++ [configTaken u] } })) := by
  simp only [commitConfig, first, Bool.false_eq_true, if_false, configTaken]

theorem configRead_of_committed {c : ConfigRecord} (committed : u.mci.committed = some c) :
    configRead p u = answerRecords p [configBytes c] [] u := by
  simp only [configRead, committed]

/-! ## Parameters of a scope (R576) -/

theorem scopeParamSet_of_legal (found : paramDef (parm p 0 2) = some d) (takes : scopeTakes d.scope (parm p 2 1) = true)
    (exist : scopeExists (parm p 2 1) (parm p 4 2) u = true) (fits : parm p 6 2 ≤ 40)
    (kind : kindAccepts d.kind (parmBytes p 8 (parm p 6 2)) = true) (notHoldMode : parm p 0 2 ≠ 0x1003) (free : d.quiesce = [])
    (host : p.fetchedFrom < peerRing) (serving : journals u = true) :
    scopeParamSet p u =
      endMirrored p (place 0 (.scopeParam ⟨parm p 2 1, parm p 4 2, parm p 0 2, parmBytes p 8 (parm p 6 2)⟩) u).2.1 [0]
        (place 0 (.scopeParam ⟨parm p 2 1, parm p 4 2, parm p 0 2, parmBytes p 8 (parm p 6 2)⟩) u).2.2 := by
  simp only [scopeParamSet, found, takes, exist, Nat.not_lt_of_le fits, kind, notHoldMode, free, Nat.not_le_of_lt host, serving, List.any_nil,
    List.isEmpty_nil, Bool.not_true, Bool.true_eq_false, Bool.false_eq_true, ne_eq, not_true_eq_false, false_and, or_self, if_false]
  rfl

theorem scopeParamGet_of_exists (found : paramDef (parm p 0 2) = some d) (takes : scopeTakes d.scope (parm p 2 1) = true)
    (exist : scopeExists (parm p 2 1) (parm p 4 2) u = true) :
    scopeParamGet p u = answerValue p (paramPending (parm p 0 2) (2 ^ 16 * parm p 2 1 + parm p 4 2) u).isSome
      (scopeNow (parm p 2 1) (parm p 4 2) (parm p 0 2) u) u := by
  simp only [scopeParamGet, found, takes, exist, Bool.true_eq_false, or_self, if_false]

end Bodies

/-- Settles O10: each command's body, in the branch that the clause's operands and state select. -/
theorem configurationCommandsComplete : Obligations.ConfigurationCommandsComplete := by
  refine ⟨?getParam, ?setNow, ?setPending, ?commit, ?read, ?scopeSet, ?scopeGet⟩
  case getParam =>
    exact fun p s u d start found index sel short =>
      answers_of_ok rfl start rfl ((getParam_of_current found index sel).trans (answerValue_of_short short))
  case setNow =>
    exact fun p s u v start bus value good alone free =>
      answers_of_ok rfl start rfl ((setParam_of_checked bus value good alone).trans (setAnswer_of_free free))
  case setPending =>
    exact fun p s u v start bus value good alone needs =>
      answers_of_ok rfl start rfl ((setParam_of_checked bus value good alone).trans (setAnswer_of_quiesce needs))
  case commit =>
    rintro p s u no c start first rfl rfl
    exact waits_of_waitOn rfl start rfl (commitConfig_of_first first)
  case read => exact fun p s u c start committed => reports_of_answerRecords rfl start rfl (configRead_of_committed committed)
  case scopeSet =>
    exact fun p s u d start found takes exist fits kind notHoldMode free host serving =>
      answersMirrored_of_endMirrored rfl start rfl (scopeParamSet_of_legal found takes exist fits kind notHoldMode free host serving)
  case scopeGet =>
    exact fun p s u d start found takes exist short =>
      answers_of_ok rfl start rfl ((scopeParamGet_of_exists found takes exist).trans (answerValue_of_short short))

end Sys2Proof.Machine
end

section
/-! The MCI's rings and registers and the rows its commands wait for (R475-R499, R503, R507, R536-R540). -/

namespace Sys2Proof.Machine

/-! ## BAR0 (R475-R478, Tables 20-1 to 20-3) -/

section Registers

variable {n off v : Nat} {r : CmdRing} {s : State}

theorem registerWrite_of_lane (up : s.mci.perstLow = false) (aligned : off % 4 = 0) : registerWrite off 4 v s = barLane off (v % 2 ^ 32) s := by
  simp only [registerWrite, up, aligned, and_self, Bool.false_eq_true, if_false, if_true]

/-- A 64-bit write is one of its low lane and one of its high lane. -/
theorem registerWrite_of_pair (up : s.mci.perstLow = false) (aligned : off % 8 = 0) :
    registerWrite off 8 v s = barLane (off + 4) (v / 2 ^ 32 % 2 ^ 32) (barLane off (v % 2 ^ 32) s) := by
  simp only [registerWrite, up, aligned, and_true, Bool.false_eq_true, Nat.reduceEqDiff, false_and, if_false, if_true]

theorem registerRead_of_lane (aligned : off % 4 = 0) : registerRead off 4 s = barLaneRead off s := by
  simp only [registerRead, aligned, and_self, if_true]

/-- A lane of a command ring's block. -/
theorem registerRead_ring {o : Nat} (found : s.mci.rings[n]? = some r) (ring : n < 16) (lane : off = 0x1000 + 32 * n + o) (inside : o < 32)
    (aligned : o % 4 = 0) :
    registerRead off 4 s = ringRead o r.base r.size r.tail r.head r.enable r.fault true r.fetched.isEmpty := by
  have block : (off - 0x1000) / 32 = n := by omega
  have field : off % 32 = o := by omega
  have here : 0x1000 ≤ off ∧ off < 0x1200 := by omega
  have notFront : ¬(0x0010 ≤ off ∧ off < 0x0020) := by omega
  have apart : off ≠ 0 ∧ off ≠ 4 ∧ off ≠ 8 ∧ off ≠ 0xC := by omega
  obtain ⟨ne0, ne4, ne8, neC⟩ := apart
  rw [registerRead_of_lane (by omega)]
  simp only [barLaneRead, if_neg ne0, if_neg ne4, if_neg ne8, if_neg neC, if_neg notFront, if_pos here, block, field, found, Option.map_some,
    Option.getD_some]

/-- A lane of a control-host channel's block. -/
theorem registerRead_channel {o : Nat} (channel : n < 16) (lane : off = 0x2000 + 32 * n + o) (inside : o < 32) (aligned : o % 4 = 0) :
    registerRead off 4 s = channelRead o (dmaAt (240 + n) s) := by
  have block : (off - 0x2000) / 32 = n := by omega
  have field : off % 32 = o := by omega
  have here : 0x2000 ≤ off ∧ off < 0x2200 := by omega
  have notFront : ¬(0x0010 ≤ off ∧ off < 0x0020) := by omega
  have notRing : ¬(0x1000 ≤ off ∧ off < 0x1200) := by omega
  have notReply : ¬(0x1200 ≤ off ∧ off < 0x1220) := by omega
  have apart : off ≠ 0 ∧ off ≠ 4 ∧ off ≠ 8 ∧ off ≠ 0xC := by omega
  obtain ⟨ne0, ne4, ne8, neC⟩ := apart
  rw [registerRead_of_lane (by omega)]
  simp only [barLaneRead, if_neg ne0, if_neg ne4, if_neg ne8, if_neg neC, if_neg notFront, if_neg notRing, if_neg notReply, if_pos here, block,
    field]

/-- While PERST_N is high, what the host does reaches the head. -/
theorem fromHost_of_up {f : State → State} (up : s.mci.perstLow = false) : fromHost f s = f s := by
  simp only [fromHost, up, Bool.false_eq_true, if_false]

variable {tail : Nat} {xs : List McSlot}

theorem doorbell_of_high (found : s.mci.rings[n]? = some r) (high : r.size ≤ tail) :
    doorbell n tail xs s = { s with mci := { s.mci with badDoorbells := bump s.mci.badDoorbells } } := by
  simp only [doorbell, found, if_pos high]

theorem doorbell_of_tail (found : s.mci.rings[n]? = some r) (inRing : tail < r.size) (alive : s.boot.mode ≠ .dump) :
    doorbell n tail xs s = fetchSlots n xs (modifyRing n (fun x => { x with tail := tail }) s) := by
  simp only [doorbell, found, if_neg (Nat.not_le_of_lt inRing), if_neg alive]

theorem ringControl_on (ready : s.boot.ready = true) :
    ringControl n true s = modifyRing n (fun r => { r with enable := true, head := 0, tail := 0 }) s := by
  simp only [ringControl, ready, Bool.true_eq_false, if_false]

theorem replyControl_on (ready : s.boot.ready = true) :
    replyControl true s = drainHeld (modifyReply (fun r => { r with enable := true, head := 0, tail := 0, phase := true }) s) := by
  simp only [replyControl, ready, Bool.true_eq_false, if_false]

/-- RING_ENABLE of a command ring; ring 16 is the reply ring. -/
theorem execRingEnable_of_command (ready : s.boot.ready = true) (up : s.mci.perstLow = false) (ring : n < 16) :
    execRingEnable n s = .next (modifyRing n (fun r => { r with enable := true, head := 0, tail := 0 }) s) := by
  rw [execRingEnable, if_neg (Nat.ne_of_lt ring), fromHost_of_up up, ringControl_on ready]

theorem execRingEnable_of_reply (ready : s.boot.ready = true) (up : s.mci.perstLow = false) :
    execRingEnable 16 s = .next (drainHeld (modifyReply (fun r => { r with enable := true, head := 0, tail := 0, phase := true }) s)) := by
  rw [execRingEnable, if_pos rfl, fromHost_of_up up, replyControl_on ready]

theorem execRingDisable_of_command (up : s.mci.perstLow = false) (ring : n < 16) :
    execRingDisable n s = .next (modifyRing n (fun r => { r with enable := false }) s) := by
  rw [execRingDisable, if_neg (Nat.ne_of_lt ring), fromHost_of_up up]
  rfl

theorem execRingDisable_of_reply (up : s.mci.perstLow = false) :
    execRingDisable 16 s = .next (modifyReply (fun r => { r with enable := false }) s) := by
  rw [execRingDisable, if_pos rfl, fromHost_of_up up]
  rfl

end Registers

/-! ## What commands wait for (R485, R492, R525, R542) -/

section Rows

variable {n f row : Nat} {s u : State}

theorem execWatchTimeout_of_watch {r : CmdRing} {w : Watch} (found : s.mci.rings[n]? = some r) (watching : r.watch = some w)
    (limited : w.timeout ≠ 0) :
    execWatchTimeout n s =
      .next (complete { ring := n, tag := w.tag } stOkInfo [] (modifyRing n (fun r => { r with watch := none }) s)) := by
  simp only [execWatchTimeout, found, Option.bind_some, watching, if_neg limited]

theorem execQuiesceComplete_of_reached (quiescing : s.mci.quiescing.contains f = true) (reached : quiesceReached f s = true) :
    execQuiesceComplete f s = .next (nowQuiesced f s) := by
  simp only [execQuiesceComplete, quiescing, reached, and_self, if_true]

/-- The commit of a row that carries an ALMANAC unit and stands no longer. -/
theorem execAlmanacUnitCommit_of_row {r : MetaRow} (found : s.journal.rows.find? (fun x => x.id == row) = some r)
    (almanac : r.units.any (fun u => u.utype == 11) = true) (committed : u = rowCommit row s)
    (gone : u.journal.rows.any (fun x => x.id == row) = false) :
    execAlmanacUnitCommit row s = .next (hswSync (afterRows (almUnits r.units (configCommitted r.units u)))) := by
  have id : (r.id == row) = true := List.find?_some (p := fun (x : MetaRow) => x.id == row) found
  have named : s.journal.rows.any (fun x => x.id == row && x.units.any (fun u => u.utype == 11)) = true :=
    List.any_eq_true.mpr ⟨r, List.mem_of_find?_eq_some found, Bool.and_eq_true_iff.mpr ⟨id, almanac⟩⟩
  subst committed
  simp only [execAlmanacUnitCommit, if_pos named, metadataRowCommit, found, gone, Bool.false_eq_true, if_false]

/-- The first sector that is overwritten holds the old image's manifest. -/
theorem fwOverwrite_of_first {m : Bytes} (found : s.fw.manifest = some m) (activating : s.fw.state = 3) (step : s.fw.step = 3)
    (first : s.fw.sectors = 0) :
    fwOverwrite s = fwTargetSet (fwKind m) (fun i => { i with manifest := none }) (modifyFw (fun f => { f with sectors := 1 }) s) := by
  simp only [fwOverwrite, found, activating, step, first, ne_eq, not_true_eq_false, or_self, if_false, if_true, Nat.zero_add]

end Rows

/-- Settles O31: each access to BAR0 and each row, in the branch that the clause's operands and state select. -/
theorem ringRowsComplete : Obligations.RingRowsComplete := by
  refine ⟨?write4, ?write8, fun s => ⟨rfl, rfl, rfl⟩, ?readRing, ?readChannel, ?doorbellHigh, ?doorbell, ?replyHead, ?enable, ?enableReply, ?disable,
    ?disableReply, ?watchTimeout, ?quiesceComplete, fun _ _ => completes_of_ordinary rfl rfl, fun _ _ => completes_of_ordinary rfl rfl,
    fun _ => completes_of_ordinary rfl rfl, ?almanacCommit, ?overwrite⟩
  case write4 =>
    exact fun off v s up aligned => completes_of_ordinary rfl (congrArg Host.Outcome.next (registerWrite_of_lane up aligned))
  case write8 =>
    exact fun off v s up aligned => completes_of_ordinary rfl (congrArg Host.Outcome.next (registerWrite_of_pair up aligned))
  case readRing =>
    intro n s r found ring
    exact ⟨registerRead_ring (o := 0x08) found ring (by omega) (by decide) rfl, registerRead_ring (o := 0x0C) found ring (by omega) (by decide) rfl,
      registerRead_ring (o := 0x10) found ring (by omega) (by decide) rfl, registerRead_ring (o := 0x14) found ring (by omega) (by decide) rfl⟩
  case readChannel =>
    rintro n c s channel rfl
    exact ⟨registerRead_channel (o := 0x10) channel (by omega) (by decide) rfl, registerRead_channel (o := 0x18) channel (by omega) (by decide) rfl⟩
  case doorbellHigh =>
    exact fun n tail xs s r found up high =>
      completes_of_ordinary rfl (congrArg Host.Outcome.next ((fromHost_of_up up).trans (doorbell_of_high found high)))
  case doorbell =>
    exact fun n tail xs s r found up inRing alive =>
      completes_of_ordinary rfl (congrArg Host.Outcome.next ((fromHost_of_up up).trans (doorbell_of_tail found inRing alive)))
  case replyHead => exact fun head s up => completes_of_ordinary rfl (congrArg Host.Outcome.next (fromHost_of_up up))
  case enable => exact fun n s ready up ring => completes_of_ordinary rfl (execRingEnable_of_command ready up ring)
  case enableReply => exact fun s ready up => completes_of_ordinary rfl (execRingEnable_of_reply ready up)
  case disable => exact fun n s up ring => completes_of_ordinary rfl (execRingDisable_of_command up ring)
  case disableReply => exact fun s up => completes_of_ordinary rfl (execRingDisable_of_reply up)
  case watchTimeout =>
    exact fun n s r w found watching limited => completes_of_ordinary rfl (execWatchTimeout_of_watch found watching limited)
  case quiesceComplete =>
    exact fun f s quiescing reached => completes_of_ordinary rfl (execQuiesceComplete_of_reached quiescing reached)
  case almanacCommit =>
    exact fun row s r u found almanac committed gone => completes_of_ordinary rfl (execAlmanacUnitCommit_of_row found almanac committed gone)
  case overwrite =>
    exact fun s m found activating step first =>
      completes_of_ordinary rfl (congrArg Host.Outcome.next (fwOverwrite_of_first found activating step first))

end Sys2Proof.Machine
end

section
/-! The Almanac, firmware, telemetry, event and ticket-dump commands of the MCI (R528-R545, R547-R552, Table 20-14) on operands they take. -/

namespace Sys2Proof.Machine

section Bodies

variable {p : McPacket} {u t : State}

/-! ## The Almanac (R530, R531) -/

/-- ALMANAC_READ of sequenced records, from one that still stands on. -/
theorem almanacRead_of_held {asked fit : List (AlmRecord × Bytes)} (notBoot : u.boot.mode ≠ .boot) (notRecovery : u.boot.mode ≠ .recovery)
    (held : u.alm.oldestSeq ≤ parm p 0 8) (records : asked = (readable (parm p 0 8) u.alm).take (parm p 8 4))
    (fits : fit = readFit (parm p 8 4) (4096 * p.dataPages.toNat) asked) :
    almanacRead p u = answerRecords p (asked.map (·.2)) (packFields [(4, fit.length), (8, (fit.getLast?.map (·.1.seq + 1)).getD (parm p 0 8)),
      (8, u.alm.oldestSeq)]) (raiseReadMark p fit u) := by
  subst fits records
  simp only [almanacRead, notBoot, notRecovery, or_self, if_false, if_neg (Nat.not_lt_of_le held)]

/-- ALMANAC_CLEAR with the staging queue and room in it: its record is staged, and the drain writes it. -/
theorem almanacClear_of_room (late : almEarly u = false) (ready : u.alm.queueReady = true) (room : stagedBytes u.alm + almLen 36 ≤ stagingSize)
    (sequenced : u.alm.newestSeq < almLastSeq) (staged : t = almStage 0x0603 (clearBody p (min (parm p 0 8) u.alm.newestSeq) u.alm) u) :
    almanacClear p u = (.stands, almDrain (waitOn p (.almUnit t.alm.newestSeq) [] t).2) := by
  subst staged
  simp only [almanacClear, late, ready, Nat.not_lt_of_le room, Nat.not_le_of_lt sequenced, Bool.false_eq_true, Bool.true_eq_false, or_self,
    if_false, waitOn]

/-! ## Firmware (R534-R540) -/

/-- FW_MANIFEST_PUT of a manifest that would be taken: a signature that fails is the only thing that can turn it away. -/
theorem fwManifestPut_of_taken (idle : u.fw.state ≠ 3) (bus : p.busError = false) (notBoot : u.boot.mode ≠ .boot) (nonempty : 0 < parm p 0 4)
    (fits : parm p 0 4 ≤ 65536) (media : mediaOk (p.data.take (parm p 0 4)) = true) (fresh : u.fw.manifest = none)
    (taken : fwTake (p.data.take (parm p 0 4)) u = some t) :
    fwManifestPut p u = if fwSigned (p.data.take (parm p 0 4)) = true
      then ok [] (fwSync (updateAttn (fwManifestRecord (p.data.take (parm p 0 4)) true t)))
      else refuse stAuthFailed (fwManifestRecord (p.data.take (parm p 0 4)) false u) := by
  have length : ¬(parm p 0 4 = 0 ∨ 65536 < parm p 0 4) := by omega
  cases signed : fwSigned (p.data.take (parm p 0 4)) with
  | _ =>
    simp only [fwManifestPut, idle, bus, notBoot, if_neg length, signed, media, fresh, taken, Bool.false_eq_true, Bool.true_eq_false, if_false,
      if_true]

theorem piecePut_of_missing {m : Bytes} (idle : u.fw.state ≠ 3) (bus : p.busError = false) (found : u.fw.manifest = some m)
    (piece : parm p 0 4 < fwCount m) (intact : fwMatches m (parm p 0 4) (p.data.take (fwPieceLen m (parm p 0 4))) = true)
    (missing : lookup (parm p 0 4) u.fw.pieces = none) :
    piecePut p u = fwStore p m (parm p 0 4) (p.data.take (fwPieceLen m (parm p 0 4))) u := by
  simp only [piecePut, idle, bus, found, Nat.not_le_of_lt piece, intact, missing, Option.isSome_none, Bool.false_eq_true, Bool.true_eq_false,
    if_false]

theorem fwStatus_of_host (host : p.fetchedFrom < peerRing) : fwStatus p u = answerRecords p [fwReport u] (fwResult u) u := by
  simp only [fwStatus, if_neg (Nat.not_le_of_lt host)]

/-- FW_ACTIVATE of a whole image in an ACTIVE head without a peer begins the activation. -/
theorem fwActivate_of_active {m : Bytes} {bad : List Nat} (found : u.fw.manifest = some m) (whole : u.fw.state = 2)
    (free : u.mci.waits.any (fun w => w.kind == .activation) = false) (mode : fwMode u = .active) (alone : u.headland.peerPresent = false) :
    fwActivate p bad u = (.stands, fwBegin m bad (waitOn p .activation [] u).2) := by
  simp only [fwActivate, found, whole, free, mode, alone, ne_eq, not_true_eq_false, Bool.false_eq_true, reduceCtorEq, false_and, and_false,
    if_false, waitOn]

theorem fwDiscard_of_staged {m : Bytes} (found : u.fw.manifest = some m) (idle : u.fw.state ≠ 3) :
    fwDiscard u = ok [] (fwForget (fwSupersede (fun r => r.imageId == fwId m && r.kind != 3 && !fwActivated r u)
      ((List.range (fwCount m)).foldl (fun st n => endWaits (.fwPiece n) (some stAborted) none st) u))) := by
  simp only [fwDiscard, found, if_neg idle]

/-! ## Telemetry, events and tickets (R110, R498, R499) -/

theorem telemetryGet_of_group {n : Nat} (group : groupSize (parm p 0 1) = some n) (nonempty : 0 < parm p 2 1)
    (exist : parm p 1 1 + parm p 2 1 ≤ n) :
    telemetryGet p u =
      answerRecords p ((List.range (parm p 2 1)).map (fun k => telemetryRecord (parm p 0 1) (parm p 1 1 + k) u)) [] u := by
  have legal : ¬(parm p 2 1 = 0 ∨ n < parm p 1 1 + parm p 2 1) := by omega
  simp only [telemetryGet, group, if_neg legal]

/-- The state in which EVENT_READ has taken this many entries from the queue. -/
def eventsTaken (n : Nat) (s : State) : State := tellDropped { s with mci := { s.mci with events := s.mci.events.drop n } }

theorem eventRead_of_queued (bus : p.busError = false) (queued : parm p 0 2 ≤ u.mci.events.length) (fits : parm p 0 2 ≤ 128 * p.dataPages.toNat) :
    eventRead p u = ok (leBytes 2 (parm p 0 2) ++ leBytes 2 (eventsTaken (parm p 0 2) u).mci.events.length)
      (hswSync (bufferWrite p ((u.mci.events.take (parm p 0 2)).flatMap eventBytes) (eventsTaken (parm p 0 2) u))) := by
  simp only [eventRead, eventsTaken, bus, Nat.min_eq_left queued, Nat.min_eq_left fits, Bool.false_eq_true, if_false, if_true, ok]

theorem ticketDump_of_queue (harrow : parm p 0 1 < 32) (prio : parm p 1 1 < 4) (slot : parm p 4 4 < 2 ^ 19) :
    ticketDump p u = answerRecords p ((sortByKey (fun (t : Ticket) => [(refSlot t.ref : Int)])
      ((queueAt (parm p 0 1) (parm p 1 1) u).filter (fun t => decide (parm p 4 4 ≤ refSlot t.ref)))).map ticketBytes) [] u := by
  have legal : ¬(32 ≤ parm p 0 1 ∨ 4 ≤ parm p 1 1 ∨ 2 ^ 19 ≤ parm p 4 4) := by omega
  simp only [ticketDump, if_neg legal]

end Bodies

/-- Settles O12: each command's body, in the branch that the clause's operands and state select. -/
theorem recordCommandsComplete : Obligations.RecordCommandsComplete := by
  refine ⟨fun p s u start => reports_of_answerRecords rfl start rfl rfl, ?read, ?clear, ?manifestPut, ?piecePut, ?fwStatus, ?activate, ?discard,
    ?telemetryGet, fun p s u start => answers_of_ok rfl start rfl rfl, ?eventRead,
    fun p s u start => reports_of_answerRecords rfl start rfl rfl, ?ticketDump⟩
  case read =>
    exact fun p s u asked fit start notBoot notRecovery held records fits =>
      reports_of_answerRecords rfl start rfl (almanacRead_of_held notBoot notRecovery held records fits)
  case clear =>
    rintro p s u n t start late ready room sequenced rfl staged
    exact completes_of_stands rfl start rfl (almanacClear_of_room late ready room sequenced staged)
  case manifestPut =>
    intro p s u t start idle bus notBoot nonempty fits media fresh taken
    have body := fwManifestPut_of_taken idle bus notBoot nonempty fits media fresh taken
    refine completes_of_starts start rfl (exec_steady _ s rfl) ?_
    rw [body]
    split
    · rfl
    · rfl
  case piecePut =>
    exact fun p s u m start idle bus found piece intact missing => completes_of_starts start rfl (exec_steady _ s rfl)
      (congrArg (endCommand p) (piecePut_of_missing idle bus found piece intact missing))
  case fwStatus => exact fun p s u start host => reports_of_answerRecords rfl start rfl (fwStatus_of_host host)
  case activate =>
    exact fun p s u m bad start found whole free mode alone =>
      completes_of_stands rfl start rfl (fwActivate_of_active found whole free mode alone)
  case discard => exact fun p s u m start found idle => answers_of_ok rfl start rfl (fwDiscard_of_staged found idle)
  case telemetryGet =>
    exact fun p s u n start group nonempty exist => reports_of_answerRecords rfl start rfl (telemetryGet_of_group group nonempty exist)
  case eventRead => exact fun p s u start bus queued fits => answers_of_ok rfl start rfl (eventRead_of_queued bus queued fits)
  case ticketDump =>
    exact fun p s u start harrow prio slot => reports_of_answerRecords rfl start rfl (ticketDump_of_queue harrow prio slot)

end Sys2Proof.Machine
end
